-- ==== Sys2Proof/Word.lean ====
section
/-! DEFINITION. The word types of the GV7200: 32-bit words, bytes, and a word with its poison tag (R12, R34). -/

namespace Sys2Proof

/-- A 32-bit little-endian word (R12). -/
abbrev Word := BitVec 32

/-- One byte of memory. -/
abbrev Byte := BitVec 8

/-- A 32-bit word beside its poison tag (R34). -/
structure PWord where
  val : Word
  poison : Bool
  deriving DecidableEq, Repr

/-- The untagged zero word, which unwritten registers and memory hold (R34, R359). -/
abbrev PWord.zero : PWord := ⟨0, false⟩

end Sys2Proof
end

