-- ==== Sys2Proof/Config.lean ====
section
/-! DEFINITION. Values an implementation fixes and values the spec leaves open. No constant here has a body that a proof can
use: a statement that holds, holds whatever they are. -/

namespace Sys2Proof

/-- IDN_SERIAL, fused (R9). Log entry 6. -/
opaque Config.serial : BitVec 64

/-- IDN_STEP [15:0], fused (R9). Log entry 6. -/
opaque Config.step : BitVec 16

/-- The MAC address of port 0, fused; port p holds it plus p (R335, R488). Log entry 6. -/
opaque Config.mac : BitVec 48

/-- A free 32-bit value, drawn at a position of the counter `draws` (log entry 3). -/
opaque Config.freeWord : Nat → Word

/-- A free number, drawn at a position of the counter `draws` (log entry 3). -/
opaque Config.freeNat : Nat → Nat

/-- Whether a core that reads a memory word while a delivery to it is pending sees the new value: drawn at a position of the counter
`draws`, for each word (R41; log entry 3). -/
opaque Config.seesNew : Nat → Nat → Bool

/-- vexp2 of a finite FP32 word. The spec fixes the function on every part but not its values (R76, R135). Log entry 14. -/
opaque Config.vexp2 : Word → Word

/-- vrcp of a finite non-zero FP32 word. Log entry 14. -/
opaque Config.vrcp : Word → Word

/-- vrsqrt of a finite positive FP32 word. Log entry 14. -/
opaque Config.vrsqrt : Word → Word

/-- vexp2, vrcp and vrsqrt on BF16 lanes (R75, R135). Log entry 14. -/
opaque Config.vexp2B : BitVec 16 → BitVec 16
opaque Config.vrcpB : BitVec 16 → BitVec 16
opaque Config.vrsqrtB : BitVec 16 → BitVec 16

/-- The draw in W of a region in retention, on which R365 rests and which the spec does not give. Log entry 111. -/
opaque Config.retentionDraw : Nat → Nat

/-- SHA-384 of a string given as words (R432). Log entry 15. -/
opaque Config.sha384 : List Word → List Word

/-- The bytes that blocks 1 and 2 of GET_MEASUREMENTS digest: Tambour ROM (1) and MMC firmware (2), which the spec does not give. Log
entry 15. -/
opaque Config.firmware : Nat → List Word

/-- SPDM answers made of keys and certificates: the words returned for a request kind, an index and a nonce
(R431, R432). Log entry 15. -/
opaque Config.spdmBytes : Nat → Nat → BitVec 256 → List Word

end Sys2Proof
end

