-- ==== Sys2Proof/Syntax.lean ====
section
/-! DEFINITION. The commands of the block: one constructor of `Instr` for each row of spec/opcode_table.json, with the
operands the spec's rule for that row gives it, and the types of those operands. -/

namespace Sys2Proof

/-- A logical core (x, y) (R17, R18). -/
structure CoreId where
  x : Fin 1022
  y : Fin 1080
  deriving DecidableEq, Repr

/-- A virtual function, that is partition `p.val + 1` (R338). -/
abbrev Vf := Fin 16
/-- A PCIe function: 0 the PF, 1 to 16 the VFs (R337). -/
abbrev Func := Fin 17
/-- An edge stream engine (R279). -/
abbrev Engine := Fin 48
/-- A field, index fy × 7 + fx (R224). -/
abbrev Field := Fin 84
/-- A weight port (R309). -/
abbrev Port := Fin 8
/-- A half-field by region index (R369). -/
abbrev HalfField := Fin 168
/-- A power region (R370). -/
abbrev Region := Fin 208

/-- A source of acknowledged packets (R200). -/
inductive Node where
  | core (c : CoreId)
  | engine (e : Engine)
  | slice (f : Field)
  deriving DecidableEq, Repr

/-- The shifts of shifti (R66). -/
inductive ShiftKind where
  | sll | srl | sra
  deriving DecidableEq, Repr

/-- Lane types (R73). -/
inductive LaneTy where
  | fp32 | bf16 | i32 | i16 | i8 | u8
  deriving DecidableEq, Repr

/-- The wide side of a conversion (R136). -/
inductive Wide where
  | fp32 | bf16
  deriving DecidableEq, Repr

/-- The narrow formats 0x0 to 0x6 of R95. -/
inductive NFmt where
  | gt2 | e2m1 | e3m2 | e2m3 | e4m3 | e5m2 | int8
  deriving DecidableEq, Repr

/-- A flash read that a rebuild made on another controller: the refresh unit read, and whether a page of it was past its retention
margin (R261, R263). -/
structure FlashRead where
  ctl : Fin 16
  unit : Nat
  margin : Bool
  deriving DecidableEq, Repr

/-- What came back with a tier piece (R243, R261, R263, R438): corrected units, an uncorrectable T2 unit, the flash
refresh unit read, a page that failed its ECC, a rebuild that failed, a page past its retention margin, and the reads of other controllers
where the unit was rebuilt. -/
structure PieceResult where
  ce : Nat
  ue : Bool
  unit : Nat
  eccFail : Bool
  rebuildFail : Bool
  margin : Bool
  others : List FlashRead
  deriving DecidableEq, Repr

/-- What a scrub found: module addresses of corrected and of uncorrectable units (R438). -/
structure ScrubResult where
  ce : List Nat
  ue : List Nat
  deriving DecidableEq, Repr

/-- Wear of one weight-store controller as measured (R277). -/
structure Wear where
  ctl : Fin 16
  used : Nat
  spare : Nat
  exhausted : Bool
  deriving DecidableEq, Repr

/-- A received frame with the outcome of the MAC's own checks (R309, R310, R315, R318). `parityBad` names the words whose parity fails
when the queue is read, the eight words of the header first (R316). -/
structure Frame where
  standard : Bool
  fcsOk : Bool
  icvOk : Bool
  pcp : BitVec 3
  src : BitVec 128
  dport : BitVec 16
  hdr : List Word
  pay : List Byte
  parityBad : List Nat
  deriving DecidableEq, Repr

/-- How a host read request ended (R344, R345, R352). -/
inductive CplStatus where
  | success | failed | expired
  deriving DecidableEq, Repr

/-- A completion of a command's host reads: the tag it carries and its words (R353). -/
structure HostCpl where
  status : CplStatus
  tag : Nat
  words : List PWord
  deriving DecidableEq, Repr

/-- The rails of a region (R366, R413). -/
inductive Rail where
  | logic | near | stack | links | mif
  deriving DecidableEq, Repr

/-- A request on an edge link: a width or a retrain (R376, R377). -/
inductive LinkReq where
  | width (w : BitVec 2)
  | retrain
  deriving DecidableEq, Repr

/-- Sensor classes of R388. -/
inductive SensorCls where
  | junction | memJunction | rail | current | converter | busbar
  deriving DecidableEq, Repr

/-- One sample of one sensor: class, region or unit, index, value in tenths of a degree, mV, mA or 10 W (R388). -/
structure Sample where
  cls : SensorCls
  region : Nat
  idx : Nat
  value : Int
  deriving DecidableEq, Repr

/-- A set-point the Tambour's firmware writes in a cycle (R367). -/
structure SetPoint where
  region : Region
  rail : Rail
  mv : Nat
  deriving DecidableEq, Repr

/-- A sensor whose bond cluster carries at least 20 % less current than its rail's mean in this cycle; how far it reads below its rail's
median is the hub's to say (R373, R389). -/
structure LowSensor where
  region : Region
  rail : Rail
  sensor : Fin 16
  deriving DecidableEq, Repr

/-- What the active Tambour reads and decides in one cycle where no rule fixes the decision: the writes its firmware
proposes, checked by the rules, the chiplets whose tiers the streams use at their present rates (R381), and the fault latches read (R372,
R373, R390). What its sensors say it reads from the hub (R389). -/
structure CycleIn where
  setpoints : List SetPoint
  links : List (Region × LinkReq)
  leverPark : List HalfField
  leverUnpark : List HalfField
  floorKw : BitVec 16
  shortfall : Bool
  busy : List Region
  low : List LowSensor
  overcurrent : List (Region × Rail)
  lost : List (Region × BitVec 4)
  ctlLost : List (Fin 16)
  stackLost : List (Fin 24)
  bank : List (CoreId × Bool × Fin 8)
  overrun : Bool
  deriving DecidableEq, Repr

/-- Why the standby takes the token (R397); `setpoint` names the write that the standby has found. -/
inductive TakeoverWhy where
  | heartbeat | overrun | ecc
  | setpoint (w : SetPoint)
  deriving DecidableEq, Repr

/-- Who starts a safe stop (R394, R399, R462, R469, R481). -/
inductive StopBy where
  | trip (r : Region)
  | tambour | mmc
  deriving DecidableEq, Repr

/-- A sideband bus: the SMBus, or SMB2 on MF2 and MF3 (R471, R473). -/
inductive Bus where
  | smb | smb2
  deriving DecidableEq, Repr

/-- A requester with its own staging and selector registers (R378, R477). -/
inductive Staging where
  | pf
  | bus (b : Bus)
  deriving DecidableEq, Repr

/-- A record of the defect map (R413). -/
structure DefectRec where
  kind : BitVec 4
  pending : Bool
  source : BitVec 3
  unit : BitVec 8
  loc : Word
  time : BitVec 64
  deriving DecidableEq, Repr

/-- A defect a test found, before it is recorded: kind, unit, w1 (R413). -/
structure Finding where
  kind : BitVec 4
  unit : BitVec 8
  loc : Word
  deriving DecidableEq, Repr

/-- A report of a tester on a neighbour: tester, neighbour, core passed, router passed (R406). Physical places are
PY × 1,050 + PX. -/
structure NeighbourReport where
  tester : Nat
  target : Nat
  corePass : Bool
  routerPass : Bool
  deriving DecidableEq, Repr

/-- What the power-up test found (R405 to R408, R411, R418): among it whether the CRC of the MMC's copy of the defect map holds, and
that of the weight store's copy (R414). -/
structure PowerUpResult where
  taOk : Bool
  tbOk : Bool
  mmcMapOk : Bool
  t3MapOk : Bool
  reports : List NeighbourReport
  findings : List Finding
  unreachableRows : List Nat
  unreachableHalf : List HalfField
  rampFail : List HalfField
  unitFail : List (BitVec 8)
  ms : BitVec 16
  deriving DecidableEq, Repr

/-- The outcome of a BIST run or a repair (R411, R419). -/
structure TestResult where
  rampOk : Bool
  reports : List NeighbourReport
  findings : List Finding
  deriving DecidableEq, Repr

/-- What the start of a power-up sequence reads: whether the auxiliary supply comes up from off, the straps, whether the non-volatile word
authenticates and IK checks (R423, R425, R474, R484). -/
structure PowerUpIn where
  auxFromOff : Bool
  straps : BitVec 3
  wordOk : Bool
  ikOk : Bool
  deriving DecidableEq, Repr

/-- The data of a sideband command, and whether its PEC is right (R473, R474). -/
structure SbData where
  pecOk : Bool
  bytes : List Byte
  deriving DecidableEq, Repr

/-- What the MMC sees of a cage (R464). -/
inductive CageEvent where
  | inserted (complies : Bool) | removed | noAnswer
  deriving DecidableEq, Repr

/-- The path of an SPDM request (R431). -/
inductive Via where
  | pcie
  | bus (b : Bus)
  deriving DecidableEq, Repr

/-- An outbound track, and whether the word sent on it fails the parity check of its link (R182, R191). -/
structure TrackOut where
  o : Fin 20
  bad : Bool
  deriving DecidableEq, Repr

/-- The physical place of a router, of a logical core or passed through (R17, R185). -/
structure RouterPlace where
  py : Fin 1080
  px : Fin 1050
  deriving DecidableEq, Repr

/-- What an ATTACH packet meets: the member whose window core sent it, and whether the entry's unit has failed in both copies (R290, R441). -/
structure AttachIn where
  m : BitVec 8
  lost : Bool
  deriving DecidableEq, Repr

/-- The priority whose pause ends, PRI_CTL where `ctl`, and the microseconds it has lasted (R309, R314). -/
structure PauseIn where
  ctl : Bool
  us : Nat
  deriving DecidableEq, Repr

/-- What a chiplet asks of its edge link, and whether it has acknowledged the wafer's request by then (R377). -/
structure ChipletReq where
  acked : Bool
  q : LinkReq
  deriving DecidableEq, Repr

/-- A read of a register: its offset in the function's window, and its bytes (R12, R15). -/
structure ReadAt where
  off : BitVec 26
  sz : Nat
  deriving DecidableEq, Repr

/-- The commands: one constructor for each row of the table of operations and events. -/
inductive Instr where
  /-- ADD (R64). -/
  | add (c : CoreId) (rd : Fin 32) (rs1 : Fin 32) (rs2 : Fin 32)
  /-- SUB (R64). -/
  | sub (c : CoreId) (rd : Fin 32) (rs1 : Fin 32) (rs2 : Fin 32)
  /-- AND (R64). -/
  | and (c : CoreId) (rd : Fin 32) (rs1 : Fin 32) (rs2 : Fin 32)
  /-- OR (R64). -/
  | or (c : CoreId) (rd : Fin 32) (rs1 : Fin 32) (rs2 : Fin 32)
  /-- XOR (R64). -/
  | xor (c : CoreId) (rd : Fin 32) (rs1 : Fin 32) (rs2 : Fin 32)
  /-- SLL (R64). -/
  | sll (c : CoreId) (rd : Fin 32) (rs1 : Fin 32) (rs2 : Fin 32)
  /-- SRL (R64). -/
  | srl (c : CoreId) (rd : Fin 32) (rs1 : Fin 32) (rs2 : Fin 32)
  /-- SRA (R64). -/
  | sra (c : CoreId) (rd : Fin 32) (rs1 : Fin 32) (rs2 : Fin 32)
  /-- SLT (R64). -/
  | slt (c : CoreId) (rd : Fin 32) (rs1 : Fin 32) (rs2 : Fin 32)
  /-- SLTU (R64). -/
  | sltu (c : CoreId) (rd : Fin 32) (rs1 : Fin 32) (rs2 : Fin 32)
  /-- MIN (R64). -/
  | min (c : CoreId) (rd : Fin 32) (rs1 : Fin 32) (rs2 : Fin 32)
  /-- MAX (R64). -/
  | max (c : CoreId) (rd : Fin 32) (rs1 : Fin 32) (rs2 : Fin 32)
  /-- MINU (R64). -/
  | minu (c : CoreId) (rd : Fin 32) (rs1 : Fin 32) (rs2 : Fin 32)
  /-- MAXU (R64). -/
  | maxu (c : CoreId) (rd : Fin 32) (rs1 : Fin 32) (rs2 : Fin 32)
  /-- CLZ (R64). -/
  | clz (c : CoreId) (rd : Fin 32) (rs1 : Fin 32)
  /-- POPC (R64). -/
  | popc (c : CoreId) (rd : Fin 32) (rs1 : Fin 32)
  /-- MUL (R64). -/
  | mul (c : CoreId) (rd : Fin 32) (rs1 : Fin 32) (rs2 : Fin 32)
  /-- MULH (R64). -/
  | mulh (c : CoreId) (rd : Fin 32) (rs1 : Fin 32) (rs2 : Fin 32)
  /-- MULHU (R64). -/
  | mulhu (c : CoreId) (rd : Fin 32) (rs1 : Fin 32) (rs2 : Fin 32)
  /-- DIV (R65). -/
  | div (c : CoreId) (rd : Fin 32) (rs1 : Fin 32) (rs2 : Fin 32)
  /-- DIVU (R65). -/
  | divu (c : CoreId) (rd : Fin 32) (rs1 : Fin 32) (rs2 : Fin 32)
  /-- REM (R65). -/
  | rem (c : CoreId) (rd : Fin 32) (rs1 : Fin 32) (rs2 : Fin 32)
  /-- REMU (R65). -/
  | remu (c : CoreId) (rd : Fin 32) (rs1 : Fin 32) (rs2 : Fin 32)
  /-- ADDI (R66). -/
  | addi (c : CoreId) (rd : Fin 32) (rs1 : Fin 32) (imm : BitVec 16)
  /-- ANDI (R66). -/
  | andi (c : CoreId) (rd : Fin 32) (rs1 : Fin 32) (imm : BitVec 16)
  /-- ORI (R66). -/
  | ori (c : CoreId) (rd : Fin 32) (rs1 : Fin 32) (imm : BitVec 16)
  /-- XORI (R66). -/
  | xori (c : CoreId) (rd : Fin 32) (rs1 : Fin 32) (imm : BitVec 16)
  /-- SHIFTI (R66). -/
  | shifti (c : CoreId) (rd : Fin 32) (rs1 : Fin 32) (k : ShiftKind) (amt : Fin 32)
  /-- LUI (R66). -/
  | lui (c : CoreId) (rd : Fin 32) (imm : BitVec 16)
  /-- SLTI (R66). -/
  | slti (c : CoreId) (rd : Fin 32) (rs1 : Fin 32) (imm : BitVec 16)
  /-- SLTIU (R66). -/
  | sltiu (c : CoreId) (rd : Fin 32) (rs1 : Fin 32) (imm : BitVec 16)
  /-- AMOV (R67). -/
  | amov (c : CoreId) (ad : Fin 8) (rs1 : Fin 32)
  /-- SMOV (R67). -/
  | smov (c : CoreId) (rd : Fin 32) (as1 : Fin 8)
  /-- AADD (R67). -/
  | aadd (c : CoreId) (ad : Fin 8) (as1 : Fin 8) (rs2 : Fin 32)
  /-- AADDI (R67). -/
  | aaddi (c : CoreId) (ad : Fin 8) (as1 : Fin 8) (imm : BitVec 16)
  /-- ALI (R67). -/
  | ali (c : CoreId) (ad : Fin 8) (imm : BitVec 32)
  /-- LI (R67). -/
  | li (c : CoreId) (rd : Fin 32) (imm : BitVec 32)
  /-- LW (R68). -/
  | lw (c : CoreId) (rt : Fin 32) (ab : Fin 8) (post : Bool) (imm : BitVec 16)
  /-- LH (R68). -/
  | lh (c : CoreId) (rt : Fin 32) (ab : Fin 8) (post : Bool) (imm : BitVec 16)
  /-- LHU (R68). -/
  | lhu (c : CoreId) (rt : Fin 32) (ab : Fin 8) (post : Bool) (imm : BitVec 16)
  /-- LB (R68). -/
  | lb (c : CoreId) (rt : Fin 32) (ab : Fin 8) (post : Bool) (imm : BitVec 16)
  /-- LBU (R68). -/
  | lbu (c : CoreId) (rt : Fin 32) (ab : Fin 8) (post : Bool) (imm : BitVec 16)
  /-- SW (R68). -/
  | sw (c : CoreId) (rt : Fin 32) (ab : Fin 8) (post : Bool) (imm : BitVec 16)
  /-- SH (R68). -/
  | sh (c : CoreId) (rt : Fin 32) (ab : Fin 8) (post : Bool) (imm : BitVec 16)
  /-- SB (R68). -/
  | sb (c : CoreId) (rt : Fin 32) (ab : Fin 8) (post : Bool) (imm : BitVec 16)
  /-- VLD (R68). -/
  | vld (c : CoreId) (vt : Fin 16) (ab : Fin 8) (pg : Fin 8) (post : Bool) (imm : BitVec 14)
  /-- VST (R68). -/
  | vst (c : CoreId) (vt : Fin 16) (ab : Fin 8) (pg : Fin 8) (post : Bool) (imm : BitVec 14)
  /-- PAND (R71). -/
  | pand (c : CoreId) (pd : Fin 8) (ps1 : Fin 8) (ps2 : Fin 8)
  /-- POR (R71). -/
  | por (c : CoreId) (pd : Fin 8) (ps1 : Fin 8) (ps2 : Fin 8)
  /-- PXOR (R71). -/
  | pxor (c : CoreId) (pd : Fin 8) (ps1 : Fin 8) (ps2 : Fin 8)
  /-- PANDN (R71). -/
  | pandn (c : CoreId) (pd : Fin 8) (ps1 : Fin 8) (ps2 : Fin 8)
  /-- PNOT (R71). -/
  | pnot (c : CoreId) (pd : Fin 8) (ps1 : Fin 8)
  /-- PMOVS (R72). -/
  | pmovs (c : CoreId) (pd : Fin 8) (rs1 : Fin 32)
  /-- SMOVP (R71). -/
  | smovp (c : CoreId) (rd : Fin 32) (ps1 : Fin 8)
  /-- PCNT (R71). -/
  | pcnt (c : CoreId) (rd : Fin 32) (ps1 : Fin 8)
  /-- VADD (R75). -/
  | vadd (c : CoreId) (ty : LaneTy) (pg : Fin 8) (vd : Fin 16) (va : Fin 16) (vb : Fin 16)
  /-- VSUB (R75). -/
  | vsub (c : CoreId) (ty : LaneTy) (pg : Fin 8) (vd : Fin 16) (va : Fin 16) (vb : Fin 16)
  /-- VMUL (R75). -/
  | vmul (c : CoreId) (ty : LaneTy) (pg : Fin 8) (vd : Fin 16) (va : Fin 16) (vb : Fin 16)
  /-- VFMA (R75). -/
  | vfma (c : CoreId) (ty : LaneTy) (pg : Fin 8) (vd : Fin 16) (va : Fin 16) (vb : Fin 16)
  /-- VMIN (R76). -/
  | vmin (c : CoreId) (ty : LaneTy) (pg : Fin 8) (vd : Fin 16) (va : Fin 16) (vb : Fin 16)
  /-- VMAX (R76). -/
  | vmax (c : CoreId) (ty : LaneTy) (pg : Fin 8) (vd : Fin 16) (va : Fin 16) (vb : Fin 16)
  /-- VABS (R75). -/
  | vabs (c : CoreId) (ty : LaneTy) (pg : Fin 8) (vd : Fin 16) (va : Fin 16)
  /-- VNEG (R75). -/
  | vneg (c : CoreId) (ty : LaneTy) (pg : Fin 8) (vd : Fin 16) (va : Fin 16)
  /-- VAND (R75). -/
  | vand (c : CoreId) (ty : LaneTy) (pg : Fin 8) (vd : Fin 16) (va : Fin 16) (vb : Fin 16)
  /-- VOR (R75). -/
  | vor (c : CoreId) (ty : LaneTy) (pg : Fin 8) (vd : Fin 16) (va : Fin 16) (vb : Fin 16)
  /-- VXOR (R75). -/
  | vxor (c : CoreId) (ty : LaneTy) (pg : Fin 8) (vd : Fin 16) (va : Fin 16) (vb : Fin 16)
  /-- VSLL (R75). -/
  | vsll (c : CoreId) (ty : LaneTy) (pg : Fin 8) (vd : Fin 16) (va : Fin 16) (vb : Fin 16)
  /-- VSRL (R75). -/
  | vsrl (c : CoreId) (ty : LaneTy) (pg : Fin 8) (vd : Fin 16) (va : Fin 16) (vb : Fin 16)
  /-- VSRA (R75). -/
  | vsra (c : CoreId) (ty : LaneTy) (pg : Fin 8) (vd : Fin 16) (va : Fin 16) (vb : Fin 16)
  /-- VCMPEQ (R75). -/
  | vcmpeq (c : CoreId) (ty : LaneTy) (pg : Fin 8) (pd : Fin 8) (va : Fin 16) (vb : Fin 16)
  /-- VCMPLT (R75). -/
  | vcmplt (c : CoreId) (ty : LaneTy) (pg : Fin 8) (pd : Fin 8) (va : Fin 16) (vb : Fin 16)
  /-- VCMPLE (R75). -/
  | vcmple (c : CoreId) (ty : LaneTy) (pg : Fin 8) (pd : Fin 8) (va : Fin 16) (vb : Fin 16)
  /-- VSEL (R75). -/
  | vsel (c : CoreId) (ty : LaneTy) (pg : Fin 8) (vd : Fin 16) (va : Fin 16) (vb : Fin 16)
  /-- VREDADD (R77). -/
  | vredadd (c : CoreId) (ty : LaneTy) (pg : Fin 8) (vd : Fin 16) (va : Fin 16)
  /-- VREDMAX (R77). -/
  | vredmax (c : CoreId) (ty : LaneTy) (pg : Fin 8) (vd : Fin 16) (va : Fin 16)
  /-- VEXP2 (R135). -/
  | vexp2 (c : CoreId) (ty : LaneTy) (pg : Fin 8) (vd : Fin 16) (va : Fin 16)
  /-- VRCP (R135). -/
  | vrcp (c : CoreId) (ty : LaneTy) (pg : Fin 8) (vd : Fin 16) (va : Fin 16)
  /-- VRSQRT (R135). -/
  | vrsqrt (c : CoreId) (ty : LaneTy) (pg : Fin 8) (vd : Fin 16) (va : Fin 16)
  /-- VBCAST (R79). -/
  | vbcast (c : CoreId) (ty : LaneTy) (vd : Fin 16) (rs : Fin 32)
  /-- VEXT (R79). -/
  | vext (c : CoreId) (ty : LaneTy) (rd : Fin 32) (va : Fin 16) (lane : Fin 32)
  /-- VINS (R79). -/
  | vins (c : CoreId) (ty : LaneTy) (vd : Fin 16) (rs : Fin 32) (lane : Fin 32)
  /-- VBCASTI (R79). -/
  | vbcasti (c : CoreId) (ty : LaneTy) (vd : Fin 16) (imm : BitVec 32)
  /-- VQSCALE (R137). -/
  | vqscale (c : CoreId) (wide : Wide) (fmt : NFmt) (vd : Fin 16) (va : Fin 16) (vb : Fin 16)
  /-- VQUANT (R137). -/
  | vquant (c : CoreId) (wide : Wide) (fmt : NFmt) (vd : Fin 16) (va : Fin 16) (vb : Fin 16)
  /-- VDQ (R136). -/
  | vdq (c : CoreId) (wide : Wide) (fmt : NFmt) (vd : Fin 16) (va : Fin 16) (vb : Fin 16)
  /-- VCVT (R136). -/
  | vcvt (c : CoreId) (toBf16 : Bool) (vd : Fin 16) (va : Fin 16) (vb : Fin 16)
  /-- BEQ (R80). -/
  | beq (c : CoreId) (rs1 : Fin 32) (rs2 : Fin 32) (off : BitVec 16)
  /-- BNE (R80). -/
  | bne (c : CoreId) (rs1 : Fin 32) (rs2 : Fin 32) (off : BitVec 16)
  /-- BLT (R80). -/
  | blt (c : CoreId) (rs1 : Fin 32) (rs2 : Fin 32) (off : BitVec 16)
  /-- BGE (R80). -/
  | bge (c : CoreId) (rs1 : Fin 32) (rs2 : Fin 32) (off : BitVec 16)
  /-- BLTU (R80). -/
  | bltu (c : CoreId) (rs1 : Fin 32) (rs2 : Fin 32) (off : BitVec 16)
  /-- BGEU (R80). -/
  | bgeu (c : CoreId) (rs1 : Fin 32) (rs2 : Fin 32) (off : BitVec 16)
  /-- DBNZ (R80). -/
  | dbnz (c : CoreId) (rs1 : Fin 32) (off : BitVec 16)
  /-- JAL (R81). -/
  | jal (c : CoreId) (off : BitVec 26)
  /-- JALR (R81). -/
  | jalr (c : CoreId) (rd : Fin 32) (rs1 : Fin 32) (imm : BitVec 16)
  /-- JL (R81). -/
  | jl (c : CoreId) (dst : Fin 32) (imm : BitVec 32)
  /-- NOP (R82). -/
  | nop (c : CoreId)
  /-- HALT (R82). -/
  | halt (c : CoreId)
  /-- FENCE_L (R82). -/
  | fenceL (c : CoreId)
  /-- FENCE_F (R82). -/
  | fenceF (c : CoreId)
  /-- FENCE (R82). -/
  | fence (c : CoreId)
  /-- TRAP (R82). -/
  | trap (c : CoreId) (code : BitVec 7)
  /-- FETCH (R60). -/
  | fetch (c : CoreId)
  /-- WAIT_CONDITION_MET (R49). -/
  | waitConditionMet (c : CoreId)
  /-- MM (R101). -/
  | mm (c : CoreId) (acc : Fin 4) (da : Fin 16) (db : Fin 16) (e : Bool) (z : Bool) (o : Bool)
  /-- MM_START (R104). -/
  | mmStart (c : CoreId) (sparse : Bool)
  /-- MM_COMPLETE (R104). -/
  | mmComplete (c : CoreId) (sparse : Bool)
  /-- ACCZERO (R107). -/
  | acczero (c : CoreId) (acc : Fin 4)
  /-- ACCRD (R107). -/
  | accrd (c : CoreId) (v : Fin 16) (acc : Fin 4) (row : Fin 16) (half : Bool)
  /-- ACCWR (R107). -/
  | accwr (c : CoreId) (acc : Fin 4) (row : Fin 16) (half : Bool) (v : Fin 16)
  /-- ACCST (R107). -/
  | accst (c : CoreId) (acc : Fin 4) (ab : Fin 8) (post : Bool)
  /-- ACCLD (R107). -/
  | accld (c : CoreId) (acc : Fin 4) (ab : Fin 8) (post : Bool)
  /-- DLD (R100). -/
  | dld (c : CoreId) (dn : Fin 16) (ab : Fin 8) (post : Bool)
  /-- DST (R100). -/
  | dst (c : CoreId) (dn : Fin 16) (ab : Fin 8) (post : Bool)
  /-- DMOV (R100). -/
  | dmov (c : CoreId) (dn : Fin 16) (dm : Fin 16)
  /-- DBASE (R100). -/
  | dbase (c : CoreId) (dn : Fin 16) (rs : Fin 32)
  /-- DADD (R100). -/
  | dadd (c : CoreId) (dn : Fin 16) (rs : Fin 32)
  /-- TSET (R108). -/
  | tset (c : CoreId) (tap : Fin 64)
  /-- TCLR (R108). -/
  | tclr (c : CoreId) (tap : Fin 64)
  /-- TWAIT (R109). -/
  | twait (c : CoreId) (tap : Fin 64)
  /-- TWAITK (R108). -/
  | twaitk (c : CoreId) (tap : Fin 64)
  /-- TTEST (R108). -/
  | ttest (c : CoreId) (rd : Fin 32) (tap : Fin 64)
  /-- TRSET (R108). -/
  | trset (c : CoreId) (route : BitVec 8) (tap : Fin 64)
  /-- CHADD (R110). -/
  | chadd (c : CoreId) (route : BitVec 8) (chime : BitVec 16) (rs : Fin 32)
  /-- CHWATCH (R110). -/
  | chwatch (c : CoreId) (route : BitVec 8) (chime : BitVec 16) (tap : Fin 64) (rs : Fin 32)
  /-- CHWAIT (R110). -/
  | chwait (c : CoreId) (route : BitVec 8) (chime : BitVec 16) (tap : Fin 64) (rs : Fin 32)
  /-- DBARRIVE (R112). -/
  | dbarrive (c : CoreId) (lane : Fin 64)
  /-- DBWAIT (R114). -/
  | dbwait (c : CoreId) (rd : Fin 32) (lane : Fin 64)
  /-- DBSYNC (R112). -/
  | dbsync (c : CoreId) (rd : Fin 32) (lane : Fin 64)
  /-- DBSTAT (R113). -/
  | dbstat (c : CoreId) (rd : Fin 32) (lane : Fin 64)
  /-- SATTACH (R116). -/
  | sattach (c : CoreId) (dn : Fin 16)
  /-- SDETACH (R116). -/
  | sdetach (c : CoreId) (dn : Fin 16)
  /-- SREL (R116). -/
  | srel (c : CoreId) (dn : Fin 16) (rs : Fin 32)
  /-- SWAIT (R116). -/
  | swait (c : CoreId) (dn : Fin 16) (rs : Fin 32)
  /-- SFWAIT (R116). -/
  | sfwait (c : CoreId) (dn : Fin 16) (rs : Fin 32)
  /-- SFREL (R116). -/
  | sfrel (c : CoreId) (dn : Fin 16) (rs : Fin 32)
  /-- SEND (R118). -/
  | send (c : CoreId) (route : BitVec 8) (as1 : Fin 8) (tap : Fin 64) (t : Bool) (count : BitVec 14) (daddr : BitVec 18)
  /-- MCAST (R118). -/
  | mcast (c : CoreId) (route : BitVec 8) (as1 : Fin 8) (tap : Fin 64) (t : Bool) (count : BitVec 14) (daddr : BitVec 18)
  /-- CORE_PU_REPORT (R174). -/
  | corePuReport (c : CoreId) (rt : Fin 32) (ab : Fin 8) (post : Bool) (imm : BitVec 16)
  /-- CORE_LANE_EN_WRITE (R226). -/
  | coreLaneEnWrite (c : CoreId) (rt : Fin 32) (ab : Fin 8) (post : Bool) (imm : BitVec 16)
  /-- INJECT_TAKE (R120). -/
  | injectTake (c : CoreId)
  /-- TRACK_MOVE (R191). -/
  | trackMove (c : CoreId) (x : TrackOut)
  /-- TRACK_MERGE (R191). -/
  | trackMerge (c : CoreId) (x : TrackOut)
  /-- SCHEDULE_STALL (R195). -/
  | scheduleStall (c : CoreId) (o : Fin 20)
  /-- WRITE (R197). -/
  | write (c : CoreId)
  /-- TAPSET (R210). -/
  | tapset (c : CoreId)
  /-- ACK (R200). -/
  | ack (n : Node) (route : BitVec 8)
  /-- ROUTER_LOSS (R208). -/
  | routerLoss (x : RouterPlace)
  /-- ROUTE_LOST_RUNNING_FENCE (R446). -/
  | routeLostRunningFence (p : Vf)
  /-- ADVANCE (R215). -/
  | advance (e : Engine)
  /-- WATCH (R216). -/
  | watch (e : Engine)
  /-- LANE_ARRIVAL (R222). -/
  | laneArrival (c : CoreId) (lane : Fin 64)
  /-- LANE_TIMEOUT (R228). -/
  | laneTimeout (pl : Fin 64)
  /-- SYNC_CHIME_ADD (R231). -/
  | syncChimeAdd (p : Vf) (step : BitVec 32)
  /-- SYNC_PAIR_CFG_WRITE (R219). -/
  | syncPairCfgWrite (p : Vf) (v : BitVec 32)
  /-- SYNC_LANE_CTRL_WRITE (R231). -/
  | syncLaneCtrlWrite (p : Vf) (lane : Fin 64) (v : BitVec 32)
  /-- SYNC_LANE_MASK_WRITE (R226). -/
  | syncLaneMaskWrite (p : Vf) (lane : Fin 64) (w : Fin 3) (v : BitVec 32)
  /-- ATTACH (R290). -/
  | attach (e : Engine) (x : AttachIn)
  /-- DETACH (R303). -/
  | detach (e : Engine)
  /-- REL (R293). -/
  | rel (e : Engine)
  /-- FREL_PACKET (R295). -/
  | frelPacket (e : Engine)
  /-- STRM_WRITE (R287). -/
  | strmWrite (p : Vf)
  /-- STRM_READ (R308). -/
  | strmRead (p : Vf)
  /-- STRM_START (R300). -/
  | strmStart (p : Vf) (lost : Bool)
  /-- STRM_CMD_FREL (R295). -/
  | strmCmdFrel (p : Vf) (n : BitVec 16)
  /-- PIECE_ISSUE (R294). -/
  | pieceIssue (p : Vf) (n : BitVec 16)
  /-- PIECE_COMPLETE (R294). -/
  | pieceComplete (p : Vf) (n : BitVec 16) (idx : Nat) (r : PieceResult)
  /-- OUTBOUND_BUFFER_RECEIVE (R293). -/
  | outboundBufferReceive (e : Engine)
  /-- BUFFER_DRAINED (R293). -/
  | bufferDrained (p : Vf) (n : BitVec 16)
  /-- MASK_CHIME_REACHED (R297). -/
  | maskChimeReached (p : Vf) (n : BitVec 16)
  /-- COPY_COMPLETE (R300). -/
  | copyComplete (p : Vf) (n : BitVec 16)
  /-- SLICE_INPUT_DELIVERY (R169). -/
  | sliceInputDelivery (f : Field)
  /-- PASS_COMPUTE_DONE (R172). -/
  | passComputeDone (f : Field)
  /-- MASK_RECORD_WRITTEN (R172). -/
  | maskRecordWritten (f : Field)
  /-- PU (R175). -/
  | pu (f : Field)
  /-- FRAME_FILL_DONE (R240). -/
  | frameFillDone (frame : Nat)
  /-- STACK_OFFLINE (R251). -/
  | stackOffline (n : BitVec 5)
  /-- STACK_ONLINE (R251). -/
  | stackOnline (n : BitVec 5)
  /-- FRAME_COPY_DONE (R252). -/
  | frameCopyDone (n : Fin 24)
  /-- T2_SCRUB (R438). -/
  | t2Scrub (n : Fin 24) (r : ScrubResult)
  /-- WRITE_BASE (R267). -/
  | writeBase (p : Vf)
  /-- WRITE_ADD (R272). -/
  | writeAdd (p : Vf)
  /-- DEL_ADD (R272). -/
  | delAdd (p : Vf)
  /-- XFER_DONE (R267). -/
  | xferDone (p : Vf) (wear : List Wear)
  /-- INSTALL_BEGIN (R266). -/
  | installBegin (tensors : BitVec 24)
  /-- COMMIT (R266). -/
  | commit
  /-- BUILD_BEGIN (R266). -/
  | buildBegin (tensors : BitVec 24)
  /-- SWITCH (R270). -/
  | switch
  /-- SET_ABORT (R266). -/
  | setAbort
  /-- SET_DELETE (R266). -/
  | setDelete
  /-- DRAIN_COMPLETE (R266). -/
  | drainComplete (m : BitVec 8)
  /-- ERASE_COMPLETE (R266). -/
  | eraseComplete (m : BitVec 8)
  /-- WST_BIND (R268). -/
  | wstBind (v : BitVec 32)
  /-- CTL_OFFLINE (R274). -/
  | ctlOffline (n : Fin 16)
  /-- CTL_ONLINE (R274). -/
  | ctlOnline (n : Fin 16)
  /-- REBUILD_DONE (R274). -/
  | rebuildDone (n : Fin 16)
  /-- REFRESH_UNIT (R262). -/
  | refreshUnit (n : Fin 16) (wear : List Wear)
  /-- REFRESH_AGE (R261). -/
  | refreshAge (n : Fin 16) (unit : Nat)
  /-- WEAR_LEVEL_MOVE (R263). -/
  | wearLevelMove (n : Fin 16) (unit : Nat) (eccFail : Bool) (rebuildFail : Bool)
  /-- SIGNAL_DETECT (R313). -/
  | signalDetect (pt : Port)
  /-- LOCK_ACQUIRED (R313). -/
  | lockAcquired (pt : Port)
  /-- TRAINING_TIMEOUT (R313). -/
  | trainingTimeout (pt : Port)
  /-- LOSS_OF_LOCK (R313). -/
  | lossOfLock (pt : Port)
  /-- MKA (R309). -/
  | mka (pt : Port) (live : Bool)
  /-- PORT_STALLED (R314). -/
  | portStalled (pt : Port)
  /-- PAUSE_END (R314). -/
  | pauseEnd (pt : Port) (x : PauseIn)
  /-- XOFF_IN (R468). -/
  | xoffIn (pt : Port) (level : Bool) (us : Nat)
  /-- PFC_FRAME (R314). -/
  | pfcFrame (pt : Port) (pri : BitVec 3) (quanta : BitVec 16) (us : Nat)
  /-- PFC_RESEND (R317). -/
  | pfcResend (pt : Port)
  /-- PORT_OFFLINE (R313). -/
  | portOffline (pt : Port)
  /-- PORT_ONLINE (R313). -/
  | portOnline (pt : Port)
  /-- RETRAIN (R313). -/
  | retrain (pt : Port)
  /-- PORT_FAILED (R313). -/
  | portFailed (pt : Port)
  /-- FRAME_RECEIVE (R315). -/
  | frameReceive (pt : Port) (f : Frame)
  /-- CONNECT (R320). -/
  | connect (pt : Port)
  /-- ACCEPT (R320). -/
  | accept (pt : Port)
  /-- ZARUX_ACK (R321). -/
  | zaruxAck (pt : Port)
  /-- NAK (R322). -/
  | nak (pt : Port)
  /-- VERDICT (R331). -/
  | verdict (pt : Port)
  /-- DATA (R327). -/
  | data (pt : Port)
  /-- RESULT (R333). -/
  | result (pt : Port)
  /-- ZARUX_ABORT (R319). -/
  | zaruxAbort (pt : Port)
  /-- NOTICE (R315). -/
  | notice (pt : Port)
  /-- DATA_PLACEMENT (R315). -/
  | dataPlacement (pt : Port)
  /-- FRAME_SEND (R355). -/
  | frameSend (pt : Port)
  /-- ACK_TIMER (R321). -/
  | ackTimer (pt : Port) (peer : Fin 64)
  /-- RTO_EXPIRY (R322). -/
  | rtoExpiry (pt : Port) (peer : Fin 64) (pri : Bool)
  /-- PTP_EVENT_MESSAGE (R311). -/
  | ptpEventMessage (pt : Port) (ns : BitVec 64) (locked : Bool)
  /-- NEIGHBOUR_SOLICITATION (R309). -/
  | neighbourSolicitation (pt : Port) (target : BitVec 128) (src : BitVec 128)
  /-- WP_NQ_DATA_READ (R316). -/
  | wpNqDataRead (fn : Func) (pt : Port)
  /-- WP_PEER_CTRL_WRITE (R335). -/
  | wpPeerCtrlWrite (pt : Port) (v : BitVec 32)
  /-- CHAIN_START (R324). -/
  | chainStart (p : Vf)
  /-- STOP (R328). -/
  | stop (p : Vf)
  /-- STRIKE_START (R326). -/
  | strikeStart (p : Vf) (ch : Fin 512)
  /-- STRIKE_COMPLETE (R328). -/
  | strikeComplete (p : Vf) (ch : Fin 512) (k : Nat)
  /-- COLL_TIMEOUT (R331). -/
  | collTimeout (p : Vf) (ch : Fin 512) (k : Nat)
  /-- SET (R334). -/
  | set (p : Vf)
  /-- REFORM (R334). -/
  | reform (p : Vf)
  /-- HQ_Q_DB (R340). -/
  | hqQDb (p : Vf) (q : Fin 8) (v : BitVec 32)
  /-- HQ_Q_CTRL_WRITE (R341). -/
  | hqQCtrlWrite (p : Vf) (q : Fin 8) (v : BitVec 32)
  /-- HQ_Q_CPL_HEAD_WRITE (R342). -/
  | hqQCplHeadWrite (p : Vf) (q : Fin 8) (v : BitVec 32)
  /-- STOPPED_ACK (R346). -/
  | stoppedAck (p : Vf) (q : Fin 8)
  /-- COMMAND_FETCH (R342). -/
  | commandFetch (p : Vf) (q : Fin 8) (ws : List Word)
  /-- HQ_NOP (R344). -/
  | hqNop (p : Vf) (q : Fin 8)
  /-- WRITE_T2 (R344). -/
  | writeT2 (p : Vf) (q : Fin 8)
  /-- READ_T2 (R344). -/
  | readT2 (p : Vf) (q : Fin 8)
  /-- LOAD (R348). -/
  | load (p : Vf) (q : Fin 8)
  /-- HQ_START (R349). -/
  | hqStart (p : Vf) (q : Fin 8)
  /-- CHIME_ADD (R350). -/
  | chimeAdd (p : Vf) (q : Fin 8)
  /-- CHIME_WAIT (R350). -/
  | chimeWait (p : Vf) (q : Fin 8)
  /-- SAVE (R351). -/
  | save (p : Vf) (q : Fin 8)
  /-- RESTORE (R351). -/
  | restore (p : Vf) (q : Fin 8)
  /-- REINIT (R344). -/
  | reinit (p : Vf) (q : Fin 8)
  /-- COMMAND_COMPLETE (R342). -/
  | commandComplete (p : Vf) (q : Fin 8)
  /-- COMMAND_TIMEOUT (R352). -/
  | commandTimeout (p : Vf) (q : Fin 8)
  /-- HOST_READ_COMPLETION (R353). -/
  | hostReadCompletion (p : Vf) (q : Fin 8) (r : HostCpl)
  /-- VF_FLR (R339). -/
  | vfFlr (p : Vf)
  /-- PF_FLR (R339). -/
  | pfFlr
  /-- PERST (R465). -/
  | perst
  /-- CREATE (R357). -/
  | create
  /-- RESIZE (R358). -/
  | resize
  /-- RESET (R360). -/
  | reset
  /-- DESTROY (R360). -/
  | destroy
  /-- TRANSIT (R357). -/
  | transit
  /-- PARTITION_RESET_DONE (R360). -/
  | partitionResetDone (p : Vf)
  /-- REGISTER_WRITE (R13). -/
  | registerWrite (fn : Func) (off : BitVec 26) (v : BitVec 32) (sz : Nat)
  /-- DECISION_CYCLE (R390). -/
  | decisionCycle (i : CycleIn)
  /-- RAMP_DONE (R371). -/
  | rampDone (r : Region)
  /-- RAMP_SHORT (R374). -/
  | rampShort (r : Region) (dom : BitVec 4)
  /-- RETRY_EXPIRY (R374). -/
  | retryExpiry (r : Region)
  /-- SHORT_TRIP (R373). -/
  | shortTrip (r : Region) (dom : BitVec 4)
  /-- OVERCURRENT (R372). -/
  | overcurrent (r : Region) (rail : Rail)
  /-- REGION_LOST (R373). -/
  | regionLost (r : Region) (dom : BitVec 4)
  /-- SENSOR_EXCLUDED (R368). -/
  | sensorExcluded (r : Region) (rail : Rail) (sensor : Fin 16) (mv : BitVec 16)
  /-- SENSOR_SAMPLE (R389). -/
  | sensorSample (xs : List Sample)
  /-- CONVERTER_LOST (R365). -/
  | converterLost (z : Fin 13)
  /-- RETENTION_DROOP (R448). -/
  | retentionDroop (r : Region)
  /-- CHIPLET_LINK_REQUEST (R377). -/
  | chipletLinkRequest (r : Region) (x : ChipletReq)
  /-- LINK_CHANGE_DONE (R376). -/
  | linkChangeDone (r : Region)
  /-- WRITE_SEG (R378). -/
  | writeSeg (rq : Staging) (seg : BitVec 8)
  /-- CLEAR_SEG (R378). -/
  | clearSeg (rq : Staging) (seg : BitVec 8)
  /-- CLEAR_ALL (R384). -/
  | clearAll (rq : Staging)
  /-- PWR_SEG_CFG_WRITE (R378). -/
  | pwrSegCfgWrite (rq : Staging) (v : BitVec 32)
  /-- PWR_SEG_DATA_WRITE (R384). -/
  | pwrSegDataWrite (rq : Staging) (v : BitVec 32)
  /-- PWR_ENV_CTRL_WRITE (R383). -/
  | pwrEnvCtrlWrite (rq : Staging) (v : BitVec 32)
  /-- ENV_FROZEN (R383). -/
  | envFrozen
  /-- SET_LANE_TIMEOUT (R400). -/
  | setLaneTimeout (fn : Func)
  /-- WAKE (R401). -/
  | wake (fn : Func)
  /-- SET_THROTTLE (R400). -/
  | setThrottle (fn : Func)
  /-- SET_PARK_HOLD (R400). -/
  | setParkHold (fn : Func)
  /-- TAKEOVER (R397). -/
  | takeover (why : TakeoverWhy)
  /-- STANDBY_LOST (R397). -/
  | standbyLost
  /-- MMC_HEARTBEAT_TIMEOUT (R399). -/
  | mmcHeartbeatTimeout
  /-- MMC_LOST (R399). -/
  | mmcLost
  /-- SAFE_STOP (R394). -/
  | safeStop (who : StopBy)
  /-- LOG_RECORD_WRITE (R403). -/
  | logRecordWrite
  /-- LOG_FETCH (R404). -/
  | logFetch (rq : Staging) (hi : BitVec 32)
  /-- LOG_FETCH_DONE (R404). -/
  | logFetchDone (rq : Staging)
  /-- POWER_UP_TEST (R405). -/
  | powerUpTest (t : PowerUpResult)
  /-- BIST (R409). -/
  | bist (hf : BitVec 8) (links : Bool)
  /-- REPAIR (R419). -/
  | repair (hf : BitVec 8)
  /-- UNIT_TEST (R417). -/
  | unitTest (u : BitVec 8)
  /-- TEST_ABORT (R420). -/
  | testAbort (u : BitVec 8)
  /-- BIST_RUN_START (R412). -/
  | bistRunStart (hf : HalfField)
  /-- BIST_RUN_DONE (R411). -/
  | bistRunDone (hf : HalfField) (t : TestResult)
  /-- UNIT_TEST_DONE (R417). -/
  | unitTestDone (u : BitVec 8) (ok : Bool)
  /-- REPAIR_DONE (R420). -/
  | repairDone (hf : HalfField) (t : TestResult)
  /-- DEPLOY (R422). -/
  | deploy
  /-- ENTER_SERVICE (R422). -/
  | enterService
  /-- LEAVE_SERVICE (R450). -/
  | leaveService
  /-- RETIRE (R434). -/
  | retire (confirm : BitVec 16)
  /-- FINALISE (R422). -/
  | finalise
  /-- UNWRAP (R429). -/
  | unwrap (keyId : BitVec 16) (epkOk : Bool) (icvOk : Bool) (cakZero : Bool)
  /-- KEY_DELETE (R430). -/
  | keyDelete (keyId : BitVec 16)
  /-- GET_VERSION (R431). -/
  | getVersion (via : Via)
  /-- GET_CAPABILITIES (R431). -/
  | getCapabilities (via : Via)
  /-- NEGOTIATE_ALGORITHMS (R431). -/
  | negotiateAlgorithms (via : Via) (p384 : Bool)
  /-- GET_DIGESTS (R431). -/
  | getDigests (via : Via)
  /-- GET_CERTIFICATE (R431). -/
  | getCertificate (via : Via) (slot : BitVec 8)
  /-- CHALLENGE (R431). -/
  | challenge (via : Via) (nonce : BitVec 256)
  /-- GET_MEASUREMENTS (R432). -/
  | getMeasurements (via : Via) (idx : BitVec 8) (sign : Bool)
  /-- SPDM_UNSUPPORTED_REQUEST (R431). -/
  | spdmUnsupportedRequest (via : Via) (code : BitVec 8)
  /-- ERR_RING_CTRL_WRITE (R456). -/
  | errRingCtrlWrite (fn : Func) (v : BitVec 32)
  /-- MOD_RST (R469). -/
  | modRst (level : Bool)
  /-- EPO (R469). -/
  | epo (level : Bool)
  /-- BUS_RANGE (R481). -/
  | busRange (mv : Nat)
  /-- BUSBAR_LOSS (R486). -/
  | busbarLoss
  /-- COOLANT_SAMPLE (R462). -/
  | coolantSample (inlet : Nat) (outlet : Nat) (flow : Nat) (wet : Bool)
  /-- LEAK (R462). -/
  | leak
  /-- POWER_UP_SEQUENCE (R484). -/
  | powerUpSequence (i : PowerUpIn)
  /-- SHUTDOWN (R485). -/
  | shutdown (bus : Bus) (d : SbData)
  /-- RESTART (R476). -/
  | restart (bus : Bus) (d : SbData)
  /-- READ_WINDOW (R477). -/
  | readWindow (bus : Bus) (d : SbData)
  /-- WRITE_WINDOW (R477). -/
  | writeWindow (bus : Bus) (d : SbData)
  /-- PIN_FUNC (R472). -/
  | pinFunc (bus : Bus) (d : SbData)
  /-- MF_PARK_END (R472). -/
  | mfParkEnd (pin : Fin 4)
  /-- STATUS (R476). -/
  | status (bus : Bus) (d : SbData)
  /-- CLEAR_ALERT (R478). -/
  | clearAlert (bus : Bus) (d : SbData)
  /-- MCTP (R473). -/
  | mctp (bus : Bus) (d : SbData) (spdm : Bool)
  /-- FACTORY (R476). -/
  | factory (bus : Bus) (d : SbData) (mfgEn : Bool)
  /-- SMBUS_UNDEFINED_COMMAND (R476). -/
  | smbusUndefinedCommand (bus : Bus) (code : BitVec 8)
  /-- ALERT_RESPONSE (R478). -/
  | alertResponse (bus : Bus)
  /-- CLOCK_LOW_TIMEOUT (R474). -/
  | clockLowTimeout (bus : Bus)
  /-- ARBITRATION_LOST (R475). -/
  | arbitrationLost (bus : Bus) (late : Bool)
  /-- MCTP_RETRY (R475). -/
  | mctpRetry (bus : Bus) (expired : Bool)
  /-- PPS_RISE (R470). -/
  | ppsRise
  /-- PPS_FALL (R470). -/
  | ppsFall
  /-- TRANSCEIVER_EVENT (R464). -/
  | transceiverEvent (pt : Port) (ev : CageEvent)
  /-- LOW_WORD_READ (R15). -/
  | lowWordRead (fn : Func) (x : ReadAt)
  /-- PTP_LOCK_LOST (R311). -/
  | ptpLockLost
  /-- BIST_SLICE_DONE (R412). -/
  | bistSliceDone (hf : HalfField)
  /-- PART_CMD_COMPLETE (R357). -/
  | partCmdComplete
  deriving DecidableEq, Repr

end Sys2Proof
end

