-- ==== Sys2Proof/WellFormed.lean ====
section
/-! DEFINITION. The commands that the spec admits: ranges of operands that their types leave wider. -/

namespace Sys2Proof

/-- A wear figure: used in 0.01 %, at most 0xFFFF, spare in percent (R277, R278). -/
def Wear.wf (w : Wear) : Bool := decide (w.used < 65536 ∧ w.spare ≤ 100)

/-- Sensors of a class in a region of R370, or in the zone or the entry that `region` stands for (R366, R388): 8 and 4 junction sensors of
a half-field, 2 of an edge chiplet; 16 for each of four rails, numbered rail × 16 + sensor, 4 of a chiplet; 46 cells, 6 of a chiplet; two for each
of a zone's 8 converters; the busbar's voltage and input power. -/
def sensorCount (c : SensorCls) (r : Nat) : Nat :=
  match c with
  | .junction => if r < 168 then 8 else if r < 208 then 2 else 0
  | .memJunction => if r < 168 then 4 else 0
  | .rail => if r < 168 then 64 else if r < 208 then 4 else 0
  | .current => if r < 168 then 46 else if r < 208 then 6 else 0
  | .converter => if r < 13 then 16 else 0
  | .busbar => if r = 0 then 2 else 0

/-- A sample names a sensor of R388. -/
def Sample.wf (x : Sample) : Bool := decide (x.idx < sensorCount x.cls x.region)

/-- A physical place: PY below 1,080 and PX below 1,050 (R406, R413). -/
def placeOk (t : Nat) : Bool := decide (t < 1080 * 1050)

def NeighbourReport.wf (r : NeighbourReport) : Bool := placeOk r.tester && placeOk r.target

/-- A set-point fits LOGIC_MV of PWR_REGION_STATUS (R384). -/
def SetPoint.wf (x : SetPoint) : Bool := decide (x.mv < 65536)

/-- The bytes of a sideband command: at most the 255 of a block of SMBus 3.2 (R473). -/
def SbData.wf (d : SbData) : Bool := decide (d.bytes.length ≤ 255)

/-- A frame is at most a jumbo frame; its header has the 8 words of R318. -/
def Frame.wf (f : Frame) : Bool := decide (f.hdr.length = 8 ∧ f.pay.length < 65536)

/-- The units of UNIT_TEST_DONE and of a failed test (R417). -/
def unitOk (u : BitVec 8) : Bool := decide (168 ≤ u.toNat ∧ u.toNat ≤ 215)

def PowerUpResult.wf (t : PowerUpResult) : Bool :=
  t.reports.all NeighbourReport.wf && t.unitFail.all unitOk && t.unreachableRows.all (fun r => decide (r < 1080))

/-- Whether a command is one that the spec admits. Every command whose operands' types are exact is. -/
def Instr.wf : Instr → Bool
  | .frameFillDone frame => decide (frame < 786432)
  | .xferDone _ wear => wear.all Wear.wf
  | .refreshUnit _ wear => wear.all Wear.wf
  | .frameReceive _ f => f.wf
  | .commandFetch _ _ ws => decide (ws.length = 16)
  | .registerWrite _ _ _ sz => [1, 2, 4, 8, 16, 32, 64].contains sz
  | .sensorSample xs => xs.all Sample.wf
  | .decisionCycle i => i.setpoints.all SetPoint.wf
  | .powerUpTest t => t.wf
  | .bistRunDone _ t => t.reports.all NeighbourReport.wf
  | .repairDone _ t => t.reports.all NeighbourReport.wf
  | .unitTestDone u _ => unitOk u
  | .busRange mv => decide (mv ≤ 65000)
  | .coolantSample inlet outlet flow _ => decide (inlet < 65536 ∧ outlet < 65536 ∧ flow < 65536)
  | .shutdown _ d => d.wf
  | .restart _ d => d.wf
  | .readWindow _ d => d.wf
  | .writeWindow _ d => d.wf
  | .pinFunc _ d => d.wf
  | .status _ d => d.wf
  | .clearAlert _ d => d.wf
  | .mctp _ d _ => d.wf
  | .factory _ d _ => d.wf
  | .lowWordRead _ x => [1, 2, 4, 8, 16, 32, 64].contains x.sz
  | _ => true

end Sys2Proof
end

