-- ==== Sys2Proof/Decode.lean ====
section
/-! DEFINITION. Words that spell commands. spec/opcode_table.json gives no row any bits: a command reaches the block as an event with
its operands, never as a word, so no word spells one. -/

namespace Sys2Proof

/-- The command a word spells by the bits of spec/opcode_table.json: no row has any, so none. -/
def decodeTableWord (_nbits _w : Nat) : Option Instr := none

end Sys2Proof
end

