-- ==== Sys2Proof/Machine/State.lean ====
section
/-! DEFINITION. The state of the engine, as plain data: every register, memory, queue, counter and mode the spec names.
INVENTORY.md lists each with its rule and its reset value. -/

namespace Sys2Proof.Machine

/-- Sparse data by key, keys strictly rising; a key that is absent holds the table's default value. -/
abbrev Tab (α : Type) := List (Nat × α)

/-! ## Cores (02 to 06) -/

/-- A 256-bit register with one poison tag for each 32-bit word (R33, R34, R94). -/
structure VReg where
  val : BitVec 256
  tag : BitVec 8
  deriving DecidableEq, Repr

/-- Core states (R47). -/
inductive CoreMode where
  | running | waiting | sleeping | retained | fenced
  deriving DecidableEq, Repr

/-- What a WAITING core waits on (R47, R49): a place in its inject queue; a tap, cleared or kept when the wait ends; the
release of its arrival on a lane, the status going to s[rd]; a window status count, low or high half, reaching a number. -/
inductive WaitCond where
  | inject
  | tap (t : Fin 64) (clear : Bool)
  | lane (l : Fin 64) (rd : Fin 32)
  | stat (addr : Nat) (hi : Bool) (thr : BitVec 16)
  deriving DecidableEq, Repr

/-- An outbound operation in the inject queue (R84, R119). `data` is a send or mcast, whose words are read when the router
takes it (R85); `words` is a CHIME, STREAM or PU packet, `notify` saying that it is a notification (R121). -/
inductive Outbound where
  | data (route : BitVec 8) (src count : Nat) (daddr : BitVec 18) (tap : Option (Fin 64))
  | tapset (route : BitVec 8) (tap : Fin 64)
  | words (route : BitVec 8) (type : BitVec 4) (pay : List PWord) (notify : Bool)
  | arrive (lane : Fin 64)
  deriving DecidableEq, Repr

/-- A packet of this core not yet acknowledged (R200): its number in taking order, its route, whether it is a send or
mcast. -/
structure Unacked where
  seq : Nat
  route : BitVec 8
  data : Bool
  deriving DecidableEq, Repr

/-- An mm issued and not complete (R98, R101, R104): the descriptors it uses, as read at issue. `skip` holds the granules
observed-zero mode omits, captured at its start (R176). `pc` is its address and `ord` its place in program order among the mm not
complete, by which a fence names the first instruction it abandons (R88). -/
structure MmJob where
  acc : Fin 4
  a : VReg
  b : VReg
  sparse : Bool
  z : Bool
  o : Bool
  wide : Bool
  fbEn : Bool
  tile : BitVec 16
  started : Bool
  skip : BitVec 128
  pc : Word := 0
  ord : Nat := 0
  deriving DecidableEq, Repr

/-- One logical core (R31 to R35, R52). Register files, accumulators and control registers are tables keyed by number;
`v` and `d` by register, `acc` by tile × 256 + row × 16 + column, `ctl` by offset from 0x0003_1000. -/
structure Core where
  pc : Word := 0
  st : CoreMode := .sleeping
  s : Tab PWord := []
  a : Tab PWord := []
  v : Tab VReg := []
  p : Tab Word := []
  d : Tab VReg := []
  acc : Tab PWord := []
  /-- Near and stack memory by byte address (R35). -/
  mem : List Host.Cell := []
  /-- Poison tags by word number (R34). -/
  memTag : Tab Bool := []
  ctl : Tab Word := []
  /-- The fallback set, entries in the layout of CORE_FB_ENTRY (R147, R150). -/
  fb : Tab Word := []
  cntBeats : BitVec 64 := 0
  cntWait : BitVec 64 := 0
  cntBank : BitVec 64 := 0
  /-- The core's own held word and shadow of R15 (R52). -/
  held : Option (Nat × Word) := none
  shadow : Option (Nat × Word) := none
  /-- Lane enables in force (R226). -/
  enForce : BitVec 64 := 0
  /-- Taps with one of this core's watches pending (R111). -/
  watchTaps : BitVec 64 := 0
  /-- Status of the last release of each lane, while it is not RELEASED (R113). -/
  dbRel : Tab Word := []
  /-- The instruction FETCH latched, or the one a WAITING core stands at (R60, R49). -/
  ir : Option Instr := none
  wait : Option WaitCond := none
  inject : List Outbound := []
  unacked : List Unacked := []
  pktSeq : Nat := 0
  /-- Arrivals taken from the inject queue and not yet effective, with the packet number they follow (R222). -/
  arriving : List (Fin 64 × Nat) := []
  dExec : Option MmJob := none
  dPend : Option MmJob := none
  sExec : Option MmJob := none
  sPend : Option MmJob := none
  deriving DecidableEq, Repr

/-! ## Fabric (07) -/

/-- What a header word on a track stands for: who sent it, on which route, how many words the packet has. The model keeps
it beside the word so that an ACK finds its way (log entry 8). -/
structure Ghost where
  src : Node
  route : BitVec 8
  len : Nat
  deriving DecidableEq, Repr

/-- A word on a track with its tag (R180). -/
structure TWord where
  w : PWord
  hd : Option Ghost
  deriving DecidableEq, Repr

/-- A packet whose last word has arrived at its destination, with the router and input track its ACK enters (R200). -/
structure Packet where
  hdr : PWord
  pay : List PWord
  hd : Option Ghost
  router : Nat
  inTrack : Nat
  deriving DecidableEq, Repr

/-- A packet partly arrived: words received, words in all, whether it is of variable length (R193, R197). -/
structure Rx where
  got : List TWord
  need : Nat
  var : Bool
  deriving DecidableEq, Repr

/-- The router of a logical core (R180). Outbound and input tracks are numbered port × 4 + track, ports N, E, S, W, L = 0
to 4. `seqs` holds the slots of each outbound track, an empty place being `none` (R202). `inq` holds the words sent to each input track and
not yet released; the track itself holds the first two of them at most (R180), and words behind those, which only the local port and an outward
port have, stand at the core's or the engine's side of it (log entry 95). -/
structure Router where
  routes : Tab Word := []
  seqs : Tab (List (Option Word)) := []
  pos : Tab Nat := []
  moved : Tab Nat := []
  varLen : Tab Nat := []
  loops : Tab Nat := []
  took : Tab (List Nat) := []
  inq : Tab (List TWord) := []
  desync : Tab Bool := []
  stalled : Tab Bool := []
  rx : Tab Rx := []
  inbox : List Packet := []
  deriving DecidableEq, Repr

/-- An ACK that a home owes (R216): the packet, the tap it sets, and whether it may leave; a pending watch's may not. -/
structure HeldAck where
  pkt : Packet
  tap : Option Nat
  ready : Bool
  deriving DecidableEq, Repr

/-- A transit grant: track of the N, E, S and W links of every router of a field, to a partition (R202, R357). -/
structure Transit where
  field : Nat
  track : Nat
  part : Nat
  deriving DecidableEq, Repr

/-! ## Synchronisation (08) -/

/-- A pair, under its producer's global chime (R219, R231). CONSUMER is a partition chime number. -/
structure Pair where
  valid : Bool := false
  broken : Bool := false
  lane : BitVec 6 := 0
  consumer : BitVec 16 := 0
  bound : Word := 1
  refP : Word := 0
  refC : Word := 0
  deriving DecidableEq, Repr

/-- Who posted a watch: a core, by a packet; a stream; a chain's strike; a host queue (R216, R297, R326, R350). -/
inductive Watcher where
  | core (c : CoreId) (tap : Fin 64) (pkt : Packet)
  | stream (n : Nat)
  | chain (n : Nat)
  | queue (n : Nat)
  deriving DecidableEq, Repr

/-- A pending watch on a global chime. -/
structure Watch where
  chime : Nat
  thr : Word
  who : Watcher
  deriving DecidableEq, Repr

inductive LaneState where
  | idle | busy | failed
  deriving DecidableEq, Repr

/-- A physical downbeat lane (R223 to R229). `ctrl` and `mask` are the values last written, `ctrlF` and `maskF` those in
force. -/
structure Lane where
  owner : Nat := 0
  st : LaneState := .idle
  arrived : List CoreId := []
  ctrl : Word := 0
  ctrlF : Word := 0
  mask : BitVec 84 := 0
  maskF : BitVec 84 := 0
  releases : BitVec 64 := 0
  withheld : Bool := false
  deriving DecidableEq, Repr

/-! ## Predictor slices (06) -/

/-- A pass that awaits reports (R175): its number, groups, audited groups, MISS bits set, reports dropped, and the nodes whose
LAST has come. -/
structure OpenPass where
  num : Word
  groups : Nat
  audit : List Nat
  miss : List Nat
  dropped : Nat
  lasts : List (Option Node)
  deriving DecidableEq, Repr

/-- A mask record computed and not yet written (R172): where it goes, its words, and the pass it opens. -/
structure MaskRec where
  slot : Nat
  words : List Word
  pass : OpenPass
  deriving DecidableEq, Repr

/-- A layer slot of a slice: deliveries counted for the next pass, passes that await reports (oldest first), reports that
belong to the next pass, reports dropped with no pass open (R169, R175). -/
structure SliceSlot where
  inputs : Nat := 0
  opens : List OpenPass := []
  early : List (Option Node × Word) := []
  dropped : Nat := 0
  deriving DecidableEq, Repr

/-- A predictor slice (R167): its memory with tags, its slots, the slots whose pass is in computation in the order started,
the records being written; its CHIME packets that wait, each with its route, and its unacknowledged packets on each route (R200, R213). -/
structure Slice where
  sram : List Host.Cell := []
  tag : Tab Bool := []
  slots : Tab SliceSlot := []
  computing : List Nat := []
  writing : List MaskRec := []
  inbox : List Packet := []
  outq : List (Nat × List TWord) := []
  unacked : Tab Nat := []
  deriving DecidableEq, Repr

/-! ## Memory tiers (09) -/

/-- A stack's migration (R252): the frames still to copy, first in copy, the free frame it goes to, and the stack after which the
search for the next free frame starts. -/
structure Migration where
  stack : Nat
  frames : List Nat
  target : Option Nat
  last : Nat
  deriving DecidableEq, Repr

/-- T2: bytes by module address and tags by word number; stack states 0 ONLINE, 1 MIGRATING, 2 OFFLINE, 3 LOST (R250);
stacks whose last test failed; frames in fill; frames withheld (R254); frames whose frame-table entry is lost in both copies
(R441). -/
structure Tiers where
  mem : List Host.Cell := []
  tag : Tab Bool := []
  stack : Tab Nat := []
  failed : List Nat := []
  migr : Option Migration := none
  fills : List Nat := []
  withheld : List Nat := []
  badFrame : List Nat := []
  deriving DecidableEq, Repr

/-! ## Weight store (10) -/

/-- A tensor held in T3: its words with their tags, its length in bytes, and the stripe units of it that are lost (R275). -/
structure Tensor where
  words : List PWord
  len : Nat
  lost : List Nat := []
  deriving DecidableEq, Repr

/-- A copy of a module weight set (R265, R264, R276). -/
structure WCopy where
  key : Nat
  gen : Word
  count : Nat
  tensors : Tab Tensor
  deriving DecidableEq, Repr

/-- States of a module weight set (R265). -/
inductive SetSt where
  | free | installing | serving | building | built | draining | deleting
  deriving DecidableEq, Repr

structure MSet where
  st : SetSt := .free
  gen : Word := 0
  cur : Option WCopy := none
  other : Option WCopy := none
  deriving DecidableEq, Repr

/-- A set slot of a partition (R268). -/
structure WSlot where
  bound : Bool := false
  write : Bool := false
  lane : Nat := 0
  mset : Nat := 0
  lg : Word := 0
  due : Bool := false
  deriving DecidableEq, Repr

/-- A weight-store controller (R261, R273, R277): state code, wear, refresh queue. -/
structure Ctl where
  st : Nat := 3
  used : Nat := 0
  spare : Nat := 100
  exhausted : Bool := false
  worn : Bool := false
  failed : Bool := true
  reads : Tab Nat := []
  queue : List Nat := []
  deriving DecidableEq, Repr

/-- A WST_XFER in progress (R267, R272): a base write or an addition, its slot, set, TENSOR, T2 address and length. -/
structure Xfer where
  base : Bool
  slot : Nat
  mset : Nat
  tensor : Nat
  addr : Nat
  len : Nat
  deriving DecidableEq, Repr

/-- The weight store. Slots are keyed partition × 1,024 + slot; additions (partition × 1,024 + slot) × 2^24 + TENSOR;
`erasing` holds the copies whose erase is not complete, each with its set. Controllers are LOST before the power-up test. -/
structure Wst where
  sets : Tab MSet := []
  slots : Tab WSlot := []
  adds : Tab Tensor := []
  ctls : Tab Ctl := []
  xfers : Tab Xfer := []
  erasing : List (Nat × WCopy) := []
  deriving DecidableEq, Repr

/-! ## Streams (11) -/

/-- Stream states (R302). -/
inductive StrmSt where
  | idle | active | fenceWait | maskWait | done | genMismatch | badEntry | noRoom | copying
  deriving DecidableEq, Repr

/-- The source a transfer latched when it began to read (R269): the tensor, its TENSOR number, and the set and generation it
belongs to, if it is no private addition. -/
structure Source where
  tensor : Tensor
  num : Nat
  own : Option (Nat × Word)
  deriving DecidableEq, Repr

/-- A piece issued (R281): the data buffer of the pass it serves; whether it is of an image's header and directory; its runs, each the place
in the buffer (in the image, in DST) it goes to, the byte offset in the source and the words; the bytes of T3 it reads; and once it has come
the words, by place. -/
structure Piece where
  buf : Nat := 0
  head : Bool := false
  runs : List (Nat × Int × Nat)
  lo : Nat := 0
  hi : Nat := 0
  got : Option (List (Nat × List PWord)) := none
  deriving DecidableEq, Repr

/-- A piece in flight when its stream was detached (R304): the engine and queue it counts at, what it reads and how many bytes. -/
structure Flight where
  eng : Nat
  queue : Nat
  src : Option Source
  t2 : Option Nat
  size : Nat
  lo : Nat
  hi : Nat
  deriving DecidableEq, Repr

/-- A stream (R282 to R304). `entry` is the 16 words of R283; `attached` counts the ATTACH packets accepted and `attM` the members they came
from; `nextBuf` is the next data buffer of the pass to issue (of a copy: the next piece), `plan` the pieces of it not yet issued, `wrote` the
next buffer to write, `total` the data buffers of the pass; `selBufs` holds the selection buffers not yet written and `selNext` the next member
of the first of them; `sel` is the selection of the pass; `begun` says that the source has been resolved (of a copy: that it moves bytes),
`headIn` that an image's header and directory have come, which `hdr` holds. `queued` counts the buffers issued from ATTACH, `numbered` the buffers
of the stream from ATTACH (R295), `issuedM`, `writtenM` and `freedM` those of each member. `flights` holds the pieces still in flight after a
DETACH. For an outbound window, `received` holds buffers not yet drained and `drainable` how many of them a REL has returned. -/
structure Stream where
  entry : List Word := []
  st : StrmSt := .idle
  attached : Nat := 0
  attM : List Nat := []
  attBy : List Ghost := []
  stat : Nat := 0
  pass : Word := 0
  metaCnt : Word := 0
  fr : BitVec 16 := 0
  fence : Nat := 0
  nextBuf : Nat := 0
  plan : List Piece := []
  total : Nat := 0
  wrote : Nat := 0
  selBufs : List (List PWord) := []
  selNext : Nat := 0
  sel : List Nat := []
  begun : Bool := false
  headIn : Bool := false
  hdr : List (Nat × List PWord) := []
  numbered : Nat := 0
  queued : Nat := 0
  issuedM : Tab Nat := []
  writtenM : Tab Nat := []
  freedM : Tab Nat := []
  pieces : List Piece := []
  flights : List Flight := []
  received : List (List PWord) := []
  drainable : Nat := 0
  src : Option Source := none
  deriving DecidableEq, Repr

/-- A packet an engine holds until its route may carry it (R200): partition × 256 + route, router, input track, words. -/
structure OutPkt where
  key : Nat
  router : Nat
  track : Nat
  words : List TWord
  deriving DecidableEq, Repr

/-- An edge stream engine: packets arrived, packets held, the unacknowledged packets of each partition × 256 + route, and for each class of
R280 one more than the queue served last, partition × 16 + queue (R281). -/
structure EngineSt where
  inbox : List Packet := []
  outq : List OutPkt := []
  unacked : Tab Nat := []
  turn : Tab Nat := []
  deriving DecidableEq, Repr

/-! ## Weight ports and collectives (12) -/

/-- A frame to send (R318, R319): its TYPE, header words w1, w2, w5 and w6, its payload (words, or runs of T2 of partition
`part`), and the strike it belongs to. -/
structure TxFrame where
  type : Nat
  w1 : Word
  w2 : Word
  w5 : Word
  w6 : Word
  lit : List Word
  runs : List (Nat × Nat)
  part : Nat
  sid : Nat
  deriving DecidableEq, Repr

/-- One priority of a connection (R321, R322): the frames not acknowledged, oldest first, whose PSNs run from `base`; how many
of them have been sent since the last step back, and ever; the PSN expected; frames accepted since the last ACK; whether a NAK
stands; timeouts without progress. -/
structure Dir where
  base : Word := 0
  q : List TxFrame := []
  sent : Nat := 0
  ever : Nat := 0
  exp : Word := 0
  since : Nat := 0
  nak : Bool := false
  tries : Nat := 0
  deriving DecidableEq, Repr

/-- Connection states (R320, R335). -/
inductive ConnSt where
  | closed | opening | opened | failed
  deriving DecidableEq, Repr

/-- A connection to a peer entry, with its unsequenced frames to send (R320). -/
structure Conn where
  st : ConnSt := .closed
  sess : Option Word := none
  data : Dir := {}
  ctl : Dir := {}
  unseq : List TxFrame := []
  deriving DecidableEq, Repr

/-- A frame in an ingress queue with its peer entry; `bad` names the words whose parity fails when they are read, its eight header
words first (R316). `dest` is what the DATA or RESULT rule decided, once it has: the strike and
the byte offset the placement stage writes at, or nothing to write (R315, R327, R333). -/
structure RxFrame where
  peer : Nat
  hdr : List Word
  pay : List Byte
  bad : List Nat
  dest : Option (Option (Nat × Nat))
  deriving DecidableEq, Repr

/-- Port states (R312). -/
inductive PortSt where
  | down | training | securing | up | stalled | offline | failed
  deriving DecidableEq, Repr

/-- A weight port and its engine. It is FAILED until the power-up test has passed it. `pfc` and `pfcCtl` say that pause time is left
for PRI_DATA and for PRI_CTL (R309, R314); `credit` and `last` serve the weighted round robin of R355. -/
structure PortS where
  st : PortSt := .failed
  bad : Bool := true
  xoffIn : Bool := false
  pfc : Bool := false
  pfcCtl : Bool := false
  xoffOut : Bool := false
  dataq : List RxFrame := []
  ctlq : List RxFrame := []
  notice : List PWord := []
  session : Word := 0
  conns : Tab Conn := []
  credit : Tab Nat := []
  last : Nat := 0
  deriving DecidableEq, Repr

/-- A group of a partition (R330). -/
structure Group where
  valid : Bool := false
  id : Nat := 0
  n : Nat := 0
  member : Nat := 0
  epoch : Word := 0
  shard : Nat := 0
  servers : List (Nat × Nat) := []
  deriving DecidableEq, Repr

/-- Phases of a strike in progress: plain; a RECV that awaits the receive table; a REDUCE in its counts exchange; its data
phase (R327, R331, R333). -/
inductive StrikePh where
  | plain | waiting | counts | data
  deriving DecidableEq, Repr

/-- A strike in progress (R325 to R333): its number in starting order, index, entry, phase, the code it has ended with (0 for
none yet), whether it writes nothing, its group, the ports and peers it uses, verdicts by server, the byte ranges of its destination
written, poisoned words sent. -/
structure Strike where
  sid : Nat
  idx : Nat
  ent : List Word
  ph : StrikePh
  code : Nat
  mute : Bool
  gnum : Nat
  grp : Group
  uses : List (Nat × Nat)
  verdicts : Tab Word
  got : List (Nat × Nat)
  poison : Nat
  deriving DecidableEq, Repr

/-- Chain states (R324). -/
inductive ChainSt where
  | idle | running | halted
  deriving DecidableEq, Repr

/-- A strike chain, keyed partition × 512 + chain. -/
structure Chain where
  st : ChainSt := .idle
  next : Nat := 0
  code : Nat := 0
  prog : List Strike := []
  failed : Bool := false
  deriving DecidableEq, Repr

/-! ## Host queues and partitions (13) -/

/-- A command fetched (R342, R343, R345): its words, the HEAD that followed it, whether it has started, and the tag of its host reads,
if it waits for any. -/
structure HCmd where
  w : List Word
  head : Nat := 0
  started : Bool := false
  tag : Option Nat := none
  deriving DecidableEq, Repr

/-- A host command queue (R340 to R346). `cpl` is the status and result of a command that has ended and whose completion entry
is not yet written; `held` says that it waits for ring space. `retired` holds tags of timed-out reads, with the time they were
retired (R353). -/
structure HQueue where
  head : Nat := 0
  tail : Nat := 0
  cplTail : Nat := 0
  phase : Bool := true
  cmd : Option HCmd := none
  cpl : Option (BitVec 8 × Word) := none
  held : Bool := false
  retired : List (Nat × BitVec 64) := []
  deriving DecidableEq, Repr

/-- Partition states (R356). -/
inductive PartSt where
  | free | live | resetting | destroying
  deriving DecidableEq, Repr

/-- A partition and its grants (R354, R363). -/
structure Part where
  st : PartSt := .free
  fields : BitVec 84 := 0
  chimeBase : Nat := 0
  chimeCount : Nat := 0
  lanes : List Nat := []
  strmBase : Nat := 0
  strmCount : Nat := 0
  frames : List Nat := []
  t3Units : Nat := 0
  t3Slots : Nat := 0
  watch : Nat := 0
  chains : Nat := 0
  share : Word := 0
  shareFull : BitVec 8 := 0
  laneTimeout : Word := 1000
  routeLost : Bool := false
  reinitBy : Option (Fin 8) := none
  creations : Nat := 0
  deriving DecidableEq, Repr

/-- The PART_ command in progress (R357, R370): its OP, its partition, and the partition's record from before it. -/
structure PartCmd where
  op : Nat
  part : Nat
  old : Part
  deriving DecidableEq, Repr

/-! ## Power (14) -/

/-- Region states (R370). -/
inductive RegionSt where
  | off | ramping | on | retained | retry | dead
  deriving DecidableEq, Repr

/-- The ramps of R371. -/
inductive Ramp where
  | soft | park | unpark
  deriving DecidableEq, Repr

/-- A power region (R366 to R377, R448). `ramp` and `tries` are the ramp in progress and the shorts it has met; `mv` the
set-points in mV, `ocur` the rails in overcurrent with the cycles spent at the bottom of their range, keyed by rail 0 logic, 1 near,
2 stack, 3 links, 4 memory interface; `excl` the excluded sensors; `low` the last eight cycles of a sensor found low, keyed rail × 16 +
sensor. `asleep` counts cycles with every core SLEEPING, `hold` the cycles before an unparked half-field may park by idle, `hot` cycles at
105 °C, `warm` says that it was found above THROTTLE. `change` is the link change acknowledged and in progress, `wafer` and `chip` the
requests outstanding. `lever` is where the logic set-point or the width stood before a lever of R381 took it. `epoch` is the island's region
epoch, `copy` the half-field's. -/
structure PRegion where
  st : RegionSt := .off
  ramp : Ramp := .soft
  tries : Nat := 0
  deadDom : BitVec 4 := 0
  suspect : Bool := false
  width : BitVec 2 := 0
  change : Option LinkReq := none
  wafer : Option LinkReq := none
  chip : Option LinkReq := none
  mv : Tab Nat := []
  excl : List (Nat × Nat) := []
  ocur : Tab Nat := []
  low : Tab (List Bool) := []
  asleep : Nat := 0
  hold : Nat := 0
  hot : Nat := 0
  warm : Bool := false
  lever : Option Nat := none
  epoch : Word := 0
  copy : Word := 0
  deriving DecidableEq, Repr

/-- A segment held in a slot (R378): START, slew limit (0: the default), samples in 10 W. -/
structure Segment where
  start : BitVec 64
  ramp : Nat
  samples : List Nat
  deriving DecidableEq, Repr

/-- Envelope states (R382). -/
inductive EnvSt where
  | idle | armed | tracking | gap | ended | frozen
  deriving DecidableEq, Repr

/-- What the cells have done between two decision cycles, for the Tambour to act on at the next (R391): regions lost and tripped with their
domains, ramps aborted with the attempt, a sensor excluded with its reading, a converter of a zone lost with how many are left. -/
inductive CellNote where
  | lost (r : Nat) (dom : BitVec 4)
  | trip (r : Nat) (dom : BitVec 4)
  | ramp (r : Nat) (dom : BitVec 4) (tries : Nat) (dead : Bool)
  | sensor (r : Nat) (unit : BitVec 8) (mv : BitVec 16)
  | zone (z : Nat) (left : Nat)
  deriving DecidableEq, Repr

/-- One millisecond as R380 weighs it: the mean draw in 10 W, the target in 0.1 W where there was one, whether SHORTFALL and FLOOR_BOUND held,
and whether the bounds are not guaranteed. -/
structure PowerMs where
  draw : Nat
  target : Option Nat
  shortfall : Bool
  floor : Bool
  void : Bool
  deriving DecidableEq, Repr

/-- Power: regions by index; VALID segments by slot; the envelope, its target in units of 0.1 W, the V and slew limit in use, slot and
sample in use, and whether a segment has started since EN was set; staged samples, keyed requester × 65,536 + index, present once written
(R378); converters lost in each zone; what the cells have done since the last cycle; the last 1,000 milliseconds, the latest first, and whether
a fault of R373 or a takeover has come since the last; the measurements of the last cycle in the units of their registers. -/
structure Power where
  regions : Tab PRegion := []
  segs : Tab Segment := []
  env : EnvSt := .idle
  target : Nat := 0
  value : Nat := 0
  slew : Nat := 0
  seg : Nat := 0
  index : Nat := 0
  begun : Bool := false
  stage : Tab Nat := []
  convLost : Tab Nat := []
  notes : List CellNote := []
  hist : List PowerMs := []
  void : Bool := false
  draw : BitVec 16 := 0
  drawAvg : BitVec 16 := 0
  volts : BitVec 16 := 0
  floorKw : BitVec 16 := 0
  deriving DecidableEq, Repr

/-! ## The Tambour (15) -/

/-- Instance states (R397). -/
inductive InstSt where
  | active | standby | failed
  deriving DecidableEq, Repr

/-- A sensor as the hub filters it (R389): its latest samples, newest first, and y = num / 2^exp once it has started. -/
structure Sensor where
  last : List Int := []
  num : Int := 0
  exp : Nat := 0
  live : Bool := false
  deriving DecidableEq, Repr

/-- A mailbox command (R400, R401): OP, operand, and for WAKE once taken the half-fields it waits for. -/
structure Mbx where
  op : Nat
  arg : Word
  wait : Option (List Nat)
  deriving DecidableEq, Repr

/-- A log record fetched for a function (R404): `none` while the fetch runs, else the words, if the record is held. -/
structure LogFetch where
  seq : BitVec 64
  done : Option (Option (List Word))
  deriving DecidableEq, Repr

/-- The supervisor. Both instances are FAILED before the power-up test. `log` holds records by SEQ mod 2^21; `queue` those not
yet written (R402, R403). `beatA` and `beatB` are the heartbeat registers (R385; log entry 112). Mailboxes and fetches are keyed by function (17 and 18 the sideband buses). -/
structure Tamb where
  ta : InstSt := .failed
  tb : InstSt := .failed
  beatA : Word := 0
  beatB : Word := 0
  mmcLost : Bool := false
  cycle : BitVec 64 := 0
  throttle : Nat := 90
  parkHold : Nat := 10
  overruns : Nat := 0
  sensors : Tab Sensor := []
  mbx : Tab Mbx := []
  seq : BitVec 64 := 0
  queue : List (BitVec 64 × List Word) := []
  log : Tab (BitVec 64 × List Word) := []
  fetch : Tab LogFetch := []
  deriving DecidableEq, Repr

/-! ## Tests (16) -/

/-- Test states of a unit (R424). -/
inductive TestSt where
  | idle | queued | running | pass | fail
  deriving DecidableEq, Repr

/-- The test of a unit (R409 to R419): whether it is a repair, whether a slice runs now, slices done, records written. -/
structure TestU where
  st : TestSt := .idle
  links : Bool := false
  repair : Bool := false
  slice : Bool := false
  slices : Nat := 0
  found : Nat := 0
  deriving DecidableEq, Repr

/-! ## The module (19) -/

/-- Where the module stands in its power sequence (R484 to R486): no auxiliary supply; stopped or shut down; in the power-up
sequence; its sequence ended. -/
inductive Phase where
  | dark | stopped | starting | up
  deriving DecidableEq, Repr

/-- A multi-function pin (R471, R472): the function in force (0 PARKED), whether it is parked for a switch, the functions that wait
for their own switch, the function stored, the level it drives as PPS_OUT. -/
structure MfPin where
  func : Nat := 0
  parked : Bool := false
  waiting : List Nat := []
  stored : Nat := 0
  pps : Bool := false
  deriving DecidableEq, Repr

/-- An MCTP packet the MMC sends as a controller: its words and the losses so far (R475). -/
structure MctpTx where
  ws : List Word
  losses : Nat
  lost : Bool
  deriving DecidableEq, Repr

/-- A transceiver in its cage (R464). -/
inductive Cage where
  | empty | good | bad
  deriving DecidableEq, Repr

/-- The module around the engine: power phase, whether a start has been asked for, the control pins (true where asserted, that
is low), the busbar in mV, alert causes (R478), straps, what the MMC measured last, limits on draw in 10 W that R462 and R481 set, pins, counts
of STATUS, packets to send by bus, cages. `coolBad` and `inletBad` count the consecutive samples with
flow and inlet outside R462. -/
structure ModHw where
  phase : Phase := .dark
  startReq : Bool := false
  ready : Bool := false
  rst : Bool := false
  epo : Bool := false
  busMv : Nat := 48000
  alerts : BitVec 10 := 0
  straps : BitVec 3 := 0
  inlet : Nat := 0
  outlet : Nat := 0
  flow : Nat := 0
  coolBad : Nat := 0
  inletBad : Nat := 0
  coolLimit : Option Nat := none
  busLimit : Option Nat := none
  pins : Tab MfPin := []
  dropped : BitVec 16 := 0
  discarded : BitVec 16 := 0
  mctp : Tab (List MctpTx) := []
  cages : Tab Cage := []
  deriving DecidableEq, Repr

/-! ## Faults (18) -/

/-- A function's report ring beside its registers: the phase and the number of the next report (R456). -/
structure Ring where
  phase : Bool := true
  seq : BitVec 64 := 0
  deriving DecidableEq, Repr

/-- A report as made, for the merging of R455. -/
structure ReportKey where
  fn : Nat
  code : Nat
  part : Nat
  loc : Word
  v0 : Word
  deriving DecidableEq, Repr

/-! ## Security and life cycle (16, 17) -/

/-- Life-cycle states (R421). -/
inductive LifeState where
  | manufacture | provisioned | deployed | service | retired
  deriving DecidableEq, Repr

/-- The key store (R425 to R430): key slots and port CAKs with the blob each came from. -/
structure Sec where
  keyFault : Bool := false
  keysReady : Bool := false
  keys : Tab (List Word) := []
  caks : Tab (List Word) := []
  deriving DecidableEq, Repr

/-! ## Outputs -/

/-- What encloses a Zarux frame on the line (R309, R310): MAC addresses, the priority tag's PCP with VID 0, IPv6 addresses and hop limit,
UDP ports. -/
structure Encap where
  dmac : BitVec 48
  smac : BitVec 48
  pcp : BitVec 3
  vid : BitVec 12
  src : BitVec 128
  dst : BitVec 128
  hop : Nat
  sport : BitVec 16
  dport : BitVec 16
  deriving DecidableEq, Repr

/-- What the block emits: host memory writes, MSI-X messages, register values read, frames, sideband answers. -/
inductive Out where
  | host (fn : Nat) (addr : Nat) (ws : List PWord)
  | msix (fn : Nat) (vec : Nat)
  | read (fn : Nat) (w : Word)
  | frame (port peer : Nat) (enc : Encap) (hdr : List Word) (pay : List Byte)
  | mkaFrame (port : Nat)
  | pfc (port : Nat) (pri : BitVec 3) (quanta : Nat)
  | ptp (port : Nat)
  | advert (port : Nat) (target dst : BitVec 128)
  | reply (bus : Nat) (bytes : List Byte)
  | nack (bus : Nat)
  | alertAnswer (bus addr : Nat)
  | mctp (via : Nat) (ws : List Word)
  | aer (fn : Nat)
  | abortFrame (port : Nat) (peer : Nat)
  | pulse (bus : Nat)
  deriving DecidableEq, Repr

/-- The shadow and the held word of a function or a sideband bus, by register offset and index (R15, R477). -/
structure FnBuf where
  shadow : Option (Nat × Word) := none
  held : Option (Nat × Word) := none
  deriving DecidableEq, Repr

/-! ## The state -/

/-- The state of the block. Tables are keyed as said at each field. -/
structure State where
  pending : List Instr := []
  /-- The model's own count of free values drawn (log entry 3). -/
  draws : Nat := 0
  out : List Out := []
  /-- WP_TIME, or free-running time, in ns (R311, R454). -/
  time : BitVec 64 := 0
  ptpLock : Bool := false
  /-- Stored register words, keyed (index × 32 + function) × 2^26 + offset. -/
  regs : Tab Word := []
  fns : Tab FnBuf := []
  /-- Cores and routers, keyed y × 1,022 + x. -/
  cores : Tab Core := []
  routers : Tab Router := []
  /-- Map identities of the half-fields (R186). -/
  ident : Tab Word := []
  transit : List Transit := []
  /-- Physical routers that have become unusable in service, by place as w1 of R413 has it (R205, R208). -/
  lostRouters : List Nat := []
  /-- ACKs that homes owe on routes with a pending watch, in the order of their packets (R200, R216). -/
  acks : List HeldAck := []
  /-- GOOD_ROWS, the logical rows of the grid as established, the shipped grade, the retired physical rows in rising order
  (R9, R11, R18). -/
  goodRows : Nat := 0
  gridRows : Nat := 0
  grade : BitVec 2 := 3
  retired : List Nat := []
  /-- Chimes by global number (R211). -/
  chimes : Tab Word := []
  chimeTime : Tab (BitVec 64) := []
  pairs : Tab Pair := []
  watches : List Watch := []
  lanes : Tab Lane := []
  slices : Tab Slice := []
  tiers : Tiers := {}
  wst : Wst := {}
  /-- Streams by module number (R282). -/
  streams : Tab Stream := []
  engines : Tab EngineSt := []
  /-- Entries 1 to 255 of the engines' route tables (R292), by partition: one more than the place in the free values at which they stand
  (log entry 102). -/
  engRoutes : Tab Nat := []
  ports : Tab PortS := []
  chains : Tab Chain := []
  /-- Groups, keyed partition × 16 + group. -/
  groups : Tab Group := []
  strikeSeq : Nat := 0
  /-- Host queues, keyed partition × 8 + queue. -/
  hqs : Tab HQueue := []
  parts : Tab Part := []
  partCmd : Option PartCmd := none
  rings : Tab Ring := []
  recent : List ReportKey := []
  incarnation : BitVec 64 := 0
  sessions : List Word := []
  /-- The defect map (R413, R414). -/
  defects : List DefectRec := []
  /-- The records fused at FINALISE (R414). -/
  baseline : List DefectRec := []
  power : Power := {}
  tamb : Tamb := {}
  /-- Tests by unit 0 to 215; the last power-up test's duration and whether one has completed since power-up (R422, R424). -/
  tests : Tab TestU := []
  testMs : BitVec 16 := 0
  testDone : Bool := false
  lc : LifeState := .manufacture
  sec : Sec := {}
  hw : ModHw := {}
  /-- A safe stop with reports closed has begun (R394, R457). -/
  quiet : Bool := false
  deriving DecidableEq, Repr

/-- The block before its first power-up sequence (R484): every register at its reset value, no region powered, every stack, controller and
port out of service, no command waiting. What the spec takes from outside at power-up (fuses, tests, measurements) is at the default of
its field (log entry 2); POWER_UP_SEQUENCE and POWER_UP_TEST bring the block up. -/
def State.reset : State := {}

/-- Why a command stops the block. -/
inductive Fault where
  /-- An operand lies outside what the spec lets the command carry (WellFormed.lean). Raised by the meanings whose operands
  are lists or numbers. Safe: the spec has no such command. -/
  | illFormed
  deriving DecidableEq, Repr

/-- Why a command has no meaning. -/
inductive Refusal where
  /-- The command's arm of exec has no meaning yet. Safe. -/
  | notModelled (mnemonic : String)
  deriving DecidableEq, Repr

end Sys2Proof.Machine
end

