-- ==== Sys2Proof/Machine/Tab.lean ====
section
/-! DEFINITION. Reading and writing tables kept in canonical form: keys strictly rising and, for `Tab.set`, no entry equal
to the default. -/

namespace Sys2Proof.Machine

/-- The entry at key `k`, if listed. -/
def Tab.find {α : Type} : Tab α → Nat → Option α
  | [], _ => none
  | (i, a) :: t, k => if i = k then some a else Tab.find t k

/-- What key `k` holds, `d` where it is not listed. -/
def Tab.get {α : Type} (d : α) (t : Tab α) (k : Nat) : α := (Tab.find t k).getD d

/-- The table without key `k`. -/
def Tab.drop {α : Type} : Tab α → Nat → Tab α
  | [], _ => []
  | (i, a) :: t, k => if i = k then Tab.drop t k else (i, a) :: Tab.drop t k

/-- Puts an entry before the first larger key. -/
def Tab.insert {α : Type} : Tab α → Nat → α → Tab α
  | [], k, v => [(k, v)]
  | (i, a) :: t, k, v => if k < i then (k, v) :: (i, a) :: t else (i, a) :: Tab.insert t k v

/-- Writes `v` at `k`, listing it whatever it is. -/
def Tab.put {α : Type} (t : Tab α) (k : Nat) (v : α) : Tab α := Tab.insert (Tab.drop t k) k v

/-- Writes `v` at `k`; writing the default removes the entry. -/
def Tab.set {α : Type} [DecidableEq α] (d : α) (t : Tab α) (k : Nat) (v : α) : Tab α :=
  if v = d then Tab.drop t k else Tab.put t k v

/-- Keys strictly rising. -/
def Tab.sorted {α : Type} : Tab α → Bool
  | [] => true
  | [_] => true
  | (i, _) :: (j, b) :: t => decide (i < j) && Tab.sorted ((j, b) :: t)

/-- Canonical form: keys strictly rising, no entry equal to the default. -/
def Tab.wf {α : Type} [DecidableEq α] (d : α) (t : Tab α) : Bool :=
  Tab.sorted t && t.all (fun e => decide (e.2 ≠ d))

/-! ## Byte memories. An unlisted byte reads 0 (R240, R359). -/

/-- A byte of a memory. -/
def Memory.byte (m : List Host.Cell) (a : Nat) : Byte := Tab.get 0 m a

/-- Writes a byte. -/
def Memory.setByte (m : List Host.Cell) (a : Nat) (b : Byte) : List Host.Cell := Tab.set 0 m a b

/-- The canonical form of a memory. -/
def Memory.wf (m : List Host.Cell) : Bool := Tab.wf (0 : Byte) m

/-- Bytes from `a` on, little-endian, as a number of `n` bytes. -/
def Memory.nat (m : List Host.Cell) (a : Nat) : Nat → Nat
  | 0 => 0
  | n + 1 => (Memory.byte m a).toNat + 256 * Memory.nat m (a + 1) n

/-- Writes the `n` low bytes of `v` from `a` on, little-endian. -/
def Memory.setNat (m : List Host.Cell) (a : Nat) : Nat → Nat → List Host.Cell
  | 0, _ => m
  | n + 1, v => Memory.setNat (Memory.setByte m a (BitVec.ofNat 8 v)) (a + 1) n (v / 256)

/-- The 32-bit word at byte address `a`. -/
def Memory.word (m : List Host.Cell) (a : Nat) : Word := BitVec.ofNat 32 (Memory.nat m a 4)

/-- Writes a 32-bit word at byte address `a`. -/
def Memory.setWord (m : List Host.Cell) (a : Nat) (w : Word) : List Host.Cell := Memory.setNat m a 4 w.toNat

/-- Writes words with their tags from byte address `a`, a multiple of 4. -/
def Memory.putWords (m : List Host.Cell) (tg : Tab Bool) (a : Nat) : List PWord → List Host.Cell × Tab Bool
  | [] => (m, tg)
  | w :: ws => Memory.putWords (Memory.setWord m a w.val) (Tab.set false tg (a / 4) w.poison) (a + 4) ws

/-- `n` words with their tags from byte address `a`, a multiple of 4. -/
def Memory.getWords (m : List Host.Cell) (tg : Tab Bool) (a : Nat) : Nat → List PWord
  | 0 => []
  | n + 1 => ⟨Memory.word m a, Tab.get false tg (a / 4)⟩ :: Memory.getWords m tg (a + 4) n

/-- Entries whose key lies in [lo, hi) removed: those bytes read 0. -/
def Memory.clear {α : Type} (t : Tab α) (lo hi : Nat) : Tab α := t.filter (fun e => decide (e.1 < lo ∨ hi ≤ e.1))

end Sys2Proof.Machine
end

