-- ==== Sys2Proof/Machine/RegMap.lean ====
section
/-! DEFINITION. The register map: for each offset of BAR0 (R338) the bits that hold what software writes (RW), the bits a
written 1 clears (W1C), and the reset value of those bits. Read-only fields are computed where a register is read. -/

namespace Sys2Proof.Machine

/-- The stored bits of one register word (R13). -/
structure RegSpec where
  rw : Word := 0
  w1c : Word := 0
  reset : Word := 0
  deriving DecidableEq, Repr

/-- A word with bits [hi:lo] set. -/
def bits (hi lo : Nat) : Word := BitVec.ofNat 32 (2 ^ (hi + 1) - 2 ^ lo)

/-- Field [hi:lo] of a word, as a number. -/
def fld (w : Word) (hi lo : Nat) : Nat := w.toNat / 2 ^ lo % 2 ^ (hi + 1 - lo)

/-- A read-write counter or register word with all bits stored. -/
def rwAll : RegSpec := { rw := BitVec.allOnes 32 }

/-- The base of a block (R338). -/
def blkBase (n : Nat) : Nat := n * 0x100000

/-- HQ_, offsets within one queue's 0x100 bytes (R362). -/
def hqSpec : Nat → RegSpec
  | 0x00 => { rw := bits 31 12 }
  | 0x04 => rwAll
  | 0x08 => { rw := bits 31 12 }
  | 0x0C => rwAll
  | 0x10 => { rw := bits 31 31 ||| bits 23 0, reset := 0x004003E8 }
  | 0x1C => { rw := bits 15 0 }
  | 0x20 => { w1c := bits 31 30 }
  | 0x28 => rwAll
  | 0x2C => rwAll
  | 0x30 => rwAll
  | 0x34 => rwAll
  | _ => {}

/-- PART_ (R363). -/
def partSpec : Nat → RegSpec
  | 0x00 => { rw := bits 4 0, reset := 1 }
  | 0x08 => rwAll
  | 0x0C => rwAll
  | 0x10 => { rw := bits 19 0 }
  | 0x14 => { rw := bits 15 0 }
  | 0x18 => { rw := bits 16 0 }
  | 0x1C => { rw := bits 6 0 }
  | 0x20 => { rw := bits 15 0 }
  | 0x24 => { rw := bits 16 0 }
  | 0x28 => { rw := bits 19 0 }
  | 0x2C => { rw := bits 20 0 }
  | 0x30 => { rw := bits 10 0 }
  | 0x34 => { rw := bits 11 0 }
  | 0x38 => { rw := bits 9 0 }
  | 0x3C => rwAll
  | 0x40 => { rw := bits 31 31 ||| bits 20 16 ||| bits 14 8 ||| bits 3 0 }
  | 0x50 => rwAll
  | 0x54 => rwAll
  | 0x5C => { rw := bits 7 0 }
  | _ => {}

/-- STRM_ (R308). -/
def strmSpec (o : Nat) : RegSpec :=
  if 0x40 ≤ o ∧ o < 0x80 then { rw := bits 8 0, reset := 64 }
  else if 0x80 ≤ o ∧ o < 0xE0 then rwAll
  else match o with
    | 0x04 => { rw := bits 1 0 }
    | 0x08 => { rw := bits 15 0 }
    | 0x20 => { w1c := bits 3 0 }
    | _ => {}

/-- WP_, offsets within one port's 0x1000 bytes (R335). -/
def wpPortSpec (o : Nat) : RegSpec :=
  if 0x080 ≤ o ∧ o < 0x0C0 then rwAll
  else if 0x020 ≤ o ∧ o < 0x030 then rwAll
  else if 0x03C ≤ o ∧ o < 0x050 then rwAll
  else match o with
    | 0x008 => { w1c := bits 31 31 }
    | 0x00C => { w1c := bits 5 0 }
    | 0x018 => { rw := bits 10 8 ||| bits 6 4, reset := 0x530 }
    | 0x01C => { rw := bits 28 16 ||| bits 12 0, reset := 0x0C000800 }
    | 0x030 => { rw := bits 23 0, reset := 0x00080032 }
    | 0x034 => { rw := bits 5 0 }
    | 0x038 => { rw := bits 31 31 ||| bits 20 0 }
    | _ => {}

/-- The WP_ block (R335). -/
def wpSpec (o : Nat) : RegSpec :=
  if o < 0x8000 then wpPortSpec (o % 0x1000)
  else if o = 0x8000 then { rw := bits 31 31 ||| bits 10 0 } else {}

/-- COLL_ (R336). -/
def collSpec : Nat → RegSpec
  | 0x04 => { rw := bits 8 0 }
  | 0x08 => rwAll
  | 0x0C => { rw := bits 15 0 }
  | 0x10 => { rw := bits 31 27 ||| bits 15 0 }
  | 0x14 => { rw := bits 12 0, reset := 1 }
  | 0x1C => { w1c := bits 29 29 }
  | 0x20 => { rw := bits 3 0 }
  | 0x24 => { rw := bits 31 16 ||| bits 6 0 }
  | 0x28 => { rw := bits 27 16 ||| bits 12 0 }
  | 0x2C => rwAll
  | 0x38 => rwAll
  | 0x3C => { w1c := bits 31 31 }
  | 0x40 => { rw := bits 5 0 }
  | 0x44 => { rw := bits 10 8 ||| bits 5 0 }
  | 0x48 => { rw := bits 15 0, reset := 1000 }
  | 0x4C => { w1c := bits 4 0 }
  | 0x50 => rwAll
  | 0x54 => rwAll
  | 0x58 => rwAll
  | 0x5C => rwAll
  | 0x60 => rwAll
  | 0x64 => rwAll
  | 0x68 => rwAll
  | 0x6C => rwAll
  | _ => {}

/-- TIER_ (R256). -/
def tierSpec : Nat → RegSpec
  | 0x18 => { w1c := bits 3 0 }
  | 0x20 => rwAll
  | 0x24 => rwAll
  | 0x10C => { w1c := bits 31 30 }
  | _ => {}

/-- WST_ (R278). -/
def wstSpec : Nat → RegSpec
  | 0x00 => rwAll
  | 0x04 => { rw := bits 15 0 }
  | 0x08 => rwAll
  | 0x0C => rwAll
  | 0x10 => rwAll
  | 0x14 => { rw := bits 4 0 }
  | 0x20 => { rw := bits 9 0 }
  | 0x100 => { rw := bits 7 0 }
  | 0x110 => { rw := bits 15 0 }
  | 0x118 => { w1c := bits 31 30 }
  | 0x128 => { w1c := bits 31 30 }
  | 0x12C => { rw := bits 6 0, reset := 25 }
  | 0x130 => { rw := bits 3 0 }
  | 0x138 => { w1c := bits 3 0 }
  | 0x140 => rwAll
  | 0x144 => rwAll
  | 0x148 => rwAll
  | 0x14C => rwAll
  | 0x150 => rwAll
  | 0x154 => rwAll
  | _ => {}

/-- SYNC_; pairs and lanes are held in their own tables (R231). -/
def syncSpec : Nat → RegSpec
  | 0x0C => { w1c := bits 5 0 }
  | 0x20 => { rw := bits 15 0 }
  | _ => {}

/-- PWR_ (R384). -/
def pwrSpec (o : Nat) : RegSpec :=
  if 0x68 ≤ o ∧ o < 0x88 then rwAll
  else match o with
    | 0x08 => { rw := bits 15 0, reset := 3600 }
    | 0x0C => { rw := bits 31 31 ||| bits 24 16 ||| bits 15 0, reset := 0x00642710 }
    | 0x10 => { w1c := bits 23 21 }
    | 0x20 => rwAll
    | 0x24 => rwAll
    | 0x28 => { rw := bits 31 16 ||| bits 8 0 }
    | 0x2C => { rw := bits 15 0 }
    | 0x34 => { rw := bits 7 0 }
    | 0x4C => { rw := bits 4 0, reset := 1 }
    | 0x50 => { rw := bits 10 0 }
    | 0x54 => { rw := bits 7 0 }
    | 0x5C => { w1c := bits 5 0 }
    | _ => {}

/-- TAMB_ (R404). -/
def tambSpec : Nat → RegSpec
  | 0x04 => { w1c := bits 3 0 }
  | 0x18 => rwAll
  | 0x30 => rwAll
  | 0x34 => rwAll
  | 0x60 => rwAll
  | 0x64 => rwAll
  | 0x68 => rwAll
  | 0x6C => rwAll
  | _ => {}

/-- TEST_ (R424). -/
def testSpec : Nat → RegSpec
  | 0x08 => { w1c := bits 31 31 }
  | 0x0C => { rw := bits 31 31 ||| bits 27 24 ||| bits 15 0, reset := 0x080000B8 }
  | 0x14 => { w1c := bits 31 29 }
  | 0x18 => { rw := bits 7 0 }
  | 0x28 => { rw := bits 15 0 }
  | 0x40 => rwAll
  | 0x44 => rwAll
  | 0x48 => rwAll
  | 0x4C => rwAll
  | _ => {}

/-- SEC_ (R436). -/
def secSpec (o : Nat) : RegSpec :=
  if 0x100 ≤ o ∧ o < 0x1C0 then rwAll
  else match o with
    | 0x0C => { rw := bits 15 0 }
    | 0x18 => rwAll
    | 0x1C => rwAll
    | _ => {}

/-- ERR_ (R458). -/
def errSpec (o : Nat) : RegSpec :=
  if 0x200 ≤ o ∧ o < 0x280 then
    if o % 16 = 0 then { rw := bits 31 31 ||| bits 15 0 } else {}
  else if 0x1008 ≤ o ∧ o < 0x1040 then rwAll
  else if 0x28 ≤ o ∧ o < 0x50 then rwAll
  else match o with
    | 0x00 => { rw := bits 31 12 }
    | 0x04 => rwAll
    | 0x08 => { rw := bits 31 31 ||| bits 19 16, reset := 0x00080000 }
    | 0x0C => { rw := bits 15 0 }
    | 0x14 => { w1c := bits 31 29 }
    | 0x80 => { w1c := bits 31 31 }
    | 0x1000 => { rw := bits 4 0, reset := 1 }
    | _ => {}

/-- The stored bits of the register at a BAR0 offset (R338). -/
def regSpec (off : Nat) : RegSpec :=
  let o := off % 0x100000
  match off / 0x100000 with
  | 0x1 => if o < 0x800 then hqSpec (o % 0x100) else {}
  | 0x2 => partSpec o
  | 0x3 => strmSpec o
  | 0x4 => wpSpec o
  | 0x5 => collSpec o
  | 0x6 => tierSpec o
  | 0x7 => wstSpec o
  | 0x8 => syncSpec o
  | 0x9 => pwrSpec o
  | 0xA => tambSpec o
  | 0xB => testSpec o
  | 0xC => secSpec o
  | 0xD => errSpec o
  | _ => {}

/-- Whether a BAR0 offset is the low word of a 64-bit register (R15). -/
def isLow64 (off : Nat) : Bool :=
  let o := off % 0x100000
  match off / 0x100000 with
  | 0x1 => decide (o < 0x800) && [0x00, 0x08, 0x28, 0x30].contains (o % 0x100)
  | 0x2 => o == 0x50
  | 0x3 => [0xC0, 0xC8, 0xD0, 0xD8].contains o
  | 0x4 => if o < 0x8000 then [0x50, 0x80, 0x88, 0x90, 0x98, 0xA0, 0xA8, 0xB0, 0xB8].contains (o % 0x1000) else o == 0x8008
  | 0x5 => [0x08, 0x50, 0x58, 0x60, 0x68].contains o
  | 0x6 => o == 0x20
  | 0x7 => [0x00, 0x08, 0x10, 0x140, 0x148, 0x150].contains o
  | 0x8 => decide (0x1000 ≤ o ∧ o < 0x1800) && (o % 0x20 == 0x10)
  | 0x9 => [0x20, 0x40, 0x68, 0x70, 0x78, 0x80].contains o
  | 0xA => [0x08, 0x28, 0x30, 0x60, 0x68].contains o
  | 0xB => [0x40, 0x48].contains o
  | 0xC => o == 0x18
  | 0xD => [0x00, 0x18, 0x20, 0x28, 0x30, 0x38, 0x40, 0x48, 0x1008, 0x1010, 0x1018, 0x1020, 0x1028, 0x1030, 0x1038].contains o
      || (decide (0x200 ≤ o ∧ o < 0x280) && (o % 16 == 8))
  | _ => false

end Sys2Proof.Machine
end

