-- ==== Sys2Proof/Machine/Ops.lean ====
section
/-! DEFINITION. The named operations over the state that every family uses: tables of cores, routers, partitions and
registers; counters; free values; outputs; fault reports; and which partition holds what. -/

namespace Sys2Proof.Machine

/-- The outcome of every meaning: no command stops the block. -/
abbrev Res := Host.Outcome State Fault Refusal

/-! ## Free values (log entry 3) -/

/-- A free number; the count of draws advances. -/
def drawNat (s : State) : Nat × State := (Config.freeNat s.draws, { s with draws := s.draws + 1 })

/-- Free words with free tags (log entry 3). -/
def freeWords (s : State) (n : Nat) : List PWord × State :=
  ((List.range n).map (fun i => ⟨Config.freeWord (s.draws + 2 * i), Config.freeNat (s.draws + 2 * i + 1) % 2 == 1⟩),
    { s with draws := s.draws + 2 * n })

/-- A free word. -/
def drawWord (s : State) : Word × State := (Config.freeWord s.draws, { s with draws := s.draws + 1 })

/-- Adds an output. -/
def emit (s : State) (o : Out) : State := { s with out := s.out ++ [o] }

/-! ## Registers of the functions -/

/-- The key of a stored register word: index behind a selector, function (0 PF, 1 to 16 the VFs, 17 and 18 the sideband
buses), offset. -/
def regKey (fn idx off : Nat) : Nat := (idx * 32 + fn) * 2 ^ 26 + off

/-- The stored bits of a register. -/
def regGet (s : State) (fn idx off : Nat) : Word := Tab.get (regSpec off).reset s.regs (regKey fn idx off)

/-- Sets the stored bits of a register. -/
def regSet (s : State) (fn idx off : Nat) (w : Word) : State :=
  { s with regs := Tab.set (regSpec off).reset s.regs (regKey fn idx off) w }

/-- Sets status bits. -/
def regOr (s : State) (fn idx off : Nat) (w : Word) : State := regSet s fn idx off (regGet s fn idx off ||| w)

/-- A 64-bit register, low word at `off`. -/
def reg64 (s : State) (fn idx off : Nat) : BitVec 64 := regGet s fn idx (off + 4) ++ regGet s fn idx off

/-- Sets both words of a 64-bit register. -/
def reg64Set (s : State) (fn idx off : Nat) (v : BitVec 64) : State :=
  regSet (regSet s fn idx off (v.truncate 32)) fn idx (off + 4) ((v >>> 32).truncate 32)

/-- Adds to a 64-bit counter (R53). -/
def cntAdd (s : State) (fn idx off n : Nat) : State := reg64Set s fn idx off (reg64 s fn idx off + BitVec.ofNat 64 n)

/-! ## Cores and routers -/

/-- The table key of a logical core. -/
def coreKey (c : CoreId) : Nat := c.y.val * 1022 + c.x.val

/-- The logical core of a table key. -/
def keyCore (k : Nat) : CoreId := ⟨Fin.ofNat 1022 (k % 1022), Fin.ofNat 1080 (k / 1022)⟩

def State.core (s : State) (c : CoreId) : Core := Tab.get {} s.cores (coreKey c)

def State.setCore (s : State) (c : CoreId) (k : Core) : State := { s with cores := Tab.put s.cores (coreKey c) k }

def State.router (s : State) (k : Nat) : Router := Tab.get {} s.routers k

def State.setRouter (s : State) (k : Nat) (r : Router) : State := { s with routers := Tab.put s.routers k r }

/-- The physical row of logical row y: the retired rows, rising, are passed over (R18). -/
def physRow (retired : List Nat) (y : Nat) : Nat := retired.foldl (fun cur r => if r ≤ cur then cur + 1 else cur) y

/-- The half-field (region index) of the core at table key `k` (R17, R18, R369). -/
def halfOfKey (s : State) (k : Nat) : Nat :=
  let hx := k % 1022 / 73
  let fy := physRow s.retired (k / 1022) / 90
  2 * (fy * 7 + hx / 2) + hx % 2

/-- The field of the core at table key `k`. -/
def fieldOfKey (s : State) (k : Nat) : Nat := halfOfKey s k / 2

/-- Whether logical row y is in the grid. -/
def inGrid (s : State) (k : Nat) : Bool := decide (k / 1022 < s.gridRows)

/-! ## Power regions and tests -/

/-- A power region (R369, R370). -/
def State.region (s : State) (r : Nat) : PRegion := Tab.get {} s.power.regions r

def State.setRegion (s : State) (r : Nat) (x : PRegion) : State :=
  { s with power := { s.power with regions := Tab.put s.power.regions r x } }

/-- Whether the links domain of a half-field is powered (R370). -/
def PRegion.linksOn (x : PRegion) : Bool :=
  match x.st with
  | .on => true
  | .retained => true
  | .ramping => x.ramp != .soft
  | .retry => x.ramp != .soft
  | .dead => !x.deadDom.getLsbD 2
  | .off => false

/-- Whether the logic domain of a half-field is powered: a park ramp has not taken it yet (R370, R374). -/
def PRegion.logicOn (x : PRegion) : Bool :=
  match x.st with
  | .on => true
  | .ramping => x.ramp == .park
  | .retry => x.ramp == .park
  | _ => false

/-- The test of a unit (R424). -/
def State.test (s : State) (u : Nat) : TestU := Tab.get {} s.tests u

def State.setTest (s : State) (u : Nat) (t : TestU) : State := { s with tests := Tab.put s.tests u t }

/-- Whether a half-field is isolated by a BIST run or a repair (R410). -/
def isolated (s : State) (h : Nat) : Bool := (s.test h).st == .running

/-- Whether a defect record makes the core at its place defective (R19, R58, R59). -/
def defIsCore (d : DefectRec) : Bool :=
  d.kind == 1 || d.kind == 3 || (d.kind == 4 && d.unit.getLsbD 7)

/-- The physical column of logical column x in physical row py: defective cores of the half-field row, as applied to the
grid, are passed over (R19). -/
def physCol (s : State) (py x : Nat) : Nat :=
  let hx := x / 73
  let bad := (List.range 75).filter (fun c => s.defects.any (fun d => defIsCore d && !d.pending &&
    d.loc.toNat == py * 2 ^ 11 + (75 * hx + c)))
  75 * hx + bad.foldl (fun cur c => if c ≤ cur then cur + 1 else cur) (x % 73)

/-- w1 of R413 for the core or router at a logical place: PY in [21:11], PX in [10:0]. -/
def locRouter (s : State) (k : Nat) : Word :=
  let py := physRow s.retired (k / 1022)
  BitVec.ofNat 32 (py * 2 ^ 11 + physCol s py (k % 1022))

/-- Whether a physical router is recorded unusable, as applied to the grid (R185). -/
def recordedBad (s : State) (place : Nat) : Bool := s.defects.any (fun d => d.kind == 2 && !d.pending && d.loc.toNat == place)

/-- Whether a physical router is unusable: recorded so, or lost in service (R185, R208). -/
def placeLost (s : State) (place : Nat) : Bool := recordedBad s place || s.lostRouters.contains place

/-- Whether the router at core key `k` forwards nothing: unusable, unpowered, or under a links-scope run (R208, R366, R410). -/
def routerDown (s : State) (k : Nat) : Bool :=
  let h := halfOfKey s k
  placeLost s (locRouter s k).toNat || !(s.region h).linksOn || (isolated s h && (s.test h).links)

/-- A core that runs again while its half-field's logic gates off, or waits to be gated again after a short: the ramp is abandoned and the
domain returns on (R50, R374). -/
def wakeRegion (s : State) (k : Nat) : State :=
  let r := s.region (halfOfKey s k)
  if (Tab.get ({} : Core) s.cores k).st = .running ∧ (r.st = .ramping ∨ r.st = .retry) ∧ r.ramp = .park then
    s.setRegion (halfOfKey s k) { r with st := .on, tries := 0 }
  else s

/-! ## Partitions -/

def State.part (s : State) (p : Nat) : Part := Tab.get {} s.parts p

def State.setPart (s : State) (p : Nat) (q : Part) : State := { s with parts := Tab.put s.parts p q }

/-- The partition number of a virtual function (R338). -/
def vfPart (p : Vf) : Nat := p.val + 1

/-- The partition numbers, 1 to 16. -/
def partNums : List Nat := (List.range 16).map (· + 1)

/-- Whether a partition holds anything (R356); a CREATE in progress holds its grants. -/
def isHeld (s : State) (p : Nat) : Bool :=
  decide ((s.part p).st ≠ .free) || (match s.partCmd with
    | some c => c.part == p
    | none => false)

/-- The partition that holds a field, 0 for none. -/
def partOfField (s : State) (f : Nat) : Nat :=
  (partNums.find? (fun p => isHeld s p && (s.part p).fields.getLsbD f)).getD 0

/-- The partition that holds a core. -/
def partOfKey (s : State) (k : Nat) : Nat := partOfField s (fieldOfKey s k)

/-- The grid's core keys of a partition, rising: ascending y then x. -/
def partKeys (s : State) (p : Nat) : List Nat :=
  (List.range (s.gridRows * 1022)).filter (fun k => (s.part p).fields.getLsbD (fieldOfKey s k))

/-- Keys of a partition's cores that the core table lists; every other core of it is at its reset value. -/
def listedKeys (s : State) (p : Nat) : List Nat :=
  (s.cores.map (·.1)).filter (fun k => inGrid s k && (s.part p).fields.getLsbD (fieldOfKey s k))

/-- A violation of kind `kind` by partition p (R361). -/
def violate (s : State) (p kind : Nat) : State :=
  if p = 0 then s else regSet (cntAdd s 0 p 0x200050 1) 0 p 0x200058 (BitVec.ofNat 32 kind)

/-- `n` violations of one kind. -/
def violateN (s : State) (p kind n : Nat) : State :=
  if p = 0 ∨ n = 0 then s else regSet (cntAdd s 0 p 0x200050 n) 0 p 0x200058 (BitVec.ofNat 32 kind)

/-! ## Fault reports (R454 to R456) -/

/-- Scope codes of R454. -/
inductive Scope where
  | core | region | part | unit | engine
  deriving DecidableEq, Repr

def Scope.code : Scope → Nat
  | .core => 0 | .region => 1 | .part => 2 | .unit => 3 | .engine => 4

def State.ring (s : State) (fn : Nat) : Ring := Tab.get {} s.rings fn

/-- The first word of a report (R454). -/
def reportW0 (code : Nat) (sc : Scope) (sev : Nat) (free phase : Bool) (part : Nat) : Word :=
  BitVec.ofNat 32 (code * 2 ^ 24 + sc.code * 2 ^ 21 + sev * 2 ^ 19 + free.toNat * 2 ^ 18 + phase.toNat * 2 ^ 17 + part)

/-- Writes one report to one function's ring, or counts it lost (R456). -/
def reportTo (s : State) (fn code : Nat) (sc : Scope) (sev part : Nat) (loc v0 v1 : Word) : State :=
  let key : ReportKey := ⟨fn, code, part, loc, v0⟩
  if s.recent.contains key then s
  else
    let s := { s with recent := s.recent ++ [key] }
    let r := s.ring fn
    let ctl := regGet s fn 0 0xD00008
    let size := 2 ^ fld ctl 19 16
    let head := fld (regGet s fn 0 0xD0000C) 15 0
    let tail := fld (regGet s fn 0 0xD00010) 15 0
    let s1 := { s with rings := Tab.put s.rings fn { r with seq := r.seq + 1 } }
    if ctl.getLsbD 31 = false ∨ (tail + 1) % size = head then
      regOr (cntAdd s1 fn 0 0xD00030 1) fn 0 0xD00014 (bits 31 31)
    else
      let ws : List Word := [reportW0 code sc sev (!s.ptpLock) r.phase part, loc, s.time.truncate 32,
        (s.time >>> 32).truncate 32, r.seq.truncate 32, (r.seq >>> 32).truncate 32, v0, v1]
      let base := (reg64 s fn 0 0xD00000).toNat
      let tail' := (tail + 1) % size
      let s2 := emit s1 (.host fn (base + 32 * tail) (ws.map (fun w => ⟨w, false⟩)))
      let s3 := emit s2 (.msix fn (if fn = 0 then 31 else 8))
      let s4 := { s3 with rings := Tab.put s3.rings fn ⟨if tail' = 0 then !r.phase else r.phase, r.seq + 1⟩ }
      cntAdd (regSet s4 fn 0 0xD00010 (BitVec.ofNat 32 tail')) fn 0 0xD00028 1

/-- A report to a list of functions. After a safe stop begins, reports go to the event log only (R394). -/
def reportAll (s : State) (fns : List Nat) (code : Nat) (sc : Scope) (sev part : Nat) (loc v0 v1 : Word) : State :=
  if s.quiet then s else fns.foldl (fun s fn => reportTo s fn code sc sev part loc v0 v1) s

/-- To the partition named and the PF; to the PF only while the partition is being destroyed (R455, R457). -/
def reportP (s : State) (code : Nat) (sc : Scope) (sev p : Nat) (loc v0 v1 : Word) : State :=
  if p = 0 ∨ (s.part p).st = .destroying then reportAll s [0] code sc sev p loc v0 v1
  else reportAll s [p, 0] code sc sev p loc v0 v1

/-- To the PF and every LIVE partition, PART 0 (R455). -/
def reportE (s : State) (code : Nat) (sc : Scope) (sev : Nat) (loc v0 v1 : Word) : State :=
  reportAll s (0 :: partNums.filter (fun p => decide ((s.part p).st = .live))) code sc sev 0 loc v0 v1

/-- To the PF only (R455). -/
def reportF (s : State) (code : Nat) (sc : Scope) (sev : Nat) (loc v0 v1 : Word) : State :=
  reportAll s [0] code sc sev 0 loc v0 v1

/-! ## The event log (R402, R403) -/

/-- SOURCE of a record the supervisor makes: the instance that holds the token. -/
def tambSource (s : State) : Nat := if s.tamb.tb = .active then 1 else 0

/-- Queues a log record; one that finds 4,096 waiting is discarded and counted. It takes no SEQ then (log entry 39). -/
def logFrom (s : State) (source cls code p region : Nat) (v0 v1 : Word) : State :=
  if 4096 ≤ s.tamb.queue.length then regOr (cntAdd s 0 0 0xA00068 1) 0 0 0xA00004 8
  else
    let n := s.tamb.seq
    let w0 := BitVec.ofNat 32 (cls * 2 ^ 24 + code * 2 ^ 16 + source * 2 ^ 14 + (!s.ptpLock).toNat * 2 ^ 13 + p)
    let ws : List Word := [w0, BitVec.ofNat 32 (region * 2 ^ 16), s.time.truncate 32, (s.time >>> 32).truncate 32,
      n.truncate 32, (n >>> 32).truncate 32, v0, v1]
    { s with tamb := { s.tamb with seq := n + 1, queue := s.tamb.queue ++ [(n, ws)] } }

/-- Queues a record of the active instance. -/
def logRecord (s : State) (cls code p region : Nat) (v0 v1 : Word) : State := logFrom s (tambSource s) cls code p region v0 v1

/-- LOC of a core (R454). -/
def locCore (k : Nat) : Word := BitVec.ofNat 32 (k / 1022 * 1024 + k % 1022)

/-- Whether the records of a defect map retire physical row py (R18, R415). -/
def rowRetired (ds : List DefectRec) (py : Nat) : Bool :=
  ds.any (fun d => (d.kind == 5 && fld d.loc 21 11 == py) ||
    ((d.kind == 6 || d.kind == 7) && decide (fld d.loc 7 0 < 168 ∧ fld d.loc 7 0 / 2 / 7 = py / 90))) ||
  (List.range 14).any (fun hx =>
    decide (2 < (((ds.filter (fun d => defIsCore d && fld d.loc 21 11 == py && fld d.loc 10 0 / 75 == hx)).map
      (fun d => fld d.loc 10 0)).dedup).length))

/-- GOOD_ROWS follows the map at once, and does not rise before the next power-up test (R6, R11, R205). -/
def countRows (s : State) : State :=
  { s with goodRows := min s.goodRows ((List.range 1080).filter (fun py => !s.retired.contains py && !rowRetired s.defects py)).length }

/-- Writes a defect record, unless the map is full (R414); a record already held stands, with its earlier TIME (events met in
chapter 16). -/
def writeDefect (s : State) (d : DefectRec) : State :=
  if s.defects.any (fun e => e.kind == d.kind && e.unit == d.unit && e.loc == d.loc) then s
  else if s.defects.length < 65535 then countRows { s with defects := s.defects ++ [d] }
  else regOr s 0 0 0xB00014 (bits 29 29)

/-- Whether the records of cores now retire physical row py, which no ROW record names yet. -/
def newlyRetired (s : State) (py : Nat) : Bool :=
  !s.retired.contains py && rowRetired s.defects py && !s.defects.any (fun d => d.kind == 5 && fld d.loc 21 11 == py)

/-- Writes a pending defect record found in service (R205, R414), and beside that of a core the record of the row it retires (R11, R18). -/
def recordDefect (s : State) (kind : BitVec 4) (source : BitVec 3) (unit : BitVec 8) (loc : Word) : State :=
  let d : DefectRec := ⟨kind, true, source, unit, loc, s.time⟩
  let s := writeDefect s d
  if defIsCore d && newlyRetired s (fld loc 21 11) then
    writeDefect s ⟨5, true, source, 0, BitVec.ofNat 32 (fld loc 21 11 * 2048), s.time⟩
  else s

end Sys2Proof.Machine
end

