-- ==== Sys2Proof/Machine/Chime.lean ====
section
/-! DEFINITION. Acknowledgements, chimes and pairs as every family uses them: sending an ACK back (R200), applying an
advance at a home (R215, R218, R220, R452), realigning a pair (R221). -/

namespace Sys2Proof.Machine

/-- A header word (R197). -/
def header (type : Nat) (tap : Option Nat) (waddr : Nat) : Word :=
  BitVec.ofNat 32 (type * 2 ^ 28 + (match tap with | some t => 2 ^ 27 + t % 64 * 2 ^ 21 | none => 0) + waddr % 2 ^ 16)

/-- Adds words to an input track of a router. -/
def pushTrack (s : State) (r t : Nat) (ws : List TWord) : State :=
  let q := s.router r
  s.setRouter r { q with inq := Tab.put q.inq t (Tab.get [] q.inq t ++ ws) }

/-- The destination emits the one-word ACK of a packet, on the track the packet came by (R200; log entry 8). A packet whose
header had no sender of its own, which only disagreeing tables make (R194), names a free route. -/
def pushAck (s : State) (p : Packet) (tap : Option Nat) : State :=
  match p.hd with
  | some g => pushTrack s p.router p.inTrack
      [⟨⟨header 6 tap g.route.toNat, false⟩, some ⟨g.src, g.route, 1⟩⟩]
  | none =>
    let (w, s) := drawWord s
    pushTrack s p.router p.inTrack [⟨⟨header 6 tap (w.toNat % 256), false⟩, none⟩]

/-- Whether two packets came from one sender on one route to one destination: their ACKs return in their order (R200). -/
def sameRoute (p q : Packet) : Bool :=
  p.router == q.router && p.inTrack == q.inTrack && (match p.hd, q.hd with
    | some a, some b => a.src == b.src && a.route == b.route
    | _, _ => false)

/-- Acknowledges a packet: at once, or behind the pending watch on its route (R200, R216). -/
def sendAck (s : State) (p : Packet) (tap : Option Nat) : State :=
  if s.acks.any (fun a => sameRoute a.pkt p) then { s with acks := s.acks ++ [⟨p, tap, true⟩] } else pushAck s p tap

/-- The ACKs that may leave do, in order: none passes an earlier one of its route (R216). -/
def flushAcks (s : State) : List HeldAck → List HeldAck → State
  | [], kept => { s with acks := kept }
  | a :: rest, kept =>
    if a.ready && !kept.any (fun b => sameRoute b.pkt a.pkt) then flushAcks (pushAck s a.pkt a.tap) rest kept
    else flushAcks s rest (kept ++ [a])

/-- A watch's ACK may leave, with the tap it sets (R216). -/
def releaseAck (s : State) (p : Packet) (tap : Option Nat) : State :=
  let mark (a : HeldAck) : HeldAck := if a.pkt == p && !a.ready then ⟨p, tap, true⟩ else a
  flushAcks s (s.acks.map mark) []

/-- The at-or-past rule (R110). -/
def atOrPast (c t : Word) : Bool := decide ((c - t).toNat < 2 ^ 31)

/-- The value of a global chime. -/
def chimeVal (s : State) (g : Nat) : Word := Tab.get 0 s.chimes g

/-- The partition that holds a global chime (R212). -/
def partOfChime (s : State) (g : Nat) : Nat :=
  (partNums.find? (fun p => isHeld s p && decide ((s.part p).chimeBase ≤ g ∧ g < (s.part p).chimeBase + (s.part p).chimeCount))).getD 0

/-- The value a watch or a wait sees: a chime at or beyond the quota reads zero (R111). -/
def partChimeVal (s : State) (p n : Nat) : Word :=
  if n < (s.part p).chimeCount then chimeVal s ((s.part p).chimeBase + n) else 0

/-- The pair whose producer is a global chime. -/
def pairAt (s : State) (g : Nat) : Pair := Tab.get {} s.pairs g

/-- The violations of a pair now: bit 0 OVERRUN, 1 UNDERRUN, 2 WINDOW (R220). -/
def pairViolation (pr : Pair) (vp vc : Word) : Word :=
  let d := vp - vc
  (if pr.bound.toNat < d.toNat ∧ d.toNat < 2 ^ 31 then 1 else 0) ||| (if 2 ^ 31 ≤ d.toNat then 2 else 0) |||
  (if 2 ^ 30 ≤ (vp - pr.refP).toNat ∨ 2 ^ 30 ≤ (vc - pr.refC).toNat then 4 else 0)

/-- Checks one pair of partition p, producer at global chime g (R220). -/
def pairCheck (s : State) (p g : Nat) : State :=
  let pr := pairAt s g
  if !pr.valid || pr.broken then s
  else
    let v := pairViolation pr (chimeVal s g) (chimeVal s ((s.part p).chimeBase + pr.consumer.toNat))
    if v = 0 then s
    else
      let s := { s with pairs := Tab.put s.pairs g { pr with broken := true } }
      let s := regOr s p 0 0x80000C v
      reportP s 0x06 .part 1 p 0 (BitVec.ofNat 32 (g - (s.part p).chimeBase)) (regGet s p 0 0x80000C &&& 7)

/-- The producers of the valid pairs of partition p that a global chime takes part in. -/
def pairsOf (s : State) (p g : Nat) : List Nat :=
  (s.pairs.filter (fun e => e.2.valid && (e.1 == g || (s.part p).chimeBase + e.2.consumer.toNat == g) &&
    decide ((s.part p).chimeBase ≤ e.1 ∧ e.1 < (s.part p).chimeBase + (s.part p).chimeCount))).map (·.1)

/-- Copies a chime into the partition's mirrors that name it (R452). -/
def mirror (s : State) (p g : Nat) : State :=
  (List.range 8).foldl (fun s n =>
    let off := 0xD00200 + 16 * n
    let c := regGet s p 0 off
    if c.getLsbD 31 ∧ (s.part p).chimeBase + fld c 15 0 = g then
      reg64Set (regSet s p 0 (off + 4) (chimeVal s g)) p 0 (off + 8) s.time
    else s) s

/-- A CHIME_WAIT is answered: its command ends OK with the chime's value (R344, R350). -/
def endWait (s : State) (n : Nat) (v : Word) : State :=
  let q := Tab.get ({} : HQueue) s.hqs n
  { s with hqs := Tab.put s.hqs n { q with cpl := some (0, v) } }

/-- Answers one watch: a core's by its ACK with the tap (R216), a queue's by the end of its command; the others leave the home, and
the event of their holder goes on (R297, R326, R350). -/
def answerWatch (s : State) (w : Watch) : State :=
  let s := { s with watches := s.watches.erase w }
  match w.who with
  | .core _ tap pkt => releaseAck s pkt (some tap.val)
  | .stream _ => s
  | .chain _ => s
  | .queue n => endWait s n (chimeVal s w.chime)

/-- Applies an advance at the home of a global chime: value, pair checks, watches in the order posted, mirrors (R215, R218,
R220, R452). -/
def chimeAdvance (s : State) (g : Nat) (step : Word) : State :=
  let s := { s with chimes := Tab.set 0 s.chimes g (chimeVal s g + step), chimeTime := Tab.set 0 s.chimeTime g s.time }
  let p := partOfChime s g
  let s := (pairsOf s p g).foldl (fun s q => pairCheck s p q) s
  let s := (s.watches.filter (fun w => w.chime == g && atOrPast (chimeVal s g) w.thr)).foldl answerWatch s
  mirror s p g

/-- An advance by partition p of its chime n: beyond the quota it is ignored and counted (R111, R350). -/
def partAdvance (s : State) (p n : Nat) (step : Word) : State :=
  if n < (s.part p).chimeCount then chimeAdvance s ((s.part p).chimeBase + n) step else violate s p 3

/-- Sets both references of a pair to the chimes' values (R219, R221). -/
def pairRef (s : State) (p g : Nat) : State :=
  let pr := pairAt s g
  let pr' := { pr with refP := chimeVal s g, refC := chimeVal s ((s.part p).chimeBase + pr.consumer.toNat) }
  { s with pairs := Tab.put s.pairs g pr' }

/-- Realigns every valid pair of partition p that names lane l (R221). -/
def realign (s : State) (p l : Nat) : State :=
  let prs := (s.pairs.filter (fun e => e.2.valid && e.2.lane.toNat == l && partOfChime s e.1 == p)).map (·.1)
  prs.foldl (fun s g => pairRef (pairCheck s p g) p g) s

end Sys2Proof.Machine
end

