-- ==== Sys2Proof/Machine/Lane.lean ====
section
/-! DEFINITION. Downbeat lanes (R223 to R229): participation, arrival, release, failure, and what a fence does to barriers. -/

namespace Sys2Proof.Machine

def State.lane (s : State) (n : Nat) : Lane := Tab.get {} s.lanes n

def State.setLane (s : State) (n : Nat) (l : Lane) : State := { s with lanes := Tab.put s.lanes n l }

/-- The physical lane of a partition's lane (R223, R354). -/
def physLane (s : State) (p l : Nat) : Option Nat := (s.part p).lanes[l]?

/-- The stored enable word of a core: lanes 0 to 63 as last written (R230). -/
def laneEnWritten (k : Core) : BitVec 64 := Tab.get 0 k.ctl 0x104 ++ Tab.get 0 k.ctl 0x100

/-- The lanes on which a core's arrival is outstanding (R230). -/
def lanePend (k : Core) : BitVec 64 := Tab.get 0 k.ctl 0x10C ++ Tab.get 0 k.ctl 0x108

/-- Sets or clears a core's outstanding bit of a lane. -/
def setPend (k : Core) (l : Nat) (v : Bool) : Core :=
  let w : BitVec 64 := if v then lanePend k ||| (1 <<< l) else lanePend k &&& ~~~((1 : BitVec 64) <<< l)
  { k with ctl := Tab.set 0 (Tab.set 0 k.ctl 0x108 (w.truncate 32)) 0x10C ((w >>> 32).truncate 32) }

/-- Whether the core at key `k` participates in partition lane `l` under the values last written (R224). -/
def participatesWritten (s : State) (k l : Nat) : Bool :=
  let p := partOfKey s k
  match physLane s p l with
  | none => false
  | some n => (laneEnWritten (Tab.get {} s.cores k)).getLsbD l && (s.lane n).mask.getLsbD (fieldOfKey s k)

/-- Whether the core participates under the values in force (R224, R226). -/
def participates (s : State) (k l : Nat) : Bool :=
  let p := partOfKey s k
  match physLane s p l with
  | none => false
  | some n => (Tab.get {} s.cores k : Core).enForce.getLsbD l && (s.lane n).maskF.getLsbD (fieldOfKey s k)

/-- The partition's index of a physical lane. -/
def laneIndex (s : State) (n : Nat) : Nat := ((s.part (s.lane n).owner).lanes.findIdx? (· == n)).getD 64

/-- Whether every participant of the barrier has arrived or is FENCED (R225). -/
def laneComplete (s : State) (n : Nat) : Bool :=
  let ln := s.lane n
  let l := laneIndex s n
  (listedKeys s ln.owner).all (fun k => !participates s k l || ln.arrived.contains (keyCore k) ||
    decide ((Tab.get {} s.cores k : Core).st = .fenced))

/-- The values last written come into force on lane n (R226). -/
def laneApply (s : State) (n : Nat) : State :=
  let ln := s.lane n
  let l := laneIndex s n
  let s := s.setLane n { ln with maskF := ln.mask, ctrlF := ln.ctrl }
  (listedKeys s ln.owner).foldl (fun s k =>
    let c := Tab.get ({} : Core) s.cores k
    let b := (laneEnWritten c).getLsbD l
    let e : BitVec 64 := if b then c.enForce ||| (1 <<< l) else c.enForce &&& ~~~((1 : BitVec 64) <<< l)
    { s with cores := Tab.put s.cores k { c with enForce := e } }) s

/-- Ends the arrivals of a barrier with a status (R113, R228). -/
def endArrivals (s : State) (l : Nat) (status : Word) (cs : List CoreId) : State :=
  cs.foldl (fun s c =>
    let k := setPend (s.core c) l false
    s.setCore c { k with dbRel := Tab.set 0 k.dbRel l status }) s

/-- Latches the due slots of partition p whose lane is l (R270). -/
def latchSlots (s : State) (p l : Nat) : State :=
  let latch (e : Nat × WSlot) : Nat × WSlot :=
    if e.1 / 1024 = p ∧ e.2.bound ∧ e.2.due ∧ e.2.lane = l then
      (e.1, { e.2 with lg := (Tab.get ({} : MSet) s.wst.sets e.2.mset).gen, due := false })
    else e
  { s with wst := { s.wst with slots := s.wst.slots.map latch } }

/-- The status chime advance of a lane (R227, R228). -/
def statusChime (s : State) (n : Nat) (step : Word) : State :=
  let ln := s.lane n
  if ln.ctrlF.getLsbD 16 then partAdvance s ln.owner (fld ln.ctrlF 15 0) step else s

/-- Releases lane n (R225): realignment, slot latches, the release count, the status chime; then the participants' arrivals
end, with ROUTE_LOST where the partition is route-lost (R446), and written values come into force. -/
def laneRelease (s : State) (n : Nat) : State :=
  let ln := s.lane n
  let p := ln.owner
  let l := laneIndex s n
  let s := latchSlots (realign s p l) p l
  let s := s.setLane n { ln with st := .idle, arrived := [], releases := ln.releases + 1 }
  let s := statusChime s n 1
  let s := endArrivals s l (if (s.part p).routeLost then 3 else 0) ln.arrived
  laneApply s n

/-- Releases lane n if its barrier is complete. -/
def laneTry (s : State) (n : Nat) : State :=
  if (s.lane n).st = .busy ∧ laneComplete s n then laneRelease s n else s

/-- A core of partition p has been fenced: it counts as arrived on every lane (R225). -/
def laneSettle (s : State) (p : Nat) : State := (s.part p).lanes.foldl laneTry s

/-- The cores of a lane's partition with an arrival outstanding, taken by the lane or still on its way (R113, R230). -/
def laneOutstanding (s : State) (n : Nat) : List CoreId :=
  let l := laneIndex s n
  ((listedKeys s (s.lane n).owner).filter (fun k => (lanePend (Tab.get {} s.cores k)).getLsbD l)).map keyCore

/-- Lane n fails (R228): every arrival outstanding on it ends FAILED. -/
def laneFail (s : State) (n : Nat) : State :=
  let ln := s.lane n
  let p := ln.owner
  let l := laneIndex s n
  let s := endArrivals s l 2 (laneOutstanding s n)
  let s := s.setLane n { ln with st := .failed, arrived := [] }
  let s := regOr s p 0 0x80000C 0x10
  let s := statusChime s n 0x40000000
  let s := latchSlots s p l
  let s := logRecord s 6 0x07 p 0xFFFF (BitVec.ofNat 32 l) (BitVec.ofNat 32 n)
  reportP s 0x07 .part 2 p 0 (BitVec.ofNat 32 l) (BitVec.ofNat 32 n)

/-- A barrier is abandoned without release (R229, R360). -/
def laneAbandon (s : State) (n : Nat) : State :=
  let ln := s.lane n
  if ln.st = .busy then
    let s := endArrivals s (laneIndex s n) 0 (laneOutstanding s n)
    laneApply (s.setLane n { ln with st := .idle, arrived := [] }) n
  else s

end Sys2Proof.Machine
end

