-- ==== Sys2Proof/Machine/Operands.lean ====
section
/-! DEFINITION. Operands of core instructions: the register sets with their hard-wired members (R33), the lanes of a vector
register (R73, R74), core-local memory with its tags (R34 to R36), and the core control registers (R52, R150, R179, R230). -/

namespace Sys2Proof.Machine

/-! ## Registers -/

/-- s[r]; s0 reads as zero (R33). -/
def Core.rs (k : Core) (r : Fin 32) : PWord := if r = 0 then ⟨0, false⟩ else Tab.get ⟨0, false⟩ k.s r.val

/-- Writes s[r]; a write to s0 is discarded (R33). -/
def Core.setS (k : Core) (r : Fin 32) (w : PWord) : Core :=
  if r = 0 then k else { k with s := Tab.set ⟨0, false⟩ k.s r.val w }

/-- a[r] (R33). -/
def Core.ra (k : Core) (r : Fin 8) : PWord := Tab.get ⟨0, false⟩ k.a r.val

def Core.setA (k : Core) (r : Fin 8) (w : PWord) : Core := { k with a := Tab.set ⟨0, false⟩ k.a r.val w }

/-- p[r]; p0 reads as all ones (R33). -/
def Core.rp (k : Core) (r : Fin 8) : Word := if r = 0 then BitVec.allOnes 32 else Tab.get 0 k.p r.val

/-- Writes p[r]; a write to p0 is discarded (R33). -/
def Core.setP (k : Core) (r : Fin 8) (w : Word) : Core :=
  if r = 0 then k else { k with p := Tab.set 0 k.p r.val w }

def VReg.zero : VReg := ⟨0, 0⟩

/-- v[r] (R33). -/
def Core.rv (k : Core) (r : Fin 16) : VReg := Tab.get VReg.zero k.v r.val

def Core.setV (k : Core) (r : Fin 16) (x : VReg) : Core := { k with v := Tab.set VReg.zero k.v r.val x }

/-- d[r] (R94). -/
def Core.rd (k : Core) (r : Fin 16) : VReg := Tab.get VReg.zero k.d r.val

def Core.setD (k : Core) (r : Fin 16) (x : VReg) : Core := { k with d := Tab.set VReg.zero k.d r.val x }

/-- Word i of a 256-bit register. -/
def VReg.word (x : VReg) (i : Nat) : Word := (x.val >>> (32 * i)).truncate 32

/-- Word i with its tag. -/
def VReg.pword (x : VReg) (i : Nat) : PWord := ⟨x.word i, x.tag.getLsbD i⟩

/-- The eight words of a register with their tags. -/
def VReg.words (x : VReg) : List PWord := (List.range 8).map x.pword

/-- How many of its words are poisoned. -/
def VReg.poisoned (x : VReg) : Nat := (x.words.filter (·.poison)).length

/-- A register from words, word 0 first. -/
def VReg.ofWords (ws : List PWord) : VReg :=
  ⟨BitVec.ofNat 256 (ws.foldr (fun w n => w.val.toNat + 2 ^ 32 * n) 0), BitVec.ofNat 8 (ws.foldr (fun w n => w.poison.toNat + 2 * n) 0)⟩

/-- Element (row, col) of an accumulator tile (R33). -/
def Core.accGet (k : Core) (t : Fin 4) (e : Nat) : PWord := Tab.get ⟨0, false⟩ k.acc (t.val * 256 + e)

def Core.accSet (k : Core) (t : Fin 4) (e : Nat) (w : PWord) : Core :=
  { k with acc := Tab.set ⟨0, false⟩ k.acc (t.val * 256 + e) w }

/-- Sets elements of a tile from `e` on. -/
def Core.accPut (k : Core) (t : Fin 4) (e : Nat) : List PWord → Core
  | [] => k
  | w :: ws => (k.accSet t e w).accPut t (e + 1) ws

/-! ## Lanes of a vector register (R73, R74) -/

/-- The width of a lane in bytes. -/
def laneBytes : LaneTy → Nat
  | .fp32 => 4 | .bf16 => 2 | .i32 => 4 | .i16 => 2 | .i8 => 1 | .u8 => 1

/-- Lanes per register. -/
def laneCount (ty : LaneTy) : Nat := 32 / laneBytes ty

def isFloat : LaneTy → Bool
  | .fp32 => true | .bf16 => true | _ => false

/-- Lane i of a register, as a number. -/
def VReg.lane (x : VReg) (ty : LaneTy) (i : Nat) : Nat := x.val.toNat / 2 ^ (8 * laneBytes ty * i) % 2 ^ (8 * laneBytes ty)

/-- The word of a register that holds lane i. -/
def laneWord (ty : LaneTy) (i : Nat) : Nat := i * laneBytes ty / 4

/-- Whether lane i is enabled by a predicate: the bit of its lowest byte (R74). -/
def laneOn (p : Word) (ty : LaneTy) (i : Nat) : Bool := p.getLsbD (i * laneBytes ty)

/-- A register written lane by lane: `f i` is the new lane with its poison, `none` where the lane is kept (R74, R78). -/
def VReg.build (old : VReg) (ty : LaneTy) (f : Nat → Option (Nat × Bool)) : VReg :=
  let n := laneCount ty
  let w := 8 * laneBytes ty
  let val := (List.range n).foldr (fun i acc => (match f i with | some (v, _) => v % 2 ^ w | none => old.lane ty i) + 2 ^ w * acc) 0
  let tag := (List.range 8).foldr (fun j acc =>
    let ls := (List.range n).filter (fun i => laneWord ty i == j)
    let wr := ls.filterMap f
    let kept := decide (wr.length < ls.length)
    let t := wr.any (·.2) || (kept && old.tag.getLsbD j)
    t.toNat + 2 * acc) 0
  ⟨BitVec.ofNat 256 val, BitVec.ofNat 8 tag⟩

/-! ## Core-local memory (R35, R36) -/

/-- The parts of the core-local address space. -/
inductive Region where
  | near | stack | ctl | none
  deriving DecidableEq, Repr

/-- The part an access of `n` bytes at `a` falls in; `none` where any byte is unmapped or the access leaves its part. -/
def regionOf (a n : Nat) : Region :=
  if a + n ≤ 0xC000 then .near
  else if 0x10000 ≤ a ∧ a + n ≤ 0x28000 then .stack
  else if 0x31000 ≤ a ∧ a + n ≤ 0x31200 then .ctl
  else .none

/-- Whether [a, a + n) lies in near memory or in stack memory. -/
def inMem (a n : Nat) : Bool := regionOf a n == .near || regionOf a n == .stack

/-- The word that holds address `a`, with its tag. -/
def Core.memWord (k : Core) (a : Nat) : PWord := ⟨Memory.word k.mem (a / 4 * 4), Tab.get false k.memTag (a / 4)⟩

/-- Writes a whole word with its tag. -/
def Core.setMemWord (k : Core) (a : Nat) (w : PWord) : Core :=
  { k with mem := Memory.setWord k.mem a w.val, memTag := Tab.set false k.memTag (a / 4) w.poison }

/-- Writes words from `a` on. -/
def Core.putWords (k : Core) (a : Nat) : List PWord → Core
  | [] => k
  | w :: ws => (k.setMemWord a w).putWords (a + 4) ws

/-- The `n` words from `a` on. -/
def Core.getWords (k : Core) (a n : Nat) : List PWord := Memory.getWords k.mem k.memTag a n

/-- Writes `n` low bytes of a register into the word that holds them; the word is poisoned afterwards if it was or if the
register was (R69). -/
def Core.setSub (k : Core) (a n : Nat) (w : PWord) : Core :=
  let t := w.poison || Tab.get false k.memTag (a / 4)
  { k with mem := Memory.setNat k.mem a n w.val.toNat, memTag := Tab.set false k.memTag (a / 4) t }

/-! ## Core control registers (R52, R150, R179, R230) -/

/-- The stored bits of the control register at an offset. -/
def ctlSpec (o : Nat) : RegSpec :=
  if 0x48 ≤ o ∧ o < 0x80 then (if o = 0x50 ∨ o = 0x54 ∨ o = 0x68 ∨ o = 0x6C then {} else rwAll)
  else if 0x90 ≤ o ∧ o < 0xB8 then rwAll
  else if 0xC8 ≤ o ∧ o < 0xF8 then rwAll
  else match o with
    | 0x04 => { w1c := 8 }
    | 0x08 => { rw := 3, reset := 1 }
    | 0x10 => { w1c := BitVec.allOnes 32 }
    | 0x14 => { w1c := BitVec.allOnes 32 }
    | 0x80 => { rw := bits 23 16 ||| bits 13 7 ||| bits 1 0, reset := 0x00010000 }
    | 0x84 => { rw := BitVec.allOnes 32, reset := 1 }
    | 0x88 => { rw := bits 15 0, reset := 0xFE00 }
    | 0x8C => { w1c := bits 31 30 }
    | 0xB8 => { rw := bits 2 0 }
    | 0xC0 => { rw := bits 7 0 }
    | 0x100 => rwAll
    | 0x104 => rwAll
    | 0x110 => rwAll
    | 0x114 => rwAll
    | 0x118 => rwAll
    | 0x11C => rwAll
    | _ => {}

/-- The stored word of a control register. -/
def Core.ctlW (k : Core) (o : Nat) : Word := Tab.get (ctlSpec o).reset k.ctl o

def Core.setCtl (k : Core) (o : Nat) (w : Word) : Core := { k with ctl := Tab.set (ctlSpec o).reset k.ctl o w }

/-- A 64-bit control register. The three that count beats are kept apart (log entry 3). -/
def Core.ctl64 (k : Core) (o : Nat) : BitVec 64 :=
  if o = 0x40 then k.cntBeats else if o = 0x50 then k.cntWait else if o = 0x68 then k.cntBank
  else k.ctlW (o + 4) ++ k.ctlW o

def Core.setCtl64 (k : Core) (o : Nat) (v : BitVec 64) : Core :=
  if o = 0x40 then { k with cntBeats := v } else if o = 0x50 then { k with cntWait := v }
  else if o = 0x68 then { k with cntBank := v }
  else (k.setCtl o (v.truncate 32)).setCtl (o + 4) ((v >>> 32).truncate 32)

/-- Whether an offset is the low word of a 64-bit control register. -/
def ctlLow64 (o : Nat) : Bool :=
  [0x40, 0x48, 0x50, 0x58, 0x60, 0x68, 0x70, 0x78, 0x90, 0x98, 0xA0, 0xA8, 0xB0, 0xC8, 0xD0, 0xD8, 0xE0, 0x110, 0x118].contains o

/-- Whether the counter at an offset counts now: only a RUNNING or WAITING core counts (R53); CNT_EN holds those at 0x40 to
0x7F and the safeguard counters (R52, R145). -/
def Core.counts (k : Core) (o : Nat) : Bool :=
  (k.st == .running || k.st == .waiting) && ((k.ctlW 0x08).getLsbD 0 || decide (0xC0 ≤ o))

/-- Adds `n` to a counter while it counts. -/
def Core.count (k : Core) (o n : Nat) : Core :=
  if k.counts o then k.setCtl64 o (k.ctl64 o + BitVec.ofNat 64 n) else k

def CoreMode.code : CoreMode → Nat
  | .running => 0 | .waiting => 1 | .sleeping => 2 | .retained => 3 | .fenced => 4

/-- The tap flags (R52). -/
def Core.taps (k : Core) : BitVec 64 := k.ctlW 0x14 ++ k.ctlW 0x10

def Core.setTaps (k : Core) (t : BitVec 64) : Core :=
  (k.setCtl 0x10 (t.truncate 32)).setCtl 0x14 ((t >>> 32).truncate 32)

def Core.tapOn (k : Core) (t : Fin 64) : Bool := k.taps.getLsbD t.val

def Core.putTap (k : Core) (t : Fin 64) (v : Bool) : Core :=
  k.setTaps (if v then k.taps ||| (1 <<< t.val) else k.taps &&& ~~~((1 : BitVec 64) <<< t.val))

/-- The current fallback entry's stored word (R150). -/
def Core.fbEntry (k : Core) (i : Nat) : Word := Tab.get 0 k.fb i

/-- The lanes whose enable bit reads 1 at a core: enabled and its field in the mask, as last written (R224, R230). -/
def laneEnRead (s : State) (key : Nat) : BitVec 64 :=
  BitVec.ofNat 64 ((List.range 64).foldr (fun l acc => (participatesWritten s key l).toNat + 2 * acc) 0)

/-- The live value of the control register word at offset `o`, for the core at table key `key`. -/
def ctlRead (s : State) (key : Nat) (k : Core) (o : Nat) : Word :=
  if o = 0x00 then locCore key
  else if o = 0x04 then (k.ctlW o &&& ~~~(7 : Word)) ||| BitVec.ofNat 32 k.st.code
  else if o = 0xBC then k.fbEntry (fld (k.ctlW 0xB8) 2 0)
  else if o = 0x40 ∨ o = 0x50 ∨ o = 0x68 then (k.ctl64 o).truncate 32
  else if o = 0x44 ∨ o = 0x54 ∨ o = 0x6C then (k.ctl64 (o - 4) >>> 32).truncate 32
  else if o = 0x100 then (laneEnRead s key).truncate 32
  else if o = 0x104 then (laneEnRead s key >>> 32).truncate 32
  else k.ctlW o

/-- A load of a control register, with the core's own shadow (R15, R52). -/
def ctlLoad (s : State) (key : Nat) (k : Core) (o : Nat) : Word × Core :=
  if ctlLow64 o then (ctlRead s key k o, { k with shadow := some (o, ctlRead s key k (o + 4)) })
  else if 4 ≤ o ∧ ctlLow64 (o - 4) then
    match k.shadow with
    | some (r, w) => (if r = o - 4 then w else ctlRead s key k o, k)
    | none => (ctlRead s key k o, k)
  else (ctlRead s key k o, k)

/-- The lanes of a partition that are idle now, by partition lane number. -/
def laneIdle (s : State) (key l : Nat) : Bool :=
  match physLane s (partOfKey s key) l with
  | some n => decide ((s.lane n).st ≠ .busy)
  | none => true

/-- Enables in force after a store to the enable word at 0x100 + 4h: at once on lanes that are not BUSY (R226). -/
def enNow (s : State) (key : Nat) (k : Core) (h : Nat) (w : Word) : BitVec 64 :=
  (List.range 32).foldl (fun e i =>
    let l := 32 * h + i
    if laneIdle s key l then
      (if w.getLsbD i then e ||| ((1 : BitVec 64) <<< l) else e &&& ~~~((1 : BitVec 64) <<< l))
    else e) k.enForce

/-- The bits of lanes outside the partition's grant are RZ (R230). -/
def laneGrant (s : State) (key h : Nat) : Word :=
  BitVec.ofNat 32 ((List.range 32).foldr (fun i acc =>
    (decide (32 * h + i < (s.part (partOfKey s key)).lanes.length)).toNat + 2 * acc) 0)

/-- A store of a word to a control register other than CORE_PU_REPORT, with the core's own held word (R15, R52, R70, R150,
R226). -/
def ctlStore (s : State) (key : Nat) (k : Core) (o : Nat) (w : Word) : Core :=
  if ctlLow64 o then { k with held := some (o, w) }
  else if 4 ≤ o ∧ ctlLow64 (o - 4) then
    match k.held with
    | some (r, lo) =>
      if r = o - 4 then { (k.setCtl64 (o - 4) (w ++ lo)) with held := none }
      else k.setCtl64 (o - 4) (w ++ (k.ctl64 (o - 4)).truncate 32)
    | none => k.setCtl64 (o - 4) (w ++ (k.ctl64 (o - 4)).truncate 32)
  else if o = 0x80 then
    let sp := ctlSpec 0x80
    let w' := if w &&& 3 = 3 then (w &&& ~~~(3 : Word)) ||| (k.ctlW 0x80 &&& 3) else w
    k.setCtl 0x80 (w' &&& sp.rw)
  else if o = 0x84 then k.setCtl 0x84 (if w = 0 then 1 else w)
  else if o = 0xBC then
    { k with fb := Tab.set 0 k.fb (fld (k.ctlW 0xB8) 2 0) (w &&& (bits 31 30 ||| bits 15 0)) }
  else if o = 0x100 ∨ o = 0x104 then
    let h := (o - 0x100) / 4
    let w := w &&& laneGrant s key h
    { (k.setCtl o w) with enForce := enNow s key k h w }
  else
    let sp := ctlSpec o
    if sp.rw = 0 ∧ sp.w1c = 0 then k
    else k.setCtl o ((k.ctlW o &&& ~~~sp.rw &&& ~~~(w &&& sp.w1c)) ||| (w &&& sp.rw))

end Sys2Proof.Machine
end

