-- ==== Sys2Proof/Machine/Float.lean ====
section
/-! DEFINITION. Floating-point values as exact dyadic numbers, the narrow formats (R125 to R131), and rounding (R76, R134,
R139). -/

namespace Sys2Proof.Machine

/-- A value: NaN, an infinity, or ± m × 2^e with its sign kept at zero. -/
inductive FV where
  | nan
  | inf (neg : Bool)
  | fin (neg : Bool) (m : Nat) (e : Int)
  deriving DecidableEq, Repr

/-- A binary format: exponent bits, mantissa bits, bias, and whether it has the IEEE specials. -/
structure BinFmt where
  eb : Nat
  mb : Nat
  bias : Nat
  deriving DecidableEq, Repr

def fmt32 : BinFmt := ⟨8, 23, 127⟩
def fmtB : BinFmt := ⟨8, 7, 127⟩

/-- Decodes a code of a format as an ordinary finite value. -/
def finOf (f : BinFmt) (w : Nat) : FV :=
  let neg := w / 2 ^ (f.eb + f.mb) % 2 == 1
  let e := w / 2 ^ f.mb % 2 ^ f.eb
  let m := w % 2 ^ f.mb
  if e = 0 then .fin neg m (1 - (f.bias : Int) - f.mb)
  else .fin neg (m + 2 ^ f.mb) ((e : Int) - f.bias - f.mb)

/-- Decodes a format with the IEEE infinities and NaNs. -/
def ieeeOf (f : BinFmt) (w : Nat) : FV :=
  if w / 2 ^ f.mb % 2 ^ f.eb = 2 ^ f.eb - 1 then
    if w % 2 ^ f.mb = 0 then .inf (w / 2 ^ (f.eb + f.mb) % 2 == 1) else .nan
  else finOf f w

def of32 (w : Word) : FV := ieeeOf fmt32 w.toNat
def ofB (n : Nat) : FV := ieeeOf fmtB n

/-- Rounding of a magnitude: the discarded part `r` of `2^sh`, whether the kept part is odd. -/
inductive RMode where
  | nearest
  | zero
  | stoch (u : Nat)
  deriving DecidableEq, Repr

/-- Whether the magnitude is rounded up (R139). -/
def RMode.up (md : RMode) (q r sh : Nat) : Bool :=
  match md with
  | .nearest => decide (2 ^ sh < 2 * r ∨ (2 * r = 2 ^ sh ∧ q % 2 = 1))
  | .zero => false
  | .stoch u => decide (2 ^ 16 ≤ r * 2 ^ 16 / 2 ^ sh + u)

/-- Rounds m × 2^e to a multiple of 2^e', giving the multiple. -/
def roundMul (md : RMode) (m : Nat) (e e' : Int) : Nat :=
  if e' ≤ e then m * 2 ^ (e - e').toNat
  else
    let sh := (e' - e).toNat
    let q := m / 2 ^ sh
    if md.up q (m % 2 ^ sh) sh then q + 1 else q

/-- Rounds m × 2^e to `prec` bits with least exponent `emin`: mantissa and exponent. -/
def roundTo (md : RMode) (prec : Nat) (emin : Int) (m : Nat) (e : Int) : Nat × Int :=
  if m = 0 then (0, emin)
  else
    let e' := max (e + (Nat.log2 m : Int) + 1 - prec) emin
    (roundMul md m e e', e')

/-- The code of a rounded finite value, its biased exponent unbounded: sign apart. -/
def magCode (f : BinFmt) (q : Nat × Int) : Nat :=
  let (m, e) := q
  if m < 2 ^ f.mb then m
  else
    let (m, e) := if 2 ^ (f.mb + 1) ≤ m then (m / 2, e + 1) else (m, e)
    (m - 2 ^ f.mb) + ((e + f.mb + f.bias).toNat) * 2 ^ f.mb

/-- The code, sign apart, of a magnitude rounded to a format; it may lie beyond the largest finite code. -/
def roundMag (f : BinFmt) (md : RMode) (m : Nat) (e : Int) : Nat :=
  magCode f (roundTo md (f.mb + 1) (1 - (f.bias : Int) - f.mb) m e)

def signBit (f : BinFmt) (neg : Bool) : Nat := if neg then 2 ^ (f.eb + f.mb) else 0

/-- The code of infinity. -/
def infCode (f : BinFmt) : Nat := (2 ^ f.eb - 1) * 2 ^ f.mb

/-- The canonical quiet NaN (R76). -/
def nanCode (f : BinFmt) : Nat := infCode f + 2 ^ (f.mb - 1)

/-- Encodes to an IEEE format, round to nearest, ties to even, overflow to infinity (R76). -/
def encIeee (f : BinFmt) : FV → Nat
  | .nan => nanCode f
  | .inf neg => signBit f neg + infCode f
  | .fin neg m e => signBit f neg + min (roundMag f .nearest m e) (infCode f)

def to32 (v : FV) : Word := BitVec.ofNat 32 (encIeee fmt32 v)

/-- Encodes with saturation to the largest finite value of the format (R134, R141): the code and whether it saturated. -/
def encSat (f : BinFmt) (md : RMode) : FV → Nat × Bool
  | .nan => (nanCode f, false)
  | .inf neg => (signBit f neg + infCode f, false)
  | .fin neg m e =>
    let c := roundMag f md m e
    if infCode f ≤ c then (signBit f neg + infCode f - 1, true) else (signBit f neg + c, false)

/-! ## Exact arithmetic -/

/-- ± m as an integer. -/
def sgnInt (neg : Bool) (m : Nat) : Int := if neg then -(m : Int) else m

/-- Exact sum; a zero sum of finite values is −0 only when both are −0 (R76). -/
def fadd : FV → FV → FV
  | .nan, _ => .nan
  | _, .nan => .nan
  | .inf a, .inf b => if a = b then .inf a else .nan
  | .inf a, .fin _ _ _ => .inf a
  | .fin _ _ _, .inf b => .inf b
  | .fin a m e, .fin b n g =>
    let x := min e g
    let t := sgnInt a m * 2 ^ (e - x).toNat + sgnInt b n * 2 ^ (g - x).toNat
    if t = 0 then .fin (a && b && decide (m = 0 ∧ n = 0)) 0 0
    else .fin (decide (t < 0)) t.natAbs x

def fneg : FV → FV
  | .nan => .nan
  | .inf a => .inf (!a)
  | .fin a m e => .fin (!a) m e

def fabs : FV → FV
  | .nan => .nan
  | .inf _ => .inf false
  | .fin _ m e => .fin false m e

/-- Exact product. -/
def fmul : FV → FV → FV
  | .nan, _ => .nan
  | _, .nan => .nan
  | .inf a, .inf b => .inf (a != b)
  | .inf a, .fin b n _ => if n = 0 then .nan else .inf (a != b)
  | .fin a m _, .inf b => if m = 0 then .nan else .inf (a != b)
  | .fin a m e, .fin b n g => .fin (a != b) (m * n) (e + g)

/-- Less than, for values that are not NaN; −0 and +0 are equal. -/
def flt : FV → FV → Bool
  | .nan, _ => false
  | _, .nan => false
  | .inf a, .inf b => a && !b
  | .inf a, .fin _ _ _ => a
  | .fin _ _ _, .inf b => !b
  | .fin a m e, .fin b n g =>
    let x := min e g
    decide (sgnInt a m * 2 ^ (e - x).toNat < sgnInt b n * 2 ^ (g - x).toNat)

/-- Equality as IEEE compares: a NaN equals nothing. -/
def feq (x y : FV) : Bool := x != .nan && y != .nan && !flt x y && !flt y x

def fneg? : FV → Bool
  | .nan => false
  | .inf a => a
  | .fin a _ _ => a

/-- The minimum and maximum of IEEE 754-2019: NaN gives NaN, −0 lies below +0 (R76). -/
def fmin (x y : FV) : FV :=
  if x = .nan ∨ y = .nan then .nan
  else if flt x y then x else if flt y x then y else if fneg? x then x else y

def fmax (x y : FV) : FV :=
  if x = .nan ∨ y = .nan then .nan
  else if flt x y then y else if flt y x then x else if fneg? x then y else x

/-- A value times a power of two. -/
def fscale (v : FV) (k : Int) : FV :=
  match v with
  | .fin a m e => .fin a m (e + k)
  | v => v

/-- floor(log2) of a non-zero magnitude. -/
def flog2 (m : Nat) (e : Int) : Int := (Nat.log2 m : Int) + e

/-! ## Narrow formats (R95, R125) -/

/-- FMT codes (R95). -/
inductive Fmt where
  | gt2 | e2m1 | e3m2 | e2m3 | e4m3 | e5m2 | int8 | bf16 | fp32
  deriving DecidableEq, Repr

def Fmt.ofCode : Nat → Option Fmt
  | 0 => some .gt2 | 1 => some .e2m1 | 2 => some .e3m2 | 3 => some .e2m3 | 4 => some .e4m3 | 5 => some .e5m2
  | 6 => some .int8 | 7 => some .bf16 | 8 => some .fp32 | _ => none

def Fmt.ofN : NFmt → Fmt
  | .gt2 => .gt2 | .e2m1 => .e2m1 | .e3m2 => .e3m2 | .e2m3 => .e2m3 | .e4m3 => .e4m3 | .e5m2 => .e5m2 | .int8 => .int8

/-- Bits of one element (R128). -/
def Fmt.bits : Fmt → Nat
  | .gt2 => 2 | .e2m1 => 4 | .e3m2 => 6 | .e2m3 => 6 | .e4m3 => 8 | .e5m2 => 8 | .int8 => 8 | .bf16 => 16 | .fp32 => 32

/-- The layout of an MX floating-point element type (R125). -/
def Fmt.bin : Fmt → BinFmt
  | .e2m1 => ⟨2, 1, 1⟩ | .e3m2 => ⟨3, 2, 3⟩ | .e2m3 => ⟨2, 3, 1⟩ | .e4m3 => ⟨4, 3, 7⟩ | .e5m2 => ⟨5, 2, 15⟩
  | .bf16 => fmtB | _ => fmt32

/-- The value of an element code (R125). GT2 codes are read with their escape lane, not here. -/
def elemVal (f : Fmt) (c : Nat) : FV :=
  match f with
  | .gt2 => if c = 1 then .fin false 1 0 else if c = 3 then .fin true 1 0 else .fin false 0 0
  | .e4m3 => if c % 128 = 127 then .nan else finOf ⟨4, 3, 7⟩ c
  | .e5m2 => ieeeOf ⟨5, 2, 15⟩ c
  | .int8 => if c < 128 then .fin false c (-6) else .fin true (256 - c) (-6)
  | .bf16 => ofB c
  | .fp32 => ieeeOf fmt32 c
  | f => finOf f.bin c

/-- The scale exponent of an E8M0 byte; `none` is NaN (R126). -/
def scaleExp (b : Nat) : Option Int := if b = 255 then none else some ((b : Int) - 127)

/-- A value under a scale byte (R131). -/
def scaled (b : Nat) (v : FV) : FV :=
  match scaleExp b with
  | none => .nan
  | some x => fscale v x

/-- Largest finite code, sign apart, of an MX floating-point element type (R125). -/
def Fmt.maxCode : Fmt → Nat
  | .e2m1 => 7 | .e3m2 => 31 | .e2m3 => 31 | .e4m3 => 126 | .e5m2 => 123 | _ => 127

/-- emax of R137. -/
def Fmt.emax : Fmt → Int
  | .e2m1 => 2 | .e3m2 => 4 | .e2m3 => 2 | .e4m3 => 8 | .e5m2 => 15 | _ => 0

/-- Rounds a finite value to an MX element code, saturating to the largest finite value (R137): code, and whether it
saturated. -/
def encElem (f : Fmt) (md : RMode) (v : FV) : Nat × Bool :=
  match v with
  | .fin neg m e =>
    match f with
    | .int8 =>
      let q := roundMul md m e (-6)
      if 127 < q then ((if neg then 129 else 127), true)
      else ((if neg ∧ q ≠ 0 then 256 - q else q), false)
    | f =>
      let c := roundMag f.bin md m e
      let sg := signBit f.bin neg
      if f.maxCode < c then (sg + f.maxCode, true) else (sg + c, false)
  | _ => (0, false)

/-- The values of the elements of a GT2 block, with the escape lane's two bytes, and how many escape codes lie beyond the
second (R127, R129, R130). -/
def gt2Vals (codes : List Nat) (e0 e1 : Nat) : List FV × Nat :=
  let r := codes.foldl (fun (acc : List FV × Nat) c =>
    if c = 2 then
      (acc.1 ++ [if acc.2 = 0 then elemVal .e4m3 e0 else if acc.2 = 1 then elemVal .e4m3 e1 else .fin false 0 0], acc.2 + 1)
    else (acc.1 ++ [elemVal .gt2 c], acc.2)) ([], 0)
  (r.1, r.2 - 2)

/-- The generator of R140. -/
def srNext (x : Word) : Word :=
  let x := x ^^^ (x <<< 13)
  let x := x ^^^ (x >>> 17)
  x ^^^ (x <<< 5)

end Sys2Proof.Machine
end

