-- ==== Sys2Proof/Machine/MmOps.lean ====
section
/-! DEFINITION. Operand descriptors and the arithmetic of mm: the checks made at issue (R94 to R103, R148, R157), the
additions of each output element in their order (R132, R133, R158 to R160), and the result of a whole or an abandoned mm
(R50, R134, R144). -/

namespace Sys2Proof.Machine

/-! ## Descriptor fields (R94 to R96) -/

def VReg.f (x : VReg) (w hi lo : Nat) : Nat := fld (x.word w) hi lo

def dKind (d : VReg) : Nat := d.f 0 31 28
def dFmt (d : VReg) : Nat := d.f 0 27 24
def dRole (d : VReg) : Nat := d.f 0 23 23
def dK (d : VReg) : Nat := d.f 0 15 0
def dBase (d : VReg) : Nat := (d.word 1).toNat
def dStride (d : VReg) : Nat := (d.word 2).toNat
def dNnz (d : VReg) : Nat := d.f 2 15 0
def dScale (d : VReg) : Nat := (d.word 3).toNat
def dEsc (d : VReg) : Nat := (d.word 4).toNat
def dFbEn (d : VReg) : Bool := d.f 5 20 20 == 1
def dFbFmt (d : VReg) : Nat := d.f 5 19 16
def dTile (d : VReg) : BitVec 16 := BitVec.ofNat 16 (d.f 5 15 0)

/-- Step and maximum of K by B format (R102). -/
def kLimits : Fmt → Nat × Nat
  | .gt2 => (32, 8192) | .bf16 => (8, 1024) | .fp32 => (8, 512) | _ => (32, 4096)

def kOk (f : Fmt) (k : Nat) : Bool :=
  let (st, mx) := kLimits f
  decide (0 < k ∧ k % st = 0 ∧ k ≤ mx)

/-- The place of a format in the order of width of R148. -/
def fmtRank : Fmt → Nat
  | .gt2 => 0 | .e2m1 => 1 | .e3m2 => 2 | .e2m3 => 2 | .e4m3 => 3 | .e5m2 => 3 | .int8 => 3 | .bf16 => 4 | .fp32 => 5

/-- The pairs of R102: B format, A format. -/
def pairOk (b a : Fmt) : Bool :=
  match b with
  | .gt2 => a == .int8
  | .e3m2 => a == .e3m2 || a == .e2m3
  | .e2m3 => a == .e3m2 || a == .e2m3
  | .e4m3 => a == .e4m3 || a == .e5m2
  | .e5m2 => a == .e4m3 || a == .e5m2
  | f => a == f

def isMx (f : Fmt) : Bool := f != .bf16 && f != .fp32

/-- Whether reserved fields of an operand descriptor are zero (R96). -/
def dReserved (d : VReg) : Bool :=
  d.f 0 22 16 == 0 && d.f 5 31 21 == 0 && d.word 6 == 0 && d.word 7 == 0 &&
  (if dKind d = 2 then d.f 2 31 16 == 0 else if dFmt d = 0 then true else d.word 4 == 0)

/-- Byte address of row or column i. The spec does not say what a sum beyond 2^32 addresses; the model takes it modulo 2^32, as R67 computes
addresses (DESIGN CHOICE, log entry 84). -/
def rowAddr (d : VReg) (i : Nat) : Nat := (dBase d + i * dStride d) % 2 ^ 32

/-- Bytes of K elements of a format (R128). -/
def rowBytes (f : Fmt) (k : Nat) : Nat := k * f.bits / 8

/-- The byte ranges a dense descriptor names (R99). -/
def denseRanges (d : VReg) (f : Fmt) : List (Nat × Nat) :=
  (List.range 16).map (fun i => (rowAddr d i, rowBytes f (dK d))) ++
  (if isMx f then [(dScale d, dK d / 2)] else []) ++ (if f = .gt2 then [(dEsc d, dK d)] else [])

/-- Segments of a sparse tile (R153). -/
def segs (k : Nat) : Nat := (k + 255) / 256

/-- The bytes of the bitmap range (R157). -/
def bmapBytes (k : Nat) : Nat := 2 * (1 + segs k + 16 * segs k)

/-- The byte ranges a sparse descriptor names (R157). -/
def sparseRanges (d : VReg) : List (Nat × Nat) :=
  [(dEsc d, bmapBytes (dK d)), (dBase d, 8 * dNnz d), (dScale d, dK d / 2)]

/-- Whether every range lies in near memory, or every range in stack memory (R99). -/
def rangesOk (rs : List (Nat × Nat)) : Bool :=
  let rs := rs.filter (fun r => decide (0 < r.2))
  rs.all (fun r => regionOf r.1 r.2 == .near) || rs.all (fun r => regionOf r.1 r.2 == .stack)

/-- FP32 operands have BASE and STRIDE multiples of 4 (R99). -/
def fp32Aligned (d : VReg) (f : Fmt) : Bool := f != .fp32 || (dBase d % 4 == 0 && dStride d % 4 == 0)

/-- The checks of the encoded descriptors of an mm, lowest code first (R94 to R103, R124, R148). A sparse descriptor whose FMT is a defined
format other than 0x1 breaks R96 ("Must be 0x1") and R103 at once; the model raises the lower code, DESC_FIELD (DEDUCED, log entry 85). -/
def mmCheck (a b : VReg) (e o : Bool) : Option (BitVec 8) :=
  let fa := Fmt.ofCode (dFmt a)
  let fb := Fmt.ofCode (dFmt b)
  if dKind a ≠ 1 ∨ dRole a ≠ 0 ∨ dKind b ≠ (if e then 2 else 1) ∨ dRole b ≠ 1 then some 0x10
  else match fa, fb with
    | some fa, some fb =>
      let kf := if e then Fmt.e2m1 else fb
      let fbBad := dFbEn b && !(match Fmt.ofCode (dFbFmt b) with
        | some w => decide (fmtRank fb < fmtRank w)
        | none => false)
      if !dReserved a || !dReserved b || !kOk kf (dK b) || dK a != dK b || fbBad ||
          (e && (fb != .e2m1 || decide (dK b < dNnz b))) then some 0x11
      else if !pairOk fb fa || (e && o) then some 0x12
      else if !rangesOk (denseRanges a fa) || !rangesOk (if e then sparseRanges b else denseRanges b fb) ||
          !fp32Aligned a fa || (!e && !fp32Aligned b fb) then some 0x13
      else if a.tag ≠ 0 ∨ b.tag ≠ 0 then some 0x14
      else none
    | _, _ => some 0x11

/-- The checks of the slots a wide pass uses, beside those of the encoded slots (R148): alternate B, the A used. -/
def wideCheck (a b alt : VReg) : Option (BitVec 8) :=
  if dKind alt ≠ 1 ∨ dRole alt ≠ 1 ∨ dKind a ≠ 1 ∨ dRole a ≠ 0 then some 0x10
  else match Fmt.ofCode (dFmt alt), Fmt.ofCode (dFmt a) with
    | some fb, some fa =>
      if dFmt alt ≠ dFbFmt b ∨ dTile alt ≠ dTile b ∨ dK alt ≠ dK b ∨ kOk fb (dK alt) = false ∨
          dReserved alt = false ∨ dReserved a = false ∨ dK a ≠ dK alt then some 0x11
      else if !pairOk fb fa then some 0x12
      else if !rangesOk (denseRanges a fa) || !rangesOk (denseRanges alt fb) || !fp32Aligned a fa || !fp32Aligned alt fb then
        some 0x13
      else if a.tag ≠ 0 ∨ alt.tag ≠ 0 then some 0x14
      else none
    | _, _ => some 0x11

/-- The memory ranges an mm reads: a store that overlaps one waits (R105). -/
def jobRanges (j : MmJob) : List (Nat × Nat) :=
  let fa := (Fmt.ofCode (dFmt j.a)).getD .fp32
  let fb := (Fmt.ofCode (dFmt j.b)).getD .fp32
  denseRanges j.a fa ++ (if j.sparse then sparseRanges j.b else denseRanges j.b fb)

/-- Whether two byte ranges overlap. -/
def overlaps (a n b m : Nat) : Bool := decide (0 < n ∧ 0 < m ∧ a < b + m ∧ b < a + n)

/-! ## Reading operands -/

/-- A value with its poison. -/
abbrev PV := FV × Bool

def Core.byteAt (k : Core) (a : Nat) : Nat := (Memory.byte k.mem a).toNat
def Core.tagAt (k : Core) (a : Nat) : Bool := Tab.get false k.memTag (a / 4)

/-- Element e of a packed string at byte address `a`, with the tag of the words that hold it (R128). -/
def Core.elemCode (k : Core) (f : Fmt) (a e : Nat) : Nat × Bool :=
  let w := f.bits
  let b0 := a + e * w / 8
  let b1 := a + (e * w + w - 1) / 8
  let v := Memory.nat k.mem b0 (b1 - b0 + 1) / 2 ^ (e * w % 8) % 2 ^ w
  (v, k.tagAt b0 || k.tagAt b1)

/-- The 32 elements of block b of row i: values with poison, and the escape codes beyond the second. -/
def Core.blockVals (k : Core) (d : VReg) (f : Fmt) (i b : Nat) : List PV × Nat :=
  let codes := (List.range 32).map (fun e => k.elemCode f (rowAddr d i) (32 * b + e))
  if f = .gt2 then
    let lane := dEsc d + 2 * (i * (dK d / 32) + b)
    let (vs, ov) := gt2Vals (codes.map (·.1)) (k.byteAt lane) (k.byteAt (lane + 1))
    let tags := codes.foldl (fun (acc : List Bool × Nat) c =>
      if c.1 = 2 then (acc.1 ++ [c.2 || (decide (acc.2 < 2) && k.tagAt (lane + acc.2))], acc.2 + 1)
      else (acc.1 ++ [c.2], acc.2)) ([], 0)
    (vs.zip tags.1, ov)
  else (codes.map (fun c => (elemVal f c.1, c.2)), 0)

/-- The scale byte of row i, 32-element span b, with its tag (R96, R129). -/
def Core.scaleAt (k : Core) (d : VReg) (i b : Nat) : Nat × Bool :=
  let a := dScale d + i * (dK d / 32) + b
  (k.byteAt a, k.tagAt a)

/-- The exact sum of the products of two lists (R132): −0.0 only when every product is −0.0. -/
def dot (xs ys : List PV) : PV :=
  match (xs.zip ys).map (fun p => (fmul p.1.1 p.2.1, p.1.2 || p.2.2)) with
  | [] => (.fin false 0 0, false)
  | p :: ps => ps.foldl (fun acc q => (fadd acc.1 q.1, acc.2 || q.2)) p

/-- A span's elements with its scale, for block granularity 32. -/
structure Span where
  vals : List PV
  scale : Nat
  tag : Bool
  deriving DecidableEq, Repr

def Core.span (k : Core) (d : VReg) (f : Fmt) (i b : Nat) : Span :=
  let (s, t) := k.scaleAt d i b
  ⟨(k.blockVals d f i b).1, s, t⟩

/-- T_b of two scaled spans (R132). -/
def spanT (x y : Span) : PV :=
  let p := dot x.vals y.vals
  (scaled y.scale (scaled x.scale p.1), p.2 || x.tag || y.tag)

/-- Whether the granule of contracted element e is skipped (R176). -/
def skips (skip : BitVec 128) (e : Nat) : Bool := decide (e / 32 < 128) && skip.getLsbD (e / 32)

/-- The additions of element (i, j) of a dense mm, in order (R132). -/
def Core.denseAdds (k : Core) (job : MmJob) (i j : Nat) : List PV :=
  let fa := (Fmt.ofCode (dFmt job.a)).getD .fp32
  let fb := (Fmt.ofCode (dFmt job.b)).getD .fp32
  let n := dK job.b
  if isMx fb then
    ((List.range (n / 32)).filter (fun b => !skips job.skip (32 * b))).map
      (fun b => spanT (k.span job.a fa i b) (k.span job.b fb j b))
  else
    let step := if fb = .bf16 then 8 else 1
    let el (d : VReg) (f : Fmt) (r e : Nat) : PV :=
      let c := k.elemCode f (rowAddr d r) e
      (elemVal f c.1, c.2)
    ((List.range (n / step)).filter (fun b => !skips job.skip (step * b))).map (fun b =>
      dot ((List.range step).map (fun e => el job.a fa i (step * b + e)))
        ((List.range step).map (fun e => el job.b fb j (step * b + e))))

/-! ## The sparse engine (R154 to R160) -/

/-- A present block: block-row, column, index among the packed blocks. -/
structure SBlock where
  r : Nat
  c : Nat
  n : Nat
  deriving DecidableEq, Repr

/-- What the parse of a hierarchy gives: the blocks added, the drops counted, whether a hierarchy word was poisoned, and the
word offsets read. -/
structure Parse where
  blocks : List SBlock
  drops : Nat
  poison : Bool
  read : List Nat
  deriving DecidableEq, Repr

/-- The set bits of a 16-bit word, rising. -/
def bitsOf (w : Nat) : List Nat := (List.range 16).filter (fun b => w.testBit b)

/-- Hierarchy word `p`: beyond the checked range it is 0 and not read (R157); poisoned, it reads 0 (R160). -/
def Core.hierWord (k : Core) (d : VReg) (p : Nat) : Nat × Bool :=
  let a := dEsc d + 2 * p
  if bmapBytes (dK d) ≤ 2 * p then (0, false)
  else if k.tagAt a || k.tagAt (a + 1) then (0, true) else (Memory.nat k.mem a 2, false)

/-- Parses the hierarchy by its set bits (R154, R159). -/
def Core.parse (k : Core) (d : VReg) : Parse :=
  let kk := dK d
  let (l1, p1) := k.hierWord d 0
  let ss := bitsOf l1
  let l2 := (List.range ss.length).map (fun i => (ss.getD i 0, k.hierWord d (1 + i)))
  let rows := l2.flatMap (fun e => (bitsOf e.2.1).map (fun b => (e.1, b)))
  let l3 := (List.range rows.length).map (fun i => (rows.getD i (0, 0), k.hierWord d (1 + ss.length + i)))
  let zeros := (l2.filter (fun e => e.2.1 == 0)).length + (l3.filter (fun e => e.2.1 == 0)).length
  let cells := l3.flatMap (fun e => (bitsOf e.2.1).map (fun c => (e.1.1, 16 * e.1.1 + e.1.2, c)))
  let all := (List.range cells.length).map (fun i => (cells.getD i (0, 0, 0), i))
  let good := all.filter (fun e => decide (e.1.1 < segs kk ∧ e.1.2.1 < kk / 16 ∧ e.2 < dNnz d))
  ⟨good.map (fun e => ⟨e.1.2.1, e.1.2.2, e.2⟩), zeros + (all.length - good.length) + (dNnz d - all.length),
   p1 || l2.any (·.2.2) || l3.any (·.2.2),
   (List.range (1 + l2.length + l3.length)).filter (fun p => decide (2 * p < bmapBytes kk))⟩

/-- The additions of element (i, j) of a sparse mm: its column's blocks in bitmap index order (R133, R158). -/
def Core.sparseAdds (k : Core) (job : MmJob) (ps : Parse) (i j : Nat) : List PV :=
  (ps.blocks.filter (fun b => b.c == j)).map (fun b =>
    let xs := (List.range 16).map (fun e =>
      let c := k.elemCode .e2m1 (rowAddr job.a i) (16 * b.r + e)
      (elemVal .e2m1 c.1, c.2))
    let ys := (List.range 16).map (fun e =>
      let c := k.elemCode .e2m1 (dBase job.b + 8 * b.n) e
      (elemVal .e2m1 c.1, c.2))
    let (sa, ta) := k.scaleAt job.a i (b.r / 2)
    let (sb, tb) := k.scaleAt job.b j (b.r / 2)
    spanT ⟨xs, sa, ta⟩ ⟨ys, sb, tb⟩)

/-! ## Accumulating -/

/-- An accumulator element: its word and the saturation events of the mm in it. -/
abbrev Acc := PWord × Nat

/-- One addition with one rounding to FP32, saturating when every input is finite (R132, R134). -/
def accAdd (a : Acc) (t : PV) : Acc :=
  let (c, sat) := encSat fmt32 .nearest (fadd (of32 a.1.val) t.1)
  (⟨BitVec.ofNat 32 c, a.1.poison || t.2⟩, a.2 + sat.toNat)

/-- The value an element starts from: +0.0 with Z = 1 (R101). -/
def Core.accStart (k : Core) (job : MmJob) (e : Nat) : PWord := if job.z then ⟨0, false⟩ else k.accGet job.acc e

/-- The additions of element e = 16 i + j. -/
def Core.adds (k : Core) (job : MmJob) (ps : Parse) (e : Nat) : List PV :=
  if job.sparse then k.sparseAdds job ps (e / 16) (e % 16) else k.denseAdds job (e / 16) (e % 16)

/-- The hierarchy's parse; empty for a dense mm. -/
def Core.jobParse (k : Core) (job : MmJob) : Parse := if job.sparse then k.parse job.b else ⟨[], 0, false, []⟩

/-- The final elements of an mm with their saturation events (R132, R160). -/
def Core.mmTile (k : Core) (job : MmJob) : List Acc :=
  let ps := k.jobParse job
  (List.range 256).map (fun e =>
    let a := (k.adds job ps e).foldl accAdd (k.accStart job e, 0)
    (⟨a.1.val, a.1.poison || ps.poison⟩, a.2))

/-- Escape codes beyond the second in the B blocks an mm decodes (R130). -/
def Core.escOver (k : Core) (job : MmJob) : Nat :=
  if job.sparse ∨ Fmt.ofCode (dFmt job.b) ≠ some .gt2 then 0
  else
    ((List.range 16).flatMap (fun j => ((List.range (dK job.b / 32)).filter (fun b => !skips job.skip (32 * b))).map
      (fun b => (k.blockVals job.b .gt2 j b).2))).sum

/-- The words an mm reads, each once. Dense: all of A, and of B the granules not skipped (R176), an escape lane up to the bytes
its block's codes use (R130). Sparse: the hierarchy words, and for each block added its packed bytes, its scale, and of the 16
rows of A the block's range with its scales (R158, R159). -/
def Core.mmWords (k : Core) (job : MmJob) : List Nat :=
  let fa := (Fmt.ofCode (dFmt job.a)).getD .fp32
  let fb := (Fmt.ofCode (dFmt job.b)).getD .fp32
  let span (a n : Nat) : List Nat := if n = 0 then [] else (List.range ((a + n - 1) / 4 - a / 4 + 1)).map (· + a / 4)
  if job.sparse then
    let ps := k.parse job.b
    (ps.read.flatMap (fun p => span (dEsc job.b + 2 * p) 2) ++
      ps.blocks.flatMap (fun b => span (dBase job.b + 8 * b.n) 8 ++ span (dScale job.b + b.c * (dK job.b / 32) + b.r / 2) 1 ++
        (List.range 16).flatMap (fun i => span (rowAddr job.a i + 8 * b.r) 8 ++
          span (dScale job.a + i * (dK job.a / 32) + b.r / 2) 1))).dedup
  else
    let used (j g : Nat) : Nat :=
      min 2 (((List.range 32).filter (fun e => (k.elemCode .gt2 (rowAddr job.b j) (32 * g + e)).1 == 2)).length)
    ((denseRanges job.a fa).flatMap (fun r => span r.1 r.2) ++
      (List.range 16).flatMap (fun j => ((List.range ((dK job.b + 31) / 32)).filter (fun g => !skips job.skip (32 * g))).flatMap
        (fun g => span (rowAddr job.b j + rowBytes fb (32 * g)) (rowBytes fb (min 32 (dK job.b - 32 * g))) ++
          (if isMx fb then span (dScale job.b + j * (dK job.b / 32) + g) 1 else []) ++
          (if fb = .gt2 then span (dEsc job.b + 2 * (j * (dK job.b / 32) + g)) (used j g) else [])))).dedup

/-- The poisoned operand words an mm consumes (R34). -/
def Core.mmPoison (k : Core) (job : MmJob) : Nat := ((k.mmWords job).filter (fun w => Tab.get false k.memTag w)).length

/-- MAC performed: skipped granules and absent blocks are not counted (R52). -/
def Core.mmMac (k : Core) (job : MmJob) : Nat :=
  if job.sparse then 256 * (k.jobParse job).blocks.length
  else 256 * ((List.range (dK job.b)).filter (fun e => !skips job.skip e)).length

/-- Bits j of the zero record for the A an mm uses (R176): every element of granule j in all rows ±0.0 and unpoisoned. An element's value is
its code's times its block's scale, so a block whose scale is NaN has no zero (R126). -/
def Core.zeroRecord (k : Core) (job : MmJob) : BitVec 128 :=
  let fa := (Fmt.ofCode (dFmt job.a)).getD .fp32
  let n := dK job.a
  let zero (e i : Nat) : Bool :=
    let c := k.elemCode fa (rowAddr job.a i) e
    let sc : Nat × Bool := if isMx fa then k.scaleAt job.a i (e / 32) else (127, false)
    !c.2 && !sc.2 && (match scaled sc.1 (elemVal fa c.1) with
      | .fin _ m _ => m == 0
      | _ => false)
  BitVec.ofNat 128 ((List.range 128).foldr (fun g acc =>
    (decide (32 * g < n) && ((List.range (min 32 (n - 32 * g))).all (fun e => (List.range 16).all (zero (32 * g + e))))).toNat
      + 2 * acc) 0)

/-- The zero record of a core (R176). -/
def Core.ozRec (k : Core) : BitVec 128 := k.ctlW 0xF4 ++ k.ctlW 0xF0 ++ k.ctlW 0xEC ++ k.ctlW 0xE8

def Core.setOzRec (k : Core) (r : BitVec 128) : Core :=
  (((k.setCtl 0xE8 (r.truncate 32)).setCtl 0xEC ((r >>> 32).truncate 32)).setCtl 0xF0 ((r >>> 64).truncate 32)).setCtl 0xF4
    ((r >>> 96).truncate 32)

/-- Range-high and range-low events of a tile (R144). -/
def rangeEvents (range : Word) (ws : List Word) : Nat × Nat :=
  let ex (w : Word) : Nat := fld w 30 23
  ((ws.filter (fun w => ex w == 255 || decide (fld range 15 8 < ex w))).length,
   (ws.filter (fun w => decide (w.toNat % 2 ^ 31 ≠ 0 ∧ ex w < fld range 7 0))).length)

/-- An mm is abandoned by a fence (R50): each element keeps a free leading run of its additions, and one whose additions are all made
holds its final value, with the tag a poisoned hierarchy gives it (R160); with Z = 1 an element with none keeps its former value or is +0.0.
An mm that had not started made no addition. Counts made stand, how many is free. `n` is the count of draws. -/
def Core.abandonJob (k : Core) (job : MmJob) (n : Nat) : Core :=
  let ps := k.jobParse job
  let els := (List.range 256).map (fun e =>
    let ts := k.adds job ps e
    let run := if job.started then Config.freeNat (n + 2 * e) % (ts.length + 1) else 0
    if run = 0 ∧ job.z = true ∧ Config.freeNat (n + 2 * e + 1) % 2 = 0 then (k.accGet job.acc e, 0)
    else
      let a := (ts.take run).foldl accAdd (k.accStart job e, 0)
      let whole := job.started && run == ts.length
      (⟨a.1.val, a.1.poison || (whole && ps.poison)⟩, a.2))
  let k' := k.accPut job.acc 0 (els.map (·.1))
  if !job.started then k'
  else
    let sat := (els.map (·.2)).sum
    let esc := Config.freeNat (n + 512) % (k.escOver job + 1)
    let poi := Config.freeNat (n + 513) % (k.mmPoison job + 1)
    let mac := Config.freeNat (n + 514) % (k.mmMac job + 1)
    let drp := Config.freeNat (n + 515) % (ps.drops + 1)
    let k' := (k'.count 0x90 sat).count 0x98 esc
    let k' := (k'.count (if job.sparse then 0x60 else 0x58) mac).count 0xD8 drp
    if poi = 0 then k' else (k'.setCtl 0x04 (k'.ctlW 0x04 ||| 8)).count 0x70 poi

/-- The mm not complete: of each engine the executing one before the pending one. -/
def Core.mmJobs (k : Core) : List MmJob := k.dExec.toList ++ k.dPend.toList ++ k.sExec.toList ++ k.sPend.toList

/-- The mm not complete that is first in program order. -/
def Core.firstJob (k : Core) : Option MmJob :=
  k.mmJobs.find? (fun j => k.mmJobs.all (fun i => decide (j.ord ≤ i.ord)))

/-- Draws of free values that the abandoning of one mm takes. -/
def jobDraws : Nat := 516

/-- A fence abandons the executing and the pending mm of both engines (R50). -/
def Core.abandonAll (k : Core) (n : Nat) : Core :=
  let k' := k.mmJobs.zipIdx.foldl (fun k e => k.abandonJob e.1 (n + jobDraws * e.2)) k
  { k' with dExec := none, dPend := none, sExec := none, sPend := none }

end Sys2Proof.Machine
end

