-- ==== Sys2Proof/Machine/Flags.lean ====
section
/-! DEFINITION. What an instruction does beside its result. The instruction set has no condition flags (R63); in their place
stand the poison record (R34), the core fault path (R88 to R90), and the frame of issue: retiring, stalling, waiting. -/

namespace Sys2Proof.Machine

/-- Fault causes (R88, R124). -/
abbrev Cause := BitVec 8

def ILLEGAL : Cause := 0x01
def FETCH_ADDR : Cause := 0x02
def POISON_FETCH : Cause := 0x03
def LOAD_ADDR : Cause := 0x04
def STORE_ADDR : Cause := 0x05
def POISON_ADDR : Cause := 0x06
def POISON_BRANCH : Cause := 0x07
def POISON_CTRL : Cause := 0x08
def EXT_FENCE : Cause := 0x0F
def DESC_KIND : Cause := 0x10
def DESC_FIELD : Cause := 0x11
def FORMAT_PAIR : Cause := 0x12
def TENSOR_ADDR : Cause := 0x13
def POISON_DESC : Cause := 0x14
def ACC_ADDR : Cause := 0x15
def ROUTE_NONE : Cause := 0x18
def ROUTE_LEN : Cause := 0x19
def SEND_ADDR : Cause := 0x1A
def ROUTE_KIND : Cause := 0x1B
def CHIME_STEP : Cause := 0x20
def POISON_SYNC : Cause := 0x21
def LANE_OFF : Cause := 0x24
def ROUTE_LOST : Cause := 0x25
def WINDOW_STATE : Cause := 0x28

/-- How an instruction leaves the issue stage. `retire` goes on at the given pc; `retireSet` also, and the 64-bit control register at `o`
keeps the value just written: count events of the same instruction coincide with the write and are lost (R53); `fault` takes the core fault path (R89);
`lost` is a downbeat release with ROUTE_LOST (R114); `stall` keeps the core at the instruction, RUNNING;
`wait` makes it WAITING there (R49), and a core of a route-lost partition that waits on anything but a downbeat, or sleeps, is fenced
(R446); `sleep` retires a halt. -/
inductive Issued where
  | retire (k : Core) (next : Word)
  | retireSet (k : Core) (next : Word) (o : Nat)
  | fault (c : Cause)
  | lost (k : Core)
  | stall
  | wait (k : Core) (w : WaitCond)
  | sleep (k : Core) (next : Word)
  deriving DecidableEq, Repr

/-- Consumes `n` poisoned words (R34). -/
def Core.consume (k : Core) (n : Nat) : Core :=
  if n = 0 then k else (k.setCtl 0x04 (k.ctlW 0x04 ||| 8)).count 0x70 n

/-- How many of some words are poisoned. -/
def poisonedIn (ws : List PWord) : Nat := (ws.filter (·.poison)).length

/-- Writes FAULT_CAUSE and CORE_FAULT_PC and stops the core (R89, R49). -/
def Core.stop (k : Core) (cause : Cause) (pc : Word) : Core :=
  let w := (k.ctlW 0x04 &&& ~~~(bits 23 16)) ||| (BitVec.ofNat 32 cause.toNat <<< 16)
  { ((k.setCtl 0x04 w).setCtl 0x0C pc) with st := .fenced, ir := none, wait := none }

/-- Beats spent (R52): the count the spec does not give is free (log entry 3). -/
def beats (s : State) (c : CoreId) : State :=
  let (n, s) := drawNat s
  let (b, s) := drawNat s
  let k := s.core c
  s.setCore c ((k.count 0x40 (n + 1)).count 0x68 b)

/-- The core fault path (R89): the beats up to it counted, cause and pc recorded, the core FENCED, CORE_FAULT reported to its partition and
the PF; a barrier the core held counts it as arrived (R225). Earlier mm go on to complete. -/
def coreFault (s : State) (c : CoreId) (cause : Cause) (pc : Word) : State :=
  let s := beats s c
  let s := s.setCore c ((s.core c).stop cause pc)
  let p := partOfKey s (coreKey c)
  laneSettle (reportP s 0x01 .core 2 p (locCore (coreKey c)) (BitVec.ofNat 32 cause.toNat) pc) p

/-- The pc of the first instruction a fence abandons (R88): an mm not complete is earlier in program order than the instruction the core
stands at. At a SLEEPING or RETAINED core with no mm there is no such instruction; the pc is that of the one it would run next
(DESIGN CHOICE, log entry 87). -/
def Core.fencePc (k : Core) : Word :=
  match k.firstJob with
  | some j => j.pc
  | none => k.pc

/-- Beats that a RUNNING or WAITING core has spent since its last instruction retired, counted at a fence (R52): free (log entry 3). -/
def Core.lastBeats (k : Core) (n : Nat) : Core :=
  if k.st = .waiting then (k.count 0x50 (Config.freeNat n)).count 0x40 (Config.freeNat n)
  else (k.count 0x40 (Config.freeNat n)).count 0x68 (Config.freeNat (n + 1))

/-- An external fence of a core (R49, R50, R88): instructions retired stay retired, mm not complete are abandoned, cause and
pc are recorded. No CORE_FAULT report is made (R455). A FENCED core is left as it is. -/
def fenceOne (s : State) (c : CoreId) (cause : Cause) : State :=
  let k := s.core c
  if k.st = .fenced then s
  else
    let k' := (k.lastBeats (s.draws + 4 * jobDraws)).abandonAll s.draws
    { s.setCore c (k'.stop cause k.fencePc) with draws := s.draws + 4 * jobDraws + 2 }

/-- Fences cores of partition p, then lets barriers they held go on (R225). -/
def fenceCores (s : State) (p : Nat) (cause : Cause) (cs : List CoreId) : State :=
  laneSettle (cs.foldl (fun s c => fenceOne s c cause) s) p

/-- Whether a core's partition is route-lost (R446). -/
def isRouteLost (s : State) (c : CoreId) : Bool := (s.part (partOfKey s (coreKey c))).routeLost

/-- The instruction retires: counted, the pc moved on, the latch empty (R49, R52). -/
def retireAt (s : State) (c : CoreId) (k : Core) (next : Word) : State :=
  let k := { (k.count 0x48 1) with pc := next, ir := none, wait := none }
  beats (s.setCore c k) c

/-- Applies how an instruction left the issue stage. An instruction that traps on a poisoned source neither sets POISON_SEEN nor counts in
CORE_CNT_POISON: R34 counts what each instruction consumes, and R89 says that a faulting instruction has no effect (DEDUCED, log entry 86). -/
def finish (s : State) (c : CoreId) (i : Instr) : Issued → State
  | .retire k next => retireAt s c { k with st := .running } next
  | .retireSet k next o =>
    let s := retireAt s c { k with st := .running } next
    s.setCore c ((s.core c).setCtl64 o (k.ctl64 o))
  | .fault cause => coreFault s c cause (s.core c).pc
  | .lost k => fenceCores (s.setCore c k) (partOfKey s (coreKey c)) ROUTE_LOST [c]
  | .stall => s.setCore c { s.core c with ir := some i, st := .running, wait := none }
  | .wait k w =>
    let s := s.setCore c { k with st := .waiting, ir := some i, wait := some w }
    match w with
    | .lane _ _ => s
    | _ => if isRouteLost s c then fenceCores s (partOfKey s (coreKey c)) ROUTE_LOST [c] else s
  | .sleep k next =>
    let s := retireAt s c k next
    let s := s.setCore c { s.core c with st := .sleeping }
    if isRouteLost s c then fenceCores s (partOfKey s (coreKey c)) ROUTE_LOST [c] else s

/-- Issues instruction `i` at core `c` (R38): the core is RUNNING and stands at `i`, as FETCH latched it, or at no latched
instruction. In any other state the request changes nothing (R49; log entry 17). -/
def issue (c : CoreId) (i : Instr) (s : State) (f : Core → Issued) : State :=
  let k := s.core c
  if k.st = .running ∧ (k.ir = none ∨ k.ir = some i) then finish s c i (f k) else s

/-- The pc of the next instruction word. -/
def Core.pc4 (k : Core) : Word := k.pc + 4

/-- The pc after a long form (R60). -/
def Core.pc8 (k : Core) : Word := k.pc + 8

/-- Whether an mm of this core is not complete (R105, R149). -/
def Core.mmBusy (k : Core) : Bool := k.dExec.isSome || k.dPend.isSome || k.sExec.isSome || k.sPend.isSome

/-- Whether an engine owns a tile (R44). -/
def Core.tileBusy (k : Core) (t : Fin 4) : Bool := k.mmJobs.any (fun j => j.acc == t)

end Sys2Proof.Machine
end

