-- ==== Sys2Proof/Machine/Scalar.lean ====
section
/-! DEFINITION. Scalar, immediate and address instructions (R64 to R67). -/

namespace Sys2Proof.Machine

/-- Poisoned words among scalar registers, a register named twice counting once (R34). -/
def Core.poisonS (k : Core) (rs : List (Fin 32)) : Nat := (rs.dedup.filter (fun r => (k.rs r).poison)).length

/-- s[rd] ← f s[rs1] s[rs2], a poisoned source giving a poisoned result (R34, R63, R64). -/
def alu2 (f : Word → Word → Word) (rd rs1 rs2 : Fin 32) (k : Core) : Issued :=
  let a := k.rs rs1
  let b := k.rs rs2
  .retire ((k.consume (k.poisonS [rs1, rs2])).setS rd ⟨f a.val b.val, a.poison || b.poison⟩) k.pc4

/-- s[rd] ← f s[rs1] (R64, R66). -/
def alu1 (f : Word → Word) (rd rs1 : Fin 32) (k : Core) : Issued :=
  let a := k.rs rs1
  .retire ((k.consume (k.poisonS [rs1])).setS rd ⟨f a.val, a.poison⟩) k.pc4

/-- The comparisons write 0 or 1 (R63). -/
def bit (b : Bool) : Word := if b then 1 else 0

/-- Count of leading zeros, 0 to 32 (R64). -/
def clzW (w : Word) : Word := if w = 0 then 32 else BitVec.ofNat 32 (31 - Nat.log2 w.toNat)

/-- Count of ones (R64). -/
def popcW (w : Word) : Word := BitVec.ofNat 32 ((List.range 32).filter (fun i => w.getLsbD i)).length

/-- Quotients and remainders; division never traps (R65). -/
def sdivW (a b : Word) : Word := if b = 0 then BitVec.allOnes 32 else a.sdiv b
def udivW (a b : Word) : Word := if b = 0 then BitVec.allOnes 32 else a / b
def sremW (a b : Word) : Word := if b = 0 then a else a.srem b
def uremW (a b : Word) : Word := if b = 0 then a else a % b

/-- imm16 extended from bit 15, and with zeros (R66). -/
def sext16 (i : BitVec 16) : Word := i.signExtend 32
def zext16 (i : BitVec 16) : Word := i.zeroExtend 32

/-- add (R64). -/
def execAdd (c : CoreId) (rd rs1 rs2 : Fin 32) (s : State) : Res :=
  .next (issue c (.add c rd rs1 rs2) s (alu2 (fun a b => a + b) rd rs1 rs2))

/-- sub (R64). -/
def execSub (c : CoreId) (rd rs1 rs2 : Fin 32) (s : State) : Res :=
  .next (issue c (.sub c rd rs1 rs2) s (alu2 (fun a b => a - b) rd rs1 rs2))

/-- and (R64). -/
def execAnd (c : CoreId) (rd rs1 rs2 : Fin 32) (s : State) : Res :=
  .next (issue c (.and c rd rs1 rs2) s (alu2 (fun a b => a &&& b) rd rs1 rs2))

/-- or (R64). -/
def execOr (c : CoreId) (rd rs1 rs2 : Fin 32) (s : State) : Res :=
  .next (issue c (.or c rd rs1 rs2) s (alu2 (fun a b => a ||| b) rd rs1 rs2))

/-- xor (R64). -/
def execXor (c : CoreId) (rd rs1 rs2 : Fin 32) (s : State) : Res :=
  .next (issue c (.xor c rd rs1 rs2) s (alu2 (fun a b => a ^^^ b) rd rs1 rs2))

/-- sll (R64). -/
def execSll (c : CoreId) (rd rs1 rs2 : Fin 32) (s : State) : Res :=
  .next (issue c (.sll c rd rs1 rs2) s (alu2 (fun a b => a <<< (b.toNat % 32)) rd rs1 rs2))

/-- srl (R64). -/
def execSrl (c : CoreId) (rd rs1 rs2 : Fin 32) (s : State) : Res :=
  .next (issue c (.srl c rd rs1 rs2) s (alu2 (fun a b => a >>> (b.toNat % 32)) rd rs1 rs2))

/-- sra (R64). -/
def execSra (c : CoreId) (rd rs1 rs2 : Fin 32) (s : State) : Res :=
  .next (issue c (.sra c rd rs1 rs2) s (alu2 (fun a b => a.sshiftRight (b.toNat % 32)) rd rs1 rs2))

/-- slt (R64). -/
def execSlt (c : CoreId) (rd rs1 rs2 : Fin 32) (s : State) : Res :=
  .next (issue c (.slt c rd rs1 rs2) s (alu2 (fun a b => bit (a.slt b)) rd rs1 rs2))

/-- sltu (R64). -/
def execSltu (c : CoreId) (rd rs1 rs2 : Fin 32) (s : State) : Res :=
  .next (issue c (.sltu c rd rs1 rs2) s (alu2 (fun a b => bit (a.ult b)) rd rs1 rs2))

/-- min (R64). -/
def execMin (c : CoreId) (rd rs1 rs2 : Fin 32) (s : State) : Res :=
  .next (issue c (.min c rd rs1 rs2) s (alu2 (fun a b => if a.slt b then a else b) rd rs1 rs2))

/-- max (R64). -/
def execMax (c : CoreId) (rd rs1 rs2 : Fin 32) (s : State) : Res :=
  .next (issue c (.max c rd rs1 rs2) s (alu2 (fun a b => if a.slt b then b else a) rd rs1 rs2))

/-- minu (R64). -/
def execMinu (c : CoreId) (rd rs1 rs2 : Fin 32) (s : State) : Res :=
  .next (issue c (.minu c rd rs1 rs2) s (alu2 (fun a b => if a.ult b then a else b) rd rs1 rs2))

/-- maxu (R64). -/
def execMaxu (c : CoreId) (rd rs1 rs2 : Fin 32) (s : State) : Res :=
  .next (issue c (.maxu c rd rs1 rs2) s (alu2 (fun a b => if a.ult b then b else a) rd rs1 rs2))

/-- mul (R64). -/
def execMul (c : CoreId) (rd rs1 rs2 : Fin 32) (s : State) : Res :=
  .next (issue c (.mul c rd rs1 rs2) s (alu2 (fun a b => a * b) rd rs1 rs2))

/-- mulh (R64). -/
def execMulh (c : CoreId) (rd rs1 rs2 : Fin 32) (s : State) : Res :=
  .next (issue c (.mulh c rd rs1 rs2) s (alu2 (fun a b => ((a.signExtend 64 * b.signExtend 64 : BitVec 64) >>> 32).truncate 32) rd rs1 rs2))

/-- mulhu (R64). -/
def execMulhu (c : CoreId) (rd rs1 rs2 : Fin 32) (s : State) : Res :=
  .next (issue c (.mulhu c rd rs1 rs2) s (alu2 (fun a b => ((a.zeroExtend 64 * b.zeroExtend 64 : BitVec 64) >>> 32).truncate 32) rd rs1 rs2))

/-- div (R64). -/
def execDiv (c : CoreId) (rd rs1 rs2 : Fin 32) (s : State) : Res :=
  .next (issue c (.div c rd rs1 rs2) s (alu2 (fun a b => sdivW a b) rd rs1 rs2))

/-- divu (R64). -/
def execDivu (c : CoreId) (rd rs1 rs2 : Fin 32) (s : State) : Res :=
  .next (issue c (.divu c rd rs1 rs2) s (alu2 (fun a b => udivW a b) rd rs1 rs2))

/-- rem (R64). -/
def execRem (c : CoreId) (rd rs1 rs2 : Fin 32) (s : State) : Res :=
  .next (issue c (.rem c rd rs1 rs2) s (alu2 (fun a b => sremW a b) rd rs1 rs2))

/-- remu (R64). -/
def execRemu (c : CoreId) (rd rs1 rs2 : Fin 32) (s : State) : Res :=
  .next (issue c (.remu c rd rs1 rs2) s (alu2 (fun a b => uremW a b) rd rs1 rs2))

/-- clz (R64). -/
def execClz (c : CoreId) (rd rs1 : Fin 32) (s : State) : Res :=
  .next (issue c (.clz c rd rs1) s (alu1 clzW rd rs1))

/-- popc (R64). -/
def execPopc (c : CoreId) (rd rs1 : Fin 32) (s : State) : Res :=
  .next (issue c (.popc c rd rs1) s (alu1 popcW rd rs1))

/-- addi (R66). -/
def execAddi (c : CoreId) (rd rs1 : Fin 32) (imm : BitVec 16) (s : State) : Res :=
  .next (issue c (.addi c rd rs1 imm) s (alu1 (fun a => a + sext16 imm) rd rs1))

/-- andi (R66). -/
def execAndi (c : CoreId) (rd rs1 : Fin 32) (imm : BitVec 16) (s : State) : Res :=
  .next (issue c (.andi c rd rs1 imm) s (alu1 (fun a => a &&& zext16 imm) rd rs1))

/-- ori (R66). -/
def execOri (c : CoreId) (rd rs1 : Fin 32) (imm : BitVec 16) (s : State) : Res :=
  .next (issue c (.ori c rd rs1 imm) s (alu1 (fun a => a ||| zext16 imm) rd rs1))

/-- xori (R66). -/
def execXori (c : CoreId) (rd rs1 : Fin 32) (imm : BitVec 16) (s : State) : Res :=
  .next (issue c (.xori c rd rs1 imm) s (alu1 (fun a => a ^^^ zext16 imm) rd rs1))

/-- slti (R66). -/
def execSlti (c : CoreId) (rd rs1 : Fin 32) (imm : BitVec 16) (s : State) : Res :=
  .next (issue c (.slti c rd rs1 imm) s (alu1 (fun a => bit (a.slt (sext16 imm))) rd rs1))

/-- sltiu (R66). -/
def execSltiu (c : CoreId) (rd rs1 : Fin 32) (imm : BitVec 16) (s : State) : Res :=
  .next (issue c (.sltiu c rd rs1 imm) s (alu1 (fun a => bit (a.ult (sext16 imm))) rd rs1))

/-- The shift of shifti (R66). -/
def shiftBy (k : ShiftKind) (n : Nat) (a : Word) : Word :=
  match k with
  | .sll => a <<< n
  | .srl => a >>> n
  | .sra => a.sshiftRight n

/-- shifti (R66). -/
def execShifti (c : CoreId) (rd rs1 : Fin 32) (k : ShiftKind) (amt : Fin 32) (s : State) : Res :=
  .next (issue c (.shifti c rd rs1 k amt) s (alu1 (shiftBy k amt.val) rd rs1))

/-- lui (R66). -/
def execLui (c : CoreId) (rd : Fin 32) (imm : BitVec 16) (s : State) : Res :=
  .next (issue c (.lui c rd imm) s (fun k => .retire (k.setS rd ⟨zext16 imm <<< 16, false⟩) k.pc4))

/-- amov, an address computation: a poisoned source raises POISON_ADDR (R67). -/
def execAmov (c : CoreId) (ad : Fin 8) (rs1 : Fin 32) (s : State) : Res :=
  .next (issue c (.amov c ad rs1) s (fun k =>
    if (k.rs rs1).poison then .fault POISON_ADDR else .retire (k.setA ad (k.rs rs1)) k.pc4))

/-- smov copies the tag (R67). -/
def execSmov (c : CoreId) (rd : Fin 32) (as1 : Fin 8) (s : State) : Res :=
  .next (issue c (.smov c rd as1) s (fun k =>
    .retire ((k.consume (k.ra as1).poison.toNat).setS rd (k.ra as1)) k.pc4))

/-- aadd (R67). -/
def execAadd (c : CoreId) (ad as1 : Fin 8) (rs2 : Fin 32) (s : State) : Res :=
  .next (issue c (.aadd c ad as1 rs2) s (fun k =>
    if (k.ra as1).poison || (k.rs rs2).poison then .fault POISON_ADDR
    else .retire (k.setA ad ⟨(k.ra as1).val + (k.rs rs2).val, false⟩) k.pc4))

/-- aaddi (R67). -/
def execAaddi (c : CoreId) (ad as1 : Fin 8) (imm : BitVec 16) (s : State) : Res :=
  .next (issue c (.aaddi c ad as1 imm) s (fun k =>
    if (k.ra as1).poison then .fault POISON_ADDR
    else .retire (k.setA ad ⟨(k.ra as1).val + sext16 imm, false⟩) k.pc4))

/-- ali, a long form (R60, R67). -/
def execAli (c : CoreId) (ad : Fin 8) (imm : BitVec 32) (s : State) : Res :=
  .next (issue c (.ali c ad imm) s (fun k => .retire (k.setA ad ⟨imm, false⟩) k.pc8))

/-- li, a long form (R60, R67). -/
def execLi (c : CoreId) (rd : Fin 32) (imm : BitVec 32) (s : State) : Res :=
  .next (issue c (.li c rd imm) s (fun k => .retire (k.setS rd ⟨imm, false⟩) k.pc8))

end Sys2Proof.Machine
end

