-- ==== Sys2Proof/Machine/Control.lean ====
section
/-! DEFINITION. Predicate instructions (R71, R72), branches and jumps (R80, R81), system instructions (R82, R83). -/

namespace Sys2Proof.Machine

/-- pand (R71). -/
def execPand (c : CoreId) (pd ps1 ps2 : Fin 8) (s : State) : Res :=
  .next (issue c (.pand c pd ps1 ps2) s (fun k =>
    let a := k.rp ps1
    let b := k.rp ps2
    .retire (k.setP pd (a &&& b)) k.pc4))

/-- por (R71). -/
def execPor (c : CoreId) (pd ps1 ps2 : Fin 8) (s : State) : Res :=
  .next (issue c (.por c pd ps1 ps2) s (fun k =>
    let a := k.rp ps1
    let b := k.rp ps2
    .retire (k.setP pd (a ||| b)) k.pc4))

/-- pxor (R71). -/
def execPxor (c : CoreId) (pd ps1 ps2 : Fin 8) (s : State) : Res :=
  .next (issue c (.pxor c pd ps1 ps2) s (fun k =>
    let a := k.rp ps1
    let b := k.rp ps2
    .retire (k.setP pd (a ^^^ b)) k.pc4))

/-- pandn (R71). -/
def execPandn (c : CoreId) (pd ps1 ps2 : Fin 8) (s : State) : Res :=
  .next (issue c (.pandn c pd ps1 ps2) s (fun k =>
    let a := k.rp ps1
    let b := k.rp ps2
    .retire (k.setP pd (a &&& ~~~b)) k.pc4))

/-- pnot (R71). -/
def execPnot (c : CoreId) (pd ps1 : Fin 8) (s : State) : Res :=
  .next (issue c (.pnot c pd ps1) s (fun k => .retire (k.setP pd (~~~(k.rp ps1))) k.pc4))

/-- pmovs; bits derived from a poisoned word are written 0, and the word is counted (R71, R72). -/
def execPmovs (c : CoreId) (pd : Fin 8) (rs1 : Fin 32) (s : State) : Res :=
  .next (issue c (.pmovs c pd rs1) s (fun k =>
    let a := k.rs rs1
    .retire ((k.consume a.poison.toNat).setP pd (if a.poison then 0 else a.val)) k.pc4))

/-- smovp (R71). -/
def execSmovp (c : CoreId) (rd : Fin 32) (ps1 : Fin 8) (s : State) : Res :=
  .next (issue c (.smovp c rd ps1) s (fun k => .retire (k.setS rd ⟨k.rp ps1, false⟩) k.pc4))

/-- pcnt (R71). -/
def execPcnt (c : CoreId) (rd : Fin 32) (ps1 : Fin 8) (s : State) : Res :=
  .next (issue c (.pcnt c rd ps1) s (fun k => .retire (k.setS rd ⟨popcW (k.rp ps1), false⟩) k.pc4))

/-- A signed count of words from the branch's own address (R61). -/
def target (pc : Word) (off : Word) : Word := pc + off * 4

/-- A conditional branch: a poisoned source raises POISON_BRANCH, and nothing is written (R80, R81). -/
def branch (f : Word → Word → Bool) (rs1 rs2 : Fin 32) (off : BitVec 16) (k : Core) : Issued :=
  if (k.rs rs1).poison || (k.rs rs2).poison then .fault POISON_BRANCH
  else .retire k (if f (k.rs rs1).val (k.rs rs2).val then target k.pc (sext16 off) else k.pc4)

/-- beq (R80). -/
def execBeq (c : CoreId) (rs1 rs2 : Fin 32) (off : BitVec 16) (s : State) : Res :=
  .next (issue c (.beq c rs1 rs2 off) s (branch (fun a b => a == b) rs1 rs2 off))

/-- bne (R80). -/
def execBne (c : CoreId) (rs1 rs2 : Fin 32) (off : BitVec 16) (s : State) : Res :=
  .next (issue c (.bne c rs1 rs2 off) s (branch (fun a b => a != b) rs1 rs2 off))

/-- blt (R80). -/
def execBlt (c : CoreId) (rs1 rs2 : Fin 32) (off : BitVec 16) (s : State) : Res :=
  .next (issue c (.blt c rs1 rs2 off) s (branch (fun a b => a.slt b) rs1 rs2 off))

/-- bge (R80). -/
def execBge (c : CoreId) (rs1 rs2 : Fin 32) (off : BitVec 16) (s : State) : Res :=
  .next (issue c (.bge c rs1 rs2 off) s (branch (fun a b => !a.slt b) rs1 rs2 off))

/-- bltu (R80). -/
def execBltu (c : CoreId) (rs1 rs2 : Fin 32) (off : BitVec 16) (s : State) : Res :=
  .next (issue c (.bltu c rs1 rs2 off) s (branch (fun a b => a.ult b) rs1 rs2 off))

/-- bgeu (R80). -/
def execBgeu (c : CoreId) (rs1 rs2 : Fin 32) (off : BitVec 16) (s : State) : Res :=
  .next (issue c (.bgeu c rs1 rs2 off) s (branch (fun a b => !a.ult b) rs1 rs2 off))

/-- dbnz (R80). -/
def execDbnz (c : CoreId) (rs1 : Fin 32) (off : BitVec 16) (s : State) : Res :=
  .next (issue c (.dbnz c rs1 off) s (fun k =>
    if (k.rs rs1).poison then .fault POISON_BRANCH
    else
      let v := (k.rs rs1).val - 1
      .retire (k.setS rs1 ⟨v, false⟩) (if v ≠ 0 then target k.pc (sext16 off) else k.pc4)))

/-- jal links s31 (R81). -/
def execJal (c : CoreId) (off : BitVec 26) (s : State) : Res :=
  .next (issue c (.jal c off) s (fun k => .retire (k.setS 31 ⟨k.pc4, false⟩) (target k.pc (off.signExtend 32))))

/-- jalr (R81). -/
def execJalr (c : CoreId) (rd rs1 : Fin 32) (imm : BitVec 16) (s : State) : Res :=
  .next (issue c (.jalr c rd rs1 imm) s (fun k =>
    if (k.rs rs1).poison then .fault POISON_BRANCH
    else .retire (k.setS rd ⟨k.pc4, false⟩) ((k.rs rs1).val + sext16 imm)))

/-- jl, a long form (R81). -/
def execJl (c : CoreId) (dst : Fin 32) (imm : BitVec 32) (s : State) : Res :=
  .next (issue c (.jl c dst imm) s (fun k => .retire (k.setS dst ⟨k.pc8, false⟩) imm))

/-- nop (R82). -/
def execNop (c : CoreId) (s : State) : Res := .next (issue c (.nop c) s (fun k => .retire k k.pc4))

/-- halt waits until every earlier mm is complete, then the core sleeps; queued outbound operations go on (R82, R83, R105). -/
def execHalt (c : CoreId) (s : State) : Res :=
  .next (issue c (.halt c) s (fun k => if k.mmBusy then .stall else .sleep k k.pc4))

/-- fence.l waits until every earlier mm is complete; loads and stores are performed as they issue (R82, R105). -/
def execFenceL (c : CoreId) (s : State) : Res :=
  .next (issue c (.fenceL c) s (fun k => if k.mmBusy then .stall else .retire k k.pc4))

/-- fence.f waits until the router has taken every earlier outbound operation (R82). -/
def execFenceF (c : CoreId) (s : State) : Res :=
  .next (issue c (.fenceF c) s (fun k => if k.inject ≠ [] then .stall else .retire k k.pc4))

/-- fence (R82). -/
def execFence (c : CoreId) (s : State) : Res :=
  .next (issue c (.fence c) s (fun k => if k.mmBusy ∨ k.inject ≠ [] then .stall else .retire k k.pc4))

/-- trap raises fault cause 0x80 + code (R82, R88). -/
def execTrap (c : CoreId) (code : BitVec 7) (s : State) : Res :=
  .next (issue c (.trap c code) s (fun _ => .fault (0x80 ||| code.zeroExtend 8)))

end Sys2Proof.Machine
end

