-- ==== Sys2Proof/Machine/Vector.lean ====
section
/-! DEFINITION. Vector instructions (R73 to R79, R135). -/

namespace Sys2Proof.Machine

/-- The layout of a float lane type. -/
def laneFmt : LaneTy → BinFmt
  | .bf16 => fmtB
  | _ => fmt32

/-- The bits of a lane. -/
def laneBits (ty : LaneTy) : Nat := 8 * laneBytes ty

/-- An integer lane as a signed value, unsigned for U8 (R75). -/
def laneInt (ty : LaneTy) (a : Nat) : Int :=
  if ty = .u8 then a else if 2 ^ (laneBits ty - 1) ≤ a then (a : Int) - 2 ^ laneBits ty else a

/-- An integer result as a lane, wrapping (R63, R75). -/
def wrapLane (ty : LaneTy) (v : Int) : Nat := (v % 2 ^ laneBits ty).toNat

/-- A float lane's value, and a value as a float lane (R76). -/
def laneF (ty : LaneTy) (a : Nat) : FV := ieeeOf (laneFmt ty) a
def fLane (ty : LaneTy) (v : FV) : Nat := encIeee (laneFmt ty) v

/-- A lane operation that is `f` on floats and `g` on integers. -/
def laneOp2 (f : FV → FV → FV) (g : Int → Int → Int) (ty : LaneTy) (a b : Nat) : Nat :=
  if isFloat ty then fLane ty (f (laneF ty a) (laneF ty b)) else wrapLane ty (g (laneInt ty a) (laneInt ty b))

def laneOp1 (f : FV → FV) (g : Int → Int) (ty : LaneTy) (a : Nat) : Nat :=
  if isFloat ty then fLane ty (f (laneF ty a)) else wrapLane ty (g (laneInt ty a))

/-- Poisoned words among vector registers, a register named twice counting once (R34). -/
def Core.poisonV (k : Core) (rs : List (Fin 16)) : Nat := (rs.dedup.map (fun r => (k.rv r).poisoned)).sum

/-- The tag of the word that holds lane i. -/
def VReg.laneTag (x : VReg) (ty : LaneTy) (i : Nat) : Bool := x.tag.getLsbD (laneWord ty i)

/-- v[vd] ← f v[va] v[vb], enabled lanes only (R74, R75, R78). -/
def vec2 (f : LaneTy → Nat → Nat → Nat) (ty : LaneTy) (pg : Fin 8) (vd va vb : Fin 16) (k : Core) : Issued :=
  let a := k.rv va
  let b := k.rv vb
  let x := (k.rv vd).build ty (fun i =>
    if laneOn (k.rp pg) ty i then some (f ty (a.lane ty i) (b.lane ty i), a.laneTag ty i || b.laneTag ty i) else none)
  .retire ((k.consume (k.poisonV [va, vb])).setV vd x) k.pc4

/-- v[vd] ← f v[va], enabled lanes only. -/
def vec1 (f : LaneTy → Nat → Nat) (ty : LaneTy) (pg : Fin 8) (vd va : Fin 16) (k : Core) : Issued :=
  let a := k.rv va
  let x := (k.rv vd).build ty (fun i =>
    if laneOn (k.rp pg) ty i then some (f ty (a.lane ty i), a.laneTag ty i) else none)
  .retire ((k.consume (k.poisonV [va])).setV vd x) k.pc4

/-- An operation paired with a lane type not listed for it raises ILLEGAL (R87). -/
def onTypes (ok : Bool) (r : Issued) : Issued := if ok then r else .fault ILLEGAL

/-- A comparison writes every byte of an enabled lane; disabled lanes, and lanes that derive from a poisoned word, are 0
(R72, R74, R75). -/
def vcmp (f : FV → FV → Bool) (g : Int → Int → Bool) (ty : LaneTy) (pg pd : Fin 8) (va vb : Fin 16) (k : Core) : Issued :=
  let a := k.rv va
  let b := k.rv vb
  let res (i : Nat) : Bool :=
    laneOn (k.rp pg) ty i && !(a.laneTag ty i || b.laneTag ty i) &&
    (if isFloat ty then f (laneF ty (a.lane ty i)) (laneF ty (b.lane ty i))
     else g (laneInt ty (a.lane ty i)) (laneInt ty (b.lane ty i)))
  let w := (List.range 32).foldr (fun j acc => (res (j / laneBytes ty)).toNat + 2 * acc) 0
  .retire ((k.consume (k.poisonV [va, vb])).setP pd (BitVec.ofNat 32 w)) k.pc4

/-- Adjacent pairs of a list combined. -/
def pairUp {α : Type} (f : α → α → α) : List α → List α
  | a :: b :: t => f a b :: pairUp f t
  | l => l

/-- The fixed pairwise tree over eight or sixteen lanes (R77). -/
def tree {α : Type} (f : α → α → α) (d : α) (l : List α) : α :=
  ((pairUp f (pairUp f (pairUp f (if l.length = 16 then pairUp f l else l)))).head?).getD d

/-- The sum of the enabled lanes (R77). -/
def redAdd (ty : LaneTy) (p : Word) (a : VReg) : Nat :=
  let idx := List.range (laneCount ty)
  if isFloat ty then
    let ls := idx.map (fun i => if laneOn p ty i then laneF ty (a.lane ty i) else .fin false 0 0)
    fLane ty (tree (fun x y => of32 (to32 (fadd x y))) (.fin false 0 0) ls)
  else wrapLane ty ((idx.map (fun i => if laneOn p ty i then laneInt ty (a.lane ty i) else 0)).foldl (· + ·) 0)

/-- The least value of an integer lane type. -/
def laneMin (ty : LaneTy) : Int := if ty = .u8 then 0 else -(2 ^ (laneBits ty - 1))

/-- The maximum of the enabled lanes (R77). -/
def redMax (ty : LaneTy) (p : Word) (a : VReg) : Nat :=
  let idx := (List.range (laneCount ty)).filter (laneOn p ty)
  if isFloat ty then fLane ty ((idx.map (fun i => laneF ty (a.lane ty i))).foldl fmax (.inf true))
  else wrapLane ty ((idx.map (fun i => laneInt ty (a.lane ty i))).foldl max (laneMin ty))

/-- A reduction's result goes to every lane of vd; it is poisoned when an enabled lane is (R74, R78). -/
def vecRed (f : LaneTy → Word → VReg → Nat) (ty : LaneTy) (pg : Fin 8) (vd va : Fin 16) (k : Core) : Issued :=
  let a := k.rv va
  let t := (List.range (laneCount ty)).any (fun i => laneOn (k.rp pg) ty i && a.laneTag ty i)
  .retire ((k.consume (k.poisonV [va])).setV vd ((k.rv vd).build ty (fun _ => some (f ty (k.rp pg) a, t)))) k.pc4

/-! ### vexp2, vrcp, vrsqrt (R76, R135). The spec fixes the special values and a bound of 2 units in the last place; the
function within the bound is free (log entry 14). -/

/-- Whether a finite value is not below zero. -/
def FV.nonneg : FV → Bool
  | .fin neg m _ => !neg || m == 0
  | _ => false

/-- The code, sign apart, that a free choice `c` names for a result between (m − err) × 2^e and (m + err) × 2^e: a code whose value lies
within 2 units in the last place of all of them (R76), the nearest one where `c` names none. -/
def nearCode (f : BinFmt) (m err : Nat) (e : Int) (c : Nat) : Nat :=
  let t := roundMag f .zero (m - err) e
  let slack : FV := match finOf f t with
    | .fin _ _ x => .fin false 2 x
    | v => v
  let n := t + c % 11 - 5
  let v := finOf f n
  let low := fadd (fadd v slack) (fneg (.fin false (m + err) e))
  let high := fadd (fadd (.fin false (m - err) e) slack) (fneg v)
  if low.nonneg && high.nonneg then min n (infCode f) else min (roundMag f .nearest m e) (infCode f)

/-- 2^(i/2^64) for i below 2^64, as a fixed-point number over 2^96. -/
def exp2Frac (i : Nat) : Nat :=
  ((List.range 64).foldl (fun (acc : Nat × Nat) n =>
    let root := Nat.sqrt (acc.2 * 2 ^ 96)
    (if i.testBit (63 - n) then acc.1 * root / 2 ^ 96 else acc.1, root)) (2 ^ 96, 2 ^ 97)).1

/-- vexp2 of a value, `c` the free choice (R135). -/
def exp2F (f : BinFmt) (c : Nat) : FV → Nat
  | .nan => nanCode f
  | .inf neg => if neg then 0 else infCode f
  | .fin neg m e =>
    if m = 0 then encIeee f (.fin false 1 0)
    else if 12 < flog2 m e then (if neg then 0 else infCode f)
    else
      let mag := if 0 ≤ e + 64 then m * 2 ^ (e + 64).toNat else m / 2 ^ (-(e + 64)).toNat
      let fx := sgnInt neg mag
      let err := if fx % 2 ^ 64 = 0 ∧ mag ≠ 0 ∧ (0 ≤ e + 64 ∨ m % 2 ^ (-(e + 64)).toNat = 0) then 0 else 2 ^ 34
      nearCode f (exp2Frac (fx % 2 ^ 64).toNat) err (fx / 2 ^ 64 - 96) c

/-- vrcp (R135). -/
def rcpF (f : BinFmt) (c : Nat) : FV → Nat
  | .nan => nanCode f
  | .inf neg => signBit f neg
  | .fin neg m e =>
    if m = 0 then signBit f neg + infCode f
    else signBit f neg + nearCode f (2 ^ 96 / m) (if 2 ^ 96 % m = 0 then 0 else 1) (-e - 96) c

/-- vrsqrt (R135). -/
def rsqrtF (f : BinFmt) (c : Nat) : FV → Nat
  | .nan => nanCode f
  | .inf neg => if neg then nanCode f else 0
  | .fin neg m e =>
    if m = 0 then signBit f neg + infCode f
    else if neg then nanCode f
    else
      let m' := if e % 2 = 0 then m else 2 * m
      let e' := if e % 2 = 0 then e else e - 1
      let q := 2 ^ 192 / m'
      let err := if 2 ^ 192 % m' = 0 ∧ Nat.sqrt q * Nat.sqrt q = q then 0 else 1
      nearCode f (Nat.sqrt q) err (-(e' / 2) - 96) c

/-- The free choice of a function for a lane. -/
def choice (w : Word → Word) (b : BitVec 16 → BitVec 16) (ty : LaneTy) (a : Nat) : Nat :=
  if ty = .bf16 then (b (BitVec.ofNat 16 a)).toNat else (w (BitVec.ofNat 32 a)).toNat

/-- A lane's bits as a signed value, U8 included: vsra copies the most significant bit for every integer type (R75). -/
def wrapSigned (ty : LaneTy) (a : Nat) : Int := if 2 ^ (laneBits ty - 1) ≤ a then (a : Int) - 2 ^ laneBits ty else a

/-- vadd (R75). -/
def execVadd (c : CoreId) (ty : LaneTy) (pg : Fin 8) (vd va vb : Fin 16) (s : State) : Res :=
  .next (issue c (.vadd c ty pg vd va vb) s (vec2 (laneOp2 fadd (· + ·)) ty pg vd va vb))

/-- vsub (R75). -/
def execVsub (c : CoreId) (ty : LaneTy) (pg : Fin 8) (vd va vb : Fin 16) (s : State) : Res :=
  .next (issue c (.vsub c ty pg vd va vb) s (vec2 (laneOp2 (fun x y => fadd x (fneg y)) (· - ·)) ty pg vd va vb))

/-- vmul (R75). -/
def execVmul (c : CoreId) (ty : LaneTy) (pg : Fin 8) (vd va vb : Fin 16) (s : State) : Res :=
  .next (issue c (.vmul c ty pg vd va vb) s (vec2 (laneOp2 fmul (· * ·)) ty pg vd va vb))

/-- vmin (R75). -/
def execVmin (c : CoreId) (ty : LaneTy) (pg : Fin 8) (vd va vb : Fin 16) (s : State) : Res :=
  .next (issue c (.vmin c ty pg vd va vb) s (vec2 (laneOp2 fmin min) ty pg vd va vb))

/-- vmax (R75). -/
def execVmax (c : CoreId) (ty : LaneTy) (pg : Fin 8) (vd va vb : Fin 16) (s : State) : Res :=
  .next (issue c (.vmax c ty pg vd va vb) s (vec2 (laneOp2 fmax max) ty pg vd va vb))

/-- vand (R75). -/
def execVand (c : CoreId) (ty : LaneTy) (pg : Fin 8) (vd va vb : Fin 16) (s : State) : Res :=
  .next (issue c (.vand c ty pg vd va vb) s (vec2 (fun _ a b => a &&& b) ty pg vd va vb))

/-- vor (R75). -/
def execVor (c : CoreId) (ty : LaneTy) (pg : Fin 8) (vd va vb : Fin 16) (s : State) : Res :=
  .next (issue c (.vor c ty pg vd va vb) s (vec2 (fun _ a b => a ||| b) ty pg vd va vb))

/-- vxor (R75). -/
def execVxor (c : CoreId) (ty : LaneTy) (pg : Fin 8) (vd va vb : Fin 16) (s : State) : Res :=
  .next (issue c (.vxor c ty pg vd va vb) s (vec2 (fun _ a b => a ^^^ b) ty pg vd va vb))

/-- vsll (R75). -/
def execVsll (c : CoreId) (ty : LaneTy) (pg : Fin 8) (vd va vb : Fin 16) (s : State) : Res :=
  .next (issue c (.vsll c ty pg vd va vb) s (fun k => onTypes (!isFloat ty) (vec2 (fun ty a b => a * 2 ^ (b % laneBits ty)) ty pg vd va vb k)))

/-- vsrl (R75). -/
def execVsrl (c : CoreId) (ty : LaneTy) (pg : Fin 8) (vd va vb : Fin 16) (s : State) : Res :=
  .next (issue c (.vsrl c ty pg vd va vb) s (fun k => onTypes (!isFloat ty) (vec2 (fun ty a b => a / 2 ^ (b % laneBits ty)) ty pg vd va vb k)))

/-- vsra (R75). -/
def execVsra (c : CoreId) (ty : LaneTy) (pg : Fin 8) (vd va vb : Fin 16) (s : State) : Res :=
  .next (issue c (.vsra c ty pg vd va vb) s (fun k => onTypes (!isFloat ty) (vec2 (fun ty a b => wrapLane ty (wrapSigned ty a / 2 ^ (b % laneBits ty))) ty pg vd va vb k)))

/-- vfma: va × vb + vd with one rounding (R75, R76). -/
def execVfma (c : CoreId) (ty : LaneTy) (pg : Fin 8) (vd va vb : Fin 16) (s : State) : Res :=
  .next (issue c (.vfma c ty pg vd va vb) s (fun k =>
    let a := k.rv va
    let b := k.rv vb
    let d := k.rv vd
    let f (i : Nat) : Nat :=
      if isFloat ty then fLane ty (fadd (fmul (laneF ty (a.lane ty i)) (laneF ty (b.lane ty i))) (laneF ty (d.lane ty i)))
      else wrapLane ty (laneInt ty (a.lane ty i) * laneInt ty (b.lane ty i) + laneInt ty (d.lane ty i))
    let x := d.build ty (fun i =>
      if laneOn (k.rp pg) ty i then some (f i, a.laneTag ty i || b.laneTag ty i || d.laneTag ty i) else none)
    .retire ((k.consume (k.poisonV [va, vb, vd])).setV vd x) k.pc4))

/-- vabs (R75). -/
def execVabs (c : CoreId) (ty : LaneTy) (pg : Fin 8) (vd va : Fin 16) (s : State) : Res :=
  .next (issue c (.vabs c ty pg vd va) s (fun k => onTypes (ty != .u8) (vec1 (laneOp1 fabs (fun x => x.natAbs)) ty pg vd va k)))

/-- vneg (R75). -/
def execVneg (c : CoreId) (ty : LaneTy) (pg : Fin 8) (vd va : Fin 16) (s : State) : Res :=
  .next (issue c (.vneg c ty pg vd va) s (fun k => onTypes (ty != .u8) (vec1 (laneOp1 fneg (fun x => -x)) ty pg vd va k)))

/-- vexp2 (R75). -/
def execVexp2 (c : CoreId) (ty : LaneTy) (pg : Fin 8) (vd va : Fin 16) (s : State) : Res :=
  .next (issue c (.vexp2 c ty pg vd va) s (fun k => onTypes (isFloat ty) (vec1 (fun ty a => exp2F (laneFmt ty) (choice Config.vexp2 Config.vexp2B ty a) (laneF ty a)) ty pg vd va k)))

/-- vrcp (R75). -/
def execVrcp (c : CoreId) (ty : LaneTy) (pg : Fin 8) (vd va : Fin 16) (s : State) : Res :=
  .next (issue c (.vrcp c ty pg vd va) s (fun k => onTypes (isFloat ty) (vec1 (fun ty a => rcpF (laneFmt ty) (choice Config.vrcp Config.vrcpB ty a) (laneF ty a)) ty pg vd va k)))

/-- vrsqrt (R75). -/
def execVrsqrt (c : CoreId) (ty : LaneTy) (pg : Fin 8) (vd va : Fin 16) (s : State) : Res :=
  .next (issue c (.vrsqrt c ty pg vd va) s (fun k => onTypes (isFloat ty) (vec1 (fun ty a => rsqrtF (laneFmt ty) (choice Config.vrsqrt Config.vrsqrtB ty a) (laneF ty a)) ty pg vd va k)))

/-- vcmpeq (R75). -/
def execVcmpeq (c : CoreId) (ty : LaneTy) (pg pd : Fin 8) (va vb : Fin 16) (s : State) : Res :=
  .next (issue c (.vcmpeq c ty pg pd va vb) s (vcmp feq (fun x y => decide (x = y)) ty pg pd va vb))

/-- vcmplt (R75). -/
def execVcmplt (c : CoreId) (ty : LaneTy) (pg pd : Fin 8) (va vb : Fin 16) (s : State) : Res :=
  .next (issue c (.vcmplt c ty pg pd va vb) s (vcmp flt (fun x y => decide (x < y)) ty pg pd va vb))

/-- vcmple (R75). -/
def execVcmple (c : CoreId) (ty : LaneTy) (pg pd : Fin 8) (va vb : Fin 16) (s : State) : Res :=
  .next (issue c (.vcmple c ty pg pd va vb) s (vcmp (fun x y => flt x y || feq x y) (fun x y => decide (x ≤ y)) ty pg pd va vb))

/-- vsel writes every lane, from va where p[pg] enables it, else from vb (R75). -/
def execVsel (c : CoreId) (ty : LaneTy) (pg : Fin 8) (vd va vb : Fin 16) (s : State) : Res :=
  .next (issue c (.vsel c ty pg vd va vb) s (fun k =>
    let a := k.rv va
    let b := k.rv vb
    let x := (k.rv vd).build ty (fun i =>
      if laneOn (k.rp pg) ty i then some (a.lane ty i, a.laneTag ty i) else some (b.lane ty i, b.laneTag ty i))
    .retire ((k.consume (k.poisonV [va, vb])).setV vd x) k.pc4))

/-- vredadd (R75, R77). -/
def execVredadd (c : CoreId) (ty : LaneTy) (pg : Fin 8) (vd va : Fin 16) (s : State) : Res :=
  .next (issue c (.vredadd c ty pg vd va) s (fun k => onTypes (isFloat ty || ty == .i32) (vecRed redAdd ty pg vd va k)))

/-- vredmax (R75, R77). -/
def execVredmax (c : CoreId) (ty : LaneTy) (pg : Fin 8) (vd va : Fin 16) (s : State) : Res :=
  .next (issue c (.vredmax c ty pg vd va) s (vecRed redMax ty pg vd va))

/-- vbcast (R79). -/
def execVbcast (c : CoreId) (ty : LaneTy) (vd : Fin 16) (rs : Fin 32) (s : State) : Res :=
  .next (issue c (.vbcast c ty vd rs) s (fun k =>
    let w := k.rs rs
    let x := (k.rv vd).build ty (fun _ => some (w.val.toNat, w.poison))
    .retire ((k.consume w.poison.toNat).setV vd x) k.pc4))

/-- The scalar that vext gives: sign-extended, or zero-extended for U8 and BF16 (R79). -/
def extLane (ty : LaneTy) (a : Nat) : Word :=
  if ty = .u8 ∨ ty = .bf16 ∨ ty = .fp32 then BitVec.ofNat 32 a else BitVec.ofInt 32 (laneInt ty a)

/-- vext (R79); a lane at or above the lanes of the type is undefined (R87). -/
def execVext (c : CoreId) (ty : LaneTy) (rd : Fin 32) (va : Fin 16) (lane : Fin 32) (s : State) : Res :=
  .next (issue c (.vext c ty rd va lane) s (fun k => onTypes (decide (lane.val < laneCount ty))
    (let a := k.rv va
     let t := a.laneTag ty lane.val
     .retire ((k.consume t.toNat).setS rd ⟨extLane ty (a.lane ty lane.val), t⟩) k.pc4)))

/-- vins (R79). -/
def execVins (c : CoreId) (ty : LaneTy) (vd : Fin 16) (rs : Fin 32) (lane : Fin 32) (s : State) : Res :=
  .next (issue c (.vins c ty vd rs lane) s (fun k => onTypes (decide (lane.val < laneCount ty))
    (let w := k.rs rs
     let x := (k.rv vd).build ty (fun i => if i = lane.val then some (w.val.toNat, w.poison) else none)
     .retire ((k.consume w.poison.toNat).setV vd x) k.pc4)))

/-- vbcasti, a long form (R60, R79). -/
def execVbcasti (c : CoreId) (ty : LaneTy) (vd : Fin 16) (imm : BitVec 32) (s : State) : Res :=
  .next (issue c (.vbcasti c ty vd imm) s (fun k =>
    .retire (k.setV vd ((k.rv vd).build ty (fun _ => some (imm.toNat, false)))) k.pc8))

end Sys2Proof.Machine
end

