-- ==== Sys2Proof/Machine/Convert.lean ====
section
/-! DEFINITION. The conversion instructions of major 0x21 (R136 to R143). -/

namespace Sys2Proof.Machine

/-! ## Stochastic rounding (R139, R140) -/

/-- The next `n` states of the generator. -/
def srStates (x : Word) : Nat → List Word
  | 0 => []
  | n + 1 => srNext x :: srStates (srNext x) n

/-- The rounding mode of each of `n` elements and the generator afterwards: only RMODE 0b10 advances it. -/
def Core.rmodes (k : Core) (n : Nat) : List RMode × Core :=
  match fld (k.ctlW 0x80) 1 0 with
  | 0 => (List.replicate n .nearest, k)
  | 1 => (List.replicate n .zero, k)
  | 2 =>
    let xs := srStates (k.ctlW 0x84) n
    (xs.map (fun x => .stoch (fld x 31 16)), k.setCtl 0x84 (xs.getLastD (k.ctlW 0x84)))
  | _ => (List.replicate n .nearest, k)

/-! ## Source blocks -/

/-- The registers that hold a wide block (R136). -/
def wideSrc (wide : Wide) (va vb : Fin 16) : List (Fin 16) :=
  match wide with
  | .fp32 => [va, va + 1, va + 2, va + 3]
  | .bf16 => [va, vb]

/-- The lane type of the wide side. -/
def wideTy : Wide → LaneTy
  | .fp32 => .fp32 | .bf16 => .bf16

/-- All lanes of a register as values. -/
def VReg.vals (x : VReg) (ty : LaneTy) : List FV := (List.range (laneCount ty)).map (fun i => laneF ty (x.lane ty i))

/-- The 32 elements of a wide block. -/
def Core.wideBlock (k : Core) (wide : Wide) (va vb : Fin 16) : List FV :=
  (wideSrc wide va vb).flatMap (fun r => (k.rv r).vals (wideTy wide))

/-- Whether the register fields of vqscale and vquant are bound as R136 says. -/
def wideSrcOk (wide : Wide) (va vb : Fin 16) : Bool :=
  match wide with
  | .fp32 => decide (vb = 0 ∧ va.val % 4 = 0)
  | .bf16 => true

/-! ## Scales (R137, R138) -/

def FV.isFin : FV → Bool
  | .fin _ _ _ => true
  | _ => false

def FV.isZero : FV → Bool
  | .fin _ m _ => m == 0
  | _ => false

/-- floor(log2) of a finite non-zero value. -/
def FV.log2 : FV → Int
  | .fin _ m e => flog2 m e
  | _ => 0

/-- The largest magnitude of a block of finite values. -/
def amax (vs : List FV) : FV := vs.foldl (fun a v => if flt a (fabs v) then fabs v else a) (.fin false 0 0)

def clampExp (x : Int) : Int := max (-127) (min 127 x)

/-- The indices of the two largest magnitudes, ties toward the lower index (R138). -/
def top2 (vs : List FV) : List Nat :=
  let ixs := List.range vs.length
  let mag (i : Nat) : FV := fabs (vs.getD i .nan)
  let best (l : List Nat) : Option Nat := l.foldl (fun b i => match b with
    | none => some i
    | some j => if flt (mag j) (mag i) then some i else some j) none
  match best ixs with
  | none => []
  | some i => match best (ixs.filter (· != i)) with
    | none => [i]
    | some j => [i, j]

/-- One FP32 addition held at the largest finite magnitude (R138). -/
def heldAdd (a b : FV) : FV := of32 (BitVec.ofNat 32 (encSat fmt32 .nearest (fadd a b)).1)

/-- floor(log2) of the mean magnitude m, `none` where m is 0: m is the FP32 sum of the 30 smallest, divided by 30 with
round to nearest (R138). -/
def meanLog (vs : List FV) : Option Int :=
  let ex := top2 vs
  let ms := ((List.range vs.length).filter (fun i => !ex.contains i)).map (fun i => fabs (vs.getD i .nan))
  match ms.foldl heldAdd (.fin false 0 0) with
  | .fin _ m e =>
    if m = 0 then none
    else
      let c := roundMag fmt32 .nearest (m * 2 ^ 64 / 30 * 2 + (if m * 2 ^ 64 % 30 = 0 then 0 else 1)) (e - 65)
      if c = 0 then none else some (finOf fmt32 c).log2
  | _ => none

/-- The scale byte of a block (R137, R138). -/
def blockScale (f : Fmt) (vs : List FV) : Nat :=
  if vs.any (fun v => !v.isFin) then 0xFF
  else if vs.all FV.isZero then 0
  else
    let hi := (amax vs).log2
    let x := if f = .gt2 then (match meanLog vs with
      | some l => max (l + 1) (hi - 7)
      | none => hi - 7) else hi - f.emax
    (clampExp x + 127).toNat

/-- Whether the whole block has code zero: NaN or infinity in it, or GT2 with every element zero. -/
def isVoid (f : Fmt) (vs : List FV) : Bool := vs.any (fun v => !v.isFin) || (f == .gt2 && vs.all FV.isZero)

/-- v / X for a finite element (R126). -/
def quot (sc : Nat) (v : FV) : FV := fscale v (127 - (sc : Int))

def half : FV := .fin false 1 (-1)
def two : FV := .fin false 1 1

/-- The escape candidates of a GT2 block, and the two of them that escape, in element order (R138). -/
def escapes (sc : Nat) (vs : List FV) : List Nat × List Nat :=
  let cand := (List.range vs.length).filter (fun i => !flt (fabs (quot sc (vs.getD i .nan))) two)
  let t := top2 (cand.map (fun i => vs.getD i .nan))
  let sel := t.map (fun j => cand.getD j 0)
  (cand, cand.filter (fun i => sel.contains i))

/-- vquant of one block: the codes in element order, saturation events, escape-overflow events. -/
def quantBlock (f : Fmt) (mds : List RMode) (vs : List FV) : List Nat × Nat × Nat :=
  if isVoid f vs then (List.replicate vs.length 0, 0, 0)
  else
    let sc := blockScale f vs
    if f = .gt2 then
      let (cand, esc) := escapes sc vs
      let code (i : Nat) : Nat :=
        let v := vs.getD i .nan
        if esc.contains i then 2
        else if flt (fabs (quot sc v)) half then 0
        else if fneg? v then 3 else 1
      ((List.range vs.length).map code, 0, cand.length - esc.length)
    else
      let r := (vs.zip mds).map (fun p => encElem f p.2 (quot sc p.1))
      (r.map (·.1), (r.filter (·.2)).length, 0)

/-- vqscale of one block: the bytes written, escape-value saturations, range-high events. -/
def scaleBlock (f : Fmt) (mds : List RMode) (vs : List FV) : List Nat × Nat × Nat :=
  let sc := blockScale f vs
  let nan := (vs.any (fun v => !v.isFin)).toNat
  if f ≠ .gt2 then ([sc], 0, nan)
  else if isVoid f vs then ([sc, 0, 0], 0, nan)
  else
    let es := (escapes sc vs).2
    let r := (es.zip mds).map (fun p => encElem .e4m3 p.2 (quot sc (vs.getD p.1 .nan)))
    ([sc, (r.map (·.1)).getD 0 0, (r.map (·.1)).getD 1 0], (r.filter (·.2)).length, nan)

/-- Fields of `w` bits packed little-endian (R128). -/
def packBits (w : Nat) (cs : List Nat) : Nat := cs.foldr (fun c n => c % 2 ^ w + 2 ^ w * n) 0

/-- A register with all its words tagged alike. -/
def VReg.of (n : Nat) (t : Bool) : VReg := ⟨BitVec.ofNat 256 n, if t then BitVec.allOnes 8 else 0⟩

/-- vqscale (R136 to R138, R140, R142, R143). -/
def execVqscale (c : CoreId) (wide : Wide) (fmt : NFmt) (vd va vb : Fin 16) (s : State) : Res :=
  .next (issue c (.vqscale c wide fmt vd va vb) s (fun k => onTypes (wideSrcOk wide va vb)
    (let f := Fmt.ofN fmt
     let vs := k.wideBlock wide va vb
     let n := k.poisonV (wideSrc wide va vb)
     let (mds, k) := k.rmodes (if f = .gt2 then 2 else 0)
     let (bs, sat, hi) := scaleBlock f mds vs
     let k := ((k.consume n).count 0x90 sat).count 0xA0 hi
     .retire (k.setV vd (VReg.of (packBits 8 bs) (decide (n ≠ 0)))) k.pc4)))

/-- vquant (R136 to R140, R142, R143). -/
def execVquant (c : CoreId) (wide : Wide) (fmt : NFmt) (vd va vb : Fin 16) (s : State) : Res :=
  .next (issue c (.vquant c wide fmt vd va vb) s (fun k => onTypes (wideSrcOk wide va vb)
    (let f := Fmt.ofN fmt
     let vs := k.wideBlock wide va vb
     let n := k.poisonV (wideSrc wide va vb)
     let (mds, k) := k.rmodes (if f = .gt2 then 0 else 32)
     let (cs, sat, ov) := quantBlock f mds vs
     let k := ((k.consume n).count 0x90 sat).count 0x98 ov
     .retire (k.setV vd (VReg.of (packBits f.bits cs) (decide (n ≠ 0)))) k.pc4)))

/-- Rounds a value to a lane type under one mode, saturating (R139, R141): the code and whether it saturated. -/
def toWide (wide : Wide) (md : RMode) (v : FV) : Nat × Bool :=
  match wide with
  | .fp32 => encSat fmt32 .nearest v
  | .bf16 => encSat fmtB md v

/-- Writes lanes to consecutive registers from vd on, all words tagged alike. -/
def Core.putLanes (k : Core) (wide : Wide) (vd : Fin 16) (t : Bool) (cs : List Nat) : Core :=
  let w := laneBits (wideTy wide)
  let n := laneCount (wideTy wide)
  (List.range (cs.length / n)).foldl (fun k j =>
    k.setV (vd + Fin.ofNat 16 j) (VReg.of (packBits w ((cs.drop (n * j)).take n)) t)) k

/-- The poisoned source words of vdq: the words of va that hold the packed block, and word 0 of vb (R142). -/
def Core.vdqPoison (k : Core) (f : Fmt) (va vb : Fin 16) : Nat :=
  let a := ((List.range f.bits).filter (fun j => (k.rv va).tag.getLsbD j)).length
  if va = vb then a else a + ((k.rv vb).tag.getLsbD 0).toNat

/-- vdq (R130, R131, R136, R140 to R143). -/
def execVdq (c : CoreId) (wide : Wide) (fmt : NFmt) (vd va vb : Fin 16) (s : State) : Res :=
  .next (issue c (.vdq c wide fmt vd va vb) s (fun k =>
    onTypes (decide (vd.val % (match wide with | .fp32 => 4 | .bf16 => 2) = 0))
    (let f := Fmt.ofN fmt
     let n := k.vdqPoison f va vb
     let codes := (List.range 32).map (fun e => (k.rv va).val.toNat / 2 ^ (f.bits * e) % 2 ^ f.bits)
     let sc := (k.rv vb).lane .u8 0
     let (vs, ov) := if f = .gt2 then gt2Vals codes ((k.rv vb).lane .u8 1) ((k.rv vb).lane .u8 2)
       else (codes.map (elemVal f), 0)
     let (mds, k) := k.rmodes (match wide with | .fp32 => 0 | .bf16 => 32)
     let r := (List.range 32).map (fun i => toWide wide (mds.getD i .nearest) (scaled sc (vs.getD i .nan)))
     let k := ((k.consume n).count 0x90 (r.filter (·.2)).length).count 0x98 ov
     .retire (k.putLanes wide vd (decide (n ≠ 0)) (r.map (·.1))) k.pc4)))

/-- vcvt (R136, R139 to R142). -/
def execVcvt (c : CoreId) (toBf16 : Bool) (vd va vb : Fin 16) (s : State) : Res :=
  .next (issue c (.vcvt c toBf16 vd va vb) s (fun k =>
    if toBf16 then
      let vs := (k.rv va).vals .fp32 ++ (k.rv vb).vals .fp32
      let n := k.poisonV [va, vb]
      let (mds, k) := k.rmodes 16
      let r := (vs.zip mds).map (fun p => encSat fmtB p.2 p.1)
      let k := (k.consume n).count 0x90 (r.filter (·.2)).length
      .retire (k.putLanes .bf16 vd (decide (n ≠ 0)) (r.map (·.1))) k.pc4
    else if vb ≠ 0 ∨ vd.val % 2 ≠ 0 then .fault ILLEGAL
    else
      let n := k.poisonV [va]
      .retire ((k.consume n).putLanes .fp32 vd (decide (n ≠ 0)) (((k.rv va).vals .bf16).map (encIeee fmt32))) k.pc4))

end Sys2Proof.Machine
end

