-- ==== Sys2Proof/Machine/LoadStore.lean ====
section
/-! DEFINITION. Loads and stores (R68 to R70, R85, R105, R149), with the stores to CORE_PU_REPORT (R174) and to the lane
enables (R226). -/

namespace Sys2Proof.Machine

/-- Whether a store of `n` bytes at `a` overlaps words that a queued send or an mm has still to read (R85, R105). -/
def Core.storeHeld (k : Core) (a n : Nat) : Bool :=
  k.inject.any (fun o => match o with
    | .data _ src count _ _ => overlaps a n src (4 * count)
    | _ => false) ||
  k.mmJobs.any (fun j => (jobRanges j).any (fun r => overlaps a n r.1 r.2))

/-- The address of an access: a[ab] + offset, or a[ab] itself with post-increment (R68). -/
def Core.ea (k : Core) (ab : Fin 8) (post : Bool) (off : Word) : Nat :=
  if post then (k.ra ab).val.toNat else ((k.ra ab).val + off).toNat

/-- a[ab] after the access (R68). -/
def Core.bump (k : Core) (ab : Fin 8) (post : Bool) (off : Word) : Core :=
  if post then k.setA ab ⟨(k.ra ab).val + off, false⟩ else k

/-- Whether an access to a control register waits for earlier mm (R149, R179). -/
def ctlWaits (o : Nat) : Bool := decide (0x80 ≤ o ∧ o < 0x100)

/-- The words that WRITE packets at the core's router have still to deliver, by word number: those of whole packets in the order they came,
then those of packets partly arrived (R41, R197). -/
def pendingWords (s : State) (key : Nat) : List (Nat × PWord) :=
  let q := s.router key
  let of' (h : PWord) (ws : List PWord) : List (Nat × PWord) :=
    if h.poison || fld h.val 31 28 != 1 then [] else ws.zipIdx.map (fun e => (fld h.val 15 0 + e.2, e.1))
  q.inbox.flatMap (fun p => of' p.hdr p.pay) ++
    (q.rx.filter (fun e => decide (16 ≤ e.1))).flatMap (fun e => match e.2.got with
      | [] => []
      | h :: t => of' h.w ((if e.2.var then t.drop 1 else t).map (·.w)))

/-- The core with its memory as a read of this moment finds it: each word to which a delivery is pending holds its old or its new value,
each word freely (R41; log entry 3). -/
def Core.seen (k : Core) (s : State) (key : Nat) : Core :=
  (pendingWords s key).zipIdx.foldl (fun k e =>
    if Config.seesNew s.draws e.2 && inMem (4 * e.1.1) 4 then k.setMemWord (4 * e.1.1) e.1.2 else k) k

/-- A scalar load of `n` bytes, widened by `f` (R36, R41, R68, R69). -/
def loadOp (s : State) (key : Nat) (n : Nat) (f : Nat → Word) (rt : Fin 32) (ab : Fin 8) (post : Bool) (imm : BitVec 16)
    (k : Core) : Issued :=
  let a := k.ea ab post (sext16 imm)
  if (k.ra ab).poison then .fault POISON_ADDR
  else if a % n ≠ 0 then .fault LOAD_ADDR
  else match regionOf a n with
    | .none => .fault LOAD_ADDR
    | .ctl =>
      if n ≠ 4 then .fault LOAD_ADDR
      else if ctlWaits (a - 0x31000) && k.mmBusy then .stall
      else
        let (w, k) := ctlLoad s key k (a - 0x31000)
        .retire ((k.setS rt ⟨w, false⟩).bump ab post (sext16 imm)) k.pc4
    | _ =>
      let m := k.seen s key
      let t := Tab.get false m.memTag (a / 4)
      .retire (((k.consume t.toNat).setS rt ⟨f (Memory.nat m.mem a n), t⟩).bump ab post (sext16 imm)) k.pc4

/-- A route entry that is loaded (R93, R198). -/
def routeOf (s : State) (key r : Nat) : Option Word :=
  let w := Tab.get 0 (s.router key).routes r
  if r = 0 ∨ w.getLsbD 31 = false then none else some w

/-- WORDS of a route entry (R198). -/
def routeWords (w : Word) : Nat := fld w 27 14

/-- Whether the inject queue holds its eight operations (R119). -/
def Core.full (k : Core) : Bool := decide (8 ≤ k.inject.length)

/-- A store to CORE_PU_REPORT (R174). -/
def puReport (s : State) (key : Nat) (w : Word) (k : Core) : Except Cause (Option Core) :=
  let r := k.ctlW 0xC0
  match routeOf s key r.toNat with
  | none => .error ROUTE_NONE
  | some e =>
    if routeWords e ≠ 1 then .error ROUTE_LEN
    else if e.getLsbD 30 then .error ROUTE_KIND
    else if k.full then .ok none
    else
      let k := { k with inject := k.inject ++ [Outbound.words (r.truncate 8) 5 [⟨w, false⟩] false] }
      let k := k.count 0xD0 1
      .ok (some (if w.getLsbD 30 then k.count 0xC8 1 else k))

/-- Lanes whose own enable bit a store of `w` to enable word `h` clears while an arrival is outstanding (R226). -/
def clearsPending (k : Core) (h : Nat) (w : Word) : Bool :=
  let old : Word := k.ctlW (0x100 + 4 * h)
  let pend : Word := k.ctlW (0x108 + 4 * h)
  (old &&& ~~~w &&& pend) != 0

/-- A scalar store of the `n` low bytes of s[rt] (R36, R68 to R70). -/
def storeOp (s : State) (key : Nat) (n : Nat) (rt : Fin 32) (ab : Fin 8) (post : Bool) (imm : BitVec 16) (k : Core) : Issued :=
  let a := k.ea ab post (sext16 imm)
  let w := k.rs rt
  if (k.ra ab).poison then .fault POISON_ADDR
  else if a % n ≠ 0 then .fault STORE_ADDR
  else match regionOf a n with
    | .none => .fault STORE_ADDR
    | .ctl =>
      let o := a - 0x31000
      if n ≠ 4 then .fault STORE_ADDR
      else if w.poison then .fault POISON_CTRL
      else if ctlWaits o && k.mmBusy then .stall
      else if o = 0xC4 then
        match puReport s key w.val k with
        | .error c => .fault c
        | .ok none => .stall
        | .ok (some k') => .retire (k'.bump ab post (sext16 imm)) k.pc4
      else if (o = 0x100 ∨ o = 0x104) ∧ clearsPending k ((o - 0x100) / 4) (w.val &&& laneGrant s key ((o - 0x100) / 4)) then
        .stall
      else
        let k' := (ctlStore s key k o w.val).bump ab post (sext16 imm)
        if 4 ≤ o ∧ ctlLow64 (o - 4) then .retireSet k' k.pc4 (o - 4) else .retire k' k.pc4
    | _ =>
      if k.storeHeld a n then .stall
      else
        let k' := k.consume w.poison.toNat
        .retire ((if n = 4 then k'.setMemWord a w else k'.setSub a n w).bump ab post (sext16 imm)) k.pc4

/-- lw (R68). -/
def execLw (c : CoreId) (rt : Fin 32) (ab : Fin 8) (post : Bool) (imm : BitVec 16) (s : State) : Res :=
  .next (issue c (.lw c rt ab post imm) s (loadOp s (coreKey c) 4 (fun v => BitVec.ofNat 32 v) rt ab post imm))

/-- lh (R68). -/
def execLh (c : CoreId) (rt : Fin 32) (ab : Fin 8) (post : Bool) (imm : BitVec 16) (s : State) : Res :=
  .next (issue c (.lh c rt ab post imm) s (loadOp s (coreKey c) 2 (fun v => (BitVec.ofNat 16 v).signExtend 32) rt ab post imm))

/-- lhu (R68). -/
def execLhu (c : CoreId) (rt : Fin 32) (ab : Fin 8) (post : Bool) (imm : BitVec 16) (s : State) : Res :=
  .next (issue c (.lhu c rt ab post imm) s (loadOp s (coreKey c) 2 (fun v => BitVec.ofNat 32 v) rt ab post imm))

/-- lb (R68). -/
def execLb (c : CoreId) (rt : Fin 32) (ab : Fin 8) (post : Bool) (imm : BitVec 16) (s : State) : Res :=
  .next (issue c (.lb c rt ab post imm) s (loadOp s (coreKey c) 1 (fun v => (BitVec.ofNat 8 v).signExtend 32) rt ab post imm))

/-- lbu (R68). -/
def execLbu (c : CoreId) (rt : Fin 32) (ab : Fin 8) (post : Bool) (imm : BitVec 16) (s : State) : Res :=
  .next (issue c (.lbu c rt ab post imm) s (loadOp s (coreKey c) 1 (fun v => BitVec.ofNat 32 v) rt ab post imm))

/-- sw (R68). -/
def execSw (c : CoreId) (rt : Fin 32) (ab : Fin 8) (post : Bool) (imm : BitVec 16) (s : State) : Res :=
  .next (issue c (.sw c rt ab post imm) s (storeOp s (coreKey c) 4 rt ab post imm))

/-- sh (R68). -/
def execSh (c : CoreId) (rt : Fin 32) (ab : Fin 8) (post : Bool) (imm : BitVec 16) (s : State) : Res :=
  .next (issue c (.sh c rt ab post imm) s (storeOp s (coreKey c) 2 rt ab post imm))

/-- sb (R68). -/
def execSb (c : CoreId) (rt : Fin 32) (ab : Fin 8) (post : Bool) (imm : BitVec 16) (s : State) : Res :=
  .next (issue c (.sb c rt ab post imm) s (storeOp s (coreKey c) 1 rt ab post imm))

/-- The store word that reaches the lane enables: an sw whose address is CORE_LANE_EN_LO or HI (R226, R230). At any other
address the command is not this event, and nothing changes. -/
def execCoreLaneEnWrite (c : CoreId) (rt : Fin 32) (ab : Fin 8) (post : Bool) (imm : BitVec 16) (s : State) : Res :=
  let a := (s.core c).ea ab post (sext16 imm)
  if a = 0x31100 ∨ a = 0x31104 then
    .next (issue c (.sw c rt ab post imm) s (storeOp s (coreKey c) 4 rt ab post imm))
  else .next s

/-- The store word that reaches CORE_PU_REPORT (R174, R179). -/
def execCorePuReport (c : CoreId) (rt : Fin 32) (ab : Fin 8) (post : Bool) (imm : BitVec 16) (s : State) : Res :=
  if (s.core c).ea ab post (sext16 imm) = 0x310C4 then
    .next (issue c (.sw c rt ab post imm) s (storeOp s (coreKey c) 4 rt ab post imm))
  else .next s

/-- imm14 as an offset: a signed count of 32-byte units (R61, R68). -/
def off14 (imm : BitVec 14) : Word := imm.signExtend 32 * 32

/-- Whether predicate `p` enables any byte of word j (R74). -/
def anyByte (p : Word) (j : Nat) : Bool := (p.toNat / 2 ^ (4 * j)) % 16 != 0

/-- The eight words at a 32-byte address as a register. -/
def Core.memVec (k : Core) (a : Nat) : VReg := VReg.ofWords (k.getWords a 8)

/-- vld (R68, R69, R74). An access with no byte lane enabled still faults at an unmapped or misaligned address: R36 faults any access, and
the disabled lanes of R74 are those of a source that is read (DEDUCED, log entry 88). -/
def execVld (c : CoreId) (vt : Fin 16) (ab pg : Fin 8) (post : Bool) (imm : BitVec 14) (s : State) : Res :=
  .next (issue c (.vld c vt ab pg post imm) s (fun k =>
    let a := k.ea ab post (off14 imm)
    if (k.ra ab).poison then .fault POISON_ADDR
    else if a % 32 ≠ 0 ∨ inMem a 32 = false then .fault LOAD_ADDR
    else
      let m := (k.seen s (coreKey c)).memVec a
      let p := k.rp pg
      let n := ((List.range 8).filter (fun j => anyByte p j && m.tag.getLsbD j)).length
      let x := (k.rv vt).build .u8 (fun i => if p.getLsbD i then some (m.lane .u8 i, m.tag.getLsbD (i / 4)) else none)
      .retire (((k.consume n).setV vt x).bump ab post (off14 imm)) k.pc4))

/-- vst: whole words take the register's tag, words stored in part keep their poison too (R68, R69). It faults as vld does with no byte lane
enabled (DEDUCED, log entry 88). -/
def execVst (c : CoreId) (vt : Fin 16) (ab pg : Fin 8) (post : Bool) (imm : BitVec 14) (s : State) : Res :=
  .next (issue c (.vst c vt ab pg post imm) s (fun k =>
    let a := k.ea ab post (off14 imm)
    if (k.ra ab).poison then .fault POISON_ADDR
    else if a % 32 ≠ 0 ∨ inMem a 32 = false then .fault STORE_ADDR
    else if (List.range 8).any (fun j => anyByte (k.rp pg) j && k.storeHeld (a + 4 * j) 4) then .stall
    else
      let r := k.rv vt
      let p := k.rp pg
      let n := ((List.range 8).filter (fun j => anyByte p j && r.tag.getLsbD j)).length
      let x := (k.memVec a).build .u8 (fun i => if p.getLsbD i then some (r.lane .u8 i, r.tag.getLsbD (i / 4)) else none)
      .retire (((k.consume n).putWords a x.words).bump ab post (off14 imm)) k.pc4))

end Sys2Proof.Machine
end

