-- ==== Sys2Proof/Machine/Tensor.lean ====
section
/-! DEFINITION. Matrix instructions (R98 to R106, R144 to R148, R176, R177), accumulator moves (R107) and descriptor slots
(R97, R100). -/

namespace Sys2Proof.Machine

/-! ## Per-tile fallback (R146 to R148) -/

/-- The lowest-numbered valid fallback entry that holds a tile. -/
def Core.fbFind (k : Core) (t : BitVec 16) : Option Nat :=
  (List.range 8).find? (fun i => (k.fbEntry i).getLsbD 31 && (k.fbEntry i).truncate 16 == t)

/-- Whether a pass of tile `t` is wide, and the core with the entry's ACTIVE updated (R147). -/
def Core.fbLookup (k : Core) (t : BitVec 16) (z : Bool) : Bool × Core :=
  match k.fbFind t with
  | none => (false, k)
  | some i =>
    let e := k.fbEntry i
    if e.getLsbD 30 then (true, k)
    else if z then (true, { k with fb := Tab.set 0 k.fb i (e ||| bits 30 30) })
    else (false, k)

/-- A trip of tile `t` (R146). -/
def Core.fbTrip (k : Core) (t : BitVec 16) : Core :=
  let k := match k.fbFind t with
    | some _ => k
    | none =>
      match (List.range 8).find? (fun i => !(k.fbEntry i).getLsbD 31) with
      | some i => { k with fb := Tab.set 0 k.fb i (bits 31 31 ||| t.zeroExtend 32) }
      | none => k.setCtl 0x8C (k.ctlW 0x8C ||| bits 30 30)
  let k := k.setCtl 0x8C ((k.ctlW 0x8C &&& bits 31 30) ||| bits 31 31 ||| t.zeroExtend 32)
  if (k.ctlW 0x80).getLsbD 7 then k.putTap (Fin.ofNat 64 (fld (k.ctlW 0x80) 13 8)) true else k

/-! ## mm -/

/-- Takes the pending place of an engine; a taken place, or a tile that the other engine owns, stalls (R44, R104). -/
def Core.mmPlace (k : Core) (j : MmJob) : Option Core :=
  if j.sparse then
    if k.sPend.isSome || (k.dExec.toList ++ k.dPend.toList).any (fun x => x.acc == j.acc) then none
    else some { k with sPend := some j }
  else
    if k.dPend.isSome || (k.sExec.toList ++ k.sPend.toList).any (fun x => x.acc == j.acc) then none
    else some { k with dPend := some j }

/-- The place of a new mm in program order, after every mm not complete. -/
def Core.nextOrd (k : Core) : Nat := k.mmJobs.foldl (fun n j => max n (j.ord + 1)) 0

/-- The alternate slot (R148). -/
def altSlot (d : Fin 16) : Fin 16 := Fin.ofNat 16 (d.val ^^^ 8)

/-- The A that a wide pass uses: slot da where FB_FMT pairs with its format, else its alternate (R148). -/
def Core.wideA (k : Core) (da : Fin 16) (b : VReg) : VReg :=
  match Fmt.ofCode (dFbFmt b), Fmt.ofCode (dFmt (k.rd da)) with
  | some fb, some fa => if pairOk fb fa then k.rd da else k.rd (altSlot da)
  | _, _ => k.rd (altSlot da)

/-- The issue of an mm whose encoded slots passed their checks (R98, R104, R147, R148). -/
def mmIssue (acc : Fin 4) (da db : Fin 16) (e z o : Bool) (k : Core) : Issued :=
  let a := k.rd da
  let b := k.rd db
  let job : MmJob := ⟨acc, a, b, e, z, o, false, dFbEn b, dTile b, false, 0, k.pc, k.nextOrd⟩
  let put (j : MmJob) (k : Core) : Issued := match k.mmPlace j with
    | none => .stall
    | some k => .retire k k.pc4
  if !dFbEn b then put job k
  else if k.mmJobs.any (fun j => j.tile == dTile b) then .stall
  else
    let (wide, k') := k.fbLookup (dTile b) z
    if !wide then put job k'
    else
      let alt := k.rd (altSlot db)
      let a' := k.wideA da b
      match wideCheck a' b alt with
      | some c => .fault c
      | none => put { job with a := a', b := alt, sparse := false, wide := true } (k'.count 0xB0 1)

/-- mm (R101 to R103, R124). -/
def execMm (c : CoreId) (acc : Fin 4) (da db : Fin 16) (e z o : Bool) (s : State) : Res :=
  .next (issue c (.mm c acc da db e z o) s (fun k =>
    match mmCheck (k.rd da) (k.rd db) e o with
    | some f => .fault f
    | none => mmIssue acc da db e z o k))

/-- An mm as it starts: with O = 1 it takes the granules to skip from the zero record (R176). -/
def Core.startJob (k : Core) (j : MmJob) : MmJob × Core :=
  if j.o then
    let g := (dK j.b + 31) / 32
    let skip := k.ozRec &&& BitVec.ofNat 128 (2 ^ min g 128 - 1)
    ({ j with started := true, skip := skip }, k.count 0xE0 ((List.range 128).filter (fun i => skip.getLsbD i)).length)
  else ({ j with started := true }, k)

/-- mm starts: the pending mm of an idle engine begins to execute (R104, R177). -/
def execMmStart (c : CoreId) (sparse : Bool) (s : State) : Res :=
  let k := s.core c
  if sparse then
    match k.sExec, k.sPend with
    | none, some j =>
      let (j, k) := k.startJob j
      .next (s.setCore c { k with sExec := some j, sPend := none })
    | _, _ => .next s
  else
    match k.dExec, k.dPend with
    | none, some j =>
      let (j, k) := k.startJob j
      .next (s.setCore c { k with dExec := some j, dPend := none })
    | _, _ => .next s

/-- The completion of an mm: the tile, the counts, the range monitor, the zero record and a trip (R132 to R134, R144 to R146,
R159, R176). The engine's reads of its operands, whose order R104 leaves open, all happen here: of words that a router delivery writes while
the mm executes it reads the new ones (DESIGN CHOICE, log entry 89). -/
def Core.finishJob (k : Core) (j : MmJob) : Core :=
  let tile := k.mmTile j
  let sat := (tile.map (·.2)).sum
  let esc := k.escOver j
  let (hi, lo) := rangeEvents (k.ctlW 0x88) (tile.map (fun a => a.1.val))
  let drops := (k.jobParse j).drops
  let mac := k.mmMac j
  let poi := k.mmPoison j
  let zr := k.zeroRecord j
  let k := k.accPut j.acc 0 (tile.map (·.1))
  let k := ((((k.count 0x90 sat).count 0x98 esc).count 0xA0 hi).count 0xA8 lo).count 0xD8 drops
  let k := (k.count (if j.sparse then 0x60 else 0x58) mac).consume poi
  let k := if j.o then k.setOzRec zr else k
  let lim := fld (k.ctlW 0x80) 23 16
  if j.fbEn && decide (lim ≠ 0 ∧ lim ≤ sat + esc + hi) then k.fbTrip j.tile else k

/-- mm completes and releases its tile (R104). -/
def execMmComplete (c : CoreId) (sparse : Bool) (s : State) : Res :=
  let k := s.core c
  if sparse then
    match k.sExec with
    | some j => .next (s.setCore c { (k.finishJob j) with sExec := none })
    | none => .next s
  else
    match k.dExec with
    | some j => .next (s.setCore c { (k.finishJob j) with dExec := none })
    | none => .next s

/-! ## Accumulator moves (R107): each waits for the tile (R44). -/

/-- The elements of a tile from `e` on. -/
def Core.accWords (k : Core) (t : Fin 4) (e n : Nat) : List PWord := (List.range n).map (fun i => k.accGet t (e + i))

/-- acczero. -/
def execAcczero (c : CoreId) (acc : Fin 4) (s : State) : Res :=
  .next (issue c (.acczero c acc) s (fun k =>
    if k.tileBusy acc then .stall
    else .retire (k.accPut acc 0 (List.replicate 256 ⟨0, false⟩)) k.pc4))

/-- The first element of a row's half. -/
def halfRow (row : Fin 16) (half : Bool) : Nat := 16 * row.val + 8 * half.toNat

/-- accrd. -/
def execAccrd (c : CoreId) (v : Fin 16) (acc : Fin 4) (row : Fin 16) (half : Bool) (s : State) : Res :=
  .next (issue c (.accrd c v acc row half) s (fun k =>
    if k.tileBusy acc then .stall
    else
      let ws := k.accWords acc (halfRow row half) 8
      .retire ((k.consume (poisonedIn ws)).setV v (VReg.ofWords ws)) k.pc4))

/-- accwr. -/
def execAccwr (c : CoreId) (acc : Fin 4) (row : Fin 16) (half : Bool) (v : Fin 16) (s : State) : Res :=
  .next (issue c (.accwr c acc row half v) s (fun k =>
    if k.tileBusy acc then .stall
    else
      let ws := (k.rv v).words
      .retire ((k.consume (poisonedIn ws)).accPut acc (halfRow row half) ws) k.pc4))

/-- accst. -/
def execAccst (c : CoreId) (acc : Fin 4) (ab : Fin 8) (post : Bool) (s : State) : Res :=
  .next (issue c (.accst c acc ab post) s (fun k =>
    let a := (k.ra ab).val.toNat
    if (k.ra ab).poison then .fault POISON_ADDR
    else if a % 32 ≠ 0 ∨ inMem a 1024 = false then .fault ACC_ADDR
    else if k.tileBusy acc || k.storeHeld a 1024 then .stall
    else
      let ws := k.accWords acc 0 256
      .retire (((k.consume (poisonedIn ws)).putWords a ws).bump ab post 1024) k.pc4))

/-- accld. -/
def execAccld (c : CoreId) (acc : Fin 4) (ab : Fin 8) (post : Bool) (s : State) : Res :=
  .next (issue c (.accld c acc ab post) s (fun k =>
    let a := (k.ra ab).val.toNat
    if (k.ra ab).poison then .fault POISON_ADDR
    else if a % 32 ≠ 0 ∨ inMem a 1024 = false then .fault ACC_ADDR
    else if k.tileBusy acc then .stall
    else
      let ws := (k.seen s (coreKey c)).getWords a 256
      .retire (((k.consume (poisonedIn ws)).accPut acc 0 ws).bump ab post 1024) k.pc4))

/-! ## Descriptor slots (R97, R100) -/

/-- Whether a slot is an attached window (R97). -/
def attached (d : VReg) : Bool := dKind d == 3 && d.val.getLsbD 26

/-- A slot with ATT as given. -/
def withAtt (d : VReg) (v : Bool) : VReg :=
  { d with val := if v then d.val ||| (1 <<< 26) else d.val &&& ~~~((1 : BitVec 256) <<< 26) }

/-- A descriptor as dld and dmov write it: ATT 0 in a window descriptor (R97). -/
def dStrip (d : VReg) : VReg := if dKind d = 3 then withAtt d false else d

/-- dld. -/
def execDld (c : CoreId) (dn : Fin 16) (ab : Fin 8) (post : Bool) (s : State) : Res :=
  .next (issue c (.dld c dn ab post) s (fun k =>
    let a := (k.ra ab).val.toNat
    if (k.ra ab).poison then .fault POISON_ADDR
    else if a % 32 ≠ 0 ∨ inMem a 32 = false then .fault LOAD_ADDR
    else if attached (k.rd dn) then .fault WINDOW_STATE
    else
      let x := (k.seen s (coreKey c)).memVec a
      .retire (((k.consume x.poisoned).setD dn (dStrip x)).bump ab post 32) k.pc4))

/-- dst. -/
def execDst (c : CoreId) (dn : Fin 16) (ab : Fin 8) (post : Bool) (s : State) : Res :=
  .next (issue c (.dst c dn ab post) s (fun k =>
    let a := (k.ra ab).val.toNat
    if (k.ra ab).poison then .fault POISON_ADDR
    else if a % 32 ≠ 0 ∨ inMem a 32 = false then .fault STORE_ADDR
    else if k.storeHeld a 32 then .stall
    else
      let x := k.rd dn
      .retire (((k.consume x.poisoned).putWords a x.words).bump ab post 32) k.pc4))

/-- dmov. -/
def execDmov (c : CoreId) (dn dm : Fin 16) (s : State) : Res :=
  .next (issue c (.dmov c dn dm) s (fun k =>
    if attached (k.rd dn) then .fault WINDOW_STATE
    else
      let x := k.rd dm
      .retire ((k.consume x.poisoned).setD dn (dStrip x)) k.pc4))

/-- A slot with w1 replaced, untagged. -/
def withBase (d : VReg) (w : Word) : VReg :=
  ⟨(d.val &&& ~~~((0xFFFFFFFF : BitVec 256) <<< 32)) ||| (w.zeroExtend 256 <<< 32), d.tag &&& ~~~(2 : BitVec 8)⟩

/-- dbase. -/
def execDbase (c : CoreId) (dn : Fin 16) (rs : Fin 32) (s : State) : Res :=
  .next (issue c (.dbase c dn rs) s (fun k =>
    if (k.rs rs).poison then .fault POISON_ADDR
    else if attached (k.rd dn) then .fault WINDOW_STATE
    else .retire (k.setD dn (withBase (k.rd dn) (k.rs rs).val)) k.pc4))

/-- dadd. -/
def execDadd (c : CoreId) (dn : Fin 16) (rs : Fin 32) (s : State) : Res :=
  .next (issue c (.dadd c dn rs) s (fun k =>
    if (k.rs rs).poison || (k.rd dn).tag.getLsbD 1 then .fault POISON_ADDR
    else if attached (k.rd dn) then .fault WINDOW_STATE
    else .retire (k.setD dn (withBase (k.rd dn) ((k.rd dn).word 1 + (k.rs rs).val))) k.pc4))

end Sys2Proof.Machine
end

