-- ==== Sys2Proof/Machine/SyncOps.lean ====
section
/-! DEFINITION. Instructions that leave the core or wait: tap flags (R108, R109), chimes (R110, R111), downbeats (R112 to
R114), stream windows (R115, R116), send and mcast (R118, R119), and the end of a wait (R49). -/

namespace Sys2Proof.Machine

/-- Adds an outbound operation, or waits while the inject queue is full (R49, R119). -/
def Core.queue (k : Core) (o : Outbound) (f : Core → Issued) : Issued :=
  if k.full then .wait k .inject else f { k with inject := k.inject ++ [o] }

/-- Waits on a tap, or goes on (R108, R109). -/
def tapWait (k : Core) (t : Fin 64) (clear : Bool) (next : Word) : Issued :=
  if k.tapOn t then .retire (if clear then k.putTap t false else k) next else .wait k (.tap t clear)

/-! ## Taps -/

/-- tset (R108, R123). -/
def execTset (c : CoreId) (tap : Fin 64) (s : State) : Res :=
  .next (issue c (.tset c tap) s (fun k => .retire (k.putTap tap true) k.pc4))

/-- tclr. -/
def execTclr (c : CoreId) (tap : Fin 64) (s : State) : Res :=
  .next (issue c (.tclr c tap) s (fun k => .retire (k.putTap tap false) k.pc4))

/-- twait. -/
def execTwait (c : CoreId) (tap : Fin 64) (s : State) : Res :=
  .next (issue c (.twait c tap) s (fun k => tapWait k tap true k.pc4))

/-- twaitk. -/
def execTwaitk (c : CoreId) (tap : Fin 64) (s : State) : Res :=
  .next (issue c (.twaitk c tap) s (fun k => tapWait k tap false k.pc4))

/-- ttest. -/
def execTtest (c : CoreId) (rd : Fin 32) (tap : Fin 64) (s : State) : Res :=
  .next (issue c (.ttest c rd tap) s (fun k => .retire (k.setS rd ⟨bit (k.tapOn tap), false⟩) k.pc4))

/-- trset (R93, R108). -/
def execTrset (c : CoreId) (route : BitVec 8) (tap : Fin 64) (s : State) : Res :=
  .next (issue c (.trset c route tap) s (fun k =>
    match routeOf s (coreKey c) route.toNat with
    | none => .fault ROUTE_NONE
    | some _ => k.queue (.tapset route tap) (fun k => .retire k k.pc4)))

/-! ## Chimes -/

/-- Faults of a two-word packet on a route (R93, R199). -/
def route2 (s : State) (key : Nat) (route : BitVec 8) : Option Cause :=
  match routeOf s key route.toNat with
  | none => some ROUTE_NONE
  | some e => if routeWords e < 2 then some ROUTE_LEN else none

/-- Word 1 of a CHIME packet (R214). -/
def chimeWord (op : Nat) (tap : Nat) (chime : BitVec 16) : Word := BitVec.ofNat 32 (op * 2 ^ 30 + tap * 2 ^ 16 + chime.toNat)

/-- A CHIME packet (R214). -/
def chimePkt (route : BitVec 8) (op tap : Nat) (chime : BitVec 16) (v : Word) : Outbound :=
  .words route 3 [⟨chimeWord op tap chime, false⟩, ⟨v, false⟩] true

/-- chadd (R110, R111). -/
def execChadd (c : CoreId) (route : BitVec 8) (chime : BitVec 16) (rs : Fin 32) (s : State) : Res :=
  .next (issue c (.chadd c route chime rs) s (fun k =>
    match route2 s (coreKey c) route with
    | some f => .fault f
    | none =>
      if 2 ^ 31 ≤ (k.rs rs).val.toNat then .fault CHIME_STEP
      else if (k.rs rs).poison then .fault POISON_SYNC
      else k.queue (chimePkt route 0 0 chime (k.rs rs).val) (fun k => .retire k k.pc8)))

/-- Posts a watch; a tap that already has one of this core's watches pending stalls (R111). -/
def postWatch (s : State) (c : CoreId) (route : BitVec 8) (chime : BitVec 16) (tap : Fin 64) (rs : Fin 32) (k : Core)
    (f : Core → Issued) : Issued :=
  match route2 s (coreKey c) route with
  | some e => .fault e
  | none =>
    if (k.rs rs).poison then .fault POISON_SYNC
    else if k.watchTaps.getLsbD tap.val then .stall
    else k.queue (chimePkt route 1 tap.val chime (k.rs rs).val) (fun k =>
      f { (k.count 0x118 1) with watchTaps := k.watchTaps ||| (1 <<< tap.val) })

/-- chwatch (R110, R111). -/
def execChwatch (c : CoreId) (route : BitVec 8) (chime : BitVec 16) (tap : Fin 64) (rs : Fin 32) (s : State) : Res :=
  .next (issue c (.chwatch c route chime tap rs) s (fun k =>
    postWatch s c route chime tap rs k (fun k => .retire k k.pc8)))

/-- chwait: chwatch, then twait on the same tap (R110). -/
def execChwait (c : CoreId) (route : BitVec 8) (chime : BitVec 16) (tap : Fin 64) (rs : Fin 32) (s : State) : Res :=
  .next (issue c (.chwait c route chime tap rs) s (fun k =>
    postWatch s c route chime tap rs k (fun k => tapWait k tap true k.pc8)))

/-! ## Downbeats -/

/-- The state of a partition's lane. -/
def laneSt (s : State) (key l : Nat) : LaneState :=
  match physLane s (partOfKey s key) l with
  | some n => (s.lane n).st
  | none => .idle

/-- Whether a lane raises LANE_OFF at a core (R112): it participates neither in the barrier in progress, which a BUSY lane has, nor under
the values last written. -/
def laneOff (s : State) (key l : Nat) : Bool :=
  !(laneSt s key l == .busy && participates s key l) && !participatesWritten s key l

/-- An arrival on a lane that is not FAILED (R114, R226). -/
def arrive (s : State) (key : Nat) (lane : Fin 64) (k : Core) (f : Core → Issued) : Issued :=
  if (lanePend k).getLsbD lane.val then .stall
  else if laneSt s key lane.val = .busy ∧ participates s key lane.val = false then .stall
  else k.queue (.arrive lane) (fun k =>
    f { (setPend (k.count 0x110 1) lane.val true) with dbRel := Tab.drop k.dbRel lane.val })

/-- The status of the latest arrival once none is outstanding: written, and with ROUTE_LOST the core is fenced (R113,
R114). -/
def takeStatus (k : Core) (failed : Bool) (lane : Fin 64) (rd : Fin 32) : Issued :=
  let v := if failed then 2 else Tab.get 0 k.dbRel lane.val
  if v = 3 then .lost (k.setS rd ⟨3, false⟩) else .retire (k.setS rd ⟨v, false⟩) k.pc4

/-- dbarrive (R112, R114). -/
def execDbarrive (c : CoreId) (lane : Fin 64) (s : State) : Res :=
  .next (issue c (.dbarrive c lane) s (fun k =>
    if laneOff s (coreKey c) lane.val then .fault LANE_OFF
    else if laneSt s (coreKey c) lane.val = .failed then .retire k k.pc4
    else arrive s (coreKey c) lane k (fun k => .retire k k.pc4)))

/-- dbwait. -/
def execDbwait (c : CoreId) (rd : Fin 32) (lane : Fin 64) (s : State) : Res :=
  .next (issue c (.dbwait c rd lane) s (fun k =>
    if laneOff s (coreKey c) lane.val then .fault LANE_OFF
    else if (lanePend k).getLsbD lane.val ∧ laneSt s (coreKey c) lane.val ≠ .failed then .wait k (.lane lane rd)
    else takeStatus k (decide (laneSt s (coreKey c) lane.val = .failed)) lane rd))

/-- dbsync: dbarrive, then dbwait. -/
def execDbsync (c : CoreId) (rd : Fin 32) (lane : Fin 64) (s : State) : Res :=
  .next (issue c (.dbsync c rd lane) s (fun k =>
    if laneOff s (coreKey c) lane.val then .fault LANE_OFF
    else if laneSt s (coreKey c) lane.val = .failed then takeStatus k true lane rd
    else arrive s (coreKey c) lane k (fun k => .wait k (.lane lane rd))))

/-- dbstat (R113). -/
def execDbstat (c : CoreId) (rd : Fin 32) (lane : Fin 64) (s : State) : Res :=
  .next (issue c (.dbstat c rd lane) s (fun k =>
    if laneOff s (coreKey c) lane.val then .fault LANE_OFF
    else
      let v : Word := if laneSt s (coreKey c) lane.val = .failed then 2 else bit ((lanePend k).getLsbD lane.val)
      .retire (k.setS rd ⟨v, false⟩) k.pc4))

/-! ## Stream windows -/

/-- The fields of a window descriptor (R97). -/
def wBufs (d : VReg) : Nat := d.f 0 23 16
def wRoute (d : VReg) : BitVec 8 := BitVec.ofNat 8 (d.f 0 15 8)
def wStat (d : VReg) : Nat := (d.word 3).toNat
def wStream (d : VReg) : Nat := d.f 4 15 0
def wGen (d : VReg) : Nat := d.f 4 31 16

/-- The checks of a window descriptor below POISON_SYNC and WINDOW_STATE, lowest code first; `out` for an outbound operation
(R93, R94, R97, R99, R124). A BUF_BYTES that is 0 or no multiple of 32 is taken as a bad field (log entry 18). -/
def winCheck (s : State) (key : Nat) (d : VReg) (out : Bool) : Option Cause :=
  if dKind d ≠ 3 then some DESC_KIND
  else if d.f 0 25 24 ≠ 0 ∨ d.f 0 7 0 ≠ 0 ∨ d.word 5 ≠ 0 ∨ d.word 6 ≠ 0 ∨ d.word 7 ≠ 0 ∨ wBufs d = 0 ∨
      d.word 2 = 0 ∨ d.f 2 4 0 ≠ 0 then some DESC_FIELD
  else if d.f 1 4 0 ≠ 0 ∨ inMem (d.word 1).toNat (wBufs d * (d.word 2).toNat) = false ∨ wStat d % 8 ≠ 0 ∨
      inMem (wStat d) 8 = false then some TENSOR_ADDR
  else if d.tag ≠ 0 then some POISON_DESC
  else if out then route2 s key (wRoute d) else none

/-- A window instruction other than sattach: its checks, then `f` (R116). -/
def winOp (s : State) (key : Nat) (dn : Fin 16) (out : Bool) (rs : Option (Fin 32)) (k : Core) (f : VReg → Word → Issued) :
    Issued :=
  let d := k.rd dn
  match winCheck s key d out with
  | some c => .fault c
  | none =>
    let w := match rs with
      | some r => k.rs r
      | none => ⟨0, false⟩
    if w.poison then .fault POISON_SYNC
    else if !attached d then .fault WINDOW_STATE
    else f d w.val

/-- A STREAM packet (R289). -/
def streamPkt (d : VReg) (op : Nat) (w2 : Word) : Outbound :=
  .words (wRoute d) 4 [⟨BitVec.ofNat 32 (op * 2 ^ 28 + wStream d), false⟩, ⟨w2, false⟩] false

/-- sattach. -/
def execSattach (c : CoreId) (dn : Fin 16) (s : State) : Res :=
  .next (issue c (.sattach c dn) s (fun k =>
    let d := k.rd dn
    match winCheck s (coreKey c) d true with
    | some f => .fault f
    | none =>
      if attached d then .fault WINDOW_STATE
      else
        let w2 := BitVec.ofNat 32 (wGen d * 2 ^ 16 + wStat d / 8 % 2 ^ 15)
        k.queue (streamPkt d 1 w2) (fun k => .retire (k.setD dn (withAtt d true)) k.pc4)))

/-- sdetach. -/
def execSdetach (c : CoreId) (dn : Fin 16) (s : State) : Res :=
  .next (issue c (.sdetach c dn) s (fun k => winOp s (coreKey c) dn true none k (fun d _ =>
    k.queue (streamPkt d 2 0) (fun k => .retire (k.setD dn (withAtt d false)) k.pc4))))

/-- srel. -/
def execSrel (c : CoreId) (dn : Fin 16) (rs : Fin 32) (s : State) : Res :=
  .next (issue c (.srel c dn rs) s (fun k => winOp s (coreKey c) dn true (some rs) k (fun d w =>
    k.queue (streamPkt d 3 w) (fun k => .retire k k.pc4))))

/-- sfrel. -/
def execSfrel (c : CoreId) (dn : Fin 16) (rs : Fin 32) (s : State) : Res :=
  .next (issue c (.sfrel c dn rs) s (fun k => winOp s (coreKey c) dn true (some rs) k (fun d w =>
    k.queue (streamPkt d 4 (w &&& bits 15 0)) (fun k => .retire k k.pc4))))

/-- Whether a window count or fence number has reached `n` (R115). -/
def Core.statReached (k : Core) (addr : Nat) (hi : Bool) (n : BitVec 16) : Bool :=
  let v : BitVec 16 := ((k.memWord addr).val >>> (if hi then 16 else 0)).truncate 16
  decide ((v - n).toNat < 2 ^ 15)

/-- Waits on a half of STAT. -/
def statWait (d : VReg) (hi : Bool) (w : Word) (k : Core) : Issued :=
  let n : BitVec 16 := w.truncate 16
  if k.statReached (wStat d) hi n then .retire k k.pc4 else .wait k (.stat (wStat d) hi n)

/-- swait. -/
def execSwait (c : CoreId) (dn : Fin 16) (rs : Fin 32) (s : State) : Res :=
  .next (issue c (.swait c dn rs) s (fun k => winOp s (coreKey c) dn false (some rs) k (fun d w => statWait d false w k)))

/-- sfwait. -/
def execSfwait (c : CoreId) (dn : Fin 16) (rs : Fin 32) (s : State) : Res :=
  .next (issue c (.sfwait c dn rs) s (fun k => winOp s (coreKey c) dn false (some rs) k (fun d w => statWait d true w k)))

/-! ## send and mcast -/

/-- send and mcast (R87, R118, R119); `peal` says which kind of route is required. -/
def sendOp (s : State) (c : CoreId) (peal : Bool) (route : BitVec 8) (as1 : Fin 8) (tap : Fin 64) (t : Bool) (count : BitVec 14)
    (daddr : BitVec 18) (k : Core) : Issued :=
  let a := (k.ra as1).val.toNat
  let n := 4 * count.toNat
  if t = false ∧ tap ≠ 0 then .fault ILLEGAL
  else if (k.ra as1).poison then .fault POISON_ADDR
  else match routeOf s (coreKey c) route.toNat with
    | none => .fault ROUTE_NONE
    | some e =>
      if routeWords e ≠ count.toNat then .fault ROUTE_LEN
      else if count = 0 ∨ a % 4 ≠ 0 ∨ daddr.toNat % 4 ≠ 0 ∨ inMem a n = false ∨ inMem daddr.toNat n = false then .fault SEND_ADDR
      else if e.getLsbD 30 ≠ peal then .fault ROUTE_KIND
      else k.queue (.data route a count.toNat daddr (if t then some tap else none)) (fun k => .retire k k.pc8)

/-- send. -/
def execSend (c : CoreId) (route : BitVec 8) (as1 : Fin 8) (tap : Fin 64) (t : Bool) (count : BitVec 14) (daddr : BitVec 18)
    (s : State) : Res :=
  .next (issue c (.send c route as1 tap t count daddr) s (sendOp s c false route as1 tap t count daddr))

/-- mcast. -/
def execMcast (c : CoreId) (route : BitVec 8) (as1 : Fin 8) (tap : Fin 64) (t : Bool) (count : BitVec 14) (daddr : BitVec 18)
    (s : State) : Res :=
  .next (issue c (.mcast c route as1 tap t count daddr) s (sendOp s c true route as1 tap t count daddr))

/-! ## The end of a wait -/

/-- The address after the instruction a core waits at: chwait is a long form. -/
def Core.waitNext (k : Core) : Word :=
  match k.ir with
  | some (.chwait _ _ _ _ _) => k.pc8
  | _ => k.pc4

/-- What the end of a core's wait does, `none` while its condition is not met (R49, R108, R113, R115). A core that waited
for a place in its inject queue stands RUNNING at its instruction, which then issues. -/
def waitEnd (s : State) (key : Nat) (k : Core) : WaitCond → Option Issued
  | .inject => if k.full then none else some .stall
  | .tap t clear => if k.tapOn t then some (.retire (if clear then k.putTap t false else k) k.waitNext) else none
  | .lane l rd =>
    if (lanePend k).getLsbD l.val then none
    else some (takeStatus k (decide (laneSt s key l.val = .failed)) l rd)
  | .stat a hi n => if k.statReached a hi n then some (.retire k k.pc4) else none

/-- A WAITING core's condition is met (R49). The beats it waited are counted (R52); their number is free (log entry 3). -/
def execWaitConditionMet (c : CoreId) (s : State) : Res :=
  let k := s.core c
  match k.st, k.wait, k.ir with
  | .waiting, some w, some i =>
    match waitEnd s (coreKey c) k w with
    | none => .next s
    | some r =>
      let (n, s) := drawNat s
      let s := s.setCore c ((k.count 0x50 (n + 1)).count 0x40 (n + 1))
      .next (finish s c i (match waitEnd s (coreKey c) (s.core c) w with
        | some r' => r'
        | none => r))
  | _, _, _ => .next s

end Sys2Proof.Machine
end

