-- ==== Sys2Proof/Machine/Fetch.lean ====
section
/-! DEFINITION. Fetch and the decoding of instruction words (R37, R60 to R62, R87, R91, R92). -/

namespace Sys2Proof.Machine

/-! ## Fields -/

def r5 (w : Word) (lo : Nat) : Fin 32 := Fin.ofNat 32 (fld w (lo + 4) lo)
def r4 (w : Word) (lo : Nat) : Fin 16 := Fin.ofNat 16 (fld w (lo + 3) lo)
def r3 (w : Word) (lo : Nat) : Fin 8 := Fin.ofNat 8 (fld w (lo + 2) lo)
def r6 (w : Word) (lo : Nat) : Fin 64 := Fin.ofNat 64 (fld w (lo + 5) lo)
def imm (n : Nat) (w : Word) : BitVec n := w.truncate n
def b1 (w : Word) (i : Nat) : Bool := w.getLsbD i

/-- The instruction where every field marked zero is zero, else undefined (R87). -/
def guardI (ok : Bool) (i : Instr) : Option Instr := if ok then some i else none

def z (w : Word) (hi lo : Nat) : Bool := fld w hi lo == 0

/-- Lane types (R73). -/
def laneTyOf : Nat → Option LaneTy
  | 0 => some .fp32 | 1 => some .bf16 | 2 => some .i32 | 3 => some .i16 | 4 => some .i8 | 5 => some .u8 | _ => none

/-- Narrow formats (R95). -/
def nfmtOf : Nat → Option NFmt
  | 0 => some .gt2 | 1 => some .e2m1 | 2 => some .e3m2 | 3 => some .e2m3 | 4 => some .e4m3 | 5 => some .e5m2
  | 6 => some .int8 | _ => none

/-- Major 0x01 (R64). -/
def decAlu (c : CoreId) (w : Word) : Option Instr :=
  let rd := r5 w 21
  let a := r5 w 16
  let b := r5 w 11
  if !z w 10 6 then none
  else match fld w 5 0 with
    | 0x00 => some (.add c rd a b) | 0x01 => some (.sub c rd a b) | 0x02 => some (.and c rd a b)
    | 0x03 => some (.or c rd a b) | 0x04 => some (.xor c rd a b) | 0x05 => some (.sll c rd a b)
    | 0x06 => some (.srl c rd a b) | 0x07 => some (.sra c rd a b) | 0x08 => some (.slt c rd a b)
    | 0x09 => some (.sltu c rd a b) | 0x0A => some (.min c rd a b) | 0x0B => some (.max c rd a b)
    | 0x0C => some (.minu c rd a b) | 0x0D => some (.maxu c rd a b)
    | 0x0E => guardI (z w 15 11) (.clz c rd a) | 0x0F => guardI (z w 15 11) (.popc c rd a)
    | 0x10 => some (.mul c rd a b) | 0x11 => some (.mulh c rd a b) | 0x12 => some (.mulhu c rd a b)
    | 0x14 => some (.div c rd a b) | 0x15 => some (.divu c rd a b) | 0x16 => some (.rem c rd a b)
    | 0x17 => some (.remu c rd a b)
    | _ => none

/-- Major 0x0A (R67). An a register's upper two bits must be zero (R61). -/
def decAddr (c : CoreId) (w : Word) : Option Instr :=
  match fld w 5 0 with
  | 0x00 => guardI (z w 10 6 && z w 25 24 && z w 15 11) (.amov c (r3 w 21) (r5 w 16))
  | 0x01 => guardI (z w 10 6 && z w 20 19 && z w 15 11) (.smov c (r5 w 21) (r3 w 16))
  | 0x02 => guardI (z w 10 6 && z w 25 24 && z w 20 19) (.aadd c (r3 w 21) (r3 w 16) (r5 w 11))
  | _ => none

/-- Major 0x1C (R71). -/
def decPred (c : CoreId) (w : Word) : Option Instr :=
  let d := z w 25 24
  let a := z w 20 19
  let b := z w 15 14
  if !z w 10 6 then none
  else match fld w 5 0 with
    | 0x00 => guardI (d && a && b) (.pand c (r3 w 21) (r3 w 16) (r3 w 11))
    | 0x01 => guardI (d && a && b) (.por c (r3 w 21) (r3 w 16) (r3 w 11))
    | 0x02 => guardI (d && a && b) (.pxor c (r3 w 21) (r3 w 16) (r3 w 11))
    | 0x03 => guardI (d && a && b) (.pandn c (r3 w 21) (r3 w 16) (r3 w 11))
    | 0x04 => guardI (d && a && z w 15 11) (.pnot c (r3 w 21) (r3 w 16))
    | 0x08 => guardI (d && z w 15 11) (.pmovs c (r3 w 21) (r5 w 16))
    | 0x09 => guardI (a && z w 15 11) (.smovp c (r5 w 21) (r3 w 16))
    | 0x0A => guardI (a && z w 15 11) (.pcnt c (r5 w 21) (r3 w 16))
    | _ => none

/-- Major 0x20 (R75). -/
def decVec (c : CoreId) (w : Word) : Option Instr :=
  match laneTyOf (fld w 10 8) with
  | none => none
  | some ty =>
    let pg := r3 w 11
    let d := r4 w 22
    let a := r4 w 18
    let b := r4 w 14
    let nb := z w 17 14
    let np := z w 25 25
    match fld w 7 0 with
    | 0x00 => some (.vadd c ty pg d a b) | 0x01 => some (.vsub c ty pg d a b) | 0x02 => some (.vmul c ty pg d a b)
    | 0x03 => some (.vfma c ty pg d a b) | 0x04 => some (.vmin c ty pg d a b) | 0x05 => some (.vmax c ty pg d a b)
    | 0x06 => guardI nb (.vabs c ty pg d a) | 0x07 => guardI nb (.vneg c ty pg d a)
    | 0x08 => some (.vand c ty pg d a b) | 0x09 => some (.vor c ty pg d a b) | 0x0A => some (.vxor c ty pg d a b)
    | 0x0B => some (.vsll c ty pg d a b) | 0x0C => some (.vsrl c ty pg d a b) | 0x0D => some (.vsra c ty pg d a b)
    | 0x10 => guardI np (.vcmpeq c ty pg (r3 w 22) a b) | 0x11 => guardI np (.vcmplt c ty pg (r3 w 22) a b)
    | 0x12 => guardI np (.vcmple c ty pg (r3 w 22) a b)
    | 0x13 => some (.vsel c ty pg d a b)
    | 0x18 => guardI nb (.vredadd c ty pg d a) | 0x19 => guardI nb (.vredmax c ty pg d a)
    | 0x1C => guardI nb (.vexp2 c ty pg d a) | 0x1D => guardI nb (.vrcp c ty pg d a)
    | 0x1E => guardI nb (.vrsqrt c ty pg d a)
    | _ => none

/-- Major 0x21 (R136). -/
def decConv (c : CoreId) (w : Word) : Option Instr :=
  let d := r4 w 22
  let a := r4 w 18
  let b := r4 w 14
  let ty := fld w 10 8
  let wide : Option Wide := if ty = 0 then some .fp32 else if ty = 1 then some .bf16 else none
  if !z w 13 11 then none
  else match fld w 7 4, wide with
    | 0x0, some wd => (nfmtOf (fld w 3 0)).map (fun f => .vqscale c wd f d a b)
    | 0x1, some wd => (nfmtOf (fld w 3 0)).map (fun f => .vquant c wd f d a b)
    | 0x2, some wd => (nfmtOf (fld w 3 0)).map (fun f => .vdq c wd f d a b)
    | 0x3, some .fp32 => guardI (z w 3 0) (.vcvt c true d a b)
    | 0x3, some .bf16 => guardI (fld w 3 0 == 1) (.vcvt c false d a b)
    | _, _ => none

/-- Major 0x22 (R79). -/
def decMove (c : CoreId) (w : Word) : Option Instr :=
  match laneTyOf (fld w 11 9) with
  | none => none
  | some ty =>
    if !z w 8 6 then none
    else match fld w 5 0 with
      | 0x00 => guardI (z w 16 12) (.vbcast c ty (r4 w 22) (r5 w 17))
      | 0x01 => some (.vext c ty (r5 w 17) (r4 w 22) (r5 w 12))
      | 0x02 => some (.vins c ty (r4 w 22) (r5 w 17) (r5 w 12))
      | _ => none

/-- Major 0x30 (R82). -/
def decSys (c : CoreId) (w : Word) : Option Instr :=
  if !z w 15 6 then none
  else match fld w 5 0 with
    | 0x00 => guardI (z w 25 16) (.nop c) | 0x01 => guardI (z w 25 16) (.halt c)
    | 0x02 => guardI (z w 25 16) (.fenceL c) | 0x03 => guardI (z w 25 16) (.fenceF c)
    | 0x04 => guardI (z w 25 16) (.fence c)
    | 0x05 => guardI (z w 25 23) (.trap c (BitVec.ofNat 7 (fld w 22 16)))
    | _ => none

/-- Major 0x32 (R107). -/
def decAcc (c : CoreId) (w : Word) : Option Instr :=
  let acc : Fin 4 := Fin.ofNat 4 (fld w 25 24)
  if !z w 10 6 then none
  else match fld w 5 0 with
    | 0x00 => guardI (z w 23 11) (.acczero c acc)
    | 0x01 => guardI (z w 14 11) (.accrd c (r4 w 20) acc (r4 w 16) (b1 w 15))
    | 0x02 => guardI (z w 14 11) (.accwr c acc (r4 w 16) (b1 w 15) (r4 w 20))
    | 0x03 => guardI (z w 23 15) (.accst c acc (r3 w 12) (b1 w 11))
    | 0x04 => guardI (z w 23 15) (.accld c acc (r3 w 12) (b1 w 11))
    | _ => none

/-- Major 0x33 (R100). -/
def decDesc (c : CoreId) (w : Word) : Option Instr :=
  let d := r4 w 22
  if !z w 8 6 then none
  else match fld w 5 0 with
    | 0x00 => guardI (z w 21 18 && z w 14 10) (.dld c d (r3 w 15) (b1 w 9))
    | 0x01 => guardI (z w 21 18 && z w 14 10) (.dst c d (r3 w 15) (b1 w 9))
    | 0x02 => guardI (z w 17 9) (.dmov c d (r4 w 18))
    | 0x03 => guardI (z w 21 15 && z w 9 9) (.dbase c d (r5 w 10))
    | 0x04 => guardI (z w 21 15 && z w 9 9) (.dadd c d (r5 w 10))
    | _ => none

/-- Major 0x34 (R108). -/
def decTap (c : CoreId) (w : Word) : Option Instr :=
  let t := r6 w 12
  let loc := z w 25 18
  let nrd := z w 11 7
  if !z w 6 6 then none
  else match fld w 5 0 with
    | 0x00 => guardI (loc && nrd) (.tset c t) | 0x01 => guardI (loc && nrd) (.tclr c t)
    | 0x02 => guardI (loc && nrd) (.twait c t) | 0x03 => guardI (loc && nrd) (.twaitk c t)
    | 0x04 => guardI loc (.ttest c (r5 w 7) t)
    | 0x05 => guardI nrd (.trset c (BitVec.ofNat 8 (fld w 25 18)) t)
    | _ => none

/-- Major 0x36 (R112). -/
def decDown (c : CoreId) (w : Word) : Option Instr :=
  let l := r6 w 15
  if !z w 14 6 then none
  else match fld w 5 0 with
    | 0x00 => guardI (z w 25 21) (.dbarrive c l) | 0x01 => some (.dbwait c (r5 w 21) l)
    | 0x02 => some (.dbsync c (r5 w 21) l) | 0x03 => some (.dbstat c (r5 w 21) l)
    | _ => none

/-- Major 0x37 (R116). -/
def decWin (c : CoreId) (w : Word) : Option Instr :=
  let d := r4 w 22
  let s := r5 w 17
  if !z w 16 6 then none
  else match fld w 5 0 with
    | 0x00 => guardI (z w 21 17) (.sattach c d) | 0x01 => guardI (z w 21 17) (.sdetach c d)
    | 0x02 => some (.srel c d s) | 0x03 => some (.swait c d s) | 0x04 => some (.sfwait c d s)
    | 0x05 => some (.sfrel c d s)
    | _ => none

/-- M form: mode 0b00 or 0b01 (R68). -/
def decM (w : Word) (f : Fin 32 → Fin 8 → Bool → BitVec 16 → Instr) : Option Instr :=
  guardI (z w 17 17) (f (r5 w 21) (r3 w 18) (b1 w 16) (imm 16 w))

/-- VM form. -/
def decVM (w : Word) (f : Fin 16 → Fin 8 → Fin 8 → Bool → BitVec 14 → Instr) : Option Instr :=
  guardI (z w 15 15) (f (r4 w 22) (r3 w 19) (r3 w 16) (b1 w 14) (imm 14 w))

/-- shifti (R66). -/
def decShifti (c : CoreId) (w : Word) : Option Instr :=
  let f (k : ShiftKind) : Option Instr := guardI (z w 13 5) (.shifti c (r5 w 21) (r5 w 16) k (r5 w 0))
  match fld w 15 14 with
  | 0 => f .sll | 1 => f .srl | 2 => f .sra | _ => none

/-- An instruction of one word (R61, R62, R91, R92). -/
def decodeShort (c : CoreId) (w : Word) : Option Instr :=
  let rd := r5 w 21
  let a := r5 w 16
  let i := imm 16 w
  match fld w 31 26 with
  | 0x01 => decAlu c w
  | 0x02 => some (.addi c rd a i) | 0x03 => some (.andi c rd a i) | 0x04 => some (.ori c rd a i)
  | 0x05 => some (.xori c rd a i) | 0x06 => decShifti c w | 0x07 => guardI (z w 20 16) (.lui c rd i)
  | 0x08 => some (.slti c rd a i) | 0x09 => some (.sltiu c rd a i)
  | 0x0A => decAddr c w
  | 0x0B => guardI (z w 25 24 && z w 20 19) (.aaddi c (r3 w 21) (r3 w 16) i)
  | 0x10 => decM w (.lw c) | 0x11 => decM w (.lh c) | 0x12 => decM w (.lhu c) | 0x13 => decM w (.lb c)
  | 0x14 => decM w (.lbu c) | 0x15 => decM w (.sw c) | 0x16 => decM w (.sh c) | 0x17 => decM w (.sb c)
  | 0x18 => decVM w (.vld c) | 0x19 => decVM w (.vst c)
  | 0x1C => decPred c w
  | 0x20 => decVec c w | 0x21 => decConv c w | 0x22 => decMove c w
  | 0x24 => some (.beq c rd a i) | 0x25 => some (.bne c rd a i) | 0x26 => some (.blt c rd a i)
  | 0x27 => some (.bge c rd a i) | 0x28 => some (.bltu c rd a i) | 0x29 => some (.bgeu c rd a i)
  | 0x2A => guardI (z w 20 16) (.dbnz c rd i)
  | 0x2C => some (.jal c (imm 26 w)) | 0x2D => some (.jalr c rd a i)
  | 0x30 => decSys c w
  | 0x31 => guardI (z w 12 0) (.mm c (Fin.ofNat 4 (fld w 25 24)) (r4 w 20) (r4 w 16) (b1 w 15) (b1 w 14) (b1 w 13))
  | 0x32 => decAcc c w | 0x33 => decDesc c w | 0x34 => decTap c w | 0x36 => decDown c w | 0x37 => decWin c w
  | _ => none

/-- send and mcast (R91, R118). -/
def decSend (w v : Word) (f : BitVec 8 → Fin 8 → Fin 64 → Bool → BitVec 14 → BitVec 18 → Instr) : Option Instr :=
  guardI (z w 7 0) (f (BitVec.ofNat 8 (fld w 25 18)) (r3 w 15) (r6 w 9) (b1 w 8) (BitVec.ofNat 14 (fld v 31 18)) (imm 18 v))

/-- Major 0x3E (R91, R110). -/
def decChime (c : CoreId) (w v : Word) : Option Instr :=
  let r : BitVec 8 := BitVec.ofNat 8 (fld v 31 24)
  if !(z w 25 21 && z w 15 6 && z v 17 16) then none
  else match fld w 5 0 with
    | 0x00 => guardI (z v 23 18) (.chadd c r (imm 16 v) (r5 w 16))
    | 0x01 => some (.chwatch c r (imm 16 v) (r6 v 18) (r5 w 16))
    | 0x02 => some (.chwait c r (imm 16 v) (r6 v 18) (r5 w 16))
    | _ => none

/-- A long form (R60, R61, R79, R81, R91). -/
def decodeLong (c : CoreId) (w v : Word) : Option Instr :=
  let zt := z w 20 18 && z w 17 0
  match fld w 31 26 with
  | 0x38 => guardI zt (.li c (r5 w 21) v)
  | 0x39 => guardI (zt && z w 25 24) (.ali c (r3 w 21) v)
  | 0x3A => match laneTyOf (fld w 20 18) with
    | some ty => guardI (z w 17 0 && z w 25 25) (.vbcasti c ty (r4 w 21) v)
    | none => none
  | 0x3B => guardI zt (.jl c (r5 w 21) v)
  | 0x3C => decSend w v (.send c)
  | 0x3D => decSend w v (.mcast c)
  | 0x3E => decChime c w v
  | _ => none

/-- Whether a first word begins a long form (R60). -/
def isLong (w : Word) : Bool := fld w 31 29 == 7

/-- Whether an instruction word can be fetched at an address (R37). -/
def fetchable (a : Word) : Bool := decide (a.toNat % 4 = 0 ∧ a.toNat + 4 ≤ 0xC000)

/-- What the fetch of a core at its pc gives: a cause with the address CORE_FAULT_PC takes, or an instruction (R87, R88,
R90). -/
def Core.fetchAt (c : CoreId) (k : Core) : Except (Cause × Word) Instr :=
  if !fetchable k.pc then .error (FETCH_ADDR, k.pc)
  else
    let w := k.memWord k.pc.toNat
    if isLong w.val then
      if !fetchable k.pc4 then .error (FETCH_ADDR, k.pc4)
      else
        let v := k.memWord k.pc4.toNat
        if w.poison || v.poison then .error (POISON_FETCH, k.pc)
        else match decodeLong c w.val v.val with
          | some i => .ok i
          | none => .error (ILLEGAL, k.pc)
    else if w.poison then .error (POISON_FETCH, k.pc)
    else match decodeShort c w.val with
      | some i => .ok i
      | none => .error (ILLEGAL, k.pc)

/-- FETCH: a RUNNING core with nothing latched fetches and decodes the instruction at its pc, or faults (R37, R60, R87). -/
def execFetch (c : CoreId) (s : State) : Res :=
  let k := s.core c
  if k.st = .running ∧ k.ir = none then
    match (k.seen s (coreKey c)).fetchAt c with
    | .ok i => .next (s.setCore c { k with ir := some i })
    | .error (cause, pc) => .next (coreFault s c cause pc)
  else .next s

end Sys2Proof.Machine
end

