-- ==== Sys2Proof/Machine/Fabric.lean ====
section
/-! DEFINITION. The scheduled fabric: the taking of packets (R120, R121, R197 to R200), the slots of the rudiment tables
(R189 to R195), delivery to cores (R51, R197, R210), acknowledgements (R200) and route loss (R208, R446). -/

namespace Sys2Proof.Machine

/-! ## Places -/

/-- The router joined to a port, in the logical grid (R180, R185); `none` at the edge. -/
def neighbour (s : State) (k port : Nat) : Option Nat :=
  let x := k % 1022
  let y := k / 1022
  match port with
  | 0 => if y + 1 < s.gridRows then some (k + 1022) else none
  | 1 => if x + 1 < 1022 then some (k + 1) else none
  | 2 => if 0 < y then some (k - 1022) else none
  | 3 => if 0 < x then some (k - 1) else none
  | _ => none

/-- The port a link arrives at. -/
def facing (port : Nat) : Nat := (port + 2) % 4

/-- The engine whose span holds the outward port of an edge router (R279, R491). -/
def edgeEngine (s : State) (k port : Nat) : Engine :=
  let hx := k % 1022 / 73
  let py := physRow s.retired (k / 1022)
  Fin.ofNat 48 (match port with
    | 0 => 24 + (13 - hx)
    | 1 => 14 + py / 108
    | 2 => hx
    | _ => 38 + (1079 - py) / 108)

/-- The half-field an engine is anchored in (R490), as a region index. -/
def anchor (e : Nat) : Nat :=
  let at' (fy hx : Nat) : Nat := 2 * (fy * 7 + hx / 2) + hx % 2
  if e < 14 then at' 0 e
  else if e < 24 then at' (108 * (e - 14) / 90) 13
  else if e < 38 then at' 11 (13 - (e - 24))
  else at' ((972 - 108 * (e - 38)) / 90) 0

/-- Whether the router at `k` serves its field's predictor slice on local track 3 (R183; log entry 16). -/
def isSliceRouter (s : State) (k : Nat) : Bool :=
  k % 1022 % 73 == 72 && k % 1022 / 73 % 2 == 0 && physRow s.retired (k / 1022) % 90 == 45

/-- The partition that is granted a track of a router's port by the router's own field, 0 for none (R202). -/
def ownSide (s : State) (k port track : Nat) : Nat :=
  if port = 4 then partOfKey s k
  else match s.transit.find? (fun g => g.field == fieldOfKey s k && g.track == track) with
    | some g => g.part
    | none => partOfKey s k

/-- The partition that owns a track of a router, 0 for none (R202). A track of a link belongs to one partition at most: where the routers at
its ends are granted to two, it belongs to neither; where only one end is granted, to that one (DEDUCED, log entry 96). -/
def trackOwner (s : State) (k port track : Nat) : Nat :=
  let a := ownSide s k port track
  match neighbour s k port with
  | none => a
  | some n =>
    let b := ownSide s n (facing port) track
    if a = b ∨ b = 0 then a else if a = 0 then b else 0

/-! ## Joins of the mapping (R184, R185, R491) -/

/-- A physical place as w1 of R413 has it. -/
def place (py px : Nat) : Nat := py * 2 ^ 11 + px

/-- The half-field of a physical place, as a region index (R369). -/
def halfOfPlace (pl : Nat) : Nat :=
  let hx := pl % 2 ^ 11 / 75
  2 * (pl / 2 ^ 11 / 90 * 7 + hx / 2) + hx % 2

/-- The columns of row py passed through between columns a and b, a below b: one column a hop, an unusable router passed over by a skip; `none`
where two in a row are unusable. -/
def rowPath (s : State) (py b : Nat) : Nat → Nat → Option (List Nat)
  | 0, _ => none
  | fuel + 1, a =>
    if b ≤ a + 1 then some []
    else if !recordedBad s (place py (a + 1)) then (rowPath s py b fuel (a + 1)).map (place py (a + 1) :: ·)
    else if b ≤ a + 2 then some []
    else if !recordedBad s (place py (a + 2)) then (rowPath s py b fuel (a + 2)).map (place py (a + 2) :: ·)
    else none

/-- The routers of retired rows passed through from row `a`, column `px`, up to row b: a hop of one or two rows with a column offset of at
most 2, the longest hop and the least offset first (R184; DEDUCED where several serve, log entry 97). -/
def colPath (s : State) (b : Nat) : Nat → Nat → Nat → Option (List Nat)
  | 0, _, _ => none
  | fuel + 1, a, px =>
    if b ≤ a + 2 then some []
    else
      let cols := [px, px - 1, px + 1, px - 2, px + 2].filter (fun c => decide (c < 1050))
      match ([a + 2, a + 1].flatMap (fun r => cols.map (fun c => (r, c)))).find? (fun h => !recordedBad s (place h.1 h.2)) with
      | some (r, c) => (colPath s b fuel r c).map (place r c :: ·)
      | none => none

/-- A path to the wafer's edge ends at the perimeter router; the outward port of an unusable one carries nothing (R279, R491). -/
def toEdge (s : State) (own edge : Nat) (p : Option (List Nat)) : Option (List Nat) :=
  if own = edge then some []
  else if recordedBad s edge then none
  else p.map (· ++ [edge])

/-- The physical routers that the join at a port of a logical router passes through: to its logical neighbour, or to the outward port
(R185, R491); `none` where the map leaves no join. -/
def joinPath (s : State) (k port : Nat) : Option (List Nat) :=
  let pl (i : Nat) : Nat := (locRouter s i).toNat
  let py := pl k / 2 ^ 11
  let px := pl k % 2 ^ 11
  match port, neighbour s k port with
  | 0, some n => colPath s (pl n / 2 ^ 11) 1080 py px
  | 2, some n => colPath s py 1080 (pl n / 2 ^ 11) (pl n % 2 ^ 11)
  | 1, some n => rowPath s py (pl n % 2 ^ 11) 1050 px
  | 3, some n => rowPath s py px 1050 (pl n % 2 ^ 11)
  | 0, none => toEdge s (pl k) (place 1079 px) (colPath s 1079 1080 py px)
  | 2, none => toEdge s (pl k) (place 0 px) (colPath s py 1080 0 px)
  | 1, none => toEdge s (pl k) (place py 1049) (rowPath s py 1049 1050 px)
  | 3, none => toEdge s (pl k) (place py 0) (rowPath s py px 1050 0)
  | _, _ => some []

/-- Whether words pass a join: every router passed through is usable and its links domain powered (R185, R208, R366). -/
def joinUp (s : State) (k port : Nat) : Bool :=
  match joinPath s k port with
  | none => false
  | some ps => ps.all (fun p => !s.lostRouters.contains p && (s.region (halfOfPlace p)).linksOn)

/-- The partitions that own a loaded track through a router whose place satisfies `f`, passed-through routers included (R208). -/
def ownersThrough (s : State) (f : Nat → Bool) : List Nat :=
  (s.routers.flatMap (fun e => (List.range 20).filterMap (fun o =>
    if (Tab.get [] e.2.seqs o).any (·.isSome) && (f (locRouter s e.1).toNat || ((joinPath s e.1 (o / 4)).getD []).any f) then
      some (trackOwner s e.1 (o / 4) (o % 4))
    else none))).dedup

/-! ## Faults of the fabric -/

/-- A header loss (R197, R214): `v1` names the router or the engine. -/
def headerLoss (s : State) (p region type : Nat) (v1 : Word) : State :=
  reportP s 0x04 .region 1 p (BitVec.ofNat 32 region) (BitVec.ofNat 32 type) v1

/-- A header loss at a router. -/
def routerHeaderLoss (s : State) (k track : Nat) (w : Word) : State :=
  headerLoss s (trackOwner s k (track / 4) (track % 4)) (halfOfKey s k) (fld w 31 28) (locRouter s k)

/-- A header loss at an engine. -/
def engineHeaderLoss (s : State) (e : Nat) (p : Packet) : State :=
  headerLoss s (trackOwner s p.router (p.inTrack / 4) (p.inTrack % 4)) (anchor e) (fld p.hdr.val 31 28)
    (BitVec.ofNat 32 (0x80000000 + e))

/-- Whether a route-lost partition fences a core now (R446): it waits on something other than a downbeat, or does not
run. -/
def lostFences (k : Core) : Bool :=
  match k.st with
  | .sleeping => true
  | .retained => true
  | .waiting => match k.wait with
    | some (.lane _ _) => false
    | _ => true
  | _ => false

/-- Partition p becomes route-lost at a router or region: its waiting and sleeping cores are fenced, and the loss is
reported (R208, R446). `kind` is VALUE1 of the report. -/
def routeLoss (s : State) (p region kind : Nat) : State :=
  if p = 0 then s
  else
    let s := s.setPart p { s.part p with routeLost := true }
    let s := fenceCores s p ROUTE_LOST (((partKeys s p).map keyCore).filter (fun c => lostFences (s.core c)))
    let s := cntAdd s 0 0 0xD01038 1
    reportP s 0x02 .part 2 p 0 (BitVec.ofNat 32 region) (BitVec.ofNat 32 kind)

/-! ## INJECT_TAKE -/

/-- Fill words: their values are not given (R199; log entry 3). -/
def fillWords (s : State) (n : Nat) : List PWord := (List.range n).map (fun i => ⟨Config.freeWord (s.draws + i), false⟩)

/-- Puts a packet on the local inbound track of its route and counts it as unacknowledged (R198 to R200). -/
def inject (s : State) (c : CoreId) (e : Word) (route : BitVec 8) (hdr : Word) (pay : List PWord) (data : Bool) : State :=
  let fill := fillWords s (routeWords e - pay.length)
  let len := 1 + pay.length + fill.length
  let g : Ghost := ⟨.core c, route, len⟩
  let k := s.core c
  let s := { (s.setCore c { k with unacked := k.unacked ++ [⟨k.pktSeq, route, data⟩], pktSeq := k.pktSeq + 1 }) with
    draws := s.draws + fill.length }
  pushTrack s (coreKey c) (16 + fld e 29 28) (⟨⟨hdr, false⟩, some g⟩ :: (pay ++ fill).map (fun w => ⟨w, none⟩))

/-- Whether the operation at the head of the inject queue may leave (R121, R200). Operations of one core on one chime sent on different routes
are not held for each other: R122 says both that such operations have no order and that those on one chime take effect in program order; the
model lets the tables decide the order (DEDUCED, log entry 90). -/
def mayLeave (k : Core) : Outbound → Bool
  | .arrive _ => true
  | .data _ _ _ _ tap => decide (k.unacked.length < 16) && (tap.isNone || k.unacked.isEmpty)
  | .tapset _ _ => decide (k.unacked.length < 16) && !k.unacked.any (·.data)
  | .words _ _ _ notify => decide (k.unacked.length < 16) && (!notify || !k.unacked.any (·.data))

/-- The route of an outbound operation. -/
def Outbound.route : Outbound → BitVec 8
  | .arrive _ => 0
  | .data r _ _ _ _ => r
  | .tapset r _ => r
  | .words r _ _ _ => r

/-- The tap of a watch among outbound operations (R214). -/
def Outbound.watchTap : Outbound → Option Nat
  | .words _ t (w :: _) _ => if t = 3 ∧ fld w.val 31 30 = 1 then some (fld w.val 21 16) else none
  | _ => none

/-- The core without a watch that was discarded: it is pending on its tap no more (R111). -/
def Core.dropWatch (k : Core) : Option Nat → Core
  | some t => { k with watchTaps := k.watchTaps &&& ~~~((1 : BitVec 64) <<< t) }
  | none => k

/-- The router takes the operation at the head of a core's inject queue (R84, R120, R121, R200, R222). A route whose entry is
no longer loaded carries nothing: the operation is discarded as a header loss (log entry 19). -/
def execInjectTake (c : CoreId) (s : State) : Res :=
  let k := s.core c
  let key := coreKey c
  match k.inject with
  | [] => .next s
  | o :: rest =>
    if !mayLeave k o || routerDown s key then .next s
    else
      let s := s.setCore c { k with inject := rest }
      match o, routeOf s key o.route.toNat with
      | .arrive l, _ =>
        let k := s.core c
        .next (s.setCore c { k with arriving := k.arriving ++ [(l, k.pktSeq)] })
      | o, none => .next (headerLoss (s.setCore c ((s.core c).dropWatch o.watchTap)) (partOfKey s key) (halfOfKey s key) (match o with
          | .tapset _ _ => 2
          | .words _ t _ _ => t.toNat
          | _ => 1) (locRouter s key))
      | .data r src count daddr tap, some e =>
        .next (inject s c e r (header 1 (tap.map (·.val)) (daddr.toNat / 4)) (k.getWords src count) true)
      | .tapset r tap, some e => .next (inject s c e r (header 2 (some tap.val) 0) [] false)
      | .words r t pay _, some e => .next (inject s c e r (header t.toNat none 0) pay false)

/-! ## Slots (R189 to R193) -/

def slotOp (w : Word) : Nat := fld w 31 29
def moveIn (w : Word) : Nat := fld w 28 26 * 4 + fld w 25 24
def moveVar (w : Word) : Bool := w.getLsbD 23
def moveCount (w : Word) : Nat := fld w 22 9 + 1
def moveFan (w : Word) : Nat := fld w 8 6
def mergeMask (w : Word) : Nat := fld w 28 24
def mergeTrk (w : Word) : Nat := fld w 23 22
def loopBack (w : Word) : Nat := fld w 28 18
def loopTimes (w : Word) : Nat := fld w 17 0 + 1

/-- The loop counter of slot q of outbound track o. -/
def loopKey (o q : Nat) : Nat := o * 128 + q

/-- Whether a slot moves words: neither an empty place nor a LOOP. -/
def isWork (w : Option Word) : Bool :=
  match w with
  | some w => slotOp w != 3
  | none => false

/-- Passes over empty places and LOOP slots to the next slot that moves words: the position, the slot, the loop counters
(R189, R190, R202). A LOOP whose body moves nothing is passed over. -/
def settle (seq : List (Option Word)) (o : Nat) : Nat → Nat → Tab Nat → Option (Nat × Word × Tab Nat)
  | 0, _, _ => none
  | fuel + 1, q, loops =>
    if seq.length ≤ q then (if q = 0 then none else settle seq o fuel 0 loops)
    else match seq.getD q none with
      | none => settle seq o fuel (q + 1) loops
      | some w =>
        if slotOp w ≠ 3 then some (q, w, loops)
        else if !((seq.take q).drop (q - loopBack w)).any isWork then settle seq o fuel (q + 1) loops
        else
          let n := Tab.get 0 loops (loopKey o q) + 1
          if n < loopTimes w then settle seq o fuel (q - loopBack w) (Tab.set 0 loops (loopKey o q) n)
          else settle seq o fuel (q + 1) (Tab.set 0 loops (loopKey o q) 0)

/-- The slot an outbound track stands at, with the router placed there. -/
def Router.slot (q : Router) (o : Nat) : Option (Word × Router) :=
  let seq := Tab.get [] q.seqs o
  match settle seq o (4 * seq.length + 4) (Tab.get 0 q.pos o) q.loops with
  | some (p, w, loops) => some (w, { q with pos := Tab.set 0 q.pos o p, loops := loops })
  | none => none

/-- The slot of outbound track o is complete: the track goes to its next slot. -/
def Router.next (q : Router) (o : Nat) : Router :=
  { q with pos := Tab.set 0 q.pos o (Tab.get 0 q.pos o + 1), moved := Tab.set 0 q.moved o 0, varLen := Tab.set 0 q.varLen o 0 }

/-- Whether an outbound track can take a word: its join stands, and a link holds at most two words not released; the local port accepts, and
an engine takes each word as it comes (R180, R185, R197; log entry 95). -/
def canAccept (s : State) (k o : Nat) : Bool :=
  joinUp s k (o / 4) && match neighbour s k (o / 4) with
  | some n => decide ((Tab.get [] (s.router n).inq (facing (o / 4) * 4 + o % 4)).length < 2)
  | none => true

/-- A whole packet reaches the inbox of its destination (R197). A half-field under test discards what its L ports and its slice
would deliver (R410). -/
def deliver (s : State) (k o : Nat) (p : Packet) : State :=
  if o / 4 = 4 ∧ isolated s (halfOfKey s k) = true then s
  else if o / 4 = 4 then
    if o % 4 = 3 ∧ isSliceRouter s k then
      let f := fieldOfKey s k
      let sl := Tab.get ({} : Slice) s.slices f
      { s with slices := Tab.put s.slices f { sl with inbox := sl.inbox ++ [p] } }
    else
      let q := s.router k
      s.setRouter k { q with inbox := q.inbox ++ [p] }
  else
    let e := (edgeEngine s k (o / 4)).val
    let en := Tab.get ({} : EngineSt) s.engines e
    { s with engines := Tab.put s.engines e { en with inbox := en.inbox ++ [p] } }

/-- A word arrives at a destination by outbound track o of router k. The destination's own tables frame packets: a packet is what one slot of
its delivering track moves, the first word being its header, whatever the sender's packet was; `left` words of the slot remain (R194, R197,
R199; DEDUCED, log entry 98). -/
def arriveWord (s : State) (k o : Nat) (var : Bool) (left : Nat) (w : TWord) : State :=
  let q := s.router k
  let rx : Rx := match Tab.find q.rx o with
    | some r =>
      let need := if r.var && r.got.length == 1 then 2 + fld w.w.val 15 0 else r.need
      ⟨r.got ++ [w], need, r.var⟩
    | none => ⟨[w], if var then 2 else left, var⟩
  if rx.got.length < rx.need ∨ (rx.var ∧ rx.got.length < 2) then s.setRouter k { q with rx := Tab.put q.rx o rx }
  else
    let s := s.setRouter k { q with rx := Tab.drop q.rx o }
    match rx.got with
    | [] => s
    | h :: t => deliver s k o ⟨h.w, (if rx.var then t.drop 1 else t).map (·.w), h.hd, k, o⟩

/-- A word leaves by outbound track o of router k. -/
def sendOut (s : State) (k o : Nat) (var : Bool) (left : Nat) (w : TWord) : State :=
  match neighbour s k (o / 4) with
  | some n => pushTrack s n (facing (o / 4) * 4 + o % 4) [w]
  | none => arriveWord s k o var left w

/-- A length word that is poisoned, disagrees or is too long (R193). -/
def badLength (slot : Word) (w : PWord) : Bool :=
  w.poison || fld w.val 15 0 + fld w.val 31 16 != 0xFFFF || decide (moveCount slot < 2 + fld w.val 15 0)

/-- A word as it leaves by outbound track o: one that fails the link's parity check is forwarded with its tag set; the local port is no link
(R182). -/
def TWord.sent (w : TWord) (o : Nat) (bad : Bool) : TWord := { w with w := ⟨w.w.val, w.w.poison || (bad && o / 4 != 4)⟩ }

/-- A parity error of a track's word is counted (R437, R458). -/
def parityCount (s : State) (o : Nat) (bad : Bool) : State := if bad && o / 4 != 4 then cntAdd s 0 0 0xD01028 1 else s

/-- A MOVE slot moves one word, if its three conditions hold (R191, R193). -/
def moveOne (s : State) (k o : Nat) (slot : Word) (q : Router) (bad : Bool) : State :=
  let i := moveIn slot
  let n := Tab.get 0 q.moved o
  let took := Tab.get [] q.took i
  match Tab.get [] q.inq i with
  | [] => s
  | w :: rest =>
    if took.contains o || !canAccept s k o then s
    else if moveVar slot && n == 1 && badLength slot w.w then
      let s := s.setRouter k { q with desync := Tab.put q.desync o true }
      routeLoss s (trackOwner s k (o / 4) (o % 4)) (halfOfKey s k) 2
    else
      let all := moveFan slot ≤ took.length + 1
      let total := if moveVar slot then (if n = 0 then 2 else if n = 1 then 2 + fld w.w.val 15 0 else Tab.get 0 q.varLen o)
        else moveCount slot
      let q := { q with
        inq := if all then Tab.put q.inq i rest else q.inq
        took := Tab.put q.took i (if all then [] else took ++ [o])
        moved := Tab.set 0 q.moved o (n + 1)
        varLen := Tab.set 0 q.varLen o (if moveVar slot then total else 0)
        stalled := Tab.set false q.stalled o false }
      let q := if total ≤ n + 1 ∧ !(moveVar slot && n == 0) then q.next o else q
      sendOut (parityCount (s.setRouter k q) o bad) k o (moveVar slot) (total - n) (w.sent o bad)

/-- TRACK_MOVE: the slot outbound track o stands at moves one word (R191). -/
def execTrackMove (c : CoreId) (x : TrackOut) (s : State) : Res :=
  let k := coreKey c
  let q := s.router k
  if routerDown s k || Tab.get false q.desync x.o.val then .next s
  else match q.slot x.o.val with
    | some (w, q) => if slotOp w = 1 then .next (moveOne s k x.o.val w q x.bad) else .next s
    | none => .next s

/-- The ports of a MERGE slot. -/
def mergePorts (w : Word) : List Nat := (List.range 5).filter (fun p => (mergeMask w).testBit p)

/-- TRACK_MERGE: a MERGE slot takes one word from each of its ports and emits the first (R191). -/
def execTrackMerge (c : CoreId) (x : TrackOut) (s : State) : Res :=
  let k := coreKey c
  let q := s.router k
  if routerDown s k || Tab.get false q.desync x.o.val then .next s
  else match q.slot x.o.val with
    | some (w, q) =>
      let ins := (mergePorts w).map (fun p => p * 4 + mergeTrk w)
      let heads := ins.filterMap (fun i => (Tab.get [] q.inq i).head?)
      match heads with
      | [] => .next s
      | h :: _ =>
        if slotOp w ≠ 2 ∨ heads.length < ins.length ∨ canAccept s k x.o.val = false then .next s
        else
          let inq := ins.foldl (fun t i => Tab.put t i (Tab.get [] t i).tail) q.inq
          let took := ins.foldl (fun t i => Tab.put t i []) q.took
          let q := ({ q with inq := inq, took := took, stalled := Tab.set false q.stalled x.o.val false } : Router).next x.o.val
          let w' : TWord := ⟨⟨h.w.val, heads.any (·.w.poison)⟩, h.hd⟩
          .next (sendOut (parityCount (s.setRouter k q) x.o.val x.bad) k x.o.val false 1 (w'.sent x.o.val x.bad))
    | none => .next s

/-- SCHEDULE_STALL: an outbound track has held one slot incomplete for 10 ms; reported once for each stall (R195). -/
def execScheduleStall (c : CoreId) (o : Fin 20) (s : State) : Res :=
  let k := coreKey c
  let q := s.router k
  if routerDown s k || Tab.get false q.stalled o.val then .next s
  else match q.slot o.val with
    | none => .next s
    | some _ =>
      let s := s.setRouter k { q with stalled := Tab.set false q.stalled o.val true }
      .next (reportP s 0x03 .region 1 (trackOwner s k (o.val / 4) (o.val % 4)) (BitVec.ofNat 32 (halfOfKey s k))
        (BitVec.ofNat 32 o.val) (locRouter s k))

/-! ## Delivery to a core -/

/-- A tap set at a core; tap 63 wakes a SLEEPING core with WAKE_EN = 1 (R49, R51). The waking event is the setting: a core that halts, or that
sets WAKE_EN, with flag 63 already set stays SLEEPING, while a core that leaves RETAINED is woken by the flag's level, as R50 says (DEDUCED,
log entry 91). -/
def Core.tapFromFabric (k : Core) (t : Fin 64) : Core :=
  let k := k.putTap t true
  if t = 63 ∧ k.st = .sleeping ∧ (k.ctlW 0x08).getLsbD 1 then { k with st := .running } else k

/-- Words a delivery writes count in CORE_CNT_INBOUND, at FENCED and RETAINED cores too (R53). -/
def Core.countInbound (k : Core) (n : Nat) : Core :=
  if k.st ≠ .sleeping ∧ (k.ctlW 0x08).getLsbD 0 then k.setCtl64 0x78 (k.ctl64 0x78 + BitVec.ofNat 64 n) else k

/-- The payload of a WRITE goes to memory from `a` on, whatever the core's state; a word outside near and stack memory is
dropped (R51, R197; log entry 20). -/
def Core.deliverWords (k : Core) (a : Nat) : List PWord → Core
  | [] => k
  | w :: ws => (if inMem a 4 then (k.setMemWord a w).countInbound 1 else k).deliverWords (a + 4) ws

/-- TYPE, TAP and TAPEN of a header (R197). -/
def hType (w : Word) : Nat := fld w 31 28
def hTap (w : Word) : Fin 64 := Fin.ofNat 64 (fld w 26 21)
def hTapEn (w : Word) : Bool := w.getLsbD 27

/-- Removes the head of a core's inbox. -/
def popInbox (s : State) (k : Nat) : State :=
  let q := s.router k
  s.setRouter k { q with inbox := q.inbox.tail }

/-- A packet of undefined TYPE or with a poisoned header at a core: discarded, acknowledged, reported (R197, R489). -/
def coreLoss (s : State) (k : Nat) (p : Packet) : State :=
  let s := popInbox s k
  let s := if hType p.hdr.val = 6 then s else sendAck s p none
  routerHeaderLoss s k p.inTrack p.hdr.val

/-- Whether a core's router takes a header as undefined (R197, R489). -/
def badAtCore (w : PWord) : Bool := w.poison || !(hType w.val == 1 || hType w.val == 2 || hType w.val == 6)

/-- WRITE: the packet at the head of the inbox of core c is written, its tap set, its ACK sent (R197, R200). -/
def execWrite (c : CoreId) (s : State) : Res :=
  let key := coreKey c
  match (s.router key).inbox with
  | [] => .next s
  | p :: _ =>
    if badAtCore p.hdr then .next (coreLoss s key p)
    else if hType p.hdr.val = 1 then
      let k := (s.core c).deliverWords (4 * fld p.hdr.val 15 0) p.pay
      let k := if hTapEn p.hdr.val then k.tapFromFabric (hTap p.hdr.val) else k
      .next (wakeRegion (sendAck ((popInbox s key).setCore c k) p none) key)
    else .next s

/-- TAPSET (R210). -/
def execTapset (c : CoreId) (s : State) : Res :=
  let key := coreKey c
  match (s.router key).inbox with
  | [] => .next s
  | p :: _ =>
    if badAtCore p.hdr then .next (coreLoss s key p)
    else if hType p.hdr.val = 2 then
      .next (wakeRegion (sendAck ((popInbox s key).setCore c ((s.core c).tapFromFabric (hTap p.hdr.val))) p none) key)
    else .next s

/-! ## Packets of the edge stream engines (R200, R292) -/

/-- The routers of an engine's span, in ascending place (R279). -/
def spanRouters (s : State) (e : Nat) : List Nat :=
  let top := s.gridRows - 1
  if e < 14 then (List.range 73).map (fun i => 73 * e + i)
  else if e < 24 then ((List.range s.gridRows).filter (fun y => physRow s.retired y / 108 == e - 14)).map (fun y => 1022 * y + 1021)
  else if e < 38 then (List.range 73).map (fun i => 1022 * top + 73 * (13 - (e - 24)) + i)
  else ((List.range s.gridRows).filter (fun y => (1079 - physRow s.retired y) / 108 == e - 38)).map (fun y => 1022 * y)

/-- The port of an engine's edge. -/
def spanPort (e : Nat) : Nat := if e < 14 then 2 else if e < 24 then 1 else if e < 38 then 0 else 3

/-- Entry n of partition p in the route table of engine e, in the layout of R198, and the router of the engine's span at which its packets
enter the fabric (R292). The spec does not say how a schedule's load fills an engine's table, nor which router of the span an entry names: both
are free, from one load of tables to the next (log entry 102). -/
def engineEntry (s : State) (e p n : Nat) : Option (Word × Nat) :=
  match Tab.get 0 s.engRoutes p with
  | 0 => none
  | d + 1 =>
    let w := Config.freeWord (d + 256 * e + n)
    let span := spanRouters s e
    if w.getLsbD 31 ∧ 1 ≤ n ∧ n ≤ 255 then (span[Config.freeNat (d + 256 * e + n) % span.length]?).map (fun k => (w, k)) else none

/-- Where packets of route n of partition p enter the fabric from engine e: the router and the track of its outward port, which the partition
must hold (R202, R292). -/
def engineRoute (s : State) (e p n : Nat) : Option (Nat × Nat) :=
  (engineEntry s e p n).bind (fun r =>
    let t := fld r.1 29 28
    if trackOwner s r.2 (spanPort e) t = p then some (r.2, spanPort e * 4 + t) else none)

/-- A load of tables fills the engines' entries of partition p (R292, R348; log entry 102). -/
def loadEngines (s : State) (p : Nat) : State :=
  { s with engRoutes := Tab.set 0 s.engRoutes p (s.draws + 1), draws := s.draws + 12288 }

/-- Sends the packets an engine holds, in order, while their route has fewer than 16 unacknowledged (R200). -/
def engineFlush (s : State) (e : Nat) : List OutPkt → List Nat → List OutPkt → State
  | [], _, kept =>
    let en := Tab.get ({} : EngineSt) s.engines e
    { s with engines := Tab.put s.engines e { en with outq := kept } }
  | o :: rest, held, kept =>
    let en := Tab.get ({} : EngineSt) s.engines e
    if held.contains o.key || decide (16 ≤ Tab.get 0 en.unacked o.key) then engineFlush s e rest (o.key :: held) (kept ++ [o])
    else
      let en := { en with unacked := Tab.set 0 en.unacked o.key (Tab.get 0 en.unacked o.key + 1) }
      engineFlush (pushTrack { s with engines := Tab.put s.engines e en } o.router o.track o.words) e rest held kept

/-- Flushes an engine's held packets. -/
def engineRun (s : State) (e : Nat) : State := engineFlush s e (Tab.get ({} : EngineSt) s.engines e).outq [] []

/-- Engine e sends a variable-length WRITE of payload words to byte address a on route n of partition p (R193, R292). A route
that is not loaded carries nothing (log entry 19). -/
def engineSend (s : State) (e p n a : Nat) (pay : List PWord) : State :=
  match engineRoute s e p n with
  | none => s
  | some (k, t) =>
    let len := pay.length
    let lw : PWord := ⟨BitVec.ofNat 32 (len + (65535 - len % 65536) * 2 ^ 16), false⟩
    let hd : TWord := ⟨⟨header 1 none (a / 4), false⟩, some ⟨.engine (Fin.ofNat 48 e), BitVec.ofNat 8 n, 2 + len⟩⟩
    let o : OutPkt := ⟨256 * p + n, k, t, hd :: (lw :: pay).map (fun w => ⟨w, none⟩)⟩
    let en := Tab.get ({} : EngineSt) s.engines e
    engineRun { s with engines := Tab.put s.engines e { en with outq := en.outq ++ [o] } } e

/-! ## Packets of the predictor slices (R183, R200, R213) -/

def State.slice (s : State) (f : Nat) : Slice := Tab.get {} s.slices f
def State.setSlice (s : State) (f : Nat) (x : Slice) : State := { s with slices := Tab.put s.slices f x }

/-- The router that serves a field's predictor slice: that of the last logical column of its L half-field in physical row 45 of the field
(log entry 16); `none` where that row is retired. -/
def sliceRouter (s : State) (f : Nat) : Option Nat :=
  let x := 73 * (2 * (f % 7)) + 72
  ((List.range s.gridRows).find? (fun y => physRow s.retired y == 90 * (f / 7) + 45)).map (fun y => y * 1022 + x)

/-- Sends the packets a slice holds, in order, while their route has fewer than 16 unacknowledged (R200): they enter on local track 3 of its
router (R183). -/
def sliceFlush (s : State) (f k : Nat) : List (Nat × List TWord) → List (Nat × List TWord) → State
  | [], kept => s.setSlice f { s.slice f with outq := kept }
  | o :: rest, kept =>
    let sl := s.slice f
    if kept.any (fun x => x.1 == o.1) || decide (16 ≤ Tab.get 0 sl.unacked o.1) then sliceFlush s f k rest (kept ++ [o])
    else
      let s := s.setSlice f { sl with unacked := Tab.set 0 sl.unacked o.1 (Tab.get 0 sl.unacked o.1 + 1) }
      sliceFlush (pushTrack s k 19 o.2) f k rest kept

/-- Flushes a slice's held packets; one without a router holds them. -/
def sliceRun (s : State) (f : Nat) : State :=
  match sliceRouter s f with
  | some k => sliceFlush s f k (s.slice f).outq []
  | none => s

/-- Slice f advances a chime of its partition by 1, with a CHIME packet on a route (R213, R214). The spec does not say which of the partition's
routes a slice uses; its number is free (log entry 94). -/
def sliceAdvance (s : State) (f : Nat) (chime : BitVec 16) : State :=
  let (n, s) := drawNat s
  let r := n % 256
  let g : Ghost := ⟨.slice (Fin.ofNat 84 f), BitVec.ofNat 8 r, 3⟩
  let ws : List TWord := [⟨⟨header 3 none 0, false⟩, some g⟩, ⟨⟨chimeWord 0 0 chime, false⟩, none⟩, ⟨⟨1, false⟩, none⟩]
  let sl := s.slice f
  sliceRun (s.setSlice f { sl with outq := sl.outq ++ [(r, ws)] }) f

/-! ## ACK (R200) -/

/-- The first entry that satisfies `f` taken out of a list. -/
def takeFirst {α : Type} (f : α → Bool) : List α → List α
  | [] => []
  | a :: t => if f a then t else a :: takeFirst f t

/-- The ACK at the head of a node's inbox, if it is for `route`. -/
def ackFor (ps : List Packet) (route : BitVec 8) : Option Packet :=
  match ps with
  | p :: _ => if !p.hdr.poison && hType p.hdr.val == 6 && fld p.hdr.val 7 0 == route.toNat then some p else none
  | [] => none

/-- An ACK reaches its source. One for a route with nothing unacknowledged is discarded, sets no tap and is a header loss. -/
def execAck (n : Node) (route : BitVec 8) (s : State) : Res :=
  match n with
  | .core c =>
    let key := coreKey c
    match ackFor (s.router key).inbox route with
    | none => .next s
    | some p =>
      let s := popInbox s key
      let k := s.core c
      if !k.unacked.any (fun u => u.route == route) then .next (routerHeaderLoss s key p.inTrack p.hdr.val)
      else
        let k := { k with unacked := takeFirst (fun u => u.route == route) k.unacked }
        let t := hTap p.hdr.val
        let wt := k.watchTaps &&& ~~~((1 : BitVec 64) <<< t.val)
        let k' : Core := { (k.tapFromFabric t) with watchTaps := wt }
        .next (wakeRegion (s.setCore c (if hTapEn p.hdr.val then k' else k)) key)
  | .engine e =>
    let en := Tab.get ({} : EngineSt) s.engines e.val
    match ackFor en.inbox route with
    | none => .next s
    | some p =>
      let key := 256 * trackOwner s p.router (p.inTrack / 4) (p.inTrack % 4) + route.toNat
      let m := Tab.get 0 en.unacked key
      let en' : EngineSt := { en with inbox := en.inbox.tail, unacked := Tab.set 0 en.unacked key (m - 1) }
      let s := { s with engines := Tab.put s.engines e.val en' }
      .next (if m = 0 then engineHeaderLoss s e.val p else engineRun s e.val)
  | .slice f =>
    let sl := Tab.get ({} : Slice) s.slices f.val
    match ackFor sl.inbox route with
    | none => .next s
    | some p =>
      let m := Tab.get 0 sl.unacked route.toNat
      let sl' : Slice := { sl with inbox := sl.inbox.tail, unacked := Tab.set 0 sl.unacked route.toNat (m - 1) }
      let s' := { s with slices := Tab.put s.slices f.val sl' }
      .next (if m = 0 then routerHeaderLoss s' p.router p.inTrack p.hdr.val else sliceRun s' f.val)

/-! ## Route loss -/

/-- ROUTER_LOSS: a router in service becomes unusable, that of a logical core or one passed through: recorded pending, and each partition with
a track loaded through it is route-lost (R185, R205, R208, R413). -/
def execRouterLoss (x : RouterPlace) (s : State) : Res :=
  let pl := place x.py.val x.px.val
  if placeLost s pl then .next s
  else
    let ps := ownersThrough s (· == pl)
    let s := { s with lostRouters := s.lostRouters ++ [pl] }
    let s := recordDefect s 2 3 0 (BitVec.ofNat 32 pl)
    .next (ps.foldl (fun s p => routeLoss s p (halfOfPlace pl) 0) s)

/-- ROUTE_LOST_RUNNING_FENCE: cores still RUNNING 10 ms after the loss are fenced (R446). -/
def execRouteLostRunningFence (p : Vf) (s : State) : Res :=
  let n := vfPart p
  if (s.part n).routeLost then
    .next (fenceCores s n ROUTE_LOST (((listedKeys s n).map keyCore).filter (fun c => (s.core c).st = .running)))
  else .next s

end Sys2Proof.Machine
end

