-- ==== Sys2Proof/Machine/Lanes.lean ====
section
/-! DEFINITION. Homes and lanes: the CHIME packets at a home (R212 to R217), arrivals and timeouts on lanes (R222, R225, R228),
and the SYNC_ registers (R219, R220, R224, R226, R231). -/

namespace Sys2Proof.Machine

/-! ## CHIME packets at a home -/

def engineSt (s : State) (e : Nat) : EngineSt := Tab.get {} s.engines e

/-- Removes the head of an engine's inbox. -/
def popEngine (s : State) (e : Nat) : State :=
  let en := engineSt s e
  { s with engines := Tab.put s.engines e { en with inbox := en.inbox.tail } }

/-- The partition of a packet, from the track it arrived on (R212). -/
def packetPart (s : State) (p : Packet) : Nat := trackOwner s p.router (p.inTrack / 4) (p.inTrack % 4)

/-- The core that sent a packet. -/
def packetCore (p : Packet) : Option CoreId :=
  match p.hd with
  | some g => match g.src with
    | .core c => some c
    | _ => none
  | none => none

/-- A watch is pending on its sender's tap no more (R111). -/
def endWatchTap (s : State) (p : Packet) (tap : Nat) : State :=
  match packetCore p with
  | some c => s.setCore c ((s.core c).dropWatch (some tap))
  | none => s

/-- A packet an engine discards: acknowledged and reported (R197, R214, R489). A watch discarded is pending on its tap no more (R111). -/
def engineLoss (s : State) (e : Nat) (p : Packet) : State :=
  let s := popEngine s e
  let s := match p.pay with
    | a :: _ => if hType p.hdr.val = 3 ∧ fld a.val 31 30 = 1 then endWatchTap s p (fld a.val 21 16) else s
    | [] => s
  let s := if hType p.hdr.val = 6 then s else sendAck s p none
  engineHeaderLoss s e p

/-- A CHIME packet as its home takes it: operation (true for a watch), tap, chime, operand; `none` where it is discarded
(R212, R214). -/
def chimeFields (e : Nat) (p : Packet) : Option (Bool × Nat × Nat × Word) :=
  match p.pay with
  | a :: b :: _ =>
    let op := fld a.val 31 30
    if p.hdr.poison || a.poison || b.poison || fld a.val 29 22 != 0 || decide (1 < op) ||
        (op == 0 && fld a.val 21 16 != 0) || fld a.val 15 0 % 48 != e then none
    else some (op == 1, fld a.val 21 16, fld a.val 15 0, b.val)
  | _ => none

/-- Whether a packet is a CHIME packet. -/
def isChime (p : Packet) : Bool := hType p.hdr.val == 3

/-- Whether an engine handles a header at all (R489). -/
def badAtEngine (p : Packet) : Bool :=
  p.hdr.poison || !(hType p.hdr.val == 1 || hType p.hdr.val == 3 || hType p.hdr.val == 4 || hType p.hdr.val == 6)

/-- ADVANCE: the CHIME packet at the head of engine e's inbox advances its chime; its ACK returns (R111, R215). -/
def execAdvance (e : Engine) (s : State) : Res :=
  match (engineSt s e.val).inbox with
  | [] => .next s
  | p :: _ =>
    if badAtEngine p then .next (engineLoss s e.val p)
    else if !isChime p then .next s
    else match chimeFields e.val p with
      | none => .next (engineLoss s e.val p)
      | some (true, _, _, _) => .next s
      | some (false, _, n, step) => .next (sendAck (partAdvance (popEngine s e.val) (packetPart s p) n step) p none)

/-- The key of a watch on partition chime n of partition p; a chime beyond the quota reads zero for ever (R111). -/
def watchKey (s : State) (p n : Nat) : Nat :=
  if n < (s.part p).chimeCount then (s.part p).chimeBase + n else 48 * 30000 + n

/-- Pending watches of partition p's cores at home e. -/
def watchesHeld (s : State) (p e : Nat) : Nat :=
  (s.watches.filter (fun w => match w.who with
    | .core c _ _ => partOfKey s (coreKey c) == p && w.chime % 48 == e
    | _ => false)).length

/-- A watch that finds the share full: its ACK returns with TAPEN = 0 and the tap is never set (R217). R111 holds the next watch on the tap
"until that watch has set its tap", which it never does; the model takes a refused watch as pending no more (DEDUCED, log entry 99). -/
def watchRefused (s : State) (e p n : Nat) (tap : Nat) (pkt : Packet) : State :=
  let s := sendAck s pkt none
  let s := regOr s p 0 0x80000C 8
  let s := endWatchTap s pkt tap
  reportP s 0x05 .part 1 p 0 (BitVec.ofNat 32 n) (BitVec.ofNat 32 e)

/-- WATCH: the CHIME packet at the head of engine e's inbox posts a watch, whose ACK holds back those of later packets on its route (R111,
R216, R217). -/
def execWatch (e : Engine) (s : State) : Res :=
  match (engineSt s e.val).inbox with
  | [] => .next s
  | pkt :: _ =>
    if badAtEngine pkt then .next (engineLoss s e.val pkt)
    else if !isChime pkt then .next s
    else match chimeFields e.val pkt with
      | none => .next (engineLoss s e.val pkt)
      | some (false, _, _, _) => .next s
      | some (true, tap, n, thr) =>
        let p := packetPart s pkt
        let s := popEngine s e.val
        if atOrPast (partChimeVal s p n) thr then .next (sendAck s pkt (some tap))
        else
          match packetCore pkt with
          | none => .next (watchRefused s e.val p n tap pkt)
          | some c =>
            if (s.part p).watch ≤ watchesHeld s p e.val then .next (watchRefused s e.val p n tap pkt)
            else .next { s with
              watches := s.watches ++ [⟨watchKey s p n, thr, .core c (Fin.ofNat 64 tap) pkt⟩], acks := s.acks ++ [⟨pkt, none, false⟩] }

/-! ## Lanes -/

/-- Whether every packet of the core numbered below n is acknowledged (R222). -/
def ackedBelow (k : Core) (n : Nat) : Bool := k.unacked.all (fun u => decide (n ≤ u.seq))

/-- LANE_ARRIVAL: an arrival that has left the inject queue takes effect once earlier packets are acknowledged (R222, R225).
On a FAILED lane it has no effect (R114). -/
def execLaneArrival (c : CoreId) (lane : Fin 64) (s : State) : Res :=
  let key := coreKey c
  let k := s.core c
  match k.arriving.find? (fun a => a.1 == lane), physLane s (partOfKey s key) lane.val with
  | some a, some n =>
    if !ackedBelow k a.2 then .next s
    else
      let k := { k with arriving := takeFirst (fun x => x.1 == lane) k.arriving }
      let ln := s.lane n
      if ln.st = .failed then .next (s.setCore c (setPend k lane.val false))
      else
        let s := s.setCore c k
        .next (laneTry (s.setLane n { ln with st := .busy, arrived := ln.arrived ++ [c] }) n)
  | _, _ => .next s

/-- LANE_TIMEOUT: a BUSY lane's barrier has run for SYNC_LANE_TIMEOUT and fails (R228). -/
def execLaneTimeout (pl : Fin 64) (s : State) : Res :=
  if (s.lane pl.val).st = .busy then .next (laneFail s pl.val) else .next s

/-! ## SYNC_ registers (R231) -/

/-- A refused write (R219, R231). -/
def syncConfig (s : State) (p : Nat) : State := regOr s p 0 0x80000C 0x20

/-- SYNC_CHIME_SEL. -/
def chimeSel (s : State) (p : Nat) : Nat := fld (regGet s p 0 0x800020) 15 0

def chimeAddWrite (s : State) (p : Nat) (step : Word) : State :=
  if 2 ^ 31 ≤ step.toNat then syncConfig s p else partAdvance s p (chimeSel s p) step

/-- SYNC_CHIME_ADD (R231). -/
def execSyncChimeAdd (p : Vf) (step : BitVec 32) (s : State) : Res := .next (chimeAddWrite s (vfPart p) step)

/-- Whether partition chime n is the status chime of a lane of the partition (R219). -/
def isStatusChime (s : State) (p n : Nat) : Bool :=
  (s.part p).lanes.any (fun l => (s.lane l).ctrl.getLsbD 16 && fld (s.lane l).ctrl 15 0 == n)

/-- Whether partition chime n belongs to a valid pair other than that of producer `except` (R219). -/
def inPair (s : State) (p n except : Nat) : Bool :=
  s.pairs.any (fun e => e.2.valid && partOfChime s e.1 == p && e.1 != (s.part p).chimeBase + except &&
    (e.1 == (s.part p).chimeBase + n || e.2.consumer.toNat == n))

/-- A write of SYNC_PAIR_CFG (R219, R220, R231). -/
def pairCfgWrite (s : State) (p : Nat) (v : Word) : State :=
  let q := s.part p
  let n := chimeSel s p
  let cons := fld v 15 0
  let lane := fld v 29 24
  let valid := v.getLsbD 31
  if q.chimeCount ≤ n ∨ (valid = true ∧ (q.chimeCount ≤ cons ∨ q.lanes.length ≤ lane ∨ cons = n ∨ inPair s p n n = true ∨
      inPair s p cons n = true ∨ isStatusChime s p n = true ∨ isStatusChime s p cons = true)) then syncConfig s p
  else
    let g := q.chimeBase + n
    let old := pairAt s g
    let clear := v.getLsbD 30 && old.broken
    let brk := old.broken && !clear
    let new : Pair := { old with valid := valid, lane := BitVec.ofNat 6 lane, consumer := BitVec.ofNat 16 cons, broken := brk }
    let s := { s with pairs := Tab.put s.pairs g new }
    if clear || (valid && (!old.valid || old.consumer != new.consumer)) then pairRef s p g else s

/-- SYNC_PAIR_CFG. -/
def execSyncPairCfgWrite (p : Vf) (v : BitVec 32) (s : State) : Res := .next (pairCfgWrite s (vfPart p) v)

/-- A write of SYNC_PAIR_BOUND. -/
def pairBoundWrite (s : State) (p : Nat) (v : Word) : State :=
  let n := chimeSel s p
  if v = 0 ∨ 2 ^ 30 < v.toNat ∨ (s.part p).chimeCount ≤ n then syncConfig s p
  else
    let g := (s.part p).chimeBase + n
    { s with pairs := Tab.put s.pairs g { pairAt s g with bound := v } }

/-- Values written to a lane come into force at once unless it is BUSY (R226). -/
def laneWritten (s : State) (n : Nat) (l : Lane) : State :=
  let s := s.setLane n l
  if l.st = .busy then s else s.setLane n { l with maskF := l.mask, ctrlF := l.ctrl }

/-- A write of SYNC_LANE_CTRL (R231); the block of a lane not granted is RZ. -/
def laneCtrlWrite (s : State) (p l : Nat) (v : Word) : State :=
  match physLane s p l with
  | none => s
  | some n =>
    let sc := fld v 15 0
    if v.getLsbD 16 ∧ ((s.part p).chimeCount ≤ sc ∨ inPair s p sc 65536 = true) then syncConfig s p
    else laneWritten s n { s.lane n with ctrl := v &&& bits 16 0 }

/-- SYNC_LANE_CTRL. -/
def execSyncLaneCtrlWrite (p : Vf) (lane : Fin 64) (v : BitVec 32) (s : State) : Res :=
  .next (laneCtrlWrite s (vfPart p) lane.val v)

/-- A write of SYNC_LANE_MASK0 to 2: bits of fields outside the partition are RZ (R224). -/
def laneMaskWrite (s : State) (p l w : Nat) (v : Word) : State :=
  match physLane s p l with
  | none => s
  | some n =>
    let ln := s.lane n
    let keep : BitVec 84 := ~~~(BitVec.ofNat 84 ((2 ^ 32 - 1) * 2 ^ (32 * w)))
    let m := (ln.mask &&& keep) ||| (BitVec.ofNat 84 (v.toNat * 2 ^ (32 * w)) &&& (s.part p).fields)
    laneWritten s n { ln with mask := m }

/-- SYNC_LANE_MASK0 to 2. -/
def execSyncLaneMaskWrite (p : Vf) (lane : Fin 64) (w : Fin 3) (v : BitVec 32) (s : State) : Res :=
  .next (laneMaskWrite s (vfPart p) lane.val w.val v)

/-- Lanes of the partition that satisfy f, as a 64-bit word. -/
def laneBitmap (s : State) (p : Nat) (f : Lane → Bool) : BitVec 64 :=
  BitVec.ofNat 64 ((List.range 64).foldr (fun l acc => (match physLane s p l with
    | some n => f (s.lane n)
    | none => false).toNat + 2 * acc) 0)

def LaneState.code : LaneState → Nat
  | .idle => 0 | .busy => 1 | .failed => 2

/-- A read of the SYNC_ block of partition p (R231). -/
def readSync (s : State) (p o : Nat) : Word :=
  let q := s.part p
  let n := chimeSel s p
  let pr := if n < q.chimeCount then pairAt s (q.chimeBase + n) else {}
  if 0x1000 ≤ o ∧ o < 0x1800 then
    match physLane s p ((o - 0x1000) / 0x20) with
    | none => 0
    | some i =>
      let l := s.lane i
      match o % 0x20 with
      | 0x00 => l.ctrl
      | 0x04 => l.mask.truncate 32
      | 0x08 => (l.mask >>> 32).truncate 32
      | 0x0C => (l.mask >>> 64).truncate 32
      | 0x10 => l.releases.truncate 32
      | 0x14 => (l.releases >>> 32).truncate 32
      | 0x18 => BitVec.ofNat 32 l.st.code
      | _ => 0
  else match o with
    | 0x00 => BitVec.ofNat 32 q.chimeCount
    | 0x04 => BitVec.ofNat 32 q.lanes.length
    | 0x08 => q.laneTimeout
    | 0x10 => (laneBitmap s p (fun l => decide (l.st = .failed))).truncate 32
    | 0x14 => (laneBitmap s p (fun l => decide (l.st = .failed)) >>> 32).truncate 32
    | 0x18 => (laneBitmap s p (fun l => decide (l.st = .busy))).truncate 32
    | 0x1C => (laneBitmap s p (fun l => decide (l.st = .busy)) >>> 32).truncate 32
    | 0x24 => partChimeVal s p n
    | 0x28 => 0
    | 0x2C => BitVec.ofNat 32 (pr.valid.toNat * 2 ^ 31 + pr.broken.toNat * 2 ^ 30 + pr.lane.toNat * 2 ^ 24 + pr.consumer.toNat)
    | 0x30 => pr.bound
    | 0x34 => BitVec.ofNat 32 q.watch
    | _ => regGet s p 0 (0x800000 + o)

end Sys2Proof.Machine
end

