-- ==== Sys2Proof/Machine/T2Ops.lean ====
section
/-! DEFINITION. Access to T2 through a partition's frame table (R236 to R242, R252, R254), and the free pool (R240, R241). -/

namespace Sys2Proof.Machine

/-- Bytes of a frame (R237). -/
def frameBytes : Nat := 2 ^ 21

/-- The stack of a physical frame, numbered stack × 32,768 + frame within the stack (R237, R238). -/
def frameStack (f : Nat) : Nat := f / 32768

/-- Stack states (R250): 0 ONLINE, 1 MIGRATING, 2 OFFLINE, 3 LOST. Before the power-up test every stack is LOST. -/
def stackState (s : State) (n : Nat) : Nat := Tab.get 3 s.tiers.stack n

def setStack (s : State) (n st : Nat) : State := { s with tiers := { s.tiers with stack := Tab.set 3 s.tiers.stack n st } }

/-- Whether a frame reads as poisoned zeros and ignores writes: it lies on a LOST stack, or its frame-table entry is lost in
both copies (R254, R441). -/
def frameDead (s : State) (f : Nat) : Bool := stackState s (frameStack f) == 3 || s.tiers.badFrame.contains f

/-- The physical frame of a partition address, if the partition's space holds it (R237). -/
def frameOf (s : State) (p a : Nat) : Option Nat := (s.part p).frames[a / frameBytes]?

/-- Whether [a, a + n) lies in the partition's space (R242). -/
def t2In (s : State) (p a n : Nat) : Bool := decide (a + n ≤ (s.part p).frames.length * frameBytes)

/-- The word of T2 at partition address `a`, a multiple of 4: zero beyond the quota, poisoned zero on a dead frame. -/
def t2Word (s : State) (p a : Nat) : PWord :=
  match frameOf s p a with
  | none => ⟨0, false⟩
  | some f =>
    if frameDead s f then ⟨0, true⟩
    else
      let m := f * frameBytes + a % frameBytes
      ⟨Memory.word s.tiers.mem m, Tab.get false s.tiers.tag (m / 4)⟩

/-- `n` words from partition address `a`. -/
def t2Read (s : State) (p a n : Nat) : List PWord := (List.range n).map (fun i => t2Word s p (a + 4 * i))

/-- Writes one word; ignored beyond the quota and on a dead frame. -/
def t2SetWord (s : State) (p a : Nat) (w : PWord) : State :=
  match frameOf s p a with
  | none => s
  | some f =>
    if frameDead s f then s
    else
      let m := f * frameBytes + a % frameBytes
      let mem := Memory.setWord s.tiers.mem m w.val
      let tag := Tab.set false s.tiers.tag (m / 4) w.poison
      { s with tiers := { s.tiers with mem := mem, tag := tag } }

/-- Writes words from partition address `a` on. -/
def t2Write (s : State) (p a : Nat) : List PWord → State
  | [] => s
  | w :: ws => t2Write (t2SetWord s p a w) p (a + 4) ws

/-- Writes `len` bytes given as words; a last partial word keeps its other bytes (R236). -/
def t2WriteBytes (s : State) (p a len : Nat) (ws : List PWord) : State :=
  let whole := ws.take (len / 4)
  let s := t2Write s p a whole
  if len % 4 = 0 then s
  else
    let m := BitVec.ofNat 32 (2 ^ (8 * (len % 4)) - 1)
    let b := a + len / 4 * 4
    let old := t2Word s p b
    let w := ws.getD (len / 4) ⟨0, false⟩
    t2SetWord s p b ⟨(old.val &&& ~~~m) ||| (w.val &&& m), old.poison || w.poison⟩

/-- The frame a migration copies now (R252). -/
def copying (s : State) : Option Nat := s.tiers.migr.bind (fun m => m.frames.head?)

/-- Whether [a, a + n) meets the frame in copy. -/
def meetsCopy (s : State) (p a n : Nat) : Bool :=
  match copying s with
  | none => false
  | some f =>
    (List.range ((a + n - 1) / frameBytes - a / frameBytes + 1)).any (fun i => frameOf s p ((a / frameBytes + i) * frameBytes) == some f)

/-- An access that meets the frame in copy waits for it, and the wait counts, for the partition and the module (R252, R256). -/
def t2Wait (s : State) (p a n : Nat) : State :=
  if n ≠ 0 ∧ meetsCopy s p a n then cntAdd (cntAdd s p 0 0x600020 1) 0 0 0x600020 1 else s

/-- An access beyond the quota counts one violation (R242). -/
def t2Bound (s : State) (p a n : Nat) : State := if n = 0 ∨ t2In s p a n then s else violate s p 1

/-- Counts an access: a violation where it leaves the quota, a frame wait where it meets the frame in copy (R242, R252). -/
def t2Touch (s : State) (p a n : Nat) : State := t2Wait (t2Bound s p a n) p a n

/-- A TIER_FAULT bit, in the partition and in the PF's own copy (R256). -/
def tierFault (s : State) (p : Nat) (b : Word) : State := regOr (regOr s p 0 0x600018 b) 0 0 0x600018 b

/-! ## The free pool -/

/-- Frames granted to some partition. -/
def grantedFrames (s : State) : List Nat := partNums.flatMap (fun p => (s.part p).frames)

/-- The frame that is the target of the copy in progress. -/
def copyTargets (s : State) : List Nat := match s.tiers.migr with
  | some m => m.target.toList
  | none => []

/-- The free frames of a stack, lowest first: not in the reserve, granted, in fill, withheld or promised to a copy (R239 to
R241, R254). -/
def freeFrames (s : State) (n : Nat) : List Nat :=
  let used := grantedFrames s ++ s.tiers.fills ++ s.tiers.withheld ++ copyTargets s
  ((List.range 32764).map (fun i => n * 32768 + 4 + i)).filter (fun f => !used.contains f)

/-- The ONLINE stacks, ascending. -/
def onlineStacks (s : State) : List Nat := (List.range 24).filter (fun n => stackState s n == 0)

/-- TIER_FREE_FRAMES (R256). -/
def freeCount (s : State) : Nat := ((onlineStacks s).map (fun n => (freeFrames s n).length)).sum

/-- Zeroes a frame's contents. -/
def zeroFrame (s : State) (f : Nat) : State :=
  let mem := Memory.clear s.tiers.mem (f * frameBytes) ((f + 1) * frameBytes)
  let tag := Memory.clear s.tiers.tag (f * frameBytes / 4) ((f + 1) * frameBytes / 4)
  { s with tiers := { s.tiers with mem := mem, tag := tag } }

end Sys2Proof.Machine
end

