-- ==== Sys2Proof/Machine/Slices.lean ====
section
/-! DEFINITION. The predicate unit (R167 to R175). -/

namespace Sys2Proof.Machine

def Slice.slot (x : Slice) (n : Nat) : SliceSlot := Tab.get {} x.slots n
def Slice.setSlot (x : Slice) (n : Nat) (t : SliceSlot) : Slice := { x with slots := Tab.put x.slots n t }

/-! ## Layer entries (R168) -/

/-- Word i of a slot's layer entry. -/
def Slice.ent (x : Slice) (n i : Nat) : Word := Memory.word x.sram (64 * n + 4 * i)

def Slice.valid (x : Slice) (n : Nat) : Bool := (x.ent n 0).getLsbD 31
def Slice.groups (x : Slice) (n : Nat) : Nat := fld (x.ent n 0) 27 16 + 1
def Slice.width (x : Slice) (n : Nat) : Nat := fld (x.ent n 0) 15 0
def Slice.rank (x : Slice) (n : Nat) : Nat := fld (x.ent n 1) 31 24
def Slice.rows (x : Slice) (n : Nat) : Nat := fld (x.ent n 1) 23 16
def Slice.cursor (x : Slice) (n : Nat) : Nat := fld (x.ent n 6) 27 16
def Slice.passNo (x : Slice) (n : Nat) : Word := x.ent n 11
def Slice.maskBase (x : Slice) (n : Nat) : Nat := (x.ent n 7).toNat + 2 ^ 32 * fld (x.ent n 8) 15 0

/-- Bytes of `cnt` rows of `n` elements with their scales, in PFMT 1 (MXFP4) or 4 (MXFP8) (R96, R168). -/
def packedBytes (pf n cnt : Nat) : Nat := cnt * ((if pf = 1 then n / 2 else n) + n / 32)

/-- Whether every field of an entry image is in range (R168); an offset is where its whole array lies in the 2 MiB (DEDUCED, log entry 22). -/
def entryOk (w : Nat → Word) : Bool :=
  let g := fld (w 0) 27 16 + 1
  let d := fld (w 0) 15 0
  let rank := fld (w 1) 31 24
  let rows := fld (w 1) 23 16
  let pf := fld (w 4) 31 28
  decide (fld (w 0) 29 28 = 0 ∧ d % 32 = 0 ∧ 0 < d ∧ d ≤ 8192 ∧ (rank = 32 ∨ rank = 64 ∨ rank = 96 ∨ rank = 128) ∧
    0 < rows ∧ rows ≤ 64 ∧ (pf = 1 ∨ pf = 4) ∧ fld (w 6) 31 28 = 0 ∧ fld (w 6) 27 16 < g ∧ fld (w 6) 15 12 = 0 ∧
    fld (w 7) 11 0 = 0 ∧ fld (w 8) 31 16 = 0 ∧ w 12 = 0 ∧ w 13 = 0 ∧ w 14 = 0 ∧ w 15 = 0 ∧
    (w 2).toNat + packedBytes pf d rank ≤ 2 ^ 21 ∧ (w 3).toNat + packedBytes pf rank g ≤ 2 ^ 21 ∧
    fld (w 4) 27 0 + packedBytes 4 d rows ≤ 2 ^ 21)

/-- A slot whose entry a write has made VALID with a field out of range is not made valid: its VALID bit is cleared (R168; DEDUCED, log
entry 21). -/
def Slice.refuseSlot (x : Slice) (n : Nat) : Slice :=
  if x.valid n && !entryOk (x.ent n) then { x with sram := Memory.setWord x.sram (64 * n) (x.ent n 0 &&& ~~~(bits 31 31)) } else x

/-- The layer slots of a slice whose entries a range of SRAM touches. -/
def slotsTouched (a n : Nat) : List Nat := (List.range 64).filter (fun i => decide (64 * i < a + n ∧ a < 64 * i + 64))

/-! ## The computation of a pass (R169 to R171) -/

/-- The slice's memory seen as a core's, so that the packed-element readers serve both. -/
def Slice.mem (x : Slice) : Core := { mem := x.sram, memTag := x.tag }

/-- Span b of row i of a packed array of `n` elements a row at byte address `a`; `cnt` rows, then their scales (R96, R168). -/
def packedSpan (k : Core) (f : Fmt) (a n cnt i b : Nat) : Span :=
  let vals := (List.range 32).map (fun e =>
    let c := k.elemCode f (a + i * rowBytes f n) (32 * b + e)
    (elemVal f c.1, c.2))
  let sa := a + cnt * rowBytes f n + i * (n / 32) + b
  ⟨vals, k.byteAt sa, k.tagAt sa⟩

/-- A dot product of spans accumulated in ascending blocks (R132, R134). -/
def accSpans (xs ys : List Span) : Word := ((xs.zip ys).foldl (fun a p => accAdd a (spanT p.1 p.2)) (PWord.zero, 0)).1.val

/-- h with negative and NaN elements replaced by +0.0, as MXFP8 E4M3 spans (R137, R169). -/
def hSpans (h : List FV) : List Span :=
  let h := h.map (fun v => match v with
    | .nan => .fin false 0 0
    | v => if fneg? v then .fin false 0 0 else v)
  (List.range (h.length / 32)).map (fun b =>
    let vs := (h.drop (32 * b)).take 32
    let q := quantBlock .e4m3 (List.replicate 32 .nearest) vs
    ⟨q.1.map (fun c => (elemVal .e4m3 c, false)), blockScale .e4m3 vs, false⟩)

/-- The score of each group: the maximum over the rows, +∞ where a row gives NaN (R169). -/
def Slice.scores (x : Slice) (n : Nat) : List FV :=
  let k := x.mem
  let d := x.width n
  let rank := x.rank n
  let pf := if fld (x.ent n 4) 31 28 = 1 then Fmt.e2m1 else Fmt.e4m3
  let p1 := (x.ent n 2).toNat
  let p2 := (x.ent n 3).toNat
  let xin := fld (x.ent n 4) 27 0
  let hs := (List.range (x.rows n)).map (fun i =>
    let xi := (List.range (d / 32)).map (packedSpan k .e4m3 xin d (x.rows n) i)
    hSpans ((List.range rank).map (fun j => of32 (accSpans xi ((List.range (d / 32)).map (packedSpan k pf p1 d rank j))))))
  (List.range (x.groups n)).map (fun g =>
    let col := (List.range (rank / 32)).map (packedSpan k pf p2 rank (x.groups n) g)
    hs.foldl (fun m h =>
      let v := of32 (accSpans h col)
      if v = .nan then .inf false else fmax m v) (.inf true))

/-- Whether a score is at or above the threshold. -/
def fge (a b : FV) : Bool := a != .nan && b != .nan && !flt a b

/-- Whether an input word of the pass is poisoned (R170). -/
def Slice.inPoison (x : Slice) (n : Nat) : Bool :=
  let a := fld (x.ent n 4) 27 0
  let len := x.rows n * (x.width n + x.width n / 32)
  x.tag.any (fun e => e.2 && decide (a < 4 * e.1 + 4 ∧ 4 * e.1 < a + len))

/-- The groups named (R170). -/
def Slice.named (x : Slice) (n : Nat) : List Nat :=
  let gs := List.range (x.groups n)
  if x.inPoison n then gs
  else
    let sc := x.scores n
    let ok := gs.filter (fun g => fge (sc.getD g .nan) (of32 (x.ent n 5)))
    let lim := fld (x.ent n 6) 11 0
    if lim = 0 ∨ ok.length ≤ lim then ok
    else ok.filter (fun g =>
      let v := sc.getD g .nan
      decide ((ok.filter (fun j => flt v (sc.getD j .nan) || (!flt (sc.getD j .nan) v && decide (j < g)))).length < lim))

/-- The groups audited and the cursor afterwards (R171). -/
def Slice.audited (x : Slice) (n : Nat) (named : List Nat) : List Nat × Nat :=
  let g := x.groups n
  let cur := x.cursor n
  let cand := ((List.range g).map (fun i => (cur + i) % g)).filter (fun i => !named.contains i)
  let aud := cand.take (fld (x.ent n 1) 15 8)
  (aud, match aud.getLast? with
    | some l => (l + 1) % g
    | none => cur)

/-- A 4,096-bit array as 128 words (R172). -/
def bitArray (gs : List Nat) : List Word :=
  (List.range 128).map (fun i => BitVec.ofNat 32 ((List.range 32).foldr (fun b acc => (gs.contains (32 * i + b)).toNat + 2 * acc) 0))

/-- The words of a mask record (R172). -/
def maskRecord (num : Word) (named audit : List Nat) (cursor : Nat) : List Word :=
  [num, BitVec.ofNat 32 (audit.length * 2 ^ 16 + named.length), 0, BitVec.ofNat 32 cursor, 0, 0, 0, 0] ++
  bitArray named ++ bitArray audit ++ bitArray []

/-- Words without tags. -/
def clean (ws : List Word) : List PWord := ws.map (fun w => ⟨w, false⟩)

/-- A slot starts its next pass when its inputs have come, its last pass is computed, and no pass of the same record awaits
reports; inputs that came beyond them are those of the pass after it (R169, R172, R175). -/
def Slice.tryStart (x : Slice) (n : Nat) : Slice :=
  let t := x.slot n
  let cnt := fld (x.ent n 1) 7 0
  let held := t.opens.length + (x.writing.filter (fun m => m.slot == n)).length
  if cnt = 0 ∨ t.inputs < cnt ∨ x.computing.contains n ∨ 2 ≤ held ∨ x.valid n = false then x
  else { (x.setSlot n { t with inputs := t.inputs - cnt }) with computing := x.computing ++ [n] }

/-- A packet a slice discards as undefined (R489). -/
def sliceLoss (s : State) (f : Nat) (p : Packet) : State :=
  let x := s.slice f
  let s := s.setSlice f { x with inbox := x.inbox.tail }
  let s := if hType p.hdr.val = 6 then s else sendAck s p none
  routerHeaderLoss s p.router p.inTrack p.hdr.val

/-- Whether a slice handles a header (R489). -/
def badAtSlice (p : Packet) : Bool :=
  p.hdr.poison || !(hType p.hdr.val == 1 || hType p.hdr.val == 5 || hType p.hdr.val == 6)

/-- Whether a delivery of `n` bytes at `a` goes into the input buffer of a slot (R168, R169). -/
def Slice.intoInput (x : Slice) (n a len : Nat) : Bool :=
  let b := fld (x.ent n 4) 27 0
  decide (0 < len ∧ b ≤ a ∧ a + len ≤ b + packedBytes 4 (x.width n) (x.rows n))

/-- SLICE_INPUT_DELIVERY: the WRITE at the head of a slice's inbox is written to its memory from 4 × WADDR on; with a tap n and its words in
the input buffer of slot n it counts as an input of that slot (R169; log entry 21). -/
def execSliceInputDelivery (f : Field) (s : State) : Res :=
  let x := s.slice f.val
  match x.inbox with
  | [] => .next s
  | p :: rest =>
    if badAtSlice p then .next (sliceLoss s f.val p)
    else if hType p.hdr.val ≠ 1 then .next s
    else
      let n := (hTap p.hdr.val).val
      let a := 4 * fld p.hdr.val 15 0
      let ignored := hTapEn p.hdr.val && !x.valid n
      let (m, tg) := if ignored then (x.sram, x.tag) else Memory.putWords x.sram x.tag a (p.pay.take ((2 ^ 21 - a) / 4))
      let counts := hTapEn p.hdr.val && !ignored && x.intoInput n a (4 * p.pay.length)
      let x := { x with inbox := rest, sram := m, tag := tg }
      let x := if ignored then x else (slotsTouched a (4 * p.pay.length)).foldl Slice.refuseSlot x
      let x := if counts then
          let t := x.slot n
          (x.setSlot n { t with inputs := t.inputs + 1 }).tryStart n
        else x
      .next (sendAck (s.setSlice f.val x) p none)

/-- PASS_COMPUTE_DONE: the pass started first ends its computation; its record is to be written (R169 to R172). -/
def execPassComputeDone (f : Field) (s : State) : Res :=
  let x := s.slice f.val
  match x.computing with
  | [] => .next s
  | n :: rest =>
    let named := x.named n
    let (aud, cur) := x.audited n named
    let num := x.passNo n
    let t := x.slot n
    let op : OpenPass := ⟨num, x.groups n, aud, [], 0, []⟩
    let rec' : MaskRec := ⟨n, maskRecord num named aud cur, op⟩
    let w6 := (x.ent n 6 &&& ~~~(bits 27 16)) ||| BitVec.ofNat 32 (cur * 2 ^ 16)
    let sram := Memory.setWord (Memory.setWord x.sram (64 * n + 24) w6) (64 * n + 44) (num + 1)
    let x := (({ x with computing := rest, writing := x.writing ++ [rec'], sram := sram } : Slice).setSlot n t).tryStart n
    .next (s.setSlice f.val x)

/-- The address of a pass's record (R172). -/
def Slice.recAddr (x : Slice) (n : Nat) (num : Word) : Nat := x.maskBase n + 2048 * (num.toNat % 2)

/-- One report applied to an open pass (R175). -/
def OpenPass.report (o : OpenPass) (src : Option Node) (w : Word) : OpenPass :=
  let g := fld w 11 0
  let o := if w.getLsbD 30 then
      (if o.audit.contains g && decide (g < o.groups) then { o with miss := if o.miss.contains g then o.miss else o.miss ++ [g] }
       else { o with dropped := o.dropped + 1 })
    else o
  if w.getLsbD 31 then { o with lasts := o.lasts ++ [src] } else o

/-- A report given to the oldest open pass that its core has not ended; kept for the next pass where the core has ended every
open one; dropped where none is open (R175). -/
def SliceSlot.report (t : SliceSlot) (src : Option Node) (w : Word) : SliceSlot :=
  match t.opens with
  | [] => { t with dropped := t.dropped + 1 }
  | a :: r =>
    if !a.lasts.contains src then { t with opens := a.report src w :: r }
    else match r with
      | b :: r' => if !b.lasts.contains src then { t with opens := a :: b.report src w :: r' } else { t with early := t.early ++ [(src, w)] }
      | [] => { t with early := t.early ++ [(src, w)] }

/-- Closes the passes of slot n that have their LAST reports: MISSES, DROPPED and the MISS array written, MISS_CHIME advanced
(R175). -/
def passClose (s : State) (f n : Nat) : Nat → State
  | 0 => s
  | fuel + 1 =>
    let x := s.slice f
    let t := x.slot n
    match t.opens with
    | [] => s
    | o :: r =>
      if o.lasts.length < (x.ent n 10).toNat then s
      else
        let p := partOfField s f
        let a := x.recAddr n o.num
        let s := s.setSlice f ((x.setSlot n { t with opens := r }).tryStart n)
        let s := t2Touch s p a 2048
        let s := t2Write s p (a + 8) (clean [BitVec.ofNat 32 (o.dropped * 2 ^ 16 + o.miss.length)])
        let s := t2Write s p (a + 0x420) (clean (bitArray o.miss))
        let s := if (x.ent n 0).getLsbD 30 then sliceAdvance s f (BitVec.ofNat 16 (fld (x.ent n 9) 31 16)) else s
        passClose s f n fuel

/-- MASK_RECORD_WRITTEN: the record is in T2; the slice sends the advance of the mask chime; the pass awaits reports, and reports dropped
since the slot's last record count in this one (R172, R175, R213). -/
def execMaskRecordWritten (f : Field) (s : State) : Res :=
  let x := s.slice f.val
  match x.writing with
  | [] => .next s
  | m :: rest =>
    let p := partOfField s f.val
    let a := x.recAddr m.slot m.pass.num
    let t := x.slot m.slot
    let t := { t with opens := t.opens ++ [{ m.pass with dropped := t.dropped }], early := [], dropped := 0 }
    let t := (x.slot m.slot).early.foldl (fun t e => t.report e.1 e.2) t
    let s := s.setSlice f.val ({ x with writing := rest } : Slice)
    let s := s.setSlice f.val ((s.slice f.val).setSlot m.slot t)
    let s := t2Write (t2Touch s p a 2048) p a (clean m.words)
    let s := sliceAdvance s f.val (BitVec.ofNat 16 (fld (x.ent m.slot 9) 15 0))
    .next (passClose s f.val m.slot 3)

/-- PU: the report at the head of a slice's inbox (R174, R175). -/
def execPu (f : Field) (s : State) : Res :=
  let x := s.slice f.val
  match x.inbox with
  | [] => .next s
  | p :: rest =>
    if badAtSlice p then .next (sliceLoss s f.val p)
    else if hType p.hdr.val ≠ 5 then .next s
    else
      let s := sendAck (s.setSlice f.val { x with inbox := rest }) p none
      match p.pay with
      | [] => .next s
      | w :: _ =>
        let n := fld w.val 29 24
        let x := s.slice f.val
        if !x.valid n then .next s
        else
          let src := p.hd.map (·.src)
          .next (passClose (s.setSlice f.val (x.setSlot n ((x.slot n).report src w.val))) f.val n 3)

end Sys2Proof.Machine
end

