-- ==== Sys2Proof/Machine/WstOps.lean ====
section
/-! DEFINITION. The weight store as its commands and the streams use it: handles (R245, R246), stripes and unavailable controllers
(R258, R273, R275), refresh counts (R261), wear (R277), capacity (R276), and T2 bytes as tensors (R248). -/

namespace Sys2Proof.Machine

def mset (s : State) (m : Nat) : MSet := Tab.get {} s.wst.sets m
def setMset (s : State) (m : Nat) (x : MSet) : State := { s with wst := { s.wst with sets := Tab.put s.wst.sets m x } }
def slotKey (p sl : Nat) : Nat := p * 1024 + sl
def wslot (s : State) (p sl : Nat) : WSlot := Tab.get {} s.wst.slots (slotKey p sl)
def addKey (p sl t : Nat) : Nat := slotKey p sl * 2 ^ 24 + t
def ctl (s : State) (n : Nat) : Ctl := Tab.get {} s.wst.ctls n
def setCtl (s : State) (n : Nat) (x : Ctl) : State := { s with wst := { s.wst with ctls := Tab.put s.wst.ctls n x } }

/-- The controllers not ONLINE (R273). -/
def ctlsDown (s : State) : List Nat := (List.range 16).filter (fun n => (ctl s n).st != 0)

/-- Whether any controller is worn: then every write is refused (R277). -/
def anyWorn (s : State) : Bool := (List.range 16).any (fun n => (ctl s n).worn)

/-- Sets of WST_FAULT, in the PF window (R278). -/
def wstFault (s : State) (b : Word) : State := regOr s 0 0 0x700138 b

/-! ## Handles (R245, R246) -/

def hType' (h : BitVec 64) : Nat := h.toNat / 2 ^ 60
def hSet (h : BitVec 64) : Nat := h.toNat / 2 ^ 32 % 2 ^ 16
def hNum (h : BitVec 64) : Nat := h.toNat % 2 ^ 24

/-- Whether the fields marked zero are zero. -/
def hClean (h : BitVec 64) : Bool := h.toNat / 2 ^ 48 % 2 ^ 12 == 0 && h.toNat / 2 ^ 24 % 2 ^ 8 == 0

/-- Whether a set serves reads: it holds a current copy (R265, R268). -/
def serves (m : MSet) : Bool := m.st == .serving || m.st == .building || m.st == .built || m.st == .draining

/-- The copy of a set that carries generation g, of those that may be read (R269). -/
def copyOf (m : MSet) (g : Word) : Option WCopy :=
  if !serves m then none
  else match m.cur with
    | some c => if c.gen = g then some c else if m.st = .draining then m.other.filter (fun o => decide (o.gen = g)) else none
    | none => none

/-- Resolves a handle of partition p (R246, R268, R269): a slot bound to a set that does not serve resolves none. -/
def resolve (s : State) (p : Nat) (h : BitVec 64) : Option Source :=
  let sl := wslot s p (hSet h)
  if !hClean h || decide ((s.part p).t3Slots ≤ hSet h) || !sl.bound || !serves (mset s sl.mset) then none
  else if hType' h = 1 then
    (copyOf (mset s sl.mset) sl.lg).bind (fun c =>
      (Tab.find c.tensors (hNum h)).map (fun t => ⟨t, hNum h, some (sl.mset, sl.lg)⟩))
  else if hType' h = 2 then (Tab.find s.wst.adds (addKey p (hSet h) (hNum h))).map (fun t => ⟨t, hNum h, none⟩)
  else none

/-! ## Stripes (R258, R263, R275) -/

/-- The controller that holds byte b of tensor number n. -/
def byteCtl (n b : Nat) : Nat := (n + b / 3932160 + 1 + b % 3932160 / 262144) % 16

/-- The controller that holds the parity of stripe j of tensor number n. -/
def parityCtl (n j : Nat) : Nat := (n + j) % 16

/-- Bytes of a stripe unit (R258). -/
def unitBytes : Nat := 262144

/-- The word of a tensor at byte b, a multiple of 4: a poisoned zero in a unit that is lost, zero beyond the tensor (R275, R285). -/
def srcWord (x : Source) (b : Nat) : PWord :=
  if x.tensor.lost.contains (b / unitBytes) && decide (b < x.tensor.len) then ⟨0, true⟩ else x.tensor.words.getD (b / 4) ⟨0, false⟩

/-- The units of a tensor numbered n that lie on controller c (R258). -/
def unitsOn (n c : Nat) (t : Tensor) : List Nat :=
  (List.range ((t.len + unitBytes - 1) / unitBytes)).filter (fun u => byteCtl n (u * unitBytes) == c)

/-- A number for a tensor of a set's copy, or of an addition, by which its free values differ from those of others. -/
def tensorKey (own : Option (Nat × Word)) (n : Nat) : Nat :=
  match own with
  | some (m, g) => (m * 2 ^ 32 + g.toNat) * 2 ^ 24 + n
  | none => 2 ^ 64 + n

/-- Units lost in one tensor when controller c becomes unavailable while those of `down` are not ONLINE: in each stripe that lacks two units,
its data units on both controllers (R275). Which stripes of a REBUILDING controller have been rewritten is free (R273; log entry 3). -/
def loseTensor (s : State) (c : Nat) (down : List Nat) (own : Option (Nat × Word)) (n : Nat) (t : Tensor) : Tensor :=
  let k := tensorKey own n
  let gone (j d : Nat) : Bool := (ctl s d).st != 2 || Config.freeNat (s.draws + (k * 2 ^ 15 + j) * 16 + d) % 2 == 0
  let bad (u : Nat) : Bool :=
    let ds := down.filter (gone (u / 15))
    let on := byteCtl n (u * unitBytes)
    (on == c && !ds.isEmpty) || ds.contains on
  { t with lost := (List.range ((t.len + unitBytes - 1) / unitBytes)).filter (fun u => t.lost.contains u || bad u) }

/-- A controller becomes unavailable: where another is not ONLINE, every tensor in T3 loses the units that cannot be rebuilt, for good, until
it is written again in a new copy (R275). -/
def loseUnits (s : State) (c : Nat) : State :=
  let down := (ctlsDown s).filter (· != c)
  if down.isEmpty then s
  else
    let copy (m : Nat) (x : WCopy) : WCopy :=
      { x with tensors := x.tensors.map (fun e => (e.1, loseTensor s c down (some (m, x.gen)) e.1 e.2)) }
    let sets := s.wst.sets.map (fun e => (e.1, { e.2 with cur := e.2.cur.map (copy e.1), other := e.2.other.map (copy e.1) }))
    let adds := s.wst.adds.map (fun e => (e.1, loseTensor s c down none (e.1 % 2 ^ 24) e.2))
    let src (x : Source) : Source := { x with tensor := loseTensor s c down x.own x.num x.tensor }
    let strm (x : Stream) : Stream :=
      { x with src := x.src.map src, flights := x.flights.map (fun f => { f with src := f.src.map src }) }
    { s with wst := { s.wst with sets := sets, adds := adds }, streams := s.streams.map (fun e => (e.1, strm e.2)),
             draws := s.draws + 2 ^ 96 }

/-- Units delivered poisoned: counted, flagged, reported (R263, R275, R455). -/
def dataLost (s : State) (n units : Nat) : State :=
  let s := wstFault (cntAdd s 0 0 0x700150 units) 1
  reportE s 0x09 .unit 2 (BitVec.ofNat 32 (192 + n)) (BitVec.ofNat 32 n) (BitVec.ofNat 32 units)

/-- A refresh unit queued, once (R261). -/
def queueUnit (s : State) (n unit : Nat) : State :=
  let c := ctl s n
  if c.queue.contains unit then s else setCtl s n { c with queue := c.queue ++ [unit] }

/-- Page reads of a refresh unit counted; it is queued at 1,000,000 or past its retention margin (R261). -/
def unitRead (s : State) (n unit pages : Nat) (margin : Bool) : State :=
  let c := ctl s n
  let r := Tab.get 0 c.reads unit + pages
  let s := setCtl s n { c with reads := Tab.set 0 c.reads unit r }
  if 1000000 ≤ r ∨ margin then queueUnit s n unit else s

/-- A page that failed its ECC: rebuilt and queued for refresh, or lost (R263). -/
def pageFailed (s : State) (n unit : Nat) (rebuildFail : Bool) : State :=
  let s := queueUnit (cntAdd s 0 0 0x700148 1) n unit
  if rebuildFail then dataLost s n 1 else s

/-! ## Wear (R277) -/

/-- One controller's wear as measured. -/
def wearOne (s : State) (w : Wear) : State :=
  let c := ctl s w.ctl.val
  let worn := c.worn || decide (10000 ≤ w.used ∨ w.spare < 10)
  let exh := c.exhausted || w.exhausted
  let s := setCtl s w.ctl.val { c with used := min w.used 0xFFFF, spare := min w.spare 127, worn := worn, exhausted := exh }
  let s := if worn && !c.worn then wstFault s 4 else s
  if exh && !c.exhausted then wstFault s 8 else s

def applyWear (s : State) (ws : List Wear) : State := ws.foldl wearOne s

/-! ## Capacity (R249, R276) -/

/-- Units of 64 MiB a length takes. -/
def unitsOf (len : Nat) : Nat := (len + 2 ^ 26 - 1) / 2 ^ 26

/-- Page reads that one piece makes on controller c for n bytes, by the refresh unit that holds them (R261). -/
def pagesRead (s : State) (c unit n : Nat) (margin : Bool) : State := unitRead s c unit ((n + 16383) / 16384) margin

/-- The reads of a rebuild: on each controller named, other than the one that holds the unit, that is not unavailable (R261, R263). -/
def rebuildReads (s : State) (c n : Nat) (rs : List FlashRead) : State :=
  rs.foldl (fun s r => if r.ctl.val = c ∨ (ctl s r.ctl.val).st = 1 ∨ (ctl s r.ctl.val).st = 3 then s
    else pagesRead s r.ctl.val r.unit n r.margin) s

/-- Whether the unit is read direct from controller c: ONLINE, or REBUILDING with its stripe rewritten, which is free (R273; log entry 3). -/
def readsDirect (s : State) (c : Nat) : Bool :=
  (ctl s c).st == 0 || ((ctl s c).st == 2 && Config.freeNat s.draws % 2 == 1)

/-- Whether a read of the unit at byte lo of a source delivers poisoned zeros: the unit is lost, or it must be rebuilt and that fails, which it
does where another controller cannot be read (R263, R275). -/
def readLost (s : State) (x : Source) (lo : Nat) (r : PieceResult) : Bool :=
  let c := byteCtl x.num lo
  let dark (d : Nat) : Bool := d != c && ((ctl s d).st == 1 || (ctl s d).st == 3)
  x.tensor.lost.contains (lo / unitBytes) ||
    ((!readsDirect s c || r.eccFail) && (r.rebuildFail || (List.range 16).any dark))

/-- What the flash met on a read of bytes [lo, hi) of one stripe unit: reads counted; a failed page, or a unit whose controller is not
available, rebuilt from the other 15; poisoned zeros where the unit is lost or its rebuild fails (R261, R263, R273, R275). -/
def t3Errors (s : State) (x : Source) (lo hi : Nat) (r : PieceResult) : State :=
  if min hi x.tensor.len ≤ lo then s
  else
    let c := byteCtl x.num lo
    let n := min hi x.tensor.len - lo
    let direct := readsDirect s c
    let lost := readLost s x lo r
    let known := x.tensor.lost.contains (lo / unitBytes)
    let s := { s with draws := s.draws + 1 }
    let s := if direct && !known then pagesRead s c r.unit n r.margin else s
    let s := if direct && r.eccFail && !known then queueUnit s c r.unit else s
    let s := if (!direct || r.eccFail) && !known then rebuildReads (cntAdd s 0 0 0x700148 1) c n r.others else s
    if lost then dataLost s c 1 else s

/-- Units of a copy: its tensors and its directory. -/
def copyUnits (c : WCopy) : Nat := 1 + (c.tensors.map (fun e => unitsOf e.2.len)).sum

/-- Units of a copy that may be absent. -/
def optUnits : Option WCopy → Nat
  | some c => copyUnits c
  | none => 0

/-- The copies of a set whose erase is not complete. -/
def erasingOf (s : State) (m : Nat) : List WCopy := (s.wst.erasing.filter (fun e => e.1 == m)).map (·.2)

/-- Units held by a set's copies (R276, R278). -/
def setUnits (s : State) (m : Nat) : Nat :=
  optUnits (mset s m).cur + optUnits (mset s m).other + ((erasingOf s m).map copyUnits).sum

/-- Units all base sets hold, with those of base writes in progress. -/
def baseUnits (s : State) : Nat :=
  ((List.range 256).map (setUnits s)).sum + ((s.wst.xfers.filter (fun e => e.2.base)).map (fun e => unitsOf e.2.len)).sum

/-- TIER_T3_FREE (R276). -/
def t3Free (s : State) : Nat := 1430511 - baseUnits s - (partNums.map (fun p => (s.part p).t3Units)).sum

/-- Units a partition's additions hold (R256). -/
def addUnits (s : State) (p : Nat) : Nat :=
  ((s.wst.adds.filter (fun e => e.1 / 2 ^ 34 == p)).map (fun e => unitsOf e.2.len)).sum

/-! ## T2 as the source of a tensor -/

/-- The word of T2 at any partition address. -/
def t2WordU (s : State) (p a : Nat) : PWord :=
  if a % 4 = 0 then t2Word s p a
  else
    let lo := t2Word s p (a / 4 * 4)
    let hi := t2Word s p (a / 4 * 4 + 4)
    let v : BitVec 64 := (hi.val ++ lo.val) >>> (8 * (a % 4))
    ⟨v.truncate 32, lo.poison || hi.poison⟩

/-- A tensor of `len` bytes read from T2; bytes beyond its length in its last word are zero. -/
def t2Tensor (s : State) (p a len : Nat) : Tensor :=
  { words := (List.range ((len + 3) / 4)).map (fun i =>
      let w := t2WordU s p (a + 4 * i)
      let k := min 4 (len - 4 * i)
      ⟨w.val &&& BitVec.ofNat 32 (2 ^ (8 * k) - 1), w.poison⟩), len := len }

/-- Whether a base write to set m is in progress (R266). -/
def writing (s : State) (m : Nat) : Bool := s.wst.xfers.any (fun e => e.2.base && e.2.mset == m)

/-- The copy of a set under construction. -/
def building (m : MSet) : Option WCopy :=
  match m.st with
  | .installing => m.cur
  | .building => m.other
  | _ => none

/-- Whether a key slot holds a key (R430). -/
def keyPresent (s : State) (k : Nat) : Bool := decide (1 ≤ k ∧ k ≤ 256) && (Tab.find s.sec.keys k).isSome

/-- Copies that hold a key slot (R430, R436). -/
def keyUsers (s : State) (k : Nat) : Nat :=
  let one (c : Option WCopy) : Nat := match c with
    | some c => if c.key = k then 1 else 0
    | none => 0
  (s.wst.sets.map (fun e => one e.2.cur + one e.2.other)).sum + (s.wst.erasing.filter (fun e => e.2.key == k)).length

/-- The code of WST_XFER_STATUS (R278). -/
def xferCode (s : State) (p : Nat) (c : Word) : State := regSet s p 0 0x70001C c

/-- Whether some transfer reads generation g of set m (R266, R269). -/
def readsCopy (s : State) (m : Nat) (g : Word) : Bool :=
  let own (x : Option Source) : Bool := match x with
    | some x => x.own == some (m, g)
    | none => false
  s.streams.any (fun e => own e.2.src || e.2.flights.any (fun f => own f.src))

end Sys2Proof.Machine
end

