-- ==== Sys2Proof/Machine/StrmOps.lean ====
section
/-! DEFINITION. Streams as their commands use them: the entry and its checks (R283 to R286), the walk (R285), sparse images (R156,
R161 to R166, R299), masks (R297, R298), and what an engine writes to its windows (R290 to R292, R295). -/

namespace Sys2Proof.Machine

/-! ## The entry (R283) -/

def Stream.w (x : Stream) (i : Nat) : Word := x.entry.getD i 0
def Stream.valid (x : Stream) : Bool := (x.w 0).getLsbD 31
def Stream.kind (x : Stream) : Nat := fld (x.w 0) 30 28
def Stream.engine (x : Stream) : Nat := fld (x.w 0) 27 22
def Stream.selMode (x : Stream) : Nat := fld (x.w 0) 21 20
def Stream.colAxis (x : Stream) : Bool := (x.w 0).getLsbD 19
def Stream.img (x : Stream) : Bool := (x.w 0).getLsbD 18
def Stream.rep (x : Stream) : Bool := (x.w 0).getLsbD 17
def Stream.gen (x : Stream) : Nat := fld (x.w 0) 15 0
def Stream.tierA (x : Stream) : BitVec 64 := x.w 2 ++ x.w 1
def Stream.droute (x : Stream) : Nat := fld (x.w 3) 31 24
def Stream.bufs (x : Stream) : Nat := fld (x.w 3) 23 16
def Stream.wbase (x : Stream) : Nat := fld (x.w 3) 12 0
def Stream.members (x : Stream) : Nat := fld (x.w 4) 31 24 + 1
def Stream.bufChunks (x : Stream) : Nat := fld (x.w 4) 23 14 + 1
def Stream.dst (x : Stream) : Nat := (x.w 3).toNat + 2 ^ 32 * fld (x.w 4) 15 0
def Stream.len (x : Stream) : Nat := (x.w 5).toNat + 2 ^ 32 * (if x.kind = 3 then fld (x.w 6) 4 0 else fld (x.w 6) 3 0)
def Stream.maskAddr (x : Stream) : Nat := (x.w 5).toNat * 2 ^ 12 + fld (x.w 6) 3 0 * 2 ^ 44
def Stream.chime (x : Stream) : Nat := fld (x.w 6) 31 16
def Stream.groupBase (x : Stream) : Nat := fld (x.w 6) 15 4
def Stream.chEn (x : Stream) : Bool := (x.w 7).getLsbD 31
def Stream.dims (x : Stream) : Nat := fld (x.w 7) 30 28 + 1
def Stream.queue (x : Stream) : Nat := fld (x.w 7) 27 24
def Stream.fenceEvery (x : Stream) : Nat := fld (x.w 7) 23 16
def Stream.mt (x : Stream) : Word := x.w 10
def Stream.masked (x : Stream) : Bool := x.selMode != 0
def Stream.isWindow (x : Stream) : Bool := decide (x.kind ≤ 2)

/-- The count of dimension d. -/
def Stream.count (x : Stream) (d : Nat) : Nat :=
  1 + (match d with
    | 0 => fld (x.w 7) 15 0
    | 1 => fld (x.w 8) 15 0
    | 2 => fld (x.w 8) 31 16
    | 3 => fld (x.w 9) 15 0
    | _ => fld (x.w 9) 31 16)

/-- The stride of dimension d, in 32-byte units. -/
def Stream.stride (x : Stream) (d : Nat) : Int := (x.w (11 + d)).toInt

/-- Chunks of the walk (R285). -/
def Stream.chunks (x : Stream) : Nat := ((List.range x.dims).map x.count).foldl (· * ·) 1

/-- Chunks of one iteration of the outermost dimension. -/
def Stream.inner (x : Stream) : Nat := ((List.range (x.dims - 1)).map x.count).foldl (· * ·) 1

/-- The byte offset of chunk j from the start of the walk (R285). -/
def Stream.chunkOff (x : Stream) (j : Nat) : Int :=
  32 * ((List.range x.dims).foldl (fun (a : Int × Nat) d => (a.1 + Int.ofNat (a.2 % x.count d) * x.stride d, a.2 / x.count d)) (0, j)).1

/-- Whether a T3_IN walk is strictly increasing (R285). -/
def Stream.increasing (x : Stream) : Bool :=
  (List.range x.dims).all (fun d =>
    let below := (List.range d).foldl (fun a i => a + Int.ofNat (x.count i - 1) * x.stride i) (0 : Int)
    decide (below < x.stride d ∧ 1 ≤ x.stride d))

/-- Whether every count and stride at or beyond dimension n is zero. -/
def Stream.walkZeroFrom (x : Stream) (n : Nat) : Bool :=
  ((List.range 5).filter (fun d => decide (n ≤ d))).all (fun d => x.count d == 1 && x.stride d == 0)

/-- Why an entry is refused at ATTACH (`att`) or START (R286). -/
def Stream.bad (x : Stream) (att : Bool) : Bool :=
  let k := x.kind
  let win := x.isWindow
  let zeroed := (x.w 0).getLsbD 16 ||
    (win && (fld (x.w 3) 15 13 != 0 || fld (x.w 4) 13 0 != 0)) ||
    (!win && fld (x.w 4) 31 16 != 0) ||
    (win && !x.masked && (x.w 5 != 0 || fld (x.w 6) 15 0 != 0)) ||
    (!win && (if k = 3 then fld (x.w 6) 15 5 != 0 else fld (x.w 6) 15 4 != 0)) ||
    (x.masked && x.chEn) || (!x.masked && x.w 10 != 0) ||
    ((k == 0 || k == 2 || k == 4) && fld (x.w 2) 31 16 != 0)
  !x.valid || decide (4 < k) || zeroed ||
  ((k == 0 || k == 2 || k == 4) && fld (x.w 1) 4 0 != 0) || (!win && fld (x.w 3) 4 0 != 0) ||
  (k == 1 && !x.img && !x.increasing) ||
  (x.masked && (k == 2 || k == 3 || k == 4)) ||
  (!x.colAxis && !x.img && x.masked) ||
  (k == 2 && x.members != 1) ||
  (x.img && (x.dims != 1 || !x.walkZeroFrom 0)) ||
  (x.fenceEvery != 0 && !win) ||
  (win && decide (255 < x.droute + x.members - 1)) ||
  decide (47 < x.engine) || decide (5 < x.dims) || !x.walkZeroFrom x.dims ||
  (win && x.bufs == 0) || (att != win) ||
  (k == 4 && x.len != 32 * x.chunks)

/-! ## Places -/

/-- The module number of stream n of partition p, if it is in its grant (R282). -/
def streamKey (s : State) (p n : Nat) : Option Nat := if n < (s.part p).strmCount then some ((s.part p).strmBase + n) else none

def stream (s : State) (k : Nat) : Stream := Tab.get {} s.streams k
def setStream (s : State) (k : Nat) (x : Stream) : State := { s with streams := Tab.put s.streams k x }

/-- Whether a stream is IDLE, attaching or not (R302, R492). -/
def Stream.isIdle (x : Stream) : Bool := x.st == .idle || x.st == .genMismatch || x.st == .badEntry || x.st == .noRoom

/-- Whether a stream is attaching (R492). -/
def Stream.attaching (x : Stream) : Bool := x.isIdle && x.attached != 0

def StrmSt.code : StrmSt → Nat
  | .idle => 0 | .active => 1 | .fenceWait => 2 | .maskWait => 3 | .done => 4 | .genMismatch => 5 | .badEntry => 6
  | .noRoom => 7 | .copying => 9

/-- Whether every place of an engine's cache holds a stream that is not IDLE (R288). -/
def cacheFull (s : State) (e : Nat) : Bool :=
  decide ((if e < 16 then 86 else 85) ≤
    (s.streams.filter (fun r => r.2.engine == e && (!r.2.isIdle || r.2.attaching))).length)

/-- A STRM_FAULT bit of partition p (R308). -/
def strmFault (s : State) (p : Nat) (b : Word) : State := regOr s p 0 0x300020 b

/-- Metadata events of a stream (R299). -/
def metaAdd (s : State) (p k n : Nat) : State :=
  if n = 0 then s
  else
    let x := stream s k
    let m := x.metaCnt.toNat + n
    let s := setStream s k { x with metaCnt := BitVec.ofNat 32 (min m (2 ^ 32 - 1)) }
    strmFault (cntAdd s p 0 0x3000C8 n) p 4

/-- Poisoned words moved (R301). -/
def poisonMoved (s : State) (p n : Nat) : State :=
  if n = 0 then s else strmFault (cntAdd s p 0 0x3000C0 n) p 2

/-- An engine-reserve entry lost in both copies (R441): where it lies is not given, so stack and frame are free. -/
def reserveLost (s : State) : State :=
  let (a, s) := drawNat s
  let (b, s) := drawNat s
  let stack := a % 24
  reportF s 0x2C .unit 2 (BitVec.ofNat 32 (168 + stack)) (BitVec.ofNat 32 stack) (BitVec.ofNat 32 (stack * 32768 + b % 4))

/-! ## What a window receives (R291, R292, R295) -/

/-- The STAT word of member m. -/
def Stream.statWord (x : Stream) (m : Nat) : PWord :=
  ⟨BitVec.ofNat 32 (Tab.get 0 x.writtenM m % 65536 + x.fence % 65536 * 65536), false⟩

/-- The state word. -/
def Stream.stateWord (x : Stream) : PWord := ⟨BitVec.ofNat 32 (x.gen * 65536 + x.st.code), false⟩

/-- Writes STAT, and STAT + 4 where `full`, to some members. -/
def sendStat (s : State) (p k : Nat) (full : Bool) (ms : List Nat) : State :=
  let x := stream s k
  ms.foldl (fun s m => engineSend s x.engine p (x.droute + m) x.stat
    (x.statWord m :: (if full then [x.stateWord] else []))) s

/-- Writes the state word alone at `stat` + 4 to some members. -/
def sendState (s : State) (p k stat : Nat) (ms : List Nat) : State :=
  let x := stream s k
  ms.foldl (fun s m => engineSend s x.engine p (x.droute + m) (stat + 4) [x.stateWord]) s

/-- Every member of a stream. -/
def Stream.all (x : Stream) : List Nat := List.range x.members

/-- Moves to a state, written to every member with its STAT. -/
def toState (s : State) (p k : Nat) (st : StrmSt) : State :=
  let s := setStream s k { stream s k with st := st }
  sendStat s p k true (stream s k).all

/-- Segments of a buffer that follow on from each other joined. -/
def joinSegs : List (Nat × List PWord) → List (Nat × List PWord)
  | [] => []
  | (a, ws) :: t => match joinSegs t with
    | (b, vs) :: r => if b = a + 4 * ws.length then (a, ws ++ vs) :: r else (a, ws) :: (b, vs) :: r
    | [] => [(a, ws)]

/-- Cuts words into packets of at most 16,382 (R292). -/
def cutWords (a : Nat) (ws : List PWord) : Nat → List (Nat × List PWord)
  | 0 => []
  | n + 1 => if ws.length ≤ 16382 then (if ws.isEmpty then [] else [(a, ws)])
    else (a, ws.take 16382) :: cutWords (a + 4 * 16382) (ws.drop 16382) n

/-- A buffer goes to the next ring place of member m: its packets, its bytes counted (R291, R292). -/
def sendBuffer (s : State) (p k m : Nat) (segs : List (Nat × List PWord)) : State :=
  let x := stream s k
  let place := Tab.get 0 x.writtenM m % x.bufs
  let base := 32 * x.wbase + place * 32 * x.bufChunks
  let pkts := (joinSegs segs).flatMap (fun g => cutWords (base + g.1) g.2 4)
  let s := pkts.foldl (fun s g => engineSend s x.engine p (x.droute + m) g.1 g.2) s
  let s := setStream s k { x with writtenM := Tab.set 0 x.writtenM m (Tab.get 0 x.writtenM m + 1) }
  cntAdd s p 0 0x3000D0 (4 * (segs.map (fun g => g.2.length)).sum)

/-- FR has reached fence n (R115, R295). -/
def frReached (fr : BitVec 16) (n : Nat) : Bool := decide ((fr - BitVec.ofNat 16 n).toNat < 2 ^ 15)

/-- Whether no unreleased fence lies before the buffer numbered n, from 1 (R294, R295). -/
def Stream.fenceOpen (x : Stream) (n : Nat) : Bool :=
  x.fenceEvery == 0 || (n - 1) / x.fenceEvery == 0 || frReached x.fr ((n - 1) / x.fenceEvery)

/-- One more buffer of the stream is written or drained; at a fence every member's STAT shows it (R295). -/
def countBuffer (s : State) (p k : Nat) (ms : List Nat) : State :=
  let x := stream s k
  let n := x.numbered + 1
  let at' := x.fenceEvery != 0 && n % x.fenceEvery == 0
  let f := if at' then n / x.fenceEvery else x.fence
  let s := setStream s k { x with numbered := n, fence := f }
  sendStat s p k false (if at' then x.all else ms)

/-- ACTIVE at an unreleased fence becomes FENCE_WAIT (R295, R303). -/
def settleFence (s : State) (p k : Nat) : State :=
  let x := stream s k
  if x.st = .active ∧ x.fenceEvery ≠ 0 ∧ x.fence ≠ 0 ∧ frReached x.fr x.fence = false then toState s p k .fenceWait else s

/-! ## The source (R246, R269, R285) -/

/-- The word at byte offset `off` of a stream's source. -/
def sourceWord (s : State) (p : Nat) (x : Stream) (off : Nat) : PWord :=
  if x.kind = 1 ∨ x.kind = 3 then
    match x.src with
    | some r => srcWord r off
    | none => ⟨0, false⟩
  else t2Word s p (x.tierA.toNat + off)

/-- The word at byte offset `off` among the words that have come of an image. -/
def segWord (segs : List (Nat × List PWord)) (off : Nat) : PWord :=
  (segs.findSome? (fun g => if g.1 ≤ off ∧ off < g.1 + 4 * g.2.length then g.2[(off - g.1) / 4]? else none)).getD ⟨0, false⟩

/-- The header of a sparse image, words 0 to 7 (R161). -/
def imgHead (x : Stream) (i : Nat) : Word := (segWord x.hdr (4 * i)).val

def imgK (x : Stream) : Nat := fld (imgHead x 0) 15 0
def imgTiles (x : Stream) : Nat := (imgHead x 2).toNat
def imgBytes (x : Stream) : Nat := (imgHead x 4).toNat

/-- Word i of the directory entry of tile t (R162). -/
def imgDir (x : Stream) (t i : Nat) : PWord := segWord x.hdr (32 + 32 * t + 4 * i)

/-- Whether the header satisfies R161. -/
def imgHeadOk (x : Stream) : Bool :=
  let h := imgHead x
  let k := fld (h 0) 15 0
  decide (fld (h 0) 31 24 = 1 ∧ fld (h 0) 23 20 = 1 ∧ fld (h 0) 19 16 = 0 ∧ k % 32 = 0 ∧ 32 ≤ k ∧ k ≤ 4096 ∧
    (h 1).toNat % 16 = 0 ∧ (h 2).toNat = (h 1).toNat / 16 ∧ (h 4).toNat % 32 = 0 ∧ h 5 = 0 ∧ h 6 = 0 ∧ h 7 = 0) &&
  decide ((h 3).toNat = ((List.range (h 2).toNat).map (fun t => fld (imgDir x t 3).val 15 0)).sum)

/-- A tile's hierarchy as stored: block-rows with their 16-bit column masks in order, and how many words it takes (R154). -/
def readHier (rd : Nat → Nat) : List (Nat × Nat) × Nat :=
  let segs := bitsOf (rd 0)
  let rows := segs.zipIdx.flatMap (fun e => (bitsOf (rd (1 + e.2))).map (fun b => 16 * e.1 + b))
  let base := 1 + segs.length
  (rows.zipIdx.map (fun e => (e.1, rd (base + e.2))), base + rows.length)

/-- The hierarchy words of some block-rows (R154). -/
def writeHier (rows : List (Nat × Nat)) : List Nat :=
  let seg (b : Nat) : List (Nat × Nat) := rows.filter (fun r => r.1 / 16 == b)
  let used := (List.range 16).filter (fun b => !(seg b).isEmpty)
  let l1 := (used.map (2 ^ ·)).sum
  let l2 := used.map (fun b => ((seg b).map (fun r => 2 ^ (r.1 % 16))).sum)
  l1 :: l2 ++ used.flatMap (fun b => (seg b).map (·.2))

/-- The present blocks of some block-rows, in bitmap index order (R155). -/
def blocksOf (rows : List (Nat × Nat)) : List (Nat × Nat) := rows.flatMap (fun r => (bitsOf r.2).map (fun c => (r.1, c)))

/-- The spans (j, c) for which some block-rows store a scale, ascending j then c (R163). -/
def spansOf (rows : List (Nat × Nat)) : List (Nat × Nat) :=
  let bs := blocksOf rows
  let js := ((rows.map (fun r => r.1 / 2)).dedup).mergeSort
  js.flatMap (fun j => ((List.range 16).filter (fun c => bs.contains (2 * j, c) || bs.contains (2 * j + 1, c))).map (fun c => (j, c)))

/-- 16-bit words as 32-bit words, the last padded with `pad`. -/
def packHalf (pad : Nat) : List Nat → List Word
  | [] => []
  | [a] => [BitVec.ofNat 32 (a + 65536 * pad)]
  | a :: b :: t => BitVec.ofNat 32 (a + 65536 * b) :: packHalf pad t

/-- Rounds up to a multiple of 32. -/
def ceil32 (n : Nat) : Nat := (n + 31) / 32 * 32

/-- The descriptor image of a delivered tile at address a (R156): `pk` and `pn` are the tags of the words that K and NNZ come from. -/
def tileDesc (a k nnz : Nat) (w5 : PWord) (pk pn : Bool) : List PWord :=
  [⟨BitVec.ofNat 32 (2 * 2 ^ 28 + 2 ^ 24 + 2 ^ 23 + k), pk⟩, ⟨BitVec.ofNat 32 (a + 608 + ceil32 (k / 2)), pk⟩,
   ⟨BitVec.ofNat 32 nnz, pn⟩, ⟨BitVec.ofNat 32 (a + 608), false⟩, ⟨BitVec.ofNat 32 (a + 32), false⟩, w5,
   ⟨0, false⟩, ⟨0, false⟩]

/-- A tile with NNZ 0: its descriptor image and, where the buffer reaches it, the one hierarchy word 0. Where poisoned words decided that, `pn`
tags what stands for them (R301; DEDUCED, log entry 103); the other half of the hierarchy's word is not the image's and is free (log
entry 100). -/
def emptyTile (draw a k room : Nat) (w5 : PWord) (pk pn : Bool) : List (Nat × List PWord) :=
  (0, tileDesc a k 0 w5 pk pn) ::
    (if 36 ≤ room then [(32, [⟨BitVec.ofNat 32 (65536 * ((Config.freeWord draw).toNat / 65536)), pn⟩])] else [])

/-- The words that hold the stored scales: byte c × K / 32 + j from 608. A packet carries whole words, so the bytes of such a word that are not
stored have free values (R156; log entry 100). -/
def scaleSegs (draw k : Nat) (sc : List (Nat × Nat × Bool)) : List (Nat × List PWord) :=
  let ws := ((List.range (ceil32 (k / 2) / 4)).filter (fun i => sc.any (fun e => e.1 / 4 == i)))
  ws.map (fun i =>
    let byte (b : Nat) : Nat := match sc.find? (fun e => e.1 == 4 * i + b) with
      | some e => e.2.1
      | none => (Config.freeWord (draw + i)).toNat / 2 ^ (8 * b) % 256
    (608 + 4 * i, [⟨BitVec.ofNat 32 (byte 0 + 256 * byte 1 + 65536 * byte 2 + 2 ^ 24 * byte 3), sc.any (fun e => e.1 / 4 == i && e.2.2)⟩]))

/-- What a stream takes for BUF_BYTES of a tile (R156). -/
def Stream.tileFits (x : Stream) : Bool := decide (608 + ceil32 (imgK x / 2) + 8 * imgK x ≤ 32 * x.bufChunks)

/-- Whether the directory entry of tile t stands by itself: NNZ within K, offsets aligned, the packed blocks within the image (R165). -/
def dirOk (x : Stream) (t : Nat) : Bool :=
  let d (i : Nat) : Nat := (imgDir x t i).val.toNat
  decide (d 3 ≤ imgK x ∧ d 0 % 32 = 0 ∧ d 1 % 32 = 0 ∧ d 2 % 32 = 0 ∧ d 2 + 8 * d 3 ≤ imgBytes x)

/-- The halfwords of tile t's hierarchy, read by `rd` at byte offsets of the image. -/
def hierAt (x : Stream) (t : Nat) (rd : Nat → PWord) (i : Nat) : Nat :=
  let o := (imgDir x t 0).val.toNat + 2 * i
  (rd (o / 4 * 4)).val.toNat / 2 ^ (8 * (o % 4)) % 65536

/-- Tile t of a stream's image, delivered into a buffer at address a from the words that came: its segments and the metadata events (R156,
R161 to R166, R299). `x.sel` is the block-row selection of the row axis. -/
def tileSegs (draw : Nat) (x : Stream) (segs : List (Nat × List PWord)) (t a : Nat) : List (Nat × List PWord) × Nat :=
  let k := imgK x
  let room := 32 * x.bufChunks
  let w5 := imgDir x t 4
  let pk := (segWord x.hdr 0).poison
  let pd := (List.range 4).any (fun i => (imgDir x t i).poison)
  if !x.tileFits then (emptyTile draw a k room w5 pk pd, 1)
  else if !imgHeadOk x then (emptyTile draw a k room w5 pk (pk || pd || poisonedIn (x.hdr.flatMap (·.2)) != 0), 0)
  else
    let d (i : Nat) : Nat := (imgDir x t i).val.toNat
    let rdw (off : Nat) : PWord := segWord segs (off / 4 * 4)
    let (rows, nw) := readHier (hierAt x t (segWord segs))
    let blocks := blocksOf rows
    let spans := spansOf rows
    let hp := (List.range nw).any (fun i => (rdw (d 0 + 2 * i)).poison)
    if !dirOk x t || decide (blocks.length ≠ d 3 ∨ imgBytes x < d 0 + 2 * nw ∨ imgBytes x < d 1 + spans.length) then
      (emptyTile draw a k room w5 pk (pd || hp), 1)
    else
      let keep (r : Nat) : Bool := decide (r < k / 16) && (x.colAxis || !x.masked || x.sel.contains r)
      let krows := rows.filter (fun r => keep r.1 && r.2 != 0)
      let kspans := spansOf krows
      let byteAt (off : Nat) : Nat × Bool := ((rdw off).val.toNat / 2 ^ (8 * (off % 4)) % 256, (rdw off).poison)
      let sc := (spans.zipIdx.filter (fun e => kspans.contains e.1)).map (fun e =>
        (e.1.2 * (k / 32) + e.1.1, (byteAt (d 1 + e.2)).1, (byteAt (d 1 + e.2)).2))
      let bl := (blocks.zipIdx.filter (fun e => keep e.1.1)).flatMap (fun e => [rdw (d 2 + 8 * e.2), rdw (d 2 + 8 * e.2 + 4)])
      let dropped := (blocks.filter (fun b => decide (k / 16 ≤ b.1))).length
      let pad := (Config.freeWord draw).toNat / 65536
      ([(0, tileDesc a k (bl.length / 2) w5 pk (imgDir x t 3).poison),
        (32, (packHalf pad (writeHier krows)).map (fun w => ⟨w, hp⟩))] ++
        scaleSegs (draw + 1) k sc ++ (if bl.isEmpty then [] else [(608 + ceil32 (k / 2), bl)]), dropped)

/-! ## Passes (R296 to R298) -/

/-- Data chunks of the pass of a dense stream. -/
def Stream.passChunks (x : Stream) : Nat := if x.masked then x.sel.length * x.inner else x.chunks

/-- The source offset of chunk j of the pass. -/
def Stream.passOff (x : Stream) (j : Nat) : Int :=
  if x.masked then x.chunkOff (x.sel.getD (j / x.inner) 0 * x.inner + j % x.inner) else x.chunkOff j

/-- Data buffers of a dense pass. -/
def Stream.passBufs (x : Stream) : Nat := (x.passChunks + x.bufChunks - 1) / x.bufChunks

/-- Whether `total` is known: always for a dense walk, from the header for an image. -/
def Stream.totalKnown (x : Stream) : Bool := !x.img || x.headIn

/-- The source of a pass is resolved as its reading begins (R246, R269). Unresolved, the pass reads zeros. -/
def sourceBegin (s : State) (p k : Nat) : State :=
  let x := stream s k
  if x.begun then s
  else
    let x := { x with begun := true, src := if x.kind = 1 then resolve s p x.tierA else none }
    let s := setStream s k x
    if x.kind = 1 ∧ x.src = none then violate s p 2 else s

/-- Bit g of a mask array of the record at partition address a (R172, R297). -/
def maskBit (s : State) (p a g : Nat) : Bool := decide (g < 4096) && (t2Word s p (a + 4 * (g / 32))).val.getLsbD (g % 32)

/-- What a masked pass selects of the groups, relative to GROUP_BASE (R166, R297). -/
def maskSel (s : State) (p : Nat) (x : Stream) : List Nat :=
  let a := x.maskAddr + 2048 * ((x.mt + x.pass - 1).toNat % 2)
  (List.range 4096).filter (fun i =>
    let g := x.groupBase + i
    match x.selMode with
    | 1 => maskBit s p (a + 0x20) g
    | 2 => maskBit s p (a + 0x20) g || maskBit s p (a + 0x220) g
    | _ => maskBit s p (a + 0x420) g)

/-- Iterations, tiles or block-rows that a mask may select: groups beyond them select nothing (R166). -/
def Stream.selLimit (x : Stream) : Nat :=
  if !x.img then x.count (x.dims - 1) else if x.colAxis then imgTiles x else imgK x / 16

/-- Words cut into buffers of n words. -/
def cutBufs (n : Nat) (ws : List PWord) : Nat → List (List PWord)
  | 0 => []
  | f + 1 => if ws.isEmpty then [] else ws.take n :: cutBufs n (ws.drop n) f

/-- The selection buffers of a pass (R298). -/
def selectionBufs (x : Stream) (sel : List Nat) : List (List PWord) :=
  let ws := clean (x.pass :: BitVec.ofNat 32 sel.length :: packHalf 0 sel)
  cutBufs (8 * x.bufChunks) ws ws.length

/-- The selection of a masked pass is known: its selection buffers and its data buffers follow (R298). -/
def Stream.selected (x : Stream) : Stream :=
  let sel := x.sel.filter (fun i => decide (i < x.selLimit))
  let x := { x with sel := sel }
  { x with selBufs := selectionBufs x sel, total := if !x.img then x.passBufs else if x.colAxis then sel.length else imgTiles x }

/-- A pass begins: for a masked pass the record is read, and the selection made; that of an image awaits its header (R297, R298). -/
def passBegin (s : State) (p k : Nat) : State :=
  let x := stream s k
  let x := { x with begun := false, headIn := false, hdr := [], src := none, nextBuf := 0, plan := [], wrote := 0, sel := [], selBufs := [],
                    selNext := 0, pieces := [] }
  if !x.masked then
    let total := if x.img then 0 else x.passBufs
    setStream s k { x with total := total }
  else
    let s := t2Touch (setStream s k x) p (x.maskAddr + 2048 * ((x.mt + x.pass - 1).toNat % 2)) 2048
    let x := { x with sel := maskSel s p x, total := 0 }
    setStream s k (if x.img then x else x.selected)

/-- The header and directory of an image have come: the header's events, the poisoned words among them, and the buffers of the pass (R161,
R165, R299, R301). -/
def headDone (s : State) (p k : Nat) : State :=
  let x := { stream s k with headIn := true }
  let s := metaAdd (setStream s k x) p k (if imgHeadOk x then 0 else 1)
  let s := poisonMoved s p (poisonedIn (x.hdr.flatMap (·.2)))
  let x := stream s k
  setStream s k (if x.masked then x.selected else { x with total := imgTiles x })

/-- Whether member m has a free ring place (R294). -/
def Stream.placeFree (x : Stream) (m : Nat) : Bool := decide (Tab.get 0 x.issuedM m < Tab.get 0 x.freedM m + x.bufs)

/-- A buffer takes the next ring place of some members. -/
def Stream.take (x : Stream) (ms : List Nat) : Stream :=
  { x with queued := x.queued + ms.length, issuedM := ms.foldl (fun t m => Tab.set 0 t m (Tab.get 0 t m + 1)) x.issuedM }

/-- Whether the next selection buffer may be written to its next member: a place there and no fence before it (R294, R295, R298). -/
def Stream.selReady (x : Stream) : Bool :=
  x.st == .active && !x.selBufs.isEmpty && x.placeFree x.selNext && x.fenceOpen (x.queued + 1)

/-- Writes the next selection buffer to its next member; after the last member, the buffer after it follows (R298). -/
def writeSel (s : State) (p k : Nat) : State :=
  let x := stream s k
  match x.selBufs with
  | [] => s
  | b :: rest =>
    let m := x.selNext
    let x := if m + 1 < x.members then { x with selNext := m + 1 } else { x with selBufs := rest, selNext := 0 }
    countBuffer (sendBuffer (setStream s k (x.take [m])) p k m [(0, b)]) p k [m]

/-- Whether the next data buffer is whole. -/
def Stream.bufReady (x : Stream) : Bool :=
  (x.st == .active || x.st == .fenceWait) && decide (x.wrote < x.nextBuf) &&
    (x.totalKnown && (x.pieces.filter (fun q => q.buf == x.wrote)).all (fun q => q.got.isSome))

/-- The tile that buffer b of an image pass holds. -/
def Stream.tile (x : Stream) (b : Nat) : Nat := if x.masked && x.colAxis then x.sel.getD b 0 else b

/-- Writes the next data buffer to its member: the words that came, or the tile made of them; poisoned words that came are counted (R291,
R292, R299, R301). -/
def writeData (s : State) (p k : Nat) : State :=
  let x := stream s k
  let came := (x.pieces.filter (fun q => q.buf == x.wrote)).flatMap (fun q => q.got.getD [])
  let m := x.wrote % x.members
  let base := 32 * x.wbase + Tab.get 0 x.writtenM m % x.bufs * 32 * x.bufChunks
  let out := if x.img then tileSegs s.draws x came (x.tile x.wrote) base else (came, 0)
  let s := { s with draws := s.draws + (if x.img then 513 else 0) }
  let s := setStream s k { x with wrote := x.wrote + 1, pieces := x.pieces.filter (fun q => q.buf != x.wrote) }
  let s := poisonMoved (metaAdd s p k out.2) p (poisonedIn (came.flatMap (·.2)))
  countBuffer (sendBuffer s p k m out.1) p k [m]

/-- A watch of the stream's mask chime is posted at its home (R297). -/
def maskWatch (s : State) (p k : Nat) : State :=
  let x := stream s k
  let s := if x.chime < (s.part p).chimeCount then s else violate s p 3
  { s with watches := s.watches ++ [⟨watchKey s p x.chime, x.mt + x.pass, .stream k⟩] }

/-- A stream's watch is withdrawn. -/
def unwatch (s : State) (k : Nat) : State := { s with watches := s.watches.filter (fun w => w.who != .stream k) }

/-- The walk completes: the pass is counted, CHIME advances, the walk restarts or the stream is DONE (R296). -/
def walkDone (s : State) (p k : Nat) : State :=
  let x := stream s k
  let s := setStream s k { x with pass := x.pass + 1, src := none, begun := false }
  let s := if x.chEn && !x.masked then partAdvance s p x.chime 1 else s
  if !x.rep then toState s p k .done
  else if x.masked then maskWatch (toState s p k .maskWait) p k
  else passBegin s p k

/-- Whether the walk of the pass is complete. -/
def Stream.walkEnd (x : Stream) : Bool :=
  (x.st == .active || x.st == .fenceWait) && x.selBufs.isEmpty && x.totalKnown && x.wrote == x.total

/-- Goes on as far as the stream can without a tier: selection buffers, whole data buffers in order, the end of the walk, a
fence (R294 to R296). -/
def progress (s : State) (p k : Nat) : Nat → State
  | 0 => s
  | fuel + 1 =>
    let x := stream s k
    if x.selReady then progress (writeSel s p k) p k fuel
    else if x.bufReady then progress (writeData s p k) p k fuel
    else if x.walkEnd then settleFence (walkDone s p k) p k
    else settleFence s p k

/-- How many steps `progress` can take. -/
def Stream.fuel (x : Stream) : Nat := x.members * x.selBufs.length + x.nextBuf - x.wrote + 2

/-- `progress` with fuel enough. -/
def goOn (s : State) (p k : Nat) : State := progress s p k (stream s k).fuel

/-! ## Pieces (R281, R294) -/

/-- The T2 address of a source offset. -/
def Stream.t2Addr (x : Stream) (off : Int) : Nat := (Int.ofNat x.tierA.toNat + off).toNat % 2 ^ 48

/-- Bytes [lo, hi) cut at multiples of u. -/
def cutAt (u lo hi : Nat) : List (Nat × Nat) :=
  ((List.range ((hi + u - 1) / u - lo / u)).map (fun i => (max lo ((lo / u + i) * u), min hi ((lo / u + i + 1) * u)))).filter
    (fun r => decide (r.1 < r.2))

/-- Chunks, each at a place and a source offset, joined to runs of at most n words. -/
def joinRuns (n : Nat) (cs : List (Nat × Int)) : List (Nat × Int × Nat) :=
  (cs.foldl (fun acc c => match acc with
    | (q, a, w) :: t => if c.1 = q + 4 * w ∧ c.2 = a + 4 * Int.ofNat w ∧ w + 8 ≤ n then (q, a, w + 8) :: t else (c.1, c.2, 8) :: acc
    | [] => [(c.1, c.2, 8)]) []).reverse

/-- Pieces of a walk in T2: runs of at most 4 KiB (R281). -/
def t2Pieces (buf : Nat) (cs : List (Nat × Int)) : List Piece := (joinRuns 1024 cs).map (fun r => { buf := buf, runs := [r] })

/-- Pieces of a T3 tensor of `len` bytes that read bytes [lo, hi) of it and deliver the chunks, which lie there or beyond the tensor: one for
each stripe unit (R281, R285). -/
def t3Pieces (buf len lo hi : Nat) (cs : List (Nat × Int)) : List Piece :=
  let ends := (cs.map (fun c => c.2.toNat + 32)).foldl max hi
  (cutAt unitBytes lo ends).filterMap (fun r =>
    let mine := cs.filter (fun c => decide (r.1 ≤ c.2.toNat ∧ c.2.toNat < r.2))
    if mine.isEmpty ∧ min hi len ≤ r.1 then none
    else some { buf := buf, runs := joinRuns 65536 mine, lo := r.1, hi := min (min r.2 hi) len })

/-- The length of the tensor a stream reads; 0 where its handle does not resolve. -/
def Stream.srcLen (x : Stream) : Nat := match x.src with
  | some r => r.tensor.len
  | none => 0

/-- The pieces of data buffer b of a dense pass. An unmasked T3_IN pass reads the whole tensor: the bytes from the end of the buffer before on,
and with the last buffer those to its end; a masked one the selected chunks (R285, R297). -/
def densePieces (x : Stream) (b : Nat) : List Piece :=
  let lo := b * x.bufChunks
  let cs := (List.range (min x.bufChunks (x.passChunks - lo))).map (fun i => (32 * i, x.passOff (lo + i)))
  if x.kind ≠ 1 then t2Pieces b cs
  else if x.masked then
    (joinRuns 65536 cs).flatMap (fun r =>
      t3Pieces b x.srcLen r.2.1.toNat (r.2.1.toNat + 4 * r.2.2) ((List.range (r.2.2 / 8)).map (fun i => (r.1 + 32 * i, r.2.1 + 32 * Int.ofNat i))))
  else
    let from' := if b = 0 then 0 else (x.passOff (lo - 1)).toNat + 32
    let last := (x.passOff (lo + cs.length - 1)).toNat + 32
    t3Pieces b x.srcLen from' (if b + 1 = x.total then max last x.srcLen else last) cs

/-- Pieces that read bytes [lo, hi) of an image, a multiple of 4, as they stand. -/
def imgSpan (x : Stream) (buf : Nat) (head : Bool) (lo hi : Nat) : List Piece :=
  (cutAt (if x.kind = 1 then unitBytes else 4096) (lo / 4 * 4) ((hi + 3) / 4 * 4)).map (fun r =>
    { buf := buf, head := head, runs := [(r.1, Int.ofNat r.1, (r.2 - r.1) / 4)], lo := r.1, hi := r.2 })

/-- The pieces of the tile of buffer b: its hierarchy, its scales and its packed blocks, as far as they go; none of a tile that is delivered
with NNZ 0 whatever they hold (R161 to R166). -/
def tilePieces (s : State) (p : Nat) (x : Stream) (b : Nat) : List Piece :=
  let t := x.tile b
  if !x.tileFits || !imgHeadOk x || !dirOk x t then []
  else
    let d (i : Nat) : Nat := (imgDir x t i).val.toNat
    let (rows, nw) := readHier (hierAt x t (sourceWord s p x))
    [(d 0, 2 * nw), (d 1, (spansOf rows).length), (d 2, 8 * d 3)].flatMap (fun r =>
      imgSpan x b false r.1 (min (r.1 + r.2) (imgBytes x)))

/-- The pieces of the next buffer of a pass, or of an image's header and directory while they have not come. -/
def piecesOf (s : State) (p : Nat) (x : Stream) (b : Nat) : List Piece :=
  if !x.img then densePieces x b else if x.headIn then tilePieces s p x b else imgSpan x 0 true 0 32

/-- Pieces of a copy: of a T3 tensor in stripe units; of a T2 walk in runs of at most 4 KiB (R281, R300). -/
def copyPieces (x : Stream) : List Piece :=
  if x.kind = 3 then
    (cutAt unitBytes 0 x.len).map (fun r =>
      { runs := [(r.1, Int.ofNat r.1, (r.2 - r.1 + 3) / 4)], lo := r.1, hi := min r.2 x.srcLen })
  else t2Pieces 0 ((List.range x.chunks).map (fun j => (32 * j, x.chunkOff j)))

/-- Pieces the queue q of partition p has outstanding at engine e, those of detached streams among them (R281, R304). -/
def queuedPieces (s : State) (p e q : Nat) : Nat :=
  let lo := (s.part p).strmBase
  let mine := s.streams.filter (fun r => decide (lo ≤ r.1 ∧ r.1 < lo + (s.part p).strmCount))
  ((mine.filter (fun r => r.2.engine == e && r.2.queue == q)).map (fun r => (r.2.pieces.filter (fun i => i.got.isNone)).length)).sum +
    (mine.map (fun r => (r.2.flights.filter (fun f => f.eng == e && f.queue == q)).length)).sum

/-- Words of a piece, and bytes. -/
def Piece.words (q : Piece) : Nat := (q.runs.map (·.2.2)).sum
def Piece.size (q : Piece) : Nat := 4 * q.words

/-- The T2 address a piece begins at, for a stream whose source is T2. -/
def Piece.t2 (q : Piece) (x : Stream) : Option Nat :=
  if x.kind = 1 ∨ x.kind = 3 then none else (q.runs.head?).map (fun r => x.t2Addr r.2.1)

/-- What a piece in flight reads, as it stands when its stream is detached (R304). -/
def Piece.flight (q : Piece) (x : Stream) : Flight := ⟨x.engine, x.queue, x.src, q.t2 x, q.size, q.lo, q.hi⟩

/-- The words of a piece by place: poisoned zeros where its unit is lost. -/
def pieceWords (s : State) (p : Nat) (x : Stream) (q : Piece) (lost : Bool) : List (Nat × List PWord) :=
  q.runs.map (fun r => (r.1, (List.range r.2.2).map (fun i =>
    let o := r.2.1 + 4 * Int.ofNat i
    if x.kind = 1 ∨ x.kind = 3 then
      (if lost && decide (o.toNat < q.hi) then ⟨0, true⟩ else sourceWord s p x o.toNat)
    else t2Word s p (x.t2Addr o))))

/-- Corrected and uncorrectable T2 units met by an access of partition p from address a (R437, R438): the 64-byte unit numbered
`unit` from the first is poisoned and stays so. -/
def t2Errors (s : State) (p a n ce : Nat) (ue : Bool) (unit : Nat) : State :=
  let s := if ce = 0 then s else cntAdd (cntAdd s p 0 0xD00038 ce) 0 0 0xD01018 ce
  if !ue then s
  else
    let u := (a / 64 + unit % ((n + 63) / 64)) * 64
    match frameOf s p u with
    | none => s
    | some f =>
      let m := f * frameBytes + u % frameBytes
      let tag := (List.range 16).foldl (fun t i => Tab.set false t (m / 4 + i) true) s.tiers.tag
      let s := { s with tiers := { s.tiers with tag := tag } }
      let s := cntAdd (cntAdd s p 0 0xD00040 1) 0 0 0xD01020 1
      reportP s 0x28 .unit 1 p (BitVec.ofNat 32 (168 + frameStack f)) 2 (BitVec.ofNat 32 (u / frameBytes))

/-- What the tiers met on a piece (R261, R263, R275, R437, R438). -/
def flightErrors (s : State) (p : Nat) (f : Flight) (r : PieceResult) : State :=
  match f.src, f.t2 with
  | some src, _ => t3Errors s src f.lo f.hi r
  | none, some a => t2Errors s p a f.size r.ce r.ue r.unit
  | none, none => s

/-! ## Turns (R280, R281) -/

/-- The class of a kind: 0 read, 1 write, 2 remote (R284). -/
def classOf (kind : Nat) : Nat := if kind ≤ 1 then 0 else if kind = 2 then 1 else 2

/-- Whether a stream may issue a piece: of its next buffer, of its image's header, or of its copy, with its queue under its limit (R281,
R294). -/
def issueOk (s : State) (p : Nat) (x : Stream) : Bool :=
  let m := x.nextBuf % x.members
  let due := x.plan != [] ||
    (if x.img && !x.headIn then x.pieces.isEmpty
     else x.selBufs.isEmpty && (!x.begun || decide (x.nextBuf < x.total)) && x.placeFree m && x.fenceOpen (x.queued + 1))
  (((x.kind == 0 || x.kind == 1) && x.st == .active && due) ||
    (x.st == .copying && x.begun && decide (x.nextBuf < (copyPieces x).length))) &&
    decide (queuedPieces s p x.engine x.queue < (regGet s p 0 (0x300040 + 4 * x.queue)).toNat)

/-- The partition that holds module stream k, 0 for none (R282). -/
def streamPart (s : State) (k : Nat) : Nat :=
  (partNums.find? (fun p => decide ((s.part p).strmBase ≤ k ∧ k < (s.part p).strmBase + (s.part p).strmCount))).getD 0

/-- Whether it is the turn of stream k of partition p: within its class its engine takes one piece from each queue in turn, those with no
eligible piece skipped (R281). The turn goes round partitions and queues in ascending order (DESIGN CHOICE, log entry 101). -/
def turnOk (s : State) (p k : Nat) : Bool :=
  let x := stream s k
  let last := Tab.get 0 (Tab.get ({} : EngineSt) s.engines x.engine).turn (classOf x.kind)
  let dist (p : Nat) (y : Stream) : Nat := (16 * p + y.queue + 272 - last) % 272
  s.streams.all (fun e =>
    let q := streamPart s e.1
    q == 0 || e.2.engine != x.engine || classOf e.2.kind != classOf x.kind || !issueOk s q e.2 ||
      decide (dist p x ≤ dist q e.2))

/-- The queue of stream k has had its turn. -/
def tookTurn (s : State) (p k : Nat) : State :=
  let x := stream s k
  let en := Tab.get ({} : EngineSt) s.engines x.engine
  { s with engines := Tab.put s.engines x.engine { en with turn := Tab.set 0 en.turn (classOf x.kind) (16 * p + x.queue + 1) } }

end Sys2Proof.Machine
end

