-- ==== Sys2Proof/Machine/Streams.lean ====
section
/-! DEFINITION. The commands of the edge stream engines: windows (R289 to R295), masks (R297), copies (R300) and STRM_CMD (R287,
R308). -/

namespace Sys2Proof.Machine

/-! ## STREAM packets (R289) -/

/-- The OP, stream and second word of a STREAM packet; `none` where it is discarded (R289). -/
def streamFields (p : Packet) : Option (Nat × Nat × Word) :=
  match p.pay with
  | a :: b :: _ =>
    let op := fld a.val 31 28
    if p.hdr.poison || a.poison || b.poison || fld a.val 27 16 != 0 || decide (op = 0 ∨ 4 < op) ||
        (op == 1 && b.val.getLsbD 15) || (op == 2 && b.val != 0) || (op == 4 && fld b.val 31 16 != 0) then none
    else some (op, fld a.val 15 0, b.val)
  | _ => none

/-- Handles the STREAM packet of OP `op` at the head of engine e's inbox: `f` gets the state with the packet taken and
acknowledged, the partition, the stream's module number and the second word. A stream beyond the grant is ignored and counted
(R282); one of another engine is a header loss (R289). -/
def streamPacket (s : State) (e : Nat) (op : Nat) (f : State → Nat → Nat → Word → Packet → State) : State :=
  match (engineSt s e).inbox with
  | [] => s
  | p :: _ =>
    if badAtEngine p then engineLoss s e p
    else if hType p.hdr.val ≠ 4 then s
    else match streamFields p with
      | none => engineLoss s e p
      | some (o, n, w) =>
        if o ≠ op then s
        else
          let q := packetPart s p
          match streamKey s q n with
          | none => violate (sendAck (popEngine s e) p none) q 5
          | some k =>
            if (stream s k).engine ≠ e then engineLoss s e p else f (sendAck (popEngine s e) p none) q k w p

/-- An ATTACH or a START refused with a code of its own (R290, R302, R303). -/
def refuseStream (s : State) (p k : Nat) (st : StrmSt) : State :=
  let s := setStream s k { stream s k with st := st }
  if st = .badEntry then strmFault s p 1 else s

/-- An ATTACH refused: the state word reads the code (R290). -/
def refuseAttach (s : State) (p k stat : Nat) (st : StrmSt) : State :=
  let s := refuseStream s p k st
  let x := stream s k
  if x.isWindow ∧ x.valid then sendState s p k stat x.all else s

/-- Every member has attached (R290, R291). -/
def attachDone (s : State) (p k : Nat) : State :=
  let x := stream s k
  let x := { x with fr := 0, fence := 0, numbered := 0, queued := 0, issuedM := [], writtenM := [], freedM := [], received := [], drainable := 0 }
  let s := setStream s k x
  if x.masked then maskWatch (toState s p k .maskWait) p k else passBegin (toState s p k .active) p k

/-- ATTACH, by a member that the packet's words do not name (R290, R291, R441, R492; log entry 26). -/
def execAttach (e : Engine) (a : AttachIn) (s : State) : Res :=
  .next (streamPacket s e.val 1 (fun s p k w pkt =>
    let x := stream s k
    let stat := 8 * fld w 14 0
    if !x.isIdle then strmFault s p 8
    else if a.lost then refuseAttach (reserveLost s) p k stat .badEntry
    else if x.bad true then refuseAttach s p k stat .badEntry
    else if fld w 31 16 ≠ x.gen then refuseAttach s p k stat .genMismatch
    else if !x.attaching && cacheFull s e.val then refuseAttach s p k stat .noRoom
    else
      let first := x.attached == 0
      let by' := (if first then [] else x.attBy) ++ pkt.hd.toList
      let x := { x with st := .idle, attached := x.attached + 1, attM := (if first then [] else x.attM) ++ [a.m.toNat],
                        stat := if first then stat else x.stat, attBy := by' }
      let s := setStream s k x
      if x.attached = x.members then attachDone s p k else s))

/-- A stream returns to IDLE: its buffers are discarded and its watch is withdrawn; pieces in flight complete at the engine and are discarded
then (R303, R304). -/
def streamIdle (s : State) (k : Nat) : State :=
  let x := stream s k
  unwatch (setStream s k { x with
    st := .idle, attached := 0, attM := [], attBy := [], plan := [], pieces := [], selBufs := [], received := [], drainable := 0, src := none,
    begun := false, headIn := false, hdr := [],
    flights := x.flights ++ (x.pieces.filter (fun q => q.got.isNone)).map (fun q => q.flight x) }) k

/-- DETACH (R303, R304, R492). -/
def execDetach (e : Engine) (s : State) : Res :=
  .next (streamPacket s e.val 2 (fun s p k _ _ =>
    let x := stream s k
    if x.st = .copying then s
    else if x.attaching then sendState (streamIdle s k) p k x.stat (x.attM.dedup.filter (fun m => decide (m < x.members)))
    else if x.isIdle then s
    else sendState (streamIdle s k) p k x.stat x.all))

/-- REL (R291, R293, R294, R492). -/
def relStream (s : State) (p k : Nat) (w : Word) : State :=
  let x := stream s k
  if x.isIdle ∨ x.st = .copying then strmFault s p 8
  else if x.kind = 2 then
    let room := x.received.length - x.drainable
    let s := setStream s k { x with drainable := x.drainable + min w.toNat room }
    if room < w.toNat then strmFault s p 8 else s
  else
    let m := if x.members = 1 then 0 else fld w 31 24
    let n := if x.members = 1 then w.toNat else fld w 23 0
    let room := Tab.get 0 x.writtenM m - Tab.get 0 x.freedM m
    let s := setStream s k { x with freedM := Tab.set 0 x.freedM m (Tab.get 0 x.freedM m + min n room) }
    goOn (if room < n then strmFault s p 8 else s) p k

def execRel (e : Engine) (s : State) : Res := .next (streamPacket s e.val 3 (fun s p k w _ => relStream s p k w))

/-- A fence release (R295, R303). -/
def frelStream (s : State) (p k : Nat) (f : BitVec 16) : State :=
  let x := stream s k
  if x.isIdle ∨ x.st = .copying ∨ 2 ^ 15 ≤ (f - x.fr).toNat then s
  else
    let s := setStream s k { x with fr := f }
    if x.st = .fenceWait ∧ frReached f x.fence then goOn (toState s p k .active) p k else goOn s p k

def execFrelPacket (e : Engine) (s : State) : Res :=
  .next (streamPacket s e.val 4 (fun s p k w _ => frelStream s p k (w.truncate 16)))

/-! ## STRM_CMD (R308) -/

def strmSel (s : State) (p : Nat) : Nat := fld (regGet s p 0 0x300008) 15 0
def strmCode (s : State) (p : Nat) (c : Word) : State := regSet s p 0 0x30001C c

/-- Whether a copy of the partition is in progress (R300, R308). -/
def strmBusy (s : State) (p : Nat) : Bool :=
  s.streams.any (fun e => decide ((s.part p).strmBase ≤ e.1 ∧ e.1 < (s.part p).strmBase + (s.part p).strmCount) && e.2.st == .copying)

/-- A STRM_CMD on the selected stream: ignored while BUSY; beyond the grant it counts a violation (R282). -/
def strmOp (s : State) (p : Nat) (f : Nat → State) : State :=
  if strmBusy s p then s
  else match streamKey s p (strmSel s p) with
    | none => strmCode (violate s p 5) p 0
    | some k => f k

/-- OP WRITE (R287). -/
def strmWrite (s : State) (p : Nat) : State :=
  strmOp s p (fun k =>
    let x := stream s k
    if !x.isIdle || x.attaching then strmCode s p 2
    else
      let ent := (List.range 16).map (fun i => regGet s p 0 (0x300080 + 4 * i))
      strmCode (setStream s k { entry := ent, flights := x.flights }) p 0)

def execStrmWrite (p : Vf) (s : State) : Res := .next (strmWrite s (vfPart p))

/-- OP READ: the entry goes to STRM_ENTRY0 to 15 (R308). -/
def strmRead (s : State) (p : Nat) : State :=
  strmOp s p (fun k =>
    let x := stream s k
    strmCode ((List.range 16).foldl (fun s i => regSet s p 0 (0x300080 + 4 * i) (x.w i)) s) p 0)

def execStrmRead (p : Vf) (s : State) : Res := .next (strmRead s (vfPart p))

/-- A copy begins (R242, R246, R247, R300): `begun` says that it will move its bytes. -/
def copyStart (s : State) (p k : Nat) : State :=
  let x := stream s k
  let src := if x.kind = 3 then resolve s p x.tierA else none
  let fits := t2In s p x.dst x.len
  let lenOk := match src with
    | some r => r.tensor.len == x.len
    | none => true
  let s := setStream s k { x with st := .copying, src := src, begun := fits && lenOk, nextBuf := 0, pieces := [] }
  let s := if x.kind = 3 ∧ src = none then violate s p 2 else s
  let s := if lenOk then s else violate s p 1
  let s := if fits then s else violate s p 1
  let s := if fits then s else tierFault s p 4
  strmCode s p 0

/-- OP START: `lost` as for ATTACH (R300, R303). -/
def strmStart (s : State) (p : Nat) (lost : Bool) : State :=
  strmOp s p (fun k =>
    let x := stream s k
    if !x.isIdle || x.attaching then strmCode s p 2
    else if lost then strmCode (refuseStream (reserveLost s) p k .badEntry) p 2
    else if x.bad false then strmCode (refuseStream s p k .badEntry) p 2
    else if cacheFull s x.engine then strmCode (refuseStream s p k .noRoom) p 2
    else copyStart s p k)

def execStrmStart (p : Vf) (lost : Bool) (s : State) : Res := .next (strmStart s (vfPart p) lost)

/-- OP FREL (R295). -/
def strmFrel (s : State) (p : Nat) (n : BitVec 16) : State := strmOp s p (fun k => frelStream (strmCode s p 0) p k n)

def execStrmCmdFrel (p : Vf) (n : BitVec 16) (s : State) : Res := .next (strmFrel s (vfPart p) n)

/-- A write of STRM_CMD (R308). -/
def strmCmd (s : State) (p : Nat) (v : Word) : State :=
  match fld v 31 28 with
  | 1 => strmWrite s p
  | 2 => strmRead s p
  | 3 => strmStart s p false
  | 4 => strmFrel s p (v.truncate 16)
  | _ => if strmBusy s p then s else strmCode s p 2

/-! ## Pieces -/

/-- A piece of stream k is issued: it is outstanding, and a T2 access meets the quota and a frame in copy (R242, R252, R281). -/
def issuePiece (s : State) (p k : Nat) (q : Piece) : State :=
  let x := stream s k
  let s := tookTurn (setStream s k { x with pieces := x.pieces ++ [q] }) p k
  match q.t2 x with
  | some a => t2Touch s p a q.size
  | none => s

/-- The next piece of a copy. -/
def issueCopy (s : State) (p k : Nat) : State :=
  let x := stream s k
  match (copyPieces x)[x.nextBuf]? with
  | some q => issuePiece (setStream s k { x with nextBuf := x.nextBuf + 1 }) p k q
  | none => s

/-- The next piece of a window's pass: the next buffer takes its ring place and its pieces are planned; one with no piece is whole at once. -/
def issueNext (s : State) (p k : Nat) : State :=
  let s := sourceBegin s p k
  let x := stream s k
  let head := x.img && !x.headIn
  if x.plan == [] && !head && decide (x.total ≤ x.nextBuf) then goOn s p k
  else
    let fresh := x.plan == []
    let ps := if fresh then piecesOf s p x x.nextBuf else x.plan
    let x := if fresh && !head then x.take [x.nextBuf % x.members] else x
    let step (x : Stream) (rest : List Piece) : Stream :=
      { x with plan := rest, nextBuf := if rest == [] && !head then x.nextBuf + 1 else x.nextBuf }
    match ps with
    | [] => goOn (setStream s k (step x [])) p k
    | q :: rest => issuePiece (setStream s k (step x rest)) p k q

/-- PIECE_ISSUE: stream n issues its next piece, in walk order, when its queue's turn comes (R281, R294, R300). -/
def execPieceIssue (p : Vf) (n : BitVec 16) (s : State) : Res :=
  let q := vfPart p
  match streamKey s q n.toNat with
  | none => .next s
  | some k =>
    if !issueOk s q (stream s k) || !turnOk s q k then .next s
    else if (stream s k).st = .copying then .next (issueCopy s q k)
    else .next (issueNext s q k)

/-- A piece of a copy has come: its words go to DST, its bytes and poisoned words are counted (R300, R301). -/
def copyPiece (s : State) (p k idx : Nat) (ws : List (Nat × List PWord)) : State :=
  let x := stream s k
  let s := setStream s k { x with pieces := x.pieces.eraseIdx idx }
  ws.foldl (fun s g =>
    let n := min (4 * g.2.length) (x.len - g.1)
    let s := t2WriteBytes (t2Touch s p (x.dst + g.1) n) p (x.dst + g.1) n g.2
    poisonMoved (cntAdd s p 0 0x3000D0 n) p (poisonedIn g.2)) s

/-- A piece of an image's header and directory has come: the directory is asked for when the header is there; with the last piece the pass
goes on (R161, R162). -/
def headPiece (s : State) (p k idx : Nat) (ws : List (Nat × List PWord)) : State :=
  let x := stream s k
  let x := { x with pieces := x.pieces.eraseIdx idx, hdr := x.hdr ++ ws }
  let x := if x.hdr.length = ws.length then { x with plan := imgSpan x 0 true 32 (32 + 32 * imgTiles x) } else x
  let s := setStream s k x
  if x.plan == [] && x.pieces.isEmpty then goOn (headDone s p k) p k else s

/-- What becomes of a piece that has come (R294, R299, R300). -/
def pieceCame (s : State) (p k idx : Nat) (q : Piece) (ws : List (Nat × List PWord)) : State :=
  let x := stream s k
  if x.st = .copying then copyPiece s p k idx ws
  else if q.head then headPiece s p k idx ws
  else goOn (setStream s k { x with pieces := x.pieces.set idx { q with got := some ws } }) p k

/-- PIECE_COMPLETE: the piece at place idx among those issued comes back; places beyond them name the pieces still in flight after a DETACH,
which are discarded (R294, R304; R263, R275, R437, R438). -/
def execPieceComplete (p : Vf) (n : BitVec 16) (idx : Nat) (r : PieceResult) (s : State) : Res :=
  let q := vfPart p
  match streamKey s q n.toNat with
  | none => .next s
  | some k =>
    let x := stream s k
    match x.pieces[idx]? with
    | none =>
      let i := idx - x.pieces.length
      match x.flights[i]? with
      | none => .next s
      | some f => .next (flightErrors (setStream s k { x with flights := x.flights.eraseIdx i }) q f r)
    | some pc =>
      if pc.got.isSome then .next s
      else
        let lost := match x.src with
          | some src => readLost s src pc.lo r
          | none => false
        let s := flightErrors s q (pc.flight x) r
        .next (pieceCame s q k idx pc (pieceWords s q (stream s k) pc lost))

/-! ## Outbound windows (R293) -/

/-- The outbound stream of engine e that a WRITE packet belongs to: the one its sender attached on that route; failing that,
the lowest of the partition (log entry 27). -/
def outboundOf (s : State) (e p : Nat) (pkt : Packet) : Option Nat :=
  let outs := s.streams.filter (fun r => r.2.engine == e && r.2.kind == 2 && !r.2.isIdle &&
    decide ((s.part p).strmBase ≤ r.1 ∧ r.1 < (s.part p).strmBase + (s.part p).strmCount))
  let mine := outs.find? (fun r => match pkt.hd with
    | some g => r.2.attBy.any (fun a => a.src == g.src && a.route == g.route)
    | none => false)
  (mine.or outs.head?).map (·.1)

/-- OUTBOUND_BUFFER_RECEIVE: the WRITE packet at the head of engine e's inbox is the next buffer of its stream. -/
def execOutboundBufferReceive (e : Engine) (s : State) : Res :=
  match (engineSt s e.val).inbox with
  | [] => .next s
  | p :: _ =>
    if badAtEngine p then .next (engineLoss s e.val p)
    else if hType p.hdr.val ≠ 1 then .next s
    else match outboundOf s e.val (packetPart s p) p with
      | none => .next (engineLoss s e.val p)
      | some k =>
        let s := sendAck (popEngine s e.val) p none
        let x := stream s k
        .next (setStream s k { x with received := x.received ++ [p.pay] })

/-- The runs of the walk that the next outbound buffer goes to: place in the buffer, offset, words (R285). -/
def outRuns (x : Stream) : List (Nat × Int × Nat) := (densePieces x x.wrote).flatMap (·.runs)

/-- The words of an outbound buffer written to their walk positions (R285, R301). -/
def drainWrite (s : State) (p : Nat) (x : Stream) (ws : List PWord) : State :=
  (outRuns x).foldl (fun s r =>
    let a := x.t2Addr r.2.1
    let part := (List.range r.2.2).map (fun i => ws.getD (r.1 / 4 + i) ⟨0, false⟩)
    t2Write (t2Touch s p a (4 * r.2.2)) p a part) s

/-- BUFFER_DRAINED: the oldest buffer that a REL has returned is performed in T2 (R293 to R296). -/
def execBufferDrained (p : Vf) (n : BitVec 16) (s : State) : Res :=
  let q := vfPart p
  match streamKey s q n.toNat with
  | none => .next s
  | some k =>
    let x := stream s k
    match x.received with
    | [] => .next s
    | ws :: rest =>
      if x.kind ≠ 2 ∨ x.st ≠ .active ∨ x.drainable = 0 ∨ x.fenceOpen (x.numbered + 1) = false then .next s
      else
        let bytes := ((outRuns x).map (fun r => 4 * r.2.2)).sum
        let s := drainWrite s q x ws
        let s := poisonMoved (cntAdd s q 0 0x3000D8 bytes) q (poisonedIn (ws.take (bytes / 4)))
        let x := stream s k
        let x := { x with received := rest, drainable := x.drainable - 1, wrote := x.wrote + 1, nextBuf := x.wrote + 1,
                          writtenM := Tab.set 0 x.writtenM 0 (Tab.get 0 x.writtenM 0 + 1) }
        .next (goOn (countBuffer (setStream s k x) q k [0]) q k)

/-! ## Masks and copies -/

/-- MASK_CHIME_REACHED: the mask chime is at or past MT + k (R297). -/
def execMaskChimeReached (p : Vf) (n : BitVec 16) (s : State) : Res :=
  let q := vfPart p
  match streamKey s q n.toNat with
  | none => .next s
  | some k =>
    let x := stream s k
    if x.st = .maskWait ∧ atOrPast (partChimeVal s q x.chime) (x.mt + x.pass) then
      .next (goOn (toState (passBegin (unwatch s k) q k) q k .active) q k)
    else .next s

/-- Whether every piece of a copy has been issued and has come. -/
def Stream.copied (x : Stream) : Bool := x.pieces.isEmpty && (!x.begun || decide ((copyPieces x).length ≤ x.nextBuf))

/-- COPY_COMPLETE: the copy's bytes are at DST and the stream is IDLE (R296, R300). -/
def execCopyComplete (p : Vf) (n : BitVec 16) (s : State) : Res :=
  let q := vfPart p
  match streamKey s q n.toNat with
  | none => .next s
  | some k =>
    let x := stream s k
    if x.st ≠ .copying ∨ x.copied = false then .next s
    else
      let s := setStream s k { x with pass := x.pass + 1 }
      .next (streamIdle (if x.chEn then partAdvance s q x.chime 1 else s) k)

/-- A read of the STRM_ block of partition p (R308). -/
def readStrm (s : State) (p o : Nat) : Word :=
  let x : Stream := match streamKey s p (strmSel s p) with
    | some k => stream s k
    | none => {}
  match o with
  | 0x00 => BitVec.ofNat 32 (s.part p).strmCount
  | 0x0C => BitVec.ofNat 32 (x.gen * 65536 + x.st.code)
  | 0x10 => x.pass
  | 0x14 => x.metaCnt
  | 0x18 => 0
  | 0x1C => (if strmBusy s p then bits 31 31 else 0) ||| regGet s p 0 0x30001C
  | _ => regGet s p 0 (0x300000 + o)

end Sys2Proof.Machine
end

