-- ==== Sys2Proof/Machine/Wst.lean ====
section
/-! DEFINITION. The commands of the weight store (R260 to R278). -/

namespace Sys2Proof.Machine

/-! ## WST_XFER (R267, R272, R278) -/

def xferHandle (s : State) (p : Nat) : BitVec 64 := reg64 s p 0 0x700008
def xferAddr (s : State) (p : Nat) : Nat := (reg64 s p 0 0x700000).toNat % 2 ^ 48
def xferLen (s : State) (p : Nat) : Nat := (reg64 s p 0 0x700010).toNat % 2 ^ 37

/-- Whether a transfer of the partition is in progress. -/
def xferBusy (s : State) (p : Nat) : Bool := (Tab.find s.wst.xfers p).isSome

/-- Starts a transfer: BUSY, code DONE until it ends. -/
def xferStart (s : State) (p : Nat) (x : Xfer) : State :=
  xferCode { s with wst := { s.wst with xfers := Tab.put s.wst.xfers p x } } p 0

/-- What a write of any kind is refused with first: STATE, then WORN, then LENGTH (log entry 23 gives the order). -/
def writeCode (s : State) (p : Nat) : Option Word :=
  if !(ctlsDown s).isEmpty then some 2
  else if anyWorn s then some 5
  else if xferLen s p = 0 ∨ 2 ^ 36 < xferLen s p then some 3
  else none

/-- OP WRITE_BASE (R267). -/
def writeBase (s : State) (p : Nat) : State :=
  let h := xferHandle s p
  let sl := wslot s p (hSet h)
  let m := mset s sl.mset
  if xferBusy s p then s
  else if hType' h ≠ 1 ∨ hClean h = false ∨ (s.part p).t3Slots ≤ hSet h ∨ sl.bound = false ∨ sl.write = false then xferCode s p 2
  else match building m with
    | none => xferCode s p 2
    | some c =>
      if c.count ≤ hNum h then xferCode s p 2
      else match writeCode s p with
        | some e => xferCode s p e
        | none =>
          let dup := s.wst.xfers.any (fun e => e.2.base && e.2.mset == sl.mset && e.2.tensor == hNum h)
          if (Tab.find c.tensors (hNum h)).isSome || dup then xferCode s p 4
          else if t3Free s < unitsOf (xferLen s p) then xferCode s p 6
          else xferStart s p ⟨true, hSet h, sl.mset, hNum h, xferAddr s p, xferLen s p⟩

def execWriteBase (p : Vf) (s : State) : Res := .next (writeBase s (vfPart p))

/-- Whether a handle may name an addition of the partition. -/
def addHandleOk (s : State) (p : Nat) (h : BitVec 64) : Bool :=
  hType' h == 2 && hClean h && decide (hSet h < (s.part p).t3Slots) && (wslot s p (hSet h)).bound

/-- OP WRITE_ADD (R272): beyond the quota the addition is not created, and the status still reports DONE (R249). -/
def writeAdd (s : State) (p : Nat) : State :=
  let h := xferHandle s p
  if xferBusy s p then s
  else if !addHandleOk s p h then xferCode s p 2
  else match writeCode s p with
    | some e => xferCode s p e
    | none =>
      let old := match Tab.find s.wst.adds (addKey p (hSet h) (hNum h)) with
        | some t => unitsOf t.len
        | none => 0
      if (s.part p).t3Units < addUnits s p - old + unitsOf (xferLen s p) then
        xferCode (tierFault (violate s p 2) p 8) p 0
      else xferStart s p ⟨false, hSet h, 0, hNum h, xferAddr s p, xferLen s p⟩

def execWriteAdd (p : Vf) (s : State) : Res := .next (writeAdd s (vfPart p))

/-- OP DEL_ADD (R272). -/
def delAdd (s : State) (p : Nat) : State :=
  let h := xferHandle s p
  if xferBusy s p then s
  else if !addHandleOk s p h then xferCode s p 2
  else
    let adds := Tab.drop s.wst.adds (addKey p (hSet h) (hNum h))
    xferCode { s with wst := { s.wst with adds := adds } } p 0

def execDelAdd (p : Vf) (s : State) : Res := .next (delAdd s (vfPart p))

/-- The tensor of a finished transfer enters its copy or becomes an addition. -/
def xferStore (s : State) (p : Nat) (x : Xfer) : State :=
  let s := t2Touch s p x.addr x.len
  let t := t2Tensor s p x.addr x.len
  if x.base then
    let m := mset s x.mset
    let put (c : WCopy) : WCopy := { c with tensors := Tab.put c.tensors x.tensor t }
    match m.st with
    | .installing => setMset s x.mset { m with cur := m.cur.map put }
    | .building => setMset s x.mset { m with other := m.other.map put }
    | _ => s
  else if (wslot s p x.slot).bound then
    let adds := Tab.put s.wst.adds (addKey p x.slot x.tensor) t
    { s with wst := { s.wst with adds := adds } }
  else s

/-- XFER_DONE: the transfer of partition p ends; the wear of the controllers is as measured (R267, R272, R277). -/
def execXferDone (p : Vf) (wear : List Wear) (s : State) : Res :=
  let n := vfPart p
  match Tab.find s.wst.xfers n with
  | none => .next s
  | some x =>
    let s := xferStore s n x
    let s := { s with wst := { s.wst with xfers := Tab.drop s.wst.xfers n } }
    .next (applyWear (xferCode s n 0) wear)

/-! ## Module weight sets (R265, R266) -/

def setSel (s : State) : Nat := fld (regGet s 0 0 0x700100) 7 0
def setKeySel (s : State) : Nat := fld (regGet s 0 0 0x700110) 15 0
def setRefuse (s : State) : State := regOr s 0 0 0x700118 (bits 31 31)
def setDone (s : State) : State := regOr s 0 0 0x700118 (bits 30 30)

/-- What INSTALL_BEGIN and BUILD_BEGIN are refused for. -/
def beginRefused (s : State) (tensors : Nat) : Bool :=
  !(ctlsDown s).isEmpty || tensors == 0 || !keyPresent s (setKeySel s)

/-- Slots bound to a set take a generation. -/
def latchAll (s : State) (m : Nat) (g : Word) (f : WSlot → Bool) : State :=
  let up (e : Nat × WSlot) : Nat × WSlot :=
    if e.2.bound && e.2.mset == m && f e.2 then (e.1, { e.2 with lg := g, due := false }) else e
  { s with wst := { s.wst with slots := s.wst.slots.map up } }

/-- A copy discarded: it holds its units until its erase completes (R266). -/
def eraseCopy (s : State) (m : Nat) (c : Option WCopy) : State :=
  match c with
  | some c => { s with wst := { s.wst with erasing := s.wst.erasing ++ [(m, c)] } }
  | none => s

def installBegin (s : State) (tensors : Nat) : State :=
  let m := setSel s
  if (mset s m).st ≠ .free ∨ beginRefused s tensors = true then setRefuse s
  else
    let c : WCopy := ⟨setKeySel s, 1, tensors, []⟩
    setMset s m { mset s m with st := .installing, gen := 1, cur := some c, other := none }

def execInstallBegin (tensors : BitVec 24) (s : State) : Res := .next (installBegin s tensors.toNat)

/-- COMMIT: slots bound before a set first serves latch its generation then (R268; log entry 24). -/
def commitSet (s : State) : State :=
  let m := setSel s
  let x := mset s m
  match building x with
  | none => setRefuse s
  | some c =>
    if c.tensors.length < c.count ∨ writing s m = true then setRefuse s
    else if x.st = .installing then latchAll (setMset s m { x with st := .serving }) m x.gen (fun _ => true)
    else setMset s m { x with st := .built }

def execCommit (s : State) : Res := .next (commitSet s)

def buildBegin (s : State) (tensors : Nat) : State :=
  let m := setSel s
  let x := mset s m
  if x.st ≠ .serving ∨ beginRefused s tensors = true then setRefuse s
  else
    let c : WCopy := ⟨setKeySel s, x.gen + 1, tensors, []⟩
    setMset s m { x with st := .building, other := some c }

def execBuildBegin (tensors : BitVec 24) (s : State) : Res := .next (buildBegin s tensors.toNat)

/-- SWITCH: slots with LANE 64 latch at once, the others at the next release of their lane (R266, R270). -/
def switchSet (s : State) : State :=
  let m := setSel s
  let x := mset s m
  if x.st ≠ .built then setRefuse s
  else
    let g := x.gen + 1
    let s := setMset s m { x with st := .draining, gen := g, cur := x.other, other := x.cur }
    let due (e : Nat × WSlot) : Nat × WSlot := if e.2.bound && e.2.mset == m then (e.1, { e.2 with due := true }) else e
    let s := { s with wst := { s.wst with slots := s.wst.slots.map due } }
    latchAll s m g (fun e => e.lane == 64)

def execSwitch (s : State) : Res := .next (switchSet s)

def abortSet (s : State) : State :=
  let m := setSel s
  let x := mset s m
  if writing s m then setRefuse s
  else match x.st with
    | .installing => eraseCopy (setMset s m { x with st := .free, gen := 0, cur := none }) m x.cur
    | .building => eraseCopy (setMset s m { x with st := .serving, other := none }) m x.other
    | .built => eraseCopy (setMset s m { x with st := .serving, other := none }) m x.other
    | _ => setRefuse s

def execSetAbort (s : State) : Res := .next (abortSet s)

def deleteSet (s : State) : State :=
  let m := setSel s
  let x := mset s m
  if (x.st ≠ .serving ∧ x.st ≠ .built) ∨ s.wst.slots.any (fun e => e.2.bound && e.2.mset == m) = true then setRefuse s
  else setMset s m { x with st := .deleting }

def execSetDelete (s : State) : Res := .next (deleteSet s)

/-- DRAIN_COMPLETE: every bound slot has latched G and no transfer reads the old copy (R266). -/
def execDrainComplete (m : BitVec 8) (s : State) : Res :=
  let n := m.toNat
  let x := mset s n
  if x.st ≠ .draining ∨ s.wst.slots.any (fun e => e.2.bound && e.2.mset == n && e.2.lg != x.gen) = true ∨
      readsCopy s n (x.gen - 1) = true then .next s
  else .next (setDone (eraseCopy (setMset s n { x with st := .serving, other := none }) n x.other))

/-- ERASE_COMPLETE: the oldest erase of a set's copy ends: of the copies discarded, and in DELETING then of the second and last of the current
copy, each of which holds its key slot and its units until its own erase completes; the set is then FREE (R264, R266). -/
def execEraseComplete (m : BitVec 8) (s : State) : Res :=
  let n := m.toNat
  let x := mset s n
  if !(erasingOf s n).isEmpty then .next { s with wst := { s.wst with erasing := takeFirst (fun e => e.1 == n) s.wst.erasing } }
  else if x.st ≠ .deleting then .next s
  else if x.other.isSome then .next (setMset s n { x with other := none })
  else .next (setDone (setMset s n { x with st := .free, gen := 0, cur := none }))

/-! ## Binding (R268) -/

/-- Unbinds a slot: its additions go; a transfer of it ends without effect (R268). -/
def unbindSlot (s : State) (p sl : Nat) : State :=
  let slots := Tab.drop s.wst.slots (slotKey p sl)
  let adds := s.wst.adds.filter (fun e => e.1 / 2 ^ 24 != slotKey p sl)
  { s with wst := { s.wst with slots := slots, adds := adds } }

def wstBind (s : State) (v : Word) : State :=
  let p := fld v 14 10
  let sl := fld v 9 0
  let lane := fld v 29 23
  let m := setSel s
  let x := mset s m
  if p = 0 ∨ 16 < p ∨ 64 < lane ∨ (s.part p).t3Slots ≤ sl then setRefuse s
  else if v.getLsbD 31 = false then unbindSlot s p sl
  else if (wslot s p sl).bound ∨ (serves x = false ∧ v.getLsbD 30 = false) then setRefuse s
  else
    let w : WSlot := ⟨true, v.getLsbD 30, lane, m, x.gen, false⟩
    { s with wst := { s.wst with slots := Tab.put s.wst.slots (slotKey p sl) w } }

def execWstBind (v : BitVec 32) (s : State) : Res := .next (wstBind s v)

/-! ## Controllers (R273, R274) -/

def ctlRefuse (s : State) : State := regOr s 0 0 0x700128 (bits 31 31)

def ctlOffline (s : State) (n : Nat) : State :=
  let busy := s.wst.sets.any (fun e => e.2.st == .installing || e.2.st == .building) || !s.wst.xfers.isEmpty
  if (ctl s n).st ≠ 0 ∨ ctlsDown s ≠ [] ∨ busy = true then ctlRefuse s else setCtl s n { ctl s n with st := 1 }

def execCtlOffline (n : Fin 16) (s : State) : Res := .next (ctlOffline s n.val)

def ctlOnline (s : State) (n : Nat) : State :=
  if (ctl s n).st ≠ 1 ∨ (ctl s n).failed = true then ctlRefuse s else setCtl s n { ctl s n with st := 2 }

def execCtlOnline (n : Fin 16) (s : State) : Res := .next (ctlOnline s n.val)

/-- REBUILD_DONE: every stripe unit of the controller is rewritten (R274). -/
def execRebuildDone (n : Fin 16) (s : State) : Res :=
  if (ctl s n.val).st = 2 then .next (regOr (setCtl s n.val { ctl s n.val with st := 0 }) 0 0 0x700128 (bits 30 30)) else .next s

/-- The Tambour finds a controller lost (R274). -/
def ctlLose (s : State) (n : Nat) : State :=
  if (ctl s n).st = 3 then s
  else
    let s := wstFault (loseUnits (setCtl s n { ctl s n with st := 3 }) n) 2
    reportE s 0x0A .unit 1 (BitVec.ofNat 32 (192 + n)) (BitVec.ofNat 32 n) 0

/-! ## Refresh and wear levelling (R261 to R263, R277) -/

/-- The unit of the queue with the highest read count, the first queued where counts are equal (R261). -/
def nextRefresh (c : Ctl) : Option Nat :=
  c.queue.find? (fun u => c.queue.all (fun v => decide (Tab.get 0 c.reads v ≤ Tab.get 0 c.reads u)))

/-- REFRESH_UNIT: the controller refreshes the unit at the head of its queue, unless its reserve is used up or it is not
readable (R261, R262, R277). -/
def execRefreshUnit (n : Fin 16) (wear : List Wear) (s : State) : Res :=
  let c := ctl s n.val
  match nextRefresh c with
  | none => .next s
  | some u =>
    if c.exhausted ∨ c.st = 3 then .next s
    else
      let c' := { c with queue := c.queue.filter (· != u), reads := Tab.set 0 c.reads u 0 }
      .next (applyWear (cntAdd (setCtl s n.val c') 0 0 0x700140 1) wear)

/-- REFRESH_AGE: 30 days have passed since a unit was programmed (R261). -/
def execRefreshAge (n : Fin 16) (unit : Nat) (s : State) : Res := .next (queueUnit s n.val unit)

/-- WEAR_LEVEL_MOVE: a unit moves within its controller; its page reads count, and a failed page is rebuilt (R263). -/
def execWearLevelMove (n : Fin 16) (unit : Nat) (eccFail rebuildFail : Bool) (s : State) : Res :=
  if (ctl s n.val).st = 3 then .next s
  else
    let s := unitRead s n.val unit 256 false
    .next (if eccFail then pageFailed s n.val unit (rebuildFail || (ctlsDown s).any (fun d => d != n.val && (ctl s d).st != 2)) else s)

end Sys2Proof.Machine
end

