-- ==== Sys2Proof/Machine/Tiers.lean ====
section
/-! DEFINITION. The T2 stacks: fills (R240), taking a stack offline and its migration (R250 to R252), loss (R254), scrub (R438),
and the TIER_ registers (R256). -/

namespace Sys2Proof.Machine

/-- FRAME_FILL_DONE: a frame that left a partition is zero and returns to the free pool (R240). -/
def execFrameFillDone (frame : Nat) (s : State) : Res :=
  if s.tiers.fills.contains frame then
    let s := zeroFrame s frame
    .next { s with tiers := { s.tiers with fills := s.tiers.fills.filter (· != frame) } }
  else .next s

/-- Granted frames on a stack, rising. -/
def framesOn (s : State) (n : Nat) : List Nat := ((grantedFrames s).filter (fun f => frameStack f == n)).mergeSort

/-- The partition that holds a frame and the partition frame it is. -/
def holderOf (s : State) (f : Nat) : Option (Nat × Nat) :=
  partNums.findSome? (fun p => ((s.part p).frames.findIdx? (· == f)).map (fun i => (p, i)))

/-- The next free frame: the stacks ascending from the one after `last`, the lowest free frame of each (R252). -/
def nextTarget (s : State) (stack last : Nat) : Option Nat :=
  ((List.range 24).map (fun i => (last + 1 + i) % 24)).findSome? (fun n =>
    if n = stack ∨ stackState s n ≠ 0 then none else (freeFrames s n).head?)

/-- Begins the copy of the next frame, or ends the migration: the whole stack filled with zeros, so that none of its frames waits for a fill of
its own, OFFLINE, DONE (R240, R251, R252). -/
def migrateNext (s : State) (stack : Nat) (frames : List Nat) (last : Nat) : State :=
  match frames with
  | [] =>
    let s := { s with tiers := { s.tiers with migr := none } }
    let lo := stack * 2 ^ 36
    let mem := Memory.clear s.tiers.mem lo (lo + 2 ^ 36)
    let tag := Memory.clear s.tiers.tag (lo / 4) ((lo + 2 ^ 36) / 4)
    let fills := s.tiers.fills.filter (fun f => frameStack f != stack)
    regOr (setStack { s with tiers := { s.tiers with mem := mem, tag := tag, fills := fills } } stack 2) 0 0 0x60010C (bits 30 30)
  | _ =>
    let s := { s with tiers := { s.tiers with migr := none } }
    let m : Migration := ⟨stack, frames, nextTarget s stack last, last⟩
    { s with tiers := { s.tiers with migr := some m } }

def stackRefuse (s : State) : State := regOr s 0 0 0x60010C (bits 31 31)

/-- An OFFLINE command (R251). -/
def stackOffline (s : State) (n : Nat) : State :=
  let others := (List.range 24).filter (· != n)
  let free := (others.map (fun k => (freeFrames s k).length)).sum
  if 23 < n ∨ stackState s n ≠ 0 ∨ others.any (fun k => stackState s k != 0) = true ∨ free < (framesOn s n).length then stackRefuse s
  else migrateNext (setStack s n 1) n (framesOn s n) n

def execStackOffline (n : BitVec 5) (s : State) : Res := .next (stackOffline s n.toNat)

/-- An ONLINE command (R251). -/
def stackOnline (s : State) (n : Nat) : State :=
  if 23 < n ∨ stackState s n ≠ 2 ∨ s.tiers.failed.contains n = true then stackRefuse s else setStack s n 0

def execStackOnline (n : BitVec 5) (s : State) : Res := .next (stackOnline s n.toNat)

/-- Moves a frame's contents with its tags. -/
def moveFrame (s : State) (f g : Nat) : State :=
  let s := zeroFrame s g
  let lo := f * frameBytes
  let put (t : List Host.Cell) (e : Host.Cell) : List Host.Cell :=
    if lo ≤ e.1 ∧ e.1 < lo + frameBytes then Tab.set 0 t (g * frameBytes + (e.1 - lo)) e.2 else t
  let putT (t : Tab Bool) (e : Nat × Bool) : Tab Bool :=
    if lo / 4 ≤ e.1 ∧ e.1 < (lo + frameBytes) / 4 then Tab.set false t (g * frameBytes / 4 + (e.1 - lo / 4)) e.2 else t
  let mem := s.tiers.mem.foldl put s.tiers.mem
  let tag := s.tiers.tag.foldl putT s.tiers.tag
  zeroFrame { s with tiers := { s.tiers with mem := mem, tag := tag } } f

/-- FRAME_COPY_DONE: the frame in copy has moved; its table entry switches, the old frame is zeroed, the next copy begins
(R252, R255). -/
def execFrameCopyDone (n : Fin 24) (s : State) : Res :=
  match s.tiers.migr with
  | none => .next s
  | some m =>
    if m.stack ≠ n.val then .next s
    else match m.frames, m.target with
      | f :: rest, some g =>
        match holderOf s f with
        | none => .next (migrateNext (zeroFrame s f) m.stack rest (frameStack g))
        | some (p, i) =>
          let s := moveFrame s f g
          let s := s.setPart p { s.part p with frames := (s.part p).frames.set i g }
          .next (migrateNext (tierFault s p 2) m.stack rest (frameStack g))
      | _, _ => .next s

/-- The loss of a stack or its chiplet, found by the Tambour (R251, R254, R255). -/
def stackLose (s : State) (n : Nat) : State :=
  if stackState s n = 3 then s
  else
    let s := setStack s n 3
    let s := match s.tiers.migr with
      | some m =>
        if m.stack = n then { s with tiers := { s.tiers with migr := none } }
        else if m.target.map frameStack = some n then migrateNext s m.stack m.frames m.last else s
      | none => s
    let cnt (p : Nat) : Nat := ((s.part p).frames.filter (fun f => frameStack f == n)).length
    let s := (partNums.filter (fun p => decide (0 < cnt p))).foldl (fun s p => tierFault s p 1) s
    let live := partNums.filter (fun p => decide ((s.part p).st = .live))
    let rep (s : State) (fn v : Nat) : State :=
      reportAll s [fn] 0x08 .unit 2 0 (BitVec.ofNat 32 (168 + n)) (BitVec.ofNat 32 n) (BitVec.ofNat 32 v)
    live.foldl (fun s p => rep s p (cnt p)) (rep s 0 ((partNums.map cnt).sum))

/-- Frames that leave a partition: to their fill, or withheld where their stack is LOST (R240, R254). A migration copies them no more; where
one was in copy, its copy ends and the frame it was copied to is filled as well (R255). -/
def releaseFrames (s : State) (fs : List Nat) : State :=
  let lost := fs.filter (fun f => stackState s (frameStack f) == 3)
  let rest := fs.filter (fun f => stackState s (frameStack f) != 3)
  let s := { s with tiers := { s.tiers with fills := s.tiers.fills ++ rest, withheld := s.tiers.withheld ++ lost } }
  match s.tiers.migr with
  | none => s
  | some m =>
    let left := m.frames.filter (fun f => !fs.contains f)
    if m.frames.head?.any fs.contains then
      let s := { s with tiers := { s.tiers with fills := s.tiers.fills ++ m.target.toList } }
      migrateNext s m.stack left ((m.target.map frameStack).getD m.last)
    else
      let m' : Migration := { m with frames := left }
      { s with tiers := { s.tiers with migr := some m' } }

/-- A 64-byte unit at a module address is uncorrectable: it reads poisoned until it is overwritten (R438). -/
def scrubUe (s : State) (a : Nat) : State :=
  let u := a / 64 * 16
  let tag := (List.range 16).foldl (fun t i => Tab.set false t (u + i) true) s.tiers.tag
  let s := cntAdd { s with tiers := { s.tiers with tag := tag } } 0 0 0xD01020 1
  match holderOf s (a / frameBytes) with
  | none => s
  | some (p, i) =>
    reportP (cntAdd s p 0 0xD00040 1) 0x28 .unit 1 p (BitVec.ofNat 32 (168 + a / 2 ^ 36)) 2 (BitVec.ofNat 32 i)

/-- A corrected unit, counted (R438). -/
def scrubCe (s : State) (a : Nat) : State :=
  let s := cntAdd s 0 0 0xD01018 1
  match holderOf s (a / frameBytes) with
  | none => s
  | some (p, _) => cntAdd s p 0 0xD00038 1

/-- T2_SCRUB: the daily scrub of a stack (R438). Addresses outside the stack name nothing (R238). -/
def execT2Scrub (n : Fin 24) (r : ScrubResult) (s : State) : Res :=
  if stackState s n.val = 3 then .next s
  else
    let here (a : Nat) : Bool := a / 2 ^ 36 == n.val
    .next ((r.ue.filter here).foldl scrubUe ((r.ce.filter here).foldl scrubCe s))

/-- Granted frames of a partition on LOST stacks (R254). -/
def lostFrames (s : State) (p : Nat) : Nat := ((s.part p).frames.filter (fun f => stackState s (frameStack f) == 3)).length

/-- The stack-state words (R256). -/
def stackWord (s : State) (lo n : Nat) : Word :=
  BitVec.ofNat 32 ((List.range n).foldr (fun i acc => stackState s (lo + i) + 4 * acc) 0)

/-- A read of the TIER_ block in the window of function fn (R256). -/
def readTier (s : State) (fn o : Nat) : Word :=
  let q := s.part fn
  if fn ≠ 0 ∧ 0x100 ≤ o then 0
  else match o with
    | 0x00 => BitVec.ofNat 32 (if fn = 0 then 32764 * (onlineStacks s).length else q.frames.length)
    | 0x04 => BitVec.ofNat 32 (if fn = 0 then (partNums.map (lostFrames s)).sum else lostFrames s fn)
    | 0x08 => BitVec.ofNat 32 (((onlineStacks s).map (2 ^ ·)).sum)
    | 0x0C => BitVec.ofNat 32 (if fn = 0 then 1430511 else q.t3Units)
    | 0x10 => BitVec.ofNat 32 (if fn = 0 then (partNums.map (addUnits s)).sum else addUnits s fn)
    | 0x14 => BitVec.ofNat 32 (if fn = 0 then 1024 else q.t3Slots)
    | 0x104 => stackWord s 0 16
    | 0x108 => stackWord s 16 8
    | 0x10C => regGet s 0 0 0x60010C ||| BitVec.ofNat 32 (match s.tiers.migr with
        | some m => m.frames.length
        | none => 0)
    | 0x110 => BitVec.ofNat 32 (freeCount s)
    | 0x114 => BitVec.ofNat 32 (t3Free s)
    | _ => regGet s fn 0 (0x600000 + o)

/-- Two bits a controller (R273). -/
def ctlWord (s : State) : Word := BitVec.ofNat 32 ((List.range 16).foldr (fun i acc => (ctl s i).st + 4 * acc) 0)

/-- A 16-bit map of controllers. -/
def ctlMap (s : State) (f : Ctl → Bool) : Nat := ((List.range 16).map (fun i => if f (ctl s i) then 2 ^ i else 0)).sum

def SetSt.code : SetSt → Nat
  | .free => 0 | .installing => 1 | .serving => 2 | .building => 3 | .built => 4 | .draining => 5 | .deleting => 6

/-- The key slot of a copy, 0 for none. -/
def copyKey : Option WCopy → Nat
  | some c => c.key
  | none => 0

/-- A read of the WST_ block in the window of function fn (R278). -/
def readWst (s : State) (fn o : Nat) : Word :=
  let sl := fld (regGet s fn 0 0x700020) 9 0
  let w := wslot s fn sl
  let m := fld (regGet s 0 0 0x700100) 7 0
  let x := mset s m
  if (fn ≠ 0 ∧ 0x100 ≤ o) ∨ (fn = 0 ∧ o ≤ 0x44) then 0
  else match o with
    | 0x18 => 0
    | 0x1C => (if (Tab.find s.wst.xfers fn).isSome then bits 31 31 else 0) ||| regGet s fn 0 0x70001C
    | 0x24 => BitVec.ofNat 32 (w.bound.toNat * 2 ^ 31 + w.write.toNat * 2 ^ 30 + w.lane * 2 ^ 23 + w.mset)
    | 0x28 => w.lg
    | 0x2C => if w.bound then (mset s w.mset).gen else 0
    | 0x30 => BitVec.ofNat 32 (ctlMap s (·.worn) * 65536 + ctlMap s (fun c => c.st != 0))
    | 0x104 => BitVec.ofNat 32 (x.st.code * 2 ^ 28 + (match x.cur with
        | some c => c.count
        | none => 0))
    | 0x108 => x.gen
    | 0x10C => BitVec.ofNat 32 (setUnits s m)
    | 0x118 => regGet s 0 0 0x700118 ||| BitVec.ofNat 32 (match building x with
        | some c => c.tensors.length
        | none => 0)
    | 0x124 => ctlWord s
    | 0x134 =>
      let c := ctl s (fld (regGet s 0 0 0x700130) 3 0)
      BitVec.ofNat 32 (c.exhausted.toNat * 2 ^ 31 + c.spare % 128 * 2 ^ 24 + c.used % 65536)
    | 0x13C => BitVec.ofNat 32 ((match x.other with
        | some c => c.key
        | none => copyKey (erasingOf s m).getLast?) * 65536 + copyKey x.cur)
    | _ => regGet s fn 0 (0x700000 + o)

/-- A write of WST_XFER_CMD (R278). -/
def xferCmd (s : State) (p : Nat) (v : Word) : State :=
  match fld v 31 28 with
  | 1 => writeBase s p
  | 2 => writeAdd s p
  | 3 => delAdd s p
  | _ => if xferBusy s p then s else xferCode s p 2

/-- A write of WST_SET_CMD (R278). -/
def setCmd (s : State) (v : Word) : State :=
  let t := fld v 23 0
  match fld v 31 28 with
  | 1 => installBegin s t
  | 2 => commitSet s
  | 3 => buildBegin s t
  | 4 => switchSet s
  | 5 => abortSet s
  | 6 => deleteSet s
  | _ => setRefuse s

/-- A write of WST_CTL_CMD (R278). -/
def ctlCmd (s : State) (v : Word) : State :=
  match fld v 31 30 with
  | 1 => ctlOffline s (fld v 3 0)
  | 2 => ctlOnline s (fld v 3 0)
  | _ => ctlRefuse s

/-- A write of TIER_STACK_CMD (R256). -/
def stackCmd (s : State) (v : Word) : State :=
  match fld v 31 30 with
  | 1 => stackOffline s (fld v 4 0)
  | 2 => stackOnline s (fld v 4 0)
  | _ => stackRefuse s

end Sys2Proof.Machine
end

