-- ==== Sys2Proof/Machine/PortOps.lean ====
section
/-! DEFINITION. The weight ports as their commands use them: CRC32C (R318), frames sent and received, connections and their
sequences (R320 to R322), ingress queues (R315 to R317), strikes and how they end (R327, R328, R330). -/

namespace Sys2Proof.Machine

def State.port (s : State) (n : Nat) : PortS := Tab.get {} s.ports n
def State.setPort (s : State) (n : Nat) (x : PortS) : State := { s with ports := Tab.put s.ports n x }

/-- The offset of a register of port n. -/
def wpOff (n o : Nat) : Nat := 0x400000 + 0x1000 * n + o

def wpFault (s : State) (n : Nat) (b : Word) : State := regOr s 0 0 (wpOff n 0x00C) b
def wpCount (s : State) (n o k : Nat) : State := cntAdd s 0 0 (wpOff n o) k

/-- A frame dropped under R310 or R320 is counted (R335). -/
def wpDropQuiet (s : State) (n : Nat) : State := wpCount s n 0x0A0 1

/-- A frame dropped under R309 or R315 sets DROP as well (R335). -/
def wpDrop (s : State) (n : Nat) : State := wpFault (wpDropQuiet s n) n 1

/-- PRI_DATA and PRI_CTL (R335). -/
def priData (s : State) (n : Nat) : Nat := fld (regGet s 0 0 (wpOff n 0x018)) 6 4
def priCtl (s : State) (n : Nat) : Nat := fld (regGet s 0 0 (wpOff n 0x018)) 10 8

/-! ## Peer entries (R335) -/

def peerCtrl (s : State) (n peer : Nat) : Word := regGet s 0 peer (wpOff n 0x038)
def peerValid (s : State) (n peer : Nat) : Bool := (peerCtrl s n peer).getLsbD 31
def peerOwner (s : State) (n peer : Nat) : Nat := fld (peerCtrl s n peer) 20 16

/-- Whether partition p may use a peer entry (R329). -/
def peerOwned (s : State) (n peer p : Nat) : Bool := peerValid s n peer && peerOwner s n peer == p

/-- A 128-bit address held in four registers, the first bytes in the first (R335). -/
def addr128 (a b c d : Word) : BitVec 128 := a ++ b ++ c ++ d

def peerIp (s : State) (n peer : Nat) : BitVec 128 :=
  addr128 (regGet s 0 peer (wpOff n 0x040)) (regGet s 0 peer (wpOff n 0x044)) (regGet s 0 peer (wpOff n 0x048)) (regGet s 0 peer (wpOff n 0x04C))

def portIp (s : State) (n : Nat) : BitVec 128 :=
  addr128 (regGet s 0 0 (wpOff n 0x020)) (regGet s 0 0 (wpOff n 0x024)) (regGet s 0 0 (wpOff n 0x028)) (regGet s 0 0 (wpOff n 0x02C))

/-- The valid peer entry with a source address (R310). -/
def peerOf (s : State) (n : Nat) (src : BitVec 128) : Option Nat :=
  (List.range 64).find? (fun i => peerValid s n i && peerIp s n i == src)

/-! ## CRC32C -/

/-- One bit of the reflected Castagnoli division. -/
def crcBit (c : Word) : Word := if c.getLsbD 0 then (c >>> 1) ^^^ 0x82F63B78 else c >>> 1

def crcByte (c : Word) (b : Byte) : Word :=
  let x := c ^^^ b.zeroExtend 32
  crcBit (crcBit (crcBit (crcBit (crcBit (crcBit (crcBit (crcBit x)))))))

/-- CRC32C of some bytes. -/
def crc32c (bs : List Byte) : Word := ~~~(bs.foldl crcByte (BitVec.allOnes 32))

/-- The bytes of a word, least significant first (R12). -/
def wordBytes (w : Word) : List Byte := (List.range 4).map (fun i => (w >>> (8 * i)).truncate 8)

/-- Words from bytes, the last padded with zeros. -/
def bytesWords : List Byte → List Word
  | [] => []
  | [a] => [a.zeroExtend 32]
  | [a, b] => [(0 : BitVec 16) ++ b ++ a]
  | [a, b, c] => [(0 : BitVec 8) ++ c ++ b ++ a]
  | a :: b :: c :: d :: t => (d ++ c ++ b ++ a) :: bytesWords t

/-- The CRC of a frame: w0 to w6, w7 as zero, and the payload (R318). -/
def frameCrc (hdr : List Word) (pay : List Byte) : Word := crc32c ((hdr.take 7 ++ [0]).flatMap wordBytes ++ pay)

/-! ## Header fields (R318, R319) -/

def zType (h : List Word) : Nat := fld (h.getD 0 0) 27 24
def zPri (h : List Word) : Bool := (h.getD 0 0).getLsbD 23
def zLen (h : List Word) : Nat := fld (h.getD 0 0) 15 0
def zGroup (h : List Word) : Nat := fld (h.getD 1 0) 31 16
def zEpoch (h : List Word) : Word := h.getD 2 0
def zPsn (h : List Word) : Word := h.getD 3 0
def zAck (h : List Word) : Word := h.getD 4 0
def zOp (h : List Word) : Word := h.getD 5 0
def zOff (h : List Word) : Nat := 32 * (h.getD 6 0).toNat

/-- Word i of a payload. -/
def payWord (pay : List Byte) (i : Nat) : Word := (bytesWords (pay.drop (4 * i) |>.take 4)).getD 0 0

/-- The priority of a TYPE: control unless DATA or RESULT. -/
def typeCtl (t : Nat) : Bool := !(t == 7 || t == 8)

/-! ## Connections -/

def PortS.conn (x : PortS) (peer : Nat) : Conn := Tab.get {} x.conns peer
def PortS.setConn (x : PortS) (peer : Nat) (c : Conn) : PortS := { x with conns := Tab.put x.conns peer c }
def Conn.dir (c : Conn) (ctl : Bool) : Dir := if ctl then c.ctl else c.data
def Conn.setDir (c : Conn) (ctl : Bool) (d : Dir) : Conn := if ctl then { c with ctl := d } else { c with data := d }

def updConn (s : State) (n peer : Nat) (f : Conn → Conn) : State :=
  let x := s.port n
  s.setPort n (x.setConn peer (f (x.conn peer)))

/-- An unsequenced control frame. -/
def plainFrame (type : Nat) (lit : List Word) : TxFrame := ⟨type, 0, 0, 0, 0, lit, [], 0, 0⟩

/-- Queues an unsequenced frame; none goes to an entry that is not valid (R310). -/
def sendUnseq (s : State) (n peer : Nat) (f : TxFrame) : State :=
  if peerValid s n peer then updConn s n peer (fun c => { c with unseq := c.unseq ++ [f] }) else s

/-- An ACK: the PSNs expected on data and on control (R319, R321). -/
def sendAckFrame (s : State) (n peer : Nat) : State :=
  let c := (s.port n).conn peer
  let s := sendUnseq s n peer (plainFrame 3 [c.data.exp, c.ctl.exp])
  updConn s n peer (fun c => { c with data := { c.data with since := 0 }, ctl := { c.ctl with since := 0 } })

/-- A NAK for the PSN expected, at most once for each RTO and priority, which RTO_EXPIRY ends (R321). -/
def sendNak (s : State) (n peer : Nat) (ctl : Bool) : State :=
  let d := ((s.port n).conn peer).dir ctl
  if d.nak then s
  else updConn (sendUnseq s n peer (plainFrame 4 [BitVec.ofNat 32 ctl.toNat, d.exp])) n peer
    (fun c => c.setDir ctl { c.dir ctl with nak := true })

/-- Queues a sequenced frame of a partition; none goes to an entry that is not valid or not that partition's (R310, R330). -/
def sendSeq (s : State) (n peer : Nat) (f : TxFrame) : State :=
  if peerOwned s n peer f.part = false then s
  else updConn s n peer (fun c => c.setDir (typeCtl f.type) { c.dir (typeCtl f.type) with q := (c.dir (typeCtl f.type)).q ++ [f] })

/-- A strike needs the connection to a valid entry: a CLOSED or FAILED one opens (R310, R320, R322). -/
def needConn (s : State) (n peer : Nat) : State :=
  let c := (s.port n).conn peer
  if peerValid s n peer ∧ (c.st = .closed ∨ c.st = .failed) then
    let fresh : Conn := { st := .opening, unseq := [plainFrame 1 [(s.port n).session, 0]] }
    s.setPort n ((s.port n).setConn peer fresh)
  else s

/-! ## Strikes -/

def chainKey (p ch : Nat) : Nat := p * 512 + ch
def chain (s : State) (k : Nat) : Chain := Tab.get {} s.chains k
def setChain (s : State) (k : Nat) (c : Chain) : State := { s with chains := Tab.put s.chains k c }
def group (s : State) (p g : Nat) : Group := Tab.get {} s.groups (p * 16 + g)

def Strike.w (x : Strike) (i : Nat) : Word := x.ent.getD i 0
def Strike.kind (x : Strike) : Nat := fld (x.w 0) 30 28
def Strike.fmt (x : Strike) : Nat := fld (x.w 0) 27 24
def Strike.src (x : Strike) : Nat := (x.w 2).toNat + 2 ^ 32 * fld (x.w 3) 15 0
def Strike.dst (x : Strike) : Nat := (x.w 4).toNat + 2 ^ 32 * fld (x.w 5) 15 0
def Strike.elems (x : Strike) : Nat := (x.w 6).toNat
def Strike.peer (x : Strike) : Nat := fld (x.w 7) 31 26
def Strike.len (x : Strike) : Nat := (x.w 6).toNat + 2 ^ 32 * fld (x.w 7) 4 0
def Strike.op (x : Strike) : Word := x.w 8

/-- Whether the format is MXFP8. -/
def Strike.mx (x : Strike) : Bool := x.fmt == 4 || x.fmt == 5
/-- Bytes of an element (R330). -/
def Strike.esize (x : Strike) : Nat := if x.fmt = 8 then 4 else if x.fmt = 7 then 2 else 1
/-- Shards of a REDUCE (R330). -/
def Strike.shards (x : Strike) : Nat := (x.elems + x.grp.shard - 1) / x.grp.shard
/-- Elements of shard i. -/
def Strike.shardElems (x : Strike) (i : Nat) : Nat := min x.grp.shard (x.elems - i * x.grp.shard)
/-- Wire bytes of n elements. -/
def Strike.wire (x : Strike) (n : Nat) : Nat := n * x.esize + (if x.mx then n / 32 else 0)
/-- Where shard i begins in the wire image. -/
def Strike.shardOff (x : Strike) (i : Nat) : Nat := i * x.wire x.grp.shard

/-- Bytes of wire range [a, a + n) that lie in wire range [b, b + m). -/
def common (a n b m : Nat) : Nat := min (a + n) (b + m) - max a b

/-- Whether shard i of a REDUCE is written whole (R325, R453); a strike that writes nothing writes none (R329). -/
def shardWhole (x : Strike) (i : Nat) : Bool :=
  let n := x.wire (x.shardElems i)
  !x.mute && decide (n ≤ (x.got.map (fun e => common e.1 e.2 (x.shardOff i) n)).sum)

/-- Wire range [off, off + n) cut where shards end. -/
def Strike.byShard (x : Strike) (off n : Nat) : Nat → List (Nat × Nat)
  | 0 => []
  | k + 1 =>
    let m := min n (x.shardOff (off / x.wire x.grp.shard + 1) - off)
    if m = 0 then [] else (off, m) :: x.byShard (off + m) (n - m) k

/-- The T2 runs of wire bytes [off, off + n), within one shard, of a tensor at `base` (R330). -/
def Strike.shardRuns (x : Strike) (base off n : Nat) : List (Nat × Nat) :=
  let i := off / x.wire x.grp.shard
  let r := off - x.shardOff i
  let eb := x.shardElems i * x.esize
  let a := base + i * x.grp.shard * x.esize
  let b := base + x.elems * x.esize + i * (x.grp.shard / 32)
  let first := min n (eb - r)
  (if first = 0 then [] else [(a + r, first)]) ++ (if first < n then [(b + (r + first - eb), n - first)] else [])

/-- The T2 runs of any wire bytes of a tensor at `base`. -/
def Strike.runs (x : Strike) (base off n : Nat) : List (Nat × Nat) :=
  (x.byShard off n x.shards).flatMap (fun r => x.shardRuns base r.1 r.2)

/-- Every strike in progress that satisfies f ends with a code; it completes by STRIKE_COMPLETE (R328). -/
def endStrikes (s : State) (f : Nat → Strike → Bool) (code : Nat) : State :=
  let up (e : Nat × Chain) : Nat × Chain :=
    (e.1, { e.2 with prog := e.2.prog.map (fun x => if x.code = 0 ∧ f e.1 x then { x with code := code } else x) })
  { s with chains := s.chains.map up }

/-- The strikes in progress of all chains, with their chain's key. -/
def strikes (s : State) : List (Nat × Strike) := s.chains.flatMap (fun e => e.2.prog.map (fun x => (e.1, x)))

/-- Frames of some strikes that were never sent leave the queues of a port (R328). -/
def dropFrames (s : State) (f : TxFrame → Bool) : State :=
  let cut (d : Dir) : Dir := { d with q := d.q.take d.ever ++ (d.q.drop d.ever).filter (fun x => !f x) }
  let conn (e : Nat × Conn) : Nat × Conn := (e.1, { e.2 with data := cut e.2.data, ctl := cut e.2.ctl })
  { s with ports := s.ports.map (fun e => (e.1, { e.2 with conns := e.2.conns.map conn })) }

/-- The bytes of DST outside the shards written whole are undefined once a REDUCE fails in its data phase: free words (R333; log
entry 3). -/
def spoilDst (s : State) (p : Nat) (x : Strike) : State :=
  if x.kind ≠ 3 ∨ x.ph ≠ .data ∨ x.mute = true then s
  else
    let part := (List.range x.shards).filter (fun i => !shardWhole x i)
    let runs := part.flatMap (fun i => x.runs x.dst (x.shardOff i) (x.wire (x.shardElems i)))
    runs.foldl (fun s r => let (ws, s) := freeWords s ((r.2 + 3) / 4); t2WriteBytes s p r.1 r.2 ws) s

/-- ABORT to every server of a strike's group (R331, R334). -/
def sendAborts (s : State) (p : Nat) (x : Strike) : State :=
  if x.kind ≠ 3 ∨ (x.ph ≠ .counts ∧ x.ph ≠ .data) then s
  else
    let s := dropFrames s (fun f => f.sid == x.sid)
    let f : TxFrame := ⟨9, BitVec.ofNat 32 (x.grp.id * 65536 + x.grp.member), x.grp.epoch, x.op, 0, [], [], p, x.sid⟩
    x.grp.servers.foldl (fun s u => if ((s.port u.1).conn u.2).st = .failed then s else sendSeq s u.1 u.2 f) s

/-- Ends the strikes that satisfy f, with ABORT to the servers they speak to; what their data phase has not written whole is
undefined. -/
def abortStrikes (s : State) (f : Nat → Strike → Bool) (code : Nat) : State :=
  let hit := (strikes s).filter (fun e => e.2.code == 0 && f e.1 e.2)
  let s := hit.foldl (fun s e => spoilDst (sendAborts s (e.1 / 512) e.2) (e.1 / 512) e.2) s
  endStrikes s f code

/-- Waiting RECVs of a port enter its receive table of 64 as places come free (R327). -/
def promote (s : State) (n : Nat) : Nat → State
  | 0 => s
  | fuel + 1 =>
    let here := (strikes s).filter (fun e => e.2.kind == 2 && e.2.code == 0 && e.2.uses.any (·.1 == n))
    let posted := (here.filter (fun e => e.2.ph == .plain)).length
    let wait := here.filter (fun e => e.2.ph == .waiting)
    match wait.find? (fun e => wait.all (fun g => decide (e.2.sid ≤ g.2.sid))) with
    | none => s
    | some e =>
      if 64 ≤ posted then s
      else
        let c := chain s e.1
        let c := { c with prog := c.prog.map (fun x => if x.sid = e.2.sid then { x with ph := .plain } else x) }
        promote (setChain s e.1 c) n fuel

/-- A connection resets or fails: its frames go, its strikes end PEER_LOST (R320, R322). -/
def connLost (s : State) (n peer : Nat) (st : ConnSt) (code : Nat) : State :=
  let s := s.setPort n ((s.port n).setConn peer { st := st })
  abortStrikes s (fun _ x => x.uses.contains (n, peer)) code

/-- Every connection of a port, one for each valid peer entry, becomes FAILED; strikes that use the port end PORT_DOWN (R313). -/
def portConnsFail (s : State) (n : Nat) : State :=
  let all := (List.range 64).filter (fun i => peerValid s n i || (Tab.find (s.port n).conns i).isSome)
  let s := s.setPort n { s.port n with conns := all.map (fun i => (i, { st := .failed })) }
  abortStrikes s (fun _ x => x.uses.any (·.1 == n)) 6

/-! ## Acknowledgement (R321, R322) -/

/-- The peer expects PSN `psn` next: the frames before it are released (R321). -/
def Dir.release (d : Dir) (psn : Word) : Dir :=
  let k := (psn - d.base).toNat
  if k = 0 ∨ d.ever < k then d
  else { d with base := psn, q := d.q.drop k, sent := d.sent - k, ever := d.ever - k, tries := 0 }

/-- A SEND completes when none of its frames awaits acknowledgement (R327). -/
def sendsDone (s : State) : State :=
  let pending (sid : Nat) : Bool := s.ports.any (fun e => e.2.conns.any (fun c => c.2.data.q.any (fun f => f.sid == sid)))
  endStrikes s (fun _ x => x.kind == 1 && !pending x.sid) 1

def ackDir (s : State) (n peer : Nat) (ctl : Bool) (psn : Word) : State :=
  sendsDone (updConn s n peer (fun c => c.setDir ctl ((c.dir ctl).release psn)))

/-- What the sequence of a connection makes of a sequenced frame (R320, R321): taken, or dropped with the state after. -/
def sequence (s : State) (n : Nat) (f : RxFrame) : Bool × State :=
  let c := (s.port n).conn f.peer
  let ctl := zPri f.hdr
  if c.st ≠ .opened then (false, wpDropQuiet s n)
  else
    let d := (zPsn f.hdr - (c.dir ctl).exp).toNat
    if d = 0 then (true, s)
    else if d < 2 ^ 31 then (false, sendNak s n f.peer ctl)
    else (false, sendAckFrame s n f.peer)

/-- A sequenced frame accepted: E advances, its ACK_PSN releases frames, an ACK at least every 16 (R321). -/
def acceptFrame (s : State) (n : Nat) (f : RxFrame) : State :=
  let ctl := zPri f.hdr
  let s := updConn (wpCount s n 0x088 1) n f.peer (fun c =>
    let d := c.dir ctl
    c.setDir ctl { d with exp := d.exp + 1, since := d.since + 1 })
  let s := ackDir s n f.peer ctl (zAck f.hdr)
  if 16 ≤ (((s.port n).conn f.peer).dir ctl).since then sendAckFrame s n f.peer else s

/-! ## The data queue's fill (R315, R317) -/

/-- Bytes a frame takes in a queue: header and payload. -/
def RxFrame.size (f : RxFrame) : Nat := 32 + f.pay.length

def PortS.fill (x : PortS) : Nat := (x.dataq.map RxFrame.size).sum

/-- Whether a port carries Zarux traffic (R312). -/
def PortS.carries (x : PortS) : Bool := x.st == .up || x.st == .stalled

/-- Whether the link is up, so that frames other than Zarux's can be sent: SECURING, UP or STALLED (R312). -/
def PortS.linked (x : PortS) : Bool := x.st == .securing || x.st == .up || x.st == .stalled

/-- Sends a PFC frame for PRI_DATA, which MACsec protects, where the port carries traffic (R309, R312, R317). -/
def sendPfc (s : State) (n quanta : Nat) : State :=
  if (s.port n).carries then emit s (.pfc n (BitVec.ofNat 3 (priData s n)) quanta) else s

/-- XOFF output and PFC follow a change of fill (R317). -/
def xoffCheck (s : State) (n : Nat) : State :=
  let x := s.port n
  let w := regGet s 0 0 (wpOff n 0x01C)
  if !x.xoffOut && decide (1024 * fld w 28 16 ≤ x.fill) then sendPfc (s.setPort n { x with xoffOut := true }) n 0xFFFF
  else if x.xoffOut && decide (x.fill ≤ 1024 * fld w 12 0) then sendPfc (s.setPort n { x with xoffOut := false }) n 0
  else s

/-- Whether data transmission is paused (R314). -/
def PortS.paused (x : PortS) : Bool := x.xoffIn || x.pfc

/-- The bytes of T2 a run names, zero beyond the grant (R329). -/
def runBytes (s : State) (p : Nat) (r : Nat × Nat) : List Byte :=
  (((List.range ((r.2 + 3) / 4)).flatMap (fun i => wordBytes (t2WordU s p (r.1 + 4 * i)).val))).take r.2

/-- Poisoned words a run holds. -/
def runPoison (s : State) (p : Nat) (r : Nat × Nat) : Nat :=
  poisonedIn ((List.range ((r.2 + 3) / 4)).map (fun i => t2WordU s p (r.1 + 4 * i)))

/-- The payload of a frame as sent: literal words, or T2 read again (R322). -/
def TxFrame.pay (s : State) (f : TxFrame) : List Byte := f.lit.flatMap wordBytes ++ f.runs.flatMap (runBytes s f.part)

/-- What encloses a frame to a peer entry (R309, R310). -/
def encap (s : State) (n peer : Nat) (ctl : Bool) : Encap where
  dmac := ((peerCtrl s n peer).truncate 16 : BitVec 16) ++ regGet s 0 peer (wpOff n 0x03C)
  smac := Config.mac + BitVec.ofNat 48 n
  pcp := BitVec.ofNat 3 (if ctl then priCtl s n else priData s n)
  vid := 0
  src := portIp s n
  dst := peerIp s n peer
  hop := 64
  sport := BitVec.ofNat 16 (0xC000 + 2 * n + ctl.toNat)
  dport := 0x5A50

/-- Emits a frame (R310, R318). -/
def emitFrame (s : State) (n peer : Nat) (f : TxFrame) (psn ack : Word) : State :=
  let pay := f.pay s
  let w0 := BitVec.ofNat 32 (2 ^ 28 + f.type * 2 ^ 24 + (typeCtl f.type).toNat * 2 ^ 23 + pay.length)
  let h := [w0, f.w1, f.w2, psn, ack, f.w5, f.w6]
  let s := wpCount s n 0x080 1
  emit s (.frame n peer (encap s n peer (typeCtl f.type)) (h ++ [frameCrc h pay]) pay)

end Sys2Proof.Machine
end

