-- ==== Sys2Proof/Machine/Ports.lean ====
section
/-! DEFINITION. The commands of the weight ports (R309 to R323, R331, R333, R335). -/

namespace Sys2Proof.Machine

/-! ## Port states (R313) -/

def portTo (s : State) (n : Nat) (st : PortSt) : State := s.setPort n { s.port n with st := st }

/-- A port's unit number (R413, R454). -/
def portUnit (n : Nat) : Word := BitVec.ofNat 32 (208 + n)

/-- SIGNAL_DETECT; a transceiver of a wrong type keeps the port DOWN (R313, R464). -/
def execSignalDetect (pt : Port) (s : State) : Res :=
  .next (if (s.port pt.val).st = .down ∧ Tab.get Cage.empty s.hw.cages pt.val ≠ .bad then portTo s pt.val .training else s)

def execLockAcquired (pt : Port) (s : State) : Res :=
  .next (if (s.port pt.val).st = .training then portTo s pt.val .securing else s)

def execTrainingTimeout (pt : Port) (s : State) : Res :=
  .next (if (s.port pt.val).st = .training then portTo s pt.val .down else s)

def execLossOfLock (pt : Port) (s : State) : Res :=
  .next (if (s.port pt.val).carries then wpFault (portTo s pt.val .training) pt.val 0x10 else s)

/-- MKA: the live association is installed, which needs the port's CAK, or lost (R309, R313, R430). An MKA frame goes out where the
link is up (R312). -/
def execMka (pt : Port) (live : Bool) (s : State) : Res :=
  let n := pt.val
  let x := s.port n
  let s := if x.linked then emit s (.mkaFrame n) else s
  if live then .next (if x.st = .securing ∧ (Tab.find s.sec.caks n).isSome then portTo s n .up else s)
  else .next (if x.carries then wpFault (portTo s n .securing) n 8 else s)

/-- PORT_STALLED: a pause has lasted 100 ms (R313, R314). -/
def execPortStalled (pt : Port) (s : State) : Res :=
  let n := pt.val
  if (s.port n).st = .up ∧ (s.port n).paused then
    .next (reportE (wpFault (portTo s n .stalled) n 0x20) 0x0C .unit 1 (portUnit n) (BitVec.ofNat 32 n) 0)
  else .next s

/-- The pause state after a change: a pause that has ended counts its microseconds, and a STALLED port is UP again (R313,
R314). -/
def pauseSettle (s : State) (n : Nat) (was : Bool) (us : Nat) : State :=
  let x := s.port n
  if was && !x.paused then
    let s := wpCount s n 0x0B8 us
    if x.st = .stalled then portTo s n .up else s
  else s

/-- PAUSE_END: the pause time of the last PFC frame for PRI_DATA or PRI_CTL runs out (R309, R314). -/
def execPauseEnd (pt : Port) (i : PauseIn) (s : State) : Res :=
  let x := s.port pt.val
  if i.ctl then .next (s.setPort pt.val { x with pfcCtl := false })
  else .next (pauseSettle (s.setPort pt.val { x with pfc := false }) pt.val x.paused i.us)

/-- XOFF_IN: the XOFF input pin changes (R314, R468). -/
def execXoffIn (pt : Port) (level : Bool) (us : Nat) (s : State) : Res :=
  let x := s.port pt.val
  .next (pauseSettle (s.setPort pt.val { x with xoffIn := level }) pt.val x.paused us)

/-- PFC_FRAME: pause time for PRI_DATA or PRI_CTL; other priorities are ignored (R309, R314). -/
def execPfcFrame (pt : Port) (pri : BitVec 3) (quanta : BitVec 16) (us : Nat) (s : State) : Res :=
  let x := s.port pt.val
  if pri.toNat = priCtl s pt.val then .next (s.setPort pt.val { x with pfcCtl := quanta != 0 })
  else if pri.toNat ≠ priData s pt.val then .next s
  else .next (pauseSettle (s.setPort pt.val { x with pfc := quanta != 0 }) pt.val x.paused us)

/-- PFC_RESEND: 40 µs have passed with the fill above LO (R317). -/
def execPfcResend (pt : Port) (s : State) : Res :=
  .next (if (s.port pt.val).xoffOut then sendPfc s pt.val 0xFFFF else s)

def portRefuse (s : State) (n : Nat) : State := regOr s 0 0 (wpOff n 0x008) (bits 31 31)

def portOffline (s : State) (n : Nat) : State :=
  let x := s.port n
  let other := (List.range 8).any (fun i => i != n && (s.port i).st == .offline)
  if x.st = .offline ∨ x.st = .failed ∨ other = true then portRefuse s n
  else portConnsFail (portTo s n .offline) n

def execPortOffline (pt : Port) (s : State) : Res := .next (portOffline s pt.val)

def portOnline (s : State) (n : Nat) : State :=
  let x := s.port n
  if x.st ≠ .offline ∨ x.bad = true then portRefuse s n else portTo s n .down

def execPortOnline (pt : Port) (s : State) : Res := .next (portOnline s pt.val)

def portRetrain (s : State) (n : Nat) : State := if (s.port n).carries then portTo s n .training else portRefuse s n

def execRetrain (pt : Port) (s : State) : Res := .next (portRetrain s pt.val)

/-- A write of WP_CMD (R335). -/
def portCmd (s : State) (n : Nat) (v : Word) : State :=
  match fld v 31 28 with
  | 1 => portOffline s n
  | 2 => portOnline s n
  | 3 => portRetrain s n
  | _ => portRefuse s n

/-- A port found failed by self-test or the Tambour (R313). -/
def portFail (s : State) (n : Nat) : State :=
  if (s.port n).st = .failed then s
  else reportE (portConnsFail (portTo s n .failed) n) 0x0E .unit 2 (portUnit n) (BitVec.ofNat 32 n) 0

def execPortFailed (pt : Port) (s : State) : Res := .next (portFail s pt.val)

/-! ## Receiving (R309, R310, R315, R318, R323) -/

/-- Whether a header is one a port drops under R309: version, TYPE, reserved bits, LEN, PRI against TYPE and tag. -/
def badHeader (s : State) (n : Nat) (f : Frame) : Bool :=
  let w0 := f.hdr.getD 0 0
  let t := zType f.hdr
  let ctl := zPri f.hdr
  decide (f.hdr.length ≠ 8 ∨ fld w0 31 28 ≠ 1 ∨ t = 0 ∨ 10 < t ∨ fld w0 22 16 ≠ 0 ∨ 8192 < zLen f.hdr ∨
    f.pay.length ≠ zLen f.hdr) || (ctl != typeCtl t) || (f.pcp.toNat != (if ctl then priCtl s n else priData s n))

/-- Bytes the control queue holds. -/
def ctlFill (x : PortS) : Nat := (x.ctlq.map RxFrame.size).sum

/-- A frame of a collective at a partition: its group, and whether the epoch is the current one (R323). -/
def groupOf (s : State) (p id : Nat) : Option (Nat × Group) :=
  ((List.range 16).map (fun g => (g, group s p g))).find? (fun e => e.2.valid && e.2.id == id)

/-- Words of a control frame whose parity fails as its consumer reads them: header and payload, but for the payload of a NOTICE, which
goes on with its tags (R315, R316). -/
def ctlBad (r : RxFrame) : Nat :=
  ((List.range (8 + if zType r.hdr = 10 then 0 else (r.pay.length + 3) / 4)).filter r.bad.contains).length

/-- Words of a DATA or RESULT frame's header whose parity fails. -/
def hdrBad (r : RxFrame) : Nat := ((List.range 8).filter r.bad.contains).length

/-- Words delivered poisoned (R316). -/
def countBad (s : State) (n k : Nat) : State := if k = 0 then s else wpFault (wpCount s n 0x0B0 k) n 2

/-- What the control queue's consumer does with a frame it takes; one with a poisoned word is used for nothing and not acknowledged, so
that its sender recovers it (R316; log entry 106). -/
def useCtl (s : State) (n : Nat) (r : RxFrame) (f : State → RxFrame → State) : State :=
  if ctlBad r = 0 then f s r else countBad s n (ctlBad r)

/-- A COUNTS frame, which only servers act on: taken in sequence, one of another epoch counted (R323; log entry 28). -/
def takeCounts (s : State) (n : Nat) (r : RxFrame) : State :=
  let (ok, s) := sequence s n r
  if !ok then s
  else
    let s := acceptFrame s n r
    match groupOf s (peerOwner s n r.peer) (zGroup r.hdr) with
    | some (_, g) => if g.epoch = zEpoch r.hdr then s else wpCount s n 0x0A8 1
    | none => s

/-- The COUNTS frames at the head of a control queue are taken. -/
def drainCounts (s : State) (n : Nat) : State :=
  let isCounts (r : RxFrame) : Bool := zType r.hdr == 5
  let q := (s.port n).ctlq
  (q.takeWhile isCounts).foldl (fun s r => useCtl s n r (fun s r => takeCounts s n r))
    (s.setPort n { s.port n with ctlq := q.dropWhile isCounts })

/-- FRAME_RECEIVE: a received frame enters its ingress queue whole or is dropped. -/
def execFrameReceive (pt : Port) (f : Frame) (s : State) : Res :=
  let n := pt.val
  let x := s.port n
  if x.carries = false ∨ f.standard = false ∨ f.fcsOk = false ∨ f.icvOk = false ∨ f.dport ≠ 0x5A50 then .next (wpDrop s n)
  else match peerOf s n f.src with
    | none => .next (wpDropQuiet s n)
    | some peer =>
      if frameCrc f.hdr f.pay ≠ f.hdr.getD 7 0 then .next (wpCount s n 0x090 1)
      else if badHeader s n f then .next (wpDrop s n)
      else
        let r : RxFrame := ⟨peer, f.hdr, f.pay, f.parityBad, none⟩
        if zPri f.hdr then
          .next (if 262144 < ctlFill x + r.size then wpDrop s n else drainCounts (s.setPort n { x with ctlq := x.ctlq ++ [r] }) n)
        else if 4194304 < x.fill + r.size then .next (wpDrop s n)
        else .next (xoffCheck (s.setPort n { x with dataq := x.dataq ++ [r] }) n)

/-- Takes the frame at the head of a control queue if it has a TYPE. -/
def takeCtl (s : State) (n type : Nat) (f : State → RxFrame → State) : State :=
  match (s.port n).ctlq with
  | [] => s
  | r :: rest =>
    if zType r.hdr ≠ type then s else drainCounts (useCtl (s.setPort n { s.port n with ctlq := rest }) n r f) n

/-- CONNECT (R320). -/
def execConnect (pt : Port) (s : State) : Res :=
  .next (takeCtl s pt.val 1 (fun s r =>
    let n := pt.val
    let s := wpCount s n 0x088 1
    let sess := payWord r.pay 0
    let answer (s : State) : State := sendUnseq s n r.peer (plainFrame 2 [sess, (s.port n).session])
    let c := (s.port n).conn r.peer
    match c.st with
    | .opened =>
      if c.sess = some sess then answer s
      else
        let s := connLost s n r.peer .opened 4
        answer (updConn s n r.peer (fun c => { c with sess := some sess }))
    | .opening => answer (updConn s n r.peer (fun c => { c with st := .opened, sess := some sess, unseq := [] }))
    | _ =>
      let fresh : Conn := { st := .opened, sess := some sess }
      answer (s.setPort n ((s.port n).setConn r.peer fresh))))

/-- ACCEPT (R320). -/
def execAccept (pt : Port) (s : State) : Res :=
  .next (takeCtl s pt.val 2 (fun s r =>
    let n := pt.val
    let s := wpCount s n 0x088 1
    let c := (s.port n).conn r.peer
    if c.st = .opening ∧ payWord r.pay 0 = (s.port n).session then
      updConn s n r.peer (fun c => { c with st := .opened, sess := some (payWord r.pay 1) })
    else s))

/-- ACK (R321). -/
def execZaruxAck (pt : Port) (s : State) : Res :=
  .next (takeCtl s pt.val 3 (fun s r =>
    let n := pt.val
    let s := wpCount s n 0x088 1
    if ((s.port n).conn r.peer).st ≠ .opened then s
    else ackDir (ackDir s n r.peer false (payWord r.pay 0)) n r.peer true (payWord r.pay 1)))

/-- NAK: retransmission goes back to the PSN named (R322). -/
def execNak (pt : Port) (s : State) : Res :=
  .next (takeCtl s pt.val 4 (fun s r =>
    let n := pt.val
    let s := wpCount s n 0x088 1
    let ctl := (payWord r.pay 0).getLsbD 0
    updConn s n r.peer (fun c =>
      let d := c.dir ctl
      let k := (payWord r.pay 1 - d.base).toNat
      if d.sent < k ∨ c.st ≠ .opened then c else c.setDir ctl { d with sent := k })))

/-- Sends a strike's DATA frames: SEND in ascending OFFSET; REDUCE each server's shards in ascending OFFSET (R327, R333). -/
def cutRange (off n : Nat) : Nat → List (Nat × Nat)
  | 0 => []
  | f + 1 => if n ≤ 8192 then (if n = 0 then [] else [(off, n)]) else (off, 8192) :: cutRange (off + 8192) (n - 8192) f

/-- The contiguous wire ranges of a REDUCE that server k owns: its shards, or the whole image where it is the only server (R330). -/
def ownRanges (x : Strike) (k : Nat) : List (Nat × Nat) :=
  if x.grp.servers.length = 1 then [(0, x.wire x.elems)]
  else ((List.range x.shards).filter (fun i => i % x.grp.servers.length == k)).map (fun i => (x.shardOff i, x.wire (x.shardElems i)))

/-- The DATA frames of a REDUCE for server k: only the last of a range is short (R318, R333). -/
def reduceFrames (x : Strike) (p k : Nat) : List TxFrame :=
  (ownRanges x k).flatMap (fun g =>
    (cutRange g.1 g.2 (g.2 / 8192 + 1)).map (fun r =>
      ⟨7, BitVec.ofNat 32 (x.grp.id * 65536 + x.grp.member), x.grp.epoch, x.op, BitVec.ofNat 32 (r.1 / 32), [],
        x.runs x.src r.1 r.2, p, x.sid⟩))

/-- Changes one strike in progress. -/
def updStrike (s : State) (k sid : Nat) (f : Strike → Strike) : State :=
  let c := chain s k
  setChain s k { c with prog := c.prog.map (fun x => if x.sid = sid then f x else x) }

/-- A VERDICT reaches a REDUCE: when every server has answered, its outcome is decided (R331). -/
def giveVerdict (s : State) (k : Nat) (x : Strike) (srv : Nat) (v : Word) : State :=
  let p := k / 512
  let x := { x with verdicts := Tab.put x.verdicts srv v }
  let s := updStrike s k x.sid (fun _ => x)
  if x.verdicts.length < x.grp.servers.length then s
  else if x.verdicts.all (fun e => e.2 == 0) then
    let s := updStrike s k x.sid (fun x => { x with ph := .data })
    x.grp.servers.zipIdx.foldl (fun s e => (reduceFrames x p e.2).foldl (fun s f => sendSeq s e.1.1 e.1.2 f) s) s
  else
    let ep := x.verdicts.any (fun e => e.2 == 2)
    let s := regOr s p 0 0x50004C (if ep then 4 else 2)
    abortStrikes s (fun _ y => y.sid == x.sid) (if ep then 3 else 2)

/-- VERDICT (R323, R331). -/
def execVerdict (pt : Port) (s : State) : Res :=
  .next (takeCtl s pt.val 6 (fun s r =>
    let n := pt.val
    let (ok, s) := sequence s n r
    if !ok then s
    else
      let s := acceptFrame s n r
      let p := peerOwner s n r.peer
      match groupOf s p (zGroup r.hdr) with
      | none => s
      | some (_, g) =>
        if zEpoch r.hdr ≠ g.epoch then wpCount s n 0x0A8 1
        else
          let here := (strikes s).find? (fun e => e.1 / 512 == p && e.2.kind == 3 && e.2.ph == .counts && e.2.code == 0 &&
            e.2.grp.id == zGroup r.hdr && e.2.op == zOp r.hdr)
          match here with
          | none => s
          | some (k, x) =>
            match (x.grp.servers.zipIdx.find? (fun e => e.1 == (n, r.peer) && (Tab.find x.verdicts e.2).isNone)) with
            | some (_, srv) => giveVerdict s k x srv (payWord r.pay 0)
            | none => s))

/-- The first frame of a data queue that no rule has decided on. -/
def nextData (x : PortS) : Option (Nat × RxFrame) :=
  (x.dataq.zipIdx.find? (fun e => e.1.dest.isNone)).map (fun e => (e.2, e.1))

/-- Removes a frame of the data queue. -/
def dropData (s : State) (n i : Nat) : State :=
  let x := s.port n
  xoffCheck (s.setPort n { x with dataq := x.dataq.eraseIdx i }) n

/-- Marks where a frame of the data queue is to be placed. -/
def placeData (s : State) (n i : Nat) (d : Option (Nat × Nat)) : State :=
  let x := s.port n
  let up (r : RxFrame) : RxFrame := { r with dest := some d }
  s.setPort n { x with dataq := x.dataq.modify i up }

/-- A frame acknowledged and discarded as late (R327, R333). -/
def collLate (s : State) (p : Nat) : State := if p = 0 then s else regOr (cntAdd s p 0 0x500058 1) p 0 0x50004C 8

/-- Whether a partition reset or a destruction of p is under way, in which later frames are acknowledged and discarded (R329). -/
def endingPart (s : State) (p : Nat) : Bool := (s.part p).st == .resetting || (s.part p).st == .destroying

/-- DATA: placed for the receive posted for its peer and tag; NAKed where none is, but acknowledged and discarded in a partition that
is being reset or destroyed (R327, R329). A header with a poisoned word is used for nothing (log entry 106). -/
def execData (pt : Port) (s : State) : Res :=
  let n := pt.val
  match nextData (s.port n) with
  | none => .next s
  | some (i, r) =>
    if zType r.hdr ≠ 7 then .next s
    else if hdrBad r ≠ 0 then .next (countBad (dropData s n i) n (hdrBad r))
    else
      let (ok, s) := sequence s n r
      if !ok then .next (dropData s n i)
      else
        let hit := (strikes s).find? (fun e => e.2.kind == 2 && e.2.ph == .plain && e.2.code == 0 &&
          e.2.uses.contains (n, r.peer) && e.2.op == zOp r.hdr)
        match hit with
        | none =>
          if endingPart s (peerOwner s n r.peer) then .next (placeData (acceptFrame s n r) n i none)
          else .next (sendNak (dropData s n i) n r.peer false)
        | some (k, x) =>
          let s := acceptFrame s n r
          if x.len < zOff r.hdr + r.pay.length then .next (placeData (collLate s (k / 512)) n i none)
          else .next (placeData s n i (some (x.sid, zOff r.hdr)))

/-- Whether wire bytes [off, off + m) lie in the wire image and belong to the server that is peer u (R330, R333). -/
def onWire (x : Strike) (u : Nat × Nat) (off m : Nat) : Bool :=
  let sb := x.wire x.grp.shard
  decide (0 < m ∧ off + m ≤ x.wire x.elems) &&
    (List.range ((off + m - 1) / sb - off / sb + 1)).all (fun i => x.grp.servers[(off / sb + i) % x.grp.servers.length]? == some u)

/-- Whether a range meets one already written. -/
def wrote (x : Strike) (off m : Nat) : Bool := x.got.any (fun e => decide (e.1 < off + m ∧ off < e.1 + e.2))

/-- Whether a range meets that of a frame of the strike that waits for placement. -/
def queuedFor (s : State) (sid off m : Nat) : Bool :=
  s.ports.any (fun e => e.2.dataq.any (fun q => match q.dest with
    | some (some (i, o)) => i == sid && decide (o < off + m ∧ off < o + q.pay.length)
    | _ => false))

/-- RESULT (R323, R331, R333): one of another epoch counts in both places (log entry 107). -/
def execResult (pt : Port) (s : State) : Res :=
  let n := pt.val
  match nextData (s.port n) with
  | none => .next s
  | some (i, r) =>
    if zType r.hdr ≠ 8 then .next s
    else if hdrBad r ≠ 0 then .next (countBad (dropData s n i) n (hdrBad r))
    else
      let (ok, s) := sequence s n r
      if !ok then .next (dropData s n i)
      else
        let s := acceptFrame s n r
        let p := peerOwner s n r.peer
        let stale := match groupOf s p (zGroup r.hdr) with
          | some (_, g) => g.epoch != zEpoch r.hdr
          | none => false
        let hit := (strikes s).find? (fun e => e.1 / 512 == p && e.2.kind == 3 && e.2.ph == .data && e.2.code == 0 &&
          e.2.grp.id == zGroup r.hdr && e.2.grp.epoch == zEpoch r.hdr && e.2.op == zOp r.hdr)
        if stale then .next (placeData (collLate (wpCount s n 0x0A8 1) p) n i none)
        else match hit with
          | none => .next (placeData (collLate s p) n i none)
          | some (_, x) =>
            let m := r.pay.length
            if !onWire x (n, r.peer) (zOff r.hdr) m || wrote x (zOff r.hdr) m || queuedFor s x.sid (zOff r.hdr) m then
              .next (placeData (collLate s p) n i none)
            else .next (placeData s n i (some (x.sid, zOff r.hdr)))

/-- ABORT: accepted on the control sequence; nothing else follows at a member (R319, R323). -/
def execZaruxAbort (pt : Port) (s : State) : Res :=
  .next (takeCtl s pt.val 9 (fun s r =>
    let n := pt.val
    let (ok, s) := sequence s n r
    if !ok then s
    else
      let s := acceptFrame s n r
      match groupOf s (peerOwner s n r.peer) (zGroup r.hdr) with
      | some (_, g) => if g.epoch = zEpoch r.hdr then s else wpCount s n 0x0A8 1
      | none => s))

/-- The words of a NOTICE frame as its queue holds them (R315, R316). -/
def noticeWords (r : RxFrame) : List PWord :=
  let ws := bytesWords r.pay
  ⟨BitVec.ofNat 32 (r.peer * 65536 + ws.length), false⟩ :: ws.zipIdx.map (fun e => ⟨e.1, r.bad.contains (e.2 + 8)⟩)

/-- NOTICE: the payload enters the notice queue; without room the frame is dropped and its sender recovers it (R315). -/
def execNotice (pt : Port) (s : State) : Res :=
  .next (takeCtl s pt.val 10 (fun s r =>
    let n := pt.val
    let (ok, s) := sequence s n r
    if !ok then s
    else if 1024 < (s.port n).notice.length + (noticeWords r).length then wpDrop s n
    else
      let s := acceptFrame s n r
      s.setPort n { s.port n with notice := (s.port n).notice ++ noticeWords r }))

/-- Writes some bytes to the runs they belong to. -/
def writeRuns (s : State) (p : Nat) : List (Nat × Nat) → List PWord → State
  | [], _ => s
  | (a, m) :: t, ws => writeRuns (t2WriteBytes (t2Wait s p a m) p a m ws) p t (ws.drop ((m + 3) / 4))

/-- Bytes of a strike's destination written. -/
def gotBytes (x : Strike) : Nat := (x.got.map (·.2)).sum

/-- Whether a strike's destination is whole. -/
def wholeDst (x : Strike) : Bool :=
  if x.kind = 2 then decide (x.len ≤ gotBytes x) else decide (x.wire x.elems ≤ gotBytes x)

/-- DATA_PLACEMENT: the placement stage takes the frame at the head of the data queue, once decided on, and writes T2; words
whose parity fails are written poisoned (R315, R316, R333). -/
def execDataPlacement (pt : Port) (s : State) : Res :=
  let n := pt.val
  match (s.port n).dataq with
  | [] => .next s
  | r :: _ =>
    match r.dest with
    | none => .next s
    | some d =>
      let s := dropData s n 0
      match d with
      | none => .next s
      | some (sid, off) =>
        match (strikes s).find? (fun e => e.2.sid == sid && e.2.code == 0) with
        | none => .next (collLate s (peerOwner s n r.peer))
        | some (k, x) =>
          let p := k / 512
          let m := r.pay.length
          let ws : List PWord := (bytesWords r.pay).zipIdx.map (fun e => ⟨e.1, r.bad.contains (e.2 + 8)⟩)
          let runs := if x.kind = 2 then [(x.dst + off, m)] else x.runs x.dst off m
          let s := if x.mute then s else cntAdd (writeRuns s p runs ws) p 0 0x500068 m
          let bad := poisonedIn ws
          let s := countBad s n bad
          let x := { x with got := x.got ++ [(off, m)] }
          let s := updStrike s k sid (fun _ => if wholeDst x then { x with code := 1 } else x)
          .next (promote s n 64)

/-! ## Sending (R310, R322, R355) -/

/-- The next control frame of a port: unsequenced frames first, then the control sequence, lowest peer first; none while PFC pauses
PRI_CTL (R309). -/
def nextCtl (x : PortS) : Option (Nat × Bool) :=
  if x.pfcCtl then none
  else match x.conns.find? (fun e => !e.2.unseq.isEmpty) with
  | some e => some (e.1, true)
  | none => (x.conns.find? (fun e => e.2.st == .opened && decide (e.2.ctl.sent < min e.2.ctl.q.length 1024))).map (fun e => (e.1, false))

/-- Peers of a port with a DATA or RESULT frame ready, and the partition each belongs to. -/
def readyData (s : State) (n : Nat) : List (Nat × Nat) :=
  let x := s.port n
  if x.paused then []
  else (x.conns.filter (fun e => e.2.st == .opened && decide (e.2.data.sent < min e.2.data.q.length 1024))).map
    (fun e => (e.1, peerOwner s n e.1))

/-- A partition's share of a port, in sixteenths (R355). -/
def portShare (s : State) (p n : Nat) : Nat :=
  if (s.part p).shareFull.getLsbD n then 16 else fld (s.part p).share (4 * n + 3) (4 * n)

/-- Weighted round robin by share: the next partition after the last served that has credit; when none has, credits are given
anew; partitions of share 0 send on lent capacity only (R355). -/
def pickPart (s : State) (n : Nat) (ps : List Nat) : Option (Nat × Tab Nat) :=
  let x := s.port n
  let order := ((List.range 17).map (fun i => (x.last + i) % 17)).filter ps.contains
  let pick (cr : Tab Nat) : Option (Nat × Tab Nat) :=
    (order.find? (fun p => decide (0 < Tab.get 0 cr p))).map (fun p => (p, Tab.set 0 cr p (Tab.get 0 cr p - 1)))
  match pick x.credit with
  | some r => some r
  | none =>
    let fresh : Tab Nat := partNums.foldl (fun t p => Tab.set 0 t p (portShare s p n)) []
    match pick fresh with
    | some r => some r
    | none => order.head?.map (fun p => (p, fresh))

/-- Sends the next sequenced frame of a connection; one sent before counts as a retransmission (R322). -/
def sendNext (s : State) (n peer : Nat) (ctl : Bool) : State :=
  let c := (s.port n).conn peer
  let d := c.dir ctl
  match d.q[d.sent]? with
  | none => s
  | some f =>
    let again := decide (d.sent < d.ever)
    let s := updConn s n peer (fun c => c.setDir ctl { d with sent := d.sent + 1, ever := max d.ever (d.sent + 1) })
    let s := f.runs.foldl (fun s r => t2Wait s f.part r.1 r.2) (emitFrame s n peer f (d.base + BitVec.ofNat 32 d.sent) d.exp)
    let s := if again then wpCount s n 0x098 1 else s
    if ctl then s
    else
      let bytes := (f.runs.map (·.2)).sum
      let bad := if again then 0 else (f.runs.map (runPoison s f.part)).sum
      let s := cntAdd s f.part 0 0x500060 bytes
      if bad = 0 then s
      else
        let s := cntAdd s f.part 0 0xD00048 bad
        let add (e : Nat × Chain) : Nat × Chain :=
          (e.1, { e.2 with prog := e.2.prog.map (fun x => if x.sid = f.sid then { x with poison := x.poison + bad } else x) })
        { s with chains := s.chains.map add }

/-- FRAME_SEND: the port engine sends the next ready frame: control frames first, then data by weighted round robin (R314,
R355; log entry 29). -/
def execFrameSend (pt : Port) (s : State) : Res :=
  let n := pt.val
  let x := s.port n
  if !x.carries then .next s
  else match nextCtl x with
    | some (peer, true) =>
      match (x.conn peer).unseq with
      | [] => .next s
      | f :: rest => .next (emitFrame (updConn s n peer (fun c => { c with unseq := rest })) n peer f 0 (x.conn peer).ctl.exp)
    | some (peer, false) => .next (sendNext s n peer true)
    | none =>
      let ready := readyData s n
      match pickPart s n (ready.map (·.2)) with
      | none => .next s
      | some (p, cr) =>
        match ready.find? (fun e => e.2 == p) with
        | none => .next s
        | some (peer, _) => .next (sendNext (s.setPort n { s.port n with credit := cr, last := p }) n peer false)

/-- ACK_TIMER: an accepted frame has waited 2 µs for its acknowledgement (R321). -/
def execAckTimer (pt : Port) (peer : Fin 64) (s : State) : Res :=
  let c := (s.port pt.val).conn peer.val
  .next (if c.st = .opened ∧ (c.data.since ≠ 0 ∨ c.ctl.since ≠ 0) then sendAckFrame s pt.val peer.val else s)

/-- RTO_EXPIRY: an RTO without progress on a priority that has frames unacknowledged (R320, R322). The timer is held while the priority is
paused. -/
def execRtoExpiry (pt : Port) (peer : Fin 64) (pri : Bool) (s : State) : Res :=
  let n := pt.val
  let x := s.port n
  let c := x.conn peer.val
  let d := c.dir pri
  match c.st with
  | .opening =>
    .next (if pri && c.unseq.isEmpty && !x.pfcCtl then sendUnseq s n peer.val (plainFrame 1 [x.session, 0]) else s)
  | .opened =>
    if (if pri then x.pfcCtl else x.paused) then .next s
    else
      let s := updConn s n peer.val (fun c => c.setDir pri { c.dir pri with nak := false })
      if d.ever = 0 then .next s
      else if fld (regGet s 0 0 (wpOff n 0x030)) 23 16 ≤ d.tries + 1 then
        let p := peerOwner s n peer.val
        let s := wpFault (connLost s n peer.val .failed 4) n 4
        .next (reportP s 0x0D .unit 1 p (portUnit n) (BitVec.ofNat 32 n) (BitVec.ofNat 32 peer.val))
      else .next (updConn s n peer.val (fun c => c.setDir pri { c.dir pri with sent := 0, tries := d.tries + 1 }))
  | _ => .next s

/-! ## Time, addresses, registers -/

/-- NEIGHBOUR_SOLICITATION for the port's own address is answered to the address of a valid peer entry (R309, R310). -/
def execNeighbourSolicitation (pt : Port) (target src : BitVec 128) (s : State) : Res :=
  .next (if (s.port pt.val).carries ∧ target = portIp s pt.val ∧ (peerOf s pt.val src).isSome then emit s (.advert pt.val target src) else s)

/-- A read of the low word of WP_NQ_DATA: one word leaves the notice queue; the high word holds VALID and POISON (R15, R316,
R335). -/
def noticeRead (s : State) (fn n : Nat) : Word × State :=
  let x := s.port n
  let b := Tab.get ({} : FnBuf) s.fns fn
  match x.notice with
  | [] => (0, { s with fns := Tab.put s.fns fn { b with shadow := some (wpOff n 0x050, 0) } })
  | w :: rest =>
    let hi : Word := bits 31 31 ||| (if w.poison then bits 30 30 else 0)
    let s := { (s.setPort n { x with notice := rest }) with fns := Tab.put s.fns fn { b with shadow := some (wpOff n 0x050, hi) } }
    (w.val, if w.poison then wpFault (wpCount s n 0x0B0 1) n 2 else s)

/-- WP_NQ_DATA_READ: zero in a virtual function's window (R335). -/
def execWpNqDataRead (fn : Func) (pt : Port) (s : State) : Res :=
  if fn.val ≠ 0 then .next (emit s (.read fn.val 0))
  else
    let (w, s) := noticeRead s 0 pt.val
    .next (emit s (.read 0 w))

/-- A write of WP_PEER_CTRL: a change of VALID or of the address ends the connection with PEER_LOST (R335). -/
def peerCtrlWrite (s : State) (n : Nat) (v : Word) : State :=
  let peer := fld (regGet s 0 0 (wpOff n 0x034)) 5 0
  let old := peerCtrl s n peer
  let own := if 16 < fld v 20 16 then old &&& bits 20 16 else v &&& bits 20 16
  let new := (v &&& (bits 31 31 ||| bits 15 0)) ||| own
  let s := regSet s 0 peer (wpOff n 0x038) new
  if new &&& (bits 31 31 ||| bits 15 0) = old &&& (bits 31 31 ||| bits 15 0) then s else connLost s n peer .closed 4

def execWpPeerCtrlWrite (pt : Port) (v : BitVec 32) (s : State) : Res := .next (peerCtrlWrite s pt.val v)

/-- A write of one of the other words of a peer entry: an address that changes ends its connection with PEER_LOST. -/
def peerAddrWrite (s : State) (n o : Nat) (v : Word) : State :=
  let peer := fld (regGet s 0 0 (wpOff n 0x034)) 5 0
  let old := regGet s 0 peer (wpOff n o)
  let s := regSet s 0 peer (wpOff n o) v
  if v = old then s else connLost s n peer .closed 4

def ConnSt.code : ConnSt → Nat
  | .closed => 0 | .opening => 1 | .opened => 2 | .failed => 3

def PortSt.code : PortSt → Nat
  | .down => 0 | .training => 1 | .securing => 2 | .up => 3 | .stalled => 4 | .offline => 5 | .failed => 6

/-- A read of the WP_ block (R335). -/
def readWp (s : State) (fn o : Nat) : Word :=
  if 0x8000 ≤ o then
    match o with
    | 0x8000 => if fn = 0 then regGet s 0 0 0x408000 ||| (if s.ptpLock then bits 30 30 else 0) else 0
    | 0x8008 => s.time.truncate 32
    | 0x800C => (s.time >>> 32).truncate 32
    | _ => 0
  else
    let n := o / 0x1000
    let x := s.port n
    let peer := fld (regGet s 0 0 (wpOff n 0x034)) 5 0
    let r := o % 0x1000
    if r = 0 then BitVec.ofNat 32 x.st.code
    else if fn ≠ 0 then 0
    else match r with
      | 0x004 => 0
      | 0x008 => regGet s 0 0 (wpOff n 0x008) |||
          BitVec.ofNat 32 (x.xoffIn.toNat * 2 ^ 30 + x.xoffOut.toNat * 2 ^ 29 + (x.fill + 1023) / 1024)
      | 0x010 => (Config.mac + BitVec.ofNat 48 n).truncate 32
      | 0x014 => ((Config.mac + BitVec.ofNat 48 n) >>> 32).truncate 32
      | 0x038 => peerCtrl s n peer ||| BitVec.ofNat 32 ((x.conn peer).st.code * 2 ^ 28)
      | 0x050 => 0
      | 0x054 => 0
      | _ => if 0x03C ≤ r ∧ r < 0x050 then regGet s 0 peer (wpOff n r) else regGet s 0 0 (0x400000 + o)

end Sys2Proof.Machine
end

