-- ==== Sys2Proof/Machine/Coll.lean ====
section
/-! DEFINITION. Strike chains and groups (R324 to R334, R336, R442, R453). -/

namespace Sys2Proof.Machine

/-! ## Chains -/

def chainSel (s : State) (p : Nat) : Nat := fld (regGet s p 0 0x500004) 8 0
def chainPort (s : State) (p ch : Nat) : Nat := fld (regGet s p ch 0x500010) 29 27
def chainBase (s : State) (p ch : Nat) : Nat := (reg64 s p ch 0x500008).toNat % 2 ^ 48
def chainLen (s : State) (p ch : Nat) : Nat := fld (regGet s p ch 0x500014) 12 0

/-- A command or write refused (R336). -/
def chainRefuse (s : State) (p ch : Nat) : State := regOr s p ch 0x50001C (bits 29 29)

/-- Chains running on a port engine (R324). -/
def runningOn (s : State) (n : Nat) : Nat :=
  (s.chains.filter (fun e => e.2.st == .running && chainPort s (e.1 / 512) (e.1 % 512) == n)).length

/-- START: the chain runs from strike 0. It is refused where the chain runs or has strikes in progress, where the port engine
runs 64 chains, and beyond the grant (R324; log entry 30). -/
def chainStart (s : State) (p : Nat) : State :=
  let ch := chainSel s p
  let k := chainKey p ch
  let c := chain s k
  if (s.part p).chains ≤ ch ∨ c.st = .running ∨ c.prog.isEmpty = false ∨ 64 ≤ runningOn s (chainPort s p ch) then chainRefuse s p ch
  else setChain s k { st := .running }

def execChainStart (p : Vf) (s : State) : Res := .next (chainStart s (vfPart p))

/-- STOP: the strikes in progress end ABORTED and no further strike starts; a chain with none to end so is IDLE once those that have
ended complete (R328; log entry 30). -/
def chainStop (s : State) (p : Nat) : State :=
  let ch := chainSel s p
  let k := chainKey p ch
  let c := chain s k
  if (s.part p).chains ≤ ch then chainRefuse s p ch
  else
    let s := { s with watches := s.watches.filter (fun w => w.who != .chain k) }
    let cut := c.prog.any (fun x => x.code == 0)
    let s := abortStrikes s (fun k' _ => k' == k) 8
    let st := if c.st = .halted ∨ cut = true then .halted else .idle
    setChain s k { chain s k with st := if c.prog.isEmpty then .idle else st }

def execStop (p : Vf) (s : State) : Res := .next (chainStop s (vfPart p))

/-- A write of COLL_CHAIN_CMD (R336). -/
def chainCmd (s : State) (p : Nat) (v : Word) : State :=
  match fld v 31 28 with
  | 1 => chainStart s p
  | 2 => chainStop s p
  | _ => chainRefuse s p (chainSel s p)

/-! ## Strikes -/

/-- Whether a strike entry fails R325, or its DST partly overlaps its SRC. -/
def badStrike (x : Strike) (g : Group) : Bool :=
  let w := x.w
  let z := fld (w 0) 17 16 != 0 || !((List.range 5).all (fun i => w (11 + i) == 0)) || fld (w 9) 31 16 != 0 || !(w 0).getLsbD 31
  let noRed := fld (w 0) 27 20 != 0
  match x.kind with
  | 0 => z || noRed || w 2 != 0 || w 3 != 0 || w 4 != 0 || w 5 != 0 || w 6 != 0 || w 7 != 0 || w 8 != 0
  | 1 => z || noRed || fld (w 3) 31 16 != 0 || fld (w 2) 4 0 != 0 || w 4 != 0 || w 5 != 0 || fld (w 7) 25 5 != 0 ||
      x.len == 0 || decide (2 ^ 36 < x.len)
  | 2 => z || noRed || fld (w 5) 31 16 != 0 || fld (w 4) 4 0 != 0 || w 2 != 0 || w 3 != 0 || fld (w 7) 25 5 != 0 ||
      x.len == 0 || decide (2 ^ 36 < x.len)
  | 3 =>
    let n := x.elems * x.esize + (if x.mx then x.elems / 32 else 0)
    z || !(x.fmt == 8 || x.fmt == 7 || x.mx) || decide (1 < fld (w 0) 23 20) || fld (w 3) 31 16 != 0 ||
      fld (w 5) 31 16 != 0 || fld (w 2) 4 0 != 0 || fld (w 4) 4 0 != 0 || fld (w 7) 31 20 != 0 || fld (w 7) 15 0 != 0 ||
      decide (x.elems < 1024 ∨ 2 ^ 32 - 1024 < x.elems ∨ x.elems % 32 ≠ 0) || !g.valid ||
      (x.src != x.dst && decide (x.src < x.dst + n ∧ x.dst < x.src + n))
  | _ => true

/-- Whether WAIT_CHIME has been reached; a chime beyond the quota reads zero (R111, R326). -/
def waitMet (s : State) (p : Nat) (ent : List Word) : Bool :=
  let w0 := ent.getD 0 0
  !w0.getLsbD 19 || atOrPast (partChimeVal s p (fld w0 15 0)) (ent.getD 1 0)

/-- Adds a strike to those in progress of its chain, which goes on to its next. -/
def addStrike (s : State) (k : Nat) (x : Strike) (len : Nat) (rep : Bool) : State :=
  let c := chain s k
  let nx := c.next + 1
  let nx := if nx < len ∨ !rep then nx else 0
  { setChain s k { c with next := nx, prog := c.prog ++ [x] } with strikeSeq := s.strikeSeq + 1 }

/-- COUNTS for server i of a REDUCE (R331). -/
def countsFrame (x : Strike) (p i : Nat) : TxFrame :=
  let lit : List Word := [BitVec.ofNat 32 x.grp.n, x.w 6, BitVec.ofNat 32 (x.fmt * 2 ^ 28 + fld (x.w 0) 23 20 * 2 ^ 24),
    BitVec.ofNat 32 x.grp.shard, BitVec.ofNat 32 x.grp.servers.length, BitVec.ofNat 32 i, 0, 0]
  ⟨5, BitVec.ofNat 32 (x.grp.id * 65536 + x.grp.member), x.grp.epoch, x.op, 0, lit, [], p, x.sid⟩

/-- A strike whose DST leaves the grant writes nothing: one violation, and T2_QUOTA in COLL_FAULT and in TIER_FAULT (R242, R329). -/
def muteDst (s : State) (p : Nat) : State := tierFault (regOr (violate s p 1) p 0 0x50004C 0x10) p 4

/-- What a strike does as it starts (R327, R329, R331). -/
def beginStrike (s : State) (p ch : Nat) (x : Strike) (len : Nat) (rep : Bool) : State :=
  let k := chainKey p ch
  let port := chainPort s p ch
  let done (s : State) (c : Nat) : State := addStrike s k { x with code := c } len rep
  let up (u : Nat × Nat) : Bool := (s.port u.1).carries
  match x.kind with
  | 0 => done s 1
  | 1 =>
    if !up (port, 0) then done s 6
    else if !peerOwned s port x.peer p then done (violate s p 6) 1
    else
      let x := { x with uses := [(port, x.peer)] }
      let s := t2Bound s p x.src x.len
      let s := addStrike (needConn s port x.peer) k x len rep
      (cutRange 0 x.len (x.len / 8192 + 1)).foldl (fun s r =>
        sendSeq s port x.peer ⟨7, 0, 0, x.op, BitVec.ofNat 32 (r.1 / 32), [], [(x.src + r.1, r.2)], p, x.sid⟩) s
  | 2 =>
    if !up (port, 0) then done s 6
    else if !peerOwned s port x.peer p then done (violate s p 6) 1
    else
      let mute := !t2In s p x.dst x.len
      let s := if mute then muteDst s p else s
      promote (addStrike s k { x with uses := [(port, x.peer)], mute := mute, ph := .waiting } len rep) port 64
  | _ =>
    if !x.grp.servers.all up then done s 6
    else
      let n := x.wire x.elems
      let mute := !t2In s p x.dst n
      let s := if mute then muteDst s p else s
      let s := t2Bound s p x.src n
      let s := addStrike s k { x with uses := x.grp.servers, mute := mute, ph := .counts } len rep
      x.grp.servers.zipIdx.foldl (fun s e => sendSeq (needConn s e.1.1 e.1.2) e.1.1 e.1.2 (countsFrame x p e.2)) s

/-- STRIKE_START: the next strike of a RUNNING chain starts, once fewer than 8 are in progress and its chime is reached; until
then one watch is posted (R326). -/
def execStrikeStart (p : Vf) (ch : Fin 512) (s : State) : Res :=
  let q := vfPart p
  let k := chainKey q ch.val
  let c := chain s k
  let len := chainLen s q ch.val
  if c.st ≠ .running ∨ len ≤ c.next ∨ 8 ≤ c.prog.length then .next s
  else
    let a := chainBase s q ch.val + 64 * c.next
    let ent := (t2Read s q a 16).map (·.val)
    let w0 := ent.getD 0 0
    let posted := s.watches.any (fun w => w.who == .chain k)
    if !waitMet s q ent then
      if posted then .next s
      else
        let s := if fld w0 15 0 < (s.part q).chimeCount then s else violate s q 3
        .next { s with watches := s.watches ++ [⟨watchKey s q (fld w0 15 0), ent.getD 1 0, .chain k⟩] }
    else
      let s := { s with watches := s.watches.filter (fun w => w.who != .chain k) }
      let s := t2Touch s q a 64
      let g := fld (ent.getD 7 0) 19 16
      let grp := group s q g
      let x : Strike := ⟨s.strikeSeq, c.next, ent, .plain, 0, false, g, grp, [], [], [], 0⟩
      let rep := (regGet s q ch.val 0x500010).getLsbD 31
      if badStrike x grp then .next (addStrike s k { x with code := 7 } len rep)
      else .next (beginStrike s q ch.val x len rep)

/-- SHARDS of w10 (R325, R328). -/
def wholeShards (x : Strike) : Nat := if x.kind = 3 ∧ x.grp.shard ≠ 0 then ((List.range x.shards).filter (shardWhole x)).length else 0

/-- PREFIX k: the leading whole shards of server k (R453). -/
def prefixOf (x : Strike) (k : Nat) : Nat :=
  if x.kind ≠ 3 ∨ x.grp.shard = 0 ∨ x.grp.servers.length ≤ k then 0
  else (((List.range x.shards).filter (fun i => i % x.grp.servers.length == k)).takeWhile (shardWhole x)).length

/-- The halt record of a partition (R453, R458). -/
def haltRecord (s : State) (p ch : Nat) (x : Strike) : State :=
  let s := regSet s p 0 0xD00080 (BitVec.ofNat 32 (2 ^ 31 + ch * 2 ^ 20 + x.code * 2 ^ 12 + x.idx % 4096))
  let s := regSet s p 0 0xD00084 x.op
  let s := regSet s p 0 0xD00088 (if x.kind = 3 then x.grp.epoch else 0)
  let s := regSet s p 0 0xD0008C (BitVec.ofNat 32 ((if x.kind = 3 then x.gnum else 0) * 2 ^ 28 + wholeShards x % 2 ^ 24))
  let s := (List.range 64).foldl (fun s k => regSet s p 0 (0xD00100 + 4 * k) (BitVec.ofNat 32 (prefixOf x k))) s
  regOr s p 0 0xD00014 (bits 30 30)

/-- A strike that ended otherwise than DONE halts its chain (R328, R453, R455). -/
def haltChain (s : State) (p ch : Nat) (x : Strike) : State :=
  let k := chainKey p ch
  let c := chain s k
  let first := !c.failed
  let s := setChain s k { c with st := .halted, code := if first then x.code else c.code, failed := true }
  let s := regOr s p 0 0x50004C 1
  let s := reportP s 0x0B .part 2 p 0 (BitVec.ofNat 32 ch) (BitVec.ofNat 32 (x.code * 2 ^ 12 + x.idx % 4096))
  let s := haltRecord s p ch x
  let w := regGet s p ch 0x500010
  if first && w.getLsbD 30 then partAdvance s p (fld w 15 0) 1 else s

/-- STRIKE_COMPLETE: the strike at place k of those in progress, once it has ended, writes its code and advances its chime or
halts its chain (R326, R328, R442). -/
def execStrikeComplete (p : Vf) (ch : Fin 512) (k : Nat) (s : State) : Res :=
  let q := vfPart p
  let key := chainKey q ch.val
  let c := chain s key
  match c.prog[k]? with
  | none => .next s
  | some x =>
    if x.code = 0 then .next s
    else
      let s := setChain s key { c with prog := c.prog.eraseIdx k }
      let s := dropFrames s (fun f => f.sid == x.sid && f.type != 9)
      let a := chainBase s q ch.val + 64 * x.idx + 40
      let s := t2Write (t2Touch s q a 4) q a [⟨BitVec.ofNat 32 (x.code * 2 ^ 24 + wholeShards x % 2 ^ 24), false⟩]
      let s := if x.poison = 0 then s
        else reportP s 0x2B .part 1 q 0 (BitVec.ofNat 32 ch.val) (BitVec.ofNat 32 x.poison)
      let s := if x.code = 1 then
          let s := cntAdd s q 0 0x500050 1
          if (x.w 0).getLsbD 18 then partAdvance s q (fld (x.w 9) 15 0) 1 else s
        else haltChain s q ch.val x
      let c := chain s key
      let s := if c.st = .running ∧ chainLen s q ch.val ≤ c.next ∧ c.prog.isEmpty then setChain s key { c with st := .idle } else s
      .next ((List.range 8).foldl (fun s n => promote s n 64) s)

/-- COLL_TIMEOUT: a REDUCE waits too long for its verdicts or for a RESULT byte (R331). -/
def execCollTimeout (p : Vf) (ch : Fin 512) (k : Nat) (s : State) : Res :=
  match (chain s (chainKey (vfPart p) ch.val)).prog[k]? with
  | some x =>
    if x.kind = 3 ∧ x.code = 0 ∧ (x.ph = .counts ∨ x.ph = .data) then .next (abortStrikes s (fun _ y => y.sid == x.sid) 5)
    else .next s
  | none => .next s

/-! ## Groups (R330, R334) -/

def groupRefuse (s : State) (p : Nat) : State := regOr s p 0 0x50003C (bits 31 31)
def groupSel (s : State) (p : Nat) : Nat := fld (regGet s p 0 0x500020) 3 0

/-- The group as staged. -/
def staged (s : State) (p : Nat) : Group :=
  let id := regGet s p 0 0x500024
  let n := regGet s p 0 0x500028
  let srv := (List.range (fld id 6 0)).map (fun i => let w := regGet s p i 0x500044; (fld w 10 8, fld w 5 0))
  ⟨true, fld id 31 16, fld n 12 0, fld n 27 16, regGet s p 0 0x500038, (regGet s p 0 0x50002C).toNat, srv⟩

/-- Whether the staged fields are in range and every peer is owned (R330, R336). -/
def stagedOk (s : State) (p : Nat) : Bool :=
  let g := staged s p
  decide (1 ≤ g.servers.length ∧ g.servers.length ≤ 64 ∧ 2 ≤ g.n ∧ g.n ≤ 4096 ∧ g.member < g.n ∧ g.shard ≠ 0 ∧ g.shard % 1024 = 0) &&
    g.servers.all (fun u => peerOwned s u.1 u.2 p)

/-- Strikes of group g of partition p in progress. -/
def ofGroup (p g : Nat) (k : Nat) (x : Strike) : Bool := k / 512 == p && x.kind == 3 && x.gnum == g && x.code == 0

def groupSet (s : State) (p : Nat) : State :=
  let g := groupSel s p
  if !stagedOk s p || (strikes s).any (fun e => ofGroup p g e.1 e.2) then groupRefuse s p
  else { s with groups := Tab.put s.groups (p * 16 + g) (staged s p) }

def execSet (p : Vf) (s : State) : Res := .next (groupSet s (vfPart p))

def groupReform (s : State) (p : Nat) : State :=
  let g := groupSel s p
  let d := ((staged s p).epoch - (group s p g).epoch).toNat
  if stagedOk s p = false ∨ d = 0 ∨ 2 ^ 31 ≤ d then groupRefuse s p
  else
    let hit := (strikes s).any (fun e => ofGroup p g e.1 e.2)
    let s := abortStrikes s (ofGroup p g) 3
    let s := if hit then regOr s p 0 0x50004C 4 else s
    { s with groups := Tab.put s.groups (p * 16 + g) (staged s p) }

def execReform (p : Vf) (s : State) : Res := .next (groupReform s (vfPart p))

/-- A write of COLL_GROUP_CMD (R336). -/
def groupCmd (s : State) (p : Nat) (v : Word) : State :=
  match fld v 31 28 with
  | 1 => groupSet s p
  | 2 => groupReform s p
  | _ => groupRefuse s p

/-- A write of a chain's own registers, allowed only while it is IDLE and in the grant (R324, R336). -/
def chainWrite (s : State) (p : Nat) (f : Nat → State) : State :=
  let ch := chainSel s p
  if (chain s (chainKey p ch)).st = .idle ∧ ch < (s.part p).chains then f ch else chainRefuse s p ch

def ChainSt.code : ChainSt → Nat
  | .idle => 0 | .running => 1 | .halted => 2

/-- A read of the COLL_ block of partition p (R336). -/
def readColl (s : State) (p o : Nat) : Word :=
  let ch := chainSel s p
  let c := chain s (chainKey p ch)
  let g := group s p (groupSel s p)
  match o with
  | 0x00 => BitVec.ofNat 32 (s.part p).chains
  | 0x08 => regGet s p ch 0x500008
  | 0x0C => regGet s p ch 0x50000C
  | 0x10 => regGet s p ch 0x500010
  | 0x14 => regGet s p ch 0x500014
  | 0x18 => 0
  | 0x1C => regGet s p ch 0x50001C ||| BitVec.ofNat 32 (c.st.code * 2 ^ 30 + c.code * 2 ^ 16 + c.next)
  | 0x30 => g.epoch
  | 0x34 => 0
  | 0x3C => regGet s p 0 0x50003C ||| (if g.valid then bits 30 30 else 0)
  | 0x44 => regGet s p (fld (regGet s p 0 0x500040) 5 0) 0x500044
  | _ => regGet s p 0 (0x500000 + o)

end Sys2Proof.Machine
end

