-- ==== Sys2Proof/Machine/PartOps.lean ====
section
/-! DEFINITION. Partitions as resets, destruction and the host commands use them: quiescence (R347), the completion of a host command
(R342, R345, R346), and what a partition reset or a destruction does to each resource (R359, R360). -/

namespace Sys2Proof.Machine

/-! ## Quiescence (R347) -/

/-- Whether a global chime belongs to partition p. -/
def chimeIn (s : State) (p g : Nat) : Bool :=
  decide ((s.part p).chimeBase ≤ g ∧ g < (s.part p).chimeBase + (s.part p).chimeCount)

/-- Whether a module stream belongs to partition p. -/
def streamIn (s : State) (p k : Nat) : Bool :=
  decide ((s.part p).strmBase ≤ k ∧ k < (s.part p).strmBase + (s.part p).strmCount)

/-- Whether a core's key lies in one of the fields. -/
def inFields (s : State) (fs : BitVec 84) (k : Nat) : Bool := fs.getLsbD (fieldOfKey s k)

/-- No core runs or waits, and no delivery is pending to one. -/
def coresStill (s : State) (p : Nat) : Bool :=
  s.cores.all (fun e => partOfKey s e.1 != p || (e.2.st != .running && e.2.st != .waiting)) &&
    s.routers.all (fun e => partOfKey s e.1 != p || e.2.inbox.isEmpty)

/-- No word is present on a track granted to p. -/
def tracksEmpty (s : State) (p : Nat) : Bool :=
  s.routers.all (fun e => (List.range 20).all (fun i =>
    trackOwner s e.1 (i / 4) (i % 4) != p || ((Tab.get [] e.2.inq i).isEmpty && (Tab.find e.2.rx i).isNone)))

/-- Every stream of p is IDLE and none is attaching. -/
def streamsIdle (s : State) (p : Nat) : Bool := s.streams.all (fun e => !streamIn s p e.1 || (e.2.isIdle && !e.2.attaching))

/-- No pass is open at a slice. -/
def Slice.still (x : Slice) : Bool := x.computing.isEmpty && x.writing.isEmpty && x.slots.all (fun e => e.2.opens.isEmpty)

/-- The OPCODE of a command entry (R343). -/
def HCmd.op (c : HCmd) : Nat := fld (c.w.getD 0 0) 31 24

def hq (s : State) (p q : Nat) : HQueue := Tab.get {} s.hqs (p * 8 + q)
def setHq (s : State) (p q : Nat) (x : HQueue) : State := { s with hqs := Tab.put s.hqs (p * 8 + q) x }

/-- Whether a queue has a command in progress other than CHIME_WAIT. -/
def HQueue.works (x : HQueue) : Bool :=
  match x.cmd with
  | some c => x.cpl.isNone && c.op != 6
  | none => false

/-- Whether partition p is quiescent, seen from its queue `q` (8 for none). A CHIME_WAIT's watch is a watch at a home (R350) and
counts while it is pending (log entry 63). -/
def quiescent (s : State) (p q : Nat) : Bool :=
  coresStill s p && tracksEmpty s p && streamsIdle s p &&
    s.chains.all (fun e => e.1 / 512 != p || (e.2.st == .idle && e.2.prog.isEmpty)) &&
    (s.part p).lanes.all (fun n => (s.lane n).st != .busy) &&
    s.watches.all (fun w => !chimeIn s p w.chime) &&
    s.slices.all (fun e => !(s.part p).fields.getLsbD e.1 || e.2.still) &&
    (Tab.find s.wst.xfers p).isNone &&
    (List.range 8).all (fun i => i == q || !(hq s p i).works)

/-! ## The end of a host command (R342, R344 to R346, R352) -/

/-- The offset of a register of queue q (R362). -/
def hqOff (q o : Nat) : Nat := 0x100000 + 0x100 * q + o
def hqCtrl (s : State) (p q : Nat) : Word := regGet s p 0 (hqOff q 0x10)
def hqOn (s : State) (p q : Nat) : Bool := (hqCtrl s p q).getLsbD 31
/-- Entries of the rings. -/
def hqSize (s : State) (p q : Nat) : Nat := 2 ^ fld (hqCtrl s p q) 23 20

/-- The command of queue q ends with a status and a result; its completion entry follows (R345). -/
def endCmd (s : State) (p q : Nat) (st : BitVec 8) (res : Word) : State := setHq s p q { hq s p q with cpl := some (st, res) }

/-- It ends with a status for which the spec gives no RESULT: that word is free (log entry 31). -/
def failCmd (s : State) (p q : Nat) (st : BitVec 8) : State :=
  let (w, s) := drawWord s
  endCmd s p q st w

/-- Writes the completion entry of an ended command, or holds it for ring space (R342, R345, R346). -/
def writeCpl (s : State) (p q : Nat) : State :=
  let x := hq s p q
  match x.cmd, x.cpl with
  | some c, some (st, res) =>
    let head := fld (regGet s p 0 (hqOff q 0x1C)) 15 0
    let next := (x.cplTail + 1) % hqSize s p q
    if next = head then setHq s p q { x with held := true }
    else
      let w0 := c.w.getD 0 0
      let ent : List Word := [BitVec.ofNat 32 (st.toNat * 2 ^ 24 + x.phase.toNat * 2 ^ 16 + fld w0 15 0), res,
        BitVec.ofNat 32 c.head, 0]
      let base := (reg64 s p 0 (hqOff q 0x08)).toNat
      let s := emit s (.host p (base + 16 * x.cplTail) (clean ent))
      let s := if w0.getLsbD 16 then emit s (.msix p (fld (hqCtrl s p q) 19 16)) else s
      let phase := if next = 0 then !x.phase else x.phase
      let s := setHq s p q { x with cplTail := next, phase := phase, cmd := none, cpl := none, held := false }
      let s := cntAdd s p 0 (hqOff q 0x28) 1
      if st = 1 then
        regSet s p 0 (hqOff q 0x20) ((regGet s p 0 (hqOff q 0x20) &&& bits 30 30) ||| bits 31 31 |||
          BitVec.ofNat 32 (c.op * 2 ^ 16 + fld w0 15 0))
      else s
  | _, _ => s

/-- HADDR, TADDR and LEN of a command (R343). -/
def HCmd.haddr (c : HCmd) : Nat := (c.w.getD 2 0).toNat + 2 ^ 32 * (c.w.getD 3 0).toNat
def HCmd.taddr (c : HCmd) : Nat := (c.w.getD 4 0).toNat + 2 ^ 32 * fld (c.w.getD 5 0) 15 0
def HCmd.len (c : HCmd) : Nat := (c.w.getD 6 0).toNat
def HCmd.a (c : HCmd) : Word := c.w.getD 7 0
def HCmd.b (c : HCmd) : Word := c.w.getD 8 0

/-- A command in progress is cut off: its watch is withdrawn, its host reads are retired, and what a WRITE_T2 had not written is
undefined (R352, R353; log entry 32). -/
def cutCmd (s : State) (p q : Nat) : State :=
  let x := hq s p q
  match x.cmd with
  | none => s
  | some c =>
    let s := { s with watches := s.watches.filter (fun w => w.who != .queue (p * 8 + q)) }
    match c.tag with
    | none => s
    | some t =>
      let s := setHq s p q { x with cmd := some { c with tag := none }, retired := x.retired ++ [(t, s.time)] }
      let (ws, s) := freeWords s (c.len / 4)
      t2Write s p c.taddr ws

/-- A queue is disabled: a command in progress ends ABORTED, entries not fetched are discarded; a completion already held stays held
(R341, R353). -/
def stopQueue (s : State) (p q : Nat) : State :=
  let s := if (hq s p q).cmd.isSome && (hq s p q).cpl.isNone then writeCpl (failCmd (cutCmd s p q) p q 6) p q else s
  let x := hq s p q
  let s := setHq s p q { x with tail := x.head }
  regSet s p 0 (hqOff q 0x10) (hqCtrl s p q &&& ~~~(bits 31 31))

/-! ## The effects of a partition reset (R359, R360) -/

/-- Core keys of the grid in a half-field, rising. -/
def halfKeys (s : State) (h : Nat) : List Nat := (List.range (s.gridRows * 1022)).filter (fun k => halfOfKey s k == h)

/-- The half-fields of some fields. -/
def halvesOf (fs : BitVec 84) : List Nat := (List.range 168).filter (fun h => fs.getLsbD (h / 2))

/-- The half-field writes a new copy of its region epoch (R448). -/
def newEpoch (s : State) (h : Nat) : State :=
  let r := s.region h
  s.setRegion h { r with epoch := r.epoch + 1, copy := r.epoch + 1 }

/-- Cores of the half-fields given are re-initialised (R359): SLEEPING, memory zero, registers at reset. Those of a DEAD half-field stay
FENCED (R375). -/
def freshCores (s : State) (hs : List Nat) : State :=
  let s := { s with cores := s.cores.filter (fun e => !hs.contains (halfOfKey s e.1)) }
  hs.foldl (fun s h =>
    let s := newEpoch s h
    if (s.region h).st = .dead then
      (halfKeys s h).foldl (fun s k => s.setCore (keyCore k) (({ st := .fenced } : Core).stop EXT_FENCE 0)) s
    else s) s

/-- A router with the tracks that satisfy `f` cleared: tables, words, counters (R208, R360). -/
def Router.clear (q : Router) (f : Nat → Bool) : Router :=
  let cut {α : Type} (t : Tab α) : Tab α := t.filter (fun e => !f e.1)
  { q with
    seqs := cut q.seqs, pos := cut q.pos, moved := cut q.moved, varLen := cut q.varLen, inq := cut q.inq, desync := cut q.desync,
    stalled := cut q.stalled, rx := cut q.rx, took := (cut q.took).map (fun e => (e.1, e.2.filter (fun o => !f o))),
    loops := q.loops.filter (fun e => !f (e.1 / 128)) }

/-- Tracks of partition p are cleared: tables emptied, words discarded, unacknowledged counts gone (R196, R208, R360). -/
def clearTracks (s : State) (p : Nat) : State :=
  let one (e : Nat × Router) : Nat × Router :=
    let q := e.2.clear (fun i => trackOwner s e.1 (i / 4) (i % 4) == p)
    (e.1, if partOfKey s e.1 = p then { q with routes := [], inbox := [] } else q)
  let eng (e : Nat × EngineSt) : Nat × EngineSt :=
    (e.1, { e.2 with
      inbox := e.2.inbox.filter (fun k => packetPart s k != p),
      outq := e.2.outq.filter (fun o => o.key / 256 != p),
      unacked := e.2.unacked.filter (fun u => u.1 / 256 != p) })
  { s with routers := s.routers.map one, engines := s.engines.map eng, engRoutes := Tab.set 0 s.engRoutes p 0, acks := s.acks.filter (fun a => packetPart s a.pkt != p) }

/-- Slices of the fields are emptied, their passes abandoned (R175). -/
def clearSlices (s : State) (fs : BitVec 84) : State := { s with slices := s.slices.filter (fun e => !fs.getLsbD e.1) }

/-- Chimes of partition p: watches withdrawn, values 0, pairs invalid. -/
def clearChimes (s : State) (p : Nat) : State :=
  let mine (w : Watch) : Bool := chimeIn s p w.chime || (match w.who with
    | .core c _ _ => partOfKey s (coreKey c) == p
    | .stream k => streamIn s p k
    | .chain k => k / 512 == p
    | .queue n => n / 8 == p)
  { s with
    watches := s.watches.filter (fun w => !mine w), chimes := s.chimes.filter (fun e => !chimeIn s p e.1),
    chimeTime := s.chimeTime.filter (fun e => !chimeIn s p e.1), pairs := s.pairs.filter (fun e => !chimeIn s p e.1) }

/-- Lanes of partition p: barriers abandoned; settings, releases and the SYNC_ registers at reset; FAILED lanes stay FAILED. -/
def clearLanes (s : State) (p : Nat) : State :=
  let ls := (s.part p).lanes
  let s := ls.foldl laneAbandon s
  let s := ls.foldl (fun s n => s.setLane n { owner := p, st := if (s.lane n).st = .failed then .failed else .idle }) s
  let s := s.setPart p { s.part p with laneTimeout := 1000 }
  regSet (regSet s p 0 0x80000C 0) p 0 0x800020 0

/-- A partition reset or a destruction begins: cores fenced, tracks and slices cleared, streams IDLE, strikes ABORTED, commands ABORTED
and queues disabled but for that of a REINIT (R360). -/
def beginReset (s : State) (p : Nat) (st : PartSt) (by' : Option (Fin 8)) : State :=
  let s := s.setPart p { s.part p with st := st, reinitBy := by' }
  let s := (s.part p).lanes.foldl laneAbandon s
  let s := fenceCores s p EXT_FENCE (((listedKeys s p).map keyCore))
  let s := clearSlices (clearTracks s p) (s.part p).fields
  let s := ((s.streams.filter (fun e => streamIn s p e.1)).map (·.1)).foldl streamIdle s
  let s := abortStrikes s (fun k _ => k / 512 == p) 8
  let halt (e : Nat × Chain) : Nat × Chain :=
    if e.1 / 512 = p ∧ e.2.st = .running then (e.1, { e.2 with st := if e.2.prog.isEmpty then .idle else .halted }) else e
  let s := { s with chains := s.chains.map halt }
  let s := ((List.range 8).filter (fun i => by'.map (·.val) != some i)).foldl (fun s i => stopQueue s p i) s
  clearLanes (clearChimes s p) p

/-- Physical lanes that leave a partition; a FAILED one is withheld until the next power-up test (R229). -/
def releaseLanes (s : State) (ls : List Nat) : State :=
  ls.foldl (fun s n => s.setLane n (if (s.lane n).st = .failed then { st := .failed, withheld := true } else {})) s

/-- Peer entries owned by p: OWNER 0, connections closed (R360). -/
def releasePeers (s : State) (p : Nat) : State :=
  (List.range 512).foldl (fun s i =>
    let n := i / 64
    let e := i % 64
    if peerOwner s n e = p then
      let s := regSet s 0 e (wpOff n 0x038) (peerCtrl s n e &&& ~~~(bits 20 16))
      s.setPort n ((s.port n).setConn e {})
    else s) s

/-- Set slots of p unbound, private additions deleted, a transfer in progress discarded (R268, R360). -/
def releaseT3 (s : State) (p : Nat) : State :=
  let slots := s.wst.slots.filter (fun e => e.1 / 1024 != p)
  let adds := s.wst.adds.filter (fun e => e.1 / 2 ^ 34 != p)
  { s with wst := { s.wst with slots := slots, adds := adds, xfers := Tab.drop s.wst.xfers p } }

/-- A grant register of a partition with these grants (R363). -/
def grantWord (x : Part) (o : Nat) : Word :=
  match o with
  | 0x08 => x.fields.truncate 32
  | 0x0C => (x.fields >>> 32).truncate 32
  | 0x10 => (x.fields >>> 64).truncate 32
  | 0x14 => BitVec.ofNat 32 x.chimeBase
  | 0x18 => BitVec.ofNat 32 x.chimeCount
  | 0x1C => BitVec.ofNat 32 x.lanes.length
  | 0x20 => BitVec.ofNat 32 x.strmBase
  | 0x24 => BitVec.ofNat 32 x.strmCount
  | 0x28 => BitVec.ofNat 32 x.frames.length
  | 0x2C => BitVec.ofNat 32 x.t3Units
  | 0x30 => BitVec.ofNat 32 x.t3Slots
  | 0x34 => BitVec.ofNat 32 x.watch
  | 0x38 => BitVec.ofNat 32 x.chains
  | 0x3C => x.share
  | 0x5C => x.shareFull.zeroExtend 32
  | _ => 0

/-- The values staged for partition p return to its grants (log entry 82). -/
def restage (s : State) (p : Nat) : State :=
  [0x08, 0x0C, 0x10, 0x14, 0x18, 0x1C, 0x20, 0x24, 0x28, 0x2C, 0x30, 0x34, 0x38, 0x3C, 0x40, 0x5C].foldl
    (fun s o => regSet s 0 p (0x200000 + o) (grantWord (s.part p) o)) s

/-- A destruction ends: everything the partition held is released (R360). -/
def releaseAll (s : State) (p : Nat) : State :=
  let x := s.part p
  let s := releaseT3 (releasePeers (releaseLanes (releaseFrames s x.frames) x.lanes) p) p
  let s := { s with
    streams := s.streams.filter (fun e => !streamIn s p e.1), chains := s.chains.filter (fun e => e.1 / 512 != p),
    groups := s.groups.filter (fun e => e.1 / 16 != p), transit := s.transit.filter (fun g => g.part != p) }
  restage (s.setPart p { creations := x.creations }) p

/-- Whether a strike of p is still to be completed. -/
def strikesOpen (s : State) (p : Nat) : Bool := s.chains.any (fun e => e.1 / 512 == p && !e.2.prog.isEmpty)

/-- Whether an ABORT of p for a server has still to be sent on an open connection (R329; log entry 109). -/
def abortsUnsent (s : State) (p : Nat) : Bool :=
  s.ports.any (fun e => e.2.conns.any (fun c => c.2.st == .opened && (c.2.ctl.q.drop c.2.ctl.ever).any (fun f => f.type == 9 && f.part == p)))

/-- The partition reset or destruction of p ends (R360). -/
def endReset (s : State) (p : Nat) : State :=
  let x := s.part p
  let s := freshCores s (halvesOf x.fields)
  let idle (e : Nat × Chain) : Nat × Chain := if e.1 / 512 = p then (e.1, {}) else e
  let s := { s with chains := s.chains.map idle }
  let s := match s.partCmd with
    | some c => if c.part = p then { s with partCmd := none } else s
    | none => s
  if x.st = .destroying then releaseAll s p
  else
    let s := s.setPart p { x with st := .live, routeLost := false, reinitBy := none }
    match x.reinitBy with
    | some q => if (hq s p q.val).cmd.isSome && (hq s p q.val).cpl.isNone then endCmd s p q.val 0 0 else s
    | none => s

/-- PARTITION_RESET_DONE: every step is complete, the strikes' completions written and their ABORTs sent among them (R329, R360). -/
def execPartitionResetDone (p : Vf) (s : State) : Res :=
  let n := vfPart p
  let x := s.part n
  if (x.st = .resetting ∨ x.st = .destroying) ∧ strikesOpen s n = false ∧ abortsUnsent s n = false then .next (endReset s n) else .next s

end Sys2Proof.Machine
end

