-- ==== Sys2Proof/Machine/Context.lean ====
section
/-! DEFINITION. Compiled images (R189, R190, R196, R198, R348) and context images (R55 to R57, R232, R233, R307, R351). -/

namespace Sys2Proof.Machine

/-! ## T2 at any byte address (R237) -/

/-- Writes one word at a byte address that may be no multiple of 4; words written in part keep their poison (R438). -/
def t2SetU (s : State) (p a : Nat) (w : PWord) : State :=
  let sh := 8 * (a % 4)
  let lo := a / 4 * 4
  let old := t2Word s p lo
  let old' := t2Word s p (lo + 4)
  let all : BitVec 64 := (old'.val ++ old.val)
  let m : BitVec 64 := BitVec.ofNat 64 (2 ^ 32 - 1) <<< sh
  let v : BitVec 64 := (all &&& ~~~m) ||| ((w.val.zeroExtend 64) <<< sh)
  t2SetWord (t2SetWord s p lo ⟨v.truncate 32, old.poison || w.poison⟩) p (lo + 4) ⟨(v >>> 32).truncate 32, old'.poison || w.poison⟩

/-- Writes words from any byte address on. -/
def t2WriteU (s : State) (p a : Nat) (ws : List PWord) : State :=
  if a % 4 = 0 then t2Write s p a ws
  else ws.zipIdx.foldl (fun s e => t2SetU s p (a + 4 * e.2) e.1) s

/-- Reads `n` words from any byte address on. -/
def t2ReadU (s : State) (p a n : Nat) : List PWord := (List.range n).map (fun i => t2WordU s p (a + 4 * i))

/-! ## Slots, sequences and route entries as a load checks them -/

/-- Whether one slot is well formed (R189). -/
def slotOk (w : Word) : Bool :=
  match slotOp w with
  | 1 => decide (fld w 28 26 ≤ 4 ∧ 1 ≤ moveFan w ∧ moveFan w ≤ 5 ∧ fld w 5 0 = 0)
  | 2 => decide (2 ≤ (mergePorts w).length ∧ fld w 21 0 = 0)
  | 3 => decide (1 ≤ loopBack w)
  | _ => false

/-- The bodies of a sequence's loops: first and last position (R190). -/
def loopBodies (ws : List Word) : List (Int × Int) :=
  (ws.zipIdx.filter (fun e => slotOp e.1 == 3)).map (fun e => ((e.2 : Int) - loopBack e.1, (e.2 : Int) - 1))

/-- Whether two loop bodies are apart or one lies inside the other. -/
def bodiesOk (a b : Int × Int) : Bool :=
  decide (a.2 < b.1 ∨ b.2 < a.1 ∨ (b.1 ≤ a.1 ∧ a.2 ≤ b.2) ∨ (a.1 ≤ b.1 ∧ b.2 ≤ a.2))

/-- Whether a sequence may be loaded (R189, R190). -/
def seqOk (ws : List Word) : Bool :=
  let bs := loopBodies ws
  decide (ws.length ≤ 128) && ws.all slotOk && bs.all (fun b => decide (0 ≤ b.1)) &&
    bs.all (fun a => bs.all (bodiesOk a)) &&
    (List.range ws.length).all (fun (i : Nat) =>
      decide ((bs.filter (fun b => decide (b.1 ≤ Int.ofNat i ∧ Int.ofNat i ≤ b.2))).length ≤ 4))

/-- Whether a route entry may be loaded (R198). -/
def routeOk (w : Word) : Bool := !w.getLsbD 31 || decide (1 ≤ routeWords w ∧ fld w 13 0 = 0)

/-! ## Compiled images (R348) -/

/-- A record of an image: its TYPE, target word, w2, w3, and its body. -/
structure ImgRec where
  type : Nat
  w1 : Word
  w2 : Word
  w3 : Word
  body : List PWord
  deriving DecidableEq, Repr

/-- The records of an image of `len` bytes at partition address `base`, from byte offset `off` on; `none` where one has an undefined
TYPE, a BODY that is no multiple of 4, or runs past LEN. -/
def imgRecs (s : State) (p base len off : Nat) : Nat → Option (List ImgRec)
  | 0 => some []
  | fuel + 1 =>
    if len ≤ off then some []
    else
      let w (i : Nat) : Word := (t2WordU s p (base + off + 4 * i)).val
      let type := fld (w 0) 31 24
      let n := fld (w 0) 23 0
      if len < off + 16 + n ∨ n % 4 ≠ 0 ∨ type = 0 ∨ 5 < type then none
      else
        let r : ImgRec := ⟨type, w 1, w 2, w 3, t2ReadU s p (base + off + 16) (n / 4)⟩
        (imgRecs s p base len (off + (16 + n + 15) / 16 * 16) fuel).map (r :: ·)

/-- The key of the core or router a record names, if the grid has it. -/
def ImgRec.key (s : State) (r : ImgRec) : Option Nat :=
  let x := fld r.w1 9 0
  let y := fld r.w1 20 10
  if x < 1022 ∧ y < s.gridRows then some (y * 1022 + x) else none

def ImgRec.words (r : ImgRec) : List Word := r.body.map (·.val)
def ImgRec.bytes (r : ImgRec) : Nat := 4 * r.body.length
def ImgRec.field (r : ImgRec) : Nat := fld r.w1 6 0

/-- Whether a record is about a router's tables. -/
def ImgRec.isTable (r : ImgRec) : Bool := r.type == 3 || r.type == 4

/-- A slice with bytes of a record written. -/
def Slice.put (x : Slice) (a : Nat) (ws : List PWord) : Slice :=
  let k := if a % 4 = 0 then x.mem.putWords a ws
    else
      let sub (e : PWord × Nat) (k : Core) (i : Nat) : Core := k.setSub (a + 4 * e.2 + i) 1 ⟨e.1.val >>> (8 * i), e.1.poison⟩
      ws.zipIdx.foldl (fun k e => (List.range 4).foldl (sub e) k) x.mem
  { x with sram := k.mem, tag := k.memTag }

/-- Whether a record passes the checks that refuse the image with BADCMD (R348, and R168 for layer entries), the records before it loaded. -/
def ImgRec.ok (s : State) (r : ImgRec) : Bool :=
  let a := r.w3.toNat
  match r.type with
  | 1 => inMem a r.bytes
  | 2 => r.body.isEmpty
  | 3 => decide (fld r.w3 4 0 < 20) && seqOk r.words
  | 4 => decide (1 ≤ fld r.w3 7 0 ∧ fld r.w3 7 0 + r.body.length ≤ 256) && r.words.all routeOk
  | _ =>
    let x := (s.slice r.field).put a r.body
    decide (a + r.bytes ≤ 2 ^ 21) && (slotsTouched a r.bytes).all (fun n => !x.valid n || entryOk (x.ent n))

/-- Whether every record of an image passes its checks: a SLICE record is held against the slice as the earlier records of the image leave it
(R168, R348). -/
def imgOk (s : State) : List ImgRec → Bool
  | [] => true
  | r :: rs => r.ok s && imgOk (if r.type = 5 then s.setSlice r.field ((s.slice r.field).put r.w3.toNat r.body) else s) rs

/-- Whether the image of a slice's memory makes no slot VALID with a field out of range (R168). -/
def sliceImageOk (ws : List PWord) : Bool :=
  let x : Slice := ({} : Slice).put 0 (ws.take 1024)
  (List.range 64).all (fun n => !x.valid n || entryOk (x.ent n))

/-- Whether a record passes the checks that refuse the image with STATE: its map identity, and a router that is usable with its links
domain alive (R186, R348, R447). -/
def ImgRec.current (s : State) (r : ImgRec) : Bool :=
  match r.isTable, r.key s with
  | true, some k =>
    let h := halfOfKey s k
    Tab.get 0 s.ident h == r.w2 && !placeLost s (locRouter s k).toNat && !((s.region h).st == .dead && (s.region h).deadDom.getLsbD 2)
  | _, _ => true

/-- Whether the router's slice track cannot be loaded: the router at physical column 74 of the half-field row, or the slice, is recorded
unusable (R183). -/
def sliceGone (s : State) (k : Nat) : Bool :=
  isSliceRouter s k && (placeLost s (place (physRow s.retired (k / 1022)) (75 * (k % 1022 / 73) + 74)) ||
    s.defects.any (fun d => d.kind == 11 && d.loc.toNat == fieldOfKey s k))

/-- The input tracks a slot names. -/
def slotInputs (w : Word) : List Nat :=
  match slotOp w with
  | 1 => [moveIn w]
  | 2 => (mergePorts w).map (fun p => p * 4 + mergeTrk w)
  | _ => []

/-- Whether partition p holds a track of a router (R202). -/
def holdsTrack (s : State) (p k i : Nat) : Bool := trackOwner s k (i / 4) (i % 4) == p

/-- Whether partition p loads tables into a router: it holds the field, or a transit track there. -/
def loadsAt (s : State) (p k : Nat) : Bool :=
  partOfKey s k == p || s.transit.any (fun g => g.part == p && g.field == fieldOfKey s k)

/-- A slot as loaded: an empty place where it names a track not granted (R202). -/
def loadedSlot (s : State) (p k : Nat) (w : Word) : Option Word :=
  if (slotInputs w).all (holdsTrack s p k) && !((slotInputs w).contains 19 && sliceGone s k) then some w else none

/-- Loads one record: the state after, and whether it was loaded (R348). -/
def loadRec (s : State) (p : Nat) (r : ImgRec) : State × Bool :=
  let out : State × Bool := (violate s p 7, false)
  if r.type = 5 then
    if (s.part p).fields.getLsbD r.field then (s.setSlice r.field ((s.slice r.field).put r.w3.toNat r.body), true) else out
  else match r.key s with
    | none => out
    | some k =>
      let c := keyCore k
      match r.type with
      | 1 =>
        if partOfKey s k ≠ p then out
        else
          let a := r.w3.toNat
          let core := s.core c
          let core := if a % 4 = 0 then core.putWords a r.body
            else
              let m := (({ sram := core.mem, tag := core.memTag } : Slice).put a r.body)
              { core with mem := m.sram, memTag := m.tag }
          (s.setCore c core, true)
      | 2 =>
        if partOfKey s k ≠ p then out
        else if (s.core c).st = .sleeping then (s.setCore c { s.core c with pc := r.w3 }, true) else (s, true)
      | 3 =>
        let o := fld r.w3 4 0
        if !loadsAt s p k then out
        else if !holdsTrack s p k o then (violateN s p 4 r.body.length, true)
        else
          let seq := r.words.map (loadedSlot s p k)
          let bad := (r.words.filter (fun w => !(slotInputs w).all (holdsTrack s p k))).length
          let q := s.router k
          let q := { q with seqs := Tab.put q.seqs o (if o = 19 ∧ sliceGone s k then seq.map (fun _ => none) else seq) }
          (violateN (s.setRouter k q) p 4 bad, true)
      | _ =>
        if partOfKey s k ≠ p then out
        else
          let q := s.router k
          let put (t : Tab Word) (e : Word × Nat) : Tab Word := Tab.set 0 t (fld r.w3 7 0 + e.2) e.1
          (s.setRouter k { q with routes := r.words.zipIdx.foldl put q.routes }, true)

/-- Every track of the partition goes to slot 0; loop counters and unacknowledged counts clear (R196). -/
def tracksToStart (s : State) (p : Nat) : State :=
  let one (e : Nat × Router) : Nat × Router :=
    let mine (i : Nat) : Bool := trackOwner s e.1 (i / 4) (i % 4) == p
    let cut {α : Type} (t : Tab α) : Tab α := t.filter (fun x => !mine x.1)
    (e.1, { e.2 with
      pos := cut e.2.pos, moved := cut e.2.moved, varLen := cut e.2.varLen, desync := cut e.2.desync, stalled := cut e.2.stalled,
      loops := e.2.loops.filter (fun x => !mine (x.1 / 128)) })
  let core (e : Nat × Core) : Nat × Core := if partOfKey s e.1 = p then (e.1, { e.2 with unacked := [] }) else e
  let eng (e : Nat × EngineSt) : Nat × EngineSt := (e.1, { e.2 with unacked := e.2.unacked.filter (fun u => u.1 / 256 != p) })
  { s with routers := s.routers.map one, cores := s.cores.map core, engines := s.engines.map eng }

/-- Loads the records of an image in order: the state after and the records loaded. -/
def loadAll (s : State) (p : Nat) (rs : List ImgRec) : State × Nat :=
  let go (a : State × Nat) (r : ImgRec) : State × Nat :=
    let x := loadRec a.1 p r
    (x.1, a.2 + x.2.toNat)
  let a := rs.foldl go (s, 0)
  if rs.any ImgRec.isTable then (loadEngines (tracksToStart a.1 p) p, a.2) else a

/-! ## Core context records (R55 to R57) -/

/-- `n` zero words. -/
def zeros (n : Nat) : List PWord := List.replicate n PWord.zero

/-- A word of the image of control registers. R149 puts the whole fallback set into the image, and one register reaches only the entry
CORE_FB_INDEX selects: the eight entries stand at the reserved offsets 0x18 to 0x34 (DEDUCED, log entry 92). -/
def ctlImage (s : State) (key : Nat) (k : Core) (o : Nat) : Word :=
  if 0x18 ≤ o ∧ o < 0x38 then k.fbEntry ((o - 0x18) / 4) else ctlRead s key k o

/-- The record of the core at a key (R55). -/
def coreRecord (s : State) (key : Nat) : List PWord :=
  let k := s.core (keyCore key)
  (List.finRange 32).map k.rs ++ (List.finRange 8).map k.ra ++ clean ((List.finRange 8).map k.rp) ++
    clean [k.pc, BitVec.ofNat 32 k.st.code, k.ctlW 0x10, k.ctlW 0x14, k.ctlW 0x0C] ++ zeros 11 ++
    (List.finRange 16).flatMap (fun r => (k.rv r).words) ++ (List.finRange 16).flatMap (fun r => (k.rd r).words) ++
    clean ((List.range 64).map (fun i => ctlImage s key k (4 * i))) ++
    (List.finRange 4).flatMap (fun t => (List.range 256).map (k.accGet t))

/-- The memory image of a core: near memory, then stack memory (R56). -/
def coreMemory (s : State) (key : Nat) : List PWord :=
  let k := s.core (keyCore key)
  k.getWords 0 12288 ++ k.getWords 0x10000 24576

/-- Restores the control registers at offsets 0x000 to 0x0FC from their image: read-only fields are left (R57). The tap flags stand twice in
a record; those of the image are taken, those at 0xC8 ignored (DEDUCED, log entry 93). -/
def restoreCtl (k : Core) (ws : List Word) : Core :=
  ws.zipIdx.foldl (fun k e =>
    let o := 4 * e.2
    if o = 0x40 ∨ o = 0x50 ∨ o = 0x68 then k.setCtl64 o (ws.getD (e.2 + 1) 0 ++ e.1)
    else if 0x18 ≤ o ∧ o < 0x38 then { k with fb := Tab.set 0 k.fb ((o - 0x18) / 4) (e.1 &&& (bits 31 30 ||| bits 15 0)) }
    else if o = 0xBC then { k with fb := Tab.set 0 k.fb (fld (k.ctlW 0xB8) 2 0) (e.1 &&& (bits 31 30 ||| bits 15 0)) }
    else
      let m := (ctlSpec o).rw ||| (ctlSpec o).w1c
      k.setCtl o ((k.ctlW o &&& ~~~m) ||| (e.1 &&& m))) k

/-- Restores a core from its record, and from its memory image if there is one (R57). It becomes SLEEPING; where the half-field is
parked it stays RETAINED (log entry 33). -/
def restoreCore (s : State) (key : Nat) (ws : List PWord) (mem : Option (List PWord)) : State :=
  let c := keyCore key
  let old := s.core c
  let g (i : Nat) : PWord := ws.getD i PWord.zero
  let vec (i : Nat) : VReg := VReg.ofWords ((ws.drop i).take 8)
  let k : Core := { old with
    s := [], a := [], p := [], v := [], d := [], acc := [], pc := (g 48).val, ir := none, wait := none,
    dExec := none, dPend := none, sExec := none, sPend := none, held := none, shadow := none,
    st := if (s.region (halfOfKey s key)).st = .retained then .retained else .sleeping }
  let k := (List.finRange 32).foldl (fun k r => k.setS r (g r.val)) k
  let k := (List.finRange 8).foldl (fun k r => k.setA r (g (32 + r.val))) k
  let k := (List.finRange 8).foldl (fun k r => k.setP r (g (40 + r.val)).val) k
  let k := (List.finRange 16).foldl (fun k r => k.setV r (vec (64 + 8 * r.val))) k
  let k := (List.finRange 16).foldl (fun k r => k.setD r (vec (192 + 8 * r.val))) k
  let k := restoreCtl k (((ws.drop 320).take 64).map (·.val))
  let k := (List.finRange 4).foldl (fun k t => k.accPut t 0 ((ws.drop (384 + 256 * t.val)).take 256)) k
  let k := match mem with
    | none => k
    | some m => (k.putWords 0 (m.take 12288)).putWords 0x10000 (m.drop 12288)
  s.setCore c k

/-! ## The context image (R351) -/

/-- The synchronisation section of partition p (R232; log entry 34 gives the packing of a pair record). -/
def syncSection (s : State) (p : Nat) (keys : List Nat) : List PWord :=
  let x := s.part p
  let pair (n : Nat) : List Word :=
    let r := pairAt s (x.chimeBase + n)
    [BitVec.ofNat 32 (r.valid.toNat * 2 ^ 31 + r.broken.toNat * 2 ^ 30 + r.lane.toNat * 2 ^ 24 + r.consumer.toNat), r.bound, r.refP, r.refC]
  clean ([BitVec.ofNat 32 x.chimeCount, BitVec.ofNat 32 x.lanes.length, BitVec.ofNat 32 x.chimeBase]) ++ zeros 13 ++
    clean ((List.range x.chimeCount).map (fun n => chimeVal s (x.chimeBase + n))) ++
    clean ((List.range x.chimeCount).flatMap pair) ++
    clean ((List.range 512).map (fun i => readSync s p (0x1000 + 4 * i))) ++
    clean (keys.flatMap (fun k => (List.range 64).map (fun i => ctlRead s k (s.core (keyCore k)) (0x100 + 4 * i))))

/-- The streams section: each entry, k, the metadata count, 8 bytes of zero (R307). -/
def streamSection (s : State) (p : Nat) : List PWord :=
  clean ((List.range (s.part p).strmCount).flatMap (fun n =>
    let x := stream s ((s.part p).strmBase + n)
    (List.range 16).map (fun i => x.entry.getD i 0) ++ [x.pass, x.metaCnt, 0, 0]))

/-- The fields of a partition, ascending. -/
def fieldList (fs : BitVec 84) : List Nat := (List.range 84).filter (fun f => fs.getLsbD f)

/-- Two words of a 64-bit number. -/
def word64 (n : Nat) : List Word := [BitVec.ofNat 32 n, BitVec.ofNat 32 (n / 2 ^ 32)]

/-- The context image of partition p (R351; log entry 35 gives the order of the header's words). -/
def contextImage (s : State) (p : Nat) (mem : Bool) : List PWord :=
  let x := s.part p
  let keys := partKeys s p
  let cores := keys.flatMap (fun k => coreRecord s k ++ (if mem then coreMemory s k else []))
  let sync := syncSection s p keys
  let strm := streamSection s p
  let slices := (fieldList x.fields).flatMap (fun f => Memory.getWords (s.slice f).sram (s.slice f).tag 0 524288)
  let o1 := 64
  let o2 := o1 + 4 * cores.length
  let o3 := o2 + 4 * sync.length
  let o4 := o3 + 4 * strm.length
  let hdr : List Word := [1, if mem then 1 else 0, BitVec.ofNat 32 keys.length, x.fields.truncate 32, (x.fields >>> 32).truncate 32,
    (x.fields >>> 64).truncate 32, BitVec.ofNat 32 x.chimeCount, BitVec.ofNat 32 x.strmCount] ++
    word64 o1 ++ word64 o2 ++ word64 o3 ++ word64 o4
  clean hdr ++ cores ++ sync ++ strm ++ slices

/-- What a RESTORE reads from the header of an image. -/
structure CtxHdr where
  version : Word
  mem : Bool
  cores : Nat
  fields : BitVec 84
  chimes : Nat
  streams : Nat
  o1 : Nat
  o2 : Nat
  o3 : Nat
  o4 : Nat
  deriving DecidableEq, Repr

def ctxHdr (s : State) (p a : Nat) : CtxHdr :=
  let w (i : Nat) : Word := (t2WordU s p (a + 4 * i)).val
  let off (i : Nat) : Nat := (w i).toNat + 2 ^ 32 * (w (i + 1)).toNat
  ⟨w 0, (w 1).getLsbD 0, (w 2).toNat, BitVec.ofNat 84 ((w 3).toNat + 2 ^ 32 * (w 4).toNat + 2 ^ 64 * (w 5).toNat), (w 6).toNat, (w 7).toNat,
    off 8, off 10, off 12, off 14⟩

/-- Bytes of an image of one core (R55, R56). -/
def CtxHdr.coreBytes (h : CtxHdr) : Nat := if h.mem then 153088 else 5632

/-- Bytes from the start of an image to the end of what a RESTORE reads of it (R351). -/
def CtxHdr.extent (h : CtxHdr) : Nat :=
  [64, h.o1 + h.coreBytes * h.cores, h.o2 + 64 + 20 * h.chimes + 2048 + 256 * h.cores, h.o3 + 80 * h.streams,
    h.o4 + 2097152 * (fieldList h.fields).length].foldl max 0

/-- Whether no slice of an image has a slot VALID with a field out of range: a RESTORE that would make it so is refused (R168; DEDUCED, log
entry 21). -/
def sliceImagesOk (s : State) (p a : Nat) (h : CtxHdr) : Bool :=
  (fieldList h.fields).zipIdx.all (fun e => sliceImageOk (t2ReadU s p (a + h.o4 + 2097152 * e.2) 1024))

/-- Restores the synchronisation section at byte address `a` (R233). -/
def restoreSync (s : State) (p a : Nat) (keys : List Nat) : State :=
  let w (i : Nat) : Word := (t2WordU s p (a + 4 * i)).val
  let cc := (w 0).toNat
  let x := s.part p
  let chimes := (List.range cc).foldl (fun t n => Tab.set 0 t (x.chimeBase + n) (w (16 + n))) s.chimes
  let pair (n : Nat) : Pair :=
    let i := 16 + cc + 4 * n
    ⟨(w i).getLsbD 31, (w i).getLsbD 30, BitVec.ofNat 6 (fld (w i) 29 24), (w i).truncate 16, w (i + 1), w (i + 2), w (i + 3)⟩
  let pairs := (List.range cc).foldl (fun t n => Tab.set {} t (x.chimeBase + n) (pair n)) s.pairs
  let s := { s with chimes := chimes, pairs := pairs }
  let lane (s : State) (l : Nat) : State :=
    match physLane s p l with
    | none => s
    | some n =>
      let i := 16 + 5 * cc + 8 * l
      let mask : BitVec 84 := BitVec.ofNat 84 ((w (i + 1)).toNat + 2 ^ 32 * (w (i + 2)).toNat + 2 ^ 64 * (w (i + 3)).toNat) &&& x.fields
      let failed := (s.lane n).st == .failed || fld (w (i + 6)) 1 0 == 2
      let ctrl := w i &&& bits 16 0
      s.setLane n { s.lane n with
        st := if failed then .failed else .idle, ctrl := ctrl, ctrlF := ctrl, mask := mask, maskF := mask, releases := w (i + 5) ++ w (i + 4) }
  let s := (List.range (min 64 (w 1).toNat)).foldl lane s
  keys.zipIdx.foldl (fun s e =>
    let i := 16 + 5 * cc + 512 + 64 * e.2
    let k := s.core (keyCore e.1)
    let lo := w i &&& laneGrant s e.1 0
    let hi := w (i + 1) &&& laneGrant s e.1 1
    let k := (((((k.setCtl 0x100 lo).setCtl 0x104 hi).setCtl 0x110 (w (i + 4))).setCtl 0x114 (w (i + 5))).setCtl 0x118 (w (i + 6))).setCtl
      0x11C (w (i + 7))
    s.setCore (keyCore e.1) { k with enForce := hi ++ lo }) s

/-- Restores the streams section (R307). -/
def restoreStreams (s : State) (p a n : Nat) : State :=
  (List.range n).foldl (fun s i =>
    let ws := (t2ReadU s p (a + 80 * i) 18).map (·.val)
    let k := (s.part p).strmBase + i
    setStream s k { stream s k with entry := ws.take 16, pass := ws.getD 16 0, metaCnt := ws.getD 17 0 }) s

/-- Restores an image whose checks have passed (R351). -/
def restoreAll (s : State) (p a : Nat) (h : CtxHdr) (keys : List Nat) : State :=
  let sz := h.coreBytes
  let s0 := s
  let s := keys.zipIdx.foldl (fun s e =>
    let b := a + h.o1 + sz * e.2
    restoreCore s e.1 (t2ReadU s0 p b 1408) (if h.mem then some (t2ReadU s0 p (b + 5632) 36864) else none)) s
  let s := restoreStreams (restoreSync s p (a + h.o2) keys) p (a + h.o3) h.streams
  (fieldList h.fields).zipIdx.foldl (fun s e =>
    s.setSlice e.1 ((s.slice e.1).put 0 (t2ReadU s0 p (a + h.o4 + 2097152 * e.2) 524288))) s

end Sys2Proof.Machine
end

