-- ==== Sys2Proof/Machine/HostQ.lean ====
section
/-! DEFINITION. Host command queues (R340 to R353). -/

namespace Sys2Proof.Machine

/-! ## Stale regions (R448), which a SAVE may find (R449) -/

/-- Whether a half-field's epoch copy is behind the island's. -/
def isStale (s : State) (h : Nat) : Bool := (s.region h).copy != (s.region h).epoch

/-- A stale half-field is fenced, re-initialised and reported (R448). -/
def staleRegion (s : State) (h : Nat) : State :=
  let r := s.region h
  let p := partOfField s (h / 2)
  let keys := (s.cores.map (·.1)).filter (fun k => halfOfKey s k == h)
  let s := fenceCores s p EXT_FENCE (keys.map keyCore)
  let s := cntAdd (freshCores s [h]) 0 0 0xD01030 1
  let s := if p = 0 then s else regOr s p 0 0xD00014 (bits 29 29)
  let s := logRecord s 5 0x2A p h r.copy r.epoch
  reportP s 0x2A .region 2 p (BitVec.ofNat 32 h) r.copy r.epoch

/-! ## Queue registers -/

/-- A write of HQ_Q_DB (R340, R346). -/
def dbWrite (s : State) (p q : Nat) (v : Word) : State :=
  if hqOn s p q = false then s
  else if hqSize s p q ≤ fld v 15 0 then regOr s p 0 (hqOff q 0x20) (bits 30 30)
  else setHq s p q { hq s p q with tail := fld v 15 0 }

/-- HQ_Q_DB. -/
def execHqQDb (p : Vf) (q : Fin 8) (v : BitVec 32) (s : State) : Res := .next (dbWrite s (vfPart p) q.val v)

/-- The fields of HQ_Q_CTRL after a write: LOG2N and VECTOR keep their values where the write is out of range or EN was 1 (R341,
R362). -/
def ctrlFields (old v : Word) : Word :=
  let on := old.getLsbD 31
  let logn := if on = false ∧ 4 ≤ fld v 23 20 then v &&& bits 23 20 else old &&& bits 23 20
  let vec := if on = false ∧ fld v 19 16 ≤ 7 then v &&& bits 19 16 else old &&& bits 19 16
  (v &&& (bits 31 31 ||| bits 15 0)) ||| logn ||| vec

/-- A completion that was held for ring space is written once there is room (R342, R353). -/
def writeHeld (s : State) (p q : Nat) : State := if (hq s p q).held ∧ hqOn s p q then writeCpl s p q else s

/-- A write of HQ_Q_CTRL: enabling starts the queue anew, disabling stops it (R341). -/
def hqCtrlWrite (s : State) (p q : Nat) (v : Word) : State :=
  let old := hqCtrl s p q
  let new := ctrlFields old v
  if old.getLsbD 31 = false ∧ new.getLsbD 31 then
    let s := regSet (regSet s p 0 (hqOff q 0x10) new) p 0 (hqOff q 0x1C) 0
    writeHeld (setHq s p q { hq s p q with head := 0, tail := 0, cplTail := 0, phase := true }) p q
  else if old.getLsbD 31 ∧ new.getLsbD 31 = false then
    let s := stopQueue s p q
    regSet s p 0 (hqOff q 0x10) new
  else regSet s p 0 (hqOff q 0x10) new

/-- HQ_Q_CTRL. -/
def execHqQCtrlWrite (p : Vf) (q : Fin 8) (v : BitVec 32) (s : State) : Res := .next (hqCtrlWrite s (vfPart p) q.val v)

/-- A write of HQ_Q_CPL_HEAD (R342). -/
def cplHeadWrite (s : State) (p q : Nat) (v : Word) : State := writeHeld (regSet s p 0 (hqOff q 0x1C) (v &&& bits 15 0)) p q

/-- HQ_Q_CPL_HEAD. -/
def execHqQCplHeadWrite (p : Vf) (q : Fin 8) (v : BitVec 32) (s : State) : Res := .next (cplHeadWrite s (vfPart p) q.val v)

/-- Bits of HQ_Q_STATUS cleared by a write (R346, R362). -/
def hqStatusWrite (s : State) (p q : Nat) (v : Word) : State :=
  regSet s p 0 (hqOff q 0x20) (regGet s p 0 (hqOff q 0x20) &&& ~~~(v &&& bits 31 30))

/-- STOPPED_ACK: 1 is written to STOPPED (R346). -/
def execStoppedAck (p : Vf) (q : Fin 8) (s : State) : Res := .next (hqStatusWrite s (vfPart p) q.val (bits 31 31))

/-! ## Fetching (R342, R343) -/

def hqStopped (s : State) (p q : Nat) : Bool := (regGet s p 0 (hqOff q 0x20)).getLsbD 31

/-- Whether words of an entry at the places not in `used` are zero. -/
def unusedZero (ws : List Word) (used : List Nat) : Bool :=
  ((List.range 16).filter (fun i => !used.contains i)).all (fun i => ws.getD i 0 == 0)

/-- Whether the command's HADDR, TADDR and LEN are in range. -/
def hostRangeOk (ws : List Word) : Bool := fld (ws.getD 2 0) 1 0 == 0
def taddrOk (ws : List Word) : Bool := fld (ws.getD 5 0) 31 16 == 0
def lenOk (ws : List Word) : Bool := ws.getD 6 0 != 0 && fld (ws.getD 6 0) 1 0 == 0

/-- Whether an entry is well formed: a defined OPCODE, unused fields zero, operands in range (R343 to R345, R349). -/
def cmdOk (ws : List Word) : Bool :=
  let w0 := ws.getD 0 0
  let a := ws.getD 7 0
  let b := ws.getD 8 0
  fld w0 23 17 == 0 && (match fld w0 31 24 with
    | 0 => unusedZero ws [0]
    | 1 => unusedZero ws [0, 2, 3, 4, 5, 6] && hostRangeOk ws && taddrOk ws && lenOk ws
    | 2 => unusedZero ws [0, 2, 3, 4, 5, 6] && hostRangeOk ws && taddrOk ws && lenOk ws
    | 3 => unusedZero ws [0, 4, 5, 6] && taddrOk ws && lenOk ws
    | 4 => unusedZero ws [0, 7, 8] && fld a 31 21 == 0 && fld b 31 21 == 0 &&
        decide (fld a 9 0 ≤ fld b 9 0 ∧ fld a 20 10 ≤ fld b 20 10)
    | 5 => unusedZero ws [0, 7, 8] && fld a 31 16 == 0 && !b.getLsbD 31
    | 6 => unusedZero ws [0, 7, 8] && fld a 31 16 == 0
    | 7 => unusedZero ws [0, 4, 5, 7] && taddrOk ws && fld a 31 1 == 0
    | 8 => unusedZero ws [0, 4, 5] && taddrOk ws
    | 9 => unusedZero ws [0]
    | _ => false)

/-- Whether queue q may fetch its next entry (R340, R342, R346, R356). -/
def mayFetch (s : State) (p q : Nat) : Bool :=
  let x := hq s p q
  hqOn s p q && !hqStopped s p q && x.head != x.tail && x.cmd.isNone && (s.part p).st == .live

/-- COMMAND_FETCH: the entry at HEAD, as host memory holds it, is taken; one that is not well formed ends BADCMD with no effect (R342,
R343, R345). -/
def execCommandFetch (p : Vf) (q : Fin 8) (ws : List Word) (s : State) : Res :=
  let n := vfPart p
  if ws.length ≠ 16 then .fault .illFormed
  else if mayFetch s n q.val = false then .next s
  else
    let x := hq s n q.val
    let head := (x.head + 1) % hqSize s n q.val
    let s := setHq s n q.val { x with head := head, cmd := some { w := ws, head := head } }
    .next (if cmdOk ws then s else failCmd s n q.val 2)

/-! ## Commands (R344) -/

/-- Starts the command of queue q, if it waits there with OPCODE `op` (R344). -/
def startCmd (s : State) (p : Vf) (q : Fin 8) (op : Nat) (f : State → Nat → HCmd → State) : State :=
  let n := vfPart p
  let x := hq s n q.val
  match x.cmd with
  | none => s
  | some c =>
    if c.started ∨ x.cpl.isSome ∨ c.op ≠ op ∨ (s.part n).st ≠ .live then s
    else f (setHq s n q.val { x with cmd := some { c with started := true } }) n c

/-- NOP. -/
def execHqNop (p : Vf) (q : Fin 8) (s : State) : Res := .next (startCmd s p q 0 (fun s n _ => endCmd s n q.val 0 0))

/-- A T2 range a transfer would write lies beyond the grant: nothing is written, the command completes OK, one violation, T2_QUOTA
(R242, R344). -/
def beyondGrant (s : State) (n q : Nat) (res : Word) : State := endCmd (tierFault (violate s n 1) n 4) n q 0 res

/-- A tag for host reads that no read in flight carries and that none timed out within 1 s carried (R353); which one is not given (log
entry 3). -/
def newTag (s : State) : Nat × State :=
  let used := s.hqs.flatMap (fun e => (match e.2.cmd with
    | some c => c.tag.toList
    | none => []) ++ (e.2.retired.filter (fun r => decide (s.time.toNat < r.2.toNat + 1000000000))).map (·.1))
  let (t, s) := drawNat s
  ((((List.range 16384).map (fun i => (t + i) % 16384)).find? (fun t => !used.contains t)).getD 0, s)

/-- WRITE_T2: checked against the grant; then its host reads go out (R344). -/
def execWriteT2 (p : Vf) (q : Fin 8) (s : State) : Res :=
  .next (startCmd s p q 1 (fun s n c =>
    if t2In s n c.taddr c.len = false then beyondGrant s n q.val 0
    else
      let (t, s) := newTag s
      setHq s n q.val { hq s n q.val with cmd := some { c with started := true, tag := some t } }))

/-- HOST_READ_COMPLETION: the data of a WRITE_T2 goes to T2, poisoned words poisoned; a completion that arrives for a command that has
ended is late (R344, R352, R353), and a read that expires then has no effect left. Data for fewer words than LEN is no completion the host interface makes. -/
def execHostReadCompletion (p : Vf) (q : Fin 8) (r : HostCpl) (s : State) : Res :=
  let n := vfPart p
  let x := hq s n q.val
  let late := if r.status = .expired then s else emit (cntAdd s n 0 (hqOff q.val 0x30) 1) (.aer n)
  match x.cmd with
  | none => .next late
  | some c =>
    if c.tag ≠ some r.tag ∨ x.cpl.isSome then .next late
    else match r.status with
      | .failed => .next (failCmd (cutCmd s n q.val) n q.val 4)
      | .expired => .next (failCmd (cutCmd s n q.val) n q.val 3)
      | .success =>
        if r.words.length ≠ c.len / 4 then .fault .illFormed
        else
          let s := setHq s n q.val { x with cmd := some { c with tag := none } }
          let s := t2WriteU (t2Touch s n c.taddr c.len) n c.taddr r.words
          .next (endCmd s n q.val (if poisonedIn r.words = 0 then 0 else 5) 0)

/-- READ_T2: stored values go to the host; bytes beyond the grant are zeros and count a violation (R242, R344). -/
def execReadT2 (p : Vf) (q : Fin 8) (s : State) : Res :=
  .next (startCmd s p q 2 (fun s n c =>
    let s := t2Touch s n c.taddr c.len
    let ws := t2ReadU s n c.taddr (c.len / 4)
    let s := emit s (.host n c.haddr (ws.map (fun w => ⟨w.val, false⟩)))
    endCmd s n q.val (if poisonedIn ws = 0 then 0 else 5) (BitVec.ofNat 32 (poisonedIn ws))))

/-- LOAD (R196, R344, R348, R446, R447). STATE for a partition that is not quiescent or is route-lost comes first, then the grant, then
BADCMD, then STATE for a record (log entry 36). -/
def execLoad (p : Vf) (q : Fin 8) (s : State) : Res :=
  .next (startCmd s p q 3 (fun s n c =>
    if quiescent s n q.val = false ∨ (s.part n).routeLost then failCmd s n q.val 1
    else if t2In s n c.taddr c.len = false then endCmd (violate s n 1) n q.val 0 0
    else
      let s := t2Touch s n c.taddr c.len
      match imgRecs s n c.taddr c.len 0 (c.len / 16 + 1) with
      | none => failCmd s n q.val 2
      | some rs =>
        if !imgOk s rs then failCmd s n q.val 2
        else if rs.any (fun r => !r.current s) then failCmd s n q.val 1
        else
          let (s, k) := loadAll s n rs
          endCmd s n q.val 0 (BitVec.ofNat 32 k)))

/-- The cores START selects (R349). -/
def startKeys (s : State) (n : Nat) (c : HCmd) : List Nat :=
  (partKeys s n).filter (fun k => decide (fld c.a 9 0 ≤ k % 1022 ∧ k % 1022 ≤ fld c.b 9 0 ∧ fld c.a 20 10 ≤ k / 1022 ∧ k / 1022 ≤ fld c.b 20 10))

/-- Whether a core can be started: SLEEPING, its half-field's logic powered (R47, R49). -/
def startable (s : State) (k : Nat) : Bool :=
  decide ((s.core (keyCore k)).st = .sleeping) && (s.region (halfOfKey s k)).logicOn

/-- START (R349). -/
def execHqStart (p : Vf) (q : Fin 8) (s : State) : Res :=
  .next (startCmd s p q 4 (fun s n c =>
    let ks := startKeys s n c
    if ks.all (startable s) = false then failCmd s n q.val 1
    else
      let s := ks.foldl (fun s k => wakeRegion (s.setCore (keyCore k) { s.core (keyCore k) with st := .running }) k) s
      endCmd s n q.val 0 (BitVec.ofNat 32 ks.length)))

/-- CHIME_ADD (R350). -/
def execChimeAdd (p : Vf) (q : Fin 8) (s : State) : Res :=
  .next (startCmd s p q 5 (fun s n c => endCmd (partAdvance s n (fld c.a 15 0) c.b) n q.val 0 0))

/-- CHIME_WAIT: ends at once where the chime is at or past the threshold, else posts a watch (R350). -/
def execChimeWait (p : Vf) (q : Fin 8) (s : State) : Res :=
  .next (startCmd s p q 6 (fun s n c =>
    let m := fld c.a 15 0
    let s := if m < (s.part n).chimeCount then s else violate s n 3
    if atOrPast (partChimeVal s n m) c.b then endCmd s n q.val 0 (partChimeVal s n m)
    else { s with watches := s.watches ++ [⟨watchKey s n m, c.b, .queue (n * 8 + q.val)⟩] }))

/-- The stale half-fields of the RETAINED cores of a partition (R449). -/
def staleHalves (s : State) (n : Nat) : List Nat :=
  (halvesOf (s.part n).fields).filter (fun h => (s.region h).st == .retained && isStale s h)

/-- SAVE (R56, R233, R307, R344, R351, R449). -/
def execSave (p : Vf) (q : Fin 8) (s : State) : Res :=
  .next (startCmd s p q 7 (fun s n c =>
    if quiescent s n q.val = false then failCmd s n q.val 1
    else if staleHalves s n ≠ [] then failCmd ((staleHalves s n).foldl staleRegion s) n q.val 1
    else
      let ws := contextImage s n (c.a.getLsbD 0)
      let res := BitVec.ofNat 32 (4 * ws.length)
      if t2In s n c.taddr (4 * ws.length) = false then beyondGrant s n q.val res
      else endCmd (t2WriteU (t2Touch s n c.taddr (4 * ws.length)) n c.taddr ws) n q.val 0 res))

/-- The cores an image names: the first of its count among the grid's cores of its fields; `none` where it names more than the
partition's current grid holds (R57, R351; log entry 35). -/
def imageKeys (s : State) (n : Nat) (h : CtxHdr) : Option (List Nat) :=
  let ks := (partKeys s n).filter (inFields s h.fields)
  if h.fields &&& ~~~(s.part n).fields = 0 ∧ h.cores ≤ ks.length then some (ks.take h.cores) else none

/-- RESTORE (R57, R233, R307, R344, R351). -/
def execRestore (p : Vf) (q : Fin 8) (s : State) : Res :=
  .next (startCmd s p q 8 (fun s n c =>
    if quiescent s n q.val = false then failCmd s n q.val 1
    else
      let h := ctxHdr s n c.taddr
      let s := t2Touch s n c.taddr (if h.version = 1 then h.extent else 64)
      let cc := (t2WordU s n (c.taddr + h.o2)).val.toNat
      let lanes := (t2WordU s n (c.taddr + h.o2 + 4)).val.toNat
      if h.version ≠ 1 then failCmd s n q.val 2
      else match imageKeys s n h with
        | none => failCmd s n q.val 1
        | some ks =>
          if (s.part n).chimeCount < cc ∨ (s.part n).lanes.length < lanes ∨ (s.part n).strmCount < h.streams then failCmd s n q.val 1
          else if !sliceImagesOk s n c.taddr h then failCmd s n q.val 2
          else endCmd (restoreAll s n c.taddr h ks) n q.val 0 (BitVec.ofNat 32 ks.length)))

/-- REINIT: a partition reset; every other queue's command ends ABORTED; this one ends OK with the reset (R344, R360). -/
def execReinit (p : Vf) (q : Fin 8) (s : State) : Res :=
  .next (startCmd s p q 9 (fun s n _ => beginReset s n .resetting (some q)))

/-- COMMAND_COMPLETE (R342, R345, R346). One held for ring space as its queue was disabled waits for EN (R353). -/
def execCommandComplete (p : Vf) (q : Fin 8) (s : State) : Res :=
  let n := vfPart p
  .next (if (hq s n q.val).held ∧ hqOn s n q.val = false then s else writeCpl s n q.val)

/-- COMMAND_TIMEOUT: a command has not completed within TIMEOUT_MS of its start; 0 means no timeout (R352). -/
def execCommandTimeout (p : Vf) (q : Fin 8) (s : State) : Res :=
  let n := vfPart p
  let x := hq s n q.val
  match x.cmd with
  | none => .next s
  | some c =>
    if c.started = false ∨ x.cpl.isSome ∨ fld (hqCtrl s n q.val) 15 0 = 0 then .next s
    else .next (failCmd (cutCmd s n q.val) n q.val 3)

/-- A read of the HQ_ block of partition p (R362). -/
def readHq (s : State) (p o : Nat) : Word :=
  let q := o / 0x100
  let x := hq s p q
  if 0x800 ≤ o then 0
  else match o % 0x100 with
    | 0x14 => 0
    | 0x18 => BitVec.ofNat 32 x.head
    | 0x20 => regGet s p 0 (hqOff q 0x20) ||| (if x.cmd.isSome then bits 29 29 else 0)
    | _ => regGet s p 0 (0x100000 + o)

end Sys2Proof.Machine
end

