-- ==== Sys2Proof/Machine/Partitions.lean ====
section
/-! DEFINITION. The partition commands of PART_CMD, function level resets and PERST# (R339, R354 to R360, R363, R465). -/

namespace Sys2Proof.Machine

/-! ## The values staged (R363) -/

/-- PART_SEL. -/
def partSel (s : State) : Nat := fld (regGet s 0 0 0x200000) 4 0

/-- A word staged for the partition in PART_SEL (log entry 82). -/
def stPart (s : State) (o : Nat) : Word := regGet s 0 (partSel s) (0x200000 + o)

/-- The grants staged, as far as the staged words fix them; lanes, frames and the rest are `x`'s. -/
def stagedPart (s : State) (x : Part) : Part :=
  let fs : BitVec 84 := ((stPart s 0x10).truncate 20 : BitVec 20) ++ stPart s 0x0C ++ stPart s 0x08
  { x with
    fields := fs, chimeBase := fld (stPart s 0x14) 15 0, chimeCount := fld (stPart s 0x18) 16 0,
    strmBase := fld (stPart s 0x20) 15 0, strmCount := fld (stPart s 0x24) 16 0, t3Units := fld (stPart s 0x2C) 20 0,
    t3Slots := fld (stPart s 0x30) 10 0, watch := fld (stPart s 0x34) 11 0, chains := fld (stPart s 0x38) 9 0,
    share := stPart s 0x3C, shareFull := (stPart s 0x5C).truncate 8 }

/-- Lanes and frames staged. -/
def stagedLanes (s : State) : Nat := fld (stPart s 0x1C) 6 0
def stagedFrames (s : State) : Nat := fld (stPart s 0x28) 19 0

/-- The BADCMD conditions of CREATE and RESIZE (R357). -/
def grantBad (s : State) (x : Part) : Bool :=
  x.fields == 0 || x.chimeBase % 48 != 0 ||
    decide (65536 < x.chimeBase + x.chimeCount ∨ 65536 < x.strmBase + x.strmCount ∨ 64 < stagedLanes s ∨ 1024 < x.t3Slots ∨
      2048 < x.watch ∨ 512 < x.chains)

/-! ## Pools (R354, R357) -/

/-- Whether two ranges of numbers have a number in common. -/
def rangesMeet (a n b m : Nat) : Bool := decide (0 < n ∧ 0 < m ∧ a < b + m ∧ b < a + n)

/-- The partitions other than p that hold something. -/
def othersHeld (s : State) (p : Nat) : List Nat := partNums.filter (fun q => q != p && isHeld s q)

/-- Whether a field, chime or stream of the grants is held elsewhere. -/
def heldElsewhere (s : State) (p : Nat) (x : Part) : Bool :=
  (othersHeld s p).any (fun q =>
    let y := s.part q
    (x.fields &&& y.fields) != 0 || rangesMeet x.chimeBase x.chimeCount y.chimeBase y.chimeCount ||
      rangesMeet x.strmBase x.strmCount y.strmBase y.strmCount)

/-- The free lanes, lowest first (R354). -/
def freeLanes (s : State) : List Nat := (List.range 64).filter (fun n => (s.lane n).owner == 0 && !(s.lane n).withheld)

/-- A share in sixteenths (R355). -/
def Part.shareOf (x : Part) (n : Nat) : Nat := if x.shareFull.getLsbD n then 16 else fld x.share (4 * n + 3) (4 * n)

/-- Whether a pool is short of the grants, `old` being what p holds now (R357). -/
def poolShort (s : State) (p : Nat) (old x : Part) : Bool :=
  let oth := (othersHeld s p).map s.part
  decide ((freeLanes s).length + old.lanes.length < stagedLanes s) || decide (2048 < (oth.map (·.watch)).sum + x.watch) ||
    decide (512 < (oth.map (·.chains)).sum + x.chains) ||
    (List.range 8).any (fun n => decide (16 < (oth.map (fun y => y.shareOf n)).sum + x.shareOf n)) ||
    (decide (old.frames.length < stagedFrames s) && decide (freeCount s + old.frames.length < stagedFrames s)) ||
    decide (t3Free s + old.t3Units < x.t3Units)

/-- Whether a half-field of the fields has a test queued or running (events met in chapter 16). -/
def testHolds (s : State) (fs : BitVec 84) : Bool :=
  (halvesOf fs).any (fun h => (s.test h).st == .queued || (s.test h).st == .running)

/-- The STATE conditions common to CREATE and RESIZE. -/
def grantState (s : State) (p : Nat) (old x : Part) : Bool :=
  heldElsewhere s p x || poolShort s p old x || s.tiers.migr.isSome || testHolds s x.fields

/-! ## Applying grants -/

/-- Places one more frame: on stack p mod S of the ONLINE stacks, or on the next that has a free frame, its lowest (R241). -/
def placeOne (s : State) (p : Nat) : State :=
  let on := onlineStacks s
  let x := s.part p
  let k := x.frames.length % on.length
  match (on.drop k ++ on.take k).findSome? (fun n => (freeFrames s n).head?) with
  | some f =>
    let s := { s with tiers := { s.tiers with badFrame := s.tiers.badFrame.filter (· != f) } }
    s.setPart p { x with frames := x.frames ++ [f] }
  | none => s

/-- Places `n` more frames. -/
def placeFrames (s : State) (p : Nat) : Nat → State
  | 0 => s
  | n + 1 => placeFrames (placeOne s p) p n

/-- Brings the frames of p to `n` (R241). -/
def setFrames (s : State) (p n : Nat) : State :=
  let x := s.part p
  if n < x.frames.length then releaseFrames (s.setPart p { x with frames := x.frames.take n }) (x.frames.drop n)
  else placeFrames s p (n - x.frames.length)

/-- Brings the lanes of p to `n`: the lowest free ones join, the last ones leave (R354). -/
def setLanes (s : State) (p n : Nat) : State :=
  let x := s.part p
  if n < x.lanes.length then releaseLanes (s.setPart p { x with lanes := x.lanes.take n }) (x.lanes.drop n)
  else
    let new := (freeLanes s).take (n - x.lanes.length)
    let s := new.foldl (fun s l => s.setLane l { owner := p }) s
    s.setPart p { x with lanes := x.lanes ++ new }

/-- A field that leaves: its cores, its slice and the tables of its routers but for other partitions' transit tracks are brought to the
condition of R359. -/
def leaveFields (s : State) (fs : BitVec 84) : State :=
  let through (k i : Nat) : Bool := i / 4 != 4 && s.transit.any (fun g => g.field == fieldOfKey s k && g.track == i % 4)
  let one (e : Nat × Router) : Nat × Router :=
    if inFields s fs e.1 then (e.1, { e.2.clear (fun i => !through e.1 i) with routes := [], inbox := [] }) else e
  let s := { s with routers := s.routers.map one }
  freshCores (clearSlices s fs) (halvesOf fs)

/-- What leaves the chime, stream and chain ranges of p when `x` becomes its grants: chimes 0, their pairs invalid; streams and chains
gone; SC_EN of a lane whose SC is past the count cleared (R231, R358). -/
def trimRanges (s : State) (p : Nat) (x : Part) : State :=
  let goneC (g : Nat) : Bool := chimeIn s p g && !decide (x.chimeBase ≤ g ∧ g < x.chimeBase + x.chimeCount)
  let goneS (k : Nat) : Bool := streamIn s p k && !decide (x.strmBase ≤ k ∧ k < x.strmBase + x.strmCount)
  let pairGone (e : Nat × Pair) : Bool := goneC e.1 || (chimeIn s p e.1 && decide (x.chimeCount ≤ e.2.consumer.toNat))
  let s' := { s with
    chimes := s.chimes.filter (fun e => !goneC e.1), chimeTime := s.chimeTime.filter (fun e => !goneC e.1),
    pairs := s.pairs.filter (fun e => !pairGone e), streams := s.streams.filter (fun e => !goneS e.1),
    chains := s.chains.filter (fun e => e.1 / 512 != p || decide (e.1 % 512 < x.chains)) }
  (s.part p).lanes.foldl (fun s n =>
    let l := s.lane n
    let cut (w : Word) : Word := if x.chimeCount ≤ fld w 15 0 then w &&& ~~~(bits 16 16) else w
    s.setLane n { l with ctrl := cut l.ctrl, ctrlF := cut l.ctrlF, mask := l.mask &&& x.fields, maskF := l.maskF &&& x.fields }) s'

/-! ## PART_CMD (R357, R358) -/

/-- PART_CMD_STATUS.CODE. -/
def partCode (s : State) (c : Word) : State := regSet s 0 0 0x200048 c

/-- One command of PART_CMD: ignored while BUSY; STATE in RETIRED; BADCMD for a PART_SEL that names no partition (R357, R363, R421). -/
def partOp (s : State) (f : State → Nat → State) : State :=
  if s.partCmd.isSome then s
  else if s.lc = .retired then partCode s 1
  else if partSel s = 0 ∨ 16 < partSel s then partCode s 2
  else f s (partSel s)

/-- CREATE: the grants are taken at once; the partition is LIVE when the command completes. Every CREATE advances the creation count
(R427). -/
def partCreate (s : State) (p : Nat) : State :=
  let old := s.part p
  let x := stagedPart s { creations := old.creations + 1 }
  if old.st ≠ .free then partCode s 1
  else if grantBad s x then partCode s 2
  else if grantState s p old x then partCode s 1
  else
    let s := partCode (s.setPart p x) 0
    let s := setFrames (setLanes s p (stagedLanes s)) p (stagedFrames s)
    { s with partCmd := some ⟨1, p, old⟩ }

def execCreate (s : State) : Res := .next (partOp s partCreate)

/-- The highest bound slot of p, plus 1 (R358). -/
def slotsBound (s : State) (p : Nat) : Nat :=
  ((s.wst.slots.filter (fun e => e.1 / 1024 == p && e.2.bound)).map (fun e => e.1 % 1024 + 1)).foldl max 0

/-- Whether RESIZE asks for a change of fields, ranges, lanes, watches or chains (R358). -/
def sizeChanged (s : State) (old x : Part) : Bool :=
  x.fields != old.fields || x.chimeBase != old.chimeBase || x.chimeCount != old.chimeCount || x.strmBase != old.strmBase ||
    x.strmCount != old.strmCount || stagedLanes s != old.lanes.length || x.watch != old.watch || x.chains != old.chains

/-- RESIZE: R358; fields that leave are brought to the condition of R359 now, fields that join when the command completes. -/
def partResize (s : State) (p : Nat) : State :=
  let old := s.part p
  let x := stagedPart s old
  if old.st ≠ .live then partCode s 1
  else if grantBad s x then partCode s 2
  else if grantState s p old x || (sizeChanged s old x && !quiescent s p 8) ||
      decide (x.t3Units < addUnits s p ∨ x.t3Slots < slotsBound s p) then partCode s 1
  else
    let s := trimRanges (leaveFields s (old.fields &&& ~~~x.fields)) p x
    let s := partCode (s.setPart p x) 0
    let s := setFrames (setLanes s p (stagedLanes s)) p (stagedFrames s)
    { s with partCmd := some ⟨2, p, old⟩ }

def execResize (s : State) : Res := .next (partOp s partResize)

/-- RESET: a partition reset begins; BUSY until it is done. -/
def partReset (s : State) (p : Nat) : State :=
  if (s.part p).st ≠ .live then partCode s 1
  else { beginReset (partCode s 0) p .resetting none with partCmd := some ⟨3, p, s.part p⟩ }

def execReset (s : State) : Res := .next (partOp s partReset)

/-- DESTROY: a destruction begins, also of a partition that is being reset. -/
def partDestroy (s : State) (p : Nat) : State :=
  if (s.part p).st = .live ∨ (s.part p).st = .resetting then
    { beginReset (partCode s 0) p .destroying none with partCmd := some ⟨4, p, s.part p⟩ }
  else partCode s 1

def execDestroy (s : State) : Res := .next (partOp s partDestroy)

/-- Whether a links-scope run or a repair holds a half-field of field f. -/
def linksHeld (s : State) (f : Nat) : Bool :=
  [2 * f, 2 * f + 1].any (fun h => ((s.test h).links || (s.test h).repair) && ((s.test h).st == .queued || (s.test h).st == .running))

/-- The transit grants after TRANSIT: the tracks go to partition t, or are taken from it. -/
def transitAfter (s : State) (f t tracks : Nat) (grant : Bool) : List Transit :=
  let named (g : Transit) : Bool := g.field == f && tracks.testBit g.track
  if grant then s.transit.filter (fun g => !named g) ++ ((List.range 4).filter (fun i => tracks.testBit i)).map (fun i => ⟨f, i, t⟩)
  else s.transit.filter (fun g => !(named g && g.part == t))

/-- TRANSIT: the tracks named change hands; what was loaded on a track under its former owner is cleared (log entry 37). -/
def partTransit (s : State) (_ : Nat) : State :=
  let w := stPart s 0x40
  let f := fld w 14 8
  let t := fld w 20 16
  let o := partOfField s f
  let ts := transitAfter s f t (fld w 3 0) (w.getLsbD 31)
  if (s.part (partSel s)).st ≠ .live then partCode s 1
  else if 83 < f ∨ (s.part t).st ≠ .live then partCode s 2
  else if (o != 0 && !quiescent s o 8) || !quiescent s t 8 || linksHeld s f then partCode s 1
  else
    let s1 := { s with transit := ts }
    let one (e : Nat × Router) : Nat × Router :=
      (e.1, e.2.clear (fun i => trackOwner s e.1 (i / 4) (i % 4) != trackOwner s1 e.1 (i / 4) (i % 4)))
    let need : BitVec 84 := if w.getLsbD 31 then 1#84 <<< f else 0
    partCode { s1 with routers := s.routers.map one, partCmd := some ⟨5, partSel s, { fields := need }⟩ } 0

def execTransit (s : State) : Res := .next (partOp s partTransit)

/-- A write of PART_CMD (R357, R363). -/
def partCmdWrite (s : State) (v : Word) : State :=
  match fld v 31 28 with
  | 1 => partOp s partCreate
  | 2 => partOp s partResize
  | 3 => partOp s partReset
  | 4 => partOp s partDestroy
  | 5 => partOp s partTransit
  | _ => partOp s (fun s _ => partCode s 2)

/-! ## Completion (R357, R370) -/

/-- The half-fields that the command in progress needs powered. -/
def cmdHalves (s : State) : List Nat :=
  match s.partCmd with
  | some c =>
    if c.op = 1 then halvesOf (s.part c.part).fields
    else if c.op = 2 then halvesOf ((s.part c.part).fields &&& ~~~c.old.fields)
    else if c.op = 5 then halvesOf c.old.fields
    else []
  | none => []

/-- Whether a half-field still waits for its soft start. -/
def softPending (r : PRegion) : Bool :=
  match r.st with
  | .off => true
  | .ramping => r.ramp == .soft
  | .retry => r.ramp == .soft
  | _ => false

/-- PART_CMD_COMPLETE: soft starts and zero fills are done; fields that join are in the condition of R359; a new partition is LIVE. -/
def partComplete (s : State) : State :=
  match s.partCmd with
  | none => s
  | some c =>
    if c.op = 3 ∨ c.op = 4 ∨ (cmdHalves s).any (fun h => softPending (s.region h)) then s
    else
      let s' := { (if c.op = 5 then s else freshCores s (cmdHalves s)) with partCmd := none }
      if c.op = 1 then s'.setPart c.part { s'.part c.part with st := .live } else s'

def execPartCmdComplete (s : State) : Res := .next (partComplete s)

/-! ## Resets of functions (R339, R465) -/

/-- VF_FLR: a partition reset; its queues are disabled in any state. -/
def vfFlr (s : State) (p : Nat) : State :=
  if (s.part p).st = .live then beginReset s p .resetting none else (List.range 8).foldl (fun s q => stopQueue s p q) s

def execVfFlr (p : Vf) (s : State) : Res := .next (vfFlr s (vfPart p))

/-- The PART_ command in progress is abandoned, a DESTROY excepted (R339): a CREATE's grants return to their pools, fields that were
joining by a RESIZE are not joined, a reset or a transit grant already made stands (log entry 38). -/
def abandonCmd (s : State) : State :=
  match s.partCmd with
  | none => s
  | some c =>
    if c.op = 4 then s
    else if c.op = 1 then
      let x := s.part c.part
      { (releaseLanes (releaseFrames s x.frames) x.lanes).setPart c.part { creations := x.creations } with partCmd := none }
    else if c.op = 2 then
      let x := s.part c.part
      { s.setPart c.part { x with fields := x.fields &&& c.old.fields } with partCmd := none }
    else { s with partCmd := none }

/-- The selector and staging registers of the PF's window (R339). -/
def pfSelector (o : Nat) : Bool :=
  [0x200000, 0x20005C, 0x700100, 0x700020, 0x700130, 0x900034, 0x90004C, 0x900054, 0xA00030, 0xA00034, 0xB00018, 0xB00028, 0xC0000C,
    0xD01000].contains o || decide (0x200008 ≤ o ∧ o < 0x200044) || decide (0x900020 ≤ o ∧ o < 0x900030) ||
    decide (0xC00100 ≤ o ∧ o < 0xC001C0) || decide (0x400000 ≤ o ∧ o < 0x408000 ∧ o % 0x1000 = 0x034)

/-- The registers of the PF's own report ring, which are those up to 0x30 but ERR_INCARNATION (R458). -/
def ringReg (o : Nat) : Bool :=
  [0xD00000, 0xD00004, 0xD00008, 0xD0000C, 0xD00010, 0xD00014, 0xD00028, 0xD0002C, 0xD00030, 0xD00034].contains o

/-- Removes the PF's stored words at some offsets: they read at their reset values. -/
def dropPf (s : State) (f : Nat → Bool) : State :=
  { s with regs := s.regs.filter (fun e => !(e.1 / 2 ^ 26 == 0 && f (e.1 % 2 ^ 26))) }

/-- A Function Level Reset of the PF (R339). -/
def pfFlr (s : State) : State :=
  let s := (List.range 32).foldl restage (dropPf (abandonCmd s) (fun o => pfSelector o || ringReg o))
  { s with
    power := { s.power with stage := s.power.stage.filter (fun e => e.1 / 65536 != 0) },
    tamb := { s.tamb with fetch := Tab.drop s.tamb.fetch 0 }, rings := Tab.put s.rings 0 {} }

def execPfFlr (s : State) : Res := .next (pfFlr s)

/-- A queue of a VF at PERST#: disabled, the completion of a command in progress discarded (R465). -/
def perstQueue (s : State) (p q : Nat) : State :=
  let s := cutCmd s p q
  let x := hq s p q
  let s := setHq s p q { x with tail := x.head, cmd := none, cpl := none, held := false }
  regSet s p 0 (hqOff q 0x10) (hqCtrl s p q &&& ~~~(bits 31 31))

/-- PERST# asserted: no effect before MOD_READY (R465, R486). -/
def perst (s : State) : State :=
  if s.hw.ready = false then s
  else
    let s := partNums.foldl (fun s p =>
      let s := (List.range 8).foldl (fun s q => perstQueue s p q) s
      let s := s.setPart p { s.part p with reinitBy := none }
      regSet s p 0 0xD00008 (regGet s p 0 0xD00008 &&& ~~~(bits 31 31))) s
    pfFlr s

def execPerst (s : State) : Res := .next (perst s)

/-! ## Reads (R363) -/

def PartSt.code : PartSt → Nat
  | .free => 0 | .live => 1 | .resetting => 2 | .destroying => 3

/-- PART_STATE of partition p; QUIESCENT of a FREE partition is at its reset value (R363). -/
def partStateWord (s : State) (p : Nat) : Word :=
  BitVec.ofNat 32 (((s.part p).st != .free && quiescent s p 8).toNat * 2 ^ 31 + (s.part p).st.code)

/-- A grant register of a partition; PART_TRANSIT holds no grant and reads as staged. -/
def readGrant (s : State) (x : Part) (o : Nat) : Word := if o = 0x40 then stPart s 0x40 else grantWord x o

/-- A read of the PART_ block in the window of function fn (R363). PART_STATE is 0 while PART_SEL names no partition (log entry
81). -/
def readPart (s : State) (fn o : Nat) : Word :=
  if fn ≠ 0 then
    if o = 0x04 then partStateWord s fn else if 0x08 ≤ o ∧ o ≤ 0x10 ∧ (s.part fn).st ≠ .free then readGrant s (s.part fn) o else 0
  else
    let p := partSel s
    match o with
    | 0x00 => regGet s 0 0 0x200000
    | 0x04 => if p = 0 ∨ 16 < p then 0 else partStateWord s p
    | 0x44 => 0
    | 0x48 => regGet s 0 0 0x200048 ||| (if s.partCmd.isSome then bits 31 31 else 0)
    | 0x4C => BitVec.ofNat 32 (freeLanes s).length
    | 0x50 => regGet s 0 p 0x200050
    | 0x54 => regGet s 0 p 0x200054
    | 0x58 => regGet s 0 p 0x200058
    | _ => if (s.part p).st = .free then 0 else readGrant s (s.part p) o

end Sys2Proof.Machine
end

