-- ==== Sys2Proof/Machine/Power.lean ====
section
/-! DEFINITION. Power regions: states, ramps, faults in supply, sensors, edge links, and the safe stop (R364 to R377, R388, R389, R394,
R448). -/

namespace Sys2Proof.Machine

/-- PWR_FAULT bits. -/
def pwrFault (s : State) (b : Word) : State := regOr s 0 0 0x90005C b

/-- LOC and REGION of a region. -/
def locRegion (r : Nat) : Word := BitVec.ofNat 32 r

/-- A rail's number in records and tables (R413). -/
def railNo : Rail → Nat
  | .logic => 0 | .near => 1 | .stack => 2 | .links => 3 | .mif => 4

/-- The domain of a rail, as DEAD_DOM counts it (R384). -/
def railDom : Rail → BitVec 4
  | .logic => 1 | .near => 2 | .stack => 2 | .links => 4 | .mif => 8

/-- The active range of a rail in mV (R366). -/
def railLow : Rail → Nat
  | .logic => 550 | .near => 700 | .stack => 700 | .links => 600 | .mif => 750

def railHigh : Rail → Nat
  | .mif => 750
  | _ => 850

/-- Whether the arrays stand at their retention voltage: RETAINED, or an unpark that has not ended (R366, R370, R374). -/
def PRegion.resting (r : PRegion) : Bool :=
  r.st == .retained || ((r.st == .ramping || r.st == .retry) && r.ramp == .unpark)

/-- A set-point: 0.45 V for the arrays in retention (R366). -/
def PRegion.set (r : PRegion) (x : Rail) : Nat :=
  if r.resting && (x == .near || x == .stack) then 450 else Tab.get 0 r.mv (railNo x)

def PRegion.setMv (r : PRegion) (x : Rail) (v : Nat) : PRegion := { r with mv := Tab.put r.mv (railNo x) v }

/-- Whether the rail of a number is held: five or more of its sensors are excluded (R368). -/
def PRegion.heldNo (r : PRegion) (n : Nat) : Bool := decide (5 ≤ (r.excl.filter (fun e => e.1 == n)).length)
def PRegion.held (r : PRegion) (x : Rail) : Bool := r.heldNo (railNo x)

/-- The limit of a region's cells in percent of their rated share (R372, R373). -/
def PRegion.cellLimit (r : PRegion) : Nat := if r.suspect then 70 else 130

/-- The converter zone that feeds a region: the field row of a half-field, 12 for an edge chiplet (R364). -/
def zoneOf (r : Nat) : Nat := if r < 168 then r / 2 / 7 else 12

/-- A zone's capacity in W (R364, R365). -/
def zoneCap (s : State) (z : Nat) : Nat := 450 * (8 - Tab.get 0 s.power.convLost z)

/-! ## Reports of the Tambour: made and logged (R455, R402) -/

def tambE (s : State) (cls code : Nat) (sc : Scope) (sev region : Nat) (loc v0 v1 : Word) : State :=
  logRecord (reportE s code sc sev loc v0 v1) cls code 0 region v0 v1

def tambF (s : State) (cls code : Nat) (sc : Scope) (sev region : Nat) (loc v0 v1 : Word) : State :=
  logRecord (reportF s code sc sev loc v0 v1) cls code 0 region v0 v1

def tambP (s : State) (cls code : Nat) (sc : Scope) (sev p region : Nat) (loc v0 v1 : Word) : State :=
  logRecord (reportP s code sc sev p loc v0 v1) cls code p region v0 v1

/-! ## The end of a test (R411, R424) -/

/-- A test of unit u ends with a state, having written `n` records; DONE is set. -/
def testEnd (s : State) (u : Nat) (st : TestSt) (n : Nat) : State :=
  let t := s.test u
  regOr (s.setTest u { t with st := st, slice := false, found := n }) 0 0 0xB00014 (bits 30 30)

/-- A BIST run or a repair ends in FAIL because its region is lost (events met in chapter 16). -/
def testLost (s : State) (u : Nat) : State :=
  if (s.test u).st = .running then
    let s := cntAdd (cntAdd s 0 0 0xB00040 1) 0 0 0xB00048 1
    testEnd s u .fail 1
  else s

/-! ## Loss of a region (R373, R375) -/

/-- The cores of a dead half-field are fenced, whatever its logic domain is (R375). -/
def fenceHalf (s : State) (h : Nat) : State := fenceCores s (partOfField s (h / 2)) EXT_FENCE ((halfKeys s h).map keyCore)

/-- The partitions with tracks loaded through a half-field (R208). -/
def halfTracks (s : State) (h : Nat) : List Nat :=
  ownersThrough s (fun pl => halfOfPlace pl == h)

/-- A half-field's epoch moves on and its copy stays behind (R448). -/
def epochPast (s : State) (h : Nat) : State :=
  let r := s.region h
  s.setRegion h { r with epoch := r.epoch + 1 }

/-- A region becomes DEAD with the domains given: its cores fenced, its tracks lost with the links domain, its stack or controller lost
(R373 to R375). -/
def killRegion (s : State) (r : Nat) (dom : BitVec 4) : State :=
  let s := if (s.region r).resting then epochPast s r else s
  let s := s.setRegion r { s.region r with st := .dead, deadDom := dom }
  if r < 168 then
    let s := testLost s r
    let ps := if dom.getLsbD 2 then halfTracks s r else []
    let s := fenceHalf s r
    ps.foldl (fun s p => routeLoss s p r 1) s
  else if r < 192 then stackLose s (r - 168)
  else ctlLose s (r - 192)

/-- Whether a loss takes the region to DEAD (R371). -/
def PRegion.canDie (x : PRegion) : Bool := x.st == .on || x.st == .retained || x.st == .retry

/-- What the cells have done waits for the Tambour's next cycle (R391; log entry 113). -/
def noteCell (s : State) (n : CellNote) : State := { s with power := { s.power with notes := s.power.notes ++ [n] } }

/-- REGION_LOST: a rail below half its set-point without current limit, or cells that do not answer (R373). -/
def regionLost (s : State) (r : Nat) (dom : BitVec 4) : State :=
  if (s.region r).canDie then noteCell (killRegion s r dom) (.lost r dom) else s

def execRegionLost (r : Sys2Proof.Region) (dom : BitVec 4) (s : State) : Res := .next (regionLost s r.val dom)

/-- SHORT_TRIP: a short in service (R373). -/
def shortTrip (s : State) (r : Nat) (dom : BitVec 4) : State :=
  if (s.region r).canDie then noteCell (killRegion s r dom) (.trip r dom) else s

def execShortTrip (r : Sys2Proof.Region) (dom : BitVec 4) (s : State) : Res := .next (shortTrip s r.val dom)

/-- A region's REGION_DEAD record. -/
def recordDead (s : State) (r : Nat) (dom : BitVec 4) : State := recordDefect s 7 4 (dom.zeroExtend 8) (locRegion r)

/-- A window with a fault of R373 has no guaranteed bounds (R380). -/
def voidWindow (s : State) : State := { s with power := { s.power with void := true } }

/-- The Tambour acts on what cells have done: the bit of PWR_FAULT, the record, the report and its log record (R365, R368, R373, R374,
R391). -/
def actOn (s : State) : CellNote → State
  | .lost r dom => tambE (recordDead (voidWindow (pwrFault s 1)) r dom) 1 0x13 .region 2 r (locRegion r) (dom.zeroExtend 32) 0
  | .trip r dom => tambE (recordDead (voidWindow (pwrFault s 4)) r dom) 1 0x11 .region 2 r (locRegion r) (dom.zeroExtend 32) 0
  | .ramp r dom n dead =>
    let s := voidWindow (pwrFault s 4)
    tambE (if dead then recordDead s r dom else s) 1 0x11 .region 2 r (locRegion r) (dom.zeroExtend 32) (BitVec.ofNat 32 n)
  | .sensor r unit mv =>
    let s := recordDefect (pwrFault (cntAdd s 0 0 0x900070 1) 0x10) 9 4 unit (locRegion r)
    tambF s 1 0x15 .region 0 r (locRegion r) (unit.zeroExtend 32) (mv.zeroExtend 32)
  | .zone z left => tambF (pwrFault s 0x20) 1 0x14 .engine 1 0xFFFF 0 (BitVec.ofNat 32 z) (BitVec.ofNat 32 left)

/-- All that has happened is acted on, in the order it happened. -/
def actOnNotes (s : State) : State := s.power.notes.foldl actOn { s with power := { s.power with notes := [] } }

/-! ## Ramps (R370, R371, R374) -/

/-- A ramp begins. -/
def startRamp (s : State) (r : Nat) (k : Ramp) : State :=
  s.setRegion r { s.region r with st := .ramping, ramp := k, tries := 0 }

/-- The set-points a soft start leaves: within the active ranges in steps of 5 mV, otherwise free (R366, R367; log entry 40); a held rail where
it stood, or at the bottom (R368); the logic of a SUSPECT region at 0.65 V or below (R373); the near rail not below the logic (R21). -/
def softPoints (s : State) (r : Nat) : State :=
  let y := s.region r
  let pick (x : Rail) (i : Nat) : Nat :=
    if y.held x then max (railLow x) (Tab.get 0 y.mv (railNo x))
    else railLow x + 5 * (Config.freeNat (s.draws + i) % ((railHigh x - railLow x) / 5 + 1))
  let logic := if y.suspect then min 650 (pick .logic 0) else pick .logic 0
  let near := if y.held .near then pick .near 1 else max (pick .near 1) logic
  let y := if r < 168 then
      (((y.setMv .logic (min logic near)).setMv .near near).setMv .stack (pick .stack 2)).setMv .links (pick .links 3)
    else y.setMv .mif 750
  { s.setRegion r y with draws := s.draws + 4 }

/-- The cores of a half-field that are in one state go to another (R49). -/
def coresTo (s : State) (h : Nat) (a b : CoreMode) : State :=
  (halfKeys s h).foldl (fun s k =>
    let c := s.core (keyCore k)
    if c.st = a then s.setCore (keyCore k) { c with st := b } else s) s

/-- Tap flag 63 is set at a core with WAKE_EN = 1 (R50). -/
def wantsWake (k : Core) : Bool := k.tapOn 63 && (k.ctlW 0x08).getLsbD 1

/-- Cores of an unparked half-field that tap flag 63 wakes (R50, R51). -/
def wakeTapped (s : State) (h : Nat) : State :=
  ((s.cores.map (·.1)).filter (fun k => halfOfKey s k == h)).foldl (fun s k =>
    let c := s.core (keyCore k)
    if c.st = .sleeping ∧ wantsWake c then s.setCore (keyCore k) { c with st := .running } else s) s

/-- An unpark ends: the cores are SLEEPING again; a stale half-field is re-initialised; otherwise tapped cores wake (R49, R50, R448). -/
def unparked (s : State) (h : Nat) : State :=
  let s := coresTo s h .retained .sleeping
  if isStale s h then staleRegion s h else wakeTapped s h

/-- Whether every core of a half-field is SLEEPING. -/
def allAsleep (s : State) (h : Nat) : Bool := s.cores.all (fun e => halfOfKey s e.1 != h || e.2.st == .sleeping)

/-- Whether the slice of a half-field has no pass open; the slice sits in the L half-field (R167). -/
def sliceStill (s : State) (h : Nat) : Bool := h % 2 == 1 || (Tab.get ({} : Slice) s.slices (h / 2)).still

/-- Whether R49 and R366 let the logic of a half-field be off. -/
def mayGate (s : State) (h : Nat) : Bool := allAsleep s h && sliceStill s h

/-- RAMP_DONE (R371, R374). A park whose conditions have gone leaves the domain on (R49, R366). -/
def rampDone (s : State) (r : Nat) : State :=
  let x := s.region r
  if x.st ≠ .ramping then s
  else
    let x0 := { x with tries := 0 }
    match x.ramp with
    | .park =>
      if mayGate s r then coresTo (s.setRegion r { x0 with st := .retained, asleep := 0, lever := none }) r .sleeping .retained
      else s.setRegion r { x0 with st := .on }
    | .unpark => unparked (s.setRegion r { x0 with st := .on, hold := s.tamb.parkHold, asleep := 0 }) r
    | .soft =>
      let s := softPoints (s.setRegion r { x0 with st := .on, asleep := 0, hold := 0 }) r
      if r < 168 then newEpoch s r else s

def execRampDone (r : Sys2Proof.Region) (s : State) : Res := .next (rampDone s r.val)

/-- RAMP_SHORT: attempt 1 or 2 goes to RETRY, attempt 3 kills the region (R371, R374). -/
def rampShort (s : State) (r : Nat) (dom : BitVec 4) : State :=
  let x := s.region r
  if x.st ≠ .ramping then s
  else
    let n := x.tries + 1
    let dead := decide (3 ≤ n)
    let s :=
      if dead then killRegion s r dom
      else
        let s := s.setRegion r { x with st := .retry, tries := n }
        if x.ramp = .unpark then epochPast s r else s
    noteCell s (.ramp r dom n dead)

def execRampShort (r : Sys2Proof.Region) (dom : BitVec 4) (s : State) : Res := .next (rampShort s r.val dom)

/-- RETRY_EXPIRY: after 10 ms the same ramp is tried again, a park only while R49 allows it (R49, R374). -/
def retryExpiry (s : State) (r : Nat) : State :=
  let x := s.region r
  if x.st ≠ .retry then s
  else if x.ramp = .park ∧ mayGate s r = false then s.setRegion r { x with st := .on, tries := 0 }
  else cntAdd (s.setRegion r { x with st := .ramping }) 0 0 0x900068 1

def execRetryExpiry (r : Sys2Proof.Region) (s : State) : Res := .next (retryExpiry s r.val)

/-- RETENTION_DROOP: a rail of a RETAINED half-field falls below 0.42 V (R448). -/
def execRetentionDroop (r : Sys2Proof.Region) (s : State) : Res :=
  let x := s.region r.val
  .next (if r.val < 168 ∧ x.resting then epochPast s r.val else s)

/-! ## Overcurrent, sensors, converters (R365, R367, R368, R372) -/

/-- OVERCURRENT: all cells of a rail sit at their limit for 10 µs. The latch is read at the next decision cycle (R372). -/
def execOvercurrent (r : Sys2Proof.Region) (rail : Rail) (s : State) : Res :=
  let x := s.region r.val
  .next (if x.canDie ∧ (Tab.find x.ocur (railNo rail)).isNone then
      s.setRegion r.val { x with ocur := Tab.put x.ocur (railNo rail) 0 }
    else s)

/-- Rail and sensor as a SUSPECT or SENSOR record holds them (R413). -/
def railSensor (rail : Rail) (n : Nat) : Nat := railNo rail % 4 * 16 + n

/-- SENSOR_EXCLUDED: the cells leave it out at once (R368). -/
def sensorExcluded (s : State) (r : Nat) (rail : Rail) (n : Nat) (mv : BitVec 16) : State :=
  let x := s.region r
  if x.excl.contains (railNo rail, n) then s
  else
    noteCell (s.setRegion r { x with excl := x.excl ++ [(railNo rail, n)] }) (.sensor r (BitVec.ofNat 8 (railSensor rail n)) mv)

def execSensorExcluded (r : Sys2Proof.Region) (rail : Rail) (sensor : Fin 16) (mv : BitVec 16) (s : State) : Res :=
  .next (sensorExcluded s r.val rail sensor.val mv)

/-- CONVERTER_LOST: its zone has 450 W less at once (R365). -/
def execConverterLost (z : Fin 13) (s : State) : Res :=
  let n := Tab.get 0 s.power.convLost z.val
  if 8 ≤ n then .next s
  else
    let lost := Tab.put s.power.convLost z.val (n + 1)
    .next (noteCell { s with power := { s.power with convLost := lost } } (.zone z.val (7 - n)))

/-! ## The sensor hub (R388, R389) -/

def clsCode : SensorCls → Nat
  | .junction => 0 | .memJunction => 1 | .rail => 2 | .current => 3 | .converter => 4 | .busbar => 5

/-- The key of a sensor. -/
def sensorKey (c : SensorCls) (region idx : Nat) : Nat := (clsCode c * 256 + region) * 65536 + idx

/-- The median of three. -/
def median3 (a b c : Int) : Int := max (min a b) (min (max a b) c)

/-- One more sample: y starts at the first median and then moves by (m − y) × 2^−K. -/
def Sensor.sample (x : Sensor) (k : Nat) (v : Int) : Sensor :=
  match v :: x.last with
  | [a] => { x with last := [a] }
  | [a, b] => { x with last := [a, b] }
  | a :: b :: c :: _ =>
    let m := median3 a b c
    let x := { x with last := [a, b] }
    if x.live then { x with num := x.num * (2 ^ k - 1) + m * 2 ^ x.exp, exp := x.exp + k }
    else { x with num := m, exp := 0, live := true }
  | [] => x

/-- The IIR shift of the class a key names (R388). -/
def keyShift (k : Nat) : Nat :=
  match k / 65536 / 256 with
  | 0 => 3 | 1 => 3 | 2 => 1 | 3 => 2 | 4 => 3 | _ => 1

/-- SENSOR_SAMPLE: one round of samples over every sensor; those not named read as at their last sample (R388; log entry 114). -/
def execSensorSample (xs : List Sample) (s : State) : Res :=
  let named := xs.foldl (fun (t : Tab Int) x => Tab.put t (sensorKey x.cls x.region x.idx) x.value) []
  let old : Tab Sensor := s.tamb.sensors.map (fun e => (e.1, e.2.sample (keyShift e.1) ((Tab.find named e.1).getD (e.2.last.headD 0))))
  let one (t : Tab Sensor) (e : Nat × Int) : Tab Sensor :=
    if (Tab.find old e.1).isSome then t else Tab.put t e.1 (({} : Sensor).sample (keyShift e.1) e.2)
  .next { s with tamb := { s.tamb with sensors := named.foldl one old } }

/-- The y of a sensor, rounded down; `none` before the hub has three samples of it. -/
def sensorY (s : State) (c : SensorCls) (region idx : Nat) : Option Int :=
  match Tab.find s.tamb.sensors (sensorKey c region idx) with
  | some x => if x.live then some (x.num / 2 ^ x.exp) else none
  | none => none

/-- The y of a sensor as a count, 0 where there is none yet. -/
def sensorNat (s : State) (c : SensorCls) (region idx : Nat) : Nat := ((sensorY s c region idx).getD 0).toNat

/-- The draw in W of a zone: its converters' currents at 1.8 V, in mA, each the second sensor of its converter (R364, R388; log entry 111). -/
def zoneDraw (s : State) (z : Nat) : Nat := ((List.range 8).map (fun c => sensorNat s .converter z (2 * c + 1))).sum * 18 / 10000

/-- Whether a region's zone has lost converters and draws what is left to it: nothing there rises (R365, R375). -/
def zoneFull (s : State) (r : Nat) : Bool :=
  decide (0 < Tab.get 0 s.power.convLost (zoneOf r) ∧ zoneCap s (zoneOf r) ≤ zoneDraw s (zoneOf r))

/-- Whether a sensor key is a junction sensor of a region. -/
def isJunction (r k : Nat) : Bool := k / 65536 == r || k / 65536 == 256 + r

/-- The region temperature in tenths of a degree, rounded down: the largest y of its junction sensors (R389). -/
def regionTemp (s : State) (r : Nat) : Int :=
  ((s.tamb.sensors.filter (fun e => isJunction r e.1 && e.2.live)).map (fun e => e.2.num / 2 ^ e.2.exp)).foldl max (-1000)

/-- Whether some junction sensor of the region is above `t` tenths. -/
def tempAbove (s : State) (r t : Nat) : Bool :=
  s.tamb.sensors.any (fun e => isJunction r e.1 && e.2.live && decide ((t : Int) * 2 ^ e.2.exp < e.2.num))

/-- Whether some junction sensor of the region is at `t` tenths or above. -/
def tempAtLeast (s : State) (r t : Nat) : Bool :=
  s.tamb.sensors.any (fun e => isJunction r e.1 && e.2.live && decide ((t : Int) * 2 ^ e.2.exp ≤ e.2.num))

/-- The logic junction temperature that R45 and R381 read, in tenths, rounded down. -/
def logicTemp (s : State) (r : Nat) : Int :=
  ((s.tamb.sensors.filter (fun e => e.1 / 65536 == r && e.2.live)).map (fun e => e.2.num / 2 ^ e.2.exp)).foldl max (-1000)

/-! ## Beat rates (R45) -/

/-- The rows of R45: supply in mV, rates in 0.01 G beats/s at 25, 45, 65, 85 and 105 °C. -/
def rateRows : List (Nat × List Nat) :=
  [(550, [78, 75, 72, 69, 66]), (600, [93, 90, 86, 83, 79]), (650, [106, 103, 99, 95, 91]), (720, [134, 130, 125, 120, 115]),
    (780, [150, 145, 140, 135, 129]), (850, [165, 160, 154, 148, 142])]

/-- A row's rate × 200 at a temperature in tenths. -/
def rowRate (r : List Nat) (t : Nat) : Nat :=
  let u := min (max t 250) 1050 - 250
  let i := min (u / 200) 3
  r.getD i 0 * (200 - (u - 200 * i)) + r.getD (i + 1) 0 * (u - 200 * i)

/-- The rows around a supply. -/
def rowsAround : List (Nat × List Nat) → Nat → Option ((Nat × List Nat) × (Nat × List Nat))
  | a :: b :: rest, mv => if mv ≤ b.1 ∨ rest = [] then some (a, b) else rowsAround (b :: rest) mv
  | _, _ => none

/-- The guaranteed rate in 0.001 G beats/s at a supply in mV and a temperature in tenths, rounded down. -/
def beatRate (mv t : Nat) : Nat :=
  match rowsAround rateRows mv with
  | some (a, b) =>
    let m := min (max mv a.1) b.1
    (rowRate a.2 t * (b.1 - m) + rowRate b.2 t * (m - a.1)) * 10 / (200 * (b.1 - a.1))
  | none => 0

/-! ## Edge links (R376, R377) -/

/-- Whether a region is an edge chiplet. -/
def isChiplet (r : Nat) : Bool := decide (168 ≤ r ∧ r < 208)

def linkOk : LinkReq → Bool
  | .width w => w != 3
  | .retrain => true

/-- CHIPLET_LINK_REQUEST: ignored while the wafer's own request is outstanding; where the chiplet has acknowledged that by then (`acked`), it
waits until that change completes. -/
def execChipletLinkRequest (r : Sys2Proof.Region) (x : ChipletReq) (s : State) : Res :=
  let q := x.q
  let acked := x.acked
  let x := s.region r.val
  if !isChiplet r.val || x.st ≠ .on || !linkOk q then .next s
  else match x.wafer with
    | none => .next (s.setRegion r.val { x with chip := some q })
    | some w =>
      if acked ∧ x.change = none then .next (s.setRegion r.val { x with change := some w, wafer := none, chip := some q }) else .next s

/-- The width a link has or is changing to. -/
def PRegion.target (x : PRegion) : BitVec 2 :=
  match x.wafer, x.change with
  | some (.width w), _ => w
  | _, some (.width w) => w
  | _, _ => x.width

/-- A wafer request: a chiplet request outstanding is withdrawn; during a change it waits, outstanding. -/
def waferRequest (s : State) (r : Nat) (q : LinkReq) : State :=
  let x := s.region r
  if !isChiplet r || x.st ≠ .on || !linkOk q || q == .width x.target then s
  else s.setRegion r { x with chip := none, wafer := some q }

/-- The wafer side acknowledges a chiplet request that stands. -/
def ackChiplet (s : State) (r : Nat) : State :=
  let x := s.region r
  match x.chip with
  | some q => if x.change = none ∧ x.wafer = none then s.setRegion r { x with chip := none, change := some q } else s
  | none => s

/-- A link after a change or a retrain. -/
def PRegion.changed (x : PRegion) : LinkReq → PRegion
  | .width w => { x with width := w }
  | .retrain => x

/-- LINK_CHANGE_DONE: counted; the change in progress completes, or that of the wafer's request, which the chiplet has acknowledged. -/
def linkDone (s : State) (r : Nat) : State :=
  let x := s.region r
  match x.change, x.wafer with
  | some q, _ => cntAdd (s.setRegion r { x.changed q with change := none }) 0 0 0x900078 1
  | none, some q => cntAdd (s.setRegion r { x.changed q with wafer := none }) 0 0 0x900078 1
  | none, none => s

def execLinkChangeDone (r : Sys2Proof.Region) (s : State) : Res := .next (linkDone s r.val)

/-! ## The safe stop (R394) -/

/-- Alert causes (R478). -/
def alert (s : State) (i : Nat) : State := { s with hw := { s.hw with alerts := s.hw.alerts ||| (1#10 <<< i) } }

/-- MOD_READY falls; a change of level is an alert cause. -/
def readyLow (s : State) : State :=
  if s.hw.ready then alert { s with hw := { s.hw with ready := false } } 8 else s

/-- A region turned off; what a repair clears stays, a held rail's set-point with it (R368, R370, R373, R374). -/
def offRegion (x : PRegion) : PRegion :=
  { st := if x.st = .dead then .dead else .off, deadDom := x.deadDom, suspect := x.suspect, excl := x.excl,
    mv := x.mv.filter (fun e => x.heldNo e.1), epoch := x.epoch, copy := x.copy }

/-- Everything that goes off with the regions: T0, T1 and T2 are lost, tests and transfers end (R394, R443), open passes are abandoned by the
stop (R175). -/
def regionsOff (s : State) : State :=
  let regs : Tab PRegion := s.power.regions.map (fun e => (e.1, offRegion e.2))
  let idle (t : Tab TestU) : Tab TestU := t.map (fun e => (e.1, if e.2.st = .queued ∨ e.2.st = .running then {} else e.2))
  let ends (t : Tab PortS) : Tab PortS := t.map (fun e => (e.1, { e.2 with xoffOut := false }))
  { s with
    power := { s.power with regions := regs }, tests := idle s.tests, ports := ends s.ports,
    tiers := { s.tiers with mem := [], tag := [], migr := none, fills := [] }, wst := { s.wst with xfers := [] } }

/-- Every core is fenced with EXT_FENCE. -/
def fenceAll (s : State) : State :=
  (0 :: partNums).foldl (fun s p =>
    fenceCores s p EXT_FENCE (((List.range (s.gridRows * 1022)).filter (fun k => partOfKey s k == p)).map keyCore)) s

/-- A safe stop, its SEV 3 reports already made. MMC: who writes its log record. A stop already made is not made again. -/
def safeStop (s : State) (source : Nat) : State :=
  if s.hw.phase = .dark ∨ s.hw.phase = .stopped then s
  else
    let s := alert (readyLow { s with quiet := true }) 0
    let s := logFrom (fenceAll s) source 3 3 0 0xFFFF 0 0
    let s := regionsOff { s with slices := [] }
    { s with hw := { s.hw with phase := .stopped } }

/-! ## Reads (R384) -/

def RegionSt.code : RegionSt → Nat
  | .off => 0 | .ramping => 1 | .on => 2 | .retained => 3 | .retry => 4 | .dead => 5

/-- PWR_REGION_STATUS. -/
def regionWord (s : State) (r : Nat) : Word :=
  let x := s.region r
  if 208 ≤ r then 0
  else
    let mv := if r < 168 then x.set .logic else x.set .mif
    BitVec.ofNat 32 (x.st.code * 2 ^ 29 + x.suspect.toNat * 2 ^ 28 + x.deadDom.toNat * 2 ^ 24 +
      (if isChiplet r then x.width.toNat else 0) * 2 ^ 22 + x.excl.length % 64 * 2 ^ 16 + mv)

/-- PWR_ZONES. -/
def zonesWord (s : State) : Word :=
  BitVec.ofNat 32 (((List.range 13).filter (fun z => Tab.get 0 s.power.convLost z == 0)).map (2 ^ ·)).sum

end Sys2Proof.Machine
end

