-- ==== Sys2Proof/Machine/Envelope.lean ====
section
/-! DEFINITION. The power envelope: staging and segments, its states and its target (R378, R379, R382 to R384). -/

namespace Sys2Proof.Machine

/-- The function number of a requester: 0 the PF, 17 and 18 the sideband buses (R477). -/
def reqFn : Staging → Nat
  | .pf => 0
  | .bus .smb => 17
  | .bus .smb2 => 18

/-- PWR_ENV_STATUS bits. -/
def envStatus (s : State) (b : Word) : State := regOr s 0 0 0x900010 b

/-- REFUSED. -/
def envRefuse (s : State) : State := envStatus s (bits 21 21)

/-- One millisecond in ns. -/
def msNs : Nat := 1000000

/-- The end of a segment's span. -/
def Segment.fin (x : Segment) : Nat := x.start.toNat + x.samples.length * msNs

/-- Whether the span covers the millisecond that begins at `t`. -/
def Segment.covers (x : Segment) (t : Nat) : Bool := decide (x.start.toNat ≤ t ∧ t < x.fin)

/-! ## Staging (R378) -/

/-- A write of PWR_SEG_CFG marks every staged sample unwritten. -/
def segCfgWrite (s : State) (fn : Nat) (v : Word) : State :=
  let st : Tab Nat := s.power.stage.filter (fun e => e.1 / 65536 != fn)
  regSet { s with power := { s.power with stage := st } } fn 0 0x900028 (v &&& (bits 31 16 ||| bits 8 0))

def execPwrSegCfgWrite (rq : Staging) (v : BitVec 32) (s : State) : Res := .next (segCfgWrite s (reqFn rq) v)

/-- A write of PWR_SEG_DATA stores sample INDEX and marks it written; INDEX moves on. -/
def segDataWrite (s : State) (fn : Nat) (v : Word) : State :=
  let i := fld (regGet s fn 0 0x90002C) 15 0
  let st : Tab Nat := Tab.put s.power.stage (fn * 65536 + i) (fld v 15 0)
  regSet { s with power := { s.power with stage := st } } fn 0 0x90002C (BitVec.ofNat 32 ((i + 1) % 65536))

def execPwrSegDataWrite (rq : Staging) (v : BitVec 32) (s : State) : Res := .next (segDataWrite s (reqFn rq) v)

/-- The staged samples 0 to COUNTM1, `none` if one of them has not been written. -/
def stagedSamples (s : State) (fn : Nat) : Option (List Nat) :=
  (List.range (fld (regGet s fn 0 0x900028) 31 16 + 1)).mapM (fun i => Tab.find s.power.stage (fn * 65536 + i))

/-- The segment a requester has staged, `none` where R378 refuses it whatever the slots hold. -/
def stagedSeg (s : State) (fn : Nat) : Option Segment :=
  let start := reg64 s fn 0 0x900020
  let ramp := fld (regGet s fn 0 0x900028) 8 0
  match stagedSamples s fn with
  | none => none
  | some xs =>
    if start.toNat % msNs = 0 ∧ s.time.toNat + 10 * msNs ≤ start.toNat ∧ ramp ≤ 300 ∧
        xs.all (fun x => decide (650 ≤ x ∧ x ≤ 3600)) then some ⟨start, ramp, xs⟩
    else none

/-- Whether two spans overlap. -/
def Segment.meets (x y : Segment) : Bool := decide (x.start.toNat < y.fin ∧ y.start.toNat < x.fin)

/-- WRITE_SEG (R378). -/
def writeSeg (s : State) (fn slot : Nat) : State :=
  match stagedSeg s fn with
  | none => envRefuse s
  | some x =>
    if (Tab.find s.power.segs slot).isSome ∨ s.power.segs.any (fun e => x.meets e.2) then envRefuse s
    else { s with power := { s.power with segs := Tab.put s.power.segs slot x } }

def execWriteSeg (rq : Staging) (seg : BitVec 8) (s : State) : Res := .next (writeSeg s (reqFn rq) seg.toNat)

/-- EN (R383). -/
def envOn (s : State) : Bool := (regGet s 0 0 0x90000C).getLsbD 31

/-- CLEAR_SEG: refused for the segment in progress. -/
def clearSeg (s : State) (slot : Nat) : State :=
  match Tab.find s.power.segs slot with
  | none => s
  | some x =>
    if envOn s ∧ x.covers s.time.toNat then envRefuse s
    else { s with power := { s.power with segs := Tab.drop s.power.segs slot } }

def execClearSeg (_ : Staging) (seg : BitVec 8) (s : State) : Res := .next (clearSeg s seg.toNat)

/-- CLEAR_ALL: refused unless EN = 0. -/
def clearAll (s : State) : State := if envOn s then envRefuse s else { s with power := { s.power with segs := [] } }

def execClearAll (_ : Staging) (s : State) : Res := .next (clearAll s)

/-- A write of PWR_ENV_CMD. -/
def envCmd (s : State) (fn : Nat) (v : Word) : State :=
  match fld v 31 28 with
  | 1 => writeSeg s fn (fld v 7 0)
  | 2 => clearSeg s (fld v 7 0)
  | 3 => clearAll s
  | _ => envRefuse s

/-! ## EN, the states (R382, R383) -/

/-- A write of PWR_ENV_CTRL: with EN = 1 while LOCK = 0 it is ignored; RAMP and HOLDOFF out of range keep their values. Segments whose last sample
completed while the envelope was IDLE are not used, and leave their slots. -/
def envCtrlWrite (s : State) (v : Word) : State :=
  if v.getLsbD 31 ∧ s.ptpLock = false then envRefuse s
  else
    let old := regGet s 0 0 0x90000C
    let ramp := if 1 ≤ fld v 24 16 ∧ fld v 24 16 ≤ 300 then v &&& bits 24 16 else old &&& bits 24 16
    let hold := if fld v 15 0 ≠ 0 then v &&& bits 15 0 else old &&& bits 15 0
    let s := regSet s 0 0 0x90000C ((v &&& bits 31 31) ||| ramp ||| hold)
    if v.getLsbD 31 = false then { s with power := { s.power with env := .idle } }
    else if s.power.env = .idle then
      let live : Tab Segment := s.power.segs.filter (fun e => !decide (e.2.fin ≤ s.time.toNat))
      { s with power := { s.power with env := .armed, begun := false, segs := live } }
    else s

def execPwrEnvCtrlWrite (_ : Staging) (v : BitVec 32) (s : State) : Res := .next (envCtrlWrite s v)

/-- PWR_CAP, in 10 W. -/
def pwrCap (s : State) : Nat := fld (regGet s 0 0 0x900008) 15 0

/-- Whether the envelope has a target of R379. -/
def EnvSt.tracks : EnvSt → Bool
  | .tracking => true
  | .gap => true
  | .ended => true
  | _ => false

/-- ENV_FROZEN: LOCK = 0 for HOLDOFF ms (R383). -/
def envFreeze (s : State) : State :=
  let e := s.power.env
  if s.ptpLock ∨ (e.tracks = false ∧ e ≠ .armed) then s
  else
    let t := if e = .armed then pwrCap s * 100 else s.power.target
    let s := alert { s with power := { s.power with env := .frozen, target := t } } 4
    tambF s 4 0x23 .engine 1 0xFFFF 0 (BitVec.ofNat 32 (t / 100)) 0

def execEnvFrozen (s : State) : Res := .next (envFreeze s)

/-! ## The target (R379) -/

/-- The slew limit of a segment, in 0.1 W per ms. -/
def segSlew (s : State) (x : Segment) : Nat := if x.ramp = 0 then fld (regGet s 0 0 0x90000C) 24 16 else x.ramp

/-- Segments whose last sample is complete at `t` leave their slots; the latest of them gives the V and the slew that hold (R378,
R379). -/
def retireSegs (s : State) (t : Nat) : State :=
  let done := s.power.segs.filter (fun e => decide (e.2.fin ≤ t))
  let last := done.foldl (fun (b : Option Segment) e => match b with
    | some x => if x.fin < e.2.fin then some e.2 else b
    | none => some e.2) none
  let kept : Tab Segment := s.power.segs.filter (fun e => !decide (e.2.fin ≤ t))
  let p := { s.power with segs := kept }
  match last with
  | some x => { s with power := { p with value := x.samples.getLast?.getD 0, slew := segSlew s x, begun := true } }
  | none => { s with power := p }

/-- The state of the envelope at `t`, its segments retired (R383). -/
def envMove (s : State) (t : Nat) : State :=
  match s.power.segs.find? (fun e => e.2.covers t) with
  | some (slot, x) =>
    let j := (t - x.start.toNat) / msNs
    let tg := if s.power.env = .armed then s.power.draw.toNat * 100 else s.power.target
    { s with power := { s.power with
        env := .tracking, begun := true, seg := slot, index := j, value := x.samples.getD j 0, slew := segSlew s x, target := tg } }
  | none =>
    let e := match s.power.env with
      | .tracking => if s.power.segs.any (fun x => decide (t < x.2.start.toNat)) then .gap else .ended
      | e => e
    { s with power := { s.power with env := e } }

/-- target + clamp(V − target, −RAMP, +RAMP), in 0.1 W; V is in 10 W. -/
def slewTo (target value slew : Nat) : Nat :=
  let v := value * 100
  if target ≤ v then target + min (v - target) slew else target - min (target - v) slew

/-- The envelope at a boundary. -/
def envBoundary (s : State) (t : Nat) : State :=
  if s.power.env = .idle ∨ s.power.env = .frozen then s
  else
    let s := envMove (retireSegs s t) t
    if s.power.env.tracks then
      { s with power := { s.power with target := slewTo s.power.target s.power.value s.power.slew } }
    else s

/-- LOCK returns to a FROZEN envelope: the state that WP_TIME gives; the samples passed are not used (R383). -/
def envThaw (s : State) : State :=
  if s.power.env ≠ .frozen then s
  else
    let t := s.time.toNat
    let s := retireSegs s t
    if s.power.segs.any (fun e => e.2.covers t) then { s with power := { s.power with env := .tracking } }
    else if s.power.begun = false then { s with power := { s.power with env := .armed } }
    else if s.power.segs.any (fun x => decide (t < x.2.start.toNat)) then { s with power := { s.power with env := .gap } }
    else { s with power := { s.power with env := .ended } }

/-- PTP_LOCK_LOST: WP_PTP.LOCK reads 0 (R311, R383). -/
def execPtpLockLost (s : State) : Res := .next { s with ptpLock := false }

/-- PTP_EVENT_MESSAGE: the enabled port steers WP_TIME, and LOCK is as the servo finds it (R311); an envelope that was FROZEN goes on
when LOCK returns (R383). -/
def execPtpEventMessage (pt : Port) (ns : BitVec 64) (locked : Bool) (s : State) : Res :=
  let w := regGet s 0 0 0x408000
  if w.getLsbD 31 ∧ fld w 10 8 = pt.val ∧ (s.port pt.val).linked then
    let s := { emit s (.ptp pt.val) with time := ns, ptpLock := locked }
    .next (if locked then envThaw s else s)
  else .next s

/-! ## Reads (R384) -/

def EnvSt.code : EnvSt → Nat
  | .idle => 0 | .armed => 1 | .tracking => 2 | .gap => 3 | .ended => 4 | .frozen => 5

/-- The target in force, in 10 W: the cap while ARMED, none while IDLE. -/
def targetNow (s : State) : Nat :=
  match s.power.env with
  | .idle => 0
  | .armed => pwrCap s
  | _ => s.power.target / 100

/-- PWR_ENV_STATUS. -/
def envStatusWord (s : State) : Word :=
  (regGet s 0 0 0x900010 &&& bits 23 21) ||| BitVec.ofNat 32 (s.power.env.code * 2 ^ 29 + s.power.seg % 256)

/-- PWR_ENV_TARGET. -/
def envTargetWord (s : State) : Word := BitVec.ofNat 32 (s.power.index % 65536 * 65536 + targetNow s % 65536)

/-- The slot PWR_SEG_SEL names. -/
def selSeg (s : State) (fn : Nat) : Option Segment := Tab.find s.power.segs (fld (regGet s fn 0 0x900034) 7 0)

/-- A read of the PWR_ block by a requester: `fn` for its window, selectors its own (R384, R477). -/
def readPwr (s : State) (fn o : Nat) : Word :=
  if 1 ≤ fn ∧ fn ≤ 16 then
    match o with
    | 0x04 => s.power.drawAvg.zeroExtend 32
    | 0x10 => envStatusWord s
    | 0x14 => envTargetWord s
    | _ => 0
  else match o with
    | 0x00 => BitVec.ofNat 32 (s.power.volts.toNat * 65536 + s.power.draw.toNat)
    | 0x04 => s.power.drawAvg.zeroExtend 32
    | 0x08 => regGet s 0 0 0x900008
    | 0x0C => regGet s 0 0 0x90000C
    | 0x10 => envStatusWord s
    | 0x14 => envTargetWord s
    | 0x18 => 0
    | 0x30 => 0
    | 0x38 => match selSeg s fn with
      | some x => bits 31 31 ||| BitVec.ofNat 32 (x.ramp * 65536 + (x.samples.length - 1))
      | none => 0
    | 0x40 => match selSeg s fn with
      | some x => x.start.truncate 32
      | none => 0
    | 0x44 => match selSeg s fn with
      | some x => (x.start >>> 32).truncate 32
      | none => 0
    | 0x48 => s.power.floorKw.zeroExtend 32
    | 0x50 => regGet s 0 (fld (regGet s fn 0 0x90004C) 4 0) 0x900050
    | 0x58 => regionWord s (fld (regGet s fn 0 0x900054) 7 0)
    | 0x5C => regGet s 0 0 0x90005C
    | 0x60 => zonesWord s
    | _ =>
      if 0x68 ≤ o ∧ o < 0x88 then regGet s 0 0 (0x900000 + o) else regGet s fn 0 (0x900000 + o)

end Sys2Proof.Machine
end

