-- ==== Sys2Proof/Machine/Cycle.lean ====
section
/-! DEFINITION. The decision cycle of the active Tambour, step by step (R390): faults, thermal limits, envelope and floors, parking,
writes, mailbox (R365, R370 to R375, R379, R381, R392, R395, R396, R400, R401, R412). -/

namespace Sys2Proof.Machine

/-! ## Step 2: faults -/

/-- A rail 20 mV lower, not below its range; the logic goes with the near rail, which does not fall below it (R21, R372), and a held rail
stays where it is (R368). -/
def PRegion.lowered (x : PRegion) (rail : Rail) : PRegion :=
  let v := max (railLow rail) (x.set rail - 20)
  if x.held rail then x
  else match rail with
    | .near =>
      if x.held .logic then x.setMv .near (max v (x.set .logic))
      else (x.setMv .logic (min v (x.set .logic))).setMv .near v
    | _ => x.setMv rail v

/-- A rail in overcurrent at this cycle: lowered by 20 mV to the bottom of its range; reported once; at the bottom for 5 cycles it is a
short (R372). The count kept is 1 + the cycles at the bottom, at which an array in retention stands too (R366). -/
def overOne (s : State) (r : Nat) (rail : Rail) : State :=
  let x := s.region r
  if x.canDie = false then s
  else
    let n := Tab.get 0 x.ocur (railNo rail)
    let v := x.set rail
    let s := if n = 0 then
        tambF (pwrFault s 2) 1 0x12 .region 1 r (locRegion r) (BitVec.ofNat 32 (railNo rail)) (BitVec.ofNat 32 v)
      else s
    if v ≤ railLow rail then
      if 5 ≤ max n 1 then shortTrip s r (railDom rail)
      else s.setRegion r { x with ocur := Tab.put x.ocur (railNo rail) (max n 1 + 1) }
    else s.setRegion r { x.lowered rail with ocur := Tab.put x.ocur (railNo rail) 1 }

/-- The rails, in their order. -/
def rails : List Rail := [.logic, .near, .stack, .links, .mif]

/-- The rails whose latch stands or which are still in overcurrent, with their regions. -/
def overRails (s : State) (now : List (Sys2Proof.Region × Rail)) : List (Nat × Rail) :=
  (now.map (fun e => (e.1.val, e.2)) ++
    s.power.regions.flatMap (fun e => (rails.filter (fun r => Tab.find e.2.ocur (railNo r) == some 0)).map (fun r => (e.1, r)))).dedup

/-- Overcurrent at this cycle: rails no longer in it are forgotten. -/
def overcurrents (s : State) (now : List (Sys2Proof.Region × Rail)) : State :=
  let s := (overRails s now).foldl (fun s e => overOne s e.1 e.2) s
  let still (r k : Nat) : Bool := now.any (fun e => e.1.val == r && railNo e.2 == k)
  let keep (e : Nat × PRegion) : Nat × PRegion := (e.1, { e.2 with ocur := e.2.ocur.filter (fun o => still e.1 o.1) })
  { s with power := { s.power with regions := s.power.regions.map keep } }

/-- The eight-cycle histories of a region's low sensors, this cycle added; sensors never low in eight cycles are forgotten. -/
def lowNow (x : PRegion) (now : List Nat) : Tab (List Bool) :=
  let keys := (now ++ x.low.map (·.1)).dedup.mergeSort
  (keys.map (fun k => (k, ((now.contains k) :: Tab.get [] x.low k).take 8))).filter (fun e => e.2.contains true)

/-- The y of the sensors of a rail of a half-field, those the hub has (R388, R389). -/
def railReadings (s : State) (r rail : Nat) : List Int := (List.range 16).filterMap (fun n => sensorY s .rail r (rail * 16 + n))

/-- The median of some readings: the middle one, the lower of two. -/
def median (xs : List Int) : Int := (xs.mergeSort).getD ((xs.length - 1) / 2) 0

/-- Whether a sensor reads at least 40 mV below its rail's median (R373). -/
def readsLow (s : State) (l : LowSensor) : Bool :=
  match sensorY s .rail l.region.val (railNo l.rail * 16 + l.sensor.val) with
  | some y => decide (y + 40 ≤ median (railReadings s l.region.val (railNo l.rail)))
  | none => false

/-- Suspect bonds: a sensor low in 3 of 8 cycles flags its region (R373). -/
def suspectOne (s : State) (r : Nat) (now : List Nat) : State :=
  let x := s.region r
  let low := lowNow x now
  let s := s.setRegion r { x with low := low }
  match low.find? (fun e => decide (3 ≤ (e.2.filter (· == true)).length)) with
  | none => s
  | some e =>
    if x.suspect then s
    else
      let unit := e.1 / 16 % 4 * 16 + e.1 % 16
      let s := voidWindow (pwrFault (s.setRegion r { x with low := low, suspect := true }) 8)
      let s := recordDefect s 8 4 (BitVec.ofNat 8 unit) (locRegion r)
      tambE s 1 0x10 .region 1 r (locRegion r) (BitVec.ofNat 32 unit) 0

def suspects (s : State) (now : List LowSensor) : State :=
  (s.power.regions.map (·.1)).foldl (fun s r =>
    suspectOne s r ((now.filter (fun l => l.region.val == r && readsLow s l)).map (fun l => railNo l.rail * 16 + l.sensor.val))) s

/-- A failing bank: recorded pending, its core fenced, BANK_RETIRED (R440). How many errors the window held, and whether the region had a spare
left for a stack bank (R58), is not given (log entry 3). -/
def bankRetired (s : State) (c : CoreId) (stack : Bool) (bank : Nat) : State :=
  let k := coreKey c
  let (n, s) := drawNat s
  let noSpare := if stack ∧ n % 2 = 1 then 128 else 0
  let s := recordDefect s (if stack then 4 else 3) 3 (BitVec.ofNat 8 (noSpare + bank)) (locRouter s k)
  let s := fenceCores s (partOfKey s k) EXT_FENCE [c]
  let (n, s) := drawWord s
  reportP s 0x29 .core 2 (partOfKey s k) (locCore k) (BitVec.ofNat 32 (stack.toNat * 8 + bank)) n

/-- Regions of a zone that draw, the highest first. -/
def zoneRegions (s : State) (z : Nat) : List Nat :=
  ((s.power.regions.filter (fun e => zoneOf e.1 == z && e.2.st != .off && e.2.st != .dead)).map (·.1)).mergeSort (fun a b => decide (b ≤ a))

/-- What is left of a zone cannot hold all its regions in retention: they are lost in descending index until the rest fits (R365). -/
def shedZone (s : State) (z : Nat) : State :=
  if Tab.get 0 s.power.convLost z = 0 then s
  else (zoneRegions s z).foldl (fun s r =>
    if zoneCap s z < ((zoneRegions s z).map Config.retentionDraw).sum then regionLost s r (if r < 168 then 7 else 8) else s) s

/-- Step 2: what cells have done since the last cycle, then what this one finds. -/
def stepFaults (s : State) (i : CycleIn) : State :=
  let s := (List.range 13).foldl shedZone (actOnNotes s)
  let s := i.lost.foldl (fun s e => regionLost s e.1.val e.2) s
  let s := actOnNotes (overcurrents s i.overcurrent)
  let s := suspects s i.low
  let s := i.stackLost.foldl (fun s n => stackLose s n.val) s
  let s := i.ctlLost.foldl (fun s n => ctlLose s n.val) s
  i.bank.foldl (fun s b => bankRetired s b.1 b.2.1 b.2.2.val) s

/-! ## Floors (R381) -/

/-- PWR_PART_FLOOR of a partition. -/
def floorOf (s : State) (p : Nat) : Nat := if p = 0 then 0 else fld (regGet s 0 p 0x900050) 10 0

/-- The guaranteed rate of a half-field's logic. -/
def rateOf (s : State) (h : Nat) : Nat := beatRate ((s.region h).set .logic) (logicTemp s h).toNat

/-- The lowest rate held in a partition's half-fields that are ON. -/
def lowestRate (s : State) (p : Nat) : Nat :=
  (((halvesOf (s.part p).fields).filter (fun h => (s.region h).st == .on)).map (rateOf s)).foldl min 65535

/-- FLOOR_BOUND, with its report to the partition. -/
def floorBound (s : State) (p : Nat) : State :=
  tambP (envStatus s (bits 22 22)) 4 0x19 .part 1 p 0xFFFF 0 (BitVec.ofNat 32 (floorOf s p)) (BitVec.ofNat 32 (lowestRate s p))

/-! ## Step 3: thermal limits (R392) -/

/-- The floor of a half-field. -/
def halfFloor (s : State) (h : Nat) : Nat := floorOf s (partOfField s (h / 2))

/-- FLOOR_BOUND, not set yet, where a half-field runs below its floor. -/
def belowFloor (s : State) (h : Nat) : State :=
  if halfFloor s h ≠ 0 ∧ rateOf s h < halfFloor s h ∧ (regGet s 0 0 0x900010).getLsbD 22 = false then floorBound s (partOfField s (h / 2)) else s

/-- The set-points of a hot half-field fall, by no more than 20 mV since the cycle's start, `s0` (R367, R392). -/
def coolHalf (s0 s : State) (r fall : Nat) : State :=
  let x := s.region r
  let down (x : PRegion) (a : Rail) : PRegion :=
    if x.held a ∨ x.set a ≤ railLow a then x
    else x.setMv a (max (railLow a) (max (x.set a - fall) ((s0.region r).set a - 20)))
  belowFloor (envStatus (s.setRegion r (down (down x .logic) .stack)) (bits 23 23)) r

/-- What a region above THROTTLE does. -/
def coolRegion (s0 s : State) (r : Nat) : State :=
  let x := s.region r
  if isChiplet r then (if x.target.toNat < 2 then waferRequest s r (.width (x.target + 1)) else s)
  else if x.st = .on then coolHalf s0 s r (if tempAtLeast s r 1000 then 20 else 5)
  else s

/-- THERMAL: a region passes THROTTLE. -/
def thermalReport (s : State) (r : Nat) : State :=
  let s := alert (regOr s 0 0 0xA00004 1) 3
  tambF s 2 0x18 .region 1 r (locRegion r) (BitVec.ofInt 32 (regionTemp s r)) (BitVec.ofNat 32 s.tamb.throttle)

/-- The limits on one region. -/
def thermalOne (s0 s : State) (r : Nat) : State :=
  let x := s.region r
  let above := tempAbove s r (s.tamb.throttle * 10)
  let s := if above && !x.warm then thermalReport s r else s
  let s := s.setRegion r { x with warm := above, hot := if tempAtLeast s r 1050 then x.hot + 1 else 0 }
  if above then coolRegion s0 s r else s

/-- A thermal trip: reported, then the safe stop. -/
def thermalTrip (s : State) (r : Nat) (tenths : Word) : State :=
  let s := tambE s 2 0x1A .engine 3 r 0 (locRegion r) tenths
  safeStop s (tambSource s)

/-- Step 3: the limits, then the trip where a region has been at 105 °C for 5 cycles. -/
def stepThermal (s0 s : State) : State :=
  let s := (s.power.regions.map (·.1)).foldl (thermalOne s0) s
  match s.power.regions.find? (fun e => decide (5 ≤ e.2.hot)) with
  | some e => thermalTrip s e.1 (BitVec.ofInt 32 (regionTemp s e.1))
  | none => s

/-! ## Step 4: envelope and floors (R379 to R382) -/

/-- The limit on draw that coolant and busbar set, in 10 W (R462, R481). -/
def drawLimit (s : State) : Option Nat :=
  match s.hw.coolLimit, s.hw.busLimit with
  | some a, some b => some (min a b)
  | some a, none => some a
  | none, b => b

/-- Whether such a limit lies below the target. -/
def limitBinds (s : State) : Bool :=
  match drawLimit s with
  | some l => s.power.env.tracks && decide (l < s.power.target / 100)
  | none => false

/-- Whether some partition's logic is below its floor. -/
def anyBelow (s : State) : Bool := partNums.any (fun p => decide (lowestRate s p < floorOf s p))

/-- The most the engine may draw, in 10 W: PWR_CAP while IDLE or ARMED, else the target, and what coolant and busbar allow (R382, R462,
R481). -/
def drawCap (s : State) : Nat :=
  let t := if s.power.env = .idle ∨ s.power.env = .armed then pwrCap s else s.power.target / 100
  match drawLimit s with
  | some l => min t l
  | none => t

/-- The half-fields that are ON, under test or not. -/
def onHalves (s : State) : List Nat := (s.power.regions.filter (fun e => decide (e.1 < 168) && e.2.st == .on)).map (·.1)

/-- The chiplets that are ON. -/
def onChiplets (s : State) : List Nat := (s.power.regions.filter (fun e => isChiplet e.1 && e.2.st == .on)).map (·.1)

/-- Lever 1 of R381 is at its limit: every half-field without a floor stands at 0.55 V, is held or is under test. -/
def lever1Out (s : State) : Bool :=
  (onHalves s).all (fun h => halfFloor s h != 0 || isolated s h || (s.region h).held .logic || decide ((s.region h).set .logic ≤ 550))

/-- Lever 2: every edge link that the streams do not use at their present rates is at W1. -/
def lever2Out (s : State) (i : CycleIn) : Bool :=
  (onChiplets s).all (fun r => i.busy.any (fun b => b.val == r) || decide (2 ≤ (s.region r).target.toNat))

/-- The lowest set-point whose rate meets a floor at the half-field's temperature; the top of the range where none does (R381). -/
def floorPoint (s : State) (h : Nat) : Nat :=
  (((List.range 61).map (fun k => 550 + 5 * k)).find? (fun v => decide (halfFloor s h ≤ beatRate v (logicTemp s h).toNat))).getD 850

/-- Lever 3: every half-field with a floor is at it. -/
def lever3Out (s : State) : Bool :=
  (onHalves s).all (fun h => halfFloor s h == 0 || isolated s h || (s.region h).held .logic || decide ((s.region h).set .logic ≤ floorPoint s h))

/-- Partitions with a floor. -/
def flooredParts (s : State) : List Nat := partNums.filter (fun p => floorOf s p != 0)

/-- One millisecond's entry: the measured draw against the target in force over it (R380). -/
def powerMs (s : State) (i : CycleIn) : PowerMs where
  draw := s.power.draw.toNat
  target := if s.power.env.tracks then some s.power.target else none
  shortfall := i.shortfall || limitBinds s || s.power.regions.any (·.2.warm)
  floor := (regGet s 0 0 0x900010).getLsbD 22
  void := s.power.void || !s.ptpLock

/-- Whether a window of 1 s misses a bound of R380 that holds in it: its mean draw outside ±1.5 % of its mean target (log entry 115). -/
def missed (w : List PowerMs) : Bool :=
  match w.mapM (·.target) with
  | none => false
  | some ts =>
    let d := 100 * (w.map (·.draw)).sum
    let t := ts.sum
    w.length == 1000 && w.all (fun m => !m.void) &&
      ((decide (1000 * d < 985 * t) && w.all (fun m => !m.shortfall)) || (decide (1015 * t < 1000 * d) && w.all (fun m => !m.floor)))

/-- The millisecond that ends is added to the last second's; the mean draw and PWR_CNT_MISS follow (R380, R384). -/
def addMs (s : State) (i : CycleIn) : State :=
  let w := (powerMs s i :: s.power.hist).take 1000
  let avg := (w.map (·.draw)).sum / w.length
  let s := { s with power := { s.power with hist := w, void := false, drawAvg := BitVec.ofNat 16 avg } }
  if missed w then cntAdd s 0 0 0x900080 1 else s

/-- Step 4. FLOOR_BOUND is set where the draw exceeds the target with every lever at its limit, and clears when the target is met. -/
def stepEnvelope (s : State) (i : CycleIn) (t : Nat) : State :=
  let s := envBoundary (addMs s i) t
  let s := if i.shortfall || limitBinds s then envStatus s (bits 23 23) else s
  let high := decide (s.power.target / 100 < s.power.draw.toNat)
  let bound := (regGet s 0 0 0x900010).getLsbD 22
  if s.power.env = .idle ∨ s.power.env = .armed then s
  else if high && lever1Out s && lever2Out s i && lever3Out s then
    if bound then s else (flooredParts s).foldl floorBound s
  else if !high && !anyBelow s then regSet s 0 0 0x900010 (regGet s 0 0 0x900010 &&& ~~~(bits 22 22))
  else s

/-- Whether step 3 and the caps let something in a region rise: below THROTTLE − 3 °C, its zone not full, the draw below its cap (R365, R375,
R382, R392). -/
def mayRise (s : State) (r : Nat) : Bool :=
  !tempAtLeast s r (s.tamb.throttle * 10 - 30) && !zoneFull s r && decide (s.power.draw.toNat < drawCap s)

/-- Whether levers 2 and 3 of R381 have been reversed, as they are before lever 1. -/
def lever3Back (s : State) : Bool := (onHalves s).all (fun h => halfFloor s h == 0 || (s.region h).lever.isNone)
def lever2Back (s : State) : Bool := (onChiplets s).all (fun r => (s.region r).lever.isNone)

/-! ## Step 5: parking (R49, R395, R396) -/

/-- Whether a test is queued or running on a half-field. -/
def underTest (s : State) (h : Nat) : Bool := (s.test h).st == .queued || (s.test h).st == .running

/-- Whether R49 allows the half-field to be parked. -/
def mayPark (s : State) (h : Nat) : Bool := (s.region h).st == .on && mayGate s h && !underTest s h

/-- One half-field: its counts, and the park that idleness, or lever 1 where there is no floor, calls for (R381, R395). -/
def parkOne (s : State) (lever : List HalfField) (h : Nat) : State :=
  let x := s.region h
  if x.st ≠ .on then s
  else
    let n := if allAsleep s h then x.asleep + 1 else 0
    let s := s.setRegion h { x with asleep := n, hold := x.hold - 1 }
    let idle := decide (s.tamb.parkHold ≠ 0 ∧ s.tamb.parkHold ≤ n ∧ x.hold = 0)
    if mayPark s h && (idle || (halfFloor s h == 0 && lever.any (fun l => l.val == h))) then startRamp s h .park else s

/-- Whether tap flag 63 asks for a half-field. -/
def tapped (s : State) (h : Nat) : Bool := s.cores.any (fun e => halfOfKey s e.1 == h && wantsWake e.2)

/-- The WAKE commands not yet taken, by partition. -/
def wakers (s : State) : List Nat :=
  (s.tamb.mbx.filter (fun e => decide (1 ≤ e.1 ∧ e.1 ≤ 16) && e.2.op == 2 && e.2.arg == 0 && e.2.wait.isNone)).map (·.1)

/-- Unparks: for tap flag 63, a WAKE, or lever 1 reversed last (R381, R396). -/
def unparkOne (s : State) (lever : List HalfField) (wake : List Nat) (h : Nat) : State :=
  let x := s.region h
  let w := wake.contains (partOfField s (h / 2))
  let back := lever.any (fun l => l.val == h) && lever2Back s && lever3Back s && mayRise s h
  if x.st = .retained ∧ (tapped s h || w || back) then startRamp s h .unpark
  else if (x.st = .ramping ∨ x.st = .retry) ∧ x.ramp = .park ∧ w then s.setRegion h { x with st := .on, tries := 0 }
  else s

/-- A WAKE is taken: the RETAINED half-fields it waits for. -/
def takeWake (s : State) (p : Nat) : State :=
  let hs := (halvesOf (s.part p).fields).filter (fun h => (s.region h).st == .retained)
  let m := Tab.get (⟨0, 0, none⟩ : Mbx) s.tamb.mbx p
  { s with tamb := { s.tamb with mbx := Tab.put s.tamb.mbx p { m with wait := some hs } } }

/-- Step 5. -/
def stepParking (s : State) (i : CycleIn) : State :=
  let hs := (s.power.regions.map (·.1)).filter (· < 168)
  let s := hs.foldl (fun s h => parkOne s i.leverPark h) s
  let ws := wakers s
  let s := ws.foldl takeWake s
  hs.foldl (fun s h => unparkOne s i.leverUnpark ws h) s

/-! ## Step 6: writes (R366 to R371, R377, R412) -/

/-- Whether R381's levers let the logic of a half-field go from v to w: with a floor it falls after levers 1 and 2, never below the floor; without
one it rises after levers 2 and 3 are back. -/
def leverOk (s : State) (i : CycleIn) (h v w : Nat) : Bool :=
  if halfFloor s h = 0 then decide (w ≤ v) || (lever2Back s && lever3Back s)
  else decide (v ≤ w) || (lever1Out s && lever2Out s i && decide (halfFloor s h ≤ beatRate w (logicTemp s h).toNat))

/-- Whether the near rail stays at or above the logic once a rail is at `mv` (R21). -/
def nearOk (x : PRegion) (rail : Rail) (mv : Nat) : Bool :=
  match rail with
  | .logic => decide (mv ≤ x.set .near)
  | .near => decide (x.set .logic ≤ mv)
  | _ => true

/-- Whether a set-point may be written, `s0` being the state at the cycle's start (R366, R367, R368, R381, R390). -/
def pointOk (s0 s : State) (i : CycleIn) (q : SetPoint) : Bool :=
  let r := q.region.val
  let x := s.region r
  let a := (s0.region r).set q.rail
  let v := x.set q.rail
  decide (r < 168) && q.rail != .mif && x.st == .on && decide (railLow q.rail ≤ q.mv ∧ q.mv ≤ railHigh q.rail ∧ q.mv % 5 = 0) &&
    decide (q.mv ≤ a + 20 ∧ a ≤ q.mv + 20) && !x.held q.rail && (decide (q.mv ≤ v) || (v == a && mayRise s r)) && nearOk x q.rail q.mv &&
    (q.rail != .logic || (!isolated s r && (!x.suspect || decide (q.mv ≤ max 650 v)) && leverOk s i r v q.mv))

/-- A set-point written; where lever 3 has taken a logic rail from is kept until it is back there. -/
def PRegion.write (x : PRegion) (rail : Rail) (mv : Nat) (floored : Bool) : PRegion :=
  let v := x.set rail
  let y := x.setMv rail mv
  if rail != .logic then y
  else if floored && decide (mv < v) then { y with lever := some (x.lever.getD v) }
  else match x.lever with
    | some m => if m ≤ mv then { y with lever := none } else y
    | none => y

def writePoint (s0 : State) (i : CycleIn) (s : State) (q : SetPoint) : State :=
  let r := q.region.val
  if pointOk s0 s i q then s.setRegion r ((s.region r).write q.rail q.mv (halfFloor s r != 0)) else s

/-- The cap of a SUSPECT region, reached by 20 mV a cycle; a floor that needs more is reported (R373, R375). -/
def capSuspect (s0 s : State) (r : Nat) : State :=
  let x := s.region r
  let a := (s0.region r).set .logic
  if x.suspect = false ∨ x.st ≠ .on ∨ 167 < r then s
  else
    let y := if x.held .logic then x else x.setMv .logic (min (x.set .logic) (max 650 (a - 20)))
    belowFloor (s.setRegion r y) r

/-- The logic of a half-field rises toward a goal by at most 20 mV since the cycle's start, the near rail with it: not where an earlier step has
moved it, where it is held, or where nothing may rise; a SUSPECT region's not above 0.65 V (R21, R366 to R368, R373, R390). -/
def raiseLogic (s0 s : State) (r goal : Nat) : State :=
  let x := s.region r
  let a := (s0.region r).set .logic
  let near := x.set .near
  let n := min (if x.suspect then min goal 650 else goal) (a + 20)
  let n := if x.held .near ∨ near ≠ (s0.region r).set .near then min n near else n
  if x.set .logic ≠ a ∨ x.held .logic = true ∨ n ≤ a ∨ mayRise s r = false then s
  else s.setRegion r ((x.setMv .logic n).setMv .near (max near n))

/-- Every half-field with a floor that runs below it rises to the lowest set-point that meets it (R381). -/
def liftFloor (s0 s : State) (h : Nat) : State :=
  if halfFloor s h = 0 ∨ isolated s h = true then s else raiseLogic s0 s h (floorPoint s h)

/-- The logic of a half-field under BIST goes to 0.72 V and stays there (R409; log entry 116). -/
def holdRun (s0 s : State) (h : Nat) : State :=
  let x := s.region h
  let a := (s0.region h).set .logic
  if isolated s h = false ∨ x.st ≠ .on then s
  else if 720 < a ∧ x.set .logic = a ∧ x.held .logic = false then s.setRegion h (x.setMv .logic (max 720 (a - 20)))
  else raiseLogic s0 s h 720

/-- A link request of the firmware: a retrain, a narrowing by lever 2, or a widening once lever 3 is back and where the chiplet may rise (R377,
R381, R392); where lever 2 has taken a width from is kept until it is back there. -/
def writeLink (i : CycleIn) (s : State) (e : Sys2Proof.Region × LinkReq) : State :=
  let r := e.1.val
  let x := s.region r
  match e.2 with
  | .retrain => waferRequest s r .retrain
  | .width w =>
    if x.target.toNat < w.toNat then
      if lever1Out s && !i.busy.any (fun b => b.val == r) then
        waferRequest (s.setRegion r { x with lever := some (x.lever.getD x.target.toNat) }) r (.width w)
      else s
    else if mayRise s r && lever3Back s then
      waferRequest (s.setRegion r { x with lever := x.lever.filter (fun m => decide (m < w.toNat)) }) r (.width w)
    else s

/-- Whether a half-field must stay powered: assigned, a loaded track through it, a test of it, or named by a command in progress
(R370). -/
def inUse (s : State) (h : Nat) : Bool :=
  partOfField s (h / 2) != 0 || underTest s h || (cmdHalves s).contains h ||
    s.routers.any (fun e => halfOfKey s e.1 == h && e.2.seqs.any (fun q => q.2.any (·.isSome)))

/-- Soft starts and power-downs. -/
def powerOne (s : State) (h : Nat) : State :=
  let x := s.region h
  if x.st = .off ∧ (underTest s h || (cmdHalves s).contains h) then startRamp s h .soft
  else if (x.st = .on ∨ x.st = .retained) ∧ inUse s h = false then s.setRegion h (offRegion x)
  else s

/-- Test control (R412, R424). -/
def testCtrl (s : State) : Word := regGet s 0 0 0xB0000C
def testBudget (s : State) : Bool := (testCtrl s).getLsbD 31
def testConc (s : State) : Nat := fld (testCtrl s) 27 24

/-- Half-fields whose run is in progress, paused included. -/
def runsNow (s : State) : Nat := ((List.range 168).filter (isolated s)).length

/-- Whether a queued run may start: its region ON (or DEAD, for a repair), its partition's reset done. -/
def runReady (s : State) (h : Nat) : Bool :=
  let t := s.test h
  t.st == .queued && ((s.region h).st == .on || (t.repair && (s.region h).st == .dead)) &&
    (s.part (partOfField s (h / 2))).st != .resetting

/-- A run or its next slice starts: the half-field is isolated (R409, R410, R412). -/
def startRun (s : State) (h : Nat) : State := s.setTest h { s.test h with st := .running, slice := true }

/-- One half-field in BUDGET mode, `n` slices having started in this cycle. -/
def sliceOne (s : State) (n h : Nat) : State × Nat :=
  let t := s.test h
  let first := runReady s h && decide (runsNow s < testConc s)
  let want := first || (t.st == .running && !t.slice)
  let going := ((List.range 168).filter (fun k => (s.test k).slice)).length
  let room := decide (23 * (going + 1) ≤ fld (testCtrl s) 15 0) &&
    (!s.power.env.tracks || decide (s.power.draw.toNat + 23 * (n + 1) ≤ s.power.target / 100))
  if want && room then (if first then newEpoch (startRun s h) h else startRun s h, n + 1) else (s, n)

/-- Slices of queued or paused runs, in ascending index (R412). -/
def stepSlices (s : State) : State :=
  if testBudget s then
    ((s.tests.map (·.1)).filter (· < 168)).foldl (fun (a : State × Nat) h => sliceOne a.1 a.2 h) (s, 0) |>.1
  else s

/-- Step 6. -/
def stepWrites (s0 s : State) (i : CycleIn) : State :=
  let s := i.setpoints.foldl (writePoint s0 i) s
  let rs := s.power.regions.map (·.1)
  let hs := rs.filter (· < 168)
  let s := rs.foldl (capSuspect s0) s
  let s := hs.foldl (holdRun s0) (hs.foldl (liftFloor s0) s)
  let s := (rs.filter isChiplet).foldl ackChiplet (i.links.foldl (writeLink i) s)
  stepSlices ((List.range 168).foldl powerOne s)

/-! ## Step 7: the mailbox (R400, R401) -/

/-- Answers a mailbox command. -/
def answerMbx (s : State) (fn : Nat) (code : Word) : State :=
  regSet { s with tamb := { s.tamb with mbx := Tab.drop s.tamb.mbx fn } } fn 0 0xA00020 code

/-- The answer to a WAKE: when every half-field it waits for is ON or DEAD. -/
def answerWake (s : State) (fn : Nat) (hs : List Nat) : State :=
  if hs.all (fun h => (s.region h).st == .on || (s.region h).st == .dead) then
    answerMbx s fn (if hs.any (fun h => (s.region h).st == .dead) then 2 else 0)
  else s

/-- One command: its effect and its answer; an OP not the function's, an operand out of range or an undefined OP is REFUSED. -/
def serveMbx (s : State) (e : Nat × Mbx) : State :=
  let fn := e.1
  let a := e.2.arg.toNat
  if e.2.op = 1 ∧ fn ≠ 0 ∧ 100 ≤ a ∧ a ≤ 100000 then answerMbx (s.setPart fn { s.part fn with laneTimeout := e.2.arg }) fn 0
  else if e.2.op = 2 ∧ fn ≠ 0 ∧ a = 0 then answerWake s fn (e.2.wait.getD [])
  else if e.2.op = 3 ∧ fn = 0 ∧ 60 ≤ a ∧ a ≤ 95 then answerMbx { s with tamb := { s.tamb with throttle := a } } fn 0
  else if e.2.op = 4 ∧ fn = 0 ∧ a ≤ 60000 then answerMbx { s with tamb := { s.tamb with parkHold := a } } fn 0
  else answerMbx s fn 1

/-- Step 7. -/
def stepMailbox (s : State) : State := s.tamb.mbx.foldl serveMbx s

/-! ## The cycle -/

/-- An instance holds the token and the engine runs. -/
def tambActive (s : State) : Bool := s.hw.phase == .up && (s.tamb.ta == .active || s.tamb.tb == .active)

/-- The time at which the next cycle starts: on the millisecond boundaries of WP_TIME while the envelope is in use with LOCK = 1, otherwise
one millisecond on (R379, R390). -/
def nextCycle (s : State) : BitVec 64 :=
  if s.power.env ≠ .idle ∧ s.ptpLock then BitVec.ofNat 64 ((s.time.toNat / msNs + 1) * msNs) else s.time + BitVec.ofNat 64 msNs

/-- Step 1 and the cycle's own counts: the busbar as the hub has it (R388, R389), the cycle number, the millisecond in which reports merge
(R455). -/
def beginCycle (s : State) (i : CycleIn) : State :=
  { s with
    time := nextCycle s, recent := [],
    power := { s.power with
      draw := BitVec.ofNat 16 (sensorNat s .busbar 0 1), volts := BitVec.ofNat 16 (sensorNat s .busbar 0 0), floorKw := i.floorKw },
    tamb := { s.tamb with cycle := s.tamb.cycle + 1, overruns := if i.overrun then s.tamb.overruns + 1 else 0 } }

/-- Both instances run the cycle, and those not FAILED advance their heartbeats at the end of step 6 (R385, R386, R397). -/
def beat (s : State) : State :=
  let a := if s.tamb.ta = .failed then s.tamb.beatA else s.tamb.beatA + 1
  let b := if s.tamb.tb = .failed then s.tamb.beatB else s.tamb.beatB + 1
  { s with tamb := { s.tamb with beatA := a, beatB := b } }

/-- Steps 2 to 7; a trip ends the cycle. -/
def cycle (s : State) (i : CycleIn) : State :=
  let s0 := beginCycle s i
  let s := stepThermal s0 (stepFaults s0 i)
  if s.hw.phase ≠ .up then s
  else stepMailbox (beat (stepWrites s0 (stepParking (stepEnvelope s i s0.time.toNat) i) i))

/-- DECISION_CYCLE. -/
def execDecisionCycle (i : CycleIn) (s : State) : Res := .next (if tambActive s then cycle s i else s)

end Sys2Proof.Machine
end

