-- ==== Sys2Proof/Machine/Tambour.lean ====
section
/-! DEFINITION. The supervisor: held words of 64-bit registers (R15), mailbox posts, failover, the MMC's watch, the safe stop, the event
log and the TAMB_ registers (R394, R397 to R404). -/

namespace Sys2Proof.Machine

/-! ## 64-bit writes (R15) -/

def State.fnBuf (s : State) (fn : Nat) : FnBuf := Tab.get {} s.fns fn
def State.setFnBuf (s : State) (fn : Nat) (b : FnBuf) : State := { s with fns := Tab.put s.fns fn b }

/-- A write of the low word at `off`: held, in place of any word held before. -/
def holdLow (s : State) (fn off : Nat) (w : Word) : State := s.setFnBuf fn { s.fnBuf fn with held := some (off, w) }

/-- The low word that a write of the high word at `off + 4` takes effect with, the register's low word being `cur`; the hold ends. -/
def takeHeld (s : State) (fn off : Nat) (cur : Word) : Word × State :=
  match (s.fnBuf fn).held with
  | some (o, w) => if o = off then (w, s.setFnBuf fn { s.fnBuf fn with held := none }) else (cur, s)
  | none => (cur, s)

/-! ## The mailbox (R400, R401) -/

/-- A write of TAMB_MBX_CMD: ignored while BUSY; else the command waits for the next cycle with the operand as it stands. -/
def postMbx (s : State) (fn op : Nat) : State :=
  if (Tab.find s.tamb.mbx fn).isSome then s
  else
    let m : Mbx := ⟨op, regGet s fn 0 0xA00018, none⟩
    { s with tamb := { s.tamb with mbx := Tab.put s.tamb.mbx fn m } }

def execSetLaneTimeout (fn : Func) (s : State) : Res := .next (postMbx s fn.val 1)
def execWake (fn : Func) (s : State) : Res := .next (postMbx s fn.val 2)
def execSetThrottle (fn : Func) (s : State) : Res := .next (postMbx s fn.val 3)
def execSetParkHold (fn : Func) (s : State) : Res := .next (postMbx s fn.val 4)

/-! ## Failover (R397, R398) -/

/-- The token holder's instance and the other's. -/
def holderSt (s : State) : InstSt := if s.tamb.tb = .active then .active else s.tamb.ta
def otherSt (s : State) : InstSt := if s.tamb.tb = .active then s.tamb.ta else s.tamb.tb

/-- The active instance is FAILED; the other takes the token where it is STANDBY. -/
def passToken (s : State) : State :=
  let up := if otherSt s = .standby then InstSt.active else otherSt s
  if s.tamb.tb = .active then { s with tamb := { s.tamb with tb := .failed, ta := up, overruns := 0 } }
  else { s with tamb := { s.tamb with ta := .failed, tb := up, overruns := 0 } }

/-- Whether a set-point that the active instance has written lies outside its rail's active range, or more than 20 mV from where the rail stood
(R366, R367). -/
def badPoint (s : State) (w : SetPoint) : Bool :=
  let v := (s.region w.region.val).set w.rail
  decide (w.mv < railLow w.rail ∨ railHigh w.rail < w.mv ∨ v + 20 < w.mv ∨ w.mv + 20 < v)

/-- Whether the event that R397 gives for a takeover stands: the standby's own findings need a standby, and a wrong set-point to find; an overrun
two in succession. The set-points held are the last valid ones, which a standby that has found another restores. -/
def takeoverOk (s : State) : TakeoverWhy → Bool
  | .heartbeat => otherSt s == .standby
  | .setpoint w => otherSt s == .standby && badPoint s w
  | .overrun => decide (2 ≤ s.tamb.overruns)
  | .ecc => true

/-- TAKEOVER (R397). With no standby the instance is FAILED and nobody takes the token. -/
def takeover (s : State) (why : TakeoverWhy) : State :=
  if holderSt s ≠ .active ∨ takeoverOk s why = false then s
  else
    let failed := BitVec.ofNat 32 (tambSource s)
    let taken := otherSt s == .standby
    let s := voidWindow (passToken s)
    if taken then
      let s := alert (cntAdd (regOr s 0 0 0xA00004 4) 0 0 0xA00060 1) 1
      logRecord (reportF s 0x20 .engine 1 0 failed 0) 3 1 0 0xFFFF failed 0
    else s

def execTakeover (why : TakeoverWhy) (s : State) : Res := .next (takeover s why)

/-- STANDBY_LOST (R397). -/
def execStandbyLost (s : State) : Res :=
  if otherSt s ≠ .standby then .next s
  else
    let inst := BitVec.ofNat 32 (1 - tambSource s)
    let t := if s.tamb.tb = .active then { s.tamb with ta := .failed } else { s.tamb with tb := .failed }
    let s := alert (regOr { s with tamb := t } 0 0 0xA00004 2) 2
    .next (logRecord (reportF s 0x21 .engine 1 0 inst 0) 3 2 0 0xFFFF inst 0)

/-- MMC_HEARTBEAT_TIMEOUT: neither heartbeat advances for 10 ms, or both instances are FAILED: the MMC stops the engine (R399). -/
def execMmcHeartbeatTimeout (s : State) : Res := .next (safeStop s 2)

/-- MMC_LOST: the MMC stops answering for 100 ms (R399). -/
def execMmcLost (s : State) : Res :=
  if s.tamb.mmcLost ∨ tambActive s = false then .next s
  else
    let s := { s with tamb := { s.tamb with mmcLost := true } }
    .next (logRecord (reportF s 0x22 .engine 1 0 0 0) 3 4 0 0xFFFF 0 0)

/-- SAFE_STOP: a trip is one of a region that the cycles have found at 105 °C five times in succession (R392, R394). -/
def execSafeStop (who : StopBy) (s : State) : Res :=
  .next (match who with
    | .trip r =>
      if s.hw.phase = .up ∧ 5 ≤ (s.region r.val).hot then thermalTrip s r.val (BitVec.ofInt 32 (regionTemp s r.val)) else s
    | .tambour => safeStop s (tambSource s)
    | .mmc => safeStop s 2)

/-! ## The event log (R402, R403) -/

/-- One queued record goes to its place. -/
def logStore (s : State) (e : BitVec 64 × List Word) : State :=
  { s with tamb := { s.tamb with log := Tab.put s.tamb.log (e.1.toNat % 2 ^ 21) e } }

/-- LOG_RECORD_WRITE: the oldest record waiting is written, while at most one controller is not ONLINE. -/
def execLogRecordWrite (s : State) : Res :=
  match s.tamb.queue with
  | [] => .next s
  | e :: q =>
    if (ctlsDown s).length ≤ 1 then .next (logStore { s with tamb := { s.tamb with queue := q } } e) else .next s

/-- A fetch begins: the record named by TAMB_LOG_SEL. -/
def logFetch (s : State) (fn : Nat) (hi : Word) : State :=
  let (lo, s) := takeHeld s fn 0xA00030 (regGet s fn 0 0xA00030)
  let s := regSet (regSet s fn 0 0xA00030 lo) fn 0 0xA00034 hi
  let f : LogFetch := ⟨hi ++ lo, none⟩
  { s with tamb := { s.tamb with fetch := Tab.put s.tamb.fetch fn f } }

/-- LOG_FETCH: a write of the high word of TAMB_LOG_SEL. -/
def execLogFetch (rq : Staging) (hi : BitVec 32) (s : State) : Res := .next (logFetch s (reqFn rq) hi)

/-- The record with a SEQ, if it is held. -/
def logRec (s : State) (n : BitVec 64) : Option (List Word) :=
  match Tab.find s.tamb.log (n.toNat % 2 ^ 21) with
  | some (m, ws) => if m = n then some ws else none
  | none => none

/-- LOG_FETCH_DONE. -/
def execLogFetchDone (rq : Staging) (s : State) : Res :=
  let fn := reqFn rq
  match Tab.find s.tamb.fetch fn with
  | some f =>
    if f.done.isSome then .next s
    else
      let g : LogFetch := { f with done := some (logRec s f.seq) }
      .next { s with tamb := { s.tamb with fetch := Tab.put s.tamb.fetch fn g } }
  | none => .next s

/-! ## Reads (R404) -/

def InstSt.code : InstSt → Nat
  | .active => 0 | .standby => 1 | .failed => 2

/-- TAMB_STATUS. -/
def tambStatus (s : State) : Word :=
  BitVec.ofNat 32 (s.tamb.mmcLost.toNat * 256 + s.tamb.tb.code * 64 + s.tamb.ta.code * 16 + (s.tamb.tb == .active).toNat)

/-- The hottest region and its temperature in degrees. -/
def hottest (s : State) : Nat × Nat :=
  let (r, t) := (List.range 208).foldl (fun (b : Nat × Int) r => if b.2 < regionTemp s r then (r, regionTemp s r) else b) (0, 0)
  (r, t.toNat / 10)

/-- The words of the record fetched. -/
def fetched (s : State) (fn : Nat) : List Word :=
  match Tab.find s.tamb.fetch fn with
  | some ⟨_, some (some ws)⟩ => ws
  | _ => []

/-- TAMB_LOG_STATE. -/
def logState (s : State) (fn : Nat) : Word :=
  match Tab.find s.tamb.fetch fn with
  | some ⟨_, some (some _)⟩ => bits 31 31
  | some ⟨_, some none⟩ => bits 30 30
  | _ => 0

/-- A read of the TAMB_ block (R404); the sideband buses see it as the PF does, but for the mailbox (R477). -/
def readTamb (s : State) (fn o : Nat) : Word :=
  let mbx := 0x18 ≤ o ∧ o ≤ 0x20
  if o = 0 then tambStatus s
  else if (1 ≤ fn ∧ fn ≤ 16 ∧ ¬ mbx) ∨ (16 < fn ∧ mbx) then 0
  else if 0x38 ≤ o ∧ o ≤ 0x54 then (fetched s fn).getD ((o - 0x38) / 4) 0
  else match o with
    | 0x04 => regGet s 0 0 0xA00004
    | 0x08 => s.tamb.cycle.truncate 32
    | 0x0C => (s.tamb.cycle >>> 32).truncate 32
    | 0x10 => BitVec.ofNat 32 ((hottest s).2 % 256 * 65536 + (hottest s).1 * 256 + s.tamb.throttle)
    | 0x14 => BitVec.ofNat 32 s.tamb.parkHold
    | 0x1C => 0
    | 0x20 => regGet s fn 0 0xA00020 ||| (if (Tab.find s.tamb.mbx fn).isSome then bits 31 31 else 0)
    | 0x28 => s.tamb.seq.truncate 32
    | 0x2C => (s.tamb.seq >>> 32).truncate 32
    | 0x58 => logState s fn
    | _ => if 0x60 ≤ o ∧ o < 0x70 then regGet s 0 0 (0xA00000 + o) else regGet s fn 0 (0xA00000 + o)

end Sys2Proof.Machine
end

