-- ==== Sys2Proof/Machine/TestLife.lean ====
section
/-! DEFINITION. Tests, repair, the grid and the life cycle (R405 to R424, R434, R450). -/

namespace Sys2Proof.Machine

/-! ## The neighbour test (R406, R407) -/

/-- Whether a report fails its target's core or its router. -/
def NbFail (router : Bool) (r : NeighbourReport) : Bool := if router then !r.routerPass else !r.corePass

/-- FAIL reports on a target. -/
def failsOn (rs : List NeighbourReport) (router : Bool) (t : Nat) : Nat := (rs.filter (fun r => r.target == t && NbFail router r)).length

/-- The targets with two or more FAIL reports. -/
def twoFails (rs : List NeighbourReport) (router : Bool) : List Nat :=
  ((rs.map (·.target)).dedup).filter (fun t => decide (2 ≤ failsOn rs router t))

/-- The reports that round 2 counts: those of testers not found defective in round 1. -/
def validReports (rs : List NeighbourReport) : List NeighbourReport :=
  let bad := twoFails rs false ++ twoFails rs true
  rs.filter (fun r => !bad.contains r.tester)

/-- The defective cores or routers after both rounds; one with fewer than two valid testers is defective if one of them fails it, a core
also if it has none. -/
def neighbourBad (rs : List NeighbourReport) (router : Bool) : List Nat :=
  let vs := validReports rs
  ((rs.map (·.target)).dedup).filter (fun t =>
    let mine := vs.filter (fun r => r.target == t)
    if 2 ≤ mine.length then (twoFails rs router).contains t && decide (2 ≤ failsOn vs router t)
    else mine.any (NbFail router) || (!router && mine.isEmpty))

/-- w1 of a physical place PY × 1,050 + PX (R413). -/
def placeWord (t : Nat) : Word := BitVec.ofNat 32 (t / 1050 * 2048 + t % 1050)

/-- The findings of a neighbour test. -/
def neighbourFinds (rs : List NeighbourReport) : List (BitVec 4 × Word) :=
  (neighbourBad rs false).map (fun t => (1, placeWord t)) ++ (neighbourBad rs true).map (fun t => (2, placeWord t))

/-! ## Records of tests (R205, R411, R413 to R415) -/

/-- The SOURCE of a finding: the memory tests find banks, BIST the rest. -/
def findSource (kind : BitVec 4) : BitVec 3 := if kind = 3 ∨ kind = 4 then 2 else 1

/-- Records what a test found, pending (R205, R411). -/
def recordTest (s : State) (nb : List NeighbourReport) (fs : List Finding) : State :=
  let s := (neighbourFinds nb).foldl (fun s f => recordDefect s f.1 0 0 f.2) s
  fs.foldl (fun s f => recordDefect s f.kind (findSource f.kind) f.unit f.loc) s

/-- Removes the records of a region or unit of the kinds given (R414). -/
def dropRecords (s : State) (kinds : List (BitVec 4)) (loc : Nat) : State :=
  countRows { s with defects := s.defects.filter (fun d => !(kinds.contains d.kind && fld d.loc 7 0 == loc)) }

/-- A new map identity; that it differs from the last is all the spec says of its value (R186; log entry 3). -/
def newIdent (s : State) (h : Nat) : State :=
  let (w, s) := drawWord s
  let old := Tab.get 0 s.ident h
  { s with ident := Tab.put s.ident h (if w = old then w + 1 else w) }

/-- The first word from `w` on that is not in `used`. -/
def freshWord (used : List Word) (w : Word) : Nat → Word
  | 0 => w
  | k + 1 => if used.contains w then freshWord used (w + 1) k else w

/-- A restart as servers see it: ERR_INCARNATION moves on and every port draws a SESSION never drawn before, which one is free (R320,
R450; log entry 73). -/
def newIncarnation (s : State) : State :=
  let one (s : State) (n : Nat) : State :=
    let (w, s) := drawWord s
    let w := freshWord s.sessions w s.sessions.length
    { s.setPort n { s.port n with session := w } with sessions := s.sessions ++ [w] }
  (List.range 8).foldl one { s with incarnation := s.incarnation + 1 }

/-! ## TEST_CMD (R417, R419, R424) -/

def testRefuse (s : State) : State := regOr s 0 0 0xB00014 (bits 31 31)

/-- Whether a router of the half-field holds a loaded slot. -/
def halfLoaded (s : State) (h : Nat) : Bool :=
  s.routers.any (fun e => halfOfKey s e.1 == h && e.2.seqs.any (fun q => q.2.any (·.isSome)))

/-- Whether a loaded slot would be left once the partition that holds the field is reset. -/
def loadedAfterReset (s : State) (h : Nat) : Bool :=
  let o := partOfField s (h / 2)
  s.routers.any (fun e => halfOfKey s e.1 == h && e.2.seqs.any (fun q =>
    q.2.any (·.isSome) && (o == 0 || trackOwner s e.1 (q.1 / 4) (q.1 % 4) != o)))

/-- BIST is allowed on a field in a partition in these states, after a partition reset (R421). -/
def bistAssigned (s : State) : Bool := s.lc == .manufacture || s.lc == .provisioned || s.lc == .service

/-- Whether a BIST request is refused. A DEAD half-field has no exit but a repair (R371). -/
def bistRefused (s : State) (h : Nat) (links : Bool) : Bool :=
  decide (167 < h) || s.lc == .retired || underTest s h || (s.region h).st == .dead ||
    (partOfField s (h / 2) != 0 && !bistAssigned s) || (links && loadedAfterReset s h)

/-- BIST: queued; a partition that holds the field is reset first (R421; log entry 41). -/
def bistCmd (s : State) (h : Nat) (links : Bool) : State :=
  if bistRefused s h links then testRefuse s
  else
    let p := partOfField s (h / 2)
    let s := if p ≠ 0 ∧ (s.part p).st = .live then beginReset s p .resetting none else s
    s.setTest h { st := .queued, links := links }

def execBist (hf : BitVec 8) (links : Bool) (s : State) : Res := .next (bistCmd s hf.toNat links)

/-- Whether a repair may bring a DEAD region back (R371, R420). -/
def lifeRepairs (s : State) : Bool := s.lc == .manufacture || s.lc == .service

/-- REPAIR: queued (R419). -/
def repairCmd (s : State) (h : Nat) : State :=
  if 167 < h ∨ s.lc = .retired ∨ underTest s h = true ∨ partOfField s (h / 2) ≠ 0 ∨ s.transit.any (fun g => g.field == h / 2) = true ∨
      ((s.region h).st = .dead ∧ lifeRepairs s = false) then testRefuse s
  else s.setTest h { st := .queued, links := true, repair := true }

def execRepair (hf : BitVec 8) (s : State) : Res := .next (repairCmd s hf.toNat)

/-- Whether some other unit of a range is under test. -/
def unitsBusy (s : State) (lo n : Nat) : Bool := (List.range n).any (fun i => (s.test (lo + i)).st == .running)

/-- Whether a unit may be tested (R417). -/
def unitReady (s : State) (u : Nat) : Bool :=
  if u < 168 then false
  else if u < 192 then stackState s (u - 168) == 2 && !unitsBusy s 168 24
  else if u < 208 then (ctl s (u - 192)).st == 1 && !unitsBusy s 192 16
  else if u < 216 then (s.port (u - 208)).st == .offline && (s.test u).st != .running
  else false

/-- UNIT_TEST: starts at once. -/
def unitCmd (s : State) (u : Nat) : State := if unitReady s u then s.setTest u { st := .running } else testRefuse s

def execUnitTest (u : BitVec 8) (s : State) : Res := .next (unitCmd s u.toNat)

/-- A half-field is re-initialised after a run: cores, and the slice that sits in it (R359, R410). -/
def reinitHalf (s : State) (h : Nat) : State :=
  let s := freshCores s [h]
  if h % 2 = 0 then { s with slices := Tab.drop s.slices (h / 2) } else s

/-- ABORT: the run ends with no record and the state IDLE; of a repair it is refused. -/
def abortTest (s : State) (u : Nat) : State :=
  let t := s.test u
  if t.repair ∨ (t.st ≠ .queued ∧ t.st ≠ .running) then testRefuse s
  else
    let s' := s.setTest u { t with st := .idle, slice := false }
    if u < 168 then reinitHalf s' u else s'

def execTestAbort (u : BitVec 8) (s : State) : Res := .next (abortTest s u.toNat)

/-- A write of TEST_CMD. -/
def testCmdWrite (s : State) (v : Word) : State :=
  let u := fld v 7 0
  match fld v 31 28 with
  | 1 => bistCmd s u (v.getLsbD 27)
  | 2 => repairCmd s u
  | 3 => unitCmd s u
  | 4 => abortTest s u
  | _ => testRefuse s

/-! ## Runs (R409 to R412) -/

/-- BIST_RUN_START in STAGGER mode: a place is free and no lower half-field waits. In BUDGET mode the decision cycle starts slices. -/
def bistRunStart (s : State) (h : Nat) : State :=
  if !testBudget s && runReady s h && decide (runsNow s < testConc s) && !(List.range h).any (runReady s) then
    newEpoch (startRun s h) h
  else s

def execBistRunStart (hf : HalfField) (s : State) : Res := .next (bistRunStart s hf.val)

/-- BIST_SLICE_DONE: a slice of 10 ms ends; the run is paused until the next (R412). In STAGGER mode a run has no break. -/
def bistSliceDone (s : State) (h : Nat) : State :=
  let t := s.test h
  if t.st = .running ∧ t.slice ∧ testBudget s then s.setTest h { t with slice := false, slices := min 22 (t.slices + 1) } else s

def execBistSliceDone (hf : HalfField) (s : State) : Res := .next (bistSliceDone s hf.val)

/-- A run counts, and counts as failed. -/
def countRun (s : State) (fail : Bool) : State :=
  let s := cntAdd s 0 0 0xB00040 1
  if fail then cntAdd s 0 0 0xB00048 1 else s

/-- BIST_RUN_DONE: what it found is recorded pending, the half-field re-initialised and left ON (R410, R411). -/
def bistRunDone (s : State) (h : Nat) (t : TestResult) : State :=
  if (s.test h).st ≠ .running ∨ (s.test h).repair then s
  else
    let n := s.defects.length
    let s := recordTest s [] t.findings
    let bad := !t.findings.isEmpty
    let s := countRun (testEnd s h (if bad then .fail else .pass) (s.defects.length - n)) bad
    reinitHalf s h

def execBistRunDone (hf : HalfField) (t : TestResult) (s : State) : Res := .next (bistRunDone s hf.val t)

/-- UNIT_TEST_DONE (R417, R418). -/
def unitOutcome (s : State) (u : Nat) (ok : Bool) : State :=
  let s := if ok then dropRecords s [0xA] u else recordDefect s 0xA 1 0 (BitVec.ofNat 32 u)
  if u < 192 then
    let f := s.tiers.failed.filter (· != u - 168)
    { s with tiers := { s.tiers with failed := if ok then f else f ++ [u - 168] } }
  else if u < 208 then setCtl s (u - 192) { ctl s (u - 192) with failed := !ok }
  else s.setPort (u - 208) { s.port (u - 208) with bad := !ok }

def execUnitTestDone (u : BitVec 8) (ok : Bool) (s : State) : Res :=
  let u := u.toNat
  if 168 ≤ u ∧ u < 216 ∧ (s.test u).st = .running then
    let n := s.defects.length
    let s := unitOutcome s u ok
    .next (testEnd s u (if ok then .pass else .fail) (s.defects.length - n))
  else .next s

/-! ## Repair (R207, R419, R420) -/

/-- The half-field of a physical place. -/
def halfOfLoc (w : Word) : Nat := 2 * (fld w 21 11 / 90 * 7 + fld w 10 0 / 150) + fld w 10 0 / 75 % 2

/-- Whether a record belongs to a half-field. -/
def recordIn (h : Nat) (d : DefectRec) : Bool :=
  if d.kind.toNat ≤ 4 then halfOfLoc d.loc == h
  else if d.kind = 0xB then fld d.loc 6 0 == h / 2 && h % 2 == 0
  else (d.kind == 8 || d.kind == 9) && fld d.loc 7 0 == h

/-- Whether applying a pending record would retire a row. -/
def retires (s : State) (d : DefectRec) : Bool :=
  defIsCore d && rowRetired (s.defects.filter (fun e => e.kind != 5)) (fld d.loc 21 11)

/-- The pending records of the half-field are applied; those that would retire a row stay pending. -/
def applyPending (s : State) (h : Nat) : State :=
  let one (d : DefectRec) : DefectRec := if d.pending ∧ recordIn h d ∧ retires s d = false then { d with pending := false } else d
  { s with defects := s.defects.map one }

/-- What a repair that passes in MANUFACTURE or SERVICE also does: the region is no longer DEAD or SUSPECT, its rails no longer held,
and the module restarts for its servers (R420, R450). -/
def repairLife (s : State) (h : Nat) : State :=
  let dead := (s.region h).st == .dead
  let s := dropRecords s [7, 8, 9] h
  let x := s.region h
  let s := s.setRegion h { x with suspect := false, excl := [], low := [], deadDom := 0 }
  let s := if dead then newEpoch (softPoints (s.setRegion h { s.region h with st := .on, tries := 0 }) h) h else s
  newIncarnation s

/-- A soft start has failed three times: two retries counted, SHORT set and reported (R374); the report's domains are those named. -/
def softFailed (s : State) (r : Nat) (dom : BitVec 4) : State :=
  tambE (cntAdd (pwrFault s 4) 0 0 0x900068 2) 1 0x11 .region 2 r (locRegion r) (dom.zeroExtend 32) 3

/-- The joins of a repaired half-field are established anew over its places (R207). -/
def rejoin (s : State) (h : Nat) : State := { s with lostRouters := s.lostRouters.filter (fun pl => halfOfPlace pl != h) }

/-- REPAIR_DONE. Only a DEAD region is soft-started by step 1 of a repair, so only there can the start fail (R420, R374). -/
def repairDone (s : State) (h : Nat) (t : TestResult) : State :=
  if (s.test h).st ≠ .running ∨ (s.test h).repair = false then s
  else if t.rampOk = false ∧ (s.region h).st = .dead then countRun (testEnd (softFailed s h (s.region h).deadDom) h .fail 0) true
  else
    let n := s.defects.length
    let s := recordTest s t.reports t.findings
    let bad := !(neighbourFinds t.reports).isEmpty || !t.findings.isEmpty
    let found := s.defects.length - n
    let s := newIdent (rejoin (applyPending s h) h) h
    let s := if bad = false ∧ lifeRepairs s then repairLife s h else s
    reinitHalf (countRun (testEnd s h (if bad then .fail else .pass) found) bad) h

def execRepairDone (hf : HalfField) (t : TestResult) (s : State) : Res := .next (repairDone s hf.val t)

/-! ## The power-up test (R387, R405 to R408, R415 to R418, R425) -/

/-- A record the power-up test writes. -/
def recordUp (s : State) (kind : BitVec 4) (source : BitVec 3) (unit : BitVec 8) (loc : Nat) : State :=
  writeDefect s ⟨kind, false, source, unit, BitVec.ofNat 32 loc, s.time⟩

/-- What the records say of a region at power-up. -/
def regionUp (s : State) (r : Nat) : PRegion :=
  let mine := s.defects.filter (fun d => fld d.loc 7 0 == r)
  let x := s.region r
  let sus := mine.any (fun d => d.kind == 8)
  let ex := (mine.filter (fun d => d.kind == 9)).map (fun d => (fld (d.unit.zeroExtend 32) 5 4, fld (d.unit.zeroExtend 32) 3 0))
  match mine.find? (fun d => d.kind == 7) with
  | some d => { st := .dead, deadDom := d.unit.truncate 4, suspect := sus, excl := ex, mv := x.mv, epoch := x.epoch, copy := x.copy }
  | none => { st := .on, suspect := sus, excl := ex, mv := x.mv, epoch := x.epoch, copy := x.copy }

/-- Records named once, those of the copy before those at hand: of two records of one finding the earlier is kept (R414, R420). -/
def mergeMap (s : State) (copy : List DefectRec) : State :=
  let new := s.defects.filter (fun d => !copy.any (fun b => d.kind == b.kind && d.unit == b.unit && d.loc == b.loc))
  { s with defects := copy ++ new }

/-- Step 2: the fused baseline and the MMC copy, which counts where its CRC holds (R405, R414). -/
def mapStart (s : State) (t : PowerUpResult) : State :=
  mergeMap { s with defects := if t.mmcMapOk then s.defects else [] } s.baseline

/-- Step 7: the weight-store copy of `map`, which counts where its CRC holds; a region that it alone records as dead is DEAD (R405, R371,
R414). -/
def mapT3 (s : State) (t : PowerUpResult) (map : List DefectRec) : State :=
  let s := mergeMap s (if t.t3MapOk then map else [])
  let one (s : State) (r : Nat) : State :=
    if s.defects.any (fun d => d.kind == 7 && fld d.loc 7 0 == r) then s.setRegion r (regionUp s r) else s
  (List.range 208).foldl one s

/-- Step 3: regions come up, but those with a REGION_DEAD record and those whose soft start fails; which domain failed is not given (log
entry 3). -/
def regionsUp (s : State) (t : PowerUpResult) : State :=
  let one (s : State) (r : Nat) : State :=
    let s := s.setRegion r (regionUp s r)
    if (s.region r).st = .dead then s
    else if t.rampFail.any (fun h => h.val == r) then
      let (d, s) := drawNat s
      let dom : BitVec 4 := BitVec.ofNat 4 (d % 7 + 1)
      recordUp (softFailed (s.setRegion r { s.region r with st := .dead, deadDom := dom }) r dom) 7 4 (dom.zeroExtend 8) r
    else
      let s := softPoints s r
      if r < 168 then newEpoch s r else s
  (List.range 208).foldl one s

/-- Steps 4 to 6: defective cores, routers, banks and slices. -/
def findsUp (s : State) (t : PowerUpResult) : State :=
  let s := (neighbourFinds t.reports).foldl (fun s f => recordUp s f.1 0 0 f.2.toNat) s
  t.findings.foldl (fun s f => recordUp s f.kind (findSource f.kind) f.unit f.loc.toNat) s

/-- Step 7: a unit that fails starts LOST or FAILED; with KEY_FAULT every stack and controller is LOST (R418, R425). A controller not
ONLINE when the engine stopped starts REBUILDING (R273). -/
def unitUp (t : PowerUpResult) (s : State) (u : Nat) : State :=
  let ok := !t.unitFail.contains (BitVec.ofNat 8 u)
  let s := unitOutcome s u ok
  let up := ok && !s.sec.keyFault && (s.region u).st != .dead
  if u < 192 then setStack s (u - 168) (if up then 0 else 3)
  else if u < 208 then
    let c := ctl s (u - 192)
    let s' := setCtl s (u - 192) { c with st := if !up then 3 else if c.st = 0 ∨ s.incarnation = 1 then 0 else 2 }
    if !up && c.st != 3 then loseUnits s' (u - 192) else s'
  else s.setPort (u - 208) { s.port (u - 208) with st := if ok then .down else .failed }

/-- Step 8: every record applied, rows retired, the grid numbered, new map identities, GOOD_ROWS (R415). -/
def gridUp (s : State) (t : PowerUpResult) : State :=
  let s := t.unreachableHalf.foldl (fun s h =>
    if s.defects.any (fun d => d.kind == 7 && fld d.loc 7 0 == h.val) then s else recordUp s 6 1 0 h.val) s
  let halfGone (py : Nat) : Bool := s.defects.any (fun d => (d.kind == 6 || d.kind == 7) &&
    decide (fld d.loc 7 0 < 168 ∧ fld d.loc 7 0 / 2 / 7 = py / 90))
  let rows := (List.range 1080).filter (fun py => !halfGone py && (t.unreachableRows.contains py || rowRetired s.defects py))
  let s := rows.foldl (fun s py => recordUp s 5 1 0 (py * 2048)) s
  let ds := s.defects.map (fun d => { d with pending := false })
  let ret := (List.range 1080).filter (fun py => rowRetired ds py)
  let s := { s with defects := ds, retired := ret, gridRows := 1080 - ret.length, goodRows := 1080 - ret.length }
  (List.range 168).foldl newIdent s

/-- MOD_READY rises: the sequence has ended, whatever the test found (R469, R484). -/
def readyHigh (s : State) : State := alert { s with hw := { s.hw with phase := .up, ready := true } } 8

/-- POWER_UP_TEST. -/
def powerUpTest (s : State) (t : PowerUpResult) : State :=
  if s.hw.phase ≠ .starting then s
  else
    let ta := if t.taOk then InstSt.active else .failed
    let tb := if t.tbOk then (if t.taOk then InstSt.standby else .active) else .failed
    let s := { s with tamb := { s.tamb with ta := ta, tb := tb } }
    if t.taOk = false ∧ t.tbOk = false then safeStop s 2
    else if s.lc = .retired then readyHigh s
    else
      let s := mapT3 (findsUp (regionsUp (mapStart s t) t) t) t s.defects
      let s := (List.range 48).foldl (fun s i => unitUp t s (168 + i)) s
      readyHigh { gridUp s t with testMs := t.ms, testDone := true }

def execPowerUpTest (t : PowerUpResult) (s : State) : Res := .next (powerUpTest s t)

/-! ## The life cycle (R421 to R423, R426, R434) -/

def lcRefuse (s : State) : State := regOr s 0 0 0xB00008 (bits 31 31)

/-- Every partition is FREE. -/
def allFree (s : State) : Bool := partNums.all (fun p => !isHeld s p)

/-- A test or repair is in progress. -/
def anyTest (s : State) : Bool := s.tests.any (fun e => e.2.st == .queued || e.2.st == .running)

/-- DEPLOY. -/
def lcDeploy (s : State) : State :=
  if s.lc ≠ .provisioned ∨ (List.range 168).any (fun h => underTest s h && partOfField s (h / 2) != 0) = true then lcRefuse s
  else { s with lc := .deployed }

def execDeploy (s : State) : Res := .next (lcDeploy s)

/-- ENTER_SERVICE. -/
def lcEnter (s : State) : State := if s.lc ≠ .deployed ∨ allFree s = false then lcRefuse s else { s with lc := .service }

def execEnterService (s : State) : Res := .next (lcEnter s)

/-- LEAVE_SERVICE; the module restarts for its servers (R450). -/
def lcLeave (s : State) : State :=
  if s.lc ≠ .service ∨ anyTest s then lcRefuse s else newIncarnation { s with lc := .deployed }

def execLeaveService (s : State) : Res := .next (lcLeave s)

/-- RETIRE: the keys are destroyed, then the module powers nothing but its island (R423, R434). -/
def lcRetire (s : State) (confirm : BitVec 16) : State :=
  let from' := s.lc == .provisioned || s.lc == .deployed || s.lc == .service
  if from' = false ∨ confirm ≠ 0xA5A5 ∨ allFree s = false ∨ anyTest s then lcRefuse s
  else regionsOff { s with lc := .retired, sec := { s.sec with keys := [], caks := [], keysReady := false } }

def execRetire (confirm : BitVec 16) (s : State) : Res := .next (lcRetire s confirm)

/-- A write of TEST_LC_CMD. -/
def lcCmd (s : State) (v : Word) : State :=
  match fld v 31 28 with
  | 1 => lcDeploy s
  | 2 => lcEnter s
  | 3 => lcLeave s
  | 4 => lcRetire s (v.truncate 16)
  | _ => lcRefuse s

/-- The grade that a count of rows is fused as (R416). -/
def gradeOf (rows : Nat) : BitVec 2 := if 1080 ≤ rows then 0 else if 1020 ≤ rows then 1 else if 960 ≤ rows then 2 else 3

def pinOf (s : State) (n : Nat) : MfPin := Tab.get {} s.hw.pins n

def setPin (s : State) (n : Nat) (p : MfPin) : State := { s with hw := { s.hw with pins := Tab.put s.hw.pins n p } }

/-- A pin leaves its function at once and parks, or takes its turn behind the park it is in. -/
def switchPin (s : State) (n f : Nat) : State :=
  let p := pinOf s n
  if p.parked then setPin s n { p with waiting := p.waiting ++ [f], stored := f }
  else setPin s n { p with func := 0, parked := true, waiting := [f], stored := f, pps := false }

/-- Pins that carry the UART, which is so only in MANUFACTURE, park when it ends (R471). -/
def parkUart (s : State) : State :=
  (List.range 4).foldl (fun s n => if (pinOf s n).stored = 4 then switchPin s n 0 else s) s

/-- FINALISE: grade and baseline fused; what was written to T3 under the test value is erased (R416, R422, R426). -/
def lcFinalise (s : State) : State :=
  if s.lc ≠ .manufacture ∨ s.testDone = false ∨ allFree s = false ∨ 4096 < s.defects.length then lcRefuse s
  else
    parkUart { s with
      lc := .provisioned, grade := gradeOf s.gridRows, baseline := s.defects,
      wst := { s.wst with sets := [], slots := [], adds := [], xfers := [], erasing := [] }, tamb := { s.tamb with log := [] } }

def execFinalise (s : State) : Res := .next (lcFinalise s)

/-! ## Reads (R424) -/

def lifeCode : LifeState → Nat
  | .manufacture => 0 | .provisioned => 1 | .deployed => 2 | .service => 3 | .retired => 4

def TestSt.code : TestSt → Nat
  | .idle => 0 | .queued => 1 | .running => 2 | .pass => 3 | .fail => 4

/-- The words of a record (R413). -/
def DefectWords (d : DefectRec) : List Word :=
  [BitVec.ofNat 32 (d.kind.toNat * 2 ^ 28 + d.pending.toNat * 2 ^ 27 + d.source.toNat * 2 ^ 24 + d.unit.toNat), d.loc,
    d.time.truncate 32, (d.time >>> 32).truncate 32]

/-- Tests of a state. -/
def testsIn (s : State) (st : TestSt) : Nat := (s.tests.filter (fun e => e.2.st == st)).length

/-- A read of the TEST_ block by the PF or a sideband bus (R424, R477). -/
def readTest (s : State) (fn o : Nat) : Word :=
  let u := fld (regGet s 0 0 0xB00018) 7 0
  let t := s.test u
  if 1 ≤ fn ∧ fn ≤ 16 then 0
  else if 0x2C ≤ o ∧ o ≤ 0x38 then
    match s.defects[fld (regGet s fn 0 0xB00028) 15 0]? with
    | some d => (DefectWords d).getD ((o - 0x2C) / 4) 0
    | none => 0
  else match o with
    | 0x00 => BitVec.ofNat 32 (lifeCode s.lc * 2 ^ 29)
    | 0x04 => 0
    | 0x10 => 0
    | 0x14 => regGet s 0 0 0xB00014 ||| BitVec.ofNat 32 (testsIn s .running % 256 * 256 + testsIn s .queued % 256)
    | 0x1C => BitVec.ofNat 32 (t.st.code * 2 ^ 29 + t.links.toNat * 2 ^ 28 + t.slices % 32 * 2 ^ 23 + t.found % 65536)
    | 0x20 => if u < 168 then Tab.get 0 s.ident u else 0
    | 0x24 => BitVec.ofNat 32 ((s.defects.filter (·.pending)).length * 65536 + (s.defects.filter (fun d => !d.pending)).length)
    | 0x28 => regGet s fn 0 0xB00028
    | 0x3C => BitVec.ofNat 32 (s.testMs.toNat * 65536 + s.retired.length)
    | _ => regGet s 0 0 (0xB00000 + o)

end Sys2Proof.Machine
end

