-- ==== Sys2Proof/Machine/Security.lean ====
section
/-! DEFINITION. The key store and attestation (R425 to R436). -/

namespace Sys2Proof.Machine

/-! ## Blobs (R428 to R430) -/

/-- The blob in SEC_BLOB0 to SEC_BLOB47. -/
def secBlob (s : State) : List Word := (List.range 48).map (fun i => regGet s 0 0 (0xC00100 + 4 * i))

/-- VERSION, KIND and PORT of a blob. -/
def blobKind (b : List Word) : Nat := fld (b.getD 0 0) 15 8
def blobPort (b : List Word) : Nat := fld (b.getD 0 0) 23 16

/-- Bytes 0 to 15 and 184 to 191 as the first step checks them (R428, R429). -/
def blobFields (b : List Word) : Bool :=
  fld (b.getD 0 0) 7 0 == 1 && (blobKind b == 1 && blobPort b == 0 || blobKind b == 2 && decide (blobPort b ≤ 7)) &&
    fld (b.getD 0 0) 31 24 == 0 && b.getD 1 0 == Config.serial.truncate 32 && b.getD 2 0 == (Config.serial >>> 32).truncate 32 &&
    b.getD 3 0 == 0 && b.getD 46 0 == 0 && b.getD 47 0 == 0

/-- SEC_CMD_STATUS.CODE. -/
def secCode (s : State) (c : Word) : State := regSet s 0 0 0xC00008 c

/-- The states in which every command completes STATE (R426, R430). -/
def secShut (s : State) : Bool := s.lc == .manufacture || s.lc == .retired || s.sec.keyFault

/-- UNWRAP. The curve check, the integrity value and the zero bytes of the unwrapped CAK are what the cryptography finds. -/
def secUnwrap (s : State) (keyId : Nat) (epkOk icvOk cakZero : Bool) : State :=
  let b := secBlob s
  let cak := blobKind b == 2
  if secShut s then secCode s 2
  else if (cak && keyId != 0) || (blobKind b == 1 && !decide (1 ≤ keyId ∧ keyId ≤ 256)) then secCode s 2
  else if blobKind b == 1 && (Tab.find s.sec.keys keyId).isSome then secCode s 3
  else if !(blobFields b && epkOk && icvOk && (!cak || cakZero)) then secCode (cntAdd s 0 0 0xC00018 1) 1
  else
    let s := secCode s 0
    if cak then { s with sec := { s.sec with caks := Tab.put s.sec.caks (blobPort b) b } }
    else { s with sec := { s.sec with keys := Tab.put s.sec.keys keyId b } }

def execUnwrap (keyId : BitVec 16) (epkOk icvOk cakZero : Bool) (s : State) : Res :=
  .next (secUnwrap s keyId.toNat epkOk icvOk cakZero)

/-- DELETE. -/
def secDelete (s : State) (keyId : Nat) : State :=
  if secShut s || !decide (1 ≤ keyId ∧ keyId ≤ 256) then secCode s 2
  else if keyUsers s keyId ≠ 0 then secCode s 3
  else secCode { s with sec := { s.sec with keys := Tab.drop s.sec.keys keyId } } 0

def execKeyDelete (keyId : BitVec 16) (s : State) : Res := .next (secDelete s keyId.toNat)

/-- A write of SEC_CMD as a register: what the cryptography finds in an UNWRAP is then open (log entry 42). -/
def secCmdWrite (s : State) (v : Word) : State :=
  let k := fld v 15 0
  match fld v 31 28 with
  | 1 =>
    let (a, s) := drawNat s
    let (b, s) := drawNat s
    let (c, s) := drawNat s
    secUnwrap s k (a % 2 == 1) (b % 2 == 1) (c % 2 == 1)
  | 2 => secDelete s k
  | _ => secCode s 2

/-- SEC_STATUS. -/
def secStatus (s : State) : Word :=
  BitVec.ofNat 32 ((s.lc == .manufacture).toNat * 4 + s.sec.keyFault.toNat * 2 + s.sec.keysReady.toNat)

/-- A read of the SEC_ block by the PF (R436); the sideband sees SEC_STATUS alone (R477). -/
def readSec (s : State) (fn o : Nat) : Word :=
  if o = 0 ∧ (fn = 0 ∨ 16 < fn) then secStatus s
  else if fn ≠ 0 then 0
  else match o with
    | 0x04 => 0
    | 0x10 =>
      let k := fld (regGet s 0 0 0xC0000C) 15 0
      BitVec.ofNat 32 ((keyPresent s k).toNat * 2 ^ 31 + keyUsers s k % 1024)
    | 0x14 => BitVec.ofNat 32 (((List.range 8).filter (fun n => (Tab.find s.sec.caks n).isSome)).map (2 ^ ·)).sum
    | _ => if 0x100 ≤ o ∧ o < 0x1C0 then 0 else regGet s 0 0 (0xC00000 + o)

/-! ## SPDM (R431, R432) -/

/-- Where an answer goes: 0 PCIe, 17 and 18 the buses. -/
def viaNo : Via → Nat
  | .pcie => 0
  | .bus .smb => 17
  | .bus .smb2 => 18

/-- Whether a pin carries a function now. -/
def carries (s : State) (n f : Nat) : Bool := (pinOf s n).func == f && !(pinOf s n).parked

/-- Whether a bus is served: the MMC runs, and for SMB2 the pins carry it. -/
def busUp (s : State) (b : Bus) : Bool :=
  s.hw.phase != .dark && match b with
    | .smb => true
    | .smb2 => carries s 2 3 && carries s 3 3

/-- Whether the path is up: the PCIe link after MOD_READY, a bus while it is served. -/
def viaUp (s : State) : Via → Bool
  | .pcie => s.hw.ready
  | .bus b => busUp s b

/-- The first word of an SPDM 1.3 message: version, code, two parameters (log entry 43). -/
def spdmHead (code p1 p2 : Nat) : Word := BitVec.ofNat 32 (0x13 + code * 2 ^ 8 + p1 * 2 ^ 16 + p2 * 2 ^ 24)

/-- Sends a packet. On a bus the MMC is then its controller: packets sent before it and not lost have arrived (R475). -/
def sendMctp (s : State) (via : Via) (ws : List Word) : State :=
  let b := viaNo via
  let s := emit s (.mctp b ws)
  if b = 0 then s
  else
    let q := (Tab.get [] s.hw.mctp b).filter (·.lost) ++ [⟨ws, 0, false⟩]
    { s with hw := { s.hw with mctp := Tab.put s.hw.mctp b q } }

/-- ERROR with a code and its data. -/
def spdmError (s : State) (via : Via) (code data : Nat) : State := sendMctp s via [spdmHead 0x7F code data]

/-- Whether keys are being derived. -/
def deriving' (s : State) : Bool := s.hw.phase == .starting && !s.sec.keysReady && !s.sec.keyFault

/-- Answers a request: nothing while the path is down, Busy during key derivation, else `f`. -/
def spdm (s : State) (via : Via) (f : State → State) : State :=
  if viaUp s via = false then s else if deriving' s then spdmError s via 0x03 0 else f s

/-- An answer whose body the spec leaves to keys, certificates and firmware (log entry 15). -/
def spdmAnswer (s : State) (via : Via) (code idx : Nat) (nonce : BitVec 256) (body : List Word) : State :=
  sendMctp s via (spdmHead code 0 0 :: body ++ Config.spdmBytes code idx nonce)

def execGetVersion (via : Via) (s : State) : Res := .next (spdm s via (fun s => spdmAnswer s via 0x04 0 0 []))
def execGetCapabilities (via : Via) (s : State) : Res := .next (spdm s via (fun s => spdmAnswer s via 0x61 0 0 []))
/-- NEGOTIATE_ALGORITHMS: P-384 with SHA-384 only; without it nothing is selected. -/
def execNegotiateAlgorithms (via : Via) (p384 : Bool) (s : State) : Res :=
  .next (spdm s via (fun s => spdmAnswer s via 0x63 p384.toNat 0 []))
def execGetDigests (via : Via) (s : State) : Res := .next (spdm s via (fun s => spdmAnswer s via 0x01 0 0 []))
def execGetCertificate (via : Via) (slot : BitVec 8) (s : State) : Res :=
  .next (spdm s via (fun s => spdmAnswer s via 0x02 slot.toNat 0 []))

/-- CHALLENGE: UnexpectedRequest while KEY_FAULT is set, in RETIRED and in MANUFACTURE. -/
def execChallenge (via : Via) (nonce : BitVec 256) (s : State) : Res :=
  .next (spdm s via (fun s => if secShut s then spdmError s via 0x04 0 else spdmAnswer s via 0x03 0 nonce []))

/-- The raw words of IDN_GRADE: BELOW where GOOD_ROWS is below the grade's minimum (R9, R11, R416). -/
def gradeMin (g : BitVec 2) : Nat := if g = 0 then 1080 else if g = 1 then 1020 else if g = 2 then 960 else 0

def idnGrade (s : State) : Word :=
  BitVec.ofNat 32 (s.goodRows % 2048 * 65536 + (decide (s.goodRows < gradeMin s.grade)).toNat * 4 + s.grade.toNat)

/-- A read of the IDN_ block (R9). -/
def readIdn (s : State) (o : Nat) : Word :=
  match o with
  | 0x00 => 0xB4A77200
  | 0x04 => Config.step.zeroExtend 32
  | 0x08 => idnGrade s
  | 0x0C => 0x043803FE
  | 0x10 => Config.serial.truncate 32
  | 0x14 => (Config.serial >>> 32).truncate 32
  | _ => 0

/-- What block 6 digests: every VALID key slot in order (KIND 1), then every port CAK (KIND 2), each with the digest of its blob. -/
def keyList (s : State) : List Word :=
  let one (kind n : Nat) (b : Option (List Word)) : List Word := match b with
    | some b => BitVec.ofNat 32 n :: BitVec.ofNat 32 kind :: Config.sha384 b
    | none => []
  ((List.range 257).map (fun n => one 1 n (Tab.find s.sec.keys n))).flatten ++
    ((List.range 8).map (fun n => one 2 n (Tab.find s.sec.caks n))).flatten

/-- What block 7 digests: every module weight set not FREE, with its state, its generation and the key slot of each copy. -/
def setList (s : State) : List Word :=
  let key (c : Option WCopy) : Word := match c with
    | some c => BitVec.ofNat 32 c.key
    | none => 0
  ((List.range 256).map (fun m =>
    let x := mset s m
    if x.st = .free then [] else [BitVec.ofNat 32 m, BitVec.ofNat 32 x.st.code, x.gen, key x.cur, key x.other])).flatten

/-- A measurement block (R432): raw words and digests; what the digests of blocks 6 and 7 lay out as a list is log entry 15. -/
def measured (s : State) (idx : Nat) : List Word :=
  match idx with
  | 1 => Config.sha384 (Config.firmware 1)
  | 2 => Config.sha384 (Config.firmware 2)
  | 3 => [readIdn s 0x00, readIdn s 0x04, readIdn s 0x08]
  | 4 => [BitVec.ofNat 32 (lifeCode s.lc), BitVec.ofNat 32 (s.lc == .manufacture).toNat, secStatus s]
  | 5 => [BitVec.ofNat 32 (s.defects.filter (fun d => !d.pending)).length, BitVec.ofNat 32 (s.defects.filter (·.pending)).length] ++
      Config.sha384 ((s.defects.filter (fun d => !d.pending)).map DefectWords).flatten
  | 6 => Config.sha384 (keyList s)
  | 7 => Config.sha384 (setList s)
  | _ => []

/-- GET_MEASUREMENTS: signed as CHALLENGE, unsigned always. -/
def execGetMeasurements (via : Via) (idx : BitVec 8) (sign : Bool) (s : State) : Res :=
  .next (spdm s via (fun s =>
    if sign && secShut s then spdmError s via 0x04 0
    else spdmAnswer s via 0x60 (idx.toNat + 256 * sign.toNat) 0 (measured s idx.toNat)))

/-- Any other request: ERROR UnsupportedRequest. -/
def execSpdmUnsupportedRequest (via : Via) (code : BitVec 8) (s : State) : Res :=
  .next (spdm s via (fun s => spdmError s via 0x07 code.toNat))

end Sys2Proof.Machine
end

