-- ==== Sys2Proof/Machine/Errors.lean ====
section
/-! DEFINITION. The report rings and the ERR_ registers (R452, R453, R456, R458). -/

namespace Sys2Proof.Machine

/-- A write of ERR_RING_CTRL: LOG2N out of range, or while EN = 1, keeps its value; EN from 0 to 1 starts the ring anew (R456). -/
def errRingCtrl (s : State) (fn : Nat) (v : Word) : State :=
  let old := regGet s fn 0 0xD00008
  let keep := old.getLsbD 31 || decide (fld v 19 16 < 4 ∨ 12 < fld v 19 16)
  let new := (v &&& bits 31 31) ||| ((if keep then old else v) &&& bits 19 16)
  let s := regSet s fn 0 0xD00008 new
  if old.getLsbD 31 = false ∧ v.getLsbD 31 then
    let s := regSet (regSet s fn 0 0xD0000C 0) fn 0 0xD00010 0
    { s with rings := Tab.put s.rings fn { s.ring fn with phase := true } }
  else s

def execErrRingCtrlWrite (fn : Func) (v : BitVec 32) (s : State) : Res := .next (errRingCtrl s fn.val v)

/-- The registers that the PF's window reports of the partition in ERR_PART_SEL (R458). -/
def errPartReg (o : Nat) : Bool := decide ((0x38 ≤ o ∧ o < 0x50) ∨ (0x80 ≤ o ∧ o < 0x280))

/-- Where a read of the ERR_ block finds its stored word: the function, or 0 and 32 for nothing. -/
def errPart (s : State) (fn : Nat) : Nat :=
  if 1 ≤ fn ∧ fn ≤ 16 then fn else fld (regGet s fn 0 0xD01000) 4 0

/-- A read of the ERR_ block (R458, R477). -/
def readErr (s : State) (fn o : Nat) : Word :=
  let p := errPart s fn
  let vf := decide (1 ≤ fn ∧ fn ≤ 16)
  if o = 0x18 then s.incarnation.truncate 32
  else if o = 0x1C then (s.incarnation >>> 32).truncate 32
  else if errPartReg o then
    if p = 0 ∨ 16 < p ∨ (16 < fn ∧ o < 0x200) then 0 else regGet s p 0 (0xD00000 + o)
  else if 16 < fn then 0
  else if vf ∧ 0x1000 ≤ o then 0
  else match o with
    | 0x20 => (s.ring fn).seq.truncate 32
    | 0x24 => ((s.ring fn).seq >>> 32).truncate 32
    | _ => regGet s fn 0 (0xD00000 + o)

end Sys2Proof.Machine
end

