-- ==== Sys2Proof/Machine/ModuleHw.lean ====
section
/-! DEFINITION. The module around the engine: control pins, busbar, coolant, power-up and shutdown, pulses, cages (R462 to R470, R481,
R484 to R486). -/

namespace Sys2Proof.Machine

/-! ## Control pins (R469) -/

/-- Whether the busbar is in its operating range (R480). -/
def busOk (s : State) : Bool := decide (42000 ≤ s.hw.busMv ∧ s.hw.busMv ≤ 58000)

/-- MOD_RST# at a level, low being asserted: 1 ms low starts a safe stop; its release asks for a power-up sequence, with the busbar in
range and EPO# high. -/
def modRst (s : State) (level : Bool) : State :=
  if level = false then safeStop { s with hw := { s.hw with rst := true, startReq := false } } 2
  else
    let ask := s.hw.rst && busOk s && !s.hw.epo && s.hw.phase == .stopped
    { s with hw := { s.hw with rst := false, startReq := s.hw.startReq || ask } }

def execModRst (level : Bool) (s : State) : Res := .next (modRst s level)

/-- EPO# at a level: low for 10 µs starts a safe stop; nothing starts when it is high again. -/
def execEpo (level : Bool) (s : State) : Res :=
  .next (if level = false then safeStop { s with hw := { s.hw with epo := true, startReq := false } } 2
    else { s with hw := { s.hw with epo := false } })

/-! ## The busbar (R481, R486) -/

/-- All power is lost: log records still queued are lost, their SEQ numbers not issued again (R486). -/
def allPowerLost (s : State) : State :=
  let s := safeStop s 2
  { s with
    tamb := { s.tamb with queue := [] },
    hw := { s.hw with phase := .dark, startReq := false, busMv := 0, mctp := [], alerts := 0, dropped := 0, discarded := 0 } }

def execBusbarLoss (s : State) : Res := .next (allPowerLost s)

/-- BUS_RANGE: the busbar has held a voltage as long as R481 asks. After a stop for range only a new request starts the engine. -/
def busRange (s : State) (mv : Nat) : State :=
  let s := { s with hw := { s.hw with busMv := mv, busLimit := none } }
  if mv < 30000 then allPowerLost s
  else if busOk s then s
  else
    let s := if s.hw.phase = .dark then s else alert s 5
    if mv < 40000 ∨ 59500 < mv then safeStop { s with hw := { s.hw with startReq := false } } 2
    else if mv < 42000 then { s with hw := { s.hw with busLimit := some (860 * mv / 10000) } }
    else s

def execBusRange (mv : Nat) (s : State) : Res := .next (busRange s mv)

/-! ## Coolant (R462) -/

/-- The limit on draw in 10 W: inlet in 0.1 °C above 32 °C, flow in 0.1 L/min below 45 L/min. -/
def coolantLimit (inlet flow : Nat) : Option Nat :=
  let a := if 320 < inlet ∧ inlet ≤ 420 then some (3600 - 10 * (inlet - 320)) else none
  let b := if 300 ≤ flow ∧ flow < 450 then some (8 * flow) else none
  match a, b with
  | some x, some y => some (min x y)
  | some x, none => some x
  | none, y => y

/-- A wet leak sensor: safe stop at once. -/
def leakStop (s : State) : State := safeStop (alert s 7) 2

def execLeak (s : State) : Res := .next (leakStop s)

/-- COOLANT_SAMPLE: one sample in 10 ms; 2 s of samples out of range stop the engine. -/
def coolantSample (s : State) (inlet outlet flow : Nat) (wet : Bool) : State :=
  let hw := { s.hw with
    inlet := inlet, outlet := outlet, flow := flow, coolLimit := coolantLimit inlet flow,
    coolBad := if flow < 300 then s.hw.coolBad + 1 else 0, inletBad := if 420 < inlet then s.hw.inletBad + 1 else 0 }
  let s := { s with hw := hw }
  let stop := decide (200 ≤ hw.coolBad ∨ 200 ≤ hw.inletBad)
  let s := if hw.coolLimit.isSome || stop then alert s 6 else s
  let s := if stop then safeStop s 2 else s
  if wet then leakStop s else s

def execCoolantSample (inlet outlet flow : Nat) (wet : Bool) (s : State) : Res :=
  .next (coolantSample s inlet outlet flow wet)

/-! ## Power-up (R423, R425, R427, R450, R471, R484) -/

/-- The life-cycle state read at power-up: a non-volatile word that does not authenticate reads as SERVICE. -/
def lifeAtStart (s : State) (wordOk : Bool) : LifeState :=
  match s.lc with
  | .deployed => if wordOk then .deployed else .service
  | x => x

/-- Partitions at power-up: FREE, their creation counts kept (R427). -/
def partsAtStart (t : Tab Part) : Tab Part := t.map (fun e => (e.1, { creations := e.2.creations }))

/-- Pins when the MMC starts: the stored function follows a park, the UART only in MANUFACTURE (R471, R472). -/
def pinsAtStart (t : Tab MfPin) (uart : Bool) : Tab MfPin :=
  let one (f : Nat) : MfPin := if f = 0 ∨ (f = 4 ∧ uart = false) then { stored := f } else { parked := true, waiting := [f], stored := f }
  t.map (fun e => (e.1, one e.2.stored))

/-- The weight store at power-up: sets, copies and wear stand; bindings, private additions and transfers are gone (R360, R427, R486). -/
def wstAtStart (w : Wst) : Wst := { w with slots := [], adds := [], xfers := [] }

/-- The block at t0: everything at reset but what is fused, non-volatile, in T3, or held by the island and the MMC. -/
def stateAtStart (s : State) (i : PowerUpIn) : State :=
  let tamb : Tamb := { sensors := s.tamb.sensors, seq := s.tamb.seq, queue := s.tamb.queue, log := s.tamb.log }
  let regions : Tab PRegion := s.power.regions.map (fun e => (e.1, { (offRegion e.2) with st := .off }))
  let lc := lifeAtStart s i.wordOk
  let sec : Sec := { s.sec with keyFault := !i.ikOk || lc == .retired, keysReady := i.ikOk && lc != .retired }
  let hw := { s.hw with
    phase := .starting, startReq := false, straps := if i.auxFromOff then i.straps else s.hw.straps,
    pins := if i.auxFromOff then pinsAtStart s.hw.pins (lc == .manufacture) else s.hw.pins }
  { State.reset with
    pending := s.pending, draws := s.draws, out := s.out, time := s.time, ptpLock := false, grade := s.grade,
    retired := s.retired, wst := wstAtStart s.wst, tiers := { failed := s.tiers.failed }, parts := partsAtStart s.parts,
    incarnation := s.incarnation, sessions := s.sessions, ident := s.ident, defects := s.defects, baseline := s.baseline, power := { regions := regions }, tamb := tamb,
    lc := lc, sec := sec, hw := hw }

/-- Whether a sequence may start: from no supply once the busbar qualifies, or at a request while the supply is up. -/
def mayStart (s : State) (i : PowerUpIn) : Bool :=
  (if i.auxFromOff then s.hw.phase == .dark else s.hw.phase == .stopped && s.hw.startReq) && busOk s && !s.hw.rst && !s.hw.epo

/-- The stream preset in force is the one chosen before the restart (R280, R308). -/
def presetAtStart (s old : State) : State := regSet s 0 0 0x300004 ((regGet old 0 0 0x300004 &&& bits 1 0) <<< 8)

/-- POWER_UP_SEQUENCE. -/
def powerUp (s : State) (i : PowerUpIn) : State :=
  if mayStart s i then presetAtStart (newIncarnation (stateAtStart s i)) s else s

def execPowerUpSequence (i : PowerUpIn) (s : State) : Res := .next (powerUp s i)

/-! ## Shutdown (R485) -/

/-- The command in progress of a queue ends ABORTED and the queue is disabled. -/
def abortQueues (s : State) : State :=
  partNums.foldl (fun s p => (List.range 8).foldl (fun s q => stopQueue s p q) s) s

/-- SHUTDOWN: orderly; queued log records are written first. No effect where the engine is stopped already. -/
def orderlyStop (s : State) : State :=
  if s.hw.phase = .dark ∨ s.hw.phase = .stopped then s
  else
    let s := fenceAll (readyLow s)
    let s := abortQueues (abortStrikes s (fun _ _ => true) 8)
    let q := s.tamb.queue
    let s := q.foldl logStore { s with tamb := { s.tamb with queue := [] } }
    let s := regionsOff s
    { s with quiet := true, hw := { s.hw with phase := .stopped } }

/-! ## Pulses and cages (R464, R470) -/

/-- Sets the level of every pin that drives PPS_OUT. -/
def setPps (s : State) (v : Bool) : State :=
  let one (e : Nat × MfPin) : Nat × MfPin := (e.1, if e.2.func = 1 ∧ e.2.parked = false then { e.2 with pps := v } else e.2)
  { s with hw := { s.hw with pins := s.hw.pins.map one } }

/-- PPS_RISE: a whole second of WP_TIME, while the MMC runs. -/
def execPpsRise (s : State) : Res := .next (if s.hw.phase = .dark then s else setPps s true)

/-- PPS_FALL: 100 ms later. -/
def execPpsFall (s : State) : Res := .next (setPps s false)

/-- TRANSCEIVER_EVENT: one removed takes an UP port to TRAINING; one that does not comply or does not answer keeps the port DOWN. -/
def transceiver (s : State) (n : Nat) (ev : CageEvent) : State :=
  let put (c : Cage) : State := { s with hw := { s.hw with cages := Tab.put s.hw.cages n c } }
  let x := s.port n
  match ev with
  | .inserted ok => put (if ok then .good else .bad)
  | .removed =>
    let s := put .empty
    if x.carries then wpFault (portTo s n .training) n 0x10 else s
  | .noAnswer =>
    let s := put .bad
    if x.st = .offline ∨ x.st = .failed then s else portTo s n .down

def execTransceiverEvent (pt : Port) (ev : CageEvent) (s : State) : Res := .next (transceiver s pt.val ev)

end Sys2Proof.Machine
end

