-- ==== Sys2Proof/Machine/Registers.lean ====
section
/-! DEFINITION. Register accesses from a function or a sideband bus: what each window holds, 64-bit values, reads and writes (R12 to
R15, R338, R477). A requester is a function, 0 to 16, or a bus, 17 and 18. -/

namespace Sys2Proof.Machine

/-! ## Windows (R338, R477) -/

def isVf (rq : Nat) : Bool := decide (1 ≤ rq ∧ rq ≤ 16)
def isBus (rq : Nat) : Bool := decide (16 < rq)

/-- The block and the offset in it of a BAR0 offset. -/
def blkOf (off : Nat) : Nat := off / 0x100000
def offIn (off : Nat) : Nat := off % 0x100000

/-- What a sideband bus may read (R477). -/
def busReads (off : Nat) : Bool :=
  let o := offIn off
  match blkOf off with
  | 0x0 => true
  | 0x4 => (decide (o < 0x8000) && o % 0x1000 == 0) || [0x8000, 0x8008, 0x800C].contains o
  | 0x9 => true
  | 0xA => !decide (0x18 ≤ o ∧ o ≤ 0x20)
  | 0xB => o == 0 || decide (0x24 ≤ o ∧ o ≤ 0x3C)
  | 0xC => o == 0
  | 0xD => o == 0x18 || o == 0x1C || o == 0x1000 || decide (0x200 ≤ o ∧ o < 0x280)
  | _ => false

/-- What a sideband bus may write (R477). -/
def busWrites (off : Nat) : Bool :=
  [0x900008, 0x90000C, 0x900018, 0x900020, 0x900024, 0x900028, 0x90002C, 0x900030, 0x900034, 0x90004C, 0x900054,
    0xA00030, 0xA00034, 0xB00028, 0xD01000].contains off

/-- Whether a requester's window holds a register at an offset (R335, R336, R338, R362, R384, R404, R424, R436, R458). -/
def inWindow (rq off : Nat) : Bool :=
  let o := offIn off
  let vf := isVf rq
  match blkOf off with
  | 0x1 => vf && decide (o < 0x800)
  | 0x2 => !vf || decide (0x04 ≤ o ∧ o ≤ 0x10)
  | 0x3 => vf || o == 0x04
  | 0x4 => !vf || o == 0x8008 || o == 0x800C || (decide (o < 0x8000) && o % 0x1000 == 0)
  | 0x5 => vf
  | 0x6 => !vf || decide (o < 0x100)
  | 0x7 => if vf then decide (o < 0x100) else decide (0x44 < o)
  | 0x8 => vf
  | 0x9 => !vf || o == 0x04 || o == 0x10 || o == 0x14
  | 0xA => !vf || o == 0 || decide (0x18 ≤ o ∧ o ≤ 0x20)
  | 0xB => !vf
  | 0xC => !vf
  | 0xD => !vf || decide (o < 0x1000)
  | 0x0 => true
  | _ => false

/-- Whether a requester may read a register. -/
def mayRead (rq off : Nat) : Bool := if isBus rq then busReads off else inWindow rq off

/-- Whether a requester may write a register. PART_, PWR_, TEST_ and SEC_ are written by the PF or a bus alone; the PF's view of a
partition's ERR_ registers is read-only. -/
def mayWrite (rq off : Nat) : Bool :=
  if isBus rq then busWrites off
  else
    inWindow rq off && match blkOf off with
      | 0x2 => !isVf rq
      | 0x3 => !(isVf rq && offIn off == 0x04)
      | 0x9 => !isVf rq
      | 0xD => isVf rq || !errPartReg (offIn off)
      | _ => true

/-! ## Reads -/

/-- The value of a register now. -/
def liveRead (s : State) (rq off : Nat) : Word :=
  let o := offIn off
  if mayRead rq off = false then 0
  else match blkOf off with
    | 0x0 => readIdn s o
    | 0x1 => readHq s rq o
    | 0x2 => readPart s rq o
    | 0x3 => if rq = 0 then regGet s 0 0 0x300004 else if o = 0x04 then regGet s 0 0 0x300004 else readStrm s rq o
    | 0x4 => readWp s (if isVf rq then rq else 0) o
    | 0x5 => readColl s rq o
    | 0x6 => readTier s rq o
    | 0x7 => readWst s rq o
    | 0x8 => readSync s rq o
    | 0x9 => readPwr s rq o
    | 0xA => readTamb s rq o
    | 0xB => readTest s rq o
    | 0xC => readSec s rq o
    | 0xD => readErr s rq o
    | _ => 0

/-- A 32-bit read by a requester. A low word captures the high word; a high word comes from the shadow while the shadow is its own
(R15). A read of the low word of WP_NQ_DATA takes a notice word (R316). -/
def readReg (s : State) (rq off : Nat) : Word × State :=
  if off % 4 ≠ 0 ∨ mayRead rq off = false then (0, s)
  else if blkOf off = 4 ∧ offIn off < 0x8000 ∧ off % 0x1000 = 0x050 then noticeRead s rq (offIn off / 0x1000)
  else if isLow64 off then
    (liveRead s rq off, s.setFnBuf rq { s.fnBuf rq with shadow := some (off, liveRead s rq (off + 4)) })
  else if isLow64 (off - 4) then
    match (s.fnBuf rq).shadow with
    | some (o, w) => (if o = off - 4 then w else liveRead s rq off, s)
    | none => (liveRead s rq off, s)
  else (liveRead s rq off, s)

/-- LOW_WORD_READ (R15); a read that is not of four bytes at a multiple of 4 answers zero (R12). -/
def execLowWordRead (fn : Func) (x : ReadAt) (s : State) : Res :=
  let r := if x.sz = 4 then readReg s fn.val x.off.toNat else (0, s)
  .next (emit r.2 (.read fn.val r.1))

/-! ## Writes -/

/-- The stored bits of a register after a write (R13): RW bits take the value, W1C bits a 1 clears. -/
def stored (off : Nat) (old v : Word) : Word :=
  let sp := regSpec off
  (old &&& ~~~sp.rw &&& ~~~(v &&& sp.w1c)) ||| (v &&& sp.rw)

def storeReg (s : State) (fn idx off : Nat) (v : Word) : State := regSet s fn idx off (stored off (regGet s fn idx off) v)

/-- A write of a register that has no other effect, by requester `rq`, the register being that of function `fn` and index `idx`
(R13, R15). Where no bit can be written, the write is ignored and holds nothing (log entry 44). -/
def plainWrite (s : State) (rq fn idx off : Nat) (v : Word) : State :=
  if isLow64 off then
    if (regSpec off).rw = 0 then s else holdLow s rq off v
  else if isLow64 (off - 4) then
    if (regSpec off).rw = 0 then s
    else
      let r := takeHeld s rq (off - 4) (regGet s fn idx (off - 4))
      storeReg (storeReg r.2 fn idx (off - 4) r.1) fn idx off v
  else storeReg s fn idx off v

/-- HQ_: base writes are ignored while EN = 1 (R341). -/
def writeHq (s : State) (p off : Nat) (v : Word) : State :=
  let o := offIn off
  let q := o / 0x100
  match o % 0x100 with
  | 0x10 => hqCtrlWrite s p q v
  | 0x14 => dbWrite s p q v
  | 0x1C => cplHeadWrite s p q v
  | 0x20 => hqStatusWrite s p q v
  | r => if r < 0x10 ∧ hqOn s p q then s else plainWrite s p p 0 off v

def writePart (s : State) (off : Nat) (v : Word) : State :=
  match offIn off with
  | 0x44 => partCmdWrite s v
  | 0x50 => plainWrite s 0 0 (partSel s) off v
  | 0x54 => plainWrite s 0 0 (partSel s) off v
  | 0x00 => plainWrite s 0 0 0 off v
  | _ => plainWrite s 0 0 (partSel s) off v

def writeStrm (s : State) (rq off : Nat) (v : Word) : State :=
  let o := offIn off
  if o = 0x04 then (if fld v 1 0 = 3 then s else storeReg s 0 0 off v)
  else if o = 0x18 then strmCmd s rq v
  else if 0x40 ≤ o ∧ o < 0x80 ∧ (fld v 8 0 = 0 ∨ 256 < fld v 8 0) then s
  else plainWrite s rq rq 0 off v

/-- WP_RTO: a field written 0 keeps its value (R335). -/
def rtoWrite (old v : Word) : Word :=
  (if fld v 23 16 = 0 then old &&& bits 23 16 else v &&& bits 23 16) ||| (if fld v 15 0 = 0 then old &&& bits 15 0 else v &&& bits 15 0)

def writeWp (s : State) (off : Nat) (v : Word) : State :=
  let o := offIn off
  let n := o / 0x1000
  let r := o % 0x1000
  if o = 0x8000 then
    let s := storeReg s 0 0 off v
    if v.getLsbD 31 then s else { s with ptpLock := false }
  else if 0x8000 ≤ o then s
  else match r with
    | 0x004 => portCmd s n v
    | 0x018 => if fld v 10 8 = fld v 6 4 then s else storeReg s 0 0 off v
    | 0x01C => if fld v 28 16 ≤ fld v 12 0 ∨ 4032 < fld v 28 16 then s else storeReg s 0 0 off v
    | 0x030 => regSet s 0 0 off (rtoWrite (regGet s 0 0 off) v)
    | 0x038 => peerCtrlWrite s n v
    | _ => if 0x03C ≤ r ∧ r < 0x050 then peerAddrWrite s n r v else plainWrite s 0 0 0 off v

/-- COLL_: a chain's registers are written only while it is IDLE (R324, R336). -/
def writeColl (s : State) (p off : Nat) (v : Word) : State :=
  match offIn off with
  | 0x08 => plainWrite s p p 0 off v
  | 0x0C => chainWrite s p (fun ch => plainWrite s p p ch off v)
  | 0x10 => chainWrite s p (fun ch => storeReg s p ch off v)
  | 0x14 => if fld v 12 0 = 0 ∨ 4096 < fld v 12 0 then s else chainWrite s p (fun ch => storeReg s p ch off v)
  | 0x18 => chainCmd s p v
  | 0x1C => storeReg s p (chainSel s p) off v
  | 0x34 => groupCmd s p v
  | 0x44 => storeReg s p (fld (regGet s p 0 0x500040) 5 0) off v
  | 0x48 => if fld v 15 0 = 0 then s else storeReg s p 0 off v
  | _ => plainWrite s p p 0 off v

def writeTier (s : State) (rq off : Nat) (v : Word) : State :=
  if offIn off = 0x100 then stackCmd s v else plainWrite s rq rq 0 off v

def writeWst (s : State) (rq off : Nat) (v : Word) : State :=
  match offIn off with
  | 0x18 => xferCmd s rq v
  | 0x114 => setCmd s v
  | 0x11C => wstBind s v
  | 0x120 => ctlCmd s v
  | 0x12C => if 100 < v.toNat then s else plainWrite s rq rq 0 off v
  | _ => plainWrite s rq rq 0 off v

def writeSync (s : State) (p off : Nat) (v : Word) : State :=
  let o := offIn off
  let l := (o - 0x1000) / 0x20
  if 0x1000 ≤ o ∧ o < 0x1800 then
    match o % 0x20 with
    | 0x00 => laneCtrlWrite s p l v
    | 0x04 => laneMaskWrite s p l 0 v
    | 0x08 => laneMaskWrite s p l 1 v
    | 0x0C => laneMaskWrite s p l 2 v
    | _ => s
  else match o with
    | 0x28 => chimeAddWrite s p v
    | 0x2C => pairCfgWrite s p v
    | 0x30 => pairBoundWrite s p v
    | _ => plainWrite s p p 0 off v

/-- PWR_: staging registers and selectors are the requester's own, the rest the module's (R384, R477). -/
def writePwr (s : State) (rq off : Nat) (v : Word) : State :=
  match offIn off with
  | 0x08 => if fld v 15 0 < 650 ∨ 3600 < fld v 15 0 then s else storeReg s 0 0 off v
  | 0x0C => envCtrlWrite s v
  | 0x18 => envCmd s rq v
  | 0x28 => segCfgWrite s rq v
  | 0x30 => segDataWrite s rq v
  | 0x4C => if fld v 4 0 = 0 ∨ 16 < fld v 4 0 then s else storeReg s rq 0 off v
  | 0x50 => if 1250 < fld v 10 0 then s else storeReg s 0 (fld (regGet s rq 0 0x90004C) 4 0) off v
  | 0x54 => if 207 < fld v 7 0 then s else storeReg s rq 0 off v
  | _ => plainWrite s rq rq 0 off v

def writeTamb (s : State) (rq off : Nat) (v : Word) : State :=
  match offIn off with
  | 0x1C => postMbx s rq (fld v 31 24)
  | 0x34 => logFetch s rq v
  | _ => plainWrite s rq rq 0 off v

/-- TEST_CTRL: a field written outside its range keeps its value (R424). -/
def testCtrlFields (old v : Word) : Word :=
  (v &&& bits 31 31) ||| (if fld v 27 24 = 0 ∨ 8 < fld v 27 24 then old &&& bits 27 24 else v &&& bits 27 24) |||
    (if fld v 15 0 < 23 ∨ 3600 < fld v 15 0 then old &&& bits 15 0 else v &&& bits 15 0)

def writeTest (s : State) (rq off : Nat) (v : Word) : State :=
  match offIn off with
  | 0x04 => lcCmd s v
  | 0x0C => regSet s 0 0 off (testCtrlFields (regGet s 0 0 off) v)
  | 0x10 => testCmdWrite s v
  | 0x18 => if 215 < fld v 7 0 then s else storeReg s 0 0 off v
  | _ => plainWrite s rq rq 0 off v

def writeSec (s : State) (off : Nat) (v : Word) : State := if offIn off = 0x04 then secCmdWrite s v else plainWrite s 0 0 0 off v

def writeErr (s : State) (rq off : Nat) (v : Word) : State := if offIn off = 0x08 then errRingCtrl s rq v else plainWrite s rq rq 0 off v

/-- A 32-bit write by a requester (R13, R15). -/
def writeReg (s : State) (rq off : Nat) (v : Word) : State :=
  if off % 4 ≠ 0 ∨ mayWrite rq off = false then s
  else match blkOf off with
    | 0x1 => writeHq s rq off v
    | 0x2 => writePart s off v
    | 0x3 => writeStrm s rq off v
    | 0x4 => writeWp s off v
    | 0x5 => writeColl s rq off v
    | 0x6 => writeTier s rq off v
    | 0x7 => writeWst s rq off v
    | 0x8 => writeSync s rq off v
    | 0x9 => writePwr s rq off v
    | 0xA => writeTamb s rq off v
    | 0xB => writeTest s rq off v
    | 0xC => writeSec s off v
    | 0xD => writeErr s rq off v
    | _ => s

/-- REGISTER_WRITE: any size but four bytes is ignored (R12). -/
def execRegisterWrite (fn : Func) (off : BitVec 26) (v : BitVec 32) (sz : Nat) (s : State) : Res :=
  .next (if sz = 4 then writeReg s fn.val off.toNat v else s)

end Sys2Proof.Machine
end

