-- ==== Sys2Proof/Machine/Sideband.lean ====
section
/-! DEFINITION. The sideband: SMBus commands, alerts, MCTP transport and the multi-function pins (R471 to R478). -/

namespace Sys2Proof.Machine

/-! ## Buses (R471, R473, R474) -/

/-- The requester number of a bus. -/
def busNo (b : Bus) : Nat := reqFn (.bus b)

def satAdd16 (x : BitVec 16) : BitVec 16 := if x = BitVec.allOnes 16 then x else x + 1

/-- A command discarded and counted (R471, R474, R476). -/
def discardCmd (s : State) : State := { s with hw := { s.hw with discarded := satAdd16 s.hw.discarded } }

/-- Carries out a command with its byte count right and its PEC right; another is discarded (R474). -/
def sbCmd (s : State) (b : Bus) (d : SbData) (n : Nat) (f : List Nat → State) : State :=
  if busUp s b = false then s
  else if d.pecOk && d.bytes.length == n then f (d.bytes.map BitVec.toNat) else discardCmd s

/-- Little-endian number of bytes. -/
def leNat : List Nat → Nat
  | [] => 0
  | b :: t => b + 256 * leNat t

/-- The bytes of words, little-endian. -/
def leBytes (ws : List Word) : List Byte :=
  let four (w : Word) : List Byte := [w.truncate 8, (w >>> 8).truncate 8, (w >>> 16).truncate 8, (w >>> 24).truncate 8]
  ws.flatMap four

/-! ## Commands (R476, R477) -/

/-- SHUTDOWN: the byte 0x5A confirms it. -/
def execShutdown (b : Bus) (d : SbData) (s : State) : Res :=
  .next (sbCmd s b d 1 (fun x => if x = [0x5A] then orderlyStop s else discardCmd s))

/-- RESTART: the byte 0xA5 confirms it. A stopped engine with EPO# high and the busbar in range asks for a power-up sequence
(R476, R481). -/
def execRestart (b : Bus) (d : SbData) (s : State) : Res :=
  .next (sbCmd s b d 1 (fun x =>
    if x ≠ [0xA5] then discardCmd s
    else if s.hw.phase = .stopped ∧ s.hw.epo = false ∧ busOk s then { s with hw := { s.hw with startReq := true } } else s))

/-- READ_WINDOW. An offset beyond the window reads as zero (R338). -/
def execReadWindow (b : Bus) (d : SbData) (s : State) : Res :=
  .next (sbCmd s b d 4 (fun x =>
    let r := readReg s (busNo b) (leNat x)
    emit r.2 (.reply (busNo b) (leBytes [r.1]))))

/-- WRITE_WINDOW. -/
def execWriteWindow (b : Bus) (d : SbData) (s : State) : Res :=
  .next (sbCmd s b d 8 (fun x => writeReg s (busNo b) (leNat (x.take 4)) (BitVec.ofNat 32 (leNat (x.drop 4)))))

/-- The STATUS block. -/
def statusWords (s : State) : List Word :=
  [s.hw.alerts.zeroExtend 32,
   tambStatus s,
   readPwr s 0 0,
   BitVec.ofNat 32 (s.hw.flow % 65536 * 65536 + s.hw.inlet % 65536),
   BitVec.ofNat 32 ((hottest s).2 % 256 * 2 ^ 24 + s.hw.ready.toNat * 2 ^ 23 + (s.hw.phase == .stopped).toNat * 2 ^ 22 + s.hw.outlet % 65536),
   BitVec.ofNat 32 (s.hw.dropped.toNat * 65536 + s.hw.discarded.toNat)]

/-- STATUS, a Block Read: the host writes no byte. -/
def execStatus (b : Bus) (d : SbData) (s : State) : Res :=
  .next (sbCmd s b d 0 (fun _ => emit s (.reply (busNo b) (leBytes (statusWords s)))))

/-- CLEAR_ALERT. -/
def execClearAlert (b : Bus) (d : SbData) (s : State) : Res :=
  .next (sbCmd s b d 4 (fun x => { s with hw := { s.hw with alerts := s.hw.alerts &&& ~~~(BitVec.ofNat 10 (leNat x)) } }))

/-- FACTORY: OP 0x0001 is FINALISE, in MANUFACTURE with MFG_EN high. -/
def execFactory (b : Bus) (d : SbData) (mfgEn : Bool) (s : State) : Res :=
  .next (sbCmd s b d 2 (fun x => if leNat x = 1 ∧ s.lc = .manufacture ∧ mfgEn then lcFinalise s else discardCmd s))

/-- An undefined command code is refused at the command byte. -/
def execSmbusUndefinedCommand (b : Bus) (_code : BitVec 8) (s : State) : Res :=
  .next (if busUp s b then emit s (.nack (busNo b)) else s)

/-- The MMC's 7-bit target address, on both buses (R474). -/
def busAddr (s : State) : Nat := 0x60 + s.hw.straps.toNat

/-- ALERT_RESPONSE: answered with that address while SMB_ALERT# is low. -/
def execAlertResponse (b : Bus) (s : State) : Res :=
  .next (if busUp s b && s.hw.alerts != 0 then emit s (.alertAnswer (busNo b) (busAddr s)) else s)

/-- CLOCK_LOW_TIMEOUT: the transaction is abandoned; commands act only when whole, so nothing else changes. -/
def execClockLowTimeout (_b : Bus) (s : State) : Res := .next s

/-! ## MCTP (R473, R475) -/

/-- The 256-bit nonce in the bytes of a CHALLENGE. -/
def nonceOf (x : List Nat) : BitVec 256 := BitVec.ofNat 256 (leNat ((x.drop 4).take 32))

/-- The SPDM request a message spells, by the codes and layouts of SPDM 1.3 (log entry 43). -/
def spdmMessage (s : State) (via : Via) (x : List Nat) : Res :=
  let p1 := x.getD 2 0
  match x.getD 1 0 with
  | 0x84 => execGetVersion via s
  | 0xE1 => execGetCapabilities via s
  | 0xE3 => execNegotiateAlgorithms via (x.getD 8 0 / 128 % 2 == 1 && x.getD 12 0 / 2 % 2 == 1) s
  | 0x81 => execGetDigests via s
  | 0x82 => execGetCertificate via (BitVec.ofNat 8 (p1 % 16)) s
  | 0x83 => execChallenge via (nonceOf x) s
  | 0xE0 => execGetMeasurements via (BitVec.ofNat 8 (x.getD 3 0)) (p1 % 2 == 1) s
  | c => execSpdmUnsupportedRequest via (BitVec.ofNat 8 c) s

/-- MCTP: the bytes are the message an SPDM packet carries. A message of another type is answered with an MCTP error, whose words the
spec leaves to DMTF (log entry 45). -/
def execMctp (b : Bus) (d : SbData) (spdm : Bool) (s : State) : Res :=
  if busUp s b = false then .next s
  else if d.pecOk = false then .next (discardCmd s)
  else if spdm then spdmMessage s (.bus b) (d.bytes.map BitVec.toNat)
  else
    let r := drawWord s
    .next (sendMctp r.2 (.bus b) [r.1])

/-- A packet is dropped: counted, and alert cause DROPPED set. -/
def mctpDrop (s : State) : State := alert { s with hw := { s.hw with dropped := satAdd16 s.hw.dropped } } 9

def mctpQ (s : State) (b : Bus) : List MctpTx := Tab.get [] s.hw.mctp (busNo b)
def setMctpQ (s : State) (b : Bus) (q : List MctpTx) : State := { s with hw := { s.hw with mctp := Tab.put s.hw.mctp (busNo b) q } }

/-- ARBITRATION_LOST, at an early or a late bit: the packet in flight is lost; after 8 losses it is dropped. -/
def execArbitrationLost (b : Bus) (_late : Bool) (s : State) : Res :=
  match (mctpQ s b).find? (fun x => !x.lost) with
  | none => .next s
  | some x =>
    let rest := (mctpQ s b).filter (·.lost)
    .next (if 8 ≤ x.losses + 1 then mctpDrop (setMctpQ s b rest) else setMctpQ s b ({ x with losses := x.losses + 1, lost := true } :: rest))

/-- MCTP_RETRY: the first lost packet is sent again where its bus is served, or dropped 100 ms after its first attempt. -/
def execMctpRetry (b : Bus) (expired : Bool) (s : State) : Res :=
  match (mctpQ s b).find? (·.lost) with
  | none => .next s
  | some x =>
    let rest := (mctpQ s b).filter (fun y => y.lost) |>.drop 1
    .next (if busUp s b = false ∧ expired = false then s
      else if expired then mctpDrop (setMctpQ s b rest)
      else setMctpQ (emit s (.mctp (busNo b) x.ws)) b (rest ++ [{ x with lost := false }]))

/-! ## Multi-function pins (R471, R472) -/

/-- Whether pin n drives its line low as THERM#: some region temperature is above THROTTLE (R392, R471). -/
def thermLow (s : State) (n : Nat) : Bool :=
  (pinOf s n).func == 2 && !(pinOf s n).parked && (List.range 208).any (fun r => tempAbove s r (s.tamb.throttle * 10))

/-- The other pin of a pin's pair. -/
def pairPin (n : Nat) : Nat := if n % 2 = 0 then n + 1 else n - 1

/-- Whether a PIN_FUNC is one that R471 allows. -/
def pinOk (s : State) (n f : Nat) : Bool :=
  decide (n ≤ 3 ∧ f ≤ 4) && (f != 3 || decide (2 ≤ n)) && (f != 4 || (decide (n ≤ 1) && s.lc == .manufacture))

/-- PIN_FUNC. A paired function takes both pins; leaving one parks both. -/
def pinSwitch (s : State) (n f : Nat) : State :=
  if pinOk s n f = false then discardCmd s
  else if f = 3 ∨ f = 4 then switchPin (switchPin s n f) (pairPin n) f
  else if (pinOf s n).stored = 3 ∨ (pinOf s n).stored = 4 then switchPin (switchPin s n f) (pairPin n) 0
  else switchPin s n f

def execPinFunc (b : Bus) (d : SbData) (s : State) : Res :=
  .next (sbCmd s b d 2 (fun x => pinSwitch s (x.getD 0 0) (x.getD 1 0)))

/-- MF_PARK_END: the function waited for starts; where another waits behind it, the pin parks again for that one. -/
def execMfParkEnd (pin : Fin 4) (s : State) : Res :=
  let p := pinOf s pin.val
  .next (if p.parked = false then s
    else match p.waiting with
      | [] => setPin s pin.val { p with parked := false }
      | [f] => setPin s pin.val { p with parked := false, func := f, waiting := [] }
      | _ :: t => setPin s pin.val { p with waiting := t })

end Sys2Proof.Machine
end

