-- ==== Sys2Proof/Machine/Dispatch.lean ====
section
/-! DEFINITION. exec: one arm for each constructor of Instr, each a direct call of its meaning. -/

namespace Sys2Proof.Machine

/-- The effect of a command on everything but the queue. -/
def exec (i : Instr) (s : State) : Host.Outcome State Fault Refusal :=
  match i with
  | .add c rd rs1 rs2 => Sys2Proof.Machine.execAdd c rd rs1 rs2 s
  | .sub c rd rs1 rs2 => Sys2Proof.Machine.execSub c rd rs1 rs2 s
  | .and c rd rs1 rs2 => Sys2Proof.Machine.execAnd c rd rs1 rs2 s
  | .or c rd rs1 rs2 => Sys2Proof.Machine.execOr c rd rs1 rs2 s
  | .xor c rd rs1 rs2 => Sys2Proof.Machine.execXor c rd rs1 rs2 s
  | .sll c rd rs1 rs2 => Sys2Proof.Machine.execSll c rd rs1 rs2 s
  | .srl c rd rs1 rs2 => Sys2Proof.Machine.execSrl c rd rs1 rs2 s
  | .sra c rd rs1 rs2 => Sys2Proof.Machine.execSra c rd rs1 rs2 s
  | .slt c rd rs1 rs2 => Sys2Proof.Machine.execSlt c rd rs1 rs2 s
  | .sltu c rd rs1 rs2 => Sys2Proof.Machine.execSltu c rd rs1 rs2 s
  | .min c rd rs1 rs2 => Sys2Proof.Machine.execMin c rd rs1 rs2 s
  | .max c rd rs1 rs2 => Sys2Proof.Machine.execMax c rd rs1 rs2 s
  | .minu c rd rs1 rs2 => Sys2Proof.Machine.execMinu c rd rs1 rs2 s
  | .maxu c rd rs1 rs2 => Sys2Proof.Machine.execMaxu c rd rs1 rs2 s
  | .clz c rd rs1 => Sys2Proof.Machine.execClz c rd rs1 s
  | .popc c rd rs1 => Sys2Proof.Machine.execPopc c rd rs1 s
  | .mul c rd rs1 rs2 => Sys2Proof.Machine.execMul c rd rs1 rs2 s
  | .mulh c rd rs1 rs2 => Sys2Proof.Machine.execMulh c rd rs1 rs2 s
  | .mulhu c rd rs1 rs2 => Sys2Proof.Machine.execMulhu c rd rs1 rs2 s
  | .div c rd rs1 rs2 => Sys2Proof.Machine.execDiv c rd rs1 rs2 s
  | .divu c rd rs1 rs2 => Sys2Proof.Machine.execDivu c rd rs1 rs2 s
  | .rem c rd rs1 rs2 => Sys2Proof.Machine.execRem c rd rs1 rs2 s
  | .remu c rd rs1 rs2 => Sys2Proof.Machine.execRemu c rd rs1 rs2 s
  | .addi c rd rs1 imm => Sys2Proof.Machine.execAddi c rd rs1 imm s
  | .andi c rd rs1 imm => Sys2Proof.Machine.execAndi c rd rs1 imm s
  | .ori c rd rs1 imm => Sys2Proof.Machine.execOri c rd rs1 imm s
  | .xori c rd rs1 imm => Sys2Proof.Machine.execXori c rd rs1 imm s
  | .shifti c rd rs1 k amt => Sys2Proof.Machine.execShifti c rd rs1 k amt s
  | .lui c rd imm => Sys2Proof.Machine.execLui c rd imm s
  | .slti c rd rs1 imm => Sys2Proof.Machine.execSlti c rd rs1 imm s
  | .sltiu c rd rs1 imm => Sys2Proof.Machine.execSltiu c rd rs1 imm s
  | .amov c ad rs1 => Sys2Proof.Machine.execAmov c ad rs1 s
  | .smov c rd as1 => Sys2Proof.Machine.execSmov c rd as1 s
  | .aadd c ad as1 rs2 => Sys2Proof.Machine.execAadd c ad as1 rs2 s
  | .aaddi c ad as1 imm => Sys2Proof.Machine.execAaddi c ad as1 imm s
  | .ali c ad imm => Sys2Proof.Machine.execAli c ad imm s
  | .li c rd imm => Sys2Proof.Machine.execLi c rd imm s
  | .lw c rt ab post imm => Sys2Proof.Machine.execLw c rt ab post imm s
  | .lh c rt ab post imm => Sys2Proof.Machine.execLh c rt ab post imm s
  | .lhu c rt ab post imm => Sys2Proof.Machine.execLhu c rt ab post imm s
  | .lb c rt ab post imm => Sys2Proof.Machine.execLb c rt ab post imm s
  | .lbu c rt ab post imm => Sys2Proof.Machine.execLbu c rt ab post imm s
  | .sw c rt ab post imm => Sys2Proof.Machine.execSw c rt ab post imm s
  | .sh c rt ab post imm => Sys2Proof.Machine.execSh c rt ab post imm s
  | .sb c rt ab post imm => Sys2Proof.Machine.execSb c rt ab post imm s
  | .vld c vt ab pg post imm => Sys2Proof.Machine.execVld c vt ab pg post imm s
  | .vst c vt ab pg post imm => Sys2Proof.Machine.execVst c vt ab pg post imm s
  | .pand c pd ps1 ps2 => Sys2Proof.Machine.execPand c pd ps1 ps2 s
  | .por c pd ps1 ps2 => Sys2Proof.Machine.execPor c pd ps1 ps2 s
  | .pxor c pd ps1 ps2 => Sys2Proof.Machine.execPxor c pd ps1 ps2 s
  | .pandn c pd ps1 ps2 => Sys2Proof.Machine.execPandn c pd ps1 ps2 s
  | .pnot c pd ps1 => Sys2Proof.Machine.execPnot c pd ps1 s
  | .pmovs c pd rs1 => Sys2Proof.Machine.execPmovs c pd rs1 s
  | .smovp c rd ps1 => Sys2Proof.Machine.execSmovp c rd ps1 s
  | .pcnt c rd ps1 => Sys2Proof.Machine.execPcnt c rd ps1 s
  | .vadd c ty pg vd va vb => Sys2Proof.Machine.execVadd c ty pg vd va vb s
  | .vsub c ty pg vd va vb => Sys2Proof.Machine.execVsub c ty pg vd va vb s
  | .vmul c ty pg vd va vb => Sys2Proof.Machine.execVmul c ty pg vd va vb s
  | .vfma c ty pg vd va vb => Sys2Proof.Machine.execVfma c ty pg vd va vb s
  | .vmin c ty pg vd va vb => Sys2Proof.Machine.execVmin c ty pg vd va vb s
  | .vmax c ty pg vd va vb => Sys2Proof.Machine.execVmax c ty pg vd va vb s
  | .vabs c ty pg vd va => Sys2Proof.Machine.execVabs c ty pg vd va s
  | .vneg c ty pg vd va => Sys2Proof.Machine.execVneg c ty pg vd va s
  | .vand c ty pg vd va vb => Sys2Proof.Machine.execVand c ty pg vd va vb s
  | .vor c ty pg vd va vb => Sys2Proof.Machine.execVor c ty pg vd va vb s
  | .vxor c ty pg vd va vb => Sys2Proof.Machine.execVxor c ty pg vd va vb s
  | .vsll c ty pg vd va vb => Sys2Proof.Machine.execVsll c ty pg vd va vb s
  | .vsrl c ty pg vd va vb => Sys2Proof.Machine.execVsrl c ty pg vd va vb s
  | .vsra c ty pg vd va vb => Sys2Proof.Machine.execVsra c ty pg vd va vb s
  | .vcmpeq c ty pg pd va vb => Sys2Proof.Machine.execVcmpeq c ty pg pd va vb s
  | .vcmplt c ty pg pd va vb => Sys2Proof.Machine.execVcmplt c ty pg pd va vb s
  | .vcmple c ty pg pd va vb => Sys2Proof.Machine.execVcmple c ty pg pd va vb s
  | .vsel c ty pg vd va vb => Sys2Proof.Machine.execVsel c ty pg vd va vb s
  | .vredadd c ty pg vd va => Sys2Proof.Machine.execVredadd c ty pg vd va s
  | .vredmax c ty pg vd va => Sys2Proof.Machine.execVredmax c ty pg vd va s
  | .vexp2 c ty pg vd va => Sys2Proof.Machine.execVexp2 c ty pg vd va s
  | .vrcp c ty pg vd va => Sys2Proof.Machine.execVrcp c ty pg vd va s
  | .vrsqrt c ty pg vd va => Sys2Proof.Machine.execVrsqrt c ty pg vd va s
  | .vbcast c ty vd rs => Sys2Proof.Machine.execVbcast c ty vd rs s
  | .vext c ty rd va lane => Sys2Proof.Machine.execVext c ty rd va lane s
  | .vins c ty vd rs lane => Sys2Proof.Machine.execVins c ty vd rs lane s
  | .vbcasti c ty vd imm => Sys2Proof.Machine.execVbcasti c ty vd imm s
  | .vqscale c wide fmt vd va vb => Sys2Proof.Machine.execVqscale c wide fmt vd va vb s
  | .vquant c wide fmt vd va vb => Sys2Proof.Machine.execVquant c wide fmt vd va vb s
  | .vdq c wide fmt vd va vb => Sys2Proof.Machine.execVdq c wide fmt vd va vb s
  | .vcvt c toBf16 vd va vb => Sys2Proof.Machine.execVcvt c toBf16 vd va vb s
  | .beq c rs1 rs2 off => Sys2Proof.Machine.execBeq c rs1 rs2 off s
  | .bne c rs1 rs2 off => Sys2Proof.Machine.execBne c rs1 rs2 off s
  | .blt c rs1 rs2 off => Sys2Proof.Machine.execBlt c rs1 rs2 off s
  | .bge c rs1 rs2 off => Sys2Proof.Machine.execBge c rs1 rs2 off s
  | .bltu c rs1 rs2 off => Sys2Proof.Machine.execBltu c rs1 rs2 off s
  | .bgeu c rs1 rs2 off => Sys2Proof.Machine.execBgeu c rs1 rs2 off s
  | .dbnz c rs1 off => Sys2Proof.Machine.execDbnz c rs1 off s
  | .jal c off => Sys2Proof.Machine.execJal c off s
  | .jalr c rd rs1 imm => Sys2Proof.Machine.execJalr c rd rs1 imm s
  | .jl c dst imm => Sys2Proof.Machine.execJl c dst imm s
  | .nop c => Sys2Proof.Machine.execNop c s
  | .halt c => Sys2Proof.Machine.execHalt c s
  | .fenceL c => Sys2Proof.Machine.execFenceL c s
  | .fenceF c => Sys2Proof.Machine.execFenceF c s
  | .fence c => Sys2Proof.Machine.execFence c s
  | .trap c code => Sys2Proof.Machine.execTrap c code s
  | .fetch c => Sys2Proof.Machine.execFetch c s
  | .waitConditionMet c => Sys2Proof.Machine.execWaitConditionMet c s
  | .mm c acc da db e z o => Sys2Proof.Machine.execMm c acc da db e z o s
  | .mmStart c sparse => Sys2Proof.Machine.execMmStart c sparse s
  | .mmComplete c sparse => Sys2Proof.Machine.execMmComplete c sparse s
  | .acczero c acc => Sys2Proof.Machine.execAcczero c acc s
  | .accrd c v acc row half => Sys2Proof.Machine.execAccrd c v acc row half s
  | .accwr c acc row half v => Sys2Proof.Machine.execAccwr c acc row half v s
  | .accst c acc ab post => Sys2Proof.Machine.execAccst c acc ab post s
  | .accld c acc ab post => Sys2Proof.Machine.execAccld c acc ab post s
  | .dld c dn ab post => Sys2Proof.Machine.execDld c dn ab post s
  | .dst c dn ab post => Sys2Proof.Machine.execDst c dn ab post s
  | .dmov c dn dm => Sys2Proof.Machine.execDmov c dn dm s
  | .dbase c dn rs => Sys2Proof.Machine.execDbase c dn rs s
  | .dadd c dn rs => Sys2Proof.Machine.execDadd c dn rs s
  | .tset c tap => Sys2Proof.Machine.execTset c tap s
  | .tclr c tap => Sys2Proof.Machine.execTclr c tap s
  | .twait c tap => Sys2Proof.Machine.execTwait c tap s
  | .twaitk c tap => Sys2Proof.Machine.execTwaitk c tap s
  | .ttest c rd tap => Sys2Proof.Machine.execTtest c rd tap s
  | .trset c route tap => Sys2Proof.Machine.execTrset c route tap s
  | .chadd c route chime rs => Sys2Proof.Machine.execChadd c route chime rs s
  | .chwatch c route chime tap rs => Sys2Proof.Machine.execChwatch c route chime tap rs s
  | .chwait c route chime tap rs => Sys2Proof.Machine.execChwait c route chime tap rs s
  | .dbarrive c lane => Sys2Proof.Machine.execDbarrive c lane s
  | .dbwait c rd lane => Sys2Proof.Machine.execDbwait c rd lane s
  | .dbsync c rd lane => Sys2Proof.Machine.execDbsync c rd lane s
  | .dbstat c rd lane => Sys2Proof.Machine.execDbstat c rd lane s
  | .sattach c dn => Sys2Proof.Machine.execSattach c dn s
  | .sdetach c dn => Sys2Proof.Machine.execSdetach c dn s
  | .srel c dn rs => Sys2Proof.Machine.execSrel c dn rs s
  | .swait c dn rs => Sys2Proof.Machine.execSwait c dn rs s
  | .sfwait c dn rs => Sys2Proof.Machine.execSfwait c dn rs s
  | .sfrel c dn rs => Sys2Proof.Machine.execSfrel c dn rs s
  | .send c route as1 tap t count daddr => Sys2Proof.Machine.execSend c route as1 tap t count daddr s
  | .mcast c route as1 tap t count daddr => Sys2Proof.Machine.execMcast c route as1 tap t count daddr s
  | .corePuReport c rt ab post imm => Sys2Proof.Machine.execCorePuReport c rt ab post imm s
  | .coreLaneEnWrite c rt ab post imm => Sys2Proof.Machine.execCoreLaneEnWrite c rt ab post imm s
  | .injectTake c => Sys2Proof.Machine.execInjectTake c s
  | .trackMove c x => Sys2Proof.Machine.execTrackMove c x s
  | .trackMerge c x => Sys2Proof.Machine.execTrackMerge c x s
  | .scheduleStall c o => Sys2Proof.Machine.execScheduleStall c o s
  | .write c => Sys2Proof.Machine.execWrite c s
  | .tapset c => Sys2Proof.Machine.execTapset c s
  | .ack n route => Sys2Proof.Machine.execAck n route s
  | .routerLoss x => Sys2Proof.Machine.execRouterLoss x s
  | .routeLostRunningFence p => Sys2Proof.Machine.execRouteLostRunningFence p s
  | .advance e => Sys2Proof.Machine.execAdvance e s
  | .watch e => Sys2Proof.Machine.execWatch e s
  | .laneArrival c lane => Sys2Proof.Machine.execLaneArrival c lane s
  | .laneTimeout pl => Sys2Proof.Machine.execLaneTimeout pl s
  | .syncChimeAdd p step => Sys2Proof.Machine.execSyncChimeAdd p step s
  | .syncPairCfgWrite p v => Sys2Proof.Machine.execSyncPairCfgWrite p v s
  | .syncLaneCtrlWrite p lane v => Sys2Proof.Machine.execSyncLaneCtrlWrite p lane v s
  | .syncLaneMaskWrite p lane w v => Sys2Proof.Machine.execSyncLaneMaskWrite p lane w v s
  | .attach e x => Sys2Proof.Machine.execAttach e x s
  | .detach e => Sys2Proof.Machine.execDetach e s
  | .rel e => Sys2Proof.Machine.execRel e s
  | .frelPacket e => Sys2Proof.Machine.execFrelPacket e s
  | .strmWrite p => Sys2Proof.Machine.execStrmWrite p s
  | .strmRead p => Sys2Proof.Machine.execStrmRead p s
  | .strmStart p lost => Sys2Proof.Machine.execStrmStart p lost s
  | .strmCmdFrel p n => Sys2Proof.Machine.execStrmCmdFrel p n s
  | .pieceIssue p n => Sys2Proof.Machine.execPieceIssue p n s
  | .pieceComplete p n idx r => Sys2Proof.Machine.execPieceComplete p n idx r s
  | .outboundBufferReceive e => Sys2Proof.Machine.execOutboundBufferReceive e s
  | .bufferDrained p n => Sys2Proof.Machine.execBufferDrained p n s
  | .maskChimeReached p n => Sys2Proof.Machine.execMaskChimeReached p n s
  | .copyComplete p n => Sys2Proof.Machine.execCopyComplete p n s
  | .sliceInputDelivery f => Sys2Proof.Machine.execSliceInputDelivery f s
  | .passComputeDone f => Sys2Proof.Machine.execPassComputeDone f s
  | .maskRecordWritten f => Sys2Proof.Machine.execMaskRecordWritten f s
  | .pu f => Sys2Proof.Machine.execPu f s
  | .frameFillDone frame => Sys2Proof.Machine.execFrameFillDone frame s
  | .stackOffline n => Sys2Proof.Machine.execStackOffline n s
  | .stackOnline n => Sys2Proof.Machine.execStackOnline n s
  | .frameCopyDone n => Sys2Proof.Machine.execFrameCopyDone n s
  | .t2Scrub n r => Sys2Proof.Machine.execT2Scrub n r s
  | .writeBase p => Sys2Proof.Machine.execWriteBase p s
  | .writeAdd p => Sys2Proof.Machine.execWriteAdd p s
  | .delAdd p => Sys2Proof.Machine.execDelAdd p s
  | .xferDone p wear => Sys2Proof.Machine.execXferDone p wear s
  | .installBegin tensors => Sys2Proof.Machine.execInstallBegin tensors s
  | .commit => Sys2Proof.Machine.execCommit s
  | .buildBegin tensors => Sys2Proof.Machine.execBuildBegin tensors s
  | .switch => Sys2Proof.Machine.execSwitch s
  | .setAbort => Sys2Proof.Machine.execSetAbort s
  | .setDelete => Sys2Proof.Machine.execSetDelete s
  | .drainComplete m => Sys2Proof.Machine.execDrainComplete m s
  | .eraseComplete m => Sys2Proof.Machine.execEraseComplete m s
  | .wstBind v => Sys2Proof.Machine.execWstBind v s
  | .ctlOffline n => Sys2Proof.Machine.execCtlOffline n s
  | .ctlOnline n => Sys2Proof.Machine.execCtlOnline n s
  | .rebuildDone n => Sys2Proof.Machine.execRebuildDone n s
  | .refreshUnit n wear => Sys2Proof.Machine.execRefreshUnit n wear s
  | .refreshAge n unit => Sys2Proof.Machine.execRefreshAge n unit s
  | .wearLevelMove n unit eccFail rebuildFail => Sys2Proof.Machine.execWearLevelMove n unit eccFail rebuildFail s
  | .signalDetect pt => Sys2Proof.Machine.execSignalDetect pt s
  | .lockAcquired pt => Sys2Proof.Machine.execLockAcquired pt s
  | .trainingTimeout pt => Sys2Proof.Machine.execTrainingTimeout pt s
  | .lossOfLock pt => Sys2Proof.Machine.execLossOfLock pt s
  | .mka pt live => Sys2Proof.Machine.execMka pt live s
  | .portStalled pt => Sys2Proof.Machine.execPortStalled pt s
  | .pauseEnd pt x => Sys2Proof.Machine.execPauseEnd pt x s
  | .xoffIn pt level us => Sys2Proof.Machine.execXoffIn pt level us s
  | .pfcFrame pt pri quanta us => Sys2Proof.Machine.execPfcFrame pt pri quanta us s
  | .pfcResend pt => Sys2Proof.Machine.execPfcResend pt s
  | .portOffline pt => Sys2Proof.Machine.execPortOffline pt s
  | .portOnline pt => Sys2Proof.Machine.execPortOnline pt s
  | .retrain pt => Sys2Proof.Machine.execRetrain pt s
  | .portFailed pt => Sys2Proof.Machine.execPortFailed pt s
  | .frameReceive pt f => Sys2Proof.Machine.execFrameReceive pt f s
  | .connect pt => Sys2Proof.Machine.execConnect pt s
  | .accept pt => Sys2Proof.Machine.execAccept pt s
  | .zaruxAck pt => Sys2Proof.Machine.execZaruxAck pt s
  | .nak pt => Sys2Proof.Machine.execNak pt s
  | .verdict pt => Sys2Proof.Machine.execVerdict pt s
  | .data pt => Sys2Proof.Machine.execData pt s
  | .result pt => Sys2Proof.Machine.execResult pt s
  | .zaruxAbort pt => Sys2Proof.Machine.execZaruxAbort pt s
  | .notice pt => Sys2Proof.Machine.execNotice pt s
  | .dataPlacement pt => Sys2Proof.Machine.execDataPlacement pt s
  | .frameSend pt => Sys2Proof.Machine.execFrameSend pt s
  | .ackTimer pt peer => Sys2Proof.Machine.execAckTimer pt peer s
  | .rtoExpiry pt peer pri => Sys2Proof.Machine.execRtoExpiry pt peer pri s
  | .ptpEventMessage pt ns locked => Sys2Proof.Machine.execPtpEventMessage pt ns locked s
  | .neighbourSolicitation pt target src => Sys2Proof.Machine.execNeighbourSolicitation pt target src s
  | .wpNqDataRead fn pt => Sys2Proof.Machine.execWpNqDataRead fn pt s
  | .wpPeerCtrlWrite pt v => Sys2Proof.Machine.execWpPeerCtrlWrite pt v s
  | .chainStart p => Sys2Proof.Machine.execChainStart p s
  | .stop p => Sys2Proof.Machine.execStop p s
  | .strikeStart p ch => Sys2Proof.Machine.execStrikeStart p ch s
  | .strikeComplete p ch k => Sys2Proof.Machine.execStrikeComplete p ch k s
  | .collTimeout p ch k => Sys2Proof.Machine.execCollTimeout p ch k s
  | .set p => Sys2Proof.Machine.execSet p s
  | .reform p => Sys2Proof.Machine.execReform p s
  | .hqQDb p q v => Sys2Proof.Machine.execHqQDb p q v s
  | .hqQCtrlWrite p q v => Sys2Proof.Machine.execHqQCtrlWrite p q v s
  | .hqQCplHeadWrite p q v => Sys2Proof.Machine.execHqQCplHeadWrite p q v s
  | .stoppedAck p q => Sys2Proof.Machine.execStoppedAck p q s
  | .commandFetch p q ws => Sys2Proof.Machine.execCommandFetch p q ws s
  | .hqNop p q => Sys2Proof.Machine.execHqNop p q s
  | .writeT2 p q => Sys2Proof.Machine.execWriteT2 p q s
  | .readT2 p q => Sys2Proof.Machine.execReadT2 p q s
  | .load p q => Sys2Proof.Machine.execLoad p q s
  | .hqStart p q => Sys2Proof.Machine.execHqStart p q s
  | .chimeAdd p q => Sys2Proof.Machine.execChimeAdd p q s
  | .chimeWait p q => Sys2Proof.Machine.execChimeWait p q s
  | .save p q => Sys2Proof.Machine.execSave p q s
  | .restore p q => Sys2Proof.Machine.execRestore p q s
  | .reinit p q => Sys2Proof.Machine.execReinit p q s
  | .commandComplete p q => Sys2Proof.Machine.execCommandComplete p q s
  | .commandTimeout p q => Sys2Proof.Machine.execCommandTimeout p q s
  | .hostReadCompletion p q r => Sys2Proof.Machine.execHostReadCompletion p q r s
  | .vfFlr p => Sys2Proof.Machine.execVfFlr p s
  | .pfFlr => Sys2Proof.Machine.execPfFlr s
  | .perst => Sys2Proof.Machine.execPerst s
  | .create => Sys2Proof.Machine.execCreate s
  | .resize => Sys2Proof.Machine.execResize s
  | .reset => Sys2Proof.Machine.execReset s
  | .destroy => Sys2Proof.Machine.execDestroy s
  | .transit => Sys2Proof.Machine.execTransit s
  | .partitionResetDone p => Sys2Proof.Machine.execPartitionResetDone p s
  | .registerWrite fn off v sz => Sys2Proof.Machine.execRegisterWrite fn off v sz s
  | .decisionCycle inp => Sys2Proof.Machine.execDecisionCycle inp s
  | .rampDone r => Sys2Proof.Machine.execRampDone r s
  | .rampShort r dom => Sys2Proof.Machine.execRampShort r dom s
  | .retryExpiry r => Sys2Proof.Machine.execRetryExpiry r s
  | .shortTrip r dom => Sys2Proof.Machine.execShortTrip r dom s
  | .overcurrent r rail => Sys2Proof.Machine.execOvercurrent r rail s
  | .regionLost r dom => Sys2Proof.Machine.execRegionLost r dom s
  | .sensorExcluded r rail sensor mv => Sys2Proof.Machine.execSensorExcluded r rail sensor mv s
  | .sensorSample xs => Sys2Proof.Machine.execSensorSample xs s
  | .converterLost z => Sys2Proof.Machine.execConverterLost z s
  | .retentionDroop r => Sys2Proof.Machine.execRetentionDroop r s
  | .chipletLinkRequest r x => Sys2Proof.Machine.execChipletLinkRequest r x s
  | .linkChangeDone r => Sys2Proof.Machine.execLinkChangeDone r s
  | .writeSeg rq seg => Sys2Proof.Machine.execWriteSeg rq seg s
  | .clearSeg rq seg => Sys2Proof.Machine.execClearSeg rq seg s
  | .clearAll rq => Sys2Proof.Machine.execClearAll rq s
  | .pwrSegCfgWrite rq v => Sys2Proof.Machine.execPwrSegCfgWrite rq v s
  | .pwrSegDataWrite rq v => Sys2Proof.Machine.execPwrSegDataWrite rq v s
  | .pwrEnvCtrlWrite rq v => Sys2Proof.Machine.execPwrEnvCtrlWrite rq v s
  | .envFrozen => Sys2Proof.Machine.execEnvFrozen s
  | .setLaneTimeout fn => Sys2Proof.Machine.execSetLaneTimeout fn s
  | .wake fn => Sys2Proof.Machine.execWake fn s
  | .setThrottle fn => Sys2Proof.Machine.execSetThrottle fn s
  | .setParkHold fn => Sys2Proof.Machine.execSetParkHold fn s
  | .takeover why => Sys2Proof.Machine.execTakeover why s
  | .standbyLost => Sys2Proof.Machine.execStandbyLost s
  | .mmcHeartbeatTimeout => Sys2Proof.Machine.execMmcHeartbeatTimeout s
  | .mmcLost => Sys2Proof.Machine.execMmcLost s
  | .safeStop who => Sys2Proof.Machine.execSafeStop who s
  | .logRecordWrite => Sys2Proof.Machine.execLogRecordWrite s
  | .logFetch rq hi => Sys2Proof.Machine.execLogFetch rq hi s
  | .logFetchDone rq => Sys2Proof.Machine.execLogFetchDone rq s
  | .powerUpTest t => Sys2Proof.Machine.execPowerUpTest t s
  | .bist hf links => Sys2Proof.Machine.execBist hf links s
  | .repair hf => Sys2Proof.Machine.execRepair hf s
  | .unitTest u => Sys2Proof.Machine.execUnitTest u s
  | .testAbort u => Sys2Proof.Machine.execTestAbort u s
  | .bistRunStart hf => Sys2Proof.Machine.execBistRunStart hf s
  | .bistRunDone hf t => Sys2Proof.Machine.execBistRunDone hf t s
  | .unitTestDone u ok => Sys2Proof.Machine.execUnitTestDone u ok s
  | .repairDone hf t => Sys2Proof.Machine.execRepairDone hf t s
  | .deploy => Sys2Proof.Machine.execDeploy s
  | .enterService => Sys2Proof.Machine.execEnterService s
  | .leaveService => Sys2Proof.Machine.execLeaveService s
  | .retire confirm => Sys2Proof.Machine.execRetire confirm s
  | .finalise => Sys2Proof.Machine.execFinalise s
  | .unwrap keyId epkOk icvOk cakZero => Sys2Proof.Machine.execUnwrap keyId epkOk icvOk cakZero s
  | .keyDelete keyId => Sys2Proof.Machine.execKeyDelete keyId s
  | .getVersion via => Sys2Proof.Machine.execGetVersion via s
  | .getCapabilities via => Sys2Proof.Machine.execGetCapabilities via s
  | .negotiateAlgorithms via p384 => Sys2Proof.Machine.execNegotiateAlgorithms via p384 s
  | .getDigests via => Sys2Proof.Machine.execGetDigests via s
  | .getCertificate via slot => Sys2Proof.Machine.execGetCertificate via slot s
  | .challenge via nonce => Sys2Proof.Machine.execChallenge via nonce s
  | .getMeasurements via idx sign => Sys2Proof.Machine.execGetMeasurements via idx sign s
  | .spdmUnsupportedRequest via code => Sys2Proof.Machine.execSpdmUnsupportedRequest via code s
  | .errRingCtrlWrite fn v => Sys2Proof.Machine.execErrRingCtrlWrite fn v s
  | .modRst level => Sys2Proof.Machine.execModRst level s
  | .epo level => Sys2Proof.Machine.execEpo level s
  | .busRange mv => Sys2Proof.Machine.execBusRange mv s
  | .busbarLoss => Sys2Proof.Machine.execBusbarLoss s
  | .coolantSample inlet outlet flow wet => Sys2Proof.Machine.execCoolantSample inlet outlet flow wet s
  | .leak => Sys2Proof.Machine.execLeak s
  | .powerUpSequence inp => Sys2Proof.Machine.execPowerUpSequence inp s
  | .shutdown bus d => Sys2Proof.Machine.execShutdown bus d s
  | .restart bus d => Sys2Proof.Machine.execRestart bus d s
  | .readWindow bus d => Sys2Proof.Machine.execReadWindow bus d s
  | .writeWindow bus d => Sys2Proof.Machine.execWriteWindow bus d s
  | .pinFunc bus d => Sys2Proof.Machine.execPinFunc bus d s
  | .mfParkEnd pin => Sys2Proof.Machine.execMfParkEnd pin s
  | .status bus d => Sys2Proof.Machine.execStatus bus d s
  | .clearAlert bus d => Sys2Proof.Machine.execClearAlert bus d s
  | .mctp bus d spdm => Sys2Proof.Machine.execMctp bus d spdm s
  | .factory bus d mfgEn => Sys2Proof.Machine.execFactory bus d mfgEn s
  | .smbusUndefinedCommand bus code => Sys2Proof.Machine.execSmbusUndefinedCommand bus code s
  | .alertResponse bus => Sys2Proof.Machine.execAlertResponse bus s
  | .clockLowTimeout bus => Sys2Proof.Machine.execClockLowTimeout bus s
  | .arbitrationLost bus late => Sys2Proof.Machine.execArbitrationLost bus late s
  | .mctpRetry bus expired => Sys2Proof.Machine.execMctpRetry bus expired s
  | .ppsRise => Sys2Proof.Machine.execPpsRise s
  | .ppsFall => Sys2Proof.Machine.execPpsFall s
  | .transceiverEvent pt ev => Sys2Proof.Machine.execTransceiverEvent pt ev s
  | .lowWordRead fn x => Sys2Proof.Machine.execLowWordRead fn x s
  | .ptpLockLost => Sys2Proof.Machine.execPtpLockLost s
  | .bistSliceDone hf => Sys2Proof.Machine.execBistSliceDone hf s
  | .partCmdComplete => Sys2Proof.Machine.execPartCmdComplete s

end Sys2Proof.Machine
end

