-- ==== Sys2Proof/Safety.lean ====
section
/-! DEFINITION. What counts as a safe step, and the canonical forms that every memory of the state keeps. -/

namespace Sys2Proof.Machine

/-- Whether an outcome is a next state. -/
def answersNext : Host.Outcome State Fault Refusal → Bool
  | .next _ => true
  | _ => false

/-- A step that goes on. -/
def safeStepAt (s : State) : Prop := answersNext (step s) = true

/-- Every memory of the state is in canonical form: T2, the memory of each core, the memory of each slice. -/
def memoriesWf (s : State) : Bool :=
  Memory.wf s.tiers.mem && s.cores.all (fun e => Memory.wf e.2.mem) && s.slices.all (fun e => Memory.wf e.2.sram)

end Sys2Proof.Machine
end

