-- ==== Sys2Proof/Certificates/Slice0/Obligations.lean ====
section
/-! DEFINITION. The statements for the provers, one `def Obligations.<Name> : Prop` each, and the words they are stated in. -/

open Sys2Proof Sys2Proof.Machine

namespace Sys2Proof.Claims

/-- Core c is RUNNING and stands at i, or at no latched instruction (R38, R49, R60). -/
def Ready (s : State) (c : CoreId) (i : Instr) : Prop :=
  (s.core c).st = .running ∧ ((s.core c).ir = none ∨ (s.core c).ir = some i)

/-- exec answers that i retired at core c: only that core changed, beside the model's count of free values; its pc is `next`. -/
def Retires (i : Instr) (s : State) (c : CoreId) (next : Word) (P : Core → Prop) : Prop :=
  ∃ k, exec i s = .next { s with cores := Tab.put s.cores (coreKey c) k, draws := s.draws + 2 } ∧
    k.pc = next ∧ k.st = .running ∧ k.ir = none ∧ k.wait = none ∧ P k

/-- exec answers that core c took the core fault path with a cause, at its own pc (R89). -/
def Faults (i : Instr) (s : State) (c : CoreId) (cause : Cause) : Prop :=
  exec i s = .next (coreFault s c cause (s.core c).pc)

/-- exec answers that core c stays at i, RUNNING, with nothing done. -/
def Stalls (i : Instr) (s : State) (c : CoreId) : Prop :=
  exec i s = .next (s.setCore c { s.core c with ir := some i, st := .running, wait := none })

/-- The control registers an instruction may move beside those named in `os`: POISON_SEEN and the counters of R52. -/
def CtlKept (os : List Nat) (k0 k : Core) : Prop := ∀ o, o ∉ [0x04, 0x48, 0x4C, 0x70, 0x74] ++ os → k.ctlW o = k0.ctlW o

/-- k is k0 changed by u, but for the pc, the latch, the state, POISON_SEEN and the counters of R52. -/
def FrameC (os : List Nat) (k0 k : Core) (u : Core → Core) : Prop :=
  k = { u k0 with pc := k.pc, ir := k.ir, wait := k.wait, st := k.st, ctl := k.ctl, cntBeats := k.cntBeats, cntBank := k.cntBank } ∧
    CtlKept os k0 k

def Frame (k0 k : Core) (u : Core → Core) : Prop := FrameC [] k0 k u

/-- Only scalar registers changed. -/
def OnlyS (k0 k : Core) : Prop := Frame k0 k (fun x => { x with s := k.s })

/-- Every scalar register but rd keeps its value; rd holds w, or zero where it is s0 (R33). -/
def SetsS (k0 k : Core) (rd : Fin 32) (w : PWord) : Prop :=
  ∀ r, k.rs r = if r = 0 then PWord.zero else if r = rd then w else k0.rs r

/-- Only address registers changed. -/
def OnlyA (k0 k : Core) : Prop := Frame k0 k (fun x => { x with a := k.a })

def SetsA (k0 k : Core) (ad : Fin 8) (w : PWord) : Prop := ∀ r, k.ra r = if r = ad then w else k0.ra r

/-- Post-increment (R68): a[ab] moves by the offset where asked for; no other address register changes. -/
def Bumps (k0 k : Core) (ab : Fin 8) (post : Bool) (off : Word) : Prop :=
  ∀ r, k.ra r = if post ∧ r = ab then ⟨(k0.ra ab).val + off, false⟩ else k0.ra r

/-- Every predicate but pd keeps its value; pd holds w, or all ones where it is p0 (R33). -/
def SetsP (k0 k : Core) (pd : Fin 8) (w : Word) : Prop :=
  ∀ r, k.rp r = if r = 0 then BitVec.allOnes 32 else if r = pd then w else k0.rp r

/-- Of the vector registers only vd changed, and of the core only vector registers. -/
def OnlyV (k0 k : Core) (vd : Fin 16) : Prop := Frame k0 k (fun x => { x with v := k.v }) ∧ ∀ r, r ≠ vd → k.rv r = k0.rv r

/-- The n bytes of memory from a on hold f 0, f 1, …; every other byte keeps its value (R35, R69). -/
def StoresBytes (k0 k : Core) (a n : Nat) (f : Nat → Byte) : Prop :=
  ∀ x, Memory.byte k.mem x = if a ≤ x ∧ x < a + n then f (x - a) else Memory.byte k0.mem x

end Sys2Proof.Claims

open Sys2Proof.Claims

/-- The results of the two-source scalar operations (R64, R65), in exact arithmetic and then narrowed. -/
def Sys2Proof.Claims.aluResults : List ((CoreId → Fin 32 → Fin 32 → Fin 32 → Instr) × (Word → Word → Word)) :=
  [(.add, fun a b => BitVec.ofInt 32 (a.toInt + b.toInt)),
   (.sub, fun a b => BitVec.ofInt 32 (a.toInt - b.toInt)),
   (.and, fun a b => BitVec.ofNat 32 (a.toNat &&& b.toNat)),
   (.or, fun a b => BitVec.ofNat 32 (a.toNat ||| b.toNat)),
   (.xor, fun a b => BitVec.ofNat 32 (a.toNat ^^^ b.toNat)),
   (.sll, fun a b => BitVec.ofNat 32 (a.toNat * 2 ^ (b.toNat % 32))),
   (.srl, fun a b => BitVec.ofNat 32 (a.toNat / 2 ^ (b.toNat % 32))),
   (.sra, fun a b => BitVec.ofInt 32 (a.toInt / 2 ^ (b.toNat % 32))),
   (.slt, fun a b => if a.toInt < b.toInt then 1 else 0),
   (.sltu, fun a b => if a.toNat < b.toNat then 1 else 0),
   (.min, fun a b => BitVec.ofInt 32 (min a.toInt b.toInt)),
   (.max, fun a b => BitVec.ofInt 32 (max a.toInt b.toInt)),
   (.minu, fun a b => BitVec.ofNat 32 (min a.toNat b.toNat)),
   (.maxu, fun a b => BitVec.ofNat 32 (max a.toNat b.toNat)),
   (.mul, fun a b => BitVec.ofInt 32 (a.toInt * b.toInt)),
   (.mulh, fun a b => BitVec.ofInt 32 (a.toInt * b.toInt / 2 ^ 32)),
   (.mulhu, fun a b => BitVec.ofNat 32 (a.toNat * b.toNat / 2 ^ 32)),
   (.div, fun a b => if b = 0 then 0xFFFFFFFF else BitVec.ofInt 32 (a.toInt.tdiv b.toInt)),
   (.divu, fun a b => if b = 0 then 0xFFFFFFFF else BitVec.ofNat 32 (a.toNat / b.toNat)),
   (.rem, fun a b => if b = 0 then a else BitVec.ofInt 32 (a.toInt.tmod b.toInt)),
   (.remu, fun a b => if b = 0 then a else BitVec.ofNat 32 (a.toNat % b.toNat))]

/-- R33, R34, R64, R65: at a RUNNING core each two-source scalar operation retires with its result in s[rd], poisoned where a source is
(POISON_SEEN is then set); s0 reads as zero whatever is written; no other register, no memory and no other core changes. -/
def Sys2Proof.Claims.ScalarRegisterResults : Prop :=
  ∀ e ∈ aluResults, ∀ (s : State) (c : CoreId) (rd rs1 rs2 : Fin 32), Ready s c (e.1 c rd rs1 rs2) →
    let k0 := s.core c
    let w : PWord := ⟨e.2 (k0.rs rs1).val (k0.rs rs2).val, (k0.rs rs1).poison || (k0.rs rs2).poison⟩
    Retires (e.1 c rd rs1 rs2) s c (k0.pc + 4) (fun k =>
      OnlyS k0 k ∧ SetsS k0 k rd w ∧ k.ctlW 0x04 = (if w.poison then k0.ctlW 0x04 ||| 8 else k0.ctlW 0x04))

/-- The results of the one-source operations and of the immediate forms (R64, R66). imm16 is extended from bit 15 for addi, slti and
sltiu, and with zeros for andi, ori and xori. -/
def Sys2Proof.Claims.immResults (rs1 : Fin 32) (imm : BitVec 16) (amt : Fin 32) : List ((CoreId → Fin 32 → Instr) × (Word → Word)) :=
  [(fun c rd => .clz c rd rs1, fun a => if a = 0 then 32 else BitVec.ofNat 32 (31 - Nat.log2 a.toNat)),
   (fun c rd => .popc c rd rs1, fun a => BitVec.ofNat 32 ((List.range 32).filter (fun i => a.toNat.testBit i)).length),
   (fun c rd => .addi c rd rs1 imm, fun a => BitVec.ofInt 32 (a.toInt + imm.toInt)),
   (fun c rd => .andi c rd rs1 imm, fun a => BitVec.ofNat 32 (a.toNat &&& imm.toNat)),
   (fun c rd => .ori c rd rs1 imm, fun a => BitVec.ofNat 32 (a.toNat ||| imm.toNat)),
   (fun c rd => .xori c rd rs1 imm, fun a => BitVec.ofNat 32 (a.toNat ^^^ imm.toNat)),
   (fun c rd => .slti c rd rs1 imm, fun a => if a.toInt < imm.toInt then 1 else 0),
   (fun c rd => .sltiu c rd rs1 imm, fun a => if a.toNat < (BitVec.ofInt 32 imm.toInt).toNat then 1 else 0),
   (fun c rd => .shifti c rd rs1 .sll amt, fun a => BitVec.ofNat 32 (a.toNat * 2 ^ amt.val)),
   (fun c rd => .shifti c rd rs1 .srl amt, fun a => BitVec.ofNat 32 (a.toNat / 2 ^ amt.val)),
   (fun c rd => .shifti c rd rs1 .sra amt, fun a => BitVec.ofInt 32 (a.toInt / 2 ^ amt.val))]

/-- R64, R66: each one-source operation and immediate form retires with its result in s[rd], poisoned where its source is. lui and li
write their constant, li being a long form (R60). -/
def Sys2Proof.Claims.ScalarImmediateResults : Prop :=
  (∀ (rs1 : Fin 32) (imm : BitVec 16) (amt : Fin 32), ∀ e ∈ immResults rs1 imm amt, ∀ (s : State) (c : CoreId) (rd : Fin 32),
    Ready s c (e.1 c rd) →
      let k0 := s.core c
      Retires (e.1 c rd) s c (k0.pc + 4) (fun k => OnlyS k0 k ∧ SetsS k0 k rd ⟨e.2 (k0.rs rs1).val, (k0.rs rs1).poison⟩)) ∧
  (∀ (s : State) (c : CoreId) (rd : Fin 32) (imm : BitVec 16), Ready s c (.lui c rd imm) →
    Retires (.lui c rd imm) s c ((s.core c).pc + 4) (fun k =>
      OnlyS (s.core c) k ∧ SetsS (s.core c) k rd ⟨BitVec.ofNat 32 (imm.toNat * 65536), false⟩)) ∧
  (∀ (s : State) (c : CoreId) (rd : Fin 32) (imm : BitVec 32), Ready s c (.li c rd imm) →
    Retires (.li c rd imm) s c ((s.core c).pc + 8) (fun k => OnlyS (s.core c) k ∧ SetsS (s.core c) k rd ⟨imm, false⟩))

/-- R67: the address operations write a[ad] modulo 2^32; a poisoned source of amov, aadd or aaddi raises POISON_ADDR; smov copies the
tag; ali is a long form. -/
def Sys2Proof.Claims.AddressRegisterResults : Prop :=
  (∀ (s : State) (c : CoreId) (ad : Fin 8) (rs1 : Fin 32), Ready s c (.amov c ad rs1) →
    let k0 := s.core c
    if (k0.rs rs1).poison then Faults (.amov c ad rs1) s c POISON_ADDR
    else Retires (.amov c ad rs1) s c (k0.pc + 4) (fun k => OnlyA k0 k ∧ SetsA k0 k ad ⟨(k0.rs rs1).val, false⟩)) ∧
  (∀ (s : State) (c : CoreId) (rd : Fin 32) (as1 : Fin 8), Ready s c (.smov c rd as1) →
    let k0 := s.core c
    Retires (.smov c rd as1) s c (k0.pc + 4) (fun k => OnlyS k0 k ∧ SetsS k0 k rd (k0.ra as1))) ∧
  (∀ (s : State) (c : CoreId) (ad as1 : Fin 8) (rs2 : Fin 32), Ready s c (.aadd c ad as1 rs2) →
    let k0 := s.core c
    if (k0.ra as1).poison || (k0.rs rs2).poison then Faults (.aadd c ad as1 rs2) s c POISON_ADDR
    else Retires (.aadd c ad as1 rs2) s c (k0.pc + 4) (fun k =>
      OnlyA k0 k ∧ SetsA k0 k ad ⟨BitVec.ofNat 32 ((k0.ra as1).val.toNat + (k0.rs rs2).val.toNat), false⟩)) ∧
  (∀ (s : State) (c : CoreId) (ad as1 : Fin 8) (imm : BitVec 16), Ready s c (.aaddi c ad as1 imm) →
    let k0 := s.core c
    if (k0.ra as1).poison then Faults (.aaddi c ad as1 imm) s c POISON_ADDR
    else Retires (.aaddi c ad as1 imm) s c (k0.pc + 4) (fun k =>
      OnlyA k0 k ∧ SetsA k0 k ad ⟨BitVec.ofInt 32 ((k0.ra as1).val.toInt + imm.toInt), false⟩)) ∧
  (∀ (s : State) (c : CoreId) (ad : Fin 8) (imm : BitVec 32), Ready s c (.ali c ad imm) →
    Retires (.ali c ad imm) s c ((s.core c).pc + 8) (fun k => OnlyA (s.core c) k ∧ SetsA (s.core c) k ad ⟨imm, false⟩))

/-- What each scalar, immediate and address-register instruction writes, what it counts, and that nothing else changes. -/
def Obligations.ScalarResults : Prop := Claims.ScalarRegisterResults ∧ Claims.ScalarImmediateResults ∧ Claims.AddressRegisterResults

/-- Loads by width, and how a loaded number becomes a word (R68). -/
def Sys2Proof.Claims.loadForms : List ((CoreId → Fin 32 → Fin 8 → Bool → BitVec 16 → Instr) × Nat × (Nat → Word)) :=
  [(.lw, 4, fun v => BitVec.ofNat 32 v),
   (.lh, 2, fun v => if v < 2 ^ 15 then BitVec.ofNat 32 v else BitVec.ofInt 32 (v - 2 ^ 16)),
   (.lhu, 2, fun v => BitVec.ofNat 32 v),
   (.lb, 1, fun v => if v < 2 ^ 7 then BitVec.ofNat 32 v else BitVec.ofInt 32 (v - 2 ^ 8)),
   (.lbu, 1, fun v => BitVec.ofNat 32 v)]

/-- R41: what a core that reads its memory sees of a word to which deliveries are pending is the word it holds or one that they bring; of
every other word it sees the one it holds. -/
def Sys2Proof.Claims.SeenWords : Prop :=
  ∀ (s : State) (n : Nat) (k : Core) (i : Nat),
    (k.seen s n).memWord (4 * i) = k.memWord (4 * i) ∨ ∃ e ∈ pendingWords s n, e.1 = i ∧ (k.seen s n).memWord (4 * i) = e.2

/-- R36, R41, R68, R69: a scalar load from near or stack memory writes s[rt] with its bytes, little-endian, extended as its mnemonic says,
and with the tag of the word that holds them; with post-increment it also moves a[ab]. A poisoned base raises POISON_ADDR; a misaligned
address, an unmapped one, or a narrow access to a control register raises LOAD_ADDR. -/
def Sys2Proof.Claims.ScalarLoads : Prop :=
  ∀ e ∈ loadForms, ∀ (s : State) (c : CoreId) (rt : Fin 32) (ab : Fin 8) (post : Bool) (imm : BitVec 16),
    Ready s c (e.1 c rt ab post imm) →
      let k0 := s.core c
      let a := k0.ea ab post (sext16 imm)
      if (k0.ra ab).poison then Faults (e.1 c rt ab post imm) s c POISON_ADDR
      else if a % e.2.1 ≠ 0 ∨ regionOf a e.2.1 = .none ∨ (regionOf a e.2.1 = .ctl ∧ e.2.1 ≠ 4) then
        Faults (e.1 c rt ab post imm) s c LOAD_ADDR
      else if inMem a e.2.1 then
        Retires (e.1 c rt ab post imm) s c (k0.pc + 4) (fun k =>
          Frame k0 k (fun x => { x with s := k.s, a := k.a }) ∧ Bumps k0 k ab post (sext16 imm) ∧
          SetsS k0 k rt ⟨e.2.2 (Memory.nat (k0.seen s (coreKey c)).mem a e.2.1), Tab.get false (k0.seen s (coreKey c)).memTag (a / 4)⟩)
      else if ctlWaits (a - 0x31000) ∧ k0.mmBusy then Stalls (e.1 c rt ab post imm) s c
      else
        Retires (e.1 c rt ab post imm) s c (k0.pc + 4) (fun k =>
          Frame k0 k (fun x => { x with s := k.s, a := k.a, shadow := k.shadow }) ∧ Bumps k0 k ab post (sext16 imm) ∧
          SetsS k0 k rt ⟨(ctlLoad s (coreKey c) k0 (a - 0x31000)).1, false⟩)

/-- Stores by width (R68). -/
def Sys2Proof.Claims.storeForms : List ((CoreId → Fin 32 → Fin 8 → Bool → BitVec 16 → Instr) × Nat) := [(.sw, 4), (.sh, 2), (.sb, 1)]

/-- R36, R53, R68 to R70, R85, R105: a scalar store to near or stack memory writes the low bytes of s[rt], little-endian, at its address and
no other byte; the word's tag becomes the register's for a whole word, and gathers both for a part. A store that overlaps words a queued
send or an mm has still to read waits. A store to a control register of a core changes no memory; a counter written holds what was written; CORE_PU_REPORT and the lane enables have
statements of their own. -/
def Sys2Proof.Claims.ScalarStores : Prop :=
  ∀ e ∈ storeForms, ∀ (s : State) (c : CoreId) (rt : Fin 32) (ab : Fin 8) (post : Bool) (imm : BitVec 16),
    Ready s c (e.1 c rt ab post imm) →
      let k0 := s.core c
      let a := k0.ea ab post (sext16 imm)
      if (k0.ra ab).poison then Faults (e.1 c rt ab post imm) s c POISON_ADDR
      else if a % e.2 ≠ 0 ∨ regionOf a e.2 = .none ∨ (regionOf a e.2 = .ctl ∧ e.2 ≠ 4) then Faults (e.1 c rt ab post imm) s c STORE_ADDR
      else if inMem a e.2 then
        (if k0.storeHeld a e.2 then Stalls (e.1 c rt ab post imm) s c
        else Retires (e.1 c rt ab post imm) s c (k0.pc + 4) (fun k =>
          Frame k0 k (fun x => { x with mem := k.mem, memTag := k.memTag, a := k.a }) ∧ Bumps k0 k ab post (sext16 imm) ∧
          StoresBytes k0 k a e.2 (fun i => BitVec.ofNat 8 ((k0.rs rt).val.toNat / 256 ^ i)) ∧
          ∀ j, Tab.get false k.memTag j =
            if j = a / 4 then (k0.rs rt).poison || (decide (e.2 ≠ 4) && Tab.get false k0.memTag j) else Tab.get false k0.memTag j))
      else
        let o := a - 0x31000
        let w := (k0.rs rt).val
        if (k0.rs rt).poison then Faults (e.1 c rt ab post imm) s c POISON_CTRL
        else if ctlWaits o ∧ k0.mmBusy then Stalls (e.1 c rt ab post imm) s c
        else if o = 0xC4 ∨ o = 0x100 ∨ o = 0x104 then True
        else Retires (e.1 c rt ab post imm) s c (k0.pc + 4) (fun k =>
          let x := ctlStore s (coreKey c) k0 o w
          k.mem = k0.mem ∧ k.memTag = k0.memTag ∧ k.s = k0.s ∧ k.v = k0.v ∧ k.p = k0.p ∧ k.d = k0.d ∧ k.acc = k0.acc ∧ k.fb = x.fb ∧
          k.held = x.held ∧ Bumps k0 k ab post (sext16 imm) ∧ (∀ j, j ≠ 0x48 → j ≠ 0x4C → k.ctlW j = x.ctlW j) ∧
          (4 ≤ o → ctlLow64 (o - 4) → k.ctl64 (o - 4) = x.ctl64 (o - 4)))

/-- Scalar loads and stores: the value, pending deliveries included, the bytes stored to, post-increment, tags, and the faults of a
misaligned or absent address. -/
def Obligations.ScalarMemory : Prop := Claims.SeenWords ∧ Claims.ScalarLoads ∧ Claims.ScalarStores

/-- R41, R68, R69, R74: vld moves the enabled bytes of 32 bytes at a 32-byte address, as the core sees them, into v[vt], vst the enabled bytes of v[vt] to memory;
bytes not enabled, other registers and other memory stay. -/
def Obligations.VectorLoadStore : Prop :=
  (∀ (s : State) (c : CoreId) (vt : Fin 16) (ab pg : Fin 8) (post : Bool) (imm : BitVec 14), Ready s c (.vld c vt ab pg post imm) →
    let k0 := s.core c
    let a := k0.ea ab post (off14 imm)
    if (k0.ra ab).poison then Faults (.vld c vt ab pg post imm) s c POISON_ADDR
    else if a % 32 ≠ 0 ∨ inMem a 32 = false then Faults (.vld c vt ab pg post imm) s c LOAD_ADDR
    else Retires (.vld c vt ab pg post imm) s c (k0.pc + 4) (fun k =>
      Frame k0 k (fun x => { x with v := k.v, a := k.a }) ∧ Bumps k0 k ab post (off14 imm) ∧ (∀ r, r ≠ vt → k.rv r = k0.rv r) ∧
      ∀ i, i < 32 → (k.rv vt).lane .u8 i =
        if (k0.rp pg).getLsbD i then (Memory.byte (k0.seen s (coreKey c)).mem (a + i)).toNat else (k0.rv vt).lane .u8 i)) ∧
  (∀ (s : State) (c : CoreId) (vt : Fin 16) (ab pg : Fin 8) (post : Bool) (imm : BitVec 14), Ready s c (.vst c vt ab pg post imm) →
    let k0 := s.core c
    let a := k0.ea ab post (off14 imm)
    if (k0.ra ab).poison then Faults (.vst c vt ab pg post imm) s c POISON_ADDR
    else if a % 32 ≠ 0 ∨ inMem a 32 = false then Faults (.vst c vt ab pg post imm) s c STORE_ADDR
    else if (List.range 8).any (fun j => anyByte (k0.rp pg) j && k0.storeHeld (a + 4 * j) 4) then Stalls (.vst c vt ab pg post imm) s c
    else Retires (.vst c vt ab pg post imm) s c (k0.pc + 4) (fun k =>
      Frame k0 k (fun x => { x with mem := k.mem, memTag := k.memTag, a := k.a }) ∧ Bumps k0 k ab post (off14 imm) ∧
      StoresBytes k0 k a 32 (fun i =>
        if (k0.rp pg).getLsbD i then BitVec.ofNat 8 ((k0.rv vt).lane .u8 i) else Memory.byte k0.mem (a + i))))

/-- The results of the predicate operations (R71). -/
def Sys2Proof.Claims.predResults : List ((CoreId → Fin 8 → Fin 8 → Fin 8 → Instr) × (Bool → Bool → Bool)) :=
  [(.pand, fun a b => a && b), (.por, fun a b => a || b), (.pxor, fun a b => a != b), (.pandn, fun a b => a && !b)]

/-- R33, R71, R72: predicate operations bit by bit; p0 stays all ones; moves between predicates and scalar registers. -/
def Sys2Proof.Claims.PredicateResults : Prop :=
  (∀ e ∈ predResults, ∀ (s : State) (c : CoreId) (pd ps1 ps2 : Fin 8), Ready s c (e.1 c pd ps1 ps2) →
    let k0 := s.core c
    Retires (e.1 c pd ps1 ps2) s c (k0.pc + 4) (fun k => ∃ w, Frame k0 k (fun x => { x with p := k.p }) ∧ SetsP k0 k pd w ∧
      ∀ i, i < 32 → w.getLsbD i = e.2 ((k0.rp ps1).getLsbD i) ((k0.rp ps2).getLsbD i))) ∧
  (∀ (s : State) (c : CoreId) (pd ps1 : Fin 8), Ready s c (.pnot c pd ps1) →
    let k0 := s.core c
    Retires (.pnot c pd ps1) s c (k0.pc + 4) (fun k => ∃ w, Frame k0 k (fun x => { x with p := k.p }) ∧ SetsP k0 k pd w ∧
      ∀ i, i < 32 → w.getLsbD i = !(k0.rp ps1).getLsbD i)) ∧
  (∀ (s : State) (c : CoreId) (pd : Fin 8) (rs1 : Fin 32), Ready s c (.pmovs c pd rs1) →
    let k0 := s.core c
    Retires (.pmovs c pd rs1) s c (k0.pc + 4) (fun k => Frame k0 k (fun x => { x with p := k.p }) ∧
      SetsP k0 k pd (if (k0.rs rs1).poison then 0 else (k0.rs rs1).val))) ∧
  (∀ (s : State) (c : CoreId) (rd : Fin 32) (ps1 : Fin 8), Ready s c (.smovp c rd ps1) →
    let k0 := s.core c
    Retires (.smovp c rd ps1) s c (k0.pc + 4) (fun k => OnlyS k0 k ∧ SetsS k0 k rd ⟨k0.rp ps1, false⟩)) ∧
  (∀ (s : State) (c : CoreId) (rd : Fin 32) (ps1 : Fin 8), Ready s c (.pcnt c rd ps1) →
    let k0 := s.core c
    Retires (.pcnt c rd ps1) s c (k0.pc + 4) (fun k => OnlyS k0 k ∧
      SetsS k0 k rd ⟨BitVec.ofNat 32 ((List.range 32).filter (fun i => (k0.rp ps1).getLsbD i)).length, false⟩))

/-- The result of an operation on two lanes, modulo 2^width: floats by R76, integers exactly (R75). -/
def Sys2Proof.Claims.lane2 (f : FV → FV → FV) (g : Int → Int → Int) (ty : LaneTy) (a b : Nat) : Nat :=
  if isFloat ty then encIeee (laneFmt ty) (f (ieeeOf (laneFmt ty) a) (ieeeOf (laneFmt ty) b)) % 2 ^ (8 * laneBytes ty)
  else (g (laneInt ty a) (laneInt ty b) % 2 ^ (8 * laneBytes ty)).toNat

/-- The two-source lane operations: the lane types each is listed for, and its result (R75). -/
def Sys2Proof.Claims.vec2Results : List ((CoreId → LaneTy → Fin 8 → Fin 16 → Fin 16 → Fin 16 → Instr) × (LaneTy → Bool) × (LaneTy → Nat → Nat → Nat)) :=
  [(.vadd, fun _ => true, lane2 fadd (· + ·)),
   (.vsub, fun _ => true, lane2 (fun x y => fadd x (fneg y)) (· - ·)),
   (.vmul, fun _ => true, lane2 fmul (· * ·)),
   (.vmin, fun _ => true, lane2 fmin min),
   (.vmax, fun _ => true, lane2 fmax max),
   (.vand, fun _ => true, fun _ a b => a &&& b),
   (.vor, fun _ => true, fun _ a b => a ||| b),
   (.vxor, fun _ => true, fun _ a b => a ^^^ b),
   (.vsll, fun ty => !isFloat ty, fun ty a b => a * 2 ^ (b % (8 * laneBytes ty)) % 2 ^ (8 * laneBytes ty)),
   (.vsrl, fun ty => !isFloat ty, fun ty a b => a / 2 ^ (b % (8 * laneBytes ty))),
   (.vsra, fun ty => !isFloat ty, fun ty a b =>
     ((if a < 2 ^ (8 * laneBytes ty - 1) then (a : Int) else a - 2 ^ (8 * laneBytes ty)) / 2 ^ (b % (8 * laneBytes ty)) %
       2 ^ (8 * laneBytes ty)).toNat)]

/-- Lane i of a register, below the lanes of its type, is f i; of the tags only those of words with a changed lane may change. -/
def Sys2Proof.Claims.Lanes (x : VReg) (ty : LaneTy) (f : Nat → Nat) : Prop := ∀ i, i < laneCount ty → x.lane ty i = f i

/-- R73 to R75, R78: a two-source vector operation writes each enabled lane of v[vd] with its result and leaves the others; a word of
v[vd] all of whose lanes are enabled is poisoned exactly where a source word is. An unlisted lane type raises ILLEGAL (R87). -/
def Sys2Proof.Claims.VectorLaneResults : Prop :=
  ∀ e ∈ vec2Results, ∀ (s : State) (c : CoreId) (ty : LaneTy) (pg : Fin 8) (vd va vb : Fin 16), Ready s c (e.1 c ty pg vd va vb) →
    let k0 := s.core c
    if e.2.1 ty = false then Faults (e.1 c ty pg vd va vb) s c ILLEGAL
    else Retires (e.1 c ty pg vd va vb) s c (k0.pc + 4) (fun k => OnlyV k0 k vd ∧
      Lanes (k.rv vd) ty (fun i =>
        if (k0.rp pg).getLsbD (i * laneBytes ty) then e.2.2 ty ((k0.rv va).lane ty i) ((k0.rv vb).lane ty i) else (k0.rv vd).lane ty i) ∧
      ∀ j, j < 8 → (∀ i, i < laneCount ty → i * laneBytes ty / 4 = j → (k0.rp pg).getLsbD (i * laneBytes ty)) →
        (k.rv vd).tag.getLsbD j = ((k0.rv va).tag.getLsbD j || (k0.rv vb).tag.getLsbD j))

/-- R75, R76: vfma adds the old lane of v[vd] to the product, floats with one rounding; vabs and vneg; U8 has no vabs or vneg. -/
def Sys2Proof.Claims.VectorFusedAndSign : Prop :=
  (∀ (s : State) (c : CoreId) (ty : LaneTy) (pg : Fin 8) (vd va vb : Fin 16), Ready s c (.vfma c ty pg vd va vb) →
    let k0 := s.core c
    Retires (.vfma c ty pg vd va vb) s c (k0.pc + 4) (fun k => OnlyV k0 k vd ∧ Lanes (k.rv vd) ty (fun i =>
      let a := (k0.rv va).lane ty i
      let b := (k0.rv vb).lane ty i
      let d := (k0.rv vd).lane ty i
      if (k0.rp pg).getLsbD (i * laneBytes ty) = false then d
      else if isFloat ty then encIeee (laneFmt ty) (fadd (fmul (ieeeOf (laneFmt ty) a) (ieeeOf (laneFmt ty) b)) (ieeeOf (laneFmt ty) d)) % 2 ^ (8 * laneBytes ty)
      else ((laneInt ty a * laneInt ty b + laneInt ty d) % 2 ^ (8 * laneBytes ty)).toNat))) ∧
  (∀ (s : State) (c : CoreId) (ty : LaneTy) (pg : Fin 8) (vd va : Fin 16), Ready s c (.vabs c ty pg vd va) →
    let k0 := s.core c
    if ty = .u8 then Faults (.vabs c ty pg vd va) s c ILLEGAL
    else Retires (.vabs c ty pg vd va) s c (k0.pc + 4) (fun k => OnlyV k0 k vd ∧ Lanes (k.rv vd) ty (fun i =>
      let a := (k0.rv va).lane ty i
      if (k0.rp pg).getLsbD (i * laneBytes ty) = false then (k0.rv vd).lane ty i
      else if isFloat ty then encIeee (laneFmt ty) (fabs (ieeeOf (laneFmt ty) a)) % 2 ^ (8 * laneBytes ty)
      else (laneInt ty a).natAbs % 2 ^ (8 * laneBytes ty)))) ∧
  (∀ (s : State) (c : CoreId) (ty : LaneTy) (pg : Fin 8) (vd va : Fin 16), Ready s c (.vneg c ty pg vd va) →
    let k0 := s.core c
    if ty = .u8 then Faults (.vneg c ty pg vd va) s c ILLEGAL
    else Retires (.vneg c ty pg vd va) s c (k0.pc + 4) (fun k => OnlyV k0 k vd ∧ Lanes (k.rv vd) ty (fun i =>
      let a := (k0.rv va).lane ty i
      if (k0.rp pg).getLsbD (i * laneBytes ty) = false then (k0.rv vd).lane ty i
      else if isFloat ty then encIeee (laneFmt ty) (fneg (ieeeOf (laneFmt ty) a)) % 2 ^ (8 * laneBytes ty)
      else (-(laneInt ty a) % 2 ^ (8 * laneBytes ty)).toNat)))

/-- The values that R76 and R135 fix for the three approximated functions, as codes of the lane's format. -/
def Sys2Proof.Claims.approxFixed : List ((CoreId → LaneTy → Fin 8 → Fin 16 → Fin 16 → Instr) × (BinFmt → FV → Option Nat)) :=
  [(.vexp2, fun f v => match v with
     | .nan => some (nanCode f)
     | .inf neg => some (if neg then 0 else infCode f)
     | .fin _ m _ => if m = 0 then some (encIeee f (.fin false 1 0)) else none),
   (.vrcp, fun f v => match v with
     | .nan => some (nanCode f)
     | .inf neg => some (signBit f neg)
     | .fin neg m _ => if m = 0 then some (signBit f neg + infCode f) else none),
   (.vrsqrt, fun f v => match v with
     | .nan => some (nanCode f)
     | .inf neg => some (if neg then nanCode f else 0)
     | .fin neg m _ => if m = 0 then some (signBit f neg + infCode f) else if neg then some (nanCode f) else none)]

/-- R75, R76, R135: vexp2, vrcp and vrsqrt retire on float lanes, writing only enabled lanes of v[vd]; where R76 fixes the value of an
enabled lane, it has that value. Other lane types raise ILLEGAL. What the functions give elsewhere is free (log entry 14). -/
def Sys2Proof.Claims.VectorApproximations : Prop :=
  ∀ e ∈ approxFixed, ∀ (s : State) (c : CoreId) (ty : LaneTy) (pg : Fin 8) (vd va : Fin 16), Ready s c (e.1 c ty pg vd va) →
    let k0 := s.core c
    if isFloat ty = false then Faults (e.1 c ty pg vd va) s c ILLEGAL
    else Retires (e.1 c ty pg vd va) s c (k0.pc + 4) (fun k => OnlyV k0 k vd ∧ ∀ i, i < laneCount ty →
      (if (k0.rp pg).getLsbD (i * laneBytes ty) = false then (k.rv vd).lane ty i = (k0.rv vd).lane ty i
       else ∀ z, e.2 (laneFmt ty) (ieeeOf (laneFmt ty) ((k0.rv va).lane ty i)) = some z → (k.rv vd).lane ty i = z % 2 ^ (8 * laneBytes ty)))

/-- Lane arithmetic of the vector unit under its predicate, with the poison of each word. -/
def Obligations.VectorArithmetic : Prop := Claims.VectorLaneResults ∧ Claims.VectorFusedAndSign ∧ Claims.VectorApproximations

/-- The comparisons (R75). -/
def Sys2Proof.Claims.cmpResults : List ((CoreId → LaneTy → Fin 8 → Fin 8 → Fin 16 → Fin 16 → Instr) × (FV → FV → Bool) × (Int → Int → Bool)) :=
  [(.vcmpeq, feq, fun a b => decide (a = b)), (.vcmplt, flt, fun a b => decide (a < b)),
   (.vcmple, fun x y => flt x y || feq x y, fun a b => decide (a ≤ b))]

/-- R72, R74, R75: a comparison writes every byte of each enabled lane's result into p[pd], 0 for disabled lanes and for lanes that
derive from a poisoned word; vsel takes each lane from v[va] or v[vb]. -/
def Sys2Proof.Claims.VectorCompareAndSelect : Prop :=
  (∀ e ∈ cmpResults, ∀ (s : State) (c : CoreId) (ty : LaneTy) (pg pd : Fin 8) (va vb : Fin 16), Ready s c (e.1 c ty pg pd va vb) →
    let k0 := s.core c
    Retires (e.1 c ty pg pd va vb) s c (k0.pc + 4) (fun k => ∃ w, Frame k0 k (fun x => { x with p := k.p }) ∧ SetsP k0 k pd w ∧
      ∀ j, j < 32 → w.getLsbD j =
        let i := j / laneBytes ty
        let a := (k0.rv va).lane ty i
        let b := (k0.rv vb).lane ty i
        ((k0.rp pg).getLsbD (i * laneBytes ty) && !(k0.rv va).tag.getLsbD (j / 4) && !(k0.rv vb).tag.getLsbD (j / 4) &&
          (if isFloat ty then e.2.1 (ieeeOf (laneFmt ty) a) (ieeeOf (laneFmt ty) b) else e.2.2 (laneInt ty a) (laneInt ty b))))) ∧
  (∀ (s : State) (c : CoreId) (ty : LaneTy) (pg : Fin 8) (vd va vb : Fin 16), Ready s c (.vsel c ty pg vd va vb) →
    let k0 := s.core c
    Retires (.vsel c ty pg vd va vb) s c (k0.pc + 4) (fun k => OnlyV k0 k vd ∧ Lanes (k.rv vd) ty (fun i =>
      if (k0.rp pg).getLsbD (i * laneBytes ty) then (k0.rv va).lane ty i else (k0.rv vb).lane ty i)))

/-- R75, R77, R78: a reduction writes its result to every lane of v[vd]: for vredadd on I32 the wrapped sum of the enabled lanes, for
vredmax on an integer type their maximum, or the type's least value where none is enabled. vredadd on another integer type raises ILLEGAL. -/
def Sys2Proof.Claims.VectorReductions : Prop :=
  (∀ (s : State) (c : CoreId) (ty : LaneTy) (pg : Fin 8) (vd va : Fin 16), Ready s c (.vredadd c ty pg vd va) →
    let k0 := s.core c
    if isFloat ty = false ∧ ty ≠ .i32 then Faults (.vredadd c ty pg vd va) s c ILLEGAL
    else Retires (.vredadd c ty pg vd va) s c (k0.pc + 4) (fun k => OnlyV k0 k vd ∧ (∀ i, i < laneCount ty → (k.rv vd).lane ty i = (k.rv vd).lane ty 0) ∧
      (ty = .i32 → (k.rv vd).lane ty 0 =
        ((((List.range 8).filter (fun i => (k0.rp pg).getLsbD (4 * i))).map (fun i => laneInt .i32 ((k0.rv va).lane .i32 i))).sum % 2 ^ 32).toNat))) ∧
  (∀ (s : State) (c : CoreId) (ty : LaneTy) (pg : Fin 8) (vd va : Fin 16), Ready s c (.vredmax c ty pg vd va) →
    let k0 := s.core c
    Retires (.vredmax c ty pg vd va) s c (k0.pc + 4) (fun k => OnlyV k0 k vd ∧ (∀ i, i < laneCount ty → (k.rv vd).lane ty i = (k.rv vd).lane ty 0) ∧
      (isFloat ty = false →
        (∀ i, i < laneCount ty → (k0.rp pg).getLsbD (i * laneBytes ty) → laneInt ty ((k0.rv va).lane ty i) ≤ laneInt ty ((k.rv vd).lane ty 0)) ∧
        ((∃ i, i < laneCount ty ∧ (k0.rp pg).getLsbD (i * laneBytes ty) ∧ laneInt ty ((k.rv vd).lane ty 0) = laneInt ty ((k0.rv va).lane ty i)) ∨
          laneInt ty ((k.rv vd).lane ty 0) = if ty = .u8 then 0 else -2 ^ (8 * laneBytes ty - 1)))))

/-- Vector comparison, selection and reduction. -/
def Obligations.VectorCompareAndReduce : Prop := Claims.VectorCompareAndSelect ∧ Claims.VectorReductions

/-- R79: moves between scalar and vector registers. A lane number beyond the type's lanes raises ILLEGAL (R87). -/
def Sys2Proof.Claims.VectorScalarMoves : Prop :=
  (∀ (s : State) (c : CoreId) (ty : LaneTy) (vd : Fin 16) (rs : Fin 32), Ready s c (.vbcast c ty vd rs) →
    let k0 := s.core c
    Retires (.vbcast c ty vd rs) s c (k0.pc + 4) (fun k => OnlyV k0 k vd ∧
      Lanes (k.rv vd) ty (fun _ => (k0.rs rs).val.toNat % 2 ^ (8 * laneBytes ty)))) ∧
  (∀ (s : State) (c : CoreId) (ty : LaneTy) (rd : Fin 32) (va : Fin 16) (lane : Fin 32), Ready s c (.vext c ty rd va lane) →
    let k0 := s.core c
    let a := (k0.rv va).lane ty lane.val
    if laneCount ty ≤ lane.val then Faults (.vext c ty rd va lane) s c ILLEGAL
    else Retires (.vext c ty rd va lane) s c (k0.pc + 4) (fun k => OnlyS k0 k ∧
      SetsS k0 k rd ⟨if ty = .i16 ∨ ty = .i8 then BitVec.ofInt 32 (laneInt ty a) else BitVec.ofNat 32 a,
        (k0.rv va).tag.getLsbD (lane.val * laneBytes ty / 4)⟩)) ∧
  (∀ (s : State) (c : CoreId) (ty : LaneTy) (vd : Fin 16) (rs lane : Fin 32), Ready s c (.vins c ty vd rs lane) →
    let k0 := s.core c
    if laneCount ty ≤ lane.val then Faults (.vins c ty vd rs lane) s c ILLEGAL
    else Retires (.vins c ty vd rs lane) s c (k0.pc + 4) (fun k => OnlyV k0 k vd ∧
      Lanes (k.rv vd) ty (fun i => if i = lane.val then (k0.rs rs).val.toNat % 2 ^ (8 * laneBytes ty) else (k0.rv vd).lane ty i))) ∧
  (∀ (s : State) (c : CoreId) (ty : LaneTy) (vd : Fin 16) (imm : BitVec 32), Ready s c (.vbcasti c ty vd imm) →
    let k0 := s.core c
    Retires (.vbcasti c ty vd imm) s c (k0.pc + 8) (fun k => OnlyV k0 k vd ∧
      Lanes (k.rv vd) ty (fun _ => imm.toNat % 2 ^ (8 * laneBytes ty))))

/-- Predicate instructions and the moves between vector and scalar registers. -/
def Obligations.PredicatesAndMoves : Prop := Claims.PredicateResults ∧ Claims.VectorScalarMoves

/-- R95, R136 to R138, R142: vqscale and vquant read the 32 elements of a wide block and write v[vd] alone: the scale bytes, or the codes
packed little-endian. The result is poisoned where a source word is. An FP32 source not bound as R136 says raises ILLEGAL. -/
def Sys2Proof.Claims.NarrowingConversions : Prop :=
  (∀ (s : State) (c : CoreId) (wide : Wide) (fmt : NFmt) (vd va vb : Fin 16), Ready s c (.vqscale c wide fmt vd va vb) →
    let k0 := s.core c
    let f := Fmt.ofN fmt
    if wide = .fp32 ∧ (vb ≠ 0 ∨ va.val % 4 ≠ 0) then Faults (.vqscale c wide fmt vd va vb) s c ILLEGAL
    else Retires (.vqscale c wide fmt vd va vb) s c (k0.pc + 4) (fun k =>
      FrameC [0x84, 0x90, 0x94, 0xA0, 0xA4] k0 k (fun x => { x with v := k.v }) ∧ (∀ r, r ≠ vd → k.rv r = k0.rv r) ∧
      k.rv vd = VReg.of (packBits 8 (scaleBlock f (k0.rmodes (if f = .gt2 then 2 else 0)).1 (k0.wideBlock wide va vb)).1)
        (decide (k0.poisonV (wideSrc wide va vb) ≠ 0)))) ∧
  (∀ (s : State) (c : CoreId) (wide : Wide) (fmt : NFmt) (vd va vb : Fin 16), Ready s c (.vquant c wide fmt vd va vb) →
    let k0 := s.core c
    let f := Fmt.ofN fmt
    if wide = .fp32 ∧ (vb ≠ 0 ∨ va.val % 4 ≠ 0) then Faults (.vquant c wide fmt vd va vb) s c ILLEGAL
    else Retires (.vquant c wide fmt vd va vb) s c (k0.pc + 4) (fun k =>
      FrameC [0x84, 0x90, 0x94, 0x98, 0x9C] k0 k (fun x => { x with v := k.v }) ∧ (∀ r, r ≠ vd → k.rv r = k0.rv r) ∧
      k.rv vd = VReg.of (packBits f.bits (quantBlock f (k0.rmodes (if f = .gt2 then 0 else 32)).1 (k0.wideBlock wide va vb)).1)
        (decide (k0.poisonV (wideSrc wide va vb) ≠ 0))))

/-- R126 to R131, R141: the 32 elements that vdq reads, each its code's value times the block's scale. -/
def Sys2Proof.Claims.dqElems (k0 : Core) (f : Fmt) (va vb : Fin 16) : List FV :=
  let codes := (List.range 32).map (fun i => (k0.rv va).val.toNat / 2 ^ (f.bits * i) % 2 ^ f.bits)
  let vs := if f = .gt2 then (gt2Vals codes ((k0.rv vb).lane .u8 1) ((k0.rv vb).lane .u8 2)).1 else codes.map (elemVal f)
  vs.map (scaled ((k0.rv vb).lane .u8 0))

/-- R130, R131, R136, R139 to R142: vdq writes its 32 elements, each its code's value times the block's scale, rounded to the wide format, to
the registers from v[vd] on, four for FP32 and two for BF16; vcvt narrows two FP32 registers into one BF16 register, or widens one into
two. Every word written is poisoned where a source word is. A destination not bound as R136 says raises ILLEGAL. -/
def Sys2Proof.Claims.WideningConversions : Prop :=
  (∀ (s : State) (c : CoreId) (fmt : NFmt) (vd va vb : Fin 16), Ready s c (.vdq c .fp32 fmt vd va vb) →
    let k0 := s.core c
    if vd.val % 4 ≠ 0 then Faults (.vdq c .fp32 fmt vd va vb) s c ILLEGAL
    else Retires (.vdq c .fp32 fmt vd va vb) s c (k0.pc + 4) (fun k =>
      FrameC [0x90, 0x94, 0x98, 0x9C] k0 k (fun x => { x with v := k.v }) ∧
      (∀ r : Fin 16, r.val < vd.val ∨ vd.val + 4 ≤ r.val → k.rv r = k0.rv r) ∧
      ∀ j : Fin 4, k.rv (vd + Fin.ofNat 16 j.val) = VReg.of (packBits 32
        ((((dqElems k0 (Fmt.ofN fmt) va vb).map (fun v => (encSat fmt32 .nearest v).1)).drop (8 * j.val)).take 8))
        (decide (k0.vdqPoison (Fmt.ofN fmt) va vb ≠ 0)))) ∧
  (∀ (s : State) (c : CoreId) (fmt : NFmt) (vd va vb : Fin 16), Ready s c (.vdq c .bf16 fmt vd va vb) →
    let k0 := s.core c
    if vd.val % 2 ≠ 0 then Faults (.vdq c .bf16 fmt vd va vb) s c ILLEGAL
    else Retires (.vdq c .bf16 fmt vd va vb) s c (k0.pc + 4) (fun k =>
      FrameC [0x84, 0x90, 0x94, 0x98, 0x9C] k0 k (fun x => { x with v := k.v }) ∧
      (∀ r : Fin 16, r.val < vd.val ∨ vd.val + 2 ≤ r.val → k.rv r = k0.rv r) ∧
      ∀ j : Fin 2, k.rv (vd + Fin.ofNat 16 j.val) = VReg.of (packBits 16
        (((((dqElems k0 (Fmt.ofN fmt) va vb).zip (k0.rmodes 32).1).map (fun p => (encSat fmtB p.2 p.1).1)).drop (16 * j.val)).take 16))
        (decide (k0.vdqPoison (Fmt.ofN fmt) va vb ≠ 0)))) ∧
  (∀ (s : State) (c : CoreId) (vd va vb : Fin 16), Ready s c (.vcvt c true vd va vb) →
    let k0 := s.core c
    Retires (.vcvt c true vd va vb) s c (k0.pc + 4) (fun k =>
      FrameC [0x84, 0x90, 0x94] k0 k (fun x => { x with v := k.v }) ∧ (∀ r, r ≠ vd → k.rv r = k0.rv r) ∧
      k.rv vd = VReg.of (packBits 16
          ((((k0.rv va).vals .fp32 ++ (k0.rv vb).vals .fp32).zip (k0.rmodes 16).1).map (fun p => (encSat fmtB p.2 p.1).1)))
        (decide (k0.poisonV [va, vb] ≠ 0)))) ∧
  (∀ (s : State) (c : CoreId) (vd va vb : Fin 16), Ready s c (.vcvt c false vd va vb) →
    let k0 := s.core c
    if vb ≠ 0 ∨ vd.val % 2 ≠ 0 then Faults (.vcvt c false vd va vb) s c ILLEGAL
    else Retires (.vcvt c false vd va vb) s c (k0.pc + 4) (fun k =>
      Frame k0 k (fun x => { x with v := k.v }) ∧ (∀ r : Fin 16, r.val < vd.val ∨ vd.val + 2 ≤ r.val → k.rv r = k0.rv r) ∧
      ∀ j : Fin 2, k.rv (vd + Fin.ofNat 16 j.val) = VReg.of (packBits 32
        ((((k0.rv va).vals .bf16).map (encIeee fmt32)).drop (8 * j.val) |>.take 8)) (decide (k0.poisonV [va] ≠ 0))))

/-- Conversions between number formats, either way. -/
def Obligations.Conversions : Prop := Claims.NarrowingConversions ∧ Claims.WideningConversions

/-- The branches on two registers (R80). -/
def Sys2Proof.Claims.branchTaken : List ((CoreId → Fin 32 → Fin 32 → BitVec 16 → Instr) × (Word → Word → Bool)) :=
  [(.beq, fun a b => decide (a = b)), (.bne, fun a b => decide (a ≠ b)), (.blt, fun a b => decide (a.toInt < b.toInt)),
   (.bge, fun a b => decide (b.toInt ≤ a.toInt)), (.bltu, fun a b => decide (a.toNat < b.toNat)), (.bgeu, fun a b => decide (b.toNat ≤ a.toNat))]

/-- The address of a branch target: a signed count of words from the branch's own address (R61). -/
def Sys2Proof.Claims.wordsOn (pc : Word) (n : Int) : Word := BitVec.ofInt 32 (pc.toInt + 4 * n)

/-- R61, R80, R81: a branch goes to its target where its condition holds and on to the next word where not; dbnz counts its register
down; jal links s31, jalr s[rd], jl s[dst]. Only the register named is written. A poisoned source raises POISON_BRANCH. -/
def Obligations.BranchesAndJumps : Prop :=
  (∀ e ∈ branchTaken, ∀ (s : State) (c : CoreId) (rs1 rs2 : Fin 32) (off : BitVec 16), Ready s c (e.1 c rs1 rs2 off) →
    let k0 := s.core c
    if (k0.rs rs1).poison || (k0.rs rs2).poison then Faults (e.1 c rs1 rs2 off) s c POISON_BRANCH
    else Retires (e.1 c rs1 rs2 off) s c (if e.2 (k0.rs rs1).val (k0.rs rs2).val then wordsOn k0.pc off.toInt else k0.pc + 4)
      (fun k => Frame k0 k id)) ∧
  (∀ (s : State) (c : CoreId) (rs1 : Fin 32) (off : BitVec 16), Ready s c (.dbnz c rs1 off) →
    let k0 := s.core c
    let v := (k0.rs rs1).val - 1
    if (k0.rs rs1).poison then Faults (.dbnz c rs1 off) s c POISON_BRANCH
    else Retires (.dbnz c rs1 off) s c (if v ≠ 0 then wordsOn k0.pc off.toInt else k0.pc + 4) (fun k => OnlyS k0 k ∧ SetsS k0 k rs1 ⟨v, false⟩)) ∧
  (∀ (s : State) (c : CoreId) (off : BitVec 26), Ready s c (.jal c off) →
    let k0 := s.core c
    Retires (.jal c off) s c (wordsOn k0.pc off.toInt) (fun k => OnlyS k0 k ∧ SetsS k0 k 31 ⟨k0.pc + 4, false⟩)) ∧
  (∀ (s : State) (c : CoreId) (rd rs1 : Fin 32) (imm : BitVec 16), Ready s c (.jalr c rd rs1 imm) →
    let k0 := s.core c
    if (k0.rs rs1).poison then Faults (.jalr c rd rs1 imm) s c POISON_BRANCH
    else Retires (.jalr c rd rs1 imm) s c (BitVec.ofInt 32 ((k0.rs rs1).val.toInt + imm.toInt)) (fun k =>
      OnlyS k0 k ∧ SetsS k0 k rd ⟨k0.pc + 4, false⟩)) ∧
  (∀ (s : State) (c : CoreId) (dst : Fin 32) (imm : BitVec 32), Ready s c (.jl c dst imm) →
    let k0 := s.core c
    Retires (.jl c dst imm) s c imm (fun k => OnlyS k0 k ∧ SetsS k0 k dst ⟨k0.pc + 8, false⟩))

/-- R82, R83, R105, R446: nop; the fences wait for earlier mm, for the inject queue, or for both; halt waits for earlier mm and puts the
core to sleep at the next word, where its partition is not route-lost. -/
def Sys2Proof.Claims.SystemInstructions : Prop :=
  (∀ (s : State) (c : CoreId), Ready s c (.nop c) → Retires (.nop c) s c ((s.core c).pc + 4) (fun k => Frame (s.core c) k id)) ∧
  (∀ (s : State) (c : CoreId), Ready s c (.fenceL c) →
    if (s.core c).mmBusy then Stalls (.fenceL c) s c else Retires (.fenceL c) s c ((s.core c).pc + 4) (fun k => Frame (s.core c) k id)) ∧
  (∀ (s : State) (c : CoreId), Ready s c (.fenceF c) →
    if (s.core c).inject ≠ [] then Stalls (.fenceF c) s c
    else Retires (.fenceF c) s c ((s.core c).pc + 4) (fun k => Frame (s.core c) k id)) ∧
  (∀ (s : State) (c : CoreId), Ready s c (.fence c) →
    if (s.core c).mmBusy ∨ (s.core c).inject ≠ [] then Stalls (.fence c) s c
    else Retires (.fence c) s c ((s.core c).pc + 4) (fun k => Frame (s.core c) k id)) ∧
  (∀ (s : State) (c : CoreId), Ready s c (.halt c) → isRouteLost s c = false →
    if (s.core c).mmBusy then Stalls (.halt c) s c
    else ∃ k, exec (.halt c) s = .next { s with cores := Tab.put s.cores (coreKey c) k, draws := s.draws + 2 } ∧
      k.st = .sleeping ∧ k.pc = (s.core c).pc + 4 ∧ k.ir = none ∧ Frame (s.core c) k id)

/-- R49, R82, R88, R89: trap takes the core fault path with cause 0x80 + code. The path fences the core, writes the cause and the pc into
CORE_STATUS and CORE_FAULT_PC, and leaves its registers, its memory and its other control registers as they are. -/
def Sys2Proof.Claims.CoreFaultPath : Prop :=
  (∀ (s : State) (c : CoreId) (code : BitVec 7), Ready s c (.trap c code) → Faults (.trap c code) s c (BitVec.ofNat 8 (0x80 + code.toNat))) ∧
  (∀ (k0 : Core) (cause : Cause) (pc : Word),
    let k := k0.stop cause pc
    k = { k0 with st := .fenced, ir := none, wait := none, ctl := k.ctl } ∧
    fld (k.ctlW 0x04) 23 16 = cause.toNat ∧ k.ctlW 0x0C = pc ∧ (k.ctlW 0x04).getLsbD 3 = (k0.ctlW 0x04).getLsbD 3 ∧
    ∀ o, o ≠ 0x04 → o ≠ 0x0C → k.ctlW o = k0.ctlW o)

/-- System instructions and the core fault path. -/
def Obligations.SystemAndFaults : Prop := Claims.SystemInstructions ∧ Claims.CoreFaultPath

/-- R37, R41, R60, R87, R90: FETCH at a RUNNING core with nothing latched latches the instruction its pc holds and changes nothing else, or
takes the core fault path: FETCH_ADDR beyond near memory, POISON_FETCH at a poisoned word, ILLEGAL at an undefined one. -/
def Obligations.FetchLatches : Prop :=
  ∀ (s : State) (c : CoreId), (s.core c).st = .running → (s.core c).ir = none →
    let k0 := s.core c
    let m := k0.seen s (coreKey c)
    let w := m.memWord k0.pc.toNat
    if k0.pc.toNat % 4 ≠ 0 ∨ 0xC000 < k0.pc.toNat + 4 then exec (.fetch c) s = .next (coreFault s c FETCH_ADDR k0.pc)
    else if isLong w.val = false ∧ w.poison then exec (.fetch c) s = .next (coreFault s c POISON_FETCH k0.pc)
    else if isLong w.val = false ∧ decodeShort c w.val = none then exec (.fetch c) s = .next (coreFault s c ILLEGAL k0.pc)
    else if isLong w.val = false then
      ∀ i, decodeShort c w.val = some i → exec (.fetch c) s = .next (s.setCore c { k0 with ir := some i })
    else if 0xC000 < k0.pc.toNat + 8 then exec (.fetch c) s = .next (coreFault s c FETCH_ADDR (k0.pc + 4))
    else if w.poison ∨ (m.memWord (k0.pc.toNat + 4)).poison then exec (.fetch c) s = .next (coreFault s c POISON_FETCH k0.pc)
    else match decodeLong c w.val (m.memWord (k0.pc.toNat + 4)).val with
      | none => exec (.fetch c) s = .next (coreFault s c ILLEGAL k0.pc)
      | some i => exec (.fetch c) s = .next (s.setCore c { k0 with ir := some i })

/-- R60, R61, R64, R66, R67, R81: instruction words written out from the encodings of those rules decode to the instructions they
stand for. -/
def Obligations.WordsDecode : Prop :=
  ∀ c : CoreId,
    decodeShort c (0b000001#6 ++ 3#5 ++ 1#5 ++ 2#5 ++ 0#5 ++ 0#6) = some (.add c 3 1 2) ∧
    decodeShort c (0b000001#6 ++ 31#5 ++ 30#5 ++ 29#5 ++ 0#5 ++ 0x17#6) = some (.remu c 31 30 29) ∧
    decodeShort c (0b000010#6 ++ 5#5 ++ 6#5 ++ 0x8001#16) = some (.addi c 5 6 0x8001) ∧
    decodeShort c (0b000110#6 ++ 5#5 ++ 6#5 ++ 0b10#2 ++ 0#9 ++ 7#5) = some (.shifti c 5 6 .sra 7) ∧
    decodeLong c (0x38#6 ++ 9#5 ++ 0#21) 0xDEADBEEF = some (.li c 9 0xDEADBEEF) ∧
    decodeLong c (0x3B#6 ++ 31#5 ++ 0#21) 0x100 = some (.jl c 31 0x100)

/-- R98, R101 to R104, R124: an mm whose descriptors fail a check of R124 takes the core fault path with the first cause; one without
fallback that passes takes the pending place of its engine, with the descriptors as they stand, or waits while that place is taken or the
other engine owns its tile. -/
def Sys2Proof.Claims.MmIssue : Prop :=
  ∀ (s : State) (c : CoreId) (acc : Fin 4) (da db : Fin 16) (e z o : Bool), Ready s c (.mm c acc da db e z o) →
    let k0 := s.core c
    let j : MmJob := ⟨acc, k0.rd da, k0.rd db, e, z, o, false, false, dTile (k0.rd db), false, 0, k0.pc, k0.nextOrd⟩
    (∀ f, mmCheck (k0.rd da) (k0.rd db) e o = some f → Faults (.mm c acc da db e z o) s c f) ∧
    (mmCheck (k0.rd da) (k0.rd db) e o = none → dFbEn (k0.rd db) = false →
      (e = false → k0.dPend = none → (∀ x ∈ k0.sExec.toList ++ k0.sPend.toList, x.acc ≠ acc) →
        Retires (.mm c acc da db e z o) s c (k0.pc + 4) (fun k => Frame k0 k (fun x => { x with dPend := some j }))) ∧
      (e = true → k0.sPend = none → (∀ x ∈ k0.dExec.toList ++ k0.dPend.toList, x.acc ≠ acc) →
        Retires (.mm c acc da db e z o) s c (k0.pc + 4) (fun k => Frame k0 k (fun x => { x with sPend := some j }))) ∧
      (e = false → k0.dPend.isSome → Stalls (.mm c acc da db e z o) s c) ∧ (e = true → k0.sPend.isSome → Stalls (.mm c acc da db e z o) s c))

/-- R104, R132, R134, R144, R177: the pending mm of an idle engine starts; one in execution completes, its accumulator tile holding the sums
of its operands and every other tile as before, and its engine is free. Nothing outside the core changes. -/
def Sys2Proof.Claims.MmExecution : Prop :=
  (∀ (s : State) (c : CoreId) (j : MmJob), (s.core c).dExec = none → (s.core c).dPend = some j → j.o = false →
    exec (.mmStart c false) s = .next (s.setCore c { s.core c with dExec := some { j with started := true }, dPend := none })) ∧
  (∀ (s : State) (c : CoreId) (j : MmJob), (s.core c).sExec = none → (s.core c).sPend = some j → j.o = false →
    exec (.mmStart c true) s = .next (s.setCore c { s.core c with sExec := some { j with started := true }, sPend := none })) ∧
  (∀ (s : State) (c : CoreId) (j : MmJob), (s.core c).dExec = some j →
    ∃ k, exec (.mmComplete c false) s = .next (s.setCore c k) ∧ k.dExec = none ∧ k.dPend = (s.core c).dPend ∧ k.sExec = (s.core c).sExec ∧
      k.mem = (s.core c).mem ∧ k.s = (s.core c).s ∧ k.v = (s.core c).v ∧ k.pc = (s.core c).pc ∧ k.st = (s.core c).st ∧
      (∀ i, i < 256 → k.accGet j.acc i = (((s.core c).mmTile j).map (·.1)).getD i PWord.zero) ∧
      ∀ t i, t ≠ j.acc → i < 256 → k.accGet t i = (s.core c).accGet t i) ∧
  (∀ (s : State) (c : CoreId) (j : MmJob), (s.core c).sExec = some j →
    ∃ k, exec (.mmComplete c true) s = .next (s.setCore c k) ∧ k.sExec = none ∧ k.sPend = (s.core c).sPend ∧ k.dExec = (s.core c).dExec ∧
      k.mem = (s.core c).mem ∧ k.s = (s.core c).s ∧ k.v = (s.core c).v ∧ k.pc = (s.core c).pc ∧ k.st = (s.core c).st ∧
      (∀ i, i < 256 → k.accGet j.acc i = (((s.core c).mmTile j).map (·.1)).getD i PWord.zero) ∧
      ∀ t i, t ≠ j.acc → i < 256 → k.accGet t i = (s.core c).accGet t i)

/-- mm, from issue to completion. -/
def Obligations.TensorMm : Prop := Claims.MmIssue ∧ Claims.MmExecution

/-- R44, R107: acczero clears a tile; accrd and accwr move the eight elements of half a row; each waits while an engine owns the tile. -/
def Sys2Proof.Claims.AccumulatorMoves : Prop :=
  (∀ (s : State) (c : CoreId) (acc : Fin 4), Ready s c (.acczero c acc) →
    let k0 := s.core c
    if k0.tileBusy acc then Stalls (.acczero c acc) s c
    else Retires (.acczero c acc) s c (k0.pc + 4) (fun k => Frame k0 k (fun x => { x with acc := k.acc }) ∧
      ∀ t i, i < 256 → k.accGet t i = if t = acc then PWord.zero else k0.accGet t i)) ∧
  (∀ (s : State) (c : CoreId) (v : Fin 16) (acc : Fin 4) (row : Fin 16) (half : Bool), Ready s c (.accrd c v acc row half) →
    let k0 := s.core c
    let e := 16 * row.val + 8 * half.toNat
    if k0.tileBusy acc then Stalls (.accrd c v acc row half) s c
    else Retires (.accrd c v acc row half) s c (k0.pc + 4) (fun k => OnlyV k0 k v ∧
      ∀ i, i < 8 → (k.rv v).pword i = k0.accGet acc (e + i))) ∧
  (∀ (s : State) (c : CoreId) (acc : Fin 4) (row : Fin 16) (half : Bool) (v : Fin 16), Ready s c (.accwr c acc row half v) →
    let k0 := s.core c
    let e := 16 * row.val + 8 * half.toNat
    if k0.tileBusy acc then Stalls (.accwr c acc row half v) s c
    else Retires (.accwr c acc row half v) s c (k0.pc + 4) (fun k => Frame k0 k (fun x => { x with acc := k.acc }) ∧
      ∀ t i, i < 256 → k.accGet t i = if t = acc ∧ e ≤ i ∧ i < e + 8 then (k0.rv v).pword (i - e) else k0.accGet t i))

/-- R41, R107: accst writes a tile to 1,024 bytes at a 32-byte address, row by row, and accld reads one; a poisoned base raises POISON_ADDR, a
bad address ACC_ADDR, an owned tile waits. -/
def Sys2Proof.Claims.AccumulatorMemory : Prop :=
  (∀ (s : State) (c : CoreId) (acc : Fin 4) (ab : Fin 8) (post : Bool), Ready s c (.accst c acc ab post) →
    let k0 := s.core c
    let a := (k0.ra ab).val.toNat
    if (k0.ra ab).poison then Faults (.accst c acc ab post) s c POISON_ADDR
    else if a % 32 ≠ 0 ∨ inMem a 1024 = false then Faults (.accst c acc ab post) s c ACC_ADDR
    else if k0.tileBusy acc || k0.storeHeld a 1024 then Stalls (.accst c acc ab post) s c
    else Retires (.accst c acc ab post) s c (k0.pc + 4) (fun k =>
      Frame k0 k (fun x => { x with mem := k.mem, memTag := k.memTag, a := k.a }) ∧ Bumps k0 k ab post 1024 ∧
      StoresBytes k0 k a 1024 (fun i => BitVec.ofNat 8 ((k0.accGet acc (i / 4)).val.toNat / 256 ^ (i % 4))))) ∧
  (∀ (s : State) (c : CoreId) (acc : Fin 4) (ab : Fin 8) (post : Bool), Ready s c (.accld c acc ab post) →
    let k0 := s.core c
    let a := (k0.ra ab).val.toNat
    if (k0.ra ab).poison then Faults (.accld c acc ab post) s c POISON_ADDR
    else if a % 32 ≠ 0 ∨ inMem a 1024 = false then Faults (.accld c acc ab post) s c ACC_ADDR
    else if k0.tileBusy acc then Stalls (.accld c acc ab post) s c
    else Retires (.accld c acc ab post) s c (k0.pc + 4) (fun k =>
      Frame k0 k (fun x => { x with acc := k.acc, a := k.a }) ∧ Bumps k0 k ab post 1024 ∧
      ∀ t i, i < 256 → k.accGet t i = if t = acc then (k0.seen s (coreKey c)).memWord (a + 4 * i) else k0.accGet t i))

/-- Accumulator tiles: moves, loads and stores. -/
def Obligations.Accumulators : Prop := Claims.AccumulatorMoves ∧ Claims.AccumulatorMemory

/-- Every descriptor slot but dn keeps its value. -/
def Sys2Proof.Claims.OnlyD (k0 k : Core) (dn : Fin 16) (x : VReg) : Prop := ∀ r, k.rd r = if r = dn then x else k0.rd r

/-- R41, R94, R97, R100: dld and dmov fill a slot, ATT 0 in a window; dst stores one; dbase and dadd write word 1, untagged; a slot that is an
attached window raises WINDOW_STATE when it would be written. -/
def Obligations.DescriptorMoves : Prop :=
  (∀ (s : State) (c : CoreId) (dn : Fin 16) (ab : Fin 8) (post : Bool), Ready s c (.dld c dn ab post) →
    let k0 := s.core c
    let a := (k0.ra ab).val.toNat
    if (k0.ra ab).poison then Faults (.dld c dn ab post) s c POISON_ADDR
    else if a % 32 ≠ 0 ∨ inMem a 32 = false then Faults (.dld c dn ab post) s c LOAD_ADDR
    else if attached (k0.rd dn) then Faults (.dld c dn ab post) s c WINDOW_STATE
    else Retires (.dld c dn ab post) s c (k0.pc + 4) (fun k =>
      Frame k0 k (fun x => { x with d := k.d, a := k.a }) ∧ Bumps k0 k ab post 32 ∧ OnlyD k0 k dn (dStrip ((k0.seen s (coreKey c)).memVec a)))) ∧
  (∀ (s : State) (c : CoreId) (dn : Fin 16) (ab : Fin 8) (post : Bool), Ready s c (.dst c dn ab post) →
    let k0 := s.core c
    let a := (k0.ra ab).val.toNat
    if (k0.ra ab).poison then Faults (.dst c dn ab post) s c POISON_ADDR
    else if a % 32 ≠ 0 ∨ inMem a 32 = false then Faults (.dst c dn ab post) s c STORE_ADDR
    else if k0.storeHeld a 32 then Stalls (.dst c dn ab post) s c
    else Retires (.dst c dn ab post) s c (k0.pc + 4) (fun k =>
      Frame k0 k (fun x => { x with mem := k.mem, memTag := k.memTag, a := k.a }) ∧ Bumps k0 k ab post 32 ∧
      StoresBytes k0 k a 32 (fun i => BitVec.ofNat 8 ((k0.rd dn).lane .u8 i)))) ∧
  (∀ (s : State) (c : CoreId) (dn dm : Fin 16), Ready s c (.dmov c dn dm) →
    let k0 := s.core c
    if attached (k0.rd dn) then Faults (.dmov c dn dm) s c WINDOW_STATE
    else Retires (.dmov c dn dm) s c (k0.pc + 4) (fun k => Frame k0 k (fun x => { x with d := k.d }) ∧ OnlyD k0 k dn (dStrip (k0.rd dm)))) ∧
  (∀ (s : State) (c : CoreId) (dn : Fin 16) (rs : Fin 32), Ready s c (.dbase c dn rs) →
    let k0 := s.core c
    if (k0.rs rs).poison then Faults (.dbase c dn rs) s c POISON_ADDR
    else if attached (k0.rd dn) then Faults (.dbase c dn rs) s c WINDOW_STATE
    else Retires (.dbase c dn rs) s c (k0.pc + 4) (fun k => ∃ x, Frame k0 k (fun x => { x with d := k.d }) ∧ OnlyD k0 k dn x ∧
      ∀ j, j < 8 → x.pword j = if j = 1 then ⟨(k0.rs rs).val, false⟩ else (k0.rd dn).pword j)) ∧
  (∀ (s : State) (c : CoreId) (dn : Fin 16) (rs : Fin 32), Ready s c (.dadd c dn rs) →
    let k0 := s.core c
    if (k0.rs rs).poison || (k0.rd dn).tag.getLsbD 1 then Faults (.dadd c dn rs) s c POISON_ADDR
    else if attached (k0.rd dn) then Faults (.dadd c dn rs) s c WINDOW_STATE
    else Retires (.dadd c dn rs) s c (k0.pc + 4) (fun k => ∃ x, Frame k0 k (fun x => { x with d := k.d }) ∧ OnlyD k0 k dn x ∧
      ∀ j, j < 8 → x.pword j = if j = 1 then ⟨(k0.rd dn).word 1 + (k0.rs rs).val, false⟩ else (k0.rd dn).pword j))

/-- exec answers that core c waits at i on w. -/
def Sys2Proof.Claims.Waits (i : Instr) (s : State) (c : CoreId) (w : WaitCond) : Prop :=
  exec i s = .next (s.setCore c { s.core c with st := .waiting, ir := some i, wait := some w })

/-- R108, R109: tset and tclr write one tap flag; ttest reads one; twait takes a set flag and clears it, twaitk keeps it; at a clear flag
each waits, where the partition is not route-lost (R446). -/
def Sys2Proof.Claims.TapInstructions : Prop :=
  (∀ (s : State) (c : CoreId) (t : Fin 64), Ready s c (.tset c t) →
    Retires (.tset c t) s c ((s.core c).pc + 4) (fun k => FrameC [0x10, 0x14] (s.core c) k id ∧
      ∀ u, k.tapOn u = (decide (u = t) || (s.core c).tapOn u))) ∧
  (∀ (s : State) (c : CoreId) (t : Fin 64), Ready s c (.tclr c t) →
    Retires (.tclr c t) s c ((s.core c).pc + 4) (fun k => FrameC [0x10, 0x14] (s.core c) k id ∧
      ∀ u, k.tapOn u = (!decide (u = t) && (s.core c).tapOn u))) ∧
  (∀ (s : State) (c : CoreId) (rd : Fin 32) (t : Fin 64), Ready s c (.ttest c rd t) →
    Retires (.ttest c rd t) s c ((s.core c).pc + 4) (fun k => OnlyS (s.core c) k ∧
      SetsS (s.core c) k rd ⟨if (s.core c).tapOn t then 1 else 0, false⟩)) ∧
  (∀ (s : State) (c : CoreId) (t : Fin 64), Ready s c (.twait c t) → isRouteLost s c = false →
    if (s.core c).tapOn t then
      Retires (.twait c t) s c ((s.core c).pc + 4) (fun k => FrameC [0x10, 0x14] (s.core c) k id ∧
        ∀ u, k.tapOn u = (!decide (u = t) && (s.core c).tapOn u))
    else Waits (.twait c t) s c (.tap t true)) ∧
  (∀ (s : State) (c : CoreId) (t : Fin 64), Ready s c (.twaitk c t) → isRouteLost s c = false →
    if (s.core c).tapOn t then Retires (.twaitk c t) s c ((s.core c).pc + 4) (fun k => Frame (s.core c) k id)
    else Waits (.twaitk c t) s c (.tap t false))

/-- The core's inject queue gained one operation at its end (R119). -/
def Sys2Proof.Claims.Queues (k0 k : Core) (o : Outbound) : Prop := Frame k0 k (fun x => { x with inject := x.inject ++ [o] })

/-- R93, R108, R110, R111, R119, R214: trset, chadd, chwatch and chwait queue one packet on a loaded route, with room in the inject queue;
chwatch marks its tap; chwait goes on to wait on it. A full queue waits for a place. -/
def Sys2Proof.Claims.ChimePackets : Prop :=
  (∀ (s : State) (c : CoreId) (route : BitVec 8) (t : Fin 64), Ready s c (.trset c route t) → isRouteLost s c = false →
    if routeOf s (coreKey c) route.toNat = none then Faults (.trset c route t) s c ROUTE_NONE
    else if (s.core c).full then Waits (.trset c route t) s c .inject
    else Retires (.trset c route t) s c ((s.core c).pc + 4) (fun k => Queues (s.core c) k (.tapset route t))) ∧
  (∀ (s : State) (c : CoreId) (route : BitVec 8) (chime : BitVec 16) (rs : Fin 32), Ready s c (.chadd c route chime rs) →
    isRouteLost s c = false → ∀ e, routeOf s (coreKey c) route.toNat = some e → 2 ≤ routeWords e →
      let v := (s.core c).rs rs
      if 2 ^ 31 ≤ v.val.toNat then Faults (.chadd c route chime rs) s c CHIME_STEP
      else if v.poison then Faults (.chadd c route chime rs) s c POISON_SYNC
      else if (s.core c).full then Waits (.chadd c route chime rs) s c .inject
      else Retires (.chadd c route chime rs) s c ((s.core c).pc + 8) (fun k =>
        Queues (s.core c) k (.words route 3 [⟨BitVec.ofNat 32 chime.toNat, false⟩, ⟨v.val, false⟩] true))) ∧
  (∀ (s : State) (c : CoreId) (route : BitVec 8) (chime : BitVec 16) (t : Fin 64) (rs : Fin 32),
    Ready s c (.chwatch c route chime t rs) → ∀ e, routeOf s (coreKey c) route.toNat = some e → 2 ≤ routeWords e →
      ((s.core c).rs rs).poison = false → (s.core c).watchTaps.getLsbD t.val = false → (s.core c).full = false →
      Retires (.chwatch c route chime t rs) s c ((s.core c).pc + 8) (fun k =>
        FrameC [0x118, 0x11C] (s.core c) k (fun x => { x with
          inject := x.inject ++ [.words route 3 [⟨BitVec.ofNat 32 (2 ^ 30 + t.val * 2 ^ 16 + chime.toNat), false⟩, ⟨((s.core c).rs rs).val, false⟩] true]
          watchTaps := x.watchTaps ||| (1 <<< t.val) }))) ∧
  (∀ (s : State) (c : CoreId) (route : BitVec 8) (chime : BitVec 16) (t : Fin 64) (rs : Fin 32),
    Ready s c (.chwait c route chime t rs) → isRouteLost s c = false → ∀ e, routeOf s (coreKey c) route.toNat = some e → 2 ≤ routeWords e →
      ((s.core c).rs rs).poison = false → (s.core c).watchTaps.getLsbD t.val = false → (s.core c).full = false →
      (s.core c).tapOn t = false →
      ∃ k, exec (.chwait c route chime t rs) s = .next (s.setCore c k) ∧ k.st = .waiting ∧ k.wait = some (.tap t true) ∧
        k.ir = some (.chwait c route chime t rs) ∧ k.inject.length = (s.core c).inject.length + 1 ∧ k.pc = (s.core c).pc)

/-- Tap and chime instructions. -/
def Obligations.TapsAndChimes : Prop := Claims.TapInstructions ∧ Claims.ChimePackets

/-- R112 to R114, R229: a lane the core takes no part in raises LANE_OFF. On a FAILED lane dbarrive does nothing and dbwait, dbsync and
dbstat give status 2. Else dbarrive queues an arrival, dbwait waits while one is outstanding, dbsync arrives and waits, dbstat reads it. -/
def Obligations.DownbeatInstructions : Prop :=
  ∀ (s : State) (c : CoreId) (rd : Fin 32) (l : Fin 64),
    let k0 := s.core c
    let failed := laneSt s (coreKey c) l.val = .failed
    (laneOff s (coreKey c) l.val = true →
      (Ready s c (.dbarrive c l) → Faults (.dbarrive c l) s c LANE_OFF) ∧ (Ready s c (.dbwait c rd l) → Faults (.dbwait c rd l) s c LANE_OFF) ∧
      (Ready s c (.dbsync c rd l) → Faults (.dbsync c rd l) s c LANE_OFF) ∧ (Ready s c (.dbstat c rd l) → Faults (.dbstat c rd l) s c LANE_OFF)) ∧
    (laneOff s (coreKey c) l.val = false → failed →
      (Ready s c (.dbarrive c l) → Retires (.dbarrive c l) s c (k0.pc + 4) (fun k => Frame k0 k id)) ∧
      (Ready s c (.dbwait c rd l) → Retires (.dbwait c rd l) s c (k0.pc + 4) (fun k => OnlyS k0 k ∧ SetsS k0 k rd ⟨2, false⟩)) ∧
      (Ready s c (.dbsync c rd l) → Retires (.dbsync c rd l) s c (k0.pc + 4) (fun k => OnlyS k0 k ∧ SetsS k0 k rd ⟨2, false⟩)) ∧
      (Ready s c (.dbstat c rd l) → Retires (.dbstat c rd l) s c (k0.pc + 4) (fun k => OnlyS k0 k ∧ SetsS k0 k rd ⟨2, false⟩))) ∧
    (laneOff s (coreKey c) l.val = false → ¬ failed → (lanePend k0).getLsbD l.val = false → laneSt s (coreKey c) l.val = .idle → k0.full = false →
      (Ready s c (.dbarrive c l) → Retires (.dbarrive c l) s c (k0.pc + 4) (fun k =>
        k.inject = k0.inject ++ [.arrive l] ∧ (lanePend k).getLsbD l.val = true ∧ k.s = k0.s ∧ k.mem = k0.mem ∧ k.v = k0.v ∧ k.acc = k0.acc)) ∧
      (Ready s c (.dbsync c rd l) → ∃ k, exec (.dbsync c rd l) s = .next (s.setCore c k) ∧ k.st = .waiting ∧ k.wait = some (.lane l rd) ∧
        k.inject = k0.inject ++ [.arrive l] ∧ (lanePend k).getLsbD l.val = true ∧ k.s = k0.s ∧ k.mem = k0.mem) ∧
      (Ready s c (.dbstat c rd l) → Retires (.dbstat c rd l) s c (k0.pc + 4) (fun k => OnlyS k0 k ∧ SetsS k0 k rd ⟨0, false⟩)) ∧
      (Ready s c (.dbwait c rd l) → Tab.get 0 k0.dbRel l.val ≠ 3 →
        Retires (.dbwait c rd l) s c (k0.pc + 4) (fun k => OnlyS k0 k ∧ SetsS k0 k rd ⟨Tab.get 0 k0.dbRel l.val, false⟩))) ∧
    (laneOff s (coreKey c) l.val = false → ¬ failed → (lanePend k0).getLsbD l.val = true →
      (Ready s c (.dbwait c rd l) → Waits (.dbwait c rd l) s c (.lane l rd)) ∧
      (Ready s c (.dbstat c rd l) → Retires (.dbstat c rd l) s c (k0.pc + 4) (fun k => OnlyS k0 k ∧ SetsS k0 k rd ⟨1, false⟩)))

/-- R97, R115, R116, R289: on an attached window that passes its checks, srel, sfrel and sdetach queue a STREAM packet, and swait and sfwait
retire once the window's count, or its fence number, has reached theirs, and wait until then; sattach attaches one that is not attached.
A poisoned operand raises POISON_SYNC, a window in the wrong state WINDOW_STATE. -/
def Sys2Proof.Claims.StreamWindows : Prop :=
  ∀ (s : State) (c : CoreId) (dn : Fin 16) (rs : Fin 32),
    let k0 := s.core c
    let d := k0.rd dn
    let pkt (op : Nat) (w2 : Word) : Outbound := .words (wRoute d) 4 [⟨BitVec.ofNat 32 (op * 2 ^ 28 + wStream d), false⟩, ⟨w2, false⟩] false
    isRouteLost s c = false →
    (winCheck s (coreKey c) d true = none →
      (attached d = true → Ready s c (.sattach c dn) → Faults (.sattach c dn) s c WINDOW_STATE) ∧
      (attached d = false → Ready s c (.sdetach c dn) → Faults (.sdetach c dn) s c WINDOW_STATE) ∧
      (attached d = false → k0.full = false → Ready s c (.sattach c dn) → Retires (.sattach c dn) s c (k0.pc + 4) (fun k =>
        Frame k0 k (fun x => { x with inject := x.inject ++ [pkt 1 (BitVec.ofNat 32 (wGen d * 2 ^ 16 + wStat d / 8 % 2 ^ 15))], d := k.d }) ∧
        OnlyD k0 k dn (withAtt d true))) ∧
      (attached d = true → k0.full = false →
        (Ready s c (.sdetach c dn) → Retires (.sdetach c dn) s c (k0.pc + 4) (fun k =>
          Frame k0 k (fun x => { x with inject := x.inject ++ [pkt 2 0], d := k.d }) ∧ OnlyD k0 k dn (withAtt d false))) ∧
        (Ready s c (.srel c dn rs) → (k0.rs rs).poison = false →
          Retires (.srel c dn rs) s c (k0.pc + 4) (fun k => Queues k0 k (pkt 3 (k0.rs rs).val))) ∧
        (Ready s c (.sfrel c dn rs) → (k0.rs rs).poison = false →
          Retires (.sfrel c dn rs) s c (k0.pc + 4) (fun k => Queues k0 k (pkt 4 ((k0.rs rs).val &&& 0xFFFF)))))) ∧
    (winCheck s (coreKey c) d false = none → attached d = true → (k0.rs rs).poison = false →
      let n : BitVec 16 := (k0.rs rs).val.truncate 16
      (Ready s c (.swait c dn rs) →
        if ((k0.memWord (wStat d)).val.truncate 16 - n : BitVec 16).toNat < 2 ^ 15 then
          Retires (.swait c dn rs) s c (k0.pc + 4) (fun k => Frame k0 k id)
        else Waits (.swait c dn rs) s c (.stat (wStat d) false n)) ∧
      (Ready s c (.sfwait c dn rs) →
        if (((k0.memWord (wStat d)).val >>> 16).truncate 16 - n : BitVec 16).toNat < 2 ^ 15 then
          Retires (.sfwait c dn rs) s c (k0.pc + 4) (fun k => Frame k0 k id)
        else Waits (.sfwait c dn rs) s c (.stat (wStat d) true n)))

/-- R87, R93, R118, R119, R124: send takes a loaded route of one destination and mcast a peal, of the packet's length, with both ranges in
memory and word-aligned: the operation joins the inject queue. Otherwise the lowest-numbered cause that holds is raised. -/
def Sys2Proof.Claims.SendAndMcast : Prop :=
  ∀ e ∈ [((.send : CoreId → BitVec 8 → Fin 8 → Fin 64 → Bool → BitVec 14 → BitVec 18 → Instr), false), (.mcast, true)],
    ∀ (s : State) (c : CoreId) (route : BitVec 8) (as1 : Fin 8) (tap : Fin 64) (t : Bool) (count : BitVec 14) (daddr : BitVec 18),
    Ready s c (e.1 c route as1 tap t count daddr) → isRouteLost s c = false → (t = true ∨ tap = 0) →
      let k0 := s.core c
      let i := e.1 c route as1 tap t count daddr
      let a := (k0.ra as1).val.toNat
      if (k0.ra as1).poison then Faults i s c POISON_ADDR
      else match routeOf s (coreKey c) route.toNat with
        | none => Faults i s c ROUTE_NONE
        | some r =>
          if routeWords r ≠ count.toNat then Faults i s c ROUTE_LEN
          else if count = 0 ∨ a % 4 ≠ 0 ∨ daddr.toNat % 4 ≠ 0 ∨ inMem a (4 * count.toNat) = false ∨ inMem daddr.toNat (4 * count.toNat) = false then
            Faults i s c SEND_ADDR
          else if r.getLsbD 30 ≠ e.2 then Faults i s c ROUTE_KIND
          else if k0.full then Waits i s c .inject
          else Retires i s c (k0.pc + 8) (fun k => Queues k0 k (.data route a count.toNat daddr (if t then some tap else none)))

/-- Stream windows and outbound operations of a core. -/
def Obligations.SendsAndWindows : Prop := Claims.StreamWindows ∧ Claims.SendAndMcast

/-- R174, R179, R226, R230: the store that reaches CORE_PU_REPORT queues a PU packet of its word on the report route; the store that reaches
a lane-enable word writes it, within the partition's lanes, where it clears no enable with an arrival outstanding. -/
def Sys2Proof.Claims.ControlStoreEvents : Prop :=
  (∀ (s : State) (c : CoreId) (rt : Fin 32) (ab : Fin 8) (post : Bool) (imm : BitVec 16) (e : Word),
    let k0 := s.core c
    let r : BitVec 8 := (k0.ctlW 0xC0).truncate 8
    Ready s c (.sw c rt ab post imm) → k0.ea ab post (sext16 imm) = 0x310C4 → (k0.ra ab).poison = false → (k0.rs rt).poison = false →
    k0.mmBusy = false → routeOf s (coreKey c) (k0.ctlW 0xC0).toNat = some e → routeWords e = 1 → e.getLsbD 30 = false → k0.full = false →
      Retires (.corePuReport c rt ab post imm) s c (k0.pc + 4) (fun k =>
        FrameC [0xC8, 0xCC, 0xD0, 0xD4] k0 k (fun x => { x with inject := x.inject ++ [.words r 5 [⟨(k0.rs rt).val, false⟩] false], a := k.a }) ∧
        Bumps k0 k ab post (sext16 imm))) ∧
  (∀ (s : State) (c : CoreId) (rt : Fin 32) (ab : Fin 8) (post : Bool) (imm : BitVec 16) (h : Nat),
    let k0 := s.core c
    let w := (k0.rs rt).val &&& laneGrant s (coreKey c) h
    Ready s c (.sw c rt ab post imm) → h < 2 → k0.ea ab post (sext16 imm) = 0x31100 + 4 * h → (k0.ra ab).poison = false →
    (k0.rs rt).poison = false → clearsPending k0 h w = false →
      Retires (.coreLaneEnWrite c rt ab post imm) s c (k0.pc + 4) (fun k =>
        FrameC [0x100 + 4 * h] k0 k (fun x => { x with enForce := k.enForce, a := k.a }) ∧ Bumps k0 k ab post (sext16 imm) ∧
        k.ctlW (0x100 + 4 * h) = w))

/-- R49, R108, R113, R115, R119: a WAITING core whose condition is met goes on: a tap wait retires, clearing the flag of twait; a window wait
retires; a wait for a place in the inject queue stands RUNNING at its instruction again. One whose condition is not met is left as it is. -/
def Sys2Proof.Claims.WaitsEnd : Prop :=
  (∀ (s : State) (c : CoreId) (t : Fin 64) (clear : Bool) (i : Instr), (s.core c).st = .waiting → (s.core c).wait = some (.tap t clear) →
    (s.core c).ir = some i →
    (if (s.core c).tapOn t then ∃ k, exec (.waitConditionMet c) s = .next { s with cores := Tab.put s.cores (coreKey c) k, draws := s.draws + 3 } ∧
        k.st = .running ∧ k.ir = none ∧ k.wait = none ∧ k.pc = (s.core c).waitNext ∧ k.s = (s.core c).s ∧ k.mem = (s.core c).mem ∧
        ∀ u, k.tapOn u = ((s.core c).tapOn u && !(clear && decide (u = t)))
     else exec (.waitConditionMet c) s = .next s)) ∧
  (∀ (s : State) (c : CoreId) (a : Nat) (hi : Bool) (n : BitVec 16) (i : Instr), (s.core c).st = .waiting →
    (s.core c).wait = some (.stat a hi n) → (s.core c).ir = some i →
    (if (s.core c).statReached a hi n then
        ∃ k, exec (.waitConditionMet c) s = .next { s with cores := Tab.put s.cores (coreKey c) k, draws := s.draws + 3 } ∧
          k.st = .running ∧ k.ir = none ∧ k.pc = (s.core c).pc + 4 ∧ k.s = (s.core c).s ∧ k.mem = (s.core c).mem
     else exec (.waitConditionMet c) s = .next s)) ∧
  (∀ (s : State) (c : CoreId) (i : Instr), (s.core c).st = .waiting → (s.core c).wait = some .inject → (s.core c).ir = some i →
    (if (s.core c).full then exec (.waitConditionMet c) s = .next s
     else ∃ k, exec (.waitConditionMet c) s = .next { s with cores := Tab.put s.cores (coreKey c) k, draws := s.draws + 1 } ∧
        k.st = .running ∧ k.ir = some i ∧ k.wait = none ∧ k.pc = (s.core c).pc ∧ k.inject = (s.core c).inject ∧ k.mem = (s.core c).mem))

/-- Stores to the control registers, and the end of a wait. -/
def Obligations.StoresAndWaits : Prop := Claims.ControlStoreEvents ∧ Claims.WaitsEnd

/-- exec answers a next state that P holds of. -/
def Sys2Proof.Claims.Nexts (i : Instr) (s : State) (P : State → Prop) : Prop := ∃ t, exec i s = .next t ∧ P t

/-- s with the registers, report rings, reports made and outputs of t: what counting, reporting and answering may touch. -/
def Sys2Proof.Claims.Books (s t : State) : State := { s with regs := t.regs, rings := t.rings, recent := t.recent, out := t.out }

/-- The words of an outbound operation as a packet: TYPE, tap, WADDR and payload; whether it is a send or mcast (R84, R197, R199). -/
def Sys2Proof.Claims.packetOf (k : Core) : Outbound → Word × List PWord × Bool
  | .data _ src count daddr tap => (header 1 (tap.map (·.val)) (daddr.toNat / 4), k.getWords src count, true)
  | .tapset _ tap => (header 2 (some tap.val) 0, [], false)
  | .words _ t pay _ => (header t.toNat none 0, pay, false)
  | .arrive _ => (0, [], false)

/-- R119 to R121, R197 to R200, R222: with its router up and the order of R121 kept, the oldest operation of the inject queue leaves: an arrival
joins those that wait for earlier packets; a packet goes, header first and filled to its route's length, to the end of its local input
track and counts as unacknowledged. Otherwise nothing happens. -/
def Sys2Proof.Claims.InjectionTakes : Prop :=
  ∀ (s : State) (c : CoreId),
    let k := s.core c
    let key := coreKey c
    (k.inject = [] ∨ routerDown s key = true ∨ (∃ o r, k.inject = o :: r ∧ mayLeave k o = false) → exec (.injectTake c) s = .next s) ∧
    (∀ l r, k.inject = .arrive l :: r → routerDown s key = false →
      Nexts (.injectTake c) s (fun t => t = { s with cores := t.cores } ∧ (∀ d, d ≠ c → t.core d = s.core d) ∧
        t.core c = { k with inject := r, arriving := k.arriving ++ [(l, k.pktSeq)] })) ∧
    (∀ o r e, k.inject = o :: r → (∀ l, o ≠ .arrive l) → mayLeave k o = true → routerDown s key = false → routeOf s key o.route.toNat = some e →
      let p := packetOf k o
      Nexts (.injectTake c) s (fun t => t = { s with cores := t.cores, routers := t.routers, draws := t.draws } ∧
        (∀ d, d ≠ c → t.core d = s.core d) ∧ (∀ n, n ≠ key → t.router n = s.router n) ∧
        t.core c = { k with inject := r, unacked := k.unacked ++ [⟨k.pktSeq, o.route, p.2.2⟩], pktSeq := k.pktSeq + 1 } ∧
        ∃ f : List PWord, p.2.1.length + f.length = max p.2.1.length (routeWords e) ∧
          (Tab.get [] (t.router key).inq (16 + fld e 29 28)).map (·.w) =
            (Tab.get [] (s.router key).inq (16 + fld e 29 28)).map (·.w) ++ (⟨p.1, false⟩ :: (p.2.1 ++ f)) ∧
          ∀ n, n ≠ 16 + fld e 29 28 → Tab.get [] (t.router key).inq n = Tab.get [] (s.router key).inq n))

/-- R180, R182, R191, R195: on an outbound track that is not desynchronised, of a router that is up, a MOVE slot of fixed length passes the oldest
word of its input to the next router's input track, once for each outbound track of its fan; a MERGE passes the word of its first port, poisoned where any is, when
every port holds one; a word that fails the link's parity check goes on poisoned and is counted; a slot that cannot move changes nothing.
A stall is reported once. -/
def Sys2Proof.Claims.SlotsMoveWords : Prop :=
  ∀ (s : State) (c : CoreId) (o : Fin 20) (bad : Bool),
    let key := coreKey c
    let q0 := s.router key
    let counted : State := if bad then cntAdd s 0 0 0xD01028 1 else s
    routerDown s key = false → Tab.get false q0.desync o.val = false → ∀ w q, q0.slot o.val = some (w, q) →
    (∀ n x rest, neighbour s key (o.val / 4) = some n → n ≠ key → slotOp w = 1 → moveVar w = false →
      Tab.get [] q.inq (moveIn w) = x :: rest → Tab.get [] q.took (moveIn w) = [] → canAccept s key o.val = true →
      Nexts (.trackMove c ⟨o, bad⟩) s (fun t => t = { counted with routers := t.routers } ∧ (∀ m, m ≠ key → m ≠ n → t.router m = s.router m) ∧
        Tab.get [] (t.router key).inq (moveIn w) = (if moveFan w ≤ 1 then rest else x :: rest) ∧ (t.router key).inbox = q0.inbox ∧ (t.router key).seqs = q0.seqs ∧
        (∀ i, i ≠ moveIn w → Tab.get [] (t.router key).inq i = Tab.get [] q0.inq i) ∧
        (∀ i, Tab.get [] (t.router n).inq i = Tab.get [] (s.router n).inq i ++ (if i = facing (o.val / 4) * 4 + o.val % 4 then [{ x with w := ⟨x.w.val, x.w.poison || bad⟩ }] else [])))) ∧
    (slotOp w = 1 → Tab.get [] q.inq (moveIn w) = [] → exec (.trackMove c ⟨o, bad⟩) s = .next s) ∧
    (slotOp w ≠ 1 → exec (.trackMove c ⟨o, bad⟩) s = .next s) ∧ (slotOp w ≠ 2 → exec (.trackMerge c ⟨o, bad⟩) s = .next s) ∧
    (∀ n x, neighbour s key (o.val / 4) = some n → n ≠ key → slotOp w = 2 → canAccept s key o.val = true →
      (∀ p ∈ mergePorts w, Tab.get [] q.inq (p * 4 + mergeTrk w) ≠ []) →
      ((mergePorts w).filterMap (fun p => (Tab.get [] q.inq (p * 4 + mergeTrk w)).head?)).head? = some x →
      Nexts (.trackMerge c ⟨o, bad⟩) s (fun t => t = { counted with routers := t.routers } ∧ (∀ m, m ≠ key → m ≠ n → t.router m = s.router m) ∧
        (∀ p ∈ mergePorts w, Tab.get [] (t.router key).inq (p * 4 + mergeTrk w) = (Tab.get [] q.inq (p * 4 + mergeTrk w)).tail) ∧
        ∃ y, Tab.get [] (t.router n).inq (facing (o.val / 4) * 4 + o.val % 4) =
            Tab.get [] (s.router n).inq (facing (o.val / 4) * 4 + o.val % 4) ++ [y] ∧ y.w.val = x.w.val ∧
          y.w.poison = ((mergePorts w).any (fun p => ((Tab.get [] q.inq (p * 4 + mergeTrk w)).head?.map (·.w.poison)).getD false) || bad))) ∧
    (if Tab.get false q0.stalled o.val then exec (.scheduleStall c o) s = .next s
     else Nexts (.scheduleStall c o) s (fun t => t = { Books s t with routers := t.routers } ∧
       Tab.get false (t.router key).stalled o.val = true ∧ (t.router key).inq = q0.inq ∧ (∀ m, m ≠ key → t.router m = s.router m)))

/-- A router takes an outbound operation, and a slot moves a word. -/
def Obligations.RouterSlots : Prop := Claims.InjectionTakes ∧ Claims.SlotsMoveWords

/-- R51, R197, R200, R210: a WRITE at the head of a core's inbox is written word by word from 4 × WADDR with its poison tags, in whatever state the core
is, its tap flag set where TAPEN is 1; a TAPSET sets its flag; each is then acknowledged. An ACK takes the oldest unacknowledged packet of its
route and sets its tap where TAPEN is 1. -/
def Sys2Proof.Claims.FabricDelivery : Prop :=
  ∀ (s : State) (c : CoreId) (p : Packet) (r : List Packet),
    let key := coreKey c
    let k := s.core c
    let h := p.hdr.val
    (s.router key).inbox = p :: r → p.hdr.poison = false →
    (hType h = 1 → inMem (4 * fld h 15 0) (4 * p.pay.length) = true →
      Nexts (.write c) s (fun t => t = { s with cores := t.cores, routers := t.routers, acks := t.acks, power := t.power, draws := t.draws } ∧
        (t.router key).inbox = r ∧ (∀ d, d ≠ c → t.core d = s.core d) ∧
        (∀ i w, p.pay[i]? = some w → (t.core c).memWord (4 * fld h 15 0 + 4 * i) = w) ∧
        (∀ a, a < 4 * fld h 15 0 ∨ 4 * fld h 15 0 + 4 * p.pay.length ≤ a → Memory.byte (t.core c).mem a = Memory.byte k.mem a) ∧
        (∀ u, (t.core c).tapOn u = (k.tapOn u || (hTapEn h && decide (u = hTap h)))) ∧
        (t.core c).pc = k.pc ∧ (t.core c).s = k.s ∧ (t.core c).a = k.a ∧ (t.core c).v = k.v ∧ (t.core c).d = k.d)) ∧
    (hType h = 2 →
      Nexts (.tapset c) s (fun t => t = { s with cores := t.cores, routers := t.routers, acks := t.acks, power := t.power, draws := t.draws } ∧
        (t.router key).inbox = r ∧ (∀ d, d ≠ c → t.core d = s.core d) ∧ (t.core c).mem = k.mem ∧ (t.core c).s = k.s ∧
        ∀ u, (t.core c).tapOn u = (k.tapOn u || decide (u = hTap h)))) ∧
    (∀ route : BitVec 8, hType h = 6 → fld h 7 0 = route.toNat → k.unacked.any (fun u => u.route == route) = true →
      Nexts (.ack (.core c) route) s (fun t => t = { s with cores := t.cores, routers := t.routers, power := t.power } ∧
        (t.router key).inbox = r ∧ (∀ d, d ≠ c → t.core d = s.core d) ∧ (t.core c).unacked.length + 1 = k.unacked.length ∧
        (t.core c).mem = k.mem ∧ ∀ u, (t.core c).tapOn u = (k.tapOn u || (hTapEn h && decide (u = hTap h))))) ∧
    (∀ route : BitVec 8, hType h = 6 → fld h 7 0 = route.toNat → k.unacked.any (fun u => u.route == route) = false →
      Nexts (.ack (.core c) route) s (fun t => t = { Books s t with routers := t.routers } ∧ (t.router key).inbox = r))

/-- R185, R205, R208, R446: a router that becomes unusable, of a core or passed through, is out of service, and each partition with a track
loaded through it is route-lost; a second loss of it changes nothing. A route-lost partition's RUNNING cores are fenced in the end. -/
def Sys2Proof.Claims.RouteLoss : Prop :=
  (∀ (s : State) (py : Fin 1080) (px : Fin 1050),
    let pl := py.val * 2048 + px.val
    if placeLost s pl then exec (.routerLoss ⟨py, px⟩) s = .next s
    else Nexts (.routerLoss ⟨py, px⟩) s (fun t => t.lostRouters = s.lostRouters ++ [pl] ∧ placeLost t pl = true ∧
      (∀ p ∈ ownersThrough s (· == pl), p ≠ 0 → (t.part p).routeLost = true) ∧ (∀ p, (s.part p).routeLost = true → (t.part p).routeLost = true) ∧
      (t.tiers = s.tiers ∧ t.hw = s.hw ∧ t.ports = s.ports ∧ t.time = s.time))) ∧
  (∀ (s : State) (p : Vf),
    if (s.part (vfPart p)).routeLost then
      Nexts (.routeLostRunningFence p) s (fun t =>
        (∀ c, coreKey c ∈ listedKeys s (vfPart p) → (s.core c).st = .running → (t.core c).st = .fenced) ∧
        t.tiers = s.tiers ∧ t.hw = s.hw ∧ t.ports = s.ports)
    else exec (.routeLostRunningFence p) s = .next s)

/-- What a packet does where it arrives, and what a lost route does. -/
def Obligations.FabricArrivals : Prop := Claims.FabricDelivery ∧ Claims.RouteLoss

/-- R200, R216: an ACK of a route on which a home holds one back waits behind it; any other leaves at once. -/
def Sys2Proof.Claims.AcksWait : Prop :=
  ∀ (s : State) (p : Packet) (tap : Option Nat),
    if s.acks.any (fun a => sameRoute a.pkt p) then sendAck s p tap = { s with acks := s.acks ++ [⟨p, tap, true⟩] }
    else (sendAck s p tap).acks = s.acks ∧ ∃ w r, (sendAck s p tap).router p.router =
      { s.router p.router with inq := Tab.put (s.router p.router).inq p.inTrack (Tab.get [] (s.router p.router).inq p.inTrack ++ [⟨⟨w, false⟩, r⟩]) } ∧
      fld w 31 28 = 6

/-- R110, R111, R200, R215 to R218, R231: an advance adds its step to one chime of the partition and to no other, and takes from the pending watches
exactly those of the chime whose number it has reached; beyond the quota it changes no chime and is counted. A watch is answered where
its number is reached, kept with its ACK held back where its partition has room at the home, else answered without its tap and reported. SYNC_CHIME_ADD advances
the selected chime, a step of 2^31 or more being refused. -/
def Obligations.ChimesAtHomes : Prop :=
  AcksWait ∧
  (∀ (s : State) (e : Engine) (p : Packet) (r : List Packet) (tap n : Nat) (step : Word),
    let q := packetPart s p
    let g := (s.part q).chimeBase + n
    (engineSt s e.val).inbox = p :: r → badAtEngine p = false → isChime p = true → chimeFields e.val p = some (false, tap, n, step) →
    Nexts (.advance e) s (fun t => (engineSt t e.val).inbox = r ∧ t.cores = s.cores ∧ t.tiers = s.tiers ∧ t.streams = s.streams ∧
      (if n < (s.part q).chimeCount then
        (∀ h, chimeVal t h = if h = g then chimeVal s g + step else chimeVal s h) ∧ Tab.get 0 t.chimeTime g = s.time ∧
        ∀ w, w ∈ t.watches ↔ w ∈ s.watches ∧ ¬ (w.chime = g ∧ atOrPast (chimeVal s g + step) w.thr = true)
       else t.chimes = s.chimes ∧ t.watches = s.watches ∧ (q ≠ 0 → regGet t 0 q 0x200058 = 3)))) ∧
  (∀ (s : State) (e : Engine) (p : Packet) (r : List Packet) (tap n : Nat) (thr : Word),
    let q := packetPart s p
    (engineSt s e.val).inbox = p :: r → badAtEngine p = false → isChime p = true → chimeFields e.val p = some (true, tap, n, thr) →
    Nexts (.watch e) s (fun t => (engineSt t e.val).inbox = r ∧ t.chimes = s.chimes ∧ t.tiers = s.tiers ∧ t.parts = s.parts ∧
      (atOrPast (partChimeVal s q n) thr = true → t.watches = s.watches ∧ t.cores = s.cores ∧ t.regs = s.regs) ∧
      (atOrPast (partChimeVal s q n) thr = false → ∀ c, packetCore p = some c →
        if watchesHeld s q e.val < (s.part q).watch then
          t.watches = s.watches ++ [⟨watchKey s q n, thr, .core c (Fin.ofNat 64 tap) p⟩] ∧ t.cores = s.cores ∧ t.routers = s.routers ∧
          t.acks = s.acks ++ [⟨p, none, false⟩]
        else t.watches = s.watches ∧ (t.core c).watchTaps = (s.core c).watchTaps &&& ~~~((1 : BitVec 64) <<< tap) ∧
          (t.core c).ctl = (s.core c).ctl))) ∧
  (∀ (s : State) (p : Vf) (step : Word),
    let q := vfPart p
    let n := chimeSel s q
    let g := (s.part q).chimeBase + n
    if 2 ^ 31 ≤ step.toNat then exec (.syncChimeAdd p step) s = .next (regOr s q 0 0x80000C 0x20)
    else if n < (s.part q).chimeCount then Nexts (.syncChimeAdd p step) s (fun t =>
      (∀ h, chimeVal t h = if h = g then chimeVal s g + step else chimeVal s h) ∧ t.cores = s.cores ∧ t.tiers = s.tiers ∧
      (∀ w, w ∈ t.watches ↔ w ∈ s.watches ∧ ¬ (w.chime = g ∧ atOrPast (chimeVal s g + step) w.thr = true)))
    else Nexts (.syncChimeAdd p step) s (fun t => t = { s with regs := t.regs } ∧ regGet t 0 q 0x200058 = 3))

/-- R113, R114, R222, R225, R228: an arrival whose earlier packets are acknowledged takes effect: its lane is BUSY with one more core arrived, and
where every participant has arrived it is released: IDLE with one more release, and each arrived core's arrival is over. On a FAILED lane
it ends without effect. A lane that is BUSY at its timeout is FAILED, every arrival outstanding on it over with status 2 and the fault bit set;
any other does not change. -/
def Sys2Proof.Claims.LaneBarriers : Prop :=
  (∀ (s : State) (c : CoreId) (l : Fin 64) (a : Fin 64 × Nat) (n : Nat),
    let k := s.core c
    let k' : Core := { k with arriving := takeFirst (fun x => x.1 == l) k.arriving }
    let ln := s.lane n
    let s1 := (s.setCore c k').setLane n { ln with st := .busy, arrived := ln.arrived ++ [c] }
    k.arriving.find? (fun x => x.1 == l) = some a → physLane s (partOfKey s (coreKey c)) l.val = some n →
    (ackedBelow k a.2 = false → exec (.laneArrival c l) s = .next s) ∧
    (ackedBelow k a.2 = true → ln.st = .failed → exec (.laneArrival c l) s = .next (s.setCore c (setPend k' l.val false))) ∧
    (ackedBelow k a.2 = true → ln.st ≠ .failed → laneComplete s1 n = false → exec (.laneArrival c l) s = .next s1) ∧
    (ackedBelow k a.2 = true → ln.st ≠ .failed → laneComplete s1 n = true → Nexts (.laneArrival c l) s (fun t =>
      (t.lane n).st = .idle ∧ (t.lane n).arrived = [] ∧ (t.lane n).releases = ln.releases + 1 ∧ (∀ m, m ≠ n → t.lane m = s.lane m) ∧
      t.tiers = s.tiers ∧ ∀ d ∈ ln.arrived ++ [c], laneIndex s1 n < 64 → (lanePend (t.core d)).getLsbD (laneIndex s1 n) = false ∧
        Tab.get 0 (t.core d).dbRel (laneIndex s1 n) = (if (s.part ln.owner).routeLost then 3 else 0) ∧ (t.core d).mem = (s.core d).mem))) ∧
  (∀ (s : State) (n : Fin 64),
    if (s.lane n.val).st = .busy then Nexts (.laneTimeout n) s (fun t =>
      (t.lane n.val).st = .failed ∧ (t.lane n.val).arrived = [] ∧ (t.lane n.val).releases = (s.lane n.val).releases ∧
      (∀ m, m ≠ n.val → t.lane m = s.lane m) ∧ t.tiers = s.tiers ∧ t.parts = s.parts ∧
      (regGet t (s.lane n.val).owner 0 0x80000C).getLsbD 4 = true ∧
      ∀ d ∈ laneOutstanding s n.val, laneIndex s n.val < 64 → (lanePend (t.core d)).getLsbD (laneIndex s n.val) = false ∧
        Tab.get 0 (t.core d).dbRel (laneIndex s n.val) = 2)
    else exec (.laneTimeout n) s = .next s)

/-- R219, R224, R226, R231: a write of a SYNC_ register that its rule refuses sets the CONFIG fault bit and nothing else. A pair written is the one of
the selected producer: its fields follow the word, its references the chimes' values when it is formed or repaired. Of a lane, the control word
and the fields of the mask follow what is written, within the partition's fields; they are in force at once unless the lane is BUSY. -/
def Sys2Proof.Claims.SyncRegisters : Prop :=
  (∀ (s : State) (p : Vf) (v : Word),
    let q := vfPart p
    let n := chimeSel s q
    let cons := fld v 15 0
    let g := (s.part q).chimeBase + n
    let old := pairAt s g
    let bad := (s.part q).chimeCount ≤ n ∨ (v.getLsbD 31 = true ∧ ((s.part q).chimeCount ≤ cons ∨ (s.part q).lanes.length ≤ fld v 29 24 ∨
      cons = n ∨ inPair s q n n = true ∨ inPair s q cons n = true ∨ isStatusChime s q n = true ∨ isStatusChime s q cons = true))
    (bad → exec (.syncPairCfgWrite p v) s = .next (regOr s q 0 0x80000C 0x20)) ∧
    (¬ bad → Nexts (.syncPairCfgWrite p v) s (fun t => t = { s with pairs := t.pairs } ∧ (∀ h, h ≠ g → pairAt t h = pairAt s h) ∧
      (pairAt t g).valid = v.getLsbD 31 ∧ (pairAt t g).lane.toNat = fld v 29 24 ∧ (pairAt t g).consumer.toNat = cons ∧
      (pairAt t g).bound = old.bound ∧ (pairAt t g).broken = (old.broken && !v.getLsbD 30) ∧
      (((v.getLsbD 30 = true ∧ old.broken = true) ∨ (v.getLsbD 31 = true ∧ (old.valid = false ∨ old.consumer.toNat ≠ cons))) →
        (pairAt t g).refP = chimeVal s g ∧ (pairAt t g).refC = chimeVal s ((s.part q).chimeBase + cons))))) ∧
  (∀ (s : State) (p : Vf) (l : Fin 64) (v : Word) (n : Nat),
    let q := vfPart p
    let ln := s.lane n
    physLane s q l.val = some n →
    (v.getLsbD 16 = true ∧ ((s.part q).chimeCount ≤ fld v 15 0 ∨ inPair s q (fld v 15 0) 65536 = true) →
      exec (.syncLaneCtrlWrite p l v) s = .next (regOr s q 0 0x80000C 0x20)) ∧
    (¬ (v.getLsbD 16 = true ∧ ((s.part q).chimeCount ≤ fld v 15 0 ∨ inPair s q (fld v 15 0) 65536 = true)) →
      Nexts (.syncLaneCtrlWrite p l v) s (fun t => t = { s with lanes := t.lanes } ∧ (∀ m, m ≠ n → t.lane m = s.lane m) ∧
        t.lane n = { ln with ctrl := v &&& 0x1FFFF, ctrlF := if ln.st = .busy then ln.ctrlF else v &&& 0x1FFFF,
                             maskF := if ln.st = .busy then ln.maskF else ln.mask }))) ∧
  (∀ (s : State) (p : Vf) (l : Fin 64) (w : Fin 3) (v : Word) (n : Nat),
    let q := vfPart p
    let ln := s.lane n
    physLane s q l.val = some n →
      Nexts (.syncLaneMaskWrite p l w v) s (fun t => t = { s with lanes := t.lanes } ∧ (∀ m, m ≠ n → t.lane m = s.lane m) ∧
        (∀ f, f < 84 → (t.lane n).mask.getLsbD f =
          if f / 32 = w.val then v.getLsbD (f % 32) && (s.part q).fields.getLsbD f else ln.mask.getLsbD f) ∧
        (t.lane n).maskF = (if ln.st = .busy then ln.maskF else (t.lane n).mask) ∧ (t.lane n).st = ln.st ∧ (t.lane n).arrived = ln.arrived ∧
        (t.lane n).releases = ln.releases)) ∧
  (∀ (s : State) (p : Vf) (l : Fin 64) (w : Fin 3) (v : Word), physLane s (vfPart p) l.val = none →
    exec (.syncLaneCtrlWrite p l v) s = .next s ∧ exec (.syncLaneMaskWrite p l w v) s = .next s)

/-- Downbeat barriers at their lanes, and the SYNC_ registers that set them up. -/
def Obligations.DownbeatLanes : Prop := Claims.LaneBarriers ∧ Claims.SyncRegisters

/-- The packet p at the head of engine e's inbox, with r behind it, is a STREAM packet of OP `op` with second word w for the stream of module
number k (R289). -/
def Sys2Proof.Claims.StreamIn (s : State) (e : Engine) (op : Nat) (p : Packet) (r : List Packet) (k : Nat) (w : Word) : Prop :=
  (engineSt s e.val).inbox = p :: r ∧ badAtEngine p = false ∧ hType p.hdr.val = 4 ∧
    ∃ n, streamFields p = some (op, n, w) ∧ streamKey s (packetPart s p) n = some k ∧ (stream s k).engine = e.val

/-- Every stream but that of module number k is as before. -/
def Sys2Proof.Claims.OtherStreams (s t : State) (k : Nat) : Prop := ∀ j, j ≠ k → stream t j = stream s j

/-- R289 to R295, R302 to R304, R492: with the packet taken and acknowledged, an ATTACH of an idle, sound and matching entry counts one more
member, and with the last the stream is ACTIVE or, masked, waits for its mask chime; a refused one leaves its code; DETACH makes a stream that
is attaching or active IDLE, its pieces still out going on to be discarded; REL returns places no faster than buffers were written; a fence release moves FR on, never back. Nothing else is written in T2. -/
def Obligations.StreamPackets : Prop :=
  ∀ (s : State) (e : Engine) (p : Packet) (r : List Packet) (k : Nat) (w : Word) (m : BitVec 8),
    let q := packetPart s p
    let x := stream s k
    let s' := sendAck (popEngine s e.val) p none
    (StreamIn s e 1 p r k w →
      (x.isIdle = false → exec (.attach e ⟨m, false⟩) s = .next (regOr s' q 0 0x300020 8)) ∧
      (x.isIdle = true → x.bad true = true → Nexts (.attach e ⟨m, false⟩) s (fun t => (stream t k).st = .badEntry ∧ OtherStreams s t k ∧ t.tiers = s.tiers)) ∧
      (x.isIdle = true → Nexts (.attach e ⟨m, true⟩) s (fun t => (stream t k).st = .badEntry ∧ OtherStreams s t k ∧ t.tiers = s.tiers)) ∧
      (x.isIdle = true → x.bad true = false → fld w 31 16 ≠ x.gen →
        Nexts (.attach e ⟨m, false⟩) s (fun t => (stream t k).st = .genMismatch ∧ OtherStreams s t k ∧ t.tiers = s.tiers)) ∧
      (x.isIdle = true → x.bad true = false → fld w 31 16 = x.gen → x.attached = 0 → cacheFull s e.val = true →
        Nexts (.attach e ⟨m, false⟩) s (fun t => (stream t k).st = .noRoom ∧ OtherStreams s t k ∧ t.tiers = s.tiers)) ∧
      (x.isIdle = true → x.bad true = false → fld w 31 16 = x.gen → x.attached ≠ 0 ∨ cacheFull s e.val = false →
        Nexts (.attach e ⟨m, false⟩) s (fun t => OtherStreams s t k ∧ (stream t k).attached = x.attached + 1 ∧ (stream t k).entry = x.entry ∧
          (stream t k).attM = (if x.attached = 0 then [] else x.attM) ++ [m.toNat] ∧
          (stream t k).stat = (if x.attached = 0 then 8 * fld w 14 0 else x.stat) ∧
          (x.attached + 1 ≠ x.members → (stream t k).st = .idle ∧ t.tiers = s.tiers ∧ t.watches = s.watches) ∧
          (x.attached + 1 = x.members → x.masked = false → (stream t k).st = .active ∧ t.tiers = s.tiers ∧ t.watches = s.watches) ∧
          (x.attached + 1 = x.members → x.masked = true → (stream t k).st = .maskWait ∧
            t.watches = s.watches ++ [⟨watchKey s q x.chime, x.mt + x.pass, .stream k⟩])))) ∧
    (StreamIn s e 2 p r k w →
      (x.st = .copying ∨ (x.isIdle = true ∧ x.attached = 0) → exec (.detach e) s = .next s') ∧
      (x.st ≠ .copying → x.isIdle = false ∨ x.attached ≠ 0 → Nexts (.detach e) s (fun t => OtherStreams s t k ∧ t.tiers = s.tiers ∧
        (stream t k).st = .idle ∧ (stream t k).attached = 0 ∧ (stream t k).pieces = [] ∧
        (stream t k).flights = x.flights ++ (x.pieces.filter (fun c => c.got.isNone)).map (fun c => c.flight x) ∧ (stream t k).entry = x.entry ∧ (stream t k).pass = x.pass ∧
        ∀ v ∈ t.watches, v.who ≠ .stream k))) ∧
    (StreamIn s e 3 p r k w →
      (x.isIdle = true ∨ x.st = .copying → exec (.rel e) s = .next (regOr s' q 0 0x300020 8)) ∧
      (x.isIdle = false → x.st ≠ .copying → x.kind = 2 → Nexts (.rel e) s (fun t => OtherStreams s t k ∧ t.tiers = s.tiers ∧
        stream t k = { x with drainable := x.drainable + min w.toNat (x.received.length - x.drainable) })) ∧
      (x.isIdle = false → x.st ≠ .copying → x.kind ≠ 2 → x.members = 1 → Nexts (.rel e) s (fun t => OtherStreams s t k ∧
        Tab.get 0 (stream t k).freedM 0 = Tab.get 0 x.freedM 0 + min w.toNat (Tab.get 0 x.writtenM 0 - Tab.get 0 x.freedM 0))) ∧
      (x.isIdle = false → x.st ≠ .copying → x.kind ≠ 2 → x.members ≠ 1 → Nexts (.rel e) s (fun t => OtherStreams s t k ∧
        Tab.get 0 (stream t k).freedM (fld w 31 24) = Tab.get 0 x.freedM (fld w 31 24) +
          min (fld w 23 0) (Tab.get 0 x.writtenM (fld w 31 24) - Tab.get 0 x.freedM (fld w 31 24))))) ∧
    (StreamIn s e 4 p r k w →
      (x.isIdle = true ∨ x.st = .copying ∨ 2 ^ 15 ≤ (w.truncate 16 - x.fr : BitVec 16).toNat → exec (.frelPacket e) s = .next s') ∧
      (x.isIdle = false → x.st ≠ .copying → (w.truncate 16 - x.fr : BitVec 16).toNat < 2 ^ 15 →
        Nexts (.frelPacket e) s (fun t => OtherStreams s t k ∧ (stream t k).fr = w.truncate 16)))

/-- R282, R287, R295, R300, R302, R303, R308: a STRM_CMD is ignored while a copy runs, and counted as a violation beyond the grant; a stream
that is not IDLE refuses WRITE and START with code 2; WRITE puts the entry registers into an IDLE entry; READ puts an entry into the entry
registers; START begins the copy of a sound entry; FREL moves FR on. -/
def Obligations.StreamCommands : Prop :=
  ∀ (s : State) (p : Vf) (n : BitVec 16),
    let q := vfPart p
    (strmBusy s q = true → exec (.strmWrite p) s = .next s ∧ exec (.strmRead p) s = .next s ∧ exec (.strmStart p false) s = .next s ∧
      exec (.strmCmdFrel p n) s = .next s) ∧
    (strmBusy s q = false → streamKey s q (strmSel s q) = none → ∀ i ∈ [.strmWrite p, .strmRead p, .strmStart p false, .strmCmdFrel p n],
      Nexts i s (fun t => t = { s with regs := t.regs } ∧ regGet t 0 q 0x200058 = 5 ∧ regGet t q 0 0x30001C = 0)) ∧
    ∀ k, strmBusy s q = false → streamKey s q (strmSel s q) = some k →
      let x := stream s k
      (x.isIdle = false ∨ x.attached ≠ 0 → exec (.strmWrite p) s = .next (regSet s q 0 0x30001C 2) ∧
        exec (.strmStart p false) s = .next (regSet s q 0 0x30001C 2)) ∧
      (x.isIdle = true → x.attached = 0 → Nexts (.strmWrite p) s (fun t => t = { s with streams := t.streams, regs := t.regs } ∧
        OtherStreams s t k ∧ regGet t q 0 0x30001C = 0 ∧ (∀ i, i < 16 → (stream t k).w i = regGet s q 0 (0x300080 + 4 * i)) ∧
        stream t k = { entry := (stream t k).entry, flights := x.flights })) ∧
      Nexts (.strmRead p) s (fun t => t = { s with regs := t.regs } ∧ regGet t q 0 0x30001C = 0 ∧
        ∀ i, i < 16 → regGet t q 0 (0x300080 + 4 * i) = x.w i) ∧
      (x.isIdle = true → x.attached = 0 → Nexts (.strmStart p true) s (fun t => (stream t k).st = .badEntry ∧ OtherStreams s t k ∧
        t.tiers = s.tiers ∧ regGet t q 0 0x30001C = 2)) ∧
      (x.isIdle = true → x.attached = 0 → x.bad false = true → Nexts (.strmStart p false) s (fun t => (stream t k).st = .badEntry ∧
        OtherStreams s t k ∧ t = { s with streams := t.streams, regs := t.regs } ∧ regGet t q 0 0x30001C = 2)) ∧
      (x.isIdle = true → x.attached = 0 → x.bad false = false → cacheFull s x.engine = false → Nexts (.strmStart p false) s (fun t =>
        (stream t k).st = .copying ∧ (stream t k).entry = x.entry ∧ OtherStreams s t k ∧
        t = { s with streams := t.streams, regs := t.regs } ∧ regGet t q 0 0x30001C = 0)) ∧
      (x.isIdle = true ∨ x.st = .copying ∨ 2 ^ 15 ≤ (n - x.fr).toNat → exec (.strmCmdFrel p n) s = .next (regSet s q 0 0x30001C 0)) ∧
      (x.isIdle = false → x.st ≠ .copying → (n - x.fr).toNat < 2 ^ 15 → Nexts (.strmCmdFrel p n) s (fun t =>
        (stream t k).fr = n ∧ OtherStreams s t k))

/-- R281, R285, R294, R300: a window's stream whose turn has come adds the next piece of its walk to those out, the first piece of a buffer
taking the buffer's place; a copy adds its next; where the stream may not issue, or it is another queue's turn, nothing happens. -/
def Sys2Proof.Claims.PiecesIssued : Prop :=
  ∀ (s : State) (p : Vf) (n : BitVec 16) (k : Nat),
    let q := vfPart p
    streamKey s q n.toNat = some k →
    (issueOk s q (stream s k) = false ∨ turnOk s q k = false → exec (.pieceIssue p n) s = .next s) ∧
    (issueOk s q (stream s k) = true → turnOk s q k = true → (stream s k).st = .copying → ∀ c, (copyPieces (stream s k))[(stream s k).nextBuf]? = some c →
      Nexts (.pieceIssue p n) s (fun t => OtherStreams s t k ∧ t.tiers = s.tiers ∧ t.cores = s.cores ∧
        stream t k = { stream s k with nextBuf := (stream s k).nextBuf + 1, pieces := (stream s k).pieces ++ [c] })) ∧
    (issueOk s q (stream s k) = true → turnOk s q k = true → (stream s k).st ≠ .copying → ∀ c rest,
      let s' := sourceBegin s q k
      let x := stream s' k
      let head := x.img && !x.headIn
      (if x.plan = [] then piecesOf s' q x x.nextBuf else x.plan) = c :: rest → x.plan ≠ [] ∨ head = true ∨ x.nextBuf < x.total →
      Nexts (.pieceIssue p n) s (fun t => OtherStreams s t k ∧ t.tiers = s.tiers ∧ t.cores = s.cores ∧
        (stream t k).pieces = x.pieces ++ [c] ∧ (stream t k).plan = rest ∧ (stream t k).st = x.st ∧ (stream t k).wrote = x.wrote ∧
        (stream t k).nextBuf = (if rest = [] ∧ head = false then x.nextBuf + 1 else x.nextBuf) ∧
        (stream t k).queued = (if x.plan = [] ∧ head = false then x.queued + 1 else x.queued)))

/-- R294, R300, R304: a piece of a window that comes is held with its words, those of a T2 walk as T2 holds them, and the stream goes on; a
piece of a copy is no longer out, and of a T2 copy its words stand at DST; one whose stream was detached is discarded. -/
def Sys2Proof.Claims.PiecesCome : Prop :=
  ∀ (s : State) (p : Vf) (n : BitVec 16) (k idx : Nat) (r : PieceResult),
    let q := vfPart p
    let x := stream s k
    streamKey s q n.toNat = some k →
    (∀ c, x.pieces[idx]? = some c →
      (c.got.isSome = true → exec (.pieceComplete p n idx r) s = .next s) ∧
      (c.got = none → c.head = false → x.st ≠ .copying → ∃ t, exec (.pieceComplete p n idx r) s = .next (goOn t q k) ∧ OtherStreams s t k ∧
        t.tiers.mem = s.tiers.mem ∧ t.cores = s.cores ∧ ∃ ws : List (Nat × List PWord), ws.map (fun g => (g.1, g.2.length)) = c.runs.map (fun g => (g.1, g.2.2)) ∧
          stream t k = { x with pieces := x.pieces.set idx { c with got := some ws } } ∧
          (x.kind = 0 → r.ue = false → ∀ (j pos : Nat) (off : Int) (len i : Nat), c.runs[j]? = some (pos, off, len) → i < len →
            ∃ g, ws[j]? = some g ∧ g.2[i]? = some (t2Word s q (x.t2Addr (off + 4 * Int.ofNat i))))) ∧
      (c.got = none → x.st = .copying → Nexts (.pieceComplete p n idx r) s (fun t => OtherStreams s t k ∧ t.cores = s.cores ∧
        stream t k = { x with pieces := x.pieces.eraseIdx idx } ∧
        (∀ (pos : Nat) (off : Int) (len f : Nat), x.kind ≠ 1 → x.kind ≠ 3 → r.ue = false → c.runs = [(pos, off, len)] → pos + 4 * len ≤ x.len →
          frameOf s q (x.dst + pos) = some f → frameDead s f = false → (x.dst + pos) % frameBytes + 4 * len ≤ frameBytes →
          ∀ i, i < len → t2Word t q (x.dst + pos + 4 * i) = t2Word s q (x.t2Addr (off + 4 * Int.ofNat i)))))) ∧
    (∀ f, x.pieces.length ≤ idx → x.flights[idx - x.pieces.length]? = some f → Nexts (.pieceComplete p n idx r) s (fun t => OtherStreams s t k ∧
      t.cores = s.cores ∧ t.tiers.mem = s.tiers.mem ∧ stream t k = { x with flights := x.flights.eraseIdx (idx - x.pieces.length) })) ∧
    (x.pieces.length + x.flights.length ≤ idx → exec (.pieceComplete p n idx r) s = .next s)

/-- R281, R285, R291, R293, R294, R296, R297, R300: pieces are issued and come back; a copy whose pieces have all come counts its pass and leaves
the stream IDLE; a mask chime reached begins the pass; a packet of an outbound window is one more buffer received; the oldest buffer returned
by a REL is drained to T2 at its walk positions. A stream beyond the grant does nothing. -/
def Obligations.StreamTransfers : Prop :=
  PiecesIssued ∧ PiecesCome ∧
  (∀ (s : State) (p : Vf) (n : BitVec 16), streamKey s (vfPart p) n.toNat = none → ∀ (idx : Nat) (r : PieceResult),
    exec (.pieceIssue p n) s = .next s ∧ exec (.copyComplete p n) s = .next s ∧ exec (.maskChimeReached p n) s = .next s ∧
    exec (.bufferDrained p n) s = .next s ∧ exec (.pieceComplete p n idx r) s = .next s) ∧
  (∀ (s : State) (p : Vf) (n : BitVec 16) (k : Nat),
    let q := vfPart p
    let x := stream s k
    streamKey s q n.toNat = some k →
    (x.st ≠ .copying ∨ x.copied = false → exec (.copyComplete p n) s = .next s) ∧
    (x.st = .copying → x.copied = true → Nexts (.copyComplete p n) s (fun t => OtherStreams s t k ∧ (stream t k).st = .idle ∧
      (stream t k).pass = x.pass + 1 ∧ (stream t k).entry = x.entry ∧ t.cores = s.cores ∧ t.tiers = s.tiers ∧
      (x.chEn = false → t.chimes = s.chimes))) ∧
    (x.st ≠ .maskWait ∨ atOrPast (partChimeVal s q x.chime) (x.mt + x.pass) = false → exec (.maskChimeReached p n) s = .next s) ∧
    (x.st = .maskWait → atOrPast (partChimeVal s q x.chime) (x.mt + x.pass) = true →
      Nexts (.maskChimeReached p n) s (fun t => OtherStreams s t k ∧ t.cores = s.cores ∧
        t = goOn (toState (passBegin (unwatch s k) q k) q k .active) q k))) ∧
  (∀ (s : State) (e : Engine) (p : Packet) (r : List Packet),
    (engineSt s e.val).inbox = p :: r → badAtEngine p = false → hType p.hdr.val = 1 →
    (outboundOf s e.val (packetPart s p) p = none → Nexts (.outboundBufferReceive e) s (fun t => t.streams = s.streams ∧ t.tiers = s.tiers ∧
      (engineSt t e.val).inbox = r)) ∧
    (∀ k, outboundOf s e.val (packetPart s p) p = some k → Nexts (.outboundBufferReceive e) s (fun t => OtherStreams s t k ∧
      stream t k = { stream s k with received := (stream s k).received ++ [p.pay] } ∧ (engineSt t e.val).inbox = r ∧ t.tiers = s.tiers))) ∧
  (∀ (s : State) (p : Vf) (n : BitVec 16) (k : Nat) (ws : List PWord) (rest : List (List PWord)),
    let q := vfPart p
    let x := stream s k
    streamKey s q n.toNat = some k → x.received = ws :: rest → x.kind = 2 → x.masked = false →
    (x.st ≠ .active ∨ x.drainable = 0 ∨ x.fenceOpen (x.numbered + 1) = false → exec (.bufferDrained p n) s = .next s) ∧
    (x.st = .active → x.drainable ≠ 0 → x.fenceOpen (x.numbered + 1) = true → Nexts (.bufferDrained p n) s (fun t => OtherStreams s t k ∧
      (stream t k).received = rest ∧ (stream t k).drainable + 1 = x.drainable ∧ t.tiers = (drainWrite s q x ws).tiers ∧ t.cores = s.cores)))
/-- R169 to R175, R197: a slice writes a delivery into its memory and counts it where its tap names a valid slot into whose input buffer it
goes, starting the pass when its last input has come; a slot that a delivery leaves valid has its fields in range; the end of a pass's
computation makes its mask record, moves the audit cursor and the pass number on; a record written stands in T2, the slice sends the advance of
the mask chime, and its pass awaits reports; a report goes to the pass of its slot. One slice never touches another. Which route a slice uses
is free (log entry 94). -/
def Obligations.PredictorSlices : Prop :=
  (∀ (s : State) (f : Field) (p : Packet) (r : List Packet),
    let x := s.slice f.val
    let a := 4 * fld p.hdr.val 15 0
    let n := (hTap p.hdr.val).val
    let t0 := x.slot n
    let cnt := fld (x.ent n 1) 7 0
    let len := 4 * p.pay.length
    let into := x.intoInput n a len
    x.inbox = p :: r → badAtSlice p = false → hType p.hdr.val = 1 →
    (hTapEn p.hdr.val = true → x.valid n = false → Nexts (.sliceInputDelivery f) s (fun t =>
      t = { s with slices := t.slices, routers := t.routers, acks := t.acks, draws := t.draws } ∧ t.slice f.val = { x with inbox := r } ∧
      ∀ g, g ≠ f.val → t.slice g = s.slice g)) ∧
    (hTapEn p.hdr.val = false ∨ x.valid n = true → Nexts (.sliceInputDelivery f) s (fun t =>
      t = { s with slices := t.slices, routers := t.routers, acks := t.acks, draws := t.draws } ∧ (∀ g, g ≠ f.val → t.slice g = s.slice g) ∧
      (t.slice f.val).inbox = r ∧ (t.slice f.val).writing = x.writing ∧
      (4096 ≤ a → ∀ i w, p.pay[i]? = some w → a + 4 * i + 4 ≤ 2 ^ 21 →
        Memory.word (t.slice f.val).sram (a + 4 * i) = w.val ∧ Tab.get false (t.slice f.val).tag (a / 4 + i) = w.poison) ∧
      (∀ b, b < a ∨ a + len ≤ b → 4096 ≤ b ∨ b / 64 * 64 + 64 ≤ a ∨ a + len ≤ b / 64 * 64 →
        Memory.byte (t.slice f.val).sram b = Memory.byte x.sram b) ∧
      (∀ m, m < 64 → 64 * m < a + len → a < 64 * m + 64 → (t.slice f.val).valid m = true → entryOk ((t.slice f.val).ent m) = true) ∧
      (hTapEn p.hdr.val = false ∨ into = false → (t.slice f.val).slots = x.slots ∧ (t.slice f.val).computing = x.computing) ∧
      (hTapEn p.hdr.val = true → into = true → 4096 ≤ a → t0.inputs + 1 < cnt →
        ((t.slice f.val).slot n).inputs = t0.inputs + 1 ∧ (t.slice f.val).computing = x.computing) ∧
      (hTapEn p.hdr.val = true → into = true → 4096 ≤ a → cnt ≠ 0 → cnt ≤ t0.inputs + 1 → x.computing.contains n = false → t0.opens = [] →
        x.writing = [] → ((t.slice f.val).slot n).inputs = t0.inputs + 1 - cnt ∧ (t.slice f.val).computing = x.computing ++ [n])))) ∧
  (∀ (s : State) (f : Field) (n : Nat) (rest : List Nat),
    let x := s.slice f.val
    x.computing = n :: rest →
      Nexts (.passComputeDone f) s (fun t => t = { s with slices := t.slices } ∧ (∀ g, g ≠ f.val → t.slice g = s.slice g) ∧
        (t.slice f.val).passNo n = x.passNo n + 1 ∧ (t.slice f.val).cursor n = (x.audited n (x.named n)).2 ∧
        ∃ o : OpenPass, o.num = x.passNo n ∧ o.groups = x.groups n ∧ o.audit = (x.audited n (x.named n)).1 ∧ o.miss = [] ∧ o.lasts = [] ∧
          (t.slice f.val).writing = x.writing ++ [⟨n, maskRecord (x.passNo n) (x.named n) o.audit (x.audited n (x.named n)).2, o⟩])) ∧
  (∀ (s : State) (f : Field) (m : MaskRec) (rest : List MaskRec) (fr : Nat),
    let x := s.slice f.val
    let q := partOfField s f.val
    let a := x.recAddr m.slot m.pass.num
    x.writing = m :: rest → (x.slot m.slot).opens = [] → (x.slot m.slot).early = [] → m.pass.lasts = [] → 0 < (x.ent m.slot 10).toNat →
    a % 2048 = 0 → frameOf s q a = some fr → frameDead s fr = false → m.words.length ≤ 512 →
      Nexts (.maskRecordWritten f) s (fun t => (t.slice f.val).writing = rest ∧ ((t.slice f.val).slot m.slot).opens = [{ m.pass with dropped := (x.slot m.slot).dropped }] ∧
        (∀ g, g ≠ f.val → t.slice g = s.slice g) ∧ t.cores = s.cores ∧ t.chimes = s.chimes ∧
        (∀ k, sliceRouter s f.val = some k → x.outq = [] → (∀ n, Tab.get 0 x.unacked n < 16) → ∃ n ws, n < 256 ∧
          Tab.get [] (t.router k).inq 19 = Tab.get [] (s.router k).inq 19 ++ ws ∧ Tab.get 0 (t.slice f.val).unacked n = Tab.get 0 x.unacked n + 1 ∧
          ws.map (·.w.val) = [header 3 none 0, chimeWord 0 0 (BitVec.ofNat 16 (fld (x.ent m.slot 9) 15 0)), 1]) ∧ (∀ i w, m.words[i]? = some w → t2Word t q (a + 4 * i) = ⟨w, false⟩) ∧
        (∀ b, (∀ i, i < m.words.length → b / 4 ≠ (fr * frameBytes + a % frameBytes) / 4 + i) → Memory.byte t.tiers.mem b = Memory.byte s.tiers.mem b))) ∧
  (∀ (s : State) (f : Field) (p : Packet) (r : List Packet) (w : PWord) (ws : List PWord) (o : OpenPass),
    let x := s.slice f.val
    let n := fld w.val 29 24
    x.inbox = p :: r → badAtSlice p = false → hType p.hdr.val = 5 → p.pay = w :: ws →
    (x.valid n = false → Nexts (.pu f) s (fun t => t = { s with slices := t.slices, routers := t.routers, acks := t.acks, draws := t.draws } ∧
      t.slice f.val = { x with inbox := r } ∧ ∀ g, g ≠ f.val → t.slice g = s.slice g)) ∧
    (x.valid n = true → (x.slot n).opens = [o] → o.lasts.length + 1 < (x.ent n 10).toNat → o.lasts.contains (p.hd.map (·.src)) = false →
      Nexts (.pu f) s (fun t => t = { s with slices := t.slices, routers := t.routers, acks := t.acks, draws := t.draws } ∧ (t.slice f.val).inbox = r ∧
        (∀ g, g ≠ f.val → t.slice g = s.slice g) ∧ (t.slice f.val).sram = x.sram ∧ ∃ o', ((t.slice f.val).slot n).opens = [o'] ∧
        o'.lasts = o.lasts ++ (if w.val.getLsbD 31 then [p.hd.map (·.src)] else []) ∧
        (if w.val.getLsbD 30 then
           (if fld w.val 11 0 ∈ o.audit ∧ fld w.val 11 0 < o.groups then
              o'.dropped = o.dropped ∧ ∀ g, g ∈ o'.miss ↔ g ∈ o.miss ∨ g = fld w.val 11 0
            else o'.dropped = o.dropped + 1 ∧ o'.miss = o.miss)
         else o'.dropped = o.dropped ∧ o'.miss = o.miss))))

/-- R240, R250 to R252, R254, R256, R438: a fill ends with its frame zero and free; OFFLINE is refused, or starts the stack's migration, ending
it, with no fill left to come, where no frame is granted there; ONLINE takes an OFFLINE stack that passed its test; a frame copied stands at its target with its contents,
and its table entry names it; a scrub poisons the uncorrectable units of its stack and alters no byte. -/
def Obligations.TierStacks : Prop :=
  (∀ (s : State) (f : Nat),
    if s.tiers.fills.contains f then Nexts (.frameFillDone f) s (fun t => t = { s with tiers := t.tiers } ∧ t.tiers.stack = s.tiers.stack ∧
      f ∉ t.tiers.fills ∧ (∀ g, g ≠ f → (g ∈ t.tiers.fills ↔ g ∈ s.tiers.fills)) ∧
      ∀ b, Memory.byte t.tiers.mem b = if b / frameBytes = f then 0 else Memory.byte s.tiers.mem b)
    else exec (.frameFillDone f) s = .next s) ∧
  (∀ (s : State) (n : BitVec 5),
    let refused := exec (.stackOffline n) s = .next (regOr s 0 0 0x60010C 0x80000000)
    let others := (List.range 24).filter (· != n.toNat)
    (23 < n.toNat ∨ stackState s n.toNat ≠ 0 ∨ (∃ k ∈ others, stackState s k ≠ 0) ∨
      (others.map (fun k => (freeFrames s k).length)).sum < (framesOn s n.toNat).length → refused) ∧
    (n.toNat ≤ 23 → stackState s n.toNat = 0 → (∀ k ∈ others, stackState s k = 0) →
      (framesOn s n.toNat).length ≤ (others.map (fun k => (freeFrames s k).length)).sum →
      Nexts (.stackOffline n) s (fun t => t = { s with tiers := t.tiers, regs := t.regs } ∧ (∀ k, k ≠ n.toNat → stackState t k = stackState s k) ∧
        (framesOn s n.toNat = [] → stackState t n.toNat = 2 ∧ t.tiers.migr = none ∧ (∀ f ∈ t.tiers.fills, frameStack f ≠ n.toNat) ∧ (regGet t 0 0 0x60010C).getLsbD 30 = true ∧
          ∀ b, Memory.byte t.tiers.mem b = if b / 2 ^ 36 = n.toNat then 0 else Memory.byte s.tiers.mem b) ∧
        (framesOn s n.toNat ≠ [] → stackState t n.toNat = 1 ∧ t.tiers.mem = s.tiers.mem ∧
          ∃ m, t.tiers.migr = some m ∧ m.stack = n.toNat ∧ m.frames = framesOn s n.toNat))) ∧
    (if n.toNat ≤ 23 ∧ stackState s n.toNat = 2 ∧ n.toNat ∉ s.tiers.failed then
       Nexts (.stackOnline n) s (fun t => t = { s with tiers := t.tiers } ∧ t.tiers.mem = s.tiers.mem ∧
         ∀ k, stackState t k = if k = n.toNat then 0 else stackState s k)
     else exec (.stackOnline n) s = .next (regOr s 0 0 0x60010C 0x80000000))) ∧
  (∀ (s : State) (n : Fin 24) (m : Migration) (f g p i : Nat) (rest : List Nat), s.tiers.migr = some m → m.stack = n.val → m.frames = f :: rest →
    m.target = some g → holderOf s f = some (p, i) → f ≠ g → frameStack g ≠ n.val → Memory.wf s.tiers.mem = true →
    Nexts (.frameCopyDone n) s (fun t => (t.part p).frames = (s.part p).frames.set i g ∧ (∀ q, q ≠ p → t.part q = s.part q) ∧
      (∀ o, o < frameBytes → Memory.byte t.tiers.mem (g * frameBytes + o) = Memory.byte s.tiers.mem (f * frameBytes + o)) ∧
      (∀ o, o < frameBytes → Memory.byte t.tiers.mem (f * frameBytes + o) = 0) ∧
      (∀ b, b / frameBytes ≠ f → b / frameBytes ≠ g → b / 2 ^ 36 ≠ n.val → Memory.byte t.tiers.mem b = Memory.byte s.tiers.mem b) ∧
      t.cores = s.cores ∧ t.streams = s.streams)) ∧
  (∀ (s : State) (n : Fin 24) (r : ScrubResult),
    (stackState s n.val = 3 → exec (.t2Scrub n r) s = .next s) ∧
    (stackState s n.val ≠ 3 → Nexts (.t2Scrub n r) s (fun t => t = { Books s t with tiers := t.tiers } ∧ t.tiers = { s.tiers with tag := t.tiers.tag } ∧
      ∀ u, Tab.get false t.tiers.tag u = (Tab.get false s.tiers.tag u || r.ue.any (fun a => decide (a / 2 ^ 36 = n.val ∧ a / 64 = u / 16))))))
/-- R245 to R249, R265 to R267, R272, R276 to R278: a transfer is refused by code, while BUSY ignored, or starts; when it ends its bytes, read from T2, stand as
a tensor of the copy under construction or as an addition. -/
def Obligations.WeightTransfers : Prop :=
  ∀ (s : State) (p : Vf) (wear : List Wear),
    let q := vfPart p
    let h := xferHandle s q
    let sl := wslot s q (hSet h)
    let code (c : Word) := regSet s q 0 0x70001C c
    let starts (i : Instr) (x : Xfer) := Nexts i s (fun t => t = { s with wst := t.wst, regs := t.regs } ∧ regGet t q 0 0x70001C = 0 ∧
      t.wst = { s.wst with xfers := t.wst.xfers } ∧ ∀ k, Tab.find t.wst.xfers k = if k = q then some x else Tab.find s.wst.xfers k)
    ((∃ x, Tab.find s.wst.xfers q = some x) →
      exec (.writeBase p) s = .next s ∧ exec (.writeAdd p) s = .next s ∧ exec (.delAdd p) s = .next s) ∧
    (Tab.find s.wst.xfers q = none →
      (hType' h ≠ 1 ∨ hClean h = false ∨ (s.part q).t3Slots ≤ hSet h ∨ sl.bound = false ∨ sl.write = false → exec (.writeBase p) s = .next (code 2)) ∧
      (building (mset s sl.mset) = none ∨ (∃ c, building (mset s sl.mset) = some c ∧ c.count ≤ hNum h) → exec (.writeBase p) s = .next (code 2)) ∧
      (∀ c, hType' h = 1 → hClean h = true → hSet h < (s.part q).t3Slots → sl.bound = true → sl.write = true →
        building (mset s sl.mset) = some c → hNum h < c.count →
        (∀ e, writeCode s q = some e → exec (.writeBase p) s = .next (code e)) ∧
        (writeCode s q = none → Tab.find c.tensors (hNum h) = none →
          (∀ e ∈ s.wst.xfers, ¬ (e.2.base = true ∧ e.2.mset = sl.mset ∧ e.2.tensor = hNum h)) → unitsOf (xferLen s q) ≤ t3Free s →
          starts (.writeBase p) ⟨true, hSet h, sl.mset, hNum h, xferAddr s q, xferLen s q⟩) ∧
        (writeCode s q = none → (Tab.find c.tensors (hNum h)).isSome = true → exec (.writeBase p) s = .next (code 4))) ∧
      (addHandleOk s q h = false → exec (.writeAdd p) s = .next (code 2) ∧ exec (.delAdd p) s = .next (code 2)) ∧
      (addHandleOk s q h = true → (∀ e, writeCode s q = some e → exec (.writeAdd p) s = .next (code e)) ∧
        (writeCode s q = none → Tab.find s.wst.adds (addKey q (hSet h) (hNum h)) = none →
          (addUnits s q + unitsOf (xferLen s q) ≤ (s.part q).t3Units →
            starts (.writeAdd p) ⟨false, hSet h, 0, hNum h, xferAddr s q, xferLen s q⟩) ∧
          ((s.part q).t3Units < addUnits s q + unitsOf (xferLen s q) → Nexts (.writeAdd p) s (fun t => t = { s with regs := t.regs } ∧
            regGet t q 0 0x70001C = 0 ∧ (regGet t q 0 0x600018).getLsbD 3 = true ∧ regGet t 0 q 0x200058 = 2))) ∧
        Nexts (.delAdd p) s (fun t => t = { s with wst := t.wst, regs := t.regs } ∧ regGet t q 0 0x70001C = 0 ∧
          t.wst = { s.wst with adds := t.wst.adds } ∧
          ∀ k, Tab.find t.wst.adds k = if k = addKey q (hSet h) (hNum h) then none else Tab.find s.wst.adds k)) ∧
      exec (.xferDone p wear) s = .next s) ∧
    (∀ x, Tab.find s.wst.xfers q = some x → Nexts (.xferDone p wear) s (fun t => t = { s with wst := t.wst, regs := t.regs } ∧
      Tab.find t.wst.xfers q = none ∧ (∀ k, k ≠ q → Tab.find t.wst.xfers k = Tab.find s.wst.xfers k) ∧
      (x.base = true → t.wst.adds = s.wst.adds ∧ (∀ m, m ≠ x.mset → mset t m = mset s m) ∧
        ∀ c, building (mset s x.mset) = some c → ∃ c', building (mset t x.mset) = some c' ∧ c'.gen = c.gen ∧
          ∀ n, Tab.find c'.tensors n = if n = x.tensor then some (t2Tensor s q x.addr x.len) else Tab.find c.tensors n) ∧
      (x.base = false → t.wst.sets = s.wst.sets ∧ ((wslot s q x.slot).bound = true →
        ∀ k, Tab.find t.wst.adds k = if k = addKey q x.slot x.tensor then some (t2Tensor s q x.addr x.len) else Tab.find s.wst.adds k))))

/-- R265, R266, R268, R270, R278: the commands of a module weight set make the moves of its states that R265 gives, and every other is refused
with bit 31 of WST_SET_STATUS and no other change. -/
def Obligations.WeightSets : Prop :=
  (∀ (s : State) (n : BitVec 24),
    let m := setSel s
    let x := mset s m
    let refused (i : Instr) := exec i s = .next (regOr s 0 0 0x700118 0x80000000)
    let moved (i : Instr) (y : MSet) := Nexts i s (fun t => t = { s with wst := t.wst } ∧ mset t m = y ∧ ∀ k, k ≠ m → mset t k = mset s k)
    let canBegin := ctlsDown s = [] ∧ n ≠ 0 ∧ keyPresent s (setKeySel s) = true
    let bound := ∃ e ∈ s.wst.slots, e.2.bound = true ∧ e.2.mset = m
    (x.st = .free ∧ canBegin → moved (.installBegin n) { x with st := .installing, gen := 1, cur := some ⟨setKeySel s, 1, n.toNat, []⟩, other := none }) ∧
    (¬ (x.st = .free ∧ canBegin) → refused (.installBegin n)) ∧
    (x.st = .serving ∧ canBegin → moved (.buildBegin n) { x with st := .building, other := some ⟨setKeySel s, x.gen + 1, n.toNat, []⟩ }) ∧
    (¬ (x.st = .serving ∧ canBegin) → refused (.buildBegin n)) ∧
    (∀ c, building x = some c → c.count ≤ c.tensors.length → writing s m = false →
      moved .commit { x with st := if x.st = .installing then .serving else .built }) ∧
    (building x = none ∨ writing s m = true ∨ (∃ c, building x = some c ∧ c.tensors.length < c.count) → refused .commit) ∧
    (x.st = .built → moved .switch { x with st := .draining, gen := x.gen + 1, cur := x.other, other := x.cur }) ∧
    (x.st ≠ .built → refused .switch) ∧
    (writing s m = false → x.st = .installing → moved .setAbort { x with st := .free, gen := 0, cur := none }) ∧
    (writing s m = false → x.st = .building ∨ x.st = .built → moved .setAbort { x with st := .serving, other := none }) ∧
    (writing s m = true ∨ x.st ∉ [.installing, .building, .built] → refused .setAbort) ∧
    ((x.st = .serving ∨ x.st = .built) ∧ ¬ bound → moved .setDelete { x with st := .deleting }) ∧
    (¬ ((x.st = .serving ∨ x.st = .built) ∧ ¬ bound) → refused .setDelete)) ∧
  (∀ (s : State) (b : BitVec 8),
    let m := b.toNat
    let x := mset s m
    let late := ∃ e ∈ s.wst.slots, e.2.bound = true ∧ e.2.mset = m ∧ e.2.lg ≠ x.gen
    (x.st ≠ .draining ∨ late ∨ readsCopy s m (x.gen - 1) = true → exec (.drainComplete b) s = .next s) ∧
    (x.st = .draining → ¬ late → readsCopy s m (x.gen - 1) = false → Nexts (.drainComplete b) s (fun t =>
      t = { s with wst := t.wst, regs := t.regs } ∧ mset t m = { x with st := .serving, other := none } ∧ (∀ k, k ≠ m → mset t k = mset s k) ∧
      erasingOf t m = erasingOf s m ++ x.other.toList ∧ (regGet t 0 0 0x700118).getLsbD 30 = true)) ∧
    (erasingOf s m = [] → x.st ≠ .deleting → exec (.eraseComplete b) s = .next s) ∧
    (∀ c r, erasingOf s m = c :: r → Nexts (.eraseComplete b) s (fun t => t = { s with wst := t.wst } ∧ erasingOf t m = r ∧
      t.wst.sets = s.wst.sets ∧ ∀ k, k ≠ m → erasingOf t k = erasingOf s k)) ∧
    (erasingOf s m = [] → x.st = .deleting → Nexts (.eraseComplete b) s (fun t => t = { s with wst := t.wst, regs := t.regs } ∧
      t.wst.erasing = s.wst.erasing ∧ (∀ k, k ≠ m → mset t k = mset s k) ∧
      (x.other.isSome = true → mset t m = { x with other := none }) ∧
      (x.other = none → mset t m = { x with st := .free, gen := 0, cur := none } ∧ (regGet t 0 0 0x700118).getLsbD 30 = true))))

/-- R261 to R263, R268, R273, R274, R277, R278: binding fills a free slot of a grant with a set that serves, or that it may write, and unbinding drops a slot with its
additions; a controller goes OFFLINE from ONLINE when nothing is written, to REBUILDING when asked, ONLINE when rebuilt; refresh takes the most read unit
queued and starts its count anew; ageing queues a unit; a wear-levelling move counts its 256 page reads. -/
def Obligations.WeightControllers : Prop :=
  (∀ (s : State) (v : Word),
    let p := fld v 14 10
    let sl := fld v 9 0
    let lane := fld v 29 23
    let m := setSel s
    let refused := exec (.wstBind v) s = .next (regOr s 0 0 0x700118 0x80000000)
    (p = 0 ∨ 16 < p ∨ 64 < lane ∨ (s.part p).t3Slots ≤ sl → refused) ∧
    (1 ≤ p → p ≤ 16 → lane ≤ 64 → sl < (s.part p).t3Slots →
      (v.getLsbD 31 = false → Nexts (.wstBind v) s (fun t => t = { s with wst := t.wst } ∧ wslot t p sl = {} ∧
        (∀ k, k ≠ slotKey p sl → Tab.find t.wst.slots k = Tab.find s.wst.slots k) ∧
        (∀ e, e ∈ t.wst.adds ↔ e ∈ s.wst.adds ∧ e.1 / 2 ^ 24 ≠ slotKey p sl) ∧ t.wst.sets = s.wst.sets)) ∧
      (v.getLsbD 31 = true → (wslot s p sl).bound = true ∨ (serves (mset s m) = false ∧ v.getLsbD 30 = false) → refused) ∧
      (v.getLsbD 31 = true → (wslot s p sl).bound = false → serves (mset s m) = true ∨ v.getLsbD 30 = true →
        Nexts (.wstBind v) s (fun t => t = { s with wst := t.wst } ∧ wslot t p sl = ⟨true, v.getLsbD 30, lane, m, (mset s m).gen, false⟩ ∧
          (∀ k, k ≠ slotKey p sl → Tab.find t.wst.slots k = Tab.find s.wst.slots k) ∧ t.wst.adds = s.wst.adds ∧ t.wst.sets = s.wst.sets)))) ∧
  (∀ (s : State) (n : Fin 16) (unit : Nat) (wear : List Wear),
    let c := ctl s n.val
    let only (t : State) (y : Ctl) := t = { s with wst := t.wst } ∧ ctl t n.val = y ∧ ∀ k, k ≠ n.val → ctl t k = ctl s k
    let idle := (∀ e ∈ s.wst.sets, e.2.st ≠ .installing ∧ e.2.st ≠ .building) ∧ s.wst.xfers = []
    (c.st = 0 ∧ ctlsDown s = [] ∧ idle → Nexts (.ctlOffline n) s (fun t => only t { c with st := 1 })) ∧
    (¬ (c.st = 0 ∧ ctlsDown s = [] ∧ idle) → exec (.ctlOffline n) s = .next (regOr s 0 0 0x700128 0x80000000)) ∧
    (if c.st = 1 ∧ c.failed = false then Nexts (.ctlOnline n) s (fun t => only t { c with st := 2 })
     else exec (.ctlOnline n) s = .next (regOr s 0 0 0x700128 0x80000000)) ∧
    (if c.st = 2 then Nexts (.rebuildDone n) s (fun t => t = { s with wst := t.wst, regs := t.regs } ∧ ctl t n.val = { c with st := 0 } ∧
       (regGet t 0 0 0x700128).getLsbD 30 = true ∧ ∀ k, k ≠ n.val → ctl t k = ctl s k)
     else exec (.rebuildDone n) s = .next s) ∧
    (nextRefresh c = none ∨ c.exhausted = true ∨ c.st = 3 → exec (.refreshUnit n wear) s = .next s) ∧
    (∀ u, nextRefresh c = some u → c.exhausted = false → c.st ≠ 3 → (∀ v ∈ c.queue, Tab.get 0 c.reads v ≤ Tab.get 0 c.reads u) ∧
      Nexts (.refreshUnit n wear) s (fun t => t = { s with wst := t.wst, regs := t.regs } ∧ u ∉ (ctl t n.val).queue ∧
        Tab.get 0 (ctl t n.val).reads u = 0 ∧ reg64 t 0 0 0x700140 = reg64 s 0 0 0x700140 + 1 ∧ t.wst.sets = s.wst.sets)) ∧
    Nexts (.refreshAge n unit) s (fun t => only t { c with queue := if unit ∈ c.queue then c.queue else c.queue ++ [unit] }) ∧
    (c.st = 3 → exec (.wearLevelMove n unit false false) s = .next s) ∧
    (c.st ≠ 3 → Nexts (.wearLevelMove n unit false false) s (fun t => only t { c with
      reads := Tab.set 0 c.reads unit (Tab.get 0 c.reads unit + 256)
      queue := if 1000000 ≤ Tab.get 0 c.reads unit + 256 ∧ unit ∉ c.queue then c.queue ++ [unit] else c.queue })) ∧
    (∀ rf, c.st ≠ 3 → Nexts (.wearLevelMove n unit true rf) s (fun t => unit ∈ (ctl t n.val).queue ∧ t.wst.sets = s.wst.sets ∧
      (∀ k, k ≠ n.val → ctl t k = ctl s k) ∧ (reg64 t 0 0 0x700148 = reg64 s 0 0 0x700148 + 1) ∧ ((regGet t 0 0 0x700138).getLsbD 0 = true ∨ rf = false))))
/-- T2 is as before but for what a REDUCE that fails in its data phase leaves undefined (R333; log entry 3): where `hit` names no REDUCE in its
data phase, all of T2 is. -/
def Sys2Proof.Claims.SpoilsOnly (s t : State) (hit : Nat → Strike → Bool) : Prop :=
  (∀ e ∈ strikes s, hit e.1 e.2 = true → e.2.code = 0 → e.2.kind = 3 → e.2.ph ≠ .data) → t.tiers = s.tiers

/-- The strikes in progress that `hit` names have ended with a code; the others are as before (R328). -/
def Sys2Proof.Claims.Ended (s t : State) (hit : Nat → Strike → Bool) (code : Nat) : Prop :=
  ∀ j, (chain t j).prog = (chain s j).prog.map (fun y => if y.code = 0 ∧ hit j y = true then { y with code := code } else y)

/-- s with port n's record y, and the books of t. -/
def Sys2Proof.Claims.PortIs (s t : State) (n : Nat) (y : PortS) : Prop :=
  t = { Books s t with ports := t.ports } ∧ t.port n = y ∧ ∀ m, m ≠ n → t.port m = s.port m

/-- R309, R312 to R314, R317, R335: the moves of a port's state, each from the states R313 gives and no other; what pauses its data; PFC sent again
while its queue is above LO; and what OFFLINE and a failure do to its connections. -/
def Obligations.PortLinks : Prop :=
  ∀ (s : State) (pt : Port),
    let n := pt.val
    let x := s.port n
    let refused (i : Instr) := exec i s = .next (regOr s 0 0 (0x400000 + 0x1000 * n + 0x008) 0x80000000)
    let uses (_ : Nat) (y : Strike) : Bool := y.uses.any (·.1 == n)
    let fails (t : State) := (∀ peer, peer < 64 → peerValid s n peer = true ∨ (Tab.find x.conns peer).isSome = true →
        ((t.port n).conn peer).st = .failed) ∧
      SpoilsOnly s t uses ∧ Ended s t uses 6 ∧ t.cores = s.cores ∧ ∀ m, m ≠ n → (t.port m).st = (s.port m).st
    (if x.st = .down ∧ Tab.get Cage.empty s.hw.cages n ≠ .bad then Nexts (.signalDetect pt) s (fun t => PortIs s t n { x with st := .training })
     else exec (.signalDetect pt) s = .next s) ∧
    (if x.st = .training then Nexts (.lockAcquired pt) s (fun t => PortIs s t n { x with st := .securing }) ∧
       Nexts (.trainingTimeout pt) s (fun t => PortIs s t n { x with st := .down })
     else exec (.lockAcquired pt) s = .next s ∧ exec (.trainingTimeout pt) s = .next s) ∧
    (if x.carries then Nexts (.lossOfLock pt) s (fun t => PortIs s t n { x with st := .training }) ∧
       Nexts (.mka pt false) s (fun t => PortIs s t n { x with st := .securing }) ∧
       Nexts (.retrain pt) s (fun t => PortIs s t n { x with st := .training })
     else exec (.lossOfLock pt) s = .next s ∧ Nexts (.mka pt false) s (fun t => PortIs s t n x) ∧ refused (.retrain pt)) ∧
    Nexts (.mka pt true) s (fun t => t.out = (if x.linked then s.out ++ [.mkaFrame n] else s.out) ∧
      PortIs s t n (if x.st = .securing ∧ (Tab.find s.sec.caks n).isSome = true then { x with st := .up } else x)) ∧
    (if x.st = .up ∧ x.paused then Nexts (.portStalled pt) s (fun t => PortIs s t n { x with st := .stalled }) else exec (.portStalled pt) s = .next s) ∧
    (∀ us, Nexts (.pauseEnd pt ⟨true, us⟩) s (fun t => PortIs s t n { x with pfcCtl := false }) ∧
      Nexts (.pauseEnd pt ⟨false, us⟩) s (fun t => PortIs s t n { x with pfc := false, st := if x.st = .stalled ∧ x.paused ∧ !x.xoffIn then .up else x.st })) ∧
    (∀ level us, Nexts (.xoffIn pt level us) s (fun t => PortIs s t n { x with
      xoffIn := level, st := if x.st = .stalled ∧ x.paused ∧ !level ∧ !x.pfc then .up else x.st })) ∧
    (∀ (pri : BitVec 3) (quanta : BitVec 16) (us : Nat),
      (pri.toNat ≠ priData s n → pri.toNat ≠ priCtl s n → exec (.pfcFrame pt pri quanta us) s = .next s) ∧
      (pri.toNat = priCtl s n → Nexts (.pfcFrame pt pri quanta us) s (fun t => PortIs s t n { x with pfcCtl := decide (quanta ≠ 0) })) ∧
      (pri.toNat = priData s n → pri.toNat ≠ priCtl s n → Nexts (.pfcFrame pt pri quanta us) s (fun t => PortIs s t n { x with
        pfc := decide (quanta ≠ 0), st := if x.st = .stalled ∧ x.paused ∧ quanta = 0 ∧ !x.xoffIn then .up else x.st }))) ∧
    (if x.xoffOut ∧ x.carries then exec (.pfcResend pt) s = .next { s with out := s.out ++ [.pfc n (BitVec.ofNat 3 (priData s n)) 0xFFFF] }
     else exec (.pfcResend pt) s = .next s) ∧
    (if x.st = .offline ∨ x.st = .failed ∨ (List.range 8).any (fun m => m != n && (s.port m).st == .offline) = true then refused (.portOffline pt)
     else Nexts (.portOffline pt) s (fun t => (t.port n).st = .offline ∧ fails t)) ∧
    (if x.st = .offline ∧ x.bad = false then Nexts (.portOnline pt) s (fun t => PortIs s t n { x with st := .down }) else refused (.portOnline pt)) ∧
    (if x.st = .failed then exec (.portFailed pt) s = .next s
     else Nexts (.portFailed pt) s (fun t => (t.port n).st = .failed ∧ fails t))

/-- The frame r of TYPE `type`, its words sound, at the head of port n's control queue, with `rest` behind it, at whose head no COUNTS frame
stands; what the consumer does with the others is `CtlQueue`. -/
def Sys2Proof.Claims.CtlIn (s : State) (n type : Nat) (r : RxFrame) (rest : List RxFrame) : Prop :=
  (s.port n).ctlq = r :: rest ∧ zType r.hdr = type ∧ ctlBad r = 0 ∧ ∀ c, rest.head? = some c → zType c.hdr ≠ 5

/-- R315, R316: a control frame's consumer takes the frame at the head of the queue, and no other; one with a poisoned word it takes for nothing
but the count of such words (log entry 106); COUNTS frames that come to the head, on which only servers act, are taken at once. -/
def Sys2Proof.Claims.CtlQueue : Prop :=
  ∀ (s : State) (pt : Port), ∀ e ∈ [(Instr.connect pt, 1), (.accept pt, 2), (.zaruxAck pt, 3), (.nak pt, 4), (.verdict pt, 6), (.zaruxAbort pt, 9),
      (.notice pt, 10)],
    let n := pt.val
    let x := s.port n
    (x.ctlq = [] → exec e.1 s = .next s) ∧
    ∀ r rest, x.ctlq = r :: rest →
      (zType r.hdr ≠ e.2 → exec e.1 s = .next s) ∧
      (zType r.hdr = e.2 → Nexts e.1 s (fun t => (t.port n).ctlq = rest.dropWhile (fun c => zType c.hdr == 5))) ∧
      (zType r.hdr = e.2 → ctlBad r ≠ 0 → (∀ c, rest.head? = some c → zType c.hdr ≠ 5) → Nexts e.1 s (fun t =>
        t = { s with ports := t.ports, regs := t.regs } ∧ PortIs s t n { x with ctlq := rest } ∧
        reg64 t 0 0 (wpOff n 0x0B0) = reg64 s 0 0 (wpOff n 0x0B0) + BitVec.ofNat 64 (ctlBad r)))

/-- A sequenced frame that its connection expects next (R321). -/
def Sys2Proof.Claims.InSequence (s : State) (n : Nat) (r : RxFrame) : Prop :=
  ((s.port n).conn r.peer).st = .opened ∧ zPsn r.hdr = (((s.port n).conn r.peer).dir (zPri r.hdr)).exp

/-- R316, R319 to R322, R329, R335: CONNECT opens or resets a connection and is answered with both session numbers; ACCEPT opens one that awaits it; an
ACK releases the frames before the PSNs it names; a NAK steps back to the PSN it names; the acknowledgement timer sends the PSNs expected; an RTO
sends again, and at its last try fails the connection; a peer entry whose validity or address changes closes its connection. Nothing is sent
to an entry that is not valid. -/
def Obligations.PortConnections : Prop :=
  CtlQueue ∧
  (∀ (s : State) (pt : Port) (r : RxFrame) (rest : List RxFrame),
    let n := pt.val
    let c := (s.port n).conn r.peer
    let c' (t : State) := (t.port n).conn r.peer
    (CtlIn s n 1 r rest → Nexts (.connect pt) s (fun t => (t.port n).ctlq = rest ∧ (c' t).st = .opened ∧ (c' t).sess = some (payWord r.pay 0) ∧
      (c.st = .opened ∧ c.sess ≠ some (payWord r.pay 0) ∨ t.tiers = s.tiers) ∧ SpoilsOnly s t (fun _ y => y.uses.contains (n, r.peer)) ∧
      t.cores = s.cores ∧
      (c' t).unseq = (if c.st = .opened ∧ c.sess = some (payWord r.pay 0) then c.unseq else []) ++
        (if peerValid s n r.peer then [⟨2, 0, 0, 0, 0, [payWord r.pay 0, (s.port n).session], [], 0, 0⟩] else []))) ∧
    (CtlIn s n 2 r rest → Nexts (.accept pt) s (fun t => t = { s with ports := t.ports, regs := t.regs } ∧ (t.port n).ctlq = rest ∧
      c' t = if c.st = .opening ∧ payWord r.pay 0 = (s.port n).session then { c with st := .opened, sess := some (payWord r.pay 1) } else c)) ∧
    (CtlIn s n 3 r rest → Nexts (.zaruxAck pt) s (fun t => (t.port n).ctlq = rest ∧ t.tiers = s.tiers ∧ t.cores = s.cores ∧
      (c.st ≠ .opened → c' t = c) ∧
      (c.st = .opened → (c' t).st = .opened ∧ (c' t).unseq = c.unseq ∧ ∀ ctl : Bool,
        let d := c.dir ctl
        let k := (payWord r.pay ctl.toNat - d.base).toNat
        if k ≤ d.ever then ((c' t).dir ctl).base = payWord r.pay ctl.toNat ∧ ((c' t).dir ctl).q = d.q.drop k ∧ ((c' t).dir ctl).sent = d.sent - k
        else (c' t).dir ctl = d))) ∧
    (CtlIn s n 4 r rest → Nexts (.nak pt) s (fun t => t = { s with ports := t.ports, regs := t.regs } ∧ (t.port n).ctlq = rest ∧
      let ctl := (payWord r.pay 0).getLsbD 0
      let d := c.dir ctl
      let k := (payWord r.pay 1 - d.base).toNat
      c' t = if c.st = .opened ∧ k ≤ d.sent then c.setDir ctl { d with sent := k } else c))) ∧
  (∀ (s : State) (pt : Port) (peer : Fin 64) (pri : Bool),
    let n := pt.val
    let x := s.port n
    let c := x.conn peer.val
    let d := c.dir pri
    let held := if pri then x.pfcCtl else x.paused
    (if c.st = .opened ∧ (c.data.since ≠ 0 ∨ c.ctl.since ≠ 0) then Nexts (.ackTimer pt peer) s (fun t => t = { s with ports := t.ports } ∧
       (t.port n).conn peer.val = { c with unseq := c.unseq ++ (if peerValid s n peer.val then [⟨3, 0, 0, 0, 0, [c.data.exp, c.ctl.exp], [], 0, 0⟩] else [])
                                           data := { c.data with since := 0 }, ctl := { c.ctl with since := 0 } })
     else exec (.ackTimer pt peer) s = .next s) ∧
    (c.st ≠ .opened → c.st ≠ .opening → exec (.rtoExpiry pt peer pri) s = .next s) ∧
    (c.st = .opening → pri = false ∨ c.unseq ≠ [] ∨ x.pfcCtl = true → exec (.rtoExpiry pt peer pri) s = .next s) ∧
    (c.st = .opening → pri = true → c.unseq = [] → x.pfcCtl = false → Nexts (.rtoExpiry pt peer pri) s (fun t => t = { s with ports := t.ports } ∧
      (t.port n).conn peer.val = { c with unseq := if peerValid s n peer.val then [⟨1, 0, 0, 0, 0, [x.session, 0], [], 0, 0⟩] else [] })) ∧
    (c.st = .opened → held = true → exec (.rtoExpiry pt peer pri) s = .next s) ∧
    (c.st = .opened → held = false → d.ever = 0 → Nexts (.rtoExpiry pt peer pri) s (fun t => t = { s with ports := t.ports } ∧
        (t.port n).conn peer.val = c.setDir pri { d with nak := false })) ∧
    (c.st = .opened → held = false → d.ever ≠ 0 → d.tries + 1 < fld (regGet s 0 0 (wpOff n 0x030)) 23 16 →
      Nexts (.rtoExpiry pt peer pri) s (fun t => t = { s with ports := t.ports } ∧
        (t.port n).conn peer.val = c.setDir pri { d with nak := false, sent := 0, tries := d.tries + 1 })) ∧
    (c.st = .opened → held = false → d.ever ≠ 0 → fld (regGet s 0 0 (wpOff n 0x030)) 23 16 ≤ d.tries + 1 →
      Nexts (.rtoExpiry pt peer pri) s (fun t => ((t.port n).conn peer.val).st = .failed ∧ t.cores = s.cores ∧
        SpoilsOnly s t (fun _ y => y.uses.contains (n, peer.val)) ∧ Ended s t (fun _ y => y.uses.contains (n, peer.val)) 4))) ∧
  (∀ (s : State) (pt : Port) (v : Word),
    let n := pt.val
    let peer := fld (regGet s 0 0 (wpOff n 0x034)) 5 0
    let old := peerCtrl s n peer
    Nexts (.wpPeerCtrlWrite pt v) s (fun t => SpoilsOnly s t (fun _ y => y.uses.contains (n, peer)) ∧ t.cores = s.cores ∧ (peerCtrl t n peer).getLsbD 31 = v.getLsbD 31 ∧
      fld (peerCtrl t n peer) 15 0 = fld v 15 0 ∧ (fld v 20 16 ≤ 16 → peerOwner t n peer = fld v 20 16) ∧
      (v.getLsbD 31 = old.getLsbD 31 → fld v 15 0 = fld old 15 0 → t.ports = s.ports ∧ t.chains = s.chains ∧ t.tiers = s.tiers) ∧
      (v.getLsbD 31 ≠ old.getLsbD 31 ∨ fld v 15 0 ≠ fld old 15 0 → ((t.port n).conn peer).st = .closed))) ∧
  (∀ (s : State) (pt : Port) (target src : BitVec 128), exec (.neighbourSolicitation pt target src) s = .next
    (if (s.port pt.val).carries ∧ target = portIp s pt.val ∧ (peerOf s pt.val src).isSome = true then { s with out := s.out ++ [.advert pt.val target src] } else s)) ∧
  (∀ (s : State) (fn : Func) (pt : Port), fn.val ≠ 0 → exec (.wpNqDataRead fn pt) s = .next { s with out := s.out ++ [.read fn.val 0] }) ∧
  (∀ (s : State) (fn : Func) (pt : Port) (w : PWord) (rest : List PWord), fn.val = 0 → (s.port pt.val).notice = w :: rest →
    Nexts (.wpNqDataRead fn pt) s (fun t => t = { s with ports := t.ports, fns := t.fns, regs := t.regs, out := s.out ++ [.read 0 w.val] } ∧
      t.port pt.val = { s.port pt.val with notice := rest } ∧ (∀ m, m ≠ pt.val → t.port m = s.port m) ∧
      (Tab.get ({} : FnBuf) t.fns 0).shadow = some (wpOff pt.val 0x050, 0x80000000 ||| if w.poison then 0x40000000 else 0))) ∧
  (∀ (s : State) (fn : Func) (pt : Port), fn.val = 0 → (s.port pt.val).notice = [] →
    Nexts (.wpNqDataRead fn pt) s (fun t => t = { s with fns := t.fns, out := s.out ++ [.read 0 0] }))

/-- R309, R310, R314 to R316, R318, R321 to R323, R327, R331, R333: a frame that fails its checks is dropped and counted, else it joins its ingress queue; in sequence, a
sequenced frame moves the PSN expected on by one. DATA is placed for the receive posted for it and NAKed where none is; a RESULT is placed
where it belongs to a REDUCE in its data phase; placement writes the words received, a word with bad parity poisoned; the last VERDICT decides
its strike. Control frames go before data, and every frame goes out in the encapsulation of its peer entry and priority. -/
def Obligations.PortFrames : Prop :=
  (∀ (s : State) (pt : Port) (f : Frame),
    let n := pt.val
    let x := s.port n
    let wire := x.carries = true ∧ f.standard = true ∧ f.fcsOk = true ∧ f.icvOk = true ∧ f.dport = 0x5A50
    let dropped (o : Nat) := Nexts (.frameReceive pt f) s (fun t => t = { s with regs := t.regs } ∧ reg64 t 0 0 (wpOff n o) = reg64 s 0 0 (wpOff n o) + 1)
    (¬ wire → dropped 0x0A0) ∧ (wire → peerOf s n f.src = none → dropped 0x0A0) ∧
    ∀ peer, wire → peerOf s n f.src = some peer →
      let r : RxFrame := ⟨peer, f.hdr, f.pay, f.parityBad, none⟩
      (frameCrc f.hdr f.pay ≠ f.hdr.getD 7 0 → dropped 0x090) ∧
      (frameCrc f.hdr f.pay = f.hdr.getD 7 0 → badHeader s n f = true → dropped 0x0A0) ∧
      (frameCrc f.hdr f.pay = f.hdr.getD 7 0 → badHeader s n f = false → zType f.hdr = 5 →
        if 262144 < (x.ctlq.map RxFrame.size).sum + r.size then dropped 0x0A0
        else Nexts (.frameReceive pt f) s (fun t => (t.port n).ctlq = (x.ctlq ++ [r]).dropWhile (fun c => zType c.hdr == 5) ∧ t.tiers = s.tiers ∧
          t.cores = s.cores ∧ (x.ctlq = [] → ctlBad r = 0 → InSequence s n r →
            (((t.port n).conn peer).dir true).exp = ((x.conn peer).dir true).exp + 1))) ∧
      (frameCrc f.hdr f.pay = f.hdr.getD 7 0 → badHeader s n f = false → zType f.hdr ≠ 5 →
        if zPri f.hdr then
          (if 262144 < (x.ctlq.map RxFrame.size).sum + r.size then dropped 0x0A0
           else (∀ c, x.ctlq.head? = some c → zType c.hdr ≠ 5) → Nexts (.frameReceive pt f) s (fun t => PortIs s t n { x with ctlq := x.ctlq ++ [r] }))
        else (if 4194304 < (x.dataq.map RxFrame.size).sum + r.size then dropped 0x0A0
           else Nexts (.frameReceive pt f) s (fun t => PortIs s t n { x with dataq := x.dataq ++ [r], xoffOut := (t.port n).xoffOut })))) ∧
  (∀ (s : State) (pt : Port),
    let n := pt.val
    let x := s.port n
    (x.carries = false → exec (.frameSend pt) s = .next s) ∧
    (∀ peer f rest, x.carries = true → nextCtl x = some (peer, true) → (x.conn peer).unseq = f :: rest → (f.pay s).length ≤ 8192 →
      Nexts (.frameSend pt) s (fun t => t = { Books s t with ports := t.ports } ∧ (t.port n).conn peer = { x.conn peer with unseq := rest } ∧
        ∃ hdr, hdr.length = 8 ∧ zType hdr = f.type % 16 ∧ hdr[3]? = some 0 ∧ hdr[4]? = some (x.conn peer).ctl.exp ∧ t.out = s.out ++ [.frame n peer (encap s n peer (typeCtl f.type)) hdr (f.pay s)] ∧ hdr[7]? = some (frameCrc hdr (f.pay s)))) ∧
    (∀ peer f, x.carries = true → nextCtl x = some (peer, false) → (x.conn peer).ctl.q[(x.conn peer).ctl.sent]? = some f →
      let d := (x.conn peer).ctl
      Nexts (.frameSend pt) s (fun t => t = { Books s t with ports := t.ports } ∧
        ((t.port n).conn peer).ctl = { d with sent := d.sent + 1, ever := max d.ever (d.sent + 1) } ∧
        ∃ hdr, hdr[3]? = some (d.base + BitVec.ofNat 32 d.sent) ∧ hdr[4]? = some d.exp ∧ t.out = s.out ++ [.frame n peer (encap s n peer (typeCtl f.type)) hdr (f.pay s)])) ∧
    (∀ peer p f, x.carries = true → nextCtl x = none → readyData s n = [(peer, p)] → p ≤ 16 → (x.conn peer).data.q[(x.conn peer).data.sent]? = some f →
      let d := (x.conn peer).data
      Nexts (.frameSend pt) s (fun t => t.tiers = s.tiers ∧ t.cores = s.cores ∧
        ((t.port n).conn peer).data = { d with sent := d.sent + 1, ever := max d.ever (d.sent + 1) } ∧
        ∃ hdr, hdr[3]? = some (d.base + BitVec.ofNat 32 d.sent) ∧ hdr[4]? = some d.exp ∧ t.out = s.out ++ [.frame n peer (encap s n peer (typeCtl f.type)) hdr (f.pay s)])) ∧
    (x.pfcCtl = true → nextCtl x = none) ∧ (x.paused = true → readyData s n = []) ∧
    (∀ peer ctl, let e := encap s n peer ctl
      e.src = portIp s n ∧ e.dst = peerIp s n peer ∧ e.hop = 64 ∧ e.vid = 0 ∧ e.dport = 0x5A50 ∧
      e.sport = BitVec.ofNat 16 (0xC000 + 2 * n + (if ctl then 1 else 0)) ∧
      e.pcp = BitVec.ofNat 3 (if ctl then priCtl s n else priData s n) ∧ e.smac = Config.mac + BitVec.ofNat 48 n) ∧
    (nextCtl x = none → readyData s n = [] → exec (.frameSend pt) s = .next s)) ∧
  (∀ (s : State) (pt : Port) (r : RxFrame) (rest : List RxFrame),
    let n := pt.val
    let e (t : State) := (((t.port n).conn r.peer).dir true).exp
    zPri r.hdr = true → ((s.port n).conn r.peer).st = .opened →
    (CtlIn s n 9 r rest → Nexts (.zaruxAbort pt) s (fun t => (t.port n).ctlq = rest ∧ t.tiers = s.tiers ∧ t.cores = s.cores ∧
      e t = if zPsn r.hdr = e s then e s + 1 else e s)) ∧
    (CtlIn s n 10 r rest → (s.port n).notice.length + (noticeWords r).length ≤ 1024 → zPsn r.hdr = e s → Nexts (.notice pt) s (fun t =>
      (t.port n).ctlq = rest ∧ (t.port n).notice = (s.port n).notice ++ noticeWords r ∧ e t = e s + 1 ∧ t.tiers = s.tiers)) ∧
    (CtlIn s n 10 r rest → 1024 < (s.port n).notice.length + (noticeWords r).length ∨ zPsn r.hdr ≠ e s → Nexts (.notice pt) s (fun t =>
      (t.port n).ctlq = rest ∧ (t.port n).notice = (s.port n).notice ∧ e t = e s ∧ t.tiers = s.tiers)) ∧
    (CtlIn s n 6 r rest → Nexts (.verdict pt) s (fun t => (t.port n).ctlq = rest ∧ SpoilsOnly s t (fun _ _ => true) ∧ t.cores = s.cores ∧
      e t = if zPsn r.hdr = e s then e s + 1 else e s))) ∧
  (∀ (s : State) (k : Nat) (x : Strike) (srv : Nat) (v : Word), x.verdicts.length + 1 = x.grp.servers.length → Tab.find x.verdicts srv = none → x.code = 0 →
    (∃ y ∈ (chain s k).prog, y.sid = x.sid) →
    ∀ y ∈ (chain (giveVerdict s k x srv v) k).prog, y.sid = x.sid →
      if v = 0 ∧ ∀ e ∈ x.verdicts, e.2 = 0 then y.ph = .data ∧ y.code = 0
      else y.code = if v = 2 ∨ ∃ e ∈ x.verdicts, e.2 = 2 then 3 else 2) ∧
  (∀ (s : State) (pt : Port) (i : Nat) (r : RxFrame),
    let n := pt.val
    let hit := (strikes s).find? (fun e => e.2.kind == 2 && e.2.ph == .plain && e.2.code == 0 && e.2.uses.contains (n, r.peer) && e.2.op == zOp r.hdr)
    let late := (strikes s).find? (fun e => e.1 / 512 == peerOwner s n r.peer && e.2.kind == 3 && e.2.ph == .data && e.2.code == 0 &&
      e.2.grp.id == zGroup r.hdr && e.2.grp.epoch == zEpoch r.hdr && e.2.op == zOp r.hdr)
    let dest (t : State) := ((t.port n).dataq[i]?).map (·.dest)
    let e (t : State) := (((t.port n).conn r.peer).dir (zPri r.hdr)).exp
    let gone (t : State) := (t.port n).dataq = (s.port n).dataq.eraseIdx i ∧ e t = e s ∧ t.tiers = s.tiers
    nextData (s.port n) = some (i, r) →
    (hdrBad r ≠ 0 → (zType r.hdr = 7 → Nexts (.data pt) s gone) ∧ (zType r.hdr = 8 → Nexts (.result pt) s gone)) ∧
    (hdrBad r = 0 → ¬ InSequence s n r → (zType r.hdr = 7 → Nexts (.data pt) s gone) ∧ (zType r.hdr = 8 → Nexts (.result pt) s gone)) ∧
    (hdrBad r = 0 → InSequence s n r →
    (zType r.hdr = 7 → hit = none → endingPart s (peerOwner s n r.peer) = false → Nexts (.data pt) s gone) ∧
    (zType r.hdr = 7 → hit = none → endingPart s (peerOwner s n r.peer) = true → Nexts (.data pt) s (fun t => e t = e s + 1 ∧ t.tiers = s.tiers ∧
      dest t = some (some none))) ∧
    (zType r.hdr = 7 → ∀ k x, hit = some (k, x) → Nexts (.data pt) s (fun t => e t = e s + 1 ∧ t.tiers = s.tiers ∧
      dest t = some (some (if x.len < zOff r.hdr + r.pay.length then none else some (x.sid, zOff r.hdr))))) ∧
    (zType r.hdr = 8 → late = none → Nexts (.result pt) s (fun t => e t = e s + 1 ∧ t.tiers = s.tiers ∧ dest t = some (some none))) ∧
    (zType r.hdr = 8 → ∀ k x, late = some (k, x) → onWire x (n, r.peer) (zOff r.hdr) r.pay.length = true → wrote x (zOff r.hdr) r.pay.length = false →
      (∀ g, groupOf s (peerOwner s n r.peer) (zGroup r.hdr) = some g → g.2.epoch = zEpoch r.hdr) →
      queuedFor s x.sid (zOff r.hdr) r.pay.length = false →
      Nexts (.result pt) s (fun t => e t = e s + 1 ∧ t.tiers = s.tiers ∧ dest t = some (some (some (x.sid, zOff r.hdr))))))) ∧
  (∀ (s : State) (pt : Port) (r : RxFrame) (rest : List RxFrame), (s.port pt.val).dataq = r :: rest →
    (r.dest = none → exec (.dataPlacement pt) s = .next s) ∧
    (r.dest = some none → Nexts (.dataPlacement pt) s (fun t => (t.port pt.val).dataq = rest ∧ t.tiers = s.tiers ∧ t.chains = s.chains)) ∧
    (∀ sid off k x fr, r.dest = some (some (sid, off)) → (strikes s).find? (fun e => e.2.sid == sid && e.2.code == 0) = some (k, x) → x.kind = 2 → x.mute = false →
      let a := x.dst + off
      a % 4 = 0 → r.pay.length % 4 = 0 → r.pay ≠ [] → a / frameBytes = (a + r.pay.length - 1) / frameBytes → frameOf s (k / 512) a = some fr →
      frameDead s fr = false → Nexts (.dataPlacement pt) s (fun t => (t.port pt.val).dataq = rest ∧ t.cores = s.cores ∧
        ∀ i, i < r.pay.length / 4 → t2Word t (k / 512) (a + 4 * i) = ⟨payWord r.pay i, r.bad.contains (i + 8)⟩)))
/-- R324 to R326, R328, R330, R331, R334, R336, R453: a chain granted and IDLE starts; STOP ends its strikes ABORTED and halts it,
or leaves a chain with none in progress IDLE; a strike starts when fewer than 8 are in progress
and its chime is reached, until then one watch is posted; a strike that has ended writes its code at its entry, and halts its chain unless it is
DONE, the chain's code being that of the first to do so; a REDUCE that times out ends TIMEOUT; a staged group in range takes its place, at once or by a later epoch. -/
def Obligations.StrikeChains : Prop :=
  (∀ (s : State) (p : Vf),
    let q := vfPart p
    let ch := chainSel s q
    let k := chainKey q ch
    let c := chain s k
    let refused (i : Instr) := exec i s = .next (regOr s q ch 0x50001C 0x20000000)
    let others (t : State) := ∀ j, j ≠ k → chain t j = chain s j
    (if (s.part q).chains ≤ ch ∨ c.st = .running ∨ c.prog ≠ [] ∨ 64 ≤ runningOn s (chainPort s q ch) then refused (.chainStart p)
     else Nexts (.chainStart p) s (fun t => t = { s with chains := t.chains } ∧ chain t k = { st := .running } ∧ others t)) ∧
    ((s.part q).chains ≤ ch → refused (.stop p)) ∧
    (ch < (s.part q).chains → c.prog = [] → Nexts (.stop p) s (fun t => t = { s with chains := t.chains, watches := t.watches } ∧
      chain t k = { c with st := .idle } ∧ others t ∧ ∀ w, w ∈ t.watches ↔ w ∈ s.watches ∧ w.who ≠ .chain k)) ∧
    (ch < (s.part q).chains → c.prog ≠ [] → Nexts (.stop p) s (fun t =>
      (chain t k).st = (if c.st = .halted ∨ ∃ x ∈ c.prog, x.code = 0 then .halted else .idle) ∧ (chain t k).code = c.code ∧ others t ∧
      SpoilsOnly s t (fun j _ => j == k) ∧ t.cores = s.cores ∧ (chain t k).prog = c.prog.map (fun x => if x.code = 0 then { x with code := 8 } else x)))) ∧
  (∀ (s : State) (p : Vf) (ch : Fin 512),
    let q := vfPart p
    let k := chainKey q ch.val
    let c := chain s k
    let len := chainLen s q ch.val
    let a := chainBase s q ch.val + 64 * c.next
    let ent := (t2Read s q a 16).map (·.val)
    let posted := s.watches.any (fun w => w.who == .chain k)
    (c.st ≠ .running ∨ len ≤ c.next ∨ 8 ≤ c.prog.length → exec (.strikeStart p ch) s = .next s) ∧
    (c.st = .running → c.next < len → c.prog.length < 8 → waitMet s q ent = false → posted = true → exec (.strikeStart p ch) s = .next s) ∧
    (c.st = .running → c.next < len → c.prog.length < 8 → waitMet s q ent = false → posted = false → Nexts (.strikeStart p ch) s (fun t =>
      t = { s with watches := t.watches, regs := t.regs } ∧
      t.watches = s.watches ++ [⟨watchKey s q (fld (ent.getD 0 0) 15 0), ent.getD 1 0, .chain k⟩])) ∧
    (c.st = .running → c.next < len → c.prog.length < 8 → waitMet s q ent = true → Nexts (.strikeStart p ch) s (fun t =>
      t.tiers = s.tiers ∧ t.cores = s.cores ∧ t.chimes = s.chimes ∧ (chain t k).prog.length = c.prog.length + 1 ∧ (chain t k).st = .running ∧
      (chain t k).next = (if c.next + 1 < len ∨ (regGet s q ch.val 0x500010).getLsbD 31 = false then c.next + 1 else 0) ∧
      ∃ x, (chain t k).prog.getLast? = some x ∧ x.idx = c.next ∧ x.ent = ent ∧ x.sid = s.strikeSeq ∧
        (badStrike ⟨s.strikeSeq, c.next, ent, .plain, 0, false, fld (ent.getD 7 0) 19 16, group s q (fld (ent.getD 7 0) 19 16), [], [], [], 0⟩
          (group s q (fld (ent.getD 7 0) 19 16)) = true → x.code = 7)))) ∧
  (∀ (s : State) (p : Vf) (ch : Fin 512) (i : Nat) (x : Strike),
    let q := vfPart p
    let k := chainKey q ch.val
    let c := chain s k
    let a := chainBase s q ch.val + 64 * x.idx + 40
    c.prog[i]? = some x →
    (x.code = 0 → exec (.strikeComplete p ch i) s = .next s) ∧
    (x.code ≠ 0 → Nexts (.strikeComplete p ch i) s (fun t => (chain t k).prog.length + 1 = c.prog.length ∧ t.cores = s.cores ∧
      (∀ fr, a % 4 = 0 → frameOf s q a = some fr → frameDead s fr = false → t2Word t q a = ⟨BitVec.ofNat 32 (x.code * 2 ^ 24 + wholeShards x % 2 ^ 24), false⟩) ∧
      (x.code ≠ 1 → (chain t k).st = .halted ∧ (chain t k).code = (if c.failed then c.code else x.code) ∧ (chain t k).failed = true ∧ (regGet t q 0 0x50004C).getLsbD 0 = true) ∧
      (x.code = 1 → reg64 t q 0 0x500050 = reg64 s q 0 0x500050 + 1 ∧ ((x.w 0).getLsbD 18 = false → t.chimes = s.chimes)))) ∧
    (¬ (x.kind = 3 ∧ x.code = 0 ∧ (x.ph = .counts ∨ x.ph = .data)) → exec (.collTimeout p ch i) s = .next s) ∧
    (x.kind = 3 → x.code = 0 → x.ph = .counts ∨ x.ph = .data → Nexts (.collTimeout p ch i) s (fun t => t.cores = s.cores ∧
      SpoilsOnly s t (fun _ y => y.sid == x.sid) ∧ Ended s t (fun _ y => y.sid == x.sid) 5))) ∧
  (∀ (s : State) (p : Vf),
    let q := vfPart p
    let g := groupSel s q
    let busy := (strikes s).any (fun e => ofGroup q g e.1 e.2)
    let d := ((staged s q).epoch - (group s q g).epoch).toNat
    let refused (i : Instr) := exec i s = .next (regOr s q 0 0x50003C 0x80000000)
    let placed (t : State) := group t q g = staged s q ∧ ∀ j, j ≠ q * 16 + g → Tab.find t.groups j = Tab.find s.groups j
    (if stagedOk s q = false ∨ busy = true then refused (.set p) else Nexts (.set p) s (fun t => t = { s with groups := t.groups } ∧ placed t)) ∧
    (if stagedOk s q = false ∨ d = 0 ∨ 2 ^ 31 ≤ d then refused (.reform p)
     else Nexts (.reform p) s (fun t => placed t ∧ t.cores = s.cores ∧ (busy = true → (regGet t q 0 0x50004C).getLsbD 2 = true) ∧
       SpoilsOnly s t (ofGroup q g) ∧ Ended s t (ofGroup q g) 3)))
/-- R340 to R343, R345, R346, R352, R362: what the doorbells and controls of a queue do; an entry fetched is the command of its queue and ends
BADCMD where it is not well formed; a command that has ended is completed by 16 bytes at the ring's tail, with the HEAD that followed it and the interrupt it asked for, or
held for room while its queue is enabled; a command not complete in time ends TIMEOUT. -/
def Obligations.HostQueues : Prop :=
  ∀ (s : State) (p : Vf) (q : Fin 8),
    let n := vfPart p
    let x := hq s n q.val
    let on := (regGet s n 0 (hqOff q.val 0x10)).getLsbD 31
    let only (t : State) (y : HQueue) := hq t n q.val = y ∧ ∀ j, j ≠ n * 8 + q.val → Tab.find t.hqs j = Tab.find s.hqs j
    (∀ v, (on = false → exec (.hqQDb p q v) s = .next s) ∧
      (on = true → hqSize s n q.val ≤ fld v 15 0 → exec (.hqQDb p q v) s = .next (regOr s n 0 (hqOff q.val 0x20) 0x40000000)) ∧
      (on = true → fld v 15 0 < hqSize s n q.val → Nexts (.hqQDb p q v) s (fun t => t = { s with hqs := t.hqs } ∧ only t { x with tail := fld v 15 0 }))) ∧
    (∀ v : Word, on = false → v.getLsbD 31 = true → x.held = false → Nexts (.hqQCtrlWrite p q v) s (fun t => t = { s with hqs := t.hqs, regs := t.regs } ∧
      only t { x with head := 0, tail := 0, cplTail := 0, phase := true } ∧ (regGet t n 0 (hqOff q.val 0x10)).getLsbD 31 = true ∧
      regGet t n 0 (hqOff q.val 0x1C) = 0)) ∧
    (∀ v : Word, on = true → v.getLsbD 31 = false → Nexts (.hqQCtrlWrite p q v) s (fun t => (regGet t n 0 (hqOff q.val 0x10)).getLsbD 31 = false ∧
      (hq t n q.val).tail = (hq t n q.val).head ∧ (hq t n q.val).head = x.head ∧ t.cores = s.cores ∧
      (x.cmd = none → t = { s with hqs := t.hqs, regs := t.regs }))) ∧
    (∀ v : Word, on = v.getLsbD 31 → Nexts (.hqQCtrlWrite p q v) s (fun t => t = { s with regs := t.regs } ∧
      fld (regGet t n 0 (hqOff q.val 0x10)) 15 0 = fld v 15 0 ∧ (regGet t n 0 (hqOff q.val 0x10)).getLsbD 31 = on)) ∧
    (∀ v : Word, x.held = false → exec (.hqQCplHeadWrite p q v) s = .next (regSet s n 0 (hqOff q.val 0x1C) (v &&& 0xFFFF))) ∧
    Nexts (.stoppedAck p q) s (fun t => t = { s with regs := t.regs } ∧
      regGet t n 0 (hqOff q.val 0x20) = regGet s n 0 (hqOff q.val 0x20) &&& 0x7FFFFFFF) ∧
    (∀ ws : List Word, (ws.length ≠ 16 → exec (.commandFetch p q ws) s = .fault .illFormed) ∧
      (ws.length = 16 → mayFetch s n q.val = false → exec (.commandFetch p q ws) s = .next s) ∧
      (ws.length = 16 → mayFetch s n q.val = true → cmdOk ws = true → Nexts (.commandFetch p q ws) s (fun t => t = { s with hqs := t.hqs } ∧
        only t { x with head := (x.head + 1) % hqSize s n q.val, cmd := some { w := ws, head := (x.head + 1) % hqSize s n q.val } })) ∧
      (ws.length = 16 → mayFetch s n q.val = true → cmdOk ws = false → Nexts (.commandFetch p q ws) s (fun t => t = { s with hqs := t.hqs, draws := t.draws } ∧
        let head := (x.head + 1) % hqSize s n q.val
        ∃ r, only t { x with head := head, cmd := some { w := ws, head := head }, cpl := some (2, r) }))) ∧
    (x.cmd = none ∨ x.cpl = none ∨ (x.held = true ∧ on = false) → exec (.commandComplete p q) s = .next s) ∧
    (∀ c st res, x.cmd = some c → x.cpl = some (st, res) → x.held = false ∨ on = true →
      let next := (x.cplTail + 1) % hqSize s n q.val
      let base := (reg64 s n 0 (hqOff q.val 0x08)).toNat
      let w0 := c.w.getD 0 0
      let w : Word := BitVec.ofNat 32 (st.toNat * 2 ^ 24 + x.phase.toNat * 2 ^ 16 + fld w0 15 0)
      if next = fld (regGet s n 0 (hqOff q.val 0x1C)) 15 0 then
        Nexts (.commandComplete p q) s (fun t => t = { s with hqs := t.hqs } ∧ only t { x with held := true })
      else Nexts (.commandComplete p q) s (fun t => t = { s with hqs := t.hqs, regs := t.regs, out := t.out } ∧
        only t { x with cplTail := next, phase := if next = 0 then !x.phase else x.phase, cmd := none, cpl := none, held := false } ∧
        t.out = s.out ++ (.host n (base + 16 * x.cplTail) [⟨w, false⟩, ⟨res, false⟩, ⟨BitVec.ofNat 32 c.head, false⟩, ⟨0, false⟩] ::
          (if w0.getLsbD 16 then [.msix n (fld (regGet s n 0 (hqOff q.val 0x10)) 19 16)] else [])) ∧
        ((regGet t n 0 (hqOff q.val 0x20)).getLsbD 31 = true ↔ st = 1 ∨ (regGet s n 0 (hqOff q.val 0x20)).getLsbD 31 = true))) ∧
    (∀ c, x.cmd = some c →
      (c.started = false ∨ x.cpl ≠ none ∨ fld (regGet s n 0 (hqOff q.val 0x10)) 15 0 = 0 → exec (.commandTimeout p q) s = .next s) ∧
      (c.started = true → x.cpl = none → fld (regGet s n 0 (hqOff q.val 0x10)) 15 0 ≠ 0 → Nexts (.commandTimeout p q) s (fun t =>
        (∃ r, (hq t n q.val).cpl = some (3, r)) ∧ (hq t n q.val).head = x.head ∧ t.cores = s.cores ∧ (c.tag = none → t.tiers = s.tiers) ∧
        ∀ w ∈ t.watches, w.who ≠ .queue (n * 8 + q.val))))

/-- The command c waits at the head of queue q of partition n, which is LIVE, and its OPCODE is op (R343, R344). -/
def Sys2Proof.Claims.CmdAt (s : State) (n q op : Nat) (c : HCmd) : Prop :=
  (hq s n q).cmd = some c ∧ c.started = false ∧ (hq s n q).cpl = none ∧ fld (c.w.getD 0 0) 31 24 = op ∧ (s.part n).st = .live

/-- The queue's command has started and ended with a status and a result. -/
def Sys2Proof.Claims.Ends (s t : State) (n q : Nat) (c : HCmd) (st : BitVec 8) (res : Word) : Prop :=
  hq t n q = { hq s n q with cmd := some { c with started := true }, cpl := some (st, res) }

/-- R242, R344, R347 to R353, R446: what each host command does, and how it ends. A command whose queue holds another, or has started it, does nothing. -/
def Obligations.HostCommands : Prop :=
  ∀ (s : State) (p : Vf) (q : Fin 8) (c : HCmd),
    let n := vfPart p
    let x := hq s n q.val
    let ends (i : Instr) (st : BitVec 8) (res : Word) (P : State → Prop) := Nexts i s (fun t => Ends s t n q.val c st res ∧ P t)
    let fails (i : Instr) (st : BitVec 8) := Nexts i s (fun t => (∃ r, Ends s t n q.val c st r) ∧ t = { s with hqs := t.hqs, draws := t.draws })
    let still := quiescent s n q.val = true
    (∀ e ∈ [(.hqNop p q, 0), (.writeT2 p q, 1), (.readT2 p q, 2), (.load p q, 3), (.hqStart p q, 4), (.chimeAdd p q, 5), (.chimeWait p q, 6),
        (.save p q, 7), (.restore p q, 8), (.reinit p q, (9 : Nat))],
      x.cmd = none ∨ (x.cmd = some c ∧ (c.started = true ∨ x.cpl ≠ none ∨ fld (c.w.getD 0 0) 31 24 ≠ e.2 ∨ (s.part n).st ≠ .live)) → exec e.1 s = .next s) ∧
    (CmdAt s n q.val 0 c → ends (.hqNop p q) 0 0 (fun t => t = { s with hqs := t.hqs })) ∧
    (CmdAt s n q.val 1 c →
      (t2In s n c.taddr c.len = true → Nexts (.writeT2 p q) s (fun t => t = { s with hqs := t.hqs, draws := t.draws } ∧
        ∃ tag, hq t n q.val = { x with cmd := some { c with started := true, tag := some tag } })) ∧
      (t2In s n c.taddr c.len = false → ends (.writeT2 p q) 0 0 (fun t => t = { s with hqs := t.hqs, regs := t.regs } ∧ regGet t 0 n 0x200058 = 1))) ∧
    (CmdAt s n q.val 2 c → Nexts (.readT2 p q) s (fun t => t = { s with hqs := t.hqs, regs := t.regs, out := t.out } ∧
      let ws := t2ReadU s n c.taddr (c.len / 4)
      Ends s t n q.val c (if poisonedIn ws = 0 then 0 else 5) (BitVec.ofNat 32 (poisonedIn ws)) ∧
      t.out = s.out ++ [.host n c.haddr (ws.map (fun w => ⟨w.val, false⟩))])) ∧
    (CmdAt s n q.val 3 c →
      (¬ still ∨ (s.part n).routeLost = true → fails (.load p q) 1) ∧
      (still → (s.part n).routeLost = false → t2In s n c.taddr c.len = false →
        ends (.load p q) 0 0 (fun t => t = { s with hqs := t.hqs, regs := t.regs } ∧ regGet t 0 n 0x200058 = 1)) ∧
      (still → (s.part n).routeLost = false → t2In s n c.taddr c.len = true →
        let img := imgRecs s n c.taddr c.len 0 (c.len / 16 + 1)
        let none' (st : BitVec 8) := Nexts (.load p q) s (fun t => (∃ r, Ends s t n q.val c st r) ∧ t.cores = s.cores ∧ t.routers = s.routers ∧ t.slices = s.slices)
        (img = none → none' 2) ∧ (∀ rs, img = some rs → imgOk s rs = false → none' 2) ∧
        (∀ rs, img = some rs → (∃ r ∈ rs, r.type ≠ 5 ∧ r.ok s = false) → none' 2) ∧
        (∀ rs, img = some rs → imgOk s rs = true → (∃ r ∈ rs, r.current s = false) → none' 1) ∧
        (∀ rs, img = some rs → imgOk s rs = true → (∀ r ∈ rs, r.current s = true) → Nexts (.load p q) s (fun t => (∃ k, Ends s t n q.val c 0 k) ∧
          t.tiers = s.tiers ∧ t.parts = s.parts)) ∧
        (∀ r k, img = some [r] → r.ok s = true → r.current s = true → r.key s = some k → partOfKey s k = n → s.gridRows ≤ 1080 →
          (r.type = 1 → r.w3.toNat % 4 = 0 → ends (.load p q) 0 1 (fun t => (∀ i w, r.body[i]? = some w → (t.core (keyCore k)).memWord (r.w3.toNat + 4 * i) = w) ∧
            (∀ b, b < r.w3.toNat ∨ r.w3.toNat + 4 * r.body.length ≤ b → Memory.byte (t.core (keyCore k)).mem b = Memory.byte (s.core (keyCore k)).mem b) ∧
            t.routers = s.routers ∧ ∀ j, j ≠ k → Tab.find t.cores j = Tab.find s.cores j)) ∧
          (r.type = 2 → (s.core (keyCore k)).st = .sleeping → ends (.load p q) 0 1 (fun t => t.core (keyCore k) = { s.core (keyCore k) with pc := r.w3 } ∧
            t.routers = s.routers ∧ ∀ j, j ≠ k → Tab.find t.cores j = Tab.find s.cores j)) ∧
          (r.type = 4 → ends (.load p q) 0 1 (fun t => ∀ i w, r.body[i]? = some w → Tab.get 0 (t.router k).routes (fld r.w3 7 0 + i) = w.val))))) ∧
    (CmdAt s n q.val 4 c →
      let ks := startKeys s n c
      ((∃ k ∈ ks, startable s k = false) → fails (.hqStart p q) 1) ∧
      ((∀ k ∈ ks, startable s k = true) → s.gridRows ≤ 1080 → ends (.hqStart p q) 0 (BitVec.ofNat 32 ks.length) (fun t => t = { s with cores := t.cores, hqs := t.hqs, power := t.power } ∧
        (∀ k ∈ ks, (t.core (keyCore k)).st = .running) ∧ ∀ k, k ∉ ks → Tab.find t.cores k = Tab.find s.cores k))) ∧
    (CmdAt s n q.val 5 c →
      (fld c.a 15 0 < (s.part n).chimeCount → ends (.chimeAdd p q) 0 0 (fun t => t.tiers = s.tiers ∧ t.cores = s.cores ∧
        ∀ h, chimeVal t h = if h = (s.part n).chimeBase + fld c.a 15 0 then chimeVal s h + c.b else chimeVal s h)) ∧
      ((s.part n).chimeCount ≤ fld c.a 15 0 → ends (.chimeAdd p q) 0 0 (fun t => t = { s with hqs := t.hqs, regs := t.regs } ∧ regGet t 0 n 0x200058 = 3))) ∧
    (CmdAt s n q.val 6 c →
      let v := partChimeVal s n (fld c.a 15 0)
      (atOrPast v c.b = true → ends (.chimeWait p q) 0 v (fun t => t = { s with hqs := t.hqs, regs := t.regs })) ∧
      (atOrPast v c.b = false → Nexts (.chimeWait p q) s (fun t => t = { s with hqs := t.hqs, regs := t.regs, watches := t.watches } ∧
        hq t n q.val = { x with cmd := some { c with started := true } } ∧
        t.watches = s.watches ++ [⟨watchKey s n (fld c.a 15 0), c.b, .queue (n * 8 + q.val)⟩]))) ∧
    (CmdAt s n q.val 7 c →
      (¬ still → fails (.save p q) 1) ∧
      (still → staleHalves s n = [] →
        let ws := contextImage s n (c.a.getLsbD 0)
        let res : Word := BitVec.ofNat 32 (4 * ws.length)
        (t2In s n c.taddr (4 * ws.length) = true → ends (.save p q) 0 res (fun t => t = { s with hqs := t.hqs, regs := t.regs, tiers := t.tiers } ∧
          (c.taddr % 4 = 0 → (s.part n).frames.Nodup → (∀ f ∈ (s.part n).frames, frameDead s f = false) →
            ∀ i w, ws[i]? = some w → t2Word t n (c.taddr + 4 * i) = w))) ∧
        (t2In s n c.taddr (4 * ws.length) = false → ends (.save p q) 0 res (fun t => t = { s with hqs := t.hqs, regs := t.regs } ∧
          (regGet t n 0 0x600018).getLsbD 2 = true)))) ∧
    (CmdAt s n q.val 8 c →
      let h := ctxHdr s n c.taddr
      (¬ still → fails (.restore p q) 1) ∧
      (still → h.version ≠ 1 → Nexts (.restore p q) s (fun t => (∃ r, Ends s t n q.val c 2 r) ∧ t.cores = s.cores ∧ t.tiers = s.tiers)) ∧
      (still → h.version = 1 → imageKeys s n h = none → Nexts (.restore p q) s (fun t => (∃ r, Ends s t n q.val c 1 r) ∧ t.cores = s.cores ∧ t.tiers = s.tiers)) ∧
      (∀ ks, still → h.version = 1 → imageKeys s n h = some ks → (t2WordU s n (c.taddr + h.o2)).val.toNat ≤ (s.part n).chimeCount →
        (t2WordU s n (c.taddr + h.o2 + 4)).val.toNat ≤ (s.part n).lanes.length → h.streams ≤ (s.part n).strmCount →
        (sliceImagesOk s n c.taddr h = false → Nexts (.restore p q) s (fun t => (∃ r, Ends s t n q.val c 2 r) ∧ t.cores = s.cores ∧
          t.slices = s.slices ∧ t.tiers = s.tiers)) ∧
        (sliceImagesOk s n c.taddr h = true → Nexts (.restore p q) s (fun t => (hq t n q.val).cpl = some (0, BitVec.ofNat 32 ks.length) ∧ t.tiers = s.tiers ∧ t.parts = s.parts)))) ∧
    (CmdAt s n q.val 9 c → Nexts (.reinit p q) s (fun t => (t.part n).st = .resetting ∧ (t.part n).reinitBy = some q ∧ (t.part n).fields = (s.part n).fields ∧
      (hq t n q.val).cmd = some { c with started := true } ∧ ∀ d, coreKey d ∈ listedKeys s n → (t.core d).st = .fenced)) ∧
    (∀ r : HostCpl, (x.cmd = none ∨ (x.cmd = some c ∧ (c.tag ≠ some r.tag ∨ x.cpl ≠ none))) →
      (r.status = .expired → exec (.hostReadCompletion p q r) s = .next s) ∧
      (r.status ≠ .expired → Nexts (.hostReadCompletion p q r) s (fun t =>
        t = { s with regs := t.regs, out := s.out ++ [.aer n] } ∧ reg64 t n 0 (hqOff q.val 0x30) = reg64 s n 0 (hqOff q.val 0x30) + 1))) ∧
    (∀ r : HostCpl, x.cmd = some c → c.tag = some r.tag → x.cpl = none →
      (r.status = .failed → Nexts (.hostReadCompletion p q r) s (fun t => (∃ w, (hq t n q.val).cpl = some (4, w)) ∧ t.cores = s.cores)) ∧
      (r.status = .expired → Nexts (.hostReadCompletion p q r) s (fun t => (∃ w, (hq t n q.val).cpl = some (3, w)) ∧ t.cores = s.cores)) ∧
      (r.status = .success → r.words.length = c.len / 4 → Nexts (.hostReadCompletion p q r) s (fun t =>
        t = { s with hqs := t.hqs, regs := t.regs, tiers := t.tiers } ∧
        hq t n q.val = { x with cmd := some { c with tag := none }, cpl := some (if poisonedIn r.words = 0 then 0 else 5, 0) } ∧
        ∀ fr, c.taddr % 4 = 0 → r.words ≠ [] → c.taddr / frameBytes = (c.taddr + 4 * r.words.length - 1) / frameBytes → frameOf s n c.taddr = some fr →
          frameDead s fr = false → ∀ i w, r.words[i]? = some w → t2Word t n (c.taddr + 4 * i) = w)))

/-- The five commands of PART_CMD. -/
def Sys2Proof.Claims.partCmds : List Instr := [.create, .resize, .reset, .destroy, .transit]

/-- A partition command changes no partition but the one it names, and no core outside the half-fields given. -/
def Sys2Proof.Claims.Spares (s t : State) (p : Nat) (hs : List Nat) : Prop :=
  (∀ q, q ≠ p → t.part q = s.part q) ∧ ∀ k, hs.contains (halfOfKey s k) = false → Tab.find t.cores k = Tab.find s.cores k

/-- The fields of partition p have been handed over at reset condition: no stored core there but the FENCED ones of a DEAD half-field. -/
def Sys2Proof.Claims.Fresh (s t : State) (hs : List Nat) : Prop :=
  ∀ d : CoreId, hs.contains (halfOfKey s (coreKey d)) = true → (s.region (halfOfKey s (coreKey d))).st ≠ .dead → t.core d = {}

/-- R357, R358, R359, R363, R421: a command is ignored while one is BUSY, ends STATE in RETIRED and BADCMD where PART_SEL names no partition;
a refusal changes PART_CMD_STATUS.CODE alone; each command's own conditions, and what it does. -/
def Obligations.PartitionCommands : Prop :=
  ∀ (s : State), s.gridRows ≤ 1080 →
    let p := partSel s
    let old := s.part p
    let code (i : Instr) (c : Word) := exec i s = .next (regSet s 0 0 0x200048 c)
    (∀ i ∈ partCmds, (s.partCmd ≠ none → exec i s = .next s) ∧ (s.partCmd = none → s.lc = .retired → code i 1) ∧
      (s.partCmd = none → s.lc ≠ .retired → p = 0 ∨ 16 < p → code i 2)) ∧
    (s.partCmd = none → s.lc ≠ .retired → 0 < p → p ≤ 16 →
      let new := stagedPart s { creations := old.creations + 1 }
      let re := stagedPart s old
      let went (i : Instr) (op : Nat) (P : State → Prop) := Nexts i s (fun t => t.partCmd = some ⟨op, p, old⟩ ∧ regGet t 0 0 0x200048 = 0 ∧ P t)
      (old.st ≠ .free → code .create 1) ∧
      (old.st = .free → grantBad s new = true → code .create 2) ∧
      (old.st = .free → grantBad s new = false → grantState s p old new = true → code .create 1) ∧
      (old.st = .free → grantBad s new = false → grantState s p old new = false → went .create 1 (fun t =>
        t = { s with partCmd := t.partCmd, regs := t.regs, lanes := t.lanes, tiers := t.tiers, parts := t.parts } ∧ (∀ q, q ≠ p → t.part q = s.part q) ∧
        t.part p = { new with lanes := (freeLanes s).take (stagedLanes s), frames := (t.part p).frames } ∧
        ∀ n ∈ (freeLanes s).take (stagedLanes s), (t.lane n).owner = p)) ∧
      (old.st ≠ .live → code .resize 1) ∧
      (old.st = .live → grantBad s re = true → code .resize 2) ∧
      (old.st = .live → grantBad s re = false → grantState s p old re = true ∨ (sizeChanged s old re = true ∧ quiescent s p 8 = false) ∨
        re.t3Units < addUnits s p ∨ re.t3Slots < slotsBound s p → code .resize 1) ∧
      (old.st = .live → grantBad s re = false → grantState s p old re = false → (sizeChanged s old re = true → quiescent s p 8 = true) →
        addUnits s p ≤ re.t3Units → slotsBound s p ≤ re.t3Slots → went .resize 2 (fun t =>
        let left := halvesOf (old.fields &&& ~~~re.fields)
        Spares s t p left ∧ Fresh s t left ∧ t.part p = { re with lanes := (t.part p).lanes, frames := (t.part p).frames } ∧
        (stagedLanes s ≤ old.lanes.length → (t.part p).lanes = old.lanes.take (stagedLanes s)) ∧
        (stagedFrames s ≤ old.frames.length → (t.part p).frames = old.frames.take (stagedFrames s)))) ∧
      (old.st ≠ .live → code .reset 1) ∧
      (old.st = .live → went .reset 3 (fun t => (t.part p).st = .resetting ∧ (t.part p).fields = old.fields ∧
        ∀ d, coreKey d ∈ listedKeys s p → (t.core d).st = .fenced)) ∧
      (old.st ≠ .live → old.st ≠ .resetting → code .destroy 1) ∧
      (old.st = .live ∨ old.st = .resetting → went .destroy 4 (fun t => (t.part p).st = .destroying ∧ (t.part p).fields = old.fields ∧
        ∀ d, coreKey d ∈ listedKeys s p → (t.core d).st = .fenced)) ∧
      let w := stPart s 0x40
      let f := fld w 14 8
      let d := fld w 20 16
      let o := partOfField s f
      let held := (o ≠ 0 ∧ quiescent s o 8 = false) ∨ quiescent s d 8 = false ∨ linksHeld s f = true
      (old.st ≠ .live → code .transit 1) ∧
      (old.st = .live → 83 < f ∨ (s.part d).st ≠ .live → code .transit 2) ∧
      (old.st = .live → f ≤ 83 → (s.part d).st = .live → held → code .transit 1) ∧
      (old.st = .live → f ≤ 83 → (s.part d).st = .live → ¬ held → Nexts .transit s (fun t =>
        t = { s with partCmd := t.partCmd, regs := t.regs, transit := t.transit, routers := t.routers } ∧
        (∀ g : Transit, g ∈ t.transit ↔ if g.field = f ∧ fld w 3 0 / 2 ^ g.track % 2 = 1 then
          (if w.getLsbD 31 then g.part = d ∧ g.track < 4 else g ∈ s.transit ∧ g.part ≠ d) else g ∈ s.transit) ∧
        (∀ k, (∀ i, trackOwner t k (i / 4) (i % 4) = trackOwner s k (i / 4) (i % 4)) → t.router k = s.router k) ∧
        ∀ k i, trackOwner t k (i / 4) (i % 4) ≠ trackOwner s k (i / 4) (i % 4) → Tab.get [] (t.router k).inq i = [])))

/-- R339, R357, R359, R360, R465: a command ends when its half-fields have soft-started; a reset leaves the partition LIVE with its cores fresh and a
destruction leaves it FREE; a VF's FLR is a partition reset; the PF's FLR and PERST# change the host-facing state alone. -/
def Obligations.PartitionEnds : Prop :=
  ∀ (s : State), s.gridRows ≤ 1080 →
    (∀ c, s.partCmd = some c →
      let hs := cmdHalves s
      (c.op = 3 ∨ c.op = 4 ∨ hs.any (fun h => softPending (s.region h)) = true → exec .partCmdComplete s = .next s) ∧
      (c.op = 1 ∨ c.op = 2 → hs.any (fun h => softPending (s.region h)) = false → Nexts .partCmdComplete s (fun t => t.partCmd = none ∧
        Spares s t c.part hs ∧ Fresh s t hs ∧ t.part c.part = { s.part c.part with st := if c.op = 1 then .live else (s.part c.part).st })) ∧
      (c.op = 5 → hs.any (fun h => softPending (s.region h)) = false → exec .partCmdComplete s = .next { s with partCmd := none })) ∧
    (s.partCmd = none → exec .partCmdComplete s = .next s) ∧
    (∀ p : Vf,
      let n := vfPart p
      let x := s.part n
      let hs := halvesOf x.fields
      ((x.st ≠ .resetting ∧ x.st ≠ .destroying) ∨ strikesOpen s n = true ∨ abortsUnsent s n = true → exec (.partitionResetDone p) s = .next s) ∧
      (x.st = .resetting → strikesOpen s n = false → abortsUnsent s n = false → Nexts (.partitionResetDone p) s (fun t => Spares s t n hs ∧ Fresh s t hs ∧
        t.part n = { x with st := .live, routeLost := false, reinitBy := none } ∧
        (∀ q, x.reinitBy = some q → (hq s n q.val).cmd ≠ none → (hq s n q.val).cpl = none → (hq t n q.val).cpl = some (0, 0)) ∧
        (s.partCmd.map (·.part) = some n → t.partCmd = none))) ∧
      (x.st = .destroying → strikesOpen s n = false → abortsUnsent s n = false → Nexts (.partitionResetDone p) s (fun t => Spares s t n hs ∧ Fresh s t hs ∧
        t.part n = { creations := x.creations } ∧ (∀ l ∈ x.lanes, (t.lane l).owner = 0) ∧ (∀ g ∈ t.transit, g.part ≠ n) ∧
        (s.partCmd.map (·.part) = some n → t.partCmd = none))) ∧
      (x.st = .live → Nexts (.vfFlr p) s (fun t => (t.part n).st = .resetting ∧ (t.part n).fields = x.fields ∧ (t.part n).frames = x.frames ∧
        ∀ d, coreKey d ∈ listedKeys s n → (t.core d).st = .fenced)) ∧
      (x.st ≠ .live → Nexts (.vfFlr p) s (fun t => t.part n = x ∧ t.cores = s.cores ∧
        ∀ q, q < 8 → (regGet t n 0 (0x100010 + 0x100 * q)).getLsbD 31 = false))) ∧
    Nexts .pfFlr s (fun t =>
      t = { s with regs := t.regs, parts := t.parts, lanes := t.lanes, partCmd := t.partCmd, tiers := t.tiers, power := t.power, tamb := t.tamb,
                   rings := t.rings } ∧
      regGet t 0 0 0x200000 = 1 ∧ (regGet t 0 0 0xD00008).getLsbD 31 = false ∧ regGet t 0 0 0x900008 = regGet s 0 0 0x900008 ∧
      (∀ q, s.partCmd.map (·.part) ≠ some q → t.part q = s.part q) ∧ (∀ c, t.partCmd = some c → c.op = 4) ∧
      t.power.regions = s.power.regions ∧ t.power.segs = s.power.segs) ∧
    (s.hw.ready = false → exec .perst s = .next s) ∧
    (s.hw.ready = true → Nexts .perst s (fun t => t.cores = s.cores ∧ t.streams = s.streams ∧ t.chains = s.chains ∧ t.power.segs = s.power.segs ∧
      (∀ p q, 1 ≤ p → p ≤ 16 → q < 8 → (hq t p q).cmd = none ∧ (regGet t p 0 (0x100010 + 0x100 * q)).getLsbD 31 = false) ∧
      ∀ p, 1 ≤ p → p ≤ 16 → (regGet t p 0 0xD00008).getLsbD 31 = false))

/-- 64-bit counters and addresses of a VF's window whose two words are read-write and have no other effect (R15, R362, R308, R336, R256, R278, R458). -/
def Sys2Proof.Claims.plain64 : List Nat :=
  [0x100028, 0x100030, 0x3000C0, 0x3000C8, 0x3000D0, 0x3000D8, 0x500050, 0x500058, 0x500060, 0x500068, 0x600020, 0x700008, 0xD00028, 0xD00030]

/-- R12, R13, R15, R338, R357, R456: an access of another size or alignment, or that the window does not hold, has no effect; a 64-bit value is read with the function's
shadow and written with its held word; PART_CMD's OP is the command; ERR_RING_CTRL starts its ring anew when EN goes from 0 to 1. -/
def Obligations.RegisterAccesses : Prop :=
  ∀ (s : State) (fn : Func) (v : Word),
    (∀ off n, n ≠ 4 ∨ off.toNat % 4 ≠ 0 ∨ mayWrite fn.val off.toNat = false → exec (.registerWrite fn off v n) s = .next s) ∧
    (∀ (off : BitVec 26) n, n ≠ 4 ∨ off.toNat % 4 ≠ 0 ∨ mayRead fn.val off.toNat = false →
      exec (.lowWordRead fn ⟨off, n⟩) s = .next { s with out := s.out ++ [.read fn.val 0] }) ∧
    (∀ o ∈ plain64, 1 ≤ fn.val →
      let b := s.fnBuf fn.val
      let lo := BitVec.ofNat 26 o
      let hi := BitVec.ofNat 26 (o + 4)
      exec (.registerWrite fn lo v 4) s = .next { s with fns := Tab.put s.fns fn.val { b with held := some (o, v) } } ∧
      Nexts (.registerWrite fn hi v 4) s (fun t => t = { s with regs := t.regs, fns := t.fns } ∧
        (∀ w, b.held = some (o, w) → reg64 t fn.val 0 o = v ++ w ∧ t.fnBuf fn.val = { b with held := none }) ∧
        ((∀ w, b.held ≠ some (o, w)) → reg64 t fn.val 0 o = v ++ regGet s fn.val 0 o ∧ t.fns = s.fns) ∧
        ∀ f x r, f ≤ 18 → r < 2 ^ 26 → f ≠ fn.val ∨ x ≠ 0 ∨ (r ≠ o ∧ r ≠ o + 4) → regGet t f x r = regGet s f x r) ∧
      exec (.lowWordRead fn ⟨lo, 4⟩) s = .next { s with
        fns := Tab.put s.fns fn.val { b with shadow := some (o, regGet s fn.val 0 (o + 4)) }, out := s.out ++ [.read fn.val (regGet s fn.val 0 o)] } ∧
      (∀ w, b.shadow = some (o, w) → exec (.lowWordRead fn ⟨hi, 4⟩) s = .next { s with out := s.out ++ [.read fn.val w] }) ∧
      ((∀ w, b.shadow ≠ some (o, w)) →
        exec (.lowWordRead fn ⟨hi, 4⟩) s = .next { s with out := s.out ++ [.read fn.val (regGet s fn.val 0 (o + 4))] })) ∧
    (∀ e ∈ [(1, Instr.create), (2, .resize), (3, .reset), (4, .destroy), (5, .transit)], fld v 31 28 = e.1 →
      exec (.registerWrite 0 0x200044 v 4) s = exec e.2 s) ∧
    (fld v 31 28 = 0 ∨ 5 < fld v 31 28 → s.partCmd = none → s.lc ≠ .retired → exec (.registerWrite 0 0x200044 v 4) s = .next (regSet s 0 0 0x200048 2)) ∧
    (let old := regGet s fn.val 0 0xD00008
     Nexts (.errRingCtrlWrite fn v) s (fun t => t = { s with regs := t.regs, rings := t.rings } ∧
      let now := regGet t fn.val 0 0xD00008
      now.getLsbD 31 = v.getLsbD 31 ∧
      fld now 19 16 = (if old.getLsbD 31 ∨ fld v 19 16 < 4 ∨ 12 < fld v 19 16 then fld old 19 16 else fld v 19 16) ∧
      (old.getLsbD 31 = false ∧ v.getLsbD 31 = true → regGet t fn.val 0 0xD0000C = 0 ∧ regGet t fn.val 0 0xD00010 = 0 ∧
        t.ring fn.val = { s.ring fn.val with phase := true }) ∧
      (old.getLsbD 31 = true ∨ v.getLsbD 31 = false → t.rings = s.rings ∧ regGet t fn.val 0 0xD0000C = regGet s fn.val 0 0xD0000C)))

/-- The cores of half-field h stand FENCED. -/
def Sys2Proof.Claims.HalfFenced (s t : State) (h : Nat) : Prop :=
  ∀ d : CoreId, coreKey d < s.gridRows * 1022 → halfOfKey s (coreKey d) = h → (t.core d).st = .fenced

/-- Region r of t is DEAD with the domains given; a retained half-field's copy of its epoch has been left behind (R373, R448). -/
def Sys2Proof.Claims.Dies (s t : State) (r : Nat) (dom : BitVec 4) : Prop :=
  let x := s.region r
  let late := x.st = .retained ∨ ((x.st = .ramping ∨ x.st = .retry) ∧ x.ramp = .unpark)
  (t.region r).st = .dead ∧ (t.region r).deadDom = dom ∧ (t.region r).copy = x.copy ∧
    (t.region r).epoch = (if late then x.epoch + 1 else x.epoch) ∧ (r < 168 → HalfFenced s t r)

/-- The cells leave word of what they have done, which the Tambour acts on at its next cycle (R391; log entry 113). -/
def Sys2Proof.Claims.Noted (s t : State) (n : CellNote) : Prop := t.power.notes = s.power.notes ++ [n]

/-- R21, R49, R366 to R368, R371, R373, R374, R391, R448: what ends a ramp and what follows; a park ends parked only where the half-field may
still be gated; a short sends the region to RETRY twice and to DEAD the third time; a region lost or shorted in
service is DEAD, its cores fenced; a droop leaves the epoch's copy behind. -/
def Obligations.RegionRamps : Prop :=
  ∀ (s : State) (g : Sys2Proof.Region), s.gridRows ≤ 1080 →
    let r := g.val
    let x := s.region r
    let mine (d : CoreId) := coreKey d < s.gridRows * 1022 ∧ halfOfKey s (coreKey d) = r
    (x.st ≠ .ramping → exec (.rampDone g) s = .next s) ∧
    (x.st = .ramping → x.ramp = .park → mayGate s r = false → Nexts (.rampDone g) s (fun t => t = { s with power := t.power } ∧
      t.region r = { x with st := .on, tries := 0 } ∧ ∀ q, q ≠ r → t.region q = s.region q)) ∧
    (x.st = .ramping → x.ramp = .park → mayGate s r = true → Nexts (.rampDone g) s (fun t => t = { s with power := t.power, cores := t.cores } ∧
      t.region r = { x with st := .retained, tries := 0, asleep := 0, lever := none } ∧ (∀ q, q ≠ r → t.region q = s.region q) ∧
      ∀ d, t.core d = if mine d ∧ (s.core d).st = .sleeping then { s.core d with st := .retained } else s.core d)) ∧
    (x.st = .ramping → x.ramp = .unpark → x.copy = x.epoch → Nexts (.rampDone g) s (fun t => t = { s with power := t.power, cores := t.cores } ∧
      t.region r = { x with st := .on, tries := 0, asleep := 0, hold := s.tamb.parkHold } ∧ (∀ q, q ≠ r → t.region q = s.region q) ∧
      ∀ d, mine d → (s.core d).st = .retained → t.core d = { s.core d with st := if wantsWake (s.core d) then .running else .sleeping })) ∧
    (x.st = .ramping → x.ramp = .unpark → x.copy ≠ x.epoch → Nexts (.rampDone g) s (fun t => (t.region r).st = .on ∧ (t.region r).copy = (t.region r).epoch ∧
      (t.region r).epoch = x.epoch + 1 ∧ ∀ d, mine d → t.core d = {})) ∧
    (x.st = .ramping → x.ramp = .soft → Nexts (.rampDone g) s (fun t => t = { s with power := t.power, draws := t.draws } ∧ (t.region r).st = .on ∧
      (t.region r).tries = 0 ∧ (∀ q, q ≠ r → t.region q = s.region q) ∧
      (r < 168 → (t.region r).epoch = x.epoch + 1 ∧ (t.region r).copy = x.epoch + 1 ∧
        (t.region r).set .logic ≤ (t.region r).set .near ∧ (x.suspect = true → (t.region r).set .logic ≤ 650) ∧
        (∀ a ∈ [Rail.near, .stack, .links], x.held a = true → (t.region r).set a = max (railLow a) (x.set a)) ∧
        ((∀ a, x.held a = false) → ∀ a ∈ [Rail.logic, .near, .stack, .links],
          railLow a ≤ (t.region r).set a ∧ (t.region r).set a ≤ railHigh a ∧ ((t.region r).set a - railLow a) % 5 = 0)) ∧
      (168 ≤ r → (t.region r).set .mif = 750))) ∧
    (∀ dom, (x.st ≠ .ramping → exec (.rampShort g dom) s = .next s) ∧
      (x.st = .ramping → x.tries < 2 → Nexts (.rampShort g dom) s (fun t => t = { s with power := t.power } ∧ (∀ q, q ≠ r → t.region q = s.region q) ∧
        Noted s t (.ramp r dom (x.tries + 1) false) ∧
        t.region r = { x with st := .retry, tries := x.tries + 1, epoch := if x.ramp = .unpark then x.epoch + 1 else x.epoch })) ∧
      (x.st = .ramping → 2 ≤ x.tries → Nexts (.rampShort g dom) s (fun t => Dies s t r dom ∧ Noted s t (.ramp r dom (x.tries + 1) true)))) ∧
    (x.st ≠ .retry → exec (.retryExpiry g) s = .next s) ∧
    (x.st = .retry → x.ramp = .park → mayGate s r = false → Nexts (.retryExpiry g) s (fun t => t = { s with power := t.power } ∧
      t.region r = { x with st := .on, tries := 0 } ∧ ∀ q, q ≠ r → t.region q = s.region q)) ∧
    (x.st = .retry → x.ramp ≠ .park ∨ mayGate s r = true → Nexts (.retryExpiry g) s (fun t => t = { s with power := t.power, regs := t.regs } ∧ t.region r = { x with st := .ramping } ∧
      (∀ q, q ≠ r → t.region q = s.region q) ∧ reg64 t 0 0 0x900068 = reg64 s 0 0 0x900068 + 1)) ∧
    (let droops := r < 168 ∧ (x.st = .retained ∨ ((x.st = .ramping ∨ x.st = .retry) ∧ x.ramp = .unpark))
     (¬ droops → exec (.retentionDroop g) s = .next s) ∧
     (droops → Nexts (.retentionDroop g) s (fun t => t = { s with power := t.power } ∧ t.region r = { x with epoch := x.epoch + 1 } ∧
      ∀ q, q ≠ r → t.region q = s.region q))) ∧
    (∀ dom, ∀ e ∈ [(Instr.regionLost g dom, CellNote.lost r dom), (.shortTrip g dom, .trip r dom)],
      let dies := x.st = .on ∨ x.st = .retained ∨ x.st = .retry
      (¬ dies → exec e.1 s = .next s) ∧ (dies → Nexts e.1 s (fun t => Dies s t r dom ∧ Noted s t e.2)))

/-- R365, R368, R372, R376, R377, R388, R389, R391: a rail's overcurrent is latched; an excluded sensor is left out at once and never excluded twice,
which the Tambour learns at its next cycle, as it does of a converter lost; the hub's filter over every sensor; what a chiplet's request and the
end of a link change do. A sensor that a round does not name reads as at its last sample (log entry 114). -/
def Obligations.RegionSensors : Prop :=
  ∀ (s : State) (g : Sys2Proof.Region),
    let r := g.val
    let x := s.region r
    let only (i : Instr) (y : PRegion) := Nexts i s (fun t => t = { s with power := t.power } ∧ t.region r = y ∧ ∀ q, q ≠ r → t.region q = s.region q)
    (∀ a, x.st ≠ .on ∧ x.st ≠ .retained ∧ x.st ≠ .retry ∨ Tab.find x.ocur (railNo a) ≠ none → exec (.overcurrent g a) s = .next s) ∧
    (∀ a, x.st = .on ∨ x.st = .retained ∨ x.st = .retry → Tab.find x.ocur (railNo a) = none →
      only (.overcurrent g a) { x with ocur := Tab.put x.ocur (railNo a) 0 }) ∧
    (∀ a n mv, x.excl.contains (railNo a, n.val) = true → exec (.sensorExcluded g a n mv) s = .next s) ∧
    (∀ a n mv, x.excl.contains (railNo a, n.val) = false → Nexts (.sensorExcluded g a n mv) s (fun t => t = { s with power := t.power } ∧
      t.region r = { x with excl := x.excl ++ [(railNo a, n.val)] } ∧ (∀ q, q ≠ r → t.region q = s.region q) ∧
      Noted s t (.sensor r (BitVec.ofNat 8 (railSensor a n.val)) mv))) ∧
    (∀ v : Sample,
      let k := sensorKey v.cls v.region v.idx
      let y := Tab.get {} s.tamb.sensors k
      let K := keyShift k
      let is (z : Sensor) := Nexts (.sensorSample [v]) s (fun t => t = { s with tamb := { s.tamb with sensors := t.tamb.sensors } } ∧
        Tab.get {} t.tamb.sensors k = z ∧
        ∀ j, j ≠ k → Tab.find t.tamb.sensors j = (Tab.find s.tamb.sensors j).map (fun y => y.sample (keyShift j) (y.last.headD 0)))
      (y.last = [] → is { y with last := [v.value] }) ∧ (∀ a, y.last = [a] → is { y with last := [v.value, a] }) ∧
      (∀ a b rest m, y.last = a :: b :: rest → (m = v.value ∨ m = a ∨ m = b) →
        ((v.value ≤ m ∧ a ≤ m) ∨ (v.value ≤ m ∧ b ≤ m) ∨ (a ≤ m ∧ b ≤ m)) →
        ((m ≤ v.value ∧ m ≤ a) ∨ (m ≤ v.value ∧ m ≤ b) ∨ (m ≤ a ∧ m ≤ b)) →
        (y.live = false → is { last := [v.value, a], num := m, exp := 0, live := true }) ∧
        (y.live = true → is { last := [v.value, a], num := y.num * (2 ^ K - 1) + m * 2 ^ y.exp, exp := y.exp + K, live := true }))) ∧
    (∀ z : Fin 13,
      let n := Tab.get 0 s.power.convLost z.val
      (8 ≤ n → exec (.converterLost z) s = .next s) ∧
      (n < 8 → Nexts (.converterLost z) s (fun t => t = { s with power := { s.power with convLost := t.power.convLost, notes := t.power.notes } } ∧
        (∀ q, Tab.get 0 t.power.convLost q = if q = z.val then n + 1 else Tab.get 0 s.power.convLost q) ∧
        Noted s t (.zone z.val (7 - n))))) ∧
    (∀ (q : LinkReq) (acked : Bool),
      let may := 168 ≤ r ∧ x.st = .on ∧ q ≠ .width 3
      (¬ may → exec (.chipletLinkRequest g ⟨acked, q⟩) s = .next s) ∧
      (may → x.wafer = none → only (.chipletLinkRequest g ⟨acked, q⟩) { x with chip := some q }) ∧
      (∀ w, may → x.wafer = some w → acked = true → x.change = none →
        only (.chipletLinkRequest g ⟨acked, q⟩) { x with change := some w, wafer := none, chip := some q }) ∧
      (x.wafer ≠ none → acked = false ∨ x.change ≠ none → exec (.chipletLinkRequest g ⟨acked, q⟩) s = .next s)) ∧
    (let went (y : PRegion) := Nexts (.linkChangeDone g) s (fun t => t = { s with power := t.power, regs := t.regs } ∧
        (∀ j, j ≠ r → t.region j = s.region j) ∧ reg64 t 0 0 0x900078 = reg64 s 0 0 0x900078 + 1 ∧ t.region r = y)
     let width (q : LinkReq) : BitVec 2 := match q with
       | .width w => w
       | .retrain => x.width
     (x.change = none → x.wafer = none → exec (.linkChangeDone g) s = .next s) ∧
     (∀ q, x.change = some q → went { x with width := width q, change := none }) ∧
     (∀ q, x.change = none → x.wafer = some q → went { x with width := width q, wafer := none }))

/-- R365, R368, R370, R371, R373, R374, R379, R385, R390 to R392, R397, R400, R401: a cycle runs only where an instance holds the token; it takes the busbar's measurements, acts on what the cells
have done, moves the target of a segment in progress towards its sample, answers a mailbox, advances the heartbeats, and makes the thermal trip
at the fifth cycle at 105 °C. -/
def Obligations.DecisionCycles : Prop :=
  ∀ (s : State) (i : CycleIn),
    let active := s.hw.phase = .up ∧ (s.tamb.ta = .active ∨ s.tamb.tb = .active)
    let cool := ∀ r, tempAtLeast s r 1050 = false
    let draw := BitVec.ofNat 16 (sensorNat s .busbar 0 1)
    (¬ active → exec (.decisionCycle i) s = .next s) ∧
    (active → Nexts (.decisionCycle i) s (fun t => t.tamb.cycle = s.tamb.cycle + 1 ∧ t.time = nextCycle s ∧ t.power.draw = draw ∧
      t.power.volts = BitVec.ofNat 16 (sensorNat s .busbar 0 0) ∧ t.power.floorKw = i.floorKw ∧ t.power.notes = [] ∧
      (∀ n ∈ s.power.notes, (regGet t 0 0 0x90005C).getLsbD (match n with | .lost _ _ => 0 | .trip _ _ => 2 | .ramp _ _ _ _ => 2 | .sensor _ _ _ => 4 | .zone _ _ => 5) = true) ∧
      t.tamb.overruns = (if i.overrun then s.tamb.overruns + 1 else 0) ∧
      t.tamb.sensors = s.tamb.sensors ∧ t.defects.length ≥ s.defects.length)) ∧
    (active → cool → Nexts (.decisionCycle i) s (fun t => t.hw.phase = .up ∧
      t.tamb.beatA = (if s.tamb.ta = .failed then s.tamb.beatA else s.tamb.beatA + 1) ∧
      t.tamb.beatB = (if s.tamb.tb = .failed then s.tamb.beatB else s.tamb.beatB + 1))) ∧
    (∀ r x, active → Tab.find s.power.regions r = some x → 4 ≤ x.hot → tempAtLeast s r 1050 = true → Nexts (.decisionCycle i) s (fun t =>
      t.hw.phase = .stopped ∧ t.hw.ready = false ∧ t.quiet = true ∧ ∀ d, coreKey d < s.gridRows * 1022 → (t.core d).st = .fenced)) ∧
    (∀ slot x, active → cool → s.power.segs = [(slot, x)] → x.covers (nextCycle s).toNat = true → s.power.env ≠ .idle → s.power.env ≠ .frozen →
      let j := ((nextCycle s).toNat - x.start.toNat) / 1000000
      let from' : Int := if s.power.env = .armed then draw.toNat * 100 else s.power.target
      let slew : Int := if x.ramp = 0 then fld (regGet s 0 0 0x90000C) 24 16 else x.ramp
      Nexts (.decisionCycle i) s (fun t => t.power.env = .tracking ∧ t.power.segs = s.power.segs ∧ t.power.seg = slot ∧ t.power.index = j ∧
        (t.power.target : Int) = from' + max (-slew) (min slew ((x.samples.getD j 0 : Int) * 100 - from')))) ∧
    (∀ fn m, active → cool → s.tamb.mbx = [(fn, m)] → fn ≤ 16 →
      let a := m.arg.toNat
      let done (c : Word) (P : State → Prop) := Nexts (.decisionCycle i) s (fun t => t.tamb.mbx = [] ∧ regGet t fn 0 0xA00020 = c ∧ P t)
      (m.op = 1 → fn ≠ 0 → 100 ≤ a → a ≤ 100000 → done 0 (fun t => (t.part fn).laneTimeout = m.arg)) ∧
      (m.op = 3 → fn = 0 → 60 ≤ a → a ≤ 95 → done 0 (fun t => t.tamb.throttle = a)) ∧
      (m.op = 4 → fn = 0 → a ≤ 60000 → done 0 (fun t => t.tamb.parkHold = a)) ∧
      ((m.op = 1 ∧ (fn = 0 ∨ a < 100 ∨ 100000 < a)) ∨ (m.op = 2 ∧ (fn = 0 ∨ a ≠ 0)) ∨ (m.op = 3 ∧ (fn ≠ 0 ∨ a < 60 ∨ 95 < a)) ∨
        (m.op = 4 ∧ (fn ≠ 0 ∨ 60000 < a)) ∨ m.op = 0 ∨ 4 < m.op → done 1 (fun t => t.tamb.throttle = s.tamb.throttle ∧ t.tamb.parkHold = s.tamb.parkHold)))

/-- R378, R379, R382, R383, R311: staging, what a WRITE_SEG is refused for, CLEAR_SEG and CLEAR_ALL, the envelope's enable, its freeze and its thaw, and PTP. -/
def Obligations.EnvelopeCommands : Prop :=
  ∀ (s : State) (rq : Staging),
    let fn := reqFn rq
    let refuses (i : Instr) := Nexts i s (fun t => t = { s with regs := t.regs } ∧ (regGet t 0 0 0x900010).getLsbD 21 = true ∧
      ∀ f x o, f ≤ 18 → o < 2 ^ 26 → f ≠ 0 ∨ x ≠ 0 ∨ o ≠ 0x900010 → regGet t f x o = regGet s f x o)
    let en := (regGet s 0 0 0x90000C).getLsbD 31
    let cfg := regGet s fn 0 0x900028
    let start := (reg64 s fn 0 0x900020).toNat
    let n := fld cfg 31 16 + 1
    let smp (j : Nat) := Tab.find s.power.stage (fn * 65536 + j)
    let staged := start % 1000000 = 0 ∧ s.time.toNat + 10000000 ≤ start ∧ fld cfg 8 0 ≤ 300 ∧ ∀ j, j < n → ∃ v, smp j = some v ∧ 650 ≤ v ∧ v ≤ 3600
    let clash := ∃ e ∈ s.power.segs, start < e.2.start.toNat + e.2.samples.length * 1000000 ∧ e.2.start.toNat < start + n * 1000000
    (∀ g : BitVec 8, ¬ staged ∨ Tab.find s.power.segs g.toNat ≠ none ∨ clash → refuses (.writeSeg rq g)) ∧
    (∀ g : BitVec 8, staged → Tab.find s.power.segs g.toNat = none → ¬ clash → Nexts (.writeSeg rq g) s (fun t =>
      t = { s with power := { s.power with segs := t.power.segs } } ∧ (∀ j, j ≠ g.toNat → Tab.find t.power.segs j = Tab.find s.power.segs j) ∧
      ∃ x, Tab.find t.power.segs g.toNat = some x ∧ x.start.toNat = start ∧ x.ramp = fld cfg 8 0 ∧ x.samples.length = n ∧
        ∀ j, j < n → x.samples[j]? = smp j)) ∧
    (∀ g : BitVec 8, Tab.find s.power.segs g.toNat = none → exec (.clearSeg rq g) s = .next s) ∧
    (∀ (g : BitVec 8) x, Tab.find s.power.segs g.toNat = some x →
      let now := en = true ∧ x.start.toNat ≤ s.time.toNat ∧ s.time.toNat < x.start.toNat + x.samples.length * 1000000
      (now → refuses (.clearSeg rq g)) ∧
      (¬ now → Nexts (.clearSeg rq g) s (fun t => t = { s with power := { s.power with segs := t.power.segs } } ∧
        ∀ j, Tab.find t.power.segs j = if j = g.toNat then none else Tab.find s.power.segs j))) ∧
    (en = true → refuses (.clearAll rq)) ∧ (en = false → exec (.clearAll rq) s = .next { s with power := { s.power with segs := [] } }) ∧
    (∀ v : Word, Nexts (.pwrSegCfgWrite rq v) s (fun t => t = { s with power := { s.power with stage := t.power.stage }, regs := t.regs } ∧
      (∀ j, j < 65536 → Tab.find t.power.stage (fn * 65536 + j) = none) ∧ (∀ k, k / 65536 ≠ fn → Tab.find t.power.stage k = Tab.find s.power.stage k) ∧
      fld (regGet t fn 0 0x900028) 31 16 = fld v 31 16 ∧ fld (regGet t fn 0 0x900028) 8 0 = fld v 8 0)) ∧
    (∀ v : Word,
      let j := fld (regGet s fn 0 0x90002C) 15 0
      Nexts (.pwrSegDataWrite rq v) s (fun t => t = { s with power := { s.power with stage := t.power.stage }, regs := t.regs } ∧
        (∀ k, Tab.find t.power.stage k = if k = fn * 65536 + j then some (fld v 15 0) else Tab.find s.power.stage k) ∧
        fld (regGet t fn 0 0x90002C) 15 0 = (j + 1) % 65536)) ∧
    (∀ v : Word, v.getLsbD 31 = true → s.ptpLock = false → refuses (.pwrEnvCtrlWrite rq v)) ∧
    (∀ v : Word, v.getLsbD 31 = false ∨ s.ptpLock = true →
      let old := regGet s 0 0 0x90000C
      Nexts (.pwrEnvCtrlWrite rq v) s (fun t =>
        let now := regGet t 0 0 0x90000C
        t = { s with regs := t.regs, power := { s.power with env := t.power.env, begun := t.power.begun, segs := t.power.segs } } ∧ now.getLsbD 31 = v.getLsbD 31 ∧
        fld now 24 16 = (if 1 ≤ fld v 24 16 ∧ fld v 24 16 ≤ 300 then fld v 24 16 else fld old 24 16) ∧
        fld now 15 0 = (if fld v 15 0 = 0 then fld old 15 0 else fld v 15 0) ∧
        (v.getLsbD 31 = true ∧ s.power.env = .idle → t.power.begun = false ∧
          ∀ e, e ∈ t.power.segs ↔ e ∈ s.power.segs ∧ s.time.toNat < e.2.start.toNat + e.2.samples.length * 1000000) ∧
        (v.getLsbD 31 = false ∨ s.power.env ≠ .idle → t.power.begun = s.power.begun ∧ t.power.segs = s.power.segs) ∧
        t.power.env = (if v.getLsbD 31 = false then .idle else if s.power.env = .idle then .armed else s.power.env))) ∧
    (let moves := s.ptpLock = false ∧ (s.power.env = .armed ∨ s.power.env = .tracking ∨ s.power.env = .gap ∨ s.power.env = .ended)
     (¬ moves → exec .envFrozen s = .next s) ∧
     (moves → Nexts .envFrozen s (fun t => t.cores = s.cores ∧ t.hw.alerts = s.hw.alerts ||| 0x10 ∧
      t.power = { s.power with env := .frozen, target := if s.power.env = .armed then fld (regGet s 0 0 0x900008) 15 0 * 100 else s.power.target }))) ∧
    exec .ptpLockLost s = .next { s with ptpLock := false } ∧
    (∀ (pt : Port) ns ok,
      let w := regGet s 0 0 0x408000
      let named := w.getLsbD 31 = true ∧ fld w 10 8 = pt.val ∧ (s.port pt.val).linked = true
      (¬ named → exec (.ptpEventMessage pt ns ok) s = .next s) ∧
      (named → Nexts (.ptpEventMessage pt ns ok) s (fun t => t = { s with time := ns, ptpLock := ok, out := s.out ++ [.ptp pt.val], power := t.power } ∧
        (ok = false ∨ s.power.env ≠ .frozen → t.power = s.power) ∧
        (ok = true → s.power.env = .frozen → t.power.target = s.power.target ∧ t.power.regions = s.power.regions ∧
          (∀ e, e ∈ t.power.segs ↔ e ∈ s.power.segs ∧ ns.toNat < e.2.start.toNat + e.2.samples.length * 1000000) ∧
          ((∃ e ∈ s.power.segs, e.2.start.toNat ≤ ns.toNat ∧ ns.toNat < e.2.start.toNat + e.2.samples.length * 1000000) → t.power.env = .tracking) ∧
          (s.power.segs = [] → t.power.env = if s.power.begun = false then .armed else .ended)))))

/-- The state of the instance that holds the token, and of the other (R397). -/
def Sys2Proof.Claims.Insts (s : State) (a b : InstSt) : Prop := if s.tamb.tb = .active then s.tamb.tb = a ∧ s.tamb.ta = b else s.tamb.ta = a ∧ s.tamb.tb = b

/-- R394, R397 to R404: mailbox posts; a takeover and the loss of the standby; the MMC's loss; what a safe stop leaves; the log's queue, places and fetches. -/
def Obligations.SupervisorEvents : Prop :=
  ∀ (s : State),
    (∀ fn : Func, ∀ e ∈ [(Instr.setLaneTimeout fn, 1), (.wake fn, 2), (.setThrottle fn, 3), (.setParkHold fn, (4 : Nat))],
      (Tab.find s.tamb.mbx fn.val ≠ none → exec e.1 s = .next s) ∧
      (Tab.find s.tamb.mbx fn.val = none → exec e.1 s = .next { s with tamb := { s.tamb with
        mbx := Tab.put s.tamb.mbx fn.val ⟨e.2, regGet s fn.val 0 0xA00018, none⟩ } })) ∧
    (∀ why,
      let stands := why = .ecc ∨ (why = .overrun ∧ 2 ≤ s.tamb.overruns) ∨ (why = .heartbeat ∧ otherSt s = .standby) ∨
        ∃ w, why = .setpoint w ∧ otherSt s = .standby ∧
          let v := (s.region w.region.val).set w.rail
          w.mv < railLow w.rail ∨ railHigh w.rail < w.mv ∨ v + 20 < w.mv ∨ w.mv + 20 < v
      (s.tamb.ta ≠ .active ∧ s.tamb.tb ≠ .active ∨ ¬ stands → exec (.takeover why) s = .next s) ∧
      (s.tamb.ta = .active ∨ s.tamb.tb = .active → stands → Nexts (.takeover why) s (fun t => t.cores = s.cores ∧ t.power = { s.power with void := true } ∧
        t.tamb.mbx = s.tamb.mbx ∧ (s.tamb.tb = .active → t.tamb.tb = .failed ∧ t.tamb.ta = (if s.tamb.ta = .standby then .active else s.tamb.ta)) ∧
        (s.tamb.tb ≠ .active → t.tamb.ta = .failed ∧ t.tamb.tb = (if s.tamb.tb = .standby then .active else s.tamb.tb)) ∧
        (otherSt s = .standby → reg64 t 0 0 0xA00060 = reg64 s 0 0 0xA00060 + 1 ∧ (regGet t 0 0 0xA00004).getLsbD 2 = true)))) ∧
    (otherSt s ≠ .standby → exec .standbyLost s = .next s) ∧
    (otherSt s = .standby → Nexts .standbyLost s (fun t => t.cores = s.cores ∧ t.power = s.power ∧ (regGet t 0 0 0xA00004).getLsbD 1 = true ∧
      (s.tamb.tb = .active → t.tamb.tb = .active ∧ t.tamb.ta = .failed) ∧ (s.tamb.tb ≠ .active → t.tamb.ta = s.tamb.ta ∧ t.tamb.tb = .failed))) ∧
    (∀ i ∈ [Instr.mmcHeartbeatTimeout, .safeStop .mmc, .safeStop .tambour],
      (s.hw.phase = .dark ∨ s.hw.phase = .stopped → exec i s = .next s) ∧
      (s.hw.phase = .starting ∨ s.hw.phase = .up → Nexts i s (fun t => t.hw.phase = .stopped ∧ t.hw.ready = false ∧ t.quiet = true ∧
        t.tiers.mem = [] ∧ t.tiers.migr = none ∧ t.slices = [] ∧ t.wst = { s.wst with xfers := [] } ∧ t.defects = s.defects ∧
        (∀ r, (t.region r).st = .off ∨ ((s.region r).st = .dead ∧ (t.region r).st = .dead)) ∧
        ∀ d, coreKey d < s.gridRows * 1022 → (t.core d).st = .fenced))) ∧
    (∀ r, let hot := s.hw.phase = .up ∧ 5 ≤ (s.region r.val).hot
      (¬ hot → exec (.safeStop (.trip r)) s = .next s) ∧
      (hot → Nexts (.safeStop (.trip r)) s (fun t => t.hw.phase = .stopped ∧ t.hw.ready = false ∧ t.quiet = true))) ∧
    (s.tamb.mmcLost = true ∨ ¬ (s.hw.phase = .up ∧ (s.tamb.ta = .active ∨ s.tamb.tb = .active)) → exec .mmcLost s = .next s) ∧
    (s.tamb.mmcLost = false → s.hw.phase = .up ∧ (s.tamb.ta = .active ∨ s.tamb.tb = .active) → Nexts .mmcLost s (fun t => t.tamb.mmcLost = true ∧
      t.cores = s.cores ∧ t.power = s.power ∧ t.tamb.ta = s.tamb.ta ∧ t.tamb.tb = s.tamb.tb)) ∧
    (s.tamb.queue = [] ∨ 1 < (ctlsDown s).length → exec .logRecordWrite s = .next s) ∧
    (∀ n ws q, s.tamb.queue = (n, ws) :: q → (ctlsDown s).length ≤ 1 → Nexts .logRecordWrite s (fun t =>
      t = { s with tamb := { s.tamb with queue := q, log := t.tamb.log } } ∧
      ∀ k, Tab.find t.tamb.log k = if k = n.toNat % 2 ^ 21 then some (n, ws) else Tab.find s.tamb.log k)) ∧
    (∀ (rq : Staging) (hi : Word),
      let fn := reqFn rq
      let lo (w : Word) := Nexts (.logFetch rq hi) s (fun t => t = { s with regs := t.regs, fns := t.fns, tamb := { s.tamb with fetch := t.tamb.fetch } } ∧
        Tab.find t.tamb.fetch fn = some ⟨hi ++ w, none⟩ ∧ regGet t fn 0 0xA00030 = w ∧ regGet t fn 0 0xA00034 = hi)
      (∀ w, (s.fnBuf fn).held = some (0xA00030, w) → lo w) ∧ ((∀ w, (s.fnBuf fn).held ≠ some (0xA00030, w)) → lo (regGet s fn 0 0xA00030)) ∧
      (∀ f, Tab.find s.tamb.fetch fn = some f → f.done ≠ none → exec (.logFetchDone rq) s = .next s) ∧
      (Tab.find s.tamb.fetch fn = none → exec (.logFetchDone rq) s = .next s) ∧
      (∀ n, Tab.find s.tamb.fetch fn = some ⟨n, none⟩ → Nexts (.logFetchDone rq) s (fun t => t = { s with tamb := { s.tamb with fetch := t.tamb.fetch } } ∧
        (∀ ws, Tab.find s.tamb.log (n.toNat % 2 ^ 21) = some (n, ws) → Tab.find t.tamb.fetch fn = some ⟨n, some (some ws)⟩) ∧
        ((∀ ws, Tab.find s.tamb.log (n.toNat % 2 ^ 21) ≠ some (n, ws)) → Tab.find t.tamb.fetch fn = some ⟨n, some none⟩))))

/-- TEST_STATUS.REFUSED is set and nothing else happens. -/
def Sys2Proof.Claims.TestRefused (i : Instr) (s : State) : Prop :=
  Nexts i s (fun t => t = { s with regs := t.regs } ∧ (regGet t 0 0 0xB00014).getLsbD 31 = true ∧ regGet t 0 0 0xB00008 = regGet s 0 0 0xB00008)

/-- R207, R409, R412, R417, R419 to R421, R424: what each test command is refused for and what it queues or starts; an ABORT leaves the unit IDLE, with no
record, and a half-field re-initialised. -/
def Obligations.TestCommands : Prop :=
  ∀ (s : State) (b : BitVec 8),
    let u := b.toNat
    let x := s.test u
    let busy := x.st = .queued ∨ x.st = .running
    let owner := partOfField s (u / 2)
    let only (i : Instr) (y : TestU) := Nexts i s (fun t => t = { s with tests := t.tests } ∧ t.test u = y ∧ ∀ j, j ≠ u → t.test j = s.test j)
    (∀ l,
      let no := 167 < u ∨ s.lc = .retired ∨ busy ∨ (s.region u).st = .dead ∨ (owner ≠ 0 ∧ s.lc = .deployed) ∨ (l = true ∧ loadedAfterReset s u = true)
      (no → TestRefused (.bist b l) s) ∧
      (¬ no → owner = 0 ∨ (s.part owner).st ≠ .live → only (.bist b l) { st := .queued, links := l }) ∧
      (¬ no → owner ≠ 0 → (s.part owner).st = .live → Nexts (.bist b l) s (fun t => (t.part owner).st = .resetting ∧
        (t.part owner).fields = (s.part owner).fields ∧ t.test u = { st := .queued, links := l } ∧
        ∀ d, coreKey d ∈ listedKeys s owner → (t.core d).st = .fenced))) ∧
    (let no := 167 < u ∨ s.lc = .retired ∨ busy ∨ owner ≠ 0 ∨ (∃ g ∈ s.transit, g.field = u / 2) ∨
        ((s.region u).st = .dead ∧ s.lc ≠ .manufacture ∧ s.lc ≠ .service)
     (no → TestRefused (.repair b) s) ∧ (¬ no → only (.repair b) { st := .queued, links := true, repair := true })) ∧
    (let stack := 168 ≤ u ∧ u < 192 ∧ stackState s (u - 168) = 2 ∧ ∀ j, j < 24 → (s.test (168 + j)).st ≠ .running
     let weights := 192 ≤ u ∧ u < 208 ∧ (ctl s (u - 192)).st = 1 ∧ ∀ j, j < 16 → (s.test (192 + j)).st ≠ .running
     let port := 208 ≤ u ∧ u < 216 ∧ (s.port (u - 208)).st = .offline ∧ x.st ≠ .running
     (¬ (stack ∨ weights ∨ port) → TestRefused (.unitTest b) s) ∧ (stack ∨ weights ∨ port → only (.unitTest b) { st := .running })) ∧
    (x.repair = true ∨ ¬ busy → TestRefused (.testAbort b) s) ∧
    (x.repair = false → busy → 168 ≤ u → only (.testAbort b) { x with st := .idle, slice := false }) ∧
    (x.repair = false → busy → u < 168 → s.gridRows ≤ 1080 → Nexts (.testAbort b) s (fun t => t.test u = { x with st := .idle, slice := false } ∧
      t.defects = s.defects ∧ Fresh s t [u] ∧ t.parts = s.parts ∧ (t.region u).epoch = (s.region u).epoch + 1 ∧ (t.region u).copy = (s.region u).epoch + 1))

/-- R207, R409 to R412, R417 to R420, R424: when a staggered run starts; a slice ends; what a run, a unit's test and a repair leave: their outcome, their counts, their
records, a half-field at reset condition, and in MANUFACTURE and SERVICE a region no longer DEAD or SUSPECT. The soft start of a
repair can fail only where the region is DEAD. -/
def Obligations.TestRuns : Prop :=
  ∀ (s : State) (hf : HalfField), s.gridRows ≤ 1080 →
    let h := hf.val
    let x := s.test h
    let ends (t : State) (bad : Bool) := (t.test h).st = (if bad then .fail else .pass) ∧ (regGet t 0 0 0xB00014).getLsbD 30 = true ∧
      reg64 t 0 0 0xB00040 = reg64 s 0 0 0xB00040 + 1 ∧ reg64 t 0 0 0xB00048 = reg64 s 0 0 0xB00048 + (if bad then 1 else 0)
    (let starts := (regGet s 0 0 0xB0000C).getLsbD 31 = false ∧ runReady s h = true ∧ runsNow s < fld (regGet s 0 0 0xB0000C) 27 24 ∧
        ∀ j, j < h → runReady s j = false
     (¬ starts → exec (.bistRunStart hf) s = .next s) ∧
     (starts → Nexts (.bistRunStart hf) s (fun t => t = { s with tests := t.tests, power := t.power } ∧ t.test h = { x with st := .running, slice := true } ∧
      t.region h = { s.region h with epoch := (s.region h).epoch + 1, copy := (s.region h).epoch + 1 } ∧
      (∀ j, j ≠ h → t.test j = s.test j) ∧ ∀ r, r ≠ h → t.region r = s.region r))) ∧
    (let budget := x.st = .running ∧ x.slice = true ∧ (regGet s 0 0 0xB0000C).getLsbD 31 = true
     (¬ budget → exec (.bistSliceDone hf) s = .next s) ∧
     (budget → Nexts (.bistSliceDone hf) s (fun t => t = { s with tests := t.tests } ∧ t.test h = { x with slice := false, slices := min 22 (x.slices + 1) } ∧
      ∀ j, j ≠ h → t.test j = s.test j))) ∧
    (∀ r : TestResult,
      (x.st ≠ .running ∨ x.repair = true → exec (.bistRunDone hf r) s = .next s) ∧
      (x.st = .running → x.repair = false → Nexts (.bistRunDone hf r) s (fun t => ends t (!r.findings.isEmpty) ∧ Fresh s t [h] ∧ t.parts = s.parts ∧
        (∃ ds, t.defects = s.defects ++ ds ∧ ds.length = (t.test h).found ∧ ∀ d ∈ ds, d.pending = true ∧ d.time = s.time) ∧
        (r.findings = [] → t.defects = s.defects) ∧
        (s.defects.length + 2 * r.findings.length ≤ 65535 → ∀ f ∈ r.findings, ∃ d ∈ t.defects, d.kind = f.kind ∧ d.unit = f.unit ∧ d.loc = f.loc))) ∧
      (x.st ≠ .running ∨ x.repair = false → exec (.repairDone hf r) s = .next s) ∧
      let dark := r.rampOk = false ∧ (s.region h).st = .dead
      (x.st = .running → x.repair = true → dark → Nexts (.repairDone hf r) s (fun t => ends t true ∧ t.cores = s.cores ∧ t.defects = s.defects ∧
        t.power = s.power ∧ (regGet t 0 0 0x90005C).getLsbD 2 = true)) ∧
      (x.st = .running → x.repair = true → ¬ dark → Nexts (.repairDone hf r) s (fun t =>
        ends t (!(neighbourFinds r.reports).isEmpty || !r.findings.isEmpty) ∧ Tab.get 0 t.ident h ≠ Tab.get 0 s.ident h ∧
        (∀ j, j ≠ h → Tab.get 0 t.ident j = Tab.get 0 s.ident j) ∧
        (∀ pl, pl ∈ t.lostRouters ↔ pl ∈ s.lostRouters ∧ halfOfPlace pl ≠ h))) ∧
      (x.st = .running → x.repair = true → ¬ dark → neighbourFinds r.reports = [] → r.findings = [] →
        (s.lc ≠ .manufacture ∧ s.lc ≠ .service → Nexts (.repairDone hf r) s (fun t => t.incarnation = s.incarnation ∧ Fresh s t [h] ∧
          ∀ d ∈ s.defects, d.pending = false → d ∈ t.defects)) ∧
        (s.lc = .manufacture ∨ s.lc = .service → Nexts (.repairDone hf r) s (fun t => t.incarnation = s.incarnation + 1 ∧ (t.region h).suspect = false ∧
          (t.region h).excl = [] ∧ ((s.region h).st = .dead → (t.region h).st = .on) ∧ (∀ d : CoreId, halfOfKey s (coreKey d) = h → t.core d = {}) ∧
          ∀ d ∈ t.defects, (d.kind = 7 ∨ d.kind = 8 ∨ d.kind = 9) → fld d.loc 7 0 ≠ h)))) ∧
    (∀ (b : BitVec 8) ok,
      let u := b.toNat
      let runs := 168 ≤ u ∧ u < 216 ∧ (s.test u).st = .running
      (¬ runs → exec (.unitTestDone b ok) s = .next s) ∧
      (runs → Nexts (.unitTestDone b ok) s (fun t => (t.test u).st = (if ok then .pass else .fail) ∧ (regGet t 0 0 0xB00014).getLsbD 30 = true ∧
        t.cores = s.cores ∧ (ok = true → ∀ d ∈ t.defects, d.kind = 0xA → fld d.loc 7 0 ≠ u) ∧
        (ok = false → s.defects.length < 65535 → ∃ d ∈ t.defects, d.kind = 0xA ∧ d.loc = BitVec.ofNat 32 u) ∧
        (u < 192 → (t.tiers.failed.contains (u - 168) = !ok)) ∧ (192 ≤ u → u < 208 → (ctl t (u - 192)).failed = !ok) ∧
        (208 ≤ u → (t.port (u - 208)).bad = !ok))))

/-- R387, R394, R405, R413, R415 to R418, R421 to R423, R425, R426, R434, R450, R484: what the power-up test leaves; each command of the life cycle, the states it is refused in, and what
RETIRE and FINALISE do. No record of the fused baseline is lost, nor one of a copy
of the map whose CRC holds, but for that of a unit that passes. -/
def Obligations.LifeCycle : Prop :=
  ∀ (s : State),
    let refused (i : Instr) := Nexts i s (fun t => t = { s with regs := t.regs } ∧ (regGet t 0 0 0xB00008).getLsbD 31 = true)
    let free := ∀ p, 1 ≤ p → p ≤ 16 → (s.part p).st = .free ∧ s.partCmd.map (·.part) ≠ some p
    let testing := ∃ e ∈ s.tests, e.2.st = .queued ∨ e.2.st = .running
    let bistHeld := ∃ h, h < 168 ∧ ((s.test h).st = .queued ∨ (s.test h).st = .running) ∧ partOfField s (h / 2) ≠ 0
    (s.lc ≠ .provisioned ∨ bistHeld → refused .deploy) ∧ (s.lc = .provisioned → ¬ bistHeld → exec .deploy s = .next { s with lc := .deployed }) ∧
    (s.lc ≠ .deployed ∨ ¬ free → refused .enterService) ∧ (s.lc = .deployed → free → exec .enterService s = .next { s with lc := .service }) ∧
    (s.lc ≠ .service ∨ testing → refused .leaveService) ∧
    (s.lc = .service → ¬ testing → Nexts .leaveService s (fun t => t = { s with lc := .deployed, incarnation := s.incarnation + 1, ports := t.ports, sessions := t.sessions, draws := t.draws })) ∧
    (∀ c, s.lc = .manufacture ∨ s.lc = .retired ∨ c ≠ 0xA5A5 ∨ ¬ free ∨ testing → refused (.retire c)) ∧
    (s.lc = .provisioned ∨ s.lc = .deployed ∨ s.lc = .service → free → ¬ testing → Nexts (.retire 0xA5A5) s (fun t => t.lc = .retired ∧ t.sec.keys = [] ∧
      t.sec.caks = [] ∧ t.sec.keysReady = false ∧ t.cores = s.cores ∧ t.parts = s.parts ∧ t.tiers.mem = [] ∧
      ∀ r, (t.region r).st = .off ∨ ((s.region r).st = .dead ∧ (t.region r).st = .dead))) ∧
    (s.lc ≠ .manufacture ∨ s.testDone = false ∨ ¬ free ∨ 4096 < s.defects.length → refused .finalise) ∧
    (s.lc = .manufacture → s.testDone = true → free → s.defects.length ≤ 4096 → Nexts .finalise s (fun t =>
      t = { s with lc := .provisioned, grade := t.grade, baseline := s.defects, wst := t.wst, tamb := { s.tamb with log := [] }, hw := { s.hw with pins := t.hw.pins } } ∧
      (∀ n, pinOf t n = (let x := pinOf s n
        if n < 4 ∧ x.stored = 4 then (if x.parked then { x with waiting := x.waiting ++ [0], stored := 0 } else ⟨0, true, [0], 0, false⟩) else x)) ∧ t.wst.sets = [] ∧ t.wst.slots = [] ∧ t.wst.adds = [] ∧
      t.grade = (if 1080 ≤ s.gridRows then 0 else if 1020 ≤ s.gridRows then 1 else if 960 ≤ s.gridRows then 2 else 3))) ∧
    (∀ u : PowerUpResult,
      (s.hw.phase ≠ .starting → exec (.powerUpTest u) s = .next s) ∧
      (s.hw.phase = .starting → Nexts (.powerUpTest u) s (fun t =>
        t.tamb.ta = (if u.taOk then .active else .failed) ∧ t.tamb.tb = (if u.tbOk then (if u.taOk then .standby else .active) else .failed))) ∧
      (s.hw.phase = .starting → u.taOk = false → u.tbOk = false → Nexts (.powerUpTest u) s (fun t => t.hw.phase = .stopped ∧ t.hw.ready = false)) ∧
      (s.hw.phase = .starting → u.taOk = true ∨ u.tbOk = true → Nexts (.powerUpTest u) s (fun t => t.hw.phase = .up ∧ t.hw.ready = true ∧
        (s.lc = .retired → t.defects = s.defects ∧ t.power = s.power ∧ t.testDone = s.testDone) ∧
        (s.lc ≠ .retired → t.testDone = true ∧ t.testMs = u.ms ∧ t.gridRows = 1080 - t.retired.length ∧ t.goodRows = t.gridRows ∧
          (∀ d ∈ t.defects, d.pending = false) ∧
          (∀ d ∈ s.baseline, d.kind ≠ 0xA → ∃ e ∈ t.defects, e.kind = d.kind ∧ e.unit = d.unit ∧ e.loc = d.loc) ∧
          (u.mmcMapOk = true ∨ u.t3MapOk = true → ∀ d ∈ s.defects, d.kind ≠ 0xA → ∃ e ∈ t.defects, e.kind = d.kind ∧ e.unit = d.unit ∧ e.loc = d.loc) ∧ (∀ y ∈ t.retired, y < 1080) ∧
          (∀ r, r < 208 → (t.region r).st = .on ∨ (t.region r).st = .dead) ∧ (∀ h ∈ u.rampFail, (t.region h.val).st = .dead) ∧
          (∀ n, n < 24 → stackState t n = if u.unitFail.contains (BitVec.ofNat 8 (168 + n)) ∨ s.sec.keyFault = true ∨ (t.region (168 + n)).st = .dead then 3 else 0) ∧
          (∀ h, h < 168 → Tab.get 0 t.ident h ≠ Tab.get 0 s.ident h) ∧
          ∀ n, n < 8 → (t.port n).st = if u.unitFail.contains (BitVec.ofNat 8 (208 + n)) then .failed else .down))))

/-- R428 to R430: UNWRAP and DELETE, in the order of their refusals. -/
def Obligations.KeyCommands : Prop :=
  ∀ (s : State) (k : BitVec 16),
    let id := k.toNat
    let shut := s.lc = .manufacture ∨ s.lc = .retired ∨ s.sec.keyFault = true
    let b := secBlob s
    let kind := fld (b.getD 0 0) 15 8
    let port := fld (b.getD 0 0) 23 16
    let code (i : Instr) (c : Word) := exec i s = .next (regSet s 0 0 0xC00008 c)
    let holds (i : Instr) (P : State → Prop) := Nexts i s (fun t => t = { s with sec := t.sec, regs := t.regs } ∧ regGet t 0 0 0xC00008 = 0 ∧
      t.sec.keyFault = s.sec.keyFault ∧ t.sec.keysReady = s.sec.keysReady ∧ P t)
    (∀ e i z,
      let good := fld (b.getD 0 0) 7 0 = 1 ∧ ((kind = 1 ∧ port = 0) ∨ (kind = 2 ∧ port ≤ 7)) ∧ fld (b.getD 0 0) 31 24 = 0 ∧
        b.getD 2 0 ++ b.getD 1 0 = Config.serial ∧ b.getD 3 0 = 0 ∧ b.getD 46 0 = 0 ∧ b.getD 47 0 = 0 ∧ e = true ∧ i = true ∧ (kind = 2 → z = true)
      let range := (kind = 2 → id = 0) ∧ (kind = 1 → 1 ≤ id ∧ id ≤ 256)
      let used := kind = 1 ∧ Tab.find s.sec.keys id ≠ none
      (shut ∨ ¬ range → code (.unwrap k e i z) 2) ∧
      (¬ shut → range → used → code (.unwrap k e i z) 3) ∧
      (¬ shut → range → ¬ used → ¬ good → Nexts (.unwrap k e i z) s (fun t => t = { s with regs := t.regs } ∧ regGet t 0 0 0xC00008 = 1 ∧
        reg64 t 0 0 0xC00018 = reg64 s 0 0 0xC00018 + 1)) ∧
      (¬ shut → range → good → kind = 1 → Tab.find s.sec.keys id = none → holds (.unwrap k e i z) (fun t => t.sec.caks = s.sec.caks ∧
        ∀ j, Tab.find t.sec.keys j = if j = id then some b else Tab.find s.sec.keys j)) ∧
      (¬ shut → range → good → kind = 2 → holds (.unwrap k e i z) (fun t => t.sec.keys = s.sec.keys ∧
        ∀ j, Tab.find t.sec.caks j = if j = port then some b else Tab.find s.sec.caks j))) ∧
    (shut ∨ id = 0 ∨ 256 < id → code (.keyDelete k) 2) ∧
    (¬ shut → 1 ≤ id → id ≤ 256 → keyUsers s id ≠ 0 → code (.keyDelete k) 3) ∧
    (¬ shut → 1 ≤ id → id ≤ 256 → keyUsers s id = 0 → holds (.keyDelete k) (fun t => t.sec.caks = s.sec.caks ∧
      ∀ j, Tab.find t.sec.keys j = if j = id then none else Tab.find s.sec.keys j))

/-- R431, R432: the block answers each SPDM request with one message on the path it came by, its code the request's, or with ERROR: Busy while keys are derived, UnexpectedRequest
where it may not sign, UnsupportedRequest for any other; nothing while the path is down. What the spec leaves to certificates and keys stays open. -/
def Obligations.SpdmAnswers : Prop :=
  ∀ (s : State) (via : Via) (nonce : BitVec 256) (slot idx code : BitVec 8) (p384 sign : Bool),
    let n := viaNo via
    let busy := s.hw.phase = .starting ∧ s.sec.keysReady = false ∧ s.sec.keyFault = false
    let shut := s.lc = .manufacture ∨ s.lc = .retired ∨ s.sec.keyFault = true
    let head (c p1 p2 : Nat) : Word := BitVec.ofNat 32 (0x13 + c * 256 + p1 * 65536 + p2 * 16777216)
    let sends (i : Instr) (ws : List Word) := Nexts i s (fun t => t.out = s.out ++ [.mctp n ws] ∧ t = { s with out := t.out, hw := { s.hw with mctp := t.hw.mctp } } ∧
      (n = 0 → t.hw.mctp = s.hw.mctp) ∧ (n ≠ 0 → ∃ q, Tab.get [] t.hw.mctp n = q ++ [⟨ws, 0, false⟩] ∧ q = (Tab.get [] s.hw.mctp n).filter (·.lost)))
    let answers (i : Instr) (c k : Nat) (x : BitVec 256) (body : List Word) := sends i (head c 0 0 :: body ++ Config.spdmBytes c k x)
    (∀ i ∈ [Instr.getVersion via, .getCapabilities via, .negotiateAlgorithms via p384, .getDigests via, .getCertificate via slot, .challenge via nonce,
        .getMeasurements via idx sign, .spdmUnsupportedRequest via code],
      (viaUp s via = false → exec i s = .next s) ∧ (viaUp s via = true → busy → sends i [head 0x7F 3 0])) ∧
    (viaUp s via = true → ¬ busy →
      answers (.getVersion via) 0x04 0 0 [] ∧ answers (.getCapabilities via) 0x61 0 0 [] ∧ answers (.negotiateAlgorithms via p384) 0x63 p384.toNat 0 [] ∧
      answers (.getDigests via) 0x01 0 0 [] ∧ answers (.getCertificate via slot) 0x02 slot.toNat 0 [] ∧
      (shut → sends (.challenge via nonce) [head 0x7F 4 0]) ∧ (¬ shut → answers (.challenge via nonce) 0x03 0 nonce []) ∧
      (sign = true → shut → sends (.getMeasurements via idx sign) [head 0x7F 4 0]) ∧
      (sign = false ∨ ¬ shut → answers (.getMeasurements via idx sign) 0x60 (idx.toNat + 256 * sign.toNat) 0 (measured s idx.toNat)) ∧
      sends (.spdmUnsupportedRequest via code) [head 0x7F 7 code.toNat])

/-- A stop of the engine (R394): from its sequence or from service it is stopped, MOD_READY low, every core FENCED, every region off that is
not DEAD, T2 lost; the weight store, the map and the life-cycle state stand. Stopped or dark it stays as it was. -/
def Sys2Proof.Claims.Stopped (s t : State) : Prop :=
  (s.hw.phase = .starting ∨ s.hw.phase = .up → t.hw.phase = .stopped ∧ t.hw.ready = false ∧ t.quiet = true ∧ t.tiers.mem = [] ∧
    t.wst.sets = s.wst.sets ∧ t.defects = s.defects ∧ t.lc = s.lc ∧
    (∀ r, (t.region r).st = .off ∨ ((s.region r).st = .dead ∧ (t.region r).st = .dead)) ∧
    ∀ d, coreKey d < s.gridRows * 1022 → (t.core d).st = .fenced) ∧
  (s.hw.phase = .dark ∨ s.hw.phase = .stopped → t.hw.phase = s.hw.phase ∧ t.cores = s.cores ∧ t.power = s.power)

/-- R394, R405, R423, R425, R427, R450, R462, R464, R469, R470, R480, R481, R484, R486: the control pins, the busbar, coolant and leaks; what the start of a power-up sequence keeps and
clears; pulses and cages. -/
def Obligations.ModuleEvents : Prop :=
  ∀ (s : State),
    Nexts (.modRst false) s (fun t => Stopped s t ∧ t.hw.rst = true ∧ t.hw.startReq = false ∧ t.hw.epo = s.hw.epo) ∧
    exec (.modRst true) s = .next { s with hw := { s.hw with rst := false, startReq := s.hw.startReq || (s.hw.rst && decide (42000 ≤ s.hw.busMv ∧ s.hw.busMv ≤ 58000) &&
      !s.hw.epo && decide (s.hw.phase = .stopped)) } } ∧
    Nexts (.epo false) s (fun t => Stopped s t ∧ t.hw.epo = true ∧ t.hw.startReq = false ∧ t.hw.rst = s.hw.rst) ∧
    exec (.epo true) s = .next { s with hw := { s.hw with epo := false } } ∧
    Nexts .busbarLoss s (fun t => (s.hw.phase = .starting ∨ s.hw.phase = .up → t.hw.ready = false ∧ t.quiet = true ∧ t.tiers.mem = [] ∧
        ∀ d, coreKey d < s.gridRows * 1022 → (t.core d).st = .fenced) ∧ t.hw.phase = .dark ∧ t.hw.busMv = 0 ∧ t.hw.startReq = false ∧ t.hw.alerts = 0 ∧ t.tamb.queue = [] ∧ t.tamb.log = s.tamb.log ∧
      t.defects = s.defects ∧ t.wst.sets = s.wst.sets ∧ t.lc = s.lc ∧ t.incarnation = s.incarnation) ∧
    (∀ mv,
      let alerts := if s.hw.phase = .dark then s.hw.alerts else s.hw.alerts ||| 0x20
      (mv < 30000 → Nexts (.busRange mv) s (fun t => t.hw.phase = .dark ∧ t.hw.busMv = 0)) ∧
      (30000 ≤ mv → mv < 40000 ∨ 59500 < mv → Nexts (.busRange mv) s (fun t => Stopped s t ∧ t.hw.busMv = mv ∧ t.hw.busLimit = none ∧
        t.hw.startReq = false ∧ (s.hw.phase ≠ .dark → t.hw.alerts.getLsbD 5 = true))) ∧
      (40000 ≤ mv → mv < 42000 → exec (.busRange mv) s = .next { s with hw := { s.hw with
        busMv := mv, busLimit := some (860 * mv / 10000), alerts := alerts } }) ∧
      (42000 ≤ mv → mv ≤ 58000 → exec (.busRange mv) s = .next { s with hw := { s.hw with busMv := mv, busLimit := none } }) ∧
      (58000 < mv → mv ≤ 59500 → exec (.busRange mv) s = .next { s with hw := { s.hw with busMv := mv, busLimit := none, alerts := alerts } })) ∧
    (∀ inlet outlet flow wet,
      let bad := if flow < 300 then s.hw.coolBad + 1 else 0
      let hot := if 420 < inlet then s.hw.inletBad + 1 else 0
      Nexts (.coolantSample inlet outlet flow wet) s (fun t => t.hw.inlet = inlet ∧ t.hw.outlet = outlet ∧ t.hw.flow = flow ∧ t.hw.coolBad = bad ∧ t.hw.inletBad = hot ∧
        (450 ≤ flow → inlet ≤ 320 → t.hw.coolLimit = none) ∧ (450 ≤ flow → 320 < inlet → inlet ≤ 420 → t.hw.coolLimit = some (3600 - 10 * (inlet - 320))) ∧
        (inlet ≤ 320 → 300 ≤ flow → flow < 450 → t.hw.coolLimit = some (8 * flow)) ∧
        (200 ≤ bad ∨ 200 ≤ hot ∨ wet = true → Stopped s t) ∧ (200 ≤ bad ∨ 200 ≤ hot ∨ t.hw.coolLimit ≠ none → t.hw.alerts.getLsbD 6 = true) ∧ (wet = true → t.hw.alerts.getLsbD 7 = true) ∧
        (bad < 200 → hot < 200 → wet = false → t = { s with hw := t.hw } ∧ t.hw.phase = s.hw.phase))) ∧
    Nexts .leak s (fun t => Stopped s t ∧ t.hw.alerts.getLsbD 7 = true) ∧
    (∀ i : PowerUpIn,
      let may := ((i.auxFromOff = true ∧ s.hw.phase = .dark) ∨ (i.auxFromOff = false ∧ s.hw.phase = .stopped ∧ s.hw.startReq = true)) ∧
        42000 ≤ s.hw.busMv ∧ s.hw.busMv ≤ 58000 ∧ s.hw.rst = false ∧ s.hw.epo = false
      (¬ may → exec (.powerUpSequence i) s = .next s) ∧
      (may → Nexts (.powerUpSequence i) s (fun t => t.hw.phase = .starting ∧ t.cores = [] ∧ t.routers = [] ∧ t.tiers.mem = [] ∧ t.hqs = [] ∧ t.partCmd = none ∧
        t.incarnation = s.incarnation + 1 ∧ t.defects = s.defects ∧ t.baseline = s.baseline ∧ t.wst.sets = s.wst.sets ∧ t.tamb.log = s.tamb.log ∧
        t.sec.keyFault = (!i.ikOk || decide (s.lc = .retired)) ∧ t.lc = (if s.lc = .deployed ∧ i.wordOk = false then .service else s.lc) ∧
        (∀ p, (t.part p).st = .free ∧ (t.part p).creations = (s.part p).creations ∧ (t.part p).fields = 0) ∧ ∀ r, (t.region r).st = .off))) ∧
    (s.hw.phase = .dark → exec .ppsRise s = .next s) ∧
    (∀ e ∈ [(Instr.ppsRise, true), (.ppsFall, false)], e.2 = false ∨ s.hw.phase ≠ .dark → Nexts e.1 s (fun t => t = { s with hw := { s.hw with pins := t.hw.pins } } ∧
      ∀ n, pinOf t n = if (pinOf s n).func = 1 ∧ (pinOf s n).parked = false then { pinOf s n with pps := e.2 } else pinOf s n)) ∧
    (∀ pt : Port,
      let x := s.port pt.val
      let cage (t : State) (c : Cage) := t.hw.cages = Tab.put s.hw.cages pt.val c
      (∀ ok, exec (.transceiverEvent pt (.inserted ok)) s = .next { s with hw := { s.hw with cages := Tab.put s.hw.cages pt.val (if ok then .good else .bad) } }) ∧
      (x.carries = false → exec (.transceiverEvent pt .removed) s = .next { s with hw := { s.hw with cages := Tab.put s.hw.cages pt.val .empty } }) ∧
      (x.carries = true → Nexts (.transceiverEvent pt .removed) s (fun t => cage t .empty ∧ (∀ m, m ≠ pt.val → t.port m = s.port m) ∧ (t.port pt.val).st = .training ∧ t.cores = s.cores)) ∧
      (x.st = .offline ∨ x.st = .failed → exec (.transceiverEvent pt .noAnswer) s = .next { s with hw := { s.hw with cages := Tab.put s.hw.cages pt.val .bad } }) ∧
      (x.st ≠ .offline → x.st ≠ .failed → Nexts (.transceiverEvent pt .noAnswer) s (fun t => cage t .bad ∧ (∀ m, m ≠ pt.val → t.port m = s.port m) ∧
        (t.port pt.val).st = .down ∧ t.cores = s.cores)))

/-- R338, R471 to R478, R422, R485: a command on a bus that is not served does nothing; one with a wrong byte count or PEC is discarded and counted; what each other command does. -/
def Obligations.SidebandCommands : Prop :=
  ∀ (s : State) (b : Bus) (d : SbData),
    let bus := busNo b
    let x := d.bytes.map BitVec.toNat
    let good (n : Nat) := busUp s b = true ∧ d.pecOk = true ∧ d.bytes.length = n
    let drops (i : Instr) := exec i s = .next { s with hw := { s.hw with discarded := satAdd16 s.hw.discarded } }
    (∀ e ∈ [(Instr.shutdown b d, 1), (.restart b d, 1), (.readWindow b d, 4), (.writeWindow b d, 8), (.status b d, 0), (.clearAlert b d, 4), (.factory b d false, 2),
        (.factory b d true, 2), (.pinFunc b d, (2 : Nat))],
      (busUp s b = false → exec e.1 s = .next s) ∧ (busUp s b = true → d.pecOk = false ∨ d.bytes.length ≠ e.2 → drops e.1)) ∧
    (good 1 → x ≠ [0x5A] → drops (.shutdown b d)) ∧
    (good 1 → x = [0x5A] → s.hw.phase = .stopped → exec (.shutdown b d) s = .next s) ∧
    (good 1 → x = [0x5A] → s.hw.phase = .starting ∨ s.hw.phase = .up → Nexts (.shutdown b d) s (fun t => Stopped s t ∧ t.tamb.queue = [] ∧
      (∀ p q, 1 ≤ p → p ≤ 16 → q < 8 → (regGet t p 0 (0x100010 + 0x100 * q)).getLsbD 31 = false))) ∧
    (good 1 → x ≠ [0xA5] → drops (.restart b d)) ∧
    (let may := s.hw.phase = .stopped ∧ s.hw.epo = false ∧ 42000 ≤ s.hw.busMv ∧ s.hw.busMv ≤ 58000
     (good 1 → x = [0xA5] → may → exec (.restart b d) s = .next { s with hw := { s.hw with startReq := true } }) ∧
     (good 1 → x = [0xA5] → ¬ may → exec (.restart b d) s = .next s)) ∧
    (good 4 → leNat x % 4 ≠ 0 ∨ busReads (leNat x) = false → exec (.readWindow b d) s = .next { s with out := s.out ++ [.reply bus [0, 0, 0, 0]] }) ∧
    (good 4 → leNat x = 0 → exec (.readWindow b d) s = .next { s with out := s.out ++ [.reply bus [0x00, 0x72, 0xA7, 0xB4]] }) ∧
    (good 8 → leNat (x.take 4) % 4 ≠ 0 ∨ busWrites (leNat (x.take 4)) = false → exec (.writeWindow b d) s = .next s) ∧
    (good 8 → leNat (x.take 4) = 0x900008 → 650 ≤ leNat (x.drop 4) → leNat (x.drop 4) ≤ 3600 → Nexts (.writeWindow b d) s (fun t => t = { s with regs := t.regs } ∧
      fld (regGet t 0 0 0x900008) 15 0 = leNat (x.drop 4))) ∧
    (good 0 → exec (.status b d) s = .next { s with out := s.out ++ [.reply bus (leBytes (statusWords s))] }) ∧
    (good 4 → exec (.clearAlert b d) s = .next { s with hw := { s.hw with alerts := s.hw.alerts &&& ~~~(BitVec.ofNat 10 (leNat x)) } }) ∧
    (∀ m, good 2 → ¬ (leNat x = 1 ∧ s.lc = .manufacture ∧ m = true) → drops (.factory b d m)) ∧
    (good 2 → leNat x = 1 → s.lc = .manufacture → exec (.factory b d true) s = exec .finalise s) ∧
    (let n := x.getD 0 0
     let f := x.getD 1 0
     let old := pinOf s n
     (good 2 → 3 < n ∨ 4 < f ∨ (f = 3 ∧ n < 2) ∨ (f = 4 ∧ (1 < n ∨ s.lc ≠ .manufacture)) → drops (.pinFunc b d)) ∧
     (good 2 → n ≤ 3 → f ≤ 2 → old.stored ≠ 3 → old.stored ≠ 4 → Nexts (.pinFunc b d) s (fun t => t = { s with hw := { s.hw with pins := t.hw.pins } } ∧
       (∀ j, j ≠ n → pinOf t j = pinOf s j) ∧
       pinOf t n = if old.parked then { old with waiting := old.waiting ++ [f], stored := f } else ⟨0, true, [f], f, false⟩)) ∧
     (good 2 → 2 ≤ n → n ≤ 3 → f = 3 → (pinOf s 2).parked = false → (pinOf s 3).parked = false → Nexts (.pinFunc b d) s (fun t =>
       pinOf t 2 = ⟨0, true, [3], 3, false⟩ ∧ pinOf t 3 = ⟨0, true, [3], 3, false⟩))) ∧
    (∀ n : Fin 4,
      let p := pinOf s n.val
      let into (q : MfPin) := Nexts (.mfParkEnd n) s (fun t => t = { s with hw := { s.hw with pins := t.hw.pins } } ∧ pinOf t n.val = q ∧ ∀ j, j ≠ n.val → pinOf t j = pinOf s j)
      (p.parked = false → exec (.mfParkEnd n) s = .next s) ∧ (p.parked = true → p.waiting = [] → into { p with parked := false }) ∧
      (∀ f, p.parked = true → p.waiting = [f] → into { p with parked := false, func := f, waiting := [] }) ∧
      (∀ f g w, p.parked = true → p.waiting = f :: g :: w → into { p with waiting := g :: w })) ∧
    (∀ c, (busUp s b = false → exec (.smbusUndefinedCommand b c) s = .next s) ∧
      (busUp s b = true → exec (.smbusUndefinedCommand b c) s = .next { s with out := s.out ++ [.nack bus] })) ∧
    (busUp s b = false ∨ s.hw.alerts = 0 → exec (.alertResponse b) s = .next s) ∧
    (busUp s b = true → s.hw.alerts ≠ 0 → exec (.alertResponse b) s = .next { s with out := s.out ++ [.alertAnswer bus (0x60 + s.hw.straps.toNat)] }) ∧
    exec (.clockLowTimeout b) s = .next s ∧
    (∀ m, (busUp s b = false → exec (.mctp b d m) s = .next s) ∧ (busUp s b = true → d.pecOk = false → drops (.mctp b d m))) ∧
    (busUp s b = true → d.pecOk = true → Nexts (.mctp b d false) s (fun t => (∃ w, t.out = s.out ++ [.mctp bus [w]]) ∧
      t = { s with out := t.out, draws := t.draws, hw := { s.hw with mctp := t.hw.mctp } })) ∧
    (busUp s b = true → d.pecOk = true → x.getD 1 0 = 0x84 → exec (.mctp b d true) s = exec (.getVersion (.bus b)) s) ∧
    (let q := Tab.get [] s.hw.mctp bus
     let qt (t : State) (r : List MctpTx) := Tab.get [] t.hw.mctp bus = r ∧ ∀ j, j ≠ bus → Tab.find t.hw.mctp j = Tab.find s.hw.mctp j
     (∀ late, (∀ y ∈ q, y.lost = true) → exec (.arbitrationLost b late) s = .next s) ∧
     (∀ late y, q.find? (fun z => !z.lost) = some y → Nexts (.arbitrationLost b late) s (fun t => t = { s with hw := t.hw } ∧
       (y.losses < 7 → qt t ({ y with losses := y.losses + 1, lost := true } :: q.filter (·.lost)) ∧ t.hw.dropped = s.hw.dropped) ∧
       (7 ≤ y.losses → qt t (q.filter (·.lost)) ∧ t.hw.dropped = satAdd16 s.hw.dropped ∧ t.hw.alerts.getLsbD 9 = true))) ∧
     (∀ e, (∀ y ∈ q, y.lost = false) → exec (.mctpRetry b e) s = .next s) ∧
     (busUp s b = false → exec (.mctpRetry b false) s = .next s) ∧
     (∀ y ys, busUp s b = true → q.filter (·.lost) = y :: ys → Nexts (.mctpRetry b false) s (fun t => t = { s with out := s.out ++ [.mctp bus y.ws], hw := { s.hw with mctp := t.hw.mctp } } ∧
       qt t (ys ++ [{ y with lost := false }]))) ∧
     (∀ y ys, q.filter (·.lost) = y :: ys → Nexts (.mctpRetry b true) s (fun t => t = { s with hw := t.hw } ∧ qt t ys ∧
       t.hw.dropped = satAdd16 s.hw.dropped ∧ t.hw.alerts.getLsbD 9 = true)))

/-- A step takes the command at the front of the queue and runs it on the state with the queue's rest; with no command waiting the block idles (the idling is the
model's choice, log entry 5). -/
def Obligations.StepTakesFront : Prop :=
  (∀ (s : State) (c : Instr) (rest : List Instr), step { s with pending := c :: rest } = exec c { s with pending := rest }) ∧
    ∀ s : State, s.pending = [] → step s = .next s

/-- R9, R32, R33, R53, R231, R308, R335, R336, R356, R362, R363, R370, R384, R404, R421, R424, R458: the machine right after reset, its registers of known reset value, and its
memories in canonical form with nothing listed. That the module starts dark, in MANUFACTURE, with the busbar in range is the model's choice (log entry 2). -/
def Obligations.ResetState : Prop :=
  let s := State.reset
  s.pending = [] ∧ memoriesWf s = true ∧ s.lc = .manufacture ∧ s.hw.phase = .dark ∧ s.partCmd = none ∧ s.power.env = .idle ∧
    (∀ c, (s.core c).st = .sleeping ∧ (s.core c).pc = 0 ∧ (∀ a, Memory.byte (s.core c).mem a = 0) ∧ (∀ r, (s.core c).rs r = PWord.zero) ∧
      (∀ r, (s.core c).rp r = if r = 0 then BitVec.allOnes 32 else 0)) ∧
    (∀ p, (s.part p).st = .free) ∧ (∀ r, (s.region r).st = .off) ∧ (∀ n, (s.lane n).st = .idle) ∧ (∀ c, chimeVal s c = 0) ∧
    (∀ a, Memory.byte s.tiers.mem a = 0) ∧
    (∀ e ∈ [(0x100010, 0x004003E8), (0x200000, 1), (0x300040, 64), (0x400018, 0x530), (0x40001C, 0x0C000800), (0x400030, 0x00080032), (0x500014, 1),
        (0x500048, 1000), (0x70012C, 25), (0x900008, 3600), (0x90000C, 0x00642710), (0x90004C, 1), (0xB0000C, 0x080000B8), (0xD00008, 0x00080000),
        (0xD01000, (1 : Word))], ∀ fn x, regGet s fn x e.1 = e.2)

/-- No command touches the queue of the commands that wait: what runs changes everything but the queue, and each step removes one command from its front. -/
def Obligations.QueueIsFifo : Prop :=
  (∀ (i : Instr) (s t : State), exec i s = .next t → t.pending = s.pending) ∧
    ∀ (s t : State) (c : Instr) (rest : List Instr), s.pending = c :: rest → step s = .next t → t.pending = rest

/-- R416, R421, R422: RETIRED has no way out, no state leads back to MANUFACTURE, and once FINALISE has fused them the grade and the baseline of the defect map stand for good. -/
def Obligations.LifeCycleInvariant : Prop :=
  (∀ (s t : State), s.lc = .retired → step s = .next t → t.lc = .retired) ∧
    ∀ (s t : State) (g : BitVec 2) (ds : List DefectRec), s.lc ≠ .manufacture ∧ s.grade = g ∧ s.baseline = ds → step s = .next t →
      t.lc ≠ .manufacture ∧ t.grade = g ∧ t.baseline = ds

/-- R35, R69, R170, R236: every step keeps the memories of the state in canonical form: T2, each core's, each slice's. -/
def Obligations.MemoriesStayCanonical : Prop :=
  ∀ (s t : State), memoriesWf s = true → step s = .next t → memoriesWf t = true

/-- R387: TA takes the token at power-up where its checks pass, TB otherwise; an instance that fails its check starts FAILED; where neither passes the engine is held in the safe stop. -/
def Obligations.TokenAtPowerUp : Prop :=
  ∀ (s : State) (u : PowerUpResult), s.hw.phase = .starting →
    Nexts (.powerUpTest u) s (fun t =>
      (u.taOk = true → t.tamb.ta = .active ∧ t.tamb.tb = if u.tbOk then .standby else .failed) ∧
      (u.taOk = false → t.tamb.ta = .failed ∧ t.tamb.tb = if u.tbOk then .active else .failed) ∧
      (u.taOk = true ∨ u.tbOk = true → t.hw.phase = .up ∧ t.hw.ready = true) ∧
      (u.taOk = false → u.tbOk = false → t.hw.phase = .stopped ∧ t.hw.ready = false ∧ t.quiet = true ∧ t.tiers.mem = [] ∧
        ∀ d, coreKey d < s.gridRows * 1022 → (t.core d).st = .fenced))

/-- R341: what setting and clearing HQ_Q_CTRL.EN does, and that base, LOG2N and VECTOR stand while it is set. -/
def Obligations.QueueEnable : Prop :=
  ∀ (s : State) (p : Vf) (q : Fin 8) (v : Word),
    let n := vfPart p
    let x := hq s n q.val
    let ctrl (t : State) := regGet t n 0 (hqOff q.val 0x10)
    let on := (ctrl s).getLsbD 31
    let others (t : State) := ∀ j, j ≠ n * 8 + q.val → Tab.find t.hqs j = Tab.find s.hqs j
    (on = false → v.getLsbD 31 = true → Nexts (.hqQCtrlWrite p q v) s (fun t => (ctrl t).getLsbD 31 = true ∧ regGet t n 0 (hqOff q.val 0x1C) = 0 ∧ others t ∧
      (hq t n q.val).head = 0 ∧ (hq t n q.val).tail = 0 ∧ (x.held = false → (hq t n q.val).cplTail = 0 ∧ (hq t n q.val).phase = true))) ∧
    (on = true → Nexts (.hqQCtrlWrite p q v) s (fun t => fld (ctrl t) 23 16 = fld (ctrl s) 23 16 ∧ others t ∧ (ctrl t).getLsbD 31 = v.getLsbD 31)) ∧
    (on = true → ∀ o ∈ [0x00, 0x04, 0x08, 0x0C], exec (.registerWrite ⟨n, by have := p.isLt; simp only [n, vfPart]; omega⟩ (BitVec.ofNat 26 (hqOff q.val o)) v 4) s = .next s) ∧
    (on = true → v.getLsbD 31 = false → Nexts (.hqQCtrlWrite p q v) s (fun t => (hq t n q.val).tail = x.head ∧ (hq t n q.val).head = x.head ∧
      ∀ c, x.cmd = some c → x.cpl = none →
        let full := (x.cplTail + 1) % hqSize s n q.val = fld (regGet s n 0 (hqOff q.val 0x1C)) 15 0
        (full → (hq t n q.val).held = true ∧ ∃ r, (hq t n q.val).cpl = some (6, r)) ∧
        (¬ full → (hq t n q.val).cmd = none ∧ ∃ r,
          let w : Word := BitVec.ofNat 32 (6 * 2 ^ 24 + x.phase.toNat * 2 ^ 16 + fld (c.w.getD 0 0) 15 0)
          let base := (reg64 s n 0 (hqOff q.val 0x08)).toNat + 16 * x.cplTail
          Out.host n base [⟨w, false⟩, ⟨r, false⟩, ⟨BitVec.ofNat 32 c.head, false⟩, ⟨0, false⟩] ∈ t.out)))

/-- R346: STATE stops a queue and records the command; nothing is fetched until STOPPED is acknowledged, then the entry after the refused one; doorbells are recorded meanwhile; no other
status stops a queue. -/
def Obligations.QueueStops : Prop :=
  ∀ (s : State) (p : Vf) (q : Fin 8),
    let n := vfPart p
    let x := hq s n q.val
    let status (t : State) := regGet t n 0 (hqOff q.val 0x20)
    (∀ c st r, x.cmd = some c → x.cpl = some (st, r) → x.held = false ∨ (regGet s n 0 (hqOff q.val 0x10)).getLsbD 31 = true → (x.cplTail + 1) % hqSize s n q.val ≠ fld (regGet s n 0 (hqOff q.val 0x1C)) 15 0 →
      Nexts (.commandComplete p q) s (fun t => (hq t n q.val).head = x.head ∧
        (st = 1 → (status t).getLsbD 31 = true ∧ fld (status t) 23 16 = fld (c.w.getD 0 0) 31 24 ∧ fld (status t) 15 0 = fld (c.w.getD 0 0) 15 0) ∧
        (st ≠ 1 → (status t).getLsbD 31 = (status s).getLsbD 31))) ∧
    ((status s).getLsbD 31 = true → ∀ ws : List Word, ws.length = 16 → exec (.commandFetch p q ws) s = .next s) ∧
    Nexts (.stoppedAck p q) s (fun t => (status t).getLsbD 31 = false ∧ hq t n q.val = x ∧
      ∀ ws : List Word, ws.length = 16 → cmdOk ws = true → (regGet s n 0 (hqOff q.val 0x10)).getLsbD 31 = true → x.head ≠ x.tail → x.cmd = none → (s.part n).st = .live →
        Nexts (.commandFetch p q ws) t (fun u => (hq u n q.val).cmd = some { w := ws, head := (x.head + 1) % hqSize s n q.val } ∧ (hq u n q.val).head = (x.head + 1) % hqSize s n q.val)) ∧
    (∀ v, (regGet s n 0 (hqOff q.val 0x10)).getLsbD 31 = true → fld v 15 0 < hqSize s n q.val →
      Nexts (.hqQDb p q v) s (fun t => (hq t n q.val).tail = fld v 15 0 ∧ (status t).getLsbD 31 = (status s).getLsbD 31))

/-- R95, R136, R140: the conversions between number formats complete wherever their registers are bound as R136 says, in every number format. -/
def Sys2Proof.Claims.ConversionsComplete : Prop :=
  ∀ (s : State) (c : CoreId) (fmt : NFmt) (vd va vb : Fin 16),
    let next := (s.core c).pc + 4
    let done (i : Instr) (lo n : Nat) := Ready s c i → Retires i s c next (fun k => ∀ r : Fin 16, r.val < lo ∨ lo + n ≤ r.val → k.rv r = (s.core c).rv r)
    (∀ wide, wide = .bf16 ∨ vb = 0 ∧ va.val % 4 = 0 → done (.vqscale c wide fmt vd va vb) vd.val 1 ∧ done (.vquant c wide fmt vd va vb) vd.val 1) ∧
    (vd.val % 4 = 0 → done (.vdq c .fp32 fmt vd va vb) vd.val 4) ∧ (vd.val % 2 = 0 → done (.vdq c .bf16 fmt vd va vb) vd.val 2) ∧
    done (.vcvt c true vd va vb) vd.val 1 ∧ (vd.val % 2 = 0 → done (.vcvt c false vd va 0) vd.val 2)

/-- R462, R464, R469, R470, R480, R481, R484, R486: the events on the module's pins, supply, coolant and cages complete on every state: each has a next
state in which what it reports stands recorded. A power-up sequence starts under R484's conditions; PPS_RISE acts while the MMC runs. -/
def Sys2Proof.Claims.ModuleEventsComplete : Prop :=
  (∀ (s : State) (level : Bool), Nexts (.modRst level) s (fun t => t.hw.rst = !level) ∧ Nexts (.epo level) s (fun t => t.hw.epo = !level)) ∧
  (∀ (s : State) (mv : Nat), Nexts (.busRange mv) s (fun t => t.hw.busMv = if mv < 30000 then 0 else mv)) ∧
  (∀ s : State, Nexts .busbarLoss s (fun t => t.hw.phase = .dark ∧ t.hw.busMv = 0)) ∧
  (∀ (s : State) (inlet outlet flow : Nat) (wet : Bool),
    Nexts (.coolantSample inlet outlet flow wet) s (fun t => t.hw.inlet = inlet ∧ t.hw.outlet = outlet ∧ t.hw.flow = flow)) ∧
  (∀ s : State, Nexts .leak s (fun t => t.hw.alerts.getLsbD 7 = true ∧ (s.hw.phase = .starting ∨ s.hw.phase = .up → t.hw.phase = .stopped))) ∧
  (∀ (s : State) (i : PowerUpIn), i.auxFromOff = false → s.hw.phase = .stopped → s.hw.startReq = true → s.hw.rst = false → s.hw.epo = false →
    42000 ≤ s.hw.busMv → s.hw.busMv ≤ 58000 → Nexts (.powerUpSequence i) s (fun t => t.hw.phase = .starting)) ∧
  (∀ s : State, s.hw.phase ≠ .dark → Nexts .ppsRise s (fun t => t.cores = s.cores ∧ t.pending = s.pending)) ∧
  (∀ s : State, Nexts .ppsFall s (fun t => t.cores = s.cores ∧ t.pending = s.pending)) ∧
  (∀ (s : State) (pt : Port) (ev : CageEvent), Nexts (.transceiverEvent pt ev) s (fun t => t.cores = s.cores ∧
    Tab.get Cage.empty t.hw.cages pt.val = match ev with | .inserted ok => if ok then .good else .bad | .removed => .empty | .noAnswer => .bad))

/-- R15, R311, R357, R412, R474: a low word read answers one word and leaves the cores as they are; the PTP lock is lost; a transaction timed out
changes nothing; the end of a slice changes no other unit's test; a CREATE or RESIZE whose half-fields have soft-started ends. -/
def Sys2Proof.Claims.ServiceEventsComplete : Prop :=
  (∀ (s : State) (fn : Func) (off : BitVec 26) (sz : Nat), Nexts (.lowWordRead fn ⟨off, sz⟩) s (fun t => t.cores = s.cores ∧ ∃ w, t.out.getLast? = some (.read fn.val w))) ∧
  (∀ s : State, exec .ptpLockLost s = .next { s with ptpLock := false }) ∧
  (∀ (s : State) (b : Bus), exec (.clockLowTimeout b) s = .next s) ∧
  (∀ (s : State) (hf : HalfField), Nexts (.bistSliceDone hf) s (fun t => t.cores = s.cores ∧ t.tiers = s.tiers ∧
    (∀ h, h ≠ hf.val → t.test h = s.test h))) ∧
  (∀ (s : State) (x : PartCmd), s.partCmd = some x → x.op = 1 ∨ x.op = 2 → (cmdHalves s).any (fun h => softPending (s.region h)) = false →
    Nexts .partCmdComplete s (fun t => t.partCmd = none))

/-- The forms of conversions, module events and the ends of services complete, each under conditions on its state and operands alone. -/
def Obligations.FormsComplete : Prop := Claims.ConversionsComplete ∧ Claims.ModuleEventsComplete ∧ Claims.ServiceEventsComplete
end

