-- ==== Sys2Proof/Laws/Tab.lean ====
section
/-! SUPPORT. Laws of the tables of Tab.lean: reading after writing, and that every operation keeps the canonical form. -/

namespace Sys2Proof.Machine

variable {α : Type}

theorem Tab.find_drop_same (t : Tab α) (k : Nat) : Tab.find (Tab.drop t k) k = none := by
  induction t with
  | nil => rfl
  | cons e t ih =>
    obtain ⟨i, a⟩ := e
    by_cases h : i = k <;> simp [Tab.drop, Tab.find, h, ih]

theorem Tab.find_drop_other (t : Tab α) {k j : Nat} (h : j ≠ k) : Tab.find (Tab.drop t k) j = Tab.find t j := by
  induction t with
  | nil => rfl
  | cons e t ih =>
    obtain ⟨i, a⟩ := e
    by_cases hk : i = k
    · subst hk; simp [Tab.drop, Tab.find, ih, Ne.symm h]
    · simp only [Tab.drop, hk, if_false, Tab.find, ih]

theorem Tab.find_insert_other (t : Tab α) {k j : Nat} (v : α) (h : j ≠ k) : Tab.find (Tab.insert t k v) j = Tab.find t j := by
  induction t with
  | nil => simp [Tab.insert, Tab.find, Ne.symm h]
  | cons e t ih =>
    obtain ⟨i, a⟩ := e
    by_cases hk : k < i
    · simp [Tab.insert, Tab.find, hk, Ne.symm h]
    · simp only [Tab.insert, hk, if_false, Tab.find, ih]

theorem Tab.find_insert_same (t : Tab α) (k : Nat) (v : α) (h : Tab.find t k = none) : Tab.find (Tab.insert t k v) k = some v := by
  induction t with
  | nil => simp [Tab.insert, Tab.find]
  | cons e t ih =>
    obtain ⟨i, a⟩ := e
    by_cases hik : i = k
    · simp [Tab.find, hik] at h
    · by_cases hk : k < i
      · simp [Tab.insert, Tab.find, hk]
      · simp only [Tab.find, hik, if_false] at h
        simp [Tab.insert, Tab.find, hk, hik, ih h]

/-- What was put at a key is found there. -/
@[simp] theorem Tab.find_put_same (t : Tab α) (k : Nat) (v : α) : Tab.find (Tab.put t k v) k = some v :=
  Tab.find_insert_same _ _ _ (Tab.find_drop_same t k)

/-- Other keys keep what they hold. -/
theorem Tab.find_put_other (t : Tab α) {k j : Nat} (v : α) (h : j ≠ k) : Tab.find (Tab.put t k v) j = Tab.find t j := by
  simp [Tab.put, Tab.find_insert_other _ _ h, Tab.find_drop_other _ h]

@[simp] theorem Tab.get_put_same (d : α) (t : Tab α) (k : Nat) (v : α) : Tab.get d (Tab.put t k v) k = v := by
  simp [Tab.get]

theorem Tab.get_put_other (d : α) (t : Tab α) {k j : Nat} (v : α) (h : j ≠ k) : Tab.get d (Tab.put t k v) j = Tab.get d t j := by
  simp [Tab.get, Tab.find_put_other t v h]

theorem Tab.get_put (d : α) (t : Tab α) (k j : Nat) (v : α) : Tab.get d (Tab.put t k v) j = if j = k then v else Tab.get d t j := by
  by_cases h : j = k
  · subst h; simp
  · simp [h, Tab.get_put_other d t v h]

@[simp] theorem Tab.get_nil (d : α) (k : Nat) : Tab.get d ([] : Tab α) k = d := rfl

@[simp] theorem Tab.get_set_same [DecidableEq α] (d : α) (t : Tab α) (k : Nat) (v : α) : Tab.get d (Tab.set d t k v) k = v := by
  by_cases h : v = d
  · subst h; simp [Tab.set, Tab.get, Tab.find_drop_same]
  · simp [Tab.set, h]

/-- Another key keeps what it holds, whatever default it is read with. -/
theorem Tab.get_set_other [DecidableEq α] (d d' : α) (t : Tab α) {k j : Nat} (v : α) (h : j ≠ k) :
    Tab.get d' (Tab.set d t k v) j = Tab.get d' t j := by
  by_cases hv : v = d
  · simp [Tab.set, hv, Tab.get, Tab.find_drop_other t h]
  · simp [Tab.set, hv, Tab.get_put_other d' t v h]

theorem Tab.get_set [DecidableEq α] (d : α) (t : Tab α) (k j : Nat) (v : α) :
    Tab.get d (Tab.set d t k v) j = if j = k then v else Tab.get d t j := by
  by_cases h : j = k
  · subst h; simp
  · simp [h, Tab.get_set_other d d t v h]

theorem Tab.drop_of_none (t : Tab α) (k : Nat) (h : Tab.find t k = none) : Tab.drop t k = t := by
  induction t with
  | nil => rfl
  | cons e t ih =>
    obtain ⟨i, a⟩ := e
    by_cases hk : i = k
    · simp [Tab.find, hk] at h
    · simp only [Tab.find, hk, if_false] at h
      simp [Tab.drop, hk, ih h]

theorem Tab.drop_insert (t : Tab α) (k : Nat) (v : α) (h : Tab.find t k = none) : Tab.drop (Tab.insert t k v) k = t := by
  induction t with
  | nil => simp [Tab.insert, Tab.drop]
  | cons e t ih =>
    obtain ⟨i, a⟩ := e
    by_cases hik : i = k
    · simp [Tab.find, hik] at h
    · simp only [Tab.find, hik, if_false] at h
      by_cases hk : k < i
      · simp [Tab.insert, Tab.drop, hk, hik, Tab.drop_of_none t k h]
      · simp [Tab.insert, Tab.drop, hk, hik, ih h]

/-- The second of two writes at a key stands. -/
@[simp] theorem Tab.put_put (t : Tab α) (k : Nat) (v w : α) : Tab.put (Tab.put t k v) k w = Tab.put t k w := by
  simp [Tab.put, Tab.drop_insert _ _ _ (Tab.find_drop_same t k)]

/-! ## Canonical form -/

/-- Every key is above a bound. -/
def Tab.above (t : Tab α) (n : Nat) : Prop := ∀ e ∈ t, n < e.1

theorem Tab.sorted_cons (i : Nat) (a : α) (t : Tab α) :
    Tab.sorted ((i, a) :: t) = true ↔ Tab.above t i ∧ Tab.sorted t = true := by
  induction t generalizing i a with
  | nil => simp [Tab.sorted, Tab.above]
  | cons e t ih =>
    obtain ⟨j, b⟩ := e
    simp only [Tab.sorted, Bool.and_eq_true, decide_eq_true_eq]
    constructor
    · rintro ⟨h, hs⟩
      refine ⟨?_, hs⟩
      intro e he
      rcases List.mem_cons.mp he with rfl | he
      · exact h
      · exact Nat.lt_trans h (((ih j b).mp hs).1 e he)
    · rintro ⟨h, hs⟩
      exact ⟨h (j, b) (by simp), hs⟩

theorem Tab.mem_drop {t : Tab α} {k : Nat} {e : Nat × α} (h : e ∈ Tab.drop t k) : e ∈ t := by
  induction t with
  | nil => simp [Tab.drop] at h
  | cons x t ih =>
    obtain ⟨i, a⟩ := x
    by_cases hk : i = k
    · simp only [Tab.drop, hk, if_true] at h; exact List.mem_cons_of_mem _ (ih h)
    · simp only [Tab.drop, hk, if_false] at h
      rcases List.mem_cons.mp h with h | h
      · simp [h]
      · exact List.mem_cons_of_mem _ (ih h)

theorem Tab.mem_insert {t : Tab α} {k : Nat} {v : α} {e : Nat × α} (h : e ∈ Tab.insert t k v) : e = (k, v) ∨ e ∈ t := by
  induction t with
  | nil => simpa [Tab.insert] using h
  | cons x t ih =>
    obtain ⟨i, a⟩ := x
    by_cases hk : k < i
    · simpa [Tab.insert, hk] using h
    · simp only [Tab.insert, hk, if_false] at h
      rcases List.mem_cons.mp h with h | h
      · simp [h]
      · rcases ih h with h | h
        · exact .inl h
        · exact .inr (List.mem_cons_of_mem _ h)

theorem Tab.not_mem_drop {t : Tab α} {k : Nat} {e : Nat × α} (h : e ∈ Tab.drop t k) : e.1 ≠ k := by
  induction t with
  | nil => simp [Tab.drop] at h
  | cons x t ih =>
    obtain ⟨i, a⟩ := x
    by_cases hk : i = k
    · simp only [Tab.drop, hk, if_true] at h; exact ih h
    · simp only [Tab.drop, hk, if_false] at h
      rcases List.mem_cons.mp h with h | h
      · subst h; exact hk
      · exact ih h

theorem Tab.sorted_drop (t : Tab α) (k : Nat) (h : Tab.sorted t = true) : Tab.sorted (Tab.drop t k) = true := by
  induction t with
  | nil => rfl
  | cons x t ih =>
    obtain ⟨i, a⟩ := x
    obtain ⟨ha, hs⟩ := (Tab.sorted_cons i a t).mp h
    by_cases hk : i = k
    · simp [Tab.drop, hk, ih hs]
    · simp only [Tab.drop, hk, if_false]
      exact (Tab.sorted_cons _ _ _).mpr ⟨fun e he => ha e (Tab.mem_drop he), ih hs⟩

theorem Tab.sorted_insert (t : Tab α) (k : Nat) (v : α) (h : Tab.sorted t = true) (hk : ∀ e ∈ t, e.1 ≠ k) :
    Tab.sorted (Tab.insert t k v) = true := by
  induction t with
  | nil => rfl
  | cons x t ih =>
    obtain ⟨i, a⟩ := x
    obtain ⟨ha, hs⟩ := (Tab.sorted_cons i a t).mp h
    by_cases hi : k < i
    · simp only [Tab.insert, hi, if_true]
      refine (Tab.sorted_cons _ _ _).mpr ⟨?_, h⟩
      intro e he
      rcases List.mem_cons.mp he with rfl | he
      · exact hi
      · exact Nat.lt_trans hi (ha e he)
    · simp only [Tab.insert, hi, if_false]
      refine (Tab.sorted_cons _ _ _).mpr ⟨?_, ih hs (fun e he => hk e (List.mem_cons_of_mem _ he))⟩
      intro e he
      have hne := hk (i, a) (by simp)
      rcases Tab.mem_insert he with rfl | he
      · simp only at hne ⊢; omega
      · exact ha e he

theorem Tab.sorted_put (t : Tab α) (k : Nat) (v : α) (h : Tab.sorted t = true) : Tab.sorted (Tab.put t k v) = true :=
  Tab.sorted_insert _ _ _ (Tab.sorted_drop t k h) (fun _ he => Tab.not_mem_drop he)

theorem Tab.wf_iff [DecidableEq α] (d : α) (t : Tab α) : Tab.wf d t = true ↔ Tab.sorted t = true ∧ ∀ e ∈ t, e.2 ≠ d := by
  simp [Tab.wf]

/-- A write keeps the canonical form. -/
theorem Tab.wf_set [DecidableEq α] (d : α) (t : Tab α) (k : Nat) (v : α) (h : Tab.wf d t = true) : Tab.wf d (Tab.set d t k v) = true := by
  obtain ⟨hs, hd⟩ := (Tab.wf_iff d t).mp h
  by_cases hv : v = d
  · simp only [Tab.set, hv, if_true]
    exact (Tab.wf_iff _ _).mpr ⟨Tab.sorted_drop t k hs, fun e he => hd e (Tab.mem_drop he)⟩
  · simp only [Tab.set, hv, if_false]
    refine (Tab.wf_iff _ _).mpr ⟨Tab.sorted_put t k v hs, ?_⟩
    intro e he
    rcases Tab.mem_insert he with rfl | he
    · exact hv
    · exact hd e (Tab.mem_drop he)

theorem Tab.sorted_filter (t : Tab α) (f : Nat × α → Bool) (h : Tab.sorted t = true) : Tab.sorted (t.filter f) = true := by
  induction t with
  | nil => rfl
  | cons x t ih =>
    obtain ⟨i, a⟩ := x
    obtain ⟨ha, hs⟩ := (Tab.sorted_cons i a t).mp h
    by_cases hf : f (i, a) = true
    · simp only [List.filter_cons, hf, if_true]
      exact (Tab.sorted_cons _ _ _).mpr ⟨fun e he => ha e (List.mem_of_mem_filter he), ih hs⟩
    · simp only [List.filter_cons, hf]; exact ih hs

theorem Tab.wf_filter [DecidableEq α] (d : α) (t : Tab α) (f : Nat × α → Bool) (h : Tab.wf d t = true) : Tab.wf d (t.filter f) = true := by
  obtain ⟨hs, hd⟩ := (Tab.wf_iff d t).mp h
  exact (Tab.wf_iff _ _).mpr ⟨Tab.sorted_filter t f hs, fun e he => hd e (List.mem_of_mem_filter he)⟩

/-! ## Byte memories -/

theorem Memory.wf_setByte (m : List Host.Cell) (a : Nat) (b : Byte) (h : Memory.wf m = true) : Memory.wf (Memory.setByte m a b) = true :=
  Tab.wf_set 0 m a b h

theorem Memory.byte_setByte (m : List Host.Cell) (a x : Nat) (b : Byte) :
    Memory.byte (Memory.setByte m a b) x = if x = a then b else Memory.byte m x := Tab.get_set 0 m a x b

theorem Memory.wf_setNat (n : Nat) : ∀ (m : List Host.Cell) (a v : Nat), Memory.wf m = true → Memory.wf (Memory.setNat m a n v) = true := by
  induction n with
  | zero => intro m a v h; exact h
  | succ n ih => intro m a v h; exact ih _ _ _ (Memory.wf_setByte m a _ h)

/-- A byte outside the bytes written keeps its value. -/
theorem Memory.byte_setNat_other (n : Nat) : ∀ (m : List Host.Cell) (a v x : Nat), x < a ∨ a + n ≤ x →
    Memory.byte (Memory.setNat m a n v) x = Memory.byte m x := by
  induction n with
  | zero => intro m a v x _; rfl
  | succ n ih =>
    intro m a v x h
    have hx : x ≠ a := by omega
    simp only [Memory.setNat]
    rw [ih _ _ _ _ (by omega), Memory.byte_setByte, if_neg hx]

/-- The bytes written hold the little-endian bytes of the number. -/
theorem Memory.byte_setNat (n : Nat) : ∀ (m : List Host.Cell) (a v i : Nat), i < n →
    Memory.byte (Memory.setNat m a n v) (a + i) = BitVec.ofNat 8 (v / 256 ^ i) := by
  induction n with
  | zero => intro m a v i h; omega
  | succ n ih =>
    intro m a v i h
    simp only [Memory.setNat]
    cases i with
    | zero =>
      rw [Memory.byte_setNat_other _ _ _ _ _ (by omega), Memory.byte_setByte]; simp
    | succ i =>
      have := ih (Memory.setByte m a (BitVec.ofNat 8 v)) (a + 1) (v / 256) i (by omega)
      rw [show a + (i + 1) = a + 1 + i by omega, this, Nat.div_div_eq_div_mul, Nat.pow_succ, Nat.mul_comm]

theorem Memory.wf_setWord (m : List Host.Cell) (a : Nat) (w : Word) (h : Memory.wf m = true) : Memory.wf (Memory.setWord m a w) = true :=
  Memory.wf_setNat 4 m a _ h

theorem Memory.wf_putWords (ws : List PWord) : ∀ (m : List Host.Cell) (tg : Tab Bool) (a : Nat), Memory.wf m = true →
    Memory.wf (Memory.putWords m tg a ws).1 = true := by
  induction ws with
  | nil => intro m tg a h; exact h
  | cons w ws ih => intro m tg a h; exact ih _ _ _ (Memory.wf_setWord m a _ h)

theorem Memory.wf_clear (m : List Host.Cell) (lo hi : Nat) (h : Memory.wf m = true) : Memory.wf (Memory.clear m lo hi) = true :=
  Tab.wf_filter 0 m _ h

end Sys2Proof.Machine
end

