-- ==== Sys2Proof/Laws/Core.lean ====
section
/-! SUPPORT. What the shared operations of core instructions do: reading registers after writing them, counters, and the frame of
issue. -/

namespace Sys2Proof.Machine

/-! ## Cores in the state -/

@[simp] theorem State.core_setCore (s : State) (c : CoreId) (k : Core) : (s.setCore c k).core c = k := by
  simp [State.core, State.setCore]

theorem coreKey_inj {c d : CoreId} (h : coreKey c = coreKey d) : c = d := by
  obtain ⟨x, y⟩ := c
  obtain ⟨x', y'⟩ := d
  have := x.isLt
  have := x'.isLt
  simp only [coreKey] at h
  have hx : x = x' := Fin.ext (by omega)
  have hy : y = y' := Fin.ext (by omega)
  rw [hx, hy]

/-- Another core is not changed. -/
theorem State.core_setCore_other (s : State) {c d : CoreId} (k : Core) (h : d ≠ c) : (s.setCore c k).core d = s.core d :=
  Tab.get_put_other _ _ _ (fun e => h (coreKey_inj e))

/-! ## Registers -/

theorem Core.rs_setS (k : Core) (rd r : Fin 32) (w : PWord) :
    (k.setS rd w).rs r = if r = 0 then PWord.zero else if r = rd then w else k.rs r := by
  unfold Core.rs Core.setS
  by_cases hr : r = 0
  · simp [hr]
  · by_cases hd : rd = 0
    · subst hd; simp [hr]
    · by_cases he : r = rd
      · subst he; simp [hr]
      · have : r.val ≠ rd.val := fun h => he (Fin.ext h)
        simp [hr, hd, he, Tab.get_set_other _ _ _ _ this]

theorem Core.ra_setA (k : Core) (ad r : Fin 8) (w : PWord) : (k.setA ad w).ra r = if r = ad then w else k.ra r := by
  unfold Core.ra Core.setA
  by_cases he : r = ad
  · subst he; simp
  · have : r.val ≠ ad.val := fun h => he (Fin.ext h)
    simp [he, Tab.get_set_other _ _ _ _ this]

theorem Core.rp_setP (k : Core) (pd r : Fin 8) (w : Word) :
    (k.setP pd w).rp r = if r = 0 then BitVec.allOnes 32 else if r = pd then w else k.rp r := by
  unfold Core.rp Core.setP
  by_cases hr : r = 0
  · simp [hr]
  · by_cases hd : pd = 0
    · subst hd; simp [hr]
    · by_cases he : r = pd
      · subst he; simp [hr]
      · have : r.val ≠ pd.val := fun h => he (Fin.ext h)
        simp [hr, hd, he, Tab.get_set_other _ _ _ _ this]

theorem Core.rv_setV (k : Core) (vd r : Fin 16) (x : VReg) : (k.setV vd x).rv r = if r = vd then x else k.rv r := by
  unfold Core.rv Core.setV
  by_cases he : r = vd
  · subst he; simp
  · have : r.val ≠ vd.val := fun h => he (Fin.ext h)
    simp [he, Tab.get_set_other _ _ _ _ this]

theorem Core.rd_setD (k : Core) (dn r : Fin 16) (x : VReg) : (k.setD dn x).rd r = if r = dn then x else k.rd r := by
  unfold Core.rd Core.setD
  by_cases he : r = dn
  · subst he; simp
  · have : r.val ≠ dn.val := fun h => he (Fin.ext h)
    simp [he, Tab.get_set_other _ _ _ _ this]

theorem Core.accGet_accSet (k : Core) (t u : Fin 4) (e f : Nat) (w : PWord) (he : e < 256) (hf : f < 256) :
    (k.accSet t e w).accGet u f = if u = t ∧ f = e then w else k.accGet u f := by
  unfold Core.accGet Core.accSet
  by_cases h : u = t ∧ f = e
  · obtain ⟨rfl, rfl⟩ := h; simp
  · have : u.val * 256 + f ≠ t.val * 256 + e := by
      intro h'
      exact h ⟨Fin.ext (by omega), by omega⟩
    simp [h, Tab.get_set_other _ _ _ _ this]

/-! ## Control registers and counters -/

theorem Core.ctlW_setCtl (k : Core) (o j : Nat) (w : Word) : (k.setCtl o w).ctlW j = if j = o then w else k.ctlW j := by
  unfold Core.ctlW Core.setCtl
  by_cases h : j = o
  · subst h; simp
  · simp [h, Tab.get_set_other _ _ _ _ h]

/-- The beat counter changes alone. -/
theorem Core.count_beats (k : Core) (n : Nat) : ∃ b, k.count 0x40 n = { k with cntBeats := b } := by
  unfold Core.count
  split
  · exact ⟨_, rfl⟩
  · exact ⟨k.cntBeats, rfl⟩

/-- The bank stall counter changes alone. -/
theorem Core.count_bank (k : Core) (n : Nat) : ∃ b, k.count 0x68 n = { k with cntBank := b } := by
  unfold Core.count
  split
  · exact ⟨_, rfl⟩
  · exact ⟨k.cntBank, rfl⟩

/-- Any other counter changes its own two words alone. -/
theorem Core.count_ctl (k : Core) (o n : Nat) (h1 : o ≠ 0x40) (h2 : o ≠ 0x50) (h3 : o ≠ 0x68) :
    ∃ x, k.count o n = { k with ctl := x } ∧ ∀ j, j ≠ o → j ≠ o + 4 → ({ k with ctl := x } : Core).ctlW j = k.ctlW j := by
  unfold Core.count
  split
  · refine ⟨_, by simp only [Core.setCtl64, h1, h2, h3, if_false]; rfl, ?_⟩
    intro j hj hj'
    show Tab.get _ (Tab.set _ _ _ _) _ = _
    rw [Tab.get_set_other _ _ _ _ hj']
    show Tab.get _ (Tab.set _ _ _ _) _ = _
    rw [Tab.get_set_other _ _ _ _ hj]
    rfl
  · exact ⟨k.ctl, rfl, fun _ _ _ => rfl⟩

/-- Consuming poison sets POISON_SEEN and moves the poison counter. -/
theorem Core.consume_eq (k : Core) (n : Nat) :
    ∃ x, k.consume n = { k with ctl := x } ∧
      ∀ j, j ≠ 0x70 → j ≠ 0x74 → ({ k with ctl := x } : Core).ctlW j = if n ≠ 0 ∧ j = 0x04 then k.ctlW 0x04 ||| 8 else k.ctlW j := by
  unfold Core.consume
  by_cases hn : n = 0
  · exact ⟨k.ctl, by simp [hn], by intro j _ _; simp [hn]⟩
  · obtain ⟨x, hx, hj⟩ := Core.count_ctl (k.setCtl 0x04 (k.ctlW 0x04 ||| 8)) 0x70 n (by decide) (by decide) (by decide)
    refine ⟨x, by rw [if_neg hn, hx]; rfl, ?_⟩
    intro j h h'
    have := hj j h h'
    rw [Core.ctlW_setCtl] at this
    refine Eq.trans this ?_
    by_cases h4 : j = 4 <;> simp [hn, h4]

/-! ## Leaving the issue stage -/

/-- What retiring does: the one core changes, its pc moves on, the retired counter and the beat counters move; two free values are
drawn. -/
theorem retireAt_eq (s : State) (c : CoreId) (k : Core) (next : Word) :
    ∃ k', retireAt s c k next = { s with cores := Tab.put s.cores (coreKey c) k', draws := s.draws + 2 } ∧
      k' = { k with pc := next, ir := none, wait := none, ctl := k'.ctl, cntBeats := k'.cntBeats, cntBank := k'.cntBank } ∧
      ∀ o, o ≠ 0x48 → o ≠ 0x4C → k'.ctlW o = k.ctlW o := by
  obtain ⟨x, hx, hj⟩ := Core.count_ctl k 0x48 1 (by decide) (by decide) (by decide)
  let k1 : Core := { k with ctl := x, pc := next, ir := none, wait := none }
  obtain ⟨b, hb⟩ := Core.count_beats k1 (Config.freeNat s.draws + 1)
  obtain ⟨g, hg⟩ := Core.count_bank { k1 with cntBeats := b } (Config.freeNat (s.draws + 1))
  refine ⟨{ k1 with cntBeats := b, cntBank := g }, ?_, rfl, hj⟩
  show beats (s.setCore c { (k.count 0x48 1) with pc := next, ir := none, wait := none }) c = _
  rw [hx]
  show { ((s.setCore c k1).setCore c ((((s.setCore c k1).core c).count 0x40 (Config.freeNat s.draws + 1)).count 0x68
      (Config.freeNat (s.draws + 1)))) with draws := s.draws + 2 } = _
  rw [State.core_setCore, hb, hg]
  simp [State.setCore]

/-- An instruction that retires at a RUNNING core that stands at it. -/
theorem issue_retire (c : CoreId) (i : Instr) (s : State) (f : Core → Issued) (k1 : Core) (next : Word)
    (hr : (s.core c).st = .running) (hi : (s.core c).ir = none ∨ (s.core c).ir = some i) (hf : f (s.core c) = .retire k1 next) :
    ∃ k', issue c i s f = { s with cores := Tab.put s.cores (coreKey c) k', draws := s.draws + 2 } ∧
      k' = { k1 with pc := next, ir := none, wait := none, st := .running, ctl := k'.ctl, cntBeats := k'.cntBeats, cntBank := k'.cntBank } ∧
      ∀ o, o ≠ 0x48 → o ≠ 0x4C → k'.ctlW o = k1.ctlW o := by
  obtain ⟨k', h1, h2, h3⟩ := retireAt_eq s c { k1 with st := .running } next
  refine ⟨k', ?_, h2, h3⟩
  simp only [issue, hr, hi, and_self, if_true, hf, finish]
  exact h1

/-- One that faults takes the core fault path. -/
theorem issue_fault (c : CoreId) (i : Instr) (s : State) (f : Core → Issued) (cause : Cause)
    (hr : (s.core c).st = .running) (hi : (s.core c).ir = none ∨ (s.core c).ir = some i) (hf : f (s.core c) = .fault cause) :
    issue c i s f = coreFault s c cause (s.core c).pc := by
  simp only [issue, hr, hi, and_self, if_true, hf, finish]

/-- One that stalls stays latched. -/
theorem issue_stall (c : CoreId) (i : Instr) (s : State) (f : Core → Issued)
    (hr : (s.core c).st = .running) (hi : (s.core c).ir = none ∨ (s.core c).ir = some i) (hf : f (s.core c) = .stall) :
    issue c i s f = s.setCore c { s.core c with ir := some i, st := .running, wait := none } := by
  simp only [issue, hr, hi, and_self, if_true, hf, finish]

end Sys2Proof.Machine
end

