-- ==== Sys2Proof/Laws/Kept.lean ====
section
/-! SUPPORT. What the operations of the model never change: the command queue, the life-cycle state, the shipped grade and the
baseline. One lemma per operation, so that a proof about a command cites the lemmas of what it calls and unfolds none of them. -/

namespace Sys2Proof.Machine

/-- The queue, the life-cycle state, the shipped grade and the baseline. -/
def State.kept (s : State) : List Instr × LifeState × BitVec 2 × List DefectRec := (s.pending, s.lc, s.grade, s.baseline)

theorem State.pending_of_kept {s t : State} (h : s.kept = t.kept) : s.pending = t.pending := congrArg (·.1) h

theorem State.lc_of_kept {s t : State} (h : s.kept = t.kept) : s.lc = t.lc := congrArg (·.2.1) h

theorem State.grade_of_kept {s t : State} (h : s.kept = t.kept) : s.grade = t.grade := congrArg (·.2.2.1) h

theorem State.baseline_of_kept {s t : State} (h : s.kept = t.kept) : s.baseline = t.baseline := congrArg (·.2.2.2) h

/-- A state built from its fields keeps what those fields give. -/
@[simp] theorem State.kept_mk (pending : List Instr) (draws : Nat) (out : List Out) (time : BitVec 64) (ptpLock : Bool) (regs : Tab Word)
    (fns : Tab FnBuf) (cores : Tab Core) (routers : Tab Router) (ident : Tab Word) (transit : List Transit) (lostRouters : List Nat)
    (acks : List HeldAck) (goodRows : Nat) (gridRows : Nat) (grade : BitVec 2) (retired : List Nat) (chimes : Tab Word)
    (chimeTime : Tab (BitVec 64)) (pairs : Tab Pair) (watches : List Watch) (lanes : Tab Lane) (slices : Tab Slice) (tiers : Tiers)
    (wst : Wst) (streams : Tab Stream) (engines : Tab EngineSt) (engRoutes : Tab Nat) (ports : Tab PortS) (chains : Tab Chain)
    (groups : Tab Group) (strikeSeq : Nat) (hqs : Tab HQueue) (parts : Tab Part) (partCmd : Option PartCmd) (rings : Tab Ring)
    (recent : List ReportKey) (incarnation : BitVec 64) (sessions : List Word) (defects : List DefectRec) (baseline : List DefectRec)
    (power : Power) (tamb : Tamb) (tests : Tab TestU) (testMs : BitVec 16) (testDone : Bool) (lc : LifeState) (sec : Sec) (hw : ModHw)
    (quiet : Bool) :
    State.kept (State.mk pending draws out time ptpLock regs fns cores routers ident transit lostRouters acks goodRows gridRows grade
    retired chimes chimeTime pairs watches lanes slices tiers wst streams engines engRoutes ports chains groups strikeSeq hqs parts partCmd
    rings recent incarnation sessions defects baseline power tamb tests testMs testDone lc sec hw quiet) = (pending, lc, grade, baseline) :=
    rfl

@[simp] theorem State.kept_eta (s : State) : (s.pending, s.lc, s.grade, s.baseline) = s.kept := rfl

@[simp] theorem State.kept_ite (c : Prop) [Decidable c] (a b : State) : (if c then a else b).kept = if c then a.kept else b.kept :=
  apply_ite State.kept c a b

theorem State.kept_foldl {α : Type} (g : State → α → State) (h : ∀ s x, (g s x).kept = s.kept) (l : List α) (s : State) :
    (l.foldl g s).kept = s.kept := by
  induction l generalizing s with
  | nil => rfl
  | cons x l ih => simp only [List.foldl_cons, ih, h]

@[simp] theorem drawNat_kept (s : State) : (drawNat s).2.kept = s.kept := by simp [drawNat]

@[simp] theorem freeWords_kept (s : State) (n : Nat) : (freeWords s n).2.kept = s.kept := by simp [freeWords]

@[simp] theorem drawWord_kept (s : State) : (drawWord s).2.kept = s.kept := by simp [drawWord]

@[simp] theorem emit_kept (s : State) (o : Out) : (emit s o).kept = s.kept := by simp [emit]

@[simp] theorem regSet_kept (s : State) (fn idx off : Nat) (w : Word) : (regSet s fn idx off w).kept = s.kept := by simp [regSet]

@[simp] theorem regOr_kept (s : State) (fn idx off : Nat) (w : Word) : (regOr s fn idx off w).kept = s.kept := by simp [regOr]

@[simp] theorem reg64Set_kept (s : State) (fn idx off : Nat) (v : BitVec 64) : (reg64Set s fn idx off v).kept = s.kept := by simp [reg64Set]

@[simp] theorem cntAdd_kept (s : State) (fn idx off n : Nat) : (cntAdd s fn idx off n).kept = s.kept := by simp [cntAdd]

@[simp] theorem State.setCore_kept (s : State) (c : CoreId) (k : Core) : (State.setCore s c k).kept = s.kept := by simp [State.setCore]

@[simp] theorem State.setRouter_kept (s : State) (k : Nat) (r : Router) : (State.setRouter s k r).kept = s.kept := by simp [State.setRouter]

@[simp] theorem State.setRegion_kept (s : State) (r : Nat) (x : PRegion) : (State.setRegion s r x).kept = s.kept := by
  simp [State.setRegion]

@[simp] theorem State.setTest_kept (s : State) (u : Nat) (t : TestU) : (State.setTest s u t).kept = s.kept := by simp [State.setTest]

@[simp] theorem wakeRegion_kept (s : State) (k : Nat) : (wakeRegion s k).kept = s.kept := by simp [wakeRegion]

@[simp] theorem State.setPart_kept (s : State) (p : Nat) (q : Part) : (State.setPart s p q).kept = s.kept := by simp [State.setPart]

@[simp] theorem violate_kept (s : State) (p kind : Nat) : (violate s p kind).kept = s.kept := by simp [violate]

@[simp] theorem violateN_kept (s : State) (p kind n : Nat) : (violateN s p kind n).kept = s.kept := by simp [violateN]

@[simp] theorem reportTo_kept (s : State) (fn code : Nat) (sc : Scope) (sev part : Nat) (loc v0 v1 : Word) :
    (reportTo s fn code sc sev part loc v0 v1).kept = s.kept := by simp [reportTo]

@[simp] theorem reportAll_kept (s : State) (fns : List Nat) (code : Nat) (sc : Scope) (sev part : Nat) (loc v0 v1 : Word) :
    (reportAll s fns code sc sev part loc v0 v1).kept = s.kept := by simp [reportAll, State.kept_foldl]

@[simp] theorem reportP_kept (s : State) (code : Nat) (sc : Scope) (sev p : Nat) (loc v0 v1 : Word) :
    (reportP s code sc sev p loc v0 v1).kept = s.kept := by simp [reportP]

@[simp] theorem reportE_kept (s : State) (code : Nat) (sc : Scope) (sev : Nat) (loc v0 v1 : Word) :
    (reportE s code sc sev loc v0 v1).kept = s.kept := by simp [reportE]

@[simp] theorem reportF_kept (s : State) (code : Nat) (sc : Scope) (sev : Nat) (loc v0 v1 : Word) :
    (reportF s code sc sev loc v0 v1).kept = s.kept := by simp [reportF]

@[simp] theorem logFrom_kept (s : State) (source cls code p region : Nat) (v0 v1 : Word) :
    (logFrom s source cls code p region v0 v1).kept = s.kept := by simp [logFrom]

@[simp] theorem logRecord_kept (s : State) (cls code p region : Nat) (v0 v1 : Word) :
    (logRecord s cls code p region v0 v1).kept = s.kept := by simp [logRecord]

@[simp] theorem countRows_kept (s : State) : (countRows s).kept = s.kept := by simp [countRows]

@[simp] theorem writeDefect_kept (s : State) (d : DefectRec) : (writeDefect s d).kept = s.kept := by simp [writeDefect]

@[simp] theorem recordDefect_kept (s : State) (kind : BitVec 4) (source : BitVec 3) (unit : BitVec 8) (loc : Word) :
    (recordDefect s kind source unit loc).kept = s.kept := by simp [recordDefect]

@[simp] theorem pushTrack_kept (s : State) (r t : Nat) (ws : List TWord) : (pushTrack s r t ws).kept = s.kept := by simp [pushTrack]

@[simp] theorem pushAck_kept (s : State) (p : Packet) (tap : Option Nat) : (pushAck s p tap).kept = s.kept := by
  simp only [pushAck]
  repeat' split
  all_goals simp

@[simp] theorem sendAck_kept (s : State) (p : Packet) (tap : Option Nat) : (sendAck s p tap).kept = s.kept := by simp [sendAck]

@[simp] theorem flushAcks_kept (s : State) (l m : List HeldAck) : (flushAcks s l m).kept = s.kept := by
  induction l generalizing s m with
  | nil => simp [flushAcks]
  | cons a l ih =>
    simp only [flushAcks]
    split <;> simp [ih]

@[simp] theorem releaseAck_kept (s : State) (p : Packet) (tap : Option Nat) : (releaseAck s p tap).kept = s.kept := by simp [releaseAck]

@[simp] theorem pairCheck_kept (s : State) (p g : Nat) : (pairCheck s p g).kept = s.kept := by simp [pairCheck]

@[simp] theorem mirror_kept (s : State) (p g : Nat) : (mirror s p g).kept = s.kept := by simp [mirror, State.kept_foldl]

@[simp] theorem endWait_kept (s : State) (n : Nat) (v : Word) : (endWait s n v).kept = s.kept := by simp [endWait]

@[simp] theorem answerWatch_kept (s : State) (w : Watch) : (answerWatch s w).kept = s.kept := by
  simp only [answerWatch]
  repeat' split
  all_goals simp

@[simp] theorem chimeAdvance_kept (s : State) (g : Nat) (step : Word) : (chimeAdvance s g step).kept = s.kept := by
  simp [chimeAdvance, State.kept_foldl]

@[simp] theorem partAdvance_kept (s : State) (p n : Nat) (step : Word) : (partAdvance s p n step).kept = s.kept := by simp [partAdvance]

@[simp] theorem pairRef_kept (s : State) (p g : Nat) : (pairRef s p g).kept = s.kept := by simp [pairRef]

@[simp] theorem realign_kept (s : State) (p l : Nat) : (realign s p l).kept = s.kept := by simp [realign, State.kept_foldl]

@[simp] theorem State.setLane_kept (s : State) (n : Nat) (l : Lane) : (State.setLane s n l).kept = s.kept := by simp [State.setLane]

@[simp] theorem laneApply_kept (s : State) (n : Nat) : (laneApply s n).kept = s.kept := by
  unfold laneApply
  dsimp only
  exact (State.kept_foldl _ (by intro s k; rfl) _ _).trans rfl

@[simp] theorem endArrivals_kept (s : State) (l : Nat) (status : Word) (cs : List CoreId) : (endArrivals s l status cs).kept = s.kept := by
  simp [endArrivals, State.kept_foldl]

@[simp] theorem latchSlots_kept (s : State) (p l : Nat) : (latchSlots s p l).kept = s.kept := by simp [latchSlots]

@[simp] theorem statusChime_kept (s : State) (n : Nat) (step : Word) : (statusChime s n step).kept = s.kept := by simp [statusChime]

@[simp] theorem laneRelease_kept (s : State) (n : Nat) : (laneRelease s n).kept = s.kept := by simp [laneRelease]

@[simp] theorem laneTry_kept (s : State) (n : Nat) : (laneTry s n).kept = s.kept := by simp [laneTry]

@[simp] theorem laneSettle_kept (s : State) (p : Nat) : (laneSettle s p).kept = s.kept := by simp [laneSettle, State.kept_foldl]

@[simp] theorem laneFail_kept (s : State) (n : Nat) : (laneFail s n).kept = s.kept := by simp [laneFail]

@[simp] theorem laneAbandon_kept (s : State) (n : Nat) : (laneAbandon s n).kept = s.kept := by simp [laneAbandon]

@[simp] theorem beats_kept (s : State) (c : CoreId) : (beats s c).kept = s.kept := by simp [beats]

@[simp] theorem coreFault_kept (s : State) (c : CoreId) (cause : Cause) (pc : Word) : (coreFault s c cause pc).kept = s.kept := by
  simp [coreFault]

@[simp] theorem fenceOne_kept (s : State) (c : CoreId) (cause : Cause) : (fenceOne s c cause).kept = s.kept := by simp [fenceOne]

@[simp] theorem fenceCores_kept (s : State) (p : Nat) (cause : Cause) (cs : List CoreId) : (fenceCores s p cause cs).kept = s.kept := by
  simp [fenceCores, State.kept_foldl]

@[simp] theorem retireAt_kept (s : State) (c : CoreId) (k : Core) (next : Word) : (retireAt s c k next).kept = s.kept := by simp [retireAt]

theorem finish_kept (s : State) (c : CoreId) (i : Instr) (r : Issued) : (finish s c i r).kept = s.kept := by
  cases r with
  | wait k w => cases w <;> simp [finish]
  | _ => simp [finish]

theorem issue_kept (c : CoreId) (i : Instr) (s : State) (f : Core → Issued) : (issue c i s f).kept = s.kept := by
  unfold issue
  dsimp only
  split
  · exact finish_kept s c i _
  · rfl

@[simp] theorem headerLoss_kept (s : State) (p region type : Nat) (v1 : Word) : (headerLoss s p region type v1).kept = s.kept := by
  simp [headerLoss]

@[simp] theorem routerHeaderLoss_kept (s : State) (k track : Nat) (w : Word) : (routerHeaderLoss s k track w).kept = s.kept := by
  simp [routerHeaderLoss]

@[simp] theorem engineHeaderLoss_kept (s : State) (e : Nat) (p : Packet) : (engineHeaderLoss s e p).kept = s.kept := by
  simp [engineHeaderLoss]

@[simp] theorem routeLoss_kept (s : State) (p region kind : Nat) : (routeLoss s p region kind).kept = s.kept := by simp [routeLoss]

@[simp] theorem inject_kept (s : State) (c : CoreId) (e : Word) (route : BitVec 8) (hdr : Word) (pay : List PWord) (data : Bool) :
    (inject s c e route hdr pay data).kept = s.kept := by simp [inject]

@[simp] theorem deliver_kept (s : State) (k o : Nat) (p : Packet) : (deliver s k o p).kept = s.kept := by simp [deliver]

@[simp] theorem arriveWord_kept (s : State) (k o : Nat) (var : Bool) (left : Nat) (w : TWord) :
    (arriveWord s k o var left w).kept = s.kept := by
  simp only [arriveWord]
  repeat' split
  all_goals simp

@[simp] theorem sendOut_kept (s : State) (k o : Nat) (var : Bool) (left : Nat) (w : TWord) : (sendOut s k o var left w).kept = s.kept := by
  simp only [sendOut]
  repeat' split
  all_goals simp

@[simp] theorem parityCount_kept (s : State) (o : Nat) (bad : Bool) : (parityCount s o bad).kept = s.kept := by simp [parityCount]

@[simp] theorem moveOne_kept (s : State) (k o : Nat) (slot : Word) (q : Router) (bad : Bool) :
    (moveOne s k o slot q bad).kept = s.kept := by
  simp only [moveOne]
  repeat' split
  all_goals simp

@[simp] theorem popInbox_kept (s : State) (k : Nat) : (popInbox s k).kept = s.kept := by simp [popInbox]

@[simp] theorem coreLoss_kept (s : State) (k : Nat) (p : Packet) : (coreLoss s k p).kept = s.kept := by simp [coreLoss]

@[simp] theorem loadEngines_kept (s : State) (p : Nat) : (loadEngines s p).kept = s.kept := by simp [loadEngines]

@[simp] theorem engineFlush_kept (s : State) (e : Nat) (q : List OutPkt) (h : List Nat) (k : List OutPkt) :
    (engineFlush s e q h k).kept = s.kept := by
  induction q generalizing s h k with
  | nil => simp [engineFlush]
  | cons o q ih => simp [engineFlush, ih]

@[simp] theorem engineRun_kept (s : State) (e : Nat) : (engineRun s e).kept = s.kept := by simp [engineRun]

@[simp] theorem engineSend_kept (s : State) (e p n a : Nat) (pay : List PWord) : (engineSend s e p n a pay).kept = s.kept := by
  simp only [engineSend]
  repeat' split
  all_goals simp

@[simp] theorem State.setSlice_kept (s : State) (f : Nat) (x : Slice) : (State.setSlice s f x).kept = s.kept := by simp [State.setSlice]

@[simp] theorem sliceFlush_kept (s : State) (f k : Nat) (l m : List (Nat × List TWord)) :
    (sliceFlush s f k l m).kept = s.kept := by
  induction l generalizing s m with
  | nil => simp [sliceFlush]
  | cons o l ih =>
    simp only [sliceFlush]
    split <;> simp [ih]

@[simp] theorem sliceRun_kept (s : State) (f : Nat) : (sliceRun s f).kept = s.kept := by
  simp only [sliceRun]
  repeat' split
  all_goals simp

@[simp] theorem sliceAdvance_kept (s : State) (f : Nat) (chime : BitVec 16) : (sliceAdvance s f chime).kept = s.kept := by
  simp [sliceAdvance]

@[simp] theorem popEngine_kept (s : State) (e : Nat) : (popEngine s e).kept = s.kept := by simp [popEngine]

@[simp] theorem endWatchTap_kept (s : State) (p : Packet) (tap : Nat) : (endWatchTap s p tap).kept = s.kept := by
  simp only [endWatchTap]
  repeat' split
  all_goals simp

@[simp] theorem engineLoss_kept (s : State) (e : Nat) (p : Packet) : (engineLoss s e p).kept = s.kept := by
  simp only [engineLoss]
  repeat' split
  all_goals simp

@[simp] theorem watchRefused_kept (s : State) (e p n : Nat) (tap : Nat) (pkt : Packet) : (watchRefused s e p n tap pkt).kept = s.kept := by
  simp only [watchRefused]
  all_goals simp

@[simp] theorem syncConfig_kept (s : State) (p : Nat) : (syncConfig s p).kept = s.kept := by simp [syncConfig]

@[simp] theorem chimeAddWrite_kept (s : State) (p : Nat) (step : Word) : (chimeAddWrite s p step).kept = s.kept := by simp [chimeAddWrite]

@[simp] theorem pairCfgWrite_kept (s : State) (p : Nat) (v : Word) : (pairCfgWrite s p v).kept = s.kept := by simp [pairCfgWrite]

@[simp] theorem pairBoundWrite_kept (s : State) (p : Nat) (v : Word) : (pairBoundWrite s p v).kept = s.kept := by simp [pairBoundWrite]

@[simp] theorem laneWritten_kept (s : State) (n : Nat) (l : Lane) : (laneWritten s n l).kept = s.kept := by simp [laneWritten]

@[simp] theorem laneCtrlWrite_kept (s : State) (p l : Nat) (v : Word) : (laneCtrlWrite s p l v).kept = s.kept := by
  simp only [laneCtrlWrite]
  repeat' split
  all_goals simp

@[simp] theorem laneMaskWrite_kept (s : State) (p l w : Nat) (v : Word) : (laneMaskWrite s p l w v).kept = s.kept := by
  simp only [laneMaskWrite]
  repeat' split
  all_goals simp

@[simp] theorem setStack_kept (s : State) (n st : Nat) : (setStack s n st).kept = s.kept := by simp [setStack]

@[simp] theorem t2SetWord_kept (s : State) (p a : Nat) (w : PWord) : (t2SetWord s p a w).kept = s.kept := by
  simp only [t2SetWord]
  repeat' split
  all_goals simp

@[simp] theorem t2Write_kept (s : State) (p a : Nat) (ws : List PWord) : (t2Write s p a ws).kept = s.kept := by
  induction ws generalizing s a with
  | nil => rfl
  | cons w ws ih => simp [t2Write, ih]

@[simp] theorem t2WriteBytes_kept (s : State) (p a len : Nat) (ws : List PWord) : (t2WriteBytes s p a len ws).kept = s.kept := by
  unfold t2WriteBytes
  dsimp only
  split <;> simp

@[simp] theorem t2Wait_kept (s : State) (p a n : Nat) : (t2Wait s p a n).kept = s.kept := by simp [t2Wait]

@[simp] theorem t2Bound_kept (s : State) (p a n : Nat) : (t2Bound s p a n).kept = s.kept := by simp [t2Bound]

@[simp] theorem t2Touch_kept (s : State) (p a n : Nat) : (t2Touch s p a n).kept = s.kept := by
  simp only [t2Touch]
  all_goals simp

@[simp] theorem tierFault_kept (s : State) (p : Nat) (b : Word) : (tierFault s p b).kept = s.kept := by simp [tierFault]

@[simp] theorem zeroFrame_kept (s : State) (f : Nat) : (zeroFrame s f).kept = s.kept := by simp [zeroFrame]

@[simp] theorem sliceLoss_kept (s : State) (f : Nat) (p : Packet) : (sliceLoss s f p).kept = s.kept := by simp [sliceLoss]

@[simp] theorem passClose_kept (s : State) (f n : Nat) (l : Nat) : (passClose s f n l).kept = s.kept := by
  induction l generalizing s with
  | zero => simp [passClose]
  | succ k ih =>
    simp only [passClose]
    repeat' split
    all_goals simp [ih]

@[simp] theorem setMset_kept (s : State) (m : Nat) (x : MSet) : (setMset s m x).kept = s.kept := by simp [setMset]

@[simp] theorem setCtl_kept (s : State) (n : Nat) (x : Ctl) : (setCtl s n x).kept = s.kept := by simp [setCtl]

@[simp] theorem wstFault_kept (s : State) (b : Word) : (wstFault s b).kept = s.kept := by simp [wstFault]

@[simp] theorem loseUnits_kept (s : State) (c : Nat) : (loseUnits s c).kept = s.kept := by simp [loseUnits]

@[simp] theorem dataLost_kept (s : State) (n units : Nat) : (dataLost s n units).kept = s.kept := by simp [dataLost]

@[simp] theorem queueUnit_kept (s : State) (n unit : Nat) : (queueUnit s n unit).kept = s.kept := by simp [queueUnit]

@[simp] theorem unitRead_kept (s : State) (n unit pages : Nat) (margin : Bool) : (unitRead s n unit pages margin).kept = s.kept := by
  simp [unitRead]

@[simp] theorem pageFailed_kept (s : State) (n unit : Nat) (rebuildFail : Bool) : (pageFailed s n unit rebuildFail).kept = s.kept := by
  simp [pageFailed]

@[simp] theorem wearOne_kept (s : State) (w : Wear) : (wearOne s w).kept = s.kept := by simp [wearOne]

@[simp] theorem applyWear_kept (s : State) (ws : List Wear) : (applyWear s ws).kept = s.kept := by simp [applyWear, State.kept_foldl]

@[simp] theorem pagesRead_kept (s : State) (c unit n : Nat) (margin : Bool) : (pagesRead s c unit n margin).kept = s.kept := by
  simp [pagesRead]

@[simp] theorem rebuildReads_kept (s : State) (c n : Nat) (rs : List FlashRead) : (rebuildReads s c n rs).kept = s.kept := by
  simp [rebuildReads, State.kept_foldl]

@[simp] theorem t3Errors_kept (s : State) (x : Source) (lo hi : Nat) (r : PieceResult) : (t3Errors s x lo hi r).kept = s.kept := by
  simp [t3Errors]

@[simp] theorem xferCode_kept (s : State) (p : Nat) (c : Word) : (xferCode s p c).kept = s.kept := by simp [xferCode]

@[simp] theorem xferStart_kept (s : State) (p : Nat) (x : Xfer) : (xferStart s p x).kept = s.kept := by simp [xferStart]

@[simp] theorem writeBase_kept (s : State) (p : Nat) : (writeBase s p).kept = s.kept := by
  simp only [writeBase]
  repeat' split
  all_goals simp

@[simp] theorem writeAdd_kept (s : State) (p : Nat) : (writeAdd s p).kept = s.kept := by
  simp only [writeAdd]
  repeat' split
  all_goals simp

@[simp] theorem delAdd_kept (s : State) (p : Nat) : (delAdd s p).kept = s.kept := by simp [delAdd]

@[simp] theorem xferStore_kept (s : State) (p : Nat) (x : Xfer) : (xferStore s p x).kept = s.kept := by
  simp only [xferStore]
  repeat' split
  all_goals simp

@[simp] theorem setRefuse_kept (s : State) : (setRefuse s).kept = s.kept := by simp [setRefuse]

@[simp] theorem setDone_kept (s : State) : (setDone s).kept = s.kept := by simp [setDone]

@[simp] theorem latchAll_kept (s : State) (m : Nat) (g : Word) (f : WSlot → Bool) : (latchAll s m g f).kept = s.kept := by simp [latchAll]

@[simp] theorem eraseCopy_kept (s : State) (m : Nat) (c : Option WCopy) : (eraseCopy s m c).kept = s.kept := by
  simp only [eraseCopy]
  repeat' split
  all_goals simp

@[simp] theorem installBegin_kept (s : State) (tensors : Nat) : (installBegin s tensors).kept = s.kept := by simp [installBegin]

@[simp] theorem commitSet_kept (s : State) : (commitSet s).kept = s.kept := by
  simp only [commitSet]
  repeat' split
  all_goals simp

@[simp] theorem buildBegin_kept (s : State) (tensors : Nat) : (buildBegin s tensors).kept = s.kept := by simp [buildBegin]

@[simp] theorem switchSet_kept (s : State) : (switchSet s).kept = s.kept := by simp [switchSet]

@[simp] theorem abortSet_kept (s : State) : (abortSet s).kept = s.kept := by
  simp only [abortSet]
  repeat' split
  all_goals simp

@[simp] theorem deleteSet_kept (s : State) : (deleteSet s).kept = s.kept := by simp [deleteSet]

@[simp] theorem unbindSlot_kept (s : State) (p sl : Nat) : (unbindSlot s p sl).kept = s.kept := by simp [unbindSlot]

@[simp] theorem wstBind_kept (s : State) (v : Word) : (wstBind s v).kept = s.kept := by simp [wstBind]

@[simp] theorem ctlRefuse_kept (s : State) : (ctlRefuse s).kept = s.kept := by simp [ctlRefuse]

@[simp] theorem ctlOffline_kept (s : State) (n : Nat) : (ctlOffline s n).kept = s.kept := by simp [ctlOffline]

@[simp] theorem ctlOnline_kept (s : State) (n : Nat) : (ctlOnline s n).kept = s.kept := by simp [ctlOnline]

@[simp] theorem ctlLose_kept (s : State) (n : Nat) : (ctlLose s n).kept = s.kept := by simp [ctlLose]

@[simp] theorem setStream_kept (s : State) (k : Nat) (x : Stream) : (setStream s k x).kept = s.kept := by simp [setStream]

@[simp] theorem strmFault_kept (s : State) (p : Nat) (b : Word) : (strmFault s p b).kept = s.kept := by simp [strmFault]

@[simp] theorem metaAdd_kept (s : State) (p k n : Nat) : (metaAdd s p k n).kept = s.kept := by simp [metaAdd]

@[simp] theorem poisonMoved_kept (s : State) (p n : Nat) : (poisonMoved s p n).kept = s.kept := by simp [poisonMoved]

@[simp] theorem reserveLost_kept (s : State) : (reserveLost s).kept = s.kept := by simp [reserveLost]

@[simp] theorem sendStat_kept (s : State) (p k : Nat) (full : Bool) (ms : List Nat) : (sendStat s p k full ms).kept = s.kept := by
  simp [sendStat, State.kept_foldl]

@[simp] theorem sendState_kept (s : State) (p k stat : Nat) (ms : List Nat) : (sendState s p k stat ms).kept = s.kept := by
  simp [sendState, State.kept_foldl]

@[simp] theorem toState_kept (s : State) (p k : Nat) (st : StrmSt) : (toState s p k st).kept = s.kept := by simp [toState]

@[simp] theorem sendBuffer_kept (s : State) (p k m : Nat) (segs : List (Nat × List PWord)) : (sendBuffer s p k m segs).kept = s.kept := by
  simp [sendBuffer, State.kept_foldl]

@[simp] theorem countBuffer_kept (s : State) (p k : Nat) (ms : List Nat) : (countBuffer s p k ms).kept = s.kept := by simp [countBuffer]

@[simp] theorem settleFence_kept (s : State) (p k : Nat) : (settleFence s p k).kept = s.kept := by simp [settleFence]

@[simp] theorem sourceBegin_kept (s : State) (p k : Nat) : (sourceBegin s p k).kept = s.kept := by simp [sourceBegin]

@[simp] theorem passBegin_kept (s : State) (p k : Nat) : (passBegin s p k).kept = s.kept := by
  unfold passBegin
  simp only [State.kept_ite, setStream_kept, t2Touch_kept, ite_self]

@[simp] theorem headDone_kept (s : State) (p k : Nat) : (headDone s p k).kept = s.kept := by simp [headDone]

@[simp] theorem writeSel_kept (s : State) (p k : Nat) : (writeSel s p k).kept = s.kept := by
  simp only [writeSel]
  repeat' split
  all_goals simp

@[simp] theorem writeData_kept (s : State) (p k : Nat) : (writeData s p k).kept = s.kept := by simp [writeData]

@[simp] theorem maskWatch_kept (s : State) (p k : Nat) : (maskWatch s p k).kept = s.kept := by simp [maskWatch]

@[simp] theorem unwatch_kept (s : State) (k : Nat) : (unwatch s k).kept = s.kept := by simp [unwatch]

@[simp] theorem walkDone_kept (s : State) (p k : Nat) : (walkDone s p k).kept = s.kept := by simp [walkDone]

@[simp] theorem progress_kept (s : State) (p k : Nat) (l : Nat) : (progress s p k l).kept = s.kept := by
  induction l generalizing s with
  | zero => simp [progress]
  | succ n ih => simp [progress, ih]

@[simp] theorem goOn_kept (s : State) (p k : Nat) : (goOn s p k).kept = s.kept := by simp [goOn]

@[simp] theorem t2Errors_kept (s : State) (p a n ce : Nat) (ue : Bool) (unit : Nat) : (t2Errors s p a n ce ue unit).kept = s.kept := by
  simp only [t2Errors]
  repeat' split
  all_goals simp

@[simp] theorem flightErrors_kept (s : State) (p : Nat) (f : Flight) (r : PieceResult) : (flightErrors s p f r).kept = s.kept := by
  simp only [flightErrors]
  repeat' split
  all_goals simp

@[simp] theorem tookTurn_kept (s : State) (p k : Nat) : (tookTurn s p k).kept = s.kept := by simp [tookTurn]

theorem streamPacket_kept (s : State) (e op : Nat) (f : State → Nat → Nat → Word → Packet → State)
    (h : ∀ s a b w p, (f s a b w p).kept = s.kept) : (streamPacket s e op f).kept = s.kept := by
  simp only [streamPacket]
  repeat' split
  all_goals simp [h]

@[simp] theorem refuseStream_kept (s : State) (p k : Nat) (st : StrmSt) : (refuseStream s p k st).kept = s.kept := by simp [refuseStream]

@[simp] theorem refuseAttach_kept (s : State) (p k stat : Nat) (st : StrmSt) : (refuseAttach s p k stat st).kept = s.kept := by
  simp [refuseAttach]

@[simp] theorem attachDone_kept (s : State) (p k : Nat) : (attachDone s p k).kept = s.kept := by simp [attachDone]

@[simp] theorem streamIdle_kept (s : State) (k : Nat) : (streamIdle s k).kept = s.kept := by simp [streamIdle]

@[simp] theorem relStream_kept (s : State) (p k : Nat) (w : Word) : (relStream s p k w).kept = s.kept := by simp [relStream]

@[simp] theorem frelStream_kept (s : State) (p k : Nat) (f : BitVec 16) : (frelStream s p k f).kept = s.kept := by simp [frelStream]

@[simp] theorem strmCode_kept (s : State) (p : Nat) (c : Word) : (strmCode s p c).kept = s.kept := by simp [strmCode]

theorem strmOp_kept (s : State) (p : Nat) (f : Nat → State) (h : ∀ k, (f k).kept = s.kept) : (strmOp s p f).kept = s.kept := by
  simp only [strmOp]
  repeat' split
  all_goals simp [h]

@[simp] theorem strmWrite_kept (s : State) (p : Nat) : (strmWrite s p).kept = s.kept := by
  refine strmOp_kept s p _ (fun k => ?_)
  dsimp only
  repeat' split
  all_goals simp

@[simp] theorem strmRead_kept (s : State) (p : Nat) : (strmRead s p).kept = s.kept := by
  refine strmOp_kept s p _ (fun k => ?_)
  dsimp only
  all_goals simp [State.kept_foldl]

@[simp] theorem copyStart_kept (s : State) (p k : Nat) : (copyStart s p k).kept = s.kept := by simp [copyStart]

@[simp] theorem strmStart_kept (s : State) (p : Nat) (lost : Bool) : (strmStart s p lost).kept = s.kept := by
  refine strmOp_kept s p _ (fun k => ?_)
  dsimp only
  repeat' split
  all_goals simp

@[simp] theorem strmFrel_kept (s : State) (p : Nat) (n : BitVec 16) : (strmFrel s p n).kept = s.kept :=
  strmOp_kept s p _ (fun k => by simp)

@[simp] theorem strmCmd_kept (s : State) (p : Nat) (v : Word) : (strmCmd s p v).kept = s.kept := by
  simp only [strmCmd]
  repeat' split
  all_goals simp

@[simp] theorem issuePiece_kept (s : State) (p k : Nat) (q : Piece) : (issuePiece s p k q).kept = s.kept := by
  simp only [issuePiece]
  repeat' split
  all_goals simp

@[simp] theorem issueCopy_kept (s : State) (p k : Nat) : (issueCopy s p k).kept = s.kept := by
  simp only [issueCopy]
  repeat' split
  all_goals simp

@[simp] theorem issueNext_kept (s : State) (p k : Nat) : (issueNext s p k).kept = s.kept := by
  simp only [issueNext]
  repeat' split
  all_goals simp

@[simp] theorem copyPiece_kept (s : State) (p k idx : Nat) (ws : List (Nat × List PWord)) : (copyPiece s p k idx ws).kept = s.kept := by
  simp [copyPiece, State.kept_foldl]

@[simp] theorem headPiece_kept (s : State) (p k idx : Nat) (ws : List (Nat × List PWord)) : (headPiece s p k idx ws).kept = s.kept := by
  simp [headPiece]

@[simp] theorem pieceCame_kept (s : State) (p k idx : Nat) (q : Piece) (ws : List (Nat × List PWord)) :
    (pieceCame s p k idx q ws).kept = s.kept := by
  simp [pieceCame]

@[simp] theorem drainWrite_kept (s : State) (p : Nat) (x : Stream) (ws : List PWord) : (drainWrite s p x ws).kept = s.kept := by
  unfold drainWrite
  exact State.kept_foldl _ (fun _ _ => by simp) _ _

@[simp] theorem migrateNext_kept (s : State) (stack : Nat) (frames : List Nat) (last : Nat) :
    (migrateNext s stack frames last).kept = s.kept := by
  simp only [migrateNext]
  repeat' split
  all_goals simp

@[simp] theorem stackRefuse_kept (s : State) : (stackRefuse s).kept = s.kept := by simp [stackRefuse]

@[simp] theorem stackOffline_kept (s : State) (n : Nat) : (stackOffline s n).kept = s.kept := by simp [stackOffline]

@[simp] theorem stackOnline_kept (s : State) (n : Nat) : (stackOnline s n).kept = s.kept := by simp [stackOnline]

@[simp] theorem moveFrame_kept (s : State) (f g : Nat) : (moveFrame s f g).kept = s.kept := by simp [moveFrame]

@[simp] theorem stackLose_kept (s : State) (n : Nat) : (stackLose s n).kept = s.kept := by
  simp only [stackLose]
  repeat' split
  all_goals simp [State.kept_foldl]

@[simp] theorem releaseFrames_kept (s : State) (fs : List Nat) : (releaseFrames s fs).kept = s.kept := by
  simp only [releaseFrames]
  repeat' split
  all_goals simp

@[simp] theorem scrubUe_kept (s : State) (a : Nat) : (scrubUe s a).kept = s.kept := by
  simp only [scrubUe]
  repeat' split
  all_goals simp

@[simp] theorem scrubCe_kept (s : State) (a : Nat) : (scrubCe s a).kept = s.kept := by
  simp only [scrubCe]
  repeat' split
  all_goals simp

@[simp] theorem xferCmd_kept (s : State) (p : Nat) (v : Word) : (xferCmd s p v).kept = s.kept := by
  simp only [xferCmd]
  repeat' split
  all_goals simp

@[simp] theorem setCmd_kept (s : State) (v : Word) : (setCmd s v).kept = s.kept := by
  simp only [setCmd]
  repeat' split
  all_goals simp

@[simp] theorem ctlCmd_kept (s : State) (v : Word) : (ctlCmd s v).kept = s.kept := by
  simp only [ctlCmd]
  repeat' split
  all_goals simp

@[simp] theorem stackCmd_kept (s : State) (v : Word) : (stackCmd s v).kept = s.kept := by
  simp only [stackCmd]
  repeat' split
  all_goals simp

@[simp] theorem State.setPort_kept (s : State) (n : Nat) (x : PortS) : (State.setPort s n x).kept = s.kept := by simp [State.setPort]

@[simp] theorem wpFault_kept (s : State) (n : Nat) (b : Word) : (wpFault s n b).kept = s.kept := by simp [wpFault]

@[simp] theorem wpCount_kept (s : State) (n o k : Nat) : (wpCount s n o k).kept = s.kept := by simp [wpCount]

@[simp] theorem wpDropQuiet_kept (s : State) (n : Nat) : (wpDropQuiet s n).kept = s.kept := by simp [wpDropQuiet]

@[simp] theorem wpDrop_kept (s : State) (n : Nat) : (wpDrop s n).kept = s.kept := by simp [wpDrop]

@[simp] theorem updConn_kept (s : State) (n peer : Nat) (f : Conn → Conn) : (updConn s n peer f).kept = s.kept := by simp [updConn]

@[simp] theorem sendUnseq_kept (s : State) (n peer : Nat) (f : TxFrame) : (sendUnseq s n peer f).kept = s.kept := by simp [sendUnseq]

@[simp] theorem sendAckFrame_kept (s : State) (n peer : Nat) : (sendAckFrame s n peer).kept = s.kept := by simp [sendAckFrame]

@[simp] theorem sendNak_kept (s : State) (n peer : Nat) (ctl : Bool) : (sendNak s n peer ctl).kept = s.kept := by simp [sendNak]

@[simp] theorem sendSeq_kept (s : State) (n peer : Nat) (f : TxFrame) : (sendSeq s n peer f).kept = s.kept := by simp [sendSeq]

@[simp] theorem needConn_kept (s : State) (n peer : Nat) : (needConn s n peer).kept = s.kept := by simp [needConn]

@[simp] theorem setChain_kept (s : State) (k : Nat) (c : Chain) : (setChain s k c).kept = s.kept := by simp [setChain]

@[simp] theorem endStrikes_kept (s : State) (f : Nat → Strike → Bool) (code : Nat) : (endStrikes s f code).kept = s.kept := by
  simp [endStrikes]

@[simp] theorem dropFrames_kept (s : State) (f : TxFrame → Bool) : (dropFrames s f).kept = s.kept := by simp [dropFrames]

@[simp] theorem spoilDst_kept (s : State) (p : Nat) (x : Strike) : (spoilDst s p x).kept = s.kept := by simp [spoilDst, State.kept_foldl]

@[simp] theorem sendAborts_kept (s : State) (p : Nat) (x : Strike) : (sendAborts s p x).kept = s.kept := by
  simp [sendAborts, State.kept_foldl]

@[simp] theorem abortStrikes_kept (s : State) (f : Nat → Strike → Bool) (code : Nat) : (abortStrikes s f code).kept = s.kept := by
  simp [abortStrikes, State.kept_foldl]

@[simp] theorem promote_kept (s : State) (n : Nat) (l : Nat) : (promote s n l).kept = s.kept := by
  induction l generalizing s with
  | zero => simp [promote]
  | succ k ih =>
    simp only [promote]
    split
    · rfl
    · simp [ih]

@[simp] theorem connLost_kept (s : State) (n peer : Nat) (st : ConnSt) (code : Nat) : (connLost s n peer st code).kept = s.kept := by
  simp [connLost]

@[simp] theorem portConnsFail_kept (s : State) (n : Nat) : (portConnsFail s n).kept = s.kept := by simp [portConnsFail]

@[simp] theorem sendsDone_kept (s : State) : (sendsDone s).kept = s.kept := by simp [sendsDone]

@[simp] theorem ackDir_kept (s : State) (n peer : Nat) (ctl : Bool) (psn : Word) : (ackDir s n peer ctl psn).kept = s.kept := by
  simp [ackDir]

@[simp] theorem sequence_kept (s : State) (n : Nat) (f : RxFrame) : (sequence s n f).2.kept = s.kept := by
  simp only [sequence]
  repeat' split
  all_goals simp

@[simp] theorem acceptFrame_kept (s : State) (n : Nat) (f : RxFrame) : (acceptFrame s n f).kept = s.kept := by simp [acceptFrame]

@[simp] theorem sendPfc_kept (s : State) (n quanta : Nat) : (sendPfc s n quanta).kept = s.kept := by simp [sendPfc]

@[simp] theorem xoffCheck_kept (s : State) (n : Nat) : (xoffCheck s n).kept = s.kept := by simp [xoffCheck]

@[simp] theorem emitFrame_kept (s : State) (n peer : Nat) (f : TxFrame) (psn ack : Word) :
    (emitFrame s n peer f psn ack).kept = s.kept := by simp [emitFrame]

@[simp] theorem portTo_kept (s : State) (n : Nat) (st : PortSt) : (portTo s n st).kept = s.kept := by simp [portTo]

@[simp] theorem pauseSettle_kept (s : State) (n : Nat) (was : Bool) (us : Nat) : (pauseSettle s n was us).kept = s.kept := by
  simp [pauseSettle]

@[simp] theorem portRefuse_kept (s : State) (n : Nat) : (portRefuse s n).kept = s.kept := by simp [portRefuse]

@[simp] theorem portOffline_kept (s : State) (n : Nat) : (portOffline s n).kept = s.kept := by simp [portOffline]

@[simp] theorem portOnline_kept (s : State) (n : Nat) : (portOnline s n).kept = s.kept := by simp [portOnline]

@[simp] theorem portRetrain_kept (s : State) (n : Nat) : (portRetrain s n).kept = s.kept := by simp [portRetrain]

@[simp] theorem portCmd_kept (s : State) (n : Nat) (v : Word) : (portCmd s n v).kept = s.kept := by
  simp only [portCmd]
  repeat' split
  all_goals simp

@[simp] theorem portFail_kept (s : State) (n : Nat) : (portFail s n).kept = s.kept := by simp [portFail]

@[simp] theorem countBad_kept (s : State) (n k : Nat) : (countBad s n k).kept = s.kept := by simp [countBad]

theorem useCtl_kept (s : State) (n : Nat) (r : RxFrame) (f : State → RxFrame → State) (h : ∀ s r, (f s r).kept = s.kept) :
    (useCtl s n r f).kept = s.kept := by
  simp only [useCtl]
  split <;> simp [h]

@[simp] theorem takeCounts_kept (s : State) (n : Nat) (r : RxFrame) : (takeCounts s n r).kept = s.kept := by
  simp only [takeCounts]
  repeat' split
  all_goals simp

@[simp] theorem drainCounts_kept (s : State) (n : Nat) : (drainCounts s n).kept = s.kept := by
  simp only [drainCounts]
  rw [State.kept_foldl _ (fun s r => useCtl_kept s n r _ (fun s r => takeCounts_kept s n r))]
  simp

theorem takeCtl_kept (s : State) (n type : Nat) (f : State → RxFrame → State) (h : ∀ s r, (f s r).kept = s.kept) :
    (takeCtl s n type f).kept = s.kept := by
  simp only [takeCtl]
  repeat' split
  all_goals simp [h, useCtl_kept]

@[simp] theorem updStrike_kept (s : State) (k sid : Nat) (f : Strike → Strike) : (updStrike s k sid f).kept = s.kept := by simp [updStrike]

@[simp] theorem giveVerdict_kept (s : State) (k : Nat) (x : Strike) (srv : Nat) (v : Word) : (giveVerdict s k x srv v).kept = s.kept := by
  simp [giveVerdict, State.kept_foldl]

@[simp] theorem dropData_kept (s : State) (n i : Nat) : (dropData s n i).kept = s.kept := by simp [dropData]

@[simp] theorem placeData_kept (s : State) (n i : Nat) (d : Option (Nat × Nat)) : (placeData s n i d).kept = s.kept := by simp [placeData]

@[simp] theorem collLate_kept (s : State) (p : Nat) : (collLate s p).kept = s.kept := by simp [collLate]

@[simp] theorem writeRuns_kept (s : State) (p : Nat) (l : List (Nat × Nat)) (m : List PWord) : (writeRuns s p l m).kept = s.kept := by
  induction l generalizing s m with
  | nil => simp [writeRuns]
  | cons a l ih => simp [writeRuns, ih]

@[simp] theorem sendNext_kept (s : State) (n peer : Nat) (ctl : Bool) : (sendNext s n peer ctl).kept = s.kept := by
  simp only [sendNext]
  repeat' split
  all_goals simp [State.kept_foldl]

@[simp] theorem noticeRead_kept (s : State) (fn n : Nat) : (noticeRead s fn n).2.kept = s.kept := by
  simp only [noticeRead]
  repeat' split
  all_goals simp

@[simp] theorem peerCtrlWrite_kept (s : State) (n : Nat) (v : Word) : (peerCtrlWrite s n v).kept = s.kept := by simp [peerCtrlWrite]

@[simp] theorem peerAddrWrite_kept (s : State) (n o : Nat) (v : Word) : (peerAddrWrite s n o v).kept = s.kept := by simp [peerAddrWrite]

@[simp] theorem chainRefuse_kept (s : State) (p ch : Nat) : (chainRefuse s p ch).kept = s.kept := by simp [chainRefuse]

@[simp] theorem chainStart_kept (s : State) (p : Nat) : (chainStart s p).kept = s.kept := by simp [chainStart]

@[simp] theorem chainStop_kept (s : State) (p : Nat) : (chainStop s p).kept = s.kept := by simp [chainStop]

@[simp] theorem chainCmd_kept (s : State) (p : Nat) (v : Word) : (chainCmd s p v).kept = s.kept := by
  simp only [chainCmd]
  repeat' split
  all_goals simp

@[simp] theorem addStrike_kept (s : State) (k : Nat) (x : Strike) (len : Nat) (rep : Bool) : (addStrike s k x len rep).kept = s.kept := by
  simp [addStrike]

@[simp] theorem muteDst_kept (s : State) (p : Nat) : (muteDst s p).kept = s.kept := by simp [muteDst]

@[simp] theorem beginStrike_kept (s : State) (p ch : Nat) (x : Strike) (len : Nat) (rep : Bool) :
    (beginStrike s p ch x len rep).kept = s.kept := by
  simp only [beginStrike]
  repeat' split
  all_goals simp [State.kept_foldl]

@[simp] theorem haltRecord_kept (s : State) (p ch : Nat) (x : Strike) : (haltRecord s p ch x).kept = s.kept := by
  simp [haltRecord, State.kept_foldl]

@[simp] theorem haltChain_kept (s : State) (p ch : Nat) (x : Strike) : (haltChain s p ch x).kept = s.kept := by simp [haltChain]

@[simp] theorem groupRefuse_kept (s : State) (p : Nat) : (groupRefuse s p).kept = s.kept := by simp [groupRefuse]

@[simp] theorem groupSet_kept (s : State) (p : Nat) : (groupSet s p).kept = s.kept := by simp [groupSet]

@[simp] theorem groupReform_kept (s : State) (p : Nat) : (groupReform s p).kept = s.kept := by simp [groupReform]

@[simp] theorem groupCmd_kept (s : State) (p : Nat) (v : Word) : (groupCmd s p v).kept = s.kept := by
  simp only [groupCmd]
  repeat' split
  all_goals simp

theorem chainWrite_kept (s : State) (p : Nat) (f : Nat → State) (h : ∀ k, (f k).kept = s.kept) :
    (chainWrite s p f).kept = s.kept := by simp [chainWrite, h]

@[simp] theorem setHq_kept (s : State) (p q : Nat) (x : HQueue) : (setHq s p q x).kept = s.kept := by simp [setHq]

@[simp] theorem endCmd_kept (s : State) (p q : Nat) (st : BitVec 8) (res : Word) : (endCmd s p q st res).kept = s.kept := by simp [endCmd]

@[simp] theorem failCmd_kept (s : State) (p q : Nat) (st : BitVec 8) : (failCmd s p q st).kept = s.kept := by simp [failCmd]

@[simp] theorem writeCpl_kept (s : State) (p q : Nat) : (writeCpl s p q).kept = s.kept := by
  simp only [writeCpl]
  repeat' split
  all_goals simp

@[simp] theorem cutCmd_kept (s : State) (p q : Nat) : (cutCmd s p q).kept = s.kept := by
  unfold cutCmd
  dsimp only
  repeat' split
  all_goals simp

@[simp] theorem stopQueue_kept (s : State) (p q : Nat) : (stopQueue s p q).kept = s.kept := by simp [stopQueue]

@[simp] theorem newEpoch_kept (s : State) (h : Nat) : (newEpoch s h).kept = s.kept := by simp [newEpoch]

@[simp] theorem freshCores_kept (s : State) (hs : List Nat) : (freshCores s hs).kept = s.kept := by simp [freshCores, State.kept_foldl]

@[simp] theorem clearTracks_kept (s : State) (p : Nat) : (clearTracks s p).kept = s.kept := by simp [clearTracks]

@[simp] theorem clearSlices_kept (s : State) (fs : BitVec 84) : (clearSlices s fs).kept = s.kept := by simp [clearSlices]

@[simp] theorem clearChimes_kept (s : State) (p : Nat) : (clearChimes s p).kept = s.kept := by simp [clearChimes]

@[simp] theorem clearLanes_kept (s : State) (p : Nat) : (clearLanes s p).kept = s.kept := by simp [clearLanes, State.kept_foldl]

@[simp] theorem beginReset_kept (s : State) (p : Nat) (st : PartSt) (by' : Option (Fin 8)) : (beginReset s p st by').kept = s.kept := by
  simp [beginReset, State.kept_foldl]

@[simp] theorem releaseLanes_kept (s : State) (ls : List Nat) : (releaseLanes s ls).kept = s.kept := by
  simp [releaseLanes, State.kept_foldl]

@[simp] theorem releasePeers_kept (s : State) (p : Nat) : (releasePeers s p).kept = s.kept := by simp [releasePeers, State.kept_foldl]

@[simp] theorem releaseT3_kept (s : State) (p : Nat) : (releaseT3 s p).kept = s.kept := by simp [releaseT3]

theorem State.kept_released (s : State) (a : Tab Stream) (b : Tab Chain) (c : Tab Group) (d : List Transit) :
    ({ s with streams := a, chains := b, groups := c, transit := d } : State).kept = s.kept := rfl

@[simp] theorem restage_kept (s : State) (p : Nat) : (restage s p).kept = s.kept :=
  State.kept_foldl _ (fun s o => regSet_kept s 0 p (0x200000 + o) (grantWord (s.part p) o)) _ _

@[simp] theorem releaseAll_kept (s : State) (p : Nat) : (releaseAll s p).kept = s.kept := by
  refine (restage_kept _ _).trans ((State.setPart_kept _ _ _).trans ((State.kept_released _ _ _ _ _).trans ?_))
  simp

@[simp] theorem endReset_kept (s : State) (p : Nat) : (endReset s p).kept = s.kept := by
  simp only [endReset]
  repeat' split
  all_goals simp

@[simp] theorem t2SetU_kept (s : State) (p a : Nat) (w : PWord) : (t2SetU s p a w).kept = s.kept := by simp [t2SetU]

@[simp] theorem t2WriteU_kept (s : State) (p a : Nat) (ws : List PWord) : (t2WriteU s p a ws).kept = s.kept := by
  unfold t2WriteU
  split
  · simp
  · exact State.kept_foldl _ (fun _ _ => by simp) _ _

@[simp] theorem loadRec_kept (s : State) (p : Nat) (r : ImgRec) : (loadRec s p r).1.kept = s.kept := by
  simp only [loadRec]
  repeat' split
  all_goals simp

@[simp] theorem tracksToStart_kept (s : State) (p : Nat) : (tracksToStart s p).kept = s.kept := by simp [tracksToStart]

theorem State.kept_foldl_fst {α β : Type} (g : State × β → α → State × β) (h : ∀ a x, (g a x).1.kept = a.1.kept) (l : List α)
    (a : State × β) : (l.foldl g a).1.kept = a.1.kept := by
  induction l generalizing a with
  | nil => rfl
  | cons x l ih => simp only [List.foldl_cons, ih, h]

@[simp] theorem loadAll_kept (s : State) (p : Nat) (rs : List ImgRec) : (loadAll s p rs).1.kept = s.kept := by
  unfold loadAll
  dsimp only
  split
  · simp only
    exact State.kept_foldl_fst _ (fun _ _ => by simp) _ _
  · exact State.kept_foldl_fst _ (fun _ _ => by simp) _ _

@[simp] theorem restoreCore_kept (s : State) (key : Nat) (ws : List PWord) (mem : Option (List PWord)) :
    (restoreCore s key ws mem).kept = s.kept := by simp [restoreCore]

@[simp] theorem restoreSync_kept (s : State) (p a : Nat) (keys : List Nat) : (restoreSync s p a keys).kept = s.kept := by
  unfold restoreSync
  extract_lets w cc x chimes pair pairs s1 lane s2
  have hl : ∀ s l, (lane s l).kept = s.kept := by
    intro s l
    simp only [lane]
    split <;> simp
  have h1 : s1.kept = s.kept := rfl
  have h2 : s2.kept = s1.kept := State.kept_foldl _ hl _ _
  refine (State.kept_foldl _ (fun s e => ?_) _ _).trans (h2.trans h1)
  exact State.setCore_kept _ _ _

@[simp] theorem restoreStreams_kept (s : State) (p a n : Nat) : (restoreStreams s p a n).kept = s.kept := by
  simp [restoreStreams, State.kept_foldl]

@[simp] theorem restoreAll_kept (s : State) (p a : Nat) (h : CtxHdr) (keys : List Nat) : (restoreAll s p a h keys).kept = s.kept := by
  simp [restoreAll, State.kept_foldl]

@[simp] theorem staleRegion_kept (s : State) (h : Nat) : (staleRegion s h).kept = s.kept := by simp [staleRegion]

@[simp] theorem dbWrite_kept (s : State) (p q : Nat) (v : Word) : (dbWrite s p q v).kept = s.kept := by simp [dbWrite]

@[simp] theorem writeHeld_kept (s : State) (p q : Nat) : (writeHeld s p q).kept = s.kept := by simp [writeHeld]

@[simp] theorem hqCtrlWrite_kept (s : State) (p q : Nat) (v : Word) : (hqCtrlWrite s p q v).kept = s.kept := by simp [hqCtrlWrite]

@[simp] theorem cplHeadWrite_kept (s : State) (p q : Nat) (v : Word) : (cplHeadWrite s p q v).kept = s.kept := by simp [cplHeadWrite]

@[simp] theorem hqStatusWrite_kept (s : State) (p q : Nat) (v : Word) : (hqStatusWrite s p q v).kept = s.kept := by simp [hqStatusWrite]

theorem startCmd_kept (s : State) (p : Vf) (q : Fin 8) (op : Nat) (f : State → Nat → HCmd → State)
    (h : ∀ s n c, (f s n c).kept = s.kept) : (startCmd s p q op f).kept = s.kept := by
  simp only [startCmd]
  repeat' split
  all_goals simp [h]

@[simp] theorem beyondGrant_kept (s : State) (n q : Nat) (res : Word) : (beyondGrant s n q res).kept = s.kept := by simp [beyondGrant]

@[simp] theorem newTag_kept (s : State) : (newTag s).2.kept = s.kept := by simp [newTag]

@[simp] theorem placeOne_kept (s : State) (p : Nat) : (placeOne s p).kept = s.kept := by
  simp only [placeOne]
  repeat' split
  all_goals simp

@[simp] theorem placeFrames_kept (s : State) (p : Nat) (l : Nat) : (placeFrames s p l).kept = s.kept := by
  induction l generalizing s with
  | zero => simp [placeFrames]
  | succ k ih => simp [placeFrames, ih]

@[simp] theorem setFrames_kept (s : State) (p n : Nat) : (setFrames s p n).kept = s.kept := by simp [setFrames]

@[simp] theorem setLanes_kept (s : State) (p n : Nat) : (setLanes s p n).kept = s.kept := by simp [setLanes, State.kept_foldl]

@[simp] theorem leaveFields_kept (s : State) (fs : BitVec 84) : (leaveFields s fs).kept = s.kept := by simp [leaveFields]

@[simp] theorem trimRanges_kept (s : State) (p : Nat) (x : Part) : (trimRanges s p x).kept = s.kept := by
  simp [trimRanges, State.kept_foldl]

@[simp] theorem partCode_kept (s : State) (c : Word) : (partCode s c).kept = s.kept := by simp [partCode]

theorem partOp_kept (s : State) (f : State → Nat → State) (h : ∀ s n, (f s n).kept = s.kept) : (partOp s f).kept = s.kept := by
  simp [partOp, h]

@[simp] theorem partCreate_kept (s : State) (p : Nat) : (partCreate s p).kept = s.kept := by simp [partCreate]

@[simp] theorem partResize_kept (s : State) (p : Nat) : (partResize s p).kept = s.kept := by simp [partResize]

@[simp] theorem partReset_kept (s : State) (p : Nat) : (partReset s p).kept = s.kept := by simp [partReset]

@[simp] theorem partDestroy_kept (s : State) (p : Nat) : (partDestroy s p).kept = s.kept := by simp [partDestroy]

@[simp] theorem partTransit_kept (s : State) (p : Nat) : (partTransit s p).kept = s.kept := by simp [partTransit]

@[simp] theorem partCmdWrite_kept (s : State) (v : Word) : (partCmdWrite s v).kept = s.kept := by
  unfold partCmdWrite
  split <;> exact partOp_kept s _ (fun _ _ => by simp)

@[simp] theorem partComplete_kept (s : State) : (partComplete s).kept = s.kept := by
  simp only [partComplete]
  repeat' split
  all_goals simp

@[simp] theorem vfFlr_kept (s : State) (p : Nat) : (vfFlr s p).kept = s.kept := by simp [vfFlr, State.kept_foldl]

@[simp] theorem abandonCmd_kept (s : State) : (abandonCmd s).kept = s.kept := by
  simp only [abandonCmd]
  repeat' split
  all_goals simp

@[simp] theorem dropPf_kept (s : State) (f : Nat → Bool) : (dropPf s f).kept = s.kept := by simp [dropPf]

@[simp] theorem pfFlr_kept (s : State) : (pfFlr s).kept = s.kept := by simp [pfFlr, State.kept_foldl restage restage_kept]

@[simp] theorem perstQueue_kept (s : State) (p q : Nat) : (perstQueue s p q).kept = s.kept := by simp [perstQueue]

@[simp] theorem perst_kept (s : State) : (perst s).kept = s.kept := by simp [perst, State.kept_foldl]

@[simp] theorem pwrFault_kept (s : State) (b : Word) : (pwrFault s b).kept = s.kept := by simp [pwrFault]

@[simp] theorem tambE_kept (s : State) (cls code : Nat) (sc : Scope) (sev region : Nat) (loc v0 v1 : Word) :
    (tambE s cls code sc sev region loc v0 v1).kept = s.kept := by simp [tambE]

@[simp] theorem tambF_kept (s : State) (cls code : Nat) (sc : Scope) (sev region : Nat) (loc v0 v1 : Word) :
    (tambF s cls code sc sev region loc v0 v1).kept = s.kept := by simp [tambF]

@[simp] theorem tambP_kept (s : State) (cls code : Nat) (sc : Scope) (sev p region : Nat) (loc v0 v1 : Word) :
    (tambP s cls code sc sev p region loc v0 v1).kept = s.kept := by simp [tambP]

@[simp] theorem testEnd_kept (s : State) (u : Nat) (st : TestSt) (n : Nat) : (testEnd s u st n).kept = s.kept := by simp [testEnd]

@[simp] theorem testLost_kept (s : State) (u : Nat) : (testLost s u).kept = s.kept := by simp [testLost]

@[simp] theorem fenceHalf_kept (s : State) (h : Nat) : (fenceHalf s h).kept = s.kept := by simp [fenceHalf]

@[simp] theorem epochPast_kept (s : State) (h : Nat) : (epochPast s h).kept = s.kept := by simp [epochPast]

@[simp] theorem killRegion_kept (s : State) (r : Nat) (dom : BitVec 4) : (killRegion s r dom).kept = s.kept := by
  simp [killRegion, State.kept_foldl]

@[simp] theorem noteCell_kept (s : State) (n : CellNote) : (noteCell s n).kept = s.kept := by simp [noteCell]

@[simp] theorem regionLost_kept (s : State) (r : Nat) (dom : BitVec 4) : (regionLost s r dom).kept = s.kept := by simp [regionLost]

@[simp] theorem shortTrip_kept (s : State) (r : Nat) (dom : BitVec 4) : (shortTrip s r dom).kept = s.kept := by simp [shortTrip]

@[simp] theorem recordDead_kept (s : State) (r : Nat) (dom : BitVec 4) : (recordDead s r dom).kept = s.kept := by simp [recordDead]

@[simp] theorem voidWindow_kept (s : State) : (voidWindow s).kept = s.kept := by simp [voidWindow]

@[simp] theorem actOn_kept (s : State) (l : CellNote) : (actOn s l).kept = s.kept := by
  cases l <;> simp [actOn]

@[simp] theorem actOnNotes_kept (s : State) : (actOnNotes s).kept = s.kept := by simp [actOnNotes, State.kept_foldl]

@[simp] theorem startRamp_kept (s : State) (r : Nat) (k : Ramp) : (startRamp s r k).kept = s.kept := by simp [startRamp]

@[simp] theorem softPoints_kept (s : State) (r : Nat) : (softPoints s r).kept = s.kept := by simp [softPoints]

@[simp] theorem coresTo_kept (s : State) (h : Nat) (a b : CoreMode) : (coresTo s h a b).kept = s.kept := by simp [coresTo, State.kept_foldl]

@[simp] theorem wakeTapped_kept (s : State) (h : Nat) : (wakeTapped s h).kept = s.kept := by simp [wakeTapped, State.kept_foldl]

@[simp] theorem unparked_kept (s : State) (h : Nat) : (unparked s h).kept = s.kept := by simp [unparked]

@[simp] theorem rampDone_kept (s : State) (r : Nat) : (rampDone s r).kept = s.kept := by
  simp only [rampDone]
  repeat' split
  all_goals simp

@[simp] theorem rampShort_kept (s : State) (r : Nat) (dom : BitVec 4) : (rampShort s r dom).kept = s.kept := by simp [rampShort]

@[simp] theorem retryExpiry_kept (s : State) (r : Nat) : (retryExpiry s r).kept = s.kept := by simp [retryExpiry]

@[simp] theorem sensorExcluded_kept (s : State) (r : Nat) (rail : Rail) (n : Nat) (mv : BitVec 16) :
    (sensorExcluded s r rail n mv).kept = s.kept := by simp [sensorExcluded]

@[simp] theorem waferRequest_kept (s : State) (r : Nat) (q : LinkReq) : (waferRequest s r q).kept = s.kept := by simp [waferRequest]

@[simp] theorem ackChiplet_kept (s : State) (r : Nat) : (ackChiplet s r).kept = s.kept := by
  simp only [ackChiplet]
  repeat' split
  all_goals simp

@[simp] theorem linkDone_kept (s : State) (r : Nat) : (linkDone s r).kept = s.kept := by
  simp only [linkDone]
  repeat' split
  all_goals simp

@[simp] theorem alert_kept (s : State) (i : Nat) : (alert s i).kept = s.kept := by simp [alert]

@[simp] theorem readyLow_kept (s : State) : (readyLow s).kept = s.kept := by simp [readyLow]

@[simp] theorem regionsOff_kept (s : State) : (regionsOff s).kept = s.kept := by simp [regionsOff]

@[simp] theorem fenceAll_kept (s : State) : (fenceAll s).kept = s.kept := by simp [fenceAll, State.kept_foldl]

@[simp] theorem safeStop_kept (s : State) (source : Nat) : (safeStop s source).kept = s.kept := by simp [safeStop]

@[simp] theorem envStatus_kept (s : State) (b : Word) : (envStatus s b).kept = s.kept := by simp [envStatus]

@[simp] theorem envRefuse_kept (s : State) : (envRefuse s).kept = s.kept := by simp [envRefuse]

@[simp] theorem segCfgWrite_kept (s : State) (fn : Nat) (v : Word) : (segCfgWrite s fn v).kept = s.kept := by simp [segCfgWrite]

@[simp] theorem segDataWrite_kept (s : State) (fn : Nat) (v : Word) : (segDataWrite s fn v).kept = s.kept := by simp [segDataWrite]

@[simp] theorem writeSeg_kept (s : State) (fn slot : Nat) : (writeSeg s fn slot).kept = s.kept := by
  simp only [writeSeg]
  repeat' split
  all_goals simp

@[simp] theorem clearSeg_kept (s : State) (slot : Nat) : (clearSeg s slot).kept = s.kept := by
  simp only [clearSeg]
  repeat' split
  all_goals simp

@[simp] theorem clearAll_kept (s : State) : (clearAll s).kept = s.kept := by simp [clearAll]

@[simp] theorem envCmd_kept (s : State) (fn : Nat) (v : Word) : (envCmd s fn v).kept = s.kept := by
  simp only [envCmd]
  repeat' split
  all_goals simp

@[simp] theorem envCtrlWrite_kept (s : State) (v : Word) : (envCtrlWrite s v).kept = s.kept := by simp [envCtrlWrite]

@[simp] theorem envFreeze_kept (s : State) : (envFreeze s).kept = s.kept := by simp [envFreeze]

@[simp] theorem retireSegs_kept (s : State) (t : Nat) : (retireSegs s t).kept = s.kept := by
  simp only [retireSegs]
  repeat' split
  all_goals simp

@[simp] theorem envMove_kept (s : State) (t : Nat) : (envMove s t).kept = s.kept := by
  simp only [envMove]
  repeat' split
  all_goals simp

@[simp] theorem envBoundary_kept (s : State) (t : Nat) : (envBoundary s t).kept = s.kept := by simp [envBoundary]

@[simp] theorem envThaw_kept (s : State) : (envThaw s).kept = s.kept := by simp [envThaw]

@[simp] theorem overOne_kept (s : State) (r : Nat) (rail : Rail) : (overOne s r rail).kept = s.kept := by simp [overOne]

@[simp] theorem overcurrents_kept (s : State) (now : List (Sys2Proof.Region × Rail)) : (overcurrents s now).kept = s.kept := by
  simp [overcurrents, State.kept_foldl]

@[simp] theorem suspectOne_kept (s : State) (r : Nat) (now : List Nat) : (suspectOne s r now).kept = s.kept := by
  simp only [suspectOne]
  repeat' split
  all_goals simp

@[simp] theorem suspects_kept (s : State) (now : List LowSensor) : (suspects s now).kept = s.kept := by simp [suspects, State.kept_foldl]

@[simp] theorem bankRetired_kept (s : State) (c : CoreId) (stack : Bool) (bank : Nat) : (bankRetired s c stack bank).kept = s.kept := by
  simp [bankRetired]

@[simp] theorem shedZone_kept (s : State) (z : Nat) : (shedZone s z).kept = s.kept := by simp [shedZone, State.kept_foldl]

@[simp] theorem stepFaults_kept (s : State) (i : CycleIn) : (stepFaults s i).kept = s.kept := by simp [stepFaults, State.kept_foldl]

@[simp] theorem floorBound_kept (s : State) (p : Nat) : (floorBound s p).kept = s.kept := by simp [floorBound]

@[simp] theorem belowFloor_kept (s : State) (h : Nat) : (belowFloor s h).kept = s.kept := by simp [belowFloor]

@[simp] theorem coolHalf_kept (s0 s : State) (r fall : Nat) : (coolHalf s0 s r fall).kept = s.kept := by simp [coolHalf]

@[simp] theorem coolRegion_kept (s0 s : State) (r : Nat) : (coolRegion s0 s r).kept = s.kept := by simp [coolRegion]

@[simp] theorem thermalReport_kept (s : State) (r : Nat) : (thermalReport s r).kept = s.kept := by simp [thermalReport]

@[simp] theorem thermalOne_kept (s0 s : State) (r : Nat) : (thermalOne s0 s r).kept = s.kept := by simp [thermalOne]

@[simp] theorem thermalTrip_kept (s : State) (r : Nat) (tenths : Word) : (thermalTrip s r tenths).kept = s.kept := by simp [thermalTrip]

@[simp] theorem stepThermal_kept (s0 s : State) : (stepThermal s0 s).kept = s.kept := by
  simp only [stepThermal]
  repeat' split
  all_goals simp [State.kept_foldl]

@[simp] theorem addMs_kept (s : State) (i : CycleIn) : (addMs s i).kept = s.kept := by simp [addMs]

@[simp] theorem stepEnvelope_kept (s : State) (i : CycleIn) (t : Nat) : (stepEnvelope s i t).kept = s.kept := by
  simp [stepEnvelope, State.kept_foldl]

@[simp] theorem parkOne_kept (s : State) (lever : List HalfField) (h : Nat) : (parkOne s lever h).kept = s.kept := by simp [parkOne]

@[simp] theorem unparkOne_kept (s : State) (lever : List HalfField) (wake : List Nat) (h : Nat) :
    (unparkOne s lever wake h).kept = s.kept := by simp [unparkOne]

@[simp] theorem takeWake_kept (s : State) (p : Nat) : (takeWake s p).kept = s.kept := by simp [takeWake]

@[simp] theorem stepParking_kept (s : State) (i : CycleIn) : (stepParking s i).kept = s.kept := by simp [stepParking, State.kept_foldl]

@[simp] theorem writePoint_kept (s0 : State) (i : CycleIn) (s : State) (q : SetPoint) : (writePoint s0 i s q).kept = s.kept := by
  simp [writePoint]

@[simp] theorem capSuspect_kept (s0 s : State) (r : Nat) : (capSuspect s0 s r).kept = s.kept := by simp [capSuspect]

@[simp] theorem raiseLogic_kept (s0 s : State) (r goal : Nat) : (raiseLogic s0 s r goal).kept = s.kept := by simp [raiseLogic]

@[simp] theorem liftFloor_kept (s0 s : State) (h : Nat) : (liftFloor s0 s h).kept = s.kept := by simp [liftFloor]

@[simp] theorem holdRun_kept (s0 s : State) (h : Nat) : (holdRun s0 s h).kept = s.kept := by simp [holdRun]

@[simp] theorem writeLink_kept (i : CycleIn) (s : State) (e : Sys2Proof.Region × LinkReq) : (writeLink i s e).kept = s.kept := by
  simp only [writeLink]
  repeat' split
  all_goals simp

@[simp] theorem powerOne_kept (s : State) (h : Nat) : (powerOne s h).kept = s.kept := by simp [powerOne]

@[simp] theorem startRun_kept (s : State) (h : Nat) : (startRun s h).kept = s.kept := by simp [startRun]

@[simp] theorem sliceOne_kept (s : State) (n h : Nat) : (sliceOne s n h).1.kept = s.kept := by
  simp only [sliceOne]
  repeat' split
  all_goals simp

@[simp] theorem stepSlices_kept (s : State) : (stepSlices s).kept = s.kept := by
  unfold stepSlices
  split
  · exact State.kept_foldl_fst _ (fun _ _ => by simp) _ _
  · rfl

@[simp] theorem stepWrites_kept (s0 s : State) (i : CycleIn) : (stepWrites s0 s i).kept = s.kept := by simp [stepWrites, State.kept_foldl]

@[simp] theorem answerMbx_kept (s : State) (fn : Nat) (code : Word) : (answerMbx s fn code).kept = s.kept := by simp [answerMbx]

@[simp] theorem answerWake_kept (s : State) (fn : Nat) (hs : List Nat) : (answerWake s fn hs).kept = s.kept := by simp [answerWake]

@[simp] theorem serveMbx_kept (s : State) (e : Nat × Mbx) : (serveMbx s e).kept = s.kept := by simp [serveMbx]

@[simp] theorem stepMailbox_kept (s : State) : (stepMailbox s).kept = s.kept := by simp [stepMailbox, State.kept_foldl]

@[simp] theorem beginCycle_kept (s : State) (i : CycleIn) : (beginCycle s i).kept = s.kept := by simp [beginCycle]

@[simp] theorem beat_kept (s : State) : (beat s).kept = s.kept := by simp [beat]

@[simp] theorem cycle_kept (s : State) (i : CycleIn) : (cycle s i).kept = s.kept := by simp [cycle]

@[simp] theorem State.setFnBuf_kept (s : State) (fn : Nat) (b : FnBuf) : (State.setFnBuf s fn b).kept = s.kept := by simp [State.setFnBuf]

@[simp] theorem holdLow_kept (s : State) (fn off : Nat) (w : Word) : (holdLow s fn off w).kept = s.kept := by simp [holdLow]

@[simp] theorem takeHeld_kept (s : State) (fn off : Nat) (cur : Word) : (takeHeld s fn off cur).2.kept = s.kept := by
  simp only [takeHeld]
  repeat' split
  all_goals simp

@[simp] theorem postMbx_kept (s : State) (fn op : Nat) : (postMbx s fn op).kept = s.kept := by simp [postMbx]

@[simp] theorem passToken_kept (s : State) : (passToken s).kept = s.kept := by simp [passToken]

@[simp] theorem takeover_kept (s : State) (why : TakeoverWhy) : (takeover s why).kept = s.kept := by simp [takeover]

@[simp] theorem logStore_kept (s : State) (e : BitVec 64 × List Word) : (logStore s e).kept = s.kept := by simp [logStore]

@[simp] theorem logFetch_kept (s : State) (fn : Nat) (hi : Word) : (logFetch s fn hi).kept = s.kept := by simp [logFetch]

@[simp] theorem recordTest_kept (s : State) (nb : List NeighbourReport) (fs : List Finding) : (recordTest s nb fs).kept = s.kept := by
  simp [recordTest, State.kept_foldl]

@[simp] theorem dropRecords_kept (s : State) (kinds : List (BitVec 4)) (loc : Nat) : (dropRecords s kinds loc).kept = s.kept := by
  simp [dropRecords]

@[simp] theorem newIdent_kept (s : State) (h : Nat) : (newIdent s h).kept = s.kept := by simp [newIdent]

@[simp] theorem newIncarnation_kept (s : State) : (newIncarnation s).kept = s.kept := by simp [newIncarnation, State.kept_foldl]

@[simp] theorem testRefuse_kept (s : State) : (testRefuse s).kept = s.kept := by simp [testRefuse]

@[simp] theorem bistCmd_kept (s : State) (h : Nat) (links : Bool) : (bistCmd s h links).kept = s.kept := by simp [bistCmd]

@[simp] theorem repairCmd_kept (s : State) (h : Nat) : (repairCmd s h).kept = s.kept := by simp [repairCmd]

@[simp] theorem unitCmd_kept (s : State) (u : Nat) : (unitCmd s u).kept = s.kept := by simp [unitCmd]

@[simp] theorem reinitHalf_kept (s : State) (h : Nat) : (reinitHalf s h).kept = s.kept := by simp [reinitHalf]

@[simp] theorem abortTest_kept (s : State) (u : Nat) : (abortTest s u).kept = s.kept := by simp [abortTest]

@[simp] theorem testCmdWrite_kept (s : State) (v : Word) : (testCmdWrite s v).kept = s.kept := by
  simp only [testCmdWrite]
  repeat' split
  all_goals simp

@[simp] theorem bistRunStart_kept (s : State) (h : Nat) : (bistRunStart s h).kept = s.kept := by simp [bistRunStart]

@[simp] theorem bistSliceDone_kept (s : State) (h : Nat) : (bistSliceDone s h).kept = s.kept := by simp [bistSliceDone]

@[simp] theorem countRun_kept (s : State) (fail : Bool) : (countRun s fail).kept = s.kept := by simp [countRun]

@[simp] theorem bistRunDone_kept (s : State) (h : Nat) (t : TestResult) : (bistRunDone s h t).kept = s.kept := by simp [bistRunDone]

@[simp] theorem unitOutcome_kept (s : State) (u : Nat) (ok : Bool) : (unitOutcome s u ok).kept = s.kept := by simp [unitOutcome]

@[simp] theorem applyPending_kept (s : State) (h : Nat) : (applyPending s h).kept = s.kept := by simp [applyPending]

@[simp] theorem repairLife_kept (s : State) (h : Nat) : (repairLife s h).kept = s.kept := by simp [repairLife]

@[simp] theorem softFailed_kept (s : State) (r : Nat) (dom : BitVec 4) : (softFailed s r dom).kept = s.kept := by simp [softFailed]

@[simp] theorem rejoin_kept (s : State) (h : Nat) : (rejoin s h).kept = s.kept := by simp [rejoin]

@[simp] theorem repairDone_kept (s : State) (h : Nat) (t : TestResult) : (repairDone s h t).kept = s.kept := by simp [repairDone]

@[simp] theorem recordUp_kept (s : State) (kind : BitVec 4) (source : BitVec 3) (unit : BitVec 8) (loc : Nat) :
    (recordUp s kind source unit loc).kept = s.kept := by simp [recordUp]

@[simp] theorem mergeMap_kept (s : State) (copy : List DefectRec) : (mergeMap s copy).kept = s.kept := by simp [mergeMap]

@[simp] theorem mapStart_kept (s : State) (t : PowerUpResult) : (mapStart s t).kept = s.kept := by simp [mapStart]

@[simp] theorem mapT3_kept (s : State) (t : PowerUpResult) (map : List DefectRec) : (mapT3 s t map).kept = s.kept := by
  simp [mapT3, State.kept_foldl]

@[simp] theorem regionsUp_kept (s : State) (t : PowerUpResult) : (regionsUp s t).kept = s.kept := by simp [regionsUp, State.kept_foldl]

@[simp] theorem findsUp_kept (s : State) (t : PowerUpResult) : (findsUp s t).kept = s.kept := by simp [findsUp, State.kept_foldl]

@[simp] theorem unitUp_kept (t : PowerUpResult) (s : State) (u : Nat) : (unitUp t s u).kept = s.kept := by simp [unitUp]

@[simp] theorem gridUp_kept (s : State) (t : PowerUpResult) : (gridUp s t).kept = s.kept := by simp [gridUp, State.kept_foldl]

@[simp] theorem readyHigh_kept (s : State) : (readyHigh s).kept = s.kept := by simp [readyHigh]

@[simp] theorem powerUpTest_kept (s : State) (t : PowerUpResult) : (powerUpTest s t).kept = s.kept := by
  simp [powerUpTest, State.kept_foldl]

@[simp] theorem lcRefuse_kept (s : State) : (lcRefuse s).kept = s.kept := by simp [lcRefuse]

@[simp] theorem lcDeploy_pending (s : State) : (lcDeploy s).pending = s.pending := by
  unfold lcDeploy
  split
  · exact State.pending_of_kept (lcRefuse_kept s)
  · rfl

@[simp] theorem lcEnter_pending (s : State) : (lcEnter s).pending = s.pending := by
  unfold lcEnter
  split
  · exact State.pending_of_kept (lcRefuse_kept s)
  · rfl

@[simp] theorem lcLeave_pending (s : State) : (lcLeave s).pending = s.pending := by
  unfold lcLeave
  split
  · exact State.pending_of_kept (lcRefuse_kept s)
  · rfl

@[simp] theorem lcRetire_pending (s : State) (confirm : BitVec 16) : (lcRetire s confirm).pending = s.pending := by
  unfold lcRetire
  dsimp only
  split
  · exact State.pending_of_kept (lcRefuse_kept s)
  · exact (State.pending_of_kept (regionsOff_kept _)).trans rfl

@[simp] theorem lcCmd_pending (s : State) (v : Word) : (lcCmd s v).pending = s.pending := by
  unfold lcCmd
  split <;> simp [State.pending_of_kept (lcRefuse_kept s)]

@[simp] theorem setPin_kept (s : State) (n : Nat) (p : MfPin) : (setPin s n p).kept = s.kept := by simp [setPin]

@[simp] theorem switchPin_kept (s : State) (n f : Nat) : (switchPin s n f).kept = s.kept := by simp [switchPin]

@[simp] theorem parkUart_kept (s : State) : (parkUart s).kept = s.kept := by simp [parkUart, State.kept_foldl]

@[simp] theorem lcFinalise_pending (s : State) : (lcFinalise s).pending = s.pending := by
  unfold lcFinalise
  split
  · exact State.pending_of_kept (lcRefuse_kept s)
  · exact (State.pending_of_kept (parkUart_kept _)).trans rfl

@[simp] theorem secCode_kept (s : State) (c : Word) : (secCode s c).kept = s.kept := by simp [secCode]

@[simp] theorem secUnwrap_kept (s : State) (keyId : Nat) (epkOk icvOk cakZero : Bool) :
    (secUnwrap s keyId epkOk icvOk cakZero).kept = s.kept := by simp [secUnwrap]

@[simp] theorem secDelete_kept (s : State) (keyId : Nat) : (secDelete s keyId).kept = s.kept := by simp [secDelete]

@[simp] theorem secCmdWrite_kept (s : State) (v : Word) : (secCmdWrite s v).kept = s.kept := by
  simp only [secCmdWrite]
  repeat' split
  all_goals simp

@[simp] theorem sendMctp_kept (s : State) (via : Via) (ws : List Word) : (sendMctp s via ws).kept = s.kept := by simp [sendMctp]

@[simp] theorem spdmError_kept (s : State) (via : Via) (code data : Nat) : (spdmError s via code data).kept = s.kept := by simp [spdmError]

theorem spdm_kept (s : State) (via : Via) (f : State → State) (h : ∀ s, (f s).kept = s.kept) : (spdm s via f).kept = s.kept := by
  simp [spdm, h]

@[simp] theorem spdmAnswer_kept (s : State) (via : Via) (code idx : Nat) (nonce : BitVec 256) (body : List Word) :
    (spdmAnswer s via code idx nonce body).kept = s.kept := by simp [spdmAnswer]

@[simp] theorem errRingCtrl_kept (s : State) (fn : Nat) (v : Word) : (errRingCtrl s fn v).kept = s.kept := by simp [errRingCtrl]

@[simp] theorem modRst_kept (s : State) (level : Bool) : (modRst s level).kept = s.kept := by simp [modRst]

@[simp] theorem allPowerLost_kept (s : State) : (allPowerLost s).kept = s.kept := by simp [allPowerLost]

@[simp] theorem busRange_kept (s : State) (mv : Nat) : (busRange s mv).kept = s.kept := by simp [busRange]

@[simp] theorem leakStop_kept (s : State) : (leakStop s).kept = s.kept := by simp [leakStop]

@[simp] theorem coolantSample_kept (s : State) (inlet outlet flow : Nat) (wet : Bool) :
    (coolantSample s inlet outlet flow wet).kept = s.kept := by simp [coolantSample]

@[simp] theorem stateAtStart_pending (s : State) (i : PowerUpIn) : (stateAtStart s i).pending = s.pending := rfl

@[simp] theorem stateAtStart_lc (s : State) (i : PowerUpIn) : (stateAtStart s i).lc = lifeAtStart s i.wordOk := rfl

@[simp] theorem stateAtStart_grade (s : State) (i : PowerUpIn) : (stateAtStart s i).grade = s.grade := rfl

@[simp] theorem stateAtStart_baseline (s : State) (i : PowerUpIn) : (stateAtStart s i).baseline = s.baseline := rfl

@[simp] theorem presetAtStart_kept (s old : State) : (presetAtStart s old).kept = s.kept := by simp [presetAtStart]

theorem powerUp_pending (s : State) (i : PowerUpIn) : (powerUp s i).pending = s.pending := by
  unfold powerUp
  split
  · exact (State.pending_of_kept (by simp)).trans (stateAtStart_pending s i)
  · rfl

@[simp] theorem abortQueues_kept (s : State) : (abortQueues s).kept = s.kept := by simp [abortQueues, State.kept_foldl]

@[simp] theorem orderlyStop_kept (s : State) : (orderlyStop s).kept = s.kept := by simp [orderlyStop, State.kept_foldl]

@[simp] theorem setPps_kept (s : State) (v : Bool) : (setPps s v).kept = s.kept := by simp [setPps]

@[simp] theorem transceiver_kept (s : State) (n : Nat) (ev : CageEvent) : (transceiver s n ev).kept = s.kept := by
  simp only [transceiver]
  repeat' split
  all_goals simp

@[simp] theorem readReg_kept (s : State) (rq off : Nat) : (readReg s rq off).2.kept = s.kept := by
  simp only [readReg]
  repeat' split
  all_goals simp

@[simp] theorem storeReg_kept (s : State) (fn idx off : Nat) (v : Word) : (storeReg s fn idx off v).kept = s.kept := by simp [storeReg]

@[simp] theorem plainWrite_kept (s : State) (rq fn idx off : Nat) (v : Word) : (plainWrite s rq fn idx off v).kept = s.kept := by
  simp [plainWrite]

@[simp] theorem writeHq_kept (s : State) (p off : Nat) (v : Word) : (writeHq s p off v).kept = s.kept := by
  simp only [writeHq]
  repeat' split
  all_goals simp

@[simp] theorem writePart_kept (s : State) (off : Nat) (v : Word) : (writePart s off v).kept = s.kept := by
  simp only [writePart]
  repeat' split
  all_goals simp

@[simp] theorem writeStrm_kept (s : State) (rq off : Nat) (v : Word) : (writeStrm s rq off v).kept = s.kept := by simp [writeStrm]

@[simp] theorem writeWp_kept (s : State) (off : Nat) (v : Word) : (writeWp s off v).kept = s.kept := by
  simp only [writeWp]
  repeat' split
  all_goals simp

@[simp] theorem writeColl_kept (s : State) (p off : Nat) (v : Word) : (writeColl s p off v).kept = s.kept := by
  unfold writeColl
  repeat' split
  all_goals first | exact chainWrite_kept s p _ (fun _ => by simp) | simp

@[simp] theorem writeTier_kept (s : State) (rq off : Nat) (v : Word) : (writeTier s rq off v).kept = s.kept := by simp [writeTier]

@[simp] theorem writeWst_kept (s : State) (rq off : Nat) (v : Word) : (writeWst s rq off v).kept = s.kept := by
  simp only [writeWst]
  repeat' split
  all_goals simp

@[simp] theorem writeSync_kept (s : State) (p off : Nat) (v : Word) : (writeSync s p off v).kept = s.kept := by
  simp only [writeSync]
  repeat' split
  all_goals simp

@[simp] theorem writePwr_kept (s : State) (rq off : Nat) (v : Word) : (writePwr s rq off v).kept = s.kept := by
  simp only [writePwr]
  repeat' split
  all_goals simp

@[simp] theorem writeTamb_kept (s : State) (rq off : Nat) (v : Word) : (writeTamb s rq off v).kept = s.kept := by
  simp only [writeTamb]
  repeat' split
  all_goals simp

/-- Only a write of LC_CMD changes what is kept. -/
theorem writeTest_kept (s : State) (rq off : Nat) (v : Word) (h : offIn off ≠ 4) : (writeTest s rq off v).kept = s.kept := by
  unfold writeTest
  repeat' split
  all_goals first | (exact absurd ‹_› h) | rfl | simp

@[simp] theorem writeTest_pending (s : State) (rq off : Nat) (v : Word) : (writeTest s rq off v).pending = s.pending := by
  unfold writeTest
  split
  · exact lcCmd_pending s v
  · rfl
  · exact State.pending_of_kept (by simp)
  · split
    · rfl
    · exact State.pending_of_kept (by simp)
  · exact State.pending_of_kept (by simp)

@[simp] theorem writeSec_kept (s : State) (off : Nat) (v : Word) : (writeSec s off v).kept = s.kept := by simp [writeSec]

@[simp] theorem writeErr_kept (s : State) (rq off : Nat) (v : Word) : (writeErr s rq off v).kept = s.kept := by simp [writeErr]

theorem writeReg_kept (s : State) (rq off : Nat) (v : Word) (h : ¬(blkOf off = 11 ∧ offIn off = 4)) :
    (writeReg s rq off v).kept = s.kept := by
  unfold writeReg
  repeat' split
  all_goals first | exact writeTest_kept s rq off v (fun e => h ⟨‹_›, e⟩) | simp

@[simp] theorem writeReg_pending (s : State) (rq off : Nat) (v : Word) : (writeReg s rq off v).pending = s.pending := by
  by_cases h : blkOf off = 11
  · unfold writeReg
    repeat' split
    all_goals first | exact writeTest_pending s rq off v | rfl | exact State.pending_of_kept (by simp)
  · exact State.pending_of_kept (writeReg_kept s rq off v (fun e => h e.1))

@[simp] theorem discardCmd_kept (s : State) : (discardCmd s).kept = s.kept := by simp [discardCmd]

theorem sbCmd_kept (s : State) (b : Bus) (d : SbData) (n : Nat) (f : List Nat → State) (h : ∀ l, (f l).kept = s.kept) :
    (sbCmd s b d n f).kept = s.kept := by simp [sbCmd, h]

@[simp] theorem mctpDrop_kept (s : State) : (mctpDrop s).kept = s.kept := by simp [mctpDrop]

@[simp] theorem setMctpQ_kept (s : State) (b : Bus) (q : List MctpTx) : (setMctpQ s b q).kept = s.kept := by simp [setMctpQ]

@[simp] theorem pinSwitch_kept (s : State) (n f : Nat) : (pinSwitch s n f).kept = s.kept := by simp [pinSwitch]

end Sys2Proof.Machine
end

