-- ==== Sys2Proof/Laws/Memories.lean ====
section
/-! SUPPORT. Every operation that writes a memory keeps its canonical form; the memories of the state after reset have it. -/

namespace Sys2Proof.Machine

/-! ## Tables of memories -/

theorem Tab.mem_put {α : Type} {t : Tab α} {k : Nat} {v : α} {e : Nat × α} (h : e ∈ Tab.put t k v) : e = (k, v) ∨ e ∈ t :=
  (Tab.mem_insert h).imp_right Tab.mem_drop

theorem Tab.mem_find {α : Type} {t : Tab α} {k : Nat} {v : α} (h : Tab.find t k = some v) : (k, v) ∈ t := by
  induction t with
  | nil => simp [Tab.find] at h
  | cons x t ih =>
    obtain ⟨i, a⟩ := x
    by_cases hk : i = k
    · subst hk
      simp only [Tab.find, if_true, Option.some.injEq] at h
      simp [h]
    · simp only [Tab.find, hk, if_false] at h
      exact List.mem_cons_of_mem _ (ih h)

theorem memoriesWf_iff (s : State) : memoriesWf s = true ↔ Memory.wf s.tiers.mem = true ∧
    (∀ e ∈ s.cores, Memory.wf e.2.mem = true) ∧ ∀ e ∈ s.slices, Memory.wf e.2.sram = true := by
  simp [memoriesWf, and_assoc]

theorem memoriesWf_reset : memoriesWf State.reset = true := by decide

/-! ## Cores -/

theorem core_mem_wf {s : State} (h : memoriesWf s = true) (c : CoreId) : Memory.wf (s.core c).mem = true := by
  unfold State.core Tab.get
  cases hf : Tab.find s.cores (coreKey c) with
  | none => rfl
  | some k => exact ((memoriesWf_iff s).mp h).2.1 _ (Tab.mem_find hf)

theorem memoriesWf_setCore {s : State} (h : memoriesWf s = true) (c : CoreId) {k : Core} (hk : Memory.wf k.mem = true) :
    memoriesWf (s.setCore c k) = true := by
  obtain ⟨h1, h2, h3⟩ := (memoriesWf_iff s).mp h
  refine (memoriesWf_iff _).mpr ⟨h1, fun e he => ?_, h3⟩
  rcases Tab.mem_put he with rfl | he
  · exact hk
  · exact h2 e he

theorem Core.setMemWord_wf {k : Core} (h : Memory.wf k.mem = true) (a : Nat) (w : PWord) : Memory.wf (k.setMemWord a w).mem = true :=
  Memory.wf_setWord _ _ _ h

theorem Core.putWords_wf (ws : List PWord) : ∀ (k : Core) (a : Nat), Memory.wf k.mem = true → Memory.wf (k.putWords a ws).mem = true := by
  induction ws with
  | nil => intro k a h; exact h
  | cons w ws ih => intro k a h; exact ih _ _ (Core.setMemWord_wf h a w)

theorem Core.setSub_wf {k : Core} (h : Memory.wf k.mem = true) (a n : Nat) (w : PWord) : Memory.wf (k.setSub a n w).mem = true :=
  Memory.wf_setNat _ _ _ _ h

/-! ## Predictor slices -/

theorem slice_sram_wf {s : State} (h : memoriesWf s = true) (f : Nat) : Memory.wf (s.slice f).sram = true := by
  unfold State.slice Tab.get
  cases hf : Tab.find s.slices f with
  | none => rfl
  | some x => exact ((memoriesWf_iff s).mp h).2.2 _ (Tab.mem_find hf)

theorem memoriesWf_setSlice {s : State} (h : memoriesWf s = true) (f : Nat) {x : Slice} (hx : Memory.wf x.sram = true) :
    memoriesWf (s.setSlice f x) = true := by
  obtain ⟨h1, h2, h3⟩ := (memoriesWf_iff s).mp h
  refine (memoriesWf_iff _).mpr ⟨h1, h2, fun e he => ?_⟩
  rcases Tab.mem_put he with rfl | he
  · exact hx
  · exact h3 e he

theorem Slice.put_wf {x : Slice} (h : Memory.wf x.sram = true) (a : Nat) (ws : List PWord) : Memory.wf (x.put a ws).sram = true := by
  have hf : ∀ {α : Type} (g : Core → α → Core) (_ : ∀ k e, Memory.wf k.mem = true → Memory.wf (g k e).mem = true) (l : List α) (k : Core),
      Memory.wf k.mem = true → Memory.wf (l.foldl g k).mem = true := by
    intro α g hg l
    induction l with
    | nil => intro k hk; exact hk
    | cons e l ih => intro k hk; exact ih _ (hg k e hk)
  unfold Slice.put
  dsimp only
  split
  · exact Core.putWords_wf ws _ _ h
  · exact hf _ (fun k e hk => hf _ (fun k i hk => Core.setSub_wf hk _ _ _) _ _ hk) _ _ h

/-! ## T2 -/

theorem memoriesWf_tiers {s : State} (h : memoriesWf s = true) {t : Tiers} (ht : Memory.wf t.mem = true) :
    memoriesWf { s with tiers := t } = true :=
  (memoriesWf_iff _).mpr ⟨ht, ((memoriesWf_iff s).mp h).2⟩

theorem memoriesWf_t2SetWord {s : State} (h : memoriesWf s = true) (p a : Nat) (w : PWord) : memoriesWf (t2SetWord s p a w) = true := by
  unfold t2SetWord
  split
  · exact h
  · split
    · exact h
    · exact memoriesWf_tiers h (Memory.wf_setWord _ _ _ ((memoriesWf_iff s).mp h).1)

theorem memoriesWf_t2Write (ws : List PWord) : ∀ (s : State) (p a : Nat), memoriesWf s = true → memoriesWf (t2Write s p a ws) = true := by
  induction ws with
  | nil => intro s p a h; exact h
  | cons w ws ih => intro s p a h; exact ih _ _ _ (memoriesWf_t2SetWord h p a w)

theorem memoriesWf_zeroFrame {s : State} (h : memoriesWf s = true) (f : Nat) : memoriesWf (zeroFrame s f) = true :=
  memoriesWf_tiers h (Memory.wf_clear _ _ _ ((memoriesWf_iff s).mp h).1)

theorem memoriesWf_moveFrame {s : State} (h : memoriesWf s = true) (f g : Nat) : memoriesWf (moveFrame s f g) = true := by
  have hf : ∀ (put : List Host.Cell → Host.Cell → List Host.Cell) (_ : ∀ t e, Memory.wf t = true → Memory.wf (put t e) = true)
      (l t : List Host.Cell), Memory.wf t = true → Memory.wf (l.foldl put t) = true := by
    intro put hp l
    induction l with
    | nil => intro t ht; exact ht
    | cons e l ih => intro t ht; exact ih _ (hp t e ht)
  have hz := memoriesWf_zeroFrame h g
  unfold moveFrame
  refine memoriesWf_zeroFrame (memoriesWf_tiers hz (hf _ ?_ _ _ ((memoriesWf_iff _).mp hz).1)) f
  intro t e ht
  split
  · exact Tab.wf_set 0 _ _ _ ht
  · exact ht

end Sys2Proof.Machine
end

