-- ==== Sys2Proof/Laws/Ops.lean ====
section
/-! SUPPORT. What the shared operations on registers, counters and reports do, said once: stored registers read back what was written,
and counting, violations and reports change registers, report rings and outputs only. -/

namespace Sys2Proof.Machine

/-- `t` differs from `s` in registers, report rings, the reports of this command and outputs only. -/
def OnlyReports (s t : State) : Prop := t = { s with regs := t.regs, rings := t.rings, recent := t.recent, out := t.out }

theorem OnlyReports.refl (s : State) : OnlyReports s s := rfl

theorem OnlyReports.trans {s t u : State} (h : OnlyReports s t) (g : OnlyReports t u) : OnlyReports s u := by
  unfold OnlyReports at *
  rw [g, h]

/-! ## Registers -/

/-- A stored word reads back what was written. -/
theorem regGet_regSet_same (s : State) (fn idx off : Nat) (w : Word) : regGet (regSet s fn idx off w) fn idx off = w :=
  Tab.get_set_same _ _ _ _

/-- A write leaves every other stored word alone. -/
theorem regGet_regSet_other (s : State) (fn idx off fn' idx' off' : Nat) (w : Word) (h : regKey fn' idx' off' ≠ regKey fn idx off) :
    regGet (regSet s fn idx off w) fn' idx' off' = regGet s fn' idx' off' := Tab.get_set_other _ _ _ _ h

/-- A register at another offset of the same function and index. -/
theorem regGet_regSet_off (s : State) (fn idx off off' : Nat) (w : Word) (h : off' ≠ off) :
    regGet (regSet s fn idx off w) fn idx off' = regGet s fn idx off' :=
  regGet_regSet_other s fn idx off fn idx off' w (by simp only [regKey]; omega)

theorem OnlyReports.regSet (s : State) (fn idx off : Nat) (w : Word) : OnlyReports s (Sys2Proof.Machine.regSet s fn idx off w) := rfl

theorem OnlyReports.regOr (s : State) (fn idx off : Nat) (w : Word) : OnlyReports s (Sys2Proof.Machine.regOr s fn idx off w) := rfl

theorem OnlyReports.cntAdd (s : State) (fn idx off n : Nat) : OnlyReports s (Sys2Proof.Machine.cntAdd s fn idx off n) := rfl

theorem OnlyReports.emit (s : State) (o : Out) : OnlyReports s (Sys2Proof.Machine.emit s o) := rfl

/-! ## Violations and reports -/

theorem OnlyReports.violate (s : State) (p kind : Nat) : OnlyReports s (Sys2Proof.Machine.violate s p kind) := by
  unfold Sys2Proof.Machine.violate
  split
  · rfl
  · exact (OnlyReports.cntAdd ..).trans (OnlyReports.regSet ..)

theorem OnlyReports.violateN (s : State) (p kind n : Nat) : OnlyReports s (Sys2Proof.Machine.violateN s p kind n) := by
  unfold Sys2Proof.Machine.violateN
  split
  · rfl
  · exact (OnlyReports.cntAdd ..).trans (OnlyReports.regSet ..)

theorem OnlyReports.reportTo (s : State) (fn code : Nat) (sc : Scope) (sev part : Nat) (loc v0 v1 : Word) :
    OnlyReports s (Sys2Proof.Machine.reportTo s fn code sc sev part loc v0 v1) := by
  unfold Sys2Proof.Machine.reportTo
  extract_lets key s' r ctl size head tail s1 ws base tail' s2 s3 s4
  have h1 : OnlyReports s s1 := rfl
  have h4 : OnlyReports s s4 := rfl
  repeat' split
  · rfl
  · exact h1.trans ((OnlyReports.cntAdd ..).trans (OnlyReports.regOr ..))
  · exact h4.trans ((OnlyReports.regSet ..).trans (OnlyReports.cntAdd ..))

theorem OnlyReports.reportAll (s : State) (fns : List Nat) (code : Nat) (sc : Scope) (sev part : Nat) (loc v0 v1 : Word) :
    OnlyReports s (Sys2Proof.Machine.reportAll s fns code sc sev part loc v0 v1) := by
  unfold Sys2Proof.Machine.reportAll
  split
  · rfl
  · induction fns generalizing s with
    | nil => rfl
    | cons f fns ih =>
      have h := OnlyReports.reportTo s f code sc sev part loc v0 v1
      refine h.trans (ih _ ?_)
      rw [h]
      assumption

theorem OnlyReports.reportP (s : State) (code : Nat) (sc : Scope) (sev p : Nat) (loc v0 v1 : Word) :
    OnlyReports s (Sys2Proof.Machine.reportP s code sc sev p loc v0 v1) := by
  unfold Sys2Proof.Machine.reportP
  split <;> exact OnlyReports.reportAll ..

theorem OnlyReports.reportE (s : State) (code : Nat) (sc : Scope) (sev : Nat) (loc v0 v1 : Word) :
    OnlyReports s (Sys2Proof.Machine.reportE s code sc sev loc v0 v1) := OnlyReports.reportAll ..

theorem OnlyReports.reportF (s : State) (code : Nat) (sc : Scope) (sev : Nat) (loc v0 v1 : Word) :
    OnlyReports s (Sys2Proof.Machine.reportF s code sc sev loc v0 v1) := OnlyReports.reportAll ..

/-- With reports closed by a safe stop, a report does nothing (R394). -/
theorem reportAll_quiet (s : State) (h : s.quiet = true) (fns : List Nat) (code : Nat) (sc : Scope) (sev part : Nat) (loc v0 v1 : Word) :
    reportAll s fns code sc sev part loc v0 v1 = s := by simp [reportAll, h]

/-- A violation by partition 0 does not exist. -/
@[simp] theorem violate_zero (s : State) (kind : Nat) : violate s 0 kind = s := rfl

end Sys2Proof.Machine
end

