-- ==== Sys2Proof/Laws/State.lean ====
section
/-! SUPPORT. The state's updates: what every field of the state holds after one, so that no proof unfolds a record update. -/

namespace Sys2Proof.Machine

/-! ## emit -/

@[simp] theorem State.emit_pending (s : State) (o : Out) : (emit s o).pending = s.pending := rfl
@[simp] theorem State.emit_draws (s : State) (o : Out) : (emit s o).draws = s.draws := rfl
@[simp] theorem State.emit_out (s : State) (o : Out) : (emit s o).out = s.out ++ [o] := rfl
@[simp] theorem State.emit_time (s : State) (o : Out) : (emit s o).time = s.time := rfl
@[simp] theorem State.emit_ptpLock (s : State) (o : Out) : (emit s o).ptpLock = s.ptpLock := rfl
@[simp] theorem State.emit_regs (s : State) (o : Out) : (emit s o).regs = s.regs := rfl
@[simp] theorem State.emit_fns (s : State) (o : Out) : (emit s o).fns = s.fns := rfl
@[simp] theorem State.emit_cores (s : State) (o : Out) : (emit s o).cores = s.cores := rfl
@[simp] theorem State.emit_routers (s : State) (o : Out) : (emit s o).routers = s.routers := rfl
@[simp] theorem State.emit_ident (s : State) (o : Out) : (emit s o).ident = s.ident := rfl
@[simp] theorem State.emit_transit (s : State) (o : Out) : (emit s o).transit = s.transit := rfl
@[simp] theorem State.emit_lostRouters (s : State) (o : Out) : (emit s o).lostRouters = s.lostRouters := rfl
@[simp] theorem State.emit_acks (s : State) (o : Out) : (emit s o).acks = s.acks := rfl
@[simp] theorem State.emit_goodRows (s : State) (o : Out) : (emit s o).goodRows = s.goodRows := rfl
@[simp] theorem State.emit_gridRows (s : State) (o : Out) : (emit s o).gridRows = s.gridRows := rfl
@[simp] theorem State.emit_grade (s : State) (o : Out) : (emit s o).grade = s.grade := rfl
@[simp] theorem State.emit_retired (s : State) (o : Out) : (emit s o).retired = s.retired := rfl
@[simp] theorem State.emit_chimes (s : State) (o : Out) : (emit s o).chimes = s.chimes := rfl
@[simp] theorem State.emit_chimeTime (s : State) (o : Out) : (emit s o).chimeTime = s.chimeTime := rfl
@[simp] theorem State.emit_pairs (s : State) (o : Out) : (emit s o).pairs = s.pairs := rfl
@[simp] theorem State.emit_watches (s : State) (o : Out) : (emit s o).watches = s.watches := rfl
@[simp] theorem State.emit_lanes (s : State) (o : Out) : (emit s o).lanes = s.lanes := rfl
@[simp] theorem State.emit_slices (s : State) (o : Out) : (emit s o).slices = s.slices := rfl
@[simp] theorem State.emit_tiers (s : State) (o : Out) : (emit s o).tiers = s.tiers := rfl
@[simp] theorem State.emit_wst (s : State) (o : Out) : (emit s o).wst = s.wst := rfl
@[simp] theorem State.emit_streams (s : State) (o : Out) : (emit s o).streams = s.streams := rfl
@[simp] theorem State.emit_engines (s : State) (o : Out) : (emit s o).engines = s.engines := rfl
@[simp] theorem State.emit_engRoutes (s : State) (o : Out) : (emit s o).engRoutes = s.engRoutes := rfl
@[simp] theorem State.emit_ports (s : State) (o : Out) : (emit s o).ports = s.ports := rfl
@[simp] theorem State.emit_chains (s : State) (o : Out) : (emit s o).chains = s.chains := rfl
@[simp] theorem State.emit_groups (s : State) (o : Out) : (emit s o).groups = s.groups := rfl
@[simp] theorem State.emit_strikeSeq (s : State) (o : Out) : (emit s o).strikeSeq = s.strikeSeq := rfl
@[simp] theorem State.emit_hqs (s : State) (o : Out) : (emit s o).hqs = s.hqs := rfl
@[simp] theorem State.emit_parts (s : State) (o : Out) : (emit s o).parts = s.parts := rfl
@[simp] theorem State.emit_partCmd (s : State) (o : Out) : (emit s o).partCmd = s.partCmd := rfl
@[simp] theorem State.emit_rings (s : State) (o : Out) : (emit s o).rings = s.rings := rfl
@[simp] theorem State.emit_recent (s : State) (o : Out) : (emit s o).recent = s.recent := rfl
@[simp] theorem State.emit_incarnation (s : State) (o : Out) : (emit s o).incarnation = s.incarnation := rfl
@[simp] theorem State.emit_sessions (s : State) (o : Out) : (emit s o).sessions = s.sessions := rfl
@[simp] theorem State.emit_defects (s : State) (o : Out) : (emit s o).defects = s.defects := rfl
@[simp] theorem State.emit_baseline (s : State) (o : Out) : (emit s o).baseline = s.baseline := rfl
@[simp] theorem State.emit_power (s : State) (o : Out) : (emit s o).power = s.power := rfl
@[simp] theorem State.emit_tamb (s : State) (o : Out) : (emit s o).tamb = s.tamb := rfl
@[simp] theorem State.emit_tests (s : State) (o : Out) : (emit s o).tests = s.tests := rfl
@[simp] theorem State.emit_testMs (s : State) (o : Out) : (emit s o).testMs = s.testMs := rfl
@[simp] theorem State.emit_testDone (s : State) (o : Out) : (emit s o).testDone = s.testDone := rfl
@[simp] theorem State.emit_lc (s : State) (o : Out) : (emit s o).lc = s.lc := rfl
@[simp] theorem State.emit_sec (s : State) (o : Out) : (emit s o).sec = s.sec := rfl
@[simp] theorem State.emit_hw (s : State) (o : Out) : (emit s o).hw = s.hw := rfl
@[simp] theorem State.emit_quiet (s : State) (o : Out) : (emit s o).quiet = s.quiet := rfl

/-! ## regSet -/

@[simp] theorem State.regSet_pending (s : State) (fn idx off : Nat) (w : Word) : (regSet s fn idx off w).pending = s.pending := rfl
@[simp] theorem State.regSet_draws (s : State) (fn idx off : Nat) (w : Word) : (regSet s fn idx off w).draws = s.draws := rfl
@[simp] theorem State.regSet_out (s : State) (fn idx off : Nat) (w : Word) : (regSet s fn idx off w).out = s.out := rfl
@[simp] theorem State.regSet_time (s : State) (fn idx off : Nat) (w : Word) : (regSet s fn idx off w).time = s.time := rfl
@[simp] theorem State.regSet_ptpLock (s : State) (fn idx off : Nat) (w : Word) : (regSet s fn idx off w).ptpLock = s.ptpLock := rfl
@[simp] theorem State.regSet_regs (s : State) (fn idx off : Nat) (w : Word) :
    (regSet s fn idx off w).regs = Tab.set (regSpec off).reset s.regs (regKey fn idx off) w := rfl
@[simp] theorem State.regSet_fns (s : State) (fn idx off : Nat) (w : Word) : (regSet s fn idx off w).fns = s.fns := rfl
@[simp] theorem State.regSet_cores (s : State) (fn idx off : Nat) (w : Word) : (regSet s fn idx off w).cores = s.cores := rfl
@[simp] theorem State.regSet_routers (s : State) (fn idx off : Nat) (w : Word) : (regSet s fn idx off w).routers = s.routers := rfl
@[simp] theorem State.regSet_ident (s : State) (fn idx off : Nat) (w : Word) : (regSet s fn idx off w).ident = s.ident := rfl
@[simp] theorem State.regSet_transit (s : State) (fn idx off : Nat) (w : Word) : (regSet s fn idx off w).transit = s.transit := rfl
@[simp] theorem State.regSet_lostRouters (s : State) (fn idx off : Nat) (w : Word) : (regSet s fn idx off w).lostRouters = s.lostRouters := rfl
@[simp] theorem State.regSet_acks (s : State) (fn idx off : Nat) (w : Word) : (regSet s fn idx off w).acks = s.acks := rfl
@[simp] theorem State.regSet_goodRows (s : State) (fn idx off : Nat) (w : Word) : (regSet s fn idx off w).goodRows = s.goodRows := rfl
@[simp] theorem State.regSet_gridRows (s : State) (fn idx off : Nat) (w : Word) : (regSet s fn idx off w).gridRows = s.gridRows := rfl
@[simp] theorem State.regSet_grade (s : State) (fn idx off : Nat) (w : Word) : (regSet s fn idx off w).grade = s.grade := rfl
@[simp] theorem State.regSet_retired (s : State) (fn idx off : Nat) (w : Word) : (regSet s fn idx off w).retired = s.retired := rfl
@[simp] theorem State.regSet_chimes (s : State) (fn idx off : Nat) (w : Word) : (regSet s fn idx off w).chimes = s.chimes := rfl
@[simp] theorem State.regSet_chimeTime (s : State) (fn idx off : Nat) (w : Word) : (regSet s fn idx off w).chimeTime = s.chimeTime := rfl
@[simp] theorem State.regSet_pairs (s : State) (fn idx off : Nat) (w : Word) : (regSet s fn idx off w).pairs = s.pairs := rfl
@[simp] theorem State.regSet_watches (s : State) (fn idx off : Nat) (w : Word) : (regSet s fn idx off w).watches = s.watches := rfl
@[simp] theorem State.regSet_lanes (s : State) (fn idx off : Nat) (w : Word) : (regSet s fn idx off w).lanes = s.lanes := rfl
@[simp] theorem State.regSet_slices (s : State) (fn idx off : Nat) (w : Word) : (regSet s fn idx off w).slices = s.slices := rfl
@[simp] theorem State.regSet_tiers (s : State) (fn idx off : Nat) (w : Word) : (regSet s fn idx off w).tiers = s.tiers := rfl
@[simp] theorem State.regSet_wst (s : State) (fn idx off : Nat) (w : Word) : (regSet s fn idx off w).wst = s.wst := rfl
@[simp] theorem State.regSet_streams (s : State) (fn idx off : Nat) (w : Word) : (regSet s fn idx off w).streams = s.streams := rfl
@[simp] theorem State.regSet_engines (s : State) (fn idx off : Nat) (w : Word) : (regSet s fn idx off w).engines = s.engines := rfl
@[simp] theorem State.regSet_engRoutes (s : State) (fn idx off : Nat) (w : Word) : (regSet s fn idx off w).engRoutes = s.engRoutes := rfl
@[simp] theorem State.regSet_ports (s : State) (fn idx off : Nat) (w : Word) : (regSet s fn idx off w).ports = s.ports := rfl
@[simp] theorem State.regSet_chains (s : State) (fn idx off : Nat) (w : Word) : (regSet s fn idx off w).chains = s.chains := rfl
@[simp] theorem State.regSet_groups (s : State) (fn idx off : Nat) (w : Word) : (regSet s fn idx off w).groups = s.groups := rfl
@[simp] theorem State.regSet_strikeSeq (s : State) (fn idx off : Nat) (w : Word) : (regSet s fn idx off w).strikeSeq = s.strikeSeq := rfl
@[simp] theorem State.regSet_hqs (s : State) (fn idx off : Nat) (w : Word) : (regSet s fn idx off w).hqs = s.hqs := rfl
@[simp] theorem State.regSet_parts (s : State) (fn idx off : Nat) (w : Word) : (regSet s fn idx off w).parts = s.parts := rfl
@[simp] theorem State.regSet_partCmd (s : State) (fn idx off : Nat) (w : Word) : (regSet s fn idx off w).partCmd = s.partCmd := rfl
@[simp] theorem State.regSet_rings (s : State) (fn idx off : Nat) (w : Word) : (regSet s fn idx off w).rings = s.rings := rfl
@[simp] theorem State.regSet_recent (s : State) (fn idx off : Nat) (w : Word) : (regSet s fn idx off w).recent = s.recent := rfl
@[simp] theorem State.regSet_sessions (s : State) (fn idx off : Nat) (w : Word) :
    (regSet s fn idx off w).sessions = s.sessions := rfl
@[simp] theorem State.regSet_incarnation (s : State) (fn idx off : Nat) (w : Word) :
    (regSet s fn idx off w).incarnation = s.incarnation := rfl
@[simp] theorem State.regSet_defects (s : State) (fn idx off : Nat) (w : Word) : (regSet s fn idx off w).defects = s.defects := rfl
@[simp] theorem State.regSet_baseline (s : State) (fn idx off : Nat) (w : Word) : (regSet s fn idx off w).baseline = s.baseline := rfl
@[simp] theorem State.regSet_power (s : State) (fn idx off : Nat) (w : Word) : (regSet s fn idx off w).power = s.power := rfl
@[simp] theorem State.regSet_tamb (s : State) (fn idx off : Nat) (w : Word) : (regSet s fn idx off w).tamb = s.tamb := rfl
@[simp] theorem State.regSet_tests (s : State) (fn idx off : Nat) (w : Word) : (regSet s fn idx off w).tests = s.tests := rfl
@[simp] theorem State.regSet_testMs (s : State) (fn idx off : Nat) (w : Word) : (regSet s fn idx off w).testMs = s.testMs := rfl
@[simp] theorem State.regSet_testDone (s : State) (fn idx off : Nat) (w : Word) : (regSet s fn idx off w).testDone = s.testDone := rfl
@[simp] theorem State.regSet_lc (s : State) (fn idx off : Nat) (w : Word) : (regSet s fn idx off w).lc = s.lc := rfl
@[simp] theorem State.regSet_sec (s : State) (fn idx off : Nat) (w : Word) : (regSet s fn idx off w).sec = s.sec := rfl
@[simp] theorem State.regSet_hw (s : State) (fn idx off : Nat) (w : Word) : (regSet s fn idx off w).hw = s.hw := rfl
@[simp] theorem State.regSet_quiet (s : State) (fn idx off : Nat) (w : Word) : (regSet s fn idx off w).quiet = s.quiet := rfl

/-! ## State.setCore -/

@[simp] theorem State.setCore_pending (s : State) (c : CoreId) (k : Core) : (s.setCore c k).pending = s.pending := rfl
@[simp] theorem State.setCore_draws (s : State) (c : CoreId) (k : Core) : (s.setCore c k).draws = s.draws := rfl
@[simp] theorem State.setCore_out (s : State) (c : CoreId) (k : Core) : (s.setCore c k).out = s.out := rfl
@[simp] theorem State.setCore_time (s : State) (c : CoreId) (k : Core) : (s.setCore c k).time = s.time := rfl
@[simp] theorem State.setCore_ptpLock (s : State) (c : CoreId) (k : Core) : (s.setCore c k).ptpLock = s.ptpLock := rfl
@[simp] theorem State.setCore_regs (s : State) (c : CoreId) (k : Core) : (s.setCore c k).regs = s.regs := rfl
@[simp] theorem State.setCore_fns (s : State) (c : CoreId) (k : Core) : (s.setCore c k).fns = s.fns := rfl
@[simp] theorem State.setCore_cores (s : State) (c : CoreId) (k : Core) : (s.setCore c k).cores = Tab.put s.cores (coreKey c) k := rfl
@[simp] theorem State.setCore_routers (s : State) (c : CoreId) (k : Core) : (s.setCore c k).routers = s.routers := rfl
@[simp] theorem State.setCore_ident (s : State) (c : CoreId) (k : Core) : (s.setCore c k).ident = s.ident := rfl
@[simp] theorem State.setCore_transit (s : State) (c : CoreId) (k : Core) : (s.setCore c k).transit = s.transit := rfl
@[simp] theorem State.setCore_lostRouters (s : State) (c : CoreId) (k : Core) : (s.setCore c k).lostRouters = s.lostRouters := rfl
@[simp] theorem State.setCore_acks (s : State) (c : CoreId) (k : Core) : (s.setCore c k).acks = s.acks := rfl
@[simp] theorem State.setCore_goodRows (s : State) (c : CoreId) (k : Core) : (s.setCore c k).goodRows = s.goodRows := rfl
@[simp] theorem State.setCore_gridRows (s : State) (c : CoreId) (k : Core) : (s.setCore c k).gridRows = s.gridRows := rfl
@[simp] theorem State.setCore_grade (s : State) (c : CoreId) (k : Core) : (s.setCore c k).grade = s.grade := rfl
@[simp] theorem State.setCore_retired (s : State) (c : CoreId) (k : Core) : (s.setCore c k).retired = s.retired := rfl
@[simp] theorem State.setCore_chimes (s : State) (c : CoreId) (k : Core) : (s.setCore c k).chimes = s.chimes := rfl
@[simp] theorem State.setCore_chimeTime (s : State) (c : CoreId) (k : Core) : (s.setCore c k).chimeTime = s.chimeTime := rfl
@[simp] theorem State.setCore_pairs (s : State) (c : CoreId) (k : Core) : (s.setCore c k).pairs = s.pairs := rfl
@[simp] theorem State.setCore_watches (s : State) (c : CoreId) (k : Core) : (s.setCore c k).watches = s.watches := rfl
@[simp] theorem State.setCore_lanes (s : State) (c : CoreId) (k : Core) : (s.setCore c k).lanes = s.lanes := rfl
@[simp] theorem State.setCore_slices (s : State) (c : CoreId) (k : Core) : (s.setCore c k).slices = s.slices := rfl
@[simp] theorem State.setCore_tiers (s : State) (c : CoreId) (k : Core) : (s.setCore c k).tiers = s.tiers := rfl
@[simp] theorem State.setCore_wst (s : State) (c : CoreId) (k : Core) : (s.setCore c k).wst = s.wst := rfl
@[simp] theorem State.setCore_streams (s : State) (c : CoreId) (k : Core) : (s.setCore c k).streams = s.streams := rfl
@[simp] theorem State.setCore_engines (s : State) (c : CoreId) (k : Core) : (s.setCore c k).engines = s.engines := rfl
@[simp] theorem State.setCore_engRoutes (s : State) (c : CoreId) (k : Core) : (s.setCore c k).engRoutes = s.engRoutes := rfl
@[simp] theorem State.setCore_ports (s : State) (c : CoreId) (k : Core) : (s.setCore c k).ports = s.ports := rfl
@[simp] theorem State.setCore_chains (s : State) (c : CoreId) (k : Core) : (s.setCore c k).chains = s.chains := rfl
@[simp] theorem State.setCore_groups (s : State) (c : CoreId) (k : Core) : (s.setCore c k).groups = s.groups := rfl
@[simp] theorem State.setCore_strikeSeq (s : State) (c : CoreId) (k : Core) : (s.setCore c k).strikeSeq = s.strikeSeq := rfl
@[simp] theorem State.setCore_hqs (s : State) (c : CoreId) (k : Core) : (s.setCore c k).hqs = s.hqs := rfl
@[simp] theorem State.setCore_parts (s : State) (c : CoreId) (k : Core) : (s.setCore c k).parts = s.parts := rfl
@[simp] theorem State.setCore_partCmd (s : State) (c : CoreId) (k : Core) : (s.setCore c k).partCmd = s.partCmd := rfl
@[simp] theorem State.setCore_rings (s : State) (c : CoreId) (k : Core) : (s.setCore c k).rings = s.rings := rfl
@[simp] theorem State.setCore_recent (s : State) (c : CoreId) (k : Core) : (s.setCore c k).recent = s.recent := rfl
@[simp] theorem State.setCore_incarnation (s : State) (c : CoreId) (k : Core) : (s.setCore c k).incarnation = s.incarnation := rfl
@[simp] theorem State.setCore_sessions (s : State) (c : CoreId) (k : Core) : (s.setCore c k).sessions = s.sessions := rfl
@[simp] theorem State.setCore_defects (s : State) (c : CoreId) (k : Core) : (s.setCore c k).defects = s.defects := rfl
@[simp] theorem State.setCore_baseline (s : State) (c : CoreId) (k : Core) : (s.setCore c k).baseline = s.baseline := rfl
@[simp] theorem State.setCore_power (s : State) (c : CoreId) (k : Core) : (s.setCore c k).power = s.power := rfl
@[simp] theorem State.setCore_tamb (s : State) (c : CoreId) (k : Core) : (s.setCore c k).tamb = s.tamb := rfl
@[simp] theorem State.setCore_tests (s : State) (c : CoreId) (k : Core) : (s.setCore c k).tests = s.tests := rfl
@[simp] theorem State.setCore_testMs (s : State) (c : CoreId) (k : Core) : (s.setCore c k).testMs = s.testMs := rfl
@[simp] theorem State.setCore_testDone (s : State) (c : CoreId) (k : Core) : (s.setCore c k).testDone = s.testDone := rfl
@[simp] theorem State.setCore_lc (s : State) (c : CoreId) (k : Core) : (s.setCore c k).lc = s.lc := rfl
@[simp] theorem State.setCore_sec (s : State) (c : CoreId) (k : Core) : (s.setCore c k).sec = s.sec := rfl
@[simp] theorem State.setCore_hw (s : State) (c : CoreId) (k : Core) : (s.setCore c k).hw = s.hw := rfl
@[simp] theorem State.setCore_quiet (s : State) (c : CoreId) (k : Core) : (s.setCore c k).quiet = s.quiet := rfl

/-! ## State.setRouter -/

@[simp] theorem State.setRouter_pending (s : State) (n : Nat) (r : Router) : (s.setRouter n r).pending = s.pending := rfl
@[simp] theorem State.setRouter_draws (s : State) (n : Nat) (r : Router) : (s.setRouter n r).draws = s.draws := rfl
@[simp] theorem State.setRouter_out (s : State) (n : Nat) (r : Router) : (s.setRouter n r).out = s.out := rfl
@[simp] theorem State.setRouter_time (s : State) (n : Nat) (r : Router) : (s.setRouter n r).time = s.time := rfl
@[simp] theorem State.setRouter_ptpLock (s : State) (n : Nat) (r : Router) : (s.setRouter n r).ptpLock = s.ptpLock := rfl
@[simp] theorem State.setRouter_regs (s : State) (n : Nat) (r : Router) : (s.setRouter n r).regs = s.regs := rfl
@[simp] theorem State.setRouter_fns (s : State) (n : Nat) (r : Router) : (s.setRouter n r).fns = s.fns := rfl
@[simp] theorem State.setRouter_cores (s : State) (n : Nat) (r : Router) : (s.setRouter n r).cores = s.cores := rfl
@[simp] theorem State.setRouter_routers (s : State) (n : Nat) (r : Router) : (s.setRouter n r).routers = Tab.put s.routers n r := rfl
@[simp] theorem State.setRouter_ident (s : State) (n : Nat) (r : Router) : (s.setRouter n r).ident = s.ident := rfl
@[simp] theorem State.setRouter_transit (s : State) (n : Nat) (r : Router) : (s.setRouter n r).transit = s.transit := rfl
@[simp] theorem State.setRouter_lostRouters (s : State) (n : Nat) (r : Router) : (s.setRouter n r).lostRouters = s.lostRouters := rfl
@[simp] theorem State.setRouter_acks (s : State) (n : Nat) (r : Router) : (s.setRouter n r).acks = s.acks := rfl
@[simp] theorem State.setRouter_goodRows (s : State) (n : Nat) (r : Router) : (s.setRouter n r).goodRows = s.goodRows := rfl
@[simp] theorem State.setRouter_gridRows (s : State) (n : Nat) (r : Router) : (s.setRouter n r).gridRows = s.gridRows := rfl
@[simp] theorem State.setRouter_grade (s : State) (n : Nat) (r : Router) : (s.setRouter n r).grade = s.grade := rfl
@[simp] theorem State.setRouter_retired (s : State) (n : Nat) (r : Router) : (s.setRouter n r).retired = s.retired := rfl
@[simp] theorem State.setRouter_chimes (s : State) (n : Nat) (r : Router) : (s.setRouter n r).chimes = s.chimes := rfl
@[simp] theorem State.setRouter_chimeTime (s : State) (n : Nat) (r : Router) : (s.setRouter n r).chimeTime = s.chimeTime := rfl
@[simp] theorem State.setRouter_pairs (s : State) (n : Nat) (r : Router) : (s.setRouter n r).pairs = s.pairs := rfl
@[simp] theorem State.setRouter_watches (s : State) (n : Nat) (r : Router) : (s.setRouter n r).watches = s.watches := rfl
@[simp] theorem State.setRouter_lanes (s : State) (n : Nat) (r : Router) : (s.setRouter n r).lanes = s.lanes := rfl
@[simp] theorem State.setRouter_slices (s : State) (n : Nat) (r : Router) : (s.setRouter n r).slices = s.slices := rfl
@[simp] theorem State.setRouter_tiers (s : State) (n : Nat) (r : Router) : (s.setRouter n r).tiers = s.tiers := rfl
@[simp] theorem State.setRouter_wst (s : State) (n : Nat) (r : Router) : (s.setRouter n r).wst = s.wst := rfl
@[simp] theorem State.setRouter_streams (s : State) (n : Nat) (r : Router) : (s.setRouter n r).streams = s.streams := rfl
@[simp] theorem State.setRouter_engines (s : State) (n : Nat) (r : Router) : (s.setRouter n r).engines = s.engines := rfl
@[simp] theorem State.setRouter_engRoutes (s : State) (n : Nat) (r : Router) : (s.setRouter n r).engRoutes = s.engRoutes := rfl
@[simp] theorem State.setRouter_ports (s : State) (n : Nat) (r : Router) : (s.setRouter n r).ports = s.ports := rfl
@[simp] theorem State.setRouter_chains (s : State) (n : Nat) (r : Router) : (s.setRouter n r).chains = s.chains := rfl
@[simp] theorem State.setRouter_groups (s : State) (n : Nat) (r : Router) : (s.setRouter n r).groups = s.groups := rfl
@[simp] theorem State.setRouter_strikeSeq (s : State) (n : Nat) (r : Router) : (s.setRouter n r).strikeSeq = s.strikeSeq := rfl
@[simp] theorem State.setRouter_hqs (s : State) (n : Nat) (r : Router) : (s.setRouter n r).hqs = s.hqs := rfl
@[simp] theorem State.setRouter_parts (s : State) (n : Nat) (r : Router) : (s.setRouter n r).parts = s.parts := rfl
@[simp] theorem State.setRouter_partCmd (s : State) (n : Nat) (r : Router) : (s.setRouter n r).partCmd = s.partCmd := rfl
@[simp] theorem State.setRouter_rings (s : State) (n : Nat) (r : Router) : (s.setRouter n r).rings = s.rings := rfl
@[simp] theorem State.setRouter_recent (s : State) (n : Nat) (r : Router) : (s.setRouter n r).recent = s.recent := rfl
@[simp] theorem State.setRouter_incarnation (s : State) (n : Nat) (r : Router) : (s.setRouter n r).incarnation = s.incarnation := rfl
@[simp] theorem State.setRouter_sessions (s : State) (n : Nat) (r : Router) : (s.setRouter n r).sessions = s.sessions := rfl
@[simp] theorem State.setRouter_defects (s : State) (n : Nat) (r : Router) : (s.setRouter n r).defects = s.defects := rfl
@[simp] theorem State.setRouter_baseline (s : State) (n : Nat) (r : Router) : (s.setRouter n r).baseline = s.baseline := rfl
@[simp] theorem State.setRouter_power (s : State) (n : Nat) (r : Router) : (s.setRouter n r).power = s.power := rfl
@[simp] theorem State.setRouter_tamb (s : State) (n : Nat) (r : Router) : (s.setRouter n r).tamb = s.tamb := rfl
@[simp] theorem State.setRouter_tests (s : State) (n : Nat) (r : Router) : (s.setRouter n r).tests = s.tests := rfl
@[simp] theorem State.setRouter_testMs (s : State) (n : Nat) (r : Router) : (s.setRouter n r).testMs = s.testMs := rfl
@[simp] theorem State.setRouter_testDone (s : State) (n : Nat) (r : Router) : (s.setRouter n r).testDone = s.testDone := rfl
@[simp] theorem State.setRouter_lc (s : State) (n : Nat) (r : Router) : (s.setRouter n r).lc = s.lc := rfl
@[simp] theorem State.setRouter_sec (s : State) (n : Nat) (r : Router) : (s.setRouter n r).sec = s.sec := rfl
@[simp] theorem State.setRouter_hw (s : State) (n : Nat) (r : Router) : (s.setRouter n r).hw = s.hw := rfl
@[simp] theorem State.setRouter_quiet (s : State) (n : Nat) (r : Router) : (s.setRouter n r).quiet = s.quiet := rfl

/-! ## State.setRegion -/

@[simp] theorem State.setRegion_pending (s : State) (r : Nat) (x : PRegion) : (s.setRegion r x).pending = s.pending := rfl
@[simp] theorem State.setRegion_draws (s : State) (r : Nat) (x : PRegion) : (s.setRegion r x).draws = s.draws := rfl
@[simp] theorem State.setRegion_out (s : State) (r : Nat) (x : PRegion) : (s.setRegion r x).out = s.out := rfl
@[simp] theorem State.setRegion_time (s : State) (r : Nat) (x : PRegion) : (s.setRegion r x).time = s.time := rfl
@[simp] theorem State.setRegion_ptpLock (s : State) (r : Nat) (x : PRegion) : (s.setRegion r x).ptpLock = s.ptpLock := rfl
@[simp] theorem State.setRegion_regs (s : State) (r : Nat) (x : PRegion) : (s.setRegion r x).regs = s.regs := rfl
@[simp] theorem State.setRegion_fns (s : State) (r : Nat) (x : PRegion) : (s.setRegion r x).fns = s.fns := rfl
@[simp] theorem State.setRegion_cores (s : State) (r : Nat) (x : PRegion) : (s.setRegion r x).cores = s.cores := rfl
@[simp] theorem State.setRegion_routers (s : State) (r : Nat) (x : PRegion) : (s.setRegion r x).routers = s.routers := rfl
@[simp] theorem State.setRegion_ident (s : State) (r : Nat) (x : PRegion) : (s.setRegion r x).ident = s.ident := rfl
@[simp] theorem State.setRegion_transit (s : State) (r : Nat) (x : PRegion) : (s.setRegion r x).transit = s.transit := rfl
@[simp] theorem State.setRegion_lostRouters (s : State) (r : Nat) (x : PRegion) : (s.setRegion r x).lostRouters = s.lostRouters := rfl
@[simp] theorem State.setRegion_acks (s : State) (r : Nat) (x : PRegion) : (s.setRegion r x).acks = s.acks := rfl
@[simp] theorem State.setRegion_goodRows (s : State) (r : Nat) (x : PRegion) : (s.setRegion r x).goodRows = s.goodRows := rfl
@[simp] theorem State.setRegion_gridRows (s : State) (r : Nat) (x : PRegion) : (s.setRegion r x).gridRows = s.gridRows := rfl
@[simp] theorem State.setRegion_grade (s : State) (r : Nat) (x : PRegion) : (s.setRegion r x).grade = s.grade := rfl
@[simp] theorem State.setRegion_retired (s : State) (r : Nat) (x : PRegion) : (s.setRegion r x).retired = s.retired := rfl
@[simp] theorem State.setRegion_chimes (s : State) (r : Nat) (x : PRegion) : (s.setRegion r x).chimes = s.chimes := rfl
@[simp] theorem State.setRegion_chimeTime (s : State) (r : Nat) (x : PRegion) : (s.setRegion r x).chimeTime = s.chimeTime := rfl
@[simp] theorem State.setRegion_pairs (s : State) (r : Nat) (x : PRegion) : (s.setRegion r x).pairs = s.pairs := rfl
@[simp] theorem State.setRegion_watches (s : State) (r : Nat) (x : PRegion) : (s.setRegion r x).watches = s.watches := rfl
@[simp] theorem State.setRegion_lanes (s : State) (r : Nat) (x : PRegion) : (s.setRegion r x).lanes = s.lanes := rfl
@[simp] theorem State.setRegion_slices (s : State) (r : Nat) (x : PRegion) : (s.setRegion r x).slices = s.slices := rfl
@[simp] theorem State.setRegion_tiers (s : State) (r : Nat) (x : PRegion) : (s.setRegion r x).tiers = s.tiers := rfl
@[simp] theorem State.setRegion_wst (s : State) (r : Nat) (x : PRegion) : (s.setRegion r x).wst = s.wst := rfl
@[simp] theorem State.setRegion_streams (s : State) (r : Nat) (x : PRegion) : (s.setRegion r x).streams = s.streams := rfl
@[simp] theorem State.setRegion_engines (s : State) (r : Nat) (x : PRegion) : (s.setRegion r x).engines = s.engines := rfl
@[simp] theorem State.setRegion_engRoutes (s : State) (r : Nat) (x : PRegion) : (s.setRegion r x).engRoutes = s.engRoutes := rfl
@[simp] theorem State.setRegion_ports (s : State) (r : Nat) (x : PRegion) : (s.setRegion r x).ports = s.ports := rfl
@[simp] theorem State.setRegion_chains (s : State) (r : Nat) (x : PRegion) : (s.setRegion r x).chains = s.chains := rfl
@[simp] theorem State.setRegion_groups (s : State) (r : Nat) (x : PRegion) : (s.setRegion r x).groups = s.groups := rfl
@[simp] theorem State.setRegion_strikeSeq (s : State) (r : Nat) (x : PRegion) : (s.setRegion r x).strikeSeq = s.strikeSeq := rfl
@[simp] theorem State.setRegion_hqs (s : State) (r : Nat) (x : PRegion) : (s.setRegion r x).hqs = s.hqs := rfl
@[simp] theorem State.setRegion_parts (s : State) (r : Nat) (x : PRegion) : (s.setRegion r x).parts = s.parts := rfl
@[simp] theorem State.setRegion_partCmd (s : State) (r : Nat) (x : PRegion) : (s.setRegion r x).partCmd = s.partCmd := rfl
@[simp] theorem State.setRegion_rings (s : State) (r : Nat) (x : PRegion) : (s.setRegion r x).rings = s.rings := rfl
@[simp] theorem State.setRegion_recent (s : State) (r : Nat) (x : PRegion) : (s.setRegion r x).recent = s.recent := rfl
@[simp] theorem State.setRegion_incarnation (s : State) (r : Nat) (x : PRegion) : (s.setRegion r x).incarnation = s.incarnation := rfl
@[simp] theorem State.setRegion_sessions (s : State) (r : Nat) (x : PRegion) : (s.setRegion r x).sessions = s.sessions := rfl
@[simp] theorem State.setRegion_defects (s : State) (r : Nat) (x : PRegion) : (s.setRegion r x).defects = s.defects := rfl
@[simp] theorem State.setRegion_baseline (s : State) (r : Nat) (x : PRegion) : (s.setRegion r x).baseline = s.baseline := rfl
@[simp] theorem State.setRegion_power (s : State) (r : Nat) (x : PRegion) :
    (s.setRegion r x).power = { s.power with regions := Tab.put s.power.regions r x } := rfl
@[simp] theorem State.setRegion_tamb (s : State) (r : Nat) (x : PRegion) : (s.setRegion r x).tamb = s.tamb := rfl
@[simp] theorem State.setRegion_tests (s : State) (r : Nat) (x : PRegion) : (s.setRegion r x).tests = s.tests := rfl
@[simp] theorem State.setRegion_testMs (s : State) (r : Nat) (x : PRegion) : (s.setRegion r x).testMs = s.testMs := rfl
@[simp] theorem State.setRegion_testDone (s : State) (r : Nat) (x : PRegion) : (s.setRegion r x).testDone = s.testDone := rfl
@[simp] theorem State.setRegion_lc (s : State) (r : Nat) (x : PRegion) : (s.setRegion r x).lc = s.lc := rfl
@[simp] theorem State.setRegion_sec (s : State) (r : Nat) (x : PRegion) : (s.setRegion r x).sec = s.sec := rfl
@[simp] theorem State.setRegion_hw (s : State) (r : Nat) (x : PRegion) : (s.setRegion r x).hw = s.hw := rfl
@[simp] theorem State.setRegion_quiet (s : State) (r : Nat) (x : PRegion) : (s.setRegion r x).quiet = s.quiet := rfl

/-! ## State.setTest -/

@[simp] theorem State.setTest_pending (s : State) (u : Nat) (t : TestU) : (s.setTest u t).pending = s.pending := rfl
@[simp] theorem State.setTest_draws (s : State) (u : Nat) (t : TestU) : (s.setTest u t).draws = s.draws := rfl
@[simp] theorem State.setTest_out (s : State) (u : Nat) (t : TestU) : (s.setTest u t).out = s.out := rfl
@[simp] theorem State.setTest_time (s : State) (u : Nat) (t : TestU) : (s.setTest u t).time = s.time := rfl
@[simp] theorem State.setTest_ptpLock (s : State) (u : Nat) (t : TestU) : (s.setTest u t).ptpLock = s.ptpLock := rfl
@[simp] theorem State.setTest_regs (s : State) (u : Nat) (t : TestU) : (s.setTest u t).regs = s.regs := rfl
@[simp] theorem State.setTest_fns (s : State) (u : Nat) (t : TestU) : (s.setTest u t).fns = s.fns := rfl
@[simp] theorem State.setTest_cores (s : State) (u : Nat) (t : TestU) : (s.setTest u t).cores = s.cores := rfl
@[simp] theorem State.setTest_routers (s : State) (u : Nat) (t : TestU) : (s.setTest u t).routers = s.routers := rfl
@[simp] theorem State.setTest_ident (s : State) (u : Nat) (t : TestU) : (s.setTest u t).ident = s.ident := rfl
@[simp] theorem State.setTest_transit (s : State) (u : Nat) (t : TestU) : (s.setTest u t).transit = s.transit := rfl
@[simp] theorem State.setTest_lostRouters (s : State) (u : Nat) (t : TestU) : (s.setTest u t).lostRouters = s.lostRouters := rfl
@[simp] theorem State.setTest_acks (s : State) (u : Nat) (t : TestU) : (s.setTest u t).acks = s.acks := rfl
@[simp] theorem State.setTest_goodRows (s : State) (u : Nat) (t : TestU) : (s.setTest u t).goodRows = s.goodRows := rfl
@[simp] theorem State.setTest_gridRows (s : State) (u : Nat) (t : TestU) : (s.setTest u t).gridRows = s.gridRows := rfl
@[simp] theorem State.setTest_grade (s : State) (u : Nat) (t : TestU) : (s.setTest u t).grade = s.grade := rfl
@[simp] theorem State.setTest_retired (s : State) (u : Nat) (t : TestU) : (s.setTest u t).retired = s.retired := rfl
@[simp] theorem State.setTest_chimes (s : State) (u : Nat) (t : TestU) : (s.setTest u t).chimes = s.chimes := rfl
@[simp] theorem State.setTest_chimeTime (s : State) (u : Nat) (t : TestU) : (s.setTest u t).chimeTime = s.chimeTime := rfl
@[simp] theorem State.setTest_pairs (s : State) (u : Nat) (t : TestU) : (s.setTest u t).pairs = s.pairs := rfl
@[simp] theorem State.setTest_watches (s : State) (u : Nat) (t : TestU) : (s.setTest u t).watches = s.watches := rfl
@[simp] theorem State.setTest_lanes (s : State) (u : Nat) (t : TestU) : (s.setTest u t).lanes = s.lanes := rfl
@[simp] theorem State.setTest_slices (s : State) (u : Nat) (t : TestU) : (s.setTest u t).slices = s.slices := rfl
@[simp] theorem State.setTest_tiers (s : State) (u : Nat) (t : TestU) : (s.setTest u t).tiers = s.tiers := rfl
@[simp] theorem State.setTest_wst (s : State) (u : Nat) (t : TestU) : (s.setTest u t).wst = s.wst := rfl
@[simp] theorem State.setTest_streams (s : State) (u : Nat) (t : TestU) : (s.setTest u t).streams = s.streams := rfl
@[simp] theorem State.setTest_engines (s : State) (u : Nat) (t : TestU) : (s.setTest u t).engines = s.engines := rfl
@[simp] theorem State.setTest_engRoutes (s : State) (u : Nat) (t : TestU) : (s.setTest u t).engRoutes = s.engRoutes := rfl
@[simp] theorem State.setTest_ports (s : State) (u : Nat) (t : TestU) : (s.setTest u t).ports = s.ports := rfl
@[simp] theorem State.setTest_chains (s : State) (u : Nat) (t : TestU) : (s.setTest u t).chains = s.chains := rfl
@[simp] theorem State.setTest_groups (s : State) (u : Nat) (t : TestU) : (s.setTest u t).groups = s.groups := rfl
@[simp] theorem State.setTest_strikeSeq (s : State) (u : Nat) (t : TestU) : (s.setTest u t).strikeSeq = s.strikeSeq := rfl
@[simp] theorem State.setTest_hqs (s : State) (u : Nat) (t : TestU) : (s.setTest u t).hqs = s.hqs := rfl
@[simp] theorem State.setTest_parts (s : State) (u : Nat) (t : TestU) : (s.setTest u t).parts = s.parts := rfl
@[simp] theorem State.setTest_partCmd (s : State) (u : Nat) (t : TestU) : (s.setTest u t).partCmd = s.partCmd := rfl
@[simp] theorem State.setTest_rings (s : State) (u : Nat) (t : TestU) : (s.setTest u t).rings = s.rings := rfl
@[simp] theorem State.setTest_recent (s : State) (u : Nat) (t : TestU) : (s.setTest u t).recent = s.recent := rfl
@[simp] theorem State.setTest_incarnation (s : State) (u : Nat) (t : TestU) : (s.setTest u t).incarnation = s.incarnation := rfl
@[simp] theorem State.setTest_sessions (s : State) (u : Nat) (t : TestU) : (s.setTest u t).sessions = s.sessions := rfl
@[simp] theorem State.setTest_defects (s : State) (u : Nat) (t : TestU) : (s.setTest u t).defects = s.defects := rfl
@[simp] theorem State.setTest_baseline (s : State) (u : Nat) (t : TestU) : (s.setTest u t).baseline = s.baseline := rfl
@[simp] theorem State.setTest_power (s : State) (u : Nat) (t : TestU) : (s.setTest u t).power = s.power := rfl
@[simp] theorem State.setTest_tamb (s : State) (u : Nat) (t : TestU) : (s.setTest u t).tamb = s.tamb := rfl
@[simp] theorem State.setTest_tests (s : State) (u : Nat) (t : TestU) : (s.setTest u t).tests = Tab.put s.tests u t := rfl
@[simp] theorem State.setTest_testMs (s : State) (u : Nat) (t : TestU) : (s.setTest u t).testMs = s.testMs := rfl
@[simp] theorem State.setTest_testDone (s : State) (u : Nat) (t : TestU) : (s.setTest u t).testDone = s.testDone := rfl
@[simp] theorem State.setTest_lc (s : State) (u : Nat) (t : TestU) : (s.setTest u t).lc = s.lc := rfl
@[simp] theorem State.setTest_sec (s : State) (u : Nat) (t : TestU) : (s.setTest u t).sec = s.sec := rfl
@[simp] theorem State.setTest_hw (s : State) (u : Nat) (t : TestU) : (s.setTest u t).hw = s.hw := rfl
@[simp] theorem State.setTest_quiet (s : State) (u : Nat) (t : TestU) : (s.setTest u t).quiet = s.quiet := rfl

/-! ## State.setPart -/

@[simp] theorem State.setPart_pending (s : State) (p : Nat) (q : Part) : (s.setPart p q).pending = s.pending := rfl
@[simp] theorem State.setPart_draws (s : State) (p : Nat) (q : Part) : (s.setPart p q).draws = s.draws := rfl
@[simp] theorem State.setPart_out (s : State) (p : Nat) (q : Part) : (s.setPart p q).out = s.out := rfl
@[simp] theorem State.setPart_time (s : State) (p : Nat) (q : Part) : (s.setPart p q).time = s.time := rfl
@[simp] theorem State.setPart_ptpLock (s : State) (p : Nat) (q : Part) : (s.setPart p q).ptpLock = s.ptpLock := rfl
@[simp] theorem State.setPart_regs (s : State) (p : Nat) (q : Part) : (s.setPart p q).regs = s.regs := rfl
@[simp] theorem State.setPart_fns (s : State) (p : Nat) (q : Part) : (s.setPart p q).fns = s.fns := rfl
@[simp] theorem State.setPart_cores (s : State) (p : Nat) (q : Part) : (s.setPart p q).cores = s.cores := rfl
@[simp] theorem State.setPart_routers (s : State) (p : Nat) (q : Part) : (s.setPart p q).routers = s.routers := rfl
@[simp] theorem State.setPart_ident (s : State) (p : Nat) (q : Part) : (s.setPart p q).ident = s.ident := rfl
@[simp] theorem State.setPart_transit (s : State) (p : Nat) (q : Part) : (s.setPart p q).transit = s.transit := rfl
@[simp] theorem State.setPart_lostRouters (s : State) (p : Nat) (q : Part) : (s.setPart p q).lostRouters = s.lostRouters := rfl
@[simp] theorem State.setPart_acks (s : State) (p : Nat) (q : Part) : (s.setPart p q).acks = s.acks := rfl
@[simp] theorem State.setPart_goodRows (s : State) (p : Nat) (q : Part) : (s.setPart p q).goodRows = s.goodRows := rfl
@[simp] theorem State.setPart_gridRows (s : State) (p : Nat) (q : Part) : (s.setPart p q).gridRows = s.gridRows := rfl
@[simp] theorem State.setPart_grade (s : State) (p : Nat) (q : Part) : (s.setPart p q).grade = s.grade := rfl
@[simp] theorem State.setPart_retired (s : State) (p : Nat) (q : Part) : (s.setPart p q).retired = s.retired := rfl
@[simp] theorem State.setPart_chimes (s : State) (p : Nat) (q : Part) : (s.setPart p q).chimes = s.chimes := rfl
@[simp] theorem State.setPart_chimeTime (s : State) (p : Nat) (q : Part) : (s.setPart p q).chimeTime = s.chimeTime := rfl
@[simp] theorem State.setPart_pairs (s : State) (p : Nat) (q : Part) : (s.setPart p q).pairs = s.pairs := rfl
@[simp] theorem State.setPart_watches (s : State) (p : Nat) (q : Part) : (s.setPart p q).watches = s.watches := rfl
@[simp] theorem State.setPart_lanes (s : State) (p : Nat) (q : Part) : (s.setPart p q).lanes = s.lanes := rfl
@[simp] theorem State.setPart_slices (s : State) (p : Nat) (q : Part) : (s.setPart p q).slices = s.slices := rfl
@[simp] theorem State.setPart_tiers (s : State) (p : Nat) (q : Part) : (s.setPart p q).tiers = s.tiers := rfl
@[simp] theorem State.setPart_wst (s : State) (p : Nat) (q : Part) : (s.setPart p q).wst = s.wst := rfl
@[simp] theorem State.setPart_streams (s : State) (p : Nat) (q : Part) : (s.setPart p q).streams = s.streams := rfl
@[simp] theorem State.setPart_engines (s : State) (p : Nat) (q : Part) : (s.setPart p q).engines = s.engines := rfl
@[simp] theorem State.setPart_engRoutes (s : State) (p : Nat) (q : Part) : (s.setPart p q).engRoutes = s.engRoutes := rfl
@[simp] theorem State.setPart_ports (s : State) (p : Nat) (q : Part) : (s.setPart p q).ports = s.ports := rfl
@[simp] theorem State.setPart_chains (s : State) (p : Nat) (q : Part) : (s.setPart p q).chains = s.chains := rfl
@[simp] theorem State.setPart_groups (s : State) (p : Nat) (q : Part) : (s.setPart p q).groups = s.groups := rfl
@[simp] theorem State.setPart_strikeSeq (s : State) (p : Nat) (q : Part) : (s.setPart p q).strikeSeq = s.strikeSeq := rfl
@[simp] theorem State.setPart_hqs (s : State) (p : Nat) (q : Part) : (s.setPart p q).hqs = s.hqs := rfl
@[simp] theorem State.setPart_parts (s : State) (p : Nat) (q : Part) : (s.setPart p q).parts = Tab.put s.parts p q := rfl
@[simp] theorem State.setPart_partCmd (s : State) (p : Nat) (q : Part) : (s.setPart p q).partCmd = s.partCmd := rfl
@[simp] theorem State.setPart_rings (s : State) (p : Nat) (q : Part) : (s.setPart p q).rings = s.rings := rfl
@[simp] theorem State.setPart_recent (s : State) (p : Nat) (q : Part) : (s.setPart p q).recent = s.recent := rfl
@[simp] theorem State.setPart_incarnation (s : State) (p : Nat) (q : Part) : (s.setPart p q).incarnation = s.incarnation := rfl
@[simp] theorem State.setPart_sessions (s : State) (p : Nat) (q : Part) : (s.setPart p q).sessions = s.sessions := rfl
@[simp] theorem State.setPart_defects (s : State) (p : Nat) (q : Part) : (s.setPart p q).defects = s.defects := rfl
@[simp] theorem State.setPart_baseline (s : State) (p : Nat) (q : Part) : (s.setPart p q).baseline = s.baseline := rfl
@[simp] theorem State.setPart_power (s : State) (p : Nat) (q : Part) : (s.setPart p q).power = s.power := rfl
@[simp] theorem State.setPart_tamb (s : State) (p : Nat) (q : Part) : (s.setPart p q).tamb = s.tamb := rfl
@[simp] theorem State.setPart_tests (s : State) (p : Nat) (q : Part) : (s.setPart p q).tests = s.tests := rfl
@[simp] theorem State.setPart_testMs (s : State) (p : Nat) (q : Part) : (s.setPart p q).testMs = s.testMs := rfl
@[simp] theorem State.setPart_testDone (s : State) (p : Nat) (q : Part) : (s.setPart p q).testDone = s.testDone := rfl
@[simp] theorem State.setPart_lc (s : State) (p : Nat) (q : Part) : (s.setPart p q).lc = s.lc := rfl
@[simp] theorem State.setPart_sec (s : State) (p : Nat) (q : Part) : (s.setPart p q).sec = s.sec := rfl
@[simp] theorem State.setPart_hw (s : State) (p : Nat) (q : Part) : (s.setPart p q).hw = s.hw := rfl
@[simp] theorem State.setPart_quiet (s : State) (p : Nat) (q : Part) : (s.setPart p q).quiet = s.quiet := rfl

/-! ## State.setLane -/

@[simp] theorem State.setLane_pending (s : State) (n : Nat) (l : Lane) : (s.setLane n l).pending = s.pending := rfl
@[simp] theorem State.setLane_draws (s : State) (n : Nat) (l : Lane) : (s.setLane n l).draws = s.draws := rfl
@[simp] theorem State.setLane_out (s : State) (n : Nat) (l : Lane) : (s.setLane n l).out = s.out := rfl
@[simp] theorem State.setLane_time (s : State) (n : Nat) (l : Lane) : (s.setLane n l).time = s.time := rfl
@[simp] theorem State.setLane_ptpLock (s : State) (n : Nat) (l : Lane) : (s.setLane n l).ptpLock = s.ptpLock := rfl
@[simp] theorem State.setLane_regs (s : State) (n : Nat) (l : Lane) : (s.setLane n l).regs = s.regs := rfl
@[simp] theorem State.setLane_fns (s : State) (n : Nat) (l : Lane) : (s.setLane n l).fns = s.fns := rfl
@[simp] theorem State.setLane_cores (s : State) (n : Nat) (l : Lane) : (s.setLane n l).cores = s.cores := rfl
@[simp] theorem State.setLane_routers (s : State) (n : Nat) (l : Lane) : (s.setLane n l).routers = s.routers := rfl
@[simp] theorem State.setLane_ident (s : State) (n : Nat) (l : Lane) : (s.setLane n l).ident = s.ident := rfl
@[simp] theorem State.setLane_transit (s : State) (n : Nat) (l : Lane) : (s.setLane n l).transit = s.transit := rfl
@[simp] theorem State.setLane_lostRouters (s : State) (n : Nat) (l : Lane) : (s.setLane n l).lostRouters = s.lostRouters := rfl
@[simp] theorem State.setLane_acks (s : State) (n : Nat) (l : Lane) : (s.setLane n l).acks = s.acks := rfl
@[simp] theorem State.setLane_goodRows (s : State) (n : Nat) (l : Lane) : (s.setLane n l).goodRows = s.goodRows := rfl
@[simp] theorem State.setLane_gridRows (s : State) (n : Nat) (l : Lane) : (s.setLane n l).gridRows = s.gridRows := rfl
@[simp] theorem State.setLane_grade (s : State) (n : Nat) (l : Lane) : (s.setLane n l).grade = s.grade := rfl
@[simp] theorem State.setLane_retired (s : State) (n : Nat) (l : Lane) : (s.setLane n l).retired = s.retired := rfl
@[simp] theorem State.setLane_chimes (s : State) (n : Nat) (l : Lane) : (s.setLane n l).chimes = s.chimes := rfl
@[simp] theorem State.setLane_chimeTime (s : State) (n : Nat) (l : Lane) : (s.setLane n l).chimeTime = s.chimeTime := rfl
@[simp] theorem State.setLane_pairs (s : State) (n : Nat) (l : Lane) : (s.setLane n l).pairs = s.pairs := rfl
@[simp] theorem State.setLane_watches (s : State) (n : Nat) (l : Lane) : (s.setLane n l).watches = s.watches := rfl
@[simp] theorem State.setLane_lanes (s : State) (n : Nat) (l : Lane) : (s.setLane n l).lanes = Tab.put s.lanes n l := rfl
@[simp] theorem State.setLane_slices (s : State) (n : Nat) (l : Lane) : (s.setLane n l).slices = s.slices := rfl
@[simp] theorem State.setLane_tiers (s : State) (n : Nat) (l : Lane) : (s.setLane n l).tiers = s.tiers := rfl
@[simp] theorem State.setLane_wst (s : State) (n : Nat) (l : Lane) : (s.setLane n l).wst = s.wst := rfl
@[simp] theorem State.setLane_streams (s : State) (n : Nat) (l : Lane) : (s.setLane n l).streams = s.streams := rfl
@[simp] theorem State.setLane_engines (s : State) (n : Nat) (l : Lane) : (s.setLane n l).engines = s.engines := rfl
@[simp] theorem State.setLane_engRoutes (s : State) (n : Nat) (l : Lane) : (s.setLane n l).engRoutes = s.engRoutes := rfl
@[simp] theorem State.setLane_ports (s : State) (n : Nat) (l : Lane) : (s.setLane n l).ports = s.ports := rfl
@[simp] theorem State.setLane_chains (s : State) (n : Nat) (l : Lane) : (s.setLane n l).chains = s.chains := rfl
@[simp] theorem State.setLane_groups (s : State) (n : Nat) (l : Lane) : (s.setLane n l).groups = s.groups := rfl
@[simp] theorem State.setLane_strikeSeq (s : State) (n : Nat) (l : Lane) : (s.setLane n l).strikeSeq = s.strikeSeq := rfl
@[simp] theorem State.setLane_hqs (s : State) (n : Nat) (l : Lane) : (s.setLane n l).hqs = s.hqs := rfl
@[simp] theorem State.setLane_parts (s : State) (n : Nat) (l : Lane) : (s.setLane n l).parts = s.parts := rfl
@[simp] theorem State.setLane_partCmd (s : State) (n : Nat) (l : Lane) : (s.setLane n l).partCmd = s.partCmd := rfl
@[simp] theorem State.setLane_rings (s : State) (n : Nat) (l : Lane) : (s.setLane n l).rings = s.rings := rfl
@[simp] theorem State.setLane_recent (s : State) (n : Nat) (l : Lane) : (s.setLane n l).recent = s.recent := rfl
@[simp] theorem State.setLane_incarnation (s : State) (n : Nat) (l : Lane) : (s.setLane n l).incarnation = s.incarnation := rfl
@[simp] theorem State.setLane_sessions (s : State) (n : Nat) (l : Lane) : (s.setLane n l).sessions = s.sessions := rfl
@[simp] theorem State.setLane_defects (s : State) (n : Nat) (l : Lane) : (s.setLane n l).defects = s.defects := rfl
@[simp] theorem State.setLane_baseline (s : State) (n : Nat) (l : Lane) : (s.setLane n l).baseline = s.baseline := rfl
@[simp] theorem State.setLane_power (s : State) (n : Nat) (l : Lane) : (s.setLane n l).power = s.power := rfl
@[simp] theorem State.setLane_tamb (s : State) (n : Nat) (l : Lane) : (s.setLane n l).tamb = s.tamb := rfl
@[simp] theorem State.setLane_tests (s : State) (n : Nat) (l : Lane) : (s.setLane n l).tests = s.tests := rfl
@[simp] theorem State.setLane_testMs (s : State) (n : Nat) (l : Lane) : (s.setLane n l).testMs = s.testMs := rfl
@[simp] theorem State.setLane_testDone (s : State) (n : Nat) (l : Lane) : (s.setLane n l).testDone = s.testDone := rfl
@[simp] theorem State.setLane_lc (s : State) (n : Nat) (l : Lane) : (s.setLane n l).lc = s.lc := rfl
@[simp] theorem State.setLane_sec (s : State) (n : Nat) (l : Lane) : (s.setLane n l).sec = s.sec := rfl
@[simp] theorem State.setLane_hw (s : State) (n : Nat) (l : Lane) : (s.setLane n l).hw = s.hw := rfl
@[simp] theorem State.setLane_quiet (s : State) (n : Nat) (l : Lane) : (s.setLane n l).quiet = s.quiet := rfl

/-! ## setHq -/

@[simp] theorem State.setHq_pending (s : State) (p q : Nat) (x : HQueue) : (setHq s p q x).pending = s.pending := rfl
@[simp] theorem State.setHq_draws (s : State) (p q : Nat) (x : HQueue) : (setHq s p q x).draws = s.draws := rfl
@[simp] theorem State.setHq_out (s : State) (p q : Nat) (x : HQueue) : (setHq s p q x).out = s.out := rfl
@[simp] theorem State.setHq_time (s : State) (p q : Nat) (x : HQueue) : (setHq s p q x).time = s.time := rfl
@[simp] theorem State.setHq_ptpLock (s : State) (p q : Nat) (x : HQueue) : (setHq s p q x).ptpLock = s.ptpLock := rfl
@[simp] theorem State.setHq_regs (s : State) (p q : Nat) (x : HQueue) : (setHq s p q x).regs = s.regs := rfl
@[simp] theorem State.setHq_fns (s : State) (p q : Nat) (x : HQueue) : (setHq s p q x).fns = s.fns := rfl
@[simp] theorem State.setHq_cores (s : State) (p q : Nat) (x : HQueue) : (setHq s p q x).cores = s.cores := rfl
@[simp] theorem State.setHq_routers (s : State) (p q : Nat) (x : HQueue) : (setHq s p q x).routers = s.routers := rfl
@[simp] theorem State.setHq_ident (s : State) (p q : Nat) (x : HQueue) : (setHq s p q x).ident = s.ident := rfl
@[simp] theorem State.setHq_transit (s : State) (p q : Nat) (x : HQueue) : (setHq s p q x).transit = s.transit := rfl
@[simp] theorem State.setHq_lostRouters (s : State) (p q : Nat) (x : HQueue) : (setHq s p q x).lostRouters = s.lostRouters := rfl
@[simp] theorem State.setHq_acks (s : State) (p q : Nat) (x : HQueue) : (setHq s p q x).acks = s.acks := rfl
@[simp] theorem State.setHq_goodRows (s : State) (p q : Nat) (x : HQueue) : (setHq s p q x).goodRows = s.goodRows := rfl
@[simp] theorem State.setHq_gridRows (s : State) (p q : Nat) (x : HQueue) : (setHq s p q x).gridRows = s.gridRows := rfl
@[simp] theorem State.setHq_grade (s : State) (p q : Nat) (x : HQueue) : (setHq s p q x).grade = s.grade := rfl
@[simp] theorem State.setHq_retired (s : State) (p q : Nat) (x : HQueue) : (setHq s p q x).retired = s.retired := rfl
@[simp] theorem State.setHq_chimes (s : State) (p q : Nat) (x : HQueue) : (setHq s p q x).chimes = s.chimes := rfl
@[simp] theorem State.setHq_chimeTime (s : State) (p q : Nat) (x : HQueue) : (setHq s p q x).chimeTime = s.chimeTime := rfl
@[simp] theorem State.setHq_pairs (s : State) (p q : Nat) (x : HQueue) : (setHq s p q x).pairs = s.pairs := rfl
@[simp] theorem State.setHq_watches (s : State) (p q : Nat) (x : HQueue) : (setHq s p q x).watches = s.watches := rfl
@[simp] theorem State.setHq_lanes (s : State) (p q : Nat) (x : HQueue) : (setHq s p q x).lanes = s.lanes := rfl
@[simp] theorem State.setHq_slices (s : State) (p q : Nat) (x : HQueue) : (setHq s p q x).slices = s.slices := rfl
@[simp] theorem State.setHq_tiers (s : State) (p q : Nat) (x : HQueue) : (setHq s p q x).tiers = s.tiers := rfl
@[simp] theorem State.setHq_wst (s : State) (p q : Nat) (x : HQueue) : (setHq s p q x).wst = s.wst := rfl
@[simp] theorem State.setHq_streams (s : State) (p q : Nat) (x : HQueue) : (setHq s p q x).streams = s.streams := rfl
@[simp] theorem State.setHq_engines (s : State) (p q : Nat) (x : HQueue) : (setHq s p q x).engines = s.engines := rfl
@[simp] theorem State.setHq_engRoutes (s : State) (p q : Nat) (x : HQueue) : (setHq s p q x).engRoutes = s.engRoutes := rfl
@[simp] theorem State.setHq_ports (s : State) (p q : Nat) (x : HQueue) : (setHq s p q x).ports = s.ports := rfl
@[simp] theorem State.setHq_chains (s : State) (p q : Nat) (x : HQueue) : (setHq s p q x).chains = s.chains := rfl
@[simp] theorem State.setHq_groups (s : State) (p q : Nat) (x : HQueue) : (setHq s p q x).groups = s.groups := rfl
@[simp] theorem State.setHq_strikeSeq (s : State) (p q : Nat) (x : HQueue) : (setHq s p q x).strikeSeq = s.strikeSeq := rfl
@[simp] theorem State.setHq_hqs (s : State) (p q : Nat) (x : HQueue) : (setHq s p q x).hqs = Tab.put s.hqs (p * 8 + q) x := rfl
@[simp] theorem State.setHq_parts (s : State) (p q : Nat) (x : HQueue) : (setHq s p q x).parts = s.parts := rfl
@[simp] theorem State.setHq_partCmd (s : State) (p q : Nat) (x : HQueue) : (setHq s p q x).partCmd = s.partCmd := rfl
@[simp] theorem State.setHq_rings (s : State) (p q : Nat) (x : HQueue) : (setHq s p q x).rings = s.rings := rfl
@[simp] theorem State.setHq_recent (s : State) (p q : Nat) (x : HQueue) : (setHq s p q x).recent = s.recent := rfl
@[simp] theorem State.setHq_incarnation (s : State) (p q : Nat) (x : HQueue) : (setHq s p q x).incarnation = s.incarnation := rfl
@[simp] theorem State.setHq_sessions (s : State) (p q : Nat) (x : HQueue) : (setHq s p q x).sessions = s.sessions := rfl
@[simp] theorem State.setHq_defects (s : State) (p q : Nat) (x : HQueue) : (setHq s p q x).defects = s.defects := rfl
@[simp] theorem State.setHq_baseline (s : State) (p q : Nat) (x : HQueue) : (setHq s p q x).baseline = s.baseline := rfl
@[simp] theorem State.setHq_power (s : State) (p q : Nat) (x : HQueue) : (setHq s p q x).power = s.power := rfl
@[simp] theorem State.setHq_tamb (s : State) (p q : Nat) (x : HQueue) : (setHq s p q x).tamb = s.tamb := rfl
@[simp] theorem State.setHq_tests (s : State) (p q : Nat) (x : HQueue) : (setHq s p q x).tests = s.tests := rfl
@[simp] theorem State.setHq_testMs (s : State) (p q : Nat) (x : HQueue) : (setHq s p q x).testMs = s.testMs := rfl
@[simp] theorem State.setHq_testDone (s : State) (p q : Nat) (x : HQueue) : (setHq s p q x).testDone = s.testDone := rfl
@[simp] theorem State.setHq_lc (s : State) (p q : Nat) (x : HQueue) : (setHq s p q x).lc = s.lc := rfl
@[simp] theorem State.setHq_sec (s : State) (p q : Nat) (x : HQueue) : (setHq s p q x).sec = s.sec := rfl
@[simp] theorem State.setHq_hw (s : State) (p q : Nat) (x : HQueue) : (setHq s p q x).hw = s.hw := rfl
@[simp] theorem State.setHq_quiet (s : State) (p q : Nat) (x : HQueue) : (setHq s p q x).quiet = s.quiet := rfl

/-! ## State.setPort -/

@[simp] theorem State.setPort_pending (s : State) (n : Nat) (x : PortS) : (s.setPort n x).pending = s.pending := rfl
@[simp] theorem State.setPort_draws (s : State) (n : Nat) (x : PortS) : (s.setPort n x).draws = s.draws := rfl
@[simp] theorem State.setPort_out (s : State) (n : Nat) (x : PortS) : (s.setPort n x).out = s.out := rfl
@[simp] theorem State.setPort_time (s : State) (n : Nat) (x : PortS) : (s.setPort n x).time = s.time := rfl
@[simp] theorem State.setPort_ptpLock (s : State) (n : Nat) (x : PortS) : (s.setPort n x).ptpLock = s.ptpLock := rfl
@[simp] theorem State.setPort_regs (s : State) (n : Nat) (x : PortS) : (s.setPort n x).regs = s.regs := rfl
@[simp] theorem State.setPort_fns (s : State) (n : Nat) (x : PortS) : (s.setPort n x).fns = s.fns := rfl
@[simp] theorem State.setPort_cores (s : State) (n : Nat) (x : PortS) : (s.setPort n x).cores = s.cores := rfl
@[simp] theorem State.setPort_routers (s : State) (n : Nat) (x : PortS) : (s.setPort n x).routers = s.routers := rfl
@[simp] theorem State.setPort_ident (s : State) (n : Nat) (x : PortS) : (s.setPort n x).ident = s.ident := rfl
@[simp] theorem State.setPort_transit (s : State) (n : Nat) (x : PortS) : (s.setPort n x).transit = s.transit := rfl
@[simp] theorem State.setPort_lostRouters (s : State) (n : Nat) (x : PortS) : (s.setPort n x).lostRouters = s.lostRouters := rfl
@[simp] theorem State.setPort_acks (s : State) (n : Nat) (x : PortS) : (s.setPort n x).acks = s.acks := rfl
@[simp] theorem State.setPort_goodRows (s : State) (n : Nat) (x : PortS) : (s.setPort n x).goodRows = s.goodRows := rfl
@[simp] theorem State.setPort_gridRows (s : State) (n : Nat) (x : PortS) : (s.setPort n x).gridRows = s.gridRows := rfl
@[simp] theorem State.setPort_grade (s : State) (n : Nat) (x : PortS) : (s.setPort n x).grade = s.grade := rfl
@[simp] theorem State.setPort_retired (s : State) (n : Nat) (x : PortS) : (s.setPort n x).retired = s.retired := rfl
@[simp] theorem State.setPort_chimes (s : State) (n : Nat) (x : PortS) : (s.setPort n x).chimes = s.chimes := rfl
@[simp] theorem State.setPort_chimeTime (s : State) (n : Nat) (x : PortS) : (s.setPort n x).chimeTime = s.chimeTime := rfl
@[simp] theorem State.setPort_pairs (s : State) (n : Nat) (x : PortS) : (s.setPort n x).pairs = s.pairs := rfl
@[simp] theorem State.setPort_watches (s : State) (n : Nat) (x : PortS) : (s.setPort n x).watches = s.watches := rfl
@[simp] theorem State.setPort_lanes (s : State) (n : Nat) (x : PortS) : (s.setPort n x).lanes = s.lanes := rfl
@[simp] theorem State.setPort_slices (s : State) (n : Nat) (x : PortS) : (s.setPort n x).slices = s.slices := rfl
@[simp] theorem State.setPort_tiers (s : State) (n : Nat) (x : PortS) : (s.setPort n x).tiers = s.tiers := rfl
@[simp] theorem State.setPort_wst (s : State) (n : Nat) (x : PortS) : (s.setPort n x).wst = s.wst := rfl
@[simp] theorem State.setPort_streams (s : State) (n : Nat) (x : PortS) : (s.setPort n x).streams = s.streams := rfl
@[simp] theorem State.setPort_engines (s : State) (n : Nat) (x : PortS) : (s.setPort n x).engines = s.engines := rfl
@[simp] theorem State.setPort_engRoutes (s : State) (n : Nat) (x : PortS) : (s.setPort n x).engRoutes = s.engRoutes := rfl
@[simp] theorem State.setPort_ports (s : State) (n : Nat) (x : PortS) : (s.setPort n x).ports = Tab.put s.ports n x := rfl
@[simp] theorem State.setPort_chains (s : State) (n : Nat) (x : PortS) : (s.setPort n x).chains = s.chains := rfl
@[simp] theorem State.setPort_groups (s : State) (n : Nat) (x : PortS) : (s.setPort n x).groups = s.groups := rfl
@[simp] theorem State.setPort_strikeSeq (s : State) (n : Nat) (x : PortS) : (s.setPort n x).strikeSeq = s.strikeSeq := rfl
@[simp] theorem State.setPort_hqs (s : State) (n : Nat) (x : PortS) : (s.setPort n x).hqs = s.hqs := rfl
@[simp] theorem State.setPort_parts (s : State) (n : Nat) (x : PortS) : (s.setPort n x).parts = s.parts := rfl
@[simp] theorem State.setPort_partCmd (s : State) (n : Nat) (x : PortS) : (s.setPort n x).partCmd = s.partCmd := rfl
@[simp] theorem State.setPort_rings (s : State) (n : Nat) (x : PortS) : (s.setPort n x).rings = s.rings := rfl
@[simp] theorem State.setPort_recent (s : State) (n : Nat) (x : PortS) : (s.setPort n x).recent = s.recent := rfl
@[simp] theorem State.setPort_incarnation (s : State) (n : Nat) (x : PortS) : (s.setPort n x).incarnation = s.incarnation := rfl
@[simp] theorem State.setPort_sessions (s : State) (n : Nat) (x : PortS) : (s.setPort n x).sessions = s.sessions := rfl
@[simp] theorem State.setPort_defects (s : State) (n : Nat) (x : PortS) : (s.setPort n x).defects = s.defects := rfl
@[simp] theorem State.setPort_baseline (s : State) (n : Nat) (x : PortS) : (s.setPort n x).baseline = s.baseline := rfl
@[simp] theorem State.setPort_power (s : State) (n : Nat) (x : PortS) : (s.setPort n x).power = s.power := rfl
@[simp] theorem State.setPort_tamb (s : State) (n : Nat) (x : PortS) : (s.setPort n x).tamb = s.tamb := rfl
@[simp] theorem State.setPort_tests (s : State) (n : Nat) (x : PortS) : (s.setPort n x).tests = s.tests := rfl
@[simp] theorem State.setPort_testMs (s : State) (n : Nat) (x : PortS) : (s.setPort n x).testMs = s.testMs := rfl
@[simp] theorem State.setPort_testDone (s : State) (n : Nat) (x : PortS) : (s.setPort n x).testDone = s.testDone := rfl
@[simp] theorem State.setPort_lc (s : State) (n : Nat) (x : PortS) : (s.setPort n x).lc = s.lc := rfl
@[simp] theorem State.setPort_sec (s : State) (n : Nat) (x : PortS) : (s.setPort n x).sec = s.sec := rfl
@[simp] theorem State.setPort_hw (s : State) (n : Nat) (x : PortS) : (s.setPort n x).hw = s.hw := rfl
@[simp] theorem State.setPort_quiet (s : State) (n : Nat) (x : PortS) : (s.setPort n x).quiet = s.quiet := rfl

/-! ## State.setSlice -/

@[simp] theorem State.setSlice_pending (s : State) (f : Nat) (x : Slice) : (s.setSlice f x).pending = s.pending := rfl
@[simp] theorem State.setSlice_draws (s : State) (f : Nat) (x : Slice) : (s.setSlice f x).draws = s.draws := rfl
@[simp] theorem State.setSlice_out (s : State) (f : Nat) (x : Slice) : (s.setSlice f x).out = s.out := rfl
@[simp] theorem State.setSlice_time (s : State) (f : Nat) (x : Slice) : (s.setSlice f x).time = s.time := rfl
@[simp] theorem State.setSlice_ptpLock (s : State) (f : Nat) (x : Slice) : (s.setSlice f x).ptpLock = s.ptpLock := rfl
@[simp] theorem State.setSlice_regs (s : State) (f : Nat) (x : Slice) : (s.setSlice f x).regs = s.regs := rfl
@[simp] theorem State.setSlice_fns (s : State) (f : Nat) (x : Slice) : (s.setSlice f x).fns = s.fns := rfl
@[simp] theorem State.setSlice_cores (s : State) (f : Nat) (x : Slice) : (s.setSlice f x).cores = s.cores := rfl
@[simp] theorem State.setSlice_routers (s : State) (f : Nat) (x : Slice) : (s.setSlice f x).routers = s.routers := rfl
@[simp] theorem State.setSlice_ident (s : State) (f : Nat) (x : Slice) : (s.setSlice f x).ident = s.ident := rfl
@[simp] theorem State.setSlice_transit (s : State) (f : Nat) (x : Slice) : (s.setSlice f x).transit = s.transit := rfl
@[simp] theorem State.setSlice_lostRouters (s : State) (f : Nat) (x : Slice) : (s.setSlice f x).lostRouters = s.lostRouters := rfl
@[simp] theorem State.setSlice_acks (s : State) (f : Nat) (x : Slice) : (s.setSlice f x).acks = s.acks := rfl
@[simp] theorem State.setSlice_goodRows (s : State) (f : Nat) (x : Slice) : (s.setSlice f x).goodRows = s.goodRows := rfl
@[simp] theorem State.setSlice_gridRows (s : State) (f : Nat) (x : Slice) : (s.setSlice f x).gridRows = s.gridRows := rfl
@[simp] theorem State.setSlice_grade (s : State) (f : Nat) (x : Slice) : (s.setSlice f x).grade = s.grade := rfl
@[simp] theorem State.setSlice_retired (s : State) (f : Nat) (x : Slice) : (s.setSlice f x).retired = s.retired := rfl
@[simp] theorem State.setSlice_chimes (s : State) (f : Nat) (x : Slice) : (s.setSlice f x).chimes = s.chimes := rfl
@[simp] theorem State.setSlice_chimeTime (s : State) (f : Nat) (x : Slice) : (s.setSlice f x).chimeTime = s.chimeTime := rfl
@[simp] theorem State.setSlice_pairs (s : State) (f : Nat) (x : Slice) : (s.setSlice f x).pairs = s.pairs := rfl
@[simp] theorem State.setSlice_watches (s : State) (f : Nat) (x : Slice) : (s.setSlice f x).watches = s.watches := rfl
@[simp] theorem State.setSlice_lanes (s : State) (f : Nat) (x : Slice) : (s.setSlice f x).lanes = s.lanes := rfl
@[simp] theorem State.setSlice_slices (s : State) (f : Nat) (x : Slice) : (s.setSlice f x).slices = Tab.put s.slices f x := rfl
@[simp] theorem State.setSlice_tiers (s : State) (f : Nat) (x : Slice) : (s.setSlice f x).tiers = s.tiers := rfl
@[simp] theorem State.setSlice_wst (s : State) (f : Nat) (x : Slice) : (s.setSlice f x).wst = s.wst := rfl
@[simp] theorem State.setSlice_streams (s : State) (f : Nat) (x : Slice) : (s.setSlice f x).streams = s.streams := rfl
@[simp] theorem State.setSlice_engines (s : State) (f : Nat) (x : Slice) : (s.setSlice f x).engines = s.engines := rfl
@[simp] theorem State.setSlice_engRoutes (s : State) (f : Nat) (x : Slice) : (s.setSlice f x).engRoutes = s.engRoutes := rfl
@[simp] theorem State.setSlice_ports (s : State) (f : Nat) (x : Slice) : (s.setSlice f x).ports = s.ports := rfl
@[simp] theorem State.setSlice_chains (s : State) (f : Nat) (x : Slice) : (s.setSlice f x).chains = s.chains := rfl
@[simp] theorem State.setSlice_groups (s : State) (f : Nat) (x : Slice) : (s.setSlice f x).groups = s.groups := rfl
@[simp] theorem State.setSlice_strikeSeq (s : State) (f : Nat) (x : Slice) : (s.setSlice f x).strikeSeq = s.strikeSeq := rfl
@[simp] theorem State.setSlice_hqs (s : State) (f : Nat) (x : Slice) : (s.setSlice f x).hqs = s.hqs := rfl
@[simp] theorem State.setSlice_parts (s : State) (f : Nat) (x : Slice) : (s.setSlice f x).parts = s.parts := rfl
@[simp] theorem State.setSlice_partCmd (s : State) (f : Nat) (x : Slice) : (s.setSlice f x).partCmd = s.partCmd := rfl
@[simp] theorem State.setSlice_rings (s : State) (f : Nat) (x : Slice) : (s.setSlice f x).rings = s.rings := rfl
@[simp] theorem State.setSlice_recent (s : State) (f : Nat) (x : Slice) : (s.setSlice f x).recent = s.recent := rfl
@[simp] theorem State.setSlice_incarnation (s : State) (f : Nat) (x : Slice) : (s.setSlice f x).incarnation = s.incarnation := rfl
@[simp] theorem State.setSlice_sessions (s : State) (f : Nat) (x : Slice) : (s.setSlice f x).sessions = s.sessions := rfl
@[simp] theorem State.setSlice_defects (s : State) (f : Nat) (x : Slice) : (s.setSlice f x).defects = s.defects := rfl
@[simp] theorem State.setSlice_baseline (s : State) (f : Nat) (x : Slice) : (s.setSlice f x).baseline = s.baseline := rfl
@[simp] theorem State.setSlice_power (s : State) (f : Nat) (x : Slice) : (s.setSlice f x).power = s.power := rfl
@[simp] theorem State.setSlice_tamb (s : State) (f : Nat) (x : Slice) : (s.setSlice f x).tamb = s.tamb := rfl
@[simp] theorem State.setSlice_tests (s : State) (f : Nat) (x : Slice) : (s.setSlice f x).tests = s.tests := rfl
@[simp] theorem State.setSlice_testMs (s : State) (f : Nat) (x : Slice) : (s.setSlice f x).testMs = s.testMs := rfl
@[simp] theorem State.setSlice_testDone (s : State) (f : Nat) (x : Slice) : (s.setSlice f x).testDone = s.testDone := rfl
@[simp] theorem State.setSlice_lc (s : State) (f : Nat) (x : Slice) : (s.setSlice f x).lc = s.lc := rfl
@[simp] theorem State.setSlice_sec (s : State) (f : Nat) (x : Slice) : (s.setSlice f x).sec = s.sec := rfl
@[simp] theorem State.setSlice_hw (s : State) (f : Nat) (x : Slice) : (s.setSlice f x).hw = s.hw := rfl
@[simp] theorem State.setSlice_quiet (s : State) (f : Nat) (x : Slice) : (s.setSlice f x).quiet = s.quiet := rfl

/-! ## setStack -/

@[simp] theorem State.setStack_pending (s : State) (n st : Nat) : (setStack s n st).pending = s.pending := rfl
@[simp] theorem State.setStack_draws (s : State) (n st : Nat) : (setStack s n st).draws = s.draws := rfl
@[simp] theorem State.setStack_out (s : State) (n st : Nat) : (setStack s n st).out = s.out := rfl
@[simp] theorem State.setStack_time (s : State) (n st : Nat) : (setStack s n st).time = s.time := rfl
@[simp] theorem State.setStack_ptpLock (s : State) (n st : Nat) : (setStack s n st).ptpLock = s.ptpLock := rfl
@[simp] theorem State.setStack_regs (s : State) (n st : Nat) : (setStack s n st).regs = s.regs := rfl
@[simp] theorem State.setStack_fns (s : State) (n st : Nat) : (setStack s n st).fns = s.fns := rfl
@[simp] theorem State.setStack_cores (s : State) (n st : Nat) : (setStack s n st).cores = s.cores := rfl
@[simp] theorem State.setStack_routers (s : State) (n st : Nat) : (setStack s n st).routers = s.routers := rfl
@[simp] theorem State.setStack_ident (s : State) (n st : Nat) : (setStack s n st).ident = s.ident := rfl
@[simp] theorem State.setStack_transit (s : State) (n st : Nat) : (setStack s n st).transit = s.transit := rfl
@[simp] theorem State.setStack_lostRouters (s : State) (n st : Nat) : (setStack s n st).lostRouters = s.lostRouters := rfl
@[simp] theorem State.setStack_acks (s : State) (n st : Nat) : (setStack s n st).acks = s.acks := rfl
@[simp] theorem State.setStack_goodRows (s : State) (n st : Nat) : (setStack s n st).goodRows = s.goodRows := rfl
@[simp] theorem State.setStack_gridRows (s : State) (n st : Nat) : (setStack s n st).gridRows = s.gridRows := rfl
@[simp] theorem State.setStack_grade (s : State) (n st : Nat) : (setStack s n st).grade = s.grade := rfl
@[simp] theorem State.setStack_retired (s : State) (n st : Nat) : (setStack s n st).retired = s.retired := rfl
@[simp] theorem State.setStack_chimes (s : State) (n st : Nat) : (setStack s n st).chimes = s.chimes := rfl
@[simp] theorem State.setStack_chimeTime (s : State) (n st : Nat) : (setStack s n st).chimeTime = s.chimeTime := rfl
@[simp] theorem State.setStack_pairs (s : State) (n st : Nat) : (setStack s n st).pairs = s.pairs := rfl
@[simp] theorem State.setStack_watches (s : State) (n st : Nat) : (setStack s n st).watches = s.watches := rfl
@[simp] theorem State.setStack_lanes (s : State) (n st : Nat) : (setStack s n st).lanes = s.lanes := rfl
@[simp] theorem State.setStack_slices (s : State) (n st : Nat) : (setStack s n st).slices = s.slices := rfl
@[simp] theorem State.setStack_tiers (s : State) (n st : Nat) :
    (setStack s n st).tiers = { s.tiers with stack := Tab.set 3 s.tiers.stack n st } := rfl
@[simp] theorem State.setStack_wst (s : State) (n st : Nat) : (setStack s n st).wst = s.wst := rfl
@[simp] theorem State.setStack_streams (s : State) (n st : Nat) : (setStack s n st).streams = s.streams := rfl
@[simp] theorem State.setStack_engines (s : State) (n st : Nat) : (setStack s n st).engines = s.engines := rfl
@[simp] theorem State.setStack_engRoutes (s : State) (n st : Nat) : (setStack s n st).engRoutes = s.engRoutes := rfl
@[simp] theorem State.setStack_ports (s : State) (n st : Nat) : (setStack s n st).ports = s.ports := rfl
@[simp] theorem State.setStack_chains (s : State) (n st : Nat) : (setStack s n st).chains = s.chains := rfl
@[simp] theorem State.setStack_groups (s : State) (n st : Nat) : (setStack s n st).groups = s.groups := rfl
@[simp] theorem State.setStack_strikeSeq (s : State) (n st : Nat) : (setStack s n st).strikeSeq = s.strikeSeq := rfl
@[simp] theorem State.setStack_hqs (s : State) (n st : Nat) : (setStack s n st).hqs = s.hqs := rfl
@[simp] theorem State.setStack_parts (s : State) (n st : Nat) : (setStack s n st).parts = s.parts := rfl
@[simp] theorem State.setStack_partCmd (s : State) (n st : Nat) : (setStack s n st).partCmd = s.partCmd := rfl
@[simp] theorem State.setStack_rings (s : State) (n st : Nat) : (setStack s n st).rings = s.rings := rfl
@[simp] theorem State.setStack_recent (s : State) (n st : Nat) : (setStack s n st).recent = s.recent := rfl
@[simp] theorem State.setStack_incarnation (s : State) (n st : Nat) : (setStack s n st).incarnation = s.incarnation := rfl
@[simp] theorem State.setStack_sessions (s : State) (n st : Nat) : (setStack s n st).sessions = s.sessions := rfl
@[simp] theorem State.setStack_defects (s : State) (n st : Nat) : (setStack s n st).defects = s.defects := rfl
@[simp] theorem State.setStack_baseline (s : State) (n st : Nat) : (setStack s n st).baseline = s.baseline := rfl
@[simp] theorem State.setStack_power (s : State) (n st : Nat) : (setStack s n st).power = s.power := rfl
@[simp] theorem State.setStack_tamb (s : State) (n st : Nat) : (setStack s n st).tamb = s.tamb := rfl
@[simp] theorem State.setStack_tests (s : State) (n st : Nat) : (setStack s n st).tests = s.tests := rfl
@[simp] theorem State.setStack_testMs (s : State) (n st : Nat) : (setStack s n st).testMs = s.testMs := rfl
@[simp] theorem State.setStack_testDone (s : State) (n st : Nat) : (setStack s n st).testDone = s.testDone := rfl
@[simp] theorem State.setStack_lc (s : State) (n st : Nat) : (setStack s n st).lc = s.lc := rfl
@[simp] theorem State.setStack_sec (s : State) (n st : Nat) : (setStack s n st).sec = s.sec := rfl
@[simp] theorem State.setStack_hw (s : State) (n st : Nat) : (setStack s n st).hw = s.hw := rfl
@[simp] theorem State.setStack_quiet (s : State) (n st : Nat) : (setStack s n st).quiet = s.quiet := rfl

/-! ## State.setFnBuf -/

@[simp] theorem State.setFnBuf_pending (s : State) (fn : Nat) (b : FnBuf) : (s.setFnBuf fn b).pending = s.pending := rfl
@[simp] theorem State.setFnBuf_draws (s : State) (fn : Nat) (b : FnBuf) : (s.setFnBuf fn b).draws = s.draws := rfl
@[simp] theorem State.setFnBuf_out (s : State) (fn : Nat) (b : FnBuf) : (s.setFnBuf fn b).out = s.out := rfl
@[simp] theorem State.setFnBuf_time (s : State) (fn : Nat) (b : FnBuf) : (s.setFnBuf fn b).time = s.time := rfl
@[simp] theorem State.setFnBuf_ptpLock (s : State) (fn : Nat) (b : FnBuf) : (s.setFnBuf fn b).ptpLock = s.ptpLock := rfl
@[simp] theorem State.setFnBuf_regs (s : State) (fn : Nat) (b : FnBuf) : (s.setFnBuf fn b).regs = s.regs := rfl
@[simp] theorem State.setFnBuf_fns (s : State) (fn : Nat) (b : FnBuf) : (s.setFnBuf fn b).fns = Tab.put s.fns fn b := rfl
@[simp] theorem State.setFnBuf_cores (s : State) (fn : Nat) (b : FnBuf) : (s.setFnBuf fn b).cores = s.cores := rfl
@[simp] theorem State.setFnBuf_routers (s : State) (fn : Nat) (b : FnBuf) : (s.setFnBuf fn b).routers = s.routers := rfl
@[simp] theorem State.setFnBuf_ident (s : State) (fn : Nat) (b : FnBuf) : (s.setFnBuf fn b).ident = s.ident := rfl
@[simp] theorem State.setFnBuf_transit (s : State) (fn : Nat) (b : FnBuf) : (s.setFnBuf fn b).transit = s.transit := rfl
@[simp] theorem State.setFnBuf_lostRouters (s : State) (fn : Nat) (b : FnBuf) : (s.setFnBuf fn b).lostRouters = s.lostRouters := rfl
@[simp] theorem State.setFnBuf_acks (s : State) (fn : Nat) (b : FnBuf) : (s.setFnBuf fn b).acks = s.acks := rfl
@[simp] theorem State.setFnBuf_goodRows (s : State) (fn : Nat) (b : FnBuf) : (s.setFnBuf fn b).goodRows = s.goodRows := rfl
@[simp] theorem State.setFnBuf_gridRows (s : State) (fn : Nat) (b : FnBuf) : (s.setFnBuf fn b).gridRows = s.gridRows := rfl
@[simp] theorem State.setFnBuf_grade (s : State) (fn : Nat) (b : FnBuf) : (s.setFnBuf fn b).grade = s.grade := rfl
@[simp] theorem State.setFnBuf_retired (s : State) (fn : Nat) (b : FnBuf) : (s.setFnBuf fn b).retired = s.retired := rfl
@[simp] theorem State.setFnBuf_chimes (s : State) (fn : Nat) (b : FnBuf) : (s.setFnBuf fn b).chimes = s.chimes := rfl
@[simp] theorem State.setFnBuf_chimeTime (s : State) (fn : Nat) (b : FnBuf) : (s.setFnBuf fn b).chimeTime = s.chimeTime := rfl
@[simp] theorem State.setFnBuf_pairs (s : State) (fn : Nat) (b : FnBuf) : (s.setFnBuf fn b).pairs = s.pairs := rfl
@[simp] theorem State.setFnBuf_watches (s : State) (fn : Nat) (b : FnBuf) : (s.setFnBuf fn b).watches = s.watches := rfl
@[simp] theorem State.setFnBuf_lanes (s : State) (fn : Nat) (b : FnBuf) : (s.setFnBuf fn b).lanes = s.lanes := rfl
@[simp] theorem State.setFnBuf_slices (s : State) (fn : Nat) (b : FnBuf) : (s.setFnBuf fn b).slices = s.slices := rfl
@[simp] theorem State.setFnBuf_tiers (s : State) (fn : Nat) (b : FnBuf) : (s.setFnBuf fn b).tiers = s.tiers := rfl
@[simp] theorem State.setFnBuf_wst (s : State) (fn : Nat) (b : FnBuf) : (s.setFnBuf fn b).wst = s.wst := rfl
@[simp] theorem State.setFnBuf_streams (s : State) (fn : Nat) (b : FnBuf) : (s.setFnBuf fn b).streams = s.streams := rfl
@[simp] theorem State.setFnBuf_engines (s : State) (fn : Nat) (b : FnBuf) : (s.setFnBuf fn b).engines = s.engines := rfl
@[simp] theorem State.setFnBuf_engRoutes (s : State) (fn : Nat) (b : FnBuf) : (s.setFnBuf fn b).engRoutes = s.engRoutes := rfl
@[simp] theorem State.setFnBuf_ports (s : State) (fn : Nat) (b : FnBuf) : (s.setFnBuf fn b).ports = s.ports := rfl
@[simp] theorem State.setFnBuf_chains (s : State) (fn : Nat) (b : FnBuf) : (s.setFnBuf fn b).chains = s.chains := rfl
@[simp] theorem State.setFnBuf_groups (s : State) (fn : Nat) (b : FnBuf) : (s.setFnBuf fn b).groups = s.groups := rfl
@[simp] theorem State.setFnBuf_strikeSeq (s : State) (fn : Nat) (b : FnBuf) : (s.setFnBuf fn b).strikeSeq = s.strikeSeq := rfl
@[simp] theorem State.setFnBuf_hqs (s : State) (fn : Nat) (b : FnBuf) : (s.setFnBuf fn b).hqs = s.hqs := rfl
@[simp] theorem State.setFnBuf_parts (s : State) (fn : Nat) (b : FnBuf) : (s.setFnBuf fn b).parts = s.parts := rfl
@[simp] theorem State.setFnBuf_partCmd (s : State) (fn : Nat) (b : FnBuf) : (s.setFnBuf fn b).partCmd = s.partCmd := rfl
@[simp] theorem State.setFnBuf_rings (s : State) (fn : Nat) (b : FnBuf) : (s.setFnBuf fn b).rings = s.rings := rfl
@[simp] theorem State.setFnBuf_recent (s : State) (fn : Nat) (b : FnBuf) : (s.setFnBuf fn b).recent = s.recent := rfl
@[simp] theorem State.setFnBuf_incarnation (s : State) (fn : Nat) (b : FnBuf) : (s.setFnBuf fn b).incarnation = s.incarnation := rfl
@[simp] theorem State.setFnBuf_sessions (s : State) (fn : Nat) (b : FnBuf) : (s.setFnBuf fn b).sessions = s.sessions := rfl
@[simp] theorem State.setFnBuf_defects (s : State) (fn : Nat) (b : FnBuf) : (s.setFnBuf fn b).defects = s.defects := rfl
@[simp] theorem State.setFnBuf_baseline (s : State) (fn : Nat) (b : FnBuf) : (s.setFnBuf fn b).baseline = s.baseline := rfl
@[simp] theorem State.setFnBuf_power (s : State) (fn : Nat) (b : FnBuf) : (s.setFnBuf fn b).power = s.power := rfl
@[simp] theorem State.setFnBuf_tamb (s : State) (fn : Nat) (b : FnBuf) : (s.setFnBuf fn b).tamb = s.tamb := rfl
@[simp] theorem State.setFnBuf_tests (s : State) (fn : Nat) (b : FnBuf) : (s.setFnBuf fn b).tests = s.tests := rfl
@[simp] theorem State.setFnBuf_testMs (s : State) (fn : Nat) (b : FnBuf) : (s.setFnBuf fn b).testMs = s.testMs := rfl
@[simp] theorem State.setFnBuf_testDone (s : State) (fn : Nat) (b : FnBuf) : (s.setFnBuf fn b).testDone = s.testDone := rfl
@[simp] theorem State.setFnBuf_lc (s : State) (fn : Nat) (b : FnBuf) : (s.setFnBuf fn b).lc = s.lc := rfl
@[simp] theorem State.setFnBuf_sec (s : State) (fn : Nat) (b : FnBuf) : (s.setFnBuf fn b).sec = s.sec := rfl
@[simp] theorem State.setFnBuf_hw (s : State) (fn : Nat) (b : FnBuf) : (s.setFnBuf fn b).hw = s.hw := rfl
@[simp] theorem State.setFnBuf_quiet (s : State) (fn : Nat) (b : FnBuf) : (s.setFnBuf fn b).quiet = s.quiet := rfl

/-! ## setMset -/

@[simp] theorem State.setMset_pending (s : State) (m : Nat) (x : MSet) : (setMset s m x).pending = s.pending := rfl
@[simp] theorem State.setMset_draws (s : State) (m : Nat) (x : MSet) : (setMset s m x).draws = s.draws := rfl
@[simp] theorem State.setMset_out (s : State) (m : Nat) (x : MSet) : (setMset s m x).out = s.out := rfl
@[simp] theorem State.setMset_time (s : State) (m : Nat) (x : MSet) : (setMset s m x).time = s.time := rfl
@[simp] theorem State.setMset_ptpLock (s : State) (m : Nat) (x : MSet) : (setMset s m x).ptpLock = s.ptpLock := rfl
@[simp] theorem State.setMset_regs (s : State) (m : Nat) (x : MSet) : (setMset s m x).regs = s.regs := rfl
@[simp] theorem State.setMset_fns (s : State) (m : Nat) (x : MSet) : (setMset s m x).fns = s.fns := rfl
@[simp] theorem State.setMset_cores (s : State) (m : Nat) (x : MSet) : (setMset s m x).cores = s.cores := rfl
@[simp] theorem State.setMset_routers (s : State) (m : Nat) (x : MSet) : (setMset s m x).routers = s.routers := rfl
@[simp] theorem State.setMset_ident (s : State) (m : Nat) (x : MSet) : (setMset s m x).ident = s.ident := rfl
@[simp] theorem State.setMset_transit (s : State) (m : Nat) (x : MSet) : (setMset s m x).transit = s.transit := rfl
@[simp] theorem State.setMset_lostRouters (s : State) (m : Nat) (x : MSet) : (setMset s m x).lostRouters = s.lostRouters := rfl
@[simp] theorem State.setMset_acks (s : State) (m : Nat) (x : MSet) : (setMset s m x).acks = s.acks := rfl
@[simp] theorem State.setMset_goodRows (s : State) (m : Nat) (x : MSet) : (setMset s m x).goodRows = s.goodRows := rfl
@[simp] theorem State.setMset_gridRows (s : State) (m : Nat) (x : MSet) : (setMset s m x).gridRows = s.gridRows := rfl
@[simp] theorem State.setMset_grade (s : State) (m : Nat) (x : MSet) : (setMset s m x).grade = s.grade := rfl
@[simp] theorem State.setMset_retired (s : State) (m : Nat) (x : MSet) : (setMset s m x).retired = s.retired := rfl
@[simp] theorem State.setMset_chimes (s : State) (m : Nat) (x : MSet) : (setMset s m x).chimes = s.chimes := rfl
@[simp] theorem State.setMset_chimeTime (s : State) (m : Nat) (x : MSet) : (setMset s m x).chimeTime = s.chimeTime := rfl
@[simp] theorem State.setMset_pairs (s : State) (m : Nat) (x : MSet) : (setMset s m x).pairs = s.pairs := rfl
@[simp] theorem State.setMset_watches (s : State) (m : Nat) (x : MSet) : (setMset s m x).watches = s.watches := rfl
@[simp] theorem State.setMset_lanes (s : State) (m : Nat) (x : MSet) : (setMset s m x).lanes = s.lanes := rfl
@[simp] theorem State.setMset_slices (s : State) (m : Nat) (x : MSet) : (setMset s m x).slices = s.slices := rfl
@[simp] theorem State.setMset_tiers (s : State) (m : Nat) (x : MSet) : (setMset s m x).tiers = s.tiers := rfl
@[simp] theorem State.setMset_wst (s : State) (m : Nat) (x : MSet) :
    (setMset s m x).wst = { s.wst with sets := Tab.put s.wst.sets m x } := rfl
@[simp] theorem State.setMset_streams (s : State) (m : Nat) (x : MSet) : (setMset s m x).streams = s.streams := rfl
@[simp] theorem State.setMset_engines (s : State) (m : Nat) (x : MSet) : (setMset s m x).engines = s.engines := rfl
@[simp] theorem State.setMset_engRoutes (s : State) (m : Nat) (x : MSet) : (setMset s m x).engRoutes = s.engRoutes := rfl
@[simp] theorem State.setMset_ports (s : State) (m : Nat) (x : MSet) : (setMset s m x).ports = s.ports := rfl
@[simp] theorem State.setMset_chains (s : State) (m : Nat) (x : MSet) : (setMset s m x).chains = s.chains := rfl
@[simp] theorem State.setMset_groups (s : State) (m : Nat) (x : MSet) : (setMset s m x).groups = s.groups := rfl
@[simp] theorem State.setMset_strikeSeq (s : State) (m : Nat) (x : MSet) : (setMset s m x).strikeSeq = s.strikeSeq := rfl
@[simp] theorem State.setMset_hqs (s : State) (m : Nat) (x : MSet) : (setMset s m x).hqs = s.hqs := rfl
@[simp] theorem State.setMset_parts (s : State) (m : Nat) (x : MSet) : (setMset s m x).parts = s.parts := rfl
@[simp] theorem State.setMset_partCmd (s : State) (m : Nat) (x : MSet) : (setMset s m x).partCmd = s.partCmd := rfl
@[simp] theorem State.setMset_rings (s : State) (m : Nat) (x : MSet) : (setMset s m x).rings = s.rings := rfl
@[simp] theorem State.setMset_recent (s : State) (m : Nat) (x : MSet) : (setMset s m x).recent = s.recent := rfl
@[simp] theorem State.setMset_incarnation (s : State) (m : Nat) (x : MSet) : (setMset s m x).incarnation = s.incarnation := rfl
@[simp] theorem State.setMset_sessions (s : State) (m : Nat) (x : MSet) : (setMset s m x).sessions = s.sessions := rfl
@[simp] theorem State.setMset_defects (s : State) (m : Nat) (x : MSet) : (setMset s m x).defects = s.defects := rfl
@[simp] theorem State.setMset_baseline (s : State) (m : Nat) (x : MSet) : (setMset s m x).baseline = s.baseline := rfl
@[simp] theorem State.setMset_power (s : State) (m : Nat) (x : MSet) : (setMset s m x).power = s.power := rfl
@[simp] theorem State.setMset_tamb (s : State) (m : Nat) (x : MSet) : (setMset s m x).tamb = s.tamb := rfl
@[simp] theorem State.setMset_tests (s : State) (m : Nat) (x : MSet) : (setMset s m x).tests = s.tests := rfl
@[simp] theorem State.setMset_testMs (s : State) (m : Nat) (x : MSet) : (setMset s m x).testMs = s.testMs := rfl
@[simp] theorem State.setMset_testDone (s : State) (m : Nat) (x : MSet) : (setMset s m x).testDone = s.testDone := rfl
@[simp] theorem State.setMset_lc (s : State) (m : Nat) (x : MSet) : (setMset s m x).lc = s.lc := rfl
@[simp] theorem State.setMset_sec (s : State) (m : Nat) (x : MSet) : (setMset s m x).sec = s.sec := rfl
@[simp] theorem State.setMset_hw (s : State) (m : Nat) (x : MSet) : (setMset s m x).hw = s.hw := rfl
@[simp] theorem State.setMset_quiet (s : State) (m : Nat) (x : MSet) : (setMset s m x).quiet = s.quiet := rfl

/-! ## setCtl -/

@[simp] theorem State.setCtl_pending (s : State) (n : Nat) (x : Ctl) : (setCtl s n x).pending = s.pending := rfl
@[simp] theorem State.setCtl_draws (s : State) (n : Nat) (x : Ctl) : (setCtl s n x).draws = s.draws := rfl
@[simp] theorem State.setCtl_out (s : State) (n : Nat) (x : Ctl) : (setCtl s n x).out = s.out := rfl
@[simp] theorem State.setCtl_time (s : State) (n : Nat) (x : Ctl) : (setCtl s n x).time = s.time := rfl
@[simp] theorem State.setCtl_ptpLock (s : State) (n : Nat) (x : Ctl) : (setCtl s n x).ptpLock = s.ptpLock := rfl
@[simp] theorem State.setCtl_regs (s : State) (n : Nat) (x : Ctl) : (setCtl s n x).regs = s.regs := rfl
@[simp] theorem State.setCtl_fns (s : State) (n : Nat) (x : Ctl) : (setCtl s n x).fns = s.fns := rfl
@[simp] theorem State.setCtl_cores (s : State) (n : Nat) (x : Ctl) : (setCtl s n x).cores = s.cores := rfl
@[simp] theorem State.setCtl_routers (s : State) (n : Nat) (x : Ctl) : (setCtl s n x).routers = s.routers := rfl
@[simp] theorem State.setCtl_ident (s : State) (n : Nat) (x : Ctl) : (setCtl s n x).ident = s.ident := rfl
@[simp] theorem State.setCtl_transit (s : State) (n : Nat) (x : Ctl) : (setCtl s n x).transit = s.transit := rfl
@[simp] theorem State.setCtl_lostRouters (s : State) (n : Nat) (x : Ctl) : (setCtl s n x).lostRouters = s.lostRouters := rfl
@[simp] theorem State.setCtl_acks (s : State) (n : Nat) (x : Ctl) : (setCtl s n x).acks = s.acks := rfl
@[simp] theorem State.setCtl_goodRows (s : State) (n : Nat) (x : Ctl) : (setCtl s n x).goodRows = s.goodRows := rfl
@[simp] theorem State.setCtl_gridRows (s : State) (n : Nat) (x : Ctl) : (setCtl s n x).gridRows = s.gridRows := rfl
@[simp] theorem State.setCtl_grade (s : State) (n : Nat) (x : Ctl) : (setCtl s n x).grade = s.grade := rfl
@[simp] theorem State.setCtl_retired (s : State) (n : Nat) (x : Ctl) : (setCtl s n x).retired = s.retired := rfl
@[simp] theorem State.setCtl_chimes (s : State) (n : Nat) (x : Ctl) : (setCtl s n x).chimes = s.chimes := rfl
@[simp] theorem State.setCtl_chimeTime (s : State) (n : Nat) (x : Ctl) : (setCtl s n x).chimeTime = s.chimeTime := rfl
@[simp] theorem State.setCtl_pairs (s : State) (n : Nat) (x : Ctl) : (setCtl s n x).pairs = s.pairs := rfl
@[simp] theorem State.setCtl_watches (s : State) (n : Nat) (x : Ctl) : (setCtl s n x).watches = s.watches := rfl
@[simp] theorem State.setCtl_lanes (s : State) (n : Nat) (x : Ctl) : (setCtl s n x).lanes = s.lanes := rfl
@[simp] theorem State.setCtl_slices (s : State) (n : Nat) (x : Ctl) : (setCtl s n x).slices = s.slices := rfl
@[simp] theorem State.setCtl_tiers (s : State) (n : Nat) (x : Ctl) : (setCtl s n x).tiers = s.tiers := rfl
@[simp] theorem State.setCtl_wst (s : State) (n : Nat) (x : Ctl) :
    (setCtl s n x).wst = { s.wst with ctls := Tab.put s.wst.ctls n x } := rfl
@[simp] theorem State.setCtl_streams (s : State) (n : Nat) (x : Ctl) : (setCtl s n x).streams = s.streams := rfl
@[simp] theorem State.setCtl_engines (s : State) (n : Nat) (x : Ctl) : (setCtl s n x).engines = s.engines := rfl
@[simp] theorem State.setCtl_engRoutes (s : State) (n : Nat) (x : Ctl) : (setCtl s n x).engRoutes = s.engRoutes := rfl
@[simp] theorem State.setCtl_ports (s : State) (n : Nat) (x : Ctl) : (setCtl s n x).ports = s.ports := rfl
@[simp] theorem State.setCtl_chains (s : State) (n : Nat) (x : Ctl) : (setCtl s n x).chains = s.chains := rfl
@[simp] theorem State.setCtl_groups (s : State) (n : Nat) (x : Ctl) : (setCtl s n x).groups = s.groups := rfl
@[simp] theorem State.setCtl_strikeSeq (s : State) (n : Nat) (x : Ctl) : (setCtl s n x).strikeSeq = s.strikeSeq := rfl
@[simp] theorem State.setCtl_hqs (s : State) (n : Nat) (x : Ctl) : (setCtl s n x).hqs = s.hqs := rfl
@[simp] theorem State.setCtl_parts (s : State) (n : Nat) (x : Ctl) : (setCtl s n x).parts = s.parts := rfl
@[simp] theorem State.setCtl_partCmd (s : State) (n : Nat) (x : Ctl) : (setCtl s n x).partCmd = s.partCmd := rfl
@[simp] theorem State.setCtl_rings (s : State) (n : Nat) (x : Ctl) : (setCtl s n x).rings = s.rings := rfl
@[simp] theorem State.setCtl_recent (s : State) (n : Nat) (x : Ctl) : (setCtl s n x).recent = s.recent := rfl
@[simp] theorem State.setCtl_incarnation (s : State) (n : Nat) (x : Ctl) : (setCtl s n x).incarnation = s.incarnation := rfl
@[simp] theorem State.setCtl_sessions (s : State) (n : Nat) (x : Ctl) : (setCtl s n x).sessions = s.sessions := rfl
@[simp] theorem State.setCtl_defects (s : State) (n : Nat) (x : Ctl) : (setCtl s n x).defects = s.defects := rfl
@[simp] theorem State.setCtl_baseline (s : State) (n : Nat) (x : Ctl) : (setCtl s n x).baseline = s.baseline := rfl
@[simp] theorem State.setCtl_power (s : State) (n : Nat) (x : Ctl) : (setCtl s n x).power = s.power := rfl
@[simp] theorem State.setCtl_tamb (s : State) (n : Nat) (x : Ctl) : (setCtl s n x).tamb = s.tamb := rfl
@[simp] theorem State.setCtl_tests (s : State) (n : Nat) (x : Ctl) : (setCtl s n x).tests = s.tests := rfl
@[simp] theorem State.setCtl_testMs (s : State) (n : Nat) (x : Ctl) : (setCtl s n x).testMs = s.testMs := rfl
@[simp] theorem State.setCtl_testDone (s : State) (n : Nat) (x : Ctl) : (setCtl s n x).testDone = s.testDone := rfl
@[simp] theorem State.setCtl_lc (s : State) (n : Nat) (x : Ctl) : (setCtl s n x).lc = s.lc := rfl
@[simp] theorem State.setCtl_sec (s : State) (n : Nat) (x : Ctl) : (setCtl s n x).sec = s.sec := rfl
@[simp] theorem State.setCtl_hw (s : State) (n : Nat) (x : Ctl) : (setCtl s n x).hw = s.hw := rfl
@[simp] theorem State.setCtl_quiet (s : State) (n : Nat) (x : Ctl) : (setCtl s n x).quiet = s.quiet := rfl

end Sys2Proof.Machine
end

