-- ==== Sys2Proof/Tests/Slice0.lean ====
section
/-! SUPPORT. Tests on small states, one step each, with results taken from the rules named, and for each statement with hypotheses a
state and operands that meet them. -/

namespace Sys2Proof.Tests

open Sys2Proof.Machine Sys2Proof.Claims

-- One theorem after another: in parallel the stacks of their threads outgrow the memory limit.
set_option Elab.async false

/-! ## Ill-formed commands are refused by WellFormed -/

def noWear : Wear := ⟨0, 65536, 0, false⟩
def farReport : NeighbourReport := ⟨0, 1134000, true, true⟩
def frm (hdr : List Word) (pay : List Byte) : Frame := ⟨true, true, true, 0, 0, 0, hdr, pay, []⟩
def cyc : CycleIn := ⟨[], [], [], [], 0, false, [], [], [], [], [], [], [], false⟩
def pow : PowerUpResult := ⟨true, true, true, true, [], [], [], [], [], [], 0⟩
def longData : SbData := ⟨true, List.replicate 256 0⟩

theorem longData_wf : longData.wf = false := by
  simp only [SbData.wf, longData, List.length_replicate]; decide

theorem test_wf_add : (Instr.add ⟨0, 0⟩ 1 2 3).wf = true := by decide
theorem test_wf_frame : (Instr.frameFillDone 786432).wf = false ∧ (Instr.frameFillDone 786431).wf = true := by decide
theorem test_wf_wear : (Instr.xferDone 0 [noWear]).wf = false ∧ (Instr.refreshUnit 0 [noWear]).wf = false ∧
    (Instr.xferDone 0 [⟨0, 65535, 100, true⟩]).wf = true := by decide
theorem test_wf_spare : (Instr.xferDone 0 [⟨0, 0, 101, true⟩]).wf = false := by decide
theorem test_wf_header : (Instr.frameReceive 0 (frm [0] [])).wf = false ∧ (Instr.frameReceive 0 (frm (List.replicate 8 0) [])).wf = true := by decide
theorem test_wf_fetch : (Instr.commandFetch 0 0 [0]).wf = false ∧ (Instr.commandFetch 0 0 (List.replicate 16 0)).wf = true := by decide
theorem test_wf_size : (Instr.registerWrite 0 0 0 3).wf = false ∧ (Instr.registerWrite 0 0 0 64).wf = true := by decide
theorem test_wf_sample : (Instr.sensorSample [⟨.junction, 208, 0, 0⟩]).wf = false ∧ (Instr.sensorSample [⟨.junction, 0, 8, 0⟩]).wf = false ∧
    (Instr.sensorSample [⟨.junction, 207, 1, 0⟩]).wf = true := by decide
theorem test_wf_cycle : (Instr.decisionCycle { cyc with setpoints := [⟨0, .logic, 65536⟩] }).wf = false ∧ (Instr.decisionCycle cyc).wf = true := by decide
theorem test_wf_powerUp : (Instr.powerUpTest { pow with reports := [farReport] }).wf = false ∧
    (Instr.powerUpTest { pow with unitFail := [167] }).wf = false ∧ (Instr.powerUpTest { pow with unreachableRows := [1080] }).wf = false ∧
    (Instr.powerUpTest pow).wf = true := by decide
theorem test_wf_bistRun : (Instr.bistRunDone 0 ⟨true, [farReport], []⟩).wf = false ∧ (Instr.repairDone 0 ⟨true, [farReport], []⟩).wf = false ∧
    (Instr.bistRunDone 0 ⟨true, [⟨0, 1133999, true, true⟩], []⟩).wf = true := by decide
theorem test_wf_unit : (Instr.unitTestDone 167 true).wf = false ∧ (Instr.unitTestDone 216 true).wf = false ∧
    (Instr.unitTestDone 215 true).wf = true := by decide
theorem test_wf_busbar : (Instr.busRange 65001).wf = false ∧ (Instr.busRange 65000).wf = true := by decide
theorem test_wf_coolant : (Instr.coolantSample 65536 0 0 false).wf = false ∧ (Instr.coolantSample 65535 65535 65535 true).wf = true := by decide
theorem test_wf_sideband : (Instr.shutdown .smb longData).wf = false ∧ (Instr.restart .smb longData).wf = false ∧
    (Instr.readWindow .smb longData).wf = false ∧ (Instr.writeWindow .smb longData).wf = false ∧ (Instr.pinFunc .smb longData).wf = false :=
  ⟨longData_wf, longData_wf, longData_wf, longData_wf, longData_wf⟩
theorem test_wf_sideband_rest : (Instr.status .smb longData).wf = false ∧ (Instr.clearAlert .smb longData).wf = false ∧
    (Instr.mctp .smb longData false).wf = false ∧ (Instr.status .smb ⟨true, []⟩).wf = true :=
  ⟨longData_wf, longData_wf, longData_wf, by decide⟩
theorem test_wf_lowWord : (Instr.lowWordRead 0 ⟨2, 3⟩).wf = false ∧ (Instr.lowWordRead 0 ⟨2, 4⟩).wf = true := by decide

/-! ## Small states -/

def c0 : CoreId := ⟨0, 0⟩
def nx (o : Host.Outcome State Fault Refusal) : State := match o with
  | .next t => t
  | _ => State.reset
/-- The words below 0x80000000 that the tests store, untagged. -/
def u (n : Nat) : PWord := ⟨BitVec.ofNat 32 n, false⟩
/-- One core, in partition 1, which holds field 0, chimes 0 to 3 and physical lane 5. -/
def at0 (k : Core) : State := { gridRows := 1, cores := [(0, k)], parts := [(1, { st := .live, fields := 1, chimeCount := 4, lanes := [5], strmCount := 2 })], power := { regions := [(0, { st := .on })] }, hw := { phase := .up, ready := true } }
def run0 : Core := { st := .running, s := [(1, u 5), (2, u 0xFFFFFFFF), (4, ⟨7, true⟩)] }
def after (i : Instr) (k : Core) : Core := (nx (exec i (at0 k))).core c0
def causeAfter (i : Instr) (k : Core) : Nat := fld ((after i k).ctlW 0x04) 23 16

theorem witness_ready (i : Instr) : Ready (at0 run0) c0 i := ⟨by decide, .inl (by decide)⟩

/-! ## Scalar instructions (R33, R34, R64 to R67) -/

theorem witness_ScalarRegisterResults : (Instr.add, fun a b : Word => BitVec.ofInt 32 (a.toInt + b.toInt)) ∈ aluResults ∧
    Ready (at0 run0) c0 (.add c0 3 1 2) := ⟨.head _, witness_ready _⟩
theorem test_add_wraps : (after (.add c0 3 1 2) run0).rs 3 = u 4 := by decide
theorem test_add_pc : (after (.add c0 3 1 2) run0).pc = 4 := by decide
theorem test_add_s0 : (after (.add c0 0 1 2) run0).rs 0 = u 0 := by decide
theorem test_sub : (after (.sub c0 3 1 2) run0).rs 3 = u 6 := by decide
theorem test_and_poison : (after (.and c0 3 1 4) run0).rs 3 = ⟨5, true⟩ := by decide
theorem test_poison_seen : (after (.and c0 3 1 4) run0).ctlW 0x04 = 8 := by decide
theorem test_or : (after (.or c0 3 1 2) run0).rs 3 = u 0xFFFFFFFF := by decide
theorem test_xor : (after (.xor c0 3 1 2) run0).rs 3 = u 0xFFFFFFFA := by decide
theorem test_sll : (after (.sll c0 3 1 2) run0).rs 3 = u 0x80000000 := by decide
theorem test_srl : (after (.srl c0 3 2 1) run0).rs 3 = u 0x07FFFFFF := by decide
theorem test_sra : (after (.sra c0 3 2 1) run0).rs 3 = u 0xFFFFFFFF := by decide
theorem test_slt : (after (.slt c0 3 2 1) run0).rs 3 = u 1 := by decide
theorem test_sltu : (after (.sltu c0 3 2 1) run0).rs 3 = u 0 := by decide
theorem test_min : (after (.min c0 3 2 1) run0).rs 3 = u 0xFFFFFFFF := by decide
theorem test_max : (after (.max c0 3 2 1) run0).rs 3 = u 5 := by decide
theorem test_minu : (after (.minu c0 3 2 1) run0).rs 3 = u 5 := by decide
theorem test_maxu : (after (.maxu c0 3 2 1) run0).rs 3 = u 0xFFFFFFFF := by decide
theorem test_mul : (after (.mul c0 3 2 1) run0).rs 3 = u 0xFFFFFFFB := by decide
theorem test_mulh : (after (.mulh c0 3 2 1) run0).rs 3 = u 0xFFFFFFFF := by decide
theorem test_mulhu : (after (.mulhu c0 3 2 1) run0).rs 3 = u 4 := by decide
theorem test_div_zero : (after (.div c0 3 1 0) run0).rs 3 = u 0xFFFFFFFF := by decide
theorem test_div_neg : (after (.div c0 3 1 2) run0).rs 3 = u 0xFFFFFFFB := by decide
theorem test_div_overflow : (after (.div c0 3 5 2) { run0 with s := [(2, u 0xFFFFFFFF), (5, u 0x80000000)] }).rs 3 = u 0x80000000 := by decide
theorem test_divu : (after (.divu c0 3 2 1) run0).rs 3 = u 0x33333333 := by decide
theorem test_rem_zero : (after (.rem c0 3 2 0) run0).rs 3 = u 0xFFFFFFFF := by decide
theorem test_rem_overflow : (after (.rem c0 3 5 2) { run0 with s := [(2, u 0xFFFFFFFF), (5, u 0x80000000)] }).rs 3 = u 0 := by decide
theorem test_remu_zero : (after (.remu c0 3 1 0) run0).rs 3 = u 5 := by decide

theorem witness_ScalarImmediateResults : Ready (at0 run0) c0 (.clz c0 3 1) ∧ Ready (at0 run0) c0 (.lui c0 3 1) ∧ Ready (at0 run0) c0 (.li c0 3 1) :=
  ⟨witness_ready _, witness_ready _, witness_ready _⟩
theorem test_clz_zero : (after (.clz c0 3 0) run0).rs 3 = u 32 := by decide
theorem test_clz : (after (.clz c0 3 1) run0).rs 3 = u 29 := by decide
theorem test_popc : (after (.popc c0 3 1) run0).rs 3 = u 2 := by decide
theorem test_addi_sign : (after (.addi c0 3 1 0xFFFF) run0).rs 3 = u 4 := by decide
theorem test_andi_zeros : (after (.andi c0 3 2 0xFFFF) run0).rs 3 = u 0xFFFF := by decide
theorem test_ori : (after (.ori c0 3 1 0x8000) run0).rs 3 = u 0x8005 := by decide
theorem test_xori : (after (.xori c0 3 2 0x8000) run0).rs 3 = u 0xFFFF7FFF := by decide
theorem test_slti : (after (.slti c0 3 1 0xFFFF) run0).rs 3 = u 0 := by decide
theorem test_sltiu : (after (.sltiu c0 3 1 0xFFFF) run0).rs 3 = u 1 := by decide
theorem test_shifti : (after (.shifti c0 3 2 .sra 31) run0).rs 3 = u 0xFFFFFFFF := by decide
theorem test_shifti_srl : (after (.shifti c0 3 2 .srl 31) run0).rs 3 = u 1 := by decide
theorem test_lui : (after (.lui c0 3 0xFFFF) run0).rs 3 = u 0xFFFF0000 := by decide
theorem test_li : (after (.li c0 3 0xDEADBEEF) run0).rs 3 = u 0xDEADBEEF ∧ (after (.li c0 3 0xDEADBEEF) run0).pc = 8 := by decide

theorem witness_AddressRegisterResults : Ready (at0 run0) c0 (.amov c0 1 1) ∧ (((at0 run0).core c0).rs 1).poison = false ∧
    (((at0 run0).core c0).rs 4).poison = true := ⟨witness_ready _, by decide, by decide⟩
theorem test_amov : (after (.amov c0 1 1) run0).ra 1 = u 5 := by decide
theorem test_amov_poison : causeAfter (.amov c0 1 4) run0 = 0x06 ∧ (after (.amov c0 1 4) run0).st = .fenced := by decide
theorem test_smov_tag : (after (.smov c0 3 1) { run0 with a := [(1, ⟨9, true⟩)] }).rs 3 = ⟨9, true⟩ := by decide
theorem test_aadd : (after (.aadd c0 1 1 2) { run0 with a := [(1, u 9)] }).ra 1 = u 8 := by decide
theorem test_aaddi : (after (.aaddi c0 2 1 0x8000) { run0 with a := [(1, u 9)] }).ra 2 = u 0xFFFF8009 := by decide
theorem test_ali : (after (.ali c0 1 0x12345678) run0).ra 1 = u 0x12345678 ∧ (after (.ali c0 1 0) run0).pc = 8 := by decide

/-! ## Loads, stores, predicates (R36, R68 to R72) -/

def memK (a : Nat) : Core := { run0 with a := [(1, u a)], mem := [(16, 0x80), (17, 0xFF), (18, 0x7F), (19, 0x01)], memTag := [(5, true)] }

theorem witness_ScalarLoads : Ready (at0 run0) c0 (.lw c0 3 1 false 0) := witness_ready _
theorem witness_ScalarLoads_memory : ((memK 16).ra 1).poison = false ∧ (memK 16).ea 1 false (sext16 0) = 16 ∧ inMem 16 4 = true ∧
    inMem 0xBFFC 4 = true ∧ inMem 0xC000 4 = false ∧ regionOf 0xC000 4 = .none ∧ regionOf 0x31000 4 = .ctl := by decide
theorem test_lw : (after (.lw c0 3 1 false 0) (memK 16)).rs 3 = u 0x017FFF80 := by decide
theorem test_lw_post : (after (.lw c0 3 1 true 4) (memK 16)).ra 1 = u 20 := by decide
theorem test_lw_tag : (after (.lw c0 3 1 false 4) (memK 16)).rs 3 = ⟨0, true⟩ := by decide
theorem test_lw_misaligned : causeAfter (.lw c0 3 1 false 2) (memK 16) = 0x04 := by decide
theorem test_lw_unmapped : causeAfter (.lw c0 3 1 false 0) (memK 0xC000) = 0x04 := by decide
theorem test_lh_sign : (after (.lh c0 3 1 false 0) (memK 16)).rs 3 = u 0xFFFFFF80 := by decide
theorem test_lhu : (after (.lhu c0 3 1 false 0) (memK 16)).rs 3 = u 0xFF80 := by decide
theorem test_lb_sign : (after (.lb c0 3 1 false 0) (memK 16)).rs 3 = u 0xFFFFFF80 := by decide
theorem test_lbu : (after (.lbu c0 3 1 false 1) (memK 16)).rs 3 = u 0xFF := by decide
theorem test_lb_control : causeAfter (.lb c0 3 1 false 0) (memK 0x31004) = 0x04 := by decide
theorem witness_ScalarStores : Ready (at0 run0) c0 (.sw c0 3 1 false 0) := witness_ready _
theorem test_sw : (after (.sw c0 2 1 false 4) (memK 16)).memWord 20 = u 0xFFFFFFFF := by decide
theorem test_sw_kept : (after (.sw c0 2 1 false 4) (memK 16)).memWord 16 = u 0x017FFF80 := by decide
theorem test_sh_bytes : (after (.sh c0 1 1 false 0) (memK 16)).memWord 16 = u 0x017F0005 := by decide
theorem test_sb_poison : (after (.sb c0 4 1 false 3) (memK 16)).memWord 16 = ⟨0x077FFF80, true⟩ := by decide
theorem test_sw_misaligned : causeAfter (.sw c0 1 1 false 0) (memK 17) = 0x05 := by decide
theorem test_sw_control_poison : causeAfter (.sw c0 4 1 false 0) (memK 0x31010) = 0x08 := by decide
theorem test_sw_held : after (.sw c0 1 1 false 0) { memK 16 with inject := [.data 1 16 1 0 none] } =
    { memK 16 with inject := [.data 1 16 1 0 none], ir := some (.sw c0 1 1 false 0) } := by decide
theorem witness_VectorLoadStore : Ready (at0 run0) c0 (.vld c0 3 1 0 false 0) ∧ Ready (at0 run0) c0 (.vst c0 3 1 0 false 0) :=
  ⟨witness_ready _, witness_ready _⟩
theorem test_vld : ((after (.vld c0 3 1 0 false 0) (memK 0)).rv 3).lane .i32 4 = 0x017FFF80 := by decide
theorem test_vld_align : causeAfter (.vld c0 3 1 0 false 0) (memK 16) = 0x04 := by decide
theorem test_vst : (after (.vst c0 3 1 1 false 0) { memK 32 with v := [(3, ⟨0x0102, 0⟩)], p := [(1, 1)] }).memWord 32 = u 2 := by decide
theorem test_vst_align : causeAfter (.vst c0 3 1 0 false 0) (memK 4) = 0x05 := by decide

theorem witness_PredicateResults : Ready (at0 run0) c0 (.pand c0 1 2 3) ∧ Ready (at0 run0) c0 (.pnot c0 1 2) ∧ Ready (at0 run0) c0 (.pmovs c0 1 2) ∧
    Ready (at0 run0) c0 (.smovp c0 1 2) ∧ Ready (at0 run0) c0 (.pcnt c0 1 2) :=
  ⟨witness_ready _, witness_ready _, witness_ready _, witness_ready _, witness_ready _⟩
def predK : Core := { run0 with p := [(1, 0b1100), (2, 0b1010)] }
theorem test_pand : (after (.pand c0 3 1 2) predK).rp 3 = 0b1000 := by decide
theorem test_por : (after (.por c0 3 1 2) predK).rp 3 = 0b1110 := by decide
theorem test_pxor : (after (.pxor c0 3 1 2) predK).rp 3 = 0b0110 := by decide
theorem test_pandn : (after (.pandn c0 3 1 2) predK).rp 3 = 0b0100 := by decide
theorem test_pnot : (after (.pnot c0 3 1) predK).rp 3 = 0xFFFFFFF3 := by decide
theorem test_pnot_p0 : (after (.pnot c0 0 1) predK).rp 0 = 0xFFFFFFFF := by decide
theorem test_pmovs_poison : (after (.pmovs c0 3 4) predK).rp 3 = 0 := by decide
theorem test_smovp : (after (.smovp c0 3 0) predK).rs 3 = u 0xFFFFFFFF := by decide
theorem test_pcnt : (after (.pcnt c0 3 1) predK).rs 3 = u 2 := by decide

/-! ## Vectors and conversions (R73 to R79, R135 to R142) -/

def vecK : Core := { run0 with v := [(1, ⟨0x3F80000000000005, 0⟩), (2, ⟨0x40000000FFFFFFFF, 0b10⟩)], p := [(1, 0x0F), (2, 0)] }

theorem witness_VectorLaneResults : Ready (at0 run0) c0 (.vadd c0 .i32 0 3 1 2) := witness_ready _
theorem witness_VectorFusedAndSign : Ready (at0 run0) c0 (.vfma c0 .i32 0 3 1 2) ∧ Ready (at0 run0) c0 (.vabs c0 .i32 0 3 1) ∧
    Ready (at0 run0) c0 (.vneg c0 .u8 0 3 1) := ⟨witness_ready _, witness_ready _, witness_ready _⟩
theorem witness_VectorApproximations : Ready (at0 run0) c0 (.vexp2 c0 .fp32 0 3 1) ∧ Ready (at0 run0) c0 (.vrcp c0 .i32 0 3 1) :=
  ⟨witness_ready _, witness_ready _⟩
theorem witness_VectorCompareAndSelect : Ready (at0 run0) c0 (.vcmpeq c0 .i32 0 3 1 2) ∧ Ready (at0 run0) c0 (.vsel c0 .i32 0 3 1 2) :=
  ⟨witness_ready _, witness_ready _⟩
theorem witness_VectorReductions : Ready (at0 run0) c0 (.vredadd c0 .i32 0 3 1) ∧ Ready (at0 run0) c0 (.vredmax c0 .u8 0 3 1) :=
  ⟨witness_ready _, witness_ready _⟩
theorem witness_VectorScalarMoves : Ready (at0 run0) c0 (.vbcast c0 .i32 3 1) ∧ Ready (at0 run0) c0 (.vext c0 .i32 3 1 7) ∧
    Ready (at0 run0) c0 (.vins c0 .i32 3 1 8) ∧ Ready (at0 run0) c0 (.vbcasti c0 .i8 3 1) ∧ laneCount .i32 = 8 :=
  ⟨witness_ready _, witness_ready _, witness_ready _, witness_ready _, by decide⟩
theorem test_vadd_i32 : ((after (.vadd c0 .i32 0 3 1 2) vecK).rv 3).lane .i32 0 = 4 := by decide
theorem test_vadd_fp32 : ((after (.vadd c0 .fp32 0 3 1 2) vecK).rv 3).lane .fp32 1 = 0x40400000 := by decide
theorem test_vsub_tag : (after (.vsub c0 .i32 0 3 1 2) vecK).rv 3 = ⟨0xFF80000000000006, 0b10⟩ := by decide
theorem test_vmul_fp32 : ((after (.vmul c0 .fp32 0 3 1 2) vecK).rv 3).lane .fp32 1 = 0x40000000 := by decide
theorem test_vmul_i8 : ((after (.vmul c0 .i8 1 3 1 2) vecK).rv 3).lane .i8 0 = 0xFB := by decide
theorem test_vmin_u8 : ((after (.vmin c0 .u8 0 3 1 2) vecK).rv 3).lane .u8 0 = 5 := by decide
theorem test_vmax_i8 : ((after (.vmax c0 .i8 0 3 1 2) vecK).rv 3).lane .i8 1 = 0 := by decide
theorem test_vand : ((after (.vand c0 .i32 0 3 1 2) vecK).rv 3).lane .i32 0 = 5 := by decide
theorem test_vor : ((after (.vor c0 .i32 0 3 1 2) vecK).rv 3).lane .i32 1 = 0x7F800000 := by decide
theorem test_vxor : ((after (.vxor c0 .i32 0 3 1 2) vecK).rv 3).lane .i32 0 = 0xFFFFFFFA := by decide
theorem test_vsll_fp32 : causeAfter (.vsll c0 .fp32 0 3 1 2) vecK = 0x01 := by decide
theorem test_vsll : ((after (.vsll c0 .i32 0 3 1 1) vecK).rv 3).lane .i32 0 = 160 := by decide
theorem test_vsrl : ((after (.vsrl c0 .i32 0 3 2 1) vecK).rv 3).lane .i32 0 = 0x07FFFFFF := by decide
theorem test_vsra : ((after (.vsra c0 .i32 0 3 2 1) vecK).rv 3).lane .i32 0 = 0xFFFFFFFF := by decide
theorem test_vfma_i32 : ((after (.vfma c0 .i32 0 1 1 2) vecK).rv 1).lane .i32 0 = 0 := by decide
theorem test_vfma_fp32 : ((after (.vfma c0 .fp32 0 1 1 2) vecK).rv 1).lane .fp32 1 = 0x40400000 := by decide
theorem test_vabs : ((after (.vabs c0 .i32 0 3 2) vecK).rv 3).lane .i32 0 = 1 := by decide
theorem test_vabs_u8 : causeAfter (.vabs c0 .u8 0 3 2) vecK = 0x01 := by decide
theorem test_vneg_fp32 : ((after (.vneg c0 .fp32 0 3 1) vecK).rv 3).lane .fp32 1 = 0xBF800000 := by decide
theorem test_vcmpeq : (after (.vcmpeq c0 .i32 0 3 1 1) vecK).rp 3 = 0xFFFFFFFF := by decide
theorem test_vcmplt_signed : (after (.vcmplt c0 .i32 1 3 2 1) vecK).rp 3 = 0x0F := by decide
theorem test_vcmple_poison : (after (.vcmple c0 .i32 0 3 2 2) vecK).rp 3 = 0xFFFFFF0F := by decide
theorem test_vsel : (after (.vsel c0 .i32 1 3 1 2) vecK).rv 3 = ⟨0x4000000000000005, 0b10⟩ := by decide
theorem test_vredadd : ((after (.vredadd c0 .i32 1 3 2) vecK).rv 3).lane .i32 7 = 0xFFFFFFFF := by decide
theorem test_vredadd_i8 : causeAfter (.vredadd c0 .i8 0 3 2) vecK = 0x01 := by decide
theorem test_vredmax_none : ((after (.vredmax c0 .i16 2 3 1) vecK).rv 3).lane .i16 0 = 0x8000 := by decide
theorem test_vredmax : ((after (.vredmax c0 .i32 0 3 1) vecK).rv 3).lane .i32 7 = 0x3F800000 := by decide
theorem test_vexp2_zero : ((after (.vexp2 c0 .fp32 0 3 0) vecK).rv 3).lane .fp32 0 = 0x3F800000 := by decide
theorem test_vrcp_zero : ((after (.vrcp c0 .fp32 0 3 0) vecK).rv 3).lane .fp32 0 = 0x7F800000 := by decide
theorem test_vrcp_i32 : causeAfter (.vrcp c0 .i32 0 3 0) vecK = 0x01 := by decide
theorem test_vrsqrt_zero : ((after (.vrsqrt c0 .bf16 0 3 0) vecK).rv 3).lane .bf16 0 = 0x7F80 := by decide
theorem test_vbcast : ((after (.vbcast c0 .i8 3 2) vecK).rv 3).lane .i8 31 = 0xFF := by decide
theorem test_vext_last : (after (.vext c0 .i8 3 2 3) vecK).rs 3 = u 0xFFFFFFFF := by decide
theorem test_vext_beyond : causeAfter (.vext c0 .i32 3 2 8) vecK = 0x01 := by decide
theorem test_vins : (after (.vins c0 .i32 1 1 1) vecK).rv 1 = ⟨0x0000000500000005, 0⟩ := by decide
theorem test_vbcasti : ((after (.vbcasti c0 .i16 3 0x12345) vecK).rv 3).lane .i16 15 = 0x2345 ∧ (after (.vbcasti c0 .i16 3 0) vecK).pc = 8 := by decide

theorem witness_NarrowingConversions : Ready (at0 run0) c0 (.vqscale c0 .fp32 .e4m3 3 4 0) ∧ Ready (at0 run0) c0 (.vquant c0 .fp32 .e4m3 3 2 0) :=
  ⟨witness_ready _, witness_ready _⟩
theorem witness_WideningConversions : Ready (at0 run0) c0 (.vdq c0 .fp32 .e4m3 4 1 2) ∧ Ready (at0 run0) c0 (.vdq c0 .bf16 .e4m3 3 1 2) ∧
    Ready (at0 run0) c0 (.vcvt c0 true 3 1 2) ∧ Ready (at0 run0) c0 (.vcvt c0 false 4 1 0) ∧ fld (((at0 run0).core c0).ctlW 0x80) 1 0 = 0 :=
  ⟨witness_ready _, witness_ready _, witness_ready _, witness_ready _, by decide⟩
theorem test_vqscale_binding : causeAfter (.vqscale c0 .fp32 .e4m3 3 2 0) vecK = 0x01 := by decide
theorem test_vquant_binding : causeAfter (.vquant c0 .fp32 .e4m3 3 4 1) vecK = 0x01 := by decide
theorem test_vquant_zero : (after (.vquant c0 .bf16 .int8 3 4 5) vecK).rv 3 = ⟨0, 0⟩ := by decide
theorem test_vdq_binding : causeAfter (.vdq c0 .fp32 .e4m3 2 4 5) vecK = 0x01 := by decide
theorem test_vcvt_narrow : (after (.vcvt c0 true 3 1 4) vecK).rv 3 = ⟨0x3F800000, 0⟩ := by decide
theorem test_vcvt_widen : (after (.vcvt c0 false 4 3 0) { vecK with v := [(3, ⟨0x3F804000, 0⟩)] }).rv 4 = ⟨0x3F80000040000000, 0⟩ := by decide

/-! ## Control flow, system, fetch (R37, R49, R60, R61, R80 to R90) -/

theorem witness_BranchesAndJumps : Ready (at0 run0) c0 (.beq c0 1 1 4) ∧ Ready (at0 run0) c0 (.dbnz c0 1 4) ∧ Ready (at0 run0) c0 (.jal c0 4) ∧
    Ready (at0 run0) c0 (.jalr c0 3 1 4) ∧ Ready (at0 run0) c0 (.jl c0 3 4) :=
  ⟨witness_ready _, witness_ready _, witness_ready _, witness_ready _, witness_ready _⟩
theorem test_beq_back : (after (.beq c0 1 1 0xFFFF) { run0 with pc := 8 }).pc = 4 := by decide
theorem test_bne_not : (after (.bne c0 1 1 4) run0).pc = 4 := by decide
theorem test_blt : (after (.blt c0 2 1 4) run0).pc = 16 := by decide
theorem test_bge_equal : (after (.bge c0 1 1 4) run0).pc = 16 := by decide
theorem test_bltu : (after (.bltu c0 2 1 4) run0).pc = 4 := by decide
theorem test_bgeu_poison : causeAfter (.bgeu c0 4 1 4) run0 = 0x07 := by decide
theorem test_bgeu : (after (.bgeu c0 2 1 4) run0).pc = 16 := by decide
theorem test_dbnz_last : (after (.dbnz c0 1 4) { run0 with s := [(1, u 1)] }).pc = 4 := by decide
theorem test_dbnz : (after (.dbnz c0 1 4) run0).pc = 16 ∧ (after (.dbnz c0 1 4) run0).rs 1 = u 4 := by decide
theorem test_jal : (after (.jal c0 2) run0).pc = 8 ∧ (after (.jal c0 2) run0).rs 31 = u 4 := by decide
theorem test_jalr : (after (.jalr c0 1 1 3) run0).pc = 8 ∧ (after (.jalr c0 1 1 3) run0).rs 1 = u 4 := by decide
theorem test_jl : (after (.jl c0 31 0x100) run0).pc = 0x100 ∧ (after (.jl c0 31 0x100) run0).rs 31 = u 8 := by decide

theorem witness_SystemInstructions : Ready (at0 run0) c0 (.nop c0) ∧ Ready (at0 run0) c0 (.fenceL c0) ∧ Ready (at0 run0) c0 (.fenceF c0) ∧
    Ready (at0 run0) c0 (.fence c0) ∧ Ready (at0 run0) c0 (.halt c0) ∧ isRouteLost (at0 run0) c0 = false :=
  ⟨witness_ready _, witness_ready _, witness_ready _, witness_ready _, witness_ready _, by decide⟩
def job0 : MmJob := ⟨0, ⟨0, 0⟩, ⟨0, 0⟩, false, false, false, false, false, 0, false, 0, 0, 0⟩
theorem test_nop : (after (.nop c0) run0).pc = 4 := by decide
theorem test_fenceL_waits : (after (.fenceL c0) { run0 with dPend := some job0 }).pc = 0 ∧ (after (.fenceL c0) run0).pc = 4 := by decide
theorem test_fenceF_waits : (after (.fenceF c0) { run0 with inject := [.arrive 1] }).pc = 0 ∧ (after (.fenceF c0) run0).pc = 4 := by decide
theorem test_fence_waits : (after (.fence c0) { run0 with inject := [.arrive 1] }).pc = 0 ∧ (after (.fence c0) run0).pc = 4 := by decide
theorem test_halt : (after (.halt c0) run0).st = .sleeping ∧ (after (.halt c0) run0).pc = 4 := by decide
theorem witness_CoreFaultPath : Ready (at0 run0) c0 (.trap c0 5) := witness_ready _
theorem test_trap : causeAfter (.trap c0 5) run0 = 0x85 ∧ (after (.trap c0 5) run0).st = .fenced := by decide
theorem test_trap_pc : (after (.trap c0 127) { run0 with pc := 12 }).ctlW 0x0C = 12 ∧ causeAfter (.trap c0 127) run0 = 0xFF := by decide

def fetchK (pc : Word) (mem : List Host.Cell) : Core := { run0 with pc := pc, mem := mem }
theorem witness_FetchLatches : ((at0 run0).core c0).st = .running ∧ ((at0 run0).core c0).ir = none := by decide
theorem test_fetch_add : (after (.fetch c0) (fetchK 0 [(1, 0x10), (2, 0x61), (3, 0x04)])).ir = some (.add c0 3 1 2) := by decide
theorem test_fetch_beyond : causeAfter (.fetch c0) (fetchK 0xC000 []) = 0x02 ∧ causeAfter (.fetch c0) (fetchK 2 []) = 0x02 := by decide
theorem test_fetch_last : causeAfter (.fetch c0) (fetchK 0xBFFC []) = 0x01 := by decide
theorem test_fetch_long_beyond : causeAfter (.fetch c0) (fetchK 0xBFFC [(0xBFFE, 0x20), (0xBFFF, 0xE1)]) = 0x02 := by decide
theorem test_fetch_long : (after (.fetch c0) (fetchK 0 [(2, 0x20), (3, 0xE1), (4, 0x07)])).ir = some (.li c0 9 7) := by decide
theorem test_fetch_poison : causeAfter (.fetch c0) { fetchK 0 [(3, 0x04)] with memTag := [(0, true)] } = 0x03 := by decide
theorem test_words_add : decodeShort c0 0x04611000 = some (.add c0 3 1 2) := by decide
theorem test_words_sub : decodeShort c0 (0b000001#6 ++ 3#5 ++ 1#5 ++ 2#5 ++ 0#5 ++ 1#6) = some (.sub c0 3 1 2) := by decide

/-! ## Tensor work, descriptors (R94 to R107) -/

/-- The dense INT8 descriptors of an operand tile A at 0 and a tile B at 0x1000, K 32, scales at 0x2000. -/
def descA : VReg := ⟨0x00002000_00000020_00000000_16000020, 0⟩
def descB : VReg := ⟨0x00002000_00000020_00001000_16800020, 0⟩
/-- A window: two buffers of 32 bytes at 0, status at 0x100, route 1, stream 0, generation 1. -/
def win (att : Nat) : VReg := ⟨BitVec.ofNat 256 (0x00010000_00000100_00000020_00000000_30020100 + att * 2 ^ 26), 0⟩
def tenK : Core := { run0 with d := [(1, descA), (2, descB), (3, win 0), (4, win 1)] }

theorem witness_MmIssue : Ready (at0 tenK) c0 (.mm c0 0 1 2 false false false) ∧ mmCheck (tenK.rd 1) (tenK.rd 2) false false = none ∧
    dFbEn (tenK.rd 2) = false ∧ tenK.dPend = none := ⟨⟨by decide, .inl (by decide)⟩, by decide, by decide, by decide⟩
theorem witness_MmIssue_kind : mmCheck (tenK.rd 2) (tenK.rd 2) false false = some 0x10 := by decide
theorem test_mm : (after (.mm c0 0 1 2 false false false) tenK).dPend =
    some ⟨0, descA, descB, false, false, false, false, false, 0, false, 0, 0, 0⟩ := by decide
theorem test_mm_kind : causeAfter (.mm c0 0 2 2 false false false) tenK = 0x10 := by decide
theorem test_mm_waits : (after (.mm c0 0 1 2 false false false) { tenK with dPend := some job0 }).pc = 0 := by decide
theorem witness_MmExecution : (tenK.dExec = none ∧ { tenK with dPend := some job0 }.dPend = some job0 ∧ job0.o = false) ∧
    { tenK with dExec := some job0 }.dExec = some job0 ∧ { tenK with sExec := some job0 }.sExec = some job0 := by decide
theorem test_mmStart : (after (.mmStart c0 false) { tenK with dPend := some job0 }).dExec = some { job0 with started := true } := by decide
theorem test_mmStart_sparse : (after (.mmStart c0 true) { tenK with sPend := some job0 }).sPend = none := by decide

theorem witness_AccumulatorMoves : Ready (at0 run0) c0 (.acczero c0 1) ∧ Ready (at0 run0) c0 (.accrd c0 1 1 2 true) ∧
    Ready (at0 run0) c0 (.accwr c0 1 2 true 1) := ⟨witness_ready _, witness_ready _, witness_ready _⟩
theorem test_accrd : ((after (.accrd c0 3 1 2 true) { run0 with acc := [(256 + 47, ⟨7, true⟩)] }).rv 3).pword 7 = ⟨7, true⟩ := by decide
theorem test_accwr : (after (.accwr c0 1 2 true 3) { run0 with v := [(3, ⟨7, 0⟩)] }).acc = [(256 + 40, u 7)] := by decide
theorem test_accwr_waits : (after (.accwr c0 0 2 true 3) { run0 with dExec := some job0 }).pc = 0 := by decide
theorem witness_AccumulatorMemory : Ready (at0 run0) c0 (.accst c0 1 1 false) ∧ Ready (at0 run0) c0 (.accld c0 1 1 false) ∧
    inMem 0xBC00 1024 = true ∧ inMem 0xBC20 1024 = false := ⟨witness_ready _, witness_ready _, by decide, by decide⟩
theorem test_accst_beyond : causeAfter (.accst c0 1 1 false) (memK 0xBC20) = 0x15 := by decide
theorem test_accld_align : causeAfter (.accld c0 1 1 false) (memK 16) = 0x15 := by decide

theorem witness_DescriptorMoves : Ready (at0 tenK) c0 (.dld c0 1 1 true) ∧ Ready (at0 tenK) c0 (.dst c0 1 1 true) ∧
    Ready (at0 tenK) c0 (.dmov c0 1 2) ∧ Ready (at0 tenK) c0 (.dbase c0 1 1) ∧ Ready (at0 tenK) c0 (.dadd c0 1 1) ∧ attached (tenK.rd 4) = true ∧
    attached (tenK.rd 3) = false := ⟨⟨by decide, .inl (by decide)⟩, ⟨by decide, .inl (by decide)⟩, ⟨by decide, .inl (by decide)⟩,
      ⟨by decide, .inl (by decide)⟩, ⟨by decide, .inl (by decide)⟩, by decide, by decide⟩
theorem test_dld_strips : (after (.dld c0 1 1 true) { memK 32 with mem := [(35, 0x34)] }).rd 1 = ⟨0x30000000, 0⟩ := by decide
theorem test_dst : (after (.dst c0 1 1 true) { tenK with a := [(1, u 64)] }).memWord 64 = u 0x16000020 := by decide
theorem test_dmov : (after (.dmov c0 1 4) tenK).rd 1 = win 0 := by decide
theorem test_dmov_attached : causeAfter (.dmov c0 4 1) tenK = 0x28 := by decide
theorem test_dbase : ((after (.dbase c0 1 2) tenK).rd 1).word 1 = 0xFFFFFFFF := by decide
theorem test_dadd : ((after (.dadd c0 2 1) tenK).rd 2).word 1 = 0x1005 := by decide
theorem test_dadd_poison : causeAfter (.dadd c0 2 4) tenK = 0x06 := by decide

/-! ## Taps, chimes, downbeats, windows, sends (R84, R108 to R122) -/

/-- Route 1 loaded, to one destination, two words. -/
def routed : Router := { routes := [(1, 0x80008001), (2, 0xC0004001), (5, 0x80004001)] }
def at1 (k : Core) : State := { at0 k with routers := [(0, routed)] }
def after1 (i : Instr) (k : Core) : Core := (nx (exec i (at1 k))).core c0
def cause1 (i : Instr) (k : Core) : Nat := fld ((after1 i k).ctlW 0x04) 23 16
theorem ready1 (i : Instr) : Ready (at1 run0) c0 i := ⟨by decide, .inl (by decide)⟩

theorem witness_TapInstructions : Ready (at0 run0) c0 (.tset c0 63) ∧ Ready (at0 run0) c0 (.tclr c0 0) ∧ Ready (at0 run0) c0 (.ttest c0 1 0) ∧
    Ready (at0 run0) c0 (.twait c0 0) ∧ Ready (at0 run0) c0 (.twaitk c0 0) ∧ isRouteLost (at0 run0) c0 = false :=
  ⟨witness_ready _, witness_ready _, witness_ready _, witness_ready _, witness_ready _, by decide⟩
theorem test_tset : (after (.tset c0 63) run0).ctlW 0x14 = 0x80000000 := by decide
theorem test_tclr : (after (.tclr c0 3) { run0 with ctl := [(0x10, 0xC)] }).ctlW 0x10 = 4 := by decide
theorem test_ttest : (after (.ttest c0 3 2) { run0 with ctl := [(0x10, 0xC)] }).rs 3 = u 1 := by decide
theorem test_twait : (after (.twait c0 2) { run0 with ctl := [(0x10, 0xC)] }).ctlW 0x10 = 8 := by decide
theorem test_twait_waits : (after (.twait c0 1) run0).wait = some (.tap 1 true) := by decide
theorem test_twaitk : (after (.twaitk c0 2) { run0 with ctl := [(0x10, 0xC)] }).ctlW 0x10 = 0xC := by decide
theorem test_twaitk_waits : (after (.twaitk c0 1) run0).st = .waiting := by decide

theorem witness_ChimePackets : Ready (at1 run0) c0 (.trset c0 1 5) ∧ Ready (at1 run0) c0 (.chadd c0 1 2 1) ∧ Ready (at1 run0) c0 (.chwatch c0 1 2 5 1) ∧
    Ready (at1 run0) c0 (.chwait c0 1 2 5 1) ∧ isRouteLost (at1 run0) c0 = false ∧ routeOf (at1 run0) (coreKey c0) 1 = some 0x80008001 ∧
    2 ≤ routeWords 0x80008001 ∧ (run0.rs 1).poison = false ∧ run0.watchTaps.getLsbD 5 = false ∧ run0.full = false ∧ run0.tapOn 5 = false :=
  ⟨ready1 _, ready1 _, ready1 _, ready1 _, by decide⟩
def fullK : Core := { run0 with inject := List.replicate 8 (.arrive 0) }
theorem test_trset : (after1 (.trset c0 1 5) run0).inject = [.tapset 1 5] := by decide
theorem test_trset_full : (after1 (.trset c0 1 5) fullK).wait = some .inject := by decide
theorem test_trset_none : cause1 (.trset c0 3 5) run0 = 0x18 ∧ cause1 (.trset c0 0 5) run0 = 0x18 := by decide
theorem test_chadd : (after1 (.chadd c0 1 2 1) run0).inject = [.words 1 3 [u 2, u 5] true] := by decide
theorem test_chadd_step : cause1 (.chadd c0 1 2 2) run0 = 0x20 ∧ cause1 (.chadd c0 1 2 4) run0 = 0x21 := by decide
theorem test_chwatch : (after1 (.chwatch c0 1 2 5 1) run0).inject = [.words 1 3 [u 0x40050002, u 5] true] := by decide
theorem test_chwatch_marks : (after1 (.chwatch c0 1 2 5 1) run0).watchTaps = 0x20 := by decide
theorem test_chwait : (after1 (.chwait c0 1 2 5 1) run0).wait = some (.tap 5 true) := by decide

/-- The core takes part in partition lane 0, physical lane 5. -/
def laneK : Core := { run0 with enForce := 1, ctl := [(0x100, 1)] }
def atL (st : LaneState) (k : Core) : State := { at1 k with lanes := [(5, { owner := 1, st := st, mask := 1, maskF := 1 })] }
def pendK : Core := { laneK with ctl := [(0x100, 1), (0x108, 1)] }
def afterL (i : Instr) (st : LaneState) (k : Core) : Core := (nx (exec i (atL st k))).core c0
theorem readyL (i : Instr) (st : LaneState) : Ready (atL st laneK) c0 i := ⟨by cases st <;> decide, .inl (by cases st <;> decide)⟩
theorem witness_DownbeatInstructions_off : laneOff (at0 run0) 0 0 = true ∧ Ready (at0 run0) c0 (.dbarrive c0 0) := ⟨by decide, witness_ready _⟩
theorem witness_DownbeatInstructions_failed : laneOff (atL .failed laneK) 0 0 = false ∧ laneSt (atL .failed laneK) 0 0 = .failed ∧
    Ready (atL .failed laneK) c0 (.dbwait c0 3 0) := ⟨by decide, by decide, readyL _ _⟩
theorem witness_DownbeatInstructions_idle : laneOff (atL .idle laneK) 0 0 = false ∧ laneSt (atL .idle laneK) 0 0 = .idle ∧
    (lanePend laneK).getLsbD 0 = false ∧ laneK.full = false ∧ Tab.get 0 laneK.dbRel 0 ≠ 3 ∧ Ready (atL .idle laneK) c0 (.dbsync c0 3 0) :=
  ⟨by decide, by decide, by decide, by decide, by decide, readyL _ _⟩
theorem witness_DownbeatInstructions_pending : laneOff (atL .busy pendK) 0 0 = false ∧ (lanePend pendK).getLsbD 0 = true ∧
    Ready (atL .busy pendK) c0 (.dbwait c0 3 0) := ⟨by decide, by decide, by decide, .inl (by decide)⟩
theorem test_dbarrive_off : causeAfter (.dbarrive c0 0) run0 = 0x24 := by decide
theorem test_dbarrive : (afterL (.dbarrive c0 0) .idle laneK).inject = [.arrive 0] ∧ (afterL (.dbarrive c0 0) .idle laneK).ctlW 0x108 = 1 := by decide
theorem test_dbwait_failed : (afterL (.dbwait c0 3 0) .failed laneK).rs 3 = u 2 := by decide
theorem test_dbwait_waits : (afterL (.dbwait c0 3 0) .busy pendK).wait = some (.lane 0 3) := by decide
theorem test_dbsync : (afterL (.dbsync c0 3 0) .idle laneK).wait = some (.lane 0 3) := by decide
theorem test_dbstat_pending : (afterL (.dbstat c0 3 0) .busy pendK).rs 3 = u 1 := by decide
theorem test_dbstat : (afterL (.dbstat c0 3 0) .idle laneK).rs 3 = u 0 := by decide

theorem witness_StreamWindows : isRouteLost (at1 tenK) c0 = false ∧ winCheck (at1 tenK) 0 (win 0) true = none ∧ winCheck (at1 tenK) 0 (win 1) true = none ∧
    winCheck (at1 tenK) 0 (win 1) false = none ∧ attached (win 1) = true ∧ attached (win 0) = false ∧ tenK.full = false ∧ (tenK.rs 1).poison = false ∧
    Ready (at1 tenK) c0 (.sattach c0 3) ∧ Ready (at1 tenK) c0 (.swait c0 4 1) :=
  ⟨by decide, by decide, by decide, by decide, by decide, by decide, by decide, by decide, ⟨by decide, .inl (by decide)⟩, by decide, .inl (by decide)⟩
theorem test_sattach : (after1 (.sattach c0 3) tenK).inject = [.words 1 4 [u 0x10000000, u 0x10020] false] := by decide
theorem test_sattach_att : attached ((after1 (.sattach c0 3) tenK).rd 3) = true ∧ cause1 (.sattach c0 4) tenK = 0x28 := by decide
theorem test_sdetach : attached ((after1 (.sdetach c0 4) tenK).rd 4) = false ∧ cause1 (.sdetach c0 3) tenK = 0x28 := by decide
theorem test_srel : (after1 (.srel c0 4 1) tenK).inject = [.words 1 4 [u 0x30000000, u 5] false] := by decide
theorem test_sfrel : (after1 (.sfrel c0 4 2) tenK).inject = [.words 1 4 [u 0x40000000, u 0xFFFF] false] := by decide
theorem test_swait : (after1 (.swait c0 4 1) { tenK with mem := [(256, 5)] }).pc = 4 := by decide
theorem test_swait_waits : (after1 (.swait c0 4 1) { tenK with mem := [(256, 4)] }).wait = some (.stat 256 false 5) := by decide
theorem test_sfwait : (after1 (.sfwait c0 4 1) { tenK with mem := [(258, 6)] }).pc = 4 := by decide

theorem witness_SendAndMcast : Ready (at1 run0) c0 (.send c0 1 1 0 false 2 16) ∧ isRouteLost (at1 run0) c0 = false ∧
    ((at1 run0).core c0).ra 1 = u 0 := ⟨ready1 _, by decide, by decide⟩
theorem test_send : (after1 (.send c0 1 1 7 true 2 16) run0).inject = [.data 1 0 2 16 (some 7)] := by decide
theorem test_send_kind : cause1 (.mcast c0 1 1 0 false 2 16) run0 = 0x1B ∧ cause1 (.send c0 2 1 0 false 1 16) run0 = 0x1B := by decide
theorem test_mcast : (after1 (.mcast c0 2 1 0 false 1 16) run0).inject = [.data 2 0 1 16 none] := by decide
theorem test_send_length : cause1 (.send c0 1 1 0 false 3 16) run0 = 0x19 := by decide
theorem test_send_range : cause1 (.send c0 1 1 0 false 2 0xBFFC) run0 = 0x1A ∧ cause1 (.send c0 1 1 0 false 2 2) run0 = 0x1A := by decide

def reportK : Core := { run0 with a := [(1, u 0x310C4)], ctl := [(0xC0, 5)] }
def enableK : Core := { laneK with a := [(1, u 0x31100)] }
theorem witness_ControlStoreEvents : Ready (at1 reportK) c0 (.sw c0 1 1 false 0) ∧ reportK.ea 1 false (sext16 0) = 0x310C4 ∧
    (reportK.ra 1).poison = false ∧ (reportK.rs 1).poison = false ∧ reportK.mmBusy = false ∧
    routeOf (at1 reportK) 0 (reportK.ctlW 0xC0).toNat = some 0x80004001 ∧ routeWords 0x80004001 = 1 ∧ reportK.full = false :=
  ⟨⟨by decide, .inl (by decide)⟩, by decide⟩
theorem witness_ControlStoreEvents_lanes : Ready (at1 enableK) c0 (.sw c0 1 1 false 0) ∧ enableK.ea 1 false (sext16 0) = 0x31100 + 4 * 0 ∧
    clearsPending enableK 0 ((enableK.rs 1).val &&& laneGrant (at1 enableK) 0 0) = false := ⟨⟨by decide, .inl (by decide)⟩, by decide, by decide⟩
theorem test_corePuReport : (after1 (.corePuReport c0 1 1 false 0) reportK).inject = [.words 5 5 [u 5] false] := by decide
theorem test_corePuReport_peal : cause1 (.corePuReport c0 1 1 false 0) { reportK with ctl := [(0xC0, 2)] } = ROUTE_KIND.toNat := by decide
theorem test_coreLaneEnWrite : (after1 (.coreLaneEnWrite c0 2 1 false 0) enableK).ctlW 0x100 = 1 := by decide

def waitK (w : WaitCond) (i : Instr) : Core := { run0 with st := .waiting, wait := some w, ir := some i }
theorem witness_WaitsEnd : (waitK (.tap 2 true) (.twait c0 2)).st = .waiting ∧ (waitK (.tap 2 true) (.twait c0 2)).wait = some (.tap 2 true) ∧
    (waitK (.tap 2 true) (.twait c0 2)).ir = some (.twait c0 2) ∧ (waitK .inject (.trset c0 1 5)).full = false := by decide
theorem witness_WaitsEnd_status : (waitK (.stat 256 false 0) (.swait c0 4 0)).wait = some (.stat 256 false 0) ∧
    (waitK (.stat 256 false 0) (.swait c0 4 0)).statReached 256 false 0 = true ∧ (waitK (.stat 256 false 1) (.swait c0 4 0)).statReached 256 false 1 = false := by decide
theorem test_wait_tap : (after (.waitConditionMet c0) { waitK (.tap 2 true) (.twait c0 2) with ctl := [(0x10, 4)] }).st = .running := by decide
theorem test_wait_tap_not : after (.waitConditionMet c0) (waitK (.tap 2 true) (.twait c0 2)) = waitK (.tap 2 true) (.twait c0 2) := by decide

/-! ## Fabric and homes (R180 to R231) -/

/-- A packet that came to router 0, or to engine 0 from it, sent by core c0 on route 1. -/
def pkt (hdr : Nat) (pay : List PWord) : Packet := ⟨u hdr, pay, some ⟨.core c0, 1, 2⟩, 0, 8⟩
/-- Words on the tracks of core c0's router. -/
def tw (n : Nat) : TWord := ⟨u n, none⟩
def nxs (i : Instr) (s : State) : State := nx (exec i s)
def sendK : Core := { run0 with inject := [.tapset 1 5], mem := [(0, 9)] }

theorem witness_InjectionTakes : routerDown (at1 sendK) 0 = false ∧ mayLeave sendK (.tapset 1 5) = true ∧
    routeOf (at1 sendK) 0 1 = some 0x80008001 ∧ sendK.inject = .tapset 1 5 :: [] := by decide
theorem witness_InjectionTakes_waits : mayLeave { sendK with unacked := [⟨0, 1, true⟩] } (.tapset 1 5) = false ∧
    mayLeave sendK (.arrive 0) = true := by decide
theorem test_injectTake_tapset : ((Tab.get [] ((nxs (.injectTake c0) (at1 sendK)).router 0).inq 16).map (·.w)).head? = some (u 0x28A00000) := by decide
theorem test_injectTake_arrive : ((nxs (.injectTake c0) (at1 { run0 with inject := [.arrive 3] })).core c0).arriving = [(3, 0)] := by decide

/-- Outbound track 0 (north) of router 0 moves words from its local input track 16; track 4 (east) merges the tracks 0 of N and L. -/
def fab (inq : Tab (List TWord)) : State := { at1 run0 with gridRows := 2, routers := [(0, { routed with seqs := [(0, [some 0x30000000]), (4, [some 0x51000000])], inq := inq })] }
theorem witness_SlotsMoveWords : routerDown (fab [(16, [tw 9])]) 0 = false ∧ neighbour (fab []) 0 0 = some 1022 ∧
    ((fab [(16, [tw 9])]).router 0).slot 0 = some (0x30000000, (fab [(16, [tw 9])]).router 0) ∧ slotOp 0x30000000 = 1 ∧ moveVar 0x30000000 = false ∧
    moveIn 0x30000000 = 16 ∧ canAccept (fab [(16, [tw 9])]) 0 0 = true := by decide
theorem witness_SlotsMoveWords_merge : neighbour (fab []) 0 1 = some 1 ∧ slotOp 0x51000000 = 2 ∧ mergePorts 0x51000000 = [0, 4] ∧ mergeTrk 0x51000000 = 0 ∧
    canAccept (fab [(0, [tw 3]), (16, [tw 9])]) 0 4 = true := by decide
theorem test_trackMove : Tab.get [] ((nxs (.trackMove c0 ⟨0, false⟩) (fab [(16, [tw 9])])).router 1022).inq 8 = [tw 9] := by decide
theorem test_trackMove_bad : Tab.get [] ((nxs (.trackMove c0 ⟨0, true⟩) (fab [(16, [tw 9])])).router 1022).inq 8 = [⟨⟨9, true⟩, none⟩] := by decide
theorem test_trackMove_empty : nxs (.trackMove c0 ⟨0, false⟩) (fab []) = fab [] := by decide
theorem test_trackMerge : Tab.get [] ((nxs (.trackMerge c0 ⟨4, false⟩) (fab [(0, [tw 3]), (16, [⟨⟨1, true⟩, none⟩])])).router 1).inq 12 = [⟨⟨3, true⟩, none⟩] := by decide
theorem test_scheduleStall : Tab.get false ((nxs (.scheduleStall c0 0) (fab [])).router 0).stalled 0 = true := by decide

def inboxed (k : Core) (p : Packet) : State := { at0 k with routers := [(0, { routed with inbox := [p] })] }
def writeP : Packet := pkt 0x18A00004 [u 7, ⟨8, true⟩]
def ackK : Core := { run0 with unacked := [⟨0, 1, true⟩] }
theorem witness_FabricDelivery : ((inboxed run0 writeP).router 0).inbox = writeP :: [] ∧ writeP.hdr.poison = false ∧ hType writeP.hdr.val = 1 ∧
    inMem (4 * fld writeP.hdr.val 15 0) (4 * writeP.pay.length) = true := by decide
theorem witness_FabricDelivery_ack : hType 0x68A00001 = 6 ∧ fld 0x68A00001 7 0 = (1 : BitVec 8).toNat ∧
    ackK.unacked.any (fun x => x.route == 1) = true ∧ run0.unacked.any (fun x => x.route == 1) = false ∧ hType 0x28A00000 = 2 := by decide
theorem test_write : ((nxs (.write c0) (inboxed run0 writeP)).core c0).memWord 20 = ⟨8, true⟩ := by decide
theorem test_write_tap : ((nxs (.write c0) (inboxed run0 writeP)).core c0).tapOn 5 = true := by decide
theorem test_tapset : ((nxs (.tapset c0) (inboxed run0 (pkt 0x28A00000 []))).core c0).tapOn 5 = true := by decide
theorem test_ack : ((nxs (.ack (.core c0) 1) (inboxed ackK (pkt 0x68A00001 []))).core c0).unacked = [] := by decide
theorem test_ack_tap : ((nxs (.ack (.core c0) 1) (inboxed ackK (pkt 0x68A00001 []))).core c0).tapOn 5 = true := by decide

theorem witness_RouteLoss : placeLost (at0 run0) (5 * 2048 + 9) = false ∧ placeLost { at0 run0 with lostRouters := [5 * 2048 + 9] } (5 * 2048 + 9) = true ∧ ((at0 run0).part (vfPart 0)).routeLost = false ∧
    ({ at0 run0 with parts := [(1, { st := .live, fields := 1, routeLost := true })] }.part (vfPart 0)).routeLost = true := by decide
theorem test_routerLoss : routerDown (nxs (.routerLoss ⟨(Fin.ofNat 1080 ((locRouter (at1 run0) 0).toNat / 2048)), (Fin.ofNat 1050 ((locRouter (at1 run0) 0).toNat % 2048))⟩) (at1 run0)) 0 = true := by decide
theorem test_routeLostRunningFence_not : nxs (.routeLostRunningFence 0) (at1 run0) = at1 run0 := by decide

def atE (p : Packet) : State := { at1 run0 with engines := [(0, { inbox := [p] })] }
def chimeP : Packet := pkt 0x30000000 [u 0, u 3]
def watchP : Packet := pkt 0x30000000 [u 0x40050000, u 1]
theorem witness_ChimesAtHomes : (engineSt (atE chimeP) 0).inbox = chimeP :: [] ∧ badAtEngine chimeP = false ∧ isChime chimeP = true ∧
    chimeFields 0 chimeP = some (false, 0, 0, 3) ∧ 0 < ((atE chimeP).part 1).chimeCount ∧ packetPart (atE chimeP) chimeP = 1 := by decide
theorem witness_ChimesAtHomes_watch : chimeFields 0 watchP = some (true, 5, 0, 1) ∧ packetCore watchP = some c0 ∧
    atOrPast (partChimeVal (atE watchP) 1 0) 1 = false ∧ atOrPast (partChimeVal (atE watchP) 1 0) 0 = true := by decide
theorem witness_ChimesAtHomes_quota : chimeFields 0 (pkt 0x30000000 [u 48, u 3]) = some (false, 0, 48, 3) ∧ ¬ 48 < ((atE chimeP).part 1).chimeCount := by decide
theorem test_advance : chimeVal (nxs (.advance 0) (atE chimeP)) 0 = 3 := by decide
theorem test_watch : (nxs (.watch 0) { atE watchP with parts := [(1, { st := .live, fields := 1, chimeCount := 4, watch := 1 })] }).watches =
    [⟨0, 1, .core c0 5 watchP⟩] := by decide
theorem test_watch_full : (nxs (.watch 0) (atE watchP)).watches = [] := by decide
theorem test_syncChimeAdd : chimeVal (nxs (.syncChimeAdd 0 7) (at0 run0)) 0 = 7 := by decide
theorem test_syncChimeAdd_refused : regGet (nxs (.syncChimeAdd 0 0x80000000) (at0 run0)) 1 0 0x80000C = 0x20 := by decide

def arriveK : Core := { pendK with arriving := [(0, 0)] }
theorem witness_LaneBarriers : arriveK.arriving.find? (fun x => x.1 == 0) = some (0, 0) ∧ physLane (atL .idle arriveK) (partOfKey (atL .idle arriveK) 0) 0 = some 5 ∧
    ackedBelow arriveK 0 = true ∧ ((atL .idle arriveK).lane 5).st ≠ .failed ∧ ((atL .failed arriveK).lane 5).st = .failed ∧
    ackedBelow { arriveK with unacked := [⟨0, 1, true⟩] } 1 = false ∧ ((atL .busy arriveK).lane 5).st = .busy := by decide
theorem test_laneArrival : ((nxs (.laneArrival c0 0) (atL .idle arriveK)).lane 5).releases = 1 := by decide
theorem test_laneArrival_status : Tab.get 9 ((nxs (.laneArrival c0 0) (atL .idle arriveK)).core c0).dbRel 0 = 9 ∧
    ((nxs (.laneArrival c0 0) (atL .idle arriveK)).core c0).ctlW 0x108 = 0 := by decide
theorem test_laneTimeout : ((nxs (.laneTimeout 5) (atL .busy pendK)).lane 5).st = .failed := by decide
theorem test_laneTimeout_idle : nxs (.laneTimeout 5) (atL .idle pendK) = atL .idle pendK := by decide

theorem witness_SyncRegisters : physLane (atL .idle laneK) (vfPart 0) 0 = some 5 ∧ physLane (atL .idle laneK) (vfPart 0) 1 = none ∧
    chimeSel (atL .idle laneK) 1 = 0 ∧ inPair (atL .idle laneK) 1 0 0 = false ∧ isStatusChime (atL .idle laneK) 1 0 = false := by decide
theorem test_syncPairCfg : (pairAt (nxs (.syncPairCfgWrite 0 0x80000003) (at0 run0)) 0).consumer = 3 := by decide
theorem test_syncPairCfg_refused : regGet (nxs (.syncPairCfgWrite 0 0x80000004) (at0 run0)) 1 0 0x80000C = 0x20 ∧
    regGet (nxs (.syncPairCfgWrite 0 0x80000000) (at0 run0)) 1 0 0x80000C = 0x20 := by decide
theorem test_syncLaneCtrl : ((nxs (.syncLaneCtrlWrite 0 0 0xFFFE0000) (atL .busy laneK)).lane 5).ctrl = 0 ∧
    ((nxs (.syncLaneCtrlWrite 0 0 0x10003) (atL .idle laneK)).lane 5).ctrlF = 0x10003 := by decide
theorem test_syncLaneCtrl_refused : regGet (nxs (.syncLaneCtrlWrite 0 0 0x10004) (atL .idle laneK)) 1 0 0x80000C = 0x20 := by decide
theorem test_syncLaneMask : ((nxs (.syncLaneMaskWrite 0 0 0 0xFFFFFFFF) (atL .busy laneK)).lane 5).mask = 1 := by decide
theorem test_syncLaneMask_high : ((nxs (.syncLaneMaskWrite 0 0 2 0xFFFFFFFF) (atL .idle laneK)).lane 5).maskF = 1 := by decide

/-! ## Streams (R281 to R308) -/

/-- A window that reads T2 (kind 0) or is drained to it (kind 2): one place, route 1, generation 1, of engine 0; a copy T2 to T2 of 32 bytes. -/
def inEntry : List Word := [0x80000001, 0, 0, 0x01010000, 0, 0, 0, 0]
def outEntry : List Word := [0xA0000001, 0, 0, 0x01010000, 0, 0, 0, 0]
def copyEntry : List Word := [0xC0000001, 0, 0, 0, 0, 32, 0, 0]
def strmP (op w : Nat) : Packet := pkt 0x40000000 [u (op * 2 ^ 28), u w]
def atS (x : Stream) (p : Packet) : State := { atE p with streams := [(0, x)] }
def idleS : Stream := { entry := inEntry }
def actS : Stream := { entry := inEntry, st := .active, attached := 1, writtenM := [(0, 1)], total := 1 }
def drainS : Stream := { entry := outEntry, st := .active, attached := 1, received := [[u 1, u 2]] }

theorem witness_StreamPackets : StreamIn (atS idleS (strmP 1 0x10020)) 0 1 (strmP 1 0x10020) [] 0 0x10020 ∧ idleS.isIdle = true ∧ idleS.bad true = false ∧
    fld 0x10020 31 16 = idleS.gen ∧ cacheFull (atS idleS (strmP 1 0x10020)) 0 = false ∧ idleS.members = 1 ∧ idleS.masked = false := by
  refine ⟨⟨by decide, by decide, by decide, 0, by decide, by decide, by decide⟩, by decide⟩
theorem witness_StreamPackets_rel : StreamIn (atS actS (strmP 3 1)) 0 3 (strmP 3 1) [] 0 1 ∧ actS.isIdle = false ∧ actS.kind = 0 ∧ actS.members = 1 ∧ drainS.kind = 2 :=
  ⟨⟨by decide, by decide, by decide, 0, by decide, by decide, by decide⟩, by decide⟩
theorem witness_StreamPackets_rest : StreamIn (atS actS (strmP 2 0)) 0 2 (strmP 2 0) [] 0 0 ∧ StreamIn (atS actS (strmP 4 1)) 0 4 (strmP 4 1) [] 0 1 :=
  ⟨⟨by decide, by decide, by decide, 0, by decide, by decide, by decide⟩, by decide, by decide, by decide, 0, by decide, by decide, by decide⟩
theorem test_attach : (stream (nxs (.attach 0 ⟨0, false⟩) (atS idleS (strmP 1 0x10020))) 0).st = .active := by decide
theorem test_attach_generation : (stream (nxs (.attach 0 ⟨0, false⟩) (atS idleS (strmP 1 0x20020))) 0).st = .genMismatch := by decide
theorem test_detach : (stream (nxs (.detach 0) (atS actS (strmP 2 0))) 0).st = .idle := by decide
theorem test_rel_capped : Tab.get 0 (stream (nxs (.rel 0) (atS actS (strmP 3 5))) 0).freedM 0 = 1 := by decide
theorem test_rel_outbound : (stream (nxs (.rel 0) (atS drainS (strmP 3 5))) 0).drainable = 1 := by decide
theorem test_frel : (stream (nxs (.frelPacket 0) (atS actS (strmP 4 1))) 0).fr = 1 := by decide
theorem test_frel_back : (stream (nxs (.frelPacket 0) (atS { actS with fr := 2 } (strmP 4 1))) 0).fr = 2 := by decide

theorem witness_StreamCommands : strmBusy (atS idleS chimeP) (vfPart 0) = false ∧ streamKey (atS idleS chimeP) 1 (strmSel (atS idleS chimeP) 1) = some 0 ∧
    strmBusy (atS { idleS with st := .copying } chimeP) 1 = true ∧ streamKey { atS idleS chimeP with parts := [] } 1 0 = none ∧
    { idleS with entry := copyEntry }.bad false = false ∧ idleS.bad false = true := by decide
theorem test_strmWrite : (stream (nxs (.strmWrite 0) { atS { idleS with pass := 3 } chimeP with regs := [((1 * 32 + 0) * 2 ^ 26 + 0, 0)] }) 0).pass = 0 := by decide
theorem test_strmWrite_active : regGet (nxs (.strmWrite 0) (atS actS chimeP)) 1 0 0x30001C = 2 := by decide
theorem test_strmRead : regGet (nxs (.strmRead 0) (atS actS chimeP)) 1 0 0x300080 = 0x80000001 := by decide
theorem test_strmStart : (stream (nxs (.strmStart 0 false) (atS { idleS with entry := copyEntry } chimeP)) 0).st = .copying := by decide
theorem test_strmStart_bad : (stream (nxs (.strmStart 0 false) (atS idleS chimeP)) 0).st = .badEntry := by decide
theorem test_strmCmdFrel : (stream (nxs (.strmCmdFrel 0 1) (atS actS chimeP)) 0).fr = 1 := by decide

def issueS : State := { atS actS chimeP with regs := [((0 * 32 + 1) * 2 ^ 26 + 0x300040, 4)] }
theorem witness_StreamTransfers : issueOk issueS 1 actS = true ∧ issueOk issueS 1 idleS = false ∧ streamKey issueS (vfPart 0) (0 : BitVec 16).toNat = some 0 ∧
    (piecesOf issueS 1 actS 0)[0]? = some { runs := [(0, 0, 8)] } ∧ turnOk issueS 1 0 = true ∧ actS.nextBuf < actS.total := by decide
def gotS : Stream := { actS with pieces := [{ runs := [(0, 0, 8)] }] }
theorem witness_StreamTransfers_piece : gotS.pieces[0]? = some { runs := [(0, 0, 8)] } ∧ gotS.img = false ∧ gotS.kind = 0 := by decide
theorem witness_StreamTransfers_outbound : outboundOf (atS drainS (pkt 0x10000000 [u 1])) 0 1 (pkt 0x10000000 [u 1]) = some 0 ∧
    hType 0x10000000 = 1 ∧ badAtEngine (pkt 0x10000000 [u 1]) = false ∧ drainS.masked = false ∧ drainS.fenceOpen 1 = true ∧
    outboundOf (atS actS chimeP) 0 1 (pkt 0x10000000 [u 1]) = none := by decide
def copyS (ps : List Piece) (fl : List Flight) : Stream := { entry := copyEntry, st := .copying, begun := true, nextBuf := 1, pieces := ps, flights := fl }
theorem witness_StreamTransfers_copy : (copyS [] []).copied = true ∧ (copyS [{ runs := [(0, 0, 8)] }] []).copied = false ∧
    (copyPieces (copyS [] []))[0]? = some { runs := [(0, 0, 8)] } ∧ ({ runs := [(0, 0, 8)] } : Piece).got = none ∧
    (copyS [] [⟨0, 0, none, none, 32, 0, 0⟩]).flights[0]? = some ⟨0, 0, none, none, 32, 0, 0⟩ := by decide
theorem test_pieceIssue : (stream (nxs (.pieceIssue 0 0) issueS) 0).pieces = [{ runs := [(0, 0, 8)] }] := by decide
theorem test_pieceIssue_idle : nxs (.pieceIssue 0 0) (atS idleS chimeP) = atS idleS chimeP := by decide
theorem test_outboundReceive : (stream (nxs (.outboundBufferReceive 0) (atS drainS (pkt 0x10000000 [u 1]))) 0).received = [[u 1, u 2], [u 1]] := by decide
theorem test_bufferDrained_none : nxs (.bufferDrained 0 0) (atS drainS chimeP) = atS drainS chimeP := by decide
theorem test_maskChimeReached_not : nxs (.maskChimeReached 0 0) (atS actS chimeP) = atS actS chimeP := by decide
theorem test_copyComplete : (stream (nxs (.copyComplete 0 0) (atS { entry := copyEntry, st := .copying } chimeP)) 0).pass = 1 := by decide

/-! ## Predictor slices and T2 (R167 to R175, R240 to R254) -/

/-- Slot 0 is valid, its entry in range, its input buffer of one row of 32 elements at 4096; it awaits one delivery and two reports. -/
def sliceX : Slice := { sram := [(0, 32), (3, 0x80), (4, 1), (6, 1), (7, 32), (17, 0x10), (19, 0x10), (40, 2)] }
def atF (x : Slice) : State := { at1 run0 with slices := [(0, x)] }
def giveP : Packet := pkt 0x18000400 [u 7]
def puP (w : Nat) : Packet := pkt 0x50000000 [u w]
def pass0 : OpenPass := ⟨0, 1, [0], [], 0, []⟩
theorem witness_PredictorSlices : { sliceX with inbox := [giveP] }.inbox = giveP :: [] ∧ badAtSlice giveP = false ∧ hType giveP.hdr.val = 1 ∧
    hTapEn giveP.hdr.val = true ∧ sliceX.valid 0 = true ∧ fld (sliceX.ent 0 1) 7 0 = 1 ∧ 4096 ≤ 4 * fld giveP.hdr.val 15 0 ∧ entryOk (sliceX.ent 0) = true ∧
    sliceX.intoInput 0 4096 4 = true ∧ sliceX.intoInput 0 4128 8 = false := by decide
theorem witness_PredictorSlices_record : (sliceX.slot 0).opens = [] ∧ 0 < (sliceX.ent 0 10).toNat ∧ sliceX.recAddr 0 0 % 2048 = 0 ∧
    frameOf { atF sliceX with parts := [(1, { st := .live, fields := 1, frames := [4] })] } 1 0 = some 4 ∧
    frameDead { atF sliceX with tiers := { stack := [(0, 0)] } } 4 = false := by decide
theorem witness_PredictorSlices_report : badAtSlice (puP 0xC0000000) = false ∧ hType (puP 0xC0000000).hdr.val = 5 ∧
    pass0.lasts.length + 1 < (sliceX.ent 0 10).toNat ∧ pass0.lasts.contains ((puP 0).hd.map (·.src)) = false ∧ sliceX.valid 1 = false := by decide
theorem test_sliceInput : ((nxs (.sliceInputDelivery 0) (atF { sliceX with inbox := [giveP] })).slice 0).computing = [0] := by decide
theorem test_sliceInput_word : Memory.word ((nxs (.sliceInputDelivery 0) (atF { sliceX with inbox := [giveP] })).slice 0).sram 4096 = 7 := by decide
theorem test_passComputeDone : ((nxs (.passComputeDone 0) (atF { sliceX with computing := [0, 1] })).slice 0).writing.map (·.slot) = [0] := by decide
theorem test_maskRecord : (((nxs (.maskRecordWritten 0) (atF { sliceX with writing := [⟨0, [], pass0⟩] })).slice 0).slot 0).opens = [pass0] := by decide
theorem test_pu_last : (((nxs (.pu 0) (atF { sliceX with inbox := [puP 0xC0000000], slots := [(0, { opens := [pass0] })] })).slice 0).slot 0).opens =
    [{ pass0 with miss := [0], lasts := [some (.core c0)] }] := by decide
theorem test_pu_dropped : (((nxs (.pu 0) (atF { sliceX with inbox := [puP 0x40000001], slots := [(0, { opens := [pass0] })] })).slice 0).slot 0).opens =
    [{ pass0 with dropped := 1 }] := by decide

def stacksOn : Tab Nat := (List.range 24).map (fun i => (i, 0))
def atT (t : Tiers) : State := { at0 run0 with tiers := t }
theorem witness_TierStacks : (atT { fills := [4] }).tiers.fills.contains 4 = true ∧ stackState (atT { stack := stacksOn }) 23 = 0 ∧
    (∀ k ∈ (List.range 24).filter (· != 23), stackState (atT { stack := stacksOn }) k = 0) ∧ grantedFrames (atT { stack := stacksOn }) = [] := by decide
theorem witness_TierStacks_copy : holderOf { atT {} with parts := [(1, { st := .live, frames := [4] })] } 4 = some (1, 0) ∧ frameStack 32772 = 1 ∧
    Memory.wf [] = true := by decide
theorem test_frameFillDone : (nxs (.frameFillDone 4) (atT { fills := [4], mem := [(4 * 2 ^ 21, 1), (5 * 2 ^ 21, 2)] })).tiers.mem = [(5 * 2 ^ 21, 2)] := by decide
theorem test_stackOffline_range : regGet (nxs (.stackOffline 24) (atT { stack := stacksOn })) 0 0 0x60010C = 0x80000000 := by decide
theorem test_stackOnline : stackState (nxs (.stackOnline 1) (atT { stack := [(0, 0), (1, 2)] })) 1 = 0 := by decide
theorem test_stackOnline_failed : stackState (nxs (.stackOnline 1) (atT { stack := [(0, 0), (1, 2)], failed := [1] })) 1 = 2 := by decide
theorem test_t2Scrub : Tab.get false (nxs (.t2Scrub 0 ⟨[], [64]⟩) (atT { stack := [(0, 0)] })).tiers.tag 31 = true := by decide
theorem test_t2Scrub_lost : nxs (.t2Scrub 0 ⟨[], [64]⟩) (atT {}) = atT {} := by decide

/-! ## The weight store (R261 to R278) -/

/-- A register word of a function: index, function, offset, value. -/
def reg (idx fn off v : Nat) : Nat × Word := ((idx * 32 + fn) * 2 ^ 26 + off, BitVec.ofNat 32 v)
def ctlsOn : Tab Ctl := (List.range 16).map (fun i => (i, { st := 0, failed := false }))
def copy1 : WCopy := ⟨1, 1, 1, []⟩
def servingSet : MSet := { st := .serving, gen := 1, cur := some copy1 }
/-- Slot 0 of partition 1 is bound to set 0, whose copy is being written; a transfer of 64 bytes is staged. -/
def wstS (typ : Nat) : State := { at0 run0 with
  parts := [(1, { st := .live, fields := 1, t3Slots := 2, t3Units := 1 })]
  wst := { sets := [(0, { st := .installing, gen := 1, cur := some copy1 })], slots := [(1024, { bound := true, write := true })], ctls := ctlsOn }
  regs := [reg 0 1 0x70000C (typ * 2 ^ 28), reg 0 1 0x700010 64] }
def code1 (s : State) : Word := regGet s 1 0 0x70001C

theorem witness_WeightTransfers : hType' (xferHandle (wstS 1) 1) = 1 ∧ hClean (xferHandle (wstS 1) 1) = true ∧ hSet (xferHandle (wstS 1) 1) = 0 ∧
    building (mset (wstS 1) 0) = some copy1 ∧ hNum (xferHandle (wstS 1) 1) = 0 ∧ writeCode (wstS 1) 1 = none ∧ Tab.find (wstS 1).wst.xfers 1 = none ∧
    unitsOf (xferLen (wstS 1) 1) ≤ t3Free (wstS 1) := by decide +kernel
theorem witness_WeightTransfers_addition : addHandleOk (wstS 2) 1 (xferHandle (wstS 2) 1) = true ∧ addHandleOk (wstS 1) 1 (xferHandle (wstS 1) 1) = false ∧
    addUnits (wstS 2) 1 + unitsOf (xferLen (wstS 2) 1) ≤ ((wstS 2).part 1).t3Units := by decide
def xfer0 : Xfer := ⟨true, 0, 0, 0, 0, 4⟩
theorem test_writeBase : (nxs (.writeBase 0) (wstS 1)).wst.xfers = [(1, ⟨true, 0, 0, 0, 0, 64⟩)] := by decide +kernel
theorem test_writeBase_refused : code1 (nxs (.writeBase 0) (wstS 2)) = 2 := by decide
theorem test_writeAdd : (nxs (.writeAdd 0) (wstS 2)).wst.xfers = [(1, ⟨false, 0, 0, 0, 0, 64⟩)] := by decide
theorem test_writeAdd_refused : code1 (nxs (.writeAdd 0) (wstS 1)) = 2 := by decide
theorem test_delAdd : (nxs (.delAdd 0) { wstS 2 with wst := { (wstS 2).wst with adds := [(1024 * 2 ^ 24, ⟨[], 4, []⟩)] } }).wst.adds = [] := by decide
theorem test_xferDone : (nxs (.xferDone 0 []) { wstS 1 with wst := { (wstS 1).wst with xfers := [(1, xfer0)] } }).wst.xfers = [] := by decide

def atW (w : Wst) (rs : Tab Word) : State := { wstS 1 with wst := { w with ctls := ctlsOn }, regs := rs, sec := { keys := [(1, [])] } }
theorem witness_WeightSets : (mset (atW {} [reg 0 0 0x700110 1]) 0).st = .free ∧ ctlsDown (atW {} [reg 0 0 0x700110 1]) = [] ∧ (1 : BitVec 24) ≠ 0 ∧
    keyPresent (atW {} [reg 0 0 0x700110 1]) (setKeySel (atW {} [reg 0 0 0x700110 1])) = true ∧ setSel (atW {} []) = 0 ∧ writing (atW {} []) 0 = false := by decide
theorem witness_WeightSets_drain : readsCopy (atW {} []) 0 0 = false ∧ erasingOf (atW { erasing := [(0, copy1)] } []) 0 = [copy1] ∧ erasingOf (atW {} []) 0 = [] := by decide
def refusedSet (s : State) : Bool := (regGet s 0 0 0x700118).getLsbD 31
theorem test_installBegin : (mset (nxs (.installBegin 1) (atW {} [reg 0 0 0x700110 1])) 0).st = .installing := by decide
theorem test_installBegin_zero : refusedSet (nxs (.installBegin 0) (atW {} [reg 0 0 0x700110 1])) = true := by decide
theorem test_commit : (mset (nxs .commit (atW { sets := [(0, { st := .installing, gen := 1, cur := some ⟨1, 1, 1, [(0, ⟨[], 4, []⟩)]⟩ })] } [])) 0).st = .serving := by decide
theorem test_commit_missing : refusedSet (nxs .commit (wstS 1)) = true := by decide
theorem test_buildBegin : (mset (nxs (.buildBegin 2) (atW { sets := [(0, servingSet)] } [reg 0 0 0x700110 1])) 0).other = some ⟨1, 2, 2, []⟩ := by decide
theorem test_switch : (mset (nxs .switch (atW { sets := [(0, { servingSet with st := .built, other := some ⟨1, 2, 2, []⟩ })] } [])) 0).gen = 2 := by decide
theorem test_setAbort : (mset (nxs .setAbort (wstS 1)) 0).st = .free := by decide
theorem test_setDelete : (mset (nxs .setDelete (atW { sets := [(0, servingSet)] } [])) 0).st = .deleting := by decide
theorem test_setDelete_bound : refusedSet (nxs .setDelete (wstS 1)) = true := by decide
theorem test_drainComplete : (mset (nxs (.drainComplete 0) (atW { sets := [(0, { servingSet with st := .draining, gen := 2 })] } [])) 0).st = .serving := by decide
theorem test_eraseComplete : (mset (nxs (.eraseComplete 0) (atW { sets := [(0, { st := .deleting, gen := 1 })], erasing := [(0, copy1)] } [])) 0).st = .deleting ∧
    (mset (nxs (.eraseComplete 0) (atW { sets := [(0, { servingSet with st := .deleting })] } [])) 0).st = .free := by decide

theorem witness_WeightControllers : ((wstS 1).part 1).t3Slots = 2 ∧ serves servingSet = true ∧ (ctl (atW {} []) 15).st = 0 ∧ ctlsDown (atW {} []) = [] ∧
    nextRefresh { st := 0, queue := [7, 9], reads := [(9, 3)] } = some 9 ∧ nextRefresh {} = none := by decide
theorem test_wstBind : wslot (nxs (.wstBind 0x80000400) (atW { sets := [(0, servingSet)] } [])) 1 0 = ⟨true, false, 0, 0, 1, false⟩ := by decide
theorem test_wstBind_refused : refusedSet (nxs (.wstBind 0x80000402) (atW { sets := [(0, servingSet)] } [])) = true ∧
    refusedSet (nxs (.wstBind 0xA0800400) (atW { sets := [(0, servingSet)] } [])) = true := by decide
theorem test_ctlOffline : (ctl (nxs (.ctlOffline 15) (atW {} [])) 15).st = 1 := by decide
theorem test_ctlOffline_writing : (ctl (nxs (.ctlOffline 15) (wstS 1)) 15).st = 0 := by decide
theorem test_ctlOnline : (ctl (nxs (.ctlOnline 0) (nxs (.ctlOffline 0) (atW {} []))) 0).st = 2 := by decide
theorem test_rebuildDone_not : nxs (.rebuildDone 0) (atW {} []) = atW {} [] := by decide
theorem test_refreshUnit : (ctl (nxs (.refreshUnit 0 []) { wstS 1 with wst := { ctls := [(0, { st := 0, queue := [7, 9], reads := [(9, 3)] })] } }) 0).queue = [7] := by decide
theorem test_refreshAge : (ctl (nxs (.refreshAge 0 7) (atW {} [])) 0).queue = [7] := by decide
theorem test_wearLevelMove : (ctl (nxs (.wearLevelMove 0 7 false false) (atW {} [])) 0).reads = [(7, 256)] := by decide

/-! ## Weight ports (R309 to R336) -/

def atP (x : PortS) (rs : Tab Word) : State := { at0 run0 with ports := [(0, x)], regs := rs, sec := { caks := [(0, [])] } }
def portOf (s : State) : PortS := s.port 0
def upP : PortS := { st := .up, bad := false }
def openC : Conn := { st := .opened, sess := some 5 }
theorem witness_PortLinks : upP.carries = true ∧ Tab.get Cage.empty (atP upP []).hw.cages 0 ≠ .bad ∧ (Tab.find (atP upP []).sec.caks 0).isSome = true ∧
    ({ upP with pfc := true } : PortS).paused = true ∧ priData (atP upP []) 0 = priData (atP upP []) 0 := by decide
theorem test_signalDetect : (portOf (nxs (.signalDetect 0) (atP { st := .down } []))).st = .training := by decide
theorem test_lockAcquired : (portOf (nxs (.lockAcquired 0) (atP { st := .training } []))).st = .securing := by decide
theorem test_trainingTimeout : (portOf (nxs (.trainingTimeout 0) (atP { st := .training } []))).st = .down := by decide
theorem test_lossOfLock : (portOf (nxs (.lossOfLock 0) (atP upP []))).st = .training := by decide
theorem test_mka : (portOf (nxs (.mka 0 true) (atP { st := .securing } []))).st = .up := by decide
theorem test_mka_noKey : (portOf (nxs (.mka 0 true) { atP { st := .securing } [] with sec := {} })).st = .securing := by decide
theorem test_portStalled : (portOf (nxs (.portStalled 0) (atP { upP with xoffIn := true } []))).st = .stalled := by decide
theorem test_pauseEnd : (portOf (nxs (.pauseEnd 0 ⟨false, 1⟩) (atP { upP with st := .stalled, pfc := true } []))).st = .up := by decide
theorem test_xoffIn : (portOf (nxs (.xoffIn 0 true 1) (atP upP []))).xoffIn = true := by decide
theorem test_pfcFrame : (portOf (nxs (.pfcFrame 0 3 5 1) (atP upP [reg 0 0 0x400018 0x730]))).pfc = true := by decide
theorem test_pfcResend : (nxs (.pfcResend 0) (atP { upP with xoffOut := true } [])).out = [.pfc 0 3 0xFFFF] := by decide
theorem test_portOffline : (portOf (nxs (.portOffline 0) (atP upP []))).st = .offline := by decide
theorem test_portOnline : (portOf (nxs (.portOnline 0) (atP { st := .offline, bad := false } []))).st = .down := by decide
theorem test_retrain_refused : (regGet (nxs (.retrain 0) (atP { st := .down } [])) 0 0 0x400008).getLsbD 31 = true := by decide
theorem test_portFailed : ((portOf (nxs (.portFailed 0) (atP { upP with conns := [(2, openC)] } []))).conn 2).st = .failed := by decide

/-- A frame of a TYPE from peer 2, control or data, with PSN 0. -/
def rx (w0 : Nat) (pay : List Byte) : RxFrame := ⟨2, [BitVec.ofNat 32 w0, 0, 0, 0, 0, 0, 0, 0], pay, [], none⟩
def ctlP (c : Conn) (w0 : Nat) (pay : List Byte) : PortS := { upP with ctlq := [rx w0 pay], conns := [(2, c)] }
def frame0 : TxFrame := ⟨9, 0, 0, 0, 0, [], [], 1, 0⟩
def sentC : Conn := { openC with ctl := { q := [frame0, frame0], sent := 2, ever := 2 } }
theorem witness_PortConnections : CtlIn (atP (ctlP openC 0x11800008 []) []) 0 1 (rx 0x11800008 []) [] ∧ CtlIn (atP (ctlP openC 0x12800008 []) []) 0 2 (rx 0x12800008 []) [] ∧
    CtlIn (atP (ctlP openC 0x13800008 []) []) 0 3 (rx 0x13800008 []) [] ∧ CtlIn (atP (ctlP openC 0x14800008 []) []) 0 4 (rx 0x14800008 []) [] :=
  ⟨by constructor <;> decide, by constructor <;> decide, by constructor <;> decide, by constructor <;> decide⟩
theorem witness_PortConnections_rto : sentC.st = .opened ∧ sentC.ctl.sent ≠ 0 ∧ sentC.ctl.tries + 1 < fld (regGet (atP upP [reg 0 0 0x400030 0x30000]) 0 0 (wpOff 0 0x030)) 23 16 ∧
    fld (regGet (atP upP [reg 0 0 0x400030 0x30000]) 0 0 (wpOff 0 0x030)) 23 16 ≤ { sentC.ctl with tries := 2 }.tries + 1 := by decide
theorem test_connect : ((portOf (nxs (.connect 0) (atP (ctlP {} 0x11800008 [7, 0, 0, 0]) []))).conn 2).sess = some 7 := by decide
theorem test_accept : ((portOf (nxs (.accept 0) (atP (ctlP { st := .opening } 0x12800008 [0, 0, 0, 0, 9, 0, 0, 0]) []))).conn 2).sess = some 9 := by decide
theorem test_zaruxAck : ((portOf (nxs (.zaruxAck 0) (atP (ctlP sentC 0x13800008 [0, 0, 0, 0, 1, 0, 0, 0]) []))).conn 2).ctl =
    { base := 1, q := [frame0], sent := 1, ever := 1 } := by decide
theorem test_zaruxAck_beyond : ((portOf (nxs (.zaruxAck 0) (atP (ctlP sentC 0x13800008 [0, 0, 0, 0, 3, 0, 0, 0]) []))).conn 2).ctl = sentC.ctl := by decide
theorem test_nak : ((portOf (nxs (.nak 0) (atP (ctlP sentC 0x14800008 [1, 0, 0, 0, 1, 0, 0, 0]) []))).conn 2).ctl.sent = 1 := by decide
theorem test_ackTimer : ((portOf (nxs (.ackTimer 0 2) (atP { upP with conns := [(2, { openC with data := { since := 1, exp := 4 } })] } [reg 2 0 0x400038 0x80010000]))).conn 2).unseq =
    [⟨3, 0, 0, 0, 0, [4, 0], [], 0, 0⟩] := by decide
theorem test_rto_again : ((portOf (nxs (.rtoExpiry 0 2 true) (atP { upP with conns := [(2, sentC)] } [reg 0 0 0x400030 0x30000]))).conn 2).ctl.tries = 1 := by decide
theorem test_rto_last : ((portOf (nxs (.rtoExpiry 0 2 true) (atP { upP with conns := [(2, { sentC with ctl := { sentC.ctl with tries := 2 } })] }
    [reg 0 0 0x400030 0x30000]))).conn 2).st = .failed := by decide
theorem test_wpPeerCtrl : ((portOf (nxs (.wpPeerCtrlWrite 0 0x80010000) (atP { upP with conns := [(0, openC)] } []))).conn 0).st = .closed := by decide
theorem test_neighbour : (nxs (.neighbourSolicitation 0 0 9) (atP upP [reg 2 0 0x400038 0x80010000, reg 2 0 0x40004C 9])).out = [.advert 0 0 9] ∧ (nxs (.neighbourSolicitation 0 0 9) (atP upP [])).out = [] := by decide
theorem test_wpNqDataRead : (nxs (.wpNqDataRead 0 0) (atP { upP with notice := [u 7] } [])).out = [.read 0 7] := by decide
theorem test_ptpEvent : (nxs (.ptpEventMessage 0 5 true) (atP upP [reg 0 0 0x408000 0x80000000])).ptpLock = true := by decide

def abortHdr : List Word := [0x19800000, 0, 0, 0, 0, 0, 0]
def goodFrame : Frame := ⟨true, true, true, 7, 0, 0x5A50, abortHdr ++ [frameCrc (abortHdr ++ [0]) []], [], []⟩
def rxRegs : Tab Word := [reg 0 0 0x400018 0x730, reg 2 0 0x400038 0x80010000, reg 2 0 0x400040 0]
theorem test_crc32c_zeros : crc32c (List.replicate 32 0) = 0x8A9136AA := by decide +kernel
theorem witness_PortFrames : peerOf (atP upP rxRegs) 0 0 = some 2 ∧ frameCrc goodFrame.hdr goodFrame.pay = goodFrame.hdr.getD 7 0 ∧
    badHeader (atP upP rxRegs) 0 goodFrame = false ∧ zType goodFrame.hdr ≠ 5 ∧ zPri goodFrame.hdr = true := by decide +kernel
theorem witness_PortFrames_send : nextCtl { upP with conns := [(2, { openC with unseq := [frame0] })] } = some (2, true) ∧
    nextCtl { upP with conns := [(2, { openC with ctl := { q := [frame0] } })] } = some (2, false) ∧
    readyData (atP { upP with conns := [(2, { openC with data := { q := [frame0] } })] } rxRegs) 0 = [(2, 1)] ∧ (frame0.pay (atP upP [])).length ≤ 8192 := by decide
theorem witness_PortFrames_notice : CtlIn (atP (ctlP openC 0x1A800000 [1, 0, 0, 0]) []) 0 10 (rx 0x1A800000 [1, 0, 0, 0]) [] ∧
    (noticeWords (rx 0x1A800000 [1, 0, 0, 0])).length = 2 ∧ zPsn (rx 0x1A800000 []).hdr = (openC.dir true).exp := ⟨by constructor <;> decide, by decide, by decide⟩
def dataP : PortS := { upP with dataq := [rx 0x17000004 [1, 0, 0, 0]], conns := [(2, openC)] }
theorem witness_PortFrames_data : nextData dataP = some (0, rx 0x17000004 [1, 0, 0, 0]) ∧ InSequence (atP dataP []) 0 (rx 0x17000004 [1, 0, 0, 0]) ∧
    zType (rx 0x17000004 []).hdr = 7 ∧ zType (rx 0x18000004 []).hdr = 8 := ⟨by decide, ⟨by decide, by decide⟩, by decide, by decide⟩
theorem test_frameReceive : (portOf (nxs (.frameReceive 0 goodFrame) (atP upP rxRegs))).ctlq.map (·.peer) = [2] := by decide +kernel
theorem test_frameReceive_crc : regGet (nxs (.frameReceive 0 { goodFrame with pay := [0] }) (atP upP rxRegs)) 0 0 0x400090 = 1 := by decide +kernel
theorem test_frameSend : (nxs (.frameSend 0) (atP { upP with conns := [(2, { openC with unseq := [frame0] })] } [])).out.length = 1 := by decide
theorem test_frameSend_down : nxs (.frameSend 0) (atP {} []) = atP {} [] := by decide
theorem test_zaruxAbort : (((portOf (nxs (.zaruxAbort 0) (atP (ctlP openC 0x19800000 []) []))).conn 2).dir true).exp = 1 := by decide
theorem test_notice : (portOf (nxs (.notice 0) (atP (ctlP openC 0x1A800000 [1, 0, 0, 0]) []))).notice = [u 0x20001, u 1] := by decide
theorem test_verdict : (((portOf (nxs (.verdict 0) (atP (ctlP openC 0x16800004 [0, 0, 0, 0]) []))).conn 2).dir true).exp = 1 := by decide
theorem test_data_none : (((portOf (nxs (.data 0) (atP dataP []))).conn 2).dir false).exp = 0 := by decide
theorem test_result_late : (portOf (nxs (.result 0) (atP { dataP with dataq := [rx 0x18000004 [1, 0, 0, 0]] } []))).dataq.map (·.dest) = [some none] := by decide
theorem test_placement : (portOf (nxs (.dataPlacement 0) (atP { dataP with dataq := [{ rx 0x17000004 [] with dest := some none }] } []))).dataq = [] := by decide

/-! ## Strikes (R324 to R334) -/

/-- Partition 1 holds frame 4 as its T2 from address 0, and chain 0. -/
def part1 : Part := { st := .live, fields := 1, chimeCount := 4, lanes := [5], strmCount := 2, frames := [4], chains := 1, watch := 1 }
def atC (c : Chain) (mem : List Host.Cell) (rs : Tab Word) : State := { at0 run0 with parts := [(1, part1)], tiers := { stack := [(0, 0)], mem := mem }, chains := [(512, c)], regs := rs }
/-- A chain of one strike at 0; its entry is a NOP with VALID, and waits for chime 0 to reach 1 where WAIT is set. -/
def chainRegs : Tab Word := [reg 0 1 0x500014 1]
def nopEnt : List Host.Cell := [(4 * 2 ^ 21 + 3, 0x80)]
def waitEnt : List Host.Cell := [(4 * 2 ^ 21 + 2, 0x08), (4 * 2 ^ 21 + 3, 0x80), (4 * 2 ^ 21 + 4, 1)]
def strike1 (code : Nat) : Strike := ⟨0, 0, [0x80000000], .plain, code, false, 0, {}, [], [], [], 0⟩
def runC (xs : List Strike) : Chain := { st := .running, prog := xs }
theorem witness_StrikeChains : (atC {} [] chainRegs).part 1 = part1 ∧ chainSel (atC {} [] chainRegs) 1 = 0 ∧ chainLen (atC {} [] chainRegs) 1 0 = 1 ∧
    waitMet (atC {} nopEnt chainRegs) 1 ((t2Read (atC {} nopEnt chainRegs) 1 0 16).map (·.val)) = true ∧
    waitMet (atC {} waitEnt chainRegs) 1 ((t2Read (atC {} waitEnt chainRegs) 1 0 16).map (·.val)) = false := by decide
theorem witness_StrikeChains_complete : (runC [strike1 1]).prog[0]? = some (strike1 1) ∧ frameOf (atC {} [] chainRegs) 1 40 = some 4 ∧
    frameDead (atC {} [] chainRegs) 4 = false ∧ (strike1 1).w 0 = 0x80000000 := by decide
theorem witness_StrikeChains_reduce : ({ strike1 0 with ent := [0xB0000000], ph := .counts }).kind = 3 := by decide
theorem test_chainStart : (chain (nxs (.chainStart 0) (atC {} [] chainRegs)) 512).st = .running := by decide
theorem test_chainStart_running : regGet (nxs (.chainStart 0) (atC (runC []) [] chainRegs)) 1 0 0x50001C = 0x20000000 := by decide
theorem test_stop : (chain (nxs (.stop 0) (atC (runC [strike1 0]) [] chainRegs)) 512).prog.map (·.code) = [8] := by decide
theorem test_stop_idle : (chain (nxs (.stop 0) (atC (runC []) [] chainRegs)) 512).st = .idle := by decide
theorem test_strikeStart : (chain (nxs (.strikeStart 0 0) (atC (runC []) nopEnt chainRegs)) 512).prog.length = 1 := by decide
theorem test_strikeStart_watch : (nxs (.strikeStart 0 0) (atC (runC []) waitEnt chainRegs)).watches = [⟨0, 1, .chain 512⟩] := by decide
theorem test_strikeComplete : t2Word (nxs (.strikeComplete 0 0 0) (atC (runC [strike1 1]) [] chainRegs)) 1 40 = u 0x01000000 := by decide
theorem test_strikeComplete_halts : (chain (nxs (.strikeComplete 0 0 0) (atC (runC [strike1 7]) [] chainRegs)) 512).code = 7 := by decide +kernel
theorem test_collTimeout_not : nxs (.collTimeout 0 0 0) (atC (runC [strike1 0]) [] chainRegs) = atC (runC [strike1 0]) [] chainRegs := by decide
theorem test_collTimeout : (chain (nxs (.collTimeout 0 0 0) (atC (runC [{ strike1 0 with ent := [0xB0000000], ph := .counts }]) [] chainRegs)) 512).prog.map (·.code) = [5] := by decide
def groupRegs : Tab Word := [reg 0 1 0x500024 0x00070001, reg 0 1 0x500028 2, reg 0 1 0x50002C 1024, reg 0 1 0x500038 3, reg 0 0 0x400038 0x80010000]
theorem witness_StrikeChains_group : stagedOk (atC {} [] groupRegs) 1 = true ∧ groupSel (atC {} [] groupRegs) 1 = 0 ∧
    stagedOk (atC {} [] []) 1 = false := by decide
theorem test_set : (group (nxs (.set 0) (atC {} [] groupRegs)) 1 0).id = 7 := by decide
theorem test_set_refused : regGet (nxs (.set 0) (atC {} [] [])) 1 0 0x50003C = 0x80000000 := by decide
theorem test_reform : (group (nxs (.reform 0) (atC {} [] groupRegs)) 1 0).epoch = 3 := by decide

/-! ## Host queues and their commands (R339 to R353) -/

def qReg (v : Nat) : Nat × Word := reg 0 1 0x100010 v
def atQ (q : HQueue) (rs : Tab Word) : State := { atC {} [] rs with cores := [(0, { run0 with st := .sleeping })], hqs := [(8, q)] }
def cmdQ (ws : List Word) : HQueue := { tail := 1, cmd := some { w := ws } }
def words (op : Nat) (l : List Nat) : List Word := BitVec.ofNat 32 (op * 2 ^ 24) :: l.map (BitVec.ofNat 32)
def cpl (s : State) : Option (BitVec 8 × Word) := (hq s 1 0).cpl
def onRegs : Tab Word := [qReg 0x804003E8]

theorem witness_HostQueues : (regGet (atQ {} onRegs) 1 0 (hqOff 0 0x10)).getLsbD 31 = true ∧ hqSize (atQ {} onRegs) 1 0 = 16 ∧
    mayFetch (atQ { tail := 1 } onRegs) 1 0 = true ∧ mayFetch (atQ {} onRegs) 1 0 = false ∧ cmdOk (List.replicate 16 0) = true ∧
    cmdOk (0x0A000000 :: List.replicate 15 0) = false := by decide
theorem witness_HostQueues_end : (cmdQ [0]).cmd = some { w := [0] } ∧ ({ cmdQ [0] with cpl := some (0, 0) }).cpl = some (0, 0) ∧
    (0 + 1) % hqSize (atQ {} onRegs) 1 0 ≠ fld (regGet (atQ {} onRegs) 1 0 (hqOff 0 0x1C)) 15 0 ∧
    (15 + 1) % hqSize (atQ {} onRegs) 1 0 = fld (regGet (atQ {} onRegs) 1 0 (hqOff 0 0x1C)) 15 0 := by decide
theorem test_hqQDb : (hq (nxs (.hqQDb 0 0 15) (atQ {} onRegs)) 1 0).tail = 15 := by decide
theorem test_hqQDb_bad : regGet (nxs (.hqQDb 0 0 16) (atQ {} onRegs)) 1 0 0x100020 = 0x40000000 := by decide
theorem test_hqQCtrl : (hq (nxs (.hqQCtrlWrite 0 0 0x80400000) (atQ { head := 3, tail := 5 } [qReg 0x400000])) 1 0).tail = 0 := by decide
theorem test_hqQCtrl_stop : (hq (nxs (.hqQCtrlWrite 0 0 0) (atQ { head := 3, tail := 5 } onRegs)) 1 0).tail = 3 := by decide
theorem test_hqQCplHead : regGet (nxs (.hqQCplHeadWrite 0 0 0x12345) (atQ {} onRegs)) 1 0 0x10001C = 0x2345 := by decide
theorem test_stoppedAck : regGet (nxs (.stoppedAck 0 0) (atQ {} [qReg 0, reg 0 1 0x100020 0xC0000000])) 1 0 0x100020 = 0x40000000 := by decide
theorem test_commandFetch : (hq (nxs (.commandFetch 0 0 (List.replicate 16 0)) (atQ { head := 15 } onRegs)) 1 0).head = 0 := by decide
theorem test_commandFetch_bad : (cpl (nxs (.commandFetch 0 0 (0x0A000000 :: List.replicate 15 0)) (atQ { tail := 1 } onRegs))).map (·.1) = some 2 := by decide
theorem test_commandFetch_short : exec (.commandFetch 0 0 [0]) (atQ {} onRegs) = .fault .illFormed := rfl
theorem test_commandComplete : (nxs (.commandComplete 0 0) (atQ { cmdQ [] with cmd := some { w := [0x0001BEEF], head := 1 }, cpl := some (0, 7), head := 1 } onRegs)).out =
    [.host 1 0 [u 0x0001BEEF, u 7, u 1, u 0], .msix 1 0] := by decide
theorem test_commandComplete_held : (hq (nxs (.commandComplete 0 0) (atQ { cmdQ [0] with cpl := some (0, 7), cplTail := 15 } onRegs)) 1 0).held = true := by decide
theorem test_commandTimeout : (cpl (nxs (.commandTimeout 0 0) (atQ { tail := 1, cmd := some { w := [0], started := true } } onRegs))).map (·.1) = some 3 := by decide

theorem witness_HostCommands (op : Fin 10) : CmdAt (atQ (cmdQ (words op [])) onRegs) 1 0 op { w := words op [] } :=
  ⟨rfl, rfl, rfl, by revert op; decide, rfl⟩
theorem witness_HostCommands_still : quiescent (atQ (cmdQ [0]) onRegs) 1 0 = true ∧ quiescent { atQ (cmdQ [0]) onRegs with cores := [(0, run0)] } 1 0 = false ∧
    staleHalves (atQ {} onRegs) 1 = [] ∧ t2In (atQ {} onRegs) 1 0x1FFFC0 64 = true ∧ t2In (atQ {} onRegs) 1 0x1FFFC0 68 = false := by decide
theorem test_hqNop : cpl (nxs (.hqNop 0 0) (atQ (cmdQ [0]) onRegs)) = some (0, 0) := by decide
theorem test_writeT2_beyond : regGet (nxs (.writeT2 0 0) (atQ (cmdQ (words 1 [0, 0, 0, 0x1FFFC0, 0, 68])) onRegs)) 0 1 0x200058 = 1 := by decide
theorem test_readT2 : (nxs (.readT2 0 0) { atQ (cmdQ (words 2 [0, 0x1000, 0, 0, 0, 4])) onRegs with tiers := { stack := [(0, 0)], mem := nopEnt } }).out =
    [.host 1 0x1000 [u 0x80000000]] := by decide +kernel
theorem test_load_state : (cpl (nxs (.load 0 0) { atQ (cmdQ (words 3 [0, 0, 0, 0, 0, 16])) onRegs with cores := [(0, run0)] })).map (·.1) = some 1 := by decide
theorem test_load_bad : (cpl (nxs (.load 0 0) (atQ (cmdQ (words 3 [0, 0, 0, 0, 0, 16])) onRegs))).map (·.1) = some 2 := by decide
theorem witness_HostCommands_start : startKeys (atQ {} onRegs) 1 { w := words 4 [] } = [0] ∧ startable (atQ {} onRegs) 0 = true := by decide +kernel
theorem test_hqStart : ((nxs (.hqStart 0 0) (atQ (cmdQ (words 4 [])) onRegs)).core c0).st = .running := by decide +kernel
theorem test_chimeAdd : chimeVal (nxs (.chimeAdd 0 0) (atQ (cmdQ (words 5 [0, 0, 0, 0, 0, 0, 3, 9])) onRegs)) 3 = 9 := by decide
theorem test_chimeAdd_beyond : regGet (nxs (.chimeAdd 0 0) (atQ (cmdQ (words 5 [0, 0, 0, 0, 0, 0, 4, 9])) onRegs)) 0 1 0x200058 = 3 := by decide
theorem test_chimeWait : cpl (nxs (.chimeWait 0 0) (atQ (cmdQ (words 6 [0, 0, 0, 0, 0, 0, 3, 0])) onRegs)) = some (0, 0) := by decide
theorem test_chimeWait_waits : (nxs (.chimeWait 0 0) (atQ (cmdQ (words 6 [0, 0, 0, 0, 0, 0, 3, 1])) onRegs)).watches = [⟨3, 1, .queue 8⟩] := by decide
theorem test_save_state : (cpl (nxs (.save 0 0) { atQ (cmdQ (words 7 [])) onRegs with cores := [(0, run0)] })).map (·.1) = some 1 := by decide
theorem test_restore_version : (cpl (nxs (.restore 0 0) (atQ (cmdQ (words 8 [])) onRegs))).map (·.1) = some 2 := by decide
theorem test_reinit : ((nxs (.reinit 0 0) (atQ (cmdQ (words 9 [])) onRegs)).part 1).st = .resetting := by decide
def readQ : HQueue := { tail := 1, cmd := some { w := words 1 [0, 0, 0, 0, 0, 4], started := true, tag := some 3 } }
theorem test_hostRead : t2Word (nxs (.hostReadCompletion 0 0 ⟨.success, 3, [⟨7, true⟩]⟩) (atQ readQ onRegs)) 1 0 = ⟨7, true⟩ := by decide
theorem test_hostRead_late : (nxs (.hostReadCompletion 0 0 ⟨.success, 4, [u 7]⟩) (atQ readQ onRegs)).out = [.aer 1] := by decide

/-! ## Partitions and registers (R12 to R15, R337 to R360) -/

def atPart (p : Part) (rs : Tab Word) : State := { at0 run0 with parts := [(1, p)], regs := rs, lc := .deployed }
def grantRegs : Tab Word := [reg 0 0 0x200000 1, reg 1 0 0x200008 1]
def partCode (s : State) : Word := regGet s 0 0 0x200048
theorem witness_PartitionCommands : partSel (atPart {} grantRegs) = 1 ∧ grantBad (atPart {} grantRegs) (stagedPart (atPart {} grantRegs) {}) = false ∧
    (atPart {} grantRegs).partCmd = none ∧ (atPart {} grantRegs).lc ≠ .retired ∧ (atPart {} grantRegs).gridRows ≤ 1080 ∧
    partSel (atPart {} []) = 1 := by decide
theorem witness_PartitionCommands_create : grantState (atPart {} grantRegs) 1 {} (stagedPart (atPart {} grantRegs) { creations := 1 }) = false := by decide +kernel
theorem test_create : ((nxs .create (atPart {} grantRegs)).part 1).fields = 1 := by decide +kernel
theorem test_create_live : partCode (nxs .create (atPart part1 grantRegs)) = 1 := by decide
theorem test_create_none : partCode (nxs .create (atPart {} [reg 0 0 0x200000 17])) = 2 := by decide
theorem test_resize_free : partCode (nxs .resize (atPart {} grantRegs)) = 1 := by decide
theorem test_reset : ((nxs .reset (atPart part1 grantRegs)).part 1).st = .resetting := by decide
theorem test_destroy : ((nxs .destroy (atPart part1 grantRegs)).part 1).st = .destroying := by decide
theorem test_transit_field : partCode (nxs .transit (atPart part1 [reg 0 0 0x200000 1, reg 1 0 0x200040 0x80015401])) = 2 := by decide
theorem test_transit_state : partCode (nxs .transit (atPart {} grantRegs)) = 1 := by decide
theorem witness_PartitionEnds : strikesOpen (atPart { part1 with st := .resetting } []) 1 = false ∧ (atPart part1 []).hw.ready = true ∧
    ({ atPart part1 [] with partCmd := some ⟨5, 1, {}⟩ }).partCmd = some ⟨5, 1, {}⟩ := by decide
theorem test_partitionResetDone : ((nxs (.partitionResetDone 0) (atPart { part1 with st := .resetting } [])).part 1).st = .live := by decide +kernel
theorem test_partCmdComplete : (nxs .partCmdComplete { atPart part1 [] with partCmd := some ⟨5, 1, {}⟩ }).partCmd = none := by decide
theorem test_vfFlr : ((nxs (.vfFlr 0) (atPart part1 [])).part 1).st = .resetting := by decide
theorem test_pfFlr : (nxs .pfFlr (atPart part1 [])).parts = [(1, part1)] := by decide +kernel
theorem test_perst : (nxs .perst (atPart part1 [])).cores = (atPart part1 []).cores := by decide +kernel

theorem witness_RegisterAccesses : mayWrite 1 0x100000 = true ∧ mayWrite 1 0x200044 = false ∧ mayRead 1 0x200044 = false ∧ (0x100028 : Nat) ∈ plain64 ∧
    fld (0x50000000 : Word) 31 28 = 5 := by decide
theorem test_registerWrite_held : (nxs (.registerWrite 1 0x600020 9 4) (at0 run0)).fns = [(1, { held := some (0x600020, 9) })] := by decide
theorem test_registerWrite_size : nxs (.registerWrite 1 0x600020 9 8) (at0 run0) = at0 run0 := by decide
theorem test_registerWrite_64 : reg64 (nxs (.registerWrite 1 0x600024 1 4) (nxs (.registerWrite 1 0x600020 9 4) (at0 run0))) 1 0 0x600020 = 0x100000009 := by decide
theorem test_lowWordRead : (nxs (.lowWordRead 1 ⟨0x600020, 4⟩) { at0 run0 with regs := [reg 0 1 0x600020 3, reg 0 1 0x600024 4] }).fns =
    [(1, { shadow := some (0x600020, 4) })] := by decide +kernel
theorem test_lowWordRead_none : (nxs (.lowWordRead 1 ⟨0x200044, 4⟩) (at0 run0)).out = [.read 1 0] ∧ (nxs (.lowWordRead 1 ⟨0x600020, 8⟩) (at0 run0)).out = [.read 1 0] := by decide
theorem test_errRingCtrl : regGet (nxs (.errRingCtrlWrite 1 0x80050000) { at0 run0 with regs := [reg 0 1 0xD0000C 9] }) 1 0 0xD0000C = 0 := by decide

/-! ## Power regions (R365 to R377, R448) -/

def atR (x : PRegion) : State := { at0 { run0 with st := .sleeping } with power := { regions := [(0, x)] } }
def regn (s : State) : PRegion := s.region 0
def ramping (k : Ramp) (n : Nat) : PRegion := { st := .ramping, ramp := k, tries := n }
theorem witness_RegionRamps : (atR (ramping .park 0)).gridRows ≤ 1080 ∧ (regn (atR (ramping .soft 1))).st = .ramping ∧ (regn (atR (ramping .unpark 2))).copy = (ramping .unpark 2).epoch ∧
    ({ ramping .unpark 0 with epoch := 1 } : PRegion).copy ≠ 1 := by decide
theorem witness_RegionRamps_gate : mayGate (atR (ramping .park 0)) 0 = true ∧ mayGate { atR (ramping .park 0) with cores := [(0, run0)] } 0 = false ∧
    ({ excl := [(1, 0), (1, 1), (1, 2)] } : PRegion).held .links = false := by decide
theorem test_rampDone_ungated : (regn (nxs (.rampDone 0) { atR (ramping .park 1) with cores := [(0, run0)] })).st = .on := by decide
theorem test_rampDone_park : (nxs (.rampDone 0) (atR (ramping .park 1))).power.regions = [(0, { st := .retained, ramp := .park })] := by decide +kernel
theorem test_rampDone_cores : ((nxs (.rampDone 0) (atR (ramping .park 1))).core c0).st = .retained := by decide +kernel
theorem test_rampShort_second : (regn (nxs (.rampShort 0 1) (atR (ramping .park 1)))).st = .retry := by decide
theorem test_rampShort_third : (regn (nxs (.rampShort 0 5) (atR (ramping .park 2)))).deadDom = 5 := by decide +kernel
theorem test_retryExpiry : (regn (nxs (.retryExpiry 0) (atR { st := .retry }))).st = .ramping := by decide
theorem test_retentionDroop : (regn (nxs (.retentionDroop 0) (atR { st := .retained }))).epoch = 1 := by decide
theorem test_retentionDroop_on : nxs (.retentionDroop 0) (atR { st := .on }) = atR { st := .on } := by decide
theorem test_regionLost_off : nxs (.regionLost 0 1) (atR {}) = atR {} := by decide
theorem test_regionLost : (regn (nxs (.regionLost 0 1) (atR { st := .on }))).st = .dead := by decide +kernel
theorem test_shortTrip : (regn (nxs (.shortTrip 0 2) (atR { st := .on }))).deadDom = 2 := by decide +kernel

theorem witness_RegionSensors : (atR { st := .on }).region 0 = { st := .on } ∧ Tab.find ({ st := .on } : PRegion).ocur (railNo .logic) = none ∧
    ({ st := .on, excl := [(railNo .logic, 3)] } : PRegion).excl.contains (railNo .logic, 3) = true ∧ Tab.get 0 (atR {}).power.convLost 12 < 8 := by decide
def sensorS (y : Sensor) : State := { atR {} with tamb := { sensors := [(sensorKey .junction 0 0, y)] } }
def sensorOf (s : State) : Sensor := Tab.get {} s.tamb.sensors (sensorKey .junction 0 0)
theorem witness_RegionSensors_filter : (sensorOf (sensorS { last := [600, 900] })).last = 600 :: 900 :: [] ∧ keyShift (sensorKey .junction 0 0) = keyShift (sensorKey .junction 0 0) := by decide
theorem test_overcurrent : (regn (nxs (.overcurrent 0 .logic) (atR { st := .on }))).ocur = [(0, 0)] := by decide
theorem test_overcurrent_dead : nxs (.overcurrent 0 .logic) (atR { st := .dead }) = atR { st := .dead } := by decide
theorem test_sensorExcluded : (regn (nxs (.sensorExcluded 0 .logic 3 500) (atR { st := .on }))).excl = [(0, 3)] := by decide
theorem test_sensorExcluded_twice : nxs (.sensorExcluded 0 .logic 3 500) (atR { excl := [(0, 3)] }) = atR { excl := [(0, 3)] } := by decide
theorem test_sensorSample_median : sensorOf (nxs (.sensorSample [⟨.junction, 0, 0, 700⟩]) (sensorS { last := [600, 900] })) =
    { last := [700, 600], num := 700, exp := 0, live := true } := by decide
theorem test_sensorSample_first : (sensorOf (nxs (.sensorSample [⟨.junction, 0, 0, 700⟩]) (sensorS {}))).live = false := by decide
theorem test_converterLost : (nxs (.converterLost 12) (atR {})).power.convLost = [(12, 1)] := by decide
theorem test_chipletLink : ((nxs (.chipletLinkRequest 168 ⟨false, .retrain⟩) { atR {} with power := { regions := [(168, { st := .on })] } }).region 168).chip = some .retrain := by decide
def linkR (w : Option LinkReq) : State := { atR {} with power := { regions := [(168, { st := .on, wafer := w })] } }
theorem witness_RegionSensors_link : ((linkR (some (.width 1))).region 168).wafer = some (.width 1) ∧ ((linkR none).region 168).wafer = none ∧
    ((linkR none).region 168).change = none := by decide
theorem test_chipletLink_acked : ((nxs (.chipletLinkRequest 168 ⟨true, .retrain⟩) (linkR (some (.width 1)))).region 168).change = some (.width 1) := by decide
theorem test_chipletLink_unacked : nxs (.chipletLinkRequest 168 ⟨false, .retrain⟩) (linkR (some (.width 1))) = linkR (some (.width 1)) := by decide
theorem test_chipletLink_wafer : nxs (.chipletLinkRequest 167 ⟨false, .retrain⟩) (atR {}) = atR {} := by decide
theorem test_linkChangeDone : (regn (nxs (.linkChangeDone 0) (atR { change := some (.width 2), wafer := some (.width 1) }))).width = 2 := by decide

/-! ## The decision cycle, the envelope, the supervisor (R378 to R404) -/

def upS (t : Tamb) (p : Power) (rs : Tab Word) : State := { at0 run0 with tamb := { t with ta := .active, tb := .standby }, power := p, regs := rs }
def seg1 (start ramp : Nat) (smp : List Nat) : Segment := ⟨BitVec.ofNat 64 start, ramp, smp⟩
theorem witness_DecisionCycles : (upS {} {} []).hw.phase = .up ∧ (upS {} {} []).tamb.ta = .active := by decide
theorem witness_DecisionCycles_cool (r : Nat) : tempAtLeast (upS {} {} []) r 1050 = false := rfl
theorem witness_DecisionCycles_hot : Tab.find ({ regions := [(0, { st := .on, hot := 4 })] } : Power).regions 0 = some { st := .on, hot := 4 } ∧
    tempAtLeast { upS {} {} [] with tamb := { sensors := [(0, { num := 1050, live := true })] } } 0 1050 = true ∧
    tempAtLeast { upS {} {} [] with tamb := { sensors := [(0, { num := 1049, live := true })] } } 0 1050 = false := by decide
theorem witness_DecisionCycles_segment : (seg1 0 0 [1000, 2000]).covers (nextCycle (upS {} { env := .tracking } [])).toNat = true ∧
    ({ env := .tracking } : Power).env ≠ .idle ∧ (⟨1, 100, none⟩ : Mbx).op = 1 := by decide
theorem test_cycle_draw : (nxs (.decisionCycle cyc) (upS { sensors := [(sensorKey .busbar 0 1, { num := 56, exp := 3, live := true })] } {} [])).power.draw = 7 := by decide +kernel
theorem test_cycle_inactive : nxs (.decisionCycle cyc) (at0 run0) = at0 run0 := by decide
theorem test_cycle_laneTimeout : ((nxs (.decisionCycle cyc) (upS { mbx := [(1, ⟨1, 100, none⟩)] } {} [])).part 1).laneTimeout = 100 := by decide +kernel
theorem test_cycle_laneTimeout_range : regGet (nxs (.decisionCycle cyc) (upS { mbx := [(1, ⟨1, 99, none⟩)] } {} [])) 1 0 0xA00020 = 1 ∧
    regGet (nxs (.decisionCycle cyc) (upS { mbx := [(1, ⟨1, 100001, none⟩)] } {} [])) 1 0 0xA00020 = 1 := by decide +kernel
theorem test_cycle_throttle : (nxs (.decisionCycle cyc) (upS { mbx := [(0, ⟨3, 60, none⟩)] } {} [])).tamb.throttle = 60 ∧ (nxs (.decisionCycle cyc) (upS { mbx := [(0, ⟨3, 95, none⟩)] } {} [])).tamb.throttle = 95 := by decide +kernel
theorem test_cycle_throttle_range : (nxs (.decisionCycle cyc) (upS { mbx := [(0, ⟨3, 59, none⟩)] } {} [])).tamb.throttle = 90 ∧ (nxs (.decisionCycle cyc) (upS { mbx := [(0, ⟨3, 96, none⟩)] } {} [])).tamb.throttle = 90 := by decide +kernel
theorem test_cycle_parkHold : (nxs (.decisionCycle cyc) (upS { mbx := [(0, ⟨4, 60000, none⟩)] } {} [])).tamb.parkHold = 60000 ∧ (nxs (.decisionCycle cyc) (upS { mbx := [(0, ⟨4, 60001, none⟩)] } {} [])).tamb.parkHold = 10 := by decide +kernel

def stagedRegs : Tab Word := [reg 0 0 0x900020 10000000, reg 0 0 0x900028 0]
def envS (p : Power) (rs : Tab Word) : State := { upS {} p rs with ptpLock := true }
theorem witness_EnvelopeCommands : (reg64 (envS {} stagedRegs) 0 0 0x900020).toNat = 10000000 ∧ fld (regGet (envS {} stagedRegs) 0 0 0x900028) 8 0 ≤ 300 ∧
    Tab.find ({ stage := [(0, 650)] } : Power).stage (0 * 65536 + 0) = some 650 ∧ (envS {} stagedRegs).ptpLock = true := by decide
theorem test_writeSeg : (nxs (.writeSeg .pf 3) (envS { stage := [(0, 650)] } stagedRegs)).power.segs = [(3, seg1 10000000 0 [650])] := by decide
theorem test_writeSeg_range : (nxs (.writeSeg .pf 3) (envS { stage := [(0, 649)] } stagedRegs)).power.segs = [] ∧
    (nxs (.writeSeg .pf 3) (envS { stage := [(0, 3601)] } stagedRegs)).power.segs = [] := by decide
theorem test_clearSeg : (nxs (.clearSeg .pf 3) (envS { segs := [(3, seg1 0 0 [650])] } [])).power.segs = [] := by decide
theorem test_clearSeg_active : (nxs (.clearSeg .pf 3) (envS { segs := [(3, seg1 0 0 [650])] } [reg 0 0 0x90000C 0x80000000])).power.segs.length = 1 := by decide
theorem test_clearAll : (nxs (.clearAll .pf) (envS { segs := [(3, seg1 0 0 [650])] } [])).power.segs = [] := by decide
theorem test_pwrSegCfg : (nxs (.pwrSegCfgWrite .pf 0x20005) (envS { stage := [(0, 650)] } [])).power.stage = [] := by decide
theorem test_pwrSegData : (nxs (.pwrSegDataWrite .pf 650) (envS {} [reg 0 0 0x90002C 0xFFFF])).power.stage = [(65535, 650)] ∧
    regGet (nxs (.pwrSegDataWrite .pf 650) (envS {} [reg 0 0 0x90002C 0xFFFF])) 0 0 0x90002C = 0 := by decide
theorem test_pwrEnvCtrl : (nxs (.pwrEnvCtrlWrite .pf 0x80000000) (envS {} [])).power.env = .armed := by decide
theorem test_pwrEnvCtrl_unlocked : (nxs (.pwrEnvCtrlWrite .pf 0x80000000) (upS {} {} [])).power.env = .idle := by decide
theorem test_envFrozen : (nxs .envFrozen (upS {} { env := .tracking, target := 5 } [])).power.env = .frozen := by decide
theorem test_envFrozen_locked : nxs .envFrozen (envS { env := .tracking } []) = envS { env := .tracking } [] := by decide
theorem test_ptpLockLost : (nxs .ptpLockLost (envS {} [])).ptpLock = false := by decide
theorem test_ptp_thaws : (nxs (.ptpEventMessage 0 5 true) { upS {} { env := .frozen } [reg 0 0 0x408000 0x80000000] with ports := [(0, upP)] }).power.env = .armed := by decide

theorem witness_SupervisorEvents : Tab.find (upS {} {} []).tamb.mbx 3 = none ∧ otherSt (upS {} {} []) = .standby ∧ (upS {} {} []).hw.phase = .up ∧
    (upS {} {} []).tamb.mmcLost = false ∧ (ctlsDown { upS {} {} [] with wst := { ctls := ctlsOn } }).length ≤ 1 := by decide
theorem witness_SupervisorEvents_setpoint : ((upS {} {} []).region 0).set .logic + 20 < 850 ∧
    ((upS {} { regions := [(0, { st := .on, hot := 5 })] } []).region 0).hot = 5 := by decide
theorem test_takeover_setpoint : (nxs (.takeover (.setpoint ⟨0, .logic, 850⟩)) (upS {} {} [])).tamb.tb = .active := by decide
theorem test_setLaneTimeout : (nxs (.setLaneTimeout 3) (upS {} {} [reg 0 3 0xA00018 500])).tamb.mbx = [(3, ⟨1, 500, none⟩)] := by decide
theorem test_wake : (nxs (.wake 1) (upS {} {} [])).tamb.mbx = [(1, ⟨2, 0, none⟩)] := by decide
theorem test_setThrottle : (nxs (.setThrottle 0) (upS {} {} [])).tamb.mbx = [(0, ⟨3, 0, none⟩)] := by decide
theorem test_setParkHold : nxs (.setParkHold 0) (upS { mbx := [(0, ⟨3, 0, none⟩)] } {} []) = upS { mbx := [(0, ⟨3, 0, none⟩)] } {} [] := by decide
theorem test_takeover : (nxs (.takeover .ecc) (upS {} {} [])).tamb.tb = .active ∧ (nxs (.takeover .ecc) (upS {} {} [])).tamb.ta = .failed := by decide
theorem test_takeover_overrun : (nxs (.takeover .overrun) (upS { overruns := 1 } {} [])).tamb.ta = .active ∧ (nxs (.takeover .overrun) (upS { overruns := 2 } {} [])).tamb.ta = .failed := by decide
theorem test_standbyLost : (nxs .standbyLost (upS {} {} [])).tamb.tb = .failed := by decide
theorem test_heartbeat : (nxs .mmcHeartbeatTimeout (upS {} {} [])).hw.phase = .stopped := by decide +kernel
theorem test_safeStop : (nxs (.safeStop .mmc) { upS {} {} [] with gridRows := 0 }).quiet = true := by decide +kernel
theorem test_mmcLost : (nxs .mmcLost (upS {} {} [])).tamb.mmcLost = true := by decide
theorem test_logRecordWrite : (nxs .logRecordWrite { upS { queue := [(2097153, [7])] } {} [] with wst := { ctls := ctlsOn } }).tamb.log = [(1, (2097153, [7]))] := by decide
theorem test_logFetch : (nxs (.logFetch .pf 1) (upS {} {} [reg 0 0 0xA00030 2])).tamb.fetch = [(0, ⟨0x100000002, none⟩)] := by decide
theorem test_logFetchDone : (nxs (.logFetchDone .pf) (upS { fetch := [(0, ⟨1, none⟩)], log := [(1, (1, [7]))] } {} [])).tamb.fetch = [(0, ⟨1, some (some [7])⟩)] := by decide
theorem test_logFetchDone_gone : (nxs (.logFetchDone .pf) (upS { fetch := [(0, ⟨1, none⟩)], log := [(1, (2097153, [7]))] } {} [])).tamb.fetch = [(0, ⟨1, some none⟩)] := by decide

/-! ## Tests, life cycle, keys, SPDM (R405 to R434) -/

def testS (u : Nat) (x : TestU) : State := { at0 run0 with tests := [(u, x)], parts := [], lc := .service }
def runT : TestU := { st := .running }
def refusedT (s : State) : Bool := (regGet s 0 0 0xB00014).getLsbD 31
theorem witness_TestCommands : (testS 5 runT).test 5 = runT ∧ (testS 5 {}).lc ≠ .retired ∧ partOfField (testS 5 {}) 2 = 0 ∧
    stackState (atT { stack := [(23, 2)] }) 23 = 2 ∧ (ctl (nxs (.ctlOffline 15) (atW {} [])) 15).st = 1 ∧ (atR {}).gridRows ≤ 1080 := by decide
theorem witness_TestCommands_owner : partOfField (atPart part1 []) 0 = 1 ∧ ((atPart part1 []).part 1).st = .live ∧ loadedAfterReset (atPart part1 []) 0 = false := by decide
theorem test_bist : ((nxs (.bist 5 true) (testS 5 {})).test 5) = { st := .queued, links := true } := by decide
theorem test_bist_range : refusedT (nxs (.bist 168 true) (testS 5 {})) = true ∧ refusedT (nxs (.bist 5 false) (testS 5 runT)) = true := by decide
theorem test_repair : ((nxs (.repair 5) (testS 5 {})).test 5).repair = true := by decide
theorem test_repair_held : refusedT (nxs (.repair 0) (atPart part1 [])) = true := by decide
theorem test_unitTest : ((nxs (.unitTest 191) { testS 5 {} with tiers := { stack := [(23, 2)] } }).test 191).st = .running := by decide
theorem test_unitTest_online : refusedT (nxs (.unitTest 191) { testS 5 {} with tiers := { stack := [(23, 0)] } }) = true := by decide
theorem test_testAbort : ((nxs (.testAbort 191) (testS 191 runT)).test 191).st = .idle := by decide
theorem test_testAbort_idle : refusedT (nxs (.testAbort 191) (testS 191 {})) = true := by decide

theorem witness_TestRuns : runReady (testS 0 { st := .queued }) 0 = true ∧ runsNow (testS 0 { st := .queued }) < fld (regGet (testS 0 {}) 0 0 0xB0000C) 27 24 ∧
    (regGet (testS 0 {}) 0 0 0xB0000C).getLsbD 31 = false ∧ (testS 0 { st := .running, repair := true }).lc = .service ∧ neighbourFinds [] = [] := by decide
def goodRun : TestResult := ⟨true, [], []⟩
theorem witness_TestRuns_dark : ({ testS 0 { runT with repair := true } with power := { regions := [(0, { st := .dead })] } }.region 0).st = .dead := by decide
theorem test_bistRunStart : ((nxs (.bistRunStart 0) (testS 0 { st := .queued })).test 0) = { st := .running, slice := true } := by decide +kernel
theorem test_bistSliceDone : ((nxs (.bistSliceDone 0) { testS 0 { st := .running, slice := true, slices := 22 } with regs := [reg 0 0 0xB0000C 0x88000000] }).test 0).slices = 22 := by decide
theorem test_bistRunDone : ((nxs (.bistRunDone 0 goodRun) (testS 0 runT)).test 0).st = .pass := by decide +kernel
theorem test_bistRunDone_fail : ((nxs (.bistRunDone 0 ⟨true, [], [⟨7, 0, 0⟩]⟩) (testS 0 runT)).test 0).st = .fail := by decide +kernel
theorem test_repairDone : (nxs (.repairDone 0 goodRun) (testS 0 { runT with repair := true })).incarnation = 1 := by decide +kernel
theorem test_repairDone_ramp : ((nxs (.repairDone 0 ⟨false, [], []⟩) { testS 0 { runT with repair := true } with power := { regions := [(0, { st := .dead })] } }).test 0).st = .fail ∧
    ((nxs (.repairDone 0 ⟨false, [], []⟩) (testS 0 { runT with repair := true })).test 0).st = .pass := by decide +kernel
theorem test_unitTestDone : (nxs (.unitTestDone 191 false) (testS 191 runT)).tiers.failed = [23] := by decide
theorem test_unitTestDone_pass : ((nxs (.unitTestDone 215 true) (testS 215 runT)).port 7).bad = false := by decide

def atLc (l : LifeState) : State := { State.reset with lc := l }
def refusedL (s : State) : Bool := (regGet s 0 0 0xB00008).getLsbD 31
theorem witness_LifeCycle : (atLc .provisioned).lc = .provisioned ∧ (∀ p, 1 ≤ p → p ≤ 16 → ((atLc .deployed).part p).st = .free ∧ (atLc .deployed).partCmd.map (·.part) ≠ some p) ∧
    (atLc .service).tests = [] ∧ ({ atLc .manufacture with testDone := true }).defects.length ≤ 4096 := ⟨rfl, fun _ _ _ => ⟨rfl, by simp [atLc, State.reset]⟩, rfl, by decide⟩
def starting : State := { at0 run0 with hw := { phase := .starting }, gridRows := 0 }
theorem witness_LifeCycle_powerUp : starting.hw.phase = .starting ∧ starting.lc ≠ .retired ∧ ({ starting with lc := .retired } : State).lc = .retired := by decide
theorem test_deploy : (nxs .deploy (atLc .provisioned)).lc = .deployed ∧ refusedL (nxs .deploy (atLc .deployed)) = true := by decide
theorem test_enterService : (nxs .enterService (atLc .deployed)).lc = .service ∧ (nxs .enterService { atLc .deployed with parts := [(16, part1)] }).lc = .deployed := by decide
theorem test_leaveService : (nxs .leaveService (atLc .service)).incarnation = 1 ∧ (nxs .leaveService (atLc .deployed)).incarnation = 0 := by decide
theorem test_retire : (nxs (.retire 0xA5A5) (atLc .deployed)).lc = .retired := by decide +kernel
theorem test_retire_confirm : (nxs (.retire 0xA5A4) (atLc .deployed)).lc = .deployed ∧ refusedL (nxs (.retire 0xA5A5) (atLc .manufacture)) = true := by decide
theorem test_finalise : (nxs .finalise { atLc .manufacture with testDone := true, gridRows := 1020 }).grade = 1 ∧ (nxs .finalise { atLc .manufacture with testDone := true, gridRows := 1019 }).grade = 2 := by decide
theorem test_finalise_untested : (nxs .finalise (atLc .manufacture)).lc = .manufacture := by decide
theorem test_powerUpTest_none : (nxs (.powerUpTest { pow with taOk := false, tbOk := false }) starting).hw.phase = .stopped := by decide +kernel
theorem test_powerUpTest_dark : nxs (.powerUpTest pow) State.reset = State.reset := by decide

def keyS (l : LifeState) : State := { at0 run0 with lc := l, sec := { keys := [(256, [])] } }
theorem witness_KeyCommands : (keyS .deployed).lc ≠ .manufacture ∧ (keyS .deployed).sec.keyFault = false ∧ keyUsers (keyS .deployed) 256 = 0 ∧
    Tab.find (keyS .deployed).sec.keys 1 = none := by decide
theorem halves_append (x : BitVec 64) : (x >>> 32).truncate 32 ++ (x.truncate 32 : BitVec 32) = x := by
  apply BitVec.eq_of_toNat_eq
  have := x.isLt
  simp only [BitVec.toNat_append, BitVec.truncate_eq_setWidth, BitVec.toNat_setWidth, BitVec.toNat_ushiftRight, Nat.shiftRight_eq_div_pow]
  rw [Nat.shiftLeft_eq, ← Nat.mul_comm (2 ^ 32), ← Nat.two_pow_add_eq_or_of_lt (Nat.mod_lt _ (by decide))]
  omega
/-- The words of a blob that R428 admits: version 1, kind 1, this module's serial number. -/
def goodBlob : List Word := [0x101, Config.serial.truncate 32, (Config.serial >>> 32).truncate 32]
theorem witness_KeyCommands_blob : fld (goodBlob.getD 0 0) 7 0 = 1 ∧ fld (goodBlob.getD 0 0) 15 8 = 1 ∧ fld (goodBlob.getD 0 0) 23 16 = 0 ∧ fld (goodBlob.getD 0 0) 31 24 = 0 ∧
    goodBlob.getD 2 0 ++ goodBlob.getD 1 0 = Config.serial := ⟨by decide, by decide, by decide, by decide, halves_append _⟩
theorem test_unwrap_state : regGet (nxs (.unwrap 1 true true true) (keyS .manufacture)) 0 0 0xC00008 = 2 := by decide
theorem test_keyDelete : (nxs (.keyDelete 256) (keyS .deployed)).sec.keys = [] := by decide
theorem test_keyDelete_range : regGet (nxs (.keyDelete 257) (keyS .deployed)) 0 0 0xC00008 = 2 ∧ regGet (nxs (.keyDelete 0) (keyS .deployed)) 0 0 0xC00008 = 2 := by decide
theorem test_keyDelete_used : regGet (nxs (.keyDelete 1) (wstS 1)) 0 0 0xC00008 = 2 ∧ regGet (nxs (.keyDelete 1) { wstS 1 with lc := .deployed }) 0 0 0xC00008 = 3 := by decide

theorem witness_SpdmAnswers : viaUp (at0 run0) .pcie = true ∧ viaUp State.reset .pcie = false ∧ starting.sec.keysReady = false ∧ starting.sec.keyFault = false ∧
    viaUp starting (.bus .smb) = true ∧ (keyS .deployed).sec.keyFault = false := by decide
theorem test_getVersion_down : nxs (.getVersion .pcie) State.reset = State.reset := by decide
theorem test_spdm_busy : (nxs (.getDigests (.bus .smb)) starting).out = [.mctp (viaNo (.bus .smb)) [0x00037F13]] := by decide
theorem test_spdm_unsupported : (nxs (.spdmUnsupportedRequest .pcie 0xFF) (at0 run0)).out = [.mctp (viaNo .pcie) [0xFF077F13]] := by decide
theorem test_challenge_shut : (nxs (.challenge .pcie 0) (at0 run0)).out = [.mctp (viaNo .pcie) [0x00047F13]] := by decide
theorem test_getMeasurements_shut : (nxs (.getMeasurements .pcie 1 true) (at0 run0)).out = [.mctp (viaNo .pcie) [0x00047F13]] := by decide
theorem test_getCapabilities_busy : (nxs (.getCapabilities (.bus .smb)) starting).out.length = 1 := by decide
theorem test_negotiate_busy : (nxs (.negotiateAlgorithms (.bus .smb) true) starting).out.length = 1 := by decide
theorem test_getCertificate_busy : (nxs (.getCertificate (.bus .smb) 0) starting).out.length = 1 := by decide

/-! ## The module and its sidebands (R462 to R486) -/

def modS (mv : Nat) (h : ModHw) : State := { State.reset with hw := { h with busMv := mv } }
def stoppedHw : ModHw := { phase := .stopped, startReq := true }
def pui : PowerUpIn := ⟨false, 0, true, true⟩
theorem witness_ModuleEvents : (modS 42000 stoppedHw).hw.phase = .stopped ∧ (modS 58000 stoppedHw).hw.startReq = true ∧ (modS 42000 stoppedHw).hw.rst = false ∧
    (modS 42000 stoppedHw).hw.epo = false ∧ pui.auxFromOff = false ∧ (atP upP []).port 0 = upP := by decide
theorem test_busRange_dark : (nxs (.busRange 29999) (modS 48000 stoppedHw)).hw.phase = .dark ∧ (nxs (.busRange 30000) (modS 48000 stoppedHw)).hw.phase = .stopped := by decide +kernel
theorem test_busRange_limit : (nxs (.busRange 40000) (modS 48000 stoppedHw)).hw.busLimit = some 3440 ∧ (nxs (.busRange 42000) (modS 48000 stoppedHw)).hw.busLimit = none := by decide
theorem test_busRange_alert : (nxs (.busRange 58000) (modS 48000 stoppedHw)).hw.alerts = 0 ∧ (nxs (.busRange 58001) (modS 48000 stoppedHw)).hw.alerts = 0x20 := by decide
theorem test_busRange_stop : (nxs (.busRange 59500) (modS 48000 { phase := .up })).hw.phase = .up ∧ (nxs (.busRange 59501) (modS 48000 { phase := .up })).hw.phase = .stopped := by decide +kernel
theorem test_busRange_low : (nxs (.busRange 39999) (modS 48000 { phase := .up })).hw.phase = .stopped := by decide +kernel
theorem test_busbarLoss : (nxs .busbarLoss (modS 48000 stoppedHw)).hw.phase = .dark := by decide +kernel
theorem test_modRst : (nxs (.modRst false) (modS 48000 stoppedHw)).hw.startReq = false ∧ (nxs (.modRst true) (modS 48000 { stoppedHw with rst := true, startReq := false })).hw.startReq = true := by decide +kernel
theorem test_epo : (nxs (.epo false) (modS 48000 { phase := .up })).hw.phase = .stopped ∧ (nxs (.epo true) (modS 48000 { epo := true })).hw.epo = false := by decide +kernel
theorem test_coolant : (nxs (.coolantSample 420 0 450 false) (modS 48000 { phase := .up })).hw.coolLimit = some 2600 ∧
    (nxs (.coolantSample 320 0 449 false) (modS 48000 { phase := .up })).hw.coolLimit = some 3592 := by decide
theorem test_coolant_stop : (nxs (.coolantSample 421 0 450 false) (modS 48000 { phase := .up, inletBad := 199 })).hw.phase = .stopped ∧
    (nxs (.coolantSample 421 0 450 false) (modS 48000 { phase := .up, inletBad := 198 })).hw.phase = .up := by decide +kernel
theorem test_leak : (nxs .leak (modS 48000 { phase := .up })).hw.alerts.getLsbD 7 = true := by decide +kernel
theorem test_powerUpSequence : (nxs (.powerUpSequence pui) (modS 42000 stoppedHw)).hw.phase = .starting ∧ (nxs (.powerUpSequence pui) (modS 41999 stoppedHw)).hw.phase = .stopped := by decide +kernel
theorem test_powerUpSequence_high : (nxs (.powerUpSequence pui) (modS 58000 stoppedHw)).hw.phase = .starting ∧ (nxs (.powerUpSequence pui) (modS 58001 stoppedHw)).hw.phase = .stopped := by decide +kernel
theorem test_pps : pinOf (nxs .ppsRise (modS 48000 { phase := .up, pins := [(1, { func := 1, stored := 1 })] })) 1 = { func := 1, stored := 1, pps := true } := by decide
theorem test_ppsFall : pinOf (nxs .ppsFall (modS 48000 { phase := .up, pins := [(1, { func := 1, stored := 1, pps := true })] })) 1 = { func := 1, stored := 1 } := by decide
theorem test_transceiver : ((nxs (.transceiverEvent 0 .removed) (atP upP [])).port 0).st = .training ∧ ((nxs (.transceiverEvent 0 .noAnswer) (atP upP [])).port 0).st = .down := by decide

def sb (bytes : List Nat) : SbData := ⟨true, bytes.map (BitVec.ofNat 8)⟩
def upM : State := modS 48000 { phase := .up, ready := true }
theorem witness_SidebandCommands : busUp upM .smb = true ∧ busUp State.reset .smb = false ∧ (sb [0x5A]).pecOk = true ∧ (sb [0x5A]).bytes.length = 1 ∧
    (sb [0x5A]).bytes.map BitVec.toNat = [0x5A] ∧ (pinOf upM 0).stored ≠ 3 ∧ (pinOf upM 2).parked = false ∧ busReads 0x900008 = true ∧ busWrites 0x900008 = true ∧
    busReads 0x100000 = false ∧ busWrites 0 = false := by decide
def txs (n : Nat) (l : Bool) : Tab (List MctpTx) := [(busNo .smb, [⟨[7], n, l⟩])]
theorem witness_SidebandCommands_mctp : (Tab.get [] (txs 6 false) (busNo .smb)).find? (fun z => !z.lost) = some ⟨[7], 6, false⟩ ∧
    (Tab.get [] (txs 6 true) (busNo .smb)).filter (·.lost) = [⟨[7], 6, true⟩] := by decide
theorem test_shutdown : (nxs (.shutdown .smb (sb [0x5A])) upM).hw.phase = .stopped := by decide +kernel
theorem test_shutdown_other : (nxs (.shutdown .smb (sb [0x5B])) upM).hw.discarded = 1 := by decide
theorem test_restart : (nxs (.restart .smb (sb [0xA5])) (modS 48000 { phase := .stopped })).hw.startReq = true ∧ (nxs (.restart .smb (sb [0xA5])) upM).hw.startReq = false := by decide
theorem test_readWindow_id : (nxs (.readWindow .smb (sb [0, 0, 0, 0])) upM).out = [.reply (busNo .smb) [0x00, 0x72, 0xA7, 0xB4]] := by decide
theorem test_readWindow_none : (nxs (.readWindow .smb (sb [1, 0, 0, 0])) upM).out = [.reply (busNo .smb) [0, 0, 0, 0]] := by decide
theorem test_writeWindow_cap : fld (regGet (nxs (.writeWindow .smb (sb [8, 0, 0x90, 0, 0x8A, 2, 0, 0])) upM) 0 0 0x900008) 15 0 = 650 ∧
    fld (regGet (nxs (.writeWindow .smb (sb [8, 0, 0x90, 0, 0x10, 0x0E, 0, 0])) upM) 0 0 0x900008) 15 0 = 3600 := by decide
theorem test_writeWindow_other : nxs (.writeWindow .smb (sb [0, 0, 0, 0, 1, 0, 0, 0])) upM = upM := by decide
theorem test_status_length : (nxs (.status .smb (sb [])) upM).out.map (fun o => match o with | .reply _ bs => bs.length | _ => 0) = [24] := by decide +kernel
theorem test_clearAlert : (nxs (.clearAlert .smb (sb [0x20, 0, 0, 0])) (modS 48000 { phase := .up, alerts := 0x21 })).hw.alerts = 1 := by decide
theorem test_factory : (nxs (.factory .smb (sb [1, 0]) false) upM).hw.discarded = 1 := by decide
theorem test_pinFunc : pinOf (nxs (.pinFunc .smb (sb [3, 2])) upM) 3 = ⟨0, true, [2], 2, false⟩ := by decide
theorem test_pinFunc_refused : (nxs (.pinFunc .smb (sb [1, 3])) upM).hw.discarded = 1 ∧ (nxs (.pinFunc .smb (sb [4, 0])) upM).hw.discarded = 1 := by decide
theorem test_mfParkEnd : pinOf (nxs (.mfParkEnd 3) (modS 48000 { phase := .up, pins := [(3, ⟨0, true, [2], 2, false⟩)] })) 3 = ⟨2, false, [], 2, false⟩ := by decide
theorem test_undefinedCommand : (nxs (.smbusUndefinedCommand .smb 0xFF) upM).out = [.nack (busNo .smb)] := by decide
theorem test_alertResponse : (nxs (.alertResponse .smb) (modS 48000 { phase := .up, alerts := 1 })).out = [.alertAnswer (busNo .smb) 0x60] ∧ (nxs (.alertResponse .smb) upM).out = [] := by decide
theorem test_clockLow : nxs (.clockLowTimeout .smb) upM = upM := by decide
theorem test_mctp_pec : (nxs (.mctp .smb ⟨false, []⟩ false) upM).hw.discarded = 1 := by decide
theorem test_arbitrationLost : Tab.get [] (nxs (.arbitrationLost .smb false) (modS 48000 { phase := .up, mctp := txs 6 false })).hw.mctp (busNo .smb) = [⟨[7], 7, true⟩] := by decide
theorem test_arbitrationLost_last : (nxs (.arbitrationLost .smb false) (modS 48000 { phase := .up, mctp := txs 7 false })).hw.dropped = 1 := by decide
theorem test_mctpRetry : (nxs (.mctpRetry .smb false) (modS 48000 { phase := .up, mctp := txs 6 true })).out = [.mctp (busNo .smb) [7]] := by decide
theorem test_mctpRetry_expired : (nxs (.mctpRetry .smb true) (modS 48000 { phase := .up, mctp := txs 6 true })).hw.dropped = 1 := by decide

/-! ## The whole machine -/

theorem test_step_idle : step (at0 run0) = .next (at0 run0) := rfl
theorem test_step_front : (nx (step { at0 run0 with pending := [.nop c0, .add c0 3 1 2] })).pending = [.add c0 3 1 2] := by decide
theorem witness_QueueIsFifo : ({ at0 run0 with pending := [.nop c0] }).pending = .nop c0 :: [] ∧ exec (.deploy) (atLc .provisioned) = .next { atLc .provisioned with lc := .deployed } :=
  ⟨rfl, rfl⟩
theorem witness_LifeCycleInvariant : (atLc .retired).lc = .retired ∧ (atLc .deployed).lc ≠ .manufacture ∧ step (atLc .retired) = .next (atLc .retired) := ⟨rfl, by decide, rfl⟩
theorem witness_MemoriesStayCanonical : memoriesWf (atT { mem := [(3, 1), (8, 2)] }) = true ∧ memoriesWf (atT { mem := [(3, 0)] }) = false ∧
    memoriesWf (atT { mem := [(8, 2), (3, 1)] }) = false := by decide
theorem test_reset_wf : memoriesWf State.reset = true := by decide
theorem witness_TokenAtPowerUp : starting.hw.phase = .starting ∧ pow.taOk = true ∧ ({ pow with taOk := false } : PowerUpResult).taOk = false := by decide
theorem witness_QueueEnable : (regGet (atQ {} [qReg 0]) 1 0 (hqOff 0 0x10)).getLsbD 31 = false ∧ (regGet (atQ {} onRegs) 1 0 (hqOff 0 0x10)).getLsbD 31 = true ∧
    (cmdQ [0]).cmd = some { w := [0] } ∧ (cmdQ [0]).cpl = none := by decide
theorem test_queueEnable_base : nxs (.registerWrite 1 0x100000 0x1000 4) (atQ {} onRegs) = atQ {} onRegs := by decide
theorem witness_QueueStops : ({ cmdQ [0x04000007] with cpl := some (1, 0) }).cpl = some (1, 0) ∧ (regGet (atQ {} [qReg 0x80400000, reg 0 1 0x100020 0x80000000]) 1 0 0x100020).getLsbD 31 = true := by decide
theorem test_queueStops : regGet (nxs (.commandComplete 0 0) (atQ { cmdQ [0x04000007] with cpl := some (1, 0) } onRegs)) 1 0 0x100020 = 0x80040007 := by decide
theorem test_queueStops_fetch : nxs (.commandFetch 0 0 (List.replicate 16 0)) (atQ { tail := 1 } [qReg 0x80400000, reg 0 1 0x100020 0x80000000]) =
    atQ { tail := 1 } [qReg 0x80400000, reg 0 1 0x100020 0x80000000] := by decide
def creating : State := { atPart part1 [] with partCmd := some ⟨1, 1, {}⟩, power := { regions := [(0, { st := .on }), (1, { st := .on })] } }
theorem witness_FormsComplete : Ready (at0 run0) c0 (.vqscale c0 .bf16 .e4m3 3 4 0) ∧ Ready (at0 run0) c0 (.vquant c0 .bf16 .e4m3 3 4 0) ∧
    Ready (at0 run0) c0 (.vdq c0 .fp32 .e4m3 4 4 0) ∧ Ready (at0 run0) c0 (.vcvt c0 false 4 4 0) ∧ pui.auxFromOff = false ∧ (modS 42000 stoppedHw).hw.startReq = true ∧
    (modS 42000 stoppedHw).hw.phase = .stopped ∧ creating.partCmd = some ⟨1, 1, {}⟩ ∧
    (cmdHalves creating).any (fun h => softPending (creating.region h)) = false :=
  ⟨witness_ready _, witness_ready _, witness_ready _, witness_ready _, by decide⟩

end Sys2Proof.Tests
end

section
/-! PROOFS. What the host queues' registers and completion entries do: setting and clearing HQ_Q_CTRL.EN (R341) and the stop by STATE
(R346). -/

namespace Sys2Proof.Machine

/-! ## Fields of words -/

/-- A mask of R13's tables has exactly its own bits. -/
theorem getLsbD_bits {hi lo : Nat} (h : lo ≤ hi) (h32 : hi < 32) (i : Nat) : (bits hi lo).getLsbD i = decide (lo ≤ i ∧ i ≤ hi) := by
  have hm : 2 ^ (hi + 1) - 2 ^ lo = 2 ^ lo * (2 ^ (hi + 1 - lo) - 1) := by
    rw [Nat.mul_sub, ← Nat.pow_add, Nat.mul_one, show lo + (hi + 1 - lo) = hi + 1 by omega]
  simp only [bits, hm, BitVec.getLsbD_ofNat, Nat.testBit_two_pow_mul, Nat.testBit_two_pow_sub_one]
  grind

/-- A mask has no bit above its own. -/
theorem getLsbD_and_bits_of_lt (w : Word) {hi lo i : Nat} (h : lo ≤ hi) (hi' : hi < i) (h32 : hi < 32) : (w &&& bits hi lo).getLsbD i = false := by
  rw [BitVec.getLsbD_and, getLsbD_bits h h32, decide_eq_false (by omega), Bool.and_false]

/-- A field depends on its own bits alone. -/
theorem fld_congr {a b : Word} {hi lo : Nat} (h : ∀ i, lo ≤ i → i ≤ hi → a.getLsbD i = b.getLsbD i) : fld a hi lo = fld b hi lo := by
  have hx : ∀ w : Word, fld w hi lo = (w.extractLsb' lo (hi + 1 - lo)).toNat := fun w => by
    simp [fld, BitVec.extractLsb'_toNat, Nat.shiftRight_eq_div_pow]
  have he : a.extractLsb' lo (hi + 1 - lo) = b.extractLsb' lo (hi + 1 - lo) :=
    BitVec.eq_of_getLsbD_eq fun i hi' => by simp [hi', h (lo + i) (by omega) (by omega)]
  rw [hx, hx, he]

theorem fld_lt (w : Word) (hi lo : Nat) : fld w hi lo < 2 ^ (hi + 1 - lo) := Nat.mod_lt _ (Nat.two_pow_pos _)

/-! ## Queues and registers after an update -/

@[simp] theorem hqOff_inj (q a b : Nat) : hqOff q a = hqOff q b ↔ a = b := by simp [hqOff]

@[simp] theorem hq_setHq (s : State) (p q : Nat) (x : HQueue) : hq (setHq s p q x) p q = x := by simp [hq]

@[simp] theorem hq_regSet (s : State) (fn idx off : Nat) (w : Word) (p q : Nat) : hq (regSet s fn idx off w) p q = hq s p q := rfl

@[simp] theorem regGet_setHq (s : State) (p q : Nat) (x : HQueue) (fn idx off : Nat) :
    regGet (setHq s p q x) fn idx off = regGet s fn idx off := rfl

@[simp] theorem out_cntAdd (s : State) (fn idx off n : Nat) : (cntAdd s fn idx off n).out = s.out := rfl

/-- Counting leaves every register but the two words of its counter alone. -/
theorem regGet_cntAdd_off (s : State) (fn idx off n off' : Nat) (h : off' ≠ off) (h4 : off' ≠ off + 4) :
    regGet (cntAdd s fn idx off n) fn idx off' = regGet s fn idx off' := by
  rw [cntAdd, reg64Set, regGet_regSet_off _ _ _ _ _ _ h4, regGet_regSet_off _ _ _ _ _ _ h]

/-! ## What the work of one queue leaves alone -/

/-- From `s` to `t` every other queue stands, and of queue q's registers all but HQ_Q_STATUS and HQ_CNT_DONE. -/
def QueueKeeps (p q : Nat) (s t : State) : Prop :=
  (∀ j, j ≠ p * 8 + q → Tab.find t.hqs j = Tab.find s.hqs j) ∧
    ∀ o, o ∉ [0x20, 0x28, 0x2C] → regGet t p 0 (hqOff q o) = regGet s p 0 (hqOff q o)

theorem QueueKeeps.refl (p q : Nat) (s : State) : QueueKeeps p q s s := ⟨fun _ _ => rfl, fun _ _ => rfl⟩

theorem QueueKeeps.trans {p q : Nat} {s t u : State} (h : QueueKeeps p q s t) (g : QueueKeeps p q t u) : QueueKeeps p q s u :=
  ⟨fun j hj => (g.1 j hj).trans (h.1 j hj), fun o ho => (g.2 o ho).trans (h.2 o ho)⟩

theorem QueueKeeps.of_eq (p q : Nat) {s t : State} (hh : t.hqs = s.hqs) (hr : t.regs = s.regs) : QueueKeeps p q s t :=
  ⟨fun j _ => by rw [hh], fun o _ => by simp only [regGet, hr]⟩

theorem QueueKeeps.of_setHq (p q : Nat) (s : State) (x : HQueue) : QueueKeeps p q s (setHq s p q x) :=
  ⟨fun _ hj => Tab.find_put_other _ _ hj, fun _ _ => rfl⟩

theorem QueueKeeps.of_cntDone (p q : Nat) (s : State) (n : Nat) : QueueKeeps p q s (cntAdd s p 0 (hqOff q 0x28) n) := by
  refine ⟨fun _ _ => rfl, fun o ho => ?_⟩
  simp only [List.mem_cons, List.not_mem_nil, or_false, not_or] at ho
  obtain ⟨-, h28, h2C⟩ := ho
  exact regGet_cntAdd_off _ _ _ _ _ _ (by simpa using h28) (by simp only [hqOff]; omega)

theorem QueueKeeps.of_status (p q : Nat) (s : State) (w : Word) : QueueKeeps p q s (regSet s p 0 (hqOff q 0x20) w) :=
  ⟨fun _ _ => rfl, fun o ho => regGet_regSet_off _ _ _ _ _ _ fun h => ho (by simp [(hqOff_inj _ _ _).mp h])⟩

/-- The base of the completion ring is among the registers kept. -/
theorem QueueKeeps.reg64_cplBase {p q : Nat} {s t : State} (h : QueueKeeps p q s t) :
    reg64 t p 0 (hqOff q 0x08) = reg64 s p 0 (hqOff q 0x08) := by
  have hhi : regGet t p 0 (hqOff q 0x08 + 4) = regGet s p 0 (hqOff q 0x08 + 4) := h.2 0x0C (by decide)
  rw [reg64, reg64, hhi, h.2 0x08 (by decide)]

theorem QueueKeeps.hqSize {p q : Nat} {s t : State} (h : QueueKeeps p q s t) : hqSize t p q = hqSize s p q := by
  simp only [Sys2Proof.Machine.hqSize, hqCtrl, h.2 0x10 (by decide)]

/-! ## Completion entries (R342, R345, R346) -/

/-- Whether queue q's completion ring has no free entry (R342; log entry 57). -/
def cplFull (s : State) (p q : Nat) : Prop := ((hq s p q).cplTail + 1) % hqSize s p q = fld (regGet s p 0 (hqOff q 0x1C)) 15 0

/-- The completion entry of a command that ends with a status and a result, as queue q of `s` writes it (R342, R345). -/
def cplEntry (s : State) (p q : Nat) (c : HCmd) (st : BitVec 8) (res : Word) : Out :=
  .host p ((reg64 s p 0 (hqOff q 0x08)).toNat + 16 * (hq s p q).cplTail)
    (clean [BitVec.ofNat 32 (st.toNat * 2 ^ 24 + (hq s p q).phase.toNat * 2 ^ 16 + fld (c.w.getD 0 0) 15 0), res, BitVec.ofNat 32 c.head, 0])

/-- The state with the completion entry written and the queue free for its next command (R342, R345). -/
def cplWritten (s : State) (p q : Nat) (c : HCmd) (st : BitVec 8) (res : Word) : State :=
  let x := hq s p q
  let next := (x.cplTail + 1) % hqSize s p q
  let s := emit s (cplEntry s p q c st res)
  let s := if (c.w.getD 0 0).getLsbD 16 then emit s (.msix p (fld (hqCtrl s p q) 19 16)) else s
  cntAdd (setHq s p q { x with cplTail := next, phase := if next = 0 then !x.phase else x.phase, cmd := none, cpl := none, held := false })
    p 0 (hqOff q 0x28) 1

/-- HQ_Q_STATUS once a command was refused with STATE: STOPPED, DB_ERR as before, OPCODE and TAG (R346). -/
def refusedStatus (old : Word) (c : HCmd) : Word :=
  (old &&& bits 30 30) ||| bits 31 31 ||| BitVec.ofNat 32 (c.op * 2 ^ 16 + fld (c.w.getD 0 0) 15 0)

section
variable {s : State} {p q : Nat} {c : HCmd} {st : BitVec 8} {res : Word}

theorem writeCpl_of_full (hc : (hq s p q).cmd = some c) (he : (hq s p q).cpl = some (st, res)) (hf : cplFull s p q) :
    writeCpl s p q = setHq s p q { hq s p q with held := true } := by
  unfold cplFull at hf
  simp only [writeCpl, hc, he, hf, if_true]

theorem writeCpl_of_room (hc : (hq s p q).cmd = some c) (he : (hq s p q).cpl = some (st, res)) (hf : ¬ cplFull s p q) :
    writeCpl s p q = if st = 1 then
        regSet (cplWritten s p q c st res) p 0 (hqOff q 0x20) (refusedStatus (regGet (cplWritten s p q c st res) p 0 (hqOff q 0x20)) c)
      else cplWritten s p q c st res := by
  unfold cplFull at hf
  simp only [writeCpl, hc, he, hf, if_false]
  rfl

end

/-- A queue with no ended command has no completion entry to write. -/
theorem writeCpl_of_none {s : State} {p q : Nat} (h : (hq s p q).cmd = none ∨ (hq s p q).cpl = none) : writeCpl s p q = s := by
  unfold writeCpl
  dsimp only
  split
  next hc he => simp [hc, he] at h
  next => rfl

@[simp] theorem hq_cplWritten (s : State) (p q : Nat) (c : HCmd) (st : BitVec 8) (res : Word) :
    hq (cplWritten s p q c st res) p q =
      { hq s p q with cplTail := ((hq s p q).cplTail + 1) % hqSize s p q,
                      phase := if ((hq s p q).cplTail + 1) % hqSize s p q = 0 then !(hq s p q).phase else (hq s p q).phase,
                      cmd := none, cpl := none, held := false } :=
  hq_setHq ..

theorem QueueKeeps.of_cplWritten (s : State) (p q : Nat) (c : HCmd) (st : BitVec 8) (res : Word) :
    QueueKeeps p q s (cplWritten s p q c st res) := by
  refine QueueKeeps.trans ?_ ((QueueKeeps.of_setHq ..).trans (QueueKeeps.of_cntDone ..))
  split <;> exact QueueKeeps.of_eq _ _ rfl rfl

/-- The completion itself leaves HQ_Q_STATUS alone. -/
theorem status_cplWritten (s : State) (p q : Nat) (c : HCmd) (st : BitVec 8) (res : Word) :
    regGet (cplWritten s p q c st res) p 0 (hqOff q 0x20) = regGet s p 0 (hqOff q 0x20) := by
  unfold cplWritten
  dsimp only
  rw [regGet_cntAdd_off _ _ _ _ _ _ (by simp) (by simp only [hqOff]; omega), regGet_setHq]
  split <;> rfl

theorem cplEntry_mem_cplWritten (s : State) (p q : Nat) (c : HCmd) (st : BitVec 8) (res : Word) :
    cplEntry s p q c st res ∈ (cplWritten s p q c st res).out := by
  unfold cplWritten
  dsimp only
  rw [out_cntAdd, State.setHq_out]
  split <;> simp

/-- What writing a completion entry can do: nothing, hold the entry for ring space, or write it; then only STATE moves HQ_Q_STATUS. -/
theorem writeCpl_cases (s : State) (p q : Nat) :
    writeCpl s p q = s ∨ writeCpl s p q = setHq s p q { hq s p q with held := true } ∨
      ∃ c st res, writeCpl s p q = cplWritten s p q c st res ∨
        ∃ w, writeCpl s p q = regSet (cplWritten s p q c st res) p 0 (hqOff q 0x20) w := by
  cases hc : (hq s p q).cmd with
  | none => exact .inl (writeCpl_of_none (.inl hc))
  | some c =>
    cases he : (hq s p q).cpl with
    | none => exact .inl (writeCpl_of_none (.inr he))
    | some e =>
      obtain ⟨st, res⟩ := e
      by_cases hf : cplFull s p q
      · exact .inr (.inl (writeCpl_of_full hc he hf))
      · refine .inr (.inr ⟨c, st, res, ?_⟩)
        rw [writeCpl_of_room hc he hf]
        split
        · exact .inr ⟨_, rfl⟩
        · exact .inl rfl

theorem QueueKeeps.of_writeCpl (s : State) (p q : Nat) : QueueKeeps p q s (writeCpl s p q) := by
  obtain h | h | ⟨c, st, res, h | ⟨w, h⟩⟩ := writeCpl_cases s p q <;> rw [h]
  · exact .refl ..
  · exact .of_setHq ..
  · exact .of_cplWritten ..
  · exact (QueueKeeps.of_cplWritten ..).trans (.of_status ..)

/-- A completion moves neither HEAD nor the tail. -/
theorem hq_writeCpl_ends (s : State) (p q : Nat) :
    (hq (writeCpl s p q) p q).head = (hq s p q).head ∧ (hq (writeCpl s p q) p q).tail = (hq s p q).tail := by
  obtain h | h | ⟨c, st, res, h | ⟨w, h⟩⟩ := writeCpl_cases s p q <;> simp [h]

/-! ## A command cut off (R341, R352) -/

theorem t2SetWord_hqs_regs (s : State) (p a : Nat) (w : PWord) : (t2SetWord s p a w).hqs = s.hqs ∧ (t2SetWord s p a w).regs = s.regs := by
  unfold t2SetWord
  split
  · exact ⟨rfl, rfl⟩
  · split <;> exact ⟨rfl, rfl⟩

theorem t2Write_hqs_regs (ws : List PWord) (s : State) (p a : Nat) : (t2Write s p a ws).hqs = s.hqs ∧ (t2Write s p a ws).regs = s.regs := by
  induction ws generalizing s a with
  | nil => exact ⟨rfl, rfl⟩
  | cons w ws ih =>
    obtain ⟨hh, hr⟩ := t2SetWord_hqs_regs s p a w
    obtain ⟨ihh, ihr⟩ := ih (t2SetWord s p a w) (a + 4)
    exact ⟨ihh.trans hh, ihr.trans hr⟩

/-- Cutting off a command touches its own queue alone. -/
theorem QueueKeeps.of_cutCmd (s : State) (p q : Nat) : QueueKeeps p q s (cutCmd s p q) := by
  unfold cutCmd
  dsimp only
  split
  · exact .refl ..
  · split
    · exact .of_eq _ _ rfl rfl
    · obtain ⟨hh, hr⟩ := t2Write_hqs_regs _ _ _ _
      exact ((QueueKeeps.of_eq _ _ rfl rfl).trans (.of_setHq ..)).trans (.of_eq _ _ hh hr)

/-- Of its queue it moves the tag of the host read, which joins the retired ones. -/
theorem hq_cutCmd {s : State} {p q : Nat} {c : HCmd} (hc : (hq s p q).cmd = some c) :
    ∃ r, hq (cutCmd s p q) p q = { hq s p q with cmd := some { c with tag := none }, retired := r } := by
  cases ht : c.tag with
  | none =>
    have hcut : hq (cutCmd s p q) p q = hq s p q := by simp only [cutCmd, hc, ht]; rfl
    have hsame : { c with tag := none } = c := by rw [← ht]
    exact ⟨(hq s p q).retired, by rw [hcut, hsame, ← hc]⟩
  | some t =>
    refine ⟨(hq s p q).retired ++ [(t, s.time)], ?_⟩
    simp only [cutCmd, hc, ht]
    rw [hq, (t2Write_hqs_regs _ _ _ _).1]
    exact hq_setHq ..

/-- A command in progress is cut off and ended ABORTED, its completion entry written or held (R341). -/
def abortCmd (s : State) (p q : Nat) : State := writeCpl (failCmd (cutCmd s p q) p q 6) p q

/-- The queue of a command that is cut off and failed. -/
theorem hq_fail_cutCmd {s : State} {p q : Nat} {c : HCmd} (hc : (hq s p q).cmd = some c) (st : BitVec 8) :
    ∃ r res, hq (failCmd (cutCmd s p q) p q st) p q =
      { hq s p q with cmd := some { c with tag := none }, retired := r, cpl := some (st, res) } := by
  obtain ⟨r, hr⟩ := hq_cutCmd hc
  have hd : hq (drawWord (cutCmd s p q)).2 p q = hq (cutCmd s p q) p q := rfl
  refine ⟨r, (drawWord (cutCmd s p q)).1, ?_⟩
  simp only [failCmd, endCmd, hq_setHq, hd, hr]

theorem QueueKeeps.of_fail_cutCmd (s : State) (p q : Nat) (st : BitVec 8) :
    QueueKeeps p q s (failCmd (cutCmd s p q) p q st) :=
  ((QueueKeeps.of_cutCmd ..).trans (.of_eq p q (t := (drawWord (cutCmd s p q)).2) rfl rfl)).trans (.of_setHq ..)

theorem QueueKeeps.of_abortCmd (s : State) (p q : Nat) : QueueKeeps p q s (abortCmd s p q) := (QueueKeeps.of_fail_cutCmd ..).trans (.of_writeCpl ..)

section
variable {s : State} {p q : Nat} {c : HCmd}

theorem head_abortCmd (hc : (hq s p q).cmd = some c) : (hq (abortCmd s p q) p q).head = (hq s p q).head := by
  obtain ⟨r, res, h⟩ := hq_fail_cutCmd hc 6
  rw [abortCmd, (hq_writeCpl_ends _ _ _).1, h]

/-- An aborted command finds the ring as full as it was before. -/
theorem cplFull_fail_cutCmd (hc : (hq s p q).cmd = some c) (st : BitVec 8) :
    cplFull (failCmd (cutCmd s p q) p q st) p q ↔ cplFull s p q := by
  obtain ⟨r, res, h⟩ := hq_fail_cutCmd hc st
  have hk := QueueKeeps.of_fail_cutCmd s p q st
  rw [cplFull, cplFull, hk.hqSize, hk.2 0x1C (by decide), h]

/-- With the ring full the ABORTED completion is held (log entry 57). -/
theorem abortCmd_of_full (hc : (hq s p q).cmd = some c) (hf : cplFull s p q) :
    (hq (abortCmd s p q) p q).held = true ∧ ∃ r, (hq (abortCmd s p q) p q).cpl = some (6, r) := by
  obtain ⟨r, res, h⟩ := hq_fail_cutCmd hc 6
  have hw : abortCmd s p q = _ := writeCpl_of_full (by rw [h]) (by rw [h]) ((cplFull_fail_cutCmd hc 6).mpr hf)
  rw [hw, hq_setHq, h]
  exact ⟨rfl, res, rfl⟩

/-- With room on the ring it is written, and the queue has no command any more (R341, R345). -/
theorem abortCmd_of_room (hc : (hq s p q).cmd = some c) (hf : ¬ cplFull s p q) :
    (hq (abortCmd s p q) p q).cmd = none ∧ ∃ r, cplEntry s p q c 6 r ∈ (abortCmd s p q).out := by
  obtain ⟨r, res, h⟩ := hq_fail_cutCmd hc 6
  have hw : abortCmd s p q = _ := writeCpl_of_room (by rw [h]) (by rw [h]) (mt (cplFull_fail_cutCmd hc 6).mp hf)
  have hent : cplEntry (failCmd (cutCmd s p q) p q 6) p q { c with tag := none } 6 res = cplEntry s p q c 6 res := by
    rw [cplEntry, cplEntry, h, (QueueKeeps.of_fail_cutCmd s p q 6).reg64_cplBase]
  rw [hw, if_neg (by decide), hq_cplWritten]
  exact ⟨rfl, res, hent ▸ cplEntry_mem_cplWritten ..⟩

end

/-! ## Setting and clearing EN (R341) -/

/-- EN takes the value written. -/
theorem ctrlFields_getLsbD_31 (old v : Word) : (ctrlFields old v).getLsbD 31 = v.getLsbD 31 := by
  have hlog (w : Word) : (w &&& bits 23 20).getLsbD 31 = false := getLsbD_and_bits_of_lt w (by decide) (by decide) (by decide)
  have hvec (w : Word) : (w &&& bits 19 16).getLsbD 31 = false := getLsbD_and_bits_of_lt w (by decide) (by decide) (by decide)
  have hmask : (bits 31 31 ||| bits 15 0).getLsbD 31 = true := by decide
  have hen : (v &&& (bits 31 31 ||| bits 15 0)).getLsbD 31 = v.getLsbD 31 := by rw [BitVec.getLsbD_and, hmask, Bool.and_true]
  rw [ctrlFields, BitVec.getLsbD_or, BitVec.getLsbD_or, hen]
  split <;> split <;> simp only [hlog, hvec, Bool.or_false]

/-- LOG2N and VECTOR stand while EN is set. -/
theorem fld_ctrlFields_of_on {old : Word} (h : old.getLsbD 31 = true) (v : Word) : fld (ctrlFields old v) 23 16 = fld old 23 16 := by
  refine fld_congr fun i h16 h23 => ?_
  have hout : ¬ (31 ≤ i ∧ i ≤ 31) ∧ ¬ (0 ≤ i ∧ i ≤ 15) := by omega
  have hcover : (20 ≤ i ∧ i ≤ 23) ∨ (16 ≤ i ∧ i ≤ 19) := by omega
  simp (disch := decide) only [ctrlFields, h, Bool.true_eq_false, false_and, if_false, BitVec.getLsbD_or, BitVec.getLsbD_and, getLsbD_bits,
    hout, decide_false, Bool.or_false, Bool.and_false, Bool.false_or]
  rw [← Bool.and_or_distrib_left, ← Bool.decide_or, decide_eq_true hcover, Bool.and_true]

section
variable {s : State} {p q : Nat} {v : Word}

theorem hqCtrlWrite_enable (h : (hqCtrl s p q).getLsbD 31 = false) (hv : v.getLsbD 31 = true) :
    hqCtrlWrite s p q v = writeHeld (setHq (regSet (regSet s p 0 (hqOff q 0x10) (ctrlFields (hqCtrl s p q) v)) p 0 (hqOff q 0x1C) 0) p q
      { hq s p q with head := 0, tail := 0, cplTail := 0, phase := true }) p q := by
  simp only [hqCtrlWrite, ctrlFields_getLsbD_31, h, hv, and_self, if_true, hq_regSet]

theorem hqCtrlWrite_disable (h : (hqCtrl s p q).getLsbD 31 = true) (hv : v.getLsbD 31 = false) :
    hqCtrlWrite s p q v = regSet (stopQueue s p q) p 0 (hqOff q 0x10) (ctrlFields (hqCtrl s p q) v) := by
  simp only [hqCtrlWrite, ctrlFields_getLsbD_31, h, hv, Bool.true_eq_false, Bool.false_eq_true, and_self, if_false, if_true]

theorem hqCtrlWrite_on (h : (hqCtrl s p q).getLsbD 31 = true) (hv : v.getLsbD 31 = true) :
    hqCtrlWrite s p q v = regSet s p 0 (hqOff q 0x10) (ctrlFields (hqCtrl s p q) v) := by
  simp only [hqCtrlWrite, ctrlFields_getLsbD_31, h, hv, Bool.true_eq_false, and_true, and_false, if_false]

end

/-- A completion held for ring space is written as any other, or stays held (R342). -/
theorem writeHeld_eq_or (s : State) (p q : Nat) : writeHeld s p q = s ∨ writeHeld s p q = writeCpl s p q := by
  unfold writeHeld
  split
  · exact .inr rfl
  · exact .inl rfl

theorem writeHeld_of_not_held {s : State} {p q : Nat} (h : (hq s p q).held = false) : writeHeld s p q = s := by simp [writeHeld, h]

theorem QueueKeeps.of_writeHeld (s : State) (p q : Nat) : QueueKeeps p q s (writeHeld s p q) := by
  obtain h | h := writeHeld_eq_or s p q <;> rw [h]
  · exact .refl ..
  · exact .of_writeCpl ..

theorem hq_writeHeld_ends (s : State) (p q : Nat) :
    (hq (writeHeld s p q) p q).head = (hq s p q).head ∧ (hq (writeHeld s p q) p q).tail = (hq s p q).tail := by
  obtain h | h := writeHeld_eq_or s p q <;> rw [h]
  · exact ⟨rfl, rfl⟩
  · exact hq_writeCpl_ends ..

/-- The state with queue q's command, if one is in progress, ended ABORTED: what a disabled queue starts from. -/
def abortedIfBusy (s : State) (p q : Nat) : State := if (hq s p q).cmd.isSome && (hq s p q).cpl.isNone then abortCmd s p q else s

theorem abortedIfBusy_of_cmd {s : State} {p q : Nat} {c : HCmd} (hc : (hq s p q).cmd = some c) (he : (hq s p q).cpl = none) :
    abortedIfBusy s p q = abortCmd s p q := by simp [abortedIfBusy, hc, he]

theorem QueueKeeps.of_abortedIfBusy (s : State) (p q : Nat) : QueueKeeps p q s (abortedIfBusy s p q) := by
  unfold abortedIfBusy
  split
  · exact QueueKeeps.of_abortCmd ..
  · exact .refl ..

theorem head_abortedIfBusy (s : State) (p q : Nat) : (hq (abortedIfBusy s p q) p q).head = (hq s p q).head := by
  unfold abortedIfBusy
  cases hc : (hq s p q).cmd with
  | none => rfl
  | some c =>
    split
    · exact head_abortCmd hc
    · rfl

/-- Disabling a queue aborts its command in progress, discards the entries not fetched, and clears EN. -/
theorem stopQueue_eq (s : State) (p q : Nat) :
    stopQueue s p q =
      let t := abortedIfBusy s p q
      regSet (setHq t p q { hq t p q with tail := (hq t p q).head }) p 0 (hqOff q 0x10) (hqCtrl t p q &&& ~~~(bits 31 31)) := rfl

theorem hq_stopQueue (s : State) (p q : Nat) :
    hq (stopQueue s p q) p q = { hq (abortedIfBusy s p q) p q with tail := (hq s p q).head } := by
  rw [stopQueue_eq, hq_regSet, hq_setHq, head_abortedIfBusy]

theorem out_stopQueue (s : State) (p q : Nat) : (stopQueue s p q).out = (abortedIfBusy s p q).out := rfl

/-- Disabling a queue leaves the other queues alone. -/
theorem stopQueue_others (s : State) (p q j : Nat) (h : j ≠ p * 8 + q) : Tab.find (stopQueue s p q).hqs j = Tab.find s.hqs j := by
  rw [stopQueue_eq, State.regSet_hqs, State.setHq_hqs, Tab.find_put_other _ _ h, (QueueKeeps.of_abortedIfBusy s p q).1 j h]

/-! ## Writes of the base addresses (R341) -/

/-- A virtual function's write at a register of one of its queues reaches the queue (R338, R362). -/
theorem writeReg_hqOff {s : State} {p q o : Nat} (hp : 1 ≤ p ∧ p ≤ 16) (hq8 : q < 8) (ho : o < 0x100) (h4 : o % 4 = 0) (v : Word) :
    writeReg s p (hqOff q o) v = writeHq s p (hqOff q o) v := by
  have hblk : hqOff q o / 0x100000 = 1 := by simp only [hqOff]; omega
  have hoff : hqOff q o % 0x100000 < 0x800 := by simp only [hqOff]; omega
  have hal : hqOff q o % 4 = 0 := by simp only [hqOff]; omega
  have hbus : isBus p = false := by simp only [isBus, decide_eq_false_iff_not]; omega
  have hmay : mayWrite p (hqOff q o) = true := by
    simp [mayWrite, hbus, inWindow, blkOf, hblk, isVf, hp, offIn, hoff]
  simp [writeReg, hal, hmay, blkOf, hblk]

theorem writeHq_base_of_on {s : State} {p q o : Nat} (hq8 : q < 8) (ho : o < 0x10) (hon : hqOn s p q = true) (v : Word) :
    writeHq s p (hqOff q o) v = s := by
  have hsel : offIn (hqOff q o) / 0x100 = q := by simp only [offIn, hqOff]; omega
  have hreg : offIn (hqOff q o) % 0x100 = o := by simp only [offIn, hqOff]; omega
  simp only [writeHq, hsel, hreg]
  split
  case h_5 => simp [ho, hon]
  all_goals omega

/-! ## Writes of HQ_Q_CTRL (R341) -/

/-- What a write of HQ_Q_CTRL that sets EN leaves (R341). A completion that was held is written at once and moves the completion tail. -/
theorem hqCtrlWrite_enables {s : State} {p q : Nat} {v : Word} (h : (hqCtrl s p q).getLsbD 31 = false) (hv : v.getLsbD 31 = true) :
    let t := hqCtrlWrite s p q v
    (hqCtrl t p q).getLsbD 31 = true ∧ regGet t p 0 (hqOff q 0x1C) = 0 ∧ (∀ j, j ≠ p * 8 + q → Tab.find t.hqs j = Tab.find s.hqs j) ∧
      (hq t p q).head = 0 ∧ (hq t p q).tail = 0 ∧ ((hq s p q).held = false → (hq t p q).cplTail = 0 ∧ (hq t p q).phase = true) := by
  rw [hqCtrlWrite_enable h hv]
  generalize hu : setHq (regSet (regSet s p 0 (hqOff q 0x10) (ctrlFields (hqCtrl s p q) v)) p 0 (hqOff q 0x1C) 0) p q
    { hq s p q with head := 0, tail := 0, cplTail := 0, phase := true } = u
  have hx : hq u p q = { hq s p q with head := 0, tail := 0, cplTail := 0, phase := true } := by rw [← hu, hq_setHq]
  have hctrl : hqCtrl u p q = ctrlFields (hqCtrl s p q) v := by
    rw [← hu, hqCtrl, regGet_setHq, regGet_regSet_off _ _ _ _ _ _ (by simp), regGet_regSet_same]
  have hhead : regGet u p 0 (hqOff q 0x1C) = 0 := by rw [← hu, regGet_setHq, regGet_regSet_same]
  have hothers (j : Nat) (hj : j ≠ p * 8 + q) : Tab.find u.hqs j = Tab.find s.hqs j := by
    rw [← hu]; exact Tab.find_put_other _ _ hj
  have hkeep := QueueKeeps.of_writeHeld u p q
  obtain ⟨hh, ht⟩ := hq_writeHeld_ends u p q
  refine ⟨?_, ?_, fun j hj => (hkeep.1 j hj).trans (hothers j hj), ?_, ?_, fun hheld => ?_⟩
  · rw [hqCtrl, hkeep.2 0x10 (by decide), ← hqCtrl, hctrl, ctrlFields_getLsbD_31, hv]
  · rw [hkeep.2 0x1C (by decide), hhead]
  · rw [hh, hx]
  · rw [ht, hx]
  · rw [writeHeld_of_not_held (by rw [hx, hheld]), hx]
    exact ⟨rfl, rfl⟩

/-- With EN set, a write of HQ_Q_CTRL stores its fields and leaves the other queues alone, whether it keeps EN or clears it (R341). -/
theorem hqCtrlWrite_stores {s : State} {p q : Nat} (h : (hqCtrl s p q).getLsbD 31 = true) (v : Word) :
    hqCtrl (hqCtrlWrite s p q v) p q = ctrlFields (hqCtrl s p q) v ∧
      ∀ j, j ≠ p * 8 + q → Tab.find (hqCtrlWrite s p q v).hqs j = Tab.find s.hqs j := by
  cases hv : v.getLsbD 31 with
  | true =>
    rw [hqCtrlWrite_on h hv]
    exact ⟨regGet_regSet_same .., fun _ _ => rfl⟩
  | false =>
    rw [hqCtrlWrite_disable h hv]
    exact ⟨regGet_regSet_same .., stopQueue_others s p q⟩

/-- What a write of HQ_Q_CTRL that clears EN leaves: no entry to fetch, and a command in progress ended ABORTED (R341). -/
theorem hqCtrlWrite_disables {s : State} {p q : Nat} {v : Word} (h : (hqCtrl s p q).getLsbD 31 = true) (hv : v.getLsbD 31 = false) :
    let t := hqCtrlWrite s p q v
    (hq t p q).tail = (hq s p q).head ∧ (hq t p q).head = (hq s p q).head ∧
      ∀ c, (hq s p q).cmd = some c → (hq s p q).cpl = none →
        (cplFull s p q → (hq t p q).held = true ∧ ∃ r, (hq t p q).cpl = some (6, r)) ∧
        (¬ cplFull s p q → (hq t p q).cmd = none ∧ ∃ r, cplEntry s p q c 6 r ∈ t.out) := by
  rw [hqCtrlWrite_disable h hv]
  simp only [hq_regSet, hq_stopQueue, State.regSet_out, out_stopQueue, true_and]
  refine ⟨head_abortedIfBusy s p q, fun c hc he => ?_⟩
  rw [abortedIfBusy_of_cmd hc he]
  exact ⟨abortCmd_of_full hc, abortCmd_of_room hc⟩

/-- Settles O58: a write that sets EN by `hqCtrlWrite_enables`, one to an enabled queue by `hqCtrlWrite_stores`, writes of the base by
`writeHq_base_of_on`, and one that clears EN by `hqCtrlWrite_disables`. -/
theorem queueEnable : Obligations.QueueEnable := by
  unfold Obligations.QueueEnable
  intro s p q v n x ctrl on others
  have hn : 1 ≤ n ∧ n ≤ 16 := by simp only [n, vfPart]; omega
  refine ⟨fun hoff hv => ⟨_, rfl, hqCtrlWrite_enables hoff hv⟩, fun hon => ⟨_, rfl, ?_⟩, fun hon o ho => ?_,
    fun hon hv => ⟨_, rfl, hqCtrlWrite_disables hon hv⟩⟩
  · obtain ⟨hctrl, hothers⟩ := hqCtrlWrite_stores (s := s) (p := n) (q := q) hon v
    have hc : ctrl (hqCtrlWrite s n q v) = ctrlFields (ctrl s) v := hctrl
    rw [hc]
    exact ⟨fld_ctrlFields_of_on hon v, hothers, ctrlFields_getLsbD_31 _ v⟩
  · obtain ⟨ho16, ho4⟩ : o < 0x10 ∧ o % 4 = 0 := by revert o; decide
    have hoff : (BitVec.ofNat 26 (hqOff q o)).toNat = hqOff q o := by
      rw [BitVec.toNat_ofNat, Nat.mod_eq_of_lt]
      simp only [hqOff]; omega
    have hw : writeReg s n (hqOff q o) v = s :=
      (writeReg_hqOff hn q.isLt (by omega) ho4 v).trans (writeHq_base_of_on q.isLt ho16 hon v)
    change Host.Outcome.next (writeReg s n (BitVec.ofNat 26 (hqOff q o)).toNat v) = _
    rw [hoff, hw]

/-! ## The stop by STATE (R346) -/

/-- STOPPED stands after a command was refused with STATE, with the command's OPCODE and TAG. -/
theorem refusedStatus_fields (old : Word) (c : HCmd) :
    (refusedStatus old c).getLsbD 31 = true ∧ fld (refusedStatus old c) 23 16 = c.op ∧ fld (refusedStatus old c) 15 0 = fld (c.w.getD 0 0) 15 0 := by
  have hop : c.op < 256 := fld_lt _ _ _
  have htag : fld (c.w.getD 0 0) 15 0 < 65536 := fld_lt _ _ _
  have hlow (i : Nat) (hi : i ≤ 23) :
      (refusedStatus old c).getLsbD i = (BitVec.ofNat 32 (c.op * 2 ^ 16 + fld (c.w.getD 0 0) 15 0)).getLsbD i := by
    simp (disch := decide) only [refusedStatus, BitVec.getLsbD_or, BitVec.getLsbD_and, getLsbD_bits]
    grind
  refine ⟨?_, ?_, ?_⟩
  · simp (disch := decide) only [refusedStatus, BitVec.getLsbD_or, getLsbD_bits]
    simp
  · rw [fld_congr fun i _ h => hlow i h, fld, BitVec.toNat_ofNat]
    omega
  · rw [fld_congr fun i _ h => hlow i (by omega), fld, BitVec.toNat_ofNat]
    omega

/-- A completion written on a ring with room moves HQ_Q_STATUS where its status is STATE, and nowhere else. -/
theorem writeCpl_status {s : State} {p q : Nat} {c : HCmd} {st : BitVec 8} {res : Word} (hc : (hq s p q).cmd = some c)
    (he : (hq s p q).cpl = some (st, res)) (hf : ¬ cplFull s p q) :
    regGet (writeCpl s p q) p 0 (hqOff q 0x20) =
      if st = 1 then refusedStatus (regGet s p 0 (hqOff q 0x20)) c else regGet s p 0 (hqOff q 0x20) := by
  rw [writeCpl_of_room hc he hf]
  split
  · rw [regGet_regSet_same, status_cplWritten]
  · exact status_cplWritten ..

/-- STATE stops the queue and records the command; no other status stops it (R346). -/
theorem writeCpl_stops {s : State} {p q : Nat} {c : HCmd} {st : BitVec 8} {res : Word} (hc : (hq s p q).cmd = some c)
    (he : (hq s p q).cpl = some (st, res)) (hf : ¬ cplFull s p q) :
    let status (t : State) := regGet t p 0 (hqOff q 0x20)
    let t := writeCpl s p q
    (hq t p q).head = (hq s p q).head ∧
      (st = 1 → (status t).getLsbD 31 = true ∧ fld (status t) 23 16 = c.op ∧ fld (status t) 15 0 = fld (c.w.getD 0 0) 15 0) ∧
      (st ≠ 1 → (status t).getLsbD 31 = (status s).getLsbD 31) := by
  dsimp only
  rw [writeCpl_status hc he hf]
  refine ⟨(hq_writeCpl_ends s p q).1, fun h => ?_, fun h => ?_⟩
  · rw [if_pos h]
    exact refusedStatus_fields _ c
  · rw [if_neg h]

/-- A completion waits only where it was held and the queue is disabled (R341, R342). -/
theorem execCommandComplete_of_free {s : State} {p : Vf} {q : Fin 8}
    (h : (hq s (vfPart p) q).held = false ∨ hqOn s (vfPart p) q = true) :
    execCommandComplete p q s = .next (writeCpl s (vfPart p) q) := by
  obtain h | h := h <;> simp [execCommandComplete, h]

/-- The queue may fetch where it is enabled and not stopped, an entry waits, no command is in progress, and its partition is LIVE. -/
theorem mayFetch_iff (s : State) (p q : Nat) : mayFetch s p q = true ↔
    hqOn s p q = true ∧ hqStopped s p q = false ∧ (hq s p q).head ≠ (hq s p q).tail ∧ (hq s p q).cmd = none ∧ (s.part p).st = .live := by
  simp [mayFetch, and_assoc]

theorem execCommandFetch_of_stopped {s : State} {p : Vf} {q : Fin 8} {ws : List Word} (hl : ws.length = 16)
    (h : hqStopped s (vfPart p) q = true) : execCommandFetch p q ws s = .next s := by
  have hno : mayFetch s (vfPart p) q = false := by simp [mayFetch, h]
  simp [execCommandFetch, hl, hno]

open Sys2Proof.Claims in
/-- A fetch takes the entry at HEAD, and HEAD moves to the next one (R342). -/
theorem commandFetch_takes {s : State} {p : Vf} {q : Fin 8} {ws : List Word} (hl : ws.length = 16) (hok : cmdOk ws = true)
    (h : mayFetch s (vfPart p) q = true) :
    let next := ((hq s (vfPart p) q).head + 1) % hqSize s (vfPart p) q
    Nexts (.commandFetch p q ws) s (fun t =>
      (hq t (vfPart p) q).cmd = some { w := ws, head := next } ∧ (hq t (vfPart p) q).head = next) := by
  intro next
  have hstep : execCommandFetch p q ws s =
      .next (setHq s (vfPart p) q { hq s (vfPart p) q with head := next, cmd := some { w := ws, head := next } }) := by
    simp [execCommandFetch, hl, hok, h, next]
  refine ⟨_, hstep, ?_⟩
  simp only [hq_setHq, and_self]

/-- A write of 1 to STOPPED clears it. -/
theorem hqStopped_hqStatusWrite (s : State) (p q : Nat) : hqStopped (hqStatusWrite s p q (bits 31 31)) p q = false := by
  rw [hqStopped, hqStatusWrite, regGet_regSet_same]
  simp (disch := decide) only [BitVec.getLsbD_and, BitVec.getLsbD_not, getLsbD_bits]
  simp

theorem QueueKeeps.of_hqStatusWrite (s : State) (p q : Nat) (v : Word) : QueueKeeps p q s (hqStatusWrite s p q v) := .of_status ..

theorem dbWrite_of_on {s : State} {p q : Nat} {v : Word} (hon : hqOn s p q = true) (hv : fld v 15 0 < hqSize s p q) :
    dbWrite s p q v = setHq s p q { hq s p q with tail := fld v 15 0 } := by
  simp [dbWrite, hon, Nat.not_le.mpr hv]

/-- Settles O59: the completion by `writeCpl_stops`, the stopped queue by `execCommandFetch_of_stopped`, the acknowledge by
`hqStopped_hqStatusWrite`, the fetch it lets run by `commandFetch_takes`, the doorbell by `dbWrite_of_on`. -/
theorem queueStops : Obligations.QueueStops := by
  unfold Obligations.QueueStops
  intro s p q n x status
  refine ⟨fun c st r hc he hw hroom => ⟨_, execCommandComplete_of_free hw, writeCpl_stops hc he hroom⟩,
    fun hs ws hl => execCommandFetch_of_stopped hl hs, ⟨_, rfl, hqStopped_hqStatusWrite s n q, rfl, fun ws hl hok hon hne hnone hlive => ?_⟩, fun v hon hv => ?_⟩
  · have hk : QueueKeeps n q s (hqStatusWrite s n q (bits 31 31)) := .of_hqStatusWrite ..
    have hon' : hqOn (hqStatusWrite s n q (bits 31 31)) n q = true := by rw [hqOn, hqCtrl, hk.2 0x10 (by decide), hon]
    have hmay := (mayFetch_iff _ n q).mpr ⟨hon', hqStopped_hqStatusWrite s n q, hne, hnone, hlive⟩
    rw [← hk.hqSize]
    exact commandFetch_takes hl hok hmay
  · exact ⟨_, congrArg Host.Outcome.next (dbWrite_of_on hon hv), congrArg HQueue.tail (hq_setHq ..), rfl⟩

end Sys2Proof.Machine
end

section
/-! PROOFS. The power-up test as the two Tambour instances see it (R387), and the safe stop that holds the engine where neither passes its
checks (R394). -/

namespace Sys2Proof.Machine

/-! ## The scene: what fencing a core does not disturb -/

/-- The state of every core (R49). -/
def State.modes (s : State) : CoreId → CoreMode := fun d => (s.core d).st

/-- The Tambour instances, TA and TB (R387). -/
def State.insts (s : State) : InstSt × InstSt := (s.tamb.ta, s.tamb.tb)

/-- The grid and who holds it, the module's own state, whether a safe stop has begun, and the Tambour instances. -/
def State.ground (s : State) : Nat × List Nat × Tab Part × Option PartCmd × ModHw × Bool × InstSt × InstSt :=
  (s.gridRows, s.retired, s.parts, s.partCmd, s.hw, s.quiet, s.insts)

/-- The states of the cores over their ground. -/
def State.scene (s : State) : (CoreId → CoreMode) × (Nat × List Nat × Tab Part × Option PartCmd × ModHw × Bool × InstSt × InstSt) :=
  (s.modes, s.ground)

theorem State.modes_of_scene {s t : State} (h : s.scene = t.scene) : s.modes = t.modes := congrArg (·.1) h

theorem State.ground_of_scene {s t : State} (h : s.scene = t.scene) : s.ground = t.ground := congrArg (·.2) h

theorem State.gridRows_of_ground {s t : State} (h : s.ground = t.ground) : s.gridRows = t.gridRows := congrArg (·.1) h

theorem State.hw_of_ground {s t : State} (h : s.ground = t.ground) : s.hw = t.hw := congrArg (·.2.2.2.2.1) h

theorem State.quiet_of_ground {s t : State} (h : s.ground = t.ground) : s.quiet = t.quiet := congrArg (·.2.2.2.2.2.1) h

theorem State.insts_of_ground {s t : State} (h : s.ground = t.ground) : s.insts = t.insts := congrArg (·.2.2.2.2.2.2) h

theorem State.insts_of_scene {s t : State} (h : s.scene = t.scene) : s.insts = t.insts := insts_of_ground (ground_of_scene h)

/-- Which partition holds a core is a matter of the ground. -/
theorem partOfKey_of_ground {s t : State} (h : s.ground = t.ground) (k : Nat) : partOfKey s k = partOfKey t k := by
  have hret : s.retired = t.retired := congrArg (·.2.1) h
  have hparts : s.parts = t.parts := congrArg (·.2.2.1) h
  have hcmd : s.partCmd = t.partCmd := congrArg (·.2.2.2.1) h
  simp only [partOfKey, partOfField, fieldOfKey, halfOfKey, isHeld, State.part, hret, hparts, hcmd]
  rfl

theorem State.scene_foldl {α : Type} (g : State → α → State) (h : ∀ s x, (g s x).scene = s.scene) (l : List α) (s : State) :
    (l.foldl g s).scene = s.scene := by
  induction l generalizing s with
  | nil => rfl
  | cons x l ih => rw [List.foldl_cons, ih, h]

theorem State.scene_ite (c : Prop) [Decidable c] (a b : State) : (if c then a else b).scene = if c then a.scene else b.scene :=
  apply_ite State.scene c a b

/-! ## Registers, reports and the log keep the scene -/

@[simp] theorem regSet_scene (s : State) (fn idx off : Nat) (w : Word) : (regSet s fn idx off w).scene = s.scene := rfl

@[simp] theorem regOr_scene (s : State) (fn idx off : Nat) (w : Word) : (regOr s fn idx off w).scene = s.scene := rfl

@[simp] theorem reg64Set_scene (s : State) (fn idx off : Nat) (v : BitVec 64) : (reg64Set s fn idx off v).scene = s.scene := rfl

@[simp] theorem cntAdd_scene (s : State) (fn idx off n : Nat) : (cntAdd s fn idx off n).scene = s.scene := rfl

@[simp] theorem violate_scene (s : State) (p kind : Nat) : (violate s p kind).scene = s.scene := by
  simp [violate, State.scene_ite]

@[simp] theorem reportTo_scene (s : State) (fn code : Nat) (sc : Scope) (sev part : Nat) (loc v0 v1 : Word) :
    (reportTo s fn code sc sev part loc v0 v1).scene = s.scene := by
  simp only [reportTo]
  repeat' split
  all_goals rfl

@[simp] theorem reportAll_scene (s : State) (fns : List Nat) (code : Nat) (sc : Scope) (sev part : Nat) (loc v0 v1 : Word) :
    (reportAll s fns code sc sev part loc v0 v1).scene = s.scene := by
  simp [reportAll, State.scene_ite, State.scene_foldl]

@[simp] theorem reportP_scene (s : State) (code : Nat) (sc : Scope) (sev p : Nat) (loc v0 v1 : Word) :
    (reportP s code sc sev p loc v0 v1).scene = s.scene := by simp [reportP, State.scene_ite]

@[simp] theorem reportE_scene (s : State) (code : Nat) (sc : Scope) (sev : Nat) (loc v0 v1 : Word) :
    (reportE s code sc sev loc v0 v1).scene = s.scene := by simp [reportE]

@[simp] theorem logFrom_scene (s : State) (source cls code p region : Nat) (v0 v1 : Word) :
    (logFrom s source cls code p region v0 v1).scene = s.scene := by
  simp only [logFrom]
  split <;> rfl

@[simp] theorem tambE_scene (s : State) (cls code : Nat) (sc : Scope) (sev region : Nat) (loc v0 v1 : Word) :
    (tambE s cls code sc sev region loc v0 v1).scene = s.scene := by simp [tambE, logRecord]

/-! ## The lanes keep the scene: a barrier that is released leaves every core in its state -/

@[simp] theorem pushTrack_scene (s : State) (r t : Nat) (ws : List TWord) : (pushTrack s r t ws).scene = s.scene := rfl

@[simp] theorem pushAck_scene (s : State) (p : Packet) (tap : Option Nat) : (pushAck s p tap).scene = s.scene := by
  simp only [pushAck]
  split <;> rfl

@[simp] theorem flushAcks_scene (s : State) (l m : List HeldAck) : (flushAcks s l m).scene = s.scene := by
  induction l generalizing s m with
  | nil => rfl
  | cons a l ih =>
    simp only [flushAcks]
    split
    · rw [ih, pushAck_scene]
    · exact ih _ _

@[simp] theorem releaseAck_scene (s : State) (p : Packet) (tap : Option Nat) : (releaseAck s p tap).scene = s.scene :=
  flushAcks_scene _ _ _

@[simp] theorem answerWatch_scene (s : State) (w : Watch) : (answerWatch s w).scene = s.scene := by
  simp only [answerWatch]
  split
  · exact releaseAck_scene _ _ _
  all_goals rfl

@[simp] theorem pairCheck_scene (s : State) (p g : Nat) : (pairCheck s p g).scene = s.scene := by
  simp only [pairCheck]
  repeat' split
  · rfl
  · rfl
  · exact reportP_scene _ _ _ _ _ _ _ _

@[simp] theorem mirror_scene (s : State) (p g : Nat) : (mirror s p g).scene = s.scene :=
  State.scene_foldl _ (fun _ _ => by simp [State.scene_ite]) _ _

@[simp] theorem chimeAdvance_scene (s : State) (g : Nat) (step : Word) : (chimeAdvance s g step).scene = s.scene := by
  simp only [chimeAdvance, mirror_scene]
  rw [State.scene_foldl _ answerWatch_scene, State.scene_foldl _ fun s q => pairCheck_scene s _ q]
  rfl

@[simp] theorem partAdvance_scene (s : State) (p n : Nat) (step : Word) : (partAdvance s p n step).scene = s.scene := by
  simp [partAdvance, State.scene_ite]

@[simp] theorem realign_scene (s : State) (p l : Nat) : (realign s p l).scene = s.scene :=
  State.scene_foldl _ (fun s g => (rfl : (pairRef (pairCheck s p g) p g).scene = _).trans (pairCheck_scene s p g)) _ _

@[simp] theorem latchSlots_scene (s : State) (p l : Nat) : (latchSlots s p l).scene = s.scene := rfl

@[simp] theorem setLane_scene (s : State) (n : Nat) (l : Lane) : (s.setLane n l).scene = s.scene := rfl

@[simp] theorem statusChime_scene (s : State) (n : Nat) (step : Word) : (statusChime s n step).scene = s.scene := by
  simp [statusChime, State.scene_ite]

/-- A core written back in its own state, under whatever key of the table. -/
theorem scene_putCore (s : State) (k : Nat) (c : Core) (h : c.st = (Tab.get ({} : Core) s.cores k).st) :
    ({ s with cores := Tab.put s.cores k c } : State).scene = s.scene := by
  have hmodes : ({ s with cores := Tab.put s.cores k c } : State).modes = s.modes := funext fun d => by
    simp only [State.modes, State.core, Tab.get_put]
    split
    next hk => rw [h, hk]
    next => rfl
  exact congrArg (·, s.ground) hmodes

@[simp] theorem endArrivals_scene (s : State) (l : Nat) (status : Word) (cs : List CoreId) : (endArrivals s l status cs).scene = s.scene := by
  rw [endArrivals, State.scene_foldl]
  exact fun s c => scene_putCore s (coreKey c) _ rfl

@[simp] theorem laneApply_scene (s : State) (n : Nat) : (laneApply s n).scene = s.scene := by
  simp only [laneApply]
  rw [State.scene_foldl, setLane_scene]
  exact fun s k => scene_putCore s k _ rfl

@[simp] theorem laneRelease_scene (s : State) (n : Nat) : (laneRelease s n).scene = s.scene := by simp [laneRelease]

@[simp] theorem laneTry_scene (s : State) (n : Nat) : (laneTry s n).scene = s.scene := by simp [laneTry, State.scene_ite]

@[simp] theorem laneSettle_scene (s : State) (p : Nat) : (laneSettle s p).scene = s.scene := State.scene_foldl _ laneTry_scene _ _

/-! ## Fences (R49, R394) -/

@[simp] theorem fenceOne_ground (s : State) (c : CoreId) (cause : Cause) : (fenceOne s c cause).ground = s.ground := by
  simp only [fenceOne]
  split <;> rfl

theorem fenceOne_modes (s : State) (c : CoreId) (cause : Cause) (d : CoreId) :
    (fenceOne s c cause).modes d = if d = c then .fenced else s.modes d := by
  by_cases hc : (s.core c).st = .fenced
  · simp only [fenceOne, hc, if_true]
    split
    next hd => rw [hd]; exact hc
    next => rfl
  · simp only [fenceOne, hc, if_false]
    split
    next hd => subst hd; exact congrArg Core.st (State.core_setCore ..)
    next hd => exact congrArg Core.st (State.core_setCore_other _ _ hd)

theorem foldl_fenceOne_modes (cause : Cause) (d : CoreId) (cs : List CoreId) (s : State) :
    (cs.foldl (fun s c => fenceOne s c cause) s).modes d = if d ∈ cs then .fenced else s.modes d := by
  induction cs generalizing s with
  | nil => simp
  | cons c cs ih =>
    rw [List.foldl_cons, ih, fenceOne_modes]
    by_cases hd : d = c <;> simp [hd]

@[simp] theorem fenceCores_ground (s : State) (p : Nat) (cause : Cause) (cs : List CoreId) : (fenceCores s p cause cs).ground = s.ground := by
  rw [fenceCores, State.ground_of_scene (laneSettle_scene _ p)]
  induction cs generalizing s with
  | nil => rfl
  | cons c cs ih => rw [List.foldl_cons, ih, fenceOne_ground]

theorem fenceCores_modes (s : State) (p : Nat) (cause : Cause) (cs : List CoreId) (d : CoreId) :
    (fenceCores s p cause cs).modes d = if d ∈ cs then .fenced else s.modes d := by
  rw [fenceCores, State.modes_of_scene (laneSettle_scene _ p), foldl_fenceOne_modes]

/-- The cores of the grid that partition p holds; p = 0 for those of none. -/
def gridCores (s : State) (p : Nat) : List CoreId :=
  ((List.range (s.gridRows * 1022)).filter (fun k => partOfKey s k == p)).map keyCore

theorem gridCores_of_ground {s t : State} (h : s.ground = t.ground) (p : Nat) : gridCores s p = gridCores t p := by
  simp only [gridCores, partOfKey_of_ground h, State.gridRows_of_ground h]

theorem keyCore_coreKey (d : CoreId) : keyCore (coreKey d) = d := by
  obtain ⟨x, y⟩ := d
  have hx := x.isLt
  have hy := y.isLt
  simp only [keyCore, coreKey, Fin.ofNat, CoreId.mk.injEq, Fin.ext_iff]
  omega

/-- Every core of the grid is held by a partition or by none. -/
theorem exists_mem_gridCores {s : State} {d : CoreId} (h : coreKey d < s.gridRows * 1022) : ∃ p ∈ 0 :: partNums, d ∈ gridCores s p := by
  refine ⟨partOfKey s (coreKey d), ?_, ?_⟩
  · rw [partOfKey, partOfField]
    cases hf : partNums.find? _ with
    | none => simp
    | some p => exact List.mem_cons_of_mem _ (List.mem_of_find?_eq_some hf)
  · exact List.mem_map.mpr ⟨coreKey d, by simp [h], keyCore_coreKey d⟩

/-- Fencing partition by partition: a core fenced stays fenced, one that a partition listed holds becomes so. -/
theorem foldl_fenceCores_modes (d : CoreId) (ps : List Nat) (s : State) (h : s.modes d = .fenced ∨ ∃ p ∈ ps, d ∈ gridCores s p) :
    (ps.foldl (fun s p => fenceCores s p EXT_FENCE (gridCores s p)) s).modes d = .fenced := by
  induction ps generalizing s with
  | nil => simpa using h
  | cons p ps ih =>
    refine ih _ ?_
    rw [fenceCores_modes]
    simp only [gridCores_of_ground (fenceCores_ground s _ _ _)]
    by_cases hd : d ∈ gridCores s p
    · exact .inl (if_pos hd)
    · simpa [hd] using h

theorem fenceAll_modes {s : State} {d : CoreId} (h : coreKey d < s.gridRows * 1022) : (fenceAll s).modes d = .fenced :=
  foldl_fenceCores_modes d _ s (.inr (exists_mem_gridCores h))

@[simp] theorem fenceAll_ground (s : State) : (fenceAll s).ground = s.ground := by
  rw [fenceAll]
  generalize 0 :: partNums = ps
  induction ps generalizing s with
  | nil => rfl
  | cons p ps ih => rw [List.foldl_cons, ih, fenceCores_ground]

/-! ## The safe stop (R394) -/

/-- MOD_READY has fallen. -/
theorem readyLow_ready (s : State) : (readyLow s).hw.ready = false := by
  rw [readyLow]
  split
  next => rfl
  next h => simpa using h

/-- What stands before the cores are fenced: reports closed, MOD_READY low, the alert raised. -/
def stopBegun (s : State) : State := alert (readyLow { s with quiet := true }) 0

theorem stopBegun_ready (s : State) : (stopBegun s).hw.ready = false := readyLow_ready { s with quiet := true }

theorem stopBegun_keeps (s : State) : (stopBegun s).insts = s.insts ∧ (stopBegun s).gridRows = s.gridRows ∧ (stopBegun s).quiet = true := by
  simp only [stopBegun, readyLow]
  split <;> exact ⟨rfl, rfl, rfl⟩

/-- The state with every core fenced and the stop logged, the regions still on. -/
def stopLogged (s : State) (source : Nat) : State := logFrom (fenceAll (stopBegun s)) source 3 3 0 0xFFFF 0 0

theorem stopLogged_ground (s : State) (source : Nat) : (stopLogged s source).ground = (stopBegun s).ground := by
  rw [stopLogged, State.ground_of_scene (logFrom_scene ..), fenceAll_ground]

/-- How the engine is held in a safe stop: the module stopped and not ready, reports closed, T2 lost, the grid's cores FENCED (R394). -/
structure SafelyStopped (rows : Nat) (t : State) : Prop where
  phase : t.hw.phase = .stopped
  ready : t.hw.ready = false
  quiet : t.quiet = true
  mem : t.tiers.mem = []
  fenced : ∀ d, coreKey d < rows * 1022 → (t.core d).st = .fenced

/-- The regions turned off and the module stopped: the end of the safe stop. -/
def stopEnded (s : State) : State :=
  let t := regionsOff { s with slices := [] }
  { t with hw := { t.hw with phase := .stopped } }

theorem stopEnded_modes (s : State) : (stopEnded s).modes = s.modes := rfl

theorem stopEnded_insts (s : State) : (stopEnded s).insts = s.insts := rfl

theorem stopEnded_ready (s : State) : (stopEnded s).hw.ready = s.hw.ready := rfl

theorem stopEnded_quiet (s : State) : (stopEnded s).quiet = s.quiet := rfl

theorem safeStop_of_running {s : State} (source : Nat) (h : ¬ (s.hw.phase = .dark ∨ s.hw.phase = .stopped)) :
    safeStop s source = stopEnded (stopLogged s source) := by
  simp only [safeStop, if_neg h, stopEnded, stopLogged, stopBegun]

theorem safeStop_safelyStopped {s : State} (source : Nat) (h : ¬ (s.hw.phase = .dark ∨ s.hw.phase = .stopped)) :
    SafelyStopped s.gridRows (safeStop s source) := by
  have hg := stopLogged_ground s source
  obtain ⟨-, hrows, hquiet⟩ := stopBegun_keeps s
  rw [safeStop_of_running source h]
  refine { phase := rfl, ready := ?_, quiet := ?_, mem := rfl, fenced := fun d hd => ?_ }
  · rw [stopEnded_ready, State.hw_of_ground hg, stopBegun_ready]
  · rw [stopEnded_quiet, State.quiet_of_ground hg, hquiet]
  · change (stopEnded (stopLogged s source)).modes d = .fenced
    rw [stopEnded_modes, stopLogged, State.modes_of_scene (logFrom_scene ..), fenceAll_modes (hrows ▸ hd)]

@[simp] theorem safeStop_insts (s : State) (source : Nat) : (safeStop s source).insts = s.insts := by
  by_cases h : s.hw.phase = .dark ∨ s.hw.phase = .stopped
  · rw [safeStop, if_pos h]
  · rw [safeStop_of_running source h]
    rw [stopEnded_insts, State.insts_of_ground (stopLogged_ground s source), (stopBegun_keeps s).1]

/-! ## The defect map and the units keep the scene at power-up -/

@[simp] theorem setRegion_scene (s : State) (r : Nat) (x : PRegion) : (s.setRegion r x).scene = s.scene := rfl

@[simp] theorem drawNat_scene (s : State) : (drawNat s).2.scene = s.scene := rfl

@[simp] theorem softPoints_scene (s : State) (r : Nat) : (softPoints s r).scene = s.scene := rfl

@[simp] theorem newEpoch_scene (s : State) (h : Nat) : (newEpoch s h).scene = s.scene := rfl

@[simp] theorem newIdent_scene (s : State) (h : Nat) : (newIdent s h).scene = s.scene := rfl

@[simp] theorem setStack_scene (s : State) (n st : Nat) : (setStack s n st).scene = s.scene := rfl

@[simp] theorem setCtl_scene (s : State) (n : Nat) (x : Ctl) : (setCtl s n x).scene = s.scene := rfl

@[simp] theorem setPort_scene (s : State) (n : Nat) (x : PortS) : (s.setPort n x).scene = s.scene := rfl

@[simp] theorem mergeMap_scene (s : State) (copy : List DefectRec) : (mergeMap s copy).scene = s.scene := rfl

@[simp] theorem mapStart_scene (s : State) (t : PowerUpResult) : (mapStart s t).scene = s.scene := rfl

@[simp] theorem writeDefect_scene (s : State) (d : DefectRec) : (writeDefect s d).scene = s.scene := by
  simp only [writeDefect]
  repeat' split
  all_goals rfl

@[simp] theorem recordUp_scene (s : State) (kind : BitVec 4) (source : BitVec 3) (unit : BitVec 8) (loc : Nat) :
    (recordUp s kind source unit loc).scene = s.scene := writeDefect_scene _ _

@[simp] theorem recordDefect_scene (s : State) (kind : BitVec 4) (source : BitVec 3) (unit : BitVec 8) (loc : Word) :
    (recordDefect s kind source unit loc).scene = s.scene := by simp [recordDefect, State.scene_ite]

@[simp] theorem dropRecords_scene (s : State) (kinds : List (BitVec 4)) (loc : Nat) : (dropRecords s kinds loc).scene = s.scene := rfl

@[simp] theorem softFailed_scene (s : State) (r : Nat) (dom : BitVec 4) : (softFailed s r dom).scene = s.scene := by
  simp [softFailed, pwrFault]

@[simp] theorem loseUnits_scene (s : State) (c : Nat) : (loseUnits s c).scene = s.scene := by
  simp only [loseUnits]
  split <;> rfl

@[simp] theorem unitOutcome_scene (s : State) (u : Nat) (ok : Bool) : (unitOutcome s u ok).scene = s.scene := by
  have hdefects : (if ok then dropRecords s [0xA] u else recordDefect s 0xA 1 0 (BitVec.ofNat 32 u)).scene = s.scene := by
    simp [State.scene_ite]
  rw [← hdefects, unitOutcome]
  generalize (if ok then dropRecords s [0xA] u else recordDefect s 0xA 1 0 (BitVec.ofNat 32 u)) = r
  dsimp only
  repeat' split
  all_goals rfl

@[simp] theorem unitUp_scene (t : PowerUpResult) (s : State) (u : Nat) : (unitUp t s u).scene = s.scene := by
  simp [unitUp, State.scene_ite]

@[simp] theorem findsUp_scene (s : State) (t : PowerUpResult) : (findsUp s t).scene = s.scene := by
  simp [findsUp, State.scene_foldl]

@[simp] theorem regionsUp_scene (s : State) (t : PowerUpResult) : (regionsUp s t).scene = s.scene := by
  simp [regionsUp, State.scene_foldl, State.scene_ite, drawNat_scene]

@[simp] theorem mapT3_scene (s : State) (t : PowerUpResult) (map : List DefectRec) : (mapT3 s t map).scene = s.scene := by
  simp [mapT3, State.scene_foldl, State.scene_ite]

/-- The records of half-fields that the test does not reach. -/
def halvesRecorded (s : State) (t : PowerUpResult) : State :=
  t.unreachableHalf.foldl (fun s h =>
    if s.defects.any (fun d => d.kind == 7 && fld d.loc 7 0 == h.val) then s else recordUp s 6 1 0 h.val) s

/-- The records of rows, which the grid loses. -/
def rowsRecorded (s : State) (rows : List Nat) : State := rows.foldl (fun s py => recordUp s 5 1 0 (py * 2048)) s

/-- Every record applied and the grid numbered anew (R415). -/
def gridNumbered (s : State) : State :=
  let ds := s.defects.map (fun d => { d with pending := false })
  let ret := (List.range 1080).filter (fun py => rowRetired ds py)
  { s with defects := ds, retired := ret, gridRows := 1080 - ret.length, goodRows := 1080 - ret.length }

@[simp] theorem halvesRecorded_scene (s : State) (t : PowerUpResult) : (halvesRecorded s t).scene = s.scene :=
  State.scene_foldl _ (fun _ _ => by simp [State.scene_ite]) _ _

@[simp] theorem rowsRecorded_scene (s : State) (rows : List Nat) : (rowsRecorded s rows).scene = s.scene :=
  State.scene_foldl _ (fun _ _ => recordUp_scene ..) _ _

theorem gridNumbered_insts (s : State) : (gridNumbered s).insts = s.insts := by simp only [gridNumbered, State.insts]

theorem gridUp_eq (s : State) (t : PowerUpResult) :
    ∃ rows, gridUp s t = (List.range 168).foldl newIdent (gridNumbered (rowsRecorded (halvesRecorded s t) rows)) := by
  unfold gridUp gridNumbered rowsRecorded halvesRecorded
  exact ⟨_, rfl⟩

/-- The grid is numbered anew; the instances stand. -/
theorem gridUp_insts (s : State) (t : PowerUpResult) : (gridUp s t).insts = s.insts := by
  obtain ⟨rows, hrows⟩ := gridUp_eq s t
  have hrec : (rowsRecorded (halvesRecorded s t) rows).scene = s.scene := by simp
  rw [hrows, State.insts_of_scene (State.scene_foldl _ newIdent_scene _ _), gridNumbered_insts, State.insts_of_scene hrec]

/-! ## The token at power-up (R387) -/

theorem readyHigh_insts (s : State) : (readyHigh s).insts = s.insts := rfl

/-- What the checks make of the two instances: TA takes the token where its own pass, TB otherwise; one that fails its check is FAILED. -/
def tokenAt (taOk tbOk : Bool) : InstSt × InstSt :=
  (if taOk then .active else .failed, if tbOk then (if taOk then .standby else .active) else .failed)

/-- The state once the token is given, which is how the test begins. -/
def tokenGiven (s : State) (u : PowerUpResult) : State :=
  { s with tamb := { s.tamb with ta := (tokenAt u.taOk u.tbOk).1, tb := (tokenAt u.taOk u.tbOk).2 } }

theorem tokenGiven_insts (s : State) (u : PowerUpResult) : (tokenGiven s u).insts = tokenAt u.taOk u.tbOk := rfl

/-- Steps 2 to 7 of the test: the map, the regions, the findings and the units. -/
def unitsUp (s : State) (u : PowerUpResult) : State :=
  (List.range 48).foldl (fun s i => unitUp u s (168 + i)) (mapT3 (findsUp (regionsUp (mapStart s u) u) u) u s.defects)

@[simp] theorem unitsUp_scene (s : State) (u : PowerUpResult) : (unitsUp s u).scene = s.scene := by
  rw [unitsUp, State.scene_foldl _ fun s i => unitUp_scene u s (168 + i)]
  simp

theorem State.insts_testDone (s : State) (ms : BitVec 16) : ({ s with testMs := ms, testDone := true } : State).insts = s.insts := rfl

/-- Where neither of the two passes, a test in progress ends in the safe stop. -/
theorem powerUpTest_of_neither {s : State} {u : PowerUpResult} (h : s.hw.phase = .starting) (ha : u.taOk = false) (hb : u.tbOk = false) :
    powerUpTest s u = safeStop (tokenGiven s u) 2 := by
  simp [powerUpTest, h, ha, hb, tokenGiven, tokenAt]

/-- Where one of the two passes, the test ends with MOD_READY high: at once in a RETIRED module, elsewhere with its findings applied. -/
theorem powerUpTest_of_either {s : State} {u : PowerUpResult} (h : s.hw.phase = .starting) (hok : u.taOk = true ∨ u.tbOk = true) :
    ∃ t, powerUpTest s u = readyHigh t ∧ t.insts = tokenAt u.taOk u.tbOk := by
  have hone : ¬ (u.taOk = false ∧ u.tbOk = false) := fun ⟨ha, hb⟩ => by simp [ha, hb] at hok
  by_cases hlc : s.lc = .retired
  · exact ⟨tokenGiven s u, by simp only [powerUpTest, h, hone, hlc, ne_eq, not_true_eq_false, if_false, if_true, tokenGiven, tokenAt], rfl⟩
  · refine ⟨{ gridUp (unitsUp (tokenGiven s u) u) u with testMs := u.ms, testDone := true }, ?_, ?_⟩
    · simp only [powerUpTest, h, hone, hlc, ne_eq, not_true_eq_false, if_false, unitsUp, tokenGiven, tokenAt]
    · rw [State.insts_testDone, gridUp_insts, State.insts_of_scene (unitsUp_scene _ u), tokenGiven_insts]

theorem tokenAt_of_taOk (tbOk : Bool) : tokenAt true tbOk = (.active, if tbOk then .standby else .failed) := rfl

theorem tokenAt_of_taFailed (tbOk : Bool) : tokenAt false tbOk = (.failed, if tbOk then .active else .failed) := rfl

/-- The test leaves the instances as the checks made them. -/
theorem powerUpTest_insts {s : State} (u : PowerUpResult) (h : s.hw.phase = .starting) :
    (powerUpTest s u).insts = tokenAt u.taOk u.tbOk := by
  by_cases hok : u.taOk = true ∨ u.tbOk = true
  · obtain ⟨t, ht, hinsts⟩ := powerUpTest_of_either h hok
    rw [ht, readyHigh_insts, hinsts]
  · obtain ⟨ha, hb⟩ : u.taOk = false ∧ u.tbOk = false := by simpa using hok
    rw [powerUpTest_of_neither h ha hb, safeStop_insts, tokenGiven_insts]

/-- Settles O57: the instances by `powerUpTest_insts`; the module up by `powerUpTest_of_either`, stopped by `safeStop_safelyStopped`. -/
theorem tokenAtPowerUp : Obligations.TokenAtPowerUp := by
  unfold Obligations.TokenAtPowerUp
  intro s u h
  have hinsts := powerUpTest_insts u h
  refine ⟨powerUpTest s u, rfl, fun ha => ?_, fun ha => ?_, fun hok => ?_, fun ha hb => ?_⟩
  · rw [ha, tokenAt_of_taOk] at hinsts
    exact Prod.mk.inj hinsts
  · rw [ha, tokenAt_of_taFailed] at hinsts
    exact Prod.mk.inj hinsts
  · obtain ⟨t, ht, -⟩ := powerUpTest_of_either h hok
    rw [ht]
    exact ⟨rfl, rfl⟩
  · have hrun : ¬ ((tokenGiven s u).hw.phase = .dark ∨ (tokenGiven s u).hw.phase = .stopped) := by simp [tokenGiven, h]
    obtain ⟨hphase, hready, hquiet, hmem, hfenced⟩ := safeStop_safelyStopped 2 hrun
    rw [powerUpTest_of_neither h ha hb]
    exact ⟨hphase, hready, hquiet, hmem, hfenced⟩

end Sys2Proof.Machine
end

section
/-! PROOFS. The canonical form of the memories (T2, each core's, each slice's) through the operations on the state: those that write no memory leave
it as it was, those that write one keep it canonical. -/

namespace Sys2Proof.Machine

/-! ## The canonical form as a property of the parts of a state -/

/-- The memory of every listed core is in canonical form. -/
def CoresWf (t : Tab Core) : Prop := ∀ e ∈ t, Memory.wf e.2.mem = true

/-- The memory of every listed slice is in canonical form. -/
def SlicesWf (t : Tab Slice) : Prop := ∀ e ∈ t, Memory.wf e.2.sram = true

/-- `memoriesWf` as a proposition, part by part. -/
def State.MemWf (s : State) : Prop := Memory.wf s.tiers.mem = true ∧ CoresWf s.cores ∧ SlicesWf s.slices

@[simp] theorem memWf_mk (pending : List Instr) (draws : Nat) (out : List Out) (time : BitVec 64) (ptpLock : Bool) (regs : Tab Word)
    (fns : Tab FnBuf) (cores : Tab Core) (routers : Tab Router) (ident : Tab Word) (transit : List Transit) (lostRouters : List Nat)
    (acks : List HeldAck) (goodRows : Nat) (gridRows : Nat) (grade : BitVec 2) (retired : List Nat) (chimes : Tab Word)
    (chimeTime : Tab (BitVec 64)) (pairs : Tab Pair) (watches : List Watch) (lanes : Tab Lane) (slices : Tab Slice) (tiers : Tiers)
    (wst : Wst) (streams : Tab Stream) (engines : Tab EngineSt) (engRoutes : Tab Nat) (ports : Tab PortS) (chains : Tab Chain)
    (groups : Tab Group) (strikeSeq : Nat) (hqs : Tab HQueue) (parts : Tab Part) (partCmd : Option PartCmd) (rings : Tab Ring)
    (recent : List ReportKey) (incarnation : BitVec 64) (sessions : List Word) (defects : List DefectRec) (baseline : List DefectRec)
    (power : Power) (tamb : Tamb) (tests : Tab TestU) (testMs : BitVec 16) (testDone : Bool) (lc : LifeState) (sec : Sec) (hw : ModHw)
    (quiet : Bool) :
    State.MemWf (State.mk pending draws out time ptpLock regs fns cores routers ident transit lostRouters acks goodRows gridRows grade
    retired chimes chimeTime pairs watches lanes slices tiers wst streams engines engRoutes ports chains groups strikeSeq hqs parts partCmd
    rings recent incarnation sessions defects baseline power tamb tests testMs testDone lc sec hw quiet) ↔
    Memory.wf tiers.mem = true ∧ CoresWf cores ∧ SlicesWf slices := Iff.rfl

@[simp] theorem memWf_ite (c : Prop) [Decidable c] (a b : State) :
    (if c then a else b).MemWf ↔ if c then a.MemWf else b.MemWf := by split <;> rfl

theorem memWf_foldl {α : Type} (g : State → α → State) (h : ∀ s x, s.MemWf → (g s x).MemWf) (l : List α)
    (s : State) (hw : s.MemWf) : (l.foldl g s).MemWf := by
  induction l generalizing s with
  | nil => exact hw
  | cons x l ih => exact ih _ (h s x hw)

theorem memWf_foldl_fst {α β : Type} (g : State × β → α → State × β) (h : ∀ a x, a.1.MemWf → (g a x).1.MemWf) (l : List α)
    (a : State × β) (hw : a.1.MemWf) : (l.foldl g a).1.MemWf := by
  induction l generalizing a with
  | nil => exact hw
  | cons x l ih => exact ih _ (h a x hw)

/-- A state with the memories of another. -/
theorem State.MemWf.of_parts {s t : State} (hw : s.MemWf) (ht : t.tiers = s.tiers) (hc : t.cores = s.cores) (hs : t.slices = s.slices) :
    t.MemWf := by
  unfold State.MemWf
  rw [ht, hc, hs]
  exact hw

@[simp] theorem State.MemWf.tiers {s : State} (hw : s.MemWf) : Memory.wf s.tiers.mem = true := hw.1

@[simp] theorem State.MemWf.cores {s : State} (hw : s.MemWf) : CoresWf s.cores := hw.2.1

@[simp] theorem State.MemWf.slices {s : State} (hw : s.MemWf) : SlicesWf s.slices := hw.2.2

@[simp] theorem memWf_eta (s : State) : (Memory.wf s.tiers.mem = true ∧ CoresWf s.cores ∧ SlicesWf s.slices) ↔ s.MemWf := Iff.rfl

theorem memWf_iff_foldl {α : Type} (g : State → α → State) (h : ∀ s x, (g s x).MemWf ↔ s.MemWf) (l : List α) (s : State) :
    (l.foldl g s).MemWf ↔ s.MemWf := by
  induction l generalizing s with
  | nil => rfl
  | cons x l ih => rw [List.foldl_cons, ih, h]

theorem memWf_iff_foldl_fst {α β : Type} (g : State × β → α → State × β) (h : ∀ a x, (g a x).1.MemWf ↔ a.1.MemWf) (l : List α)
    (a : State × β) : (l.foldl g a).1.MemWf ↔ a.1.MemWf := by
  induction l generalizing a with
  | nil => rfl
  | cons x l ih => rw [List.foldl_cons, ih, h]

theorem memWf_iff (s : State) : memoriesWf s = true ↔ s.MemWf := memoriesWf_iff s

@[simp] theorem CoresWf.get {t : Tab Core} (h : CoresWf t) (n : Nat) : Memory.wf (Tab.get ({} : Core) t n).mem = true := by
  unfold Tab.get
  cases hf : Tab.find t n with
  | none => rfl
  | some k => exact h _ (Tab.mem_find hf)

@[simp] theorem SlicesWf.get {t : Tab Slice} (h : SlicesWf t) (n : Nat) : Memory.wf (Tab.get ({} : Slice) t n).sram = true := by
  unfold Tab.get
  cases hf : Tab.find t n with
  | none => rfl
  | some k => exact h _ (Tab.mem_find hf)

@[simp] theorem State.MemWf.core {s : State} (hw : s.MemWf) (c : CoreId) : Memory.wf (s.core c).mem = true := hw.cores.get _

@[simp] theorem State.MemWf.slice {s : State} (hw : s.MemWf) (f : Nat) : Memory.wf (s.slice f).sram = true := hw.slices.get _

@[simp] theorem CoresWf.put {t : Tab Core} (h : CoresWf t) (n : Nat) {k : Core} (hk : Memory.wf k.mem = true) : CoresWf (Tab.put t n k) :=
  fun e he => (Tab.mem_put he).elim (fun h => h ▸ hk) (h e)

@[simp] theorem SlicesWf.put {t : Tab Slice} (h : SlicesWf t) (n : Nat) {x : Slice} (hx : Memory.wf x.sram = true) :
    SlicesWf (Tab.put t n x) := fun e he => (Tab.mem_put he).elim (fun h => h ▸ hx) (h e)

@[simp] theorem SlicesWf.drop {t : Tab Slice} (h : SlicesWf t) (n : Nat) : SlicesWf (Tab.drop t n) := fun e he => h e (Tab.mem_drop he)

@[simp] theorem CoresWf.filter {t : Tab Core} (h : CoresWf t) (f : Nat × Core → Bool) : CoresWf (t.filter f) :=
  fun e he => h e (List.mem_of_mem_filter he)

@[simp] theorem SlicesWf.filter {t : Tab Slice} (h : SlicesWf t) (f : Nat × Slice → Bool) : SlicesWf (t.filter f) :=
  fun e he => h e (List.mem_of_mem_filter he)

@[simp] theorem SlicesWf.nil : SlicesWf [] := fun e he => absurd he (by simp)

@[simp] theorem memory_wf_nil : Memory.wf [] = true := rfl

/-- Cores changed one by one, their memories kept. -/
theorem CoresWf.map {t : Tab Core} (h : CoresWf t) (f : Nat × Core → Nat × Core) (hf : ∀ e, (f e).2.mem = e.2.mem) : CoresWf (t.map f) := by
  intro e he
  obtain ⟨x, hx, rfl⟩ := List.mem_map.mp he
  rw [hf]
  exact h x hx

/-! ## The memory of a core through the operations on a core -/

@[simp] theorem Core.setS_mem (k : Core) (r : Fin 32) (w : PWord) : (k.setS r w).mem = k.mem := by unfold Core.setS; split <;> rfl

@[simp] theorem Core.setA_mem (k : Core) (r : Fin 8) (w : PWord) : (k.setA r w).mem = k.mem := rfl

@[simp] theorem Core.setP_mem (k : Core) (r : Fin 8) (w : Word) : (k.setP r w).mem = k.mem := by unfold Core.setP; split <;> rfl

@[simp] theorem Core.setV_mem (k : Core) (r : Fin 16) (x : VReg) : (k.setV r x).mem = k.mem := rfl

@[simp] theorem Core.setD_mem (k : Core) (r : Fin 16) (x : VReg) : (k.setD r x).mem = k.mem := rfl

@[simp] theorem Core.accPut_mem (ws : List PWord) (k : Core) (t : Fin 4) (e : Nat) : (k.accPut t e ws).mem = k.mem := by
  induction ws generalizing k e with
  | nil => rfl
  | cons w ws ih => exact ih (k.accSet t e w) (e + 1)

@[simp] theorem Core.setCtl_mem (k : Core) (o : Nat) (w : Word) : (k.setCtl o w).mem = k.mem := rfl

@[simp] theorem Core.setCtl64_mem (k : Core) (o : Nat) (v : BitVec 64) : (k.setCtl64 o v).mem = k.mem := by
  unfold Core.setCtl64
  repeat' split
  all_goals rfl

@[simp] theorem Core.count_mem (k : Core) (o n : Nat) : (k.count o n).mem = k.mem := by unfold Core.count; split <;> simp

@[simp] theorem Core.setTaps_mem (k : Core) (t : BitVec 64) : (k.setTaps t).mem = k.mem := rfl

@[simp] theorem Core.putTap_mem (k : Core) (t : Fin 64) (v : Bool) : (k.putTap t v).mem = k.mem := rfl

@[simp] theorem Core.consume_mem (k : Core) (n : Nat) : (k.consume n).mem = k.mem := by unfold Core.consume; split <;> simp

@[simp] theorem Core.stop_mem (k : Core) (cause : Cause) (pc : Word) : (k.stop cause pc).mem = k.mem := rfl

@[simp] theorem Core.lastBeats_mem (k : Core) (n : Nat) : (k.lastBeats n).mem = k.mem := by unfold Core.lastBeats; split <;> simp

@[simp] theorem setPend_mem (k : Core) (l : Nat) (v : Bool) : (setPend k l v).mem = k.mem := rfl

@[simp] theorem Core.bump_mem (k : Core) (ab : Fin 8) (post : Bool) (off : Word) : (k.bump ab post off).mem = k.mem := by
  unfold Core.bump; split <;> simp

@[simp] theorem Core.rmodes_mem (k : Core) (n : Nat) : (k.rmodes n).2.mem = k.mem := by unfold Core.rmodes; split <;> simp

@[simp] theorem Core.setOzRec_mem (k : Core) (r : BitVec 128) : (k.setOzRec r).mem = k.mem := rfl

@[simp] theorem Core.abandonJob_mem (k : Core) (j : MmJob) (n : Nat) : (k.abandonJob j n).mem = k.mem := by
  unfold Core.abandonJob
  dsimp only
  repeat' split
  all_goals simp

/-- A fold of operations that keep the memory keeps it. -/
theorem Core.foldl_mem {α : Type} (g : Core → α → Core) (h : ∀ k x, (g k x).mem = k.mem) (l : List α) (k : Core) :
    (l.foldl g k).mem = k.mem := by
  induction l generalizing k with
  | nil => rfl
  | cons x l ih => exact (ih _).trans (h k x)

@[simp] theorem Core.abandonAll_mem (k : Core) (n : Nat) : (k.abandonAll n).mem = k.mem :=
  Core.foldl_mem _ (fun _ _ => Core.abandonJob_mem _ _ _) _ _

@[simp] theorem Core.putLanes_mem (k : Core) (wide : Wide) (vd : Fin 16) (t : Bool) (cs : List Nat) :
    (k.putLanes wide vd t cs).mem = k.mem := by
  unfold Core.putLanes
  exact Core.foldl_mem (fun k j => k.setV (vd + Fin.ofNat 16 j) _) (fun _ _ => rfl) _ _

@[simp] theorem ctlLoad_mem (s : State) (key : Nat) (k : Core) (o : Nat) : (ctlLoad s key k o).2.mem = k.mem := by
  unfold ctlLoad
  repeat' split
  all_goals rfl

@[simp] theorem ctlStore_mem (s : State) (key : Nat) (k : Core) (o : Nat) (w : Word) : (ctlStore s key k o w).mem = k.mem := by
  unfold ctlStore
  dsimp only
  repeat' split
  all_goals simp

@[simp] theorem Core.fbLookup_mem (k : Core) (t : BitVec 16) (z : Bool) : (k.fbLookup t z).2.mem = k.mem := by
  unfold Core.fbLookup
  dsimp only
  repeat' split
  all_goals rfl

@[simp] theorem Core.fbTrip_mem (k : Core) (t : BitVec 16) : (k.fbTrip t).mem = k.mem := by
  unfold Core.fbTrip
  dsimp only
  repeat' split
  all_goals rfl

@[simp] theorem Core.startJob_mem (k : Core) (j : MmJob) : (k.startJob j).2.mem = k.mem := by unfold Core.startJob; split <;> simp

@[simp] theorem Core.finishJob_mem (k : Core) (j : MmJob) : (k.finishJob j).mem = k.mem := by
  unfold Core.finishJob
  dsimp only
  repeat' split
  all_goals simp

@[simp] theorem Core.tapFromFabric_mem (k : Core) (t : Fin 64) : (k.tapFromFabric t).mem = k.mem := by
  unfold Core.tapFromFabric
  dsimp only
  split <;> rfl

@[simp] theorem Core.countInbound_mem (k : Core) (n : Nat) : (k.countInbound n).mem = k.mem := by
  unfold Core.countInbound
  split <;> simp

@[simp] theorem Core.setMemWord_memWf {k : Core} (h : Memory.wf k.mem = true) (a : Nat) (w : PWord) :
    Memory.wf (k.setMemWord a w).mem = true := Core.setMemWord_wf h a w

@[simp] theorem Core.putWords_memWf {k : Core} (h : Memory.wf k.mem = true) (a : Nat) (ws : List PWord) :
    Memory.wf (k.putWords a ws).mem = true := Core.putWords_wf ws k a h

@[simp] theorem Core.setSub_memWf {k : Core} (h : Memory.wf k.mem = true) (a n : Nat) (w : PWord) :
    Memory.wf (k.setSub a n w).mem = true := Core.setSub_wf h a n w

/-! ## Instructions at the issue stage -/

/-- The core an instruction leaves keeps a canonical memory. -/
def Issued.MemWf : Issued → Prop
  | .retire k _ => Memory.wf k.mem = true
  | .retireSet k _ _ => Memory.wf k.mem = true
  | .lost k => Memory.wf k.mem = true
  | .wait k _ => Memory.wf k.mem = true
  | .sleep k _ => Memory.wf k.mem = true
  | .fault _ => True
  | .stall => True

@[simp] theorem Issued.memWf_retire (k : Core) (next : Word) : (Issued.retire k next).MemWf ↔ Memory.wf k.mem = true := Iff.rfl

@[simp] theorem Issued.memWf_retireSet (k : Core) (next : Word) (o : Nat) : (Issued.retireSet k next o).MemWf ↔ Memory.wf k.mem = true :=
  Iff.rfl

@[simp] theorem Issued.memWf_lost (k : Core) : (Issued.lost k).MemWf ↔ Memory.wf k.mem = true := Iff.rfl

@[simp] theorem Issued.memWf_wait (k : Core) (w : WaitCond) : (Issued.wait k w).MemWf ↔ Memory.wf k.mem = true := Iff.rfl

@[simp] theorem Issued.memWf_sleep (k : Core) (next : Word) : (Issued.sleep k next).MemWf ↔ Memory.wf k.mem = true := Iff.rfl

@[simp] theorem Issued.memWf_fault (c : Cause) : (Issued.fault c).MemWf := trivial

@[simp] theorem Issued.memWf_stall : Issued.stall.MemWf := trivial

@[simp] theorem Issued.memWf_ite (c : Prop) [Decidable c] (a b : Issued) :
    (if c then a else b).MemWf ↔ if c then a.MemWf else b.MemWf := by split <;> rfl

@[simp] theorem onTypes_memWf {ok : Bool} {r : Issued} (h : r.MemWf) : (onTypes ok r).MemWf := by unfold onTypes; split <;> simp [h]

@[simp] theorem Core.seen_memWf {k : Core} (s : State) (n : Nat) (h : Memory.wf k.mem = true) : Memory.wf (k.seen s n).mem = true := by
  unfold Core.seen
  generalize (pendingWords s n).zipIdx = l
  induction l generalizing k with
  | nil => exact h
  | cons e l ih =>
    rw [List.foldl_cons]
    refine ih ?_
    split <;> simp [h]

@[simp] theorem Core.deliverWords_memWf {k : Core} (h : Memory.wf k.mem = true) (a : Nat) (ws : List PWord) :
    Memory.wf (k.deliverWords a ws).mem = true := by
  induction ws generalizing k a with
  | nil => exact h
  | cons w ws ih =>
    refine ih ?_ _
    split <;> simp [h]

theorem OnlyReports.memWf {s t : State} (h : OnlyReports s t) : t.MemWf ↔ s.MemWf := by
  rw [h]
  rfl

/-- A core written back with the memory it has. -/
theorem State.MemWf.setCoreSame {s : State} (hw : s.MemWf) (c : CoreId) {k : Core} (hk : k.mem = (s.core c).mem) : (s.setCore c k).MemWf :=
  ⟨hw.tiers, hw.cores.put _ (hk ▸ hw.core c), hw.slices⟩

/-- A slice written back with the memory it has. -/
theorem State.MemWf.setSliceSame {s : State} (hw : s.MemWf) (f : Nat) {x : Slice} (hx : x.sram = (s.slice f).sram) :
    (s.setSlice f x).MemWf :=
  ⟨hw.tiers, hw.cores, hw.slices.put _ (hx ▸ hw.slice f)⟩


@[simp] theorem restoreCtl_mem (k : Core) (ws : List Word) : (restoreCtl k ws).mem = k.mem := by
  unfold restoreCtl
  refine Core.foldl_mem _ (fun k e => ?_) _ _
  dsimp only
  repeat' split
  all_goals simp
@[simp] theorem drawNat_memWf (s : State) : (drawNat s).2.MemWf ↔ s.MemWf := by simp [drawNat]

@[simp] theorem freeWords_memWf (s : State) (n : Nat) : (freeWords s n).2.MemWf ↔ s.MemWf := by simp [freeWords]

@[simp] theorem drawWord_memWf (s : State) : (drawWord s).2.MemWf ↔ s.MemWf := by simp [drawWord]

@[simp] theorem emit_memWf (s : State) (o : Out) : (emit s o).MemWf ↔ s.MemWf := by simp [emit]

@[simp] theorem regSet_memWf (s : State) (fn idx off : Nat) (w : Word) : (regSet s fn idx off w).MemWf ↔ s.MemWf := by simp [regSet]

@[simp] theorem regOr_memWf (s : State) (fn idx off : Nat) (w : Word) : (regOr s fn idx off w).MemWf ↔ s.MemWf := by simp [regOr]

@[simp] theorem reg64Set_memWf (s : State) (fn idx off : Nat) (v : BitVec 64) : (reg64Set s fn idx off v).MemWf ↔ s.MemWf := by
  simp [reg64Set]

@[simp] theorem cntAdd_memWf (s : State) (fn idx off n : Nat) : (cntAdd s fn idx off n).MemWf ↔ s.MemWf := by simp [cntAdd]

@[simp] theorem State.setCore_memWf {s : State} (hw : s.MemWf) (c : CoreId) {k : Core} (hk : Memory.wf k.mem = true) :
    (State.setCore s c k).MemWf :=
  ⟨hw.tiers, hw.cores.put _ hk, hw.slices⟩

@[simp] theorem State.setRouter_memWf (s : State) (k : Nat) (r : Router) : (State.setRouter s k r).MemWf ↔ s.MemWf := by
  simp [State.setRouter]

@[simp] theorem State.setRegion_memWf (s : State) (r : Nat) (x : PRegion) : (State.setRegion s r x).MemWf ↔ s.MemWf := by
  simp [State.setRegion]

@[simp] theorem State.setTest_memWf (s : State) (u : Nat) (t : TestU) : (State.setTest s u t).MemWf ↔ s.MemWf := by simp [State.setTest]

@[simp] theorem wakeRegion_memWf (s : State) (k : Nat) : (wakeRegion s k).MemWf ↔ s.MemWf := by simp [wakeRegion]

@[simp] theorem State.setPart_memWf (s : State) (p : Nat) (q : Part) : (State.setPart s p q).MemWf ↔ s.MemWf := by simp [State.setPart]

@[simp] theorem violate_memWf (s : State) (p kind : Nat) : (violate s p kind).MemWf ↔ s.MemWf := (OnlyReports.violate ..).memWf

@[simp] theorem violateN_memWf (s : State) (p kind n : Nat) : (violateN s p kind n).MemWf ↔ s.MemWf := (OnlyReports.violateN ..).memWf

@[simp] theorem reportAll_memWf (s : State) (fns : List Nat) (code : Nat) (sc : Scope) (sev part : Nat) (loc v0 v1 : Word) :
    (reportAll s fns code sc sev part loc v0 v1).MemWf ↔ s.MemWf := (OnlyReports.reportAll ..).memWf

@[simp] theorem reportP_memWf (s : State) (code : Nat) (sc : Scope) (sev p : Nat) (loc v0 v1 : Word) :
    (reportP s code sc sev p loc v0 v1).MemWf ↔ s.MemWf := by simp [reportP]

@[simp] theorem reportE_memWf (s : State) (code : Nat) (sc : Scope) (sev : Nat) (loc v0 v1 : Word) :
    (reportE s code sc sev loc v0 v1).MemWf ↔ s.MemWf := by simp [reportE]

@[simp] theorem reportF_memWf (s : State) (code : Nat) (sc : Scope) (sev : Nat) (loc v0 v1 : Word) :
    (reportF s code sc sev loc v0 v1).MemWf ↔ s.MemWf := by simp [reportF]

@[simp] theorem logFrom_memWf (s : State) (source cls code p region : Nat) (v0 v1 : Word) :
    (logFrom s source cls code p region v0 v1).MemWf ↔ s.MemWf := by simp [logFrom]

@[simp] theorem logRecord_memWf (s : State) (cls code p region : Nat) (v0 v1 : Word) :
    (logRecord s cls code p region v0 v1).MemWf ↔ s.MemWf := by simp [logRecord]

@[simp] theorem countRows_memWf (s : State) : (countRows s).MemWf ↔ s.MemWf := by simp [countRows]

@[simp] theorem writeDefect_memWf (s : State) (d : DefectRec) : (writeDefect s d).MemWf ↔ s.MemWf := by simp [writeDefect]

@[simp] theorem recordDefect_memWf (s : State) (kind : BitVec 4) (source : BitVec 3) (unit : BitVec 8) (loc : Word) :
    (recordDefect s kind source unit loc).MemWf ↔ s.MemWf := by simp [recordDefect]

@[simp] theorem pushTrack_memWf (s : State) (r t : Nat) (ws : List TWord) : (pushTrack s r t ws).MemWf ↔ s.MemWf := by simp [pushTrack]

@[simp] theorem pushAck_memWf (s : State) (p : Packet) (tap : Option Nat) : (pushAck s p tap).MemWf ↔ s.MemWf := by
  simp only [pushAck]
  repeat' split
  all_goals simp

@[simp] theorem sendAck_memWf (s : State) (p : Packet) (tap : Option Nat) : (sendAck s p tap).MemWf ↔ s.MemWf := by simp [sendAck]

@[simp] theorem flushAcks_memWf (s : State) (l m : List HeldAck) : (flushAcks s l m).MemWf ↔ s.MemWf := by
  induction l generalizing s m with
  | nil => simp [flushAcks]
  | cons a l ih =>
    simp only [flushAcks]
    split <;> simp [ih]

@[simp] theorem releaseAck_memWf (s : State) (p : Packet) (tap : Option Nat) : (releaseAck s p tap).MemWf ↔ s.MemWf := by simp [releaseAck]

@[simp] theorem pairCheck_memWf (s : State) (p g : Nat) : (pairCheck s p g).MemWf ↔ s.MemWf := by simp [pairCheck]

@[simp] theorem mirror_memWf (s : State) (p g : Nat) : (mirror s p g).MemWf ↔ s.MemWf := by simp [mirror, memWf_iff_foldl]

@[simp] theorem endWait_memWf (s : State) (n : Nat) (v : Word) : (endWait s n v).MemWf ↔ s.MemWf := by simp [endWait]

@[simp] theorem answerWatch_memWf (s : State) (w : Watch) : (answerWatch s w).MemWf ↔ s.MemWf := by
  simp only [answerWatch]
  repeat' split
  all_goals simp

@[simp] theorem chimeAdvance_memWf (s : State) (g : Nat) (step : Word) : (chimeAdvance s g step).MemWf ↔ s.MemWf := by
  simp [chimeAdvance, memWf_iff_foldl]

@[simp] theorem partAdvance_memWf (s : State) (p n : Nat) (step : Word) : (partAdvance s p n step).MemWf ↔ s.MemWf := by simp [partAdvance]

@[simp] theorem pairRef_memWf (s : State) (p g : Nat) : (pairRef s p g).MemWf ↔ s.MemWf := by simp [pairRef]

@[simp] theorem realign_memWf (s : State) (p l : Nat) : (realign s p l).MemWf ↔ s.MemWf := by simp [realign, memWf_iff_foldl]

@[simp] theorem State.setLane_memWf (s : State) (n : Nat) (l : Lane) : (State.setLane s n l).MemWf ↔ s.MemWf := by simp [State.setLane]

@[simp] theorem laneApply_memWf {s : State} (hw : s.MemWf) (n : Nat) : (laneApply s n).MemWf := by
  refine memWf_foldl _ (fun s k h => ?_) _ _ ((State.setLane_memWf ..).mpr hw)
  exact ⟨h.tiers, h.cores.put k (h.cores.get k), h.slices⟩

@[simp] theorem endArrivals_memWf {s : State} (hw : s.MemWf) (l : Nat) (status : Word) (cs : List CoreId) :
    (endArrivals s l status cs).MemWf := by
  refine memWf_foldl _ (fun s c h => ?_) _ _ hw
  exact h.setCoreSame c rfl

@[simp] theorem latchSlots_memWf (s : State) (p l : Nat) : (latchSlots s p l).MemWf ↔ s.MemWf := by simp [latchSlots]

@[simp] theorem statusChime_memWf (s : State) (n : Nat) (step : Word) : (statusChime s n step).MemWf ↔ s.MemWf := by simp [statusChime]

@[simp] theorem laneRelease_memWf {s : State} (hw : s.MemWf) (n : Nat) : (laneRelease s n).MemWf :=
  laneApply_memWf (endArrivals_memWf (by simp [hw]) _ _ _) n

@[simp] theorem laneTry_memWf {s : State} (hw : s.MemWf) (n : Nat) : (laneTry s n).MemWf := by
  unfold laneTry
  split <;> simp [hw]

@[simp] theorem laneSettle_memWf {s : State} (hw : s.MemWf) (p : Nat) : (laneSettle s p).MemWf :=
  memWf_foldl laneTry (fun _ n h => laneTry_memWf h n) _ _ hw

@[simp] theorem laneFail_memWf {s : State} (hw : s.MemWf) (n : Nat) : (laneFail s n).MemWf := by simp [laneFail, hw]

@[simp] theorem laneAbandon_memWf {s : State} (hw : s.MemWf) (n : Nat) : (laneAbandon s n).MemWf := by
  unfold laneAbandon
  dsimp only
  split
  · exact laneApply_memWf ((State.setLane_memWf ..).mpr (endArrivals_memWf hw _ _ _)) n
  · exact hw

@[simp] theorem beats_memWf {s : State} (hw : s.MemWf) (c : CoreId) : (beats s c).MemWf :=
  State.MemWf.setCoreSame (by simpa using hw) c (by simp)

@[simp] theorem coreFault_memWf {s : State} (hw : s.MemWf) (c : CoreId) (cause : Cause) (pc : Word) : (coreFault s c cause pc).MemWf := by
  unfold coreFault
  refine laneSettle_memWf ((reportP_memWf ..).mpr ?_) _
  exact (beats_memWf hw c).setCoreSame c rfl

@[simp] theorem fenceOne_memWf {s : State} (hw : s.MemWf) (c : CoreId) (cause : Cause) : (fenceOne s c cause).MemWf := by
  unfold fenceOne
  dsimp only
  split
  · exact hw
  · exact hw.setCoreSame c (by simp)

@[simp] theorem fenceCores_memWf {s : State} (hw : s.MemWf) (p : Nat) (cause : Cause) (cs : List CoreId) :
    (fenceCores s p cause cs).MemWf :=
  laneSettle_memWf (memWf_foldl _ (fun _ c h => fenceOne_memWf h c cause) _ _ hw) p

theorem retireAt_memWf {s : State} (hw : s.MemWf) (c : CoreId) {k : Core} (hk : Memory.wf k.mem = true) (next : Word) :
    (retireAt s c k next).MemWf := beats_memWf (State.setCore_memWf hw c (by simpa using hk)) c

theorem finish_memWf {s : State} (hw : s.MemWf) (c : CoreId) (i : Instr) {r : Issued} (hr : r.MemWf) : (finish s c i r).MemWf := by
  cases r with
  | retire k next => exact retireAt_memWf hw c (k := { k with st := .running }) hr next
  | retireSet k next o =>
    exact (retireAt_memWf hw c (k := { k with st := .running }) hr next).setCoreSame c (Core.setCtl64_mem ..)
  | fault cause => exact coreFault_memWf hw c cause _
  | lost k => exact fenceCores_memWf (State.setCore_memWf hw c hr) _ _ _
  | stall => exact hw.setCoreSame c rfl
  | wait k w =>
    have h : (s.setCore c { k with st := .waiting, ir := some i, wait := some w }).MemWf := State.setCore_memWf hw c hr
    have hf := fun p => fenceCores_memWf h p ROUTE_LOST [c]
    cases w <;> simp [finish, h, hf]
  | sleep k next =>
    have h : ((retireAt s c k next).setCore c { (retireAt s c k next).core c with st := .sleeping }).MemWf :=
      (retireAt_memWf hw c hr next).setCoreSame c rfl
    have hf := fun p => fenceCores_memWf h p ROUTE_LOST [c]
    simp [finish, h, hf]

theorem issue_memWf {s : State} (hw : s.MemWf) (c : CoreId) (i : Instr) {f : Core → Issued} (hf : ∀ k, Memory.wf k.mem = true → (f k).MemWf) :
    (issue c i s f).MemWf := by
  unfold issue
  dsimp only
  split
  · exact finish_memWf hw c i (hf _ (hw.core c))
  · exact hw

@[simp] theorem headerLoss_memWf (s : State) (p region type : Nat) (v1 : Word) : (headerLoss s p region type v1).MemWf ↔ s.MemWf := by
  simp [headerLoss]

@[simp] theorem routerHeaderLoss_memWf (s : State) (k track : Nat) (w : Word) : (routerHeaderLoss s k track w).MemWf ↔ s.MemWf := by
  simp [routerHeaderLoss]

@[simp] theorem engineHeaderLoss_memWf (s : State) (e : Nat) (p : Packet) : (engineHeaderLoss s e p).MemWf ↔ s.MemWf := by
  simp [engineHeaderLoss]

@[simp] theorem routeLoss_memWf {s : State} (hw : s.MemWf) (p region kind : Nat) : (routeLoss s p region kind).MemWf := by
  simp [routeLoss, hw]

@[simp] theorem inject_memWf {s : State} (hw : s.MemWf) (c : CoreId) (e : Word) (route : BitVec 8) (hdr : Word) (pay : List PWord) (data : Bool) :
    (inject s c e route hdr pay data).MemWf := by
  refine (pushTrack_memWf ..).mpr ?_
  exact ⟨hw.tiers, hw.cores.put _ (hw.core c), hw.slices⟩

@[simp] theorem deliver_memWf {s : State} (hw : s.MemWf) (k o : Nat) (p : Packet) : (deliver s k o p).MemWf := by
  unfold deliver
  dsimp only
  repeat' split
  · exact hw
  · exact ⟨hw.tiers, hw.cores, hw.slices.put _ (hw.slices.get _)⟩
  · exact hw
  · exact hw

@[simp] theorem arriveWord_memWf {s : State} (hw : s.MemWf) (k o : Nat) (var : Bool) (left : Nat) (w : TWord) :
    (arriveWord s k o var left w).MemWf := by
  unfold arriveWord
  extract_lets q rx u
  have hu : u.MemWf := (State.setRouter_memWf ..).mpr hw
  split
  · exact (State.setRouter_memWf ..).mpr hw
  · split
    · exact hu
    · exact deliver_memWf hu _ _ _

@[simp] theorem sendOut_memWf {s : State} (hw : s.MemWf) (k o : Nat) (var : Bool) (left : Nat) (w : TWord) :
    (sendOut s k o var left w).MemWf := by
  simp only [sendOut]
  repeat' split
  all_goals simp [hw]

@[simp] theorem parityCount_memWf (s : State) (o : Nat) (bad : Bool) : (parityCount s o bad).MemWf ↔ s.MemWf := by simp [parityCount]

@[simp] theorem moveOne_memWf {s : State} (hw : s.MemWf) (k o : Nat) (slot : Word) (q : Router) (bad : Bool) :
    (moveOne s k o slot q bad).MemWf := by
  simp only [moveOne]
  repeat' split
  all_goals simp [hw]

@[simp] theorem popInbox_memWf (s : State) (k : Nat) : (popInbox s k).MemWf ↔ s.MemWf := by simp [popInbox]

@[simp] theorem coreLoss_memWf (s : State) (k : Nat) (p : Packet) : (coreLoss s k p).MemWf ↔ s.MemWf := by simp [coreLoss]

@[simp] theorem loadEngines_memWf (s : State) (p : Nat) : (loadEngines s p).MemWf ↔ s.MemWf := by simp [loadEngines]

@[simp] theorem engineFlush_memWf (s : State) (e : Nat) (q : List OutPkt) (h : List Nat) (k : List OutPkt) :
    (engineFlush s e q h k).MemWf ↔ s.MemWf := by
  induction q generalizing s h k with
  | nil => simp [engineFlush]
  | cons o q ih => simp [engineFlush, ih]

@[simp] theorem engineRun_memWf (s : State) (e : Nat) : (engineRun s e).MemWf ↔ s.MemWf := by simp [engineRun]

@[simp] theorem engineSend_memWf (s : State) (e p n a : Nat) (pay : List PWord) : (engineSend s e p n a pay).MemWf ↔ s.MemWf := by
  simp only [engineSend]
  repeat' split
  all_goals simp

@[simp] theorem State.setSlice_memWf {s : State} (hw : s.MemWf) (f : Nat) {x : Slice} (hx : Memory.wf x.sram = true) :
    (State.setSlice s f x).MemWf :=
  ⟨hw.tiers, hw.cores, hw.slices.put _ hx⟩

@[simp] theorem sliceFlush_memWf {s : State} (hw : s.MemWf) (f k : Nat) (l m : List (Nat × List TWord)) : (sliceFlush s f k l m).MemWf := by
  induction l generalizing s m with
  | nil => exact hw.setSliceSame f rfl
  | cons o l ih =>
    unfold sliceFlush
    dsimp only
    split
    · exact ih hw _
    · refine ih ((pushTrack_memWf ..).mpr ?_) _
      exact hw.setSliceSame f rfl

@[simp] theorem sliceRun_memWf {s : State} (hw : s.MemWf) (f : Nat) : (sliceRun s f).MemWf := by
  unfold sliceRun
  split <;> simp [hw]

@[simp] theorem sliceAdvance_memWf {s : State} (hw : s.MemWf) (f : Nat) (chime : BitVec 16) : (sliceAdvance s f chime).MemWf := by
  refine sliceRun_memWf ?_ f
  exact State.MemWf.setSliceSame (s := (drawNat s).2) ((drawNat_memWf s).mpr hw) f rfl

@[simp] theorem popEngine_memWf (s : State) (e : Nat) : (popEngine s e).MemWf ↔ s.MemWf := by simp [popEngine]

@[simp] theorem endWatchTap_memWf {s : State} (hw : s.MemWf) (p : Packet) (tap : Nat) : (endWatchTap s p tap).MemWf := by
  unfold endWatchTap
  split
  · exact hw.setCoreSame _ rfl
  · exact hw

@[simp] theorem engineLoss_memWf {s : State} (hw : s.MemWf) (e : Nat) (p : Packet) : (engineLoss s e p).MemWf := by
  simp only [engineLoss]
  repeat' split
  all_goals simp [hw]

@[simp] theorem watchRefused_memWf {s : State} (hw : s.MemWf) (e p n : Nat) (tap : Nat) (pkt : Packet) :
    (watchRefused s e p n tap pkt).MemWf := by
  simp only [watchRefused]
  all_goals simp [hw]

@[simp] theorem syncConfig_memWf (s : State) (p : Nat) : (syncConfig s p).MemWf ↔ s.MemWf := by simp [syncConfig]

@[simp] theorem chimeAddWrite_memWf (s : State) (p : Nat) (step : Word) : (chimeAddWrite s p step).MemWf ↔ s.MemWf := by
  simp [chimeAddWrite]

@[simp] theorem pairCfgWrite_memWf (s : State) (p : Nat) (v : Word) : (pairCfgWrite s p v).MemWf ↔ s.MemWf := by simp [pairCfgWrite]

@[simp] theorem pairBoundWrite_memWf (s : State) (p : Nat) (v : Word) : (pairBoundWrite s p v).MemWf ↔ s.MemWf := by simp [pairBoundWrite]

@[simp] theorem laneWritten_memWf (s : State) (n : Nat) (l : Lane) : (laneWritten s n l).MemWf ↔ s.MemWf := by simp [laneWritten]

@[simp] theorem laneCtrlWrite_memWf (s : State) (p l : Nat) (v : Word) : (laneCtrlWrite s p l v).MemWf ↔ s.MemWf := by
  simp only [laneCtrlWrite]
  repeat' split
  all_goals simp

@[simp] theorem laneMaskWrite_memWf (s : State) (p l w : Nat) (v : Word) : (laneMaskWrite s p l w v).MemWf ↔ s.MemWf := by
  simp only [laneMaskWrite]
  repeat' split
  all_goals simp

@[simp] theorem setStack_memWf (s : State) (n st : Nat) : (setStack s n st).MemWf ↔ s.MemWf := by simp [setStack]

@[simp] theorem t2SetWord_memWf {s : State} (hw : s.MemWf) (p a : Nat) (w : PWord) : (t2SetWord s p a w).MemWf :=
  (memWf_iff _).mp (memoriesWf_t2SetWord ((memWf_iff s).mpr hw) p a w)

@[simp] theorem t2Write_memWf {s : State} (hw : s.MemWf) (p a : Nat) (ws : List PWord) : (t2Write s p a ws).MemWf :=
  (memWf_iff _).mp (memoriesWf_t2Write ws s p a ((memWf_iff s).mpr hw))

@[simp] theorem t2WriteBytes_memWf {s : State} (hw : s.MemWf) (p a len : Nat) (ws : List PWord) : (t2WriteBytes s p a len ws).MemWf := by
  unfold t2WriteBytes
  dsimp only
  split <;> simp [hw]

@[simp] theorem t2Wait_memWf (s : State) (p a n : Nat) : (t2Wait s p a n).MemWf ↔ s.MemWf := by simp [t2Wait]

@[simp] theorem t2Bound_memWf (s : State) (p a n : Nat) : (t2Bound s p a n).MemWf ↔ s.MemWf := by simp [t2Bound]

@[simp] theorem t2Touch_memWf (s : State) (p a n : Nat) : (t2Touch s p a n).MemWf ↔ s.MemWf := by
  simp only [t2Touch]
  all_goals simp

@[simp] theorem tierFault_memWf (s : State) (p : Nat) (b : Word) : (tierFault s p b).MemWf ↔ s.MemWf := by simp [tierFault]

@[simp] theorem zeroFrame_memWf {s : State} (hw : s.MemWf) (f : Nat) : (zeroFrame s f).MemWf :=
  (memWf_iff _).mp (memoriesWf_zeroFrame ((memWf_iff s).mpr hw) f)

@[simp] theorem sliceLoss_memWf {s : State} (hw : s.MemWf) (f : Nat) (p : Packet) : (sliceLoss s f p).MemWf := by simp [sliceLoss, hw]

@[simp] theorem Slice.tryStart_sram (x : Slice) (n : Nat) : (x.tryStart n).sram = x.sram := by
  unfold Slice.tryStart
  dsimp only
  repeat' split
  all_goals rfl

@[simp] theorem passClose_memWf {s : State} (hw : s.MemWf) (f n l : Nat) : (passClose s f n l).MemWf := by
  induction l generalizing s with
  | zero => exact hw
  | succ k ih =>
    unfold passClose
    extract_lets x t
    split
    · exact hw
    · split
      · exact hw
      · extract_lets a s1 s2 s3 s4 s5
        have h1 : s1.MemWf := hw.setSliceSame f (Slice.tryStart_sram ..)
        have h4 : s4.MemWf := t2Write_memWf (t2Write_memWf ((t2Touch_memWf ..).mpr h1) _ _ _) _ _ _
        refine ih ?_
        show State.MemWf (if _ then _ else _)
        split
        · exact sliceAdvance_memWf h4 _ _
        · exact h4

@[simp] theorem setMset_memWf (s : State) (m : Nat) (x : MSet) : (setMset s m x).MemWf ↔ s.MemWf := by simp [setMset]

@[simp] theorem setCtl_memWf (s : State) (n : Nat) (x : Ctl) : (setCtl s n x).MemWf ↔ s.MemWf := by simp [setCtl]

@[simp] theorem wstFault_memWf (s : State) (b : Word) : (wstFault s b).MemWf ↔ s.MemWf := by simp [wstFault]

@[simp] theorem loseUnits_memWf (s : State) (c : Nat) : (loseUnits s c).MemWf ↔ s.MemWf := by simp [loseUnits]

@[simp] theorem dataLost_memWf (s : State) (n units : Nat) : (dataLost s n units).MemWf ↔ s.MemWf := by simp [dataLost]

@[simp] theorem queueUnit_memWf (s : State) (n unit : Nat) : (queueUnit s n unit).MemWf ↔ s.MemWf := by simp [queueUnit]

@[simp] theorem unitRead_memWf (s : State) (n unit pages : Nat) (margin : Bool) : (unitRead s n unit pages margin).MemWf ↔ s.MemWf := by
  simp [unitRead]

@[simp] theorem pageFailed_memWf (s : State) (n unit : Nat) (rebuildFail : Bool) : (pageFailed s n unit rebuildFail).MemWf ↔ s.MemWf := by
  simp [pageFailed]

@[simp] theorem wearOne_memWf (s : State) (w : Wear) : (wearOne s w).MemWf ↔ s.MemWf := by simp [wearOne]

@[simp] theorem applyWear_memWf (s : State) (ws : List Wear) : (applyWear s ws).MemWf ↔ s.MemWf := by simp [applyWear, memWf_iff_foldl]

@[simp] theorem pagesRead_memWf (s : State) (c unit n : Nat) (margin : Bool) : (pagesRead s c unit n margin).MemWf ↔ s.MemWf := by
  simp [pagesRead]

@[simp] theorem rebuildReads_memWf (s : State) (c n : Nat) (rs : List FlashRead) : (rebuildReads s c n rs).MemWf ↔ s.MemWf := by
  simp [rebuildReads, memWf_iff_foldl]

@[simp] theorem t3Errors_memWf (s : State) (x : Source) (lo hi : Nat) (r : PieceResult) : (t3Errors s x lo hi r).MemWf ↔ s.MemWf := by
  simp [t3Errors]

@[simp] theorem xferCode_memWf (s : State) (p : Nat) (c : Word) : (xferCode s p c).MemWf ↔ s.MemWf := by simp [xferCode]

@[simp] theorem xferStart_memWf (s : State) (p : Nat) (x : Xfer) : (xferStart s p x).MemWf ↔ s.MemWf := by simp [xferStart]

@[simp] theorem writeBase_memWf (s : State) (p : Nat) : (writeBase s p).MemWf ↔ s.MemWf := by
  simp only [writeBase]
  repeat' split
  all_goals simp

@[simp] theorem writeAdd_memWf (s : State) (p : Nat) : (writeAdd s p).MemWf ↔ s.MemWf := by
  simp only [writeAdd]
  repeat' split
  all_goals simp

@[simp] theorem delAdd_memWf (s : State) (p : Nat) : (delAdd s p).MemWf ↔ s.MemWf := by simp [delAdd]

@[simp] theorem xferStore_memWf (s : State) (p : Nat) (x : Xfer) : (xferStore s p x).MemWf ↔ s.MemWf := by
  simp only [xferStore]
  repeat' split
  all_goals simp

@[simp] theorem setRefuse_memWf (s : State) : (setRefuse s).MemWf ↔ s.MemWf := by simp [setRefuse]

@[simp] theorem setDone_memWf (s : State) : (setDone s).MemWf ↔ s.MemWf := by simp [setDone]

@[simp] theorem latchAll_memWf (s : State) (m : Nat) (g : Word) (f : WSlot → Bool) : (latchAll s m g f).MemWf ↔ s.MemWf := by
  simp [latchAll]

@[simp] theorem eraseCopy_memWf (s : State) (m : Nat) (c : Option WCopy) : (eraseCopy s m c).MemWf ↔ s.MemWf := by
  simp only [eraseCopy]
  repeat' split
  all_goals simp

@[simp] theorem installBegin_memWf (s : State) (tensors : Nat) : (installBegin s tensors).MemWf ↔ s.MemWf := by simp [installBegin]

@[simp] theorem commitSet_memWf (s : State) : (commitSet s).MemWf ↔ s.MemWf := by
  simp only [commitSet]
  repeat' split
  all_goals simp

@[simp] theorem buildBegin_memWf (s : State) (tensors : Nat) : (buildBegin s tensors).MemWf ↔ s.MemWf := by simp [buildBegin]

@[simp] theorem switchSet_memWf (s : State) : (switchSet s).MemWf ↔ s.MemWf := by simp [switchSet]

@[simp] theorem abortSet_memWf (s : State) : (abortSet s).MemWf ↔ s.MemWf := by
  simp only [abortSet]
  repeat' split
  all_goals simp

@[simp] theorem deleteSet_memWf (s : State) : (deleteSet s).MemWf ↔ s.MemWf := by simp [deleteSet]

@[simp] theorem unbindSlot_memWf (s : State) (p sl : Nat) : (unbindSlot s p sl).MemWf ↔ s.MemWf := by simp [unbindSlot]

@[simp] theorem wstBind_memWf (s : State) (v : Word) : (wstBind s v).MemWf ↔ s.MemWf := by simp [wstBind]

@[simp] theorem ctlRefuse_memWf (s : State) : (ctlRefuse s).MemWf ↔ s.MemWf := by simp [ctlRefuse]

@[simp] theorem ctlOffline_memWf (s : State) (n : Nat) : (ctlOffline s n).MemWf ↔ s.MemWf := by simp [ctlOffline]

@[simp] theorem ctlOnline_memWf (s : State) (n : Nat) : (ctlOnline s n).MemWf ↔ s.MemWf := by simp [ctlOnline]

@[simp] theorem ctlLose_memWf (s : State) (n : Nat) : (ctlLose s n).MemWf ↔ s.MemWf := by simp [ctlLose]

@[simp] theorem setStream_memWf (s : State) (k : Nat) (x : Stream) : (setStream s k x).MemWf ↔ s.MemWf := by simp [setStream]

@[simp] theorem strmFault_memWf (s : State) (p : Nat) (b : Word) : (strmFault s p b).MemWf ↔ s.MemWf := by simp [strmFault]

@[simp] theorem metaAdd_memWf (s : State) (p k n : Nat) : (metaAdd s p k n).MemWf ↔ s.MemWf := by simp [metaAdd]

@[simp] theorem poisonMoved_memWf (s : State) (p n : Nat) : (poisonMoved s p n).MemWf ↔ s.MemWf := by simp [poisonMoved]

@[simp] theorem reserveLost_memWf (s : State) : (reserveLost s).MemWf ↔ s.MemWf := by simp [reserveLost]

@[simp] theorem sendStat_memWf (s : State) (p k : Nat) (full : Bool) (ms : List Nat) : (sendStat s p k full ms).MemWf ↔ s.MemWf := by
  simp [sendStat, memWf_iff_foldl]

@[simp] theorem sendState_memWf (s : State) (p k stat : Nat) (ms : List Nat) : (sendState s p k stat ms).MemWf ↔ s.MemWf := by
  simp [sendState, memWf_iff_foldl]

@[simp] theorem toState_memWf (s : State) (p k : Nat) (st : StrmSt) : (toState s p k st).MemWf ↔ s.MemWf := by simp [toState]

@[simp] theorem sendBuffer_memWf (s : State) (p k m : Nat) (segs : List (Nat × List PWord)) :
    (sendBuffer s p k m segs).MemWf ↔ s.MemWf := by
  simp [sendBuffer, memWf_iff_foldl]

@[simp] theorem countBuffer_memWf (s : State) (p k : Nat) (ms : List Nat) : (countBuffer s p k ms).MemWf ↔ s.MemWf := by simp [countBuffer]

@[simp] theorem settleFence_memWf (s : State) (p k : Nat) : (settleFence s p k).MemWf ↔ s.MemWf := by simp [settleFence]

@[simp] theorem sourceBegin_memWf (s : State) (p k : Nat) : (sourceBegin s p k).MemWf ↔ s.MemWf := by simp [sourceBegin]

@[simp] theorem passBegin_memWf (s : State) (p k : Nat) : (passBegin s p k).MemWf ↔ s.MemWf := by
  unfold passBegin
  dsimp only
  split <;> simp

@[simp] theorem headDone_memWf (s : State) (p k : Nat) : (headDone s p k).MemWf ↔ s.MemWf := by simp [headDone]

@[simp] theorem writeSel_memWf (s : State) (p k : Nat) : (writeSel s p k).MemWf ↔ s.MemWf := by
  simp only [writeSel]
  repeat' split
  all_goals simp

@[simp] theorem writeData_memWf (s : State) (p k : Nat) : (writeData s p k).MemWf ↔ s.MemWf := by simp [writeData]

@[simp] theorem maskWatch_memWf (s : State) (p k : Nat) : (maskWatch s p k).MemWf ↔ s.MemWf := by simp [maskWatch]

@[simp] theorem unwatch_memWf (s : State) (k : Nat) : (unwatch s k).MemWf ↔ s.MemWf := by simp [unwatch]

@[simp] theorem walkDone_memWf (s : State) (p k : Nat) : (walkDone s p k).MemWf ↔ s.MemWf := by simp [walkDone]

@[simp] theorem progress_memWf (s : State) (p k : Nat) (l : Nat) : (progress s p k l).MemWf ↔ s.MemWf := by
  induction l generalizing s with
  | zero => simp [progress]
  | succ n ih => simp [progress, ih]

@[simp] theorem goOn_memWf (s : State) (p k : Nat) : (goOn s p k).MemWf ↔ s.MemWf := by simp [goOn]

@[simp] theorem t2Errors_memWf (s : State) (p a n ce : Nat) (ue : Bool) (unit : Nat) : (t2Errors s p a n ce ue unit).MemWf ↔ s.MemWf := by
  simp only [t2Errors]
  repeat' split
  all_goals simp

@[simp] theorem flightErrors_memWf (s : State) (p : Nat) (f : Flight) (r : PieceResult) : (flightErrors s p f r).MemWf ↔ s.MemWf := by
  simp only [flightErrors]
  repeat' split
  all_goals simp

@[simp] theorem tookTurn_memWf (s : State) (p k : Nat) : (tookTurn s p k).MemWf ↔ s.MemWf := by simp [tookTurn]

@[simp] theorem refuseStream_memWf (s : State) (p k : Nat) (st : StrmSt) : (refuseStream s p k st).MemWf ↔ s.MemWf := by simp [refuseStream]

@[simp] theorem refuseAttach_memWf (s : State) (p k stat : Nat) (st : StrmSt) : (refuseAttach s p k stat st).MemWf ↔ s.MemWf := by
  simp [refuseAttach]

@[simp] theorem attachDone_memWf (s : State) (p k : Nat) : (attachDone s p k).MemWf ↔ s.MemWf := by simp [attachDone]

@[simp] theorem streamIdle_memWf (s : State) (k : Nat) : (streamIdle s k).MemWf ↔ s.MemWf := by simp [streamIdle]

@[simp] theorem relStream_memWf (s : State) (p k : Nat) (w : Word) : (relStream s p k w).MemWf ↔ s.MemWf := by simp [relStream]

@[simp] theorem frelStream_memWf (s : State) (p k : Nat) (f : BitVec 16) : (frelStream s p k f).MemWf ↔ s.MemWf := by simp [frelStream]

@[simp] theorem strmCode_memWf (s : State) (p : Nat) (c : Word) : (strmCode s p c).MemWf ↔ s.MemWf := by simp [strmCode]

theorem strmOp_memWf (s : State) (p : Nat) (f : Nat → State) (h : ∀ k, (f k).MemWf ↔ s.MemWf) : (strmOp s p f).MemWf ↔ s.MemWf := by
  simp only [strmOp]
  repeat' split
  all_goals simp [h]

@[simp] theorem strmWrite_memWf (s : State) (p : Nat) : (strmWrite s p).MemWf ↔ s.MemWf := by
  refine strmOp_memWf s p _ (fun k => ?_)
  dsimp only
  repeat' split
  all_goals simp

@[simp] theorem strmRead_memWf (s : State) (p : Nat) : (strmRead s p).MemWf ↔ s.MemWf := by
  refine strmOp_memWf s p _ (fun k => ?_)
  simp [memWf_iff_foldl]

@[simp] theorem copyStart_memWf (s : State) (p k : Nat) : (copyStart s p k).MemWf ↔ s.MemWf := by simp [copyStart]

@[simp] theorem strmStart_memWf (s : State) (p : Nat) (lost : Bool) : (strmStart s p lost).MemWf ↔ s.MemWf := by
  refine strmOp_memWf s p _ (fun k => ?_)
  dsimp only
  repeat' split
  all_goals simp

@[simp] theorem strmFrel_memWf (s : State) (p : Nat) (n : BitVec 16) : (strmFrel s p n).MemWf ↔ s.MemWf :=
  strmOp_memWf s p _ fun k => by simp

@[simp] theorem strmCmd_memWf (s : State) (p : Nat) (v : Word) : (strmCmd s p v).MemWf ↔ s.MemWf := by
  simp only [strmCmd]
  repeat' split
  all_goals simp

@[simp] theorem issuePiece_memWf (s : State) (p k : Nat) (q : Piece) : (issuePiece s p k q).MemWf ↔ s.MemWf := by
  simp only [issuePiece]
  repeat' split
  all_goals simp

@[simp] theorem issueCopy_memWf (s : State) (p k : Nat) : (issueCopy s p k).MemWf ↔ s.MemWf := by
  simp only [issueCopy]
  repeat' split
  all_goals simp

@[simp] theorem issueNext_memWf (s : State) (p k : Nat) : (issueNext s p k).MemWf ↔ s.MemWf := by
  simp only [issueNext]
  repeat' split
  all_goals simp

@[simp] theorem copyPiece_memWf {s : State} (hw : s.MemWf) (p k idx : Nat) (ws : List (Nat × List PWord)) :
    (copyPiece s p k idx ws).MemWf := by
  refine memWf_foldl _ (fun s g h => ?_) _ _ ((setStream_memWf ..).mpr hw)
  exact (poisonMoved_memWf ..).mpr ((cntAdd_memWf ..).mpr (t2WriteBytes_memWf ((t2Touch_memWf ..).mpr h) _ _ _ _))

@[simp] theorem headPiece_memWf (s : State) (p k idx : Nat) (ws : List (Nat × List PWord)) : (headPiece s p k idx ws).MemWf ↔ s.MemWf := by
  simp [headPiece]

@[simp] theorem pieceCame_memWf {s : State} (hw : s.MemWf) (p k idx : Nat) (q : Piece) (ws : List (Nat × List PWord)) :
    (pieceCame s p k idx q ws).MemWf := by
  simp [pieceCame, hw]

@[simp] theorem drainWrite_memWf {s : State} (hw : s.MemWf) (p : Nat) (x : Stream) (ws : List PWord) : (drainWrite s p x ws).MemWf := by
  refine memWf_foldl _ (fun s r h => ?_) _ _ hw
  exact t2Write_memWf ((t2Touch_memWf ..).mpr h) _ _ _

@[simp] theorem migrateNext_memWf {s : State} (hw : s.MemWf) (stack : Nat) (frames : List Nat) (last : Nat) :
    (migrateNext s stack frames last).MemWf := by
  unfold migrateNext
  split
  · exact ⟨Memory.wf_clear _ _ _ hw.tiers, hw.cores, hw.slices⟩
  · exact ⟨hw.tiers, hw.cores, hw.slices⟩

@[simp] theorem stackRefuse_memWf (s : State) : (stackRefuse s).MemWf ↔ s.MemWf := by simp [stackRefuse]

@[simp] theorem stackOffline_memWf {s : State} (hw : s.MemWf) (n : Nat) : (stackOffline s n).MemWf := by simp [stackOffline, hw]

@[simp] theorem stackOnline_memWf (s : State) (n : Nat) : (stackOnline s n).MemWf ↔ s.MemWf := by simp [stackOnline]

@[simp] theorem moveFrame_memWf {s : State} (hw : s.MemWf) (f g : Nat) : (moveFrame s f g).MemWf :=
  (memWf_iff _).mp (memoriesWf_moveFrame ((memWf_iff s).mpr hw) f g)

@[simp] theorem stackLose_memWf {s : State} (hw : s.MemWf) (n : Nat) : (stackLose s n).MemWf := by
  unfold stackLose
  split
  · exact hw
  · extract_lets s1 tiers s2 cnt s3 live rep
    have h1 : s1.MemWf := (setStack_memWf ..).mpr hw
    have h2 : s2.MemWf := by
      show State.MemWf (match s1.tiers.migr with | some m => _ | none => s1)
      repeat' split
      · exact h1
      · exact migrateNext_memWf h1 _ _ _
      · exact h1
      · exact h1
    simp [s3, rep, memWf_iff_foldl, h2]

@[simp] theorem releaseFrames_memWf {s : State} (hw : s.MemWf) (fs : List Nat) : (releaseFrames s fs).MemWf := by
  simp only [releaseFrames]
  repeat' split
  all_goals simp [hw]

@[simp] theorem scrubUe_memWf (s : State) (a : Nat) : (scrubUe s a).MemWf ↔ s.MemWf := by
  simp only [scrubUe]
  repeat' split
  all_goals simp

@[simp] theorem scrubCe_memWf (s : State) (a : Nat) : (scrubCe s a).MemWf ↔ s.MemWf := by
  simp only [scrubCe]
  repeat' split
  all_goals simp

@[simp] theorem xferCmd_memWf (s : State) (p : Nat) (v : Word) : (xferCmd s p v).MemWf ↔ s.MemWf := by
  simp only [xferCmd]
  repeat' split
  all_goals simp

@[simp] theorem setCmd_memWf (s : State) (v : Word) : (setCmd s v).MemWf ↔ s.MemWf := by
  simp only [setCmd]
  repeat' split
  all_goals simp

@[simp] theorem ctlCmd_memWf (s : State) (v : Word) : (ctlCmd s v).MemWf ↔ s.MemWf := by
  simp only [ctlCmd]
  repeat' split
  all_goals simp

@[simp] theorem stackCmd_memWf {s : State} (hw : s.MemWf) (v : Word) : (stackCmd s v).MemWf := by
  simp only [stackCmd]
  repeat' split
  all_goals simp [hw]

@[simp] theorem State.setPort_memWf (s : State) (n : Nat) (x : PortS) : (State.setPort s n x).MemWf ↔ s.MemWf := by simp [State.setPort]

@[simp] theorem wpFault_memWf (s : State) (n : Nat) (b : Word) : (wpFault s n b).MemWf ↔ s.MemWf := by simp [wpFault]

@[simp] theorem wpCount_memWf (s : State) (n o k : Nat) : (wpCount s n o k).MemWf ↔ s.MemWf := by simp [wpCount]

@[simp] theorem wpDropQuiet_memWf (s : State) (n : Nat) : (wpDropQuiet s n).MemWf ↔ s.MemWf := by simp [wpDropQuiet]

@[simp] theorem wpDrop_memWf (s : State) (n : Nat) : (wpDrop s n).MemWf ↔ s.MemWf := by simp [wpDrop]

@[simp] theorem updConn_memWf (s : State) (n peer : Nat) (f : Conn → Conn) : (updConn s n peer f).MemWf ↔ s.MemWf := by simp [updConn]

@[simp] theorem sendUnseq_memWf (s : State) (n peer : Nat) (f : TxFrame) : (sendUnseq s n peer f).MemWf ↔ s.MemWf := by simp [sendUnseq]

@[simp] theorem sendAckFrame_memWf (s : State) (n peer : Nat) : (sendAckFrame s n peer).MemWf ↔ s.MemWf := by simp [sendAckFrame]

@[simp] theorem sendNak_memWf (s : State) (n peer : Nat) (ctl : Bool) : (sendNak s n peer ctl).MemWf ↔ s.MemWf := by simp [sendNak]

@[simp] theorem sendSeq_memWf (s : State) (n peer : Nat) (f : TxFrame) : (sendSeq s n peer f).MemWf ↔ s.MemWf := by simp [sendSeq]

@[simp] theorem needConn_memWf (s : State) (n peer : Nat) : (needConn s n peer).MemWf ↔ s.MemWf := by simp [needConn]

@[simp] theorem setChain_memWf (s : State) (k : Nat) (c : Chain) : (setChain s k c).MemWf ↔ s.MemWf := by simp [setChain]

@[simp] theorem endStrikes_memWf (s : State) (f : Nat → Strike → Bool) (code : Nat) : (endStrikes s f code).MemWf ↔ s.MemWf := by
  simp [endStrikes]

@[simp] theorem dropFrames_memWf (s : State) (f : TxFrame → Bool) : (dropFrames s f).MemWf ↔ s.MemWf := by simp [dropFrames]

@[simp] theorem spoilDst_memWf {s : State} (hw : s.MemWf) (p : Nat) (x : Strike) : (spoilDst s p x).MemWf := by
  unfold spoilDst
  dsimp only
  split
  · exact hw
  · refine memWf_foldl _ (fun s r h => ?_) _ _ hw
    exact t2WriteBytes_memWf ((freeWords_memWf ..).mpr h) _ _ _ _

@[simp] theorem sendAborts_memWf (s : State) (p : Nat) (x : Strike) : (sendAborts s p x).MemWf ↔ s.MemWf := by
  simp [sendAborts, memWf_iff_foldl]

@[simp] theorem abortStrikes_memWf {s : State} (hw : s.MemWf) (f : Nat → Strike → Bool) (code : Nat) : (abortStrikes s f code).MemWf := by
  unfold abortStrikes
  dsimp only
  refine (endStrikes_memWf ..).mpr (memWf_foldl _ (fun s e h => ?_) _ _ hw)
  exact spoilDst_memWf ((sendAborts_memWf ..).mpr h) _ _

@[simp] theorem promote_memWf (s : State) (n : Nat) (l : Nat) : (promote s n l).MemWf ↔ s.MemWf := by
  induction l generalizing s with
  | zero => simp [promote]
  | succ k ih =>
    simp only [promote]
    split
    · rfl
    · simp [ih]

@[simp] theorem connLost_memWf {s : State} (hw : s.MemWf) (n peer : Nat) (st : ConnSt) (code : Nat) :
    (connLost s n peer st code).MemWf := by
  simp [connLost, hw]

@[simp] theorem portConnsFail_memWf {s : State} (hw : s.MemWf) (n : Nat) : (portConnsFail s n).MemWf := by simp [portConnsFail, hw]

@[simp] theorem sendsDone_memWf (s : State) : (sendsDone s).MemWf ↔ s.MemWf := by simp [sendsDone]

@[simp] theorem ackDir_memWf (s : State) (n peer : Nat) (ctl : Bool) (psn : Word) : (ackDir s n peer ctl psn).MemWf ↔ s.MemWf := by
  simp [ackDir]

@[simp] theorem sequence_memWf (s : State) (n : Nat) (f : RxFrame) : (sequence s n f).2.MemWf ↔ s.MemWf := by
  simp only [sequence]
  repeat' split
  all_goals simp

@[simp] theorem acceptFrame_memWf (s : State) (n : Nat) (f : RxFrame) : (acceptFrame s n f).MemWf ↔ s.MemWf := by simp [acceptFrame]

@[simp] theorem sendPfc_memWf (s : State) (n quanta : Nat) : (sendPfc s n quanta).MemWf ↔ s.MemWf := by simp [sendPfc]

@[simp] theorem xoffCheck_memWf (s : State) (n : Nat) : (xoffCheck s n).MemWf ↔ s.MemWf := by simp [xoffCheck]

@[simp] theorem emitFrame_memWf (s : State) (n peer : Nat) (f : TxFrame) (psn ack : Word) :
    (emitFrame s n peer f psn ack).MemWf ↔ s.MemWf := by simp [emitFrame]

@[simp] theorem portTo_memWf (s : State) (n : Nat) (st : PortSt) : (portTo s n st).MemWf ↔ s.MemWf := by simp [portTo]

@[simp] theorem pauseSettle_memWf (s : State) (n : Nat) (was : Bool) (us : Nat) : (pauseSettle s n was us).MemWf ↔ s.MemWf := by
  simp [pauseSettle]

@[simp] theorem portRefuse_memWf (s : State) (n : Nat) : (portRefuse s n).MemWf ↔ s.MemWf := by simp [portRefuse]

@[simp] theorem portOffline_memWf {s : State} (hw : s.MemWf) (n : Nat) : (portOffline s n).MemWf := by simp [portOffline, hw]

@[simp] theorem portOnline_memWf (s : State) (n : Nat) : (portOnline s n).MemWf ↔ s.MemWf := by simp [portOnline]

@[simp] theorem portRetrain_memWf (s : State) (n : Nat) : (portRetrain s n).MemWf ↔ s.MemWf := by simp [portRetrain]

@[simp] theorem portCmd_memWf {s : State} (hw : s.MemWf) (n : Nat) (v : Word) : (portCmd s n v).MemWf := by
  simp only [portCmd]
  repeat' split
  all_goals simp [hw]

@[simp] theorem portFail_memWf {s : State} (hw : s.MemWf) (n : Nat) : (portFail s n).MemWf := by simp [portFail, hw]

@[simp] theorem countBad_memWf (s : State) (n k : Nat) : (countBad s n k).MemWf ↔ s.MemWf := by simp [countBad]

theorem useCtl_memWf {s : State} (hw : s.MemWf) (n : Nat) (r : RxFrame) {f : State → RxFrame → State} (h : ∀ s r, s.MemWf → (f s r).MemWf) :
    (useCtl s n r f).MemWf := by
  unfold useCtl
  split
  · exact h s r hw
  · simpa using hw

@[simp] theorem takeCounts_memWf (s : State) (n : Nat) (r : RxFrame) : (takeCounts s n r).MemWf ↔ s.MemWf := by
  simp only [takeCounts]
  repeat' split
  all_goals simp

@[simp] theorem drainCounts_memWf {s : State} (hw : s.MemWf) (n : Nat) : (drainCounts s n).MemWf :=
  memWf_foldl _ (fun _ r h => useCtl_memWf h n r (fun _ _ h => (takeCounts_memWf ..).mpr h)) _ _ ((State.setPort_memWf ..).mpr hw)

theorem takeCtl_memWf {s : State} (hw : s.MemWf) (n type : Nat) {f : State → RxFrame → State} (h : ∀ s r, s.MemWf → (f s r).MemWf) :
    (takeCtl s n type f).MemWf := by
  unfold takeCtl
  repeat' split
  · exact hw
  · exact hw
  · exact drainCounts_memWf (useCtl_memWf ((State.setPort_memWf ..).mpr hw) n _ h) n

@[simp] theorem updStrike_memWf (s : State) (k sid : Nat) (f : Strike → Strike) : (updStrike s k sid f).MemWf ↔ s.MemWf := by
  simp [updStrike]

@[simp] theorem giveVerdict_memWf {s : State} (hw : s.MemWf) (k : Nat) (x : Strike) (srv : Nat) (v : Word) :
    (giveVerdict s k x srv v).MemWf := by
  simp [giveVerdict, memWf_iff_foldl, hw]

@[simp] theorem dropData_memWf (s : State) (n i : Nat) : (dropData s n i).MemWf ↔ s.MemWf := by simp [dropData]

@[simp] theorem placeData_memWf (s : State) (n i : Nat) (d : Option (Nat × Nat)) : (placeData s n i d).MemWf ↔ s.MemWf := by
  simp [placeData]

@[simp] theorem collLate_memWf (s : State) (p : Nat) : (collLate s p).MemWf ↔ s.MemWf := by simp [collLate]

@[simp] theorem writeRuns_memWf {s : State} (hw : s.MemWf) (p : Nat) (l : List (Nat × Nat)) (m : List PWord) :
    (writeRuns s p l m).MemWf := by
  induction l generalizing s m with
  | nil => simp [writeRuns, hw]
  | cons a l ih => simp [writeRuns, ih, hw]

@[simp] theorem sendNext_memWf (s : State) (n peer : Nat) (ctl : Bool) : (sendNext s n peer ctl).MemWf ↔ s.MemWf := by
  simp only [sendNext]
  repeat' split
  all_goals simp [memWf_iff_foldl]

@[simp] theorem noticeRead_memWf (s : State) (fn n : Nat) : (noticeRead s fn n).2.MemWf ↔ s.MemWf := by
  simp only [noticeRead]
  repeat' split
  all_goals simp

@[simp] theorem peerCtrlWrite_memWf {s : State} (hw : s.MemWf) (n : Nat) (v : Word) : (peerCtrlWrite s n v).MemWf := by
  simp [peerCtrlWrite, hw]

@[simp] theorem peerAddrWrite_memWf {s : State} (hw : s.MemWf) (n o : Nat) (v : Word) : (peerAddrWrite s n o v).MemWf := by
  simp [peerAddrWrite, hw]

@[simp] theorem chainRefuse_memWf (s : State) (p ch : Nat) : (chainRefuse s p ch).MemWf ↔ s.MemWf := by simp [chainRefuse]

@[simp] theorem chainStart_memWf (s : State) (p : Nat) : (chainStart s p).MemWf ↔ s.MemWf := by simp [chainStart]

@[simp] theorem chainStop_memWf {s : State} (hw : s.MemWf) (p : Nat) : (chainStop s p).MemWf := by simp [chainStop, hw]

@[simp] theorem chainCmd_memWf {s : State} (hw : s.MemWf) (p : Nat) (v : Word) : (chainCmd s p v).MemWf := by
  simp only [chainCmd]
  repeat' split
  all_goals simp [hw]

@[simp] theorem addStrike_memWf (s : State) (k : Nat) (x : Strike) (len : Nat) (rep : Bool) :
    (addStrike s k x len rep).MemWf ↔ s.MemWf := by
  simp [addStrike]

@[simp] theorem muteDst_memWf (s : State) (p : Nat) : (muteDst s p).MemWf ↔ s.MemWf := by simp [muteDst]

@[simp] theorem beginStrike_memWf (s : State) (p ch : Nat) (x : Strike) (len : Nat) (rep : Bool) :
    (beginStrike s p ch x len rep).MemWf ↔ s.MemWf := by
  simp only [beginStrike]
  repeat' split
  all_goals simp [memWf_iff_foldl]

@[simp] theorem haltRecord_memWf (s : State) (p ch : Nat) (x : Strike) : (haltRecord s p ch x).MemWf ↔ s.MemWf := by
  simp [haltRecord, memWf_iff_foldl]

@[simp] theorem haltChain_memWf (s : State) (p ch : Nat) (x : Strike) : (haltChain s p ch x).MemWf ↔ s.MemWf := by simp [haltChain]

@[simp] theorem groupRefuse_memWf (s : State) (p : Nat) : (groupRefuse s p).MemWf ↔ s.MemWf := by simp [groupRefuse]

@[simp] theorem groupSet_memWf (s : State) (p : Nat) : (groupSet s p).MemWf ↔ s.MemWf := by simp [groupSet]

@[simp] theorem groupReform_memWf {s : State} (hw : s.MemWf) (p : Nat) : (groupReform s p).MemWf := by simp [groupReform, hw]

@[simp] theorem groupCmd_memWf {s : State} (hw : s.MemWf) (p : Nat) (v : Word) : (groupCmd s p v).MemWf := by
  simp only [groupCmd]
  repeat' split
  all_goals simp [hw]

theorem chainWrite_memWf (s : State) (p : Nat) (f : Nat → State) (h : ∀ k, (f k).MemWf ↔ s.MemWf) : (chainWrite s p f).MemWf ↔ s.MemWf := by
  simp [chainWrite, h]

@[simp] theorem setHq_memWf (s : State) (p q : Nat) (x : HQueue) : (setHq s p q x).MemWf ↔ s.MemWf := by simp [setHq]

@[simp] theorem endCmd_memWf (s : State) (p q : Nat) (st : BitVec 8) (res : Word) : (endCmd s p q st res).MemWf ↔ s.MemWf := by
  simp [endCmd]

@[simp] theorem failCmd_memWf (s : State) (p q : Nat) (st : BitVec 8) : (failCmd s p q st).MemWf ↔ s.MemWf := by simp [failCmd]

@[simp] theorem writeCpl_memWf (s : State) (p q : Nat) : (writeCpl s p q).MemWf ↔ s.MemWf := by
  simp only [writeCpl]
  repeat' split
  all_goals simp

@[simp] theorem cutCmd_memWf {s : State} (hw : s.MemWf) (p q : Nat) : (cutCmd s p q).MemWf := by
  unfold cutCmd
  dsimp only
  repeat' split
  all_goals simp [hw]

@[simp] theorem stopQueue_memWf {s : State} (hw : s.MemWf) (p q : Nat) : (stopQueue s p q).MemWf := by simp [stopQueue, hw]

@[simp] theorem newEpoch_memWf (s : State) (h : Nat) : (newEpoch s h).MemWf ↔ s.MemWf := by simp [newEpoch]

@[simp] theorem freshCores_memWf {s : State} (hw : s.MemWf) (hs : List Nat) : (freshCores s hs).MemWf := by
  refine memWf_foldl _ (fun s h hs => ?_) _ _ ⟨hw.tiers, hw.cores.filter _, hw.slices⟩
  have he : (newEpoch s h).MemWf := (newEpoch_memWf ..).mpr hs
  dsimp only
  split
  · exact memWf_foldl _ (fun s k h => State.setCore_memWf h _ rfl) _ _ he
  · exact he

@[simp] theorem clearTracks_memWf (s : State) (p : Nat) : (clearTracks s p).MemWf ↔ s.MemWf := by simp [clearTracks]

@[simp] theorem clearSlices_memWf {s : State} (hw : s.MemWf) (fs : BitVec 84) : (clearSlices s fs).MemWf :=
  ⟨hw.tiers, hw.cores, hw.slices.filter _⟩

@[simp] theorem clearChimes_memWf (s : State) (p : Nat) : (clearChimes s p).MemWf ↔ s.MemWf := by simp [clearChimes]

@[simp] theorem clearLanes_memWf {s : State} (hw : s.MemWf) (p : Nat) : (clearLanes s p).MemWf := by
  have h : ((s.part p).lanes.foldl laneAbandon s).MemWf := memWf_foldl _ (fun _ n h => laneAbandon_memWf h n) _ _ hw
  simp [clearLanes, memWf_iff_foldl, h]

@[simp] theorem beginReset_memWf {s : State} (hw : s.MemWf) (p : Nat) (st : PartSt) (by' : Option (Fin 8)) :
    (beginReset s p st by').MemWf := by
  unfold beginReset
  extract_lets x s1 s2 s3 s4 s5 s6 halt s7 s8
  have h2 : s2.MemWf := memWf_foldl _ (fun _ n h => laneAbandon_memWf h n) _ _ ((State.setPart_memWf ..).mpr hw)
  have h4 : s4.MemWf := clearSlices_memWf ((clearTracks_memWf ..).mpr (fenceCores_memWf h2 _ _ _)) _
  have h5 : s5.MemWf := (memWf_iff_foldl _ (fun _ _ => streamIdle_memWf ..) _ _).mpr h4
  have h6 : s6.MemWf := abortStrikes_memWf h5 _ _
  clear_value s6
  have h7 : s7.MemWf := ⟨h6.tiers, h6.cores, h6.slices⟩
  have h8 : s8.MemWf := memWf_foldl _ (fun _ i h => stopQueue_memWf h p i) _ _ h7
  exact clearLanes_memWf ((clearChimes_memWf ..).mpr h8) p

@[simp] theorem releaseLanes_memWf (s : State) (ls : List Nat) : (releaseLanes s ls).MemWf ↔ s.MemWf := by
  simp [releaseLanes, memWf_iff_foldl]

@[simp] theorem releasePeers_memWf (s : State) (p : Nat) : (releasePeers s p).MemWf ↔ s.MemWf := by simp [releasePeers, memWf_iff_foldl]

@[simp] theorem releaseT3_memWf (s : State) (p : Nat) : (releaseT3 s p).MemWf ↔ s.MemWf := by simp [releaseT3]

@[simp] theorem restage_memWf (s : State) (p : Nat) : (restage s p).MemWf ↔ s.MemWf :=
  memWf_iff_foldl _ (fun s o => regSet_memWf s 0 p (0x200000 + o) (grantWord (s.part p) o)) _ _

/-- What a partition gives back besides its frames and lanes leaves the memories. -/
theorem State.MemWf.dropOwned {s : State} (hw : s.MemWf) (p : Nat) : State.MemWf { s with
    streams := s.streams.filter (fun e => !streamIn s p e.1), chains := s.chains.filter (fun e => e.1 / 512 != p),
    groups := s.groups.filter (fun e => e.1 / 16 != p), transit := s.transit.filter (fun g => g.part != p) } :=
  ⟨hw.tiers, hw.cores, hw.slices⟩

@[simp] theorem releaseAll_memWf {s : State} (hw : s.MemWf) (p : Nat) : (releaseAll s p).MemWf := by
  have h1 : (releaseT3 (releasePeers (releaseLanes (releaseFrames s (s.part p).frames) (s.part p).lanes) p) p).MemWf := by
    simp [releaseFrames_memWf hw]
  unfold releaseAll
  exact (restage_memWf ..).mpr ((State.setPart_memWf ..).mpr (h1.dropOwned p))

@[simp] theorem endReset_memWf {s : State} (hw : s.MemWf) (p : Nat) : (endReset s p).MemWf := by
  simp only [endReset]
  repeat' split
  all_goals simp [hw]

@[simp] theorem t2SetU_memWf {s : State} (hw : s.MemWf) (p a : Nat) (w : PWord) : (t2SetU s p a w).MemWf := by simp [t2SetU, hw]

@[simp] theorem t2WriteU_memWf {s : State} (hw : s.MemWf) (p a : Nat) (ws : List PWord) : (t2WriteU s p a ws).MemWf := by
  unfold t2WriteU
  split
  · exact t2Write_memWf hw _ _ _
  · exact memWf_foldl _ (fun _ e h => t2SetU_memWf h _ _ _) _ _ hw

@[simp] theorem loadRec_memWf {s : State} (hw : s.MemWf) (p : Nat) (r : ImgRec) : (loadRec s p r).1.MemWf := by
  have ho : (violate s p 7).MemWf := (violate_memWf ..).mpr hw
  unfold loadRec
  extract_lets out
  split
  · split
    · exact State.setSlice_memWf hw _ (Slice.put_wf (hw.slice _) _ _)
    · exact ho
  · split
    · exact ho
    · next k _ =>
      have hp (a : Nat) : (s.setCore (keyCore k) ((s.core (keyCore k)).putWords a r.body)).MemWf :=
        State.setCore_memWf hw _ (Core.putWords_memWf (hw.core _) _ _)
      have hs (a : Nat) : Memory.wf (({ sram := (s.core (keyCore k)).mem, tag := (s.core (keyCore k)).memTag } : Slice).put a r.body).sram =
          true := Slice.put_wf (hw.core _) _ _
      dsimp only
      repeat' split
      all_goals simp [hw, out, hp, hs]

@[simp] theorem tracksToStart_memWf {s : State} (hw : s.MemWf) (p : Nat) : (tracksToStart s p).MemWf := by
  refine ⟨hw.tiers, hw.cores.map _ fun e => ?_, hw.slices⟩
  split <;> rfl

@[simp] theorem loadAll_memWf {s : State} (hw : s.MemWf) (p : Nat) (rs : List ImgRec) : (loadAll s p rs).1.MemWf := by
  unfold loadAll
  extract_lets go a
  have ha : a.1.MemWf := memWf_foldl_fst go (fun a r h => loadRec_memWf h p r) _ _ hw
  split
  · exact (loadEngines_memWf ..).mpr (tracksToStart_memWf ha p)
  · exact ha

@[simp] theorem restoreCore_memWf {s : State} (hw : s.MemWf) (key : Nat) (ws : List PWord) (mem : Option (List PWord)) :
    (restoreCore s key ws mem).MemWf := by
  unfold restoreCore
  extract_lets c old g vec k0 k1 k2 k3 k4 k5 k6 k7 k8
  have h0 : k0.mem = old.mem := rfl
  clear_value k0
  have h1 : k1.mem = k0.mem := Core.foldl_mem _ (fun _ _ => Core.setS_mem ..) _ _
  clear_value k1
  have h2 : k2.mem = k1.mem := Core.foldl_mem _ (fun _ _ => Core.setA_mem ..) _ _
  clear_value k2
  have h3 : k3.mem = k2.mem := Core.foldl_mem _ (fun _ _ => Core.setP_mem ..) _ _
  clear_value k3
  have h4 : k4.mem = k3.mem := Core.foldl_mem _ (fun _ _ => Core.setV_mem ..) _ _
  clear_value k4
  have h5 : k5.mem = k4.mem := Core.foldl_mem _ (fun _ _ => Core.setD_mem ..) _ _
  clear_value k5
  have h6 : k6.mem = k5.mem := restoreCtl_mem ..
  clear_value k6
  have h7 : k7.mem = k6.mem := Core.foldl_mem _ (fun _ _ => Core.accPut_mem ..) _ _
  clear_value k7
  have hm : Memory.wf k7.mem = true := by
    rw [h7, h6, h5, h4, h3, h2, h1, h0]
    exact hw.core c
  refine State.setCore_memWf hw c ?_
  simp only [k8]
  split
  · exact hm
  · exact Core.putWords_memWf (Core.putWords_memWf hm _ _) _ _

@[simp] theorem restoreSync_memWf {s : State} (hw : s.MemWf) (p a : Nat) (keys : List Nat) : (restoreSync s p a keys).MemWf := by
  unfold restoreSync
  extract_lets w cc x chimes pair pairs s1 lane s2
  have hl (s : State) (l : Nat) : (lane s l).MemWf ↔ s.MemWf := by
    simp only [lane]
    split <;> simp
  have h1 : s1.MemWf := ⟨hw.tiers, hw.cores, hw.slices⟩
  have h2 : s2.MemWf := (memWf_iff_foldl lane hl _ _).mpr h1
  clear_value s2 w
  refine memWf_foldl _ (fun s e h => ?_) _ _ h2
  exact h.setCoreSame _ (by simp)

@[simp] theorem restoreStreams_memWf (s : State) (p a n : Nat) : (restoreStreams s p a n).MemWf ↔ s.MemWf := by
  simp [restoreStreams, memWf_iff_foldl]

@[simp] theorem restoreAll_memWf {s : State} (hw : s.MemWf) (p a : Nat) (h : CtxHdr) (keys : List Nat) :
    (restoreAll s p a h keys).MemWf := by
  unfold restoreAll
  extract_lets sz s0 s1 s2
  have h1 : s1.MemWf := memWf_foldl _ (fun _ e h => restoreCore_memWf h _ _ _) _ _ hw
  have h2 : s2.MemWf := (restoreStreams_memWf ..).mpr (restoreSync_memWf h1 _ _ _)
  exact memWf_foldl _ (fun _ e h => State.setSlice_memWf h _ (Slice.put_wf (h.slice _) _ _)) _ _ h2

@[simp] theorem staleRegion_memWf {s : State} (hw : s.MemWf) (h : Nat) : (staleRegion s h).MemWf := by simp [staleRegion, hw]

@[simp] theorem dbWrite_memWf (s : State) (p q : Nat) (v : Word) : (dbWrite s p q v).MemWf ↔ s.MemWf := by simp [dbWrite]

@[simp] theorem writeHeld_memWf (s : State) (p q : Nat) : (writeHeld s p q).MemWf ↔ s.MemWf := by simp [writeHeld]

@[simp] theorem hqCtrlWrite_memWf {s : State} (hw : s.MemWf) (p q : Nat) (v : Word) : (hqCtrlWrite s p q v).MemWf := by
  simp [hqCtrlWrite, hw]

@[simp] theorem cplHeadWrite_memWf (s : State) (p q : Nat) (v : Word) : (cplHeadWrite s p q v).MemWf ↔ s.MemWf := by simp [cplHeadWrite]

@[simp] theorem hqStatusWrite_memWf (s : State) (p q : Nat) (v : Word) : (hqStatusWrite s p q v).MemWf ↔ s.MemWf := by simp [hqStatusWrite]

theorem startCmd_memWf {s : State} (hw : s.MemWf) (p : Vf) (q : Fin 8) (op : Nat) {f : State → Nat → HCmd → State}
    (h : ∀ s n c, s.MemWf → (f s n c).MemWf) : (startCmd s p q op f).MemWf := by
  unfold startCmd
  dsimp only
  repeat' split
  · exact hw
  · exact hw
  · exact h _ _ _ ((setHq_memWf ..).mpr hw)

@[simp] theorem beyondGrant_memWf (s : State) (n q : Nat) (res : Word) : (beyondGrant s n q res).MemWf ↔ s.MemWf := by simp [beyondGrant]

@[simp] theorem newTag_memWf (s : State) : (newTag s).2.MemWf ↔ s.MemWf := by simp [newTag]

@[simp] theorem placeOne_memWf (s : State) (p : Nat) : (placeOne s p).MemWf ↔ s.MemWf := by
  simp only [placeOne]
  repeat' split
  all_goals simp

@[simp] theorem placeFrames_memWf (s : State) (p : Nat) (l : Nat) : (placeFrames s p l).MemWf ↔ s.MemWf := by
  induction l generalizing s with
  | zero => simp [placeFrames]
  | succ k ih => simp [placeFrames, ih]

@[simp] theorem setFrames_memWf {s : State} (hw : s.MemWf) (p n : Nat) : (setFrames s p n).MemWf := by simp [setFrames, hw]

@[simp] theorem setLanes_memWf (s : State) (p n : Nat) : (setLanes s p n).MemWf ↔ s.MemWf := by simp [setLanes, memWf_iff_foldl]

@[simp] theorem leaveFields_memWf {s : State} (hw : s.MemWf) (fs : BitVec 84) : (leaveFields s fs).MemWf := by simp [leaveFields, hw]

@[simp] theorem trimRanges_memWf (s : State) (p : Nat) (x : Part) : (trimRanges s p x).MemWf ↔ s.MemWf := by
  simp [trimRanges, memWf_iff_foldl]

@[simp] theorem partCode_memWf (s : State) (c : Word) : (partCode s c).MemWf ↔ s.MemWf := by simp [partCode]

theorem partOp_memWf {s : State} (hw : s.MemWf) {f : State → Nat → State} (h : ∀ n, (f s n).MemWf) : (partOp s f).MemWf := by
  simp [partOp, h, hw]

@[simp] theorem partCreate_memWf {s : State} (hw : s.MemWf) (p : Nat) : (partCreate s p).MemWf := by simp [partCreate, hw]

@[simp] theorem partResize_memWf {s : State} (hw : s.MemWf) (p : Nat) : (partResize s p).MemWf := by
  unfold partResize
  extract_lets old x s1 s2 s3
  have h1 : s1.MemWf := (trimRanges_memWf ..).mpr (leaveFields_memWf hw _)
  have h3 : s3.MemWf := setFrames_memWf ((setLanes_memWf ..).mpr ((partCode_memWf ..).mpr ((State.setPart_memWf ..).mpr h1))) _ _
  clear_value s3
  have hc : (partCode s 1).MemWf ∧ (partCode s 2).MemWf := by simp [hw]
  repeat' split
  · exact hc.1
  · exact hc.2
  · exact hc.1
  · exact ⟨h3.tiers, h3.cores, h3.slices⟩

@[simp] theorem partReset_memWf {s : State} (hw : s.MemWf) (p : Nat) : (partReset s p).MemWf := by
  have h := beginReset_memWf ((partCode_memWf s 0).mpr hw) p .resetting none
  unfold partReset
  split
  · exact (partCode_memWf ..).mpr hw
  · generalize beginReset (partCode s 0) p .resetting none = t at h
    exact ⟨h.tiers, h.cores, h.slices⟩

@[simp] theorem partDestroy_memWf {s : State} (hw : s.MemWf) (p : Nat) : (partDestroy s p).MemWf := by
  have h := beginReset_memWf ((partCode_memWf s 0).mpr hw) p .destroying none
  unfold partDestroy
  split
  · generalize beginReset (partCode s 0) p .destroying none = t at h
    exact ⟨h.tiers, h.cores, h.slices⟩
  · exact (partCode_memWf ..).mpr hw

@[simp] theorem partTransit_memWf (s : State) (p : Nat) : (partTransit s p).MemWf ↔ s.MemWf := by simp [partTransit]

@[simp] theorem partCmdWrite_memWf {s : State} (hw : s.MemWf) (v : Word) : (partCmdWrite s v).MemWf := by
  unfold partCmdWrite
  split <;> exact partOp_memWf hw (fun _ => by simp [hw])

@[simp] theorem partComplete_memWf {s : State} (hw : s.MemWf) : (partComplete s).MemWf := by
  simp only [partComplete]
  repeat' split
  all_goals simp [hw]

@[simp] theorem vfFlr_memWf {s : State} (hw : s.MemWf) (p : Nat) : (vfFlr s p).MemWf := by
  unfold vfFlr
  split
  · exact beginReset_memWf hw _ _ _
  · exact memWf_foldl _ (fun _ q h => stopQueue_memWf h p q) _ _ hw

@[simp] theorem abandonCmd_memWf {s : State} (hw : s.MemWf) : (abandonCmd s).MemWf := by
  unfold abandonCmd
  split
  · exact hw
  · next c _ =>
    have h : ((releaseLanes (releaseFrames s (s.part c.part).frames) (s.part c.part).lanes).setPart c.part
        { creations := (s.part c.part).creations }).MemWf := by simp [releaseFrames_memWf hw]
    dsimp only
    generalize (releaseLanes (releaseFrames s (s.part c.part).frames) (s.part c.part).lanes).setPart c.part
        { creations := (s.part c.part).creations } = t at h ⊢
    split
    · exact hw
    · split
      · exact ⟨h.tiers, h.cores, h.slices⟩
      · split <;> exact ⟨hw.tiers, hw.cores, hw.slices⟩

@[simp] theorem dropPf_memWf (s : State) (f : Nat → Bool) : (dropPf s f).MemWf ↔ s.MemWf := by simp [dropPf]

@[simp] theorem pfFlr_memWf {s : State} (hw : s.MemWf) : (pfFlr s).MemWf := by
  simp [pfFlr, memWf_iff_foldl restage restage_memWf, abandonCmd_memWf hw]

@[simp] theorem perstQueue_memWf {s : State} (hw : s.MemWf) (p q : Nat) : (perstQueue s p q).MemWf := by simp [perstQueue, hw]

@[simp] theorem perst_memWf {s : State} (hw : s.MemWf) : (perst s).MemWf := by
  unfold perst
  split
  · exact hw
  · refine pfFlr_memWf (memWf_foldl _ (fun s p h => ?_) _ _ hw)
    refine (regSet_memWf ..).mpr ((State.setPart_memWf ..).mpr ?_)
    exact memWf_foldl _ (fun _ q h => perstQueue_memWf h p q) _ _ h

@[simp] theorem pwrFault_memWf (s : State) (b : Word) : (pwrFault s b).MemWf ↔ s.MemWf := by simp [pwrFault]

@[simp] theorem tambE_memWf (s : State) (cls code : Nat) (sc : Scope) (sev region : Nat) (loc v0 v1 : Word) :
    (tambE s cls code sc sev region loc v0 v1).MemWf ↔ s.MemWf := by simp [tambE]

@[simp] theorem tambF_memWf (s : State) (cls code : Nat) (sc : Scope) (sev region : Nat) (loc v0 v1 : Word) :
    (tambF s cls code sc sev region loc v0 v1).MemWf ↔ s.MemWf := by simp [tambF]

@[simp] theorem tambP_memWf (s : State) (cls code : Nat) (sc : Scope) (sev p region : Nat) (loc v0 v1 : Word) :
    (tambP s cls code sc sev p region loc v0 v1).MemWf ↔ s.MemWf := by simp [tambP]

@[simp] theorem testEnd_memWf (s : State) (u : Nat) (st : TestSt) (n : Nat) : (testEnd s u st n).MemWf ↔ s.MemWf := by simp [testEnd]

@[simp] theorem testLost_memWf (s : State) (u : Nat) : (testLost s u).MemWf ↔ s.MemWf := by simp [testLost]

@[simp] theorem fenceHalf_memWf {s : State} (hw : s.MemWf) (h : Nat) : (fenceHalf s h).MemWf := by simp [fenceHalf, hw]

@[simp] theorem epochPast_memWf (s : State) (h : Nat) : (epochPast s h).MemWf ↔ s.MemWf := by simp [epochPast]

@[simp] theorem killRegion_memWf {s : State} (hw : s.MemWf) (r : Nat) (dom : BitVec 4) : (killRegion s r dom).MemWf := by
  unfold killRegion
  extract_lets s1 reg s2 s3 ps s4
  have h1 : s1.MemWf := by
    show State.MemWf (if _ then _ else _)
    split
    · exact (epochPast_memWf ..).mpr hw
    · exact hw
  have h2 : s2.MemWf := (State.setRegion_memWf ..).mpr h1
  have h4 : s4.MemWf := fenceHalf_memWf ((testLost_memWf ..).mpr h2) r
  repeat' split
  · exact memWf_foldl _ (fun _ p h => routeLoss_memWf h p r 1) _ _ h4
  · exact stackLose_memWf h2 _
  · exact (ctlLose_memWf ..).mpr h2

@[simp] theorem noteCell_memWf (s : State) (n : CellNote) : (noteCell s n).MemWf ↔ s.MemWf := by simp [noteCell]

@[simp] theorem regionLost_memWf {s : State} (hw : s.MemWf) (r : Nat) (dom : BitVec 4) : (regionLost s r dom).MemWf := by
  simp [regionLost, hw]

@[simp] theorem shortTrip_memWf {s : State} (hw : s.MemWf) (r : Nat) (dom : BitVec 4) : (shortTrip s r dom).MemWf := by simp [shortTrip, hw]

@[simp] theorem recordDead_memWf (s : State) (r : Nat) (dom : BitVec 4) : (recordDead s r dom).MemWf ↔ s.MemWf := by simp [recordDead]

@[simp] theorem voidWindow_memWf (s : State) : (voidWindow s).MemWf ↔ s.MemWf := by simp [voidWindow]

@[simp] theorem actOn_memWf (s : State) (l : CellNote) : (actOn s l).MemWf ↔ s.MemWf := by
  cases l <;> simp [actOn]

@[simp] theorem actOnNotes_memWf (s : State) : (actOnNotes s).MemWf ↔ s.MemWf := by simp [actOnNotes, memWf_iff_foldl]

@[simp] theorem startRamp_memWf (s : State) (r : Nat) (k : Ramp) : (startRamp s r k).MemWf ↔ s.MemWf := by simp [startRamp]

@[simp] theorem softPoints_memWf (s : State) (r : Nat) : (softPoints s r).MemWf ↔ s.MemWf := by simp [softPoints]

@[simp] theorem coresTo_memWf {s : State} (hw : s.MemWf) (h : Nat) (a b : CoreMode) : (coresTo s h a b).MemWf := by
  refine memWf_foldl _ (fun s k hs => ?_) _ _ hw
  dsimp only
  split
  · exact hs.setCoreSame _ rfl
  · exact hs

@[simp] theorem wakeTapped_memWf {s : State} (hw : s.MemWf) (h : Nat) : (wakeTapped s h).MemWf := by
  refine memWf_foldl _ (fun s k hs => ?_) _ _ hw
  dsimp only
  split
  · exact hs.setCoreSame _ rfl
  · exact hs

@[simp] theorem unparked_memWf {s : State} (hw : s.MemWf) (h : Nat) : (unparked s h).MemWf := by simp [unparked, hw]

@[simp] theorem rampDone_memWf {s : State} (hw : s.MemWf) (r : Nat) : (rampDone s r).MemWf := by
  simp only [rampDone]
  repeat' split
  all_goals simp [hw]

@[simp] theorem rampShort_memWf {s : State} (hw : s.MemWf) (r : Nat) (dom : BitVec 4) : (rampShort s r dom).MemWf := by simp [rampShort, hw]

@[simp] theorem retryExpiry_memWf (s : State) (r : Nat) : (retryExpiry s r).MemWf ↔ s.MemWf := by simp [retryExpiry]

@[simp] theorem sensorExcluded_memWf (s : State) (r : Nat) (rail : Rail) (n : Nat) (mv : BitVec 16) :
    (sensorExcluded s r rail n mv).MemWf ↔ s.MemWf := by simp [sensorExcluded]

@[simp] theorem waferRequest_memWf (s : State) (r : Nat) (q : LinkReq) : (waferRequest s r q).MemWf ↔ s.MemWf := by simp [waferRequest]

@[simp] theorem ackChiplet_memWf (s : State) (r : Nat) : (ackChiplet s r).MemWf ↔ s.MemWf := by
  simp only [ackChiplet]
  repeat' split
  all_goals simp

@[simp] theorem linkDone_memWf (s : State) (r : Nat) : (linkDone s r).MemWf ↔ s.MemWf := by
  simp only [linkDone]
  repeat' split
  all_goals simp

@[simp] theorem alert_memWf (s : State) (i : Nat) : (alert s i).MemWf ↔ s.MemWf := by simp [alert]

@[simp] theorem readyLow_memWf (s : State) : (readyLow s).MemWf ↔ s.MemWf := by simp [readyLow]

@[simp] theorem regionsOff_memWf {s : State} (hw : s.MemWf) : (regionsOff s).MemWf := ⟨rfl, hw.cores, hw.slices⟩

@[simp] theorem fenceAll_memWf {s : State} (hw : s.MemWf) : (fenceAll s).MemWf :=
  memWf_foldl _ (fun _ p h => fenceCores_memWf h p EXT_FENCE _) _ _ hw

@[simp] theorem safeStop_memWf {s : State} (hw : s.MemWf) (source : Nat) : (safeStop s source).MemWf := by
  unfold safeStop
  split
  · exact hw
  · extract_lets s1 s2 s3
    have h1 : s1.MemWf := (alert_memWf ..).mpr ((readyLow_memWf ..).mpr hw)
    have h2 : s2.MemWf := (logFrom_memWf ..).mpr (fenceAll_memWf h1)
    clear_value s2
    have h3 : s3.MemWf := regionsOff_memWf (s := { s2 with slices := [] }) ⟨h2.tiers, h2.cores, SlicesWf.nil⟩
    clear_value s3
    exact ⟨h3.tiers, h3.cores, h3.slices⟩

@[simp] theorem envStatus_memWf (s : State) (b : Word) : (envStatus s b).MemWf ↔ s.MemWf := by simp [envStatus]

@[simp] theorem envRefuse_memWf (s : State) : (envRefuse s).MemWf ↔ s.MemWf := by simp [envRefuse]

@[simp] theorem segCfgWrite_memWf (s : State) (fn : Nat) (v : Word) : (segCfgWrite s fn v).MemWf ↔ s.MemWf := by simp [segCfgWrite]

@[simp] theorem segDataWrite_memWf (s : State) (fn : Nat) (v : Word) : (segDataWrite s fn v).MemWf ↔ s.MemWf := by simp [segDataWrite]

@[simp] theorem writeSeg_memWf (s : State) (fn slot : Nat) : (writeSeg s fn slot).MemWf ↔ s.MemWf := by
  simp only [writeSeg]
  repeat' split
  all_goals simp

@[simp] theorem clearSeg_memWf (s : State) (slot : Nat) : (clearSeg s slot).MemWf ↔ s.MemWf := by
  simp only [clearSeg]
  repeat' split
  all_goals simp

@[simp] theorem clearAll_memWf (s : State) : (clearAll s).MemWf ↔ s.MemWf := by simp [clearAll]

@[simp] theorem envCmd_memWf (s : State) (fn : Nat) (v : Word) : (envCmd s fn v).MemWf ↔ s.MemWf := by
  simp only [envCmd]
  repeat' split
  all_goals simp

@[simp] theorem envCtrlWrite_memWf (s : State) (v : Word) : (envCtrlWrite s v).MemWf ↔ s.MemWf := by simp [envCtrlWrite]

@[simp] theorem envFreeze_memWf (s : State) : (envFreeze s).MemWf ↔ s.MemWf := by simp [envFreeze]

@[simp] theorem retireSegs_memWf (s : State) (t : Nat) : (retireSegs s t).MemWf ↔ s.MemWf := by
  simp only [retireSegs]
  repeat' split
  all_goals simp

@[simp] theorem envMove_memWf (s : State) (t : Nat) : (envMove s t).MemWf ↔ s.MemWf := by
  simp only [envMove]
  repeat' split
  all_goals simp

@[simp] theorem envBoundary_memWf (s : State) (t : Nat) : (envBoundary s t).MemWf ↔ s.MemWf := by simp [envBoundary]

@[simp] theorem envThaw_memWf (s : State) : (envThaw s).MemWf ↔ s.MemWf := by simp [envThaw]

@[simp] theorem overOne_memWf {s : State} (hw : s.MemWf) (r : Nat) (rail : Rail) : (overOne s r rail).MemWf := by simp [overOne, hw]

@[simp] theorem overcurrents_memWf {s : State} (hw : s.MemWf) (now : List (Sys2Proof.Region × Rail)) : (overcurrents s now).MemWf := by
  have h : ((overRails s now).foldl (fun s e => overOne s e.1 e.2) s).MemWf := memWf_foldl _ (fun s e h => overOne_memWf h _ _) _ _ hw
  simp [overcurrents, h]

@[simp] theorem suspectOne_memWf (s : State) (r : Nat) (now : List Nat) : (suspectOne s r now).MemWf ↔ s.MemWf := by
  simp only [suspectOne]
  repeat' split
  all_goals simp

@[simp] theorem suspects_memWf (s : State) (now : List LowSensor) : (suspects s now).MemWf ↔ s.MemWf := by simp [suspects, memWf_iff_foldl]

@[simp] theorem bankRetired_memWf {s : State} (hw : s.MemWf) (c : CoreId) (stack : Bool) (bank : Nat) :
    (bankRetired s c stack bank).MemWf := by
  simp [bankRetired, hw]

@[simp] theorem shedZone_memWf {s : State} (hw : s.MemWf) (z : Nat) : (shedZone s z).MemWf := by
  unfold shedZone
  split
  · exact hw
  · refine memWf_foldl _ (fun s r h => ?_) _ _ hw
    split
    · exact regionLost_memWf h _ _
    · exact h

@[simp] theorem stepFaults_memWf {s : State} (hw : s.MemWf) (i : CycleIn) : (stepFaults s i).MemWf := by
  unfold stepFaults
  extract_lets s1 s2 s3 s4 s5 s6
  have h1 : s1.MemWf := memWf_foldl shedZone (fun _ z h => shedZone_memWf h z) _ _ ((actOnNotes_memWf ..).mpr hw)
  have h2 : s2.MemWf := memWf_foldl _ (fun _ e h => regionLost_memWf h _ _) _ _ h1
  have h4 : s4.MemWf := (suspects_memWf ..).mpr ((actOnNotes_memWf ..).mpr (overcurrents_memWf h2 _))
  have h5 : s5.MemWf := memWf_foldl _ (fun _ n h => stackLose_memWf h _) _ _ h4
  have h6 : s6.MemWf := (memWf_iff_foldl _ (fun _ _ => ctlLose_memWf ..) _ _).mpr h5
  exact memWf_foldl _ (fun _ b h => bankRetired_memWf h _ _ _) _ _ h6

@[simp] theorem floorBound_memWf (s : State) (p : Nat) : (floorBound s p).MemWf ↔ s.MemWf := by simp [floorBound]

@[simp] theorem belowFloor_memWf (s : State) (h : Nat) : (belowFloor s h).MemWf ↔ s.MemWf := by simp [belowFloor]

@[simp] theorem coolHalf_memWf (s0 s : State) (r fall : Nat) : (coolHalf s0 s r fall).MemWf ↔ s.MemWf := by simp [coolHalf]

@[simp] theorem coolRegion_memWf (s0 s : State) (r : Nat) : (coolRegion s0 s r).MemWf ↔ s.MemWf := by simp [coolRegion]

@[simp] theorem thermalReport_memWf (s : State) (r : Nat) : (thermalReport s r).MemWf ↔ s.MemWf := by simp [thermalReport]

@[simp] theorem thermalOne_memWf (s0 s : State) (r : Nat) : (thermalOne s0 s r).MemWf ↔ s.MemWf := by simp [thermalOne]

@[simp] theorem thermalTrip_memWf {s : State} (hw : s.MemWf) (r : Nat) (tenths : Word) : (thermalTrip s r tenths).MemWf := by
  simp [thermalTrip, hw]

@[simp] theorem stepThermal_memWf (s0 : State) {s : State} (hw : s.MemWf) : (stepThermal s0 s).MemWf := by
  unfold stepThermal
  extract_lets s1
  have h1 : s1.MemWf := (memWf_iff_foldl _ (fun _ _ => thermalOne_memWf ..) _ _).mpr hw
  split
  · exact thermalTrip_memWf h1 _ _
  · exact h1

@[simp] theorem addMs_memWf (s : State) (i : CycleIn) : (addMs s i).MemWf ↔ s.MemWf := by simp [addMs]

@[simp] theorem stepEnvelope_memWf (s : State) (i : CycleIn) (t : Nat) : (stepEnvelope s i t).MemWf ↔ s.MemWf := by
  simp [stepEnvelope, memWf_iff_foldl]

@[simp] theorem parkOne_memWf (s : State) (lever : List HalfField) (h : Nat) : (parkOne s lever h).MemWf ↔ s.MemWf := by simp [parkOne]

@[simp] theorem unparkOne_memWf (s : State) (lever : List HalfField) (wake : List Nat) (h : Nat) :
    (unparkOne s lever wake h).MemWf ↔ s.MemWf := by simp [unparkOne]

@[simp] theorem takeWake_memWf (s : State) (p : Nat) : (takeWake s p).MemWf ↔ s.MemWf := by simp [takeWake]

@[simp] theorem stepParking_memWf (s : State) (i : CycleIn) : (stepParking s i).MemWf ↔ s.MemWf := by simp [stepParking, memWf_iff_foldl]

@[simp] theorem writePoint_memWf (s0 : State) (i : CycleIn) (s : State) (q : SetPoint) : (writePoint s0 i s q).MemWf ↔ s.MemWf := by
  simp [writePoint]

@[simp] theorem capSuspect_memWf (s0 s : State) (r : Nat) : (capSuspect s0 s r).MemWf ↔ s.MemWf := by simp [capSuspect]

@[simp] theorem raiseLogic_memWf (s0 s : State) (r goal : Nat) : (raiseLogic s0 s r goal).MemWf ↔ s.MemWf := by simp [raiseLogic]

@[simp] theorem liftFloor_memWf (s0 s : State) (h : Nat) : (liftFloor s0 s h).MemWf ↔ s.MemWf := by simp [liftFloor]

@[simp] theorem holdRun_memWf (s0 s : State) (h : Nat) : (holdRun s0 s h).MemWf ↔ s.MemWf := by simp [holdRun]

@[simp] theorem writeLink_memWf (i : CycleIn) (s : State) (e : Sys2Proof.Region × LinkReq) : (writeLink i s e).MemWf ↔ s.MemWf := by
  simp only [writeLink]
  repeat' split
  all_goals simp

@[simp] theorem powerOne_memWf (s : State) (h : Nat) : (powerOne s h).MemWf ↔ s.MemWf := by simp [powerOne]

@[simp] theorem startRun_memWf (s : State) (h : Nat) : (startRun s h).MemWf ↔ s.MemWf := by simp [startRun]

@[simp] theorem sliceOne_memWf (s : State) (n h : Nat) : (sliceOne s n h).1.MemWf ↔ s.MemWf := by
  simp only [sliceOne]
  repeat' split
  all_goals simp

@[simp] theorem stepSlices_memWf (s : State) : (stepSlices s).MemWf ↔ s.MemWf := by
  unfold stepSlices
  split
  · exact memWf_iff_foldl_fst _ (fun _ _ => by simp) _ _
  · rfl

@[simp] theorem stepWrites_memWf (s0 s : State) (i : CycleIn) : (stepWrites s0 s i).MemWf ↔ s.MemWf := by simp [stepWrites, memWf_iff_foldl]

@[simp] theorem answerMbx_memWf (s : State) (fn : Nat) (code : Word) : (answerMbx s fn code).MemWf ↔ s.MemWf := by simp [answerMbx]

@[simp] theorem answerWake_memWf (s : State) (fn : Nat) (hs : List Nat) : (answerWake s fn hs).MemWf ↔ s.MemWf := by simp [answerWake]

@[simp] theorem serveMbx_memWf (s : State) (e : Nat × Mbx) : (serveMbx s e).MemWf ↔ s.MemWf := by simp [serveMbx]

@[simp] theorem stepMailbox_memWf (s : State) : (stepMailbox s).MemWf ↔ s.MemWf := by simp [stepMailbox, memWf_iff_foldl]

@[simp] theorem beginCycle_memWf (s : State) (i : CycleIn) : (beginCycle s i).MemWf ↔ s.MemWf := by simp [beginCycle]

@[simp] theorem beat_memWf (s : State) : (beat s).MemWf ↔ s.MemWf := by simp [beat]

@[simp] theorem cycle_memWf {s : State} (hw : s.MemWf) (i : CycleIn) : (cycle s i).MemWf := by simp [cycle, hw]

@[simp] theorem State.setFnBuf_memWf (s : State) (fn : Nat) (b : FnBuf) : (State.setFnBuf s fn b).MemWf ↔ s.MemWf := by
  simp [State.setFnBuf]

@[simp] theorem holdLow_memWf (s : State) (fn off : Nat) (w : Word) : (holdLow s fn off w).MemWf ↔ s.MemWf := by simp [holdLow]

@[simp] theorem takeHeld_memWf (s : State) (fn off : Nat) (cur : Word) : (takeHeld s fn off cur).2.MemWf ↔ s.MemWf := by
  simp only [takeHeld]
  repeat' split
  all_goals simp

@[simp] theorem postMbx_memWf (s : State) (fn op : Nat) : (postMbx s fn op).MemWf ↔ s.MemWf := by simp [postMbx]

@[simp] theorem passToken_memWf (s : State) : (passToken s).MemWf ↔ s.MemWf := by simp [passToken]

@[simp] theorem takeover_memWf (s : State) (why : TakeoverWhy) : (takeover s why).MemWf ↔ s.MemWf := by simp [takeover]

@[simp] theorem logStore_memWf (s : State) (e : BitVec 64 × List Word) : (logStore s e).MemWf ↔ s.MemWf := by simp [logStore]

@[simp] theorem logFetch_memWf (s : State) (fn : Nat) (hi : Word) : (logFetch s fn hi).MemWf ↔ s.MemWf := by simp [logFetch]

@[simp] theorem recordTest_memWf (s : State) (nb : List NeighbourReport) (fs : List Finding) : (recordTest s nb fs).MemWf ↔ s.MemWf := by
  simp [recordTest, memWf_iff_foldl]

@[simp] theorem dropRecords_memWf (s : State) (kinds : List (BitVec 4)) (loc : Nat) : (dropRecords s kinds loc).MemWf ↔ s.MemWf := by
  simp [dropRecords]

@[simp] theorem newIdent_memWf (s : State) (h : Nat) : (newIdent s h).MemWf ↔ s.MemWf := by simp [newIdent]

@[simp] theorem newIncarnation_memWf (s : State) : (newIncarnation s).MemWf ↔ s.MemWf := by simp [newIncarnation, memWf_iff_foldl]

@[simp] theorem testRefuse_memWf (s : State) : (testRefuse s).MemWf ↔ s.MemWf := by simp [testRefuse]

@[simp] theorem bistCmd_memWf {s : State} (hw : s.MemWf) (h : Nat) (links : Bool) : (bistCmd s h links).MemWf := by simp [bistCmd, hw]

@[simp] theorem repairCmd_memWf (s : State) (h : Nat) : (repairCmd s h).MemWf ↔ s.MemWf := by simp [repairCmd]

@[simp] theorem unitCmd_memWf (s : State) (u : Nat) : (unitCmd s u).MemWf ↔ s.MemWf := by simp [unitCmd]

@[simp] theorem reinitHalf_memWf {s : State} (hw : s.MemWf) (h : Nat) : (reinitHalf s h).MemWf := by
  have hf := freshCores_memWf hw [h]
  unfold reinitHalf
  dsimp only
  split
  · exact ⟨hf.tiers, hf.cores, hf.slices.drop _⟩
  · exact hf

@[simp] theorem abortTest_memWf {s : State} (hw : s.MemWf) (u : Nat) : (abortTest s u).MemWf := by simp [abortTest, hw]

@[simp] theorem testCmdWrite_memWf {s : State} (hw : s.MemWf) (v : Word) : (testCmdWrite s v).MemWf := by
  simp only [testCmdWrite]
  repeat' split
  all_goals simp [hw]

@[simp] theorem bistRunStart_memWf (s : State) (h : Nat) : (bistRunStart s h).MemWf ↔ s.MemWf := by simp [bistRunStart]

@[simp] theorem bistSliceDone_memWf (s : State) (h : Nat) : (bistSliceDone s h).MemWf ↔ s.MemWf := by simp [bistSliceDone]

@[simp] theorem countRun_memWf (s : State) (fail : Bool) : (countRun s fail).MemWf ↔ s.MemWf := by simp [countRun]

@[simp] theorem bistRunDone_memWf {s : State} (hw : s.MemWf) (h : Nat) (t : TestResult) : (bistRunDone s h t).MemWf := by
  simp [bistRunDone, hw]

@[simp] theorem unitOutcome_memWf (s : State) (u : Nat) (ok : Bool) : (unitOutcome s u ok).MemWf ↔ s.MemWf := by simp [unitOutcome]

@[simp] theorem applyPending_memWf (s : State) (h : Nat) : (applyPending s h).MemWf ↔ s.MemWf := by simp [applyPending]

@[simp] theorem repairLife_memWf (s : State) (h : Nat) : (repairLife s h).MemWf ↔ s.MemWf := by simp [repairLife]

@[simp] theorem softFailed_memWf (s : State) (r : Nat) (dom : BitVec 4) : (softFailed s r dom).MemWf ↔ s.MemWf := by simp [softFailed]

@[simp] theorem rejoin_memWf (s : State) (h : Nat) : (rejoin s h).MemWf ↔ s.MemWf := by simp [rejoin]

@[simp] theorem repairDone_memWf {s : State} (hw : s.MemWf) (h : Nat) (t : TestResult) : (repairDone s h t).MemWf := by
  simp [repairDone, hw]

@[simp] theorem recordUp_memWf (s : State) (kind : BitVec 4) (source : BitVec 3) (unit : BitVec 8) (loc : Nat) :
    (recordUp s kind source unit loc).MemWf ↔ s.MemWf := by simp [recordUp]

@[simp] theorem mergeMap_memWf (s : State) (copy : List DefectRec) : (mergeMap s copy).MemWf ↔ s.MemWf := by simp [mergeMap]

@[simp] theorem mapStart_memWf (s : State) (t : PowerUpResult) : (mapStart s t).MemWf ↔ s.MemWf := by simp [mapStart]

@[simp] theorem mapT3_memWf (s : State) (t : PowerUpResult) (map : List DefectRec) : (mapT3 s t map).MemWf ↔ s.MemWf := by
  simp [mapT3, memWf_iff_foldl]

@[simp] theorem regionsUp_memWf (s : State) (t : PowerUpResult) : (regionsUp s t).MemWf ↔ s.MemWf := by simp [regionsUp, memWf_iff_foldl]

@[simp] theorem findsUp_memWf (s : State) (t : PowerUpResult) : (findsUp s t).MemWf ↔ s.MemWf := by simp [findsUp, memWf_iff_foldl]

@[simp] theorem unitUp_memWf (t : PowerUpResult) (s : State) (u : Nat) : (unitUp t s u).MemWf ↔ s.MemWf := by simp [unitUp]

@[simp] theorem gridUp_memWf (s : State) (t : PowerUpResult) : (gridUp s t).MemWf ↔ s.MemWf := by simp [gridUp, memWf_iff_foldl]

@[simp] theorem readyHigh_memWf (s : State) : (readyHigh s).MemWf ↔ s.MemWf := by simp [readyHigh]

@[simp] theorem powerUpTest_memWf {s : State} (hw : s.MemWf) (t : PowerUpResult) : (powerUpTest s t).MemWf := by
  simp [powerUpTest, memWf_foldl, hw]

@[simp] theorem lcRefuse_memWf (s : State) : (lcRefuse s).MemWf ↔ s.MemWf := by simp [lcRefuse]

@[simp] theorem setPin_memWf (s : State) (n : Nat) (p : MfPin) : (setPin s n p).MemWf ↔ s.MemWf := by simp [setPin]

@[simp] theorem switchPin_memWf (s : State) (n f : Nat) : (switchPin s n f).MemWf ↔ s.MemWf := by simp [switchPin]

@[simp] theorem parkUart_memWf (s : State) : (parkUart s).MemWf ↔ s.MemWf := by simp [parkUart, memWf_iff_foldl]

@[simp] theorem secCode_memWf (s : State) (c : Word) : (secCode s c).MemWf ↔ s.MemWf := by simp [secCode]

@[simp] theorem secUnwrap_memWf (s : State) (keyId : Nat) (epkOk icvOk cakZero : Bool) :
    (secUnwrap s keyId epkOk icvOk cakZero).MemWf ↔ s.MemWf := by simp [secUnwrap]

@[simp] theorem secDelete_memWf (s : State) (keyId : Nat) : (secDelete s keyId).MemWf ↔ s.MemWf := by simp [secDelete]

@[simp] theorem secCmdWrite_memWf (s : State) (v : Word) : (secCmdWrite s v).MemWf ↔ s.MemWf := by
  simp only [secCmdWrite]
  repeat' split
  all_goals simp

@[simp] theorem sendMctp_memWf (s : State) (via : Via) (ws : List Word) : (sendMctp s via ws).MemWf ↔ s.MemWf := by simp [sendMctp]

@[simp] theorem spdmError_memWf (s : State) (via : Via) (code data : Nat) : (spdmError s via code data).MemWf ↔ s.MemWf := by
  simp [spdmError]

theorem spdm_memWf {s : State} (hw : s.MemWf) (via : Via) {f : State → State} (h : (f s).MemWf) : (spdm s via f).MemWf := by
  simp [spdm, h, hw]

@[simp] theorem spdmAnswer_memWf (s : State) (via : Via) (code idx : Nat) (nonce : BitVec 256) (body : List Word) :
    (spdmAnswer s via code idx nonce body).MemWf ↔ s.MemWf := by simp [spdmAnswer]

@[simp] theorem errRingCtrl_memWf (s : State) (fn : Nat) (v : Word) : (errRingCtrl s fn v).MemWf ↔ s.MemWf := by simp [errRingCtrl]

@[simp] theorem modRst_memWf {s : State} (hw : s.MemWf) (level : Bool) : (modRst s level).MemWf := by simp [modRst, hw]

@[simp] theorem allPowerLost_memWf {s : State} (hw : s.MemWf) : (allPowerLost s).MemWf := by simp [allPowerLost, hw]

@[simp] theorem busRange_memWf {s : State} (hw : s.MemWf) (mv : Nat) : (busRange s mv).MemWf := by simp [busRange, hw]

@[simp] theorem leakStop_memWf {s : State} (hw : s.MemWf) : (leakStop s).MemWf := by simp [leakStop, hw]

@[simp] theorem coolantSample_memWf {s : State} (hw : s.MemWf) (inlet outlet flow : Nat) (wet : Bool) :
    (coolantSample s inlet outlet flow wet).MemWf := by simp [coolantSample, hw]

@[simp] theorem presetAtStart_memWf (s old : State) : (presetAtStart s old).MemWf ↔ s.MemWf := by simp [presetAtStart]

@[simp] theorem abortQueues_memWf {s : State} (hw : s.MemWf) : (abortQueues s).MemWf := by
  refine memWf_foldl _ (fun s p h => ?_) _ _ hw
  exact memWf_foldl _ (fun _ q h => stopQueue_memWf h p q) _ _ h

@[simp] theorem orderlyStop_memWf {s : State} (hw : s.MemWf) : (orderlyStop s).MemWf := by
  unfold orderlyStop
  split
  · exact hw
  · extract_lets s1 s2 q tamb s3 s4
    have h2 : s2.MemWf := abortQueues_memWf (abortStrikes_memWf (fenceAll_memWf ((readyLow_memWf ..).mpr hw)) _ _)
    clear_value s2
    have h3 : s3.MemWf := (memWf_iff_foldl _ (fun _ _ => logStore_memWf ..) _ _).mpr (show State.MemWf { s2 with tamb :=
  _ } from ⟨h2.tiers, h2.cores, h2.slices⟩)
    clear_value s3
    have h4 : s4.MemWf := regionsOff_memWf h3
    clear_value s4
    exact ⟨h4.tiers, h4.cores, h4.slices⟩

@[simp] theorem setPps_memWf (s : State) (v : Bool) : (setPps s v).MemWf ↔ s.MemWf := by simp [setPps]

@[simp] theorem transceiver_memWf (s : State) (n : Nat) (ev : CageEvent) : (transceiver s n ev).MemWf ↔ s.MemWf := by
  simp only [transceiver]
  repeat' split
  all_goals simp

@[simp] theorem readReg_memWf (s : State) (rq off : Nat) : (readReg s rq off).2.MemWf ↔ s.MemWf := by
  simp only [readReg]
  repeat' split
  all_goals simp

@[simp] theorem storeReg_memWf (s : State) (fn idx off : Nat) (v : Word) : (storeReg s fn idx off v).MemWf ↔ s.MemWf := by simp [storeReg]

@[simp] theorem plainWrite_memWf (s : State) (rq fn idx off : Nat) (v : Word) : (plainWrite s rq fn idx off v).MemWf ↔ s.MemWf := by
  simp [plainWrite]

@[simp] theorem writeHq_memWf {s : State} (hw : s.MemWf) (p off : Nat) (v : Word) : (writeHq s p off v).MemWf := by
  simp only [writeHq]
  repeat' split
  all_goals simp [hw]

@[simp] theorem writePart_memWf {s : State} (hw : s.MemWf) (off : Nat) (v : Word) : (writePart s off v).MemWf := by
  simp only [writePart]
  repeat' split
  all_goals simp [hw]

@[simp] theorem writeStrm_memWf (s : State) (rq off : Nat) (v : Word) : (writeStrm s rq off v).MemWf ↔ s.MemWf := by simp [writeStrm]

@[simp] theorem writeWp_memWf {s : State} (hw : s.MemWf) (off : Nat) (v : Word) : (writeWp s off v).MemWf := by
  simp only [writeWp]
  repeat' split
  all_goals simp [hw]

@[simp] theorem writeColl_memWf {s : State} (hw : s.MemWf) (p off : Nat) (v : Word) : (writeColl s p off v).MemWf := by
  unfold writeColl
  repeat' split
  all_goals first | exact (chainWrite_memWf s p _ (fun _ => by simp)).mpr hw | simp [hw]

@[simp] theorem writeTier_memWf {s : State} (hw : s.MemWf) (rq off : Nat) (v : Word) : (writeTier s rq off v).MemWf := by
  simp [writeTier, hw]

@[simp] theorem writeWst_memWf (s : State) (rq off : Nat) (v : Word) : (writeWst s rq off v).MemWf ↔ s.MemWf := by
  simp only [writeWst]
  repeat' split
  all_goals simp

@[simp] theorem writeSync_memWf (s : State) (p off : Nat) (v : Word) : (writeSync s p off v).MemWf ↔ s.MemWf := by
  simp only [writeSync]
  repeat' split
  all_goals simp

@[simp] theorem writePwr_memWf (s : State) (rq off : Nat) (v : Word) : (writePwr s rq off v).MemWf ↔ s.MemWf := by
  simp only [writePwr]
  repeat' split
  all_goals simp

@[simp] theorem writeTamb_memWf (s : State) (rq off : Nat) (v : Word) : (writeTamb s rq off v).MemWf ↔ s.MemWf := by
  simp only [writeTamb]
  repeat' split
  all_goals simp

@[simp] theorem writeSec_memWf (s : State) (off : Nat) (v : Word) : (writeSec s off v).MemWf ↔ s.MemWf := by simp [writeSec]

@[simp] theorem writeErr_memWf (s : State) (rq off : Nat) (v : Word) : (writeErr s rq off v).MemWf ↔ s.MemWf := by simp [writeErr]

@[simp] theorem discardCmd_memWf (s : State) : (discardCmd s).MemWf ↔ s.MemWf := by simp [discardCmd]

theorem sbCmd_memWf {s : State} (hw : s.MemWf) (b : Bus) (d : SbData) (n : Nat) {f : List Nat → State} (h : ∀ l, (f l).MemWf) :
    (sbCmd s b d n f).MemWf := by simp [sbCmd, h, hw]

@[simp] theorem mctpDrop_memWf (s : State) : (mctpDrop s).MemWf ↔ s.MemWf := by simp [mctpDrop]

@[simp] theorem setMctpQ_memWf (s : State) (b : Bus) (q : List MctpTx) : (setMctpQ s b q).MemWf ↔ s.MemWf := by simp [setMctpQ]

@[simp] theorem pinSwitch_memWf (s : State) (n f : Nat) : (pinSwitch s n f).MemWf ↔ s.MemWf := by
  unfold pinSwitch
  repeat' split
  all_goals simp

end Sys2Proof.Machine
end

section
/-! PROOFS. What every command leaves alone: the queue, the life-cycle state, the grade and the baseline; and canonical memories. -/

namespace Sys2Proof.Machine

/-! ## What no command touches -/

/-- An answer keeps the queue, the life-cycle state, the grade and the baseline, and leaves canonical memories canonical. -/
def Keeps (s : State) (r : Res) : Prop := ∀ t, r = .next t → t.kept = s.kept ∧ (s.MemWf → t.MemWf)

theorem keeps_next {s t : State} (hk : t.kept = s.kept) (hm : s.MemWf → t.MemWf) : Keeps s (.next t) := fun u hu => by
  cases hu
  exact ⟨hk, hm⟩

/-- An instruction whose work leaves the core's memory canonical keeps what every command keeps. -/
theorem keeps_issue {c : CoreId} {i : Instr} {s : State} {f : Core → Issued} (hf : ∀ k, Memory.wf k.mem = true → (f k).MemWf) :
    Keeps s (.next (issue c i s f)) := by
  exact keeps_next (issue_kept c i s f) fun hw => issue_memWf hw c i hf

section
variable {k : Core} (hk : Memory.wf k.mem = true)
include hk

@[simp] theorem alu2_memWf (f : Word → Word → Word) (rd rs1 rs2 : Fin 32) : (alu2 f rd rs1 rs2 k).MemWf := by simp [alu2, hk]

@[simp] theorem alu1_memWf (f : Word → Word) (rd rs1 : Fin 32) : (alu1 f rd rs1 k).MemWf := by simp [alu1, hk]

@[simp] theorem vec1_memWf (f : LaneTy → Nat → Nat) (ty : LaneTy) (pg : Fin 8) (vd va : Fin 16) : (vec1 f ty pg vd va k).MemWf := by
  simp [vec1, hk]

@[simp] theorem vec2_memWf (f : LaneTy → Nat → Nat → Nat) (ty : LaneTy) (pg : Fin 8) (vd va vb : Fin 16) :
    (vec2 f ty pg vd va vb k).MemWf := by
  simp [vec2, hk]

@[simp] theorem vcmp_memWf (f : FV → FV → Bool) (g : Int → Int → Bool) (ty : LaneTy) (pg pd : Fin 8) (va vb : Fin 16) :
    (vcmp f g ty pg pd va vb k).MemWf := by simp [vcmp, hk]

@[simp] theorem vecRed_memWf (f : LaneTy → Word → VReg → Nat) (ty : LaneTy) (pg : Fin 8) (vd va : Fin 16) :
    (vecRed f ty pg vd va k).MemWf := by
  simp [vecRed, hk]

@[simp] theorem loadOp_memWf (s : State) (key n : Nat) (f : Nat → Word) (rt : Fin 32) (ab : Fin 8) (post : Bool) (imm : BitVec 16) :
    (loadOp s key n f rt ab post imm k).MemWf := by
  have hm (t : Nat) (w : PWord) : Memory.wf (((k.consume t).setS rt w).bump ab post (sext16 imm)).mem = true := by simp [hk]
  unfold loadOp
  extract_lets a m t
  generalize a - 0x31000 = o
  clear_value a m t
  repeat' split
  · trivial
  · trivial
  · trivial
  · trivial
  · trivial
  · next h =>
    have he := ctlLoad_mem s key k o
    rw [h] at he
    show Memory.wf (Core.bump _ _ _ _).mem = true
    rw [Core.bump_mem, Core.setS_mem, he]
    exact hk
  · exact hm _ _

@[simp] theorem branch_memWf (f : Word → Word → Bool) (rs1 rs2 : Fin 32) (off : BitVec 16) : (branch f rs1 rs2 off k).MemWf := by
  simp [branch, hk]

@[simp] theorem tapWait_memWf (t : Fin 64) (clear : Bool) (next : Word) : (tapWait k t clear next).MemWf := by
  unfold tapWait
  repeat' split
  all_goals simp [hk]

@[simp] theorem takeStatus_memWf (failed : Bool) (lane : Fin 64) (rd : Fin 32) : (takeStatus k failed lane rd).MemWf := by
  simp [takeStatus, hk]

@[simp] theorem statWait_memWf (d : VReg) (hi : Bool) (w : Word) : (statWait d hi w k).MemWf := by simp [statWait, hk]

theorem Core.queue_memWf (o : Outbound) {f : Core → Issued} (hf : ∀ k : Core, Memory.wf k.mem = true → (f k).MemWf) :
    (k.queue o f).MemWf := by
  unfold Core.queue
  split
  · exact hk
  · exact hf _ hk

theorem arrive_memWf (s : State) (key : Nat) (lane : Fin 64) {f : Core → Issued} (hf : ∀ k : Core, Memory.wf k.mem = true → (f k).MemWf) :
    (arrive s key lane k f).MemWf := by
  unfold arrive
  repeat' split
  · trivial
  · trivial
  · exact Core.queue_memWf hk _ fun k h => hf _ (by simpa using h)

theorem postWatch_memWf (s : State) (c : CoreId) (route : BitVec 8) (chime : BitVec 16) (tap : Fin 64) (rs : Fin 32) {f : Core → Issued}
    (hf : ∀ k : Core, Memory.wf k.mem = true → (f k).MemWf) : (postWatch s c route chime tap rs k f).MemWf := by
  unfold postWatch
  repeat' split
  · trivial
  · trivial
  · trivial
  · exact Core.queue_memWf hk _ fun k h => hf _ (by simpa using h)

omit hk in
theorem winOp_memWf (s : State) (key : Nat) (dn : Fin 16) (out : Bool) (rs : Option (Fin 32)) {f : VReg → Word → Issued}
    (hf : ∀ d w, (f d w).MemWf) : (winOp s key dn out rs k f).MemWf := by
  unfold winOp
  dsimp only
  repeat' split
  all_goals simp [hf]

@[simp] theorem sendOp_memWf (s : State) (c : CoreId) (peal : Bool) (route : BitVec 8) (as1 : Fin 8) (tap : Fin 64) (t : Bool)
    (count : BitVec 14) (daddr : BitVec 18) : (sendOp s c peal route as1 tap t count daddr k).MemWf := by
  unfold sendOp
  dsimp only
  repeat' split
  all_goals first | trivial | exact Core.queue_memWf hk _ fun _ h => h

theorem puReport_memWf (s : State) (key : Nat) (w : Word) {o : Option Core} (h : puReport s key w k = .ok o) {k' : Core} (hk' : o = some k') :
    Memory.wf k'.mem = true := by
  subst hk'
  unfold puReport at h
  dsimp only at h
  split at h
  · cases h
  · split at h
    · cases h
    · split at h
      · cases h
      · split at h
        · cases h
        · injection h with h
          injection h with h
          rw [← h]
          split <;> simp [hk]

@[simp] theorem storeOp_memWf (s : State) (key n : Nat) (rt : Fin 32) (ab : Fin 8) (post : Bool) (imm : BitVec 16) :
    (storeOp s key n rt ab post imm k).MemWf := by
  have hb (k' : Core) (h : Memory.wf k'.mem = true) : Memory.wf (k'.bump ab post (sext16 imm)).mem = true := by simpa using h
  have hc (o : Nat) (w : Word) : Memory.wf (ctlStore s key k o w).mem = true := by simpa using hk
  unfold storeOp
  extract_lets a w o k1 k2
  have h1 : Memory.wf k1.mem = true := hb _ (hc _ _)
  have h2 : Memory.wf k2.mem = true := by simpa [k2] using hk
  clear_value a w o
  repeat' split
  case h_3 h => exact hb _ (puReport_memWf hk s key _ h rfl)
  case h_2.isFalse.isFalse.isFalse.isFalse.isFalse.isTrue => exact h1
  case h_2.isFalse.isFalse.isFalse.isFalse.isFalse.isFalse => exact h1
  case h_3.isFalse.isTrue => exact hb _ (Core.setMemWord_memWf h2 _ _)
  case h_3.isFalse.isFalse => exact hb _ (Core.setSub_memWf h2 _ _ _)
  all_goals trivial

theorem Core.mmPlace_memWf {j : MmJob} {k' : Core} (h : k.mmPlace j = some k') : Memory.wf k'.mem = true := by
  unfold Core.mmPlace at h
  split at h <;> split at h <;> cases h <;> exact hk

@[simp] theorem mmIssue_memWf (acc : Fin 4) (da db : Fin 16) (e z o : Bool) : (mmIssue acc da db e z o k).MemWf := by
  unfold mmIssue
  extract_lets a b job put a'
  have hput (j : MmJob) (k' : Core) (h : Memory.wf k'.mem = true) : (put j k').MemWf := by
    simp only [put]
    split
    · trivial
    · next hs => exact Core.mmPlace_memWf h hs
  have hl := k.fbLookup_mem (dTile b) z
  clear_value put
  split
  · exact hput _ _ hk
  · split
    · trivial
    · split
      next he =>
        rw [he] at hl
        have hk' := hl ▸ hk
        split
        · exact hput _ _ hk'
        · split
          · trivial
          · exact hput _ _ (by simpa using hk')

@[simp] theorem waitEnd_memWf (s : State) (key : Nat) (w : WaitCond) {r : Issued} (h : waitEnd s key k w = some r) : r.MemWf := by
  cases w <;> simp only [waitEnd] at h <;> split at h <;> simp only [Option.some.injEq, reduceCtorEq] at h <;> subst h
  · trivial
  · split <;> simp [hk]
  · simp [hk]
  · exact hk

end

/-- A control frame taken by a handler that keeps what every command keeps. -/
theorem keeps_takeCtl {s : State} {n type : Nat} {f : State → RxFrame → State} (hk : ∀ s r, (f s r).kept = s.kept)
    (hm : ∀ s r, s.MemWf → (f s r).MemWf) : Keeps s (.next (takeCtl s n type f)) :=
  keeps_next (takeCtl_kept s n type f hk) fun hw => takeCtl_memWf hw n type hm

/-- A stream packet taken by a handler that keeps what every command keeps. -/
theorem keeps_streamPacket {s : State} {e op : Nat} {f : State → Nat → Nat → Word → Packet → State}
    (hk : ∀ s a b w p, (f s a b w p).kept = s.kept) (hm : ∀ s a b w p, (f s a b w p).MemWf ↔ s.MemWf) :
    Keeps s (.next (streamPacket s e op f)) :=
  keeps_next (streamPacket_kept s e op f hk) fun hw => by
    unfold streamPacket
    split
    · exact hw
    · next p _ _ =>
      have h0 : (sendAck (popEngine s e) p none).MemWf := by simp [hw]
      have hl : (engineLoss s e p).MemWf := engineLoss_memWf hw ..
      dsimp only
      repeat' split
      all_goals simp [hm, hw, h0, hl]

/-- A host command started by work that keeps what every command keeps. -/
theorem keeps_startCmd {s : State} {p : Vf} {q : Fin 8} {op : Nat} {f : State → Nat → HCmd → State}
    (hk : ∀ s n c, (f s n c).kept = s.kept) (hm : ∀ s n c, s.MemWf → (f s n c).MemWf) : Keeps s (.next (startCmd s p q op f)) :=
  keeps_next (startCmd_kept s p q op f hk) fun hw => startCmd_memWf hw p q op hm

/-- A partition command whose work keeps what every command keeps. -/
theorem keeps_partOp {s : State} {f : State → Nat → State} (hk : ∀ s n, (f s n).kept = s.kept) (hm : ∀ n, s.MemWf → (f s n).MemWf) :
    Keeps s (.next (partOp s f)) :=
  keeps_next (partOp_kept s f hk) fun hw => partOp_memWf hw fun n => hm n hw

/-- An SPDM request whose answer keeps what every command keeps. -/
theorem keeps_spdm {s : State} {via : Via} {f : State → State} (hk : ∀ s, (f s).kept = s.kept) (hm : ∀ s, (f s).MemWf ↔ s.MemWf) :
    Keeps s (.next (spdm s via f)) :=
  keeps_next (spdm_kept s via f hk) fun hw => spdm_memWf hw via ((hm s).mpr hw)

/-- An SMBus command whose work keeps what every command keeps. -/
theorem keeps_sbCmd {s : State} {b : Bus} {d : SbData} {n : Nat} {f : List Nat → State} (hk : ∀ l, (f l).kept = s.kept)
    (hm : ∀ l, s.MemWf → (f l).MemWf) : Keeps s (.next (sbCmd s b d n f)) :=
  keeps_next (sbCmd_kept s b d n f hk) fun hw => sbCmd_memWf hw b d n fun l => hm l hw

/-! ## Slices and packets -/

@[simp] theorem Slice.setSlot_sram (x : Slice) (n : Nat) (t : SliceSlot) : (x.setSlot n t).sram = x.sram := rfl

theorem Memory.putWords_wf (ws : List PWord) {m : List Host.Cell} (tg : Tab Bool) (a : Nat) (h : Memory.wf m = true) :
    Memory.wf (Memory.putWords m tg a ws).1 = true := by
  induction ws generalizing m tg a with
  | nil => exact h
  | cons w ws ih => exact ih _ _ (Memory.wf_setWord _ _ _ h)

/-- Refused layer entries leave the memory of a slice canonical. -/
theorem Slice.foldl_refuseSlot_wf (l : List Nat) {x : Slice} (h : Memory.wf x.sram = true) :
    Memory.wf (l.foldl Slice.refuseSlot x).sram = true := by
  induction l generalizing x with
  | nil => exact h
  | cons n l ih =>
    refine ih ?_
    unfold Slice.refuseSlot
    split
    · exact Memory.wf_setWord _ _ _ h
    · exact h

@[simp] theorem Core.dropWatch_mem (k : Core) (t : Option Nat) : (k.dropWatch t).mem = k.mem := by cases t <;> rfl

theorem execAdd_keeps (c : CoreId) (rd rs1 rs2 : Fin 32) (s : State) : Keeps s (execAdd c rd rs1 rs2 s) :=
  keeps_issue fun k hk => by simp [hk]

theorem execSub_keeps (c : CoreId) (rd rs1 rs2 : Fin 32) (s : State) : Keeps s (execSub c rd rs1 rs2 s) :=
  keeps_issue fun k hk => by simp [hk]

theorem execAnd_keeps (c : CoreId) (rd rs1 rs2 : Fin 32) (s : State) : Keeps s (execAnd c rd rs1 rs2 s) :=
  keeps_issue fun k hk => by simp [hk]

theorem execOr_keeps (c : CoreId) (rd rs1 rs2 : Fin 32) (s : State) : Keeps s (execOr c rd rs1 rs2 s) :=
  keeps_issue fun k hk => by simp [hk]

theorem execXor_keeps (c : CoreId) (rd rs1 rs2 : Fin 32) (s : State) : Keeps s (execXor c rd rs1 rs2 s) :=
  keeps_issue fun k hk => by simp [hk]

theorem execSll_keeps (c : CoreId) (rd rs1 rs2 : Fin 32) (s : State) : Keeps s (execSll c rd rs1 rs2 s) :=
  keeps_issue fun k hk => by simp [hk]

theorem execSrl_keeps (c : CoreId) (rd rs1 rs2 : Fin 32) (s : State) : Keeps s (execSrl c rd rs1 rs2 s) :=
  keeps_issue fun k hk => by simp [hk]

theorem execSra_keeps (c : CoreId) (rd rs1 rs2 : Fin 32) (s : State) : Keeps s (execSra c rd rs1 rs2 s) :=
  keeps_issue fun k hk => by simp [hk]

theorem execSlt_keeps (c : CoreId) (rd rs1 rs2 : Fin 32) (s : State) : Keeps s (execSlt c rd rs1 rs2 s) :=
  keeps_issue fun k hk => by simp [hk]

theorem execSltu_keeps (c : CoreId) (rd rs1 rs2 : Fin 32) (s : State) : Keeps s (execSltu c rd rs1 rs2 s) :=
  keeps_issue fun k hk => by simp [hk]

theorem execMin_keeps (c : CoreId) (rd rs1 rs2 : Fin 32) (s : State) : Keeps s (execMin c rd rs1 rs2 s) :=
  keeps_issue fun k hk => by simp [hk]

theorem execMax_keeps (c : CoreId) (rd rs1 rs2 : Fin 32) (s : State) : Keeps s (execMax c rd rs1 rs2 s) :=
  keeps_issue fun k hk => by simp [hk]

theorem execMinu_keeps (c : CoreId) (rd rs1 rs2 : Fin 32) (s : State) : Keeps s (execMinu c rd rs1 rs2 s) :=
  keeps_issue fun k hk => by simp [hk]

theorem execMaxu_keeps (c : CoreId) (rd rs1 rs2 : Fin 32) (s : State) : Keeps s (execMaxu c rd rs1 rs2 s) :=
  keeps_issue fun k hk => by simp [hk]

theorem execClz_keeps (c : CoreId) (rd rs1 : Fin 32) (s : State) : Keeps s (execClz c rd rs1 s) := keeps_issue fun k hk => by simp [hk]

theorem execPopc_keeps (c : CoreId) (rd rs1 : Fin 32) (s : State) : Keeps s (execPopc c rd rs1 s) := keeps_issue fun k hk => by simp [hk]

theorem execMul_keeps (c : CoreId) (rd rs1 rs2 : Fin 32) (s : State) : Keeps s (execMul c rd rs1 rs2 s) :=
  keeps_issue fun k hk => by simp [hk]

theorem execMulh_keeps (c : CoreId) (rd rs1 rs2 : Fin 32) (s : State) : Keeps s (execMulh c rd rs1 rs2 s) :=
  keeps_issue fun k hk => by simp [hk]

theorem execMulhu_keeps (c : CoreId) (rd rs1 rs2 : Fin 32) (s : State) : Keeps s (execMulhu c rd rs1 rs2 s) :=
  keeps_issue fun k hk => by simp [hk]

theorem execDiv_keeps (c : CoreId) (rd rs1 rs2 : Fin 32) (s : State) : Keeps s (execDiv c rd rs1 rs2 s) :=
  keeps_issue fun k hk => by simp [hk]

theorem execDivu_keeps (c : CoreId) (rd rs1 rs2 : Fin 32) (s : State) : Keeps s (execDivu c rd rs1 rs2 s) :=
  keeps_issue fun k hk => by simp [hk]

theorem execRem_keeps (c : CoreId) (rd rs1 rs2 : Fin 32) (s : State) : Keeps s (execRem c rd rs1 rs2 s) :=
  keeps_issue fun k hk => by simp [hk]

theorem execRemu_keeps (c : CoreId) (rd rs1 rs2 : Fin 32) (s : State) : Keeps s (execRemu c rd rs1 rs2 s) :=
  keeps_issue fun k hk => by simp [hk]

theorem execAddi_keeps (c : CoreId) (rd rs1 : Fin 32) (imm : BitVec 16) (s : State) : Keeps s (execAddi c rd rs1 imm s) :=
  keeps_issue fun k hk => by simp [hk]

theorem execAndi_keeps (c : CoreId) (rd rs1 : Fin 32) (imm : BitVec 16) (s : State) : Keeps s (execAndi c rd rs1 imm s) :=
  keeps_issue fun k hk => by simp [hk]

theorem execOri_keeps (c : CoreId) (rd rs1 : Fin 32) (imm : BitVec 16) (s : State) : Keeps s (execOri c rd rs1 imm s) :=
  keeps_issue fun k hk => by simp [hk]

theorem execXori_keeps (c : CoreId) (rd rs1 : Fin 32) (imm : BitVec 16) (s : State) : Keeps s (execXori c rd rs1 imm s) :=
  keeps_issue fun k hk => by simp [hk]

theorem execShifti_keeps (c : CoreId) (rd rs1 : Fin 32) (k : ShiftKind) (amt : Fin 32) (s : State) :
    Keeps s (execShifti c rd rs1 k amt s) :=
  keeps_issue fun k hk => by simp [hk]

theorem execLui_keeps (c : CoreId) (rd : Fin 32) (imm : BitVec 16) (s : State) : Keeps s (execLui c rd imm s) :=
  keeps_issue fun k hk => by simp [hk]

theorem execSlti_keeps (c : CoreId) (rd rs1 : Fin 32) (imm : BitVec 16) (s : State) : Keeps s (execSlti c rd rs1 imm s) :=
  keeps_issue fun k hk => by simp [hk]

theorem execSltiu_keeps (c : CoreId) (rd rs1 : Fin 32) (imm : BitVec 16) (s : State) : Keeps s (execSltiu c rd rs1 imm s) :=
  keeps_issue fun k hk => by simp [hk]

theorem execAmov_keeps (c : CoreId) (ad : Fin 8) (rs1 : Fin 32) (s : State) : Keeps s (execAmov c ad rs1 s) :=
  keeps_issue fun k hk => by simp [hk]

theorem execSmov_keeps (c : CoreId) (rd : Fin 32) (as1 : Fin 8) (s : State) : Keeps s (execSmov c rd as1 s) :=
  keeps_issue fun k hk => by simp [hk]

theorem execAadd_keeps (c : CoreId) (ad as1 : Fin 8) (rs2 : Fin 32) (s : State) : Keeps s (execAadd c ad as1 rs2 s) :=
  keeps_issue fun k hk => by simp [hk]

theorem execAaddi_keeps (c : CoreId) (ad as1 : Fin 8) (imm : BitVec 16) (s : State) : Keeps s (execAaddi c ad as1 imm s) :=
  keeps_issue fun k hk => by simp [hk]

theorem execAli_keeps (c : CoreId) (ad : Fin 8) (imm : BitVec 32) (s : State) : Keeps s (execAli c ad imm s) :=
  keeps_issue fun k hk => by simp [hk]

theorem execLi_keeps (c : CoreId) (rd : Fin 32) (imm : BitVec 32) (s : State) : Keeps s (execLi c rd imm s) :=
  keeps_issue fun k hk => by simp [hk]

theorem execLw_keeps (c : CoreId) (rt : Fin 32) (ab : Fin 8) (post : Bool) (imm : BitVec 16) (s : State) :
    Keeps s (execLw c rt ab post imm s) :=
  keeps_issue fun k hk => by simp [hk]

theorem execLh_keeps (c : CoreId) (rt : Fin 32) (ab : Fin 8) (post : Bool) (imm : BitVec 16) (s : State) :
    Keeps s (execLh c rt ab post imm s) :=
  keeps_issue fun k hk => by simp [hk]

theorem execLhu_keeps (c : CoreId) (rt : Fin 32) (ab : Fin 8) (post : Bool) (imm : BitVec 16) (s : State) :
    Keeps s (execLhu c rt ab post imm s) :=
  keeps_issue fun k hk => by simp [hk]

theorem execLb_keeps (c : CoreId) (rt : Fin 32) (ab : Fin 8) (post : Bool) (imm : BitVec 16) (s : State) :
    Keeps s (execLb c rt ab post imm s) :=
  keeps_issue fun k hk => by simp [hk]

theorem execLbu_keeps (c : CoreId) (rt : Fin 32) (ab : Fin 8) (post : Bool) (imm : BitVec 16) (s : State) :
    Keeps s (execLbu c rt ab post imm s) :=
  keeps_issue fun k hk => by simp [hk]

theorem execSw_keeps (c : CoreId) (rt : Fin 32) (ab : Fin 8) (post : Bool) (imm : BitVec 16) (s : State) :
    Keeps s (execSw c rt ab post imm s) :=
  keeps_issue fun k hk => by simp [hk]

theorem execSh_keeps (c : CoreId) (rt : Fin 32) (ab : Fin 8) (post : Bool) (imm : BitVec 16) (s : State) :
    Keeps s (execSh c rt ab post imm s) :=
  keeps_issue fun k hk => by simp [hk]

theorem execSb_keeps (c : CoreId) (rt : Fin 32) (ab : Fin 8) (post : Bool) (imm : BitVec 16) (s : State) :
    Keeps s (execSb c rt ab post imm s) :=
  keeps_issue fun k hk => by simp [hk]

theorem execVld_keeps (c : CoreId) (vt : Fin 16) (ab pg : Fin 8) (post : Bool) (imm : BitVec 14) (s : State) :
    Keeps s (execVld c vt ab pg post imm s) :=
  keeps_issue fun k hk => by
  dsimp only
  repeat' split
  all_goals simp [hk]

theorem execVst_keeps (c : CoreId) (vt : Fin 16) (ab pg : Fin 8) (post : Bool) (imm : BitVec 14) (s : State) :
    Keeps s (execVst c vt ab pg post imm s) :=
  keeps_issue fun k hk => by
  dsimp only
  repeat' split
  all_goals simp [hk]

theorem execPand_keeps (c : CoreId) (pd ps1 ps2 : Fin 8) (s : State) : Keeps s (execPand c pd ps1 ps2 s) :=
  keeps_issue fun k hk => by simp [hk]

theorem execPor_keeps (c : CoreId) (pd ps1 ps2 : Fin 8) (s : State) : Keeps s (execPor c pd ps1 ps2 s) :=
  keeps_issue fun k hk => by simp [hk]

theorem execPxor_keeps (c : CoreId) (pd ps1 ps2 : Fin 8) (s : State) : Keeps s (execPxor c pd ps1 ps2 s) :=
  keeps_issue fun k hk => by simp [hk]

theorem execPandn_keeps (c : CoreId) (pd ps1 ps2 : Fin 8) (s : State) : Keeps s (execPandn c pd ps1 ps2 s) :=
  keeps_issue fun k hk => by simp [hk]

theorem execPnot_keeps (c : CoreId) (pd ps1 : Fin 8) (s : State) : Keeps s (execPnot c pd ps1 s) := keeps_issue fun k hk => by simp [hk]

theorem execPmovs_keeps (c : CoreId) (pd : Fin 8) (rs1 : Fin 32) (s : State) : Keeps s (execPmovs c pd rs1 s) :=
  keeps_issue fun k hk => by simp [hk]

theorem execSmovp_keeps (c : CoreId) (rd : Fin 32) (ps1 : Fin 8) (s : State) : Keeps s (execSmovp c rd ps1 s) :=
  keeps_issue fun k hk => by simp [hk]

theorem execPcnt_keeps (c : CoreId) (rd : Fin 32) (ps1 : Fin 8) (s : State) : Keeps s (execPcnt c rd ps1 s) :=
  keeps_issue fun k hk => by simp [hk]

theorem execVadd_keeps (c : CoreId) (ty : LaneTy) (pg : Fin 8) (vd va vb : Fin 16) (s : State) : Keeps s (execVadd c ty pg vd va vb s) :=
  keeps_issue fun k hk => by simp [hk]

theorem execVsub_keeps (c : CoreId) (ty : LaneTy) (pg : Fin 8) (vd va vb : Fin 16) (s : State) : Keeps s (execVsub c ty pg vd va vb s) :=
  keeps_issue fun k hk => by simp [hk]

theorem execVmul_keeps (c : CoreId) (ty : LaneTy) (pg : Fin 8) (vd va vb : Fin 16) (s : State) : Keeps s (execVmul c ty pg vd va vb s) :=
  keeps_issue fun k hk => by simp [hk]

theorem execVfma_keeps (c : CoreId) (ty : LaneTy) (pg : Fin 8) (vd va vb : Fin 16) (s : State) : Keeps s (execVfma c ty pg vd va vb s) :=
  keeps_issue fun k hk => by
  dsimp only
  repeat' split
  all_goals simp [hk]

theorem execVmin_keeps (c : CoreId) (ty : LaneTy) (pg : Fin 8) (vd va vb : Fin 16) (s : State) : Keeps s (execVmin c ty pg vd va vb s) :=
  keeps_issue fun k hk => by simp [hk]

theorem execVmax_keeps (c : CoreId) (ty : LaneTy) (pg : Fin 8) (vd va vb : Fin 16) (s : State) : Keeps s (execVmax c ty pg vd va vb s) :=
  keeps_issue fun k hk => by simp [hk]

theorem execVabs_keeps (c : CoreId) (ty : LaneTy) (pg : Fin 8) (vd va : Fin 16) (s : State) : Keeps s (execVabs c ty pg vd va s) :=
  keeps_issue fun k hk => by simp [hk]

theorem execVneg_keeps (c : CoreId) (ty : LaneTy) (pg : Fin 8) (vd va : Fin 16) (s : State) : Keeps s (execVneg c ty pg vd va s) :=
  keeps_issue fun k hk => by simp [hk]

theorem execVand_keeps (c : CoreId) (ty : LaneTy) (pg : Fin 8) (vd va vb : Fin 16) (s : State) : Keeps s (execVand c ty pg vd va vb s) :=
  keeps_issue fun k hk => by simp [hk]

theorem execVor_keeps (c : CoreId) (ty : LaneTy) (pg : Fin 8) (vd va vb : Fin 16) (s : State) : Keeps s (execVor c ty pg vd va vb s) :=
  keeps_issue fun k hk => by simp [hk]

theorem execVxor_keeps (c : CoreId) (ty : LaneTy) (pg : Fin 8) (vd va vb : Fin 16) (s : State) : Keeps s (execVxor c ty pg vd va vb s) :=
  keeps_issue fun k hk => by simp [hk]

theorem execVsll_keeps (c : CoreId) (ty : LaneTy) (pg : Fin 8) (vd va vb : Fin 16) (s : State) : Keeps s (execVsll c ty pg vd va vb s) :=
  keeps_issue fun k hk => by simp [hk]

theorem execVsrl_keeps (c : CoreId) (ty : LaneTy) (pg : Fin 8) (vd va vb : Fin 16) (s : State) : Keeps s (execVsrl c ty pg vd va vb s) :=
  keeps_issue fun k hk => by simp [hk]

theorem execVsra_keeps (c : CoreId) (ty : LaneTy) (pg : Fin 8) (vd va vb : Fin 16) (s : State) : Keeps s (execVsra c ty pg vd va vb s) :=
  keeps_issue fun k hk => by simp [hk]

theorem execVcmpeq_keeps (c : CoreId) (ty : LaneTy) (pg pd : Fin 8) (va vb : Fin 16) (s : State) :
    Keeps s (execVcmpeq c ty pg pd va vb s) :=
  keeps_issue fun k hk => by simp [hk]

theorem execVcmplt_keeps (c : CoreId) (ty : LaneTy) (pg pd : Fin 8) (va vb : Fin 16) (s : State) :
    Keeps s (execVcmplt c ty pg pd va vb s) :=
  keeps_issue fun k hk => by simp [hk]

theorem execVcmple_keeps (c : CoreId) (ty : LaneTy) (pg pd : Fin 8) (va vb : Fin 16) (s : State) :
    Keeps s (execVcmple c ty pg pd va vb s) :=
  keeps_issue fun k hk => by simp [hk]

theorem execVsel_keeps (c : CoreId) (ty : LaneTy) (pg : Fin 8) (vd va vb : Fin 16) (s : State) : Keeps s (execVsel c ty pg vd va vb s) :=
  keeps_issue fun k hk => by
  dsimp only
  all_goals simp [hk]

theorem execVredadd_keeps (c : CoreId) (ty : LaneTy) (pg : Fin 8) (vd va : Fin 16) (s : State) : Keeps s (execVredadd c ty pg vd va s) :=
  keeps_issue fun k hk => by simp [hk]

theorem execVredmax_keeps (c : CoreId) (ty : LaneTy) (pg : Fin 8) (vd va : Fin 16) (s : State) : Keeps s (execVredmax c ty pg vd va s) :=
  keeps_issue fun k hk => by simp [hk]

theorem execVexp2_keeps (c : CoreId) (ty : LaneTy) (pg : Fin 8) (vd va : Fin 16) (s : State) : Keeps s (execVexp2 c ty pg vd va s) :=
  keeps_issue fun k hk => by simp [hk]

theorem execVrcp_keeps (c : CoreId) (ty : LaneTy) (pg : Fin 8) (vd va : Fin 16) (s : State) : Keeps s (execVrcp c ty pg vd va s) :=
  keeps_issue fun k hk => by simp [hk]

theorem execVrsqrt_keeps (c : CoreId) (ty : LaneTy) (pg : Fin 8) (vd va : Fin 16) (s : State) : Keeps s (execVrsqrt c ty pg vd va s) :=
  keeps_issue fun k hk => by simp [hk]

theorem execVbcast_keeps (c : CoreId) (ty : LaneTy) (vd : Fin 16) (rs : Fin 32) (s : State) : Keeps s (execVbcast c ty vd rs s) :=
  keeps_issue fun k hk => by simp [hk]

theorem execVext_keeps (c : CoreId) (ty : LaneTy) (rd : Fin 32) (va : Fin 16) (lane : Fin 32) (s : State) :
    Keeps s (execVext c ty rd va lane s) :=
  keeps_issue fun k hk => by simp [hk]

theorem execVins_keeps (c : CoreId) (ty : LaneTy) (vd : Fin 16) (rs : Fin 32) (lane : Fin 32) (s : State) :
    Keeps s (execVins c ty vd rs lane s) :=
  keeps_issue fun k hk => by
  dsimp only
  all_goals simp [hk]

theorem execVbcasti_keeps (c : CoreId) (ty : LaneTy) (vd : Fin 16) (imm : BitVec 32) (s : State) : Keeps s (execVbcasti c ty vd imm s) :=
  keeps_issue fun k hk => by simp [hk]

theorem execVqscale_keeps (c : CoreId) (wide : Wide) (fmt : NFmt) (vd va vb : Fin 16) (s : State) :
    Keeps s (execVqscale c wide fmt vd va vb s) :=
  keeps_issue fun k hk => by simp [hk]

theorem execVquant_keeps (c : CoreId) (wide : Wide) (fmt : NFmt) (vd va vb : Fin 16) (s : State) :
    Keeps s (execVquant c wide fmt vd va vb s) :=
  keeps_issue fun k hk => by simp [hk]

theorem execVdq_keeps (c : CoreId) (wide : Wide) (fmt : NFmt) (vd va vb : Fin 16) (s : State) : Keeps s (execVdq c wide fmt vd va vb s) :=
  keeps_issue fun k hk => by
  dsimp only
  repeat' split
  all_goals simp [hk]

theorem execVcvt_keeps (c : CoreId) (toBf16 : Bool) (vd va vb : Fin 16) (s : State) : Keeps s (execVcvt c toBf16 vd va vb s) :=
  keeps_issue fun k hk => by
  dsimp only
  repeat' split
  all_goals simp [hk]

theorem execBeq_keeps (c : CoreId) (rs1 rs2 : Fin 32) (off : BitVec 16) (s : State) : Keeps s (execBeq c rs1 rs2 off s) :=
  keeps_issue fun k hk => by simp [hk]

theorem execBne_keeps (c : CoreId) (rs1 rs2 : Fin 32) (off : BitVec 16) (s : State) : Keeps s (execBne c rs1 rs2 off s) :=
  keeps_issue fun k hk => by simp [hk]

theorem execBlt_keeps (c : CoreId) (rs1 rs2 : Fin 32) (off : BitVec 16) (s : State) : Keeps s (execBlt c rs1 rs2 off s) :=
  keeps_issue fun k hk => by simp [hk]

theorem execBge_keeps (c : CoreId) (rs1 rs2 : Fin 32) (off : BitVec 16) (s : State) : Keeps s (execBge c rs1 rs2 off s) :=
  keeps_issue fun k hk => by simp [hk]

theorem execBltu_keeps (c : CoreId) (rs1 rs2 : Fin 32) (off : BitVec 16) (s : State) : Keeps s (execBltu c rs1 rs2 off s) :=
  keeps_issue fun k hk => by simp [hk]

theorem execBgeu_keeps (c : CoreId) (rs1 rs2 : Fin 32) (off : BitVec 16) (s : State) : Keeps s (execBgeu c rs1 rs2 off s) :=
  keeps_issue fun k hk => by simp [hk]

theorem execDbnz_keeps (c : CoreId) (rs1 : Fin 32) (off : BitVec 16) (s : State) : Keeps s (execDbnz c rs1 off s) :=
  keeps_issue fun k hk => by
  dsimp only
  repeat' split
  all_goals simp [hk]

theorem execJal_keeps (c : CoreId) (off : BitVec 26) (s : State) : Keeps s (execJal c off s) := keeps_issue fun k hk => by simp [hk]

theorem execJalr_keeps (c : CoreId) (rd rs1 : Fin 32) (imm : BitVec 16) (s : State) : Keeps s (execJalr c rd rs1 imm s) :=
  keeps_issue fun k hk => by simp [hk]

theorem execJl_keeps (c : CoreId) (dst : Fin 32) (imm : BitVec 32) (s : State) : Keeps s (execJl c dst imm s) :=
  keeps_issue fun k hk => by simp [hk]

theorem execNop_keeps (c : CoreId) (s : State) : Keeps s (execNop c s) := keeps_issue fun k hk => by simp [hk]

theorem execHalt_keeps (c : CoreId) (s : State) : Keeps s (execHalt c s) :=
  keeps_issue fun k hk => by simp [hk]

theorem execFenceL_keeps (c : CoreId) (s : State) : Keeps s (execFenceL c s) :=
  keeps_issue fun k hk => by simp [hk]

theorem execFenceF_keeps (c : CoreId) (s : State) : Keeps s (execFenceF c s) :=
  keeps_issue fun k hk => by simp [hk]

theorem execFence_keeps (c : CoreId) (s : State) : Keeps s (execFence c s) :=
  keeps_issue fun k hk => by simp [hk]

theorem execTrap_keeps (c : CoreId) (code : BitVec 7) (s : State) : Keeps s (execTrap c code s) := keeps_issue fun k hk => by simp [hk]

theorem execFetch_keeps (c : CoreId) (s : State) : Keeps s (execFetch c s) := by
  unfold execFetch
  dsimp only
  repeat' split
  all_goals exact keeps_next (by simp) fun hw => by simp [hw]

theorem execWaitConditionMet_keeps (c : CoreId) (s : State) : Keeps s (execWaitConditionMet c s) := by
  unfold execWaitConditionMet
  extract_lets k
  split
  · split
    · exact keeps_next rfl id
    · next r hr =>
      dsimp only
      refine keeps_next (by simp [finish_kept]) fun hw => ?_
      have hk : ((drawNat s).2.setCore c ((k.count 0x50 ((drawNat s).1 + 1)).count 0x40 ((drawNat s).1 + 1))).MemWf :=
        State.setCore_memWf ((drawNat_memWf ..).mpr hw) c (by simp [k, hw])
      refine finish_memWf hk c _ ?_
      split
      · next hr' => exact waitEnd_memWf (hk.core c) _ _ _ hr'
      · exact waitEnd_memWf (hw.core c) _ _ _ hr
  · exact keeps_next rfl id

theorem execMm_keeps (c : CoreId) (acc : Fin 4) (da db : Fin 16) (e z o : Bool) (s : State) : Keeps s (execMm c acc da db e z o s) :=
  keeps_issue fun k hk => by
  split
  · trivial
  · exact mmIssue_memWf hk ..

theorem execMmStart_keeps (c : CoreId) (sparse : Bool) (s : State) : Keeps s (execMmStart c sparse s) := by
  unfold execMmStart
  dsimp only
  repeat' split
  all_goals exact keeps_next (by simp) fun hw => by simp [hw]

theorem execMmComplete_keeps (c : CoreId) (sparse : Bool) (s : State) : Keeps s (execMmComplete c sparse s) := by
  unfold execMmComplete
  dsimp only
  repeat' split
  all_goals exact keeps_next (by simp) fun hw => by simp [hw]

theorem execAcczero_keeps (c : CoreId) (acc : Fin 4) (s : State) : Keeps s (execAcczero c acc s) := keeps_issue fun k hk => by
  split
  · trivial
  · show Memory.wf (Core.accPut _ _ _ _).mem = true
    rw [Core.accPut_mem]
    exact hk

theorem execAccrd_keeps (c : CoreId) (v : Fin 16) (acc : Fin 4) (row : Fin 16) (half : Bool) (s : State) :
    Keeps s (execAccrd c v acc row half s) :=
  keeps_issue fun k hk => by
  dsimp only
  repeat' split
  all_goals simp [hk]

theorem execAccwr_keeps (c : CoreId) (acc : Fin 4) (row : Fin 16) (half : Bool) (v : Fin 16) (s : State) :
    Keeps s (execAccwr c acc row half v s) :=
  keeps_issue fun k hk => by
  dsimp only
  repeat' split
  all_goals simp [hk]

theorem execAccst_keeps (c : CoreId) (acc : Fin 4) (ab : Fin 8) (post : Bool) (s : State) : Keeps s (execAccst c acc ab post s) :=
  keeps_issue fun k hk => by
  dsimp only
  repeat' split
  all_goals simp [hk]

theorem execAccld_keeps (c : CoreId) (acc : Fin 4) (ab : Fin 8) (post : Bool) (s : State) : Keeps s (execAccld c acc ab post s) :=
  keeps_issue fun k hk => by
  dsimp only
  repeat' split
  all_goals simp [hk]

theorem execDld_keeps (c : CoreId) (dn : Fin 16) (ab : Fin 8) (post : Bool) (s : State) : Keeps s (execDld c dn ab post s) :=
  keeps_issue fun k hk => by
  dsimp only
  repeat' split
  all_goals simp [hk]

theorem execDst_keeps (c : CoreId) (dn : Fin 16) (ab : Fin 8) (post : Bool) (s : State) : Keeps s (execDst c dn ab post s) :=
  keeps_issue fun k hk => by
  dsimp only
  repeat' split
  all_goals simp [hk]

theorem execDmov_keeps (c : CoreId) (dn dm : Fin 16) (s : State) : Keeps s (execDmov c dn dm s) := keeps_issue fun k hk => by
  dsimp only
  repeat' split
  all_goals simp [hk]

theorem execDbase_keeps (c : CoreId) (dn : Fin 16) (rs : Fin 32) (s : State) : Keeps s (execDbase c dn rs s) :=
  keeps_issue fun k hk => by simp [hk]

theorem execDadd_keeps (c : CoreId) (dn : Fin 16) (rs : Fin 32) (s : State) : Keeps s (execDadd c dn rs s) :=
  keeps_issue fun k hk => by simp [hk]

theorem execTset_keeps (c : CoreId) (tap : Fin 64) (s : State) : Keeps s (execTset c tap s) := keeps_issue fun k hk => by simp [hk]

theorem execTclr_keeps (c : CoreId) (tap : Fin 64) (s : State) : Keeps s (execTclr c tap s) := keeps_issue fun k hk => by simp [hk]

theorem execTwait_keeps (c : CoreId) (tap : Fin 64) (s : State) : Keeps s (execTwait c tap s) := keeps_issue fun k hk => by simp [hk]

theorem execTwaitk_keeps (c : CoreId) (tap : Fin 64) (s : State) : Keeps s (execTwaitk c tap s) := keeps_issue fun k hk => by simp [hk]

theorem execTtest_keeps (c : CoreId) (rd : Fin 32) (tap : Fin 64) (s : State) : Keeps s (execTtest c rd tap s) :=
  keeps_issue fun k hk => by simp [hk]

theorem execTrset_keeps (c : CoreId) (route : BitVec 8) (tap : Fin 64) (s : State) : Keeps s (execTrset c route tap s) :=
  keeps_issue fun k hk => by
  split
  · trivial
  · exact Core.queue_memWf hk _ fun _ h => h

theorem execChadd_keeps (c : CoreId) (route : BitVec 8) (chime : BitVec 16) (rs : Fin 32) (s : State) :
    Keeps s (execChadd c route chime rs s) := keeps_issue fun k hk => by
  repeat' split
  · trivial
  · trivial
  · trivial
  · exact Core.queue_memWf hk _ fun _ h => h

theorem execChwatch_keeps (c : CoreId) (route : BitVec 8) (chime : BitVec 16) (tap : Fin 64) (rs : Fin 32) (s : State) :
    Keeps s (execChwatch c route chime tap rs s) :=
  keeps_issue fun _ hk => postWatch_memWf hk s c route chime tap rs fun _ h => h

theorem execChwait_keeps (c : CoreId) (route : BitVec 8) (chime : BitVec 16) (tap : Fin 64) (rs : Fin 32) (s : State) :
    Keeps s (execChwait c route chime tap rs s) :=
  keeps_issue fun _ hk => postWatch_memWf hk s c route chime tap rs fun _ h => tapWait_memWf h ..

theorem execDbarrive_keeps (c : CoreId) (lane : Fin 64) (s : State) : Keeps s (execDbarrive c lane s) := keeps_issue fun k hk => by
  repeat' split
  · trivial
  · exact hk
  · exact arrive_memWf hk _ _ _ fun _ h => h

theorem execDbwait_keeps (c : CoreId) (rd : Fin 32) (lane : Fin 64) (s : State) : Keeps s (execDbwait c rd lane s) :=
  keeps_issue fun k hk => by
  repeat' split
  · trivial
  · exact hk
  · exact takeStatus_memWf hk ..

theorem execDbsync_keeps (c : CoreId) (rd : Fin 32) (lane : Fin 64) (s : State) : Keeps s (execDbsync c rd lane s) :=
  keeps_issue fun k hk => by
  repeat' split
  · trivial
  · exact takeStatus_memWf hk ..
  · exact arrive_memWf hk _ _ _ fun _ h => h

theorem execDbstat_keeps (c : CoreId) (rd : Fin 32) (lane : Fin 64) (s : State) : Keeps s (execDbstat c rd lane s) :=
  keeps_issue fun k hk => by
  dsimp only
  repeat' split
  all_goals simp [hk]

theorem execSattach_keeps (c : CoreId) (dn : Fin 16) (s : State) : Keeps s (execSattach c dn s) := keeps_issue fun k hk => by
  dsimp only
  repeat' split
  · trivial
  · trivial
  · exact Core.queue_memWf hk _ fun _ h => h

theorem execSdetach_keeps (c : CoreId) (dn : Fin 16) (s : State) : Keeps s (execSdetach c dn s) :=
  keeps_issue fun _ hk => winOp_memWf _ _ _ _ _ fun _ _ => Core.queue_memWf hk _ fun _ h => h

theorem execSrel_keeps (c : CoreId) (dn : Fin 16) (rs : Fin 32) (s : State) : Keeps s (execSrel c dn rs s) :=
  keeps_issue fun _ hk => winOp_memWf _ _ _ _ _ fun _ _ => Core.queue_memWf hk _ fun _ h => h

theorem execSwait_keeps (c : CoreId) (dn : Fin 16) (rs : Fin 32) (s : State) : Keeps s (execSwait c dn rs s) :=
  keeps_issue fun _ hk => winOp_memWf _ _ _ _ _ fun _ _ => statWait_memWf hk ..

theorem execSfwait_keeps (c : CoreId) (dn : Fin 16) (rs : Fin 32) (s : State) : Keeps s (execSfwait c dn rs s) :=
  keeps_issue fun _ hk => winOp_memWf _ _ _ _ _ fun _ _ => statWait_memWf hk ..

theorem execSfrel_keeps (c : CoreId) (dn : Fin 16) (rs : Fin 32) (s : State) : Keeps s (execSfrel c dn rs s) :=
  keeps_issue fun _ hk => winOp_memWf _ _ _ _ _ fun _ _ => Core.queue_memWf hk _ fun _ h => h

theorem execSend_keeps (c : CoreId) (route : BitVec 8) (as1 : Fin 8) (tap : Fin 64) (t : Bool) (count : BitVec 14) (daddr : BitVec 18) (s : State) :
    Keeps s (execSend c route as1 tap t count daddr s) :=
  keeps_issue fun k hk => by simp [hk]

theorem execMcast_keeps (c : CoreId) (route : BitVec 8) (as1 : Fin 8) (tap : Fin 64) (t : Bool) (count : BitVec 14) (daddr : BitVec 18) (s : State) :
    Keeps s (execMcast c route as1 tap t count daddr s) :=
  keeps_issue fun k hk => by simp [hk]

theorem execCorePuReport_keeps (c : CoreId) (rt : Fin 32) (ab : Fin 8) (post : Bool) (imm : BitVec 16) (s : State) :
    Keeps s (execCorePuReport c rt ab post imm s) := by
  unfold execCorePuReport
  split
  · exact keeps_issue fun k hk => storeOp_memWf hk ..
  · exact keeps_next rfl id

theorem execCoreLaneEnWrite_keeps (c : CoreId) (rt : Fin 32) (ab : Fin 8) (post : Bool) (imm : BitVec 16) (s : State) :
    Keeps s (execCoreLaneEnWrite c rt ab post imm s) := by
  unfold execCoreLaneEnWrite
  extract_lets
  split
  · exact keeps_issue fun k hk => storeOp_memWf hk ..
  · exact keeps_next rfl id

theorem execInjectTake_keeps (c : CoreId) (s : State) : Keeps s (execInjectTake c s) := by
  unfold execInjectTake
  extract_lets k key
  split
  · exact keeps_next rfl id
  · split
    · exact keeps_next rfl id
    · extract_lets s1
      have h1 : s1.kept = s.kept ∧ (s.MemWf → s1.MemWf) := ⟨by simp [s1], fun hw => State.setCore_memWf hw c (hw.core c)⟩
      clear_value s1
      split
      · exact keeps_next (by simpa using h1.1) fun hw => State.setCore_memWf (h1.2 hw) c ((h1.2 hw).core c)
      · exact keeps_next (by simp [h1.1]) fun hw => (headerLoss_memWf ..).mpr ((h1.2 hw).setCoreSame c (Core.dropWatch_mem ..))
      · exact keeps_next (by simp [h1.1]) fun hw => by simp [h1.2 hw]
      · exact keeps_next (by simp [h1.1]) fun hw => by simp [h1.2 hw]
      · exact keeps_next (by simp [h1.1]) fun hw => by simp [h1.2 hw]

theorem execTrackMove_keeps (c : CoreId) (x : TrackOut) (s : State) : Keeps s (execTrackMove c x s) := by
  unfold execTrackMove
  dsimp only
  repeat' split
  all_goals exact keeps_next (by simp) fun hw => by simp [hw]

theorem execTrackMerge_keeps (c : CoreId) (x : TrackOut) (s : State) : Keeps s (execTrackMerge c x s) := by
  unfold execTrackMerge
  dsimp only
  repeat' split
  all_goals exact keeps_next (by simp) fun hw => by simp [hw]

theorem execScheduleStall_keeps (c : CoreId) (o : Fin 20) (s : State) : Keeps s (execScheduleStall c o s) := by
  unfold execScheduleStall
  dsimp only
  repeat' split
  all_goals exact keeps_next (by simp) fun hw => by simp [hw]

theorem execWrite_keeps (c : CoreId) (s : State) : Keeps s (execWrite c s) := by
  have hd (a : Nat) (ws : List PWord) (hw : s.MemWf) : Memory.wf ((s.core c).deliverWords a ws).mem = true := by simp [hw]
  unfold execWrite
  dsimp only
  repeat' split
  · exact keeps_next rfl id
  · exact keeps_next (by simp) fun hw => by simp [hw]
  · refine keeps_next (by simp) fun hw => (wakeRegion_memWf ..).mpr ((sendAck_memWf ..).mpr ?_)
    exact State.setCore_memWf ((popInbox_memWf ..).mpr hw) c (by simpa using hd _ _ hw)
  · refine keeps_next (by simp) fun hw => (wakeRegion_memWf ..).mpr ((sendAck_memWf ..).mpr ?_)
    exact State.setCore_memWf ((popInbox_memWf ..).mpr hw) c (hd _ _ hw)
  · exact keeps_next rfl id

theorem execTapset_keeps (c : CoreId) (s : State) : Keeps s (execTapset c s) := by
  unfold execTapset
  dsimp only
  repeat' split
  all_goals exact keeps_next (by simp) fun hw => by simp [hw]

theorem execAck_keeps (n : Node) (route : BitVec 8) (s : State) : Keeps s (execAck n route s) := by
  cases n with
  | core c =>
    unfold execAck
    dsimp only
    repeat' split
    all_goals exact keeps_next (by simp) fun hw => by simp [hw]
  | engine e =>
    unfold execAck
    dsimp only
    repeat' split
    · exact keeps_next rfl id
    · exact keeps_next (by simp) fun hw => (engineHeaderLoss_memWf ..).mpr (hw.of_parts rfl rfl rfl)
    · exact keeps_next (by simp) fun hw => by simp [hw]
  | slice f =>
    have hs {x : Slice} (hx : x.sram = (Tab.get ({} : Slice) s.slices f.val).sram) (hw : s.MemWf) :
        State.MemWf { s with slices := Tab.put s.slices f.val x } := ⟨hw.tiers, hw.cores, hw.slices.put _ (hx ▸ hw.slices.get _)⟩
    unfold execAck
    dsimp only
    repeat' split
    · exact keeps_next rfl id
    · exact keeps_next (by simp) fun hw => (routerHeaderLoss_memWf ..).mpr (by exact hs rfl hw)
    · exact keeps_next (by simp) fun hw => sliceRun_memWf (by exact hs rfl hw) _

theorem execRouterLoss_keeps (x : RouterPlace) (s : State) : Keeps s (execRouterLoss x s) := by
  unfold execRouterLoss
  extract_lets pl ps s1 s2
  split
  · exact keeps_next rfl id
  · refine keeps_next ((State.kept_foldl _ (fun s p => routeLoss_kept s p _ _) _ _).trans (recordDefect_kept ..)) fun hw => ?_
    have h2 : s2.MemWf := (recordDefect_memWf ..).mpr ⟨hw.tiers, hw.cores, hw.slices⟩
    exact memWf_foldl _ (fun _ p h => routeLoss_memWf h p _ _) _ _ h2

theorem execRouteLostRunningFence_keeps (p : Vf) (s : State) : Keeps s (execRouteLostRunningFence p s) := by
  unfold execRouteLostRunningFence
  dsimp only
  repeat' split
  all_goals exact keeps_next (by simp) fun hw => by simp [hw]

theorem execAdvance_keeps (e : Engine) (s : State) : Keeps s (execAdvance e s) := by
  unfold execAdvance
  repeat' split
  all_goals exact keeps_next (by simp) fun hw => by simp [hw]

theorem execWatch_keeps (e : Engine) (s : State) : Keeps s (execWatch e s) := by
  unfold execWatch
  dsimp only
  repeat' split
  all_goals exact keeps_next (by simp) fun hw => by simp [hw]

theorem execLaneArrival_keeps (c : CoreId) (lane : Fin 64) (s : State) : Keeps s (execLaneArrival c lane s) := by
  unfold execLaneArrival
  dsimp only
  repeat' split
  · exact keeps_next rfl id
  · exact keeps_next (by simp) fun hw => hw.setCoreSame c (setPend_mem ..)
  · refine keeps_next (by simp) fun hw => laneTry_memWf ((State.setLane_memWf ..).mpr ?_) _
    exact State.setCore_memWf hw c (hw.core c)
  · exact keeps_next rfl id

theorem execLaneTimeout_keeps (pl : Fin 64) (s : State) : Keeps s (execLaneTimeout pl s) := by
  unfold execLaneTimeout
  split
  · exact keeps_next (by simp) fun hw => by simp [hw]
  · exact keeps_next rfl id

theorem execSyncChimeAdd_keeps (p : Vf) (step : BitVec 32) (s : State) : Keeps s (execSyncChimeAdd p step s) :=
  keeps_next (by simp) fun hw => by simp [hw]

theorem execSyncPairCfgWrite_keeps (p : Vf) (v : BitVec 32) (s : State) : Keeps s (execSyncPairCfgWrite p v s) :=
  keeps_next (by simp) fun hw => by simp [hw]

theorem execSyncLaneCtrlWrite_keeps (p : Vf) (lane : Fin 64) (v : BitVec 32) (s : State) : Keeps s (execSyncLaneCtrlWrite p lane v s) :=
  keeps_next (by simp) fun hw => by simp [hw]

theorem execSyncLaneMaskWrite_keeps (p : Vf) (lane : Fin 64) (w : Fin 3) (v : BitVec 32) (s : State) :
    Keeps s (execSyncLaneMaskWrite p lane w v s) :=
  keeps_next (by simp) fun hw => by simp [hw]

theorem execAttach_keeps (e : Engine) (a : AttachIn) (s : State) : Keeps s (execAttach e a s) := by
  refine keeps_streamPacket (fun s p k w pkt => ?_) (fun s p k w pkt => ?_)
  · dsimp only
    repeat' split
    all_goals simp
  · dsimp only
    repeat' split
    all_goals simp

theorem execDetach_keeps (e : Engine) (s : State) : Keeps s (execDetach e s) := by
  refine keeps_streamPacket (fun s p k w pkt => ?_) (fun s p k w pkt => ?_)
  · dsimp only
    repeat' split
    all_goals simp
  · dsimp only
    repeat' split
    all_goals simp

theorem execRel_keeps (e : Engine) (s : State) : Keeps s (execRel e s) :=
  keeps_streamPacket (fun s p k w pkt => by simp) (fun s p k w pkt => by simp)

theorem execFrelPacket_keeps (e : Engine) (s : State) : Keeps s (execFrelPacket e s) :=
  keeps_streamPacket (fun s p k w pkt => by simp) (fun s p k w pkt => by simp)

theorem execStrmWrite_keeps (p : Vf) (s : State) : Keeps s (execStrmWrite p s) := keeps_next (by simp) fun hw => by simp [hw]

theorem execStrmRead_keeps (p : Vf) (s : State) : Keeps s (execStrmRead p s) := keeps_next (by simp) fun hw => by simp [hw]

theorem execStrmStart_keeps (p : Vf) (lost : Bool) (s : State) : Keeps s (execStrmStart p lost s) :=
  keeps_next (by simp) fun hw => by simp [hw]

theorem execStrmCmdFrel_keeps (p : Vf) (n : BitVec 16) (s : State) : Keeps s (execStrmCmdFrel p n s) :=
  keeps_next (by simp) fun hw => by simp [hw]

theorem execPieceIssue_keeps (p : Vf) (n : BitVec 16) (s : State) : Keeps s (execPieceIssue p n s) := by
  unfold execPieceIssue
  dsimp only
  repeat' split
  all_goals exact keeps_next (by simp) fun hw => by simp [hw]

theorem execPieceComplete_keeps (p : Vf) (n : BitVec 16) (idx : Nat) (r : PieceResult) (s : State) :
    Keeps s (execPieceComplete p n idx r s) := by
  unfold execPieceComplete
  dsimp only
  repeat' split
  all_goals exact keeps_next (by simp) fun hw => by simp [hw]

theorem execOutboundBufferReceive_keeps (e : Engine) (s : State) : Keeps s (execOutboundBufferReceive e s) := by
  unfold execOutboundBufferReceive
  dsimp only
  repeat' split
  all_goals exact keeps_next (by simp) fun hw => by simp [hw]

theorem execBufferDrained_keeps (p : Vf) (n : BitVec 16) (s : State) : Keeps s (execBufferDrained p n s) := by
  unfold execBufferDrained
  dsimp only
  repeat' split
  all_goals exact keeps_next (by simp) fun hw => by simp [hw]

theorem execMaskChimeReached_keeps (p : Vf) (n : BitVec 16) (s : State) : Keeps s (execMaskChimeReached p n s) := by
  unfold execMaskChimeReached
  dsimp only
  repeat' split
  all_goals exact keeps_next (by simp) fun hw => by simp [hw]

theorem execCopyComplete_keeps (p : Vf) (n : BitVec 16) (s : State) : Keeps s (execCopyComplete p n s) := by
  unfold execCopyComplete
  dsimp only
  repeat' split
  all_goals exact keeps_next (by simp) fun hw => by simp [hw]

theorem execSliceInputDelivery_keeps (f : Field) (s : State) : Keeps s (execSliceInputDelivery f s) := by
  unfold execSliceInputDelivery
  extract_lets x
  split
  · exact keeps_next rfl id
  · next p rest _ =>
    dsimp only
    split
    · exact keeps_next (by simp) fun hw => by simp [hw]
    · split
      · exact keeps_next rfl id
      · refine keeps_next (by simp) fun hw => (sendAck_memWf ..).mpr (State.setSlice_memWf hw _ ?_)
        have hx : Memory.wf x.sram = true := hw.slice _
        have hp := Memory.putWords_wf (p.pay.take ((2 ^ 21 - 4 * fld p.hdr.val 15 0) / 4)) x.tag (4 * fld p.hdr.val 15 0) hx
        repeat' split
        all_goals first | simpa using hx | simpa using Slice.foldl_refuseSlot_wf _ hp

theorem execPassComputeDone_keeps (f : Field) (s : State) : Keeps s (execPassComputeDone f s) := by
  unfold execPassComputeDone
  extract_lets x
  split
  · exact keeps_next rfl id
  · refine keeps_next (by simp) fun hw => State.setSlice_memWf hw _ ?_
    rw [Slice.tryStart_sram, Slice.setSlot_sram]
    exact Memory.wf_setWord _ _ _ (Memory.wf_setWord _ _ _ (hw.slice _))

theorem execMaskRecordWritten_keeps (f : Field) (s : State) : Keeps s (execMaskRecordWritten f s) := by
  unfold execMaskRecordWritten
  extract_lets x
  split
  · exact keeps_next rfl id
  · refine keeps_next (by simp) fun hw => passClose_memWf (sliceAdvance_memWf (t2Write_memWf ((t2Touch_memWf ..).mpr ?_) ..) ..) ..
    refine State.MemWf.setSliceSame ?_ _ (Slice.setSlot_sram ..)
    exact State.setSlice_memWf hw _ (hw.slice f.val)

theorem execPu_keeps (f : Field) (s : State) : Keeps s (execPu f s) := by
  unfold execPu
  extract_lets x
  split
  · exact keeps_next rfl id
  · split
    · exact keeps_next (by simp) fun hw => by simp [hw]
    · split
      · exact keeps_next rfl id
      · extract_lets s1
        have h1 : s1.kept = s.kept ∧ (s.MemWf → s1.MemWf) :=
          ⟨by simp [s1], fun hw => (sendAck_memWf ..).mpr (State.setSlice_memWf hw _ (hw.slice f.val))⟩
        clear_value s1
        split
        · exact keeps_next h1.1 h1.2
        · dsimp only
          split
          · exact keeps_next h1.1 h1.2
          · exact keeps_next (by simp [h1.1]) fun hw => passClose_memWf ((h1.2 hw).setSliceSame _ (Slice.setSlot_sram ..)) ..

theorem execFrameFillDone_keeps (frame : Nat) (s : State) : Keeps s (execFrameFillDone frame s) := by
  unfold execFrameFillDone
  dsimp only
  repeat' split
  all_goals exact keeps_next (by simp) fun hw => by simp [hw]

theorem execStackOffline_keeps (n : BitVec 5) (s : State) : Keeps s (execStackOffline n s) := keeps_next (by simp) fun hw => by simp [hw]

theorem execStackOnline_keeps (n : BitVec 5) (s : State) : Keeps s (execStackOnline n s) := keeps_next (by simp) fun hw => by simp [hw]

theorem execFrameCopyDone_keeps (n : Fin 24) (s : State) : Keeps s (execFrameCopyDone n s) := by
  unfold execFrameCopyDone
  dsimp only
  repeat' split
  all_goals exact keeps_next (by simp) fun hw => by simp [hw]

theorem execT2Scrub_keeps (n : Fin 24) (r : ScrubResult) (s : State) : Keeps s (execT2Scrub n r s) := by
  unfold execT2Scrub
  split
  · exact keeps_next rfl id
  · exact keeps_next (by simp [State.kept_foldl]) fun hw => by simp [memWf_iff_foldl, hw]

theorem execWriteBase_keeps (p : Vf) (s : State) : Keeps s (execWriteBase p s) := keeps_next (by simp) fun hw => by simp [hw]

theorem execWriteAdd_keeps (p : Vf) (s : State) : Keeps s (execWriteAdd p s) := keeps_next (by simp) fun hw => by simp [hw]

theorem execDelAdd_keeps (p : Vf) (s : State) : Keeps s (execDelAdd p s) := keeps_next (by simp) fun hw => by simp [hw]

theorem execXferDone_keeps (p : Vf) (wear : List Wear) (s : State) : Keeps s (execXferDone p wear s) := by
  unfold execXferDone
  dsimp only
  repeat' split
  all_goals exact keeps_next (by simp) fun hw => by simp [hw]

theorem execInstallBegin_keeps (tensors : BitVec 24) (s : State) : Keeps s (execInstallBegin tensors s) :=
  keeps_next (by simp) fun hw => by simp [hw]

theorem execCommit_keeps (s : State) : Keeps s (execCommit s) := keeps_next (by simp) fun hw => by simp [hw]

theorem execBuildBegin_keeps (tensors : BitVec 24) (s : State) : Keeps s (execBuildBegin tensors s) :=
  keeps_next (by simp) fun hw => by simp [hw]

theorem execSwitch_keeps (s : State) : Keeps s (execSwitch s) := keeps_next (by simp) fun hw => by simp [hw]

theorem execSetAbort_keeps (s : State) : Keeps s (execSetAbort s) := keeps_next (by simp) fun hw => by simp [hw]

theorem execSetDelete_keeps (s : State) : Keeps s (execSetDelete s) := keeps_next (by simp) fun hw => by simp [hw]

theorem execDrainComplete_keeps (m : BitVec 8) (s : State) : Keeps s (execDrainComplete m s) := by
  unfold execDrainComplete
  dsimp only
  repeat' split
  all_goals exact keeps_next (by simp) fun hw => by simp [hw]

theorem execEraseComplete_keeps (m : BitVec 8) (s : State) : Keeps s (execEraseComplete m s) := by
  unfold execEraseComplete
  dsimp only
  repeat' split
  all_goals exact keeps_next (by simp) fun hw => by simp [hw]

theorem execWstBind_keeps (v : BitVec 32) (s : State) : Keeps s (execWstBind v s) := keeps_next (by simp) fun hw => by simp [hw]

theorem execCtlOffline_keeps (n : Fin 16) (s : State) : Keeps s (execCtlOffline n s) := keeps_next (by simp) fun hw => by simp [hw]

theorem execCtlOnline_keeps (n : Fin 16) (s : State) : Keeps s (execCtlOnline n s) := keeps_next (by simp) fun hw => by simp [hw]

theorem execRebuildDone_keeps (n : Fin 16) (s : State) : Keeps s (execRebuildDone n s) := by
  unfold execRebuildDone
  dsimp only
  repeat' split
  all_goals exact keeps_next (by simp) fun hw => by simp [hw]

theorem execRefreshUnit_keeps (n : Fin 16) (wear : List Wear) (s : State) : Keeps s (execRefreshUnit n wear s) := by
  unfold execRefreshUnit
  dsimp only
  repeat' split
  all_goals exact keeps_next (by simp) fun hw => by simp [hw]

theorem execRefreshAge_keeps (n : Fin 16) (unit : Nat) (s : State) : Keeps s (execRefreshAge n unit s) :=
  keeps_next (by simp) fun hw => by simp [hw]

theorem execWearLevelMove_keeps (n : Fin 16) (unit : Nat) (eccFail rebuildFail : Bool) (s : State) :
    Keeps s (execWearLevelMove n unit eccFail rebuildFail s) := by
  unfold execWearLevelMove
  dsimp only
  repeat' split
  all_goals exact keeps_next (by simp) fun hw => by simp [hw]

theorem execSignalDetect_keeps (pt : Port) (s : State) : Keeps s (execSignalDetect pt s) :=
  keeps_next (by simp) fun hw => by simp [hw]

theorem execLockAcquired_keeps (pt : Port) (s : State) : Keeps s (execLockAcquired pt s) :=
  keeps_next (by simp) fun hw => by simp [hw]

theorem execTrainingTimeout_keeps (pt : Port) (s : State) : Keeps s (execTrainingTimeout pt s) :=
  keeps_next (by simp) fun hw => by simp [hw]

theorem execLossOfLock_keeps (pt : Port) (s : State) : Keeps s (execLossOfLock pt s) :=
  keeps_next (by simp) fun hw => by simp [hw]

theorem execMka_keeps (pt : Port) (live : Bool) (s : State) : Keeps s (execMka pt live s) := by
  unfold execMka
  dsimp only
  repeat' split
  all_goals exact keeps_next (by simp) fun hw => by simp [hw]

theorem execPortStalled_keeps (pt : Port) (s : State) : Keeps s (execPortStalled pt s) := by
  unfold execPortStalled
  dsimp only
  repeat' split
  all_goals exact keeps_next (by simp) fun hw => by simp [hw]

theorem execPauseEnd_keeps (pt : Port) (i : PauseIn) (s : State) : Keeps s (execPauseEnd pt i s) := by
  unfold execPauseEnd
  dsimp only
  repeat' split
  all_goals exact keeps_next (by simp) fun hw => by simp [hw]

theorem execXoffIn_keeps (pt : Port) (level : Bool) (us : Nat) (s : State) : Keeps s (execXoffIn pt level us s) := by
  unfold execXoffIn
  dsimp only
  all_goals exact keeps_next (by simp) fun hw => by simp [hw]

theorem execPfcFrame_keeps (pt : Port) (pri : BitVec 3) (quanta : BitVec 16) (us : Nat) (s : State) :
    Keeps s (execPfcFrame pt pri quanta us s) := by
  unfold execPfcFrame
  dsimp only
  repeat' split
  all_goals exact keeps_next (by simp) fun hw => by simp [hw]

theorem execPfcResend_keeps (pt : Port) (s : State) : Keeps s (execPfcResend pt s) :=
  keeps_next (by simp) fun hw => by simp [hw]

theorem execPortOffline_keeps (pt : Port) (s : State) : Keeps s (execPortOffline pt s) := keeps_next (by simp) fun hw => by simp [hw]

theorem execPortOnline_keeps (pt : Port) (s : State) : Keeps s (execPortOnline pt s) := keeps_next (by simp) fun hw => by simp [hw]

theorem execRetrain_keeps (pt : Port) (s : State) : Keeps s (execRetrain pt s) := keeps_next (by simp) fun hw => by simp [hw]

theorem execPortFailed_keeps (pt : Port) (s : State) : Keeps s (execPortFailed pt s) := keeps_next (by simp) fun hw => by simp [hw]

theorem execFrameReceive_keeps (pt : Port) (f : Frame) (s : State) : Keeps s (execFrameReceive pt f s) := by
  unfold execFrameReceive
  dsimp only
  repeat' split
  all_goals exact keeps_next (by simp) fun hw => by simp [hw]

theorem execConnect_keeps (pt : Port) (s : State) : Keeps s (execConnect pt s) := by
  refine keeps_takeCtl (fun s r => ?_) (fun s r hw => ?_)
  · dsimp only
    repeat' split
    all_goals simp
  · dsimp only
    repeat' split
    all_goals simp [hw]

theorem execAccept_keeps (pt : Port) (s : State) : Keeps s (execAccept pt s) := by
  refine keeps_takeCtl (fun s r => ?_) (fun s r hw => ?_)
  · dsimp only
    repeat' split
    all_goals simp
  · dsimp only
    repeat' split
    all_goals simp [hw]

theorem execZaruxAck_keeps (pt : Port) (s : State) : Keeps s (execZaruxAck pt s) := by
  refine keeps_takeCtl (fun s r => ?_) (fun s r hw => ?_)
  · dsimp only
    repeat' split
    all_goals simp
  · dsimp only
    repeat' split
    all_goals simp [hw]

theorem execNak_keeps (pt : Port) (s : State) : Keeps s (execNak pt s) := by
  refine keeps_takeCtl (fun s r => ?_) (fun s r hw => ?_)
  · dsimp only
    all_goals simp
  · dsimp only
    all_goals simp [hw]

theorem execVerdict_keeps (pt : Port) (s : State) : Keeps s (execVerdict pt s) := by
  refine keeps_takeCtl (fun s r => ?_) (fun s r hw => ?_)
  · dsimp only
    repeat' split
    all_goals simp
  · dsimp only
    repeat' split
    all_goals simp [hw]

theorem execData_keeps (pt : Port) (s : State) : Keeps s (execData pt s) := by
  unfold execData
  dsimp only
  repeat' split
  all_goals exact keeps_next (by simp) fun hw => by simp [hw]

theorem execResult_keeps (pt : Port) (s : State) : Keeps s (execResult pt s) := by
  unfold execResult
  dsimp only
  repeat' split
  all_goals exact keeps_next (by simp) fun hw => by simp [hw]

theorem execZaruxAbort_keeps (pt : Port) (s : State) : Keeps s (execZaruxAbort pt s) := by
  refine keeps_takeCtl (fun s r => ?_) (fun s r hw => ?_)
  · dsimp only
    repeat' split
    all_goals simp
  · dsimp only
    repeat' split
    all_goals simp [hw]

theorem execNotice_keeps (pt : Port) (s : State) : Keeps s (execNotice pt s) := by
  refine keeps_takeCtl (fun s r => ?_) (fun s r hw => ?_)
  · dsimp only
    repeat' split
    all_goals simp
  · dsimp only
    repeat' split
    all_goals simp [hw]

theorem execDataPlacement_keeps (pt : Port) (s : State) : Keeps s (execDataPlacement pt s) := by
  unfold execDataPlacement
  dsimp only
  repeat' split
  all_goals exact keeps_next (by simp) fun hw => by simp [hw]

theorem execFrameSend_keeps (pt : Port) (s : State) : Keeps s (execFrameSend pt s) := by
  unfold execFrameSend
  dsimp only
  repeat' split
  all_goals exact keeps_next (by simp) fun hw => by simp [hw]

theorem execAckTimer_keeps (pt : Port) (peer : Fin 64) (s : State) : Keeps s (execAckTimer pt peer s) := by
  unfold execAckTimer
  dsimp only
  repeat' split
  all_goals exact keeps_next (by simp) fun hw => by simp [hw]

theorem execRtoExpiry_keeps (pt : Port) (peer : Fin 64) (pri : Bool) (s : State) : Keeps s (execRtoExpiry pt peer pri s) := by
  unfold execRtoExpiry
  dsimp only
  repeat' split
  all_goals exact keeps_next (by simp) fun hw => by simp [hw]

theorem execPtpEventMessage_keeps (pt : Port) (ns : BitVec 64) (locked : Bool) (s : State) :
    Keeps s (execPtpEventMessage pt ns locked s) := by
  unfold execPtpEventMessage
  dsimp only
  repeat' split
  all_goals exact keeps_next (by simp) fun hw => by simp [hw]

theorem execNeighbourSolicitation_keeps (pt : Port) (target src : BitVec 128) (s : State) :
    Keeps s (execNeighbourSolicitation pt target src s) :=
  keeps_next (by simp) fun hw => by simp [hw]

theorem execWpNqDataRead_keeps (fn : Func) (pt : Port) (s : State) : Keeps s (execWpNqDataRead fn pt s) := by
  unfold execWpNqDataRead
  dsimp only
  repeat' split
  all_goals exact keeps_next (by simp) fun hw => by simp [hw]

theorem execWpPeerCtrlWrite_keeps (pt : Port) (v : BitVec 32) (s : State) : Keeps s (execWpPeerCtrlWrite pt v s) :=
  keeps_next (by simp) fun hw => by simp [hw]

theorem execChainStart_keeps (p : Vf) (s : State) : Keeps s (execChainStart p s) := keeps_next (by simp) fun hw => by simp [hw]

theorem execStop_keeps (p : Vf) (s : State) : Keeps s (execStop p s) := keeps_next (by simp) fun hw => by simp [hw]

theorem execStrikeStart_keeps (p : Vf) (ch : Fin 512) (s : State) : Keeps s (execStrikeStart p ch s) := by
  unfold execStrikeStart
  extract_lets q k c len a ent w0 posted s1 s2 s3 g grp x rep
  have h1 : s1.kept = s.kept ∧ (s.MemWf → s1.MemWf) := by
    simp only [s1]
    split <;> simp
  have h3 : s3.kept = s.kept ∧ (s.MemWf → s3.MemWf) := ⟨t2Touch_kept .., fun hw => (t2Touch_memWf ..).mpr ⟨hw.tiers, hw.cores, hw.slices⟩⟩
  clear_value s1 s3
  repeat' split
  · exact keeps_next rfl id
  · exact keeps_next rfl id
  · exact keeps_next h1.1 h1.2
  · exact keeps_next ((addStrike_kept ..).trans h3.1) fun hw => by simp [h3.2 hw]
  · exact keeps_next ((beginStrike_kept ..).trans h3.1) fun hw => by simp [h3.2 hw]

theorem execStrikeComplete_keeps (p : Vf) (ch : Fin 512) (k : Nat) (s : State) : Keeps s (execStrikeComplete p ch k s) := by
  unfold execStrikeComplete
  extract_lets q key c s0
  split
  · exact keeps_next rfl id
  · split
    · exact keeps_next rfl id
    · extract_lets s1 a s2 s3 s4 s5 d s6
      have h2 : s2.kept = s.kept ∧ (s.MemWf → s2.MemWf) :=
        ⟨by simp [s2, s1, s0], fun hw => t2Write_memWf ((t2Touch_memWf ..).mpr (by simp [s1, s0, hw])) _ _ _⟩
      clear_value s2
      have h3 : s3.kept = s.kept ∧ (s.MemWf → s3.MemWf) := by
        simp only [s3]
        split <;> simpa using h2
      clear_value s3
      have h5 : s5.kept = s.kept ∧ (s.MemWf → s5.MemWf) := by
        simp only [s5, s4]
        repeat' split
        all_goals simpa using h3
      clear_value s5
      have h6 : s6.kept = s.kept ∧ (s.MemWf → s6.MemWf) := by
        simp only [s6]
        split <;> simpa using h5
      exact keeps_next ((State.kept_foldl _ (fun s n => promote_kept s n 64) _ _).trans h6.1) fun hw =>
        (memWf_iff_foldl _ (fun s n => promote_memWf s n 64) _ _).mpr (h6.2 hw)

theorem execCollTimeout_keeps (p : Vf) (ch : Fin 512) (k : Nat) (s : State) : Keeps s (execCollTimeout p ch k s) := by
  unfold execCollTimeout
  repeat' split
  all_goals exact keeps_next (by simp) fun hw => by simp [hw]

theorem execSet_keeps (p : Vf) (s : State) : Keeps s (execSet p s) := keeps_next (by simp) fun hw => by simp [hw]

theorem execReform_keeps (p : Vf) (s : State) : Keeps s (execReform p s) := keeps_next (by simp) fun hw => by simp [hw]

theorem execHqQDb_keeps (p : Vf) (q : Fin 8) (v : BitVec 32) (s : State) : Keeps s (execHqQDb p q v s) :=
  keeps_next (by simp) fun hw => by simp [hw]

theorem execHqQCtrlWrite_keeps (p : Vf) (q : Fin 8) (v : BitVec 32) (s : State) : Keeps s (execHqQCtrlWrite p q v s) :=
  keeps_next (by simp) fun hw => by simp [hw]

theorem execHqQCplHeadWrite_keeps (p : Vf) (q : Fin 8) (v : BitVec 32) (s : State) : Keeps s (execHqQCplHeadWrite p q v s) :=
  keeps_next (by simp) fun hw => by simp [hw]

theorem execStoppedAck_keeps (p : Vf) (q : Fin 8) (s : State) : Keeps s (execStoppedAck p q s) :=
  keeps_next (by simp) fun hw => by simp [hw]

theorem execCommandFetch_keeps (p : Vf) (q : Fin 8) (ws : List Word) (s : State) : Keeps s (execCommandFetch p q ws s) := by
  unfold execCommandFetch
  dsimp only
  repeat' split
  · exact fun _ h => nomatch h
  · exact keeps_next rfl id
  · exact keeps_next (by simp) fun hw => by simp [hw]
  · exact keeps_next (by simp) fun hw => by simp [hw]

theorem execHqNop_keeps (p : Vf) (q : Fin 8) (s : State) : Keeps s (execHqNop p q s) :=
  keeps_startCmd (fun s n c => by simp) (fun s n c hw => by simp [hw])

theorem execWriteT2_keeps (p : Vf) (q : Fin 8) (s : State) : Keeps s (execWriteT2 p q s) := by
  refine keeps_startCmd (fun s n c => ?_) (fun s n c hw => ?_)
  · dsimp only
    repeat' split
    all_goals simp
  · dsimp only
    repeat' split
    all_goals simp [hw]

theorem execReadT2_keeps (p : Vf) (q : Fin 8) (s : State) : Keeps s (execReadT2 p q s) := by
  refine keeps_startCmd (fun s n c => ?_) (fun s n c hw => ?_)
  · dsimp only
    repeat' split
    all_goals simp
  · dsimp only
    repeat' split
    all_goals simp [hw]

theorem execLoad_keeps (p : Vf) (q : Fin 8) (s : State) : Keeps s (execLoad p q s) := by
  refine keeps_startCmd (fun s n c => ?_) (fun s n c hw => ?_)
  · dsimp only
    repeat' split
    all_goals simp
  · dsimp only
    repeat' split
    all_goals simp [hw]

theorem execHqStart_keeps (p : Vf) (q : Fin 8) (s : State) : Keeps s (execHqStart p q s) := by
  refine keeps_startCmd (fun s n c => ?_) (fun s n c hw => ?_)
  · dsimp only
    split <;> simp [State.kept_foldl]
  · dsimp only
    split
    · simp [hw]
    · refine (endCmd_memWf ..).mpr (memWf_foldl _ (fun s k h => ?_) _ _ hw)
      exact (wakeRegion_memWf ..).mpr (h.setCoreSame _ rfl)

theorem execChimeAdd_keeps (p : Vf) (q : Fin 8) (s : State) : Keeps s (execChimeAdd p q s) :=
  keeps_startCmd (fun s n c => by simp) (fun s n c hw => by simp [hw])

theorem execChimeWait_keeps (p : Vf) (q : Fin 8) (s : State) : Keeps s (execChimeWait p q s) := by
  refine keeps_startCmd (fun s n c => ?_) (fun s n c hw => ?_)
  · dsimp only
    repeat' split
    all_goals simp
  · dsimp only
    repeat' split
    all_goals simp [hw]

theorem execSave_keeps (p : Vf) (q : Fin 8) (s : State) : Keeps s (execSave p q s) := by
  refine keeps_startCmd (fun s n c => ?_) (fun s n c hw => ?_)
  · dsimp only
    repeat' split
    all_goals simp [State.kept_foldl]
  · have hf : ((staleHalves s n).foldl staleRegion s).MemWf := memWf_foldl _ (fun _ h hs => staleRegion_memWf hs h) _ _ hw
    dsimp only
    repeat' split
    all_goals simp [hw, hf]

theorem execRestore_keeps (p : Vf) (q : Fin 8) (s : State) : Keeps s (execRestore p q s) := by
  refine keeps_startCmd (fun s n c => ?_) (fun s n c hw => ?_)
  · dsimp only
    repeat' split
    all_goals simp
  · dsimp only
    repeat' split
    all_goals simp [hw]

theorem execReinit_keeps (p : Vf) (q : Fin 8) (s : State) : Keeps s (execReinit p q s) :=
  keeps_startCmd (fun _ _ _ => beginReset_kept ..) (fun _ _ _ hw => beginReset_memWf hw ..)

theorem execCommandComplete_keeps (p : Vf) (q : Fin 8) (s : State) : Keeps s (execCommandComplete p q s) := by
  unfold execCommandComplete
  dsimp only
  repeat' split
  all_goals exact keeps_next (by simp) fun hw => by simp [hw]

theorem execCommandTimeout_keeps (p : Vf) (q : Fin 8) (s : State) : Keeps s (execCommandTimeout p q s) := by
  unfold execCommandTimeout
  dsimp only
  repeat' split
  all_goals exact keeps_next (by simp) fun hw => by simp [hw]

theorem execHostReadCompletion_keeps (p : Vf) (q : Fin 8) (r : HostCpl) (s : State) : Keeps s (execHostReadCompletion p q r s) := by
  have hw2 (x : HQueue) (a l : Nat) (ws : List PWord) (hw : s.MemWf) :
      (t2WriteU (t2Touch (setHq s (vfPart p) q.val x) (vfPart p) a l) (vfPart p) a ws).MemWf :=
    t2WriteU_memWf ((t2Touch_memWf ..).mpr ((setHq_memWf ..).mpr hw)) _ _ _
  unfold execHostReadCompletion
  extract_lets n x late
  have hl : late.kept = s.kept ∧ (s.MemWf → late.MemWf) := by
    simp only [late]
    split <;> simp
  clear_value late
  dsimp only
  split
  · exact keeps_next hl.1 hl.2
  · split
    · exact keeps_next hl.1 hl.2
    · split
      · exact keeps_next (by simp) fun hw => by simp [hw]
      · exact keeps_next (by simp) fun hw => by simp [hw]
      · split
        · exact fun _ h => nomatch h
        · exact keeps_next (by simp) fun hw => by simp [n, hw2 _ _ _ _ hw]

theorem execVfFlr_keeps (p : Vf) (s : State) : Keeps s (execVfFlr p s) := keeps_next (by simp) fun hw => by simp [hw]

theorem execPfFlr_keeps (s : State) : Keeps s (execPfFlr s) := keeps_next (by simp) fun hw => by simp [hw]

theorem execPerst_keeps (s : State) : Keeps s (execPerst s) := keeps_next (by simp) fun hw => by simp [hw]

theorem execCreate_keeps (s : State) : Keeps s (execCreate s) :=
  keeps_partOp (fun s n => partCreate_kept s n) (fun n hw => partCreate_memWf hw n)

theorem execResize_keeps (s : State) : Keeps s (execResize s) :=
  keeps_partOp (fun s n => partResize_kept s n) (fun n hw => partResize_memWf hw n)

theorem execReset_keeps (s : State) : Keeps s (execReset s) :=
  keeps_partOp (fun s n => partReset_kept s n) (fun n hw => partReset_memWf hw n)

theorem execDestroy_keeps (s : State) : Keeps s (execDestroy s) :=
  keeps_partOp (fun s n => partDestroy_kept s n) (fun n hw => partDestroy_memWf hw n)

theorem execTransit_keeps (s : State) : Keeps s (execTransit s) :=
  keeps_partOp (fun s n => partTransit_kept s n) (fun n hw => (partTransit_memWf s n).mpr hw)

theorem execPartitionResetDone_keeps (p : Vf) (s : State) : Keeps s (execPartitionResetDone p s) := by
  unfold execPartitionResetDone
  dsimp only
  repeat' split
  all_goals exact keeps_next (by simp) fun hw => by simp [hw]

theorem execDecisionCycle_keeps (i : CycleIn) (s : State) : Keeps s (execDecisionCycle i s) :=
  keeps_next (by simp) fun hw => by simp [hw]

theorem execRampDone_keeps (r : Sys2Proof.Region) (s : State) : Keeps s (execRampDone r s) := keeps_next (by simp) fun hw => by simp [hw]

theorem execRampShort_keeps (r : Sys2Proof.Region) (dom : BitVec 4) (s : State) : Keeps s (execRampShort r dom s) :=
  keeps_next (by simp) fun hw => by simp [hw]

theorem execRetryExpiry_keeps (r : Sys2Proof.Region) (s : State) : Keeps s (execRetryExpiry r s) :=
  keeps_next (by simp) fun hw => by simp [hw]

theorem execShortTrip_keeps (r : Sys2Proof.Region) (dom : BitVec 4) (s : State) : Keeps s (execShortTrip r dom s) :=
  keeps_next (by simp) fun hw => by simp [hw]

theorem execOvercurrent_keeps (r : Sys2Proof.Region) (rail : Rail) (s : State) : Keeps s (execOvercurrent r rail s) := by
  unfold execOvercurrent
  dsimp only
  repeat' split
  all_goals exact keeps_next (by simp) fun hw => by simp [hw]

theorem execRegionLost_keeps (r : Sys2Proof.Region) (dom : BitVec 4) (s : State) : Keeps s (execRegionLost r dom s) :=
  keeps_next (by simp) fun hw => by simp [hw]

theorem execSensorExcluded_keeps (r : Sys2Proof.Region) (rail : Rail) (sensor : Fin 16) (mv : BitVec 16) (s : State) :
    Keeps s (execSensorExcluded r rail sensor mv s) :=
  keeps_next (by simp) fun hw => by simp [hw]

theorem execSensorSample_keeps (xs : List Sample) (s : State) : Keeps s (execSensorSample xs s) := by
  unfold execSensorSample
  dsimp only
  all_goals exact keeps_next (by simp) fun hw => by simp [hw]

theorem execConverterLost_keeps (z : Fin 13) (s : State) : Keeps s (execConverterLost z s) := by
  unfold execConverterLost
  dsimp only
  repeat' split
  all_goals exact keeps_next (by simp) fun hw => by simp [hw]

theorem execRetentionDroop_keeps (r : Sys2Proof.Region) (s : State) : Keeps s (execRetentionDroop r s) := by
  unfold execRetentionDroop
  dsimp only
  repeat' split
  all_goals exact keeps_next (by simp) fun hw => by simp [hw]

theorem execChipletLinkRequest_keeps (r : Sys2Proof.Region) (x : ChipletReq) (s : State) : Keeps s (execChipletLinkRequest r x s) := by
  unfold execChipletLinkRequest
  dsimp only
  repeat' split
  all_goals exact keeps_next (by simp) fun hw => by simp [hw]

theorem execLinkChangeDone_keeps (r : Sys2Proof.Region) (s : State) : Keeps s (execLinkChangeDone r s) :=
  keeps_next (by simp) fun hw => by simp [hw]

theorem execWriteSeg_keeps (rq : Staging) (seg : BitVec 8) (s : State) : Keeps s (execWriteSeg rq seg s) :=
  keeps_next (by simp) fun hw => by simp [hw]

theorem execClearSeg_keeps (st : Staging) (seg : BitVec 8) (s : State) : Keeps s (execClearSeg st seg s) :=
  keeps_next (by simp) fun hw => by simp [hw]

theorem execClearAll_keeps (st : Staging) (s : State) : Keeps s (execClearAll st s) :=
  keeps_next (by simp) fun hw => by simp [hw]

theorem execPwrSegCfgWrite_keeps (rq : Staging) (v : BitVec 32) (s : State) : Keeps s (execPwrSegCfgWrite rq v s) :=
  keeps_next (by simp) fun hw => by simp [hw]

theorem execPwrSegDataWrite_keeps (rq : Staging) (v : BitVec 32) (s : State) : Keeps s (execPwrSegDataWrite rq v s) :=
  keeps_next (by simp) fun hw => by simp [hw]

theorem execPwrEnvCtrlWrite_keeps (st : Staging) (v : BitVec 32) (s : State) : Keeps s (execPwrEnvCtrlWrite st v s) :=
  keeps_next (by simp) fun hw => by simp [hw]

theorem execEnvFrozen_keeps (s : State) : Keeps s (execEnvFrozen s) := keeps_next (by simp) fun hw => by simp [hw]

theorem execSetLaneTimeout_keeps (fn : Func) (s : State) : Keeps s (execSetLaneTimeout fn s) := keeps_next (by simp) fun hw => by simp [hw]

theorem execWake_keeps (fn : Func) (s : State) : Keeps s (execWake fn s) := keeps_next (by simp) fun hw => by simp [hw]

theorem execSetThrottle_keeps (fn : Func) (s : State) : Keeps s (execSetThrottle fn s) := keeps_next (by simp) fun hw => by simp [hw]

theorem execSetParkHold_keeps (fn : Func) (s : State) : Keeps s (execSetParkHold fn s) := keeps_next (by simp) fun hw => by simp [hw]

theorem execTakeover_keeps (why : TakeoverWhy) (s : State) : Keeps s (execTakeover why s) := keeps_next (by simp) fun hw => by simp [hw]

theorem execStandbyLost_keeps (s : State) : Keeps s (execStandbyLost s) := by
  unfold execStandbyLost
  dsimp only
  repeat' split
  all_goals exact keeps_next (by simp) fun hw => by simp [hw]

theorem execMmcHeartbeatTimeout_keeps (s : State) : Keeps s (execMmcHeartbeatTimeout s) := keeps_next (by simp) fun hw => by simp [hw]

theorem execMmcLost_keeps (s : State) : Keeps s (execMmcLost s) := by
  unfold execMmcLost
  dsimp only
  repeat' split
  all_goals exact keeps_next (by simp) fun hw => by simp [hw]

theorem execSafeStop_keeps (who : StopBy) (s : State) : Keeps s (execSafeStop who s) := by
  unfold execSafeStop
  repeat' split
  all_goals exact keeps_next (by simp) fun hw => by simp [hw]

theorem execLogRecordWrite_keeps (s : State) : Keeps s (execLogRecordWrite s) := by
  unfold execLogRecordWrite
  dsimp only
  repeat' split
  all_goals exact keeps_next (by simp) fun hw => by simp [hw]

theorem execLogFetch_keeps (rq : Staging) (hi : BitVec 32) (s : State) : Keeps s (execLogFetch rq hi s) :=
  keeps_next (by simp) fun hw => by simp [hw]

theorem execLogFetchDone_keeps (rq : Staging) (s : State) : Keeps s (execLogFetchDone rq s) := by
  unfold execLogFetchDone
  dsimp only
  repeat' split
  all_goals exact keeps_next (by simp) fun hw => by simp [hw]

theorem execPowerUpTest_keeps (t : PowerUpResult) (s : State) : Keeps s (execPowerUpTest t s) := keeps_next (by simp) fun hw => by simp [hw]

theorem execBist_keeps (hf : BitVec 8) (links : Bool) (s : State) : Keeps s (execBist hf links s) :=
  keeps_next (by simp) fun hw => by simp [hw]

theorem execRepair_keeps (hf : BitVec 8) (s : State) : Keeps s (execRepair hf s) := keeps_next (by simp) fun hw => by simp [hw]

theorem execUnitTest_keeps (u : BitVec 8) (s : State) : Keeps s (execUnitTest u s) := keeps_next (by simp) fun hw => by simp [hw]

theorem execTestAbort_keeps (u : BitVec 8) (s : State) : Keeps s (execTestAbort u s) := keeps_next (by simp) fun hw => by simp [hw]

theorem execBistRunStart_keeps (hf : HalfField) (s : State) : Keeps s (execBistRunStart hf s) := keeps_next (by simp) fun hw => by simp [hw]

theorem execBistRunDone_keeps (hf : HalfField) (t : TestResult) (s : State) : Keeps s (execBistRunDone hf t s) :=
  keeps_next (by simp) fun hw => by simp [hw]

theorem execUnitTestDone_keeps (u : BitVec 8) (ok : Bool) (s : State) : Keeps s (execUnitTestDone u ok s) := by
  unfold execUnitTestDone
  dsimp only
  repeat' split
  all_goals exact keeps_next (by simp) fun hw => by simp [hw]

theorem execRepairDone_keeps (hf : HalfField) (t : TestResult) (s : State) : Keeps s (execRepairDone hf t s) :=
  keeps_next (by simp) fun hw => by simp [hw]

theorem execUnwrap_keeps (keyId : BitVec 16) (epkOk icvOk cakZero : Bool) (s : State) : Keeps s (execUnwrap keyId epkOk icvOk cakZero s) :=
  keeps_next (by simp) fun hw => by simp [hw]

theorem execKeyDelete_keeps (keyId : BitVec 16) (s : State) : Keeps s (execKeyDelete keyId s) := keeps_next (by simp) fun hw => by simp [hw]

theorem execGetVersion_keeps (via : Via) (s : State) : Keeps s (execGetVersion via s) :=
  keeps_spdm (fun s => by simp) (fun s => by simp)

theorem execGetCapabilities_keeps (via : Via) (s : State) : Keeps s (execGetCapabilities via s) :=
  keeps_spdm (fun s => by simp) (fun s => by simp)

theorem execNegotiateAlgorithms_keeps (via : Via) (p384 : Bool) (s : State) : Keeps s (execNegotiateAlgorithms via p384 s) :=
  keeps_spdm (fun s => by simp) (fun s => by simp)

theorem execGetDigests_keeps (via : Via) (s : State) : Keeps s (execGetDigests via s) :=
  keeps_spdm (fun s => by simp) (fun s => by simp)

theorem execGetCertificate_keeps (via : Via) (slot : BitVec 8) (s : State) : Keeps s (execGetCertificate via slot s) :=
  keeps_spdm (fun s => by simp) (fun s => by simp)

theorem execChallenge_keeps (via : Via) (nonce : BitVec 256) (s : State) : Keeps s (execChallenge via nonce s) :=
  keeps_spdm (fun s => by simp) (fun s => by simp)

theorem execGetMeasurements_keeps (via : Via) (idx : BitVec 8) (sign : Bool) (s : State) : Keeps s (execGetMeasurements via idx sign s) :=
  keeps_spdm (fun s => by simp) (fun s => by simp)

theorem execSpdmUnsupportedRequest_keeps (via : Via) (code : BitVec 8) (s : State) : Keeps s (execSpdmUnsupportedRequest via code s) :=
  keeps_spdm (fun s => by simp) (fun s => by simp)

theorem execErrRingCtrlWrite_keeps (fn : Func) (v : BitVec 32) (s : State) : Keeps s (execErrRingCtrlWrite fn v s) :=
  keeps_next (by simp) fun hw => by simp [hw]

theorem execModRst_keeps (level : Bool) (s : State) : Keeps s (execModRst level s) := keeps_next (by simp) fun hw => by simp [hw]

theorem execEpo_keeps (level : Bool) (s : State) : Keeps s (execEpo level s) := by
  unfold execEpo
  dsimp only
  repeat' split
  all_goals exact keeps_next (by simp) fun hw => by simp [hw]

theorem execBusRange_keeps (mv : Nat) (s : State) : Keeps s (execBusRange mv s) := keeps_next (by simp) fun hw => by simp [hw]

theorem execBusbarLoss_keeps (s : State) : Keeps s (execBusbarLoss s) := keeps_next (by simp) fun hw => by simp [hw]

theorem execCoolantSample_keeps (inlet outlet flow : Nat) (wet : Bool) (s : State) : Keeps s (execCoolantSample inlet outlet flow wet s) :=
  keeps_next (by simp) fun hw => by simp [hw]

theorem execLeak_keeps (s : State) : Keeps s (execLeak s) := keeps_next (by simp) fun hw => by simp [hw]

theorem execShutdown_keeps (b : Bus) (d : SbData) (s : State) : Keeps s (execShutdown b d s) :=
  keeps_sbCmd (fun l => by simp) (fun l hw => by simp [hw])

theorem execRestart_keeps (b : Bus) (d : SbData) (s : State) : Keeps s (execRestart b d s) := by
  refine keeps_sbCmd (fun l => ?_) (fun l hw => ?_)
  · dsimp only
    repeat' split
    all_goals simp
  · dsimp only
    repeat' split
    all_goals simp [hw]

theorem execReadWindow_keeps (b : Bus) (d : SbData) (s : State) : Keeps s (execReadWindow b d s) :=
  keeps_sbCmd (fun l => by simp) (fun l hw => by simp [hw])

theorem execPinFunc_keeps (b : Bus) (d : SbData) (s : State) : Keeps s (execPinFunc b d s) :=
  keeps_sbCmd (fun l => by simp) (fun l hw => by simp [hw])

theorem execMfParkEnd_keeps (pin : Fin 4) (s : State) : Keeps s (execMfParkEnd pin s) := by
  unfold execMfParkEnd
  dsimp only
  repeat' split
  all_goals exact keeps_next (by simp) fun hw => by simp [hw]

theorem execStatus_keeps (b : Bus) (d : SbData) (s : State) : Keeps s (execStatus b d s) :=
  keeps_sbCmd (fun l => by simp) (fun l hw => by simp [hw])

theorem execClearAlert_keeps (b : Bus) (d : SbData) (s : State) : Keeps s (execClearAlert b d s) :=
  keeps_sbCmd (fun l => by simp) (fun l hw => by simp [hw])

theorem execMctp_keeps (b : Bus) (d : SbData) (spdm : Bool) (s : State) : Keeps s (execMctp b d spdm s) := by
  have hm (x : List Nat) : Keeps s (spdmMessage s (.bus b) x) := by
    unfold spdmMessage
    dsimp only
    split
    · exact execGetVersion_keeps _ _
    · exact execGetCapabilities_keeps _ _
    · exact execNegotiateAlgorithms_keeps _ _ _
    · exact execGetDigests_keeps _ _
    · exact execGetCertificate_keeps _ _ _
    · exact execChallenge_keeps _ _ _
    · exact execGetMeasurements_keeps _ _ _ _
    · exact execSpdmUnsupportedRequest_keeps _ _ _
  unfold execMctp
  dsimp only
  repeat' split
  · exact keeps_next rfl id
  · exact keeps_next (by simp) fun hw => by simp [hw]
  · exact hm _
  · exact keeps_next (by simp) fun hw => by simp [hw]

theorem execSmbusUndefinedCommand_keeps (b : Bus) (_code : BitVec 8) (s : State) : Keeps s (execSmbusUndefinedCommand b _code s) :=
  keeps_next (by simp) fun hw => by simp [hw]

theorem execAlertResponse_keeps (b : Bus) (s : State) : Keeps s (execAlertResponse b s) :=
  keeps_next (by simp) fun hw => by simp [hw]

theorem execClockLowTimeout_keeps (_b : Bus) (s : State) : Keeps s (execClockLowTimeout _b s) := keeps_next rfl id

theorem execArbitrationLost_keeps (b : Bus) (_late : Bool) (s : State) : Keeps s (execArbitrationLost b _late s) := by
  unfold execArbitrationLost
  dsimp only
  repeat' split
  all_goals exact keeps_next (by simp) fun hw => by simp [hw]

theorem execMctpRetry_keeps (b : Bus) (expired : Bool) (s : State) : Keeps s (execMctpRetry b expired s) := by
  unfold execMctpRetry
  dsimp only
  repeat' split
  all_goals exact keeps_next (by simp) fun hw => by simp [hw]

theorem execPpsRise_keeps (s : State) : Keeps s (execPpsRise s) :=
  keeps_next (by simp) fun hw => by simp [hw]

theorem execPpsFall_keeps (s : State) : Keeps s (execPpsFall s) := keeps_next (by simp) fun hw => by simp [hw]

theorem execTransceiverEvent_keeps (pt : Port) (ev : CageEvent) (s : State) : Keeps s (execTransceiverEvent pt ev s) :=
  keeps_next (by simp) fun hw => by simp [hw]

theorem execLowWordRead_keeps (fn : Func) (x : ReadAt) (s : State) : Keeps s (execLowWordRead fn x s) := by
  unfold execLowWordRead
  dsimp only
  repeat' split
  all_goals exact keeps_next (by simp) fun hw => by simp [hw]

theorem execPtpLockLost_keeps (s : State) : Keeps s (execPtpLockLost s) := keeps_next rfl id

theorem execBistSliceDone_keeps (hf : HalfField) (s : State) : Keeps s (execBistSliceDone hf s) :=
  keeps_next (by simp) fun hw => by simp [hw]

theorem execPartCmdComplete_keeps (s : State) : Keeps s (execPartCmdComplete s) := keeps_next (by simp) fun hw => by simp [hw]

end Sys2Proof.Machine
end

section
/-! PROOFS. What every step keeps (O52, O54, O55, O56), and the machine at reset (O53, O11). -/

namespace Sys2Proof.Machine

/-! ## What the life-cycle commands keep -/

/-- The moves of the life cycle that a step allows: no way out of RETIRED, no way back to MANUFACTURE, and the fused grade and baseline stand. -/
def LifeKept (s t : State) : Prop :=
  (s.lc = .retired → t.lc = .retired) ∧
    (s.lc ≠ .manufacture → t.lc ≠ .manufacture ∧ t.grade = s.grade ∧ t.baseline = s.baseline)

theorem LifeKept.of_same {s t : State} (hl : t.lc = s.lc) (hg : t.grade = s.grade) (hb : t.baseline = s.baseline) : LifeKept s t :=
  ⟨fun h => hl.trans h, fun h => ⟨hl ▸ h, hg, hb⟩⟩

theorem LifeKept.of_kept {s t : State} (h : t.kept = s.kept) : LifeKept s t :=
  .of_same (State.lc_of_kept h) (State.grade_of_kept h) (State.baseline_of_kept h)

/-- What every command carries over: the queue, the life cycle's moves, and canonical memories. -/
structure Carried (s t : State) : Prop where
  pending : t.pending = s.pending
  life : LifeKept s t
  mem : s.MemWf → t.MemWf

theorem Carried.of_kept {s t : State} (hk : t.kept = s.kept) (hm : s.MemWf → t.MemWf) : Carried s t :=
  ⟨State.pending_of_kept hk, .of_kept hk, hm⟩

theorem Keeps.carried {s t : State} {r : Res} (h : Keeps s r) (ht : r = .next t) : Carried s t :=
  .of_kept (h t ht).1 (h t ht).2

theorem lcRefuse_carried (s : State) : Carried s (lcRefuse s) := .of_kept (by simp) (by simp)

theorem lcDeploy_carried (s : State) : Carried s (lcDeploy s) := by
  unfold lcDeploy
  split
  · exact lcRefuse_carried s
  · next h =>
    have hl : s.lc = .provisioned := by_contra fun e => h (.inl e)
    exact ⟨rfl, ⟨fun e => by simp [hl] at e, fun _ => ⟨by simp, rfl, rfl⟩⟩, id⟩

theorem lcEnter_carried (s : State) : Carried s (lcEnter s) := by
  unfold lcEnter
  split
  · exact lcRefuse_carried s
  · next h =>
    have hl : s.lc = .deployed := by_contra fun e => h (.inl e)
    exact ⟨rfl, ⟨fun e => by simp [hl] at e, fun _ => ⟨by simp, rfl, rfl⟩⟩, id⟩

theorem lcLeave_carried (s : State) : Carried s (lcLeave s) := by
  unfold lcLeave
  split
  · exact lcRefuse_carried s
  · next h =>
    have hl : s.lc = .service := by_contra fun e => h (.inl e)
    have hk := newIncarnation_kept { s with lc := .deployed }
    refine ⟨(State.pending_of_kept hk).trans rfl, ⟨fun e => by simp [hl] at e, fun _ => ⟨?_, (State.grade_of_kept hk).trans rfl,
      (State.baseline_of_kept hk).trans rfl⟩⟩,
      fun hw => (newIncarnation_memWf ..).mpr ⟨hw.tiers, hw.cores, hw.slices⟩⟩
    rw [State.lc_of_kept hk]
    simp

theorem lcRetire_carried (s : State) (confirm : BitVec 16) : Carried s (lcRetire s confirm) := by
  unfold lcRetire
  dsimp only
  split
  · exact lcRefuse_carried s
  · exact ⟨rfl, ⟨fun _ => rfl, fun _ => ⟨by simp [regionsOff], rfl, rfl⟩⟩, fun hw => ⟨rfl, hw.cores, hw.slices⟩⟩

theorem lcCmd_carried (s : State) (v : Word) : Carried s (lcCmd s v) := by
  unfold lcCmd
  split
  · exact lcDeploy_carried s
  · exact lcEnter_carried s
  · exact lcLeave_carried s
  · exact lcRetire_carried s _
  · exact lcRefuse_carried s

theorem lcFinalise_carried (s : State) : Carried s (lcFinalise s) := by
  unfold lcFinalise
  split
  · exact lcRefuse_carried s
  · next h =>
    have hl : s.lc = .manufacture := by_contra fun e => h (.inl e)
    refine ⟨(State.pending_of_kept (parkUart_kept _)).trans rfl, ⟨fun e => by simp [hl] at e, fun e => absurd hl e⟩, fun hw => ?_⟩
    exact (parkUart_memWf ..).mpr ⟨hw.tiers, hw.cores, hw.slices⟩

theorem powerUp_carried (s : State) (i : PowerUpIn) : Carried s (powerUp s i) := by
  unfold powerUp
  split
  · have hk : (presetAtStart (newIncarnation (stateAtStart s i)) s).kept = (stateAtStart s i).kept := by simp
    refine ⟨(State.pending_of_kept hk).trans (stateAtStart_pending s i), ?_, fun _ => ?_⟩
    · have hl : (presetAtStart (newIncarnation (stateAtStart s i)) s).lc = lifeAtStart s i.wordOk := State.lc_of_kept hk
      refine ⟨fun e => ?_, fun e => ⟨?_, (State.grade_of_kept hk).trans rfl, (State.baseline_of_kept hk).trans rfl⟩⟩
      · rw [hl, lifeAtStart, e]
      · rw [hl, lifeAtStart]
        split
        · split <;> simp
        · exact e
    · refine (presetAtStart_memWf ..).mpr ((newIncarnation_memWf ..).mpr ⟨rfl, ?_, ?_⟩)
      · exact fun e he => absurd he (List.not_mem_nil)
      · exact SlicesWf.nil
  · exact .of_kept rfl id

theorem writeTest_memWf {s : State} (hw : s.MemWf) (rq off : Nat) (v : Word) : (writeTest s rq off v).MemWf := by
  unfold writeTest
  repeat' split
  · exact (lcCmd_carried s v).mem hw
  all_goals simp [hw]

theorem writeReg_memWf {s : State} (hw : s.MemWf) (rq off : Nat) (v : Word) : (writeReg s rq off v).MemWf := by
  have ht := writeTest_memWf hw rq off v
  unfold writeReg
  repeat' split
  all_goals simp [hw, ht]

theorem writeReg_carried (s : State) (rq off : Nat) (v : Word) : Carried s (writeReg s rq off v) := by
  by_cases h : blkOf off = 11 ∧ offIn off = 4
  · have e : writeReg s rq off v = s ∨ writeReg s rq off v = lcCmd s v := by
      simp only [writeReg, writeTest, h.1, h.2]
      split <;> simp
    rcases e with e | e
    · rw [e]
      exact .of_kept rfl id
    · rw [e]
      exact lcCmd_carried s v
  · exact .of_kept (writeReg_kept s rq off v h) fun hw => writeReg_memWf hw rq off v

theorem sbCmd_carried (s : State) (b : Bus) (d : SbData) (n : Nat) {f : List Nat → State} (h : ∀ l, Carried s (f l)) :
    Carried s (sbCmd s b d n f) := by
  unfold sbCmd
  repeat' split
  · exact .of_kept rfl id
  · exact h _
  · exact .of_kept (by simp) (by simp)

/-- Every command carries over what `Carried` names. -/
theorem exec_carried (i : Instr) (s t : State) (h : exec i s = .next t) : Carried s t := by
  cases i with
  | add => exact (execAdd_keeps _ _ _ _ _).carried h
  | sub => exact (execSub_keeps _ _ _ _ _).carried h
  | and => exact (execAnd_keeps _ _ _ _ _).carried h
  | or => exact (execOr_keeps _ _ _ _ _).carried h
  | xor => exact (execXor_keeps _ _ _ _ _).carried h
  | sll => exact (execSll_keeps _ _ _ _ _).carried h
  | srl => exact (execSrl_keeps _ _ _ _ _).carried h
  | sra => exact (execSra_keeps _ _ _ _ _).carried h
  | slt => exact (execSlt_keeps _ _ _ _ _).carried h
  | sltu => exact (execSltu_keeps _ _ _ _ _).carried h
  | min => exact (execMin_keeps _ _ _ _ _).carried h
  | max => exact (execMax_keeps _ _ _ _ _).carried h
  | minu => exact (execMinu_keeps _ _ _ _ _).carried h
  | maxu => exact (execMaxu_keeps _ _ _ _ _).carried h
  | clz => exact (execClz_keeps _ _ _ _).carried h
  | popc => exact (execPopc_keeps _ _ _ _).carried h
  | mul => exact (execMul_keeps _ _ _ _ _).carried h
  | mulh => exact (execMulh_keeps _ _ _ _ _).carried h
  | mulhu => exact (execMulhu_keeps _ _ _ _ _).carried h
  | div => exact (execDiv_keeps _ _ _ _ _).carried h
  | divu => exact (execDivu_keeps _ _ _ _ _).carried h
  | rem => exact (execRem_keeps _ _ _ _ _).carried h
  | remu => exact (execRemu_keeps _ _ _ _ _).carried h
  | addi => exact (execAddi_keeps _ _ _ _ _).carried h
  | andi => exact (execAndi_keeps _ _ _ _ _).carried h
  | ori => exact (execOri_keeps _ _ _ _ _).carried h
  | xori => exact (execXori_keeps _ _ _ _ _).carried h
  | shifti => exact (execShifti_keeps _ _ _ _ _ _).carried h
  | lui => exact (execLui_keeps _ _ _ _).carried h
  | slti => exact (execSlti_keeps _ _ _ _ _).carried h
  | sltiu => exact (execSltiu_keeps _ _ _ _ _).carried h
  | amov => exact (execAmov_keeps _ _ _ _).carried h
  | smov => exact (execSmov_keeps _ _ _ _).carried h
  | aadd => exact (execAadd_keeps _ _ _ _ _).carried h
  | aaddi => exact (execAaddi_keeps _ _ _ _ _).carried h
  | ali => exact (execAli_keeps _ _ _ _).carried h
  | li => exact (execLi_keeps _ _ _ _).carried h
  | lw => exact (execLw_keeps _ _ _ _ _ _).carried h
  | lh => exact (execLh_keeps _ _ _ _ _ _).carried h
  | lhu => exact (execLhu_keeps _ _ _ _ _ _).carried h
  | lb => exact (execLb_keeps _ _ _ _ _ _).carried h
  | lbu => exact (execLbu_keeps _ _ _ _ _ _).carried h
  | sw => exact (execSw_keeps _ _ _ _ _ _).carried h
  | sh => exact (execSh_keeps _ _ _ _ _ _).carried h
  | sb => exact (execSb_keeps _ _ _ _ _ _).carried h
  | vld => exact (execVld_keeps _ _ _ _ _ _ _).carried h
  | vst => exact (execVst_keeps _ _ _ _ _ _ _).carried h
  | pand => exact (execPand_keeps _ _ _ _ _).carried h
  | por => exact (execPor_keeps _ _ _ _ _).carried h
  | pxor => exact (execPxor_keeps _ _ _ _ _).carried h
  | pandn => exact (execPandn_keeps _ _ _ _ _).carried h
  | pnot => exact (execPnot_keeps _ _ _ _).carried h
  | pmovs => exact (execPmovs_keeps _ _ _ _).carried h
  | smovp => exact (execSmovp_keeps _ _ _ _).carried h
  | pcnt => exact (execPcnt_keeps _ _ _ _).carried h
  | vadd => exact (execVadd_keeps _ _ _ _ _ _ _).carried h
  | vsub => exact (execVsub_keeps _ _ _ _ _ _ _).carried h
  | vmul => exact (execVmul_keeps _ _ _ _ _ _ _).carried h
  | vfma => exact (execVfma_keeps _ _ _ _ _ _ _).carried h
  | vmin => exact (execVmin_keeps _ _ _ _ _ _ _).carried h
  | vmax => exact (execVmax_keeps _ _ _ _ _ _ _).carried h
  | vabs => exact (execVabs_keeps _ _ _ _ _ _).carried h
  | vneg => exact (execVneg_keeps _ _ _ _ _ _).carried h
  | vand => exact (execVand_keeps _ _ _ _ _ _ _).carried h
  | vor => exact (execVor_keeps _ _ _ _ _ _ _).carried h
  | vxor => exact (execVxor_keeps _ _ _ _ _ _ _).carried h
  | vsll => exact (execVsll_keeps _ _ _ _ _ _ _).carried h
  | vsrl => exact (execVsrl_keeps _ _ _ _ _ _ _).carried h
  | vsra => exact (execVsra_keeps _ _ _ _ _ _ _).carried h
  | vcmpeq => exact (execVcmpeq_keeps _ _ _ _ _ _ _).carried h
  | vcmplt => exact (execVcmplt_keeps _ _ _ _ _ _ _).carried h
  | vcmple => exact (execVcmple_keeps _ _ _ _ _ _ _).carried h
  | vsel => exact (execVsel_keeps _ _ _ _ _ _ _).carried h
  | vredadd => exact (execVredadd_keeps _ _ _ _ _ _).carried h
  | vredmax => exact (execVredmax_keeps _ _ _ _ _ _).carried h
  | vexp2 => exact (execVexp2_keeps _ _ _ _ _ _).carried h
  | vrcp => exact (execVrcp_keeps _ _ _ _ _ _).carried h
  | vrsqrt => exact (execVrsqrt_keeps _ _ _ _ _ _).carried h
  | vbcast => exact (execVbcast_keeps _ _ _ _ _).carried h
  | vext => exact (execVext_keeps _ _ _ _ _ _).carried h
  | vins => exact (execVins_keeps _ _ _ _ _ _).carried h
  | vbcasti => exact (execVbcasti_keeps _ _ _ _ _).carried h
  | vqscale => exact (execVqscale_keeps _ _ _ _ _ _ _).carried h
  | vquant => exact (execVquant_keeps _ _ _ _ _ _ _).carried h
  | vdq => exact (execVdq_keeps _ _ _ _ _ _ _).carried h
  | vcvt => exact (execVcvt_keeps _ _ _ _ _ _).carried h
  | beq => exact (execBeq_keeps _ _ _ _ _).carried h
  | bne => exact (execBne_keeps _ _ _ _ _).carried h
  | blt => exact (execBlt_keeps _ _ _ _ _).carried h
  | bge => exact (execBge_keeps _ _ _ _ _).carried h
  | bltu => exact (execBltu_keeps _ _ _ _ _).carried h
  | bgeu => exact (execBgeu_keeps _ _ _ _ _).carried h
  | dbnz => exact (execDbnz_keeps _ _ _ _).carried h
  | jal => exact (execJal_keeps _ _ _).carried h
  | jalr => exact (execJalr_keeps _ _ _ _ _).carried h
  | jl => exact (execJl_keeps _ _ _ _).carried h
  | nop => exact (execNop_keeps _ _).carried h
  | halt => exact (execHalt_keeps _ _).carried h
  | fenceL => exact (execFenceL_keeps _ _).carried h
  | fenceF => exact (execFenceF_keeps _ _).carried h
  | fence => exact (execFence_keeps _ _).carried h
  | trap => exact (execTrap_keeps _ _ _).carried h
  | fetch => exact (execFetch_keeps _ _).carried h
  | waitConditionMet => exact (execWaitConditionMet_keeps _ _).carried h
  | mm => exact (execMm_keeps _ _ _ _ _ _ _ _).carried h
  | mmStart => exact (execMmStart_keeps _ _ _).carried h
  | mmComplete => exact (execMmComplete_keeps _ _ _).carried h
  | acczero => exact (execAcczero_keeps _ _ _).carried h
  | accrd => exact (execAccrd_keeps _ _ _ _ _ _).carried h
  | accwr => exact (execAccwr_keeps _ _ _ _ _ _).carried h
  | accst => exact (execAccst_keeps _ _ _ _ _).carried h
  | accld => exact (execAccld_keeps _ _ _ _ _).carried h
  | dld => exact (execDld_keeps _ _ _ _ _).carried h
  | dst => exact (execDst_keeps _ _ _ _ _).carried h
  | dmov => exact (execDmov_keeps _ _ _ _).carried h
  | dbase => exact (execDbase_keeps _ _ _ _).carried h
  | dadd => exact (execDadd_keeps _ _ _ _).carried h
  | tset => exact (execTset_keeps _ _ _).carried h
  | tclr => exact (execTclr_keeps _ _ _).carried h
  | twait => exact (execTwait_keeps _ _ _).carried h
  | twaitk => exact (execTwaitk_keeps _ _ _).carried h
  | ttest => exact (execTtest_keeps _ _ _ _).carried h
  | trset => exact (execTrset_keeps _ _ _ _).carried h
  | chadd => exact (execChadd_keeps _ _ _ _ _).carried h
  | chwatch => exact (execChwatch_keeps _ _ _ _ _ _).carried h
  | chwait => exact (execChwait_keeps _ _ _ _ _ _).carried h
  | dbarrive => exact (execDbarrive_keeps _ _ _).carried h
  | dbwait => exact (execDbwait_keeps _ _ _ _).carried h
  | dbsync => exact (execDbsync_keeps _ _ _ _).carried h
  | dbstat => exact (execDbstat_keeps _ _ _ _).carried h
  | sattach => exact (execSattach_keeps _ _ _).carried h
  | sdetach => exact (execSdetach_keeps _ _ _).carried h
  | srel => exact (execSrel_keeps _ _ _ _).carried h
  | swait => exact (execSwait_keeps _ _ _ _).carried h
  | sfwait => exact (execSfwait_keeps _ _ _ _).carried h
  | sfrel => exact (execSfrel_keeps _ _ _ _).carried h
  | send => exact (execSend_keeps _ _ _ _ _ _ _ _).carried h
  | mcast => exact (execMcast_keeps _ _ _ _ _ _ _ _).carried h
  | corePuReport => exact (execCorePuReport_keeps _ _ _ _ _ _).carried h
  | coreLaneEnWrite => exact (execCoreLaneEnWrite_keeps _ _ _ _ _ _).carried h
  | injectTake => exact (execInjectTake_keeps _ _).carried h
  | trackMove => exact (execTrackMove_keeps _ _ _).carried h
  | trackMerge => exact (execTrackMerge_keeps _ _ _).carried h
  | scheduleStall => exact (execScheduleStall_keeps _ _ _).carried h
  | write => exact (execWrite_keeps _ _).carried h
  | tapset => exact (execTapset_keeps _ _).carried h
  | ack => exact (execAck_keeps _ _ _).carried h
  | routerLoss => exact (execRouterLoss_keeps _ _).carried h
  | routeLostRunningFence => exact (execRouteLostRunningFence_keeps _ _).carried h
  | advance => exact (execAdvance_keeps _ _).carried h
  | watch => exact (execWatch_keeps _ _).carried h
  | laneArrival => exact (execLaneArrival_keeps _ _ _).carried h
  | laneTimeout => exact (execLaneTimeout_keeps _ _).carried h
  | syncChimeAdd => exact (execSyncChimeAdd_keeps _ _ _).carried h
  | syncPairCfgWrite => exact (execSyncPairCfgWrite_keeps _ _ _).carried h
  | syncLaneCtrlWrite => exact (execSyncLaneCtrlWrite_keeps _ _ _ _).carried h
  | syncLaneMaskWrite => exact (execSyncLaneMaskWrite_keeps _ _ _ _ _).carried h
  | attach => exact (execAttach_keeps _ _ _).carried h
  | detach => exact (execDetach_keeps _ _).carried h
  | rel => exact (execRel_keeps _ _).carried h
  | frelPacket => exact (execFrelPacket_keeps _ _).carried h
  | strmWrite => exact (execStrmWrite_keeps _ _).carried h
  | strmRead => exact (execStrmRead_keeps _ _).carried h
  | strmStart => exact (execStrmStart_keeps _ _ _).carried h
  | strmCmdFrel => exact (execStrmCmdFrel_keeps _ _ _).carried h
  | pieceIssue => exact (execPieceIssue_keeps _ _ _).carried h
  | pieceComplete => exact (execPieceComplete_keeps _ _ _ _ _).carried h
  | outboundBufferReceive => exact (execOutboundBufferReceive_keeps _ _).carried h
  | bufferDrained => exact (execBufferDrained_keeps _ _ _).carried h
  | maskChimeReached => exact (execMaskChimeReached_keeps _ _ _).carried h
  | copyComplete => exact (execCopyComplete_keeps _ _ _).carried h
  | sliceInputDelivery => exact (execSliceInputDelivery_keeps _ _).carried h
  | passComputeDone => exact (execPassComputeDone_keeps _ _).carried h
  | maskRecordWritten => exact (execMaskRecordWritten_keeps _ _).carried h
  | pu => exact (execPu_keeps _ _).carried h
  | frameFillDone => exact (execFrameFillDone_keeps _ _).carried h
  | stackOffline => exact (execStackOffline_keeps _ _).carried h
  | stackOnline => exact (execStackOnline_keeps _ _).carried h
  | frameCopyDone => exact (execFrameCopyDone_keeps _ _).carried h
  | t2Scrub => exact (execT2Scrub_keeps _ _ _).carried h
  | writeBase => exact (execWriteBase_keeps _ _).carried h
  | writeAdd => exact (execWriteAdd_keeps _ _).carried h
  | delAdd => exact (execDelAdd_keeps _ _).carried h
  | xferDone => exact (execXferDone_keeps _ _ _).carried h
  | installBegin => exact (execInstallBegin_keeps _ _).carried h
  | commit => exact (execCommit_keeps _).carried h
  | buildBegin => exact (execBuildBegin_keeps _ _).carried h
  | switch => exact (execSwitch_keeps _).carried h
  | setAbort => exact (execSetAbort_keeps _).carried h
  | setDelete => exact (execSetDelete_keeps _).carried h
  | drainComplete => exact (execDrainComplete_keeps _ _).carried h
  | eraseComplete => exact (execEraseComplete_keeps _ _).carried h
  | wstBind => exact (execWstBind_keeps _ _).carried h
  | ctlOffline => exact (execCtlOffline_keeps _ _).carried h
  | ctlOnline => exact (execCtlOnline_keeps _ _).carried h
  | rebuildDone => exact (execRebuildDone_keeps _ _).carried h
  | refreshUnit => exact (execRefreshUnit_keeps _ _ _).carried h
  | refreshAge => exact (execRefreshAge_keeps _ _ _).carried h
  | wearLevelMove => exact (execWearLevelMove_keeps _ _ _ _ _).carried h
  | signalDetect => exact (execSignalDetect_keeps _ _).carried h
  | lockAcquired => exact (execLockAcquired_keeps _ _).carried h
  | trainingTimeout => exact (execTrainingTimeout_keeps _ _).carried h
  | lossOfLock => exact (execLossOfLock_keeps _ _).carried h
  | mka => exact (execMka_keeps _ _ _).carried h
  | portStalled => exact (execPortStalled_keeps _ _).carried h
  | pauseEnd => exact (execPauseEnd_keeps _ _ _).carried h
  | xoffIn => exact (execXoffIn_keeps _ _ _ _).carried h
  | pfcFrame => exact (execPfcFrame_keeps _ _ _ _ _).carried h
  | pfcResend => exact (execPfcResend_keeps _ _).carried h
  | portOffline => exact (execPortOffline_keeps _ _).carried h
  | portOnline => exact (execPortOnline_keeps _ _).carried h
  | retrain => exact (execRetrain_keeps _ _).carried h
  | portFailed => exact (execPortFailed_keeps _ _).carried h
  | frameReceive => exact (execFrameReceive_keeps _ _ _).carried h
  | connect => exact (execConnect_keeps _ _).carried h
  | accept => exact (execAccept_keeps _ _).carried h
  | zaruxAck => exact (execZaruxAck_keeps _ _).carried h
  | nak => exact (execNak_keeps _ _).carried h
  | verdict => exact (execVerdict_keeps _ _).carried h
  | data => exact (execData_keeps _ _).carried h
  | result => exact (execResult_keeps _ _).carried h
  | zaruxAbort => exact (execZaruxAbort_keeps _ _).carried h
  | notice => exact (execNotice_keeps _ _).carried h
  | dataPlacement => exact (execDataPlacement_keeps _ _).carried h
  | frameSend => exact (execFrameSend_keeps _ _).carried h
  | ackTimer => exact (execAckTimer_keeps _ _ _).carried h
  | rtoExpiry => exact (execRtoExpiry_keeps _ _ _ _).carried h
  | ptpEventMessage => exact (execPtpEventMessage_keeps _ _ _ _).carried h
  | neighbourSolicitation => exact (execNeighbourSolicitation_keeps _ _ _ _).carried h
  | wpNqDataRead => exact (execWpNqDataRead_keeps _ _ _).carried h
  | wpPeerCtrlWrite => exact (execWpPeerCtrlWrite_keeps _ _ _).carried h
  | chainStart => exact (execChainStart_keeps _ _).carried h
  | stop => exact (execStop_keeps _ _).carried h
  | strikeStart => exact (execStrikeStart_keeps _ _ _).carried h
  | strikeComplete => exact (execStrikeComplete_keeps _ _ _ _).carried h
  | collTimeout => exact (execCollTimeout_keeps _ _ _ _).carried h
  | set => exact (execSet_keeps _ _).carried h
  | reform => exact (execReform_keeps _ _).carried h
  | hqQDb => exact (execHqQDb_keeps _ _ _ _).carried h
  | hqQCtrlWrite => exact (execHqQCtrlWrite_keeps _ _ _ _).carried h
  | hqQCplHeadWrite => exact (execHqQCplHeadWrite_keeps _ _ _ _).carried h
  | stoppedAck => exact (execStoppedAck_keeps _ _ _).carried h
  | commandFetch => exact (execCommandFetch_keeps _ _ _ _).carried h
  | hqNop => exact (execHqNop_keeps _ _ _).carried h
  | writeT2 => exact (execWriteT2_keeps _ _ _).carried h
  | readT2 => exact (execReadT2_keeps _ _ _).carried h
  | load => exact (execLoad_keeps _ _ _).carried h
  | hqStart => exact (execHqStart_keeps _ _ _).carried h
  | chimeAdd => exact (execChimeAdd_keeps _ _ _).carried h
  | chimeWait => exact (execChimeWait_keeps _ _ _).carried h
  | save => exact (execSave_keeps _ _ _).carried h
  | restore => exact (execRestore_keeps _ _ _).carried h
  | reinit => exact (execReinit_keeps _ _ _).carried h
  | commandComplete => exact (execCommandComplete_keeps _ _ _).carried h
  | commandTimeout => exact (execCommandTimeout_keeps _ _ _).carried h
  | hostReadCompletion => exact (execHostReadCompletion_keeps _ _ _ _).carried h
  | vfFlr => exact (execVfFlr_keeps _ _).carried h
  | pfFlr => exact (execPfFlr_keeps _).carried h
  | perst => exact (execPerst_keeps _).carried h
  | create => exact (execCreate_keeps _).carried h
  | resize => exact (execResize_keeps _).carried h
  | reset => exact (execReset_keeps _).carried h
  | destroy => exact (execDestroy_keeps _).carried h
  | transit => exact (execTransit_keeps _).carried h
  | partitionResetDone => exact (execPartitionResetDone_keeps _ _).carried h
  | decisionCycle => exact (execDecisionCycle_keeps _ _).carried h
  | rampDone => exact (execRampDone_keeps _ _).carried h
  | rampShort => exact (execRampShort_keeps _ _ _).carried h
  | retryExpiry => exact (execRetryExpiry_keeps _ _).carried h
  | shortTrip => exact (execShortTrip_keeps _ _ _).carried h
  | overcurrent => exact (execOvercurrent_keeps _ _ _).carried h
  | regionLost => exact (execRegionLost_keeps _ _ _).carried h
  | sensorExcluded => exact (execSensorExcluded_keeps _ _ _ _ _).carried h
  | sensorSample => exact (execSensorSample_keeps _ _).carried h
  | converterLost => exact (execConverterLost_keeps _ _).carried h
  | retentionDroop => exact (execRetentionDroop_keeps _ _).carried h
  | chipletLinkRequest => exact (execChipletLinkRequest_keeps _ _ _).carried h
  | linkChangeDone => exact (execLinkChangeDone_keeps _ _).carried h
  | writeSeg => exact (execWriteSeg_keeps _ _ _).carried h
  | clearSeg st seg => exact (execClearSeg_keeps st seg s).carried h
  | clearAll st => exact (execClearAll_keeps st s).carried h
  | pwrSegCfgWrite => exact (execPwrSegCfgWrite_keeps _ _ _).carried h
  | pwrSegDataWrite => exact (execPwrSegDataWrite_keeps _ _ _).carried h
  | pwrEnvCtrlWrite st v => exact (execPwrEnvCtrlWrite_keeps st v s).carried h
  | envFrozen => exact (execEnvFrozen_keeps _).carried h
  | setLaneTimeout => exact (execSetLaneTimeout_keeps _ _).carried h
  | wake => exact (execWake_keeps _ _).carried h
  | setThrottle => exact (execSetThrottle_keeps _ _).carried h
  | setParkHold => exact (execSetParkHold_keeps _ _).carried h
  | takeover => exact (execTakeover_keeps _ _).carried h
  | standbyLost => exact (execStandbyLost_keeps _).carried h
  | mmcHeartbeatTimeout => exact (execMmcHeartbeatTimeout_keeps _).carried h
  | mmcLost => exact (execMmcLost_keeps _).carried h
  | safeStop => exact (execSafeStop_keeps _ _).carried h
  | logRecordWrite => exact (execLogRecordWrite_keeps _).carried h
  | logFetch => exact (execLogFetch_keeps _ _ _).carried h
  | logFetchDone => exact (execLogFetchDone_keeps _ _).carried h
  | powerUpTest => exact (execPowerUpTest_keeps _ _).carried h
  | bist => exact (execBist_keeps _ _ _).carried h
  | repair => exact (execRepair_keeps _ _).carried h
  | unitTest => exact (execUnitTest_keeps _ _).carried h
  | testAbort => exact (execTestAbort_keeps _ _).carried h
  | bistRunStart => exact (execBistRunStart_keeps _ _).carried h
  | bistRunDone => exact (execBistRunDone_keeps _ _ _).carried h
  | unitTestDone => exact (execUnitTestDone_keeps _ _ _).carried h
  | repairDone => exact (execRepairDone_keeps _ _ _).carried h
  | unwrap => exact (execUnwrap_keeps _ _ _ _ _).carried h
  | keyDelete => exact (execKeyDelete_keeps _ _).carried h
  | getVersion => exact (execGetVersion_keeps _ _).carried h
  | getCapabilities => exact (execGetCapabilities_keeps _ _).carried h
  | negotiateAlgorithms => exact (execNegotiateAlgorithms_keeps _ _ _).carried h
  | getDigests => exact (execGetDigests_keeps _ _).carried h
  | getCertificate => exact (execGetCertificate_keeps _ _ _).carried h
  | challenge => exact (execChallenge_keeps _ _ _).carried h
  | getMeasurements => exact (execGetMeasurements_keeps _ _ _ _).carried h
  | spdmUnsupportedRequest => exact (execSpdmUnsupportedRequest_keeps _ _ _).carried h
  | errRingCtrlWrite => exact (execErrRingCtrlWrite_keeps _ _ _).carried h
  | modRst => exact (execModRst_keeps _ _).carried h
  | epo => exact (execEpo_keeps _ _).carried h
  | busRange => exact (execBusRange_keeps _ _).carried h
  | busbarLoss => exact (execBusbarLoss_keeps _).carried h
  | coolantSample => exact (execCoolantSample_keeps _ _ _ _ _).carried h
  | leak => exact (execLeak_keeps _).carried h
  | shutdown => exact (execShutdown_keeps _ _ _).carried h
  | restart => exact (execRestart_keeps _ _ _).carried h
  | readWindow => exact (execReadWindow_keeps _ _ _).carried h
  | pinFunc => exact (execPinFunc_keeps _ _ _).carried h
  | mfParkEnd => exact (execMfParkEnd_keeps _ _).carried h
  | status => exact (execStatus_keeps _ _ _).carried h
  | clearAlert => exact (execClearAlert_keeps _ _ _).carried h
  | mctp => exact (execMctp_keeps _ _ _ _).carried h
  | smbusUndefinedCommand b code => exact (execSmbusUndefinedCommand_keeps b code s).carried h
  | alertResponse => exact (execAlertResponse_keeps _ _).carried h
  | clockLowTimeout b => exact (execClockLowTimeout_keeps b s).carried h
  | arbitrationLost b late => exact (execArbitrationLost_keeps b late s).carried h
  | mctpRetry => exact (execMctpRetry_keeps _ _ _).carried h
  | ppsRise => exact (execPpsRise_keeps _).carried h
  | ppsFall => exact (execPpsFall_keeps _).carried h
  | transceiverEvent => exact (execTransceiverEvent_keeps _ _ _).carried h
  | lowWordRead => exact (execLowWordRead_keeps _ _ _).carried h
  | ptpLockLost => exact (execPtpLockLost_keeps _).carried h
  | bistSliceDone => exact (execBistSliceDone_keeps _ _).carried h
  | partCmdComplete => exact (execPartCmdComplete_keeps _).carried h
  | deploy => cases h; exact lcDeploy_carried s
  | enterService => cases h; exact lcEnter_carried s
  | leaveService => cases h; exact lcLeave_carried s
  | retire c => cases h; exact lcRetire_carried s c
  | finalise => cases h; exact lcFinalise_carried s
  | powerUpSequence i => cases h; exact powerUp_carried s i
  | registerWrite fn off v sz =>
    cases h
    split
    · exact writeReg_carried ..
    · exact .of_kept rfl id
  | writeWindow b d => cases h; exact sbCmd_carried s b d 8 fun l => writeReg_carried ..
  | factory b d m =>
    cases h
    refine sbCmd_carried s b d 2 fun l => ?_
    split
    · exact lcFinalise_carried s
    · exact .of_kept (by simp) (by simp)

/-! ## What a step keeps -/

/-- A step runs the command at the front of the queue, or leaves the state as it is. -/
theorem step_eq_next {s t : State} (h : step s = .next t) :
    t = s ∨ ∃ c rest, s.pending = c :: rest ∧ exec c { s with pending := rest } = .next t := by
  unfold step at h
  split at h
  · cases h
    exact .inl rfl
  · next c rest hp => exact .inr ⟨c, rest, hp, h⟩

theorem step_life {s t : State} (h : step s = .next t) : LifeKept s t := by
  obtain rfl | ⟨c, rest, -, hx⟩ := step_eq_next h
  · exact .of_kept rfl
  · exact (exec_carried c _ t hx).life

theorem step_memWf {s t : State} (h : step s = .next t) (hw : s.MemWf) : t.MemWf := by
  obtain rfl | ⟨c, rest, -, hx⟩ := step_eq_next h
  · exact hw
  · exact (exec_carried c _ t hx).mem (hw.of_parts rfl rfl rfl)

/-- Settles O55: each life-cycle command is refused in the states it may not leave, and no other command writes the life cycle. -/
theorem lifeCycleInvariant : Obligations.LifeCycleInvariant := by
  unfold Obligations.LifeCycleInvariant
  refine ⟨fun s t hr h => (step_life h).1 hr, ?_⟩
  rintro s t g ds ⟨hm, rfl, rfl⟩ h
  exact (step_life h).2 hm

/-- Settles O56: every operation of the model writes a memory only through `Memory.setNat`, or drops it. -/
theorem memoriesStayCanonical : Obligations.MemoriesStayCanonical := by
  unfold Obligations.MemoriesStayCanonical
  intro s t hw h
  exact (memWf_iff t).mpr (step_memWf h ((memWf_iff s).mp hw))

/-- Settles O54: no command reads or writes the queue it was taken from. -/
theorem queueIsFifo : Obligations.QueueIsFifo := by
  unfold Obligations.QueueIsFifo
  refine ⟨fun i s t h => (exec_carried i s t h).pending, fun s t c rest hp h => ?_⟩
  have hx : exec c { s with pending := rest } = .next t := by simpa only [step, hp] using h
  exact (exec_carried c _ t hx).pending

/-- Settles O52, by the two branches of `step`. -/
theorem stepTakesFront : Obligations.StepTakesFront := by
  unfold Obligations.StepTakesFront
  refine ⟨fun s c rest => rfl, fun s hp => ?_⟩
  simp only [step, hp]

/-- At reset no register is listed, so each reads as its reset value. -/
theorem regGet_reset (fn idx off : Nat) : regGet State.reset fn idx off = (regSpec off).reset := rfl

/-- Settles O53: at reset every table is empty, so each entry reads as its default. -/
theorem resetState : Obligations.ResetState := by
  unfold Obligations.ResetState
  refine ⟨rfl, memoriesWf_reset, rfl, rfl, rfl, rfl, fun c => ⟨rfl, rfl, fun a => rfl, fun r => ?_, fun r => ?_⟩, fun p => rfl, fun r => rfl,
    fun n => rfl, fun c => rfl, fun a => rfl, fun e he fn x => ?_⟩
  · show (if r = 0 then PWord.zero else PWord.zero) = PWord.zero
    exact ite_self _
  · rfl
  · rw [regGet_reset]
    revert e
    decide

/-- Settles O11: each word is a constant, so decoding it is a computation. -/
theorem wordsDecode : Obligations.WordsDecode := by
  unfold Obligations.WordsDecode
  intro c
  exact ⟨rfl, rfl, rfl, rfl, rfl, rfl⟩

end Sys2Proof.Machine
end

section
/-! PROOFS. The issue of an instruction: the core it leaves, and the three outcomes the claims name. -/

namespace Sys2Proof.Machine

open Sys2Proof.Claims

/-! ## The core an instruction leaves -/

/-- k is the core k1 after it retired at `next`: the latch empty, the state RUNNING, the counters of R52 moved. -/
def LeftBy (k1 : Core) (next : Word) (k : Core) : Prop :=
  ∃ x b g, k = { k1 with pc := next, ir := none, wait := none, st := .running, ctl := x, cntBeats := b, cntBank := g } ∧
    ∀ o, o ≠ 0x48 → o ≠ 0x4C → k.ctlW o = k1.ctlW o

/-- Work on a core that leaves its control registers alone but for POISON_SEEN, the poison counter and those of `os`. -/
def CtlLeft (os : List Nat) (k0 k1 : Core) : Prop := ∀ o, o ∉ [0x04, 0x70, 0x74] ++ os → k1.ctlW o = k0.ctlW o

section
variable {k0 k1 k : Core} {next : Word} {os : List Nat}

theorem LeftBy.rs (h : LeftBy k1 next k) : k.rs = k1.rs := by
  obtain ⟨x, b, g, rfl, -⟩ := h
  rfl

theorem LeftBy.ra (h : LeftBy k1 next k) : k.ra = k1.ra := by
  obtain ⟨x, b, g, rfl, -⟩ := h
  rfl

theorem LeftBy.rp (h : LeftBy k1 next k) : k.rp = k1.rp := by
  obtain ⟨x, b, g, rfl, -⟩ := h
  rfl

theorem LeftBy.rv (h : LeftBy k1 next k) : k.rv = k1.rv := by
  obtain ⟨x, b, g, rfl, -⟩ := h
  rfl

theorem LeftBy.rd (h : LeftBy k1 next k) : k.rd = k1.rd := by
  obtain ⟨x, b, g, rfl, -⟩ := h
  rfl

theorem LeftBy.accGet (h : LeftBy k1 next k) : k.accGet = k1.accGet := by
  obtain ⟨x, b, g, rfl, -⟩ := h
  rfl

theorem LeftBy.mem (h : LeftBy k1 next k) : k.mem = k1.mem := by
  obtain ⟨x, b, g, rfl, -⟩ := h
  rfl

theorem LeftBy.ctlKept (h : LeftBy k1 next k) (hc : CtlLeft os k0 k1) : CtlKept os k0 k := by
  obtain ⟨x, b, g, -, hk⟩ := h
  intro o ho
  simp only [List.cons_append, List.nil_append, List.mem_cons, not_or] at ho
  obtain ⟨h04, h48, h4C, h70, h74, hos⟩ := ho
  rw [hk o h48 h4C, hc o (by simp [h04, h70, h74, hos])]

theorem LeftBy.frame (h : LeftBy k1 next k) {u : Core → Core} (hu : ∃ y, k1 = { u k0 with ctl := y }) (hc : CtlLeft os k0 k1) :
    FrameC os k0 k u := by
  refine ⟨?_, h.ctlKept hc⟩
  obtain ⟨x, b, g, rfl, -⟩ := h
  obtain ⟨y, hy⟩ := hu
  rw [hy]

theorem LeftBy.onlyS (h : LeftBy k1 next k) (hf : ∃ x y, k1 = { k0 with s := x, ctl := y }) (hc : CtlLeft [] k0 k1) : OnlyS k0 k := by
  refine ⟨?_, h.ctlKept hc⟩
  obtain ⟨x, b, g, rfl, -⟩ := h
  obtain ⟨z, y, rfl⟩ := hf
  rfl

theorem LeftBy.onlyA (h : LeftBy k1 next k) (hf : ∃ x y, k1 = { k0 with a := x, ctl := y }) (hc : CtlLeft [] k0 k1) : OnlyA k0 k := by
  refine ⟨?_, h.ctlKept hc⟩
  obtain ⟨x, b, g, rfl, -⟩ := h
  obtain ⟨z, y, rfl⟩ := hf
  rfl

theorem LeftBy.onlyP (h : LeftBy k1 next k) (hf : ∃ x y, k1 = { k0 with p := x, ctl := y }) (hc : CtlLeft [] k0 k1) :
    Claims.Frame k0 k (fun x => { x with p := k.p }) := by
  refine ⟨?_, h.ctlKept hc⟩
  obtain ⟨x, b, g, rfl, -⟩ := h
  obtain ⟨z, y, rfl⟩ := hf
  rfl

theorem LeftBy.frameV (h : LeftBy k1 next k) (hf : ∃ x y, k1 = { k0 with v := x, ctl := y }) (hc : CtlLeft os k0 k1) :
    FrameC os k0 k (fun x => { x with v := k.v }) := by
  refine ⟨?_, h.ctlKept hc⟩
  obtain ⟨x, b, g, rfl, -⟩ := h
  obtain ⟨z, y, rfl⟩ := hf
  rfl

end

/-! ## What an issued instruction answers -/

section
variable {i j : Instr} {s : State} {c : CoreId} {f : Core → Issued}

theorem retires_of_issue (hx : exec i s = .next (issue c j s f)) (hr : Ready s c j) {k1 : Core} {next : Word}
    (hf : f (s.core c) = .retire k1 next) {P : Core → Prop} (hP : ∀ k, LeftBy k1 next k → P k) : Retires i s c next P := by
  obtain ⟨k, hk, he, hc⟩ := issue_retire c j s f k1 next hr.1 hr.2 hf
  refine ⟨k, hx.trans (congrArg _ hk), ?_, ?_, ?_, ?_, hP k ⟨_, _, _, he, hc⟩⟩
  all_goals rw [he]

theorem faults_of_issue (hx : exec i s = .next (issue c j s f)) (hr : Ready s c j) {cause : Cause}
    (hf : f (s.core c) = .fault cause) : Faults i s c cause :=
  hx.trans (congrArg _ (issue_fault c j s f cause hr.1 hr.2 hf))

theorem stalls_of_issue (hx : exec i s = .next (issue c i s f)) (hr : Ready s c i) (hf : f (s.core c) = .stall) : Stalls i s c :=
  hx.trans (congrArg _ (issue_stall c i s f hr.1 hr.2 hf))

/-- The partition of a core does not depend on what its core holds. -/
theorem isRouteLost_setCore (s : State) (c d : CoreId) (k : Core) : isRouteLost (s.setCore d k) c = isRouteLost s c := rfl

/-- An instruction that waits, where the partition is not route-lost or it waits on a lane (R446). -/
theorem next_of_wait (hx : exec i s = .next (issue c j s f)) (hr : Ready s c j) {k : Core} {w : WaitCond} (hf : f (s.core c) = .wait k w)
    (hl : isRouteLost s c = false ∨ ∃ l r, w = .lane l r) :
    exec i s = .next (s.setCore c { k with st := .waiting, ir := some j, wait := some w }) := by
  rw [hx]
  simp only [issue, hr.1, hr.2, and_self, if_true, hf, finish]
  obtain hl | ⟨l, r, rfl⟩ := hl
  · cases w <;> simp [isRouteLost_setCore, hl]
  · rfl

theorem waits_of_issue (hx : exec i s = .next (issue c i s f)) (hr : Ready s c i) {w : WaitCond} (hf : f (s.core c) = .wait (s.core c) w)
    (hl : isRouteLost s c = false ∨ ∃ l r, w = .lane l r) : Waits i s c w := next_of_wait hx hr hf hl

end

/-! ## The frame of the operations on a core -/

theorem CtlLeft.refl (os : List Nat) (k : Core) : CtlLeft os k k := fun _ _ => rfl

theorem CtlLeft.trans {os : List Nat} {k0 k1 k2 : Core} (h1 : CtlLeft os k0 k1) (h2 : CtlLeft os k1 k2) : CtlLeft os k0 k2 :=
  fun o ho => (h2 o ho).trans (h1 o ho)

theorem CtlLeft.of_ctl {os : List Nat} {k0 k1 : Core} (h : k1.ctl = k0.ctl) : CtlLeft os k0 k1 := fun o _ => by simp [Core.ctlW, h]

theorem CtlLeft.mono {os os' : List Nat} {k0 k1 : Core} (h : CtlLeft os k0 k1) (hs : os ⊆ os') : CtlLeft os' k0 k1 := fun o ho =>
  h o fun hm => ho (by
    simp only [List.mem_append] at hm ⊢
    exact hm.imp_right fun e => hs e)

theorem Core.consume_ctlLeft (k : Core) (n : Nat) : CtlLeft [] k (k.consume n) := by
  obtain ⟨x, hx, hj⟩ := k.consume_eq n
  intro o ho
  simp only [List.append_nil, List.mem_cons, List.not_mem_nil, or_false, not_or] at ho
  obtain ⟨h04, h70, h74⟩ := ho
  rw [hx, hj o h70 h74]
  simp [h04]

theorem Core.consume_form (k : Core) (n : Nat) : ∃ y, k.consume n = { k with ctl := y } :=
  let ⟨x, hx, _⟩ := k.consume_eq n
  ⟨x, hx⟩

theorem Core.setS_form (k : Core) (r : Fin 32) (w : PWord) : ∃ x, k.setS r w = { k with s := x } := by
  unfold Core.setS
  split
  · exact ⟨k.s, rfl⟩
  · exact ⟨_, rfl⟩

theorem Core.setP_form (k : Core) (r : Fin 8) (w : Word) : ∃ x, k.setP r w = { k with p := x } := by
  unfold Core.setP
  split
  · exact ⟨k.p, rfl⟩
  · exact ⟨_, rfl⟩

@[simp] theorem Core.consume_rs (k : Core) (n : Nat) : (k.consume n).rs = k.rs := by
  obtain ⟨y, hy⟩ := k.consume_form n
  rw [hy]
  rfl

@[simp] theorem Core.consume_ra (k : Core) (n : Nat) : (k.consume n).ra = k.ra := by
  obtain ⟨y, hy⟩ := k.consume_form n
  rw [hy]
  rfl

@[simp] theorem Core.consume_rp (k : Core) (n : Nat) : (k.consume n).rp = k.rp := by
  obtain ⟨y, hy⟩ := k.consume_form n
  rw [hy]
  rfl

@[simp] theorem Core.consume_rv (k : Core) (n : Nat) : (k.consume n).rv = k.rv := by
  obtain ⟨y, hy⟩ := k.consume_form n
  rw [hy]
  rfl

@[simp] theorem Core.consume_rd (k : Core) (n : Nat) : (k.consume n).rd = k.rd := by
  obtain ⟨y, hy⟩ := k.consume_form n
  rw [hy]
  rfl

/-- Scalar results: s[rd] written after n poisoned words were consumed. -/
theorem setS_consume_form (k : Core) (n : Nat) (rd : Fin 32) (w : PWord) :
    (∃ x y, (k.consume n).setS rd w = { k with s := x, ctl := y }) ∧ CtlLeft [] k ((k.consume n).setS rd w) := by
  obtain ⟨y, hy⟩ := k.consume_form n
  obtain ⟨x, hx⟩ := (k.consume n).setS_form rd w
  refine ⟨⟨x, y, by rw [hx, hy]⟩, (k.consume_ctlLeft n).trans (.of_ctl (by rw [hx]))⟩

theorem LeftBy.scalar {k0 k : Core} {n : Nat} {rd : Fin 32} {w : PWord} {next : Word} (h : LeftBy ((k0.consume n).setS rd w) next k) :
    OnlyS k0 k ∧ SetsS k0 k rd w := by
  obtain ⟨hf, hc⟩ := setS_consume_form k0 n rd w
  refine ⟨h.onlyS hf hc, fun r => ?_⟩
  rw [h.rs, Core.rs_setS, Core.consume_rs]

theorem LeftBy.scalar' {k0 k : Core} {rd : Fin 32} {w : PWord} {next : Word} (h : LeftBy (k0.setS rd w) next k) :
    OnlyS k0 k ∧ SetsS k0 k rd w := LeftBy.scalar (n := 0) h

theorem LeftBy.address {k0 k : Core} {ad : Fin 8} {w : PWord} {next : Word} (h : LeftBy (k0.setA ad w) next k) :
    OnlyA k0 k ∧ SetsA k0 k ad w := by
  refine ⟨h.onlyA ⟨_, k0.ctl, rfl⟩ (.of_ctl rfl), fun r => ?_⟩
  rw [h.ra, Core.ra_setA]

theorem LeftBy.poisonSeen {k0 k : Core} {n : Nat} {rd : Fin 32} {w : PWord} {next : Word} (h : LeftBy ((k0.consume n).setS rd w) next k) :
    k.ctlW 0x04 = if n ≠ 0 then k0.ctlW 0x04 ||| 8 else k0.ctlW 0x04 := by
  obtain ⟨x, b, g, -, hk⟩ := h
  obtain ⟨y, hy⟩ := (k0.consume n).setS_form rd w
  obtain ⟨z, hz, hj⟩ := k0.consume_eq n
  have hs : ((k0.consume n).setS rd w).ctlW 0x04 = (k0.consume n).ctlW 0x04 := by rw [hy]; rfl
  rw [hk 0x04 (by decide) (by decide), hs, hz, hj 0x04 (by decide) (by decide)]
  simp

/-! ## Scalar, immediate and address instructions -/

theorem poisonS_two (k : Core) (r q : Fin 32) : k.poisonS [r, q] ≠ 0 ↔ ((k.rs r).poison || (k.rs q).poison) = true := by
  unfold Core.poisonS
  by_cases h : r = q
  · subst h
    by_cases hp : (k.rs r).poison = true <;> simp [hp]
  · by_cases hp : (k.rs r).poison = true <;> by_cases hq : (k.rs q).poison = true <;> simp [h, hp, hq]

theorem retires_alu2 {i : Instr} {s : State} {c : CoreId} {f g : Word → Word → Word} {rd rs1 rs2 : Fin 32}
    (hx : exec i s = .next (issue c i s (alu2 f rd rs1 rs2))) (hfg : ∀ a b, f a b = g a b) (hr : Ready s c i) :
    let k0 := s.core c
    let w : PWord := ⟨g (k0.rs rs1).val (k0.rs rs2).val, (k0.rs rs1).poison || (k0.rs rs2).poison⟩
    Retires i s c (k0.pc + 4) (fun k =>
      OnlyS k0 k ∧ SetsS k0 k rd w ∧ k.ctlW 0x04 = (if w.poison then k0.ctlW 0x04 ||| 8 else k0.ctlW 0x04)) := by
  intro k0 w
  refine retires_of_issue hx hr rfl fun k h => ?_
  rw [hfg] at h
  obtain ⟨hs, hset⟩ := h.scalar
  refine ⟨hs, hset, ?_⟩
  rw [h.poisonSeen]
  simp only [poisonS_two]
  rfl

theorem retires_alu1 {i : Instr} {s : State} {c : CoreId} {f g : Word → Word} {rd rs1 : Fin 32}
    (hx : exec i s = .next (issue c i s (alu1 f rd rs1))) (hfg : ∀ a, f a = g a) (hr : Ready s c i) :
    let k0 := s.core c
    Retires i s c (k0.pc + 4) (fun k => OnlyS k0 k ∧ SetsS k0 k rd ⟨g (k0.rs rs1).val, (k0.rs rs1).poison⟩) := by
  intro k0
  refine retires_of_issue hx hr rfl fun k h => ?_
  rw [hfg] at h
  exact h.scalar

end Sys2Proof.Machine
end

section
/-! PROOFS. Scalar, immediate and address-register instructions (O1). -/

namespace Sys2Proof.Machine

open Sys2Proof.Claims

/-! ## The results of R64 to R66 in exact arithmetic -/

theorem word_add (a b : Word) : a + b = BitVec.ofInt 32 (a.toInt + b.toInt) := by
  rw [BitVec.ofInt_add, BitVec.ofInt_toInt, BitVec.ofInt_toInt]

theorem word_sub (a b : Word) : a - b = BitVec.ofInt 32 (a.toInt - b.toInt) := by
  apply BitVec.eq_of_toInt_eq
  rw [BitVec.toInt_sub, BitVec.toInt_ofInt]

theorem word_mul (a b : Word) : a * b = BitVec.ofInt 32 (a.toInt * b.toInt) := by
  rw [BitVec.ofInt_mul, BitVec.ofInt_toInt, BitVec.ofInt_toInt]

theorem word_and (a b : Word) : a &&& b = BitVec.ofNat 32 (a.toNat &&& b.toNat) := by
  rw [← BitVec.toNat_and, BitVec.ofNat_toNat, BitVec.setWidth_eq]

theorem word_or (a b : Word) : a ||| b = BitVec.ofNat 32 (a.toNat ||| b.toNat) := by
  rw [← BitVec.toNat_or, BitVec.ofNat_toNat, BitVec.setWidth_eq]

theorem word_xor (a b : Word) : a ^^^ b = BitVec.ofNat 32 (a.toNat ^^^ b.toNat) := by
  rw [← BitVec.toNat_xor, BitVec.ofNat_toNat, BitVec.setWidth_eq]

theorem word_shiftLeft (a : Word) (n : Nat) : a <<< n = BitVec.ofNat 32 (a.toNat * 2 ^ n) := by
  apply BitVec.eq_of_toNat_eq
  rw [BitVec.toNat_shiftLeft, BitVec.toNat_ofNat, Nat.shiftLeft_eq]

theorem word_ushiftRight (a : Word) (n : Nat) : a >>> n = BitVec.ofNat 32 (a.toNat / 2 ^ n) := by
  apply BitVec.eq_of_toNat_eq
  have := a.isLt
  rw [BitVec.toNat_ushiftRight, BitVec.toNat_ofNat, Nat.shiftRight_eq_div_pow,
    Nat.mod_eq_of_lt (lt_of_le_of_lt (Nat.div_le_self _ _) this)]

theorem word_sshiftRight (a : Word) (n : Nat) : a.sshiftRight n = BitVec.ofInt 32 (a.toInt / 2 ^ n) := by
  rw [BitVec.sshiftRight, Int.shiftRight_eq_div_pow]
  rfl

theorem bit_slt (a b : Word) : bit (a.slt b) = if a.toInt < b.toInt then 1 else 0 := by
  by_cases h : a.toInt < b.toInt <;> simp [bit, BitVec.slt, h]

theorem bit_ult (a b : Word) : bit (a.ult b) = if a.toNat < b.toNat then 1 else 0 := by
  by_cases h : a.toNat < b.toNat <;> simp [bit, BitVec.ult, h]

theorem word_min (a b : Word) : (if a.slt b then a else b) = BitVec.ofInt 32 (min a.toInt b.toInt) := by
  by_cases h : a.toInt < b.toInt
  · simp [BitVec.slt, h, min_eq_left h.le]
  · simp [BitVec.slt, h, min_eq_right (not_lt.mp h)]

theorem word_max (a b : Word) : (if a.slt b then b else a) = BitVec.ofInt 32 (max a.toInt b.toInt) := by
  by_cases h : a.toInt < b.toInt
  · simp [BitVec.slt, h, max_eq_right h.le]
  · simp [BitVec.slt, h, max_eq_left (not_lt.mp h)]

theorem word_minu (a b : Word) : (if a.ult b then a else b) = BitVec.ofNat 32 (min a.toNat b.toNat) := by
  by_cases h : a.toNat < b.toNat
  · simp [BitVec.ult, h, min_eq_left h.le]
  · simp [BitVec.ult, h, min_eq_right (not_lt.mp h)]

theorem word_maxu (a b : Word) : (if a.ult b then b else a) = BitVec.ofNat 32 (max a.toNat b.toNat) := by
  by_cases h : a.toNat < b.toNat
  · simp [BitVec.ult, h, max_eq_right h.le]
  · simp [BitVec.ult, h, max_eq_left (not_lt.mp h)]

/-- The high word of a 64-bit number. -/
theorem high_word (p : Int) : (BitVec.ofInt 64 p >>> 32).truncate 32 = BitVec.ofInt 32 (p / 2 ^ 32) := by
  apply BitVec.eq_of_toNat_eq
  rw [BitVec.truncate_eq_setWidth, BitVec.toNat_setWidth, BitVec.toNat_ushiftRight, BitVec.toNat_ofInt, BitVec.toNat_ofInt, Nat.shiftRight_eq_div_pow]
  omega

theorem word_mulh (a b : Word) :
    ((a.signExtend 64 * b.signExtend 64 : BitVec 64) >>> 32).truncate 32 = BitVec.ofInt 32 (a.toInt * b.toInt / 2 ^ 32) := by
  rw [← high_word, BitVec.ofInt_mul]
  rfl

theorem word_mulhu (a b : Word) :
    ((a.zeroExtend 64 * b.zeroExtend 64 : BitVec 64) >>> 32).truncate 32 = BitVec.ofNat 32 (a.toNat * b.toNat / 2 ^ 32) := by
  have hp : a.zeroExtend 64 * b.zeroExtend 64 = BitVec.ofInt 64 ((a.toNat * b.toNat : Nat) : Int) := by
    rw [BitVec.ofInt_natCast, BitVec.ofNat_mul, BitVec.ofNat_toNat, BitVec.ofNat_toNat]
  rw [hp, high_word]
  exact BitVec.ofInt_natCast ..

theorem sdivW_eq (a b : Word) : sdivW a b = if b = 0 then 0xFFFFFFFF else BitVec.ofInt 32 (a.toInt.tdiv b.toInt) := by
  unfold sdivW
  split
  · rfl
  · apply BitVec.eq_of_toInt_eq
    rw [BitVec.toInt_sdiv, BitVec.toInt_ofInt]

theorem udivW_eq (a b : Word) : udivW a b = if b = 0 then 0xFFFFFFFF else BitVec.ofNat 32 (a.toNat / b.toNat) := by
  unfold udivW
  split
  · rfl
  · rw [← BitVec.toNat_udiv, BitVec.ofNat_toNat, BitVec.setWidth_eq]

theorem sremW_eq (a b : Word) : sremW a b = if b = 0 then a else BitVec.ofInt 32 (a.toInt.tmod b.toInt) := by
  unfold sremW
  split
  · rfl
  · rw [← BitVec.toInt_srem, BitVec.ofInt_toInt]

theorem uremW_eq (a b : Word) : uremW a b = if b = 0 then a else BitVec.ofNat 32 (a.toNat % b.toNat) := by
  unfold uremW
  split
  · rfl
  · rw [← BitVec.toNat_umod, BitVec.ofNat_toNat, BitVec.setWidth_eq]

theorem toInt_sext16 (i : BitVec 16) : (sext16 i).toInt = i.toInt := BitVec.toInt_signExtend_of_le (by decide)

theorem toNat_zext16 (i : BitVec 16) : (zext16 i).toNat = i.toNat := by
  have := i.isLt
  simp [zext16]
  omega

/-! ## O1 -/

theorem scalarRegisterResults : ScalarRegisterResults := by
  intro e he s c rd rs1 rs2
  simp only [aluResults, List.mem_cons, List.not_mem_nil, or_false] at he
  obtain rfl | rfl | rfl | rfl | rfl | rfl | rfl | rfl | rfl | rfl | rfl | rfl | rfl | rfl | rfl | rfl | rfl | rfl | rfl | rfl | rfl := he
  · exact retires_alu2 rfl word_add
  · exact retires_alu2 rfl word_sub
  · exact retires_alu2 rfl word_and
  · exact retires_alu2 rfl word_or
  · exact retires_alu2 rfl word_xor
  · exact retires_alu2 rfl fun a b => word_shiftLeft a _
  · exact retires_alu2 rfl fun a b => word_ushiftRight a _
  · exact retires_alu2 rfl fun a b => word_sshiftRight a _
  · exact retires_alu2 rfl bit_slt
  · exact retires_alu2 rfl bit_ult
  · exact retires_alu2 rfl word_min
  · exact retires_alu2 rfl word_max
  · exact retires_alu2 rfl word_minu
  · exact retires_alu2 rfl word_maxu
  · exact retires_alu2 rfl word_mul
  · exact retires_alu2 rfl word_mulh
  · exact retires_alu2 rfl word_mulhu
  · exact retires_alu2 rfl sdivW_eq
  · exact retires_alu2 rfl udivW_eq
  · exact retires_alu2 rfl sremW_eq
  · exact retires_alu2 rfl uremW_eq

theorem scalarImmediateResults : ScalarImmediateResults := by
  refine ⟨fun rs1 imm amt e he s c rd => ?_, fun s c rd imm hr => ?_, fun s c rd imm hr => ?_⟩
  · simp only [immResults, List.mem_cons, List.not_mem_nil, or_false] at he
    obtain rfl | rfl | rfl | rfl | rfl | rfl | rfl | rfl | rfl | rfl | rfl := he
    · exact retires_alu1 rfl fun _ => rfl
    · exact retires_alu1 rfl fun _ => rfl
    · exact retires_alu1 rfl fun a => by rw [word_add, toInt_sext16]
    · exact retires_alu1 rfl fun a => by rw [word_and, toNat_zext16]
    · exact retires_alu1 rfl fun a => by rw [word_or, toNat_zext16]
    · exact retires_alu1 rfl fun a => by rw [word_xor, toNat_zext16]
    · exact retires_alu1 rfl fun a => by rw [bit_slt, toInt_sext16]
    · exact retires_alu1 rfl fun a => bit_ult a _
    · exact retires_alu1 rfl fun a => word_shiftLeft a _
    · exact retires_alu1 rfl fun a => word_ushiftRight a _
    · exact retires_alu1 rfl fun a => word_sshiftRight a _
  · have hw : zext16 imm <<< 16 = BitVec.ofNat 32 (imm.toNat * 65536) := by
      rw [word_shiftLeft, toNat_zext16]
      rfl
    refine retires_of_issue rfl hr rfl fun k h => ?_
    rw [hw] at h
    exact h.scalar'
  · exact retires_of_issue rfl hr rfl fun k h => h.scalar'

theorem addressRegisterResults : AddressRegisterResults := by
  refine ⟨fun s c ad rs1 hr => ?_, fun s c rd as1 hr => ?_, fun s c ad as1 rs2 hr => ?_, fun s c ad as1 imm hr => ?_,
    fun s c ad imm hr => ?_⟩
  · dsimp only
    split
    · next hp => exact faults_of_issue rfl hr (if_pos hp)
    · next hp =>
      refine retires_of_issue rfl hr (if_neg hp) fun k h => ?_
      have hw : (s.core c).rs rs1 = ⟨((s.core c).rs rs1).val, false⟩ := by
        rw [Bool.not_eq_true] at hp
        rw [← hp]
      rw [hw] at h
      exact h.address
  · exact retires_of_issue rfl hr rfl fun k h => h.scalar
  · dsimp only
    split
    · next hp => exact faults_of_issue rfl hr (if_pos hp)
    · next hp =>
      refine retires_of_issue rfl hr (if_neg hp) fun k h => ?_
      rw [BitVec.ofNat_add, BitVec.ofNat_toNat, BitVec.ofNat_toNat, BitVec.setWidth_eq, BitVec.setWidth_eq]
      exact h.address
  · dsimp only
    split
    · next hp => exact faults_of_issue rfl hr (if_pos hp)
    · next hp =>
      refine retires_of_issue rfl hr (if_neg hp) fun k h => ?_
      rw [word_add, toInt_sext16] at h
      exact h.address
  · exact retires_of_issue rfl hr rfl fun k h => h.address

/-- Settles O1: each operation through the one lemma about its form, the results in exact arithmetic. -/
theorem scalarResults : Obligations.ScalarResults := by
  unfold Obligations.ScalarResults
  exact ⟨scalarRegisterResults, scalarImmediateResults, addressRegisterResults⟩

end Sys2Proof.Machine
end

section
/-! PROOFS. Branches and jumps (O8), predicates, the fetch (O10). -/

namespace Sys2Proof.Machine

open Sys2Proof.Claims

/-! ## Branches and jumps -/

/-- A branch target in exact arithmetic (R61). -/
theorem target_eq_wordsOn (pc off : Word) : target pc off = wordsOn pc off.toInt := by
  apply BitVec.eq_of_toInt_eq
  rw [target, wordsOn, BitVec.toInt_add, BitVec.toInt_mul, BitVec.toInt_ofInt, Int.add_bmod_bmod, mul_comm]
  rfl

theorem target_sext16 (pc : Word) (off : BitVec 16) : target pc (sext16 off) = wordsOn pc off.toInt := by
  rw [target_eq_wordsOn, toInt_sext16]

/-- An instruction that writes nothing. -/
theorem LeftBy.unchanged {k0 k : Core} {next : Word} (h : LeftBy k0 next k) : Claims.Frame k0 k id :=
  h.frame ⟨k0.ctl, rfl⟩ (.refl [] k0)

theorem retires_branch {i : Instr} {s : State} {c : CoreId} {f g : Word → Word → Bool} {rs1 rs2 : Fin 32} {off : BitVec 16}
    (hx : exec i s = .next (issue c i s (branch f rs1 rs2 off))) (hfg : ∀ a b, f a b = g a b) (hr : Ready s c i) :
    let k0 := s.core c
    if (k0.rs rs1).poison || (k0.rs rs2).poison then Faults i s c POISON_BRANCH
    else Retires i s c (if g (k0.rs rs1).val (k0.rs rs2).val then wordsOn k0.pc off.toInt else k0.pc + 4) (fun k => Claims.Frame k0 k id) := by
  dsimp only
  split
  · next hp => exact faults_of_issue hx hr (if_pos hp)
  · next hp =>
    rw [← hfg, ← target_sext16]
    exact retires_of_issue hx hr (if_neg hp) fun k h => h.unchanged

/-- Settles O8: each branch by the lemma about branches, each jump by its own issue. -/
theorem branchesAndJumps : Obligations.BranchesAndJumps := by
  unfold Obligations.BranchesAndJumps
  refine ⟨fun e he s c rs1 rs2 off => ?_, fun s c rs1 off hr => ?_, fun s c off hr => ?_, fun s c rd rs1 imm hr => ?_,
    fun s c dst imm hr => ?_⟩
  · simp only [branchTaken, List.mem_cons, List.not_mem_nil, or_false] at he
    obtain rfl | rfl | rfl | rfl | rfl | rfl := he
    · exact retires_branch rfl fun a b => beq_eq_decide ..
    · exact retires_branch rfl fun a b => by simp [bne, beq_eq_decide]
    · exact retires_branch rfl fun a b => rfl
    · exact retires_branch rfl fun a b => by simp [BitVec.slt, ← decide_not]
    · exact retires_branch rfl fun a b => rfl
    · exact retires_branch rfl fun a b => by simp [BitVec.ult, ← decide_not]
  · dsimp only
    split
    · next hp => exact faults_of_issue rfl hr (if_pos hp)
    · next hp =>
      rw [← target_sext16]
      exact retires_of_issue rfl hr (if_neg hp) fun k h => h.scalar'
  · have ht : (off.signExtend 32).toInt = off.toInt := BitVec.toInt_signExtend_of_le (by decide)
    dsimp only
    rw [← ht, ← target_eq_wordsOn]
    exact retires_of_issue rfl hr rfl fun k h => h.scalar'
  · dsimp only
    split
    · next hp => exact faults_of_issue rfl hr (if_pos hp)
    · next hp =>
      rw [← toInt_sext16, ← word_add]
      exact retires_of_issue rfl hr (if_neg hp) fun k h => h.scalar'
  · exact retires_of_issue rfl hr rfl fun k h => h.scalar'

/-! ## Predicates -/

theorem LeftBy.predicate {k0 k : Core} {n : Nat} {pd : Fin 8} {w : Word} {next : Word} (h : LeftBy ((k0.consume n).setP pd w) next k) :
    Claims.Frame k0 k (fun x => { x with p := k.p }) ∧ SetsP k0 k pd w := by
  obtain ⟨y, hy⟩ := k0.consume_form n
  obtain ⟨x, hx⟩ := (k0.consume n).setP_form pd w
  have hc : CtlLeft [] k0 ((k0.consume n).setP pd w) := (k0.consume_ctlLeft n).trans (.of_ctl (by rw [hx]))
  refine ⟨h.onlyP ⟨x, y, by rw [hx, hy]⟩ hc, fun r => ?_⟩
  rw [h.rp, Core.rp_setP, Core.consume_rp]

theorem LeftBy.predicate' {k0 k : Core} {pd : Fin 8} {w : Word} {next : Word} (h : LeftBy (k0.setP pd w) next k) :
    Claims.Frame k0 k (fun x => { x with p := k.p }) ∧ SetsP k0 k pd w := LeftBy.predicate (n := 0) h

/-- A predicate instruction that writes a word known bit by bit. -/
theorem retires_predicate {i : Instr} {s : State} {c : CoreId} {f : Core → Issued} {pd : Fin 8} {w : Word} {g : Nat → Bool}
    (hx : exec i s = .next (issue c i s f)) (hf : f (s.core c) = .retire ((s.core c).setP pd w) (s.core c).pc4)
    (hg : ∀ i, i < 32 → w.getLsbD i = g i) (hr : Ready s c i) :
    Retires i s c ((s.core c).pc + 4) (fun k => ∃ w, Claims.Frame (s.core c) k (fun x => { x with p := k.p }) ∧ SetsP (s.core c) k pd w ∧
      ∀ i, i < 32 → w.getLsbD i = g i) :=
  retires_of_issue hx hr hf fun _ h => ⟨w, h.predicate'.1, h.predicate'.2, hg⟩

theorem predicateResults : PredicateResults := by
  refine ⟨fun e he s c pd ps1 ps2 => ?_, fun s c pd ps1 => ?_, fun s c pd rs1 hr => ?_, fun s c rd ps1 hr => ?_, fun s c rd ps1 hr => ?_⟩
  · simp only [predResults, List.mem_cons, List.not_mem_nil, or_false] at he
    obtain rfl | rfl | rfl | rfl := he
    · exact retires_predicate rfl rfl fun i _ => BitVec.getLsbD_and
    · exact retires_predicate rfl rfl fun i _ => BitVec.getLsbD_or
    · exact retires_predicate rfl rfl fun i _ => BitVec.getLsbD_xor
    · exact retires_predicate rfl rfl fun i hi => by simp [hi]
  · exact retires_predicate rfl rfl fun i hi => by simp [hi]
  · exact retires_of_issue rfl hr rfl fun k h => h.predicate
  · exact retires_of_issue rfl hr rfl fun k h => h.scalar'
  · exact retires_of_issue rfl hr rfl fun k h => h.scalar'

/-! ## Fetch -/

theorem fetchable_iff (a : Word) : fetchable a = true ↔ ¬(a.toNat % 4 ≠ 0 ∨ 0xC000 < a.toNat + 4) := by
  simp only [fetchable, decide_eq_true_eq]
  omega

/-- What FETCH answers, given what the fetch at the pc gave. -/
def fetchAnswer (s : State) (c : CoreId) : Except (Cause × Word) Instr → Res
  | .ok i => .next (s.setCore c { s.core c with ir := some i })
  | .error e => .next (coreFault s c e.1 e.2)

theorem execFetch_running {c : CoreId} {s : State} (hr : (s.core c).st = .running) (hi : (s.core c).ir = none) :
    exec (.fetch c) s = fetchAnswer s c (((s.core c).seen s (coreKey c)).fetchAt c) := by
  show execFetch c s = _
  rw [execFetch, if_pos ⟨hr, hi⟩]
  generalize ((s.core c).seen s (coreKey c)).fetchAt c = r
  cases r <;> rfl

theorem Core.seen_pc (k : Core) (s : State) (n : Nat) : (k.seen s n).pc = k.pc := by
  unfold Core.seen
  generalize (pendingWords s n).zipIdx = l
  induction l generalizing k with
  | nil => rfl
  | cons e l ih =>
    rw [List.foldl_cons, ih]
    split <;> rfl

/-- The second word of a long form. -/
theorem Core.pc4_toNat {k : Core} (h : fetchable k.pc = true) : k.pc4.toNat = k.pc.toNat + 4 := by
  rw [fetchable_iff] at h
  have : (4 : Word).toNat = 4 := rfl
  rw [Core.pc4, BitVec.toNat_add]
  omega

theorem fetchable_pc4 {k : Core} (h : fetchable k.pc = true) : fetchable k.pc4 = true ↔ ¬0xC000 < k.pc.toNat + 8 := by
  have h4 := Core.pc4_toNat h
  rw [fetchable_iff] at h ⊢
  omega

/-- Settles O10, along the checks of the fetch in their order. -/
theorem fetchLatches : Obligations.FetchLatches := by
  unfold Obligations.FetchLatches
  intro s c hr hi
  rw [execFetch_running hr hi]
  dsimp only
  have hpc := Core.seen_pc (s.core c) s (coreKey c)
  generalize (s.core c).seen s (coreKey c) = m at *
  rw [← hpc]
  unfold Core.fetchAt
  by_cases h1 : fetchable m.pc = true
  · have h4 := Core.pc4_toNat h1
    have h8 := fetchable_pc4 h1
    rw [if_neg ((fetchable_iff _).mp h1), h4]
    generalize m.memWord m.pc.toNat = w
    generalize m.memWord (m.pc.toNat + 4) = v
    by_cases hl : isLong w.val = true
    · by_cases h2 : fetchable m.pc4 = true
      · by_cases hp : w.poison = true ∨ v.poison = true
        · simp [fetchAnswer, h1, hl, h2, h8.mp h2, hp]
        · cases hd : decodeLong c w.val v.val with
          | none => simp [fetchAnswer, h1, hl, h2, h8.mp h2, hp, hd]
          | some i =>
            simp [fetchAnswer, h1, hl, h2, h8.mp h2, hp, hd]
            rw [hpc]
      · have h9 := not_not.mp (mt h8.mpr h2)
        rw [← Core.pc4]
        simp [fetchAnswer, h1, hl, h2, h9]
    · by_cases hp : w.poison = true
      · simp [fetchAnswer, h1, hl, hp]
      · cases hd : decodeShort c w.val with
        | none => simp [fetchAnswer, h1, hl, hp, hd]
        | some i =>
          simp [fetchAnswer, h1, hl, hp, hd]
          rw [hpc]
  · rw [if_pos (not_not.mp (mt (fetchable_iff _).mpr h1))]
    simp [fetchAnswer, h1]

end Sys2Proof.Machine
end

section
/-! PROOFS. Vector lanes: moves (O6), comparison, selection, reduction (O5). -/

namespace Sys2Proof.Machine

open Sys2Proof.Claims

/-! ## Digits: a number put together from parts of one width -/

/-- The digits d 0, d 1, … of base b put together, digit 0 lowest. -/
theorem foldr_digits_lt {α : Type} {b : Nat} {d : α → Nat} (l : List α) (hd : ∀ i ∈ l, d i < b) :
    l.foldr (fun i acc => d i + b * acc) 0 < b ^ l.length := by
  induction l with
  | nil => simp
  | cons x l ih =>
    have h1 := ih fun i hi => hd i (List.mem_cons_of_mem _ hi)
    have h2 := hd x List.mem_cons_self
    rw [List.foldr_cons, List.length_cons, pow_succ]
    calc d x + b * _ < b + b * l.foldr (fun i acc => d i + b * acc) 0 := by omega
      _ = b * (l.foldr (fun i acc => d i + b * acc) 0 + 1) := by ring
      _ ≤ b * b ^ l.length := Nat.mul_le_mul_left _ h1
      _ = b ^ l.length * b := mul_comm ..

theorem foldr_digits_get {α : Type} {b : Nat} {d : α → Nat} (l : List α) (hd : ∀ i ∈ l, d i < b) (n : Nat) (hn : n < l.length) :
    l.foldr (fun i acc => d i + b * acc) 0 / b ^ n % b = d l[n] := by
  induction l generalizing n with
  | nil => simp at hn
  | cons x l ih =>
    have h2 := hd x List.mem_cons_self
    rw [List.foldr_cons]
    cases n with
    | zero => simp [Nat.add_mul_mod_self_left, Nat.mod_eq_of_lt h2]
    | succ n =>
      rw [pow_succ', ← Nat.div_div_eq_div_mul, Nat.add_mul_div_left _ _ (by omega), Nat.div_eq_of_lt h2, Nat.zero_add]
      exact ih (fun i hi => hd i (List.mem_cons_of_mem _ hi)) n (by simpa using hn)

/-- Digit n of a number put together from m digits. -/
theorem range_digits_get {b : Nat} {d : Nat → Nat} {m n : Nat} (hd : ∀ i, i < m → d i < b) (hn : n < m) :
    (List.range m).foldr (fun i acc => d i + b * acc) 0 / b ^ n % b = d n := by
  rw [foldr_digits_get _ (fun i hi => hd i (List.mem_range.mp hi)) n (by simpa using hn), List.getElem_range]

theorem range_digits_lt {b : Nat} {d : Nat → Nat} {m : Nat} (hd : ∀ i, i < m → d i < b) :
    (List.range m).foldr (fun i acc => d i + b * acc) 0 < b ^ m := by
  simpa using foldr_digits_lt (List.range m) fun i hi => hd i (List.mem_range.mp hi)

/-- Bit n of a word put together from m bits. -/
theorem getLsbD_ofBits {w m n : Nat} {d : Nat → Bool} (hm : m ≤ w) (hn : n < m) :
    (BitVec.ofNat w ((List.range m).foldr (fun i acc => (d i).toNat + 2 * acc) 0)).getLsbD n = d n := by
  have h := range_digits_get (b := 2) (d := fun i => (d i).toNat) (fun i _ => Bool.toNat_lt (d i)) hn
  rw [BitVec.getLsbD_ofNat, Nat.testBit, Nat.shiftRight_eq_div_pow, Nat.one_and_eq_mod_two, h]
  have : n < w := by omega
  cases d n <;> simp [this]

/-! ## Lanes -/

theorem laneBytes_laneCount (ty : LaneTy) : laneBytes ty * laneCount ty = 32 := by cases ty <;> decide

theorem VReg.lane_lt (x : VReg) (ty : LaneTy) (i : Nat) : x.lane ty i < 2 ^ (8 * laneBytes ty) := Nat.mod_lt _ (Nat.two_pow_pos _)

/-- A lane of a register written lane by lane. -/
theorem VReg.build_lane (old : VReg) (ty : LaneTy) (f : Nat → Option (Nat × Bool)) {i : Nat} (hi : i < laneCount ty) :
    (old.build ty f).lane ty i = match f i with | some (v, _) => v % 2 ^ (8 * laneBytes ty) | none => old.lane ty i := by
  have hd : ∀ i, i < laneCount ty →
      (match f i with | some (v, _) => v % 2 ^ (8 * laneBytes ty) | none => old.lane ty i) < 2 ^ (8 * laneBytes ty) := by
    intro i _
    split
    · exact Nat.mod_lt _ (Nat.two_pow_pos _)
    · exact old.lane_lt ty i
  have hg := range_digits_get hd hi
  have hl := range_digits_lt hd
  have hb : (2 ^ (8 * laneBytes ty)) ^ laneCount ty = 2 ^ 256 := by
    rw [← pow_mul, mul_assoc, laneBytes_laneCount]
    rfl
  rw [hb] at hl
  rw [← pow_mul] at hg
  unfold VReg.build VReg.lane
  dsimp only
  rw [BitVec.toNat_ofNat]
  exact (congrArg (· / 2 ^ (8 * laneBytes ty * i) % 2 ^ (8 * laneBytes ty)) (Nat.mod_eq_of_lt hl)).trans hg

theorem VReg.build_lane_some {old : VReg} {ty : LaneTy} {f : Nat → Option (Nat × Bool)} {i v : Nat} {t : Bool} (hi : i < laneCount ty)
    (hf : f i = some (v, t)) : (old.build ty f).lane ty i = v % 2 ^ (8 * laneBytes ty) := by
  rw [VReg.build_lane _ _ _ hi, hf]

theorem VReg.build_lane_none {old : VReg} {ty : LaneTy} {f : Nat → Option (Nat × Bool)} {i : Nat} (hi : i < laneCount ty)
    (hf : f i = none) : (old.build ty f).lane ty i = old.lane ty i := by
  rw [VReg.build_lane _ _ _ hi, hf]

theorem VReg.lane_mod (x : VReg) (ty : LaneTy) (i : Nat) : x.lane ty i % 2 ^ (8 * laneBytes ty) = x.lane ty i :=
  Nat.mod_eq_of_lt (x.lane_lt ty i)

/-! ## What a vector instruction leaves -/

theorem LeftBy.vector {k0 k : Core} {n : Nat} {vd : Fin 16} {x : VReg} {next : Word} (h : LeftBy ((k0.consume n).setV vd x) next k) :
    OnlyV k0 k vd ∧ k.rv vd = x := by
  obtain ⟨y, hy⟩ := k0.consume_form n
  have hc : CtlLeft [] k0 ((k0.consume n).setV vd x) := (k0.consume_ctlLeft n).trans (.of_ctl rfl)
  refine ⟨⟨h.frameV ⟨_, y, by rw [hy]; rfl⟩ hc, fun r hr => ?_⟩, ?_⟩
  · rw [h.rv, Core.rv_setV, if_neg hr, Core.consume_rv]
  · rw [h.rv, Core.rv_setV, if_pos rfl]

theorem LeftBy.vector' {k0 k : Core} {vd : Fin 16} {x : VReg} {next : Word} (h : LeftBy (k0.setV vd x) next k) :
    OnlyV k0 k vd ∧ k.rv vd = x := LeftBy.vector (n := 0) h

/-! ## Moves between scalar and vector registers -/

/-- A lane of 32 bits is the word of its bits, signed or not. -/
theorem ofInt_laneInt_i32 (a : Nat) : BitVec.ofInt 32 (laneInt .i32 a) = BitVec.ofNat 32 a := by
  have hb : laneBits .i32 = 32 := rfl
  apply BitVec.eq_of_toNat_eq
  rw [BitVec.toNat_ofInt, BitVec.toNat_ofNat, laneInt, if_neg (by decide), hb]
  split <;> omega

theorem extLane_eq (ty : LaneTy) (a : Nat) :
    extLane ty a = if ty = .i16 ∨ ty = .i8 then BitVec.ofInt 32 (laneInt ty a) else BitVec.ofNat 32 a := by
  cases ty
  case i32 => simp [extLane, ofInt_laneInt_i32]
  all_goals simp [extLane]

theorem vectorScalarMoves : VectorScalarMoves := by
  refine ⟨fun s c ty vd rs hr => ?_, fun s c ty rd va lane hr => ?_, fun s c ty vd rs lane hr => ?_, fun s c ty vd imm hr => ?_⟩
  · refine retires_of_issue rfl hr rfl fun k h => ⟨h.vector.1, fun i hi => ?_⟩
    exact h.vector.2 ▸ VReg.build_lane_some hi rfl
  · dsimp only
    split
    · next hl => exact faults_of_issue rfl hr (if_neg (by simpa using hl))
    · next hl =>
      rw [← extLane_eq]
      exact retires_of_issue rfl hr (if_pos (by simpa using hl)) fun k h => h.scalar
  · dsimp only
    split
    · next hl => exact faults_of_issue rfl hr (if_neg (by simpa using hl))
    · next hl =>
      refine retires_of_issue rfl hr (if_pos (by simpa using hl)) fun k h => ⟨h.vector.1, fun i hi => ?_⟩
      rw [h.vector.2]
      dsimp only
      split
      · next he => exact VReg.build_lane_some hi (if_pos he)
      · next he => exact VReg.build_lane_none hi (if_neg he)
  · refine retires_of_issue rfl hr rfl fun k h => ⟨h.vector'.1, fun i hi => ?_⟩
    exact h.vector'.2 ▸ VReg.build_lane_some hi rfl

/-- Settles O6. -/
theorem predicatesAndMoves : Obligations.PredicatesAndMoves := by
  unfold Obligations.PredicatesAndMoves
  exact ⟨predicateResults, vectorScalarMoves⟩


/-! ## Comparison and selection -/

theorem laneBits_eq (ty : LaneTy) : laneBits ty = 8 * laneBytes ty := rfl

/-- The word of the lane that holds byte j. -/
theorem laneWord_div (ty : LaneTy) (j : Nat) : laneWord ty (j / laneBytes ty) = j / 4 := by
  cases ty <;> simp only [laneWord, laneBytes] <;> omega

theorem retires_vcmp {i : Instr} {s : State} {c : CoreId} {f : FV → FV → Bool} {g : Int → Int → Bool} {ty : LaneTy} {pg pd : Fin 8}
    {va vb : Fin 16} (hx : exec i s = .next (issue c i s (vcmp f g ty pg pd va vb))) (hr : Ready s c i) :
    let k0 := s.core c
    Retires i s c (k0.pc + 4) (fun k => ∃ w, Claims.Frame k0 k (fun x => { x with p := k.p }) ∧ SetsP k0 k pd w ∧
      ∀ j, j < 32 → w.getLsbD j =
        let i := j / laneBytes ty
        let a := (k0.rv va).lane ty i
        let b := (k0.rv vb).lane ty i
        ((k0.rp pg).getLsbD (i * laneBytes ty) && !(k0.rv va).tag.getLsbD (j / 4) && !(k0.rv vb).tag.getLsbD (j / 4) &&
          (if isFloat ty then f (ieeeOf (laneFmt ty) a) (ieeeOf (laneFmt ty) b) else g (laneInt ty a) (laneInt ty b)))) := by
  intro k0
  refine retires_of_issue hx hr rfl fun k h => ⟨_, h.predicate.1, h.predicate.2, fun j hj => ?_⟩
  rw [getLsbD_ofBits (le_refl 32) hj]
  simp only [VReg.laneTag, laneWord_div, Bool.not_or, Bool.and_assoc]
  rfl

theorem vectorCompareAndSelect : VectorCompareAndSelect := by
  refine ⟨fun e he s c ty pg pd va vb => ?_, fun s c ty pg vd va vb hr => ?_⟩
  · simp only [cmpResults, List.mem_cons, List.not_mem_nil, or_false] at he
    obtain rfl | rfl | rfl := he
    · exact retires_vcmp rfl
    · exact retires_vcmp rfl
    · exact retires_vcmp rfl
  · refine retires_of_issue rfl hr rfl fun k h => ⟨h.vector.1, fun i hi => ?_⟩
    rw [h.vector.2]
    dsimp only
    split
    · next hp => exact (VReg.build_lane_some hi (if_pos hp)).trans (VReg.lane_mod ..)
    · next hp => exact (VReg.build_lane_some hi (if_neg hp)).trans (VReg.lane_mod ..)

/-! ## Reductions -/

/-- A reduction leaves one number in every lane. -/
theorem retires_vecRed {i : Instr} {s : State} {c : CoreId} {F : Core → Issued} {f : LaneTy → Word → VReg → Nat} {ty : LaneTy} {pg : Fin 8}
    {vd va : Fin 16} (hx : exec i s = .next (issue c i s F)) (hF : F (s.core c) = vecRed f ty pg vd va (s.core c)) (hr : Ready s c i)
    {P : Nat → Prop} (hP : P (f ty ((s.core c).rp pg) ((s.core c).rv va) % 2 ^ (8 * laneBytes ty))) :
    Retires i s c ((s.core c).pc + 4) (fun k => OnlyV (s.core c) k vd ∧ (∀ i, i < laneCount ty → (k.rv vd).lane ty i = (k.rv vd).lane ty 0) ∧
      P ((k.rv vd).lane ty 0)) := by
  have h0 : 0 < laneCount ty := by cases ty <;> decide
  refine retires_of_issue hx hr hF fun k h => ⟨h.vector.1, fun i hi => ?_, ?_⟩
  · rw [h.vector.2, VReg.build_lane_some hi rfl, VReg.build_lane_some h0 rfl]
  · rw [h.vector.2, VReg.build_lane_some h0 rfl]
    exact hP

/-- The wrapped sum: a disabled lane adds 0 (R77). -/
theorem redAdd_i32 (p : Word) (a : VReg) : redAdd .i32 p a =
    ((((List.range 8).filter (fun i => p.getLsbD (4 * i))).map (fun i => laneInt .i32 (a.lane .i32 i))).sum % 2 ^ 32).toNat := by
  have hs : ∀ l : List Nat, (l.map (fun i => if laneOn p .i32 i then laneInt .i32 (a.lane .i32 i) else 0)).sum =
      ((l.filter (fun i => p.getLsbD (4 * i))).map (fun i => laneInt .i32 (a.lane .i32 i))).sum := by
    intro l
    induction l with
    | nil => rfl
    | cons i l ih =>
      have hb : laneOn p .i32 i = p.getLsbD (4 * i) := by rw [laneOn, mul_comm]; rfl
      rw [List.map_cons, List.sum_cons, ih, List.filter_cons, hb]
      split <;> simp
  unfold redAdd
  rw [if_neg (by decide), ← List.sum_eq_foldl, hs]
  rfl

/-- A lane read as a number and wrapped again. -/
theorem wrapLane_laneInt (ty : LaneTy) {a : Nat} (h : a < 2 ^ laneBits ty) : wrapLane ty (laneInt ty a) = a := by
  have hm : (a : Int) % 2 ^ laneBits ty = a := Int.emod_eq_of_lt (by omega) (by exact_mod_cast h)
  unfold wrapLane laneInt
  split
  · rw [hm, Int.toNat_natCast]
  · split
    · rw [Int.sub_emod_right, hm, Int.toNat_natCast]
    · rw [hm, Int.toNat_natCast]

theorem wrapLane_lt (ty : LaneTy) (v : Int) : wrapLane ty v < 2 ^ laneBits ty := by
  have h : (0 : Int) < 2 ^ laneBits ty := Int.pow_pos (by decide)
  have h1 := Int.emod_nonneg v h.ne'
  have h2 := Int.emod_lt_of_pos v h
  unfold wrapLane
  zify
  rw [Int.toNat_of_nonneg h1]
  exact h2

theorem laneInt_wrapLane_laneMin (ty : LaneTy) : laneInt ty (wrapLane ty (laneMin ty)) = laneMin ty := by cases ty <;> decide

/-- The running maximum from m: not below m or any member, and one of them. -/
theorem foldl_max_spec (l : List Int) (m : Int) :
    m ≤ l.foldl max m ∧ (∀ x ∈ l, x ≤ l.foldl max m) ∧ (l.foldl max m ∈ l ∨ l.foldl max m = m) := by
  induction l generalizing m with
  | nil => simp
  | cons y l ih =>
    obtain ⟨h1, h2, h3⟩ := ih (max m y)
    rw [List.foldl_cons]
    refine ⟨(le_max_left ..).trans h1, fun x hx => ?_, ?_⟩
    · obtain rfl | hx := List.mem_cons.mp hx
      · exact (le_max_right ..).trans h1
      · exact h2 x hx
    · obtain h3 | h3 := h3
      · exact .inl (List.mem_cons_of_mem _ h3)
      · rcases le_total m y with h | h
        · exact .inl (List.mem_cons.mpr (.inl (h3.trans (max_eq_right h))))
        · exact .inr (h3.trans (max_eq_left h))

/-- n is the greatest of the enabled lanes of an integer type, or its least value where none is enabled (R77). -/
def IsLaneMax (ty : LaneTy) (p : Word) (a : VReg) (n : Nat) : Prop :=
  (∀ i, i < laneCount ty → p.getLsbD (i * laneBytes ty) → laneInt ty (a.lane ty i) ≤ laneInt ty n) ∧
  ((∃ i, i < laneCount ty ∧ p.getLsbD (i * laneBytes ty) ∧ laneInt ty n = laneInt ty (a.lane ty i)) ∨
    laneInt ty n = if ty = .u8 then 0 else -2 ^ (8 * laneBytes ty - 1))

theorem redMax_int {ty : LaneTy} (hf : isFloat ty = false) (p : Word) (a : VReg) :
    IsLaneMax ty p a (redMax ty p a % 2 ^ (8 * laneBytes ty)) := by
  have hmin : laneMin ty = if ty = .u8 then 0 else -2 ^ (8 * laneBytes ty - 1) := rfl
  unfold IsLaneMax
  rw [← hmin]
  obtain ⟨-, h2, h3⟩ := foldl_max_spec (((List.range (laneCount ty)).filter (laneOn p ty)).map (fun i => laneInt ty (a.lane ty i))) (laneMin ty)
  have hm : laneInt ty (redMax ty p a % 2 ^ (8 * laneBytes ty)) = (((List.range (laneCount ty)).filter (laneOn p ty)).map (fun i => laneInt ty (a.lane ty i))).foldl max (laneMin ty) := by
    have hw : redMax ty p a = wrapLane ty
        ((((List.range (laneCount ty)).filter (laneOn p ty)).map (fun i => laneInt ty (a.lane ty i))).foldl max (laneMin ty)) := by
      rw [redMax, hf]
      rfl
    rw [hw, ← laneBits_eq, Nat.mod_eq_of_lt (wrapLane_lt ty _)]
    obtain h | h := h3
    · obtain ⟨i, -, hi⟩ := List.mem_map.mp h
      rw [← hi, wrapLane_laneInt ty (a.lane_lt ty i)]
    · rw [h, laneInt_wrapLane_laneMin]
  rw [hm]
  refine ⟨fun i hi hp => h2 _ (List.mem_map_of_mem (List.mem_filter.mpr ⟨List.mem_range.mpr hi, hp⟩)), h3.imp_left fun h => ?_⟩
  obtain ⟨i, hi, he⟩ := List.mem_map.mp h
  obtain ⟨hi, hp⟩ := List.mem_filter.mp hi
  exact ⟨i, List.mem_range.mp hi, hp, he.symm⟩

theorem vectorReductions : VectorReductions := by
  refine ⟨fun s c ty pg vd va hr => ?_, fun s c ty pg vd va hr => ?_⟩
  · dsimp only
    split
    · next h => exact faults_of_issue rfl hr (if_neg (by simpa using h))
    · next h =>
      refine retires_vecRed (f := redAdd) (P := fun n => ty = .i32 → n = _) rfl (if_pos ?_) hr fun ht => ?_
      · by_contra hc
        simp only [Bool.or_eq_true, beq_iff_eq, not_or, Bool.not_eq_true] at hc
        exact h hc
      · subst ht
        rw [redAdd_i32]
        refine Nat.mod_eq_of_lt ?_
        have h1 := Int.emod_lt_of_pos
          (((List.range 8).filter (fun i => ((s.core c).rp pg).getLsbD (4 * i))).map (fun i => laneInt .i32 (((s.core c).rv va).lane .i32 i))).sum
          (show (0 : Int) < 2 ^ 32 by decide)
        show _ < 2 ^ 32
        omega
  · exact retires_vecRed (f := redMax) (P := fun n => isFloat ty = false → IsLaneMax ty ((s.core c).rp pg) ((s.core c).rv va) n) rfl rfl hr fun hf => redMax_int hf _ _

/-- Settles O5. -/
theorem vectorCompareAndReduce : Obligations.VectorCompareAndReduce := by
  unfold Obligations.VectorCompareAndReduce
  exact ⟨vectorCompareAndSelect, vectorReductions⟩

end Sys2Proof.Machine
end

section
/-! PROOFS. Accumulator tiles (O13) and descriptor slots (O14). -/

namespace Sys2Proof.Machine

open Sys2Proof.Claims

/-! ## Words of a 256-bit register -/

theorem VReg.word_toNat (x : VReg) (i : Nat) : (x.word i).toNat = x.val.toNat / 2 ^ (32 * i) % 2 ^ 32 := by
  rw [VReg.word, BitVec.truncate_eq_setWidth, BitVec.toNat_setWidth, BitVec.toNat_ushiftRight, Nat.shiftRight_eq_div_pow]

/-- A register made of eight words holds them. -/
theorem VReg.pword_ofWords {ws : List PWord} (h8 : ws.length = 8) {i : Nat} (hi : i < 8) :
    (VReg.ofWords ws).pword i = ws.getD i PWord.zero := by
  have hv := foldr_digits_lt (b := 2 ^ 32) (d := fun w : PWord => w.val.toNat) ws fun w _ => w.val.isLt
  have hg := foldr_digits_get (b := 2 ^ 32) (d := fun w : PWord => w.val.toNat) ws (fun w _ => w.val.isLt) i (h8 ▸ hi)
  have ht := foldr_digits_get (b := 2) (d := fun w : PWord => w.poison.toNat) ws (fun w _ => Bool.toNat_lt _) i (h8 ▸ hi)
  have hv : ws.foldr (fun w n => w.val.toNat + 2 ^ 32 * n) 0 < 2 ^ 256 := by rwa [h8, ← pow_mul] at hv
  have hw : (VReg.ofWords ws).word i = ws[i].val := by
    apply BitVec.eq_of_toNat_eq
    rw [VReg.word_toNat, VReg.ofWords, BitVec.toNat_ofNat, Nat.mod_eq_of_lt hv, pow_mul]
    exact hg
  have hp : (VReg.ofWords ws).tag.getLsbD i = ws[i].poison := by
    rw [VReg.ofWords, BitVec.getLsbD_ofNat, Nat.testBit, Nat.shiftRight_eq_div_pow, Nat.one_and_eq_mod_two, ht]
    cases hp : ws[i].poison <;> simp [hi]
  rw [VReg.pword, hw, hp, List.getD_eq_getElem]

theorem VReg.words_length (x : VReg) : x.words.length = 8 := by simp [VReg.words]

theorem VReg.words_getD (x : VReg) {i : Nat} (hi : i < 8) : x.words.getD i PWord.zero = x.pword i := by
  simp [VReg.words, List.getD_eq_getElem?_getD, hi]

/-- Byte i of a register lies in word i / 4. -/
theorem VReg.byte_of_word (x : VReg) (i : Nat) :
    BitVec.ofNat 8 ((x.word (i / 4)).toNat / 256 ^ (i % 4)) = BitVec.ofNat 8 (x.lane .u8 i) := by
  have hb : laneBytes .u8 = 1 := rfl
  have hp : 256 ^ (i % 4) = 2 ^ (8 * (i % 4)) := by
    rw [pow_mul]
    rfl
  have he : x.val.toNat / 2 ^ (8 * i) = x.val.toNat / 2 ^ (32 * (i / 4)) / 256 ^ (i % 4) := by
    rw [hp, Nat.div_div_eq_div_mul, ← pow_add]
    congr 2
    omega
  apply BitVec.eq_of_toNat_eq
  rw [VReg.word_toNat, VReg.lane, hb, mul_one, he, BitVec.toNat_ofNat, BitVec.toNat_ofNat]
  generalize x.val.toNat / 2 ^ (32 * (i / 4)) = u
  have hr : i % 4 < 4 := Nat.mod_lt _ (by decide)
  generalize i % 4 = r at hr
  interval_cases r <;> omega

/-! ## Words put into memory and into a tile -/

theorem Core.accPut_form (ws : List PWord) (t : Fin 4) : ∀ (k : Core) (e : Nat), ∃ x, k.accPut t e ws = { k with acc := x } := by
  induction ws with
  | nil => exact fun k _ => ⟨k.acc, rfl⟩
  | cons w ws ih => exact fun k e => ih (k.accSet t e w) (e + 1)

theorem Core.accGet_accPut (ws : List PWord) (t u : Fin 4) {i : Nat} (hi : i < 256) : ∀ (k : Core) (e : Nat), e + ws.length ≤ 256 →
    (k.accPut t e ws).accGet u i = if u = t ∧ e ≤ i ∧ i < e + ws.length then ws.getD (i - e) PWord.zero else k.accGet u i := by
  induction ws with
  | nil =>
    intro k e _
    rw [if_neg (by rw [List.length_nil]; omega)]
    rfl
  | cons w ws ih =>
    intro k e he
    rw [List.length_cons] at he
    rw [Core.accPut, ih _ _ (by omega), Core.accGet_accSet _ _ _ _ _ _ (by omega) hi, List.length_cons]
    by_cases hu : u = t
    · rcases Nat.lt_trichotomy i e with h | h | h
      · simp [hu, show ¬e + 1 ≤ i by omega, show ¬e ≤ i by omega, h.ne]
      · simp [hu, h]
      · obtain ⟨n, rfl⟩ := Nat.exists_eq_add_of_lt h
        simp only [hu, true_and, show e + n + 1 - e = n + 1 by omega, show e + n + 1 - (e + 1) = n by omega, List.getD_cons_succ]
        simp only [show e + n + 1 ≠ e by omega, if_false]
        congr 1
        simp only [eq_iff_iff]
        omega
    · simp [hu]

theorem Core.putWords_form (ws : List PWord) : ∀ (k : Core) (a : Nat), ∃ m t, k.putWords a ws = { k with mem := m, memTag := t } := by
  induction ws with
  | nil => exact fun k _ => ⟨k.mem, k.memTag, rfl⟩
  | cons w ws ih =>
    intro k a
    obtain ⟨m, t, h⟩ := ih (k.setMemWord a w) (a + 4)
    exact ⟨m, t, h⟩

theorem Memory.byte_setWord (m : List Host.Cell) (a x : Nat) (w : Word) :
    Memory.byte (Memory.setWord m a w) x = if a ≤ x ∧ x < a + 4 then BitVec.ofNat 8 (w.toNat / 256 ^ (x - a)) else Memory.byte m x := by
  unfold Memory.setWord
  split
  · next h =>
    obtain ⟨i, rfl⟩ := Nat.exists_eq_add_of_le h.1
    rw [Memory.byte_setNat _ _ _ _ _ (by omega), Nat.add_sub_cancel_left]
  · next h => exact Memory.byte_setNat_other _ _ _ _ _ (by omega)

theorem Core.putWords_byte (ws : List PWord) (x : Nat) : ∀ (k : Core) (a : Nat),
    Memory.byte (k.putWords a ws).mem x = if a ≤ x ∧ x < a + 4 * ws.length then
      BitVec.ofNat 8 ((ws.getD ((x - a) / 4) PWord.zero).val.toNat / 256 ^ ((x - a) % 4)) else Memory.byte k.mem x := by
  induction ws with
  | nil =>
    intro k a
    rw [if_neg (by rw [List.length_nil]; omega)]
    rfl
  | cons w ws ih =>
    intro k a
    rw [Core.putWords, ih, List.length_cons]
    show (if _ then _ else Memory.byte (Memory.setWord k.mem a w.val) x) = _
    rw [Memory.byte_setWord]
    by_cases h1 : a ≤ x
    · obtain ⟨n, rfl⟩ := Nat.exists_eq_add_of_le h1
      rw [Nat.add_sub_cancel_left]
      by_cases h2 : n < 4
      · rw [if_neg (by omega), if_pos (by omega), if_pos (by omega), Nat.div_eq_of_lt h2, Nat.mod_eq_of_lt h2, List.getD_cons_zero]
      · obtain ⟨j, rfl⟩ := Nat.exists_eq_add_of_le (not_lt.mp h2)
        rw [show a + (4 + j) - (a + 4) = j by omega, show (4 + j) / 4 = j / 4 + 1 by omega, show (4 + j) % 4 = j % 4 by omega,
          List.getD_cons_succ]
        rw [if_neg (by omega : ¬(a ≤ a + (4 + j) ∧ a + (4 + j) < a + 4))]
        congr 1
        simp only [eq_iff_iff]
        omega
    · rw [if_neg (by omega), if_neg (by omega), if_neg (by omega)]

theorem Memory.getWords_length (m : List Host.Cell) (tg : Tab Bool) (a n : Nat) : (Memory.getWords m tg a n).length = n := by
  induction n generalizing a with
  | zero => rfl
  | succ n ih => rw [Memory.getWords, List.length_cons, ih]

theorem Memory.getWords_getD (m : List Host.Cell) (tg : Tab Bool) {i n : Nat} (a : Nat) (hi : i < n) :
    (Memory.getWords m tg a n).getD i PWord.zero = ⟨Memory.word m (a + 4 * i), Tab.get false tg ((a + 4 * i) / 4)⟩ := by
  induction n generalizing a i with
  | zero => omega
  | succ n ih =>
    rw [Memory.getWords]
    cases i with
    | zero => rfl
    | succ i => rw [List.getD_cons_succ, ih _ (by omega), show a + 4 + 4 * i = a + 4 * (i + 1) by omega]

/-- The words read from a word-aligned address. -/
theorem Core.getWords_getD (k : Core) {a i n : Nat} (ha : a % 4 = 0) (hi : i < n) :
    (k.getWords a n).getD i PWord.zero = k.memWord (a + 4 * i) := by
  rw [Core.getWords, Memory.getWords_getD _ _ _ hi, Core.memWord, show (a + 4 * i) / 4 * 4 = a + 4 * i by omega]

theorem Core.accWords_length (k : Core) (t : Fin 4) (e n : Nat) : (k.accWords t e n).length = n := by simp [Core.accWords]

theorem Core.accWords_getD (k : Core) (t : Fin 4) {e i n : Nat} (hi : i < n) : (k.accWords t e n).getD i PWord.zero = k.accGet t (e + i) := by
  simp [Core.accWords, List.getD_eq_getElem?_getD, hi]

/-! ## Post-increment -/

theorem Core.bump_form (k : Core) (ab : Fin 8) (post : Bool) (off : Word) : ∃ x, k.bump ab post off = { k with a := x } := by
  unfold Core.bump
  split
  · exact ⟨_, rfl⟩
  · exact ⟨k.a, rfl⟩

theorem Core.ra_bump (k : Core) (ab r : Fin 8) (post : Bool) (off : Word) :
    (k.bump ab post off).ra r = if post ∧ r = ab then ⟨(k.ra ab).val + off, false⟩ else k.ra r := by
  unfold Core.bump
  split
  · next h => rw [Core.ra_setA]; simp [h]
  · next h => simp [h]

theorem LeftBy.bumps {k0 k1 k : Core} {next : Word} {ab : Fin 8} {post : Bool} {off : Word} (h : LeftBy (k1.bump ab post off) next k)
    (ha : k1.ra = k0.ra) : Bumps k0 k ab post off := fun r => by rw [h.ra, Core.ra_bump, ha]

/-! ## Tiles -/

/-- A tile written, after poison was consumed and before an address register moved. -/
theorem LeftBy.tile {k0 k : Core} {n : Nat} {t : Fin 4} {e : Nat} {ws : List PWord} {ab : Fin 8} {post : Bool} {off next : Word}
    (h : LeftBy (((k0.consume n).accPut t e ws).bump ab post off) next k) (he : e + ws.length ≤ 256) :
    Claims.Frame k0 k (fun x => { x with acc := k.acc, a := k.a }) ∧ Bumps k0 k ab post off ∧
      ∀ u i, i < 256 → k.accGet u i = if u = t ∧ e ≤ i ∧ i < e + ws.length then ws.getD (i - e) PWord.zero else k0.accGet u i := by
  obtain ⟨y, hy⟩ := k0.consume_form n
  obtain ⟨x, hx⟩ := (k0.consume n).accPut_form ws t e
  obtain ⟨z, hz⟩ := ((k0.consume n).accPut t e ws).bump_form ab post off
  have hc : CtlLeft [] k0 (((k0.consume n).accPut t e ws).bump ab post off) := (k0.consume_ctlLeft n).trans (.of_ctl (by rw [hz, hx]))
  refine ⟨⟨?_, h.ctlKept hc⟩, h.bumps (by rw [hx, hy]; rfl), fun u i hi => ?_⟩
  · obtain ⟨_, _, _, rfl, -⟩ := h
    rw [hz, hx, hy]
  · have hb : (((k0.consume n).accPut t e ws).bump ab post off).accGet = ((k0.consume n).accPut t e ws).accGet := by rw [hz]; rfl
    have hk : (k0.consume n).accGet = k0.accGet := by rw [hy]; rfl
    rw [h.accGet, hb, Core.accGet_accPut _ _ _ hi _ _ he, hk]

/-- A tile written, no address register moved. -/
theorem LeftBy.tileOnly {k0 k : Core} {n : Nat} {t : Fin 4} {e : Nat} {ws : List PWord} {next : Word}
    (h : LeftBy ((k0.consume n).accPut t e ws) next k) (he : e + ws.length ≤ 256) :
    Claims.Frame k0 k (fun x => { x with acc := k.acc }) ∧
      ∀ u i, i < 256 → k.accGet u i = if u = t ∧ e ≤ i ∧ i < e + ws.length then ws.getD (i - e) PWord.zero else k0.accGet u i := by
  obtain ⟨hf, -, hg⟩ := LeftBy.tile (ab := 0) (post := false) (off := 0) h he
  refine ⟨⟨?_, hf.2⟩, hg⟩
  have ha : k.a = k0.a := by
    obtain ⟨y, hy⟩ := k0.consume_form n
    obtain ⟨x, hx⟩ := (k0.consume n).accPut_form ws t e
    obtain ⟨_, _, _, rfl, -⟩ := h
    rw [hx, hy]
  have := hf.1
  rw [ha] at this
  exact this

/-- Words put into memory, after poison was consumed and before an address register moved. -/
theorem LeftBy.words {k0 k : Core} {n a : Nat} {ws : List PWord} {ab : Fin 8} {post : Bool} {off next : Word} {f : Nat → Byte} {m : Nat}
    (h : LeftBy (((k0.consume n).putWords a ws).bump ab post off) next k) (hm : 4 * ws.length = m)
    (hf : ∀ i, i < m → BitVec.ofNat 8 ((ws.getD (i / 4) PWord.zero).val.toNat / 256 ^ (i % 4)) = f i) :
    Claims.Frame k0 k (fun x => { x with mem := k.mem, memTag := k.memTag, a := k.a }) ∧ Bumps k0 k ab post off ∧
      StoresBytes k0 k a m f := by
  obtain ⟨y, hy⟩ := k0.consume_form n
  obtain ⟨m', t, hx⟩ := (k0.consume n).putWords_form ws a
  obtain ⟨z, hz⟩ := ((k0.consume n).putWords a ws).bump_form ab post off
  have hc : CtlLeft [] k0 (((k0.consume n).putWords a ws).bump ab post off) := (k0.consume_ctlLeft n).trans (.of_ctl (by rw [hz, hx]))
  refine ⟨⟨?_, h.ctlKept hc⟩, h.bumps (by rw [hx, hy]; rfl), fun x => ?_⟩
  · obtain ⟨_, _, _, rfl, -⟩ := h
    rw [hz, hx, hy]
  · have hb : (((k0.consume n).putWords a ws).bump ab post off).mem = ((k0.consume n).putWords a ws).mem := by rw [hz]
    have hk : (k0.consume n).mem = k0.mem := by rw [hy]
    rw [h.mem, hb, Core.putWords_byte, hk, hm]
    split
    · next hx => exact hf _ (by omega)
    · rfl

theorem accumulatorMoves : AccumulatorMoves := by
  refine ⟨fun s c acc hr => ?_, fun s c v acc row half hr => ?_, fun s c acc row half v hr => ?_⟩
  · dsimp only
    split
    · next hb => exact stalls_of_issue rfl hr (if_pos hb)
    · next hb =>
      refine retires_of_issue rfl hr (if_neg hb) fun k h => ?_
      obtain ⟨hf, hg⟩ := LeftBy.tileOnly (k0 := s.core c) (n := 0) h (by rw [List.length_replicate])
      refine ⟨hf, fun t i hi => ?_⟩
      rw [hg t i hi, List.length_replicate]
      simp only [Nat.zero_le, Nat.zero_add, hi, and_true, Nat.sub_zero]
      rw [List.getD_eq_getElem?_getD, List.getElem?_replicate, if_pos hi]
      rfl
  · dsimp only
    split
    · next hb => exact stalls_of_issue rfl hr (if_pos hb)
    · next hb =>
      refine retires_of_issue rfl hr (if_neg hb) fun k h => ⟨h.vector.1, fun i hi => ?_⟩
      rw [h.vector.2, VReg.pword_ofWords (Core.accWords_length ..) hi, Core.accWords_getD _ _ hi]
      rfl
  · dsimp only
    split
    · next hb => exact stalls_of_issue rfl hr (if_pos hb)
    · next hb =>
      refine retires_of_issue rfl hr (if_neg hb) fun k h => ?_
      have hrow := row.isLt
      have hhalf := half.toNat_le
      obtain ⟨hf, hg⟩ := LeftBy.tileOnly h (by rw [VReg.words_length, halfRow]; omega)
      refine ⟨hf, fun t i hi => ?_⟩
      rw [hg t i hi, VReg.words_length]
      show (if t = acc ∧ 16 * row.val + 8 * half.toNat ≤ i ∧ i < 16 * row.val + 8 * half.toNat + 8 then _ else _) = _
      split
      · next h3 => exact VReg.words_getD _ (by unfold halfRow; omega)
      · rfl

theorem accumulatorMemory : AccumulatorMemory := by
  refine ⟨fun s c acc ab post hr => ?_, fun s c acc ab post hr => ?_⟩
  · dsimp only
    split
    · next h1 => exact faults_of_issue rfl hr (if_pos h1)
    split
    · next h1 h2 => exact faults_of_issue rfl hr ((if_neg h1).trans (if_pos h2))
    split
    · next h1 h2 h3 => exact stalls_of_issue rfl hr ((if_neg h1).trans ((if_neg h2).trans (if_pos h3)))
    · next h1 h2 h3 =>
      refine retires_of_issue rfl hr ((if_neg h1).trans ((if_neg h2).trans (if_neg h3))) fun k h => ?_
      refine h.words (by rw [Core.accWords_length]) fun i hi => ?_
      rw [Core.accWords_getD _ _ (by omega), Nat.zero_add]
  · dsimp only
    split
    · next h1 => exact faults_of_issue rfl hr (if_pos h1)
    split
    · next h1 h2 => exact faults_of_issue rfl hr ((if_neg h1).trans (if_pos h2))
    split
    · next h1 h2 h3 => exact stalls_of_issue rfl hr ((if_neg h1).trans ((if_neg h2).trans (if_pos h3)))
    · next h1 h2 h3 =>
      refine retires_of_issue rfl hr ((if_neg h1).trans ((if_neg h2).trans (if_neg h3))) fun k h => ?_
      have hl := Memory.getWords_length ((s.core c).seen s (coreKey c)).mem ((s.core c).seen s (coreKey c)).memTag
        ((s.core c).ra ab).val.toNat 256
      obtain ⟨hf, hb, hg⟩ := h.tile (by rw [Core.getWords, hl])
      refine ⟨hf, hb, fun t i hi => ?_⟩
      rw [hg t i hi, Core.getWords, hl]
      simp only [Nat.zero_le, Nat.zero_add, hi, and_true, Nat.sub_zero]
      congr 1
      exact Core.getWords_getD _ (by omega) hi

/-- Settles O13. -/
theorem accumulators : Obligations.Accumulators := by
  unfold Obligations.Accumulators
  exact ⟨accumulatorMoves, accumulatorMemory⟩

/-! ## Descriptor slots -/

/-- A slot written, after poison was consumed and before an address register moved. -/
theorem LeftBy.slot {k0 k : Core} {n : Nat} {dn : Fin 16} {x : VReg} {ab : Fin 8} {post : Bool} {off next : Word}
    (h : LeftBy (((k0.consume n).setD dn x).bump ab post off) next k) :
    Claims.Frame k0 k (fun x => { x with d := k.d, a := k.a }) ∧ Bumps k0 k ab post off ∧ OnlyD k0 k dn x := by
  obtain ⟨y, hy⟩ := k0.consume_form n
  obtain ⟨z, hz⟩ := ((k0.consume n).setD dn x).bump_form ab post off
  have hc : CtlLeft [] k0 (((k0.consume n).setD dn x).bump ab post off) := (k0.consume_ctlLeft n).trans (.of_ctl (by rw [hz]; rfl))
  refine ⟨⟨?_, h.ctlKept hc⟩, h.bumps (by rw [hy]; rfl), fun r => ?_⟩
  · obtain ⟨_, _, _, rfl, -⟩ := h
    rw [hz, hy]
    rfl
  · have hb : (((k0.consume n).setD dn x).bump ab post off).rd = ((k0.consume n).setD dn x).rd := by rw [hz]; rfl
    rw [h.rd, hb, Core.rd_setD, Core.consume_rd]

/-- A slot written, no address register moved. -/
theorem LeftBy.slotOnly {k0 k : Core} {n : Nat} {dn : Fin 16} {x : VReg} {next : Word} (h : LeftBy ((k0.consume n).setD dn x) next k) :
    Claims.Frame k0 k (fun x => { x with d := k.d }) ∧ OnlyD k0 k dn x := by
  obtain ⟨hf, -, hd⟩ := LeftBy.slot (ab := 0) (post := false) (off := 0) h
  have ha : k.a = k0.a := by
    obtain ⟨y, hy⟩ := k0.consume_form n
    obtain ⟨_, _, _, rfl, -⟩ := h
    rw [hy]
    rfl
  have := hf.1
  rw [ha] at this
  exact ⟨⟨this, hf.2⟩, hd⟩

/-- Word 1 replaced, untagged; every other word as it was. -/
theorem pword_withBase (d : VReg) (w : Word) {j : Nat} (hj : j < 8) :
    (withBase d w).pword j = if j = 1 then ⟨w, false⟩ else d.pword j := by
  have hw : (withBase d w).word j = if j = 1 then w else d.word j := by
    have hm : ∃ m : BitVec 256, (0xFFFFFFFF : BitVec 256) = m ∧ ∀ i, m.getLsbD i = decide (i < 32) := by
      refine ⟨(BitVec.allOnes 32).zeroExtend 256, rfl, fun i => ?_⟩
      rw [BitVec.zeroExtend, BitVec.getLsbD_setWidth, BitVec.getLsbD_allOnes]
      by_cases hi : i < 32 <;> simp [hi]
      omega
    obtain ⟨m, hm, hbit⟩ := hm
    ext b hb
    rw [withBase, hm]
    simp only [VReg.word, ← BitVec.getLsbD_eq_getElem, BitVec.truncate_eq_setWidth, BitVec.getLsbD_setWidth, BitVec.getLsbD_ushiftRight,
      BitVec.getLsbD_or, BitVec.getLsbD_and, BitVec.getLsbD_not, BitVec.getLsbD_shiftLeft, BitVec.zeroExtend, hbit]
    rcases Nat.lt_trichotomy j 1 with h | h | h
    · obtain rfl : j = 0 := by omega
      simp [hb, show b < 256 by omega]
    · subst h
      simp [hb, show 32 + b < 256 by omega, show b < 256 by omega]
    · have h2 : ¬32 * j + b - 32 < 32 := by omega
      have h3 : 32 * j + b < 256 := by omega
      have h4 : w.getLsbD (32 * j + b - 32) = false := BitVec.getLsbD_of_ge _ _ (by omega)
      simp [hb, h.ne', h2, h3, h4]
  have ht : (withBase d w).tag.getLsbD j = (!decide (j = 1) && d.tag.getLsbD j) := by
    unfold withBase
    interval_cases j <;> simp
  rw [VReg.pword, hw, ht]
  by_cases h1 : j = 1 <;> simp [h1, VReg.pword]

/-- Settles O14. -/
theorem descriptorMoves : Obligations.DescriptorMoves := by
  unfold Obligations.DescriptorMoves
  refine ⟨fun s c dn ab post hr => ?_, fun s c dn ab post hr => ?_, fun s c dn dm hr => ?_, fun s c dn rs hr => ?_,
    fun s c dn rs hr => ?_⟩
  all_goals dsimp only
  · split
    · next h1 => exact faults_of_issue rfl hr (if_pos h1)
    split
    · next h1 h2 => exact faults_of_issue rfl hr ((if_neg h1).trans (if_pos h2))
    split
    · next h1 h2 h3 => exact faults_of_issue rfl hr ((if_neg h1).trans ((if_neg h2).trans (if_pos h3)))
    · next h1 h2 h3 => exact retires_of_issue rfl hr ((if_neg h1).trans ((if_neg h2).trans (if_neg h3))) fun k h => h.slot
  · split
    · next h1 => exact faults_of_issue rfl hr (if_pos h1)
    split
    · next h1 h2 => exact faults_of_issue rfl hr ((if_neg h1).trans (if_pos h2))
    split
    · next h1 h2 h3 => exact stalls_of_issue rfl hr ((if_neg h1).trans ((if_neg h2).trans (if_pos h3)))
    · next h1 h2 h3 =>
      refine retires_of_issue rfl hr ((if_neg h1).trans ((if_neg h2).trans (if_neg h3))) fun k h => ?_
      refine h.words (by rw [VReg.words_length]) fun i hi => ?_
      rw [VReg.words_getD _ (by omega)]
      exact VReg.byte_of_word ..
  · split
    · next h1 => exact faults_of_issue rfl hr (if_pos h1)
    · next h1 => exact retires_of_issue rfl hr (if_neg h1) fun k h => h.slotOnly
  · split
    · next h1 => exact faults_of_issue rfl hr (if_pos h1)
    split
    · next h1 h2 => exact faults_of_issue rfl hr ((if_neg h1).trans (if_pos h2))
    · next h1 h2 =>
      refine retires_of_issue rfl hr ((if_neg h1).trans (if_neg h2)) fun k h => ?_
      obtain ⟨hf, hd⟩ := LeftBy.slotOnly (k0 := s.core c) (n := 0) h
      exact ⟨_, hf, hd, fun j hj => pword_withBase _ _ hj⟩
  · split
    · next h1 => exact faults_of_issue rfl hr (if_pos h1)
    split
    · next h1 h2 => exact faults_of_issue rfl hr ((if_neg h1).trans (if_pos h2))
    · next h1 h2 =>
      refine retires_of_issue rfl hr ((if_neg h1).trans (if_neg h2)) fun k h => ?_
      obtain ⟨hf, hd⟩ := LeftBy.slotOnly (k0 := s.core c) (n := 0) h
      exact ⟨_, hf, hd, fun j hj => pword_withBase _ _ hj⟩

end Sys2Proof.Machine
end

section
/-! PROOFS. The inject queue, downbeats (O16), stream windows, send and mcast (O17). -/

namespace Sys2Proof.Machine

open Sys2Proof.Claims

/-! ## The inject queue -/

theorem Core.queue_full {k : Core} (h : k.full = true) (o : Outbound) (f : Core → Issued) : k.queue o f = .wait k .inject := if_pos h

theorem Core.queue_room {k : Core} (h : k.full = false) (o : Outbound) (f : Core → Issued) :
    k.queue o f = f { k with inject := k.inject ++ [o] } := if_neg (by simp [h])

theorem LeftBy.queues {k0 k : Core} {o : Outbound} {next : Word} (h : LeftBy { k0 with inject := k0.inject ++ [o] } next k) :
    Queues k0 k o := h.frame (u := fun x => { x with inject := x.inject ++ [o] }) ⟨k0.ctl, rfl⟩ (.of_ctl rfl)

/-- What retiring leaves of a core beside its latch, its state and its control registers. -/
theorem LeftBy.kept {k1 k : Core} {next : Word} (h : LeftBy k1 next k) :
    k.s = k1.s ∧ k.mem = k1.mem ∧ k.v = k1.v ∧ k.acc = k1.acc ∧ k.inject = k1.inject := by
  obtain ⟨x, b, g, rfl, -⟩ := h
  exact ⟨rfl, rfl, rfl, rfl, rfl⟩

/-! ## Downbeats -/

theorem lanePend_eq (k : Core) : lanePend k = k.ctlW 0x10C ++ k.ctlW 0x108 := rfl

theorem LeftBy.lanePend {k1 k : Core} {next : Word} (h : LeftBy k1 next k) : lanePend k = Machine.lanePend k1 := by
  obtain ⟨x, b, g, -, hk⟩ := h
  rw [lanePend_eq, lanePend_eq, hk _ (by decide) (by decide), hk _ (by decide) (by decide)]

/-- A double word written as its two words. -/
theorem halves_append (w : BitVec 64) : (w >>> 32).truncate 32 ++ w.truncate 32 = w := by
  ext i hi
  rw [BitVec.getElem_append]
  split
  · next h =>
    simp
    exact BitVec.getLsbD_eq_getElem ..
  · next h =>
    simp [show 32 + (i - 32) = i by omega]
    exact BitVec.getLsbD_eq_getElem ..

theorem lanePend_setPend (k : Core) (l : Nat) (v : Bool) : Machine.lanePend (setPend k l v) =
    if v then Machine.lanePend k ||| (1#64 <<< l) else Machine.lanePend k &&& ~~~(1#64 <<< l) := by
  unfold setPend
  generalize hw : (if v = true then Machine.lanePend k ||| (1 <<< l) else Machine.lanePend k &&& ~~~((1 : BitVec 64) <<< l)) = w
  rw [← halves_append w] at hw
  refine Eq.trans ?_ hw.symm
  unfold Machine.lanePend
  dsimp only
  rw [Tab.get_set_same, Tab.get_set_other _ _ _ _ (by decide), Tab.get_set_same]

theorem lanePend_setPend_same (k : Core) (l : Fin 64) : (Machine.lanePend (setPend k l.val true)).getLsbD l.val = true := by
  rw [lanePend_setPend, if_pos rfl, BitVec.getLsbD_or, BitVec.getLsbD_shiftLeft]
  simp

/-- The core that an arrival on a lane leaves behind (R114). -/
def arrived (k : Core) (l : Fin 64) : Core :=
  { (setPend (({ k with inject := k.inject ++ [.arrive l] } : Core).count 0x110 1) l.val true) with
    dbRel := Tab.drop k.dbRel l.val }

theorem arrive_idle {s : State} {key : Nat} {l : Fin 64} {k : Core} (hp : (lanePend k).getLsbD l.val = false)
    (hi : laneSt s key l.val = .idle) (hq : k.full = false) (f : Core → Issued) : arrive s key l k f = f (arrived k l) := by
  unfold arrive
  rw [hp, if_neg (by decide), if_neg (by simp [hi]), Core.queue_room hq]
  rfl

theorem arrived_form (k : Core) (l : Fin 64) : ∃ x r, arrived k l = { k with inject := k.inject ++ [.arrive l], ctl := x, dbRel := r } := by
  obtain ⟨x, hx, -⟩ := Core.count_ctl { k with inject := k.inject ++ [.arrive l] } 0x110 1 (by decide) (by decide) (by decide)
  unfold arrived
  rw [hx]
  exact ⟨_, _, rfl⟩

theorem arrived_lanePend (k : Core) (l : Fin 64) : (lanePend (arrived k l)).getLsbD l.val = true := by
  unfold arrived
  generalize ({ k with inject := k.inject ++ [.arrive l] } : Core).count 0x110 1 = k'
  exact lanePend_setPend_same k' l

theorem takeStatus_retire {k : Core} {failed : Bool} {l : Fin 64} {rd : Fin 32} {v : Word}
    (hv : (if failed then 2 else Tab.get 0 k.dbRel l.val) = v) (h3 : v ≠ 3) :
    takeStatus k failed l rd = .retire (k.setS rd ⟨v, false⟩) k.pc4 := by
  unfold takeStatus
  dsimp only
  rw [hv, if_neg h3]

section
variable {s : State} {c : CoreId} {rd : Fin 32} {l : Fin 64}

theorem downbeat_laneOff (ho : laneOff s (coreKey c) l.val = true) :
    (Ready s c (.dbarrive c l) → Faults (.dbarrive c l) s c LANE_OFF) ∧ (Ready s c (.dbwait c rd l) → Faults (.dbwait c rd l) s c LANE_OFF) ∧
      (Ready s c (.dbsync c rd l) → Faults (.dbsync c rd l) s c LANE_OFF) ∧
      (Ready s c (.dbstat c rd l) → Faults (.dbstat c rd l) s c LANE_OFF) :=
  ⟨fun hr => faults_of_issue rfl hr (if_pos ho), fun hr => faults_of_issue rfl hr (if_pos ho),
    fun hr => faults_of_issue rfl hr (if_pos ho), fun hr => faults_of_issue rfl hr (if_pos ho)⟩

theorem dbarrive_failed (ho : ¬laneOff s (coreKey c) l.val = true) (hf : laneSt s (coreKey c) l.val = .failed) (hr : Ready s c (.dbarrive c l)) :
    Retires (.dbarrive c l) s c ((s.core c).pc + 4) (fun k => Claims.Frame (s.core c) k id) :=
  retires_of_issue rfl hr ((if_neg ho).trans (if_pos hf)) fun _ h => h.unchanged

theorem dbwait_failed (ho : ¬laneOff s (coreKey c) l.val = true) (hf : laneSt s (coreKey c) l.val = .failed) (hr : Ready s c (.dbwait c rd l)) :
    Retires (.dbwait c rd l) s c ((s.core c).pc + 4) (fun k => OnlyS (s.core c) k ∧ SetsS (s.core c) k rd ⟨2, false⟩) :=
  retires_of_issue rfl hr ((if_neg ho).trans ((if_neg (by simp [hf])).trans (takeStatus_retire (if_pos (by simp [hf])) (by decide))))
    fun _ h => h.scalar'

theorem dbsync_failed (ho : ¬laneOff s (coreKey c) l.val = true) (hf : laneSt s (coreKey c) l.val = .failed) (hr : Ready s c (.dbsync c rd l)) :
    Retires (.dbsync c rd l) s c ((s.core c).pc + 4) (fun k => OnlyS (s.core c) k ∧ SetsS (s.core c) k rd ⟨2, false⟩) :=
  retires_of_issue rfl hr ((if_neg ho).trans ((if_pos hf).trans (takeStatus_retire (if_pos rfl) (by decide)))) fun _ h => h.scalar'

/-- dbstat reads 2 on a FAILED lane, else whether an arrival is outstanding (R113). -/
theorem dbstat_status (ho : ¬laneOff s (coreKey c) l.val = true) (hr : Ready s c (.dbstat c rd l)) {v : Word}
    (hv : (if laneSt s (coreKey c) l.val = .failed then 2 else bit ((lanePend (s.core c)).getLsbD l.val)) = v) :
    Retires (.dbstat c rd l) s c ((s.core c).pc + 4) (fun k => OnlyS (s.core c) k ∧ SetsS (s.core c) k rd ⟨v, false⟩) := by
  subst hv
  exact retires_of_issue rfl hr (if_neg ho) fun _ h => h.scalar'

theorem dbarrive_idle (ho : ¬laneOff s (coreKey c) l.val = true) (hp : (lanePend (s.core c)).getLsbD l.val = false)
    (hi : laneSt s (coreKey c) l.val = .idle) (hq : (s.core c).full = false) (hr : Ready s c (.dbarrive c l)) :
    Retires (.dbarrive c l) s c ((s.core c).pc + 4) (fun k =>
      k.inject = (s.core c).inject ++ [.arrive l] ∧ (lanePend k).getLsbD l.val = true ∧ k.s = (s.core c).s ∧ k.mem = (s.core c).mem ∧
        k.v = (s.core c).v ∧ k.acc = (s.core c).acc) := by
  have hf : laneSt s (coreKey c) l.val ≠ .failed := by simp [hi]
  obtain ⟨x, r, ha⟩ := arrived_form (s.core c) l
  refine retires_of_issue (k1 := arrived (s.core c) l) rfl hr ?_ fun k h => ?_
  · refine (if_neg ho).trans ((if_neg hf).trans ((arrive_idle hp hi hq _).trans ?_))
    rw [ha]
    rfl
  · obtain ⟨h1, h2, h3, h4, h5⟩ := h.kept
    rw [h.lanePend, h1, h2, h3, h4, h5]
    refine ⟨?_, arrived_lanePend .., ?_⟩
    · rw [ha]
    · rw [ha]
      exact ⟨rfl, rfl, rfl, rfl⟩

theorem dbsync_idle (ho : ¬laneOff s (coreKey c) l.val = true) (hp : (lanePend (s.core c)).getLsbD l.val = false)
    (hi : laneSt s (coreKey c) l.val = .idle) (hq : (s.core c).full = false) (hr : Ready s c (.dbsync c rd l)) :
    ∃ k, exec (.dbsync c rd l) s = .next (s.setCore c k) ∧ k.st = .waiting ∧ k.wait = some (.lane l rd) ∧
      k.inject = (s.core c).inject ++ [.arrive l] ∧ (lanePend k).getLsbD l.val = true ∧ k.s = (s.core c).s ∧ k.mem = (s.core c).mem := by
  have hf : laneSt s (coreKey c) l.val ≠ .failed := by simp [hi]
  obtain ⟨x, r, ha⟩ := arrived_form (s.core c) l
  refine ⟨_, next_of_wait (k := arrived (s.core c) l) rfl hr ((if_neg ho).trans ((if_neg hf).trans (arrive_idle hp hi hq _)))
    (.inr ⟨l, rd, rfl⟩), rfl, rfl, ?_, arrived_lanePend .., ?_⟩
  · rw [ha]
  · rw [ha]
    exact ⟨rfl, rfl⟩

theorem dbwait_arrived (ho : ¬laneOff s (coreKey c) l.val = true) (hf : laneSt s (coreKey c) l.val ≠ .failed)
    (hp : (lanePend (s.core c)).getLsbD l.val = false) (h3 : Tab.get 0 (s.core c).dbRel l.val ≠ 3) (hr : Ready s c (.dbwait c rd l)) :
    Retires (.dbwait c rd l) s c ((s.core c).pc + 4) (fun k =>
      OnlyS (s.core c) k ∧ SetsS (s.core c) k rd ⟨Tab.get 0 (s.core c).dbRel l.val, false⟩) :=
  retires_of_issue rfl hr ((if_neg ho).trans ((if_neg fun h => Bool.false_ne_true (hp ▸ h.1)).trans (takeStatus_retire (if_neg (by simp [hf])) h3)))
    fun _ h => h.scalar'

theorem dbwait_outstanding (ho : ¬laneOff s (coreKey c) l.val = true) (hf : laneSt s (coreKey c) l.val ≠ .failed)
    (hp : (lanePend (s.core c)).getLsbD l.val = true) (hr : Ready s c (.dbwait c rd l)) : Waits (.dbwait c rd l) s c (.lane l rd) :=
  waits_of_issue rfl hr ((if_neg ho).trans (if_pos ⟨hp, hf⟩)) (.inr ⟨l, rd, rfl⟩)

end

/-- Settles O16: each instruction on an absent, a FAILED and any other lane. -/
theorem downbeatInstructions : Obligations.DownbeatInstructions := by
  unfold Obligations.DownbeatInstructions
  intro s c rd l
  refine ⟨downbeat_laneOff, fun ho hf => ?_, fun ho hf hp hi hq => ?_, fun ho hf hp => ?_⟩
  all_goals replace ho := Bool.not_eq_true _ ▸ ho
  · exact ⟨dbarrive_failed ho hf, dbwait_failed ho hf, dbsync_failed ho hf, fun hr => dbstat_status ho hr (if_pos hf)⟩
  · refine ⟨dbarrive_idle ho hp hi hq, dbsync_idle ho hp hi hq, fun hr => dbstat_status ho hr ((if_neg hf).trans ?_),
      fun hr h3 => dbwait_arrived ho hf hp h3 hr⟩
    rw [hp]
    rfl
  · refine ⟨dbwait_outstanding ho hf hp, fun hr => dbstat_status ho hr ((if_neg hf).trans ?_)⟩
    rw [hp]
    rfl

/-! ## Stream windows -/

theorem winOp_pass {s : State} {key : Nat} {dn : Fin 16} {out : Bool} {rs : Fin 32} {k : Core} (hc : winCheck s key (k.rd dn) out = none)
    (hp : (k.rs rs).poison = false) (ha : attached (k.rd dn) = true) (f : VReg → Word → Issued) :
    winOp s key dn out (some rs) k f = f (k.rd dn) (k.rs rs).val := by
  simp [winOp, hc, hp, ha]

theorem winOp_pass_none {s : State} {key : Nat} {dn : Fin 16} {out : Bool} {k : Core} (hc : winCheck s key (k.rd dn) out = none)
    (ha : attached (k.rd dn) = true) (f : VReg → Word → Issued) : winOp s key dn out none k f = f (k.rd dn) 0 := by
  simp [winOp, hc, ha]

theorem winOp_detached {s : State} {key : Nat} {dn : Fin 16} {out : Bool} {k : Core} (hc : winCheck s key (k.rd dn) out = none)
    (ha : attached (k.rd dn) = false) (f : VReg → Word → Issued) : winOp s key dn out none k f = .fault WINDOW_STATE := by
  simp [winOp, hc, ha]

/-- An operation queued and a slot written. -/
theorem LeftBy.queueSlot {k0 k : Core} {o : Outbound} {dn : Fin 16} {x : VReg} {next : Word}
    (h : LeftBy (({ k0 with inject := k0.inject ++ [o] } : Core).setD dn x) next k) :
    Claims.Frame k0 k (fun x => { x with inject := x.inject ++ [o], d := k.d }) ∧ OnlyD k0 k dn x := by
  refine ⟨⟨?_, h.ctlKept (.of_ctl rfl)⟩, fun r => ?_⟩
  · obtain ⟨_, _, _, rfl, -⟩ := h
    rfl
  · rw [h.rd, Core.rd_setD]
    rfl

theorem statWait_reached {k : Core} {d : VReg} {hi : Bool} {w : Word} (h : k.statReached (wStat d) hi (w.truncate 16) = true) :
    statWait d hi w k = .retire k k.pc4 := if_pos h

theorem statWait_short {k : Core} {d : VReg} {hi : Bool} {w : Word} (h : ¬k.statReached (wStat d) hi (w.truncate 16) = true) :
    statWait d hi w k = .wait k (.stat (wStat d) hi (w.truncate 16)) := if_neg h

theorem statReached_iff (k : Core) (a : Nat) (hi : Bool) (n : BitVec 16) :
    k.statReached a hi n = true ↔ (((k.memWord a).val >>> (if hi then 16 else 0)).truncate 16 - n : BitVec 16).toNat < 2 ^ 15 := by
  simp [Core.statReached]

/-- swait and sfwait on a window that passes its checks. -/
theorem retires_or_waits_stat {i : Instr} {s : State} {c : CoreId} {f : Core → Issued} {d : VReg} {hi : Bool} {w : Word} {v : BitVec 16}
    (hx : exec i s = .next (issue c i s f)) (hr : Ready s c i) (hf : f (s.core c) = statWait d hi w (s.core c))
    (hl : isRouteLost s c = false) (hv : ((((s.core c).memWord (wStat d)).val >>> (if hi then 16 else 0)).truncate 16 : BitVec 16) = v) :
    if (v - w.truncate 16 : BitVec 16).toNat < 2 ^ 15 then Retires i s c ((s.core c).pc + 4) (fun k => Claims.Frame (s.core c) k id)
    else Waits i s c (.stat (wStat d) hi (w.truncate 16)) := by
  have hs := statReached_iff (s.core c) (wStat d) hi (w.truncate 16)
  rw [hv] at hs
  split
  · next h => exact retires_of_issue hx hr (hf.trans (statWait_reached (hs.mpr h))) fun k h => h.unchanged
  · next h => exact waits_of_issue hx hr (hf.trans (statWait_short (mt hs.mp h))) (.inl hl)

theorem sattach_detached {s : State} {c : CoreId} {dn : Fin 16} (hw : winCheck s (coreKey c) ((s.core c).rd dn) true = none)
    (ha : attached ((s.core c).rd dn) = false) (hq : (s.core c).full = false) (hr : Ready s c (.sattach c dn)) :
    let d := (s.core c).rd dn
    let o : Outbound := streamPkt d 1 (BitVec.ofNat 32 (wGen d * 2 ^ 16 + wStat d / 8 % 2 ^ 15))
    Retires (.sattach c dn) s c ((s.core c).pc + 4) (fun k =>
      Claims.Frame (s.core c) k (fun x => { x with inject := x.inject ++ [o], d := k.d }) ∧ OnlyD (s.core c) k dn (withAtt d true)) := by
  intro d o
  refine retires_of_issue rfl hr (k1 := ({ s.core c with inject := (s.core c).inject ++ [o] } : Core).setD dn (withAtt d true)) ?_
    fun k h => h.queueSlot
  have hs : (s.core c).queue o (fun k => .retire (k.setD dn (withAtt d true)) k.pc4) = _ := Core.queue_room hq _ _
  simp only [hw, ha]
  exact hs

theorem streamWindows : StreamWindows := by
  intro s c dn rs k0 d pkt hl
  refine ⟨fun hw => ⟨fun ha hr => ?_, fun ha hr => ?_, fun ha hq hr => ?_, fun ha hq => ⟨fun hr => ?_, fun hr hp => ?_, fun hr hp => ?_⟩⟩,
    fun hw ha hp => ⟨fun hr => ?_, fun hr => ?_⟩⟩
  · refine faults_of_issue rfl hr ?_
    dsimp only
    rw [hw, if_pos ha]
  · exact faults_of_issue rfl hr (winOp_detached hw ha _)
  · exact sattach_detached hw ha hq hr
  · exact retires_of_issue rfl hr ((winOp_pass_none hw ha _).trans (Core.queue_room hq _ _)) fun k h => h.queueSlot
  · exact retires_of_issue rfl hr ((winOp_pass hw hp ha _).trans (Core.queue_room hq _ _)) fun k h => h.queues
  · exact retires_of_issue rfl hr ((winOp_pass hw hp ha _).trans (Core.queue_room hq _ _)) fun k h => h.queues
  · exact retires_or_waits_stat rfl hr (winOp_pass hw hp ha _) hl (congrArg (BitVec.truncate 16) (BitVec.ushiftRight_zero _))
  · exact retires_or_waits_stat rfl hr (winOp_pass hw hp ha _) hl rfl

/-! ## send and mcast -/

theorem retires_sendOp {i : Instr} {s : State} {c : CoreId} {peal : Bool} {route : BitVec 8} {as1 : Fin 8} {tap : Fin 64} {t : Bool}
    {count : BitVec 14} {daddr : BitVec 18} (hx : exec i s = .next (issue c i s (sendOp s c peal route as1 tap t count daddr)))
    (hr : Ready s c i) (hl : isRouteLost s c = false) (ht : t = true ∨ tap = 0) :
    let k0 := s.core c
    let a := (k0.ra as1).val.toNat
    if (k0.ra as1).poison then Faults i s c POISON_ADDR
    else match routeOf s (coreKey c) route.toNat with
      | none => Faults i s c ROUTE_NONE
      | some r =>
        if routeWords r ≠ count.toNat then Faults i s c ROUTE_LEN
        else if count = 0 ∨ a % 4 ≠ 0 ∨ daddr.toNat % 4 ≠ 0 ∨ inMem a (4 * count.toNat) = false ∨ inMem daddr.toNat (4 * count.toNat) = false then
          Faults i s c SEND_ADDR
        else if r.getLsbD 30 ≠ peal then Faults i s c ROUTE_KIND
        else if k0.full then Waits i s c .inject
        else Retires i s c (k0.pc + 8) (fun k => Queues k0 k (.data route a count.toNat daddr (if t then some tap else none))) := by
  have h0 : ¬(t = false ∧ tap ≠ 0) := by
    rintro ⟨rfl, h⟩
    exact ht.elim (by decide) h
  dsimp only
  split
  · next h1 => exact faults_of_issue hx hr ((if_neg h0).trans (if_pos h1))
  next h1 =>
  split
  · next hn =>
    refine faults_of_issue hx hr ((if_neg h0).trans ((if_neg h1).trans ?_))
    rw [hn]
  next r hn =>
  have hs : sendOp s c peal route as1 tap t count daddr (s.core c) = _ := (if_neg h0).trans (if_neg h1)
  simp only [hn] at hs
  split
  · next h2 => exact faults_of_issue hx hr (hs.trans (if_pos h2))
  next h2 =>
  split
  · next h3 => exact faults_of_issue hx hr (hs.trans ((if_neg h2).trans (if_pos h3)))
  next h3 =>
  split
  · next h4 => exact faults_of_issue hx hr (hs.trans ((if_neg h2).trans ((if_neg h3).trans (if_pos h4))))
  next h4 =>
  have hs := hs.trans ((if_neg h2).trans ((if_neg h3).trans (if_neg h4)))
  split
  · next h5 => exact waits_of_issue hx hr (hs.trans (Core.queue_full h5 _ _)) (.inl hl)
  · next h5 => exact retires_of_issue hx hr (hs.trans (Core.queue_room (Bool.not_eq_true _ ▸ h5) _ _)) fun k h => h.queues

theorem sendAndMcast : SendAndMcast := by
  intro e he s c route as1 tap t count daddr hr hl ht
  simp only [List.mem_cons, List.not_mem_nil, or_false] at he
  obtain rfl | rfl := he
  · exact retires_sendOp rfl hr hl ht
  · exact retires_sendOp rfl hr hl ht

/-- Settles O17. -/
theorem sendsAndWindows : Obligations.SendsAndWindows := by
  unfold Obligations.SendsAndWindows
  exact ⟨streamWindows, sendAndMcast⟩

end Sys2Proof.Machine
end

section
/-! PROOFS. Stores to the control registers and the end of a wait (O18). -/

namespace Sys2Proof.Machine

open Sys2Proof.Claims

/-! ## Stores to the control registers -/

/-- A word store to a control register that does not fault and does not wait for an mm. -/
theorem storeOp_ctl {s : State} {key : Nat} {rt : Fin 32} {ab : Fin 8} {post : Bool} {imm : BitVec 16} {k : Core} {o : Nat}
    (ha : k.ea ab post (sext16 imm) = 0x31000 + o) (ho : o + 4 ≤ 0x200) (h4 : o % 4 = 0) (hp : (k.ra ab).poison = false)
    (hw : (k.rs rt).poison = false) (hm : ctlWaits o = false ∨ k.mmBusy = false) (hpu : o ≠ 0xC4) :
    storeOp s key 4 rt ab post imm k =
      if (o = 0x100 ∨ o = 0x104) ∧ clearsPending k ((o - 0x100) / 4) ((k.rs rt).val &&& laneGrant s key ((o - 0x100) / 4)) then .stall
      else if 4 ≤ o ∧ ctlLow64 (o - 4) then .retireSet ((ctlStore s key k o (k.rs rt).val).bump ab post (sext16 imm)) k.pc4 (o - 4)
      else .retire ((ctlStore s key k o (k.rs rt).val).bump ab post (sext16 imm)) k.pc4 := by
  have hreg : regionOf (0x31000 + o) 4 = .ctl := by
    unfold regionOf
    rw [if_neg (by omega), if_neg (by omega), if_pos (by omega)]
  have hb : (ctlWaits o && k.mmBusy) = false := by rcases hm with h | h <;> simp [h]
  unfold storeOp
  simp only [ha, hp, hw, hreg, hb, Nat.add_sub_cancel_left]
  rw [if_neg (by decide), if_neg (by omega), if_neg (by decide), if_neg (by decide), if_neg (by decide), if_neg hpu]

theorem storeOp_puReport {s : State} {key : Nat} {rt : Fin 32} {ab : Fin 8} {post : Bool} {imm : BitVec 16} {k k' : Core}
    (ha : k.ea ab post (sext16 imm) = 0x310C4) (hp : (k.ra ab).poison = false) (hw : (k.rs rt).poison = false) (hm : k.mmBusy = false)
    (hpu : puReport s key (k.rs rt).val k = .ok (some k')) :
    storeOp s key 4 rt ab post imm k = .retire (k'.bump ab post (sext16 imm)) k.pc4 := by
  unfold storeOp
  simp only [ha, hp, hw, hm, hpu, Bool.and_false]
  rfl

theorem LeftBy.ctlW {k1 k : Core} {next : Word} (h : LeftBy k1 next k) {o : Nat} (h48 : o ≠ 0x48) (h4C : o ≠ 0x4C) : k.ctlW o = k1.ctlW o := by
  obtain ⟨x, b, g, -, hk⟩ := h
  exact hk o h48 h4C

/-- A counter moved, other than those kept apart. -/
theorem Core.count_ctlLeft (k : Core) {o : Nat} (n : Nat) (h1 : o ≠ 0x40) (h2 : o ≠ 0x50) (h3 : o ≠ 0x68) :
    ∃ x, k.count o n = { k with ctl := x } ∧ CtlLeft [o, o + 4] k (k.count o n) := by
  obtain ⟨x, hx, hj⟩ := Core.count_ctl k o n h1 h2 h3
  refine ⟨x, hx, fun j hm => ?_⟩
  simp only [List.cons_append, List.nil_append, List.mem_cons, List.not_mem_nil, or_false, not_or] at hm
  obtain ⟨-, -, -, ho, ho4⟩ := hm
  rw [hx, hj j ho ho4]

theorem puReport_room {s : State} {key : Nat} {w e : Word} {k : Core} (hr : routeOf s key (k.ctlW 0xC0).toNat = some e)
    (hw : routeWords e = 1) (hk : e.getLsbD 30 = false) (hq : k.full = false) :
    ∃ k' x, puReport s key w k = .ok (some k') ∧ CtlLeft [0xC8, 0xCC, 0xD0, 0xD4] k k' ∧
      k' = { k with inject := k.inject ++ [.words ((k.ctlW 0xC0).truncate 8) 5 [⟨w, false⟩] false], ctl := x } := by
  let k1 : Core := { k with inject := k.inject ++ [.words ((k.ctlW 0xC0).truncate 8) 5 [⟨w, false⟩] false] }
  have hp : puReport s key w k = .ok (some (if w.getLsbD 30 then (k1.count 0xD0 1).count 0xC8 1 else k1.count 0xD0 1)) := by
    have hk' : ¬e.getLsbD 30 = true := by rw [hk]; decide
    simp only [puReport, hr, hw, hq]
    rw [if_neg (by decide), if_neg hk', if_neg (by decide)]
  obtain ⟨x, hx, hc⟩ := k1.count_ctlLeft (o := 0xD0) 1 (by decide) (by decide) (by decide)
  obtain ⟨y, hy, hd⟩ := (k1.count 0xD0 1).count_ctlLeft (o := 0xC8) 1 (by decide) (by decide) (by decide)
  have h1 : CtlLeft [0xC8, 0xCC, 0xD0, 0xD4] k (k1.count 0xD0 1) :=
    (CtlLeft.of_ctl (k0 := k) (k1 := k1) rfl).trans (hc.mono (by decide))
  split at hp
  · exact ⟨_, y, hp, h1.trans (hd.mono (by decide)), by rw [hy, hx]⟩
  · exact ⟨_, x, hp, h1, hx⟩

theorem corePuReport_queues {s : State} {c : CoreId} {rt : Fin 32} {ab : Fin 8} {post : Bool} {imm : BitVec 16} {e : Word}
    (hr : Ready s c (.sw c rt ab post imm)) (ha : (s.core c).ea ab post (sext16 imm) = 0x310C4) (hp : ((s.core c).ra ab).poison = false)
    (hw : ((s.core c).rs rt).poison = false) (hm : (s.core c).mmBusy = false)
    (he : routeOf s (coreKey c) ((s.core c).ctlW 0xC0).toNat = some e) (h1 : routeWords e = 1) (hk : e.getLsbD 30 = false)
    (hq : (s.core c).full = false) :
    Retires (.corePuReport c rt ab post imm) s c ((s.core c).pc + 4) (fun k =>
      FrameC [0xC8, 0xCC, 0xD0, 0xD4] (s.core c) k (fun x =>
        { x with inject := x.inject ++ [.words (((s.core c).ctlW 0xC0).truncate 8) 5 [⟨((s.core c).rs rt).val, false⟩] false], a := k.a }) ∧
      Bumps (s.core c) k ab post (sext16 imm)) := by
  obtain ⟨k', x, hpu, hc, hf⟩ := puReport_room (w := ((s.core c).rs rt).val) he h1 hk hq
  have hx : exec (.corePuReport c rt ab post imm) s =
      .next (issue c (.sw c rt ab post imm) s (storeOp s (coreKey c) 4 rt ab post imm)) := if_pos ha
  refine retires_of_issue hx hr (storeOp_puReport ha hp hw hm hpu) fun k h => ?_
  obtain ⟨z, hz⟩ := k'.bump_form ab post (sext16 imm)
  refine ⟨⟨?_, h.ctlKept (hc.trans (.of_ctl (by rw [hz])))⟩, h.bumps (by rw [hf]; rfl)⟩
  obtain ⟨_, _, _, rfl, -⟩ := h
  rw [hz, hf]

theorem ctlStore_laneEn (s : State) (key : Nat) (k : Core) {h : Nat} (hh : h < 2) (w : Word) : ctlStore s key k (0x100 + 4 * h) w =
    { (k.setCtl (0x100 + 4 * h) (w &&& laneGrant s key h)) with enForce := enNow s key k h (w &&& laneGrant s key h) } := by
  obtain rfl | rfl : h = 0 ∨ h = 1 := by omega
  · rfl
  · rfl

theorem coreLaneEnWrite_writes {s : State} {c : CoreId} {rt : Fin 32} {ab : Fin 8} {post : Bool} {imm : BitVec 16} {h : Nat}
    (hr : Ready s c (.sw c rt ab post imm)) (hh : h < 2) (ha : (s.core c).ea ab post (sext16 imm) = 0x31100 + 4 * h)
    (hp : ((s.core c).ra ab).poison = false) (hw : ((s.core c).rs rt).poison = false)
    (hc : clearsPending (s.core c) h (((s.core c).rs rt).val &&& laneGrant s (coreKey c) h) = false) :
    Retires (.coreLaneEnWrite c rt ab post imm) s c ((s.core c).pc + 4) (fun k =>
      FrameC [0x100 + 4 * h] (s.core c) k (fun x => { x with enForce := k.enForce, a := k.a }) ∧ Bumps (s.core c) k ab post (sext16 imm) ∧
      k.ctlW (0x100 + 4 * h) = ((s.core c).rs rt).val &&& laneGrant s (coreKey c) h) := by
  have hx : exec (.coreLaneEnWrite c rt ab post imm) s =
      .next (issue c (.sw c rt ab post imm) s (storeOp s (coreKey c) 4 rt ab post imm)) := if_pos (by omega)
  have ho : (0x100 + 4 * h - 0x100) / 4 = h := by omega
  have hl : ¬(4 ≤ 0x100 + 4 * h ∧ ctlLow64 (0x100 + 4 * h - 4) = true) := by
    obtain rfl | rfl : h = 0 ∨ h = 1 := by omega
    · decide
    · decide
  have hwait : ctlWaits (0x100 + 4 * h) = false := decide_eq_false (by omega)
  have hst := storeOp_ctl (s := s) (key := coreKey c) (rt := rt) (o := 0x100 + 4 * h) (ha.trans (by omega)) (by omega) (by omega) hp hw (.inl hwait) (by omega)
  rw [ho, hc, if_neg (by simp), if_neg hl, ctlStore_laneEn _ _ _ hh] at hst
  refine retires_of_issue hx hr hst fun k hk => ?_
  generalize hk1 : ({ ((s.core c).setCtl (0x100 + 4 * h) (((s.core c).rs rt).val &&& laneGrant s (coreKey c) h)) with
    enForce := enNow s (coreKey c) (s.core c) h (((s.core c).rs rt).val &&& laneGrant s (coreKey c) h) } : Core) = k1 at hk
  have hcl : CtlLeft [0x100 + 4 * h] (s.core c) k1 := fun j hj => by
    rw [← hk1]
    exact (Core.ctlW_setCtl ..).trans (if_neg fun e => hj (by simp [e]))
  have hcw : k1.ctlW (0x100 + 4 * h) = ((s.core c).rs rt).val &&& laneGrant s (coreKey c) h := by
    rw [← hk1]
    exact (Core.ctlW_setCtl ..).trans (if_pos rfl)
  obtain ⟨z, hz⟩ := k1.bump_form ab post (sext16 imm)
  refine ⟨⟨?_, hk.ctlKept (hcl.trans (.of_ctl (by rw [hz])))⟩, hk.bumps (by rw [← hk1]; rfl), ?_⟩
  · obtain ⟨_, _, _, rfl, -⟩ := hk
    rw [hz, ← hk1]
    rfl
  · rw [hk.ctlW (by omega) (by omega), hz]
    exact hcw

theorem controlStoreEvents : ControlStoreEvents :=
  ⟨fun _ _ _ _ _ _ _ hr ha hp hw hm he h1 hk hq => corePuReport_queues hr ha hp hw hm he h1 hk hq,
    fun _ _ _ _ _ _ _ hr hh ha hp hw hc => coreLaneEnWrite_writes hr hh ha hp hw hc⟩

/-! ## The end of a wait -/

/-- The core at the end of its wait, the beats it waited counted (R52). -/
def Core.waited (k : Core) (n : Nat) : Core := (k.count 0x50 (n + 1)).count 0x40 (n + 1)

/-- Only the beat counters moved. -/
theorem Core.waited_form (k : Core) (n : Nat) : ∃ b w, k.waited n = { k with cntBeats := b, cntWait := w } := by
  obtain ⟨w, hw⟩ : ∃ w, k.count 0x50 (n + 1) = { k with cntWait := w } := by
    unfold Core.count
    split
    · exact ⟨_, rfl⟩
    · exact ⟨k.cntWait, rfl⟩
  obtain ⟨b, hb⟩ := (k.count 0x50 (n + 1)).count_beats (n + 1)
  exact ⟨b, w, by rw [Core.waited, hb, hw]⟩

/-- The state in which a wait ends: the beats of core c counted. -/
def waitedState (s : State) (c : CoreId) : State :=
  { s with draws := s.draws + 1 }.setCore c ((s.core c).waited (Config.freeNat s.draws))

section
variable {s : State} {c : CoreId} {w : WaitCond} {i : Instr}

theorem waitConditionMet_unmet (hs : (s.core c).st = .waiting) (hw : (s.core c).wait = some w) (hi : (s.core c).ir = some i)
    (he : waitEnd s (coreKey c) (s.core c) w = none) : exec (.waitConditionMet c) s = .next s := by
  show execWaitConditionMet c s = _
  simp only [execWaitConditionMet, hs, hw, hi, he]

theorem waitConditionMet_met (hs : (s.core c).st = .waiting) (hw : (s.core c).wait = some w) (hi : (s.core c).ir = some i) {r r' : Issued}
    (he : waitEnd s (coreKey c) (s.core c) w = some r)
    (he' : waitEnd (waitedState s c) (coreKey c) ((waitedState s c).core c) w = some r') :
    exec (.waitConditionMet c) s = .next (finish (waitedState s c) c i r') := by
  show execWaitConditionMet c s = _
  unfold waitedState Core.waited at *
  simp only [execWaitConditionMet, hs, hw, hi, he, drawNat, he']

/-- A wait that ends in the retirement of its instruction. -/
theorem waitConditionMet_retires (hs : (s.core c).st = .waiting) (hw : (s.core c).wait = some w) (hi : (s.core c).ir = some i)
    {r : Issued} {k1 : Core} {next : Word} (he : waitEnd s (coreKey c) (s.core c) w = some r)
    (he' : waitEnd (waitedState s c) (coreKey c) ((waitedState s c).core c) w = some (.retire k1 next)) :
    ∃ k, exec (.waitConditionMet c) s = .next { s with cores := Tab.put s.cores (coreKey c) k, draws := s.draws + 3 } ∧ LeftBy k1 next k := by
  obtain ⟨k, hk, hf, hc⟩ := retireAt_eq (waitedState s c) c { k1 with st := .running } next
  refine ⟨k, ?_, k.ctl, k.cntBeats, k.cntBank, hf, hc⟩
  rw [waitConditionMet_met hs hw hi he he']
  show Host.Outcome.next (retireAt (waitedState s c) c { k1 with st := .running } next) = _
  rw [hk]
  unfold waitedState State.setCore
  dsimp only
  rw [Tab.put_put]

end

theorem waitedState_core (s : State) (c : CoreId) :
    (waitedState s c).core c = (s.core c).waited (Config.freeNat s.draws) := State.core_setCore ..

theorem taps_setTaps (k : Core) (t : BitVec 64) : (k.setTaps t).taps = t := by
  rw [Core.taps, Core.setTaps, Core.ctlW_setCtl, if_pos rfl, Core.ctlW_setCtl, if_neg (by decide), Core.ctlW_setCtl, if_pos rfl]
  exact halves_append t

/-- Bit u of the tap flags after one was written. -/
theorem tapOn_putTap (k : Core) (t u : Fin 64) (v : Bool) : (k.putTap t v).tapOn u = if u = t then v else k.tapOn u := by
  have hu := u.isLt
  have hb : (1#64 <<< t.val).getLsbD u.val = decide (u = t) := by
    by_cases h : u = t
    · simp [h]
    · have hne : u.val ≠ t.val := fun e => h (Fin.ext e)
      rw [BitVec.getLsbD_shiftLeft, BitVec.getLsbD_one]
      simp [h]
      omega
  have ht : (k.putTap t v).taps = if v then k.taps ||| (1#64 <<< t.val) else k.taps &&& ~~~(1#64 <<< t.val) := taps_setTaps ..
  rw [Core.tapOn, ht, Core.tapOn]
  cases v with
  | true =>
    rw [if_pos rfl, BitVec.getLsbD_or, hb]
    by_cases h : u = t <;> simp [h]
  | false =>
    rw [if_neg (by decide), BitVec.getLsbD_and, BitVec.getLsbD_not, hb]
    by_cases h : u = t <;> simp [h]

theorem LeftBy.tapOn {k1 k : Core} {next : Word} (h : LeftBy k1 next k) (u : Fin 64) : k.tapOn u = k1.tapOn u := by
  rw [Core.tapOn, Core.tapOn, Core.taps, Core.taps, h.ctlW (by decide) (by decide), h.ctlW (by decide) (by decide)]

theorem LeftBy.running {k1 k : Core} {next : Word} (h : LeftBy k1 next k) : k.st = .running ∧ k.ir = none ∧ k.wait = none ∧ k.pc = next := by
  obtain ⟨x, b, g, rfl, -⟩ := h
  exact ⟨rfl, rfl, rfl, rfl⟩

theorem tapWait_ends {s : State} {c : CoreId} {t : Fin 64} {clear : Bool} {i : Instr} (hs : (s.core c).st = .waiting)
    (hw : (s.core c).wait = some (.tap t clear)) (hi : (s.core c).ir = some i) :
    if (s.core c).tapOn t then ∃ k, exec (.waitConditionMet c) s = .next { s with cores := Tab.put s.cores (coreKey c) k, draws := s.draws + 3 } ∧
        k.st = .running ∧ k.ir = none ∧ k.wait = none ∧ k.pc = (s.core c).waitNext ∧ k.s = (s.core c).s ∧ k.mem = (s.core c).mem ∧
        ∀ u, k.tapOn u = ((s.core c).tapOn u && !(clear && decide (u = t)))
    else exec (.waitConditionMet c) s = .next s := by
  split
  · next ht =>
    obtain ⟨b, w, hf⟩ := (s.core c).waited_form (Config.freeNat s.draws)
    have hc := waitedState_core s c
    rw [hf] at hc
    obtain ⟨k, hk, hl⟩ := waitConditionMet_retires hs hw hi (if_pos ht) ((if_pos (by rw [hc]; exact ht)))
    obtain ⟨h1, h2, h3, h4⟩ := hl.running
    obtain ⟨h5, h6, -, -, -⟩ := hl.kept
    rw [hc] at hl h4 h5 h6
    refine ⟨k, hk, h1, h2, h3, h4, h5.trans ?_, h6.trans ?_, fun u => ?_⟩
    · split <;> rfl
    · split <;> rfl
    · rw [hl.tapOn]
      cases clear with
      | true =>
        refine (tapOn_putTap _ t u false).trans ?_
        by_cases h : u = t
        · simp [h]
        · simp [h]
          rfl
      | false => 
        simp
        rfl
  · next ht => exact waitConditionMet_unmet hs hw hi (if_neg ht)

theorem statWait_ends {s : State} {c : CoreId} {a : Nat} {hi : Bool} {n : BitVec 16} {i : Instr} (hs : (s.core c).st = .waiting)
    (hw : (s.core c).wait = some (.stat a hi n)) (hr : (s.core c).ir = some i) :
    if (s.core c).statReached a hi n then
      ∃ k, exec (.waitConditionMet c) s = .next { s with cores := Tab.put s.cores (coreKey c) k, draws := s.draws + 3 } ∧
        k.st = .running ∧ k.ir = none ∧ k.pc = (s.core c).pc + 4 ∧ k.s = (s.core c).s ∧ k.mem = (s.core c).mem
    else exec (.waitConditionMet c) s = .next s := by
  split
  · next ht =>
    obtain ⟨b, w, hf⟩ := (s.core c).waited_form (Config.freeNat s.draws)
    have hc := waitedState_core s c
    rw [hf] at hc
    obtain ⟨k, hk, hl⟩ := waitConditionMet_retires hs hw hr (if_pos ht) ((if_pos (by rw [hc]; exact ht)))
    obtain ⟨h1, h2, -, h4⟩ := hl.running
    obtain ⟨h5, h6, -, -, -⟩ := hl.kept
    rw [hc] at h4 h5 h6
    exact ⟨k, hk, h1, h2, h4, h5, h6⟩
  · next ht => exact waitConditionMet_unmet hs hw hr (if_neg ht)

theorem injectWait_ends {s : State} {c : CoreId} {i : Instr} (hs : (s.core c).st = .waiting) (hw : (s.core c).wait = some .inject)
    (hi : (s.core c).ir = some i) :
    if (s.core c).full then exec (.waitConditionMet c) s = .next s
    else ∃ k, exec (.waitConditionMet c) s = .next { s with cores := Tab.put s.cores (coreKey c) k, draws := s.draws + 1 } ∧
      k.st = .running ∧ k.ir = some i ∧ k.wait = none ∧ k.pc = (s.core c).pc ∧ k.inject = (s.core c).inject ∧ k.mem = (s.core c).mem := by
  split
  · next ht => exact waitConditionMet_unmet hs hw hi (if_pos ht)
  · next ht =>
    obtain ⟨b, w, hf⟩ := (s.core c).waited_form (Config.freeNat s.draws)
    have hc := waitedState_core s c
    rw [hf] at hc
    refine ⟨{ s.core c with cntBeats := b, cntWait := w, ir := some i, st := .running, wait := none }, ?_, rfl, rfl, rfl, rfl, rfl, rfl⟩
    rw [waitConditionMet_met hs hw hi (if_neg ht) (if_neg (by rw [hc]; exact ht))]
    unfold finish
    rw [hc]
    unfold waitedState State.setCore
    dsimp only
    rw [Tab.put_put]

/-- Settles O18. -/
theorem storesAndWaits : Obligations.StoresAndWaits := by
  unfold Obligations.StoresAndWaits
  exact ⟨controlStoreEvents, fun _ _ _ _ _ hs hw hi => tapWait_ends hs hw hi, fun _ _ _ _ _ _ hs hw hi => statWait_ends hs hw hi,
    fun _ _ _ hs hw hi => injectWait_ends hs hw hi⟩

end Sys2Proof.Machine
end

section
/-! PROOFS. Conversions between number formats (O7). -/

namespace Sys2Proof.Machine

open Sys2Proof.Claims

/-! ## Work on the control registers alone -/

/-- k1 is k0 but for control registers of `os`, POISON_SEEN and the poison counter. -/
def CtlOnly (os : List Nat) (k0 k1 : Core) : Prop := (∃ x, k1 = { k0 with ctl := x }) ∧ CtlLeft os k0 k1

theorem CtlOnly.trans {os : List Nat} {k0 k1 k2 : Core} (h1 : CtlOnly os k0 k1) (h2 : CtlOnly os k1 k2) : CtlOnly os k0 k2 := by
  obtain ⟨⟨x, rfl⟩, c1⟩ := h1
  obtain ⟨⟨y, rfl⟩, c2⟩ := h2
  exact ⟨⟨y, rfl⟩, c1.trans c2⟩

theorem CtlOnly.mono {os os' : List Nat} {k0 k1 : Core} (h : CtlOnly os k0 k1) (hs : os ⊆ os') : CtlOnly os' k0 k1 := ⟨h.1, h.2.mono hs⟩

theorem Core.consume_ctlOnly (k : Core) (n : Nat) (os : List Nat) : CtlOnly os k (k.consume n) :=
  ⟨k.consume_form n, (k.consume_ctlLeft n).mono (List.nil_subset os)⟩

theorem Core.count_ctlOnly (k : Core) {o : Nat} (n : Nat) {os : List Nat} (h1 : o ≠ 0x40) (h2 : o ≠ 0x50) (h3 : o ≠ 0x68)
    (hs : [o, o + 4] ⊆ os) : CtlOnly os k (k.count o n) :=
  let ⟨x, hx, hc⟩ := k.count_ctlLeft n h1 h2 h3
  ⟨⟨x, hx⟩, hc.mono hs⟩

theorem CtlOnly.pc4 {os : List Nat} {k0 k1 : Core} (h : CtlOnly os k0 k1) : k1.pc4 = k0.pc + 4 := by
  obtain ⟨⟨x, rfl⟩, -⟩ := h
  rfl

/-- An instruction that retires a core whose pc is only known to be kept. -/
theorem retires_of_issue_at {i : Instr} {s : State} {c : CoreId} {f : Core → Issued} (hx : exec i s = .next (issue c i s f)) (hr : Ready s c i)
    {k1 : Core} {next next' : Word} (hf : f (s.core c) = .retire k1 next') (hn : next' = next) {P : Core → Prop}
    (hP : ∀ k, LeftBy k1 next k → P k) : Retires i s c next P := retires_of_issue hx hr (hn ▸ hf) hP

/-- Rounding modes advance the generator alone. -/
theorem Core.rmodes_ctlOnly (k : Core) (n : Nat) : CtlOnly [0x84] k (k.rmodes n).2 := by
  have hset : ∀ w, CtlOnly [0x84] k (k.setCtl 0x84 w) := fun w =>
    ⟨⟨_, rfl⟩, fun o ho => (Core.ctlW_setCtl ..).trans (if_neg fun e => ho (by simp [e]))⟩
  have hrefl : CtlOnly [0x84] k k := ⟨⟨k.ctl, rfl⟩, .refl _ k⟩
  unfold Core.rmodes
  split
  · exact hrefl
  · exact hrefl
  · exact hset _
  · exact hrefl

/-- Drawing no rounding mode leaves every control register. -/
theorem Core.rmodes_zero_ctlOnly (k : Core) : CtlOnly [] k (k.rmodes 0).2 := by
  have hrefl : CtlOnly [] k k := ⟨⟨k.ctl, rfl⟩, .refl _ k⟩
  unfold Core.rmodes
  split
  · exact hrefl
  · exact hrefl
  · refine ⟨⟨_, rfl⟩, fun o _ => (Core.ctlW_setCtl ..).trans ?_⟩
    split
    · next h => rw [h]; rfl
    · rfl
  · exact hrefl

theorem srStates_length (x : Word) (n : Nat) : (srStates x n).length = n := by
  induction n generalizing x with
  | zero => rfl
  | succ n ih => rw [srStates, List.length_cons, ih]

theorem Core.rmodes_length (k : Core) (n : Nat) : (k.rmodes n).1.length = n := by
  unfold Core.rmodes
  split <;> simp [srStates_length]

/-! ## Vector registers written after work on the control registers -/

theorem LeftBy.vectorAfter {k0 k1 k : Core} {os : List Nat} {vd : Fin 16} {x : VReg} {next : Word} (h : LeftBy (k1.setV vd x) next k)
    (hw : CtlOnly os k0 k1) : FrameC os k0 k (fun x => { x with v := k.v }) ∧ (∀ r, r ≠ vd → k.rv r = k0.rv r) ∧ k.rv vd = x := by
  obtain ⟨⟨y, hy⟩, hc⟩ := hw
  have hv : k1.rv = k0.rv := by rw [hy]; rfl
  refine ⟨h.frameV ⟨_, y, by rw [hy]; rfl⟩ (hc.trans (.of_ctl rfl)), fun r hr => ?_, ?_⟩
  · rw [h.rv, Core.rv_setV, if_neg hr, hv]
  · rw [h.rv, Core.rv_setV, if_pos rfl]

/-- m registers from vd on, register j holding f j. -/
def putRegs (vd : Fin 16) (f : Nat → VReg) (m : Nat) (k : Core) : Core :=
  (List.range m).foldl (fun k j => k.setV (vd + Fin.ofNat 16 j) (f j)) k

theorem putRegs_form (vd : Fin 16) (f : Nat → VReg) (m : Nat) (k : Core) : ∃ x, putRegs vd f m k = { k with v := x } := by
  induction m with
  | zero => exact ⟨k.v, rfl⟩
  | succ m ih =>
    obtain ⟨x, hx⟩ := ih
    rw [putRegs, List.range_succ, List.foldl_append]
    exact ⟨_, by
      show (putRegs vd f m k).setV _ _ = _
      rw [hx]
      rfl⟩

theorem rv_putRegs {vd : Fin 16} {f : Nat → VReg} {m : Nat} (k : Core) (hm : vd.val + m ≤ 16) (r : Fin 16) :
    (putRegs vd f m k).rv r = if vd.val ≤ r.val ∧ r.val < vd.val + m then f (r.val - vd.val) else k.rv r := by
  induction m with
  | zero =>
    rw [if_neg (by omega)]
    rfl
  | succ m ih =>
    have hs : putRegs vd f (m + 1) k = (putRegs vd f m k).setV (vd + Fin.ofNat 16 m) (f m) := by
      rw [putRegs, List.range_succ, List.foldl_append]
      rfl
    have hval : (vd + Fin.ofNat 16 m).val = vd.val + m := by
      rw [Fin.val_add, Fin.val_ofNat]
      omega
    rw [hs, Core.rv_setV, ih (by omega)]
    by_cases he : r.val = vd.val + m
    · rw [if_pos (Fin.ext (he.trans hval.symm)), if_pos (by omega), he, Nat.add_sub_cancel_left]
    · rw [if_neg fun e => he ((congrArg Fin.val e).trans hval)]
      congr 1
      simp only [eq_iff_iff]
      omega

theorem Core.putLanes_eq (k : Core) (wide : Wide) (vd : Fin 16) (t : Bool) (cs : List Nat) : k.putLanes wide vd t cs =
    putRegs vd (fun j => VReg.of (packBits (laneBits (wideTy wide)) ((cs.drop (laneCount (wideTy wide) * j)).take (laneCount (wideTy wide)))) t)
      (cs.length / laneCount (wideTy wide)) k := rfl

theorem LeftBy.lanes {k0 k1 k : Core} {os : List Nat} {wide : Wide} {vd : Fin 16} {t : Bool} {cs : List Nat} {next : Word} {m : Nat}
    (h : LeftBy (k1.putLanes wide vd t cs) next k) (hw : CtlOnly os k0 k1) (hm : cs.length / laneCount (wideTy wide) = m)
    (hd : vd.val + m ≤ 16) :
    FrameC os k0 k (fun x => { x with v := k.v }) ∧ (∀ r : Fin 16, r.val < vd.val ∨ vd.val + m ≤ r.val → k.rv r = k0.rv r) ∧
      ∀ j : Fin m, k.rv (vd + Fin.ofNat 16 j.val) =
        VReg.of (packBits (laneBits (wideTy wide)) ((cs.drop (laneCount (wideTy wide) * j.val)).take (laneCount (wideTy wide)))) t := by
  rw [Core.putLanes_eq, hm] at h
  obtain ⟨⟨y, hy⟩, hc⟩ := hw
  obtain ⟨x, hx⟩ := putRegs_form vd
    (fun j => VReg.of (packBits (laneBits (wideTy wide)) ((cs.drop (laneCount (wideTy wide) * j)).take (laneCount (wideTy wide)))) t) m k1
  have hv : k1.rv = k0.rv := by rw [hy]; rfl
  refine ⟨h.frameV ⟨x, y, by rw [hx, hy]⟩ (hc.trans (.of_ctl (by rw [hx]))), fun r hr => ?_, fun j => ?_⟩
  · rw [h.rv, rv_putRegs _ hd, if_neg (by omega), hv]
  · have hj := j.isLt
    have hval : (vd + Fin.ofNat 16 j.val).val = vd.val + j.val := by
      rw [Fin.val_add, Fin.val_ofNat]
      omega
    rw [h.rv, rv_putRegs _ hd, if_pos (by omega), hval, Nat.add_sub_cancel_left]

/-! ## Narrowing -/

theorem wideSrcOk_iff (wide : Wide) (va vb : Fin 16) : wideSrcOk wide va vb = true ↔ ¬(wide = .fp32 ∧ (vb ≠ 0 ∨ va.val % 4 ≠ 0)) := by
  cases wide <;> simp [wideSrcOk]

theorem narrowingConversions : NarrowingConversions := by
  refine ⟨fun s c wide fmt vd va vb hr => ?_, fun s c wide fmt vd va vb hr => ?_⟩
  · dsimp only
    split
    · next h => exact faults_of_issue rfl hr (if_neg fun e => (wideSrcOk_iff ..).mp e h)
    · next h =>
      have hw : CtlOnly [0x84, 0x90, 0x94, 0xA0, 0xA4] (s.core c) (((((s.core c).rmodes (if Fmt.ofN fmt = .gt2 then 2 else 0)).2.consume
          ((s.core c).poisonV (wideSrc wide va vb))).count 0x90 (scaleBlock (Fmt.ofN fmt) ((s.core c).rmodes (if Fmt.ofN fmt = .gt2 then 2 else 0)).1 ((s.core c).wideBlock wide va vb)).2.1).count 0xA0 (scaleBlock (Fmt.ofN fmt) ((s.core c).rmodes (if Fmt.ofN fmt = .gt2 then 2 else 0)).1 ((s.core c).wideBlock wide va vb)).2.2) :=
        ((((s.core c).rmodes_ctlOnly _).mono (by decide)).trans (Core.consume_ctlOnly ..)).trans
          ((Core.count_ctlOnly _ _ (by decide) (by decide) (by decide) (by decide)).trans
            (Core.count_ctlOnly _ _ (by decide) (by decide) (by decide) (by decide)))
      exact retires_of_issue_at rfl hr (if_pos ((wideSrcOk_iff ..).mpr h)) hw.pc4 fun k hk => hk.vectorAfter hw
  · dsimp only
    split
    · next h => exact faults_of_issue rfl hr (if_neg fun e => (wideSrcOk_iff ..).mp e h)
    · next h =>
      have hw : CtlOnly [0x84, 0x90, 0x94, 0x98, 0x9C] (s.core c) (((((s.core c).rmodes (if Fmt.ofN fmt = .gt2 then 0 else 32)).2.consume
          ((s.core c).poisonV (wideSrc wide va vb))).count 0x90 (quantBlock (Fmt.ofN fmt) ((s.core c).rmodes (if Fmt.ofN fmt = .gt2 then 0 else 32)).1 ((s.core c).wideBlock wide va vb)).2.1).count 0x98 (quantBlock (Fmt.ofN fmt) ((s.core c).rmodes (if Fmt.ofN fmt = .gt2 then 0 else 32)).1 ((s.core c).wideBlock wide va vb)).2.2) :=
        ((((s.core c).rmodes_ctlOnly _).mono (by decide)).trans (Core.consume_ctlOnly ..)).trans
          ((Core.count_ctlOnly _ _ (by decide) (by decide) (by decide) (by decide)).trans
            (Core.count_ctlOnly _ _ (by decide) (by decide) (by decide) (by decide)))
      exact retires_of_issue_at rfl hr (if_pos ((wideSrcOk_iff ..).mpr h)) hw.pc4 fun k hk => hk.vectorAfter hw

/-! ## Widening -/

theorem gt2Vals_length (codes : List Nat) (e0 e1 : Nat) : (gt2Vals codes e0 e1).1.length = codes.length := by
  have hf : ∀ (acc : List FV × Nat), (codes.foldl (fun (acc : List FV × Nat) c =>
      if c = 2 then
        (acc.1 ++ [if acc.2 = 0 then elemVal .e4m3 e0 else if acc.2 = 1 then elemVal .e4m3 e1 else .fin false 0 0], acc.2 + 1)
      else (acc.1 ++ [elemVal .gt2 c], acc.2)) acc).1.length = acc.1.length + codes.length := by
    induction codes with
    | nil => intro acc; rfl
    | cons x l ih =>
      intro acc
      rw [List.foldl_cons, ih, List.length_cons]
      split
      · simp only [List.length_append, List.length_singleton]
        omega
      · simp only [List.length_append, List.length_singleton]
        omega
  exact (hf ([], 0)).trans (Nat.zero_add _)

/-- The elements that vdq scales, and its escape-overflow events (R127, R130). -/
def dqVals (k : Core) (f : Fmt) (va vb : Fin 16) : List FV × Nat :=
  if f = .gt2 then
    gt2Vals ((List.range 32).map (fun e => (k.rv va).val.toNat / 2 ^ (f.bits * e) % 2 ^ f.bits)) ((k.rv vb).lane .u8 1) ((k.rv vb).lane .u8 2)
  else (((List.range 32).map (fun e => (k.rv va).val.toNat / 2 ^ (f.bits * e) % 2 ^ f.bits)).map (elemVal f), 0)

theorem dqVals_length (k : Core) (f : Fmt) (va vb : Fin 16) : (dqVals k f va vb).1.length = 32 := by
  unfold dqVals
  split
  · rw [gt2Vals_length, List.length_map, List.length_range]
  · simp

theorem dqElems_eq (k : Core) (f : Fmt) (va vb : Fin 16) : dqElems k f va vb = (dqVals k f va vb).1.map (scaled ((k.rv vb).lane .u8 0)) := by
  unfold dqElems dqVals
  split <;> rfl

/-- Each element of vdq rounded to the wide format: its code, and whether it saturated (R141). -/
def dqWide (k : Core) (wide : Wide) (f : Fmt) (mds : List RMode) (va vb : Fin 16) : List (Nat × Bool) :=
  (List.range 32).map (fun i => toWide wide (mds.getD i .nearest) (scaled ((k.rv vb).lane .u8 0) ((dqVals k f va vb).1.getD i .nan)))

theorem dqWide_length (k : Core) (wide : Wide) (f : Fmt) (mds : List RMode) (va vb : Fin 16) :
    ((dqWide k wide f mds va vb).map (·.1)).length = 32 := by simp [dqWide]

theorem dqWide_fp32 (k : Core) (f : Fmt) (mds : List RMode) (va vb : Fin 16) :
    (dqWide k .fp32 f mds va vb).map (·.1) = (dqElems k f va vb).map (fun v => (encSat fmt32 .nearest v).1) := by
  have hl := dqVals_length k f va vb
  rw [dqElems_eq]
  refine List.ext_getElem (by simp [dqWide, hl]) fun i h1 h2 => ?_
  have hi : i < (dqVals k f va vb).1.length := by simpa using h2
  simp [dqWide, toWide, hi]

theorem dqWide_bf16 (k : Core) (f : Fmt) {mds : List RMode} (hm : mds.length = 32) (va vb : Fin 16) :
    (dqWide k .bf16 f mds va vb).map (·.1) = ((dqElems k f va vb).zip mds).map (fun p => (encSat fmtB p.2 p.1).1) := by
  have hl := dqVals_length k f va vb
  rw [dqElems_eq]
  refine List.ext_getElem (by simp [dqWide, hl, hm]) fun i h1 h2 => ?_
  have hi : i < (dqVals k f va vb).1.length ∧ i < mds.length := by simpa using h2
  simp [dqWide, toWide, hi]

/-- The core that vdq leaves before its registers are written. -/
def dqCounted (k : Core) (wide : Wide) (f : Fmt) (n : Nat) (va vb : Fin 16) : Core :=
  (((k.rmodes n).2.consume (k.vdqPoison f va vb)).count 0x90 ((dqWide k wide f (k.rmodes n).1 va vb).filter (·.2)).length).count 0x98
    (dqVals k f va vb).2

theorem dqCounted_ctlOnly {k : Core} {n : Nat} {os : List Nat} (h0 : CtlOnly os k (k.rmodes n).2) (hs : [0x90, 0x94, 0x98, 0x9C] ⊆ os)
    (wide : Wide) (f : Fmt) (va vb : Fin 16) : CtlOnly os k (dqCounted k wide f n va vb) :=
  ((h0.trans (Core.consume_ctlOnly ..)).trans (Core.count_ctlOnly _ _ (by decide) (by decide) (by decide)
    (List.Subset.trans (by decide) hs))).trans (Core.count_ctlOnly _ _ (by decide) (by decide) (by decide)
    (List.Subset.trans (by decide) hs))

/-- vdq at a destination bound as R136 says: m registers written. -/
theorem retires_vdq {wide : Wide} {fmt : NFmt} {vd va vb : Fin 16} {s : State} {c : CoreId} {m n : Nat} {os : List Nat} {f : Core → Issued}
    (hx : exec (.vdq c wide fmt vd va vb) s = .next (issue c (.vdq c wide fmt vd va vb) s f)) (hr : Ready s c (.vdq c wide fmt vd va vb))
    (hf : f (s.core c) = .retire ((dqCounted (s.core c) wide (Fmt.ofN fmt) n va vb).putLanes wide vd
        (decide ((s.core c).vdqPoison (Fmt.ofN fmt) va vb ≠ 0)) ((dqWide (s.core c) wide (Fmt.ofN fmt) ((s.core c).rmodes n).1 va vb).map (·.1)))
        (dqCounted (s.core c) wide (Fmt.ofN fmt) n va vb).pc4)
    (h0 : CtlOnly os (s.core c) ((s.core c).rmodes n).2) (hs : [0x90, 0x94, 0x98, 0x9C] ⊆ os) (hm : 32 / laneCount (wideTy wide) = m)
    (hd : vd.val + m ≤ 16) :
    Retires (.vdq c wide fmt vd va vb) s c ((s.core c).pc + 4) (fun k =>
      FrameC os (s.core c) k (fun x => { x with v := k.v }) ∧
      (∀ r : Fin 16, r.val < vd.val ∨ vd.val + m ≤ r.val → k.rv r = (s.core c).rv r) ∧
      ∀ j : Fin m, k.rv (vd + Fin.ofNat 16 j.val) = VReg.of (packBits (laneBits (wideTy wide))
        ((((dqWide (s.core c) wide (Fmt.ofN fmt) ((s.core c).rmodes n).1 va vb).map (·.1)).drop (laneCount (wideTy wide) * j.val)).take
          (laneCount (wideTy wide)))) (decide ((s.core c).vdqPoison (Fmt.ofN fmt) va vb ≠ 0))) :=
  let hw := dqCounted_ctlOnly h0 hs wide (Fmt.ofN fmt) va vb
  retires_of_issue_at hx hr hf hw.pc4 fun _ hk => hk.lanes hw (by rw [dqWide_length, hm]) hd

theorem vdq_fp32 {s : State} {c : CoreId} {fmt : NFmt} {vd va vb : Fin 16} (hr : Ready s c (.vdq c .fp32 fmt vd va vb)) :
    let k0 := s.core c
    if vd.val % 4 ≠ 0 then Faults (.vdq c .fp32 fmt vd va vb) s c ILLEGAL
    else Retires (.vdq c .fp32 fmt vd va vb) s c (k0.pc + 4) (fun k =>
      FrameC [0x90, 0x94, 0x98, 0x9C] k0 k (fun x => { x with v := k.v }) ∧
      (∀ r : Fin 16, r.val < vd.val ∨ vd.val + 4 ≤ r.val → k.rv r = k0.rv r) ∧
      ∀ j : Fin 4, k.rv (vd + Fin.ofNat 16 j.val) = VReg.of (packBits 32
        ((((dqElems k0 (Fmt.ofN fmt) va vb).map (fun v => (encSat fmt32 .nearest v).1)).drop (8 * j.val)).take 8))
        (decide (k0.vdqPoison (Fmt.ofN fmt) va vb ≠ 0))) := by
  dsimp only
  split
  · next h => exact faults_of_issue rfl hr (if_neg (by simpa using h))
  · next h =>
    have hvd := vd.isLt
    rw [← dqWide_fp32 _ _ ((s.core c).rmodes 0).1]
    exact retires_vdq (n := 0) rfl hr (if_pos (by simpa using h)) ((s.core c).rmodes_zero_ctlOnly.mono (List.nil_subset _)) (List.Subset.refl _) rfl
      (by omega)

theorem vdq_bf16 {s : State} {c : CoreId} {fmt : NFmt} {vd va vb : Fin 16} (hr : Ready s c (.vdq c .bf16 fmt vd va vb)) :
    let k0 := s.core c
    if vd.val % 2 ≠ 0 then Faults (.vdq c .bf16 fmt vd va vb) s c ILLEGAL
    else Retires (.vdq c .bf16 fmt vd va vb) s c (k0.pc + 4) (fun k =>
      FrameC [0x84, 0x90, 0x94, 0x98, 0x9C] k0 k (fun x => { x with v := k.v }) ∧
      (∀ r : Fin 16, r.val < vd.val ∨ vd.val + 2 ≤ r.val → k.rv r = k0.rv r) ∧
      ∀ j : Fin 2, k.rv (vd + Fin.ofNat 16 j.val) = VReg.of (packBits 16
        (((((dqElems k0 (Fmt.ofN fmt) va vb).zip (k0.rmodes 32).1).map (fun p => (encSat fmtB p.2 p.1).1)).drop (16 * j.val)).take 16))
        (decide (k0.vdqPoison (Fmt.ofN fmt) va vb ≠ 0))) := by
  dsimp only
  split
  · next h => exact faults_of_issue rfl hr (if_neg (by simpa using h))
  · next h =>
    have hvd := vd.isLt
    rw [← dqWide_bf16 _ _ (Core.rmodes_length ..)]
    exact retires_vdq (n := 32) rfl hr (if_pos (by simpa using h)) (((s.core c).rmodes_ctlOnly 32).mono (by decide)) (by decide) rfl
      (by omega)

/-! ## vcvt -/

theorem VReg.vals_length (x : VReg) (ty : LaneTy) : (x.vals ty).length = laneCount ty := by simp [VReg.vals]

/-- The codes vcvt narrows to, and whether each saturated. -/
def cvtNarrow (k : Core) (va vb : Fin 16) : List (Nat × Bool) :=
  (((k.rv va).vals .fp32 ++ (k.rv vb).vals .fp32).zip (k.rmodes 16).1).map (fun p => encSat fmtB p.2 p.1)

theorem cvtNarrow_length (k : Core) (va vb : Fin 16) : ((cvtNarrow k va vb).map (·.1)).length = 16 := by
  simp only [cvtNarrow, List.length_map, List.length_zip, List.length_append, VReg.vals_length, Core.rmodes_length]
  rfl

/-- The core that a narrowing vcvt leaves before its register is written. -/
def cvtCounted (k : Core) (va vb : Fin 16) : Core :=
  ((k.rmodes 16).2.consume (k.poisonV [va, vb])).count 0x90 ((cvtNarrow k va vb).filter (·.2)).length

theorem cvtCounted_ctlOnly (k : Core) (va vb : Fin 16) : CtlOnly [0x84, 0x90, 0x94] k (cvtCounted k va vb) :=
  (((k.rmodes_ctlOnly _).mono (by decide)).trans (Core.consume_ctlOnly ..)).trans
    (Core.count_ctlOnly _ _ (by decide) (by decide) (by decide) (by decide))

theorem vcvt_narrow {s : State} {c : CoreId} {vd va vb : Fin 16} (hr : Ready s c (.vcvt c true vd va vb)) :
    let k0 := s.core c
    Retires (.vcvt c true vd va vb) s c (k0.pc + 4) (fun k =>
      FrameC [0x84, 0x90, 0x94] k0 k (fun x => { x with v := k.v }) ∧ (∀ r, r ≠ vd → k.rv r = k0.rv r) ∧
      k.rv vd = VReg.of (packBits 16
          ((((k0.rv va).vals .fp32 ++ (k0.rv vb).vals .fp32).zip (k0.rmodes 16).1).map (fun p => (encSat fmtB p.2 p.1).1)))
        (decide (k0.poisonV [va, vb] ≠ 0))) := by
  intro k0
  have hvd := vd.isLt
  have hw := cvtCounted_ctlOnly k0 va vb
  refine retires_of_issue_at rfl hr (k1 := (cvtCounted k0 va vb).putLanes .bf16 vd (decide (k0.poisonV [va, vb] ≠ 0))
    ((cvtNarrow k0 va vb).map (·.1))) (if_pos rfl) hw.pc4 fun k hk => ?_
  obtain ⟨hf, ho, hv⟩ := hk.lanes (m := 1) hw (by rw [cvtNarrow_length]; rfl) (by omega)
  refine ⟨hf, fun r hne => ho r (by have : r.val ≠ vd.val := fun e => hne (Fin.ext e); omega), ?_⟩
  have h0 := hv 0
  have h16 : ((cvtNarrow k0 va vb).map (·.1)).take 16 = (cvtNarrow k0 va vb).map (·.1) :=
    List.take_of_length_le (by rw [cvtNarrow_length])
  have hmap : (cvtNarrow k0 va vb).map (·.1) =
      (((k0.rv va).vals .fp32 ++ (k0.rv vb).vals .fp32).zip (k0.rmodes 16).1).map (fun p => (encSat fmtB p.2 p.1).1) := List.map_map ..
  have hz : vd + Fin.ofNat 16 (0 : Fin 1).val = vd := by simp
  rw [hz] at h0
  rw [← hmap, ← h16]
  exact h0

theorem vcvt_widen {s : State} {c : CoreId} {vd va vb : Fin 16} (hr : Ready s c (.vcvt c false vd va vb)) :
    let k0 := s.core c
    if vb ≠ 0 ∨ vd.val % 2 ≠ 0 then Faults (.vcvt c false vd va vb) s c ILLEGAL
    else Retires (.vcvt c false vd va vb) s c (k0.pc + 4) (fun k =>
      Claims.Frame k0 k (fun x => { x with v := k.v }) ∧ (∀ r : Fin 16, r.val < vd.val ∨ vd.val + 2 ≤ r.val → k.rv r = k0.rv r) ∧
      ∀ j : Fin 2, k.rv (vd + Fin.ofNat 16 j.val) = VReg.of (packBits 32
        ((((k0.rv va).vals .bf16).map (encIeee fmt32)).drop (8 * j.val) |>.take 8)) (decide (k0.poisonV [va] ≠ 0))) := by
  dsimp only
  split
  · next h => exact faults_of_issue rfl hr ((if_neg (by decide)).trans (if_pos h))
  · next h =>
    have hvd := vd.isLt
    have hw := (s.core c).consume_ctlOnly ((s.core c).poisonV [va]) []
    refine retires_of_issue rfl hr ((if_neg (by decide)).trans (if_neg h)) fun k hk => ?_
    exact LeftBy.lanes (wide := .fp32) (vd := vd) (m := 2) hk hw (by rw [List.length_map, VReg.vals_length]; rfl) (by omega)

/-- Settles O7. -/
theorem conversions : Obligations.Conversions := by
  unfold Obligations.Conversions
  exact ⟨narrowingConversions, fun _ _ _ _ _ _ hr => vdq_fp32 hr, fun _ _ _ _ _ _ hr => vdq_bf16 hr, fun _ _ _ _ _ hr => vcvt_narrow hr,
    fun _ _ _ _ _ hr => vcvt_widen hr⟩

end Sys2Proof.Machine
end

section
/-! PROOFS. The scheduled fabric: operations taken, slots that move words (O19). -/

namespace Sys2Proof.Machine

open Sys2Proof.Claims

/-! ## Routers of the state -/

theorem State.router_setRouter_same (s : State) (k : Nat) (q : Router) : (s.setRouter k q).router k = q := Tab.get_put_same ..

theorem State.router_setRouter_other (s : State) {k j : Nat} (q : Router) (h : j ≠ k) : (s.setRouter k q).router j = s.router j :=
  Tab.get_put_other _ _ _ h

/-- Words added to an input track: the words of every input track of every router afterwards. -/
theorem inq_pushTrack (s : State) (r t : Nat) (ws : List TWord) (j i : Nat) : Tab.get [] ((pushTrack s r t ws).router j).inq i =
    Tab.get [] (s.router j).inq i ++ if j = r ∧ i = t then ws else [] := by
  unfold pushTrack
  by_cases hj : j = r
  · subst hj
    rw [State.router_setRouter_same]
    dsimp only
    rw [Tab.get_put]
    by_cases hi : i = t
    · simp [hi]
    · simp [hi]
  · simp [State.router_setRouter_other _ _ hj, hj]

theorem pushTrack_router_other (s : State) {r j : Nat} (t : Nat) (ws : List TWord) (h : j ≠ r) :
    (pushTrack s r t ws).router j = s.router j := State.router_setRouter_other _ _ h

/-! ## The taking of outbound operations -/

theorem injectTake_blocked {s : State} {c : CoreId} (h : (s.core c).inject = [] ∨ routerDown s (coreKey c) = true ∨
    ∃ o r, (s.core c).inject = o :: r ∧ mayLeave (s.core c) o = false) : exec (.injectTake c) s = .next s := by
  show execInjectTake c s = _
  unfold execInjectTake
  dsimp only
  cases hq : (s.core c).inject with
  | nil => rfl
  | cons o r =>
    refine if_pos ?_
    obtain h | h | ⟨o', r', hc, hm⟩ := h
    · simp [hq] at h
    · simp [h]
    · rw [hq] at hc
      cases hc
      simp [hm]

theorem injectTake_arrive {s : State} {c : CoreId} {l : Fin 64} {r : List Outbound} (hq : (s.core c).inject = .arrive l :: r)
    (hd : routerDown s (coreKey c) = false) :
    exec (.injectTake c) s = .next (s.setCore c
      { s.core c with inject := r, arriving := (s.core c).arriving ++ [(l, (s.core c).pktSeq)] }) := by
  show execInjectTake c s = _
  unfold execInjectTake
  simp only [hq, hd, mayLeave, Bool.not_true, Bool.or_self]
  rw [if_neg (by decide), State.core_setCore]
  simp [State.setCore]

/-- A packet taken, in one form for every kind of operation. -/
theorem injectTake_packet {s : State} {c : CoreId} {o : Outbound} {r : List Outbound} {e : Word} (hq : (s.core c).inject = o :: r)
    (ho : ∀ l, o ≠ .arrive l) (hm : mayLeave (s.core c) o = true) (hd : routerDown s (coreKey c) = false)
    (he : routeOf s (coreKey c) o.route.toNat = some e) :
    exec (.injectTake c) s = .next (inject (s.setCore c { s.core c with inject := r }) c e o.route (packetOf (s.core c) o).1
      (packetOf (s.core c) o).2.1 (packetOf (s.core c) o).2.2) := by
  have he' : routeOf (s.setCore c { s.core c with inject := r }) (coreKey c) o.route.toNat = some e := he
  show execInjectTake c s = _
  unfold execInjectTake
  simp only [hq, hd, hm, Bool.not_true, Bool.or_self, he']
  cases o with
  | arrive l => exact absurd rfl (ho l)
  | data => rfl
  | tapset => rfl
  | words => rfl

/-- The fill words of a packet on a route. -/
theorem fillWords_length (s : State) (n : Nat) : (fillWords s n).length = n := by simp [fillWords]

theorem injectionTakes : InjectionTakes := by
  intro s c
  refine ⟨injectTake_blocked, fun l r hq hd => ⟨_, injectTake_arrive hq hd, rfl, fun d hne => State.core_setCore_other _ _ hne, State.core_setCore ..⟩,
    fun o r e hq ho hm hd he => ⟨_, injectTake_packet hq ho hm hd he, ?_⟩⟩
  generalize packetOf (s.core c) o = p
  obtain ⟨hdr, pay, data⟩ := p
  dsimp only
  unfold inject
  rw [State.core_setCore]
  refine ⟨rfl, fun d hne => (State.core_setCore_other _ _ hne).trans (State.core_setCore_other _ _ hne),
    fun n hne => pushTrack_router_other _ _ _ hne, State.core_setCore .., fillWords s (routeWords e - pay.length), ?_, ?_, fun n hne => ?_⟩
  · rw [fillWords_length]
    omega
  · refine (congrArg _ (inq_pushTrack ..)).trans ?_
    rw [if_pos ⟨rfl, rfl⟩, List.map_append]
    exact congrArg₂ (· ++ ·) rfl (congrArg (List.cons _) ((List.map_map ..).trans (List.map_id _)))
  · refine (inq_pushTrack ..).trans ?_
    rw [if_neg fun h => hne h.2, List.append_nil]
    rfl

/-! ## Slots -/

theorem slot_kept {q q' : Router} {o : Nat} {w : Word} (h : q.slot o = some (w, q')) :
    q'.inq = q.inq ∧ q'.took = q.took ∧ q'.inbox = q.inbox ∧ q'.seqs = q.seqs := by
  unfold Router.slot at h
  dsimp only at h
  split at h
  · cases h
    exact ⟨rfl, rfl, rfl, rfl⟩
  · cases h

/-- The neighbour of a router hangs on the grid alone. -/
theorem neighbour_port {s : State} {k port n : Nat} (h : neighbour s k port = some n) : port < 4 := by
  unfold neighbour at h
  split at h
  · decide
  · decide
  · decide
  · decide
  · cases h

theorem parityCount_link {s : State} {o : Nat} (h : o / 4 < 4) (bad : Bool) :
    parityCount s o bad = if bad then cntAdd s 0 0 0xD01028 1 else s := by
  have : (o / 4 != 4) = true := by
    rw [bne_iff_ne]
    omega
  simp [parityCount, this]

theorem sent_link {o : Nat} (h : o / 4 < 4) (w : TWord) (bad : Bool) : w.sent o bad = { w with w := ⟨w.w.val, w.w.poison || bad⟩ } := by
  have : (o / 4 != 4) = true := by
    rw [bne_iff_ne]
    omega
  simp [TWord.sent, this]

/-- A word sent over a link, with router k as q left it: what the step leaves. -/
theorem sendOut_link {s : State} {k o n : Nat} (hn : neighbour s k (o / 4) = some n) (q : Router) (bad var : Bool) (left : Nat) (w : TWord) :
    sendOut (parityCount (s.setRouter k q) o bad) k o var left (w.sent o bad) =
      pushTrack ((if bad then cntAdd s 0 0 0xD01028 1 else s).setRouter k q) n (facing (o / 4) * 4 + o % 4)
        [{ w with w := ⟨w.w.val, w.w.poison || bad⟩ }] := by
  have hp := neighbour_port hn
  rw [parityCount_link hp, sent_link hp]
  cases bad
  · unfold sendOut
    have : neighbour (s.setRouter k q) k (o / 4) = some n := hn
    simp [this]
  · unfold sendOut
    have : neighbour (cntAdd (s.setRouter k q) 0 0 0xD01028 1) k (o / 4) = some n := hn
    simp [this]
    rfl

/-- The state as a parity error of a link leaves it (R182). -/
def linkCounted (s : State) (bad : Bool) : State := if bad then cntAdd s 0 0 0xD01028 1 else s

theorem linkCounted_router (s : State) (bad : Bool) (k : Nat) : (linkCounted s bad).router k = s.router k := by
  cases bad <;> rfl

theorem trackMove_slot {s : State} {c : CoreId} {o : Fin 20} {bad : Bool} {w : Word} {q : Router} (hd : routerDown s (coreKey c) = false)
    (hy : Tab.get false (s.router (coreKey c)).desync o.val = false) (hs : (s.router (coreKey c)).slot o.val = some (w, q)) :
    exec (.trackMove c ⟨o, bad⟩) s = if slotOp w = 1 then .next (moveOne s (coreKey c) o.val w q bad) else .next s := by
  show execTrackMove c ⟨o, bad⟩ s = _
  unfold execTrackMove
  simp only [hd, hy, hs, Bool.or_self, Bool.false_eq_true, if_false]

/-- The router as a MOVE of fixed length by outbound track o leaves it, w the slot and rest the words after the one moved. -/
def movedRouter (q : Router) (o : Nat) (w : Word) (rest : List TWord) : Router :=
  let i := moveIn w
  let n := Tab.get 0 q.moved o
  let all := moveFan w ≤ 1
  let q' : Router := { q with
    inq := if all then Tab.put q.inq i rest else q.inq
    took := Tab.put q.took i (if all then [] else [o])
    moved := Tab.set 0 q.moved o (n + 1)
    varLen := Tab.set 0 q.varLen o 0
    stalled := Tab.set false q.stalled o false }
  if moveCount w ≤ n + 1 then q'.next o else q'

theorem movedRouter_kept (q : Router) (o : Nat) (w : Word) (rest : List TWord) :
    (movedRouter q o w rest).inq = (if moveFan w ≤ 1 then Tab.put q.inq (moveIn w) rest else q.inq) ∧
      (movedRouter q o w rest).inbox = q.inbox ∧ (movedRouter q o w rest).seqs = q.seqs := by
  unfold movedRouter
  dsimp only
  split
  · exact ⟨rfl, rfl, rfl⟩
  · exact ⟨rfl, rfl, rfl⟩

theorem moveOne_fixed {s : State} {k o : Nat} {w : Word} {q : Router} {x : TWord} {rest : List TWord} (bad : Bool) (hv : moveVar w = false)
    (hi : Tab.get [] q.inq (moveIn w) = x :: rest) (ht : Tab.get [] q.took (moveIn w) = []) (ha : canAccept s k o = true) :
    ∃ left, moveOne s k o w q bad =
      sendOut (parityCount (s.setRouter k (movedRouter q o w rest)) o bad) k o false left (x.sent o bad) := by
  refine ⟨moveCount w - Tab.get 0 q.moved o, ?_⟩
  unfold moveOne movedRouter
  simp [hi, ht, ha, hv]

theorem trackMove_moves {s : State} {c : CoreId} {o : Fin 20} {bad : Bool} {w : Word} {q : Router} {n : Nat} {x : TWord} {rest : List TWord}
    (hd : routerDown s (coreKey c) = false) (hy : Tab.get false (s.router (coreKey c)).desync o.val = false)
    (hs : (s.router (coreKey c)).slot o.val = some (w, q)) (hn : neighbour s (coreKey c) (o.val / 4) = some n) (h1 : slotOp w = 1)
    (hv : moveVar w = false) (hi : Tab.get [] q.inq (moveIn w) = x :: rest) (ht : Tab.get [] q.took (moveIn w) = [])
    (ha : canAccept s (coreKey c) o.val = true) :
    exec (.trackMove c ⟨o, bad⟩) s = .next (pushTrack ((linkCounted s bad).setRouter (coreKey c) (movedRouter q o.val w rest)) n
      (facing (o.val / 4) * 4 + o.val % 4) [{ x with w := ⟨x.w.val, x.w.poison || bad⟩ }]) := by
  obtain ⟨left, hm⟩ := moveOne_fixed bad hv hi ht ha
  rw [trackMove_slot hd hy hs, if_pos h1, hm, sendOut_link hn]
  rfl

/-- The oldest word of each input of a MERGE that holds one. -/
def mergeHeads (q : Router) (w : Word) : List TWord := (mergePorts w).filterMap (fun p => (Tab.get [] q.inq (p * 4 + mergeTrk w)).head?)

theorem mergeHeads_eq (q : Router) (w : Word) :
    ((mergePorts w).map (fun p => p * 4 + mergeTrk w)).filterMap (fun i => (Tab.get [] q.inq i).head?) = mergeHeads q w := List.filterMap_map ..

theorem mergeHeads_length {q : Router} {w : Word} (h : ∀ p ∈ mergePorts w, Tab.get [] q.inq (p * 4 + mergeTrk w) ≠ []) :
    (mergeHeads q w).length = (mergePorts w).length := by
  unfold mergeHeads
  generalize mergePorts w = l at h
  induction l with
  | nil => rfl
  | cons p l ih =>
    have hp := h p List.mem_cons_self
    have hl := ih fun p' hp' => h p' (List.mem_cons_of_mem _ hp')
    cases hq : Tab.get [] q.inq (p * 4 + mergeTrk w) with
    | nil => exact absurd hq hp
    | cons x xs =>
      rw [List.filterMap_cons, hq]
      simp [hl]

theorem mergeHeads_poison (q : Router) (w : Word) : (mergeHeads q w).any (·.w.poison) =
    (mergePorts w).any (fun p => ((Tab.get [] q.inq (p * 4 + mergeTrk w)).head?.map (·.w.poison)).getD false) := by
  unfold mergeHeads
  induction mergePorts w with
  | nil => rfl
  | cons p l ih =>
    rw [List.filterMap_cons, List.any_cons, ← ih]
    cases (Tab.get [] q.inq (p * 4 + mergeTrk w)).head? <;> simp

/-- Input tracks that each give up their oldest word. -/
def tails (l : List Nat) (t : Tab (List TWord)) : Tab (List TWord) := l.foldl (fun t i => Tab.put t i (Tab.get [] t i).tail) t

theorem get_tails {l : List Nat} (hl : l.Nodup) (t : Tab (List TWord)) (i : Nat) :
    Tab.get [] (tails l t) i = if i ∈ l then (Tab.get [] t i).tail else Tab.get [] t i := by
  unfold tails
  induction l generalizing t with
  | nil => rfl
  | cons j l ih =>
    obtain ⟨hj, hl⟩ := List.nodup_cons.mp hl
    rw [List.foldl_cons, ih hl, Tab.get_put]
    by_cases h : i = j
    · subst h
      simp [hj]
    · simp [h]

theorem mergeIns_nodup (w : Word) : ((mergePorts w).map (fun p => p * 4 + mergeTrk w)).Nodup := by
  refine List.Nodup.map (fun a b h => by omega) ?_
  exact List.Nodup.filter _ List.nodup_range

/-- The router as a MERGE by outbound track o leaves it. -/
def mergedRouter (q : Router) (o : Nat) (w : Word) : Router :=
  ({ q with
    inq := tails ((mergePorts w).map (fun p => p * 4 + mergeTrk w)) q.inq
    took := ((mergePorts w).map (fun p => p * 4 + mergeTrk w)).foldl (fun t i => Tab.put t i []) q.took
    stalled := Tab.set false q.stalled o false } : Router).next o

theorem mergedRouter_inq (q : Router) (o : Nat) (w : Word) :
    (mergedRouter q o w).inq = tails ((mergePorts w).map (fun p => p * 4 + mergeTrk w)) q.inq := rfl

theorem trackMerge_slot {s : State} {c : CoreId} {o : Fin 20} {bad : Bool} {w : Word} {q : Router} (hd : routerDown s (coreKey c) = false)
    (hy : Tab.get false (s.router (coreKey c)).desync o.val = false) (hs : (s.router (coreKey c)).slot o.val = some (w, q)) (h2 : slotOp w ≠ 2) :
    exec (.trackMerge c ⟨o, bad⟩) s = .next s := by
  show execTrackMerge c ⟨o, bad⟩ s = _
  unfold execTrackMerge
  simp only [hd, hy, hs, Bool.or_self, Bool.false_eq_true, if_false]
  split
  · rfl
  · exact if_pos (.inl h2)

theorem trackMerge_merges {s : State} {c : CoreId} {o : Fin 20} {bad : Bool} {w : Word} {q : Router} {n : Nat} {x : TWord}
    (hd : routerDown s (coreKey c) = false) (hy : Tab.get false (s.router (coreKey c)).desync o.val = false)
    (hs : (s.router (coreKey c)).slot o.val = some (w, q)) (hn : neighbour s (coreKey c) (o.val / 4) = some n) (h2 : slotOp w = 2)
    (ha : canAccept s (coreKey c) o.val = true) (hi : ∀ p ∈ mergePorts w, Tab.get [] q.inq (p * 4 + mergeTrk w) ≠ [])
    (hx : (mergeHeads q w).head? = some x) :
    exec (.trackMerge c ⟨o, bad⟩) s = .next (pushTrack ((linkCounted s bad).setRouter (coreKey c) (mergedRouter q o.val w)) n
      (facing (o.val / 4) * 4 + o.val % 4) [⟨⟨x.w.val, (mergeHeads q w).any (·.w.poison) || bad⟩, x.hd⟩]) := by
  have hl : ¬(slotOp w ≠ 2 ∨ (mergeHeads q w).length < ((mergePorts w).map (fun p => p * 4 + mergeTrk w)).length ∨
      canAccept s (coreKey c) o.val = false) := by
    rw [List.length_map, mergeHeads_length hi, ha, h2]
    simp
  show execTrackMerge c ⟨o, bad⟩ s = _
  unfold execTrackMerge
  simp only [hd, hy, hs, Bool.or_self, Bool.false_eq_true, if_false, mergeHeads_eq]
  split
  · next hh =>
    rw [hh] at hx
    cases hx
  · next h t hh =>
    rw [hh] at hx
    cases hx
    rw [hh] at hl ⊢
    rw [if_neg hl]
    exact congrArg Host.Outcome.next (sendOut_link hn (mergedRouter q o.val w) bad false 1 ⟨⟨x.w.val, (x :: t).any (·.w.poison)⟩, x.hd⟩)

theorem scheduleStall_first {s : State} {c : CoreId} {o : Fin 20} {w : Word} {q : Router} (hd : routerDown s (coreKey c) = false)
    (hs : (s.router (coreKey c)).slot o.val = some (w, q)) (ht : ¬Tab.get false (s.router (coreKey c)).stalled o.val = true) :
    Nexts (.scheduleStall c o) s (fun t => t = { Books s t with routers := t.routers } ∧
      Tab.get false (t.router (coreKey c)).stalled o.val = true ∧ (t.router (coreKey c)).inq = (s.router (coreKey c)).inq ∧
      (∀ m, m ≠ coreKey c → t.router m = s.router m)) := by
  let q' : Router := { s.router (coreKey c) with stalled := Tab.set false (s.router (coreKey c)).stalled o.val true }
  let t := reportP (s.setRouter (coreKey c) q') 0x03 .region 1 (trackOwner (s.setRouter (coreKey c) q') (coreKey c) (o.val / 4) (o.val % 4))
    (BitVec.ofNat 32 (halfOfKey s (coreKey c))) (BitVec.ofNat 32 o.val) (locRouter s (coreKey c))
  have hx : exec (.scheduleStall c o) s = .next t := by
    show execScheduleStall c o s = _
    unfold execScheduleStall
    simp only [hd, hs, ht, Bool.false_or, Bool.false_eq_true, if_false]
    rfl
  have hr : OnlyReports (s.setRouter (coreKey c) q') t := OnlyReports.reportP ..
  have hrt : t.routers = (s.setRouter (coreKey c) q').routers := by rw [hr]
  have hrr : ∀ m, t.router m = (s.setRouter (coreKey c) q').router m := fun m => by rw [State.router, State.router, hrt]
  refine ⟨t, hx, ?_, ?_, ?_, fun m hm => ?_⟩
  · rw [hr]
    rfl
  · rw [hrr, State.router_setRouter_same]
    exact Tab.get_set_same false (s.router (coreKey c)).stalled o.val true
  · rw [hrr, State.router_setRouter_same]
  · rw [hrr, State.router_setRouter_other _ _ hm]

theorem slotsMoveWords : SlotsMoveWords := by
  intro s c o bad key q0 counted hd hy w q hs
  obtain ⟨hk1, hk2, hk3, hk4⟩ := slot_kept hs
  refine ⟨fun n x rest hn hne h1 hv hi ht ha => ⟨_, trackMove_moves hd hy hs hn h1 hv hi ht ha, ?_⟩, fun h1 hi => ?_, fun h1 => ?_,
    trackMerge_slot hd hy hs, fun n x hn hne h2 ha hi hx => ⟨_, trackMerge_merges hd hy hs hn h2 ha hi hx, ?_⟩, ?_⟩
  · obtain ⟨m1, m2, m3⟩ := movedRouter_kept q o.val w rest
    have hkey := pushTrack_router_other ((linkCounted s bad).setRouter key (movedRouter q o.val w rest)) (facing (o.val / 4) * 4 + o.val % 4)
      [{ x with w := ⟨x.w.val, x.w.poison || bad⟩ }] hne.symm
    rw [State.router_setRouter_same] at hkey
    refine ⟨rfl, fun m hm hm' => ?_, ?_, ?_, ?_, fun i hi' => ?_, fun i => ?_⟩
    · rw [pushTrack_router_other _ _ _ hm', State.router_setRouter_other _ _ hm, linkCounted_router]
    · rw [hkey, m1]
      split
      · exact Tab.get_put_same ..
      · exact hi
    · rw [hkey, m2, hk3]
    · rw [hkey, m3, hk4]
    · rw [hkey, m1, ← hk1]
      split
      · exact Tab.get_put_other _ _ _ hi'
      · rfl
    · rw [inq_pushTrack, State.router_setRouter_other _ _ hne, linkCounted_router]
      simp
  · rw [trackMove_slot hd hy hs, if_pos h1, moveOne]
    simp only [hi]
  · rw [trackMove_slot hd hy hs, if_neg h1]
  · have hkey := pushTrack_router_other ((linkCounted s bad).setRouter key (mergedRouter q o.val w)) (facing (o.val / 4) * 4 + o.val % 4)
      [⟨⟨x.w.val, (mergeHeads q w).any (·.w.poison) || bad⟩, x.hd⟩] hne.symm
    rw [State.router_setRouter_same] at hkey
    refine ⟨rfl, fun m hm hm' => ?_, fun p hp => ?_, ⟨⟨x.w.val, (mergeHeads q w).any (·.w.poison) || bad⟩, x.hd⟩, ?_, rfl, ?_⟩
    · rw [pushTrack_router_other _ _ _ hm', State.router_setRouter_other _ _ hm, linkCounted_router]
    · rw [hkey, mergedRouter_inq, get_tails (mergeIns_nodup w), if_pos (List.mem_map_of_mem hp)]
    · rw [inq_pushTrack, if_pos ⟨rfl, rfl⟩, State.router_setRouter_other _ _ hne, linkCounted_router]
    · rw [← mergeHeads_poison]
  · split
    · next ht =>
      show execScheduleStall c o s = _
      unfold execScheduleStall
      exact if_pos (by rw [ht, Bool.or_true])
    · next ht => exact scheduleStall_first hd hs ht

/-- Settles O19. -/
theorem routerSlots : Obligations.RouterSlots := by
  unfold Obligations.RouterSlots
  exact ⟨injectionTakes, slotsMoveWords⟩

end Sys2Proof.Machine
end

section
/-! PROOFS. The homes of chimes: ACKs, advances, watches (O21). -/

namespace Sys2Proof.Machine

open Sys2Proof.Claims

/-! ## What acknowledging and answering may touch -/

/-- t differs from s only in what the home of a chime may touch beside the chimes: registers and reports, pairs, watches, held ACKs, the
tracks of routers, host queues, and the count of free values. -/
def HomeWork (s t : State) : Prop :=
  t = { s with regs := t.regs, rings := t.rings, recent := t.recent, out := t.out, pairs := t.pairs, watches := t.watches, acks := t.acks,
               routers := t.routers, draws := t.draws, hqs := t.hqs }

theorem HomeWork.refl (s : State) : HomeWork s s := rfl

theorem HomeWork.trans {s t u : State} (h : HomeWork s t) (g : HomeWork t u) : HomeWork s u := by
  unfold HomeWork at *
  rw [g, h]

theorem OnlyReports.homeWork {s t : State} (h : OnlyReports s t) : HomeWork s t := by
  unfold HomeWork
  rw [h]

theorem HomeWork.foldl {α : Type} {f : State → α → State} (hf : ∀ s a, HomeWork s (f s a)) (l : List α) (s : State) : HomeWork s (l.foldl f s) := by
  induction l generalizing s with
  | nil => rfl
  | cons a l ih => exact (hf s a).trans (ih _)

theorem OnlyReports.foldl {α : Type} {f : State → α → State} (hf : ∀ s a, OnlyReports s (f s a)) (l : List α) (s : State) :
    OnlyReports s (l.foldl f s) := by
  induction l generalizing s with
  | nil => rfl
  | cons a l ih => exact (hf s a).trans (ih _)

/-! ## ACKs -/

/-- t differs from s only in held ACKs, the tracks of routers and the count of free values. -/
def AckWork (s t : State) : Prop := t = { s with acks := t.acks, routers := t.routers, draws := t.draws }

theorem AckWork.trans {s t u : State} (h : AckWork s t) (g : AckWork t u) : AckWork s u := by
  unfold AckWork at *
  rw [g, h]

theorem AckWork.homeWork {s t : State} (h : AckWork s t) : HomeWork s t := by
  unfold HomeWork
  rw [h]

theorem pushAck_ackWork (s : State) (p : Packet) (tap : Option Nat) : AckWork s (pushAck s p tap) := by
  unfold pushAck
  split <;> rfl

theorem pushAck_acks (s : State) (p : Packet) (tap : Option Nat) : (pushAck s p tap).acks = s.acks := by
  unfold pushAck
  split <;> rfl

theorem sendAck_ackWork (s : State) (p : Packet) (tap : Option Nat) : AckWork s (sendAck s p tap) := by
  unfold sendAck
  split
  · rfl
  · exact pushAck_ackWork s p tap

theorem flushAcks_ackWork (l : List HeldAck) : ∀ (s : State) (kept : List HeldAck), AckWork s (flushAcks s l kept) := by
  induction l with
  | nil => exact fun s kept => rfl
  | cons a l ih =>
    intro s kept
    rw [flushAcks]
    split
    · exact (pushAck_ackWork ..).trans (ih _ _)
    · exact ih _ _

theorem releaseAck_ackWork (s : State) (p : Packet) (tap : Option Nat) : AckWork s (releaseAck s p tap) := flushAcks_ackWork ..

/-- TYPE of an ACK's header. -/
theorem fld_header_ack (tap : Option Nat) (n : Nat) : fld (header 6 tap n) 31 28 = 6 := by
  have hn : n % 2 ^ 16 < 2 ^ 16 := Nat.mod_lt _ (by decide)
  cases tap with
  | none =>
    simp only [fld, header, BitVec.toNat_ofNat]
    omega
  | some t =>
    have ht : t % 64 < 64 := Nat.mod_lt _ (by decide)
    simp only [fld, header, BitVec.toNat_ofNat]
    omega

theorem pushAck_inq (s : State) (p : Packet) (tap : Option Nat) : ∃ w r, (pushAck s p tap).router p.router =
    { s.router p.router with inq := Tab.put (s.router p.router).inq p.inTrack (Tab.get [] (s.router p.router).inq p.inTrack ++ [⟨⟨w, false⟩, r⟩]) } ∧
    fld w 31 28 = 6 := by
  unfold pushAck
  split
  · exact ⟨_, _, State.router_setRouter_same .., fld_header_ack ..⟩
  · exact ⟨_, _, State.router_setRouter_same .., fld_header_ack ..⟩

theorem acksWait : Claims.AcksWait := by
  intro s p tap
  split
  · rw [sendAck, if_pos ‹_›]
  · rw [sendAck, if_neg ‹_›]
    exact ⟨pushAck_acks s p tap, pushAck_inq s p tap⟩

/-! ## An advance at its home -/

theorem pairCheck_homeWork (s : State) (p g : Nat) : HomeWork s (pairCheck s p g) := by
  unfold pairCheck
  extract_lets pr v s1 s2
  have h1 : HomeWork s s1 := rfl
  have h2 : OnlyReports s1 s2 := OnlyReports.regOr ..
  repeat' split
  · rfl
  · rfl
  · exact h1.trans (h2.trans (OnlyReports.reportP ..)).homeWork

theorem pairCheck_watches (s : State) (p g : Nat) : (pairCheck s p g).watches = s.watches := by
  unfold pairCheck
  extract_lets pr v
  repeat' split
  · rfl
  · rfl
  · rw [OnlyReports.reportP]
    rfl

theorem mirror_onlyReports (s : State) (p g : Nat) : OnlyReports s (mirror s p g) := by
  unfold mirror
  refine OnlyReports.foldl (fun s n => ?_) _ s
  dsimp only
  split <;> rfl

theorem answerWatch_homeWork (s : State) (w : Watch) : HomeWork s (answerWatch s w) := by
  unfold answerWatch
  dsimp only
  split
  · exact HomeWork.trans (t := { s with watches := _ }) rfl (releaseAck_ackWork ..).homeWork
  · rfl
  · rfl
  · rfl

theorem answerWatch_watches (s : State) (w : Watch) : (answerWatch s w).watches = s.watches.erase w := by
  unfold answerWatch
  dsimp only
  split
  · rw [releaseAck_ackWork]
  · rfl
  · rfl
  · rfl

/-- The watches an advance answers: those of its chime whose number it has reached. -/
def watchMet (g : Nat) (v : Word) (w : Watch) : Bool := w.chime == g && atOrPast v w.thr

/-- What is left of a list after each of its elements that satisfy f is erased. -/
theorem mem_diff_filter {α : Type} [DecidableEq α] (f : α → Bool) (l : List α) (a : α) : a ∈ l.diff (l.filter f) ↔ a ∈ l ∧ f a = false := by
  rw [← List.count_pos_iff, List.count_diff]
  cases h : f a with
  | false => simp [List.count_eq_zero_of_not_mem (fun hm => by simp [h] at hm : a ∉ l.filter f), List.count_pos_iff]
  | true => simp [List.count_filter h]

theorem watches_foldl {α : Type} {f : State → α → State} (hf : ∀ s a, (f s a).watches = s.watches) (l : List α) (s : State) :
    (l.foldl f s).watches = s.watches := by
  induction l generalizing s with
  | nil => rfl
  | cons a l ih => exact (ih _).trans (hf s a)

theorem answerWatch_foldl_watches (l : List Watch) (s : State) : (l.foldl answerWatch s).watches = s.watches.diff l := by
  induction l generalizing s with
  | nil => rfl
  | cons w l ih => rw [List.foldl_cons, ih, answerWatch_watches, List.diff_cons]

/-- The state right after an advance has added its step. -/
def stepped (s : State) (g : Nat) (step : Word) : State :=
  { s with chimes := Tab.set 0 s.chimes g (chimeVal s g + step), chimeTime := Tab.set 0 s.chimeTime g s.time }

theorem chimeVal_stepped (s : State) (g h : Nat) (step : Word) :
    chimeVal (stepped s g step) h = if h = g then chimeVal s g + step else chimeVal s h := Tab.get_set ..

/-- What an advance does at its home (R215). -/
theorem chimeAdvance_spec (s : State) (g : Nat) (step : Word) : HomeWork (stepped s g step) (chimeAdvance s g step) ∧
    ∀ w, w ∈ (chimeAdvance s g step).watches ↔ w ∈ s.watches ∧ ¬ (w.chime = g ∧ atOrPast (chimeVal s g + step) w.thr = true) := by
  let p := partOfChime (stepped s g step) g
  let s1 := (pairsOf (stepped s g step) p g).foldl (fun s q => pairCheck s p q) (stepped s g step)
  have h1 : HomeWork (stepped s g step) s1 := .foldl (fun s q => pairCheck_homeWork s p q) _ _
  have hv : chimeVal s1 g = chimeVal s g + step := by
    rw [h1]
    exact (chimeVal_stepped ..).trans (if_pos rfl)
  have hw : s1.watches = s.watches := watches_foldl (fun s q => pairCheck_watches s p q) _ _
  let m := s1.watches.filter (watchMet g (chimeVal s1 g))
  have e : chimeAdvance s g step = mirror (m.foldl answerWatch s1) p g := rfl
  rw [e]
  refine ⟨(h1.trans (.foldl answerWatch_homeWork m s1)).trans (mirror_onlyReports ..).homeWork, fun w => ?_⟩
  rw [mirror_onlyReports]
  show w ∈ (m.foldl answerWatch s1).watches ↔ _
  rw [answerWatch_foldl_watches, mem_diff_filter, hw, hv]
  simp [watchMet]

/-- A violation stands with its kind in the register of the partition (R361). -/
theorem regGet_violate (s : State) {p : Nat} (hp : p ≠ 0) (kind : Nat) :
    regGet (violate s p kind) 0 p 0x200058 = BitVec.ofNat 32 kind := by
  rw [violate, if_neg hp]
  exact regGet_regSet_same ..

/-- Cores, tiers, streams and engines of a state in which only a home worked. -/
theorem HomeWork.kept' {s t : State} (h : HomeWork s t) : t.cores = s.cores ∧ t.tiers = s.tiers ∧ t.streams = s.streams ∧
    t.engines = s.engines ∧ t.chimes = s.chimes ∧ t.chimeTime = s.chimeTime ∧ t.lanes = s.lanes ∧ t.parts = s.parts := by
  rw [h]
  exact ⟨rfl, rfl, rfl, rfl, rfl, rfl, rfl, rfl⟩

theorem engineSt_popEngine (s : State) (e : Nat) : engineSt (popEngine s e) e = { engineSt s e with inbox := (engineSt s e).inbox.tail } :=
  Tab.get_put_same ..

/-! ## The packets at a home -/

theorem execAdvance_eq {s : State} {e : Engine} {p : Packet} {r : List Packet} {tap n : Nat} {step : Word}
    (hi : (engineSt s e.val).inbox = p :: r) (hb : badAtEngine p = false) (hc : isChime p = true)
    (hf : chimeFields e.val p = some (false, tap, n, step)) :
    exec (.advance e) s = .next (sendAck (partAdvance (popEngine s e.val) (packetPart s p) n step) p none) := by
  show execAdvance e s = _
  simp only [execAdvance, hi, hb, hc, hf, Bool.false_eq_true, if_false, Bool.not_true]

theorem sendAck_kept' (s : State) (p : Packet) (tap : Option Nat) :
    HomeWork s (sendAck s p tap) ∧ (sendAck s p tap).watches = s.watches ∧ (sendAck s p tap).regs = s.regs := by
  have h := sendAck_ackWork s p tap
  exact ⟨h.homeWork, by rw [h], by rw [h]⟩

theorem advance_atHome (s : State) (e : Engine) (p : Packet) (r : List Packet) (tap n : Nat) (step : Word) :
    let q := packetPart s p
    let g := (s.part q).chimeBase + n
    (engineSt s e.val).inbox = p :: r → badAtEngine p = false → isChime p = true → chimeFields e.val p = some (false, tap, n, step) →
    Nexts (.advance e) s (fun t => (engineSt t e.val).inbox = r ∧ t.cores = s.cores ∧ t.tiers = s.tiers ∧ t.streams = s.streams ∧
      (if n < (s.part q).chimeCount then
        (∀ h, chimeVal t h = if h = g then chimeVal s g + step else chimeVal s h) ∧ Tab.get 0 t.chimeTime g = s.time ∧
        ∀ w, w ∈ t.watches ↔ w ∈ s.watches ∧ ¬ (w.chime = g ∧ atOrPast (chimeVal s g + step) w.thr = true)
       else t.chimes = s.chimes ∧ t.watches = s.watches ∧ (q ≠ 0 → regGet t 0 q 0x200058 = 3))) := by
  intro q g hi hb hc hf
  refine ⟨_, execAdvance_eq hi hb hc hf, ?_⟩
  let s0 := popEngine s e.val
  let s1 := partAdvance s0 q n step
  obtain ⟨ha, haw, har⟩ := sendAck_kept' s1 p none
  have he : (engineSt s0 e.val).inbox = r := by
    rw [engineSt_popEngine, hi]
    rfl
  by_cases hn : n < (s.part q).chimeCount
  · have e1 : s1 = chimeAdvance s0 g step := if_pos hn
    obtain ⟨hw, hx⟩ := chimeAdvance_spec s0 g step
    rw [← e1] at hw hx
    have ht := hw.trans ha
    beta_reduce
    rw [if_pos hn]
    refine ⟨?_, ?_, ?_, ?_, fun h => ?_, ?_, fun w => ?_⟩
    · rw [ht]; exact he
    · rw [ht]; rfl
    · rw [ht]; rfl
    · rw [ht]; rfl
    · rw [ht]; exact chimeVal_stepped ..
    · rw [ht]; exact Tab.get_set_same ..
    · rw [haw]; exact hx w
  · have e1 : s1 = violate s0 q 3 := if_neg hn
    have h1 : OnlyReports s0 s1 := e1 ▸ OnlyReports.violate ..
    have ht := h1.homeWork.trans ha
    beta_reduce
    rw [if_neg hn]
    refine ⟨?_, ?_, ?_, ?_, ?_, ?_, fun hq => ?_⟩
    · rw [ht]; exact he
    · rw [ht]; rfl
    · rw [ht]; rfl
    · rw [ht]; rfl
    · rw [ht]; rfl
    · rw [haw, h1]; rfl
    · rw [regGet, har, e1]
      exact regGet_violate s0 hq 3

theorem syncChimeAdd_atHome (s : State) (p : Vf) (step : Word) :
    let q := vfPart p
    let n := chimeSel s q
    let g := (s.part q).chimeBase + n
    if 2 ^ 31 ≤ step.toNat then exec (.syncChimeAdd p step) s = .next (regOr s q 0 0x80000C 0x20)
    else if n < (s.part q).chimeCount then Nexts (.syncChimeAdd p step) s (fun t =>
      (∀ h, chimeVal t h = if h = g then chimeVal s g + step else chimeVal s h) ∧ t.cores = s.cores ∧ t.tiers = s.tiers ∧
      (∀ w, w ∈ t.watches ↔ w ∈ s.watches ∧ ¬ (w.chime = g ∧ atOrPast (chimeVal s g + step) w.thr = true)))
    else Nexts (.syncChimeAdd p step) s (fun t => t = { s with regs := t.regs } ∧ regGet t 0 q 0x200058 = 3) := by
  intro q n g
  have e0 : exec (.syncChimeAdd p step) s = .next (chimeAddWrite s q step) := rfl
  split
  · rw [e0, chimeAddWrite, if_pos ‹_›]
    rfl
  · have e1 : chimeAddWrite s q step = partAdvance s q n step := if_neg ‹_›
    split
    · have e2 : chimeAddWrite s q step = chimeAdvance s g step := e1.trans (if_pos ‹_›)
      obtain ⟨hw, hx⟩ := chimeAdvance_spec s g step
      refine ⟨_, e0, ?_⟩
      rw [e2]
      refine ⟨fun h => ?_, ?_, ?_, hx⟩
      · rw [hw]; exact chimeVal_stepped ..
      · rw [hw]; rfl
      · rw [hw]; rfl
    · have e2 : chimeAddWrite s q step = violate s q 3 := e1.trans (if_neg ‹_›)
      refine ⟨_, e0, ?_⟩
      rw [e2]
      have hq : q ≠ 0 := Nat.succ_ne_zero _
      exact ⟨by rw [violate, if_neg hq]; rfl, regGet_violate s hq 3⟩

/-! ## Watches -/

theorem partChimeVal_popEngine (s : State) (e p n : Nat) : partChimeVal (popEngine s e) p n = partChimeVal s p n := rfl

theorem endWatchTap_form (s : State) (pkt : Packet) (tap : Nat) : endWatchTap s pkt tap = { s with cores := (endWatchTap s pkt tap).cores } := by
  unfold endWatchTap
  split <;> rfl

/-- What a refused watch leaves alone (R217). -/
theorem watchRefused_kept' (s : State) (e p n tap : Nat) (pkt : Packet) :
    let t := watchRefused s e p n tap pkt
    t.engines = s.engines ∧ t.chimes = s.chimes ∧ t.tiers = s.tiers ∧ t.parts = s.parts ∧ t.watches = s.watches := by
  intro t
  let s1 := sendAck s pkt none
  have h1 : AckWork s s1 := sendAck_ackWork s pkt none
  have h2 : OnlyReports (endWatchTap (regOr s1 p 0 0x80000C 8) pkt tap) t := OnlyReports.reportP ..
  rw [h2, endWatchTap_form]
  show s1.engines = _ ∧ s1.chimes = _ ∧ s1.tiers = _ ∧ s1.parts = _ ∧ s1.watches = _
  rw [h1]
  exact ⟨rfl, rfl, rfl, rfl, rfl⟩

/-- The sender's tap is pending no more when its watch is refused (R111, log entry 99). -/
theorem watchRefused_core (s : State) (e p n tap : Nat) {pkt : Packet} {c : CoreId} (hc : packetCore pkt = some c) :
    (watchRefused s e p n tap pkt).core c = (s.core c).dropWatch (some tap) := by
  let s1 := sendAck s pkt none
  have h1 : AckWork s s1 := sendAck_ackWork s pkt none
  let s2 := regOr s1 p 0 0x80000C 8
  have e3 : endWatchTap s2 pkt tap = s2.setCore c ((s2.core c).dropWatch (some tap)) := by simp only [endWatchTap, hc]
  have h2 : OnlyReports (endWatchTap s2 pkt tap) (watchRefused s e p n tap pkt) := OnlyReports.reportP ..
  have k : s2.core c = s.core c := by
    show Tab.get {} s1.cores _ = _
    rw [h1]
    rfl
  rw [h2, e3, ← k]
  exact Tab.get_put_same ..

/-- A watch taken: its number reached, no place for it, or kept with its ACK held back. -/
theorem execWatch_met {s : State} {e : Engine} {p : Packet} {r : List Packet} {tap n : Nat} {thr : Word}
    (hi : (engineSt s e.val).inbox = p :: r) (hb : badAtEngine p = false) (hc : isChime p = true)
    (hf : chimeFields e.val p = some (true, tap, n, thr)) (hm : atOrPast (partChimeVal s (packetPart s p) n) thr = true) :
    exec (.watch e) s = .next (sendAck (popEngine s e.val) p (some tap)) := by
  show execWatch e s = _
  simp only [execWatch, hi, hb, hc, hf, hm, Bool.false_eq_true, if_false, Bool.not_true, partChimeVal_popEngine, if_true]

/-- Whether a watch's sender finds a place for it at the home (R217). -/
def WatchFits (s : State) (e : Engine) (p : Packet) (c : CoreId) : Prop :=
  packetCore p = some c ∧ watchesHeld s (packetPart s p) e.val < (s.part (packetPart s p)).watch

theorem execWatch_refused {s : State} {e : Engine} {p : Packet} {r : List Packet} {tap n : Nat} {thr : Word}
    (hi : (engineSt s e.val).inbox = p :: r) (hb : badAtEngine p = false) (hc : isChime p = true)
    (hf : chimeFields e.val p = some (true, tap, n, thr)) (hm : atOrPast (partChimeVal s (packetPart s p) n) thr = false)
    (hn : ∀ c, ¬ WatchFits s e p c) :
    exec (.watch e) s = .next (watchRefused (popEngine s e.val) e.val (packetPart s p) n tap p) := by
  show execWatch e s = _
  simp only [execWatch, hi, hb, hc, hf, hm, Bool.false_eq_true, if_false, Bool.not_true, partChimeVal_popEngine]
  cases hp : packetCore p with
  | none => rfl
  | some c => exact if_pos (Nat.le_of_not_lt fun hl => hn c ⟨hp, hl⟩)

theorem execWatch_kept {s : State} {e : Engine} {p : Packet} {r : List Packet} {tap n : Nat} {thr : Word} {c : CoreId}
    (hi : (engineSt s e.val).inbox = p :: r) (hb : badAtEngine p = false) (hc : isChime p = true)
    (hf : chimeFields e.val p = some (true, tap, n, thr)) (hm : atOrPast (partChimeVal s (packetPart s p) n) thr = false)
    (hp : WatchFits s e p c) :
    exec (.watch e) s = .next { popEngine s e.val with watches := s.watches ++ [⟨watchKey s (packetPart s p) n, thr, .core c (Fin.ofNat 64 tap) p⟩],
                                                       acks := s.acks ++ [⟨p, none, false⟩] } := by
  show execWatch e s = _
  simp only [execWatch, hi, hb, hc, hf, hm, Bool.false_eq_true, if_false, Bool.not_true, partChimeVal_popEngine, hp.1]
  exact if_neg (Nat.not_le_of_lt hp.2)

theorem watch_atHome (s : State) (e : Engine) (p : Packet) (r : List Packet) (tap n : Nat) (thr : Word) :
    let q := packetPart s p
    (engineSt s e.val).inbox = p :: r → badAtEngine p = false → isChime p = true → chimeFields e.val p = some (true, tap, n, thr) →
    Nexts (.watch e) s (fun t => (engineSt t e.val).inbox = r ∧ t.chimes = s.chimes ∧ t.tiers = s.tiers ∧ t.parts = s.parts ∧
      (atOrPast (partChimeVal s q n) thr = true → t.watches = s.watches ∧ t.cores = s.cores ∧ t.regs = s.regs) ∧
      (atOrPast (partChimeVal s q n) thr = false → ∀ c, packetCore p = some c →
        if watchesHeld s q e.val < (s.part q).watch then
          t.watches = s.watches ++ [⟨watchKey s q n, thr, .core c (Fin.ofNat 64 tap) p⟩] ∧ t.cores = s.cores ∧ t.routers = s.routers ∧
          t.acks = s.acks ++ [⟨p, none, false⟩]
        else t.watches = s.watches ∧ (t.core c).watchTaps = (s.core c).watchTaps &&& ~~~((1 : BitVec 64) <<< tap) ∧
          (t.core c).ctl = (s.core c).ctl)) := by
  intro q hi hb hc hf
  have he : (engineSt (popEngine s e.val) e.val).inbox = r := by
    rw [engineSt_popEngine, hi]
    rfl
  cases hm : atOrPast (partChimeVal s q n) thr with
  | true =>
    have h : AckWork (popEngine s e.val) _ := sendAck_ackWork (popEngine s e.val) p (some tap)
    refine ⟨_, execWatch_met hi hb hc hf hm, ?_⟩
    rw [h]
    exact ⟨he, rfl, rfl, rfl, fun _ => ⟨rfl, rfl, rfl⟩, nofun⟩
  | false =>
    by_cases hp : ∃ c, WatchFits s e p c
    · obtain ⟨c, hp⟩ := hp
      refine ⟨_, execWatch_kept hi hb hc hf hm hp, he, rfl, rfl, rfl, nofun, fun _ d hd => ?_⟩
      rw [if_pos hp.2]
      obtain rfl : c = d := Option.some.inj (hp.1.symm.trans hd)
      exact ⟨rfl, rfl, rfl, rfl⟩
    · refine ⟨_, execWatch_refused hi hb hc hf hm (not_exists.mp hp), ?_⟩
      obtain ⟨h1, h2, h3, h4, h5⟩ := watchRefused_kept' (popEngine s e.val) e.val q n tap p
      refine ⟨?_, h2, h3, h4, nofun, fun _ c hcore => ?_⟩
      · rw [engineSt, h1]
        exact he
      · have hk := watchRefused_core (popEngine s e.val) e.val q n tap hcore
        rw [if_neg fun hl => hp ⟨c, hcore, hl⟩, hk]
        exact ⟨h5, rfl, rfl⟩

/-- Settles O21: the ACK that waits, the advance and the watch at a home, and SYNC_CHIME_ADD. -/
theorem chimesAtHomes : Obligations.ChimesAtHomes := ⟨acksWait, advance_atHome, watch_atHome, syncChimeAdd_atHome⟩

end Sys2Proof.Machine
end

section
/-! PROOFS. Downbeat lanes and the SYNC_ registers (O22). -/

namespace Sys2Proof.Machine

open Sys2Proof.Claims

/-! ## What an advance from a lane may touch -/

/-- t differs from s only in what an advance touches and in the weight store, whose due slots a lane latches. -/
def LaneWork (s t : State) : Prop :=
  t = { s with regs := t.regs, rings := t.rings, recent := t.recent, out := t.out, pairs := t.pairs, watches := t.watches, acks := t.acks,
               routers := t.routers, draws := t.draws, hqs := t.hqs, chimes := t.chimes, chimeTime := t.chimeTime, wst := t.wst,
               tamb := t.tamb }

theorem LaneWork.trans {s t u : State} (h : LaneWork s t) (g : LaneWork t u) : LaneWork s u := by
  unfold LaneWork at *
  rw [g, h]

theorem HomeWork.laneWork {s t : State} (h : HomeWork s t) : LaneWork s t := by
  unfold LaneWork
  rw [h]

theorem chimeAdvance_laneWork (s : State) (g : Nat) (step : Word) : LaneWork s (chimeAdvance s g step) :=
  LaneWork.trans (t := stepped s g step) rfl (chimeAdvance_spec s g step).1.laneWork

theorem partAdvance_laneWork (s : State) (p n : Nat) (step : Word) : LaneWork s (partAdvance s p n step) := by
  unfold partAdvance
  split
  · exact chimeAdvance_laneWork ..
  · exact (OnlyReports.violate ..).homeWork.laneWork

theorem statusChime_laneWork (s : State) (n : Nat) (step : Word) : LaneWork s (statusChime s n step) := by
  unfold statusChime
  dsimp only
  split
  · exact partAdvance_laneWork ..
  · rfl

theorem realign_laneWork (s : State) (p l : Nat) : LaneWork s (realign s p l) :=
  HomeWork.laneWork (.foldl (fun s g => (pairCheck_homeWork s p g).trans (u := pairRef (pairCheck s p g) p g) rfl) _ _)

theorem latchSlots_laneWork (s : State) (p l : Nat) : LaneWork s (latchSlots s p l) := rfl

theorem logRecord_laneWork (s : State) (cls code p region : Nat) (v0 v1 : Word) : LaneWork s (logRecord s cls code p region v0 v1) := by
  unfold logRecord logFrom
  extract_lets n w0 ws
  split
  · exact ((OnlyReports.cntAdd s 0 0 0xA00068 1).trans (OnlyReports.regOr ..)).homeWork.laneWork
  · rfl

/-! ## Arrivals that end -/

/-- The arrival of core k on lane l is over with a status. -/
def ArrivalOver (l : Nat) (status : Word) (k : Core) : Prop := (lanePend k).getLsbD l = false ∧ Tab.get 0 k.dbRel l = status

/-- A core whose arrival on a lane ends. -/
def endArrival (l : Nat) (status : Word) (k : Core) : Core :=
  { setPend k l false with dbRel := Tab.set 0 (setPend k l false).dbRel l status }

theorem endArrivals_cons (s : State) (l : Nat) (status : Word) (c : CoreId) (cs : List CoreId) :
    endArrivals s l status (c :: cs) = endArrivals (s.setCore c (endArrival l status (s.core c))) l status cs := rfl

theorem endArrival_over {l : Nat} (hl : l < 64) (status : Word) (k : Core) : ArrivalOver l status (endArrival l status k) := by
  refine ⟨?_, Tab.get_set_same ..⟩
  show (lanePend (setPend k l false)).getLsbD l = false
  rw [lanePend_setPend]
  simp [hl]

theorem core_setCore (s : State) (c d : CoreId) (k : Core) : (s.setCore c k).core d = if coreKey d = coreKey c then k else s.core d :=
  Tab.get_put ..

/-- The ends of arrivals touch no memory. -/
theorem endArrivals_mem (l : Nat) (status : Word) (cs : List CoreId) : ∀ (s : State) (d : CoreId),
    ((endArrivals s l status cs).core d).mem = (s.core d).mem := by
  induction cs with
  | nil => exact fun s d => rfl
  | cons c cs ih =>
    intro s d
    rw [endArrivals_cons, ih, core_setCore]
    split
    · have e : s.core d = s.core c := by simp only [State.core, ‹coreKey d = coreKey c›]
      rw [e]
      rfl
    · rfl

theorem endArrivals_over {l : Nat} (hl : l < 64) (status : Word) (cs : List CoreId) : ∀ (s : State) (d : CoreId),
    (d ∈ cs ∨ ArrivalOver l status (s.core d)) → ArrivalOver l status ((endArrivals s l status cs).core d) := by
  induction cs with
  | nil => exact fun s d h => h.resolve_left (List.not_mem_nil)
  | cons c cs ih =>
    intro s d h
    rw [endArrivals_cons]
    refine ih _ _ (or_iff_not_imp_left.mpr fun hd => ?_)
    rw [core_setCore]
    split
    · exact endArrival_over hl status _
    · refine h.resolve_left fun hm => ?_
      rcases List.mem_cons.mp hm with rfl | hm
      · contradiction
      · exact hd hm

theorem endArrivals_form (l : Nat) (status : Word) (cs : List CoreId) (s : State) :
    endArrivals s l status cs = { s with cores := (endArrivals s l status cs).cores } := by
  induction cs generalizing s with
  | nil => rfl
  | cons c cs ih => rw [endArrivals_cons, ih]; rfl

/-! ## Values that come into force -/

/-- Core key k with the enable of lane l as written. -/
def enForced (l : Nat) (s : State) (k : Nat) : State :=
  let c := Tab.get ({} : Core) s.cores k
  let b := (laneEnWritten c).getLsbD l
  let e : BitVec 64 := if b then c.enForce ||| (1 <<< l) else c.enForce &&& ~~~((1 : BitVec 64) <<< l)
  { s with cores := Tab.put s.cores k { c with enForce := e } }

theorem enForced_core (l : Nat) (s : State) (k : Nat) (d : CoreId) : ∃ e, (enForced l s k).core d = { s.core d with enForce := e } := by
  by_cases h : coreKey d = k
  · subst h
    exact ⟨_, Tab.get_put_same ..⟩
  · exact ⟨(s.core d).enForce, Tab.get_put_other _ _ _ h⟩

theorem enForced_foldl_core (l : Nat) (ks : List Nat) (s : State) (d : CoreId) :
    ∃ e, (ks.foldl (enForced l) s).core d = { s.core d with enForce := e } := by
  induction ks generalizing s with
  | nil => exact ⟨(s.core d).enForce, rfl⟩
  | cons k ks ih =>
    obtain ⟨e, he⟩ := ih (enForced l s k)
    obtain ⟨e', he'⟩ := enForced_core l s k d
    exact ⟨e, by rw [List.foldl_cons, he, he']⟩

theorem enForced_foldl_form (l : Nat) (ks : List Nat) (s : State) : ks.foldl (enForced l) s = { s with cores := (ks.foldl (enForced l) s).cores } := by
  induction ks generalizing s with
  | nil => rfl
  | cons k ks ih => rw [List.foldl_cons, ih]; rfl

/-- Lane n once the values written are in force. -/
theorem laneApply_spec (s : State) (n : Nat) : (∀ d, ∃ e, (laneApply s n).core d = { s.core d with enForce := e }) ∧
    laneApply s n = { s with lanes := Tab.put s.lanes n { s.lane n with maskF := (s.lane n).mask, ctrlF := (s.lane n).ctrl },
                             cores := (laneApply s n).cores } := by
  let s1 := s.setLane n { s.lane n with maskF := (s.lane n).mask, ctrlF := (s.lane n).ctrl }
  have e : laneApply s n = (listedKeys s1 (s.lane n).owner).foldl (enForced (laneIndex s n)) s1 := rfl
  rw [e]
  exact ⟨enForced_foldl_core _ _ s1, enForced_foldl_form _ _ s1⟩

theorem lane_setLane (s : State) (n m : Nat) (x : Lane) : (s.setLane n x).lane m = if m = n then x else s.lane m := Tab.get_put ..

/-! ## A release -/

/-- What the release of lane n leaves (R225, R446). -/
theorem laneRelease_spec (s : State) (n : Nat) :
    let t := laneRelease s n
    let ln := s.lane n
    (t.lane n).st = .idle ∧ (t.lane n).arrived = [] ∧ (t.lane n).releases = ln.releases + 1 ∧ (∀ m, m ≠ n → t.lane m = s.lane m) ∧
      t.tiers = s.tiers ∧ ∀ d, (t.core d).mem = (s.core d).mem ∧
        (d ∈ ln.arrived → laneIndex s n < 64 → ArrivalOver (laneIndex s n) (if (s.part ln.owner).routeLost then 3 else 0) (t.core d)) := by
  intro t ln
  let l := laneIndex s n
  let s1 := latchSlots (realign s ln.owner l) ln.owner l
  have h1 : LaneWork s s1 := (realign_laneWork s ln.owner l).trans (latchSlots_laneWork ..)
  let x : Lane := { ln with st := .idle, arrived := [], releases := ln.releases + 1 }
  let s2 := s1.setLane n x
  let s3 := statusChime s2 n 1
  have h3 : LaneWork s2 s3 := statusChime_laneWork ..
  let st : Word := if (s3.part ln.owner).routeLost then 3 else 0
  have hst : st = if (s.part ln.owner).routeLost then 3 else 0 := by
    show (if (s3.part ln.owner).routeLost then 3 else 0) = _
    have e : s3.parts = s.parts := by
      rw [h3]
      show s1.parts = _
      rw [h1]
    rw [State.part, e]
    rfl
  let s4 := endArrivals s3 l st ln.arrived
  have h4 : s4 = { s3 with cores := s4.cores } := endArrivals_form ..
  obtain ⟨hc, h5⟩ := laneApply_spec s4 n
  have ht : t = laneApply s4 n := rfl
  have hcores : s3.cores = s.cores := by
    rw [h3]
    show s1.cores = _
    rw [h1]
  have hlanes : s4.lanes = Tab.put s.lanes n x := by
    rw [h4]
    show s3.lanes = _
    rw [h3]
    show Tab.put s1.lanes n x = _
    rw [h1]
  have hlane : s4.lane n = x := by simp only [State.lane, hlanes, Tab.get_put_same]
  have hn : t.lane n = { x with maskF := x.mask, ctrlF := x.ctrl } := by
    rw [ht, h5, ← hlane]
    exact Tab.get_put_same ..
  refine ⟨by rw [hn], by rw [hn], by rw [hn], fun m hm => ?_, ?_, fun d => ?_⟩
  · rw [ht, h5]
    refine (Tab.get_put_other _ _ _ hm).trans ?_
    rw [hlanes]
    exact Tab.get_put_other _ _ _ hm
  · rw [ht, h5]
    show s4.tiers = _
    rw [h4]
    show s3.tiers = _
    rw [h3]
    show s1.tiers = _
    rw [h1]
  · obtain ⟨e, he⟩ := hc d
    have hd : s3.core d = s.core d := by simp only [State.core, hcores]
    rw [ht, he]
    refine ⟨?_, fun hm hl => ?_⟩
    · exact (endArrivals_mem l st ln.arrived s3 d).trans (by rw [hd])
    · exact hst ▸ endArrivals_over hl st ln.arrived s3 d (.inl hm)

/-! ## Status bits that stay set -/

/-- A status bit of SYNC_FAULT set in s is set in t (R231). -/
structure FaultStays (s t : State) : Prop where
  stays : ∀ fn idx i, (regGet s fn idx 0x80000C).getLsbD i = true → (regGet t fn idx 0x80000C).getLsbD i = true

theorem FaultStays.refl (s : State) : FaultStays s s := ⟨fun _ _ _ => id⟩

theorem FaultStays.trans {s t u : State} (h : FaultStays s t) (g : FaultStays t u) : FaultStays s u :=
  ⟨fun fn idx i hi => g.stays fn idx i (h.stays fn idx i hi)⟩

theorem FaultStays.of_regs {s t : State} (h : t.regs = s.regs) : FaultStays s t := by
  refine ⟨fun fn idx i hi => ?_⟩
  rw [regGet, h]
  exact hi

theorem FaultStays.foldl {α : Type} {f : State → α → State} (l : List α) (hf : ∀ s, ∀ a ∈ l, FaultStays s (f s a)) (s : State) :
    FaultStays s (l.foldl f s) := by
  induction l generalizing s with
  | nil => exact .refl s
  | cons a l ih => exact (hf s a List.mem_cons_self).trans (ih (fun s b hb => hf s b (List.mem_cons_of_mem _ hb)) _)

theorem FaultStays.regSet (s : State) (fn idx : Nat) {off : Nat} (w : Word) (ho : off < 2 ^ 26) (hne : off ≠ 0x80000C) :
    FaultStays s (regSet s fn idx off w) := by
  refine ⟨fun fn' idx' i hi => ?_⟩
  rw [regGet_regSet_other]
  · exact hi
  · simp only [regKey]
    omega

theorem FaultStays.regOr (s : State) (fn idx : Nat) (w : Word) : FaultStays s (regOr s fn idx 0x80000C w) := by
  refine ⟨fun fn' idx' i hi => ?_⟩
  by_cases h : regKey fn' idx' 0x80000C = regKey fn idx 0x80000C
  · have e (u : State) : regGet u fn' idx' 0x80000C = regGet u fn idx 0x80000C := by rw [regGet, regGet, h]
    rw [e] at hi ⊢
    rw [Machine.regOr, regGet_regSet_same, BitVec.getLsbD_or, hi, Bool.true_or]
  · rw [Machine.regOr, regGet_regSet_other _ _ _ _ _ _ _ _ h]
    exact hi

theorem FaultStays.cntAdd (s : State) (fn idx : Nat) {off : Nat} (n : Nat) (ho : off < 0x80000C - 4 ∨ 0x80000C < off ∧ off + 4 < 2 ^ 26) :
    FaultStays s (cntAdd s fn idx off n) :=
  (FaultStays.regSet s fn idx _ (by omega) (by omega)).trans (FaultStays.regSet _ fn idx _ (by omega) (by omega))

theorem FaultStays.violate (s : State) (p kind : Nat) : FaultStays s (violate s p kind) := by
  unfold Machine.violate
  split
  · exact .refl s
  · exact (FaultStays.cntAdd s 0 p 1 (by decide)).trans (FaultStays.regSet _ 0 p _ (by decide) (by decide))

theorem FaultStays.reportTo (s : State) (fn code : Nat) (sc : Scope) (sev part : Nat) (loc v0 v1 : Word) :
    FaultStays s (reportTo s fn code sc sev part loc v0 v1) := by
  unfold Machine.reportTo
  extract_lets key s' r ctl size head tail s1 ws base tail' s2 s3 s4
  have h1 : FaultStays s s1 := .of_regs rfl
  have h4 : FaultStays s s4 := .of_regs rfl
  repeat' split
  · exact .refl s
  · exact h1.trans ((FaultStays.cntAdd s1 fn 0 1 (by decide)).trans (FaultStays.regSet _ fn 0 _ (by decide) (by decide)))
  · exact h4.trans ((FaultStays.regSet s4 fn 0 _ (by decide) (by decide)).trans (FaultStays.cntAdd _ fn 0 1 (by decide)))

theorem FaultStays.reportP (s : State) (code : Nat) (sc : Scope) (sev p : Nat) (loc v0 v1 : Word) :
    FaultStays s (reportP s code sc sev p loc v0 v1) := by
  have h (fns : List Nat) : FaultStays s (reportAll s fns code sc sev p loc v0 v1) := by
    unfold reportAll
    split
    · exact .refl s
    · exact FaultStays.foldl fns (fun s fn _ => FaultStays.reportTo s fn code sc sev p loc v0 v1) s
  unfold Machine.reportP
  split <;> exact h _

theorem FaultStays.logRecord (s : State) (cls code p region : Nat) (v0 v1 : Word) : FaultStays s (logRecord s cls code p region v0 v1) := by
  unfold Machine.logRecord logFrom
  extract_lets n w0 ws
  split
  · exact (FaultStays.cntAdd s 0 0 1 (by decide)).trans (FaultStays.regSet _ 0 0 _ (by decide) (by decide))
  · exact .of_regs rfl

theorem FaultStays.pairCheck (s : State) (p g : Nat) : FaultStays s (pairCheck s p g) := by
  unfold Machine.pairCheck
  extract_lets pr v s1 s2
  repeat' split
  · exact .refl s
  · exact .refl s
  · exact ((FaultStays.of_regs rfl : FaultStays s s1).trans (FaultStays.regOr ..)).trans (FaultStays.reportP ..)

theorem FaultStays.answerWatch (s : State) (w : Watch) : FaultStays s (answerWatch s w) := by
  unfold Machine.answerWatch
  dsimp only
  split
  · exact .of_regs (by rw [releaseAck_ackWork])
  · exact .of_regs rfl
  · exact .of_regs rfl
  · exact .of_regs rfl

theorem FaultStays.mirror (s : State) (p g : Nat) : FaultStays s (mirror s p g) := by
  refine FaultStays.foldl _ (fun s n hn => ?_) s
  have hn : n < 8 := List.mem_range.mp hn
  dsimp only
  split
  · exact ((FaultStays.regSet s p 0 _ (by omega) (by omega)).trans (FaultStays.regSet _ p 0 _ (by omega) (by omega))).trans
      (FaultStays.regSet _ p 0 _ (by omega) (by omega))
  · exact .refl s

theorem FaultStays.statusChime (s : State) (n : Nat) (step : Word) : FaultStays s (statusChime s n step) := by
  have ha (g : Nat) : FaultStays s (chimeAdvance s g step) := by
    let p := partOfChime (stepped s g step) g
    have h0 : FaultStays s (stepped s g step) := .of_regs rfl
    have h1 := FaultStays.foldl (pairsOf (stepped s g step) p g) (fun s q _ => FaultStays.pairCheck s p q) (stepped s g step)
    exact ((h0.trans h1).trans (FaultStays.foldl _ (fun s w _ => FaultStays.answerWatch s w) _)).trans (FaultStays.mirror _ p g)
  unfold Machine.statusChime partAdvance
  dsimp only
  split
  · split
    · exact ha _
    · exact FaultStays.violate ..
  · exact .refl s

/-! ## A failure -/

/-- What the failure of lane n leaves (R228). -/
theorem laneFail_spec (s : State) (n : Nat) :
    let t := laneFail s n
    let ln := s.lane n
    (t.lane n).st = .failed ∧ (t.lane n).arrived = [] ∧ (t.lane n).releases = ln.releases ∧ (∀ m, m ≠ n → t.lane m = s.lane m) ∧
      t.tiers = s.tiers ∧ t.parts = s.parts ∧ (regGet t ln.owner 0 0x80000C).getLsbD 4 = true ∧
      ∀ d ∈ laneOutstanding s n, laneIndex s n < 64 → ArrivalOver (laneIndex s n) 2 (t.core d) := by
  intro t ln
  let l := laneIndex s n
  let s1 := endArrivals s l 2 (laneOutstanding s n)
  have h1 : s1 = { s with cores := s1.cores } := endArrivals_form ..
  have e1 : s1.lane n = ln := by
    rw [h1]
    rfl
  let s2 := s1.setLane n { ln with st := .failed, arrived := [] }
  let s3 := regOr s2 ln.owner 0 0x80000C 0x10
  let s4 := latchSlots (statusChime s3 n 0x40000000) ln.owner l
  let s5 := logRecord s4 6 0x07 ln.owner 0xFFFF (BitVec.ofNat 32 l) (BitVec.ofNat 32 n)
  have ht : t = reportP s5 0x07 .part 2 ln.owner 0 (BitVec.ofNat 32 l) (BitVec.ofNat 32 n) := rfl
  have hw : LaneWork s2 t := by
    rw [ht]
    exact (((OnlyReports.regOr s2 ln.owner 0 0x80000C 0x10).homeWork.laneWork.trans (statusChime_laneWork s3 n 0x40000000)).trans
      (u := s4) (latchSlots_laneWork ..)).trans ((logRecord_laneWork ..).trans (OnlyReports.reportP ..).homeWork.laneWork)
  have hf : FaultStays s3 t := by
    rw [ht]
    exact ((FaultStays.statusChime s3 n 0x40000000).trans (u := s4) (.of_regs rfl)).trans
      ((FaultStays.logRecord ..).trans (FaultStays.reportP ..))
  have hl : t.lanes = Tab.put s.lanes n { ln with st := .failed, arrived := [] } := by
    rw [hw]
    show Tab.put s1.lanes n _ = _
    rw [h1]
  have hn : t.lane n = { ln with st := .failed, arrived := [] } := by rw [State.lane, hl, Tab.get_put_same]
  refine ⟨by rw [hn], by rw [hn], by rw [hn], fun m hm => ?_, ?_, ?_, ?_, fun d hd hl => ?_⟩
  · rw [State.lane, hl]
    exact Tab.get_put_other _ _ _ hm
  · rw [hw]
    show s1.tiers = _
    rw [h1]
  · rw [hw]
    show s1.parts = _
    rw [h1]
  · refine hf.stays _ _ _ ?_
    show (regGet (regSet s2 ln.owner 0 0x80000C (regGet s2 ln.owner 0 0x80000C ||| 0x10)) ln.owner 0 0x80000C).getLsbD 4 = true
    rw [regGet_regSet_same]
    simp
  · rw [hw]
    exact endArrivals_over hl 2 _ s d (.inl hd)

/-! ## Arrivals and timeouts -/

theorem laneArrival_atLane (s : State) (c : CoreId) (l : Fin 64) (a : Fin 64 × Nat) (n : Nat) :
    let k := s.core c
    let k' : Core := { k with arriving := takeFirst (fun x => x.1 == l) k.arriving }
    let ln := s.lane n
    let s1 := (s.setCore c k').setLane n { ln with st := .busy, arrived := ln.arrived ++ [c] }
    k.arriving.find? (fun x => x.1 == l) = some a → physLane s (partOfKey s (coreKey c)) l.val = some n →
    (ackedBelow k a.2 = false → exec (.laneArrival c l) s = .next s) ∧
    (ackedBelow k a.2 = true → ln.st = .failed → exec (.laneArrival c l) s = .next (s.setCore c (setPend k' l.val false))) ∧
    (ackedBelow k a.2 = true → ln.st ≠ .failed → exec (.laneArrival c l) s = .next (laneTry s1 n)) := by
  intro k k' ln s1 ha hp
  have e : exec (.laneArrival c l) s = execLaneArrival c l s := rfl
  refine ⟨fun hb => ?_, fun hb hf => ?_, fun hb hf => ?_⟩
  · rw [e]
    simp only [execLaneArrival]
    rw [ha, hp]
    simp [k, hb]
  · rw [e]
    simp only [execLaneArrival]
    rw [ha, hp]
    simp only [show ackedBelow (s.core c) a.2 = true from hb, show (s.lane n).st = .failed from hf, Bool.not_true, Bool.false_eq_true,
      if_false, if_true]
    rfl
  · rw [e]
    simp only [execLaneArrival]
    rw [ha, hp]
    simp only [show ackedBelow (s.core c) a.2 = true from hb, show (s.lane n).st ≠ .failed from hf, Bool.not_true, Bool.false_eq_true,
      if_false]
    rfl

theorem laneBarriers : Claims.LaneBarriers := by
  refine ⟨fun s c l a n => ?_, fun s n => ?_⟩
  · intro k k' ln s1 ha hp
    obtain ⟨hwait, hfail, htake⟩ := laneArrival_atLane s c l a n ha hp
    have hb : (s1.lane n).st = .busy := by rw [show s1.lane n = _ from Tab.get_put_same ..]
    refine ⟨hwait, hfail, fun hk hf hn => ?_, fun hk hf hy => ⟨_, htake hk hf, ?_⟩⟩
    · rw [htake hk hf, laneTry, if_neg fun h => Bool.false_ne_true (hn.symm.trans h.2)]
    · have e : laneTry s1 n = laneRelease s1 n := if_pos ⟨hb, hy⟩
      obtain ⟨h1, h2, h3, h4, h5, h6⟩ := laneRelease_spec s1 n
      have hl : s1.lane n = { ln with st := .busy, arrived := ln.arrived ++ [c] } := Tab.get_put_same ..
      rw [hl] at h3 h6
      rw [e]
      refine ⟨h1, h2, h3, fun m hm => (h4 m hm).trans (Tab.get_put_other _ _ _ hm), h5, fun d hd hi => ?_⟩
      obtain ⟨hm, ho⟩ := h6 d
      obtain ⟨hpend, hrel⟩ := ho hd hi
      refine ⟨hpend, hrel, hm.trans ?_⟩
      show ((s.setCore c k').core d).mem = _
      rw [core_setCore]
      split
      · simp only [State.core, ‹coreKey d = coreKey c›]
        rfl
      · rfl
  · split
    · have e : exec (.laneTimeout n) s = .next (laneFail s n.val) := if_pos ‹_›
      obtain ⟨h1, h2, h3, h4, h5, h6, h7, h8⟩ := laneFail_spec s n.val
      exact ⟨_, e, h1, h2, h3, h4, h5, h6, h7, h8⟩
    · exact if_neg ‹_›

/-! ## The SYNC_ registers -/

theorem pairAt_put (s : State) (g h : Nat) (x : Pair) :
    pairAt { s with pairs := Tab.put s.pairs g x } h = if h = g then x else pairAt s h := Tab.get_put ..

theorem pairRef_pairAt (s : State) (p g h : Nat) : pairAt (pairRef s p g) h =
    if h = g then { pairAt s g with refP := chimeVal s g, refC := chimeVal s ((s.part p).chimeBase + (pairAt s g).consumer.toNat) }
    else pairAt s h := Tab.get_put ..

/-- A pair right after a write of SYNC_PAIR_CFG with word v, before its references are set. -/
def pairWritten (old : Pair) (v : Word) : Pair :=
  { old with valid := v.getLsbD 31, lane := BitVec.ofNat 6 (fld v 29 24), consumer := BitVec.ofNat 16 (fld v 15 0),
             broken := old.broken && !(v.getLsbD 30 && old.broken) }

theorem pairWritten_consumer (old : Pair) (v : Word) : (pairWritten old v).consumer.toNat = fld v 15 0 :=
  Nat.mod_eq_of_lt (fld_lt v 15 0)

theorem pairWritten_lane (old : Pair) (v : Word) : (pairWritten old v).lane.toNat = fld v 29 24 :=
  Nat.mod_eq_of_lt (fld_lt v 29 24)

theorem pairWritten_broken (old : Pair) (v : Word) : (pairWritten old v).broken = (old.broken && !v.getLsbD 30) := by
  simp only [pairWritten]
  cases old.broken <;> simp

theorem syncPairCfg (s : State) (p : Vf) (v : Word) :
    let q := vfPart p
    let n := chimeSel s q
    let cons := fld v 15 0
    let g := (s.part q).chimeBase + n
    let old := pairAt s g
    let bad := (s.part q).chimeCount ≤ n ∨ (v.getLsbD 31 = true ∧ ((s.part q).chimeCount ≤ cons ∨ (s.part q).lanes.length ≤ fld v 29 24 ∨
      cons = n ∨ inPair s q n n = true ∨ inPair s q cons n = true ∨ isStatusChime s q n = true ∨ isStatusChime s q cons = true))
    (bad → exec (.syncPairCfgWrite p v) s = .next (regOr s q 0 0x80000C 0x20)) ∧
    (¬ bad → Nexts (.syncPairCfgWrite p v) s (fun t => t = { s with pairs := t.pairs } ∧ (∀ h, h ≠ g → pairAt t h = pairAt s h) ∧
      (pairAt t g).valid = v.getLsbD 31 ∧ (pairAt t g).lane.toNat = fld v 29 24 ∧ (pairAt t g).consumer.toNat = cons ∧
      (pairAt t g).bound = old.bound ∧ (pairAt t g).broken = (old.broken && !v.getLsbD 30) ∧
      (((v.getLsbD 30 = true ∧ old.broken = true) ∨ (v.getLsbD 31 = true ∧ (old.valid = false ∨ old.consumer.toNat ≠ cons))) →
        (pairAt t g).refP = chimeVal s g ∧ (pairAt t g).refC = chimeVal s ((s.part q).chimeBase + cons)))) := by
  intro q n cons g old bad
  have e0 : exec (.syncPairCfgWrite p v) s = .next (pairCfgWrite s q v) := rfl
  refine ⟨fun hb => ?_, fun hb => ⟨_, e0, ?_⟩⟩
  · rw [e0]
    exact congrArg _ (if_pos hb)
  let new := pairWritten old v
  let s1 : State := { s with pairs := Tab.put s.pairs g new }
  let fresh := v.getLsbD 30 && old.broken || (v.getLsbD 31 && (!old.valid || old.consumer != new.consumer))
  have e1 : pairCfgWrite s q v = if fresh then pairRef s1 q g else s1 := if_neg hb
  have hnew : pairAt s1 g = new := (pairAt_put ..).trans (if_pos rfl)
  have hcons : new.consumer.toNat = cons := pairWritten_consumer ..
  rw [e1]
  cases hf : fresh with
  | true =>
    have hg : pairAt (pairRef s1 q g) g = _ := (pairRef_pairAt s1 q g g).trans (if_pos rfl)
    rw [hnew] at hg
    refine ⟨rfl, fun h hh => ?_, ?_⟩
    · exact (pairRef_pairAt s1 q g h).trans ((if_neg hh).trans ((pairAt_put ..).trans (if_neg hh)))
    · rw [if_pos rfl, hg]
      refine ⟨rfl, pairWritten_lane old v, hcons, rfl, pairWritten_broken old v, fun _ => ⟨rfl, ?_⟩⟩
      rw [hcons]
      rfl
  | false =>
    refine ⟨rfl, fun h hh => (pairAt_put ..).trans (if_neg hh), ?_⟩
    rw [if_neg Bool.false_ne_true, hnew]
    refine ⟨rfl, pairWritten_lane old v, hcons, rfl, pairWritten_broken old v, fun hx => ?_⟩
    have hne : old.consumer.toNat ≠ cons → old.consumer ≠ new.consumer := fun h he => h (he ▸ hcons)
    rcases hx with ⟨h30, hbr⟩ | ⟨h31, hv | hc⟩
    · exact absurd hf (by show ¬ (_ && _ || _) = false; simp [h30, hbr])
    · exact absurd hf (by show ¬ (_ && _ || _) = false; simp [h31, hv])
    · exact absurd hf (by show ¬ (_ && _ || _) = false; simp [h31, hne hc])

theorem laneWritten_form (s : State) (n : Nat) (x : Lane) : laneWritten s n x = { s with lanes := (laneWritten s n x).lanes } := by
  unfold laneWritten
  dsimp only
  split <;> rfl

/-- What a write to a lane leaves of it (R226). -/
theorem laneWritten_lane (s : State) (n m : Nat) (x : Lane) : (laneWritten s n x).lane m =
    if m = n then { x with ctrlF := if x.st = .busy then x.ctrlF else x.ctrl, maskF := if x.st = .busy then x.maskF else x.mask } else s.lane m := by
  unfold laneWritten
  dsimp only
  split
  · simp only [lane_setLane]
  · simp only [lane_setLane]
    split <;> rfl

theorem syncLaneCtrl (s : State) (p : Vf) (l : Fin 64) (v : Word) (n : Nat) :
    let q := vfPart p
    let ln := s.lane n
    physLane s q l.val = some n →
    (v.getLsbD 16 = true ∧ ((s.part q).chimeCount ≤ fld v 15 0 ∨ inPair s q (fld v 15 0) 65536 = true) →
      exec (.syncLaneCtrlWrite p l v) s = .next (regOr s q 0 0x80000C 0x20)) ∧
    (¬ (v.getLsbD 16 = true ∧ ((s.part q).chimeCount ≤ fld v 15 0 ∨ inPair s q (fld v 15 0) 65536 = true)) →
      Nexts (.syncLaneCtrlWrite p l v) s (fun t => t = { s with lanes := t.lanes } ∧ (∀ m, m ≠ n → t.lane m = s.lane m) ∧
        t.lane n = { ln with ctrl := v &&& 0x1FFFF, ctrlF := if ln.st = .busy then ln.ctrlF else v &&& 0x1FFFF,
                             maskF := if ln.st = .busy then ln.maskF else ln.mask })) := by
  intro q ln hp
  have e0 : exec (.syncLaneCtrlWrite p l v) s = .next (laneCtrlWrite s q l.val v) := rfl
  refine ⟨fun hb => ?_, fun hb => ⟨_, e0, ?_⟩⟩
  · rw [e0, laneCtrlWrite, hp]
    exact congrArg _ (if_pos hb)
  · have e1 : laneCtrlWrite s q l.val v = laneWritten s n { ln with ctrl := v &&& 0x1FFFF } := by
      rw [laneCtrlWrite, hp]
      exact if_neg hb
    rw [e1]
    exact ⟨laneWritten_form .., fun m hm => (laneWritten_lane ..).trans (if_neg hm), (laneWritten_lane ..).trans (if_pos rfl)⟩

/-- The mask of a lane with its word w written, bit by bit. -/
theorem maskWritten_bit (mask fields : BitVec 84) (w : Fin 3) (v : Word) {f : Nat} (hf : f < 84) :
    (mask &&& ~~~(BitVec.ofNat 84 ((2 ^ 32 - 1) * 2 ^ (32 * w.val))) ||| (BitVec.ofNat 84 (v.toNat * 2 ^ (32 * w.val)) &&& fields)).getLsbD f =
      if f / 32 = w.val then v.getLsbD (f % 32) && fields.getLsbD f else mask.getLsbD f := by
  have hones : ((2 ^ 32 - 1) * 2 ^ (32 * w.val)).testBit f = decide (f / 32 = w.val) := by
    rw [Nat.testBit_mul_two_pow, Nat.testBit_two_pow_sub_one, ← Bool.decide_and]
    exact decide_eq_decide.mpr (by omega)
  have hword : (v.toNat * 2 ^ (32 * w.val)).testBit f = (decide (f / 32 = w.val) && v.getLsbD (f % 32)) := by
    rw [Nat.testBit_mul_two_pow]
    by_cases h : f / 32 = w.val
    · have e : f - 32 * w.val = f % 32 := by omega
      simp only [e, h, decide_true, Bool.true_and, show 32 * w.val ≤ f by omega, BitVec.getLsbD]
    · by_cases hl : 32 * w.val ≤ f
      · have hz : v.toNat.testBit (f - 32 * w.val) = false :=
          Nat.testBit_lt_two_pow (Nat.lt_of_lt_of_le v.isLt (Nat.pow_le_pow_right (by decide) (by omega)))
        simp [h, hz]
      · simp [h, hl]
  simp only [BitVec.getLsbD_or, BitVec.getLsbD_and, BitVec.getLsbD_not, BitVec.getLsbD_ofNat, hf, decide_true, Bool.true_and, hones, hword]
  by_cases h : f / 32 = w.val <;> simp [h]

theorem syncLaneMask (s : State) (p : Vf) (l : Fin 64) (w : Fin 3) (v : Word) (n : Nat) :
    let q := vfPart p
    let ln := s.lane n
    physLane s q l.val = some n →
      Nexts (.syncLaneMaskWrite p l w v) s (fun t => t = { s with lanes := t.lanes } ∧ (∀ m, m ≠ n → t.lane m = s.lane m) ∧
        (∀ f, f < 84 → (t.lane n).mask.getLsbD f =
          if f / 32 = w.val then v.getLsbD (f % 32) && (s.part q).fields.getLsbD f else ln.mask.getLsbD f) ∧
        (t.lane n).maskF = (if ln.st = .busy then ln.maskF else (t.lane n).mask) ∧ (t.lane n).st = ln.st ∧ (t.lane n).arrived = ln.arrived ∧
        (t.lane n).releases = ln.releases) := by
  intro q ln hp
  have e0 : exec (.syncLaneMaskWrite p l w v) s = .next (laneMaskWrite s q l.val w.val v) := rfl
  refine ⟨_, e0, ?_⟩
  let x : Lane := { ln with mask := ln.mask &&& ~~~(BitVec.ofNat 84 ((2 ^ 32 - 1) * 2 ^ (32 * w.val))) |||
    (BitVec.ofNat 84 (v.toNat * 2 ^ (32 * w.val)) &&& (s.part q).fields) }
  have e1 : laneMaskWrite s q l.val w.val v = laneWritten s n x := by
    rw [laneMaskWrite, hp]
  have hn := (laneWritten_lane s n n x).trans (if_pos rfl)
  rw [e1]
  refine ⟨laneWritten_form .., fun m hm => (laneWritten_lane ..).trans (if_neg hm), fun f hf => ?_, ?_, ?_, ?_, ?_⟩
  · rw [hn]
    exact maskWritten_bit ln.mask _ w v hf
  · rw [hn]
  · rw [hn]
  · rw [hn]
  · rw [hn]

theorem syncRegisters : Claims.SyncRegisters := by
  refine ⟨syncPairCfg, syncLaneCtrl, syncLaneMask, fun s p l w v hp => ⟨?_, ?_⟩⟩
  · show Host.Outcome.next (laneCtrlWrite s (vfPart p) l.val v) = _
    rw [laneCtrlWrite, hp]
  · show Host.Outcome.next (laneMaskWrite s (vfPart p) l.val w.val v) = _
    rw [laneMaskWrite, hp]

/-- Settles O22: barriers at their lanes and the SYNC_ registers. -/
theorem downbeatLanes : Obligations.DownbeatLanes := ⟨laneBarriers, syncRegisters⟩

end Sys2Proof.Machine
end

section
/-! PROOFS. Edge streams: what a send touches, ATTACH, DETACH and releases (O23). -/

namespace Sys2Proof.Machine

open Sys2Proof.Claims

/-! ## What the edge engines touch beside their streams -/

/-- t differs from s only in registers and reports, the engines' packets, the tracks of routers, held ACKs and the count of free values. -/
def SendWork (s t : State) : Prop :=
  t = { s with regs := t.regs, rings := t.rings, recent := t.recent, out := t.out, engines := t.engines, routers := t.routers,
               acks := t.acks, draws := t.draws }

theorem SendWork.refl (s : State) : SendWork s s := rfl

theorem SendWork.trans {s t u : State} (h : SendWork s t) (g : SendWork t u) : SendWork s u := by
  unfold SendWork at *
  rw [g, h]

theorem SendWork.foldl {α : Type} {f : State → α → State} (hf : ∀ s a, SendWork s (f s a)) (l : List α) (s : State) : SendWork s (l.foldl f s) := by
  induction l generalizing s with
  | nil => rfl
  | cons a l ih => exact (hf s a).trans (ih _)

theorem OnlyReports.sendWork {s t : State} (h : OnlyReports s t) : SendWork s t := by
  unfold SendWork
  rw [h]

theorem AckWork.sendWork {s t : State} (h : AckWork s t) : SendWork s t := by
  unfold SendWork
  rw [h]

theorem engineFlush_sendWork (e : Nat) (l : List OutPkt) : ∀ (s : State) (held : List Nat) (kept : List OutPkt), SendWork s (engineFlush s e l held kept) := by
  induction l with
  | nil => exact fun s held kept => rfl
  | cons o l ih =>
    intro s held kept
    rw [engineFlush]
    dsimp only
    split
    · exact ih ..
    · exact SendWork.trans (t := pushTrack { s with engines := _ } o.router o.track o.words) rfl (ih ..)

theorem engineSend_sendWork (s : State) (e p n a : Nat) (pay : List PWord) : SendWork s (engineSend s e p n a pay) := by
  unfold engineSend
  split
  · rfl
  · exact SendWork.trans (t := { s with engines := _ }) rfl (engineFlush_sendWork ..)

theorem SendWork.streams {s t : State} (h : SendWork s t) : t.streams = s.streams := by rw [h]

theorem SendWork.stream {s t : State} (h : SendWork s t) (k : Nat) : stream t k = stream s k := by rw [Machine.stream, h.streams]; rfl

theorem sendStat_sendWork (s : State) (p k : Nat) (full : Bool) (ms : List Nat) : SendWork s (sendStat s p k full ms) :=
  .foldl (fun s _ => engineSend_sendWork s ..) ms s

theorem sendState_sendWork (s : State) (p k stat : Nat) (ms : List Nat) : SendWork s (sendState s p k stat ms) :=
  .foldl (fun s _ => engineSend_sendWork s ..) ms s

theorem t2Touch_onlyReports (s : State) (p a n : Nat) : OnlyReports s (t2Touch s p a n) := by
  have hb : OnlyReports s (t2Bound s p a n) := by
    unfold t2Bound
    split
    · rfl
    · exact OnlyReports.violate ..
  refine hb.trans ?_
  unfold t2Touch t2Wait
  split
  · exact (OnlyReports.cntAdd ..).trans (OnlyReports.cntAdd ..)
  · rfl

theorem poisonMoved_onlyReports (s : State) (p n : Nat) : OnlyReports s (poisonMoved s p n) := by
  unfold poisonMoved
  split
  · rfl
  · exact (OnlyReports.cntAdd ..).trans (OnlyReports.regOr ..)

/-! ## One stream changed -/

theorem stream_setStream (s : State) (k j : Nat) (x : Stream) : stream (setStream s k x) j = if j = k then x else stream s j := Tab.get_put ..

@[simp] theorem stream_setStream_same (s : State) (k : Nat) (x : Stream) : stream (setStream s k x) k = x := Tab.get_put_same ..

/-- t differs from s only in stream k, which u changes, and in what a send touches. -/
structure StreamSent (u : Stream → Stream) (k : Nat) (s t : State) : Prop where
  others : OtherStreams s t k
  this : stream t k = u (stream s k)
  rest : SendWork { s with streams := t.streams } t

theorem StreamSent.of_send {k : Nat} {s t : State} (h : SendWork s t) : StreamSent id k s t where
  others := fun j _ => h.stream j
  this := h.stream k
  rest := by
    rw [h.streams]
    exact h

theorem StreamSent.setStream (s : State) (k : Nat) (u : Stream → Stream) : StreamSent u k s (setStream s k (u (stream s k))) where
  others := fun j hj => (stream_setStream ..).trans (if_neg hj)
  this := stream_setStream_same ..
  rest := rfl

theorem StreamSent.trans {u v : Stream → Stream} {k : Nat} {s t r : State} (h : StreamSent u k s t) (g : StreamSent v k t r) :
    StreamSent (v ∘ u) k s r where
  others := fun j hj => (g.others j hj).trans (h.others j hj)
  this := g.this.trans (congrArg v h.this)
  rest := by
    have h1 := h.rest
    have h2 := g.rest
    unfold SendWork at *
    rw [h2, h1]

theorem StreamSent.kept' {u : Stream → Stream} {k : Nat} {s t : State} (h : StreamSent u k s t) :
    t.tiers = s.tiers ∧ t.watches = s.watches ∧ t.parts = s.parts := by
  rw [h.rest]
  exact ⟨rfl, rfl, rfl⟩

theorem toState_sent (s : State) (p k : Nat) (st : StrmSt) : StreamSent (fun x => { x with st := st }) k s (toState s p k st) :=
  (StreamSent.setStream s k fun x => { x with st := st }).trans (.of_send (sendStat_sendWork ..))

/-! ## STREAM packets -/

/-- A STREAM packet that reaches its stream is taken and acknowledged before its OP acts. -/
theorem streamPacket_eq {s : State} {e : Engine} {op : Nat} {p : Packet} {r : List Packet} {k : Nat} {w : Word} (h : StreamIn s e op p r k w)
    (f : State → Nat → Nat → Word → Packet → State) :
    streamPacket s e.val op f = f (sendAck (popEngine s e.val) p none) (packetPart s p) k w p := by
  obtain ⟨hi, hb, ht, n, hf, hk, he⟩ := h
  unfold streamPacket
  simp only [hi, hb, hf, hk, Bool.false_eq_true, if_false, ht, he, not_true, ne_eq]

theorem taken_sendWork (s : State) (e : Nat) (p : Packet) : SendWork s (sendAck (popEngine s e) p none) :=
  SendWork.trans (t := popEngine s e) rfl (sendAck_ackWork ..).sendWork

/-! ## Refusals -/

theorem reserveLost_sendWork (s : State) : SendWork s (reserveLost s) := by
  unfold reserveLost drawNat
  dsimp only
  exact SendWork.trans (t := { s with draws := s.draws + 1 + 1 }) rfl (OnlyReports.reportF ..).sendWork

theorem refuseStream_sent (s : State) (p k : Nat) (st : StrmSt) : StreamSent (fun x => { x with st := st }) k s (refuseStream s p k st) := by
  have h := StreamSent.setStream s k fun x => { x with st := st }
  unfold refuseStream
  dsimp only
  split
  · exact h.trans (.of_send (OnlyReports.regOr ..).sendWork)
  · exact h

theorem refuseAttach_sent (s : State) (p k stat : Nat) (st : StrmSt) :
    StreamSent (fun x => { x with st := st }) k s (refuseAttach s p k stat st) := by
  have h := refuseStream_sent s p k st
  unfold refuseAttach
  dsimp only
  split
  · exact h.trans (.of_send (sendState_sendWork ..))
  · exact h

/-- What a refused ATTACH leaves: the stream's code, nothing else of the tiers and the other streams. -/
theorem refuseAttach_after {s s' : State} (h : SendWork s s') (p k stat : Nat) (st : StrmSt) :
    let t := refuseAttach s' p k stat st
    (stream t k).st = st ∧ OtherStreams s t k ∧ t.tiers = s.tiers := by
  have g := (StreamSent.of_send (k := k) h).trans (refuseAttach_sent s' p k stat st)
  exact ⟨by rw [g.this]; rfl, g.others, g.kept'.1⟩

/-! ## ATTACH -/

/-- The stream once one more member has attached. -/
def memberIn (w : Word) (m : Nat) (p : Packet) (x : Stream) : Stream :=
  { x with st := .idle, attached := x.attached + 1, attM := (if x.attached == 0 then [] else x.attM) ++ [m],
           stat := if x.attached == 0 then 8 * fld w 14 0 else x.stat,
           attBy := (if x.attached == 0 then [] else x.attBy) ++ p.hd.toList }

/-- The stream when its last member has attached. -/
def attachedAll (x : Stream) : Stream :=
  { x with fr := 0, fence := 0, numbered := 0, queued := 0, issuedM := [], writtenM := [], freedM := [], received := [], drainable := 0 }

/-- A stream at the start of a pass. -/
def passStart (x : Stream) : Stream :=
  { x with begun := false, headIn := false, hdr := [], src := none, nextBuf := 0, plan := [], wrote := 0, sel := [], selBufs := [],
           selNext := 0, pieces := [] }

/-- A stream at the start of an unmasked pass. -/
def passFresh (x : Stream) : Stream := { passStart x with total := if x.img then 0 else (passStart x).passBufs }

theorem passBegin_unmasked (s : State) (p k : Nat) (h : (stream s k).masked = false) :
    passBegin s p k = setStream s k (passFresh (stream s k)) := by
  have h' : (!(passStart (stream s k)).masked) = true := by
    show (!(stream s k).masked) = true
    rw [h]
    rfl
  exact if_pos h'

theorem attachDone_unmasked (s : State) (p k : Nat) (h : (stream s k).masked = false) :
    StreamSent (fun x => passFresh { attachedAll x with st := .active }) k s (attachDone s p k) := by
  let s1 := setStream s k (attachedAll (stream s k))
  have e : attachDone s p k = passBegin (toState s1 p k .active) p k := by
    unfold attachDone
    exact if_neg fun hx => Bool.false_ne_true (h.symm.trans hx)
  have h2 := (StreamSent.setStream s k attachedAll).trans (toState_sent s1 p k .active)
  rw [e, passBegin_unmasked]
  · exact h2.trans (.setStream _ k passFresh)
  · rw [h2.this]
    exact h

theorem attachDone_masked (s : State) (p k : Nat) (h : (stream s k).masked = true) :
    StreamSent (fun x => { attachedAll x with st := .maskWait }) k s { attachDone s p k with watches := s.watches } ∧
    (attachDone s p k).watches = s.watches ++ [⟨watchKey s p (stream s k).chime, (stream s k).mt + (stream s k).pass, .stream k⟩] := by
  let s1 := setStream s k (attachedAll (stream s k))
  let s2 := toState s1 p k .maskWait
  have h2 := (StreamSent.setStream s k attachedAll).trans (toState_sent s1 p k .maskWait)
  have e : attachDone s p k = maskWatch s2 p k := by
    unfold attachDone
    exact if_pos h
  let s3 := if (stream s2 k).chime < (s2.part p).chimeCount then s2 else violate s2 p 3
  have h3 : OnlyReports s2 s3 := by
    unfold s3
    split
    · rfl
    · exact OnlyReports.violate ..
  have h4 := h2.trans (.of_send h3.sendWork)
  have ex : stream s2 k = { attachedAll (stream s k) with st := .maskWait } := h2.this
  have ew : s3.watches = s.watches := h4.kept'.2.1
  have ep : watchKey s3 p (stream s2 k).chime = watchKey s p (stream s k).chime := by
    rw [ex]
    simp only [watchKey, State.part, h4.kept'.2.2]
    rfl
  have em : maskWatch s2 p k = { s3 with watches := s3.watches ++ [⟨watchKey s3 p (stream s2 k).chime, (stream s2 k).mt + (stream s2 k).pass, .stream k⟩] } := rfl
  rw [e, em]
  constructor
  · have e3 : ({ s3 with watches := s.watches } : State) = s3 := by rw [← ew]
    exact e3 ▸ h4
  · show s3.watches ++ _ = _
    rw [ew, ep, ex]
    rfl

/-- ATTACH of stream k as the engine has it, the packet taken and acknowledged. -/
def attachAt (e : Nat) (a : AttachIn) (s : State) (p k : Nat) (w : Word) (pkt : Packet) : State :=
  let x := stream s k
  let stat := 8 * fld w 14 0
  if !x.isIdle then strmFault s p 8
  else if a.lost then refuseAttach (reserveLost s) p k stat .badEntry
  else if x.bad true then refuseAttach s p k stat .badEntry
  else if fld w 31 16 ≠ x.gen then refuseAttach s p k stat .genMismatch
  else if !x.attaching && cacheFull s e then refuseAttach s p k stat .noRoom
  else
    let s' := setStream s k (memberIn w a.m.toNat pkt x)
    if x.attached + 1 = x.members then attachDone s' p k else s'

theorem execAttach_eq {s : State} {e : Engine} {p : Packet} {r : List Packet} {k : Nat} {w : Word} (h : StreamIn s e 1 p r k w) (a : AttachIn) :
    exec (.attach e a) s = .next (attachAt e.val a (sendAck (popEngine s e.val) p none) (packetPart s p) k w p) :=
  congrArg Host.Outcome.next (streamPacket_eq h _)

theorem attachAt_member (e : Nat) (m : BitVec 8) (s : State) (p k : Nat) (w : Word) (pkt : Packet) :
    let x := stream s k
    x.isIdle = true → x.bad true = false → fld w 31 16 = x.gen → x.attached ≠ 0 ∨ cacheFull s e = false →
      attachAt e ⟨m, false⟩ s p k w pkt =
        if x.attached + 1 = x.members then attachDone (setStream s k (memberIn w m.toNat pkt x)) p k else setStream s k (memberIn w m.toNat pkt x) := by
  intro x hi hb hg hc
  have hf : (!x.attaching && cacheFull s e) = false := by
    rcases hc with h | h
    · simp [Stream.attaching, hi, h]
    · simp [h]
  simp only [attachAt, show (stream s k).isIdle = true from hi, show (stream s k).bad true = false from hb, Bool.not_true, Bool.false_eq_true, if_false,
    show fld w 31 16 = (stream s k).gen from hg, ne_eq, not_true, show (!(stream s k).attaching && cacheFull s e) = false from hf]
  rfl

/-- What the attachment of one more member leaves (R290, R291, R297). -/
theorem attachAt_spec {s s' : State} (hs : SendWork s s') (e : Nat) (m : BitVec 8) (q k : Nat) (w : Word) (pkt : Packet) :
    let x := stream s k
    let t := attachAt e ⟨m, false⟩ s' q k w pkt
    x.isIdle = true → x.bad true = false → fld w 31 16 = x.gen → x.attached ≠ 0 ∨ cacheFull s e = false →
      OtherStreams s t k ∧ (stream t k).attached = x.attached + 1 ∧ (stream t k).entry = x.entry ∧
        (stream t k).attM = (if x.attached = 0 then [] else x.attM) ++ [m.toNat] ∧
        (stream t k).stat = (if x.attached = 0 then 8 * fld w 14 0 else x.stat) ∧
        (x.attached + 1 ≠ x.members → (stream t k).st = .idle ∧ t.tiers = s.tiers ∧ t.watches = s.watches) ∧
        (x.attached + 1 = x.members → x.masked = false → (stream t k).st = .active ∧ t.tiers = s.tiers ∧ t.watches = s.watches) ∧
        (x.attached + 1 = x.members → x.masked = true → (stream t k).st = .maskWait ∧
          t.watches = s.watches ++ [⟨watchKey s q x.chime, x.mt + x.pass, .stream k⟩]) := by
  intro x t hi hb hg hc
  have hx : stream s' k = x := hs.stream k
  have hc' : x.attached ≠ 0 ∨ cacheFull s' e = false := by
    rw [show cacheFull s' e = cacheFull s e by simp only [cacheFull, hs.streams]]
    exact hc
  have e1 := attachAt_member e m s' q k w pkt
  rw [hx] at e1
  let s1 := setStream s' k (memberIn w m.toNat pkt (stream s' k))
  have h1 : StreamSent (memberIn w m.toNat pkt) k s s1 := (StreamSent.of_send hs).trans (.setStream s' k (memberIn w m.toNat pkt))
  have e1 : t = if x.attached + 1 = x.members then attachDone s1 q k else s1 := by
    rw [← hx] at e1 ⊢
    exact e1 (hx ▸ hi) (hx ▸ hb) (hx ▸ hg) (hx ▸ hc')
  have hatt : (memberIn w m.toNat pkt x).attM = (if x.attached = 0 then [] else x.attM) ++ [m.toNat] := by simp [memberIn]
  have hstat : (memberIn w m.toNat pkt x).stat = (if x.attached = 0 then 8 * fld w 14 0 else x.stat) := by simp [memberIn]
  by_cases hm : x.attached + 1 = x.members
  · rw [e1, if_pos hm]
    cases hk : x.masked with
    | false =>
      have h2 := h1.trans (attachDone_unmasked s1 q k (by rw [h1.this]; exact hk))
      have ht := h2.this
      obtain ⟨k1, k2, -⟩ := h2.kept'
      refine ⟨h2.others, by rw [ht]; rfl, by rw [ht]; rfl, by rw [ht]; exact hatt, by rw [ht]; exact hstat, fun h => absurd hm h, fun _ _ => ⟨by rw [ht]; rfl, k1, k2⟩, nofun⟩
    | true =>
      obtain ⟨h2, hw⟩ := attachDone_masked s1 q k (by rw [h1.this]; exact hk)
      have h2 := h1.trans h2
      have ht : stream (attachDone s1 q k) k = _ := h2.this
      refine ⟨h2.others, by rw [ht]; rfl, by rw [ht]; rfl, by rw [ht]; exact hatt, by rw [ht]; exact hstat, fun h => absurd hm h, nofun, fun _ _ => ⟨by rw [ht]; rfl, ?_⟩⟩
      obtain ⟨-, k2, k3⟩ := h1.kept'
      rw [hw, k2, h1.this]
      simp only [watchKey, State.part, k3]
      rfl
  · rw [e1, if_neg hm]
    have ht := h1.this
    obtain ⟨k1, k2, -⟩ := h1.kept'
    exact ⟨h1.others, by rw [ht]; rfl, by rw [ht]; rfl, by rw [ht]; exact hatt, by rw [ht]; exact hstat, fun _ => ⟨by rw [ht]; rfl, k1, k2⟩, fun h => absurd h hm, fun h => absurd h hm⟩

theorem attach_atEngine (s : State) (e : Engine) (p : Packet) (r : List Packet) (k : Nat) (w : Word) (m : BitVec 8) :
    let q := packetPart s p
    let x := stream s k
    let s' := sendAck (popEngine s e.val) p none
    StreamIn s e 1 p r k w →
      (x.isIdle = false → exec (.attach e ⟨m, false⟩) s = .next (regOr s' q 0 0x300020 8)) ∧
      (x.isIdle = true → x.bad true = true → Nexts (.attach e ⟨m, false⟩) s (fun t => (stream t k).st = .badEntry ∧ OtherStreams s t k ∧ t.tiers = s.tiers)) ∧
      (x.isIdle = true → Nexts (.attach e ⟨m, true⟩) s (fun t => (stream t k).st = .badEntry ∧ OtherStreams s t k ∧ t.tiers = s.tiers)) ∧
      (x.isIdle = true → x.bad true = false → fld w 31 16 ≠ x.gen →
        Nexts (.attach e ⟨m, false⟩) s (fun t => (stream t k).st = .genMismatch ∧ OtherStreams s t k ∧ t.tiers = s.tiers)) ∧
      (x.isIdle = true → x.bad true = false → fld w 31 16 = x.gen → x.attached = 0 → cacheFull s e.val = true →
        Nexts (.attach e ⟨m, false⟩) s (fun t => (stream t k).st = .noRoom ∧ OtherStreams s t k ∧ t.tiers = s.tiers)) ∧
      (x.isIdle = true → x.bad true = false → fld w 31 16 = x.gen → x.attached ≠ 0 ∨ cacheFull s e.val = false →
        Nexts (.attach e ⟨m, false⟩) s (fun t => OtherStreams s t k ∧ (stream t k).attached = x.attached + 1 ∧ (stream t k).entry = x.entry ∧
          (stream t k).attM = (if x.attached = 0 then [] else x.attM) ++ [m.toNat] ∧
          (stream t k).stat = (if x.attached = 0 then 8 * fld w 14 0 else x.stat) ∧
          (x.attached + 1 ≠ x.members → (stream t k).st = .idle ∧ t.tiers = s.tiers ∧ t.watches = s.watches) ∧
          (x.attached + 1 = x.members → x.masked = false → (stream t k).st = .active ∧ t.tiers = s.tiers ∧ t.watches = s.watches) ∧
          (x.attached + 1 = x.members → x.masked = true → (stream t k).st = .maskWait ∧
            t.watches = s.watches ++ [⟨watchKey s q x.chime, x.mt + x.pass, .stream k⟩]))) := by
  intro q x s' h
  have hs : SendWork s s' := taken_sendWork ..
  have hx : stream s' k = x := hs.stream k
  have hc : cacheFull s' e.val = cacheFull s e.val := by simp only [cacheFull, hs.streams]
  have he (a : AttachIn) : exec (.attach e a) s = .next (attachAt e.val a s' q k w p) := execAttach_eq h a
  refine ⟨fun hi => ?_, fun hi hb => ⟨_, he _, ?_⟩, fun hi => ⟨_, he _, ?_⟩, fun hi hb hg => ⟨_, he _, ?_⟩, fun hi hb hg ha hf => ⟨_, he _, ?_⟩,
    fun hi hb hg hm => ⟨_, he _, attachAt_spec hs e.val m q k w p hi hb hg hm⟩⟩
  · rw [he]
    simp only [attachAt, hx, hi, Bool.not_false, if_true]
    rfl
  · simp only [attachAt, hx, hi, hb, Bool.not_true, Bool.false_eq_true, if_false, if_true]
    exact refuseAttach_after hs ..
  · simp only [attachAt, hx, hi, Bool.not_true, Bool.false_eq_true, if_false, if_true]
    exact refuseAttach_after (hs.trans (reserveLost_sendWork s')) ..
  · simp only [attachAt, hx, hi, hb, hg, Bool.not_true, Bool.false_eq_true, if_false, ne_eq, not_false_eq_true, if_true]
    exact refuseAttach_after hs ..
  · have ht : x.attaching = false := by simp [Stream.attaching, ha]
    simp only [attachAt, hx, hi, hb, hg, ht, hc, hf, Bool.not_true, Bool.not_false, Bool.false_eq_true, if_false, ne_eq, not_true, Bool.and_self, if_true]
    exact refuseAttach_after hs ..

/-! ## DETACH -/

/-- A stream that has returned to IDLE (R303, R304). -/
def idled (x : Stream) : Stream :=
  { x with st := .idle, attached := 0, attM := [], attBy := [], plan := [], pieces := [], selBufs := [], received := [], drainable := 0,
           src := none, begun := false, headIn := false, hdr := [],
           flights := x.flights ++ (x.pieces.filter (fun q => q.got.isNone)).map (fun q => q.flight x) }

theorem streamIdle_eq (s : State) (k : Nat) :
    streamIdle s k = { setStream s k (idled (stream s k)) with watches := s.watches.filter (fun w => w.who != .stream k) } := rfl

/-- What the return of stream k to IDLE leaves, its watch withdrawn. -/
theorem streamIdle_sent {s s' t : State} {k : Nat} (hs : SendWork s s') (ht : SendWork (streamIdle s' k) t) :
    OtherStreams s t k ∧ t.tiers = s.tiers ∧ stream t k = idled (stream s k) ∧ ∀ v ∈ t.watches, v.who ≠ .stream k := by
  have h1 : StreamSent idled k s (setStream s' k (idled (stream s' k))) := (StreamSent.of_send hs).trans (.setStream s' k idled)
  rw [streamIdle_eq] at ht
  refine ⟨fun j hj => (ht.stream j).trans (h1.others j hj), ?_, (ht.stream k).trans h1.this, fun v hv => ?_⟩
  · rw [ht]
    exact h1.kept'.1
  · rw [ht] at hv
    have h := (List.mem_filter.mp hv).2
    exact bne_iff_ne.mp h

theorem detach_atEngine (s : State) (e : Engine) (p : Packet) (r : List Packet) (k : Nat) (w : Word) :
    let x := stream s k
    let s' := sendAck (popEngine s e.val) p none
    StreamIn s e 2 p r k w →
      (x.st = .copying ∨ (x.isIdle = true ∧ x.attached = 0) → exec (.detach e) s = .next s') ∧
      (x.st ≠ .copying → x.isIdle = false ∨ x.attached ≠ 0 → Nexts (.detach e) s (fun t => OtherStreams s t k ∧ t.tiers = s.tiers ∧
        (stream t k).st = .idle ∧ (stream t k).attached = 0 ∧ (stream t k).pieces = [] ∧
        (stream t k).flights = x.flights ++ (x.pieces.filter (fun c => c.got.isNone)).map (fun c => c.flight x) ∧ (stream t k).entry = x.entry ∧ (stream t k).pass = x.pass ∧
        ∀ v ∈ t.watches, v.who ≠ .stream k)) := by
  intro x s' h
  have hs : SendWork s s' := taken_sendWork ..
  have hx : stream s' k = x := hs.stream k
  let q := packetPart s p
  have he : exec (.detach e) s = .next (
      if x.st = .copying then s'
      else if x.attaching then sendState (streamIdle s' k) q k x.stat (x.attM.dedup.filter (fun m => decide (m < x.members)))
      else if x.isIdle then s'
      else sendState (streamIdle s' k) q k x.stat x.all) := by
    rw [← hx]
    exact congrArg Host.Outcome.next (streamPacket_eq h _)
  have hdone (ms : List Nat) : let t := sendState (streamIdle s' k) q k x.stat ms
      OtherStreams s t k ∧ t.tiers = s.tiers ∧ (stream t k).st = .idle ∧ (stream t k).attached = 0 ∧ (stream t k).pieces = [] ∧
        (stream t k).flights = x.flights ++ (x.pieces.filter (fun c => c.got.isNone)).map (fun c => c.flight x) ∧ (stream t k).entry = x.entry ∧
        (stream t k).pass = x.pass ∧ ∀ v ∈ t.watches, v.who ≠ .stream k := by
    intro t
    obtain ⟨h1, h2, h3, h4⟩ := streamIdle_sent hs (sendState_sendWork (streamIdle s' k) q k x.stat ms)
    have h3 : stream t k = idled x := h3
    rw [h3]
    exact ⟨h1, h2, rfl, rfl, rfl, rfl, rfl, rfl, h4⟩
  refine ⟨fun hc => ?_, fun hc hi => ⟨_, he, ?_⟩⟩
  · rw [he]
    rcases hc with hc | ⟨hi, ha⟩
    · rw [if_pos hc]
    · simp only [Stream.attaching, hi, ha, bne_self_eq_false, Bool.and_false, Bool.false_eq_true, if_false, if_true, ite_self]
  · rw [if_neg hc]
    by_cases ha : x.attaching = true
    · rw [if_pos ha]
      exact hdone _
    · have hn : x.isIdle = false := by
        rcases hi with h | h
        · exact h
        · rw [Stream.attaching, bne_iff_ne.mpr h, Bool.and_true] at ha
          exact Bool.eq_false_iff.mpr ha
      rw [if_neg ha, if_neg (Bool.eq_false_iff.mp hn)]
      exact hdone _

/-! ## A stream that goes on -/

/-- The releases of a stream that its own progress leaves alone. -/
def SamePace (x y : Stream) : Prop := y.freedM = x.freedM ∧ y.fr = x.fr

/-- t differs from s only in stream k, whose releases stand, in what a send touches and in what an advance and a watch touch. -/
structure StreamRun (k : Nat) (s t : State) : Prop where
  others : OtherStreams s t k
  pace : SamePace (stream s k) (stream t k)

theorem StreamRun.refl (k : Nat) (s : State) : StreamRun k s s := ⟨fun _ _ => rfl, rfl, rfl⟩

theorem StreamRun.trans {k : Nat} {s t u : State} (h : StreamRun k s t) (g : StreamRun k t u) : StreamRun k s u where
  others := fun j hj => (g.others j hj).trans (h.others j hj)
  pace := ⟨g.pace.1.trans h.pace.1, g.pace.2.trans h.pace.2⟩

theorem StreamRun.of_streams {k : Nat} {s t : State} (h : t.streams = s.streams) : StreamRun k s t where
  others := fun j _ => by rw [stream, h]; rfl
  pace := by
    have e : stream t k = stream s k := by rw [stream, h]; rfl
    exact ⟨by rw [e], by rw [e]⟩

theorem StreamRun.of_set {s : State} {k : Nat} {x : Stream} (h : SamePace (stream s k) x) : StreamRun k s (setStream s k x) where
  others := fun j hj => (stream_setStream ..).trans (if_neg hj)
  pace := by rw [stream_setStream_same]; exact h

theorem StreamSent.run {u : Stream → Stream} {k : Nat} {s t : State} (h : StreamSent u k s t) (hu : ∀ x, SamePace x (u x)) : StreamRun k s t where
  others := h.others
  pace := by rw [h.this]; exact hu _

theorem SendWork.run {k : Nat} {s t : State} (h : SendWork s t) : StreamRun k s t := .of_streams h.streams

theorem LaneWork.run {k : Nat} {s t : State} (h : LaneWork s t) : StreamRun k s t := .of_streams (by rw [h])

theorem toState_run (s : State) (p k : Nat) (st : StrmSt) : StreamRun k s (toState s p k st) := (toState_sent s p k st).run fun _ => ⟨rfl, rfl⟩

theorem settleFence_run (s : State) (p k : Nat) : StreamRun k s (settleFence s p k) := by
  unfold settleFence
  dsimp only
  split
  · exact toState_run ..
  · exact .refl k s

theorem countBuffer_run (s : State) (p k : Nat) (ms : List Nat) : StreamRun k s (countBuffer s p k ms) := by
  unfold countBuffer
  extract_lets x n at' f s1
  exact (StreamRun.of_set (by exact ⟨rfl, rfl⟩) : StreamRun k s s1).trans (sendStat_sendWork ..).run

theorem sendBuffer_run (s : State) (p k m : Nat) (segs : List (Nat × List PWord)) : StreamRun k s (sendBuffer s p k m segs) := by
  unfold sendBuffer
  extract_lets x place base pkts s1 s2
  have h1 : SendWork s s1 := .foldl (fun s _ => engineSend_sendWork s ..) pkts s
  have hx : stream s1 k = x := h1.stream k
  have h2 : StreamRun k s1 s2 := .of_set (by rw [hx]; exact ⟨rfl, rfl⟩)
  exact h1.run.trans (h2.trans (OnlyReports.cntAdd ..).sendWork.run)

theorem writeSel_run (s : State) (p k : Nat) : StreamRun k s (writeSel s p k) := by
  cases h : (stream s k).selBufs with
  | nil =>
    simp only [writeSel, h]
    exact .refl k s
  | cons b rest =>
    simp only [writeSel, h]
    refine StreamRun.trans (StreamRun.trans (StreamRun.of_set ?_) (sendBuffer_run ..)) (countBuffer_run ..)
    split <;> exact ⟨rfl, rfl⟩

theorem metaAdd_run (s : State) (p k n : Nat) : StreamRun k s (metaAdd s p k n) := by
  unfold metaAdd
  split
  · exact .refl k s
  · extract_lets x m s1
    have h1 : StreamRun k s s1 := .of_set (by exact ⟨rfl, rfl⟩)
    exact h1.trans ((OnlyReports.cntAdd ..).trans (OnlyReports.regOr ..)).sendWork.run

theorem writeData_run (s : State) (p k : Nat) : StreamRun k s (writeData s p k) := by
  unfold writeData
  extract_lets x came m base out s1 s2 s3
  have h1 : StreamRun k s s1 := .of_streams rfl
  have h2 : StreamRun k s1 s2 := .of_set (by exact ⟨rfl, rfl⟩)
  have h3 : StreamRun k s2 s3 := (metaAdd_run ..).trans (poisonMoved_onlyReports ..).sendWork.run
  exact ((h1.trans h2).trans h3).trans ((sendBuffer_run ..).trans (countBuffer_run ..))

theorem maskWatch_run (s : State) (p k : Nat) : StreamRun k s (maskWatch s p k) := by
  unfold maskWatch
  extract_lets x s1
  have h1 : OnlyReports s s1 := by
    unfold s1
    split
    · rfl
    · exact OnlyReports.violate ..
  exact h1.sendWork.run.trans (.of_streams rfl)

theorem passBegin_run (s : State) (p k : Nat) : StreamRun k s (passBegin s p k) := by
  unfold passBegin
  extract_lets x y total s1 z
  split
  · exact .of_set ⟨rfl, rfl⟩
  · have h1 : StreamRun k s s1 := (StreamRun.of_set (by exact ⟨rfl, rfl⟩)).trans (t2Touch_onlyReports ..).sendWork.run
    have hz : SamePace (stream s1 k) z := ⟨h1.pace.1.symm, h1.pace.2.symm⟩
    refine h1.trans (.of_set ?_)
    split
    · exact hz
    · exact hz

theorem walkDone_run (s : State) (p k : Nat) : StreamRun k s (walkDone s p k) := by
  unfold walkDone
  extract_lets x s1 s2
  have h1 : StreamRun k s s1 := .of_set (by exact ⟨rfl, rfl⟩)
  have h2 : StreamRun k s1 s2 := by
    unfold s2
    split
    · exact (partAdvance_laneWork ..).run
    · exact .refl k s1
  refine (h1.trans h2).trans ?_
  split
  · exact toState_run ..
  · split
    · exact (toState_run ..).trans (maskWatch_run ..)
    · exact passBegin_run ..

theorem progress_run (p k : Nat) (fuel : Nat) : ∀ s, StreamRun k s (progress s p k fuel) := by
  induction fuel with
  | zero => exact fun s => .refl k s
  | succ fuel ih =>
    intro s
    rw [progress]
    split
    · exact (writeSel_run ..).trans (ih _)
    · split
      · exact (writeData_run ..).trans (ih _)
      · split
        · exact (walkDone_run ..).trans (settleFence_run ..)
        · exact settleFence_run ..

theorem goOn_run (s : State) (p k : Nat) : StreamRun k s (goOn s p k) := progress_run p k _ s

/-! ## Releases -/

theorem execRel_eq {s : State} {e : Engine} {p : Packet} {r : List Packet} {k : Nat} {w : Word} (h : StreamIn s e 3 p r k w) :
    exec (.rel e) s = .next (relStream (sendAck (popEngine s e.val) p none) (packetPart s p) k w) :=
  congrArg Host.Outcome.next (streamPacket_eq h _)

theorem execFrelPacket_eq {s : State} {e : Engine} {p : Packet} {r : List Packet} {k : Nat} {w : Word} (h : StreamIn s e 4 p r k w) :
    exec (.frelPacket e) s = .next (frelStream (sendAck (popEngine s e.val) p none) (packetPart s p) k (w.truncate 16)) :=
  congrArg Host.Outcome.next (streamPacket_eq h _)

/-- A release of n places of member m of a window's stream, the stream going on. -/
def freedAt (s : State) (p k m n : Nat) : State :=
  let x := stream s k
  let room := Tab.get 0 x.writtenM m - Tab.get 0 x.freedM m
  let s := setStream s k { x with freedM := Tab.set 0 x.freedM m (Tab.get 0 x.freedM m + min n room) }
  goOn (if room < n then strmFault s p 8 else s) p k

/-- REL of an outbound stream: buffers to drain, no more than have come. -/
def drainableAt (s : State) (p k : Nat) (w : Word) : State :=
  let x := stream s k
  let room := x.received.length - x.drainable
  let s := setStream s k { x with drainable := x.drainable + min w.toNat room }
  if room < w.toNat then strmFault s p 8 else s

theorem relStream_outbound {s : State} {p k : Nat} (w : Word) (h : ¬ ((stream s k).isIdle = true ∨ (stream s k).st = .copying))
    (hk : (stream s k).kind = 2) : relStream s p k w = drainableAt s p k w := (if_neg h).trans (if_pos hk)

theorem relStream_window {s : State} {p k : Nat} (w : Word) (h : ¬ ((stream s k).isIdle = true ∨ (stream s k).st = .copying))
    (hk : (stream s k).kind ≠ 2) : relStream s p k w =
      freedAt s p k (if (stream s k).members = 1 then 0 else fld w 31 24) (if (stream s k).members = 1 then w.toNat else fld w 23 0) :=
  (if_neg h).trans (if_neg hk)

/-- A release: no more than the buffers written and not yet freed (R293, R294). -/
theorem freedAt_spec {s s' : State} (hs : SendWork s s') (q k m n : Nat) :
    let x := stream s k
    let t := freedAt s' q k m n
    OtherStreams s t k ∧ Tab.get 0 (stream t k).freedM m = Tab.get 0 x.freedM m + min n (Tab.get 0 x.writtenM m - Tab.get 0 x.freedM m) := by
  intro x t
  let x' := stream s' k
  let room := Tab.get 0 x'.writtenM m - Tab.get 0 x'.freedM m
  let s1 := setStream s' k { x' with freedM := Tab.set 0 x'.freedM m (Tab.get 0 x'.freedM m + min n room) }
  let s2 := if room < n then strmFault s1 q 8 else s1
  have h2 : StreamRun k s1 s2 := by
    unfold s2
    split
    · exact (OnlyReports.regOr ..).sendWork.run
    · exact .refl k s1
  have ht : StreamRun k s1 t := h2.trans (goOn_run s2 q k)
  refine ⟨fun j hj => (ht.others j hj).trans (((stream_setStream ..).trans (if_neg hj)).trans (hs.stream j)), ?_⟩
  rw [ht.pace.1, show stream s1 k = _ from stream_setStream_same .., show x = x' from (hs.stream k).symm]
  exact Tab.get_set_same ..

theorem drainableAt_spec {s s' : State} (hs : SendWork s s') (q k : Nat) (w : Word) :
    let x := stream s k
    let t := drainableAt s' q k w
    OtherStreams s t k ∧ t.tiers = s.tiers ∧ stream t k = { x with drainable := x.drainable + min w.toNat (x.received.length - x.drainable) } := by
  intro x t
  let u (y : Stream) : Stream := { y with drainable := y.drainable + min w.toNat (y.received.length - y.drainable) }
  have h1 : StreamSent u k s (setStream s' k (u (stream s' k))) := (StreamSent.of_send hs).trans (.setStream s' k u)
  have h2 : StreamSent u k s t := by
    unfold t drainableAt
    dsimp only
    split
    · exact h1.trans (.of_send (OnlyReports.regOr _ q 0 0x300020 8).sendWork)
    · exact h1
  exact ⟨h2.others, h2.kept'.1, h2.this⟩

theorem rel_atEngine (s : State) (e : Engine) (p : Packet) (r : List Packet) (k : Nat) (w : Word) :
    let q := packetPart s p
    let x := stream s k
    let s' := sendAck (popEngine s e.val) p none
    StreamIn s e 3 p r k w →
      (x.isIdle = true ∨ x.st = .copying → exec (.rel e) s = .next (regOr s' q 0 0x300020 8)) ∧
      (x.isIdle = false → x.st ≠ .copying → x.kind = 2 → Nexts (.rel e) s (fun t => OtherStreams s t k ∧ t.tiers = s.tiers ∧
        stream t k = { x with drainable := x.drainable + min w.toNat (x.received.length - x.drainable) })) ∧
      (x.isIdle = false → x.st ≠ .copying → x.kind ≠ 2 → x.members = 1 → Nexts (.rel e) s (fun t => OtherStreams s t k ∧
        Tab.get 0 (stream t k).freedM 0 = Tab.get 0 x.freedM 0 + min w.toNat (Tab.get 0 x.writtenM 0 - Tab.get 0 x.freedM 0))) ∧
      (x.isIdle = false → x.st ≠ .copying → x.kind ≠ 2 → x.members ≠ 1 → Nexts (.rel e) s (fun t => OtherStreams s t k ∧
        Tab.get 0 (stream t k).freedM (fld w 31 24) = Tab.get 0 x.freedM (fld w 31 24) +
          min (fld w 23 0) (Tab.get 0 x.writtenM (fld w 31 24) - Tab.get 0 x.freedM (fld w 31 24)))) := by
  intro q x s' h
  have hs : SendWork s s' := taken_sendWork ..
  have hx : stream s' k = x := hs.stream k
  have he := execRel_eq h
  have hgo (hi : x.isIdle = false) (hc : x.st ≠ .copying) : ¬ ((stream s' k).isIdle = true ∨ (stream s' k).st = .copying) := by
    rw [hx, hi]
    exact fun h => h.elim Bool.false_ne_true hc
  refine ⟨fun hi => ?_, fun hi hc hk => ⟨_, he, ?_⟩, fun hi hc hk hm => ⟨_, he, ?_⟩, fun hi hc hk hm => ⟨_, he, ?_⟩⟩
  · rw [he, relStream, if_pos (by rw [hx]; exact hi)]
    rfl
  · rw [relStream_outbound w (hgo hi hc) (by rw [hx]; exact hk)]
    exact drainableAt_spec hs q k w
  · rw [relStream_window w (hgo hi hc) (by rw [hx]; exact hk), hx, if_pos hm, if_pos hm]
    exact freedAt_spec hs q k 0 w.toNat
  · rw [relStream_window w (hgo hi hc) (by rw [hx]; exact hk), hx, if_neg hm, if_neg hm]
    exact freedAt_spec hs q k (fld w 31 24) (fld w 23 0)

/-- A fence release that moves FR on (R295). -/
theorem frelStream_run {s s' : State} (hs : SendWork s s') (q k : Nat) (f : BitVec 16) :
    let x := stream s k
    x.isIdle = false → x.st ≠ .copying → (f - x.fr).toNat < 2 ^ 15 →
      OtherStreams s (frelStream s' q k f) k ∧ (stream (frelStream s' q k f) k).fr = f := by
  intro x hi hc hf
  have hx : stream s' k = x := hs.stream k
  let s1 := setStream s' k { stream s' k with fr := f }
  have e : frelStream s' q k f = if (stream s' k).st = .fenceWait ∧ frReached f (stream s' k).fence then goOn (toState s1 q k .active) q k else goOn s1 q k := by
    unfold frelStream
    refine if_neg ?_
    rw [hx, hi]
    exact fun h => h.elim Bool.false_ne_true fun h => h.elim hc (Nat.not_le_of_lt hf)
  have h1 : StreamRun k s1 (frelStream s' q k f) := by
    rw [e]
    split
    · exact (toState_run ..).trans (goOn_run ..)
    · exact goOn_run ..
  refine ⟨fun j hj => (h1.others j hj).trans (((stream_setStream ..).trans (if_neg hj)).trans (hs.stream j)), ?_⟩
  rw [h1.pace.2, show stream s1 k = _ from stream_setStream_same ..]

theorem frelStream_idle {s s' : State} (hs : SendWork s s') (q k : Nat) (f : BitVec 16) :
    let x := stream s k
    x.isIdle = true ∨ x.st = .copying ∨ 2 ^ 15 ≤ (f - x.fr).toNat → frelStream s' q k f = s' := by
  intro x h
  unfold frelStream
  exact if_pos (by rw [hs.stream k]; exact h)

/-- Settles O23: ATTACH, DETACH, REL and the fence release at their engine. -/
theorem streamPackets : Obligations.StreamPackets := by
  intro s e p r k w m q x s'
  have hs : SendWork s s' := taken_sendWork ..
  refine ⟨attach_atEngine s e p r k w m, detach_atEngine s e p r k w, rel_atEngine s e p r k w, fun h => ⟨fun hi => ?_, fun hi hc hf => ?_⟩⟩
  · rw [execFrelPacket_eq h, frelStream_idle hs q k _ hi]
  · exact ⟨_, execFrelPacket_eq h, frelStream_run hs q k _ hi hc hf⟩

end Sys2Proof.Machine
end

section
/-! PROOFS. STRM_CMD (O24). -/

namespace Sys2Proof.Machine

open Sys2Proof.Claims

/-! ## STRM_CMD -/

theorem strmOp_busy {s : State} {p : Nat} (h : strmBusy s p = true) (f : Nat → State) : strmOp s p f = s := if_pos h

theorem strmOp_beyond {s : State} {p : Nat} (h : strmBusy s p = false) (hk : streamKey s p (strmSel s p) = none) (f : Nat → State) :
    strmOp s p f = strmCode (violate s p 5) p 0 := by
  unfold strmOp
  rw [if_neg (Bool.eq_false_iff.mp h), hk]

theorem strmOp_at {s : State} {p k : Nat} (h : strmBusy s p = false) (hk : streamKey s p (strmSel s p) = some k) (f : Nat → State) :
    strmOp s p f = f k := by
  unfold strmOp
  rw [if_neg (Bool.eq_false_iff.mp h), hk]

/-- A register of another offset of the function, or of another place. -/
theorem regGet_regSet_ne (s : State) (fn idx fn' idx' : Nat) {off off' : Nat} (w : Word) (h : off < 2 ^ 26) (h' : off' < 2 ^ 26) (hne : off' ≠ off) :
    regGet (regSet s fn idx off w) fn' idx' off' = regGet s fn' idx' off' :=
  regGet_regSet_other _ _ _ _ _ _ _ _ (by simp only [regKey]; omega)

/-- What a command beyond the grant leaves (R282, R308). -/
theorem strmBeyond_spec (s : State) {q : Nat} (hq : q ≠ 0) :
    let t := strmCode (violate s q 5) q 0
    t = { s with regs := t.regs } ∧ regGet t 0 q 0x200058 = 5 ∧ regGet t q 0 0x30001C = 0 := by
  refine ⟨?_, ?_, regGet_regSet_same ..⟩
  · rw [violate, if_neg hq]
    rfl
  · rw [strmCode, regGet_regSet_ne _ _ _ _ _ _ (by decide) (by decide) (by decide)]
    exact regGet_violate s hq 5

/-- The entry registers as an entry. -/
theorem entry_w (s : State) (q i : Nat) (hi : i < 16) :
    ({ entry := (List.range 16).map (fun i => regGet s q 0 (0x300080 + 4 * i)) } : Stream).w i = regGet s q 0 (0x300080 + 4 * i) := by
  simp [Stream.w, List.getD_eq_getElem?_getD, hi]

/-- Registers at rising offsets written one after the other read back. -/
theorem regGet_foldl_regSet (q base : Nat) (g : Nat → Word) (n : Nat) (s : State) :
    (∀ off, (∀ i, i < n → off ≠ base + 4 * i) →
      regGet ((List.range n).foldl (fun s i => regSet s q 0 (base + 4 * i) (g i)) s) q 0 off = regGet s q 0 off) ∧
    ∀ i, i < n → regGet ((List.range n).foldl (fun s i => regSet s q 0 (base + 4 * i) (g i)) s) q 0 (base + 4 * i) = g i := by
  induction n with
  | zero => exact ⟨fun _ _ => rfl, nofun⟩
  | succ n ih =>
    obtain ⟨ho, hs⟩ := ih
    simp only [List.range_succ, List.foldl_append, List.foldl_cons, List.foldl_nil]
    refine ⟨fun off h => ?_, fun i hi => ?_⟩
    · rw [regGet_regSet_off _ _ _ _ _ _ (h n (Nat.lt_succ_self n))]
      exact ho off fun i hi => h i (Nat.lt_succ_of_lt hi)
    · by_cases hn : i = n
      · subst hn
        exact regGet_regSet_same ..
      · rw [regGet_regSet_off _ _ _ _ _ _ (by omega)]
        exact hs i (by omega)

theorem foldl_regSet_form (q base : Nat) (g : Nat → Word) (l : List Nat) (s : State) :
    l.foldl (fun s i => regSet s q 0 (base + 4 * i) (g i)) s = { s with regs := (l.foldl (fun s i => regSet s q 0 (base + 4 * i) (g i)) s).regs } := by
  induction l generalizing s with
  | nil => rfl
  | cons i l ih => rw [List.foldl_cons, ih]; rfl

theorem strmRead_at (s : State) (q k : Nat) :
    let x := stream s k
    let t := strmCode ((List.range 16).foldl (fun s i => regSet s q 0 (0x300080 + 4 * i) (x.w i)) s) q 0
    t = { s with regs := t.regs } ∧ regGet t q 0 0x30001C = 0 ∧ ∀ i, i < 16 → regGet t q 0 (0x300080 + 4 * i) = x.w i := by
  intro x t
  refine ⟨?_, regGet_regSet_same .., fun i hi => ?_⟩
  · unfold t strmCode
    rw [foldl_regSet_form]
    rfl
  · unfold t strmCode
    rw [regGet_regSet_off _ _ _ _ _ _ (by omega)]
    exact (regGet_foldl_regSet q 0x300080 x.w 16 s).2 i hi

/-- A START refused with a code of its own leaves only that code and registers. -/
theorem refuseStart_form (s : State) (q k : Nat) (st : StrmSt) :
    let t := strmCode (refuseStream s q k st) q 2
    t = { s with streams := t.streams, regs := t.regs } := by
  intro t
  unfold t refuseStream
  dsimp only
  split <;> rfl

theorem refuseStart_sent (s : State) (q k : Nat) (st : StrmSt) :
    StreamSent (fun x => { x with st := st }) k s (strmCode (refuseStream s q k st) q 2) :=
  (refuseStream_sent s q k st).trans (.of_send (OnlyReports.regSet ..).sendWork)

/-- What the start of a copy leaves (R300). -/
theorem copyStart_spec (s : State) {q : Nat} (hq : q ≠ 0) (k : Nat) :
    let t := copyStart s q k
    (stream t k).st = .copying ∧ (stream t k).entry = (stream s k).entry ∧ OtherStreams s t k ∧
      t = { s with streams := t.streams, regs := t.regs } ∧ regGet t q 0 0x30001C = 0 := by
  have hv (kind : Nat) (u : State) : violate u q kind = { u with regs := (violate u q kind).regs } := by
    rw [violate, if_neg hq]
    rfl
  unfold copyStart
  extract_lets x src fits lenOk s1 s2 s3 s4 s5 t
  have h2 : s2 = { s1 with regs := s2.regs } := by
    unfold s2
    split
    · exact hv 2 s1
    · rfl
  have h3 : s3 = { s2 with regs := s3.regs } := by
    unfold s3
    split
    · rfl
    · exact hv 1 s2
  have h4 : s4 = { s3 with regs := s4.regs } := by
    unfold s4
    split
    · rfl
    · exact hv 1 s3
  have h5 : s5 = { s4 with regs := s5.regs } := by
    unfold s5
    split <;> rfl
  have h : s5 = { s1 with regs := s5.regs } := by rw [h5, h4, h3, h2]
  have ht : strmCode s5 q 0 = { s1 with regs := (strmCode s5 q 0).regs } := by
    show regSet s5 q 0 0x30001C 0 = _
    rw [h]
    rfl
  have hx (j : Nat) : stream (strmCode s5 q 0) j = stream s1 j := by
    rw [ht]
    rfl
  refine ⟨?_, ?_, fun j hj => (hx j).trans ((stream_setStream ..).trans (if_neg hj)), ?_, regGet_regSet_same ..⟩
  · rw [hx, show stream s1 k = _ from stream_setStream_same ..]
  · rw [hx, show stream s1 k = _ from stream_setStream_same ..]
  · rw [show t = _ from ht]
    rfl

theorem strmWrite_at {s : State} {q k : Nat} (h : strmBusy s q = false) (hk : streamKey s q (strmSel s q) = some k)
    (hi : (stream s k).isIdle = true) (ha : (stream s k).attached = 0) :
    strmWrite s q = strmCode (setStream s k { entry := (List.range 16).map (fun i => regGet s q 0 (0x300080 + 4 * i)), flights := (stream s k).flights }) q 0 := by
  refine (strmOp_at h hk _).trans (if_neg ?_)
  simp [Stream.attaching, hi, ha]

/-- The checks of a START of an idle stream, in order. -/
theorem strmStart_at {s : State} {q k : Nat} (h : strmBusy s q = false) (hk : streamKey s q (strmSel s q) = some k)
    (hi : (stream s k).isIdle = true) (ha : (stream s k).attached = 0) (lost : Bool) :
    strmStart s q lost = if lost then strmCode (refuseStream (reserveLost s) q k .badEntry) q 2
      else if (stream s k).bad false then strmCode (refuseStream s q k .badEntry) q 2
      else if cacheFull s (stream s k).engine then strmCode (refuseStream s q k .noRoom) q 2
      else copyStart s q k := by
  refine (strmOp_at h hk _).trans (if_neg ?_)
  simp [Stream.attaching, hi, ha]

theorem strm_notIdle {s : State} {q k : Nat} (h : strmBusy s q = false) (hk : streamKey s q (strmSel s q) = some k)
    (hi : (stream s k).isIdle = false ∨ (stream s k).attached ≠ 0) :
    strmWrite s q = strmCode s q 2 ∧ strmStart s q false = strmCode s q 2 := by
  have hc : (!(stream s k).isIdle || (stream s k).attaching) = true := by
    rcases hi with hi | ha
    · simp [hi]
    · by_cases hi : (stream s k).isIdle = true
      · simp [Stream.attaching, hi, ha]
      · simp [hi]
  exact ⟨(strmOp_at h hk _).trans (if_pos hc), (strmOp_at h hk _).trans (if_pos hc)⟩

/-- Settles O24: STRM_CMD while busy, beyond the grant, and on a stream of the grant. -/
theorem streamCommands : Obligations.StreamCommands := by
  intro s p n q
  have hq : q ≠ 0 := Nat.succ_ne_zero _
  have ew : exec (.strmWrite p) s = .next (strmWrite s q) := rfl
  have er : exec (.strmRead p) s = .next (strmRead s q) := rfl
  have es (l : Bool) : exec (.strmStart p l) s = .next (strmStart s q l) := rfl
  have ef : exec (.strmCmdFrel p n) s = .next (strmFrel s q n) := rfl
  refine ⟨fun hb => ⟨?_, ?_, ?_, ?_⟩, fun hb hk i hi => ?_, fun k hb hk => ?_⟩
  · rw [ew, strmWrite, strmOp_busy hb]
  · rw [er, strmRead, strmOp_busy hb]
  · rw [es, strmStart, strmOp_busy hb]
  · rw [ef, strmFrel, strmOp_busy hb]
  · refine ⟨_, ?_, strmBeyond_spec s hq⟩
    simp only [List.mem_cons, List.not_mem_nil, or_false] at hi
    rcases hi with rfl | rfl | rfl | rfl
    · rw [ew, strmWrite, strmOp_beyond hb hk]
    · rw [er, strmRead, strmOp_beyond hb hk]
    · rw [es, strmStart, strmOp_beyond hb hk]
    · rw [ef, strmFrel, strmOp_beyond hb hk]
  intro x
  refine ⟨fun hi => ?_, fun hi ha => ⟨_, ew, ?_⟩, ⟨_, er, ?_⟩, fun hi ha => ⟨_, es true, ?_⟩, fun hi ha hx => ⟨_, es false, ?_⟩,
    fun hi ha hx hc => ⟨_, es false, ?_⟩, fun hi => ?_, fun hi hc hf => ⟨_, ef, ?_⟩⟩
  · obtain ⟨h1, h2⟩ := strm_notIdle hb hk hi
    rw [ew, es, h1, h2]
    exact ⟨rfl, rfl⟩
  · rw [strmWrite_at hb hk hi ha]
    have hsame (y : Stream) : stream (strmCode (setStream s k y) q 0) k = y := stream_setStream_same ..
    refine ⟨rfl, fun j hj => (stream_setStream ..).trans (if_neg hj), regGet_regSet_same .., fun i hi => ?_, ?_⟩
    · rw [hsame]
      exact entry_w s q i hi
    · rw [hsame]
  · rw [strmRead, strmOp_at hb hk]
    exact strmRead_at s q k
  · rw [strmStart_at hb hk hi ha, if_pos rfl]
    have h := (StreamSent.of_send (k := k) (reserveLost_sendWork s)).trans (refuseStart_sent (reserveLost s) q k .badEntry)
    exact ⟨by rw [h.this]; rfl, h.others, h.kept'.1, regGet_regSet_same ..⟩
  · rw [strmStart_at hb hk hi ha, if_neg Bool.false_ne_true, if_pos hx]
    have h := refuseStart_sent s q k .badEntry
    exact ⟨by rw [h.this], h.others, refuseStart_form s q k _, regGet_regSet_same ..⟩
  · rw [strmStart_at hb hk hi ha, if_neg Bool.false_ne_true, if_neg (Bool.eq_false_iff.mp hx), if_neg (Bool.eq_false_iff.mp hc)]
    exact copyStart_spec s hq k
  · rw [ef, strmFrel, strmOp_at hb hk]
    exact congrArg _ (frelStream_idle (OnlyReports.regSet s q 0 0x30001C 0).sendWork q k n hi)
  · rw [strmFrel, strmOp_at hb hk]
    obtain ⟨h1, h2⟩ := frelStream_run (OnlyReports.regSet s q 0 0x30001C 0).sendWork q k n hi hc hf
    exact ⟨h2, h1⟩

end Sys2Proof.Machine
end

section
/-! PROOFS. Words of byte memories and of T2. -/

namespace Sys2Proof.Machine

open Sys2Proof.Claims

/-! ## Words of a byte memory -/

theorem Memory.word_toNat (m : List Host.Cell) (a : Nat) : (Memory.word m a).toNat =
    (Memory.byte m a).toNat + 256 * (Memory.byte m (a + 1)).toNat + 65536 * (Memory.byte m (a + 2)).toNat + 16777216 * (Memory.byte m (a + 3)).toNat := by
  have h0 := (Memory.byte m a).isLt
  have h1 := (Memory.byte m (a + 1)).isLt
  have h2 := (Memory.byte m (a + 2)).isLt
  have h3 := (Memory.byte m (a + 3)).isLt
  simp only [Memory.word, Memory.nat, BitVec.toNat_ofNat, Nat.mul_zero, Nat.add_zero, Nat.add_assoc, Nat.reduceAdd]
  omega

theorem Memory.word_congr {m m' : List Host.Cell} {a : Nat} (h : ∀ i, i < 4 → Memory.byte m' (a + i) = Memory.byte m (a + i)) :
    Memory.word m' a = Memory.word m a := by
  apply BitVec.eq_of_toNat_eq
  rw [Memory.word_toNat, Memory.word_toNat, h 1 (by decide), h 2 (by decide), h 3 (by decide), ← Nat.add_zero a, h 0 (by decide)]

theorem Memory.word_setWord_same (m : List Host.Cell) (a : Nat) (w : Word) : Memory.word (Memory.setWord m a w) a = w := by
  have hb (i : Nat) (hi : i < 4) : (Memory.byte (Memory.setWord m a w) (a + i)).toNat = w.toNat / 256 ^ i % 256 := by
    rw [Memory.byte_setWord, if_pos (by omega), Nat.add_sub_cancel_left, BitVec.toNat_ofNat]
  have h0 := hb 0 (by decide)
  apply BitVec.eq_of_toNat_eq
  rw [Nat.add_zero] at h0
  rw [Memory.word_toNat, hb 1 (by decide), hb 2 (by decide), hb 3 (by decide), h0]
  have := w.isLt
  omega

theorem Memory.byte_setWord_other (m : List Host.Cell) {a x : Nat} (w : Word) (h : x < a ∨ a + 4 ≤ x) :
    Memory.byte (Memory.setWord m a w) x = Memory.byte m x := by rw [Memory.byte_setWord, if_neg (by omega)]

theorem Memory.word_setWord_other (m : List Host.Cell) {a b : Nat} (w : Word) (h : b + 4 ≤ a ∨ a + 4 ≤ b) :
    Memory.word (Memory.setWord m a w) b = Memory.word m b :=
  Memory.word_congr fun _ hi => Memory.byte_setWord_other _ _ (by omega)

theorem Memory.byte_putWords_other (ws : List PWord) {x : Nat} : ∀ (m : List Host.Cell) (tg : Tab Bool) (a : Nat), x < a ∨ a + 4 * ws.length ≤ x →
    Memory.byte (Memory.putWords m tg a ws).1 x = Memory.byte m x := by
  induction ws with
  | nil => exact fun m tg a _ => rfl
  | cons w ws ih =>
    intro m tg a h
    rw [List.length_cons] at h
    rw [Memory.putWords, ih _ _ _ (by omega), Memory.byte_setWord_other _ _ (by omega)]

theorem Memory.tag_putWords_other (ws : List PWord) {x : Nat} : ∀ (m : List Host.Cell) (tg : Tab Bool) (a : Nat), x < a / 4 →
    Tab.get false (Memory.putWords m tg a ws).2 x = Tab.get false tg x := by
  induction ws with
  | nil => exact fun m tg a _ => rfl
  | cons w ws ih =>
    intro m tg a h
    rw [Memory.putWords, ih _ _ _ (by omega), Tab.get_set_other _ _ _ _ (by omega)]

/-- Words put in place read back, with their tags. -/
theorem Memory.putWords_read (ws : List PWord) : ∀ (m : List Host.Cell) (tg : Tab Bool) (a i : Nat) (w : PWord), ws[i]? = some w →
    Memory.word (Memory.putWords m tg a ws).1 (a + 4 * i) = w.val ∧ Tab.get false (Memory.putWords m tg a ws).2 (a / 4 + i) = w.poison := by
  induction ws with
  | nil => exact fun m tg a i w h => by simp at h
  | cons v ws ih =>
    intro m tg a i w h
    cases i with
    | zero =>
      obtain rfl : v = w := by simpa using h
      rw [Memory.putWords]
      constructor
      · rw [Memory.word_congr fun j hj => Memory.byte_putWords_other ws _ _ _ (by omega)]
        exact Memory.word_setWord_same ..
      · rw [Memory.tag_putWords_other ws _ _ _ (by omega)]
        exact Tab.get_set_same ..
    | succ i =>
      rw [Memory.putWords, show a + 4 * (i + 1) = a + 4 + 4 * i by omega, show a / 4 + (i + 1) = (a + 4) / 4 + i by omega]
      exact ih _ _ _ i w (by simpa using h)

/-! ## T2 through a frame -/

theorem t2SetWord_tiers (s : State) (p a : Nat) (w : PWord) : t2SetWord s p a w = { s with tiers := (t2SetWord s p a w).tiers } := by
  unfold t2SetWord
  split
  · rfl
  · split <;> rfl

theorem t2Write_tiers (ws : List PWord) : ∀ (s : State) (p a : Nat), t2Write s p a ws = { s with tiers := (t2Write s p a ws).tiers } := by
  induction ws with
  | nil => exact fun s p a => rfl
  | cons w ws ih =>
    intro s p a
    rw [t2Write, ih, t2SetWord_tiers]

/-- T2 with other contents. -/
def State.withT2 (s : State) (c : List Host.Cell × Tab Bool) : State := { s with tiers := { s.tiers with mem := c.1, tag := c.2 } }

/-- Where T2 keeps an address of a frame. -/
def t2Place (f a : Nat) : Nat := f * frameBytes + a % frameBytes

theorem t2SetWord_frame {s : State} {p f a : Nat} (w : PWord) (hf : frameOf s p a = some f) (hd : frameDead s f = false) :
    t2SetWord s p a w = s.withT2 (Memory.setWord s.tiers.mem (t2Place f a) w.val, Tab.set false s.tiers.tag (t2Place f a / 4) w.poison) := by
  unfold t2SetWord
  rw [hf]
  exact if_neg (Bool.eq_false_iff.mp hd)

theorem t2Place_add {f a n : Nat} (h : a % frameBytes + n < frameBytes) : t2Place f (a + n) = t2Place f a + n := by
  simp only [t2Place, frameBytes] at h ⊢
  omega

theorem frameOf_add (s : State) (p : Nat) {a n : Nat} (h : a % frameBytes + n < frameBytes) : frameOf s p (a + n) = frameOf s p a := by
  rw [frameOf, frameOf, show (a + n) / frameBytes = a / frameBytes by simp only [frameBytes] at h ⊢; omega]

theorem frameOf_withT2 (s : State) (p a : Nat) (c : List Host.Cell × Tab Bool) : frameOf (s.withT2 c) p a = frameOf s p a := rfl

theorem frameDead_withT2 (s : State) (f : Nat) (c : List Host.Cell × Tab Bool) : frameDead (s.withT2 c) f = frameDead s f := rfl

/-- Words within one live frame: where T2 holds them. -/
theorem t2Write_frame {p f : Nat} (ws : List PWord) : ∀ (s : State) (a : Nat), frameOf s p a = some f → frameDead s f = false →
    a % frameBytes + 4 * ws.length ≤ frameBytes →
    t2Write s p a ws = s.withT2 (Memory.putWords s.tiers.mem s.tiers.tag (t2Place f a) ws) := by
  induction ws with
  | nil => exact fun s a _ _ _ => rfl
  | cons w ws ih =>
    intro s a hf hd hl
    have e1 := t2SetWord_frame w hf hd
    cases ws with
    | nil => exact e1
    | cons v ws =>
      rw [List.length_cons, List.length_cons] at hl
      have hn : a % frameBytes + 4 < frameBytes := by omega
      have hm : (a + 4) % frameBytes = a % frameBytes + 4 := by
        simp only [frameBytes] at hn ⊢
        omega
      rw [t2Write, e1, ih]
      · rw [t2Place_add hn]
        rfl
      · rw [frameOf_withT2, frameOf_add s p hn, hf]
      · exact hd
      · rw [hm, List.length_cons]
        omega

/-- A word just written in a live frame reads back. -/
theorem t2Word_t2Write {s : State} {p f a : Nat} {ws : List PWord} (hf : frameOf s p a = some f) (hd : frameDead s f = false)
    (hl : a % frameBytes + 4 * ws.length ≤ frameBytes) {i : Nat} {w : PWord} (hw : ws[i]? = some w) :
    t2Word (t2Write s p a ws) p (a + 4 * i) = w := by
  have hi : i < ws.length := (List.getElem?_eq_some_iff.mp hw).1
  have hn : a % frameBytes + 4 * i < frameBytes := by omega
  obtain ⟨h1, h2⟩ := Memory.putWords_read ws s.tiers.mem s.tiers.tag (t2Place f a) i w hw
  rw [t2Write_frame ws s a hf hd hl]
  unfold t2Word
  rw [frameOf_withT2, frameOf_add s p hn, hf]
  dsimp only
  rw [frameDead_withT2, hd, if_neg Bool.false_ne_true]
  show PWord.mk (Memory.word _ (t2Place f (a + 4 * i))) (Tab.get false _ (t2Place f (a + 4 * i) / 4)) = w
  rw [t2Place_add hn, show (t2Place f a + 4 * i) / 4 = t2Place f a / 4 + i by omega]
  exact congrArg₂ PWord.mk h1 h2

theorem t2Write_byte_other {s : State} {p f a : Nat} {ws : List PWord} (hf : frameOf s p a = some f) (hd : frameDead s f = false)
    (hl : a % frameBytes + 4 * ws.length ≤ frameBytes) {b : Nat} (hb : b < t2Place f a ∨ t2Place f a + 4 * ws.length ≤ b) :
    Memory.byte (t2Write s p a ws).tiers.mem b = Memory.byte s.tiers.mem b := by
  rw [t2Write_frame ws s a hf hd hl]
  exact Memory.byte_putWords_other ws _ _ _ hb

end Sys2Proof.Machine
end

section
/-! PROOFS. Predictor slices: deliveries, passes, records and reports (O26). -/

namespace Sys2Proof.Machine

open Sys2Proof.Claims

/-! ## Layer slots of a slice -/

theorem entryOk_congr {v w : Nat → Word} (h : ∀ i, i < 16 → v i = w i) : entryOk v = entryOk w := by
  simp only [entryOk, h 0 (by decide), h 1 (by decide), h 2 (by decide), h 3 (by decide), h 4 (by decide), h 6 (by decide), h 7 (by decide),
    h 8 (by decide), h 12 (by decide), h 13 (by decide), h 14 (by decide), h 15 (by decide)]

/-- A slot that is VALID has its fields in range. -/
def Slice.sound (x : Slice) (m : Nat) : Prop := x.valid m = true → entryOk (x.ent m) = true

theorem Slice.refuseSlot_form (x : Slice) (n : Nat) : x.refuseSlot n = { x with sram := (x.refuseSlot n).sram } := by
  unfold Slice.refuseSlot
  split <;> rfl

theorem Slice.refuseSlot_byte (x : Slice) {n b : Nat} (h : b < 64 * n ∨ 64 * n + 4 ≤ b) :
    Memory.byte (x.refuseSlot n).sram b = Memory.byte x.sram b := by
  unfold Slice.refuseSlot
  split
  · exact Memory.byte_setWord_other _ _ h
  · rfl

theorem Slice.refuseSlot_ent (x : Slice) {n m i : Nat} (h : 64 * m + 4 * i + 4 ≤ 64 * n ∨ 64 * n + 4 ≤ 64 * m + 4 * i) :
    (x.refuseSlot n).ent m i = x.ent m i :=
  Memory.word_congr fun _ hj => x.refuseSlot_byte (by omega)

theorem Slice.refuseSlot_sound_same (x : Slice) (n : Nat) : (x.refuseSlot n).sound n := by
  unfold Slice.refuseSlot
  split
  · intro hv
    have he : (Slice.mk (Memory.setWord x.sram (64 * n) (x.ent n 0 &&& ~~~(bits 31 31))) x.tag x.slots x.computing x.writing x.inbox x.outq x.unacked).ent n 0 =
        x.ent n 0 &&& ~~~(bits 31 31) := Memory.word_setWord_same ..
    rw [Slice.valid, he, BitVec.getLsbD_and, BitVec.getLsbD_not, show (bits 31 31).getLsbD 31 = true by decide] at hv
    simp at hv
  · next h =>
    intro hv
    rw [Bool.and_eq_true, Bool.not_eq_true', not_and, Bool.not_eq_false] at h
    exact h hv

theorem Slice.refuseSlot_sound {x : Slice} {m : Nat} (h : x.sound m) (n : Nat) : (x.refuseSlot n).sound m := by
  by_cases hn : n = m
  · subst hn
    exact x.refuseSlot_sound_same n
  · have he (i : Nat) (hi : i < 16) : (x.refuseSlot n).ent m i = x.ent m i := x.refuseSlot_ent (by omega)
    intro hv
    rw [entryOk_congr he]
    refine h ?_
    rw [Slice.valid, ← he 0 (by decide)]
    exact hv

theorem Slice.refuse_foldl_form (l : List Nat) : ∀ x : Slice, l.foldl Slice.refuseSlot x = { x with sram := (l.foldl Slice.refuseSlot x).sram } := by
  induction l with
  | nil => exact fun x => rfl
  | cons n l ih =>
    intro x
    rw [List.foldl_cons, ih, x.refuseSlot_form]

theorem Slice.refuse_foldl_byte {b : Nat} (l : List Nat) (h : ∀ n ∈ l, b < 64 * n ∨ 64 * n + 4 ≤ b) : ∀ x : Slice,
    Memory.byte (l.foldl Slice.refuseSlot x).sram b = Memory.byte x.sram b := by
  induction l with
  | nil => exact fun x => rfl
  | cons n l ih =>
    intro x
    rw [List.foldl_cons, ih fun i hi => h i (List.mem_cons_of_mem _ hi)]
    exact x.refuseSlot_byte (h n List.mem_cons_self)

theorem Slice.refuse_foldl_sound {m : Nat} (l : List Nat) : ∀ x : Slice, m ∈ l ∨ x.sound m → (l.foldl Slice.refuseSlot x).sound m := by
  induction l with
  | nil => exact fun x h => h.resolve_left List.not_mem_nil
  | cons n l ih =>
    intro x h
    refine ih _ ?_
    rcases h with h | h
    · rcases List.mem_cons.mp h with rfl | h
      · exact .inr (x.refuseSlot_sound_same m)
      · exact .inl h
    · exact .inr (Slice.refuseSlot_sound h n)

theorem mem_slotsTouched {a n m : Nat} : m ∈ slotsTouched a n ↔ m < 64 ∧ 64 * m < a + n ∧ a < 64 * m + 64 := by
  simp [slotsTouched]

/-! ## The start of a pass -/

theorem Slice.tryStart_form (x : Slice) (n : Nat) : x.tryStart n = { x with slots := (x.tryStart n).slots, computing := (x.tryStart n).computing } := by
  unfold Slice.tryStart
  dsimp only
  split <;> rfl

theorem Slice.slot_setSlot (x : Slice) (n m : Nat) (t : SliceSlot) : (x.setSlot n t).slot m = if m = n then t else x.slot m := Tab.get_put ..

/-- A slot whose inputs have not all come does not start. -/
theorem Slice.tryStart_waits {x : Slice} {n : Nat} (h : (x.slot n).inputs < fld (x.ent n 1) 7 0) : x.tryStart n = x := if_pos (.inr (.inl h))

/-- A slot with its inputs and with no pass of its own open, in computation or being written starts its pass. -/
theorem Slice.tryStart_starts {x : Slice} {n : Nat} (h0 : fld (x.ent n 1) 7 0 ≠ 0) (hi : fld (x.ent n 1) 7 0 ≤ (x.slot n).inputs)
    (hc : x.computing.contains n = false) (ho : (x.slot n).opens = []) (hw : x.writing = []) (hv : x.valid n = true) :
    x.tryStart n = { x.setSlot n { x.slot n with inputs := (x.slot n).inputs - fld (x.ent n 1) 7 0 } with computing := x.computing ++ [n] } := by
  refine if_neg fun h => ?_
  rcases h with h | h | h | h | h
  · exact h0 h
  · exact Nat.not_lt_of_le hi h
  · exact Bool.false_ne_true (hc.symm.trans h)
  · rw [ho, hw] at h
    exact Nat.not_succ_le_zero 1 h
  · exact Bool.false_ne_true (h.symm.trans hv)

/-! ## Deliveries -/

/-- The memory and tags of a slice after a delivery of words at a. -/
def Slice.delivered (x : Slice) (r : List Packet) (a : Nat) (ws : List PWord) : Slice :=
  { x with inbox := r, sram := (Memory.putWords x.sram x.tag a (ws.take ((2 ^ 21 - a) / 4))).1,
           tag := (Memory.putWords x.sram x.tag a (ws.take ((2 ^ 21 - a) / 4))).2 }

/-- One more input counted for slot n. -/
def Slice.counted (x : Slice) (n : Nat) : Slice := (x.setSlot n { x.slot n with inputs := (x.slot n).inputs + 1 }).tryStart n

/-- A slice after a delivery that is not ignored, `counts` saying whether it is an input of slot n. -/
def Slice.taken (x : Slice) (r : List Packet) (a n : Nat) (ws : List PWord) (counts : Bool) : Slice :=
  let y := (slotsTouched a (4 * ws.length)).foldl Slice.refuseSlot (x.delivered r a ws)
  if counts then y.counted n else y

theorem execSliceInputDelivery_ignored {s : State} {f : Field} {p : Packet} {r : List Packet} (hi : (s.slice f.val).inbox = p :: r)
    (hb : badAtSlice p = false) (ht : hType p.hdr.val = 1) (he : hTapEn p.hdr.val = true) (hv : (s.slice f.val).valid (hTap p.hdr.val).val = false) :
    exec (.sliceInputDelivery f) s = .next (sendAck (s.setSlice f.val { s.slice f.val with inbox := r }) p none) := by
  show execSliceInputDelivery f s = _
  simp only [execSliceInputDelivery, hi, hb, ht, he, hv]
  rfl

theorem execSliceInputDelivery_taken {s : State} {f : Field} {p : Packet} {r : List Packet} (hi : (s.slice f.val).inbox = p :: r)
    (hb : badAtSlice p = false) (ht : hType p.hdr.val = 1) (he : hTapEn p.hdr.val = false ∨ (s.slice f.val).valid (hTap p.hdr.val).val = true) :
    let n := (hTap p.hdr.val).val
    let a := 4 * fld p.hdr.val 15 0
    exec (.sliceInputDelivery f) s = .next (sendAck (s.setSlice f.val ((s.slice f.val).taken r a n p.pay
      (hTapEn p.hdr.val && (s.slice f.val).intoInput n a (4 * p.pay.length)))) p none) := by
  intro n a
  have hg : (hTapEn p.hdr.val && !(s.slice f.val).valid (hTap p.hdr.val).val) = false := by
    rcases he with h | h <;> simp [h]
  show execSliceInputDelivery f s = _
  simp only [execSliceInputDelivery, hi, hb, ht, hg, Bool.false_eq_true, if_false, ne_eq, not_true, Bool.not_false, Bool.and_true]
  rfl

/-- What a slice's new contents and the ACK leave alone. -/
theorem sliceTaken_rest (s : State) (f : Nat) (y : Slice) (p : Packet) :
    let t := sendAck (s.setSlice f y) p none
    t = { s with slices := t.slices, routers := t.routers, acks := t.acks, draws := t.draws } ∧ t.slice f = y ∧ ∀ g, g ≠ f → t.slice g = s.slice g := by
  intro t
  have h : AckWork (s.setSlice f y) t := sendAck_ackWork ..
  refine ⟨?_, ?_, fun g hg => ?_⟩
  · rw [h]
    rfl
  · rw [h]
    exact Tab.get_put_same ..
  · rw [h]
    exact Tab.get_put_other _ _ _ hg

/-- Layer entries lie below the first 4 KiB, out of reach of a delivery beyond it. -/
theorem Slice.delivered_ent (x : Slice) (r : List Packet) {a : Nat} (ws : List PWord) (ha : 4096 ≤ a) {m i : Nat} (hm : m < 64) (hi : i < 16) :
    (x.delivered r a ws).ent m i = x.ent m i :=
  Memory.word_congr fun _ hj => Memory.byte_putWords_other _ _ _ _ (.inl (by omega))

theorem slotsTouched_high {a n : Nat} (ha : 4096 ≤ a) : slotsTouched a n = [] :=
  List.eq_nil_iff_forall_not_mem.mpr fun m hm => by
    obtain ⟨h1, -, h2⟩ := mem_slotsTouched.mp hm
    omega

theorem Slice.counted_form (x : Slice) (n : Nat) : x.counted n = { x with slots := (x.counted n).slots, computing := (x.counted n).computing } := by
  rw [Slice.counted, Slice.tryStart_form]
  rfl

/-- The contents of a slice after a delivery: the same whether it is counted or not. -/
theorem Slice.taken_form (x : Slice) (r : List Packet) (a n : Nat) (ws : List PWord) (counts : Bool) :
    let y := (slotsTouched a (4 * ws.length)).foldl Slice.refuseSlot (x.delivered r a ws)
    x.taken r a n ws counts = { x with inbox := r, sram := y.sram, tag := (x.delivered r a ws).tag, slots := (x.taken r a n ws counts).slots,
                                       computing := (x.taken r a n ws counts).computing } := by
  intro y
  have hy : y = { x.delivered r a ws with sram := y.sram } := Slice.refuse_foldl_form ..
  unfold Slice.taken
  dsimp only
  split
  · rw [Slice.counted_form]
    show Slice.mk _ _ _ _ _ _ _ _ = _
    rw [show (slotsTouched a (4 * ws.length)).foldl Slice.refuseSlot (x.delivered r a ws) = y from rfl, hy]
    rfl
  · rw [show (slotsTouched a (4 * ws.length)).foldl Slice.refuseSlot (x.delivered r a ws) = y from rfl, hy]
    rfl

theorem Slice.taken_uncounted (x : Slice) (r : List Packet) (a n : Nat) (ws : List PWord) :
    (x.taken r a n ws false).slots = x.slots ∧ (x.taken r a n ws false).computing = x.computing := by
  have hy : x.taken r a n ws false = _ := Slice.refuse_foldl_form (slotsTouched a (4 * ws.length)) (x.delivered r a ws)
  rw [hy]
  exact ⟨rfl, rfl⟩

/-- A delivery beyond the layer entries, counted for slot n. -/
theorem Slice.taken_counted (x : Slice) (r : List Packet) {a : Nat} (n : Nat) (ws : List PWord) (ha : 4096 ≤ a) :
    x.taken r a n ws true = (x.delivered r a ws).counted n := by
  unfold Slice.taken
  rw [slotsTouched_high ha]
  rfl

theorem Slice.counted_waits {x : Slice} {n : Nat} (h : (x.slot n).inputs + 1 < fld (x.ent n 1) 7 0) :
    ((x.counted n).slot n).inputs = (x.slot n).inputs + 1 ∧ (x.counted n).computing = x.computing := by
  have hs : (x.setSlot n { x.slot n with inputs := (x.slot n).inputs + 1 }).slot n = { x.slot n with inputs := (x.slot n).inputs + 1 } :=
    (x.slot_setSlot n n _).trans (if_pos rfl)
  rw [Slice.counted, Slice.tryStart_waits (by rw [hs]; exact h), hs]
  exact ⟨rfl, rfl⟩

theorem Slice.counted_starts {x : Slice} {n : Nat} (h0 : fld (x.ent n 1) 7 0 ≠ 0) (hi : fld (x.ent n 1) 7 0 ≤ (x.slot n).inputs + 1)
    (hc : x.computing.contains n = false) (ho : (x.slot n).opens = []) (hw : x.writing = []) (hv : x.valid n = true) :
    ((x.counted n).slot n).inputs = (x.slot n).inputs + 1 - fld (x.ent n 1) 7 0 ∧ (x.counted n).computing = x.computing ++ [n] := by
  let y := x.setSlot n { x.slot n with inputs := (x.slot n).inputs + 1 }
  have hs : y.slot n = { x.slot n with inputs := (x.slot n).inputs + 1 } := (x.slot_setSlot n n _).trans (if_pos rfl)
  have h := Slice.tryStart_starts (x := y) (n := n) h0 (by rw [hs]; exact hi) hc (by rw [hs]; exact ho) hw hv
  have hy : (y.tryStart n).slot n = { y.slot n with inputs := (y.slot n).inputs - fld (y.ent n 1) 7 0 } := by
    rw [h]
    exact (y.slot_setSlot n n _).trans (if_pos rfl)
  rw [show x.counted n = y.tryStart n from rfl, hy, h, hs]
  exact ⟨rfl, rfl⟩

theorem delivery_taken {s : State} {f : Field} {p : Packet} {r : List Packet} :
    let x := s.slice f.val
    let a := 4 * fld p.hdr.val 15 0
    let n := (hTap p.hdr.val).val
    let t0 := x.slot n
    let cnt := fld (x.ent n 1) 7 0
    let len := 4 * p.pay.length
    let into := x.intoInput n a len
    x.inbox = p :: r → badAtSlice p = false → hType p.hdr.val = 1 →
    hTapEn p.hdr.val = false ∨ x.valid n = true → Nexts (.sliceInputDelivery f) s (fun t =>
      t = { s with slices := t.slices, routers := t.routers, acks := t.acks, draws := t.draws } ∧ (∀ g, g ≠ f.val → t.slice g = s.slice g) ∧
      (t.slice f.val).inbox = r ∧ (t.slice f.val).writing = x.writing ∧
      (4096 ≤ a → ∀ i w, p.pay[i]? = some w → a + 4 * i + 4 ≤ 2 ^ 21 →
        Memory.word (t.slice f.val).sram (a + 4 * i) = w.val ∧ Tab.get false (t.slice f.val).tag (a / 4 + i) = w.poison) ∧
      (∀ b, b < a ∨ a + len ≤ b → 4096 ≤ b ∨ b / 64 * 64 + 64 ≤ a ∨ a + len ≤ b / 64 * 64 →
        Memory.byte (t.slice f.val).sram b = Memory.byte x.sram b) ∧
      (∀ m, m < 64 → 64 * m < a + len → a < 64 * m + 64 → (t.slice f.val).valid m = true → entryOk ((t.slice f.val).ent m) = true) ∧
      (hTapEn p.hdr.val = false ∨ into = false → (t.slice f.val).slots = x.slots ∧ (t.slice f.val).computing = x.computing) ∧
      (hTapEn p.hdr.val = true → into = true → 4096 ≤ a → t0.inputs + 1 < cnt →
        ((t.slice f.val).slot n).inputs = t0.inputs + 1 ∧ (t.slice f.val).computing = x.computing) ∧
      (hTapEn p.hdr.val = true → into = true → 4096 ≤ a → cnt ≠ 0 → cnt ≤ t0.inputs + 1 → x.computing.contains n = false → t0.opens = [] →
        x.writing = [] → ((t.slice f.val).slot n).inputs = t0.inputs + 1 - cnt ∧ (t.slice f.val).computing = x.computing ++ [n])) := by
  intro x a n t0 cnt len into hi hb ht he
  refine ⟨_, execSliceInputDelivery_taken hi hb ht he, ?_⟩
  let counts := hTapEn p.hdr.val && into
  let y := (slotsTouched a len).foldl Slice.refuseSlot (x.delivered r a p.pay)
  have hn : n < 64 := (hTap p.hdr.val).isLt
  obtain ⟨h1, h2, h3⟩ := sliceTaken_rest s f.val (x.taken r a n p.pay counts) p
  have hf := x.taken_form r a n p.pay counts
  have hsram : (x.taken r a n p.pay counts).sram = y.sram := by rw [hf]
  have htag : (x.taken r a n p.pay counts).tag = (x.delivered r a p.pay).tag := by rw [hf]
  beta_reduce
  rw [h2]
  refine ⟨h1, h3, by rw [hf], by rw [hf], fun ha i w hw hl => ?_, fun b hb ho => ?_, fun m hm hm1 hm2 => ?_, fun hc => ?_, fun hc hc' ha hl => ?_,
    fun hc hc' ha hcnt hl hcm hop hwr => ?_⟩
  · have hy : y = x.delivered r a p.pay := by
      show List.foldl _ _ (slotsTouched a len) = _
      rw [slotsTouched_high ha]
      rfl
    rw [hsram, htag, hy]
    refine Memory.putWords_read (p.pay.take ((2 ^ 21 - a) / 4)) x.sram x.tag a i w ?_
    rw [List.getElem?_take_of_lt (by omega)]
    exact hw
  · have hlen : (p.pay.take ((2 ^ 21 - a) / 4)).length ≤ p.pay.length := List.length_take_le' _ _
    rw [hsram, show y.sram = _ from rfl, Slice.refuse_foldl_byte _ fun i hi => ?_]
    · exact Memory.byte_putWords_other _ _ _ _ (by omega)
    · obtain ⟨h4, h5, h6⟩ := mem_slotsTouched.mp hi
      omega
  · have hs : y.sound m := Slice.refuse_foldl_sound _ _ (.inl (mem_slotsTouched.mpr ⟨hm, hm1, hm2⟩))
    have hent : (x.taken r a n p.pay counts).ent m = y.ent m := by
      unfold Slice.ent
      rw [hsram]
    rw [Slice.valid, hent]
    exact hs
  · have h0 : counts = false := by rcases hc with h | h <;> simp [counts, h]
    rw [h0]
    exact x.taken_uncounted r a n p.pay
  · have h0 : counts = true := by simp [counts, hc, hc']
    rw [h0, Slice.taken_counted x r n p.pay ha]
    exact Slice.counted_waits (by rw [x.delivered_ent r p.pay ha hn (by decide)]; exact hl)
  · have h0 : counts = true := by simp [counts, hc, hc']
    have hv : x.valid n = true := he.resolve_left (by simp [hc])
    have hent (i : Nat) (h : i < 16) : (x.delivered r a p.pay).ent n i = x.ent n i := x.delivered_ent r p.pay ha hn h
    have hst := Slice.counted_starts (x := x.delivered r a p.pay) (n := n) (by rw [hent 1 (by decide)]; exact hcnt) (by rw [hent 1 (by decide)]; exact hl)
      hcm hop hwr (by rw [Slice.valid, hent 0 (by decide)]; exact hv)
    rw [hent 1 (by decide)] at hst
    rw [h0, Slice.taken_counted x r n p.pay ha]
    exact hst

/-! ## The end of a computation -/

/-- A slice when the pass of slot n, first in computation, is computed (R169 to R172). -/
def Slice.computed (x : Slice) (n : Nat) (rest : List Nat) : Slice :=
  let cur := (x.audited n (x.named n)).2
  let w6 := (x.ent n 6 &&& ~~~(bits 27 16)) ||| BitVec.ofNat 32 (cur * 2 ^ 16)
  let op : OpenPass := ⟨x.passNo n, x.groups n, (x.audited n (x.named n)).1, [], 0, []⟩
  let rec' : MaskRec := ⟨n, maskRecord (x.passNo n) (x.named n) (x.audited n (x.named n)).1 cur, op⟩
  (({ x with computing := rest, writing := x.writing ++ [rec'],
             sram := Memory.setWord (Memory.setWord x.sram (64 * n + 24) w6) (64 * n + 44) (x.passNo n + 1) } : Slice).setSlot n (x.slot n)).tryStart n

theorem execPassComputeDone_eq {s : State} {f : Field} {n : Nat} {rest : List Nat} (h : (s.slice f.val).computing = n :: rest) :
    exec (.passComputeDone f) s = .next (s.setSlice f.val ((s.slice f.val).computed n rest)) := by
  show execPassComputeDone f s = _
  simp only [execPassComputeDone, h]
  rfl

theorem Slice.audited_lt (x : Slice) (n : Nat) (named : List Nat) : (x.audited n named).2 < 4096 := by
  have hg : x.groups n ≤ 4096 := by
    have := fld_lt (x.ent n 0) 27 16
    simp only [Slice.groups]
    omega
  unfold Slice.audited
  dsimp only
  split
  · exact Nat.lt_of_lt_of_le (Nat.mod_lt _ (Nat.succ_pos _)) hg
  · exact fld_lt (x.ent n 6) 27 16

/-- A field of bits 27 to 16 put into a word. -/
theorem fld_cursor (w : Word) {c : Nat} (hc : c < 4096) : fld ((w &&& ~~~(bits 27 16)) ||| BitVec.ofNat 32 (c * 2 ^ 16)) 27 16 = c := by
  have hc' : BitVec.ofNat 32 (c * 2 ^ 16) = BitVec.ofNat 32 c <<< 16 := by
    apply BitVec.eq_of_toNat_eq
    simp only [BitVec.toNat_shiftLeft, BitVec.toNat_ofNat, Nat.shiftLeft_eq]
    omega
  have hb : fld ((w &&& ~~~(bits 27 16)) ||| BitVec.ofNat 32 (c * 2 ^ 16)) 27 16 =
      (((w &&& ~~~(bits 27 16)) ||| BitVec.ofNat 32 (c * 2 ^ 16)).extractLsb' 16 12).toNat := by
    simp [fld, BitVec.extractLsb'_toNat, Nat.shiftRight_eq_div_pow]
  rw [hb]
  have he : ((w &&& ~~~(bits 27 16)) ||| BitVec.ofNat 32 (c * 2 ^ 16)).extractLsb' 16 12 = BitVec.ofNat 12 c := by
    rw [hc']
    apply BitVec.eq_of_getLsbD_eq
    intro i hi
    have hm : (bits 27 16).getLsbD (16 + i) = true := by
      rw [show bits 27 16 = 0x0FFF0000#32 by decide]
      interval_cases i <;> rfl
    simp only [BitVec.getLsbD_extractLsb', hi, decide_true, Bool.true_and, BitVec.getLsbD_or, BitVec.getLsbD_and, BitVec.getLsbD_not,
      hm, Bool.not_true, Bool.and_false, Bool.false_or, BitVec.getLsbD_shiftLeft, BitVec.getLsbD_ofNat]
    simp only [show 16 + i < 32 by omega, show ¬ 16 + i < 16 by omega, Nat.add_sub_cancel_left, decide_true, decide_false, Bool.true_and,
      Bool.not_false, show i < 32 by omega]
  rw [he, BitVec.toNat_ofNat, Nat.mod_eq_of_lt hc]

theorem passComputed (s : State) (f : Field) (n : Nat) (rest : List Nat) :
    let x := s.slice f.val
    x.computing = n :: rest →
      Nexts (.passComputeDone f) s (fun t => t = { s with slices := t.slices } ∧ (∀ g, g ≠ f.val → t.slice g = s.slice g) ∧
        (t.slice f.val).passNo n = x.passNo n + 1 ∧ (t.slice f.val).cursor n = (x.audited n (x.named n)).2 ∧
        ∃ o : OpenPass, o.num = x.passNo n ∧ o.groups = x.groups n ∧ o.audit = (x.audited n (x.named n)).1 ∧ o.miss = [] ∧ o.lasts = [] ∧
          (t.slice f.val).writing = x.writing ++ [⟨n, maskRecord (x.passNo n) (x.named n) o.audit (x.audited n (x.named n)).2, o⟩]) := by
  intro x h
  refine ⟨_, execPassComputeDone_eq h, rfl, fun g hg => Tab.get_put_other _ _ _ hg, ?_⟩
  rw [show (s.setSlice f.val (x.computed n rest)).slice f.val = x.computed n rest from Tab.get_put_same ..]
  let w6 := (x.ent n 6 &&& ~~~(bits 27 16)) ||| BitVec.ofNat 32 ((x.audited n (x.named n)).2 * 2 ^ 16)
  have hs : (x.computed n rest).sram = Memory.setWord (Memory.setWord x.sram (64 * n + 24) w6) (64 * n + 44) (x.passNo n + 1) := by
    rw [Slice.computed, Slice.tryStart_form]
    rfl
  refine ⟨?_, ?_, ⟨x.passNo n, x.groups n, (x.audited n (x.named n)).1, [], 0, []⟩, rfl, rfl, rfl, rfl, rfl, ?_⟩
  · rw [Slice.passNo, Slice.ent, hs]
    exact Memory.word_setWord_same ..
  · rw [Slice.cursor, Slice.ent, hs, Memory.word_setWord_other _ _ (by omega), show 64 * n + 4 * 6 = 64 * n + 24 by omega, Memory.word_setWord_same]
    exact fld_cursor _ (x.audited_lt n _)
  · rw [Slice.computed, Slice.tryStart_form]
    rfl

/-! ## Packets a slice sends -/

/-- t differs from s only in the packets of slice f, the tracks of routers and the count of free values. -/
structure SliceSent (f : Nat) (s t : State) : Prop where
  rest : t = { s with slices := t.slices, routers := t.routers, draws := t.draws }
  others : ∀ g, g ≠ f → t.slice g = s.slice g
  this : t.slice f = { s.slice f with outq := (t.slice f).outq, unacked := (t.slice f).unacked }

theorem SliceSent.trans {f : Nat} {s t u : State} (h : SliceSent f s t) (g : SliceSent f t u) : SliceSent f s u where
  rest := by rw [g.rest, h.rest]
  others := fun i hi => (g.others i hi).trans (h.others i hi)
  this := by rw [g.this, h.this]

theorem slice_setSlice_same (s : State) (f : Nat) (y : Slice) : (s.setSlice f y).slice f = y := Tab.get_put_same ..

theorem slice_setSlice_other (s : State) {f g : Nat} (y : Slice) (h : g ≠ f) : (s.setSlice f y).slice g = s.slice g := Tab.get_put_other _ _ _ h

theorem SliceSent.set (s : State) (f : Nat) (o : List (Nat × List TWord)) (u : Tab Nat) :
    SliceSent f s (s.setSlice f { s.slice f with outq := o, unacked := u }) where
  rest := rfl
  others := fun _ hg => Tab.get_put_other _ _ _ hg
  this := by rw [slice_setSlice_same]

theorem SliceSent.of_slices {f : Nat} {s t : State} (h : t = { s with routers := t.routers, draws := t.draws }) : SliceSent f s t := by
  have hs (g : Nat) : t.slice g = s.slice g := by
    rw [h]
    rfl
  refine ⟨?_, fun g _ => hs g, by rw [hs]⟩
  rw [h]

theorem sliceFlush_sent (f k : Nat) (l : List (Nat × List TWord)) : ∀ (s : State) (kept : List (Nat × List TWord)), SliceSent f s (sliceFlush s f k l kept) := by
  induction l with
  | nil => exact fun s kept => .set s f kept (s.slice f).unacked
  | cons o l ih =>
    intro s kept
    rw [sliceFlush]
    dsimp only
    split
    · exact ih ..
    · exact (SliceSent.set s f (s.slice f).outq _).trans ((SliceSent.of_slices rfl).trans (ih ..))

theorem sliceAdvance_sent (s : State) (f : Nat) (chime : BitVec 16) : SliceSent f s (sliceAdvance s f chime) := by
  have hrun (u : State) : SliceSent f u (sliceRun u f) := by
    unfold sliceRun
    split
    · exact sliceFlush_sent ..
    · exact .of_slices rfl
  unfold sliceAdvance drawNat
  dsimp only
  exact (SliceSent.of_slices (t := { s with draws := s.draws + 1 }) rfl).trans ((SliceSent.set _ f _ (s.slice f).unacked).trans (hrun _))

/-- The CHIME packet that a slice with nothing held back sends on a route it has free (R213). -/
theorem sliceAdvance_packet {s : State} {f k : Nat} (chime : BitVec 16) (hk : sliceRouter s f = some k) (ho : (s.slice f).outq = [])
    (hu : ∀ n, Tab.get 0 (s.slice f).unacked n < 16) :
    let t := sliceAdvance s f chime
    ∃ n ws, n < 256 ∧ Tab.get [] (t.router k).inq 19 = Tab.get [] (s.router k).inq 19 ++ ws ∧
      Tab.get 0 (t.slice f).unacked n = Tab.get 0 (s.slice f).unacked n + 1 ∧ ws.map (·.w.val) = [header 3 none 0, chimeWord 0 0 chime, 1] := by
  intro t
  let n := Config.freeNat s.draws % 256
  let g : Ghost := ⟨.slice (Fin.ofNat 84 f), BitVec.ofNat 8 n, 3⟩
  let ws : List TWord := [⟨⟨header 3 none 0, false⟩, some g⟩, ⟨⟨chimeWord 0 0 chime, false⟩, none⟩, ⟨⟨1, false⟩, none⟩]
  let s0 : State := { s with draws := s.draws + 1 }
  let s1 := s0.setSlice f { s.slice f with outq := [(n, ws)] }
  have h1 : s1.slice f = { s.slice f with outq := [(n, ws)] } := slice_setSlice_same ..
  let s2 := s1.setSlice f { s1.slice f with unacked := Tab.set 0 (s1.slice f).unacked n (Tab.get 0 (s1.slice f).unacked n + 1) }
  have h2 : s2.slice f = { s.slice f with outq := [(n, ws)], unacked := Tab.set 0 (s.slice f).unacked n (Tab.get 0 (s.slice f).unacked n + 1) } :=
    (slice_setSlice_same ..).trans (by rw [h1])
  let s3 := pushTrack s2 k 19 ws
  have h3 : s3.slice f = s2.slice f := rfl
  have e1 : t = sliceFlush s1 f k (s1.slice f).outq [] := by
    have hr : t = sliceRun (s0.setSlice f { s.slice f with outq := (s.slice f).outq ++ [(n, ws)] }) f := rfl
    rw [hr, ho]
    unfold sliceRun
    rw [show sliceRouter (s0.setSlice f { s.slice f with outq := [] ++ [(n, ws)] }) f = some k from hk]
    rfl
  have e2 : t = s3.setSlice f { s3.slice f with outq := [] } := by
    have hc : ([] : List (Nat × List TWord)).any (fun x => x.1 == n) = false ∧ ¬ 16 ≤ Tab.get 0 (s1.slice f).unacked n := by
      rw [h1]
      exact ⟨rfl, Nat.not_le_of_lt (hu n)⟩
    rw [e1, h1]
    show sliceFlush s1 f k [(n, ws)] [] = _
    rw [sliceFlush]
    dsimp only
    rw [if_neg (by simp [hc.2])]
    rfl
  have ht : t.slice f = { s2.slice f with outq := [] } := by
    rw [e2]
    exact slice_setSlice_same ..
  refine ⟨n, ws, Nat.mod_lt _ (by decide), ?_, ?_, rfl⟩
  · rw [e2]
    exact (inq_pushTrack s2 k 19 ws k 19).trans (congrArg _ (if_pos ⟨rfl, rfl⟩))
  · rw [ht, h2]
    exact Tab.get_set_same 0 (s.slice f).unacked n (Tab.get 0 (s.slice f).unacked n + 1)

/-! ## Records and reports -/

/-- A pass that awaits reports stays open. -/
theorem passClose_waits {s : State} {f n : Nat} {o : OpenPass} {r : List OpenPass} (ho : ((s.slice f).slot n).opens = o :: r)
    (hl : o.lasts.length < ((s.slice f).ent n 10).toNat) (k : Nat) : passClose s f n (k + 1) = s := by
  rw [passClose]
  simp only [ho]
  rw [if_pos hl]

theorem SliceSent.sram {f : Nat} {s t : State} (h : SliceSent f s t) : (t.slice f).sram = (s.slice f).sram ∧ (t.slice f).slots = (s.slice f).slots ∧
    (t.slice f).writing = (s.slice f).writing := by
  rw [h.this]
  exact ⟨rfl, rfl, rfl⟩

/-- Slot n once its record, the only one of a slot with no pass open, is written. -/
def slotOpened (t : SliceSlot) (o : OpenPass) : SliceSlot :=
  { t with opens := t.opens ++ [{ o with dropped := t.dropped }], early := [], dropped := 0 }

theorem execMaskRecordWritten_eq {s : State} {f : Field} {m : MaskRec} {rest : List MaskRec} (h : (s.slice f.val).writing = m :: rest)
    (he : ((s.slice f.val).slot m.slot).early = []) :
    let x := s.slice f.val
    let q := partOfField s f.val
    let a := x.recAddr m.slot m.pass.num
    let y : Slice := ({ x with writing := rest } : Slice).setSlot m.slot (slotOpened (x.slot m.slot) m.pass)
    let s1 := (s.setSlice f.val { x with writing := rest }).setSlice f.val y
    exec (.maskRecordWritten f) s = .next (passClose (sliceAdvance (t2Write (t2Touch s1 q a 2048) q a (clean m.words)) f.val
      (BitVec.ofNat 16 (fld (x.ent m.slot 9) 15 0))) f.val m.slot 3) := by
  intro x q a y s1
  show execMaskRecordWritten f s = _
  simp only [execMaskRecordWritten, h, he, List.foldl_nil]
  rw [slice_setSlice_same]
  rfl

/-- Words written to T2 after the access is counted: only T2, registers and reports change. -/
theorem t2Put_form (s : State) (q a n : Nat) (ws : List PWord) : let t := t2Write (t2Touch s q a n) q a ws
    t = { s with tiers := t.tiers, regs := t.regs, rings := t.rings, recent := t.recent, out := t.out } := by
  intro t
  have h : OnlyReports s (t2Touch s q a n) := t2Touch_onlyReports ..
  have h3 : t = { t2Touch s q a n with tiers := t.tiers } := t2Write_tiers ..
  rw [h3, h]

/-- What the write of a record and its advance leave of the other slices, of the cores and of the chimes. -/
theorem recordPut_kept (s : State) (f q a n : Nat) (ws : List PWord) (ch : BitVec 16) :
    let t := sliceAdvance (t2Write (t2Touch s q a n) q a ws) f ch
    SliceSent f { s with tiers := t.tiers, regs := t.regs, rings := t.rings, recent := t.recent, out := t.out } t := by
  intro t
  have h3 := t2Put_form s q a n ws
  have ht : SliceSent f (t2Write (t2Touch s q a n) q a ws) t := sliceAdvance_sent ..
  have e : t2Write (t2Touch s q a n) q a ws = { s with tiers := t.tiers, regs := t.regs, rings := t.rings, recent := t.recent, out := t.out } := by
    rw [ht.rest]
    exact h3
  rw [← e]
  exact ht

/-- The words of a record put in a live frame, and the packet that tells of it. -/
theorem recordPut_words {s : State} {f q a fr n : Nat} {ws : List PWord} (ch : BitVec 16) (hf : frameOf s q a = some fr) (hd : frameDead s fr = false)
    (hl : a % frameBytes + 4 * ws.length ≤ frameBytes) :
    let t := sliceAdvance (t2Write (t2Touch s q a n) q a ws) f ch
    (∀ i w, ws[i]? = some w → t2Word t q (a + 4 * i) = w) ∧
      ∀ b, b < t2Place fr a ∨ t2Place fr a + 4 * ws.length ≤ b → Memory.byte t.tiers.mem b = Memory.byte s.tiers.mem b := by
  intro t
  let s2 := t2Touch s q a n
  have h2 : OnlyReports s s2 := t2Touch_onlyReports ..
  have hf2 : frameOf s2 q a = some fr := by rw [h2]; exact hf
  have hd2 : frameDead s2 fr = false := by rw [h2]; exact hd
  have ht : SliceSent f (t2Write s2 q a ws) t := sliceAdvance_sent ..
  have htm : t.tiers = (t2Write s2 q a ws).tiers := by rw [ht.rest]
  have hm2 : s2.tiers = s.tiers := by rw [h2]
  refine ⟨fun i w hw => ?_, fun b hb => ?_⟩
  · rw [← t2Word_t2Write hf2 hd2 hl hw, ht.rest]
    rfl
  · rw [htm, t2Write_byte_other hf2 hd2 hl hb, hm2]

theorem recordPut_packet {s : State} {f q a n k : Nat} (ws : List PWord) (ch : BitVec 16) (hk : sliceRouter s f = some k) (ho : (s.slice f).outq = [])
    (hu : ∀ n, Tab.get 0 (s.slice f).unacked n < 16) :
    let t := sliceAdvance (t2Write (t2Touch s q a n) q a ws) f ch
    ∃ n ws, n < 256 ∧ Tab.get [] (t.router k).inq 19 = Tab.get [] (s.router k).inq 19 ++ ws ∧
      Tab.get 0 (t.slice f).unacked n = Tab.get 0 (s.slice f).unacked n + 1 ∧ ws.map (·.w.val) = [header 3 none 0, chimeWord 0 0 ch, 1] := by
  intro t
  let s3 := t2Write (t2Touch s q a n) q a ws
  have h3 : s3 = { s with tiers := s3.tiers, regs := s3.regs, rings := s3.rings, recent := s3.recent, out := s3.out } := t2Put_form ..
  have hs : s3.slice f = s.slice f := by rw [h3]; rfl
  have hr : s3.router k = s.router k := by rw [h3]; rfl
  have hk3 : sliceRouter s3 f = some k := by rw [h3]; exact hk
  have h := sliceAdvance_packet ch hk3 (by rw [hs]; exact ho) (by rw [hs]; exact hu)
  rw [hr, hs] at h
  exact h

theorem recordWritten (s : State) (f : Field) (m : MaskRec) (rest : List MaskRec) (fr : Nat) :
    let x := s.slice f.val
    let q := partOfField s f.val
    let a := x.recAddr m.slot m.pass.num
    x.writing = m :: rest → (x.slot m.slot).opens = [] → (x.slot m.slot).early = [] → m.pass.lasts = [] → 0 < (x.ent m.slot 10).toNat →
    a % 2048 = 0 → frameOf s q a = some fr → frameDead s fr = false → m.words.length ≤ 512 →
      Nexts (.maskRecordWritten f) s (fun t => (t.slice f.val).writing = rest ∧ ((t.slice f.val).slot m.slot).opens = [{ m.pass with dropped := (x.slot m.slot).dropped }] ∧
        (∀ g, g ≠ f.val → t.slice g = s.slice g) ∧ t.cores = s.cores ∧ t.chimes = s.chimes ∧
        (∀ k, sliceRouter s f.val = some k → x.outq = [] → (∀ n, Tab.get 0 x.unacked n < 16) → ∃ n ws, n < 256 ∧
          Tab.get [] (t.router k).inq 19 = Tab.get [] (s.router k).inq 19 ++ ws ∧ Tab.get 0 (t.slice f.val).unacked n = Tab.get 0 x.unacked n + 1 ∧
          ws.map (·.w.val) = [header 3 none 0, chimeWord 0 0 (BitVec.ofNat 16 (fld (x.ent m.slot 9) 15 0)), 1]) ∧ (∀ i w, m.words[i]? = some w → t2Word t q (a + 4 * i) = ⟨w, false⟩) ∧
        (∀ b, (∀ i, i < m.words.length → b / 4 ≠ (fr * frameBytes + a % frameBytes) / 4 + i) → Memory.byte t.tiers.mem b = Memory.byte s.tiers.mem b)) := by
  intro x q a h ho he hl h10 ha hf hd hw
  let y : Slice := ({ x with writing := rest } : Slice).setSlot m.slot (slotOpened (x.slot m.slot) m.pass)
  let s1 := (s.setSlice f.val { x with writing := rest }).setSlice f.val y
  let ch : BitVec 16 := BitVec.ofNat 16 (fld (x.ent m.slot 9) 15 0)
  let t := sliceAdvance (t2Write (t2Touch s1 q a 2048) q a (clean m.words)) f.val ch
  let s4 : State := { s1 with tiers := t.tiers, regs := t.regs, rings := t.rings, recent := t.recent, out := t.out }
  have ht : SliceSent f.val s4 t := recordPut_kept s1 f.val q a 2048 (clean m.words) ch
  have hy1 : s1.slice f.val = y := slice_setSlice_same _ f.val y
  have hy : s4.slice f.val = y := hy1
  have hothers (g : Nat) (hg : g ≠ f.val) : s4.slice g = s.slice g :=
    (slice_setSlice_other _ y hg).trans (slice_setSlice_other s _ hg)
  obtain ⟨hsram, hslots, hwr⟩ := ht.sram
  have hopen : ((t.slice f.val).slot m.slot).opens = [{ m.pass with dropped := (x.slot m.slot).dropped }] := by
    rw [Slice.slot, hslots, hy]
    show (y.slot m.slot).opens = _
    rw [show y.slot m.slot = _ from (Slice.slot_setSlot ..).trans (if_pos rfl), slotOpened, ho]
    rfl
  have hpc : passClose t f.val m.slot 3 = t := by
    refine passClose_waits hopen ?_ 2
    rw [Slice.ent, hsram, hy]
    show m.pass.lasts.length < (x.ent m.slot 10).toNat
    rw [hl]
    exact h10
  have hlen : a % frameBytes + 4 * (clean m.words).length ≤ frameBytes := by
    simp only [clean, List.length_map, frameBytes]
    omega
  obtain ⟨hwords, hbytes⟩ := recordPut_words (s := s1) (f := f.val) (n := 2048) ch hf hd hlen
  refine ⟨t, (execMaskRecordWritten_eq h he).trans (congrArg _ hpc), ?_, hopen, fun g hg => (ht.others g hg).trans (hothers g hg), ?_, ?_,
    fun k hk hoq hun => ?_, fun i w hiw => hwords i _ (by simp [clean, hiw]), fun b hb => hbytes b ?_⟩
  · rw [hwr, hy]
    rfl
  · rw [ht.rest]
    rfl
  · rw [ht.rest]
    rfl
  · have h := recordPut_packet (s := s1) (q := q) (a := a) (n := 2048) (clean m.words) ch hk (by rw [hy1]; exact hoq) (by rw [hy1]; exact hun)
    rw [hy1] at h
    exact h
  · have h4 : t2Place fr a % 4 = 0 := by
      simp only [t2Place, frameBytes]
      omega
    rw [clean, List.length_map]
    by_contra hc
    exact hb ((b - t2Place fr a) / 4) (by omega) (by change b / 4 = t2Place fr a / 4 + _; omega)

/-- A report given to an open pass, its LAST and its MISS taken apart (R175). -/
theorem OpenPass.report_spec (o : OpenPass) (src : Option Node) (w : Word) :
    (o.report src w).lasts = o.lasts ++ (if w.getLsbD 31 then [src] else []) ∧
      (if w.getLsbD 30 then
         (if fld w 11 0 ∈ o.audit ∧ fld w 11 0 < o.groups then
            (o.report src w).dropped = o.dropped ∧ ∀ g, g ∈ (o.report src w).miss ↔ g ∈ o.miss ∨ g = fld w 11 0
          else (o.report src w).dropped = o.dropped + 1 ∧ (o.report src w).miss = o.miss)
       else (o.report src w).dropped = o.dropped ∧ (o.report src w).miss = o.miss) := by
  have hmiss (g : Nat) (l : List Nat) : ∀ j, j ∈ (if l.contains g then l else l ++ [g]) ↔ j ∈ l ∨ j = g := by
    intro j
    split
    · next h =>
      have hm : g ∈ l := List.contains_iff_mem.mp h
      exact ⟨.inl, fun hj => hj.elim id fun hj => hj ▸ hm⟩
    · simp
  unfold OpenPass.report
  by_cases h30 : w.getLsbD 30 = true
  · by_cases hg : fld w 11 0 ∈ o.audit ∧ fld w 11 0 < o.groups
    · have hc : (o.audit.contains (fld w 11 0) && decide (fld w 11 0 < o.groups)) = true := by simp [hg]
      rw [if_pos h30, if_pos hg]
      simp only [h30, hc, if_true]
      cases w.getLsbD 31
      · exact ⟨(List.append_nil _).symm, rfl, hmiss (fld w 11 0) o.miss⟩
      · exact ⟨rfl, rfl, hmiss (fld w 11 0) o.miss⟩
    · have hc : (o.audit.contains (fld w 11 0) && decide (fld w 11 0 < o.groups)) = false := by
        rw [Bool.eq_false_iff]
        simpa using hg
      rw [if_pos h30, if_neg hg]
      simp only [h30, hc, if_true, if_false, Bool.false_eq_true]
      cases w.getLsbD 31
      · exact ⟨(List.append_nil _).symm, rfl, rfl⟩
      · exact ⟨rfl, rfl, rfl⟩
  · simp only [h30, if_false, Bool.false_eq_true]
    cases w.getLsbD 31
    · exact ⟨(List.append_nil _).symm, rfl, rfl⟩
    · exact ⟨rfl, rfl, rfl⟩

theorem execPu_eq {s : State} {f : Field} {p : Packet} {r : List Packet} {w : PWord} {ws : List PWord} (hi : (s.slice f.val).inbox = p :: r)
    (hb : badAtSlice p = false) (ht : hType p.hdr.val = 5) (hp : p.pay = w :: ws) :
    let n := fld w.val 29 24
    let s1 := sendAck (s.setSlice f.val { s.slice f.val with inbox := r }) p none
    let x := s1.slice f.val
    exec (.pu f) s = .next (if !x.valid n then s1
      else passClose (s1.setSlice f.val (x.setSlot n ((x.slot n).report (p.hd.map (·.src)) w.val))) f.val n 3) := by
  intro n s1 x
  show execPu f s = _
  simp only [execPu, hi, hb, ht, hp, Bool.false_eq_true, if_false, ne_eq, not_true]
  by_cases hv : (!x.valid n) = true
  · exact (if_pos hv).trans (congrArg _ (if_pos hv).symm)
  · exact (if_neg hv).trans (congrArg _ (if_neg hv).symm)

theorem SliceSlot.report_open {t : SliceSlot} {o : OpenPass} (h : t.opens = [o]) {src : Option Node} (hs : o.lasts.contains src = false) (w : Word) :
    t.report src w = { t with opens := [o.report src w] } := by
  unfold SliceSlot.report
  rw [h]
  simp only [hs, Bool.not_false, if_true]

theorem reportTaken (s : State) (f : Field) (p : Packet) (r : List Packet) (w : PWord) (ws : List PWord) (o : OpenPass) :
    let x := s.slice f.val
    let n := fld w.val 29 24
    x.inbox = p :: r → badAtSlice p = false → hType p.hdr.val = 5 → p.pay = w :: ws →
    (x.valid n = false → Nexts (.pu f) s (fun t => t = { s with slices := t.slices, routers := t.routers, acks := t.acks, draws := t.draws } ∧
      t.slice f.val = { x with inbox := r } ∧ ∀ g, g ≠ f.val → t.slice g = s.slice g)) ∧
    (x.valid n = true → (x.slot n).opens = [o] → o.lasts.length + 1 < (x.ent n 10).toNat → o.lasts.contains (p.hd.map (·.src)) = false →
      Nexts (.pu f) s (fun t => t = { s with slices := t.slices, routers := t.routers, acks := t.acks, draws := t.draws } ∧ (t.slice f.val).inbox = r ∧
        (∀ g, g ≠ f.val → t.slice g = s.slice g) ∧ (t.slice f.val).sram = x.sram ∧ ∃ o', ((t.slice f.val).slot n).opens = [o'] ∧
        o'.lasts = o.lasts ++ (if w.val.getLsbD 31 then [p.hd.map (·.src)] else []) ∧
        (if w.val.getLsbD 30 then
           (if fld w.val 11 0 ∈ o.audit ∧ fld w.val 11 0 < o.groups then
              o'.dropped = o.dropped ∧ ∀ g, g ∈ o'.miss ↔ g ∈ o.miss ∨ g = fld w.val 11 0
            else o'.dropped = o.dropped + 1 ∧ o'.miss = o.miss)
         else o'.dropped = o.dropped ∧ o'.miss = o.miss))) := by
  intro x n hi hb ht hp
  have he := execPu_eq hi hb ht hp
  let s1 := sendAck (s.setSlice f.val { x with inbox := r }) p none
  obtain ⟨h1, h2, h3⟩ := sliceTaken_rest s f.val { x with inbox := r } p
  have hx : s1.slice f.val = { x with inbox := r } := h2
  have hvx : (s1.slice f.val).valid n = x.valid n := by rw [hx]; rfl
  refine ⟨fun hv => ⟨s1, he.trans (congrArg _ (if_pos ?_)), h1, h2, h3⟩, fun hv ho hl hs => ?_⟩
  · show (!(s1.slice f.val).valid n) = true
    rw [hvx, hv]
    rfl
  · let src := p.hd.map (·.src)
    let y : Slice := ({ x with inbox := r } : Slice).setSlot n { x.slot n with opens := [o.report src w.val] }
    let t := s1.setSlice f.val y
    obtain ⟨hlast, hrep⟩ := o.report_spec src w.val
    have hy : t.slice f.val = y := slice_setSlice_same ..
    have hslot : y.slot n = { x.slot n with opens := [o.report src w.val] } := (Slice.slot_setSlot ..).trans (if_pos rfl)
    have hpc : passClose t f.val n 3 = t := by
      refine passClose_waits (o := o.report src w.val) (r := []) (by rw [hy, hslot]) ?_ 2
      rw [hy, hlast, List.length_append]
      show _ < (x.ent n 10).toNat
      split
      · exact hl
      · exact Nat.lt_of_succ_lt hl
    refine ⟨t, he.trans (congrArg _ ((if_neg ?_).trans ?_)), ?_, ?_, fun g hg => ?_, ?_, o.report src w.val, ?_, hlast, hrep⟩
    · show ¬ (!(s1.slice f.val).valid n) = true
      rw [hvx, hv]
      exact Bool.false_ne_true
    · rw [hx]
      show passClose (s1.setSlice f.val (({ x with inbox := r } : Slice).setSlot n ((x.slot n).report src w.val))) f.val n 3 = t
      rw [SliceSlot.report_open ho hs]
      exact hpc
    · show { s1 with slices := _ } = _
      rw [show s1 = _ from h1]
      rfl
    · rw [hy]
      rfl
    · exact (slice_setSlice_other _ y hg).trans (h3 g hg)
    · rw [hy]
      rfl
    · rw [hy, hslot]

theorem delivery_ignored {s : State} {f : Field} {p : Packet} {r : List Packet} :
    let x := s.slice f.val
    x.inbox = p :: r → badAtSlice p = false → hType p.hdr.val = 1 → hTapEn p.hdr.val = true → x.valid (hTap p.hdr.val).val = false →
      Nexts (.sliceInputDelivery f) s (fun t => t = { s with slices := t.slices, routers := t.routers, acks := t.acks, draws := t.draws } ∧
        t.slice f.val = { x with inbox := r } ∧ ∀ g, g ≠ f.val → t.slice g = s.slice g) := by
  intro x hi hb ht he hv
  exact ⟨_, execSliceInputDelivery_ignored hi hb ht he hv, sliceTaken_rest ..⟩

/-- Settles O26: deliveries, the end of a computation, a record written, and reports. -/
theorem predictorSlices : Obligations.PredictorSlices :=
  ⟨fun _ _ _ _ hi hb ht => ⟨delivery_ignored hi hb ht, delivery_taken hi hb ht⟩, passComputed, recordWritten, reportTaken⟩

end Sys2Proof.Machine
end

section
/-! PROOFS. T2 stacks: fills, OFFLINE, ONLINE, copies and scrubs (O27). -/

namespace Sys2Proof.Machine

open Sys2Proof.Claims

/-! ## Ranges of a table removed -/

theorem Tab.find_filter {α : Type} (t : Tab α) (f : Nat → Bool) (k : Nat) :
    Tab.find (t.filter (fun e => f e.1)) k = if f k then Tab.find t k else none := by
  induction t with
  | nil => simp [Tab.find]
  | cons e t ih =>
    obtain ⟨i, a⟩ := e
    by_cases hi : f i = true
    · rw [List.filter_cons_of_pos (p := fun e : Nat × α => f e.1) hi, Tab.find, Tab.find, ih]
      by_cases hk : i = k
      · subst hk
        simp [hi]
      · simp [hk]
    · rw [List.filter_cons_of_neg (p := fun e : Nat × α => f e.1) hi, ih, Tab.find]
      by_cases hk : i = k
      · subst hk
        simp [hi]
      · simp [hk]

theorem Memory.get_clear {α : Type} (d : α) (t : Tab α) (lo hi x : Nat) :
    Tab.get d (Memory.clear t lo hi) x = if lo ≤ x ∧ x < hi then d else Tab.get d t x := by
  have h := Tab.find_filter t (fun i => decide (i < lo ∨ hi ≤ i)) x
  rw [Tab.get, show Tab.find (Memory.clear t lo hi) x = _ from h]
  by_cases hx : lo ≤ x ∧ x < hi
  · rw [if_pos hx, if_neg (by simp; omega)]
    rfl
  · rw [if_neg hx, if_pos (by simp; omega)]
    rfl

theorem Memory.byte_clear (m : List Host.Cell) (lo hi x : Nat) :
    Memory.byte (Memory.clear m lo hi) x = if lo ≤ x ∧ x < hi then 0 else Memory.byte m x := Memory.get_clear ..

theorem zeroFrame_byte (s : State) (f b : Nat) :
    Memory.byte (zeroFrame s f).tiers.mem b = if b / frameBytes = f then 0 else Memory.byte s.tiers.mem b := by
  refine (Memory.byte_clear ..).trans ?_
  have h : (f * frameBytes ≤ b ∧ b < (f + 1) * frameBytes) ↔ b / frameBytes = f := by
    simp only [frameBytes]
    omega
  simp only [h]

/-! ## Stacks -/

theorem stackState_setStack (s : State) (n st k : Nat) : stackState (setStack s n st) k = if k = n then st else stackState s k := Tab.get_set ..

theorem frameFill (s : State) (f : Nat) :
    if s.tiers.fills.contains f then Nexts (.frameFillDone f) s (fun t => t = { s with tiers := t.tiers } ∧ t.tiers.stack = s.tiers.stack ∧
      f ∉ t.tiers.fills ∧ (∀ g, g ≠ f → (g ∈ t.tiers.fills ↔ g ∈ s.tiers.fills)) ∧
      ∀ b, Memory.byte t.tiers.mem b = if b / frameBytes = f then 0 else Memory.byte s.tiers.mem b)
    else exec (.frameFillDone f) s = .next s := by
  split
  · refine ⟨_, if_pos ‹_›, rfl, rfl, ?_, fun g hg => ?_, zeroFrame_byte s f⟩
    · simp [zeroFrame]
    · simp [zeroFrame, hg]
  · exact if_neg ‹_›

/-- Why an OFFLINE command is refused (R251). -/
def offlineRefused (s : State) (n : Nat) : Prop :=
  23 < n ∨ stackState s n ≠ 0 ∨ ((List.range 24).filter (· != n)).any (fun k => stackState s k != 0) = true ∨
    (((List.range 24).filter (· != n)).map (fun k => (freeFrames s k).length)).sum < (framesOn s n).length

theorem stackOffline_refused {s : State} {n : Nat} (h : offlineRefused s n) : stackOffline s n = regOr s 0 0 0x60010C 0x80000000 := if_pos h

theorem stackOffline_starts {s : State} {n : Nat} (h : ¬ offlineRefused s n) :
    stackOffline s n = migrateNext (setStack s n 1) n (framesOn s n) n := if_neg h

/-- The end of a migration (R240, R252). -/
theorem migrateNext_end (s : State) (n last : Nat) :
    let t := migrateNext s n [] last
    t = { s with tiers := t.tiers, regs := t.regs } ∧ (∀ k, stackState t k = if k = n then 2 else stackState s k) ∧ t.tiers.migr = none ∧
      (∀ f ∈ t.tiers.fills, frameStack f ≠ n) ∧ (regGet t 0 0 0x60010C).getLsbD 30 = true ∧
      ∀ b, Memory.byte t.tiers.mem b = if b / 2 ^ 36 = n then 0 else Memory.byte s.tiers.mem b := by
  intro t
  refine ⟨rfl, fun k => ?_, rfl, fun f hf => ?_, ?_, fun b => ?_⟩
  · exact Tab.get_set 3 s.tiers.stack n k 2
  · have h := (List.mem_filter.mp (show f ∈ s.tiers.fills.filter (fun f => frameStack f != n) from hf)).2
    exact bne_iff_ne.mp h
  · show (regGet (regOr _ 0 0 0x60010C (bits 30 30)) 0 0 0x60010C).getLsbD 30 = true
    rw [regOr, regGet_regSet_same, BitVec.getLsbD_or, show (bits 30 30).getLsbD 30 = true by decide, Bool.or_true]
  · refine (Memory.byte_clear ..).trans ?_
    have h : (n * 2 ^ 36 ≤ b ∧ b < n * 2 ^ 36 + 2 ^ 36) ↔ b / 2 ^ 36 = n := by omega
    simp only [h]

/-- A migration with frames still to copy. -/
theorem migrateNext_next (s : State) (n last : Nat) {fs : List Nat} (h : fs ≠ []) :
    let t := migrateNext s n fs last
    t = { s with tiers := { s.tiers with migr := t.tiers.migr } } ∧ ∃ m, t.tiers.migr = some m ∧ m.stack = n ∧ m.frames = fs := by
  intro t
  cases fs with
  | nil => exact absurd rfl h
  | cons f fs => exact ⟨rfl, _, rfl, rfl, rfl⟩

theorem offline_online (s : State) (n : BitVec 5) :
    let refused := exec (.stackOffline n) s = .next (regOr s 0 0 0x60010C 0x80000000)
    let others := (List.range 24).filter (· != n.toNat)
    (23 < n.toNat ∨ stackState s n.toNat ≠ 0 ∨ (∃ k ∈ others, stackState s k ≠ 0) ∨
      (others.map (fun k => (freeFrames s k).length)).sum < (framesOn s n.toNat).length → refused) ∧
    (n.toNat ≤ 23 → stackState s n.toNat = 0 → (∀ k ∈ others, stackState s k = 0) →
      (framesOn s n.toNat).length ≤ (others.map (fun k => (freeFrames s k).length)).sum →
      Nexts (.stackOffline n) s (fun t => t = { s with tiers := t.tiers, regs := t.regs } ∧ (∀ k, k ≠ n.toNat → stackState t k = stackState s k) ∧
        (framesOn s n.toNat = [] → stackState t n.toNat = 2 ∧ t.tiers.migr = none ∧ (∀ f ∈ t.tiers.fills, frameStack f ≠ n.toNat) ∧ (regGet t 0 0 0x60010C).getLsbD 30 = true ∧
          ∀ b, Memory.byte t.tiers.mem b = if b / 2 ^ 36 = n.toNat then 0 else Memory.byte s.tiers.mem b) ∧
        (framesOn s n.toNat ≠ [] → stackState t n.toNat = 1 ∧ t.tiers.mem = s.tiers.mem ∧
          ∃ m, t.tiers.migr = some m ∧ m.stack = n.toNat ∧ m.frames = framesOn s n.toNat))) ∧
    (if n.toNat ≤ 23 ∧ stackState s n.toNat = 2 ∧ n.toNat ∉ s.tiers.failed then
       Nexts (.stackOnline n) s (fun t => t = { s with tiers := t.tiers } ∧ t.tiers.mem = s.tiers.mem ∧
         ∀ k, stackState t k = if k = n.toNat then 0 else stackState s k)
     else exec (.stackOnline n) s = .next (regOr s 0 0 0x60010C 0x80000000)) := by
  intro refused others
  have hany : others.any (fun k => stackState s k != 0) = true ↔ ∃ k ∈ others, stackState s k ≠ 0 := by simp
  have e : exec (.stackOffline n) s = .next (stackOffline s n.toNat) := rfl
  refine ⟨fun h => ?_, fun hn h0 hk hf => ⟨_, e, ?_⟩, ?_⟩
  · refine e.trans (congrArg _ (stackOffline_refused ?_))
    rw [← hany] at h
    exact h
  · have hr : ¬ offlineRefused s n.toNat := by
      rintro (h | h | h | h)
      · omega
      · exact h h0
      · obtain ⟨k, hm, hne⟩ := hany.mp h
        exact hne (hk k hm)
      · exact Nat.not_lt_of_le hf h
    rw [stackOffline_starts hr]
    have hset := stackState_setStack s n.toNat 1
    by_cases hfr : framesOn s n.toNat = []
    · rw [hfr]
      obtain ⟨h1, h2, h3, h4, h5, h6⟩ := migrateNext_end (setStack s n.toNat 1) n.toNat n.toNat
      refine ⟨h1, fun k hne => ?_, fun _ => ⟨(h2 _).trans (if_pos rfl), h3, h4, h5, h6⟩, fun h => absurd rfl h⟩
      rw [h2, if_neg hne, hset, if_neg hne]
    · obtain ⟨h1, h2⟩ := migrateNext_next (setStack s n.toNat 1) n.toNat n.toNat hfr
      have hst (k : Nat) : stackState (migrateNext (setStack s n.toNat 1) n.toNat (framesOn s n.toNat) n.toNat) k = stackState (setStack s n.toNat 1) k := by
        rw [h1]
        rfl
      refine ⟨?_, fun k hne => by rw [hst, hset, if_neg hne], fun h => absurd h hfr, fun _ => ⟨by rw [hst, hset, if_pos rfl], ?_, h2⟩⟩
      · rw [h1]
        rfl
      · rw [h1]
        rfl
  · have e2 : exec (.stackOnline n) s = .next (stackOnline s n.toNat) := rfl
    rw [e2, stackOnline]
    by_cases h : n.toNat ≤ 23 ∧ stackState s n.toNat = 2 ∧ n.toNat ∉ s.tiers.failed
    · obtain ⟨h1, h2, h3⟩ := h
      rw [if_pos ⟨h1, h2, h3⟩]
      refine ⟨_, e2.trans (congrArg _ (if_neg ?_)), rfl, rfl, stackState_setStack s n.toNat 0⟩
      simp [h2, h3]
      omega
    · rw [if_neg h, if_pos]
      · rfl
      · by_contra hc
        simp only [not_or, not_not, List.contains_iff_mem] at hc
        obtain ⟨h1, h2, h3⟩ := hc
        exact h ⟨Nat.le_of_not_lt h1, h2, h3⟩

/-! ## A frame copied -/

/-- One byte of the frame at address lo put at its place in the frame at address hi. -/
def putByte (lo hi : Nat) (t : List Host.Cell) (e : Host.Cell) : List Host.Cell :=
  if lo ≤ e.1 ∧ e.1 < lo + frameBytes then Tab.set 0 t (hi + (e.1 - lo)) e.2 else t

/-- Bytes outside the target frame stand. -/
theorem byte_putBytes_other {lo hi b : Nat} (hb : b < hi ∨ hi + frameBytes ≤ b) (l : List Host.Cell) : ∀ t : List Host.Cell,
    Memory.byte (l.foldl (putByte lo hi) t) b = Memory.byte t b := by
  induction l with
  | nil => exact fun t => rfl
  | cons e l ih =>
    intro t
    rw [List.foldl_cons, ih, putByte]
    split
    · exact Tab.get_set_other _ _ _ _ (by omega)
    · rfl

/-- Every byte listed of the frame stands at its place in the target. -/
theorem byte_putBytes {lo hi o : Nat} (ho : o < frameBytes) (l : List Host.Cell) (hl : Tab.sorted l = true) : ∀ t : List Host.Cell,
    Memory.byte (l.foldl (putByte lo hi) t) (hi + o) = (Tab.find l (lo + o)).getD (Memory.byte t (hi + o)) := by
  induction l with
  | nil => exact fun t => rfl
  | cons e l ih =>
    intro t
    obtain ⟨i, v⟩ := e
    obtain ⟨habove, hs⟩ := (Tab.sorted_cons i v l).mp hl
    rw [List.foldl_cons, ih hs, Tab.find]
    by_cases hi' : i = lo + o
    · subst hi'
      have hnone : Tab.find l (lo + o) = none := by
        cases hf : Tab.find l (lo + o) with
        | none => rfl
        | some w => exact absurd (habove _ (Tab.mem_find hf)) (Nat.lt_irrefl _)
      rw [hnone, if_pos rfl, putByte, if_pos ⟨by dsimp only; omega, by dsimp only; omega⟩, Nat.add_sub_cancel_left]
      exact Tab.get_set_same ..
    · rw [if_neg hi']
      congr 1
      unfold putByte
      split
      · next h => exact Tab.get_set_other _ _ _ _ (by dsimp only at h ⊢; omega)
      · rfl

/-- The contents of T2 after frame f has moved to frame g. -/
theorem moveFrame_bytes {s : State} {f g : Nat} (hw : Memory.wf s.tiers.mem = true) (hfg : f ≠ g) :
    (∀ o, o < frameBytes → Memory.byte (moveFrame s f g).tiers.mem (g * frameBytes + o) = Memory.byte s.tiers.mem (f * frameBytes + o)) ∧
      (∀ o, o < frameBytes → Memory.byte (moveFrame s f g).tiers.mem (f * frameBytes + o) = 0) ∧
      ∀ b, b / frameBytes ≠ f → b / frameBytes ≠ g → Memory.byte (moveFrame s f g).tiers.mem b = Memory.byte s.tiers.mem b := by
  let m0 := (zeroFrame s g).tiers.mem
  let m1 := m0.foldl (putByte (f * frameBytes) (g * frameBytes)) m0
  have hm (b : Nat) : Memory.byte (moveFrame s f g).tiers.mem b = if b / frameBytes = f then 0 else Memory.byte m1 b := zeroFrame_byte ..
  have h0 (b : Nat) : Memory.byte m0 b = if b / frameBytes = g then 0 else Memory.byte s.tiers.mem b := zeroFrame_byte ..
  have hd {f o : Nat} (ho : o < frameBytes) : (f * frameBytes + o) / frameBytes = f := by
    simp only [frameBytes] at ho ⊢
    omega
  have hsorted : Tab.sorted m0 = true := ((Tab.wf_iff (0 : Byte) _).mp (Memory.wf_clear _ _ _ hw)).1
  refine ⟨fun o ho => ?_, fun o ho => by rw [hm, if_pos (hd ho)], fun b hf hg => ?_⟩
  · rw [hm, hd ho, if_neg (Ne.symm hfg), byte_putBytes ho m0 hsorted, h0 (g * frameBytes + o), hd ho, if_pos rfl]
    show Memory.byte m0 (f * frameBytes + o) = _
    rw [h0, hd ho, if_neg hfg]
  · rw [hm, if_neg hf, byte_putBytes_other _ m0, h0, if_neg hg]
    simp only [frameBytes] at hg ⊢
    omega

/-- A migration's next copy, or its end, alters T2 only on the stack it empties. -/
theorem migrateNext_contents (s : State) (n last : Nat) (fs : List Nat) :
    let t := migrateNext s n fs last
    t = { s with tiers := t.tiers, regs := t.regs } ∧
      ∀ b, (b / 2 ^ 36 ≠ n ∨ Memory.byte s.tiers.mem b = 0) → Memory.byte t.tiers.mem b = Memory.byte s.tiers.mem b := by
  intro t
  by_cases h : fs = []
  · subst h
    obtain ⟨h1, -, -, -, -, h2⟩ := migrateNext_end s n last
    refine ⟨h1, fun b hb => (h2 b).trans ?_⟩
    by_cases hn : b / 2 ^ 36 = n
    · rw [if_pos hn]
      exact (hb.resolve_left (not_not_intro hn)).symm
    · rw [if_neg hn]
  · obtain ⟨h1, -⟩ := migrateNext_next s n last h
    have ht : t = _ := h1
    exact ⟨by rw [ht], fun b _ => by rw [ht]⟩

theorem frameCopied (s : State) (n : Fin 24) (m : Migration) (f g p i : Nat) (rest : List Nat) : s.tiers.migr = some m → m.stack = n.val → m.frames = f :: rest →
    m.target = some g → holderOf s f = some (p, i) → f ≠ g → frameStack g ≠ n.val → Memory.wf s.tiers.mem = true →
    Nexts (.frameCopyDone n) s (fun t => (t.part p).frames = (s.part p).frames.set i g ∧ (∀ q, q ≠ p → t.part q = s.part q) ∧
      (∀ o, o < frameBytes → Memory.byte t.tiers.mem (g * frameBytes + o) = Memory.byte s.tiers.mem (f * frameBytes + o)) ∧
      (∀ o, o < frameBytes → Memory.byte t.tiers.mem (f * frameBytes + o) = 0) ∧
      (∀ b, b / frameBytes ≠ f → b / frameBytes ≠ g → b / 2 ^ 36 ≠ n.val → Memory.byte t.tiers.mem b = Memory.byte s.tiers.mem b) ∧
      t.cores = s.cores ∧ t.streams = s.streams) := by
  intro hm hn hf hg hh hfg hst hw
  let s1 := moveFrame s f g
  let s2 := s1.setPart p { s1.part p with frames := (s1.part p).frames.set i g }
  let s3 := tierFault s2 p 2
  have e : exec (.frameCopyDone n) s = .next (migrateNext s3 m.stack rest (frameStack g)) := by
    show execFrameCopyDone n s = _
    simp only [execFrameCopyDone, hm, hn, hf, hg, hh, ne_eq, not_true, if_false]
    rfl
  rw [hn] at e
  obtain ⟨h1, h2⟩ := migrateNext_contents s3 n.val (frameStack g) rest
  obtain ⟨hto, hfrom, hother⟩ := moveFrame_bytes hw hfg
  refine ⟨_, e, ?_, fun q hq => ?_, fun o ho => ?_, fun o ho => ?_, fun b hbf hbg hbn => ?_, ?_, ?_⟩
  · rw [h1]
    exact congrArg Part.frames (Tab.get_put_same ..)
  · rw [h1]
    exact Tab.get_put_other _ _ _ hq
  · rw [h2]
    · exact hto o ho
    · left
      simp only [frameStack, frameBytes] at hst ho ⊢
      omega
  · rw [h2]
    · exact hfrom o ho
    · exact .inr (hfrom o ho)
  · rw [h2 b (.inl hbn)]
    exact hother b hbf hbg
  · rw [h1]
    rfl
  · rw [h1]
    rfl

/-! ## The scrub -/

/-- t differs from s in registers, reports and the tags of T2 only. -/
def ScrubWork (s t : State) : Prop :=
  t = { s with regs := t.regs, rings := t.rings, recent := t.recent, out := t.out, tiers := { s.tiers with tag := t.tiers.tag } }

theorem ScrubWork.trans {s t u : State} (h : ScrubWork s t) (g : ScrubWork t u) : ScrubWork s u := by
  unfold ScrubWork at *
  rw [g, h]

theorem OnlyReports.scrubWork {s t : State} (h : OnlyReports s t) : ScrubWork s t := by
  unfold ScrubWork
  rw [h]

theorem tagSet_foldl (u : Nat) (n : Nat) (t : Tab Bool) (x : Nat) :
    Tab.get false ((List.range n).foldl (fun t i => Tab.set false t (u + i) true) t) x = (Tab.get false t x || decide (u ≤ x ∧ x < u + n)) := by
  induction n with
  | zero =>
    rw [List.range_zero, List.foldl_nil, decide_eq_false (by omega), Bool.or_false]
  | succ n ih =>
    rw [List.range_succ, List.foldl_append, List.foldl_cons, List.foldl_nil, Tab.get_set, ih]
    by_cases hx : x = u + n
    · rw [if_pos hx, decide_eq_true (p := u ≤ x ∧ x < u + (n + 1)) (by omega), Bool.or_true]
    · rw [if_neg hx]
      congr 1
      exact decide_eq_decide.mpr (by omega)

/-- The reports of an uncorrectable unit at a, its tags set (R438). -/
def scrubReported (s : State) (a : Nat) : State :=
  match holderOf s (a / frameBytes) with
  | none => s
  | some (p, i) => reportP (cntAdd s p 0 0xD00040 1) 0x28 .unit 1 p (BitVec.ofNat 32 (168 + a / 2 ^ 36)) 2 (BitVec.ofNat 32 i)

theorem scrubReported_onlyReports (s : State) (a : Nat) : OnlyReports s (scrubReported s a) := by
  unfold scrubReported
  split
  · rfl
  · exact (OnlyReports.cntAdd ..).trans (OnlyReports.reportP ..)

/-- T2 with other tags. -/
def State.withTag (s : State) (t : Tab Bool) : State := { s with tiers := { s.tiers with tag := t } }

theorem withTag_scrubWork (s : State) (t : Tab Bool) : ScrubWork s (s.withTag t) := rfl

theorem scrubUe_spec (s : State) (a : Nat) : ScrubWork s (scrubUe s a) ∧
    ∀ u, Tab.get false (scrubUe s a).tiers.tag u = (Tab.get false s.tiers.tag u || decide (a / 64 = u / 16)) := by
  obtain ⟨t, ht, e⟩ : ∃ t, (∀ u, Tab.get false t u = (Tab.get false s.tiers.tag u || decide (a / 64 = u / 16))) ∧
      scrubUe s a = scrubReported (cntAdd (s.withTag t) 0 0 0xD01020 1) a :=
    ⟨(List.range 16).foldl (fun t i => Tab.set false t (a / 64 * 16 + i) true) s.tiers.tag,
      fun u => (tagSet_foldl ..).trans (congrArg _ (decide_eq_decide.mpr (by omega))), rfl⟩
  have h2 : OnlyReports (s.withTag t) (scrubUe s a) := by
    rw [e]
    exact (OnlyReports.cntAdd ..).trans (scrubReported_onlyReports ..)
  refine ⟨(withTag_scrubWork s t).trans h2.scrubWork, fun u => ?_⟩
  have htag : (scrubUe s a).tiers.tag = t := by
    rw [h2]
    rfl
  rw [htag, ht]

theorem scrubCe_onlyReports (s : State) (a : Nat) : OnlyReports s (scrubCe s a) := by
  unfold scrubCe
  dsimp only
  split
  · exact OnlyReports.cntAdd ..
  · exact (OnlyReports.cntAdd ..).trans (OnlyReports.cntAdd ..)

theorem scrubUe_foldl (l : List Nat) : ∀ s : State, ScrubWork s (l.foldl scrubUe s) ∧
    ∀ u, Tab.get false (l.foldl scrubUe s).tiers.tag u = (Tab.get false s.tiers.tag u || l.any (fun a => decide (a / 64 = u / 16))) := by
  induction l with
  | nil => exact fun s => ⟨rfl, fun u => (Bool.or_false _).symm⟩
  | cons a l ih =>
    intro s
    obtain ⟨h1, h2⟩ := scrubUe_spec s a
    obtain ⟨h3, h4⟩ := ih (scrubUe s a)
    exact ⟨h1.trans h3, fun u => by rw [List.foldl_cons, h4, h2, List.any_cons, Bool.or_assoc]⟩

theorem scrubbed (s : State) (n : Fin 24) (r : ScrubResult) :
    (stackState s n.val = 3 → exec (.t2Scrub n r) s = .next s) ∧
    (stackState s n.val ≠ 3 → Nexts (.t2Scrub n r) s (fun t => t = { Books s t with tiers := t.tiers } ∧ t.tiers = { s.tiers with tag := t.tiers.tag } ∧
      ∀ u, Tab.get false t.tiers.tag u = (Tab.get false s.tiers.tag u || r.ue.any (fun a => decide (a / 2 ^ 36 = n.val ∧ a / 64 = u / 16))))) := by
  refine ⟨fun h => if_pos h, fun h => ⟨_, if_neg h, ?_⟩⟩
  let here (a : Nat) : Bool := a / 2 ^ 36 == n.val
  let s1 := (r.ce.filter here).foldl scrubCe s
  have h1 : OnlyReports s s1 := .foldl scrubCe_onlyReports _ s
  obtain ⟨h2, h3⟩ := scrubUe_foldl (r.ue.filter here) s1
  have ht := h1.scrubWork.trans h2
  have htt : ((r.ue.filter here).foldl scrubUe s1).tiers = { s.tiers with tag := ((r.ue.filter here).foldl scrubUe s1).tiers.tag } := by rw [ht]
  refine ⟨?_, ?_, fun u => ?_⟩
  · show _ = { s with regs := _, rings := _, recent := _, out := _, tiers := _ }
    rw [htt]
    exact ht
  · exact htt
  · refine (h3 u).trans ?_
    have ht1 : s1.tiers = s.tiers := by rw [h1]
    rw [ht1, List.any_filter]
    congr 2
    funext a
    rw [Bool.decide_and]
    rfl

/-- Settles O27: fills, OFFLINE and ONLINE, a frame copied, the scrub. -/
theorem tierStacks : Obligations.TierStacks := ⟨frameFill, offline_online, frameCopied, scrubbed⟩

end Sys2Proof.Machine
end

section
/-! PROOFS. Counters of 64 bits and registers that an operation leaves alone. -/

namespace Sys2Proof.Machine

open Sys2Proof.Claims

/-! ## Registers that stand -/

/-- Every register at an offset reads in t as it does in s. -/
structure RegFixed (off : Nat) (s t : State) : Prop where
  same : ∀ fn idx, regGet t fn idx off = regGet s fn idx off

theorem RegFixed.refl (off : Nat) (s : State) : RegFixed off s s := ⟨fun _ _ => rfl⟩

theorem RegFixed.trans {off : Nat} {s t u : State} (h : RegFixed off s t) (g : RegFixed off t u) : RegFixed off s u :=
  ⟨fun fn idx => (g.same fn idx).trans (h.same fn idx)⟩

theorem RegFixed.of_regs {off : Nat} {s t : State} (h : t.regs = s.regs) : RegFixed off s t :=
  ⟨fun fn idx => by rw [regGet, h]; rfl⟩

theorem RegFixed.foldl {α : Type} {off : Nat} {f : State → α → State} (hf : ∀ s a, RegFixed off s (f s a)) (l : List α) (s : State) :
    RegFixed off s (l.foldl f s) := by
  induction l generalizing s with
  | nil => exact .refl off s
  | cons a l ih => exact (hf s a).trans (ih _)

theorem RegFixed.regSet {off off' : Nat} (s : State) (fn idx : Nat) (w : Word) (h : off < 2 ^ 26) (h' : off' < 2 ^ 26) (hne : off ≠ off') :
    RegFixed off s (regSet s fn idx off' w) :=
  ⟨fun fn' idx' => regGet_regSet_ne s fn idx fn' idx' w h' h hne⟩

theorem RegFixed.cntAdd {off off' : Nat} (s : State) (fn idx n : Nat) (h : off < 2 ^ 26) (h' : off' + 4 < 2 ^ 26) (hne : off ≠ off') (hne' : off ≠ off' + 4) :
    RegFixed off s (cntAdd s fn idx off' n) :=
  (RegFixed.regSet s fn idx _ h (by omega) hne).trans (RegFixed.regSet _ fn idx _ h h' hne')

theorem RegFixed.violate {off : Nat} (s : State) (p kind : Nat) (h : off < 0x200050 ∨ 0x200058 < off) (h' : off < 2 ^ 26) :
    RegFixed off s (violate s p kind) := by
  unfold Machine.violate
  split
  · exact .refl off s
  · exact (RegFixed.cntAdd s 0 p 1 h' (by decide) (by omega) (by omega)).trans (RegFixed.regSet _ 0 p _ h' (by decide) (by omega))

theorem RegFixed.reportTo {off : Nat} (h : off < 0xD00010 ∨ 0xD00034 < off) (h' : off < 2 ^ 26) (s : State) (fn code : Nat) (sc : Scope) (sev part : Nat)
    (loc v0 v1 : Word) : RegFixed off s (reportTo s fn code sc sev part loc v0 v1) := by
  unfold Machine.reportTo
  extract_lets key s' r ctl size head tail s1 ws base tail' s2 s3 s4
  have h1 : RegFixed off s s1 := .of_regs rfl
  have h4 : RegFixed off s s4 := .of_regs rfl
  repeat' split
  · exact .refl off s
  · exact h1.trans ((RegFixed.cntAdd s1 fn 0 1 h' (by decide) (by omega) (by omega)).trans (RegFixed.regSet _ fn 0 _ h' (by decide) (by omega)))
  · exact h4.trans ((RegFixed.regSet s4 fn 0 _ h' (by decide) (by omega)).trans (RegFixed.cntAdd _ fn 0 1 h' (by decide) (by omega) (by omega)))

theorem RegFixed.reportAll {off : Nat} (h : off < 0xD00010 ∨ 0xD00034 < off) (h' : off < 2 ^ 26) (s : State) (fns : List Nat) (code : Nat) (sc : Scope)
    (sev part : Nat) (loc v0 v1 : Word) : RegFixed off s (reportAll s fns code sc sev part loc v0 v1) := by
  unfold Machine.reportAll
  split
  · exact .refl off s
  · exact RegFixed.foldl (fun s fn => RegFixed.reportTo h h' s fn code sc sev part loc v0 v1) fns s

theorem RegFixed.reportP {off : Nat} (h : off < 0xD00010 ∨ 0xD00034 < off) (h' : off < 2 ^ 26) (s : State) (code : Nat) (sc : Scope)
    (sev p : Nat) (loc v0 v1 : Word) : RegFixed off s (reportP s code sc sev p loc v0 v1) := by
  unfold Machine.reportP
  split <;> exact RegFixed.reportAll h h' ..

theorem RegFixed.reg64 {off : Nat} {s t : State} (h : RegFixed off s t) (h' : RegFixed (off + 4) s t) (fn idx : Nat) : reg64 t fn idx off = reg64 s fn idx off := by
  rw [Machine.reg64, Machine.reg64, h.same, h'.same]

theorem reg64_reg64Set (s : State) (fn idx off : Nat) (v : BitVec 64) : reg64 (reg64Set s fn idx off v) fn idx off = v := by
  rw [reg64, reg64Set, regGet_regSet_same, regGet_regSet_off _ _ _ _ _ _ (by omega), regGet_regSet_same]
  exact halves_append v

/-- A counter one event later (R53). -/
theorem reg64_cntAdd (s : State) (fn idx off n : Nat) : reg64 (cntAdd s fn idx off n) fn idx off = reg64 s fn idx off + BitVec.ofNat 64 n :=
  reg64_reg64Set ..

end Sys2Proof.Machine
end

section
/-! PROOFS. T3 transfers: refusals, starts and ends (O28). -/

namespace Sys2Proof.Machine

open Sys2Proof.Claims

/-! ## Transfers -/

theorem violate_form (s : State) (p kind : Nat) : violate s p kind = { s with regs := (violate s p kind).regs } := by
  unfold violate
  split <;> rfl

theorem t2Touch_form (s : State) (p a n : Nat) : t2Touch s p a n = { s with regs := (t2Touch s p a n).regs } := by
  have hb : t2Bound s p a n = { s with regs := (t2Bound s p a n).regs } := by
    unfold t2Bound
    split
    · rfl
    · exact violate_form ..
  unfold t2Touch t2Wait
  split
  · rw [hb]
    rfl
  · exact hb

theorem xferBusy_iff (s : State) (q : Nat) : xferBusy s q = true ↔ ∃ x, Tab.find s.wst.xfers q = some x := by
  rw [xferBusy, Option.isSome_iff_exists]

theorem xferBusy_none {s : State} {q : Nat} (h : Tab.find s.wst.xfers q = none) : xferBusy s q = false := by
  rw [xferBusy, h]
  rfl

/-- Whether a handle may not name a tensor of a base write of partition q (R267). -/
def baseHandleBad (s : State) (q : Nat) : Prop :=
  hType' (xferHandle s q) ≠ 1 ∨ hClean (xferHandle s q) = false ∨ (s.part q).t3Slots ≤ hSet (xferHandle s q) ∨
    (wslot s q (hSet (xferHandle s q))).bound = false ∨ (wslot s q (hSet (xferHandle s q))).write = false

theorem writeBase_bad {s : State} {q : Nat} (hn : Tab.find s.wst.xfers q = none) (hb : baseHandleBad s q) : writeBase s q = xferCode s q 2 :=
  (if_neg (Bool.eq_false_iff.mp (xferBusy_none hn))).trans (if_pos hb)

theorem writeBase_noBuild {s : State} {q : Nat} (hn : Tab.find s.wst.xfers q = none)
    (hb : building (mset s (wslot s q (hSet (xferHandle s q))).mset) = none) : writeBase s q = xferCode s q 2 := by
  unfold writeBase
  dsimp only
  rw [if_neg (Bool.eq_false_iff.mp (xferBusy_none hn)), hb]
  exact ite_self _

/-- A base write whose handle names a copy under construction. -/
theorem writeBase_building {s : State} {q : Nat} {c : WCopy} (hn : Tab.find s.wst.xfers q = none) (hh : ¬ baseHandleBad s q)
    (hb : building (mset s (wslot s q (hSet (xferHandle s q))).mset) = some c) :
    (c.count ≤ hNum (xferHandle s q) → writeBase s q = xferCode s q 2) ∧
    (hNum (xferHandle s q) < c.count → (∀ e, writeCode s q = some e → writeBase s q = xferCode s q e) ∧
      (writeCode s q = none → writeBase s q =
        if ((Tab.find c.tensors (hNum (xferHandle s q))).isSome || s.wst.xfers.any (fun e => e.2.base && e.2.mset == (wslot s q (hSet (xferHandle s q))).mset &&
            e.2.tensor == hNum (xferHandle s q))) = true then xferCode s q 4
        else if t3Free s < unitsOf (xferLen s q) then xferCode s q 6
        else xferStart s q ⟨true, hSet (xferHandle s q), (wslot s q (hSet (xferHandle s q))).mset, hNum (xferHandle s q), xferAddr s q, xferLen s q⟩)) := by
  have e : writeBase s q = _ := (if_neg (Bool.eq_false_iff.mp (xferBusy_none hn))).trans (if_neg hh)
  rw [e]
  rw [hb]
  dsimp only
  refine ⟨fun h => if_pos h, fun h => ⟨fun x hx => ?_, fun hx => ?_⟩⟩
  · rw [if_neg (Nat.not_le_of_lt h), hx]
  · rw [if_neg (Nat.not_le_of_lt h), hx]

theorem xferStart_spec (s : State) (q : Nat) (x : Xfer) :
    let t := xferStart s q x
    t = { s with wst := t.wst, regs := t.regs } ∧ regGet t q 0 0x70001C = 0 ∧
      t.wst = { s.wst with xfers := t.wst.xfers } ∧ ∀ k, Tab.find t.wst.xfers k = if k = q then some x else Tab.find s.wst.xfers k := by
  refine ⟨rfl, regGet_regSet_same .., rfl, fun k => ?_⟩
  show Tab.find (Tab.put s.wst.xfers q x) k = _
  split
  · next h => rw [h, Tab.find_put_same]
  · next h => exact Tab.find_put_other _ _ h

theorem writeAdd_bad {s : State} {q : Nat} (hn : Tab.find s.wst.xfers q = none) (hh : addHandleOk s q (xferHandle s q) = false) :
    writeAdd s q = xferCode s q 2 ∧ delAdd s q = xferCode s q 2 := by
  have hb := Bool.eq_false_iff.mp (xferBusy_none hn)
  have hc : (!addHandleOk s q (xferHandle s q)) = true := by rw [hh]; rfl
  exact ⟨(if_neg hb).trans (if_pos hc), (if_neg hb).trans (if_pos hc)⟩

/-- A write of an addition through a good handle (R249, R272). -/
theorem writeAdd_good {s : State} {q : Nat} (hn : Tab.find s.wst.xfers q = none) (hh : addHandleOk s q (xferHandle s q) = true) :
    (∀ e, writeCode s q = some e → writeAdd s q = xferCode s q e) ∧
    (writeCode s q = none → Tab.find s.wst.adds (addKey q (hSet (xferHandle s q)) (hNum (xferHandle s q))) = none → writeAdd s q =
      if (s.part q).t3Units < addUnits s q + unitsOf (xferLen s q) then xferCode (tierFault (violate s q 2) q 8) q 0
      else xferStart s q ⟨false, hSet (xferHandle s q), 0, hNum (xferHandle s q), xferAddr s q, xferLen s q⟩) := by
  have hb := Bool.eq_false_iff.mp (xferBusy_none hn)
  have hc : ¬ (!addHandleOk s q (xferHandle s q)) = true := by rw [hh]; exact Bool.false_ne_true
  have e : writeAdd s q = _ := (if_neg hb).trans (if_neg hc)
  rw [e]
  refine ⟨fun x hx => ?_, fun hx ha => ?_⟩
  · rw [hx]
  · rw [hx, ha]
    rfl

theorem delAdd_good {s : State} {q : Nat} (hn : Tab.find s.wst.xfers q = none) (hh : addHandleOk s q (xferHandle s q) = true) :
    let t := delAdd s q
    t = { s with wst := t.wst, regs := t.regs } ∧ regGet t q 0 0x70001C = 0 ∧ t.wst = { s.wst with adds := t.wst.adds } ∧
      ∀ k, Tab.find t.wst.adds k = if k = addKey q (hSet (xferHandle s q)) (hNum (xferHandle s q)) then none else Tab.find s.wst.adds k := by
  have hb := Bool.eq_false_iff.mp (xferBusy_none hn)
  have hc : ¬ (!addHandleOk s q (xferHandle s q)) = true := by rw [hh]; exact Bool.false_ne_true
  have e : delAdd s q = _ := (if_neg hb).trans (if_neg hc)
  rw [e]
  refine ⟨rfl, regGet_regSet_same .., rfl, fun k => ?_⟩
  show Tab.find (Tab.drop s.wst.adds _) k = _
  split
  · next h => rw [h, Tab.find_drop_same]
  · next h => exact Tab.find_drop_other _ h

/-- An addition beyond the quota: DONE, a violation and the fault bit (R249). -/
theorem addRefused_spec (s : State) {q : Nat} (hq : q ≠ 0) :
    let t := xferCode (tierFault (violate s q 2) q 8) q 0
    t = { s with regs := t.regs } ∧ regGet t q 0 0x70001C = 0 ∧ (regGet t q 0 0x600018).getLsbD 3 = true ∧ regGet t 0 q 0x200058 = 2 := by
  intro t
  refine ⟨?_, regGet_regSet_same .., ?_, ?_⟩
  · show regSet (regOr (regOr (violate s q 2) q 0 0x600018 8) 0 0 0x600018 8) q 0 0x70001C 0 = _
    rw [violate_form]
    rfl
  · show (regGet (regSet (regSet (regOr (violate s q 2) q 0 0x600018 8) 0 0 0x600018 _) q 0 0x70001C 0) q 0 0x600018).getLsbD 3 = true
    rw [regGet_regSet_ne _ _ _ _ _ _ (by decide) (by decide) (by decide), regGet_regSet_other, regOr, regGet_regSet_same, BitVec.getLsbD_or]
    · simp
    · simp only [regKey]
      omega
  · have h1 : RegFixed 0x200058 (violate s q 2) t :=
      ((RegFixed.regSet _ q 0 _ (by decide) (by decide) (by decide)).trans (RegFixed.regSet _ 0 0 _ (by decide) (by decide) (by decide))).trans
        (RegFixed.regSet _ q 0 _ (by decide) (by decide) (by decide))
    rw [h1.same]
    exact regGet_violate s hq 2

/-! ## The wear of controllers -/

/-- t differs from s only in registers and in the controllers of the weight store. -/
def CtlWork (s t : State) : Prop := t = { s with regs := t.regs, wst := { s.wst with ctls := t.wst.ctls } }

theorem CtlWork.trans {s t u : State} (h : CtlWork s t) (g : CtlWork t u) : CtlWork s u := by
  unfold CtlWork at *
  rw [g, h]

theorem wearOne_ctlWork (s : State) (w : Wear) : CtlWork s (wearOne s w) := by
  unfold wearOne
  dsimp only
  split <;> split <;> rfl

theorem applyWear_ctlWork (l : List Wear) : ∀ s : State, CtlWork s (applyWear s l) := by
  induction l with
  | nil => exact fun s => rfl
  | cons w l ih => exact fun s => (wearOne_ctlWork s w).trans (ih _)

/-! ## The end of a transfer -/

theorem mset_setMset (s : State) (m k : Nat) (x : MSet) : mset (setMset s m x) k = if k = m then x else mset s k := Tab.get_put ..

/-- A copy with one more tensor. -/
def WCopy.with (c : WCopy) (n : Nat) (t : Tensor) : WCopy := { c with tensors := Tab.put c.tensors n t }

/-- The tensor entered in the set's copy under construction, if there is one. -/
def setWith (m : MSet) (n : Nat) (t : Tensor) : MSet :=
  match m.st with
  | .installing => { m with cur := m.cur.map (·.with n t) }
  | .building => { m with other := m.other.map (·.with n t) }
  | _ => m

theorem building_setWith (m : MSet) (n : Nat) (t : Tensor) : building (setWith m n t) = (building m).map (·.with n t) := by
  unfold setWith
  cases h : m.st <;> simp [building, h]

theorem setWith_installing {m : MSet} (h : m.st = .installing) (n : Nat) (t : Tensor) : setWith m n t = { m with cur := m.cur.map (·.with n t) } := by
  unfold setWith
  rw [h]

theorem setWith_building {m : MSet} (h : m.st = .building) (n : Nat) (t : Tensor) : setWith m n t = { m with other := m.other.map (·.with n t) } := by
  unfold setWith
  rw [h]

theorem setWith_other {m : MSet} (h1 : m.st ≠ .installing) (h2 : m.st ≠ .building) (n : Nat) (t : Tensor) : setWith m n t = m := by
  unfold setWith
  split
  · next h => exact absurd h h1
  · next h => exact absurd h h2
  · rfl

/-- What a base write leaves in the sets: its tensor in the copy under construction (R267). -/
theorem xferStore_base {s : State} {q : Nat} {x : Xfer} (hx : x.base = true) :
    let t := xferStore s q x
    t = { s with regs := t.regs, wst := { s.wst with sets := t.wst.sets } } ∧ (∀ m, m ≠ x.mset → mset t m = mset s m) ∧
      mset t x.mset = setWith (mset s x.mset) x.tensor (t2Tensor s q x.addr x.len) := by
  let s1 := t2Touch s q x.addr x.len
  have h1 : s1 = { s with regs := s1.regs } := t2Touch_form ..
  have ht : t2Tensor s1 q x.addr x.len = t2Tensor s q x.addr x.len := by rw [h1]; rfl
  have hm (m : Nat) : mset s1 m = mset s m := by rw [h1]; rfl
  have hset (y : MSet) : setMset s1 x.mset y = { s with regs := s1.regs, wst := { s.wst with sets := Tab.put s.wst.sets x.mset y } } := by
    rw [h1]
    rfl
  unfold xferStore
  dsimp only
  rw [if_pos hx, ht, hm]
  split
  · next h =>
    rw [setWith_installing h]
    exact ⟨by rw [hset], fun m hne => by rw [mset_setMset, if_neg hne, hm], by rw [mset_setMset, if_pos rfl]; rfl⟩
  · next h =>
    rw [setWith_building h]
    exact ⟨by rw [hset], fun m hne => by rw [mset_setMset, if_neg hne, hm], by rw [mset_setMset, if_pos rfl]; rfl⟩
  · next h1' h2' =>
    rw [setWith_other h1' h2']
    exact ⟨by rw [show t2Touch s q x.addr x.len = _ from h1], fun m _ => hm m, hm _⟩

theorem xferStore_add {s : State} {q : Nat} {x : Xfer} (hx : x.base = false) :
    let t := xferStore s q x
    t = { s with regs := t.regs, wst := { s.wst with adds := t.wst.adds } } ∧ ((wslot s q x.slot).bound = true →
      ∀ k, Tab.find t.wst.adds k = if k = addKey q x.slot x.tensor then some (t2Tensor s q x.addr x.len) else Tab.find s.wst.adds k) := by
  let s1 := t2Touch s q x.addr x.len
  have h1 : s1 = { s with regs := s1.regs } := t2Touch_form ..
  have ht : t2Tensor s1 q x.addr x.len = t2Tensor s q x.addr x.len := by rw [h1]; rfl
  have hw : wslot s1 q x.slot = wslot s q x.slot := by rw [h1]; rfl
  have ha : s1.wst = s.wst := by rw [h1]
  unfold xferStore
  dsimp only
  rw [if_neg (Bool.eq_false_iff.mp hx), ht, hw]
  split
  · refine ⟨?_, fun _ k => ?_⟩
    · rw [show t2Touch s q x.addr x.len = _ from h1]
    · show Tab.find (Tab.put s1.wst.adds (addKey q x.slot x.tensor) _) k = _
      rw [ha]
      split
      · next h => rw [h, Tab.find_put_same]
      · next h => exact Tab.find_put_other _ _ h
  · next h =>
    refine ⟨?_, fun hb => absurd hb h⟩
    rw [show t2Touch s q x.addr x.len = _ from h1]

/-- The end of a transfer after its tensor is stored. -/
theorem execXferDone_eq {s : State} {p : Vf} {x : Xfer} (wear : List Wear) (h : Tab.find s.wst.xfers (vfPart p) = some x) :
    let u := xferStore s (vfPart p) x
    exec (.xferDone p wear) s = .next (applyWear (xferCode { u with wst := { u.wst with xfers := Tab.drop u.wst.xfers (vfPart p) } } (vfPart p) 0) wear) := by
  show execXferDone p wear s = _
  simp only [execXferDone, h]

theorem xferDone_ends (s : State) (p : Vf) (wear : List Wear) (x : Xfer) :
    let q := vfPart p
    Tab.find s.wst.xfers q = some x → Nexts (.xferDone p wear) s (fun t => t = { s with wst := t.wst, regs := t.regs } ∧
      Tab.find t.wst.xfers q = none ∧ (∀ k, k ≠ q → Tab.find t.wst.xfers k = Tab.find s.wst.xfers k) ∧
      (x.base = true → t.wst.adds = s.wst.adds ∧ (∀ m, m ≠ x.mset → mset t m = mset s m) ∧
        ∀ c, building (mset s x.mset) = some c → ∃ c', building (mset t x.mset) = some c' ∧ c'.gen = c.gen ∧
          ∀ n, Tab.find c'.tensors n = if n = x.tensor then some (t2Tensor s q x.addr x.len) else Tab.find c.tensors n) ∧
      (x.base = false → t.wst.sets = s.wst.sets ∧ ((wslot s q x.slot).bound = true →
        ∀ k, Tab.find t.wst.adds k = if k = addKey q x.slot x.tensor then some (t2Tensor s q x.addr x.len) else Tab.find s.wst.adds k))) := by
  intro q h
  let u := xferStore s q x
  let v := xferCode { u with wst := { u.wst with xfers := Tab.drop u.wst.xfers q } } q 0
  let t := applyWear v wear
  have hv : CtlWork v t := applyWear_ctlWork ..
  have htv : t.wst.sets = u.wst.sets ∧ t.wst.adds = u.wst.adds ∧ t.wst.xfers = Tab.drop u.wst.xfers q := by
    rw [hv]
    exact ⟨rfl, rfl, rfl⟩
  obtain ⟨hsets, hadds, hxfers⟩ := htv
  have hu : u = { s with regs := u.regs, wst := { s.wst with sets := u.wst.sets, adds := u.wst.adds } } := by
    cases hb : x.base with
    | true =>
      have h1 : u = _ := (xferStore_base (s := s) (q := q) hb).1
      rw [h1]
    | false =>
      have h1 : u = _ := (xferStore_add (s := s) (q := q) hb).1
      rw [h1]
  have hux : u.wst.xfers = s.wst.xfers := by rw [hu]
  have hm (m : Nat) : mset t m = mset u m := by rw [mset, hsets]; rfl
  refine ⟨t, execXferDone_eq wear h, ?_, ?_, fun k hk => ?_, fun hb => ?_, fun hb => ?_⟩
  · have e : t = { u with wst := t.wst, regs := t.regs } := by
      rw [hv]
      rfl
    rw [e, hu]
  · rw [hxfers, Tab.find_drop_same]
  · rw [hxfers, Tab.find_drop_other _ hk, hux]
  · obtain ⟨h1, h2, h3⟩ := xferStore_base (s := s) (q := q) hb
    have h1 : u = _ := h1
    refine ⟨?_, fun m hne => (hm m).trans (h2 m hne), fun c hc => ⟨c.with x.tensor (t2Tensor s q x.addr x.len), ?_, rfl, fun n => ?_⟩⟩
    · rw [hadds, h1]
    · rw [hm, show mset u x.mset = _ from h3, building_setWith, hc]
      rfl
    · show Tab.find (Tab.put c.tensors x.tensor _) n = _
      split
      · next h => rw [h, Tab.find_put_same]
      · next h => exact Tab.find_put_other _ _ h
  · obtain ⟨h1, h2⟩ := xferStore_add (s := s) (q := q) hb
    have h1 : u = _ := h1
    refine ⟨?_, fun hbd k => ?_⟩
    · rw [hsets, h1]
    · rw [hadds]
      exact h2 hbd k

/-- Settles O28: base writes, additions, deletions and the end of a transfer. -/
theorem weightTransfers : Obligations.WeightTransfers := by
  intro s p wear q h sl code starts
  have hq : q ≠ 0 := Nat.succ_ne_zero _
  have eb : exec (.writeBase p) s = .next (writeBase s q) := rfl
  have ea : exec (.writeAdd p) s = .next (writeAdd s q) := rfl
  have ed : exec (.delAdd p) s = .next (delAdd s q) := rfl
  have hgood (h1 : hType' h = 1) (h2 : hClean h = true) (h3 : hSet h < (s.part q).t3Slots) (h4 : sl.bound = true) (h5 : sl.write = true) :
      ¬ baseHandleBad s q := by
    rintro (h | h | h | h | h)
    · exact h h1
    · exact absurd (h2.symm.trans h) (by decide)
    · exact Nat.not_le_of_lt h3 h
    · exact absurd (h4.symm.trans h) (by decide)
    · exact absurd (h5.symm.trans h) (by decide)
  refine ⟨fun hx => ?_, fun hn => ⟨fun hb => ?_, fun hb => ?_, fun c h1 h2 h3 h4 h5 hb hc => ⟨fun e he => ?_, fun he hf hd hu => ?_, fun he hs => ?_⟩,
    fun hh => ?_, fun hh => ⟨fun e he => ?_, fun he hf => ⟨fun hu => ?_, fun hu => ?_⟩, ?_⟩, ?_⟩, fun x hx => xferDone_ends s p wear x hx⟩
  · have hbusy := (xferBusy_iff s q).mpr hx
    exact ⟨congrArg _ (if_pos hbusy), congrArg _ (if_pos hbusy), congrArg _ (if_pos hbusy)⟩
  · exact congrArg _ (writeBase_bad hn hb)
  · rcases hb with hb | ⟨c, hb, hc⟩
    · exact congrArg _ (writeBase_noBuild hn hb)
    · by_cases hbad : baseHandleBad s q
      · exact congrArg _ (writeBase_bad hn hbad)
      · exact congrArg _ ((writeBase_building hn hbad hb).1 hc)
  · exact congrArg _ (((writeBase_building hn (hgood h1 h2 h3 h4 h5) hb).2 hc).1 e he)
  · have hany : ¬ ((Tab.find c.tensors (hNum h)).isSome || s.wst.xfers.any (fun e => e.2.base && e.2.mset == sl.mset && e.2.tensor == hNum h)) = true := by
      rw [hf, Option.isSome_none, Bool.false_or, List.any_eq_true]
      rintro ⟨e, hm, he⟩
      exact hd e hm (by simpa [and_assoc] using he)
    have e := ((writeBase_building hn (hgood h1 h2 h3 h4 h5) hb).2 hc).2 he
    rw [if_neg hany, if_neg (Nat.not_lt_of_le hu)] at e
    exact ⟨_, eb.trans (congrArg _ e), xferStart_spec ..⟩
  · have e := ((writeBase_building hn (hgood h1 h2 h3 h4 h5) hb).2 hc).2 he
    rw [if_pos (by rw [show (Tab.find c.tensors (hNum (xferHandle s q))).isSome = true from hs, Bool.true_or])] at e
    exact congrArg _ e
  · obtain ⟨h1, h2⟩ := writeAdd_bad hn hh
    exact ⟨congrArg _ h1, congrArg _ h2⟩
  · exact congrArg _ ((writeAdd_good hn hh).1 e he)
  · have e := (writeAdd_good hn hh).2 he hf
    rw [if_neg (Nat.not_lt_of_le hu)] at e
    exact ⟨_, ea.trans (congrArg _ e), xferStart_spec ..⟩
  · have e := (writeAdd_good hn hh).2 he hf
    rw [if_pos hu] at e
    exact ⟨_, ea.trans (congrArg _ e), addRefused_spec s hq⟩
  · exact ⟨_, ed, delAdd_good hn hh⟩
  · show execXferDone p wear s = _
    simp only [execXferDone, show Tab.find s.wst.xfers (vfPart p) = none from hn]

end Sys2Proof.Machine
end

section
/-! PROOFS. Module weight sets: their commands, drains and erases (O29). -/

namespace Sys2Proof.Machine

open Sys2Proof.Claims

/-! ## Module weight sets -/

/-- t is s with module set m now y, and with other entries of the weight store than its sets possibly changed. -/
structure SetMoved (s t : State) (m : Nat) (y : MSet) : Prop where
  form : t = { s with wst := t.wst }
  here : mset t m = y
  others : ∀ k, k ≠ m → mset t k = mset s k

theorem setMset_moved (s : State) (m : Nat) (y : MSet) : SetMoved s (setMset s m y) m y :=
  ⟨rfl, by rw [mset_setMset, if_pos rfl], fun k hk => by rw [mset_setMset, if_neg hk]⟩

/-- What changes the weight store but not its sets keeps a move. -/
theorem SetMoved.wst {s t u : State} {m : Nat} {y : MSet} (h : SetMoved s t m y) (hf : u = { t with wst := u.wst }) (hs : u.wst.sets = t.wst.sets) :
    SetMoved s u m y := by
  have hm (k : Nat) : mset u k = mset t k := by rw [mset, hs]; rfl
  refine ⟨?_, (hm m).trans h.here, fun k hk => (hm k).trans (h.others k hk)⟩
  rw [hf, h.form]

theorem SetMoved.latchAll {s t : State} {m : Nat} {y : MSet} (h : SetMoved s t m y) (g : Word) (f : WSlot → Bool) :
    SetMoved s (latchAll t m g f) m y := h.wst rfl rfl

theorem eraseCopy_form (s : State) (m : Nat) (c : Option WCopy) :
    eraseCopy s m c = { s with wst := { s.wst with erasing := s.wst.erasing ++ c.toList.map (m, ·) } } := by
  cases c with
  | none => rw [Option.toList_none, List.map_nil, List.append_nil]; rfl
  | some c => rfl

theorem SetMoved.eraseCopy {s t : State} {m : Nat} {y : MSet} (h : SetMoved s t m y) (c : Option WCopy) : SetMoved s (eraseCopy t m c) m y := by
  rw [eraseCopy_form]
  exact h.wst rfl rfl

/-- A set can begin a copy: every controller ONLINE, a tensor count, and its key present. -/
theorem beginRefused_iff (s : State) (n : BitVec 24) :
    beginRefused s n.toNat = true ↔ ¬ (ctlsDown s = [] ∧ n ≠ 0 ∧ keyPresent s (setKeySel s) = true) := by
  have hn : n.toNat = 0 ↔ n = 0 := (BitVec.toNat_inj (x := n) (y := 0))
  simp only [beginRefused, Bool.or_eq_true, Bool.not_eq_true', List.isEmpty_eq_false_iff, beq_iff_eq, ne_eq, hn]
  rw [← Bool.not_eq_true]
  tauto

theorem commitSet_moved {s : State} {c : WCopy} (hb : building (mset s (setSel s)) = some c) (hc : c.count ≤ c.tensors.length)
    (hw : writing s (setSel s) = false) :
    SetMoved s (commitSet s) (setSel s) { mset s (setSel s) with st := if (mset s (setSel s)).st = .installing then .serving else .built } := by
  unfold commitSet
  dsimp only
  rw [hb]
  dsimp only
  rw [if_neg (not_or.mpr ⟨Nat.not_lt_of_le hc, Bool.eq_false_iff.mp hw⟩)]
  split
  · exact (setMset_moved ..).latchAll _ _
  · exact setMset_moved ..

theorem commitSet_refused {s : State} (h : building (mset s (setSel s)) = none ∨ writing s (setSel s) = true ∨
    ∃ c, building (mset s (setSel s)) = some c ∧ c.tensors.length < c.count) : commitSet s = setRefuse s := by
  unfold commitSet
  dsimp only
  split
  · rfl
  · next c hb =>
    apply if_pos
    rcases h with h | h | ⟨c', h, hc⟩
    · exact absurd (hb.symm.trans h) (by simp)
    · exact .inr h
    · rw [Option.some_inj.mp (hb.symm.trans h)]
      exact .inl hc

theorem switchSet_moved {s : State} (h : (mset s (setSel s)).st = .built) :
    let x := mset s (setSel s)
    SetMoved s (switchSet s) (setSel s) { x with st := .draining, gen := x.gen + 1, cur := x.other, other := x.cur } := by
  intro x
  rw [show switchSet s = _ from if_neg (not_not.mpr h)]
  apply SetMoved.latchAll
  exact (setMset_moved s (setSel s) { x with st := .draining, gen := x.gen + 1, cur := x.other, other := x.cur }).wst rfl rfl

theorem abortSet_refused {s : State} (h : writing s (setSel s) = true ∨ (mset s (setSel s)).st ∉ [SetSt.installing, .building, .built]) :
    abortSet s = setRefuse s := by
  unfold abortSet
  dsimp only
  split
  · rfl
  · next hw =>
    have hs := h.resolve_left hw
    simp only [List.mem_cons, List.not_mem_nil, or_false, not_or] at hs
    split
    · next h1 => exact absurd h1 hs.1
    · next h1 => exact absurd h1 hs.2.1
    · next h1 => exact absurd h1 hs.2.2
    · rfl

theorem abortSet_installing {s : State} (hw : writing s (setSel s) = false) (h : (mset s (setSel s)).st = .installing) :
    SetMoved s (abortSet s) (setSel s) { mset s (setSel s) with st := .free, gen := 0, cur := none } := by
  unfold abortSet
  dsimp only
  rw [if_neg (Bool.eq_false_iff.mp hw), h]
  exact (setMset_moved ..).eraseCopy _

theorem abortSet_second {s : State} (hw : writing s (setSel s) = false) (h : (mset s (setSel s)).st = .building ∨ (mset s (setSel s)).st = .built) :
    SetMoved s (abortSet s) (setSel s) { mset s (setSel s) with st := .serving, other := none } := by
  unfold abortSet
  dsimp only
  rw [if_neg (Bool.eq_false_iff.mp hw)]
  rcases h with h | h
  · rw [h]
    exact (setMset_moved ..).eraseCopy _
  · rw [h]
    exact (setMset_moved ..).eraseCopy _

/-- Whether a slot is bound to set m. -/
theorem slotsBound_iff (s : State) (m : Nat) :
    s.wst.slots.any (fun e => e.2.bound && e.2.mset == m) = true ↔ ∃ e ∈ s.wst.slots, e.2.bound = true ∧ e.2.mset = m := by
  simp [List.any_eq_true]

/-- The commands of a module weight set that its selected state allows, and those that it refuses. -/
theorem setCommands (s : State) (n : BitVec 24) :
    let m := setSel s
    let x := mset s m
    let refused (i : Instr) := exec i s = .next (regOr s 0 0 0x700118 0x80000000)
    let moved (i : Instr) (y : MSet) := Nexts i s (fun t => t = { s with wst := t.wst } ∧ mset t m = y ∧ ∀ k, k ≠ m → mset t k = mset s k)
    let canBegin := ctlsDown s = [] ∧ n ≠ 0 ∧ keyPresent s (setKeySel s) = true
    let bound := ∃ e ∈ s.wst.slots, e.2.bound = true ∧ e.2.mset = m
    (x.st = .free ∧ canBegin → moved (.installBegin n) { x with st := .installing, gen := 1, cur := some ⟨setKeySel s, 1, n.toNat, []⟩, other := none }) ∧
    (¬ (x.st = .free ∧ canBegin) → refused (.installBegin n)) ∧
    (x.st = .serving ∧ canBegin → moved (.buildBegin n) { x with st := .building, other := some ⟨setKeySel s, x.gen + 1, n.toNat, []⟩ }) ∧
    (¬ (x.st = .serving ∧ canBegin) → refused (.buildBegin n)) ∧
    (∀ c, building x = some c → c.count ≤ c.tensors.length → writing s m = false →
      moved .commit { x with st := if x.st = .installing then .serving else .built }) ∧
    (building x = none ∨ writing s m = true ∨ (∃ c, building x = some c ∧ c.tensors.length < c.count) → refused .commit) ∧
    (x.st = .built → moved .switch { x with st := .draining, gen := x.gen + 1, cur := x.other, other := x.cur }) ∧
    (x.st ≠ .built → refused .switch) ∧
    (writing s m = false → x.st = .installing → moved .setAbort { x with st := .free, gen := 0, cur := none }) ∧
    (writing s m = false → x.st = .building ∨ x.st = .built → moved .setAbort { x with st := .serving, other := none }) ∧
    (writing s m = true ∨ x.st ∉ [.installing, .building, .built] → refused .setAbort) ∧
    ((x.st = .serving ∨ x.st = .built) ∧ ¬ bound → moved .setDelete { x with st := .deleting }) ∧
    (¬ ((x.st = .serving ∨ x.st = .built) ∧ ¬ bound) → refused .setDelete) := by
  intro m x refused moved canBegin bound
  have hmoved {i : Instr} {t : State} {y : MSet} (h : exec i s = .next t) (hm : SetMoved s t m y) : moved i y := ⟨t, h, hm.form, hm.here, hm.others⟩
  have hbegin (st : SetSt) : ¬ (x.st = st ∧ canBegin) ↔ (x.st ≠ st ∨ beginRefused s n.toNat = true) := by
    rw [beginRefused_iff, ← not_and_or]
  have hdel : ¬ ((x.st = .serving ∨ x.st = .built) ∧ ¬ bound) ↔
      ((x.st ≠ .serving ∧ x.st ≠ .built) ∨ s.wst.slots.any (fun e => e.2.bound && e.2.mset == m) = true) := by
    rw [slotsBound_iff, not_and_or, not_or, not_not]
  refine ⟨fun h => ?_, fun h => congrArg _ (if_pos ((hbegin .free).mp h)), fun h => ?_, fun h => congrArg _ (if_pos ((hbegin .serving).mp h)),
    fun c hb hc hw => hmoved rfl (commitSet_moved hb hc hw), fun h => congrArg _ (commitSet_refused h), fun h => hmoved rfl (switchSet_moved h),
    fun h => congrArg _ (if_pos h), fun hw h => hmoved rfl (abortSet_installing hw h), fun hw h => hmoved rfl (abortSet_second hw h),
    fun h => congrArg _ (abortSet_refused h), fun h => ?_, fun h => congrArg _ (if_pos (hdel.mp h))⟩
  · exact hmoved (congrArg Host.Outcome.next (if_neg (fun hn => (hbegin .free).mpr hn h))) (setMset_moved ..)
  · exact hmoved (congrArg Host.Outcome.next (if_neg (fun hn => (hbegin .serving).mpr hn h))) (setMset_moved ..)
  · exact hmoved (congrArg Host.Outcome.next (if_neg (fun hn => hdel.mpr hn h))) (setMset_moved ..)

/-! ## The ends of a drain and of an erase -/

theorem setDone_bit (s : State) : (regGet (setDone s) 0 0 0x700118).getLsbD 30 = true := by
  rw [setDone, regOr, regGet_regSet_same, BitVec.getLsbD_or, show (bits 30 30).getLsbD 30 = true by decide, Bool.or_true]

theorem setDone_form (s : State) : setDone s = { s with regs := (setDone s).regs } := rfl

theorem erasingOf_append (l r : List (Nat × WCopy)) (m : Nat) :
    ((l ++ r).filter (fun e => e.1 == m)).map (·.2) = (l.filter (fun e => e.1 == m)).map (·.2) ++ (r.filter (fun e => e.1 == m)).map (·.2) := by
  rw [List.filter_append, List.map_append]

theorem drainComplete_next {s : State} {b : BitVec 8} (hd : (mset s b.toNat).st = .draining)
    (hl : ¬ ∃ e ∈ s.wst.slots, e.2.bound = true ∧ e.2.mset = b.toNat ∧ e.2.lg ≠ (mset s b.toNat).gen)
    (hr : readsCopy s b.toNat ((mset s b.toNat).gen - 1) = false) :
    exec (.drainComplete b) s = .next (setDone (eraseCopy (setMset s b.toNat { mset s b.toNat with st := .serving, other := none }) b.toNat
      (mset s b.toNat).other)) := by
  refine if_neg ?_
  rintro (h | h | h)
  · exact h hd
  · apply hl
    simpa [List.any_eq_true, and_assoc] using h
  · exact Bool.false_ne_true (hr.symm.trans h)

/-- The first entry that f picks is taken, and only it. -/
theorem filter_takeFirst {α : Type} (f : α → Bool) (l : List α) : (takeFirst f l).filter f = (l.filter f).tail := by
  induction l with
  | nil => rfl
  | cons a t ih =>
    unfold takeFirst
    by_cases h : f a = true
    · rw [if_pos h, List.filter_cons_of_pos h, List.tail_cons]
    · rw [if_neg h, List.filter_cons_of_neg h, List.filter_cons_of_neg h, ih]

theorem filter_takeFirst_of_disjoint {α : Type} {f g : α → Bool} (hd : ∀ a, g a = true → f a = false) (l : List α) :
    (takeFirst f l).filter g = l.filter g := by
  induction l with
  | nil => rfl
  | cons a t ih =>
    unfold takeFirst
    by_cases h : f a = true
    · rw [if_pos h, List.filter_cons_of_neg]
      exact fun hg => Bool.false_ne_true ((hd a hg).symm.trans h)
    · rw [if_neg h, List.filter_cons, List.filter_cons, ih]

theorem eraseComplete_takes {s : State} {b : BitVec 8} {c : WCopy} {r : List WCopy} (h : erasingOf s b.toNat = c :: r) :
    Nexts (.eraseComplete b) s (fun t => t = { s with wst := t.wst } ∧ erasingOf t b.toNat = r ∧ t.wst.sets = s.wst.sets ∧
      ∀ k, k ≠ b.toNat → erasingOf t k = erasingOf s k) := by
  have e : exec (.eraseComplete b) s = _ := if_pos (show (!(erasingOf s b.toNat).isEmpty) = true by rw [h]; rfl)
  refine ⟨_, e, rfl, ?_, rfl, fun k hk => ?_⟩
  · show ((takeFirst (fun e => e.1 == b.toNat) s.wst.erasing).filter (fun e => e.1 == b.toNat)).map (·.2) = r
    rw [filter_takeFirst, List.map_tail]
    exact congrArg List.tail h
  · show ((takeFirst (fun e => e.1 == b.toNat) s.wst.erasing).filter (fun e => e.1 == k)).map (·.2) = _
    rw [filter_takeFirst_of_disjoint]
    · rfl
    · intro a ha
      have ha : a.1 = k := eq_of_beq ha
      rw [ha]
      exact beq_eq_false_iff_ne.mpr hk

/-- Settles O29: every command of a weight set on its states, and the ends of drains and erases. -/
theorem weightSets : Obligations.WeightSets := by
  refine ⟨setCommands, fun s b => ?_⟩
  intro m x late
  refine ⟨fun h => if_pos ?_, fun hd hl hr => ⟨_, drainComplete_next hd hl hr, ?_⟩, fun he hd => ?_, fun c r h => eraseComplete_takes h, fun he hd => ?_⟩
  · refine h.imp id (Or.imp (fun ⟨e, he, h1, h2, h3⟩ => List.any_eq_true.mpr ⟨e, he, ?_⟩) id)
    rw [h1, show (e.2.mset == b.toNat) = true from beq_iff_eq.mpr h2, show (e.2.lg != (mset s b.toNat).gen) = true from bne_iff_ne.mpr h3]
    rfl
  · have hm : SetMoved s (eraseCopy (setMset s m { x with st := .serving, other := none }) m x.other) m _ := (setMset_moved ..).eraseCopy _
    refine ⟨?_, hm.here, hm.others, ?_, setDone_bit _⟩
    · rw [setDone_form, hm.form]
    · rw [eraseCopy_form]
      refine (erasingOf_append ..).trans ?_
      cases x.other with
      | none => rfl
      | some c => simp [erasingOf, setMset, m]
  · have e : exec (.eraseComplete b) s = _ := if_neg (show ¬ (!(erasingOf s m).isEmpty) = true by rw [he]; decide)
    exact e.trans (if_pos hd)
  · have e : exec (.eraseComplete b) s = _ :=
      (if_neg (show ¬ (!(erasingOf s m).isEmpty) = true by rw [he]; decide)).trans (if_neg (not_not.mpr hd))
    cases ho : x.other with
    | some c =>
      have hm : SetMoved s (setMset s m { x with other := none }) m _ := setMset_moved ..
      exact ⟨_, e.trans (if_pos (by rw [ho]; rfl)), rfl, rfl, hm.others, fun _ => hm.here, fun h => absurd h (by simp)⟩
    | none =>
      have hm : SetMoved s (setMset s m { x with st := .free, gen := 0, cur := none }) m _ := setMset_moved ..
      exact ⟨_, e.trans (if_neg (by rw [ho]; decide)), rfl, rfl, hm.others, fun h => absurd h (by decide), fun _ => ⟨hm.here.trans (by rw [ho]), setDone_bit _⟩⟩

end Sys2Proof.Machine
end

section
/-! PROOFS. Set slots, controllers, refresh and wear levelling (O30). -/

namespace Sys2Proof.Machine

open Sys2Proof.Claims

/-! ## Binding of set slots -/

theorem wslot_unbindSlot (s : State) (p sl : Nat) : wslot (unbindSlot s p sl) p sl = {} := by
  rw [wslot, Tab.get, show (unbindSlot s p sl).wst.slots = Tab.drop s.wst.slots (slotKey p sl) from rfl, Tab.find_drop_same]
  rfl

theorem mem_unbindSlot_adds (s : State) (p sl : Nat) (e : Nat × Tensor) :
    e ∈ (unbindSlot s p sl).wst.adds ↔ e ∈ s.wst.adds ∧ e.1 / 2 ^ 24 ≠ slotKey p sl := by
  rw [show (unbindSlot s p sl).wst.adds = s.wst.adds.filter (fun e => e.1 / 2 ^ 24 != slotKey p sl) from rfl, List.mem_filter, bne_iff_ne]

theorem wstBind_spec (s : State) (v : Word) :
    let p := fld v 14 10
    let sl := fld v 9 0
    let lane := fld v 29 23
    let m := setSel s
    let refused := exec (.wstBind v) s = .next (regOr s 0 0 0x700118 0x80000000)
    (p = 0 ∨ 16 < p ∨ 64 < lane ∨ (s.part p).t3Slots ≤ sl → refused) ∧
    (1 ≤ p → p ≤ 16 → lane ≤ 64 → sl < (s.part p).t3Slots →
      (v.getLsbD 31 = false → Nexts (.wstBind v) s (fun t => t = { s with wst := t.wst } ∧ wslot t p sl = {} ∧
        (∀ k, k ≠ slotKey p sl → Tab.find t.wst.slots k = Tab.find s.wst.slots k) ∧
        (∀ e, e ∈ t.wst.adds ↔ e ∈ s.wst.adds ∧ e.1 / 2 ^ 24 ≠ slotKey p sl) ∧ t.wst.sets = s.wst.sets)) ∧
      (v.getLsbD 31 = true → (wslot s p sl).bound = true ∨ (serves (mset s m) = false ∧ v.getLsbD 30 = false) → refused) ∧
      (v.getLsbD 31 = true → (wslot s p sl).bound = false → serves (mset s m) = true ∨ v.getLsbD 30 = true →
        Nexts (.wstBind v) s (fun t => t = { s with wst := t.wst } ∧ wslot t p sl = ⟨true, v.getLsbD 30, lane, m, (mset s m).gen, false⟩ ∧
          (∀ k, k ≠ slotKey p sl → Tab.find t.wst.slots k = Tab.find s.wst.slots k) ∧ t.wst.adds = s.wst.adds ∧ t.wst.sets = s.wst.sets))) := by
  intro p sl lane m refused
  refine ⟨fun h => congrArg Host.Outcome.next (if_pos h), fun h1 h2 h3 h4 => ?_⟩
  have hok : ¬ (p = 0 ∨ 16 < p ∨ 64 < lane ∨ (s.part p).t3Slots ≤ sl) := by omega
  have he : wstBind s v = _ := if_neg hok
  have hv {b : Bool} (h : b = true) : ¬ b = false := by rw [h]; decide
  refine ⟨fun h => ⟨_, congrArg Host.Outcome.next (he.trans (if_pos h)), rfl, wslot_unbindSlot .., fun k hk => Tab.find_drop_other _ hk,
      mem_unbindSlot_adds s p sl, rfl⟩,
    fun h hr => congrArg Host.Outcome.next (he.trans ((if_neg (hv h)).trans (if_pos hr))), fun h hb hs => ?_⟩
  have hr : ¬ ((wslot s p sl).bound = true ∨ (serves (mset s m) = false ∧ v.getLsbD 30 = false)) := by
    rintro (hr | ⟨hr1, hr2⟩)
    · exact hv hr hb
    · exact hs.elim (fun h => hv h hr1) (fun h => hv h hr2)
  exact ⟨_, congrArg Host.Outcome.next (he.trans ((if_neg (hv h)).trans (if_neg hr))), rfl, Tab.get_put_same .., fun k hk => Tab.find_put_other _ _ hk, rfl, rfl⟩

/-! ## Controllers of the weight store -/

theorem ctl_setCtl (s : State) (n k : Nat) (y : Ctl) : ctl (setCtl s n y) k = if k = n then y else ctl s k := Tab.get_put ..

theorem ctl_of_ctls {s t : State} (h : t.wst.ctls = s.wst.ctls) (k : Nat) : ctl t k = ctl s k := by
  rw [ctl, h]
  rfl

/-- t is s with controller n now y. -/
structure CtlMoved (s t : State) (n : Nat) (y : Ctl) : Prop where
  form : t = { s with wst := t.wst }
  here : ctl t n = y
  others : ∀ k, k ≠ n → ctl t k = ctl s k
  sets : t.wst.sets = s.wst.sets

theorem setCtl_moved (s : State) (n : Nat) (y : Ctl) : CtlMoved s (setCtl s n y) n y :=
  ⟨rfl, by rw [ctl_setCtl, if_pos rfl], fun k hk => by rw [ctl_setCtl, if_neg hk], rfl⟩

theorem CtlMoved.set {s t : State} {n : Nat} {y : Ctl} (h : CtlMoved s t n y) (z : Ctl) : CtlMoved s (setCtl t n z) n z := by
  have g := setCtl_moved t n z
  refine ⟨?_, g.here, fun k hk => (g.others k hk).trans (h.others k hk), h.sets⟩
  rw [g.form, h.form]

/-- Nothing is written to T3: no set is being written and no transfer is in progress (R273). -/
theorem ctlsBusy_iff (s : State) :
    (s.wst.sets.any (fun e => e.2.st == .installing || e.2.st == .building) || !s.wst.xfers.isEmpty) = true ↔
      ¬ ((∀ e ∈ s.wst.sets, e.2.st ≠ .installing ∧ e.2.st ≠ .building) ∧ s.wst.xfers = []) := by
  rw [not_and_or, Bool.or_eq_true, List.any_eq_true, Bool.not_eq_true', List.isEmpty_eq_false_iff]
  refine or_congr ?_ Iff.rfl
  simp only [Bool.or_eq_true, beq_iff_eq, not_forall, not_and_or, not_not, exists_prop]

theorem ctlOffline_spec (s : State) (n : Nat) :
    let ok := (ctl s n).st = 0 ∧ ctlsDown s = [] ∧ (∀ e ∈ s.wst.sets, e.2.st ≠ .installing ∧ e.2.st ≠ .building) ∧ s.wst.xfers = []
    (ok → ctlOffline s n = setCtl s n { ctl s n with st := 1 }) ∧ (¬ ok → ctlOffline s n = ctlRefuse s) := by
  intro ok
  have hiff : ((ctl s n).st ≠ 0 ∨ ctlsDown s ≠ [] ∨
      (s.wst.sets.any (fun e => e.2.st == .installing || e.2.st == .building) || !s.wst.xfers.isEmpty) = true) ↔ ¬ ok := by
    rw [ctlsBusy_iff, ← not_and_or, ← not_and_or]
  exact ⟨fun h => if_neg (fun hn => hiff.mp hn h), fun h => if_pos (hiff.mpr h)⟩

/-! ## Refresh -/

theorem wearOne_queue (s : State) (w : Wear) (k : Nat) : (ctl (wearOne s w) k).queue = (ctl s k).queue ∧ (ctl (wearOne s w) k).reads = (ctl s k).reads := by
  let y : Ctl := { ctl s w.ctl.val with
    used := min w.used 0xFFFF
    spare := min w.spare 127
    worn := (ctl s w.ctl.val).worn || decide (10000 ≤ w.used ∨ w.spare < 10)
    exhausted := (ctl s w.ctl.val).exhausted || w.exhausted }
  have h : (wearOne s w).wst.ctls = (setCtl s w.ctl.val y).wst.ctls := by
    unfold wearOne
    dsimp only
    split <;> split <;> rfl
  rw [ctl_of_ctls h, ctl_setCtl]
  split
  · next hk => exact ⟨by rw [hk], by rw [hk]⟩
  · exact ⟨rfl, rfl⟩

theorem applyWear_queue (l : List Wear) (k : Nat) :
    ∀ s : State, (ctl (applyWear s l) k).queue = (ctl s k).queue ∧ (ctl (applyWear s l) k).reads = (ctl s k).reads := by
  induction l with
  | nil => exact fun s => ⟨rfl, rfl⟩
  | cons w l ih =>
    intro s
    obtain ⟨h1, h2⟩ := wearOne_queue s w k
    obtain ⟨g1, g2⟩ := ih (wearOne s w)
    exact ⟨g1.trans h1, g2.trans h2⟩

theorem applyWear_regFixed {off : Nat} (h : off < 2 ^ 26) (hne : off ≠ 0x700138) (l : List Wear) (s : State) : RegFixed off s (applyWear s l) := by
  refine RegFixed.foldl (fun s w => ?_) l s
  have hs (y : Ctl) : RegFixed off s (setCtl s w.ctl.val y) := .of_regs rfl
  have hr (u : State) (b : Word) : RegFixed off u (wstFault u b) := RegFixed.regSet u 0 0 _ h (by decide) hne
  unfold wearOne
  dsimp only
  split <;> split
  · exact ((hs _).trans (hr _ _)).trans (hr _ _)
  · exact (hs _).trans (hr _ _)
  · exact (hs _).trans (hr _ _)
  · exact hs _

/-- What a refresh leaves: the unit out of its queue, its count anew, and one more refresh counted (R261). -/
theorem refreshUnit_spec {s : State} {n : Fin 16} {u : Nat} (wear : List Wear) (hu : nextRefresh (ctl s n.val) = some u)
    (he : (ctl s n.val).exhausted = false) (h3 : (ctl s n.val).st ≠ 3) :
    Nexts (.refreshUnit n wear) s (fun t => t = { s with wst := t.wst, regs := t.regs } ∧ u ∉ (ctl t n.val).queue ∧
      Tab.get 0 (ctl t n.val).reads u = 0 ∧ reg64 t 0 0 0x700140 = reg64 s 0 0 0x700140 + 1 ∧ t.wst.sets = s.wst.sets) := by
  let c := ctl s n.val
  let y : Ctl := { c with queue := c.queue.filter (· != u), reads := Tab.set 0 c.reads u 0 }
  let v := cntAdd (setCtl s n.val y) 0 0 0x700140 1
  have hne : ¬ ((ctl s n.val).exhausted = true ∨ (ctl s n.val).st = 3) := by
    rw [he]
    exact not_or.mpr ⟨by decide, h3⟩
  have hw : CtlWork v (applyWear v wear) := applyWear_ctlWork ..
  obtain ⟨hq, hr⟩ := applyWear_queue wear n.val v
  have hv : ctl v n.val = y := (ctl_setCtl ..).trans (if_pos rfl)
  have hfix {off : Nat} (h : off < 2 ^ 26) (hne : off ≠ 0x700138) := applyWear_regFixed h hne wear v
  refine ⟨applyWear v wear, ?_, ?_, ?_, ?_, ?_, ?_⟩
  · show execRefreshUnit n wear s = _
    unfold execRefreshUnit
    dsimp only
    rw [hu]
    exact if_neg hne
  · rw [hw]
    rfl
  · rw [hq, hv, show y.queue = c.queue.filter (· != u) from rfl, List.mem_filter]
    simp
  · rw [hr, hv]
    exact Tab.get_set_same 0 c.reads u 0
  · rw [(hfix (off := 0x700140) (by decide) (by decide)).reg64 (hfix (by decide) (by decide))]
    exact reg64_cntAdd ..
  · rw [hw]
    rfl

theorem nextRefresh_most {c : Ctl} {u : Nat} (h : nextRefresh c = some u) : ∀ v ∈ c.queue, Tab.get 0 c.reads v ≤ Tab.get 0 c.reads u := by
  have h1 := List.find?_some h
  intro v hv
  exact of_decide_eq_true (List.all_eq_true.mp h1 v hv)

/-! ## Ageing and wear levelling -/

theorem queueUnit_moved (s : State) (n unit : Nat) :
    CtlMoved s (queueUnit s n unit) n { ctl s n with queue := if unit ∈ (ctl s n).queue then (ctl s n).queue else (ctl s n).queue ++ [unit] } := by
  unfold queueUnit
  dsimp only
  by_cases h : unit ∈ (ctl s n).queue
  · rw [if_pos (List.contains_iff_mem.mpr h), if_pos h]
    exact ⟨rfl, rfl, fun _ _ => rfl, rfl⟩
  · rw [if_neg (fun hc => h (List.contains_iff_mem.mp hc)), if_neg h]
    exact setCtl_moved ..

theorem CtlMoved.queueUnit {s t : State} {n : Nat} {y : Ctl} (h : CtlMoved s t n y) (unit : Nat) :
    CtlMoved s (queueUnit t n unit) n { y with queue := if unit ∈ y.queue then y.queue else y.queue ++ [unit] } := by
  have g := queueUnit_moved t n unit
  refine ⟨?_, ?_, fun k hk => (g.others k hk).trans (h.others k hk), g.sets.trans h.sets⟩
  · rw [g.form, h.form]
  · rw [g.here, h.here]

theorem unitRead_moved (s : State) (n unit pages : Nat) :
    CtlMoved s (unitRead s n unit pages false) n { ctl s n with
      reads := Tab.set 0 (ctl s n).reads unit (Tab.get 0 (ctl s n).reads unit + pages)
      queue := if 1000000 ≤ Tab.get 0 (ctl s n).reads unit + pages ∧ unit ∉ (ctl s n).queue then (ctl s n).queue ++ [unit] else (ctl s n).queue } := by
  let c := ctl s n
  let r := Tab.get 0 c.reads unit + pages
  let y : Ctl := { c with reads := Tab.set 0 c.reads unit r }
  have hs : CtlMoved s (setCtl s n y) n y := setCtl_moved ..
  by_cases hr : 1000000 ≤ r
  · have e : unitRead s n unit pages false = queueUnit (setCtl s n y) n unit := if_pos (.inl hr)
    rw [e]
    have h := hs.queueUnit unit
    rw [show y.queue = c.queue from rfl] at h
    by_cases hm : unit ∈ c.queue
    · rw [if_pos hm] at h
      rw [if_neg (fun h => h.2 hm)]
      exact h
    · rw [if_neg hm] at h
      rw [if_pos ⟨hr, hm⟩]
      exact h
  · have e : unitRead s n unit pages false = setCtl s n y := if_neg (not_or.mpr ⟨hr, Bool.false_ne_true⟩)
    rw [e, if_neg (fun h => hr h.1)]
    exact hs

theorem dataLost_spec (s : State) (n units : Nat) :
    OnlyReports s (dataLost s n units) ∧ RegFixed 0x700148 s (dataLost s n units) ∧ RegFixed 0x70014C s (dataLost s n units) ∧
      (regGet (dataLost s n units) 0 0 0x700138).getLsbD 0 = true := by
  let s1 := cntAdd s 0 0 0x700150 units
  let s2 := wstFault s1 1
  have hf {off : Nat} (h : off < 0xD00010 ∨ 0xD00034 < off) (h' : off < 2 ^ 26) : RegFixed off s2 (dataLost s n units) :=
    RegFixed.reportAll h h' s2 _ ..
  have h2 {off : Nat} (h : off < 2 ^ 26) (h0 : off ≠ 0x700138) (h1 : off ≠ 0x700150) (h2 : off ≠ 0x700154) : RegFixed off s s2 :=
    (RegFixed.cntAdd s 0 0 units h (by decide) h1 h2).trans (RegFixed.regSet s1 0 0 _ h (by decide) h0)
  refine ⟨(OnlyReports.cntAdd ..).trans ((OnlyReports.regOr ..).trans (OnlyReports.reportE ..)),
    (h2 (by decide) (by decide) (by decide) (by decide)).trans (hf (by decide) (by decide)),
    (h2 (by decide) (by decide) (by decide) (by decide)).trans (hf (by decide) (by decide)), ?_⟩
  rw [(hf (off := 0x700138) (by decide) (by decide)).same]
  show (regGet (regOr s1 0 0 0x700138 1) 0 0 0x700138).getLsbD 0 = true
  rw [regOr, regGet_regSet_same, BitVec.getLsbD_or, show (1 : Word).getLsbD 0 = true by decide, Bool.or_true]

/-- A page that failed: its unit queued, one more rebuild counted, and lost data flagged where the rebuild failed (R263). -/
theorem pageFailed_spec {s t : State} {n : Nat} {y : Ctl} (h : CtlMoved s t n y) (unit : Nat) (rf : Bool) :
    let u := pageFailed t n unit rf
    unit ∈ (ctl u n).queue ∧ u.wst.sets = s.wst.sets ∧ (∀ k, k ≠ n → ctl u k = ctl s k) ∧
      reg64 u 0 0 0x700148 = reg64 t 0 0 0x700148 + 1 ∧ ((regGet u 0 0 0x700138).getLsbD 0 = true ∨ rf = false) := by
  intro u
  let t1 := cntAdd t 0 0 0x700148 1
  let t2 := queueUnit t1 n unit
  have hc1 (k : Nat) : ctl t1 k = ctl t k := ctl_of_ctls (s := t) rfl k
  have hq : CtlMoved t1 t2 n _ := queueUnit_moved t1 n unit
  have hmem : unit ∈ (ctl t2 n).queue := by
    rw [hq.here]
    dsimp only
    split
    · assumption
    · exact List.mem_append_right _ (List.mem_singleton.mpr rfl)
  have hregs : t2.regs = t1.regs := by rw [hq.form]
  have hcnt : reg64 t2 0 0 0x700148 = reg64 t 0 0 0x700148 + 1 := by
    rw [RegFixed.reg64 (RegFixed.of_regs hregs) (RegFixed.of_regs hregs)]
    exact reg64_cntAdd ..
  have hsets : t2.wst.sets = s.wst.sets := hq.sets.trans h.sets
  have hoth (k : Nat) (hk : k ≠ n) : ctl t2 k = ctl s k := (hq.others k hk).trans ((hc1 k).trans (h.others k hk))
  cases rf with
  | false => exact ⟨hmem, hsets, hoth, hcnt, .inr rfl⟩
  | true =>
    obtain ⟨ho, h1, h2, h3⟩ := dataLost_spec t2 n 1
    have hw : u.wst = t2.wst := by rw [show u = _ from ho]
    have hc (k : Nat) : ctl u k = ctl t2 k := ctl_of_ctls (by rw [hw]) k
    exact ⟨by rw [hc]; exact hmem, (by rw [hw, hsets]), fun k hk => (hc k).trans (hoth k hk), (RegFixed.reg64 h1 h2 0 0).trans hcnt, .inl h3⟩

/-- Settles O30: binding of slots, moves of a controller, refresh and wear levelling. -/
theorem weightControllers : Obligations.WeightControllers := by
  refine ⟨wstBind_spec, fun s n unit wear => ?_⟩
  intro c only idle
  have honly {t : State} {y : Ctl} (h : CtlMoved s t n.val y) : only t y := ⟨h.form, h.here, h.others⟩
  have hm : CtlMoved s (unitRead s n.val unit 256 false) n.val _ := unitRead_moved ..
  refine ⟨fun h => ⟨_, congrArg Host.Outcome.next ((ctlOffline_spec s n.val).1 h), honly (setCtl_moved ..)⟩,
    fun h => congrArg Host.Outcome.next ((ctlOffline_spec s n.val).2 h), ?_, ?_, fun h => ?_, fun u hu he h3 => ⟨nextRefresh_most hu, refreshUnit_spec wear hu he h3⟩,
    ⟨_, rfl, honly (queueUnit_moved ..)⟩, fun h => if_pos h, fun h => ⟨_, if_neg h, honly hm⟩, fun rf h => ?_⟩
  · split
    · next h => exact ⟨_, congrArg Host.Outcome.next (if_neg (by simp [show (ctl s n.val).st = 1 from h.1, show (ctl s n.val).failed = false from h.2])), honly (setCtl_moved ..)⟩
    · next h =>
      refine congrArg Host.Outcome.next (if_pos ?_)
      rw [not_and_or, Bool.not_eq_false] at h
      exact h
  · split
    · next h =>
      have g := setCtl_moved s n.val { c with st := 0 }
      refine ⟨_, if_pos h, rfl, g.here, ?_, g.others⟩
      rw [regOr, regGet_regSet_same, BitVec.getLsbD_or, show (bits 30 30).getLsbD 30 = true by decide, Bool.or_true]
    · next h => exact if_neg h
  · show execRefreshUnit n wear s = _
    unfold execRefreshUnit
    dsimp only
    cases hu : nextRefresh (ctl s n.val) with
    | none => rfl
    | some u => exact if_pos (h.resolve_left (by rw [show nextRefresh c = _ from hu]; exact Option.some_ne_none u))
  · let g : Bool := rf || (ctlsDown (unitRead s n.val unit 256 false)).any (fun d => d != n.val && (ctl (unitRead s n.val unit 256 false) d).st != 2)
    obtain ⟨h1, h2, h3, h4, h5⟩ := pageFailed_spec hm unit g
    have hr : reg64 (unitRead s n.val unit 256 false) 0 0 0x700148 = reg64 s 0 0 0x700148 := by rw [hm.form]; rfl
    refine ⟨_, if_neg h, h1, h2, h3, h4.trans (by rw [hr]), h5.imp id (fun hg => ?_)⟩
    exact (Bool.or_eq_false_iff.mp hg).1

end Sys2Proof.Machine
end

section
/-! PROOFS. Ports, connections and strikes that end. -/

namespace Sys2Proof.Machine

open Sys2Proof.Claims

/-! ## Tables whose values a function changes -/

theorem Tab.find_mapped {α β : Type} (f : Nat → α → β) (t : Tab α) (k : Nat) :
    Tab.find (t.map fun e => (e.1, f e.1 e.2)) k = (Tab.find t k).map (f k) := by
  induction t with
  | nil => rfl
  | cons e t ih =>
    obtain ⟨i, a⟩ := e
    by_cases h : i = k
    · subst h
      simp [Tab.find]
    · simp only [List.map_cons, Tab.find, if_neg h, ih]

theorem Tab.get_mapped {α β : Type} (f : Nat → α → β) (t : Tab α) (k : Nat) (d : α) :
    Tab.get (f k d) (t.map fun e => (e.1, f e.1 e.2)) k = f k (Tab.get d t k) := by
  rw [Tab.get, Tab.get, Tab.find_mapped]
  cases Tab.find t k with
  | none => rfl
  | some a => rfl

/-! ## Ports and their connections -/

theorem port_setPort (s : State) (n m : Nat) (x : PortS) : (s.setPort n x).port m = if m = n then x else s.port m := Tab.get_put ..

@[simp] theorem port_setPort_same (s : State) (n : Nat) (x : PortS) : (s.setPort n x).port n = x := by rw [port_setPort, if_pos rfl]

theorem port_setPort_other (s : State) {n m : Nat} (x : PortS) (h : m ≠ n) : (s.setPort n x).port m = s.port m := by rw [port_setPort, if_neg h]

theorem conn_setConn (x : PortS) (p q : Nat) (c : Conn) : (x.setConn p c).conn q = if q = p then c else x.conn q := Tab.get_put ..

@[simp] theorem conn_setConn_same (x : PortS) (p : Nat) (c : Conn) : (x.setConn p c).conn p = c := by rw [conn_setConn, if_pos rfl]

theorem port_of_ports {s t : State} (h : t.ports = s.ports) (m : Nat) : t.port m = s.port m := by
  rw [State.port, h]
  rfl

/-- What changes the connections alone of the ports, and in each connection its two sequences alone; T2 and its free choices may change. -/
structure AbortWork (s t : State) : Prop where
  form : t = { s with ports := t.ports, tiers := t.tiers, draws := t.draws }
  port : ∀ m, t.port m = { s.port m with conns := (t.port m).conns }
  conn : ∀ m p, (t.port m).conn p = { (s.port m).conn p with data := ((t.port m).conn p).data, ctl := ((t.port m).conn p).ctl }

theorem AbortWork.refl (s : State) : AbortWork s s := ⟨rfl, fun _ => rfl, fun _ _ => rfl⟩

theorem AbortWork.trans {s t u : State} (h : AbortWork s t) (g : AbortWork t u) : AbortWork s u := by
  refine ⟨?_, fun m => ?_, fun m p => ?_⟩
  · rw [g.form, h.form]
  · rw [g.port, h.port]
  · rw [g.conn, h.conn]

theorem AbortWork.foldl {α : Type} {f : State → α → State} (hf : ∀ s a, AbortWork s (f s a)) (l : List α) (s : State) : AbortWork s (l.foldl f s) := by
  induction l generalizing s with
  | nil => exact .refl s
  | cons a l ih => exact (hf s a).trans (ih _)

/-- A change of one connection. -/
theorem conn_updConn (s : State) (n peer : Nat) (f : Conn → Conn) (m p : Nat) :
    ((updConn s n peer f).port m).conn p = if m = n ∧ p = peer then f ((s.port n).conn peer) else (s.port m).conn p := by
  unfold updConn
  by_cases hm : m = n
  · subst hm
    rw [port_setPort_same, conn_setConn]
    by_cases hp : p = peer
    · rw [if_pos hp, if_pos ⟨rfl, hp⟩]
    · rw [if_neg hp, if_neg fun h => hp h.2]
  · rw [port_setPort_other _ _ hm, if_neg fun h => hm h.1]

theorem conn_updConn_same (s : State) (n peer : Nat) (f : Conn → Conn) : ((updConn s n peer f).port n).conn peer = f ((s.port n).conn peer) := by
  rw [conn_updConn, if_pos ⟨rfl, rfl⟩]

theorem port_updConn (s : State) (n peer : Nat) (f : Conn → Conn) (m : Nat) :
    (updConn s n peer f).port m = { s.port m with conns := ((updConn s n peer f).port m).conns } := by
  unfold updConn
  rw [port_setPort]
  split
  · next h => rw [h]; rfl
  · rfl

theorem setDir_keeps (c : Conn) (ctl : Bool) (d : Dir) : c.setDir ctl d = { c with data := (c.setDir ctl d).data, ctl := (c.setDir ctl d).ctl } := by
  cases ctl <;> rfl

theorem updConn_abortWork (s : State) (n peer : Nat) (f : Conn → Conn) (hf : ∀ c, f c = { c with data := (f c).data, ctl := (f c).ctl }) :
    AbortWork s (updConn s n peer f) := by
  refine ⟨rfl, port_updConn s n peer f, fun m p => ?_⟩
  rw [conn_updConn]
  split
  · next h => rw [h.1, h.2]; exact hf _
  · rfl

theorem sendSeq_abortWork (s : State) (n peer : Nat) (f : TxFrame) : AbortWork s (sendSeq s n peer f) := by
  unfold sendSeq
  split
  · exact .refl s
  · exact updConn_abortWork s n peer _ fun c => setDir_keeps c _ _

theorem dropFrames_abortWork (s : State) (f : TxFrame → Bool) : AbortWork s (dropFrames s f) := by
  let cut (d : Dir) : Dir := { d with q := d.q.take d.ever ++ (d.q.drop d.ever).filter (fun x => !f x) }
  let one (_ : Nat) (c : Conn) : Conn := { c with data := cut c.data, ctl := cut c.ctl }
  let up (_ : Nat) (x : PortS) : PortS := { x with conns := x.conns.map fun e => (e.1, one e.1 e.2) }
  have hp (m : Nat) : (dropFrames s f).port m = up m (s.port m) := Tab.get_mapped up s.ports m {}
  have hc (m p : Nat) : ((dropFrames s f).port m).conn p = one p ((s.port m).conn p) := by
    rw [hp]
    exact Tab.get_mapped one (s.port m).conns p {}
  exact ⟨rfl, fun m => by rw [hp], fun m p => by rw [hc]⟩

theorem sendAborts_abortWork (s : State) (p : Nat) (x : Strike) : AbortWork s (sendAborts s p x) := by
  unfold sendAborts
  split
  · exact .refl s
  · refine (dropFrames_abortWork s _).trans (AbortWork.foldl (fun s u => ?_) _ _)
    split
    · exact .refl s
    · exact sendSeq_abortWork ..

/-! ## Strikes that end -/

/-- Writes of T2 and free choices change no port. -/
structure T2Work (s t : State) : Prop where
  form : t = { s with tiers := t.tiers, draws := t.draws }

theorem T2Work.trans {s t u : State} (h : T2Work s t) (g : T2Work t u) : T2Work s u := ⟨by rw [g.form, h.form]⟩

theorem T2Work.foldl {α : Type} {f : State → α → State} (hf : ∀ s a, T2Work s (f s a)) (l : List α) (s : State) : T2Work s (l.foldl f s) := by
  induction l generalizing s with
  | nil => exact ⟨rfl⟩
  | cons a l ih => exact (hf s a).trans (ih _)

theorem T2Work.abortWork {s t : State} (h : T2Work s t) : AbortWork s t := by
  have hp (m : Nat) : t.port m = s.port m := by rw [h.form]; rfl
  refine ⟨?_, fun m => by rw [hp], fun m p => by rw [hp]⟩
  rw [h.form]

theorem t2WriteBytes_work (s : State) (p a len : Nat) (ws : List PWord) : T2Work s (t2WriteBytes s p a len ws) := by
  have h : T2Work s (t2Write s p a (ws.take (len / 4))) := ⟨by rw [t2Write_tiers]⟩
  unfold t2WriteBytes
  dsimp only
  split
  · exact h
  · exact h.trans ⟨by rw [t2SetWord_tiers]⟩

theorem spoilDst_work (s : State) (p : Nat) (x : Strike) : T2Work s (spoilDst s p x) := by
  unfold spoilDst
  split
  · exact ⟨rfl⟩
  · refine T2Work.foldl (fun s r => ?_) _ s
    exact T2Work.trans (t := (freeWords s ((r.2 + 3) / 4)).2) ⟨rfl⟩ (t2WriteBytes_work ..)

theorem spoilDst_id (s : State) (p : Nat) {x : Strike} (h : x.kind = 3 → x.ph ≠ .data) : spoilDst s p x = s := by
  refine if_pos ?_
  by_cases hk : x.kind = 3
  · exact .inr (.inl (h hk))
  · exact .inl hk

/-- A strike in progress that f names, ended with a code. -/
def Strike.endBy (f : Nat → Strike → Bool) (code j : Nat) (y : Strike) : Strike := if y.code = 0 ∧ f j y = true then { y with code := code } else y

/-- A chain with the strikes ended that f names. -/
def Chain.endBy (f : Nat → Strike → Bool) (code j : Nat) (c : Chain) : Chain := { c with prog := c.prog.map (Strike.endBy f code j) }

theorem chain_endStrikes (s : State) (f : Nat → Strike → Bool) (code j : Nat) :
    chain (endStrikes s f code) j = (chain s j).endBy f code j :=
  Tab.get_mapped (Chain.endBy f code) s.chains j {}

theorem endStrikes_form (s : State) (f : Nat → Strike → Bool) (code : Nat) : endStrikes s f code = { s with chains := (endStrikes s f code).chains } := rfl

theorem sendSeq_tiers (s : State) (n peer : Nat) (f : TxFrame) : (sendSeq s n peer f).tiers = s.tiers := by
  unfold sendSeq
  split <;> rfl

theorem foldl_tiers {α : Type} {f : State → α → State} (hf : ∀ s a, (f s a).tiers = s.tiers) (l : List α) (s : State) : (l.foldl f s).tiers = s.tiers := by
  induction l generalizing s with
  | nil => rfl
  | cons a l ih => exact (ih _).trans (hf s a)

/-- What ending some strikes leaves: their code, and T2 but for a REDUCE in its data phase. -/
structure StrikesEnd (s t : State) (f : Nat → Strike → Bool) (code : Nat) : Prop where
  form : t = { s with ports := t.ports, tiers := t.tiers, draws := t.draws, chains := t.chains }
  port : ∀ m, t.port m = { s.port m with conns := (t.port m).conns }
  conn : ∀ m p, (t.port m).conn p = { (s.port m).conn p with data := ((t.port m).conn p).data, ctl := ((t.port m).conn p).ctl }
  chain : ∀ j, chain t j = (chain s j).endBy f code j
  spoils : SpoilsOnly s t f

theorem abortStrikes_end (s : State) (f : Nat → Strike → Bool) (code : Nat) : StrikesEnd s (abortStrikes s f code) f code := by
  let hit := (strikes s).filter fun e => e.2.code == 0 && f e.1 e.2
  let one (s : State) (e : Nat × Strike) : State := spoilDst (sendAborts s (e.1 / 512) e.2) (e.1 / 512) e.2
  let u := hit.foldl one s
  have hone (s : State) (e : Nat × Strike) : AbortWork s (one s e) := (sendAborts_abortWork ..).trans (spoilDst_work ..).abortWork
  have hu : AbortWork s u := AbortWork.foldl hone hit s
  have hchain (j : Nat) : Machine.chain u j = Machine.chain s j := by rw [hu.form]; rfl
  have ht (j : Nat) := chain_endStrikes u f code j
  refine ⟨?_, hu.port, hu.conn, fun j => (ht j).trans (by rw [hchain]), fun h => ?_⟩
  · have hform (v : State) (h : v = { u with chains := v.chains }) :
        v = { s with ports := v.ports, tiers := v.tiers, draws := v.draws, chains := v.chains } := by
      rw [h, hu.form]
    exact hform _ (endStrikes_form u f code)
  · show u.tiers = s.tiers
    have hfold : ∀ (l : List (Nat × Strike)) (v : State), (∀ e ∈ l, e.2.kind = 3 → e.2.ph ≠ .data) → (l.foldl one v).tiers = v.tiers := by
      intro l
      induction l with
      | nil => exact fun _ _ => rfl
      | cons e l ih =>
        intro v hl
        refine (ih (one v e) fun e he => hl e (List.mem_cons_of_mem _ he)).trans ?_
        show (spoilDst (sendAborts v (e.1 / 512) e.2) (e.1 / 512) e.2).tiers = v.tiers
        rw [spoilDst_id _ _ (hl e List.mem_cons_self)]
        unfold sendAborts
        split
        · rfl
        · exact foldl_tiers (fun w u => by
            split
            · rfl
            · exact sendSeq_tiers ..) _ _
    refine hfold hit s fun e he => ?_
    obtain ⟨hm, hc⟩ := List.mem_filter.mp he
    obtain ⟨hc, hf⟩ := Bool.and_eq_true_iff.mp hc
    exact h e hm hf (eq_of_beq hc)

theorem StrikesEnd.ended {s t : State} {f : Nat → Strike → Bool} {code : Nat} (h : StrikesEnd s t f code) : Ended s t f code :=
  fun j => congrArg Chain.prog (h.chain j)

/-! ## One port's record -/

theorem portIs_setPort (s : State) (n : Nat) (y : PortS) : PortIs s (s.setPort n y) n y :=
  ⟨rfl, port_setPort_same .., fun _ h => port_setPort_other _ _ h⟩

theorem portIs_refl (s : State) (n : Nat) : PortIs s s n (s.port n) := ⟨rfl, rfl, fun _ _ => rfl⟩

theorem portIs_books {s t u : State} {n : Nat} {y : PortS} (h : PortIs s t n y) (g : OnlyReports t u) : PortIs s u n y := by
  obtain ⟨h1, h2, h3⟩ := h
  have hp (m : Nat) : u.port m = t.port m := by rw [show u = _ from g]; rfl
  refine ⟨?_, (hp n).trans h2, fun m hm => (hp m).trans (h3 m hm)⟩
  rw [show u = _ from g, h1]
  rfl

theorem portIs_set {s t : State} {n : Nat} {y : PortS} (h : PortIs s t n y) (z : PortS) : PortIs s (t.setPort n z) n z := by
  obtain ⟨h1, _, h3⟩ := h
  refine ⟨?_, port_setPort_same .., fun m hm => (port_setPort_other _ _ hm).trans (h3 m hm)⟩
  rw [h1]
  rfl

end Sys2Proof.Machine
end

section
/-! PROOFS. Weight ports: link states, pauses and failures (O31). -/

namespace Sys2Proof.Machine

open Sys2Proof.Claims

/-! ## Port states -/

theorem portTo_is (s : State) (n : Nat) (st : PortSt) : PortIs s (portTo s n st) n { s.port n with st := st } := portIs_setPort ..

theorem OnlyReports.wpFault (s : State) (n : Nat) (b : Word) : OnlyReports s (wpFault s n b) := OnlyReports.regOr ..

theorem OnlyReports.wpCount (s : State) (n o k : Nat) : OnlyReports s (wpCount s n o k) := OnlyReports.cntAdd ..

/-- A pause that ends wakes a STALLED port (R313, R314). -/
theorem pauseSettle_is {s t : State} {n : Nat} {y : PortS} (h : PortIs s t n y) (was : Bool) (us : Nat) :
    PortIs s (pauseSettle t n was us) n { y with st := if (was && !y.paused) = true ∧ y.st = .stalled then .up else y.st } := by
  unfold pauseSettle
  dsimp only
  rw [h.2.1]
  by_cases hw : (was && !y.paused) = true
  · rw [if_pos hw]
    have hc : PortIs s (wpCount t n 0x0B8 us) n y := portIs_books h (OnlyReports.wpCount ..)
    by_cases hs : y.st = .stalled
    · rw [if_pos hs, if_pos ⟨hw, hs⟩]
      have ht := portIs_set hc { (wpCount t n 0x0B8 us).port n with st := .up }
      rw [hc.2.1] at ht
      unfold portTo
      rw [hc.2.1]
      exact ht
    · rw [if_neg hs, if_neg fun h => hs h.2]
      exact hc
  · rw [if_neg hw, if_neg fun h => hw h.1]
    exact h

/-- What OFFLINE and a failure do to the connections and strikes of a port (R313). -/
theorem portConnsFail_spec (s : State) (n : Nat) (st : PortSt) :
    let t := portConnsFail (portTo s n st) n
    let uses (_ : Nat) (y : Strike) : Bool := y.uses.any (·.1 == n)
    (t.port n).st = st ∧ (∀ peer, peer < 64 → peerValid s n peer = true ∨ (Tab.find (s.port n).conns peer).isSome = true →
      ((t.port n).conn peer).st = .failed) ∧ SpoilsOnly s t uses ∧ Ended s t uses 6 ∧ t.cores = s.cores ∧ ∀ m, m ≠ n → (t.port m).st = (s.port m).st := by
  intro t uses
  let s1 := portTo s n st
  let all := (List.range 64).filter fun i => peerValid s1 n i || (Tab.find (s1.port n).conns i).isSome
  let x2 : PortS := { s1.port n with conns := all.map fun i => (i, { st := .failed }) }
  let s2 := s1.setPort n x2
  have h1 : s1.port n = { s.port n with st := st } := port_setPort_same ..
  have h2 : s2.port n = x2 := port_setPort_same ..
  have ht : StrikesEnd s2 t uses 6 := abortStrikes_end s2 uses 6
  have hst (m : Nat) : (t.port m).st = (s2.port m).st := by rw [ht.port]
  refine ⟨?_, fun peer hp hv => ?_, fun h => (ht.spoils h).trans rfl, ht.ended, by rw [ht.form]; rfl, fun m hm => ?_⟩
  · rw [hst, h2]
    show (s1.port n).st = st
    rw [h1]
  · rw [ht.conn, h2]
    show (Tab.get {} (all.map fun i => (i, ({ st := .failed } : Conn))) peer).st = .failed
    have hmem : peer ∈ all := by
      refine List.mem_filter.mpr ⟨List.mem_range.mpr hp, ?_⟩
      rw [h1]
      exact Bool.or_eq_true_iff.mpr hv
    have hf : ∀ l : List Nat, peer ∈ l → Tab.find (l.map fun i => (i, ({ st := .failed } : Conn))) peer = some { st := .failed } := by
      intro l
      induction l with
      | nil => exact fun h => absurd h (by simp)
      | cons a l ih =>
        intro h
        by_cases ha : a = peer
        · rw [List.map_cons, Tab.find, if_pos ha]
        · rw [List.map_cons, Tab.find, if_neg ha]
          exact ih ((List.mem_cons.mp h).resolve_left fun h => ha h.symm)
    rw [Tab.get, hf all hmem]
    rfl
  · rw [hst, port_setPort_other _ _ hm, show s1.port m = s.port m from port_setPort_other _ _ hm]

/-- The four commands and events of a port's training (R313). -/
theorem portTraining (s : State) (pt : Port) :
    let n := pt.val
    let x := s.port n
    (if x.st = .down ∧ Tab.get Cage.empty s.hw.cages n ≠ .bad then Nexts (.signalDetect pt) s (fun t => PortIs s t n { x with st := .training })
     else exec (.signalDetect pt) s = .next s) ∧
    (if x.st = .training then Nexts (.lockAcquired pt) s (fun t => PortIs s t n { x with st := .securing }) ∧
       Nexts (.trainingTimeout pt) s (fun t => PortIs s t n { x with st := .down })
     else exec (.lockAcquired pt) s = .next s ∧ exec (.trainingTimeout pt) s = .next s) := by
  intro n x
  refine ⟨?_, ?_⟩
  · split
    · next h => exact ⟨_, congrArg Host.Outcome.next (if_pos h), portTo_is ..⟩
    · next h => exact congrArg Host.Outcome.next (if_neg h)
  · split
    · next h => exact ⟨⟨_, congrArg Host.Outcome.next (if_pos h), portTo_is ..⟩, ⟨_, congrArg Host.Outcome.next (if_pos h), portTo_is ..⟩⟩
    · next h => exact ⟨congrArg Host.Outcome.next (if_neg h), congrArg Host.Outcome.next (if_neg h)⟩

/-- MKA: a frame where the link is up, then the port secured or its association lost (R309, R313). -/
def mkaSent (s : State) (n : Nat) : State := if (s.port n).linked then emit s (.mkaFrame n) else s

theorem mkaSent_is (s : State) (n : Nat) : PortIs s (mkaSent s n) n (s.port n) := by
  refine portIs_books (portIs_refl s n) ?_
  unfold mkaSent
  split
  · exact OnlyReports.emit ..
  · exact OnlyReports.refl s

theorem portTo_after {s t : State} {n : Nat} {y : PortS} (h : PortIs s t n y) (st : PortSt) : PortIs s (portTo t n st) n { y with st := st } := by
  rw [← h.2.1]
  exact portIs_set h _

theorem mka_lost (s : State) (pt : Port) :
    Nexts (.mka pt false) s (fun t => PortIs s t pt.val (if (s.port pt.val).carries then { s.port pt.val with st := .securing } else s.port pt.val)) := by
  let n := pt.val
  have h := mkaSent_is s n
  by_cases hc : (s.port n).carries = true
  · refine ⟨wpFault (portTo (mkaSent s n) n .securing) n 8, congrArg Host.Outcome.next (if_pos hc), ?_⟩
    rw [if_pos hc]
    exact portIs_books (portTo_after h _) (OnlyReports.wpFault ..)
  · refine ⟨mkaSent s n, congrArg Host.Outcome.next (if_neg hc), ?_⟩
    rw [if_neg hc]
    exact h

theorem mka_live (s : State) (pt : Port) :
    let n := pt.val
    let x := s.port n
    Nexts (.mka pt true) s (fun t => t.out = (if x.linked then s.out ++ [.mkaFrame n] else s.out) ∧
      PortIs s t n (if x.st = .securing ∧ (Tab.find s.sec.caks n).isSome = true then { x with st := .up } else x)) := by
  intro n x
  have h := mkaSent_is s n
  have ho : (mkaSent s n).out = if x.linked then s.out ++ [.mkaFrame n] else s.out := by
    unfold mkaSent
    split <;> rfl
  have hs : (mkaSent s n).sec = s.sec := by rw [h.1]; rfl
  let t := if x.st = .securing ∧ (Tab.find (mkaSent s n).sec.caks n).isSome = true then portTo (mkaSent s n) n .up else mkaSent s n
  refine ⟨t, rfl, ?_, ?_⟩
  · rw [← ho]
    show State.out (ite _ _ _) = _
    split <;> rfl
  · show PortIs s (ite _ _ _) n _
    rw [hs]
    split
    · exact portTo_after h _
    · exact h

/-- What pauses the data of a port (R309, R314). -/
theorem portPauses (s : State) (pt : Port) :
    let n := pt.val
    let x := s.port n
    (if x.st = .up ∧ x.paused then Nexts (.portStalled pt) s (fun t => PortIs s t n { x with st := .stalled }) else exec (.portStalled pt) s = .next s) ∧
    (∀ us, Nexts (.pauseEnd pt ⟨true, us⟩) s (fun t => PortIs s t n { x with pfcCtl := false }) ∧
      Nexts (.pauseEnd pt ⟨false, us⟩) s (fun t => PortIs s t n { x with pfc := false, st := if x.st = .stalled ∧ x.paused ∧ !x.xoffIn then .up else x.st })) ∧
    (∀ level us, Nexts (.xoffIn pt level us) s (fun t => PortIs s t n { x with
      xoffIn := level, st := if x.st = .stalled ∧ x.paused ∧ !level ∧ !x.pfc then .up else x.st })) ∧
    (∀ (pri : BitVec 3) (quanta : BitVec 16) (us : Nat),
      (pri.toNat ≠ priData s n → pri.toNat ≠ priCtl s n → exec (.pfcFrame pt pri quanta us) s = .next s) ∧
      (pri.toNat = priCtl s n → Nexts (.pfcFrame pt pri quanta us) s (fun t => PortIs s t n { x with pfcCtl := decide (quanta ≠ 0) })) ∧
      (pri.toNat = priData s n → pri.toNat ≠ priCtl s n → Nexts (.pfcFrame pt pri quanta us) s (fun t => PortIs s t n { x with
        pfc := decide (quanta ≠ 0), st := if x.st = .stalled ∧ x.paused ∧ quanta = 0 ∧ !x.xoffIn then .up else x.st }))) ∧
    (if x.xoffOut ∧ x.carries then exec (.pfcResend pt) s = .next { s with out := s.out ++ [.pfc n (BitVec.ofNat 3 (priData s n)) 0xFFFF] }
     else exec (.pfcResend pt) s = .next s) := by
  intro n x
  have hsettle (y : PortS) (us : Nat) := pauseSettle_is (portIs_setPort s n y) x.paused us
  have hst {P Q : Prop} [Decidable P] [Decidable Q] (h : P ↔ Q) {a b : PortSt} : (if P then a else b) = if Q then a else b := if_congr h rfl rfl
  refine ⟨?_, fun us => ⟨⟨_, rfl, portIs_setPort ..⟩, ⟨_, rfl, ?_⟩⟩, fun level us => ⟨_, rfl, ?_⟩,
    fun pri quanta us => ⟨fun h1 h2 => (if_neg h2).trans (if_pos h1), fun h => ⟨_, if_pos h, ?_⟩, fun h1 h2 => ⟨_, (if_neg h2).trans (if_neg (not_not.mpr h1)), ?_⟩⟩, ?_⟩
  · split
    · next h => exact ⟨_, if_pos h, portIs_books (portIs_books (portTo_is s n .stalled) (OnlyReports.wpFault ..)) (OnlyReports.reportE ..)⟩
    · next h => exact if_neg h
  · have h := hsettle { x with pfc := false } us
    rw [hst (Q := x.st = .stalled ∧ x.paused = true ∧ (!x.xoffIn) = true) (by simp [PortS.paused]; tauto)] at h
    exact h
  · have h := hsettle { x with xoffIn := level } us
    rw [hst (Q := x.st = .stalled ∧ x.paused = true ∧ (!level) = true ∧ (!x.pfc) = true) (by simp [PortS.paused]; tauto)] at h
    exact h
  · rw [show decide (quanta ≠ 0) = (quanta != 0) by rw [Bool.eq_iff_iff, decide_eq_true_iff, bne_iff_ne]]
    exact portIs_setPort ..
  · have h := hsettle { x with pfc := quanta != 0 } us
    rw [hst (Q := x.st = .stalled ∧ x.paused = true ∧ quanta = 0 ∧ (!x.xoffIn) = true) (by simp [PortS.paused]; tauto)] at h
    rw [show decide (quanta ≠ 0) = (quanta != 0) by rw [Bool.eq_iff_iff, decide_eq_true_iff, bne_iff_ne]]
    exact h
  · split
    · next h => exact congrArg Host.Outcome.next ((if_pos h.1).trans (if_pos h.2))
    · next h =>
      refine congrArg Host.Outcome.next ?_
      by_cases hx : x.xoffOut = true
      · exact (if_pos hx).trans (if_neg fun hc => h ⟨hx, hc⟩)
      · exact if_neg hx

/-- Settles O31: every move of a port's state, its pauses, OFFLINE and failure. -/
theorem portLinks : Obligations.PortLinks := by
  intro s pt n x refused uses fails
  obtain ⟨hsig, htrain⟩ := portTraining s pt
  obtain ⟨hstall, hpause, hxoff, hpfc, hresend⟩ := portPauses s pt
  have hlost := mka_lost s pt
  refine ⟨hsig, htrain, ?_, mka_live s pt, hstall, hpause, hxoff, hpfc, hresend, ?_, ?_, ?_⟩
  · split
    · next h =>
      rw [if_pos h] at hlost
      exact ⟨⟨_, congrArg Host.Outcome.next (if_pos h), portIs_books (portTo_is ..) (OnlyReports.wpFault ..)⟩, hlost,
        ⟨_, congrArg Host.Outcome.next (if_pos h), portTo_is ..⟩⟩
    · next h =>
      rw [if_neg h] at hlost
      exact ⟨congrArg Host.Outcome.next (if_neg h), hlost, congrArg Host.Outcome.next (if_neg h)⟩
  · split
    · next h => exact congrArg Host.Outcome.next (if_pos h)
    · next h => exact ⟨_, congrArg Host.Outcome.next (if_neg h), portConnsFail_spec s n .offline⟩
  · split
    · next h => exact ⟨_, congrArg Host.Outcome.next (if_neg (by
        rw [not_or, not_not, Bool.not_eq_true]
        exact h)), portTo_is ..⟩
    · next h =>
      refine congrArg Host.Outcome.next (if_pos ?_)
      rw [not_and_or, Bool.not_eq_false] at h
      exact h
  · split
    · next h => exact congrArg Host.Outcome.next (if_pos h)
    · next h =>
      let t := portConnsFail (portTo s n .failed) n
      let u := reportE t 0x0E .unit 2 (portUnit n) (BitVec.ofNat 32 n) 0
      have hu : OnlyReports t u := OnlyReports.reportE ..
      have hp (m : Nat) : u.port m = t.port m := by rw [show u = _ from hu]; rfl
      have hc (j : Nat) : chain u j = chain t j := by rw [show u = _ from hu]; rfl
      obtain ⟨h1, h2, h3, h4, h5, h6⟩ := portConnsFail_spec s n .failed
      refine ⟨u, congrArg Host.Outcome.next (if_neg h), by rw [hp]; exact h1, fun p hl hv => by rw [hp]; exact h2 p hl hv, fun h => ?_, fun j => ?_, ?_,
        fun m hm => by rw [hp]; exact h6 m hm⟩
      · refine Eq.trans ?_ (h3 h)
        rw [show u = _ from hu]
      · rw [hc]
        exact h4 j
      · refine Eq.trans ?_ h5
        rw [show u = _ from hu]

end Sys2Proof.Machine
end

section
/-! PROOFS. The control queue of a port and its consumers. -/

namespace Sys2Proof.Machine

open Sys2Proof.Claims

/-! ## The control queue's consumers -/

/-- Every port's control queue is as before. -/
structure QueueKept (s t : State) : Prop where
  ctlq : ∀ m, (t.port m).ctlq = (s.port m).ctlq

theorem QueueKept.refl (s : State) : QueueKept s s := ⟨fun _ => rfl⟩

theorem QueueKept.trans {s t u : State} (h : QueueKept s t) (g : QueueKept t u) : QueueKept s u := ⟨fun m => (g.ctlq m).trans (h.ctlq m)⟩

theorem QueueKept.of_ports {s t : State} (h : t.ports = s.ports) : QueueKept s t := ⟨fun m => by rw [port_of_ports h]⟩

theorem QueueKept.of_reports {s t : State} (h : OnlyReports s t) : QueueKept s t := .of_ports (by rw [show t = _ from h])

theorem QueueKept.foldl {α : Type} {f : State → α → State} (hf : ∀ s a, QueueKept s (f s a)) (l : List α) (s : State) : QueueKept s (l.foldl f s) := by
  induction l generalizing s with
  | nil => exact .refl s
  | cons a l ih => exact (hf s a).trans (ih _)

theorem AbortWork.queueKept {s t : State} (h : AbortWork s t) : QueueKept s t := ⟨fun m => by rw [h.port]⟩

theorem StrikesEnd.queueKept {s t : State} {f : Nat → Strike → Bool} {code : Nat} (h : StrikesEnd s t f code) : QueueKept s t :=
  ⟨fun m => by rw [h.port]⟩

theorem updConn_queueKept (s : State) (n peer : Nat) (f : Conn → Conn) : QueueKept s (updConn s n peer f) := ⟨fun m => by rw [port_updConn]⟩

theorem setPort_queueKept {s : State} {n : Nat} {x : PortS} (h : x.ctlq = (s.port n).ctlq) : QueueKept s (s.setPort n x) := by
  refine ⟨fun m => ?_⟩
  rw [port_setPort]
  split
  · next hm => rw [h, hm]
  · rfl

theorem sendUnseq_queueKept (s : State) (n peer : Nat) (f : TxFrame) : QueueKept s (sendUnseq s n peer f) := by
  unfold sendUnseq
  split
  · exact updConn_queueKept ..
  · exact .refl s

theorem sendAckFrame_queueKept (s : State) (n peer : Nat) : QueueKept s (sendAckFrame s n peer) :=
  QueueKept.trans (t := sendUnseq s n peer (plainFrame 3 [((s.port n).conn peer).data.exp, ((s.port n).conn peer).ctl.exp]))
    (sendUnseq_queueKept ..) (updConn_queueKept _ n peer fun c => { c with data := { c.data with since := 0 }, ctl := { c.ctl with since := 0 } })

theorem sendNak_queueKept (s : State) (n peer : Nat) (ctl : Bool) : QueueKept s (sendNak s n peer ctl) := by
  unfold sendNak
  dsimp only
  split
  · exact .refl s
  · exact (sendUnseq_queueKept ..).trans (updConn_queueKept ..)

theorem ackDir_queueKept (s : State) (n peer : Nat) (ctl : Bool) (psn : Word) : QueueKept s (ackDir s n peer ctl psn) :=
  QueueKept.trans (t := updConn s n peer fun c => c.setDir ctl ((c.dir ctl).release psn)) (updConn_queueKept ..) (.of_ports rfl)

theorem wpCount_queueKept (s : State) (n o k : Nat) : QueueKept s (wpCount s n o k) := .of_reports (OnlyReports.wpCount ..)

theorem wpDrop_queueKept (s : State) (n : Nat) : QueueKept s (wpDrop s n) :=
  (wpCount_queueKept ..).trans (.of_reports (OnlyReports.wpFault ..))

theorem sequence_queueKept (s : State) (n : Nat) (r : RxFrame) : QueueKept s (sequence s n r).2 := by
  unfold sequence
  dsimp only
  split
  · exact wpCount_queueKept ..
  · split
    · exact .refl s
    · split
      · exact sendNak_queueKept ..
      · exact sendAckFrame_queueKept ..

theorem acceptFrame_queueKept (s : State) (n : Nat) (r : RxFrame) : QueueKept s (acceptFrame s n r) := by
  let s1 := updConn (wpCount s n 0x088 1) n r.peer fun c =>
    c.setDir (zPri r.hdr) { c.dir (zPri r.hdr) with exp := (c.dir (zPri r.hdr)).exp + 1, since := (c.dir (zPri r.hdr)).since + 1 }
  let s2 := ackDir s1 n r.peer (zPri r.hdr) (zAck r.hdr)
  have h2 : QueueKept s s2 := ((wpCount_queueKept ..).trans (updConn_queueKept ..)).trans (ackDir_queueKept s1 ..)
  show QueueKept s (ite _ (sendAckFrame s2 n r.peer) s2)
  split
  · exact h2.trans (sendAckFrame_queueKept ..)
  · exact h2

theorem countBad_reports (s : State) (n k : Nat) : OnlyReports s (countBad s n k) := by
  unfold countBad
  split
  · exact OnlyReports.refl s
  · exact (OnlyReports.wpCount ..).trans (OnlyReports.wpFault ..)

theorem useCtl_queueKept {f : State → RxFrame → State} (hf : ∀ s r, QueueKept s (f s r)) (s : State) (n : Nat) (r : RxFrame) :
    QueueKept s (useCtl s n r f) := by
  unfold useCtl
  split
  · exact hf s r
  · exact .of_reports (countBad_reports ..)

/-- What a consumer does only with a frame in sequence. -/
def taken (s : State) (n : Nat) (r : RxFrame) (f : State → State) : State :=
  if (sequence s n r).1 = true then f (acceptFrame (sequence s n r).2 n r) else (sequence s n r).2

theorem taken_queueKept {f : State → State} (hf : ∀ s, QueueKept s (f s)) (s : State) (n : Nat) (r : RxFrame) : QueueKept s (taken s n r f) := by
  unfold taken
  split
  · exact (sequence_queueKept ..).trans ((acceptFrame_queueKept ..).trans (hf _))
  · exact sequence_queueKept ..

/-- A frame of a group in another epoch is counted (R323). -/
def epochCount (n : Nat) (r : RxFrame) (s : State) : State :=
  match groupOf s (peerOwner s n r.peer) (zGroup r.hdr) with
  | some (_, g) => if g.epoch = zEpoch r.hdr then s else wpCount s n 0x0A8 1
  | none => s

theorem epochCount_queueKept (n : Nat) (r : RxFrame) (s : State) : QueueKept s (epochCount n r s) := by
  unfold epochCount
  split
  · split
    · exact .refl s
    · exact wpCount_queueKept ..
  · exact .refl s

theorem not_ite {α : Type} (b : Bool) (x y : α) : (if (!b) = true then x else y) = if b = true then y else x := by
  cases b <;> rfl

theorem takeCounts_eq (s : State) (n : Nat) (r : RxFrame) : takeCounts s n r = taken s n r (epochCount n r) := not_ite ..

theorem takeCounts_queueKept (s : State) (n : Nat) (r : RxFrame) : QueueKept s (takeCounts s n r) := by
  rw [takeCounts_eq]
  exact taken_queueKept (epochCount_queueKept n r) s n r

/-- COUNTS frames leave the head of the queue. -/
theorem drainCounts_ctlq (s : State) (n : Nat) : ((drainCounts s n).port n).ctlq = (s.port n).ctlq.dropWhile (fun c => zType c.hdr == 5) := by
  let v := s.setPort n { s.port n with ctlq := (s.port n).ctlq.dropWhile fun c => zType c.hdr == 5 }
  have h : QueueKept v (drainCounts s n) := QueueKept.foldl (fun s r => useCtl_queueKept (fun s r => takeCounts_queueKept s n r) s n r) _ v
  rw [h.ctlq, port_setPort_same]

/-- Where no COUNTS frame is at the head of the queue, nothing is drained. -/
theorem drainCounts_quiet {s : State} {n : Nat} (h : ∀ c, (s.port n).ctlq.head? = some c → zType c.hdr ≠ 5) :
    drainCounts s n = s.setPort n (s.port n) := by
  have hp : ∀ l : List RxFrame, (∀ c, l.head? = some c → zType c.hdr ≠ 5) →
      l.takeWhile (fun c => zType c.hdr == 5) = [] ∧ l.dropWhile (fun c => zType c.hdr == 5) = l := by
    intro l hl
    cases l with
    | nil => exact ⟨rfl, rfl⟩
    | cons a l =>
      have ha : ¬ (zType a.hdr == 5) = true := fun h => hl a rfl (eq_of_beq h)
      exact ⟨List.takeWhile_cons_of_neg ha, List.dropWhile_cons_of_neg ha⟩
  obtain ⟨h1, h2⟩ := hp _ h
  unfold drainCounts
  dsimp only
  rw [h1, h2]
  rfl

theorem port_setPort_self (s : State) (n m : Nat) : (s.setPort n (s.port n)).port m = s.port m := by
  rw [port_setPort]
  split
  · next h => rw [h]
  · rfl

/-- A consumer with nothing in its queue, or with a frame of another TYPE at its head. -/
theorem takeCtl_idle {s : State} {n type : Nat} (f : State → RxFrame → State)
    (h : (s.port n).ctlq = [] ∨ ∃ r rest, (s.port n).ctlq = r :: rest ∧ zType r.hdr ≠ type) : takeCtl s n type f = s := by
  unfold takeCtl
  rcases h with h | ⟨r, rest, h, ht⟩
  · rw [h]
  · rw [h]
    exact if_pos ht

/-- The state in which a consumer sees the frame it takes. -/
def withoutHead (s : State) (n : Nat) (rest : List RxFrame) : State := s.setPort n { s.port n with ctlq := rest }

theorem takeCtl_eq {s : State} {n type : Nat} {r : RxFrame} {rest : List RxFrame} (f : State → RxFrame → State) (h : (s.port n).ctlq = r :: rest)
    (ht : zType r.hdr = type) : takeCtl s n type f = drainCounts (useCtl (withoutHead s n rest) n r f) n := by
  unfold takeCtl
  rw [h]
  exact if_neg (not_not.mpr ht)

theorem takeCtl_ctlq {s : State} {n type : Nat} {r : RxFrame} {rest : List RxFrame} {f : State → RxFrame → State} (hf : ∀ s r, QueueKept s (f s r))
    (h : (s.port n).ctlq = r :: rest) (ht : zType r.hdr = type) :
    ((takeCtl s n type f).port n).ctlq = rest.dropWhile (fun c => zType c.hdr == 5) := by
  rw [takeCtl_eq f h ht, drainCounts_ctlq, (useCtl_queueKept hf _ n r).ctlq, withoutHead, port_setPort_same]

/-- A frame at the head of the queue, taken with its words sound: what its consumer does, and no COUNTS frame follows. -/
theorem takeCtl_sound {s : State} {n type : Nat} {r : RxFrame} {rest : List RxFrame} {f : State → RxFrame → State} (hf : ∀ s r, QueueKept s (f s r))
    (h : CtlIn s n type r rest) :
    let u := f (withoutHead s n rest) r
    takeCtl s n type f = u.setPort n (u.port n) ∧ (u.port n).ctlq = rest := by
  obtain ⟨hq, ht, hb, hc⟩ := h
  have hu : useCtl (withoutHead s n rest) n r f = f (withoutHead s n rest) r := if_pos hb
  have hr : ((f (withoutHead s n rest) r).port n).ctlq = rest := by
    rw [(hf _ r).ctlq, withoutHead, port_setPort_same]
  refine ⟨?_, hr⟩
  rw [takeCtl_eq f hq ht, hu, drainCounts_quiet (by rw [hr]; exact hc)]

theorem wpOff_lt {n o : Nat} (h : n < 8) (ho : o < 4096) : wpOff n o < 2 ^ 26 := by
  have e : wpOff n o = 4194304 + 4096 * n + o := rfl
  omega

theorem wpOff_add (n o k : Nat) : wpOff n o + k = wpOff n (o + k) := Nat.add_assoc ..

theorem wpOff_ne (n : Nat) {o o' : Nat} (h : o ≠ o') : wpOff n o ≠ wpOff n o' := fun e => h (Nat.add_left_cancel e)

/-- A write of one of a port's registers leaves its others. -/
theorem regFixed_wpFault {n o : Nat} (s : State) (b : Word) (hn : n < 8) (ho : o < 4096) (hne : o ≠ 12) : RegFixed (wpOff n o) s (wpFault s n b) :=
  RegFixed.regSet s 0 0 _ (wpOff_lt hn ho) (wpOff_lt hn (by decide)) (wpOff_ne n hne)

theorem regFixed_wpCount {n o o' : Nat} (s : State) (k : Nat) (hn : n < 8) (ho : o < 4096) (ho' : o' + 4 < 4096) (h1 : o ≠ o') (h2 : o ≠ o' + 4) :
    RegFixed (wpOff n o) s (wpCount s n o' k) := by
  have hlt : wpOff n o' + 4 < 2 ^ 26 := by
    rw [wpOff_add]
    exact wpOff_lt hn ho'
  have hne : wpOff n o ≠ wpOff n o' + 4 := by
    rw [wpOff_add]
    exact wpOff_ne n h2
  exact RegFixed.cntAdd (off' := wpOff n o') s 0 0 k (wpOff_lt hn ho) hlt (wpOff_ne n h1) hne

theorem wpCount_form (s : State) (n o k : Nat) : wpCount s n o k = { s with regs := (wpCount s n o k).regs } := rfl

theorem wpFault_form (s : State) (n : Nat) (b : Word) : wpFault s n b = { s with regs := (wpFault s n b).regs } := rfl

theorem countBad_form (s : State) (n k : Nat) : countBad s n k = { s with regs := (countBad s n k).regs } := by
  unfold countBad
  split
  · rfl
  · rw [wpFault_form, wpCount_form]

theorem reg64_countBad (s : State) {n k : Nat} (hn : n < 8) (hk : k ≠ 0) :
    reg64 (countBad s n k) 0 0 (wpOff n 0x0B0) = reg64 s 0 0 (wpOff n 0x0B0) + BitVec.ofNat 64 k := by
  have e : countBad s n k = wpFault (wpCount s n 0x0B0 k) n 2 := if_neg hk
  have hlo : RegFixed (wpOff n 0x0B0) (wpCount s n 0x0B0 k) (countBad s n k) := by
    rw [e]
    exact regFixed_wpFault _ 2 hn (by decide) (by decide)
  have hhi : RegFixed (wpOff n 0x0B0 + 4) (wpCount s n 0x0B0 k) (countBad s n k) := by
    rw [e, wpOff_add]
    exact regFixed_wpFault _ 2 hn (by decide) (by decide)
  rw [hlo.reg64 hhi]
  exact reg64_cntAdd s 0 0 (wpOff n 0x0B0) k

/-- A frame with a poisoned word: counted, and nothing else (R316; log entry 106). -/
theorem takeCtl_bad {s : State} {n type : Nat} {r : RxFrame} {rest : List RxFrame} (f : State → RxFrame → State) (hn : n < 8)
    (hq : (s.port n).ctlq = r :: rest) (ht : zType r.hdr = type) (hb : ctlBad r ≠ 0) (hc : ∀ c, rest.head? = some c → zType c.hdr ≠ 5) :
    let t := takeCtl s n type f
    t = { s with ports := t.ports, regs := t.regs } ∧ PortIs s t n { s.port n with ctlq := rest } ∧
      reg64 t 0 0 (wpOff n 0x0B0) = reg64 s 0 0 (wpOff n 0x0B0) + BitVec.ofNat 64 (ctlBad r) := by
  let u := countBad (withoutHead s n rest) n (ctlBad r)
  have hu : useCtl (withoutHead s n rest) n r f = u := if_neg hb
  have hf : u = { withoutHead s n rest with regs := u.regs } := countBad_form ..
  have hp (m : Nat) : u.port m = (withoutHead s n rest).port m := by rw [hf]; rfl
  have h0 : (withoutHead s n rest).port n = { s.port n with ctlq := rest } := port_setPort_same ..
  have hd : drainCounts u n = u.setPort n (u.port n) := drainCounts_quiet (by rw [hp, h0]; exact hc)
  intro t
  have e : t = u.setPort n (u.port n) := (takeCtl_eq f hq ht).trans ((congrArg (drainCounts · n) hu).trans hd)
  have hform : t = { s with ports := t.ports, regs := u.regs } := by
    rw [e]
    unfold State.setPort
    rw [hf]
    rfl
  have hregs : t.regs = u.regs := by rw [e]; rfl
  have hport (m : Nat) : t.port m = (withoutHead s n rest).port m := by rw [e, port_setPort_self, hp]
  refine ⟨hform.trans (by rw [hregs]), ⟨?_, (hport n).trans h0, fun m hm => (hport m).trans (port_setPort_other _ _ hm)⟩, ?_⟩
  · rw [hform]
    rfl
  · rw [RegFixed.reg64 (RegFixed.of_regs hregs) (RegFixed.of_regs hregs)]
    exact reg64_countBad _ hn hb

/-! ## What each consumer does -/

/-- CONNECT answered with both session numbers (R320). -/
def connAnswer (n : Nat) (r : RxFrame) (s : State) : State :=
  sendUnseq s n r.peer (plainFrame 2 [payWord r.pay 0, (s.port n).session])

def connectBody (n : Nat) (s : State) (r : RxFrame) : State :=
  let s := wpCount s n 0x088 1
  match ((s.port n).conn r.peer).st with
  | .opened =>
    if ((s.port n).conn r.peer).sess = some (payWord r.pay 0) then connAnswer n r s
    else connAnswer n r (updConn (connLost s n r.peer .opened 4) n r.peer fun c => { c with sess := some (payWord r.pay 0) })
  | .opening => connAnswer n r (updConn s n r.peer fun c => { c with st := .opened, sess := some (payWord r.pay 0), unseq := [] })
  | _ => connAnswer n r (s.setPort n ((s.port n).setConn r.peer { st := .opened, sess := some (payWord r.pay 0) }))

def acceptBody (n : Nat) (s : State) (r : RxFrame) : State :=
  let s := wpCount s n 0x088 1
  if ((s.port n).conn r.peer).st = .opening ∧ payWord r.pay 0 = (s.port n).session then
    updConn s n r.peer fun c => { c with st := .opened, sess := some (payWord r.pay 1) }
  else s

def ackBody (n : Nat) (s : State) (r : RxFrame) : State :=
  let s := wpCount s n 0x088 1
  if ((s.port n).conn r.peer).st ≠ .opened then s
  else ackDir (ackDir s n r.peer false (payWord r.pay 0)) n r.peer true (payWord r.pay 1)

/-- A connection after a NAK of one priority's PSN (R322). -/
def Conn.stepBack (r : RxFrame) (c : Conn) : Conn :=
  let ctl := (payWord r.pay 0).getLsbD 0
  let d := c.dir ctl
  let k := (payWord r.pay 1 - d.base).toNat
  if d.sent < k ∨ c.st ≠ .opened then c else c.setDir ctl { d with sent := k }

def nakBody (n : Nat) (s : State) (r : RxFrame) : State := updConn (wpCount s n 0x088 1) n r.peer (Conn.stepBack r)

/-- The server of a REDUCE whose verdict a frame may bring. -/
def verdictGiven (n : Nat) (r : RxFrame) (s : State) : State :=
  let p := peerOwner s n r.peer
  match groupOf s p (zGroup r.hdr) with
  | none => s
  | some (_, g) =>
    if zEpoch r.hdr ≠ g.epoch then wpCount s n 0x0A8 1
    else
      match (strikes s).find? (fun e => e.1 / 512 == p && e.2.kind == 3 && e.2.ph == .counts && e.2.code == 0 &&
          e.2.grp.id == zGroup r.hdr && e.2.op == zOp r.hdr) with
      | none => s
      | some (k, x) =>
        match (x.grp.servers.zipIdx.find? (fun e => e.1 == (n, r.peer) && (Tab.find x.verdicts e.2).isNone)) with
        | some (_, srv) => giveVerdict s k x srv (payWord r.pay 0)
        | none => s

/-- A NOTICE's words enter the notice queue where it has room (R315). -/
def noticeBody (n : Nat) (s : State) (r : RxFrame) : State :=
  if (sequence s n r).1 = true then
    let s := (sequence s n r).2
    if 1024 < (s.port n).notice.length + (noticeWords r).length then wpDrop s n
    else
      let s := acceptFrame s n r
      s.setPort n { s.port n with notice := (s.port n).notice ++ noticeWords r }
  else (sequence s n r).2

theorem connAnswer_queueKept (n : Nat) (r : RxFrame) (s : State) : QueueKept s (connAnswer n r s) := sendUnseq_queueKept ..

theorem connLost_queueKept (s : State) (n peer : Nat) (st : ConnSt) (code : Nat) : QueueKept s (connLost s n peer st code) :=
  (setPort_queueKept (x := (s.port n).setConn peer { st := st }) rfl).trans
    (abortStrikes_end _ (fun _ x => x.uses.contains (n, peer)) code).queueKept

theorem connectBody_queueKept (n : Nat) (s : State) (r : RxFrame) : QueueKept s (connectBody n s r) := by
  unfold connectBody
  dsimp only
  split
  · split
    · exact (wpCount_queueKept ..).trans (connAnswer_queueKept ..)
    · exact (wpCount_queueKept s n 0x088 1).trans ((connLost_queueKept ..).trans ((updConn_queueKept ..).trans (connAnswer_queueKept ..)))
  · exact (wpCount_queueKept s n 0x088 1).trans ((updConn_queueKept ..).trans (connAnswer_queueKept ..))
  · refine (wpCount_queueKept s n 0x088 1).trans (QueueKept.trans (setPort_queueKept ?_) (connAnswer_queueKept ..))
    rfl

theorem acceptBody_queueKept (n : Nat) (s : State) (r : RxFrame) : QueueKept s (acceptBody n s r) := by
  unfold acceptBody
  dsimp only
  split
  · exact (wpCount_queueKept s n 0x088 1).trans (updConn_queueKept ..)
  · exact wpCount_queueKept ..

theorem ackBody_queueKept (n : Nat) (s : State) (r : RxFrame) : QueueKept s (ackBody n s r) := by
  unfold ackBody
  dsimp only
  split
  · exact wpCount_queueKept ..
  · exact (wpCount_queueKept s n 0x088 1).trans ((ackDir_queueKept ..).trans (ackDir_queueKept ..))

theorem updStrike_queueKept (s : State) (k sid : Nat) (f : Strike → Strike) : QueueKept s (updStrike s k sid f) := .of_ports rfl

theorem giveVerdict_queueKept (s : State) (k : Nat) (x : Strike) (srv : Nat) (v : Word) : QueueKept s (giveVerdict s k x srv v) := by
  let y : Strike := { x with verdicts := Tab.put x.verdicts srv v }
  let s1 := updStrike s k y.sid fun _ => y
  have h1 : QueueKept s s1 := updStrike_queueKept ..
  show QueueKept s (ite _ s1 (ite _ _ _))
  split
  · exact h1
  · split
    · refine h1.trans ((updStrike_queueKept s1 k y.sid fun x => { x with ph := .data }).trans (QueueKept.foldl (fun s e => ?_) _ _))
      exact QueueKept.foldl (fun s f => (sendSeq_abortWork ..).queueKept) _ s
    · exact h1.trans ((QueueKept.of_reports (OnlyReports.regOr s1 _ 0 _ _)).trans (abortStrikes_end ..).queueKept)

theorem verdictGiven_queueKept (n : Nat) (r : RxFrame) (s : State) : QueueKept s (verdictGiven n r s) := by
  unfold verdictGiven
  dsimp only
  split
  · exact .refl s
  · split
    · exact wpCount_queueKept ..
    · split
      · exact .refl s
      · split
        · exact giveVerdict_queueKept ..
        · exact .refl s

theorem noticeBody_queueKept (n : Nat) (s : State) (r : RxFrame) : QueueKept s (noticeBody n s r) := by
  unfold noticeBody
  dsimp only
  split
  · split
    · exact (sequence_queueKept ..).trans (wpDrop_queueKept ..)
    · exact (sequence_queueKept ..).trans ((acceptFrame_queueKept ..).trans (setPort_queueKept rfl))
  · exact sequence_queueKept ..

theorem execVerdict_eq (pt : Port) (s : State) :
    exec (.verdict pt) s = .next (takeCtl s pt.val 6 fun s r => taken s pt.val r (verdictGiven pt.val r)) :=
  congrArg (fun f => Host.Outcome.next (takeCtl s pt.val 6 f)) (funext fun _ => funext fun _ => not_ite ..)

theorem execZaruxAbort_eq (pt : Port) (s : State) :
    exec (.zaruxAbort pt) s = .next (takeCtl s pt.val 9 fun s r => taken s pt.val r (epochCount pt.val r)) :=
  congrArg (fun f => Host.Outcome.next (takeCtl s pt.val 9 f)) (funext fun _ => funext fun _ => not_ite ..)

theorem execNotice_eq (pt : Port) (s : State) : exec (.notice pt) s = .next (takeCtl s pt.val 10 (noticeBody pt.val)) :=
  congrArg (fun f => Host.Outcome.next (takeCtl s pt.val 10 f)) (funext fun _ => funext fun _ => not_ite ..)

/-- What the control queue does under one consumer. -/
theorem ctlQueue_of {s : State} {pt : Port} {i : Instr} {type : Nat} {f : State → RxFrame → State} (he : exec i s = .next (takeCtl s pt.val type f))
    (hf : ∀ s r, QueueKept s (f s r)) :
    let n := pt.val
    let x := s.port n
    (x.ctlq = [] → exec i s = .next s) ∧
    ∀ r rest, x.ctlq = r :: rest →
      (zType r.hdr ≠ type → exec i s = .next s) ∧
      (zType r.hdr = type → Nexts i s (fun t => (t.port n).ctlq = rest.dropWhile (fun c => zType c.hdr == 5))) ∧
      (zType r.hdr = type → ctlBad r ≠ 0 → (∀ c, rest.head? = some c → zType c.hdr ≠ 5) → Nexts i s (fun t =>
        t = { s with ports := t.ports, regs := t.regs } ∧ PortIs s t n { x with ctlq := rest } ∧
        reg64 t 0 0 (wpOff n 0x0B0) = reg64 s 0 0 (wpOff n 0x0B0) + BitVec.ofNat 64 (ctlBad r))) :=
  ⟨fun h => he.trans (congrArg _ (takeCtl_idle f (.inl h))), fun r rest hq =>
    ⟨fun ht => he.trans (congrArg _ (takeCtl_idle f (.inr ⟨r, rest, hq, ht⟩))), fun ht => ⟨_, he, takeCtl_ctlq hf hq ht⟩,
      fun ht hb hc => ⟨_, he, takeCtl_bad f pt.isLt hq ht hb hc⟩⟩⟩

theorem ctlQueue : CtlQueue := by
  intro s pt e he
  simp only [List.mem_cons, List.not_mem_nil, or_false] at he
  rcases he with rfl | rfl | rfl | rfl | rfl | rfl | rfl
  · exact ctlQueue_of (f := connectBody pt.val) rfl (connectBody_queueKept _)
  · exact ctlQueue_of (f := acceptBody pt.val) rfl (acceptBody_queueKept _)
  · exact ctlQueue_of (f := ackBody pt.val) rfl (ackBody_queueKept _)
  · exact ctlQueue_of (f := nakBody pt.val) rfl fun s r => (wpCount_queueKept s pt.val 0x088 1).trans (updConn_queueKept ..)
  · exact ctlQueue_of (execVerdict_eq pt s) fun s r => taken_queueKept (verdictGiven_queueKept _ r) s _ r
  · exact ctlQueue_of (execZaruxAbort_eq pt s) fun s r => taken_queueKept (epochCount_queueKept _ r) s _ r
  · exact ctlQueue_of (execNotice_eq pt s) (noticeBody_queueKept _)

end Sys2Proof.Machine
end

section
/-! PROOFS. CONNECT, ACCEPT, ACK and NAK. -/

namespace Sys2Proof.Machine

open Sys2Proof.Claims

/-! ## CONNECT, ACCEPT, ACK and NAK -/

theorem conn_withoutHead (s : State) (n : Nat) (rest : List RxFrame) (peer : Nat) :
    ((withoutHead s n rest).port n).conn peer = (s.port n).conn peer := by
  rw [withoutHead, port_setPort_same]
  rfl

theorem session_withoutHead (s : State) (n : Nat) (rest : List RxFrame) : ((withoutHead s n rest).port n).session = (s.port n).session := by
  rw [withoutHead, port_setPort_same]

theorem peerValid_of {s t : State} {n peer : Nat} (h : RegFixed (wpOff n 0x038) s t) : peerValid t n peer = peerValid s n peer := by
  rw [peerValid, peerCtrl, h.same]
  rfl

theorem sendUnseq_form (s : State) (n peer : Nat) (f : TxFrame) : sendUnseq s n peer f = { s with ports := (sendUnseq s n peer f).ports } := by
  unfold sendUnseq
  split <;> rfl

/-- An unsequenced frame joins its connection's, where the entry is valid (R310). -/
theorem conn_sendUnseq (s : State) (n peer : Nat) (f : TxFrame) :
    ((sendUnseq s n peer f).port n).conn peer =
      { (s.port n).conn peer with unseq := ((s.port n).conn peer).unseq ++ if peerValid s n peer then [f] else [] } := by
  unfold sendUnseq
  split
  · exact conn_updConn_same ..
  · rw [List.append_nil]

/-- A connection opened by CONNECT and answered: what a state before the answer leaves. -/
theorem connAnswer_spec {s v : State} {n : Nat} {r : RxFrame} {w : List TxFrame} (hst : ((v.port n).conn r.peer).st = .opened)
    (hse : ((v.port n).conn r.peer).sess = some (payWord r.pay 0)) (hw : ((v.port n).conn r.peer).unseq = w)
    (hsn : (v.port n).session = (s.port n).session) (hv : peerValid v n r.peer = peerValid s n r.peer) :
    let c := ((connAnswer n r v).port n).conn r.peer
    c.st = .opened ∧ c.sess = some (payWord r.pay 0) ∧
      c.unseq = w ++ (if peerValid s n r.peer then [⟨2, 0, 0, 0, 0, [payWord r.pay 0, (s.port n).session], [], 0, 0⟩] else []) := by
  intro c
  have hc : c = _ := conn_sendUnseq ..
  rw [hc]
  exact ⟨hst, hse, by rw [← hw, ← hv, ← hsn]; rfl⟩

theorem connAnswer_form (n : Nat) (r : RxFrame) (v : State) : connAnswer n r v = { v with ports := (connAnswer n r v).ports } := sendUnseq_form ..

/-- A connection that resets or fails, and the strikes that use it (R320, R322). -/
theorem connLost_end (s : State) (n peer : Nat) (st : ConnSt) (code : Nat) :
    StrikesEnd (s.setPort n ((s.port n).setConn peer { st := st })) (connLost s n peer st code) (fun _ y => y.uses.contains (n, peer)) code :=
  abortStrikes_end _ (fun _ y => y.uses.contains (n, peer)) code

theorem connLost_conn (s : State) (n peer : Nat) (st : ConnSt) (code : Nat) :
    let c := ((connLost s n peer st code).port n).conn peer
    c.st = st ∧ c.sess = none ∧ c.unseq = [] := by
  intro c
  have h : c = _ := (connLost_end s n peer st code).conn n peer
  rw [h, port_setPort_same, conn_setConn_same]
  exact ⟨rfl, rfl, rfl⟩

theorem connLost_form (s : State) (n peer : Nat) (st : ConnSt) (code : Nat) :
    let t := connLost s n peer st code
    t = { s with ports := t.ports, tiers := t.tiers, draws := t.draws, chains := t.chains } := (connLost_end s n peer st code).form

theorem connLost_spoils (s : State) (n peer : Nat) (st : ConnSt) (code : Nat) :
    SpoilsOnly s (connLost s n peer st code) (fun _ y => y.uses.contains (n, peer)) :=
  fun h => ((connLost_end s n peer st code).spoils h).trans rfl

theorem connLost_session (s : State) (n peer : Nat) (st : ConnSt) (code : Nat) :
    ((connLost s n peer st code).port n).session = (s.port n).session := by
  rw [(connLost_end s n peer st code).port, port_setPort_same]
  rfl

/-- The connection opened, before CONNECT is answered. -/
def connOpened (n : Nat) (r : RxFrame) (s : State) : State :=
  match ((s.port n).conn r.peer).st with
  | .opened =>
    if ((s.port n).conn r.peer).sess = some (payWord r.pay 0) then s
    else updConn (connLost s n r.peer .opened 4) n r.peer fun c => { c with sess := some (payWord r.pay 0) }
  | .opening => updConn s n r.peer fun c => { c with st := .opened, sess := some (payWord r.pay 0), unseq := [] }
  | _ => s.setPort n ((s.port n).setConn r.peer { st := .opened, sess := some (payWord r.pay 0) })

theorem connectBody_eq (n : Nat) (s : State) (r : RxFrame) : connectBody n s r = connAnswer n r (connOpened n r (wpCount s n 0x088 1)) := by
  unfold connectBody connOpened
  cases hst : (((wpCount s n 0x088 1).port n).conn r.peer).st with
  | opened =>
    simp only [hst]
    split <;> rfl
  | opening => simp only [hst]
  | closed => simp only [hst]
  | failed => simp only [hst]

/-- What opening a connection leaves (R320). -/
structure ConnOpens (n : Nat) (r : RxFrame) (s v : State) : Prop where
  st : ((v.port n).conn r.peer).st = .opened
  sess : ((v.port n).conn r.peer).sess = some (payWord r.pay 0)
  unseq : ((v.port n).conn r.peer).unseq =
    if ((s.port n).conn r.peer).st = .opened ∧ ((s.port n).conn r.peer).sess = some (payWord r.pay 0) then ((s.port n).conn r.peer).unseq else []
  session : (v.port n).session = (s.port n).session
  regs : v.regs = s.regs
  cores : v.cores = s.cores
  tiers : ((s.port n).conn r.peer).st = .opened ∧ ((s.port n).conn r.peer).sess ≠ some (payWord r.pay 0) ∨ v.tiers = s.tiers
  spoils : SpoilsOnly s v (fun _ y => y.uses.contains (n, r.peer))

/-- A connection reset by a CONNECT of another session (R320). -/
theorem connReset_opens {s : State} {n : Nat} {r : RxFrame} (ho : ((s.port n).conn r.peer).st = .opened)
    (hs : ((s.port n).conn r.peer).sess ≠ some (payWord r.pay 0)) :
    ConnOpens n r s (updConn (connLost s n r.peer .opened 4) n r.peer fun c => { c with sess := some (payWord r.pay 0) }) := by
  obtain ⟨c1, _, c3⟩ := connLost_conn s n r.peer .opened 4
  let v := connLost s n r.peer .opened 4
  have hf : v = _ := connLost_form s n r.peer .opened 4
  have hr : v.regs = s.regs := by rw [hf]
  have hk : v.cores = s.cores := by rw [hf]
  refine ⟨?_, ?_, ?_, ?_, hr, hk, .inl ⟨ho, hs⟩, fun h => connLost_spoils s n r.peer .opened 4 h⟩
  · rw [conn_updConn_same]
    exact c1
  · rw [conn_updConn_same]
  · rw [conn_updConn_same, if_neg fun h => hs h.2]
    exact c3
  · rw [port_updConn]
    exact connLost_session s n r.peer .opened 4

theorem connOpened_opens (n : Nat) (r : RxFrame) (s : State) : ConnOpens n r s (connOpened n r s) := by
  unfold connOpened
  split
  · next ho =>
    split
    · next hs => exact ⟨ho, hs, (if_pos ⟨ho, hs⟩).symm, rfl, rfl, rfl, .inr rfl, fun _ => rfl⟩
    · next hs => exact connReset_opens ho hs
  · next ho =>
    refine ⟨by rw [conn_updConn_same], by rw [conn_updConn_same], ?_, by rw [port_updConn], rfl, rfl, .inr rfl, fun _ => rfl⟩
    rw [conn_updConn_same, if_neg fun h => absurd (ho.symm.trans h.1) (by decide)]
  · next ho _ =>
    refine ⟨by rw [port_setPort_same, conn_setConn_same], by rw [port_setPort_same, conn_setConn_same], ?_, by rw [port_setPort_same]; rfl, rfl, rfl,
      .inr rfl, fun _ => rfl⟩
    rw [port_setPort_same, conn_setConn_same, if_neg fun h => ho h.1]

/-- What CONNECT leaves of T2 and of the connection (R320). -/
theorem connectBody_spec (s : State) {n : Nat} (r : RxFrame) (hn : n < 8) :
    let u := connectBody n s r
    let c := (s.port n).conn r.peer
    let c' := (u.port n).conn r.peer
    c'.st = .opened ∧ c'.sess = some (payWord r.pay 0) ∧
      (c.st = .opened ∧ c.sess ≠ some (payWord r.pay 0) ∨ u.tiers = s.tiers) ∧ SpoilsOnly s u (fun _ y => y.uses.contains (n, r.peer)) ∧
      u.cores = s.cores ∧
      c'.unseq = (if c.st = .opened ∧ c.sess = some (payWord r.pay 0) then c.unseq else []) ++
        (if peerValid s n r.peer then [⟨2, 0, 0, 0, 0, [payWord r.pay 0, (s.port n).session], [], 0, 0⟩] else []) := by
  let s1 := wpCount s n 0x088 1
  let v := connOpened n r s1
  have h1 : s1.port n = s.port n := port_of_ports rfl n
  have hv : RegFixed (wpOff n 0x038) s s1 := regFixed_wpCount s 1 hn (by decide) (by decide) (by decide) (by decide)
  have h : ConnOpens n r s1 v := connOpened_opens n r s1
  obtain ⟨hst, hse, hun, hsn, hr, hk, ht, hsp⟩ := h
  rw [h1] at hun ht
  obtain ⟨g1, g2, g3⟩ := connAnswer_spec (s := s) hst hse hun (hsn.trans (congrArg PortS.session h1)) (peerValid_of (hv.trans (.of_regs hr)))
  have hf : connAnswer n r v = { v with ports := (connAnswer n r v).ports } := connAnswer_form n r v
  have htv : (connAnswer n r v).tiers = v.tiers := by rw [hf]
  intro u c c'
  have e : u = connAnswer n r v := connectBody_eq n s r
  have hc : c' = ((connAnswer n r v).port n).conn r.peer := congrArg (fun s => (s.port n).conn r.peer) e
  refine ⟨hc ▸ g1, hc ▸ g2, ht.imp id fun h => ?_, fun h => ?_, ?_, hc ▸ g3⟩
  · rw [e, htv]
    exact h
  · rw [e, htv]
    exact hsp h
  · rw [e, hf]
    exact hk

theorem dir_setDir (c : Conn) (a b : Bool) (d : Dir) : (c.setDir a d).dir b = if b = a then d else c.dir b := by
  cases a <;> cases b <;> rfl

theorem conn_ackDir (s : State) (n peer : Nat) (ctl : Bool) (psn : Word) :
    ((ackDir s n peer ctl psn).port n).conn peer = ((s.port n).conn peer).setDir ctl ((((s.port n).conn peer).dir ctl).release psn) :=
  conn_updConn_same s n peer fun c => c.setDir ctl ((c.dir ctl).release psn)

/-- An ACK releases the frames before the PSN it names, where it names one (R321). -/
theorem release_spec (d : Dir) (psn : Word) :
    let k := (psn - d.base).toNat
    if k ≤ d.ever then (d.release psn).base = psn ∧ (d.release psn).q = d.q.drop k ∧ (d.release psn).sent = d.sent - k else d.release psn = d := by
  intro k
  split
  · next h =>
    by_cases h0 : k = 0
    · have e : psn = d.base := by
        have : psn - d.base = 0 := BitVec.eq_of_toNat_eq (by exact h0)
        simpa using BitVec.sub_eq_iff_eq_add.mp this
      rw [show d.release psn = d from if_pos (.inl h0), h0]
      exact ⟨e.symm, rfl, rfl⟩
    · rw [show d.release psn = _ from if_neg (not_or.mpr ⟨h0, Nat.not_lt_of_le h⟩)]
      exact ⟨rfl, rfl, rfl⟩
  · next h => exact if_pos (.inr (Nat.lt_of_not_le h))

/-- t is s but for its ports and registers. -/
structure ConnWork (s t : State) : Prop where
  form : t = { s with ports := t.ports, regs := t.regs }

theorem ConnWork.trans {s t u : State} (h : ConnWork s t) (g : ConnWork t u) : ConnWork s u := ⟨by rw [g.form, h.form]⟩

theorem ConnWork.setPort (s : State) (n : Nat) (x : PortS) : ConnWork s (s.setPort n x) := ⟨rfl⟩

theorem ConnWork.updConn (s : State) (n peer : Nat) (f : Conn → Conn) : ConnWork s (updConn s n peer f) := ⟨rfl⟩

theorem ConnWork.wpCount (s : State) (n o k : Nat) : ConnWork s (wpCount s n o k) := ⟨rfl⟩

theorem port_wpCount (s : State) (n o k m : Nat) : (wpCount s n o k).port m = s.port m := rfl

theorem ackDir_tiers (s : State) (n peer : Nat) (ctl : Bool) (psn : Word) : (ackDir s n peer ctl psn).tiers = s.tiers := rfl

theorem ackDir_cores (s : State) (n peer : Nat) (ctl : Bool) (psn : Word) : (ackDir s n peer ctl psn).cores = s.cores := rfl

theorem acceptBody_spec (s : State) (n : Nat) (r : RxFrame) :
    let c := (s.port n).conn r.peer
    ConnWork s (acceptBody n s r) ∧ ((acceptBody n s r).port n).conn r.peer =
      if c.st = .opening ∧ payWord r.pay 0 = (s.port n).session then { c with st := .opened, sess := some (payWord r.pay 1) } else c := by
  intro c
  let s1 := wpCount s n 0x088 1
  have h1 : s1.port n = s.port n := port_wpCount ..
  by_cases h : c.st = .opening ∧ payWord r.pay 0 = (s.port n).session
  · have e : acceptBody n s r = updConn s1 n r.peer fun c => { c with st := .opened, sess := some (payWord r.pay 1) } := if_pos (by rw [h1]; exact h)
    rw [e, if_pos h, conn_updConn_same, h1]
    exact ⟨(ConnWork.wpCount s n 0x088 1).trans (ConnWork.updConn s1 ..), rfl⟩
  · have e : acceptBody n s r = s1 := if_neg (by rw [h1]; exact h)
    rw [e, if_neg h, h1]
    exact ⟨ConnWork.wpCount .., rfl⟩

theorem ackBody_spec (s : State) (n : Nat) (r : RxFrame) :
    let u := ackBody n s r
    let c := (s.port n).conn r.peer
    let c' := (u.port n).conn r.peer
    u.tiers = s.tiers ∧ u.cores = s.cores ∧ (c.st ≠ .opened → c' = c) ∧
      (c.st = .opened → c'.st = .opened ∧ c'.unseq = c.unseq ∧ ∀ ctl : Bool, c'.dir ctl = (c.dir ctl).release (payWord r.pay ctl.toNat)) := by
  intro u c c'
  let s1 := wpCount s n 0x088 1
  have h1 : s1.port n = s.port n := port_wpCount ..
  by_cases ho : c.st = .opened
  · have e : u = ackDir (ackDir s1 n r.peer false (payWord r.pay 0)) n r.peer true (payWord r.pay 1) := if_neg (not_not.mpr (by rw [h1]; exact ho))
    have hc : c' = (c.setDir false ((c.dir false).release (payWord r.pay 0))).setDir true ((c.dir true).release (payWord r.pay 1)) := by
      rw [show c' = (u.port n).conn r.peer from rfl, e, conn_ackDir, conn_ackDir, h1, dir_setDir]
      rfl
    refine ⟨by rw [e, ackDir_tiers, ackDir_tiers]; rfl, by rw [e, ackDir_cores, ackDir_cores]; rfl, fun h => absurd ho h, fun _ => ?_⟩
    rw [hc]
    refine ⟨ho, rfl, fun ctl => ?_⟩
    cases ctl <;> rfl
  · have e : u = s1 := if_pos (by rw [h1]; exact ho)
    exact ⟨by rw [e]; rfl, by rw [e]; rfl, fun _ => by rw [show c' = (u.port n).conn r.peer from rfl, e, h1], fun h => absurd h ho⟩

/-- What the four control frames of a connection leave. -/
theorem connFrames (s : State) (pt : Port) (r : RxFrame) (rest : List RxFrame) :
    let n := pt.val
    let c := (s.port n).conn r.peer
    let c' (t : State) := (t.port n).conn r.peer
    (CtlIn s n 1 r rest → Nexts (.connect pt) s (fun t => (t.port n).ctlq = rest ∧ (c' t).st = .opened ∧ (c' t).sess = some (payWord r.pay 0) ∧
      (c.st = .opened ∧ c.sess ≠ some (payWord r.pay 0) ∨ t.tiers = s.tiers) ∧ SpoilsOnly s t (fun _ y => y.uses.contains (n, r.peer)) ∧
      t.cores = s.cores ∧
      (c' t).unseq = (if c.st = .opened ∧ c.sess = some (payWord r.pay 0) then c.unseq else []) ++
        (if peerValid s n r.peer then [⟨2, 0, 0, 0, 0, [payWord r.pay 0, (s.port n).session], [], 0, 0⟩] else []))) ∧
    (CtlIn s n 2 r rest → Nexts (.accept pt) s (fun t => t = { s with ports := t.ports, regs := t.regs } ∧ (t.port n).ctlq = rest ∧
      c' t = if c.st = .opening ∧ payWord r.pay 0 = (s.port n).session then { c with st := .opened, sess := some (payWord r.pay 1) } else c)) ∧
    (CtlIn s n 3 r rest → Nexts (.zaruxAck pt) s (fun t => (t.port n).ctlq = rest ∧ t.tiers = s.tiers ∧ t.cores = s.cores ∧
      (c.st ≠ .opened → c' t = c) ∧
      (c.st = .opened → (c' t).st = .opened ∧ (c' t).unseq = c.unseq ∧ ∀ ctl : Bool,
        let d := c.dir ctl
        let k := (payWord r.pay ctl.toNat - d.base).toNat
        if k ≤ d.ever then ((c' t).dir ctl).base = payWord r.pay ctl.toNat ∧ ((c' t).dir ctl).q = d.q.drop k ∧ ((c' t).dir ctl).sent = d.sent - k
        else (c' t).dir ctl = d))) ∧
    (CtlIn s n 4 r rest → Nexts (.nak pt) s (fun t => t = { s with ports := t.ports, regs := t.regs } ∧ (t.port n).ctlq = rest ∧
      let ctl := (payWord r.pay 0).getLsbD 0
      let d := c.dir ctl
      let k := (payWord r.pay 1 - d.base).toNat
      c' t = if c.st = .opened ∧ k ≤ d.sent then c.setDir ctl { d with sent := k } else c)) := by
  intro n c c'
  let s0 := withoutHead s n rest
  have hc0 : (s0.port n).conn r.peer = c := conn_withoutHead ..
  have hs0 : (s0.port n).session = (s.port n).session := session_withoutHead ..
  refine ⟨fun h => ?_, fun h => ?_, fun h => ?_, fun h => ?_⟩
  · obtain ⟨e, hq⟩ := takeCtl_sound (connectBody_queueKept n) h
    obtain ⟨g1, g2, g3, g4, g5, g6⟩ := connectBody_spec s0 r (n := n) pt.isLt
    have he : exec (.connect pt) s = _ := congrArg Host.Outcome.next e
    have hp := port_setPort_self (connectBody n s0 r) n n
    rw [hc0] at g3 g6
    rw [hs0] at g6
    exact ⟨_, he, by rw [hp]; exact hq, by rw [show c' _ = _ from congrArg (·.conn r.peer) hp]; exact g1,
      by rw [show c' _ = _ from congrArg (·.conn r.peer) hp]; exact g2, g3, fun hs => g4 hs, g5,
      by rw [show c' _ = _ from congrArg (·.conn r.peer) hp]; exact g6⟩
  · obtain ⟨e, hq⟩ := takeCtl_sound (acceptBody_queueKept n) h
    obtain ⟨hf, hcn⟩ := acceptBody_spec s0 n r
    have hp := port_setPort_self (acceptBody n s0 r) n n
    rw [hc0, hs0] at hcn
    exact ⟨_, congrArg Host.Outcome.next e, (((ConnWork.setPort s n _).trans hf).trans (ConnWork.setPort _ n _)).form, by rw [hp]; exact hq,
      (congrArg (·.conn r.peer) hp).trans hcn⟩
  · obtain ⟨e, hq⟩ := takeCtl_sound (ackBody_queueKept n) h
    obtain ⟨g1, g2, g3, g4⟩ := ackBody_spec s0 n r
    have hp := port_setPort_self (ackBody n s0 r) n n
    rw [hc0] at g3 g4
    refine ⟨_, congrArg Host.Outcome.next e, by rw [hp]; exact hq, g1, g2, fun ho => by rw [show c' _ = _ from congrArg (·.conn r.peer) hp]; exact g3 ho, fun ho => ?_⟩
    obtain ⟨g5, g6, g7⟩ := g4 ho
    rw [show c' _ = _ from congrArg (·.conn r.peer) hp]
    refine ⟨g5, g6, fun ctl => ?_⟩
    dsimp only
    rw [g7 ctl]
    exact release_spec ..
  · obtain ⟨e, hq⟩ := takeCtl_sound (f := nakBody n) (fun s r => (wpCount_queueKept s n 0x088 1).trans (updConn_queueKept ..)) h
    have hp := port_setPort_self (nakBody n s0 r) n n
    have hcn : ((nakBody n s0 r).port n).conn r.peer = c.stepBack r := by
      rw [nakBody, conn_updConn_same, port_wpCount, hc0]
    refine ⟨_, congrArg Host.Outcome.next e,
      ((((ConnWork.setPort s n _).trans (ConnWork.wpCount s0 n 0x088 1)).trans (ConnWork.updConn ..)).trans (ConnWork.setPort _ n _)).form,
      by rw [hp]; exact hq, (congrArg (·.conn r.peer) hp).trans ?_⟩
    refine hcn.trans ?_
    by_cases hx : c.st = .opened ∧ (payWord r.pay 1 - (c.dir ((payWord r.pay 0).getLsbD 0)).base).toNat ≤ (c.dir ((payWord r.pay 0).getLsbD 0)).sent
    · rw [if_pos hx]
      exact if_neg (not_or.mpr ⟨Nat.not_lt_of_le hx.2, not_not.mpr hx.1⟩)
    · rw [if_neg hx]
      refine if_pos ?_
      rw [not_and_or, Nat.not_le] at hx
      exact hx.symm

end Sys2Proof.Machine
end

section
/-! PROOFS. Connections: timers, peer entries, notices (O32). -/

namespace Sys2Proof.Machine

open Sys2Proof.Claims

/-! ## Timers of a connection -/

theorem conn_sendAckFrame (s : State) (n peer : Nat) :
    let c := (s.port n).conn peer
    ((sendAckFrame s n peer).port n).conn peer = { c with
      unseq := c.unseq ++ (if peerValid s n peer then [⟨3, 0, 0, 0, 0, [c.data.exp, c.ctl.exp], [], 0, 0⟩] else [])
      data := { c.data with since := 0 }
      ctl := { c.ctl with since := 0 } } := by
  unfold sendAckFrame
  dsimp only
  rw [conn_updConn_same, conn_sendUnseq]
  rfl

/-- t is s but for its ports. -/
structure OnlyPorts (s t : State) : Prop where
  form : t = { s with ports := t.ports }

theorem OnlyPorts.trans {s t u : State} (h : OnlyPorts s t) (g : OnlyPorts t u) : OnlyPorts s u := ⟨by rw [g.form, h.form]⟩

theorem OnlyPorts.updConn (s : State) (n peer : Nat) (f : Conn → Conn) : OnlyPorts s (updConn s n peer f) := ⟨rfl⟩

theorem OnlyPorts.sendUnseq (s : State) (n peer : Nat) (f : TxFrame) : OnlyPorts s (sendUnseq s n peer f) := ⟨sendUnseq_form ..⟩

theorem OnlyPorts.sendAckFrame (s : State) (n peer : Nat) : OnlyPorts s (sendAckFrame s n peer) :=
  (OnlyPorts.sendUnseq s n peer (plainFrame 3 [((s.port n).conn peer).data.exp, ((s.port n).conn peer).ctl.exp])).trans
    (OnlyPorts.updConn _ n peer fun c => { c with data := { c.data with since := 0 }, ctl := { c.ctl with since := 0 } })

theorem setDir_setDir (c : Conn) (a : Bool) (d e : Dir) : (c.setDir a d).setDir a e = c.setDir a e := by
  cases a <;> rfl

/-- The state of a connection's timer once it may act. -/
def nakEnded (s : State) (n peer : Nat) (pri : Bool) : State := updConn s n peer fun c => c.setDir pri { c.dir pri with nak := false }

theorem conn_nakEnded (s : State) (n peer : Nat) (pri : Bool) :
    ((nakEnded s n peer pri).port n).conn peer =
      ((s.port n).conn peer).setDir pri { ((s.port n).conn peer).dir pri with nak := false } := conn_updConn_same ..

/-- An RTO of an open connection whose timer is not held (R322). -/
theorem rtoOpened {s : State} {pt : Port} {peer : Fin 64} {pri : Bool} (ho : ((s.port pt.val).conn peer.val).st = .opened)
    (hh : (if pri then (s.port pt.val).pfcCtl else (s.port pt.val).paused) = false) :
    let n := pt.val
    let d := ((s.port n).conn peer.val).dir pri
    let s1 := nakEnded s n peer.val pri
    exec (.rtoExpiry pt peer pri) s =
      if d.ever = 0 then .next s1
      else if fld (regGet s 0 0 (wpOff n 0x030)) 23 16 ≤ d.tries + 1 then
        .next (reportP (wpFault (connLost s1 n peer.val .failed 4) n 4) 0x0D .unit 1 (peerOwner s1 n peer.val) (portUnit n) (BitVec.ofNat 32 n)
          (BitVec.ofNat 32 peer.val))
      else .next (updConn s1 n peer.val fun c => c.setDir pri { c.dir pri with sent := 0, tries := d.tries + 1 }) := by
  show execRtoExpiry pt peer pri s = _
  unfold execRtoExpiry
  dsimp only
  rw [ho]
  exact if_neg (Bool.eq_false_iff.mp hh)

theorem rtoHeld {s : State} {pt : Port} {peer : Fin 64} {pri : Bool} (ho : ((s.port pt.val).conn peer.val).st = .opened)
    (hh : (if pri then (s.port pt.val).pfcCtl else (s.port pt.val).paused) = true) : exec (.rtoExpiry pt peer pri) s = .next s := by
  show execRtoExpiry pt peer pri s = _
  unfold execRtoExpiry
  dsimp only
  rw [ho]
  exact if_pos hh

theorem rtoOpening {s : State} {pt : Port} {peer : Fin 64} {pri : Bool} (ho : ((s.port pt.val).conn peer.val).st = .opening) :
    exec (.rtoExpiry pt peer pri) s = .next (if (pri && ((s.port pt.val).conn peer.val).unseq.isEmpty && !(s.port pt.val).pfcCtl) = true then
      sendUnseq s pt.val peer.val (plainFrame 1 [(s.port pt.val).session, 0]) else s) := by
  show execRtoExpiry pt peer pri s = _
  unfold execRtoExpiry
  dsimp only
  rw [ho]

theorem rtoIdle {s : State} {pt : Port} {peer : Fin 64} {pri : Bool} (h1 : ((s.port pt.val).conn peer.val).st ≠ .opened)
    (h2 : ((s.port pt.val).conn peer.val).st ≠ .opening) : exec (.rtoExpiry pt peer pri) s = .next s := by
  show execRtoExpiry pt peer pri s = _
  unfold execRtoExpiry
  dsimp only
  split
  · next h => exact absurd h h2
  · next h => exact absurd h h1
  · rfl

/-- A connection that fails at its last try (R322). -/
theorem rtoFails (s : State) (n peer : Nat) (pri : Bool) :
    let s1 := nakEnded s n peer pri
    let t := reportP (wpFault (connLost s1 n peer .failed 4) n 4) 0x0D .unit 1 (peerOwner s1 n peer) (portUnit n) (BitVec.ofNat 32 n) (BitVec.ofNat 32 peer)
    ((t.port n).conn peer).st = .failed ∧ t.cores = s.cores ∧
      SpoilsOnly s t (fun _ y => y.uses.contains (n, peer)) ∧ Ended s t (fun _ y => y.uses.contains (n, peer)) 4 := by
  intro s1 t
  let v := connLost s1 n peer .failed 4
  have hv : StrikesEnd _ v _ 4 := connLost_end s1 n peer .failed 4
  have ht : OnlyReports v t := (OnlyReports.wpFault v n 4).trans (OnlyReports.reportP ..)
  have hp (m : Nat) : t.port m = v.port m := by rw [show t = _ from ht]; rfl
  have hc (j : Nat) : chain t j = chain v j := by rw [show t = _ from ht]; rfl
  have htiers : t.tiers = v.tiers := by rw [show t = _ from ht]
  have hcores : t.cores = v.cores := by rw [show t = _ from ht]
  refine ⟨?_, ?_, fun h => htiers.trans ((connLost_spoils s1 n peer .failed 4 h).trans rfl), fun j => ?_⟩
  · rw [hp]
    exact (connLost_conn s1 n peer .failed 4).1
  · rw [hcores, hv.form]
    rfl
  · rw [hc]
    exact hv.ended j

theorem connTimers (s : State) (pt : Port) (peer : Fin 64) (pri : Bool) :
    let n := pt.val
    let x := s.port n
    let c := x.conn peer.val
    let d := c.dir pri
    let held := if pri then x.pfcCtl else x.paused
    (if c.st = .opened ∧ (c.data.since ≠ 0 ∨ c.ctl.since ≠ 0) then Nexts (.ackTimer pt peer) s (fun t => t = { s with ports := t.ports } ∧
       (t.port n).conn peer.val = { c with unseq := c.unseq ++ (if peerValid s n peer.val then [⟨3, 0, 0, 0, 0, [c.data.exp, c.ctl.exp], [], 0, 0⟩] else [])
                                           data := { c.data with since := 0 }, ctl := { c.ctl with since := 0 } })
     else exec (.ackTimer pt peer) s = .next s) ∧
    (c.st ≠ .opened → c.st ≠ .opening → exec (.rtoExpiry pt peer pri) s = .next s) ∧
    (c.st = .opening → pri = false ∨ c.unseq ≠ [] ∨ x.pfcCtl = true → exec (.rtoExpiry pt peer pri) s = .next s) ∧
    (c.st = .opening → pri = true → c.unseq = [] → x.pfcCtl = false → Nexts (.rtoExpiry pt peer pri) s (fun t => t = { s with ports := t.ports } ∧
      (t.port n).conn peer.val = { c with unseq := if peerValid s n peer.val then [⟨1, 0, 0, 0, 0, [x.session, 0], [], 0, 0⟩] else [] })) ∧
    (c.st = .opened → held = true → exec (.rtoExpiry pt peer pri) s = .next s) ∧
    (c.st = .opened → held = false → d.ever = 0 → Nexts (.rtoExpiry pt peer pri) s (fun t => t = { s with ports := t.ports } ∧
        (t.port n).conn peer.val = c.setDir pri { d with nak := false })) ∧
    (c.st = .opened → held = false → d.ever ≠ 0 → d.tries + 1 < fld (regGet s 0 0 (wpOff n 0x030)) 23 16 →
      Nexts (.rtoExpiry pt peer pri) s (fun t => t = { s with ports := t.ports } ∧
        (t.port n).conn peer.val = c.setDir pri { d with nak := false, sent := 0, tries := d.tries + 1 })) ∧
    (c.st = .opened → held = false → d.ever ≠ 0 → fld (regGet s 0 0 (wpOff n 0x030)) 23 16 ≤ d.tries + 1 →
      Nexts (.rtoExpiry pt peer pri) s (fun t => ((t.port n).conn peer.val).st = .failed ∧ t.cores = s.cores ∧
        SpoilsOnly s t (fun _ y => y.uses.contains (n, peer.val)) ∧ Ended s t (fun _ y => y.uses.contains (n, peer.val)) 4)) := by
  intro n x c d held
  refine ⟨?_, rtoIdle, fun ho h => (rtoOpening ho).trans (congrArg Host.Outcome.next (if_neg ?_)), fun ho hp hu hx => ?_, rtoHeld, fun ho hh he => ?_,
    fun ho hh he ht => ?_, fun ho hh he ht => ?_⟩
  · split
    · next h => exact ⟨_, congrArg Host.Outcome.next (if_pos h), (OnlyPorts.sendAckFrame ..).form, conn_sendAckFrame ..⟩
    · next h => exact congrArg Host.Outcome.next (if_neg h)
  · rw [Bool.and_eq_true, Bool.and_eq_true, List.isEmpty_iff, Bool.not_eq_true']
    rintro ⟨⟨h1, h2⟩, h3⟩
    rcases h with h | h | h
    · exact Bool.false_ne_true (h.symm.trans h1)
    · exact h h2
    · exact Bool.false_ne_true (h3.symm.trans h)
  · refine ⟨_, (rtoOpening ho).trans (congrArg Host.Outcome.next (if_pos ?_)), (OnlyPorts.sendUnseq ..).form, ?_⟩
    · rw [Bool.and_eq_true, Bool.and_eq_true, List.isEmpty_iff, Bool.not_eq_true']
      exact ⟨⟨hp, hu⟩, hx⟩
    · rw [conn_sendUnseq, show ((s.port n).conn peer.val).unseq = [] from hu, List.nil_append]
      rfl
  · exact ⟨_, (rtoOpened ho hh).trans (if_pos he), (OnlyPorts.updConn s n peer.val _).form, conn_nakEnded ..⟩
  · refine ⟨_, (rtoOpened ho hh).trans ((if_neg he).trans (if_neg (Nat.not_le_of_lt ht))), ((OnlyPorts.updConn s n peer.val _).trans (OnlyPorts.updConn ..)).form, ?_⟩
    rw [conn_updConn_same, conn_nakEnded, dir_setDir, if_pos rfl, setDir_setDir]
  · exact ⟨_, (rtoOpened ho hh).trans ((if_neg he).trans (if_pos ht)), rtoFails ..⟩

/-! ## Peer entries -/

/-- A field's number says what each of its bits is. -/
theorem getLsbD_of_fld {a b : Word} {hi lo : Nat} (h : fld a hi lo = fld b hi lo) (i : Nat) (h1 : lo ≤ i) (h2 : i ≤ hi) :
    a.getLsbD i = b.getLsbD i := by
  have hbit (w : Word) : (fld w hi lo).testBit (i - lo) = w.getLsbD i := by
    rw [fld, Nat.testBit_mod_two_pow, Nat.testBit_div_two_pow, show i - lo + lo = i by omega, decide_eq_true (by omega), Bool.true_and]
    rfl
  rw [← hbit a, ← hbit b, h]

/-- The bits of WP_PEER_CTRL that end its connection when they change: VALID and the MAC address. -/
def peerMask : Word := bits 31 31 ||| bits 15 0

theorem getLsbD_peerMask (i : Nat) : peerMask.getLsbD i = decide (i = 31 ∨ i ≤ 15) := by
  rw [peerMask, BitVec.getLsbD_or, getLsbD_bits (by decide) (by decide), getLsbD_bits (by decide) (by decide), ← Bool.decide_or]
  apply decide_eq_decide.mpr
  omega

/-- What a write of WP_PEER_CTRL leaves there (R335). -/
def peerWritten (old v : Word) : Word := (v &&& peerMask) ||| if 16 < fld v 20 16 then old &&& bits 20 16 else v &&& bits 20 16

theorem getLsbD_peerWritten_masked (old v : Word) {i : Nat} (h : i = 31 ∨ i ≤ 15) : (peerWritten old v).getLsbD i = v.getLsbD i := by
  have hx (w : Word) : (w &&& bits 20 16).getLsbD i = false := by
    rw [BitVec.getLsbD_and, getLsbD_bits (by decide) (by decide), decide_eq_false (by omega), Bool.and_false]
  rw [peerWritten, BitVec.getLsbD_or, BitVec.getLsbD_and, getLsbD_peerMask, decide_eq_true h, Bool.and_true]
  split
  · rw [hx, Bool.or_false]
  · rw [hx, Bool.or_false]

theorem fld_peerWritten_owner (old v : Word) (h : fld v 20 16 ≤ 16) : fld (peerWritten old v) 20 16 = fld v 20 16 := by
  refine fld_congr fun i h1 h2 => ?_
  rw [peerWritten, if_neg (Nat.not_lt_of_le h), BitVec.getLsbD_or, BitVec.getLsbD_and, getLsbD_peerMask, decide_eq_false (by omega), Bool.and_false,
    Bool.false_or, BitVec.getLsbD_and, getLsbD_bits (by decide) (by decide), decide_eq_true ⟨h1, h2⟩, Bool.and_true]

/-- A write changes VALID or the address where the masked words differ. -/
theorem peerWritten_same_iff (old v : Word) :
    peerWritten old v &&& peerMask = old &&& peerMask ↔ v.getLsbD 31 = old.getLsbD 31 ∧ fld v 15 0 = fld old 15 0 := by
  constructor
  · intro h
    have hb {i : Nat} (hi : i = 31 ∨ i ≤ 15) : v.getLsbD i = old.getLsbD i := by
      have hw := congrArg (·.getLsbD i) h
      simp only [BitVec.getLsbD_and, getLsbD_peerMask, decide_eq_true hi, Bool.and_true, getLsbD_peerWritten_masked old v hi] at hw
      exact hw
    exact ⟨hb (.inl rfl), fld_congr fun i _ h2 => hb (.inr h2)⟩
  · rintro ⟨h1, h2⟩
    refine BitVec.eq_of_getLsbD_eq fun i hi => ?_
    rw [BitVec.getLsbD_and, BitVec.getLsbD_and, getLsbD_peerMask]
    by_cases hm : i = 31 ∨ i ≤ 15
    · rw [decide_eq_true hm, Bool.and_true, Bool.and_true, getLsbD_peerWritten_masked old v hm]
      rcases hm with rfl | hm
      · exact h1
      · exact getLsbD_of_fld h2 i (Nat.zero_le i) hm
    · rw [decide_eq_false hm, Bool.and_false, Bool.and_false]

/-- A write of a peer entry: its word, and the connection that ends where VALID or the address changes (R335). -/
theorem peerCtrlWrite_spec (s : State) {n : Nat} (v : Word) :
    let peer := fld (regGet s 0 0 (wpOff n 0x034)) 5 0
    let old := peerCtrl s n peer
    let t := peerCtrlWrite s n v
    peerCtrl t n peer = peerWritten old v ∧ t.cores = s.cores ∧ SpoilsOnly s t (fun _ y => y.uses.contains (n, peer)) ∧
      (v.getLsbD 31 = old.getLsbD 31 → fld v 15 0 = fld old 15 0 → t.ports = s.ports ∧ t.chains = s.chains ∧ t.tiers = s.tiers) ∧
      (v.getLsbD 31 ≠ old.getLsbD 31 ∨ fld v 15 0 ≠ fld old 15 0 → ((t.port n).conn peer).st = .closed) := by
  intro peer old t
  let s1 := regSet s 0 peer (wpOff n 0x038) (peerWritten old v)
  have h1 : peerCtrl s1 n peer = peerWritten old v := regGet_regSet_same ..
  by_cases h : v.getLsbD 31 = old.getLsbD 31 ∧ fld v 15 0 = fld old 15 0
  · have e : t = s1 := if_pos ((peerWritten_same_iff old v).mpr h)
    rw [e]
    exact ⟨h1, rfl, fun _ => rfl, fun _ _ => ⟨rfl, rfl, rfl⟩, fun hn => (hn.elim (· h.1) (· h.2)).elim⟩
  · have e : t = connLost s1 n peer .closed 4 := if_neg fun hm => h ((peerWritten_same_iff old v).mp hm)
    have hf := connLost_form s1 n peer .closed 4
    dsimp only at hf
    have hregs : (connLost s1 n peer .closed 4).regs = s1.regs := by rw [hf]
    rw [e]
    refine ⟨?_, by rw [hf]; rfl, fun hs => (connLost_spoils s1 n peer .closed 4 hs).trans rfl, fun h1 h2 => absurd ⟨h1, h2⟩ h,
      fun _ => (connLost_conn s1 n peer .closed 4).1⟩
    rw [peerCtrl, regGet, hregs]
    exact h1

/-! ## The notice queue -/

theorem noticeRead_some {s : State} {n : Nat} {w : PWord} {rest : List PWord} (h : (s.port n).notice = w :: rest) :
    let t := (noticeRead s 0 n).2
    (noticeRead s 0 n).1 = w.val ∧ t = { s with ports := t.ports, fns := t.fns, regs := t.regs } ∧ t.port n = { s.port n with notice := rest } ∧
      (∀ m, m ≠ n → t.port m = s.port m) ∧
      (Tab.get ({} : FnBuf) t.fns 0).shadow = some (wpOff n 0x050, 0x80000000 ||| if w.poison then 0x40000000 else 0) := by
  let b := Tab.get ({} : FnBuf) s.fns 0
  let hi : Word := bits 31 31 ||| if w.poison then bits 30 30 else 0
  let u : State := { s.setPort n { s.port n with notice := rest } with fns := Tab.put s.fns 0 { b with shadow := some (wpOff n 0x050, hi) } }
  have hhi : hi = 0x80000000 ||| if w.poison then 0x40000000 else 0 := by
    cases hw : w.poison <;> simp only [hi, hw] <;> decide
  have hn : n < n + 1 := Nat.lt_succ_self n
  have e : noticeRead s 0 n = (w.val, if w.poison then wpFault (wpCount u n 0x0B0 1) n 2 else u) := by
    unfold noticeRead
    dsimp only
    rw [h]
  have hsh : (Tab.get ({} : FnBuf) u.fns 0).shadow = some (wpOff n 0x050, 0x80000000 ||| if w.poison then 0x40000000 else 0) := by
    rw [show u.fns = Tab.put s.fns 0 { b with shadow := some (wpOff n 0x050, hi) } from rfl, Tab.get_put_same, ← hhi]
  have hu : u = { s with ports := u.ports, fns := u.fns } := rfl
  have hup : u.port n = { s.port n with notice := rest } := port_setPort_same ..
  have huo (m : Nat) (hm : m ≠ n) : u.port m = s.port m := port_setPort_other _ _ hm
  clear_value u
  rw [e]
  refine ⟨rfl, ?_⟩
  dsimp only
  by_cases hw : w.poison = true
  · rw [if_pos hw]
    refine ⟨?_, hup, huo, hsh⟩
    rw [wpFault_form, wpCount_form, hu]
  · rw [if_neg hw]
    exact ⟨by rw [hu], hup, huo, hsh⟩

theorem wpNqDataRead_pf {s : State} {fn : Func} (pt : Port) (h : fn.val = 0) :
    exec (.wpNqDataRead fn pt) s = .next (emit (noticeRead s 0 pt.val).2 (.read 0 (noticeRead s 0 pt.val).1)) := if_neg (not_not.mpr h)

theorem emit_form {s t : State} {o : Out} (h : t = { s with ports := t.ports, fns := t.fns, regs := t.regs }) :
    emit t o = { s with ports := (emit t o).ports, fns := (emit t o).fns, regs := (emit t o).regs, out := s.out ++ [o] } := by
  have ho : t.out = s.out := by rw [h]
  rw [← ho]
  unfold emit
  rw [h]

/-- Settles O32: consumers of the control queue, timers, peer entries, solicitations and notices. -/
theorem portConnections : Obligations.PortConnections := by
  refine ⟨ctlQueue, connFrames, connTimers, fun s pt v => ?_, fun s pt target src => ?_, fun s fn pt hf => if_pos hf, fun s fn pt w rest hf hq => ?_,
    fun s fn pt hf hq => ?_⟩
  · intro n peer old
    obtain ⟨h1, h2, h3, h4, h5⟩ := peerCtrlWrite_spec s (n := n) v
    refine ⟨_, rfl, h3, h2, ?_, ?_, fun ho => ?_, h4, h5⟩
    · rw [h1]
      exact getLsbD_peerWritten_masked old v (.inl rfl)
    · rw [h1]
      exact fld_congr fun i _ hi => getLsbD_peerWritten_masked old v (.inr hi)
    · rw [peerOwner, h1]
      exact fld_peerWritten_owner old v ho
  · rfl
  · obtain ⟨h1, h2, h3, h4, h5⟩ := noticeRead_some hq
    refine ⟨_, wpNqDataRead_pf pt hf, ?_, h3, h4, h5⟩
    rw [h1]
    exact emit_form h2
  · refine ⟨_, wpNqDataRead_pf pt hf, ?_⟩
    have e : noticeRead s 0 pt.val = (0, { s with fns := Tab.put s.fns 0 { Tab.get ({} : FnBuf) s.fns 0 with shadow := some (wpOff pt.val 0x050, 0) } }) := by
      unfold noticeRead
      dsimp only
      rw [hq]
    rw [e]
    rfl

end Sys2Proof.Machine
end

section
/-! PROOFS. Strike chains: a chain listed twice (O34). -/

namespace Sys2Proof.Machine

open Sys2Proof.Claims

/-! ## A chain listed twice -/

/-- A REDUCE in progress that still awaits its verdicts. -/
def strayReduce : Strike := ⟨7, 0, [0xB0000000], .counts, 0, false, 0, {}, [], [], [], 0⟩

/-- Partition 1 with one chain, whose key the table holds twice: the entry that is read has no strike, the other has one, with a frame of it not sent
in a port. -/
def doubledChains : State :=
  { parts := [(1, { chains := 1 })]
    chains := [(512, {}), (512, { prog := [strayReduce] })]
    ports := [(0, { conns := [(0, { ctl := { q := [⟨5, 0, 0, 0, 0, [], [], 1, 7⟩] } })] })] }

/-- STOP of the chain drops the frame of the strike that the chain read does not hold. -/
theorem chainStop_doubledChains : (chainStop doubledChains 1).ports ≠ doubledChains.ports := by decide

/-- Refutes O34: a state may list a chain's key twice; STOP of a chain whose entry read has no strike in progress then still aborts the strikes of
the other entry, which changes the ports. -/
theorem not_strikeChains : ¬ Obligations.StrikeChains := by
  intro h
  obtain ⟨hchains, -⟩ := h
  obtain ⟨-, -, hidle, -⟩ := hchains doubledChains 0
  obtain ⟨t, he, hform, -⟩ := hidle (by decide) (by decide)
  have ht : t = chainStop doubledChains 1 := (Host.Outcome.next.inj he).symm
  apply chainStop_doubledChains
  rw [← ht, hform]

end Sys2Proof.Machine
end

section
/-! PROOFS. Command queues: doorbells, fetches, completions, timeouts (O35). -/

namespace Sys2Proof.Machine

open Sys2Proof.Claims

/-! ## Doorbells and controls of a queue -/

/-- Queue q of partition p holds y, and every other is as in s. -/
def QueueIs (s t : State) (p q : Nat) (y : HQueue) : Prop := hq t p q = y ∧ ∀ j, j ≠ p * 8 + q → Tab.find t.hqs j = Tab.find s.hqs j

theorem queueIs_setHq (s : State) (p q : Nat) (y : HQueue) : QueueIs s (setHq s p q y) p q y := ⟨hq_setHq .., fun _ hj => Tab.find_put_other _ _ hj⟩

theorem fld_ctrlFields_low (old v : Word) : fld (ctrlFields old v) 15 0 = fld v 15 0 := by
  refine fld_congr fun i _ hi => ?_
  have hm : (bits 31 31 ||| bits 15 0).getLsbD i = true := by
    rw [BitVec.getLsbD_or, getLsbD_bits (by decide) (by decide), getLsbD_bits (by decide) (by decide), decide_eq_true (p := 0 ≤ i ∧ i ≤ 15) (by omega),
      Bool.or_true]
  have hl (w : Word) {hi lo : Nat} (h : lo ≤ hi) (h32 : hi < 32) (hlo : 15 < lo) : (w &&& bits hi lo).getLsbD i = false := by
    rw [BitVec.getLsbD_and, getLsbD_bits h h32, decide_eq_false (by omega), Bool.and_false]
  have hlog (w : Word) : (w &&& bits 23 20).getLsbD i = false := hl w (by decide) (by decide) (by decide)
  have hvec (w : Word) : (w &&& bits 19 16).getLsbD i = false := hl w (by decide) (by decide) (by decide)
  rw [ctrlFields, BitVec.getLsbD_or, BitVec.getLsbD_or, BitVec.getLsbD_and, hm, Bool.and_true]
  split <;> split <;> simp only [hlog, hvec, Bool.or_false]

theorem hqCtrlWrite_keeps {s : State} {p q : Nat} {v : Word} (h : (hqCtrl s p q).getLsbD 31 = v.getLsbD 31) :
    hqCtrlWrite s p q v = regSet s p 0 (hqOff q 0x10) (ctrlFields (hqCtrl s p q) v) := by
  cases hv : v.getLsbD 31 with
  | true => exact hqCtrlWrite_on (h.trans hv) hv
  | false => simp only [hqCtrlWrite, ctrlFields_getLsbD_31, h, hv, Bool.false_eq_true, and_false, false_and, if_false]

/-- Disabling touches neither the cores nor, with no command, anything but the queue and its registers. -/
theorem writeCpl_form (s : State) (p q : Nat) :
    writeCpl s p q = { s with hqs := (writeCpl s p q).hqs, regs := (writeCpl s p q).regs, out := (writeCpl s p q).out } := by
  obtain h | h | ⟨c, st, res, h | ⟨w, h⟩⟩ := writeCpl_cases s p q <;> rw [h]
  · rfl
  · unfold cplWritten
    dsimp only
    split <;> rfl
  · unfold cplWritten
    dsimp only
    split <;> rfl

theorem cutCmd_form (s : State) (p q : Nat) : cutCmd s p q =
    { s with hqs := (cutCmd s p q).hqs, watches := (cutCmd s p q).watches, tiers := (cutCmd s p q).tiers, draws := (cutCmd s p q).draws } := by
  unfold cutCmd
  dsimp only
  split
  · rfl
  · split
    · rfl
    · rw [t2Write_tiers]
      rfl

theorem abortedIfBusy_cores (s : State) (p q : Nat) : (abortedIfBusy s p q).cores = s.cores := by
  unfold abortedIfBusy
  split
  · have hw : (abortCmd s p q).cores = (failCmd (cutCmd s p q) p q 6).cores := by
      rw [abortCmd, writeCpl_form]
    have hc : (cutCmd s p q).cores = s.cores := by rw [cutCmd_form]
    exact hw.trans hc
  · rfl

theorem queueControls (s : State) (p : Vf) (q : Fin 8) :
    let n := vfPart p
    let x := hq s n q.val
    let on := (regGet s n 0 (hqOff q.val 0x10)).getLsbD 31
    let only (t : State) (y : HQueue) := hq t n q.val = y ∧ ∀ j, j ≠ n * 8 + q.val → Tab.find t.hqs j = Tab.find s.hqs j
    (∀ v, (on = false → exec (.hqQDb p q v) s = .next s) ∧
      (on = true → hqSize s n q.val ≤ fld v 15 0 → exec (.hqQDb p q v) s = .next (regOr s n 0 (hqOff q.val 0x20) 0x40000000)) ∧
      (on = true → fld v 15 0 < hqSize s n q.val → Nexts (.hqQDb p q v) s (fun t => t = { s with hqs := t.hqs } ∧ only t { x with tail := fld v 15 0 }))) ∧
    (∀ v : Word, on = false → v.getLsbD 31 = true → x.held = false → Nexts (.hqQCtrlWrite p q v) s (fun t => t = { s with hqs := t.hqs, regs := t.regs } ∧
      only t { x with head := 0, tail := 0, cplTail := 0, phase := true } ∧ (regGet t n 0 (hqOff q.val 0x10)).getLsbD 31 = true ∧
      regGet t n 0 (hqOff q.val 0x1C) = 0)) ∧
    (∀ v : Word, on = true → v.getLsbD 31 = false → Nexts (.hqQCtrlWrite p q v) s (fun t => (regGet t n 0 (hqOff q.val 0x10)).getLsbD 31 = false ∧
      (hq t n q.val).tail = (hq t n q.val).head ∧ (hq t n q.val).head = x.head ∧ t.cores = s.cores ∧
      (x.cmd = none → t = { s with hqs := t.hqs, regs := t.regs }))) ∧
    (∀ v : Word, on = v.getLsbD 31 → Nexts (.hqQCtrlWrite p q v) s (fun t => t = { s with regs := t.regs } ∧
      fld (regGet t n 0 (hqOff q.val 0x10)) 15 0 = fld v 15 0 ∧ (regGet t n 0 (hqOff q.val 0x10)).getLsbD 31 = on)) ∧
    (∀ v : Word, x.held = false → exec (.hqQCplHeadWrite p q v) s = .next (regSet s n 0 (hqOff q.val 0x1C) (v &&& 0xFFFF))) ∧
    Nexts (.stoppedAck p q) s (fun t => t = { s with regs := t.regs } ∧
      regGet t n 0 (hqOff q.val 0x20) = regGet s n 0 (hqOff q.val 0x20) &&& 0x7FFFFFFF) := by
  intro n x on only
  refine ⟨fun v => ⟨fun h => congrArg Host.Outcome.next (if_pos h), fun h hv => ?_, fun h hv => ?_⟩, fun v h hv hh => ⟨_, rfl, ?_⟩, fun v h hv => ⟨_, rfl, ?_⟩,
    fun v h => ⟨_, rfl, ?_⟩, fun v hh => ?_, ⟨_, rfl, rfl, ?_⟩⟩
  · exact congrArg Host.Outcome.next ((if_neg (Bool.not_eq_false _ ▸ h)).trans (if_pos hv))
  · exact ⟨_, congrArg Host.Outcome.next (dbWrite_of_on h hv), rfl, queueIs_setHq ..⟩
  · obtain ⟨h1, h2, h3, -⟩ := hqCtrlWrite_enables (p := n) (q := q.val) h hv
    refine ⟨?_, ⟨?_, h3⟩, h1, h2⟩
    · rw [hqCtrlWrite_enable h hv, writeHeld_of_not_held (by rw [hq_setHq]; exact hh)]
      rfl
    · rw [hqCtrlWrite_enable h hv, writeHeld_of_not_held (by rw [hq_setHq]; exact hh), hq_setHq]
  · obtain ⟨h1, h2, -⟩ := hqCtrlWrite_disables (p := n) (q := q.val) h hv
    obtain ⟨h3, -⟩ := hqCtrlWrite_stores (p := n) (q := q.val) h v
    refine ⟨(congrArg (·.getLsbD 31) h3).trans ((ctrlFields_getLsbD_31 ..).trans hv), h1.trans h2.symm, h2, ?_, fun hc => ?_⟩
    · rw [hqCtrlWrite_disable h hv]
      exact abortedIfBusy_cores s n q.val
    · have e : abortedIfBusy s n q.val = s := if_neg (by rw [show (hq s n q.val).cmd = none from hc]; exact Bool.false_ne_true)
      rw [hqCtrlWrite_disable h hv, stopQueue_eq]
      dsimp only
      rw [e]
      rfl
  · rw [hqCtrlWrite_keeps h]
    refine ⟨rfl, ?_, ?_⟩
    · rw [regGet_regSet_same]
      exact fld_ctrlFields_low ..
    · rw [regGet_regSet_same, ctrlFields_getLsbD_31]
      exact h.symm
  · exact congrArg Host.Outcome.next (writeHeld_of_not_held hh)
  · rw [hqStatusWrite, regGet_regSet_same]
    rfl

/-! ## Fetches, completions and timeouts -/

theorem execCommandFetch_may {s : State} {p : Vf} {q : Fin 8} {ws : List Word} (hl : ws.length = 16) (h : mayFetch s (vfPart p) q.val = true) :
    let n := vfPart p
    let head := ((hq s n q.val).head + 1) % hqSize s n q.val
    let u := setHq s n q.val { hq s n q.val with head := head, cmd := some { w := ws, head := head } }
    exec (.commandFetch p q ws) s = .next (if cmdOk ws then u else failCmd u n q.val 2) :=
  (if_neg (not_not.mpr hl)).trans (if_neg (by rw [h]; decide))

theorem queueFetches (s : State) (p : Vf) (q : Fin 8) (ws : List Word) :
    let n := vfPart p
    let x := hq s n q.val
    let only (t : State) (y : HQueue) := hq t n q.val = y ∧ ∀ j, j ≠ n * 8 + q.val → Tab.find t.hqs j = Tab.find s.hqs j
    (ws.length ≠ 16 → exec (.commandFetch p q ws) s = .fault .illFormed) ∧
      (ws.length = 16 → mayFetch s n q.val = false → exec (.commandFetch p q ws) s = .next s) ∧
      (ws.length = 16 → mayFetch s n q.val = true → cmdOk ws = true → Nexts (.commandFetch p q ws) s (fun t => t = { s with hqs := t.hqs } ∧
        only t { x with head := (x.head + 1) % hqSize s n q.val, cmd := some { w := ws, head := (x.head + 1) % hqSize s n q.val } })) ∧
      (ws.length = 16 → mayFetch s n q.val = true → cmdOk ws = false → Nexts (.commandFetch p q ws) s (fun t => t = { s with hqs := t.hqs, draws := t.draws } ∧
        let head := (x.head + 1) % hqSize s n q.val
        ∃ r, only t { x with head := head, cmd := some { w := ws, head := head }, cpl := some (2, r) })) := by
  intro n x only
  let head := (x.head + 1) % hqSize s n q.val
  let u := setHq s n q.val { x with head := head, cmd := some { w := ws, head := head } }
  refine ⟨fun h => if_pos h, fun hl hm => (if_neg (not_not.mpr hl)).trans (if_pos hm), fun hl hm hok => ?_, fun hl hm hok => ?_⟩
  · exact ⟨u, (execCommandFetch_may hl hm).trans (congrArg Host.Outcome.next (if_pos hok)), rfl, queueIs_setHq ..⟩
  · refine ⟨failCmd u n q.val 2, (execCommandFetch_may hl hm).trans (congrArg Host.Outcome.next (if_neg (by rw [hok]; decide))), rfl,
      (drawWord u).1, ?_, fun j hj => ?_⟩
    · show hq (setHq _ n q.val { hq u n q.val with cpl := some (2, (drawWord u).1) }) n q.val = _
      rw [hq_setHq, hq_setHq]
    · exact (Tab.find_put_other _ _ hj).trans (Tab.find_put_other _ _ hj)

theorem cplWritten_out (s : State) (p q : Nat) (c : HCmd) (st : BitVec 8) (res : Word) :
    (cplWritten s p q c st res).out = s.out ++ (cplEntry s p q c st res ::
      if (c.w.getD 0 0).getLsbD 16 then [.msix p (fld (regGet s p 0 (hqOff q 0x10)) 19 16)] else []) := by
  unfold cplWritten
  dsimp only
  rw [out_cntAdd, State.setHq_out]
  split
  · exact List.append_assoc ..
  · rfl

theorem queueCompletes (s : State) (p : Vf) (q : Fin 8) :
    let n := vfPart p
    let x := hq s n q.val
    let on := (regGet s n 0 (hqOff q.val 0x10)).getLsbD 31
    let only (t : State) (y : HQueue) := hq t n q.val = y ∧ ∀ j, j ≠ n * 8 + q.val → Tab.find t.hqs j = Tab.find s.hqs j
    (x.cmd = none ∨ x.cpl = none ∨ (x.held = true ∧ on = false) → exec (.commandComplete p q) s = .next s) ∧
    (∀ c st res, x.cmd = some c → x.cpl = some (st, res) → x.held = false ∨ on = true →
      let next := (x.cplTail + 1) % hqSize s n q.val
      let base := (reg64 s n 0 (hqOff q.val 0x08)).toNat
      let w0 := c.w.getD 0 0
      let w : Word := BitVec.ofNat 32 (st.toNat * 2 ^ 24 + x.phase.toNat * 2 ^ 16 + fld w0 15 0)
      if next = fld (regGet s n 0 (hqOff q.val 0x1C)) 15 0 then
        Nexts (.commandComplete p q) s (fun t => t = { s with hqs := t.hqs } ∧ only t { x with held := true })
      else Nexts (.commandComplete p q) s (fun t => t = { s with hqs := t.hqs, regs := t.regs, out := t.out } ∧
        only t { x with cplTail := next, phase := if next = 0 then !x.phase else x.phase, cmd := none, cpl := none, held := false } ∧
        t.out = s.out ++ (.host n (base + 16 * x.cplTail) [⟨w, false⟩, ⟨res, false⟩, ⟨BitVec.ofNat 32 c.head, false⟩, ⟨0, false⟩] ::
          (if w0.getLsbD 16 then [.msix n (fld (regGet s n 0 (hqOff q.val 0x10)) 19 16)] else [])) ∧
        ((regGet t n 0 (hqOff q.val 0x20)).getLsbD 31 = true ↔ st = 1 ∨ (regGet s n 0 (hqOff q.val 0x20)).getLsbD 31 = true))) := by
  intro n x on only
  refine ⟨fun h => ?_, fun c st res hc he hf => ?_⟩
  · show Host.Outcome.next (ite _ _ _) = _
    rcases h with h | h | h
    · rw [writeCpl_of_none (.inl h)]
      exact congrArg _ (ite_self _)
    · rw [writeCpl_of_none (.inr h)]
      exact congrArg _ (ite_self _)
    · exact congrArg _ (if_pos h)
  · have hex : exec (.commandComplete p q) s = .next (writeCpl s n q.val) := execCommandComplete_of_free hf
    dsimp only
    split
    · next hfull => exact ⟨_, hex.trans (congrArg _ (writeCpl_of_full hc he hfull)), rfl, queueIs_setHq ..⟩
    · next hroom =>
      have hst := writeCpl_status hc he hroom
      have hw := writeCpl_of_room hc he hroom
      have hk := QueueKeeps.of_writeCpl s n q.val
      refine ⟨_, hex, writeCpl_form .., ⟨?_, hk.1⟩, ?_, ?_⟩
      · rw [hw]
        split
        · exact hq_cplWritten ..
        · exact hq_cplWritten ..
      · rw [hw]
        split
        · exact cplWritten_out ..
        · exact cplWritten_out ..
      · rw [hst]
        split
        · next h1 => exact iff_of_true (refusedStatus_fields _ c).1 (.inl h1)
        · next h1 => exact ⟨.inr, fun h => h.resolve_left h1⟩

theorem cutCmd_watches {s : State} {p q : Nat} {c : HCmd} (hc : (hq s p q).cmd = some c) :
    (cutCmd s p q).watches = s.watches.filter (fun w => w.who != .queue (p * 8 + q)) := by
  unfold cutCmd
  dsimp only
  rw [hc]
  dsimp only
  split
  · rfl
  · rw [t2Write_tiers]
    rfl

theorem cutCmd_tiers {s : State} {p q : Nat} {c : HCmd} (hc : (hq s p q).cmd = some c) (ht : c.tag = none) : (cutCmd s p q).tiers = s.tiers := by
  unfold cutCmd
  dsimp only
  rw [hc]
  dsimp only
  rw [ht]

/-- Settles O35: doorbells and controls, fetches, completions, timeouts. -/
theorem hostQueues : Obligations.HostQueues := by
  intro s p q n x on only
  obtain ⟨hdb, hen, hdis, hkeep, hcpl, hack⟩ := queueControls s p q
  obtain ⟨hidle, hdone⟩ := queueCompletes s p q
  refine ⟨hdb, hen, hdis, hkeep, hcpl, hack, queueFetches s p q, hidle, hdone, fun c hc => ⟨fun h => ?_, fun h1 h2 h3 => ?_⟩⟩
  · show execCommandTimeout p q s = _
    simp only [execCommandTimeout, show (hq s (vfPart p) q.val).cmd = some c from hc]
    exact if_pos (h.imp id (Or.imp (fun h => by rw [Option.isSome_iff_ne_none]; exact h) id))
  · have hx : exec (.commandTimeout p q) s = .next (failCmd (cutCmd s n q.val) n q.val 3) := by
      show execCommandTimeout p q s = _
      simp only [execCommandTimeout, show (hq s (vfPart p) q.val).cmd = some c from hc]
      refine if_neg ?_
      rw [h1, show (hq s (vfPart p) q.val).cpl = none from h2]
      exact fun h => h.elim (fun h => by cases h) fun h => h.elim (fun h => by cases h) h3
    obtain ⟨r, res, hq'⟩ := hq_fail_cutCmd hc 3
    refine ⟨_, hx, ⟨res, by rw [hq']⟩, by rw [hq'], ?_, fun ht => cutCmd_tiers hc ht, fun w hw => ?_⟩
    · exact (show (cutCmd s n q.val).cores = s.cores by rw [cutCmd_form])
    · have hw : w ∈ (cutCmd s n q.val).watches := hw
      rw [cutCmd_watches hc, List.mem_filter, bne_iff_ne] at hw
      exact hw.2

end Sys2Proof.Machine
end

section
/-! PROOFS. UNWRAP and DELETE (O48). -/

namespace Sys2Proof.Machine

open Sys2Proof.Claims

/-! ## UNWRAP and DELETE -/

theorem Tab.find_put_eq {α : Type} (t : Tab α) (k j : Nat) (v : α) : Tab.find (Tab.put t k v) j = if j = k then some v else Tab.find t j := by
  split
  · next h => rw [h]; exact Tab.find_put_same ..
  · next h => exact Tab.find_put_other _ _ h

theorem Tab.find_drop_eq {α : Type} (t : Tab α) (k j : Nat) : Tab.find (Tab.drop t k) j = if j = k then none else Tab.find t j := by
  split
  · next h => rw [h]; exact Tab.find_drop_same ..
  · next h => exact Tab.find_drop_other _ h

theorem secShut_iff (s : State) : secShut s = true ↔ s.lc = .manufacture ∨ s.lc = .retired ∨ s.sec.keyFault = true := by
  simp only [secShut, Bool.or_eq_true, beq_iff_eq, or_assoc]

/-- The serial in words 1 and 2 of a blob. -/
theorem halves_eq_iff (lo hi : Word) (v : BitVec 64) : hi ++ lo = v ↔ lo = v.truncate 32 ∧ hi = (v >>> 32).truncate 32 := by
  constructor
  · rintro rfl
    constructor
    · refine BitVec.eq_of_getLsbD_eq fun i hi' => ?_
      rw [BitVec.getLsbD_setWidth, decide_eq_true hi', Bool.true_and]
      exact ((BitVec.getLsbD_append (x := hi) (y := lo)).trans (if_pos hi')).symm
    · refine BitVec.eq_of_getLsbD_eq fun i hi' => ?_
      rw [BitVec.getLsbD_setWidth, decide_eq_true hi', Bool.true_and, BitVec.getLsbD_ushiftRight]
      refine ((BitVec.getLsbD_append (x := hi) (y := lo)).trans ?_).symm
      rw [if_neg (by omega), Nat.add_sub_cancel_left]
  · rintro ⟨rfl, rfl⟩
    exact halves_append v

theorem blobFields_iff (b : List Word) : blobFields b = true ↔
    fld (b.getD 0 0) 7 0 = 1 ∧ ((fld (b.getD 0 0) 15 8 = 1 ∧ fld (b.getD 0 0) 23 16 = 0) ∨ (fld (b.getD 0 0) 15 8 = 2 ∧ fld (b.getD 0 0) 23 16 ≤ 7)) ∧
      fld (b.getD 0 0) 31 24 = 0 ∧ b.getD 2 0 ++ b.getD 1 0 = Config.serial ∧ b.getD 3 0 = 0 ∧ b.getD 46 0 = 0 ∧ b.getD 47 0 = 0 := by
  rw [halves_eq_iff]
  simp only [blobFields, Bool.and_eq_true, Bool.or_eq_true, beq_iff_eq, decide_eq_true_eq, and_assoc]
  exact Iff.rfl

/-- The key identifiers that a blob of its kind may take. -/
def unwrapRange (s : State) (id : Nat) : Prop := (blobKind (secBlob s) = 2 → id = 0) ∧ (blobKind (secBlob s) = 1 → 1 ≤ id ∧ id ≤ 256)

/-- What the first steps of UNWRAP check and the cryptography finds. -/
def unwrapGood (s : State) (e i z : Bool) : Prop := blobFields (secBlob s) = true ∧ e = true ∧ i = true ∧ (blobKind (secBlob s) = 2 → z = true)

theorem unwrapRange_iff (s : State) (id : Nat) : unwrapRange s id ↔
    (blobKind (secBlob s) == 2 && id != 0 || blobKind (secBlob s) == 1 && !decide (1 ≤ id ∧ id ≤ 256)) = false := by
  simp only [unwrapRange, Bool.or_eq_false_iff, Bool.and_eq_false_iff, beq_eq_false_iff_ne, bne_eq_false_iff_eq, Bool.not_eq_false', decide_eq_true_iff, imp_iff_not_or]

theorem unwrapGood_iff (s : State) (e i z : Bool) : unwrapGood s e i z ↔
    (blobFields (secBlob s) && e && i && (!(blobKind (secBlob s) == 2) || z)) = true := by
  simp only [unwrapGood, Bool.and_eq_true, and_assoc, Bool.or_eq_true, Bool.not_eq_true', beq_eq_false_iff_ne, imp_iff_not_or]

theorem secUnwrap_state {s : State} {id : Nat} {e i z : Bool} (h : secShut s = true ∨ ¬ unwrapRange s id) : secUnwrap s id e i z = secCode s 2 := by
  unfold secUnwrap
  by_cases hs : secShut s = true
  · exact if_pos hs
  · have hr := h.resolve_left hs
    rw [unwrapRange_iff, Bool.not_eq_false] at hr
    dsimp only
    rw [if_neg hs, if_pos hr]

theorem secUnwrap_taken {s : State} {id : Nat} {e i z : Bool} (hs : secShut s = false) (hr : unwrapRange s id) (hk : blobKind (secBlob s) = 1)
    (hu : Tab.find s.sec.keys id ≠ none) : secUnwrap s id e i z = secCode s 3 := by
  unfold secUnwrap
  dsimp only
  rw [if_neg (by rw [hs]; exact Bool.false_ne_true), if_neg (by rw [(unwrapRange_iff ..).1 hr]; exact Bool.false_ne_true),
    if_pos (by rw [hk, Option.isSome_iff_ne_none.2 hu]; rfl)]

/-- Past the refusals that only look at the key slot. -/
theorem secUnwrap_checks {s : State} {id : Nat} {e i z : Bool} (hs : secShut s = false) (hr : unwrapRange s id)
    (hu : ¬ (blobKind (secBlob s) = 1 ∧ Tab.find s.sec.keys id ≠ none)) : secUnwrap s id e i z =
      if !(blobFields (secBlob s) && e && i && (!(blobKind (secBlob s) == 2) || z)) then secCode (cntAdd s 0 0 0xC00018 1) 1
      else if blobKind (secBlob s) == 2 then
        { secCode s 0 with sec := { s.sec with caks := Tab.put s.sec.caks (blobPort (secBlob s)) (secBlob s) } }
      else { secCode s 0 with sec := { s.sec with keys := Tab.put s.sec.keys id (secBlob s) } } := by
  have hu' : ¬ (blobKind (secBlob s) == 1 && (Tab.find s.sec.keys id).isSome) = true := by
    rw [Bool.and_eq_true, beq_iff_eq, Option.isSome_iff_ne_none]
    exact hu
  unfold secUnwrap
  dsimp only
  rw [if_neg (by rw [hs]; exact Bool.false_ne_true), if_neg (by rw [(unwrapRange_iff ..).1 hr]; exact Bool.false_ne_true), if_neg hu']
  rfl

theorem secUnwrap_bad {s : State} {id : Nat} {e i z : Bool} (hs : secShut s = false) (hr : unwrapRange s id)
    (hu : ¬ (blobKind (secBlob s) = 1 ∧ Tab.find s.sec.keys id ≠ none)) (hg : ¬ unwrapGood s e i z) :
    secUnwrap s id e i z = secCode (cntAdd s 0 0 0xC00018 1) 1 := by
  rw [unwrapGood_iff, Bool.not_eq_true] at hg
  rw [secUnwrap_checks hs hr hu, hg]
  rfl

theorem secUnwrap_good {s : State} {id : Nat} {e i z : Bool} (hs : secShut s = false) (hr : unwrapRange s id)
    (hu : ¬ (blobKind (secBlob s) = 1 ∧ Tab.find s.sec.keys id ≠ none)) (hg : unwrapGood s e i z) : secUnwrap s id e i z =
      if blobKind (secBlob s) = 2 then
        { secCode s 0 with sec := { s.sec with caks := Tab.put s.sec.caks (blobPort (secBlob s)) (secBlob s) } }
      else { secCode s 0 with sec := { s.sec with keys := Tab.put s.sec.keys id (secBlob s) } } := by
  rw [secUnwrap_checks hs hr hu, (unwrapGood_iff ..).1 hg]
  by_cases hk : blobKind (secBlob s) = 2
  · rw [if_pos hk, hk]
    rfl
  · rw [if_neg hk, beq_false_of_ne hk]
    rfl

theorem regGet_secCode (s : State) (c : Word) : regGet (secCode s c) 0 0 0xC00008 = c := regGet_regSet_same ..

theorem reg64_unwrapsFailed (s : State) : reg64 (secCode (cntAdd s 0 0 0xC00018 1) 1) 0 0 0xC00018 = reg64 s 0 0 0xC00018 + 1 := by
  have h (t : State) : reg64 (secCode t 1) 0 0 0xC00018 = reg64 t 0 0 0xC00018 := by
    rw [reg64, reg64, secCode, regGet_regSet_off _ _ _ _ _ _ (by decide), regGet_regSet_off _ _ _ _ _ _ (by decide)]
  rw [h, reg64_cntAdd]
  rfl

theorem secDelete_state {s : State} {id : Nat} (h : secShut s = true ∨ id = 0 ∨ 256 < id) : secDelete s id = secCode s 2 := by
  refine if_pos ?_
  rw [Bool.or_eq_true, Bool.not_eq_true', decide_eq_false_iff_not]
  exact h.imp_right fun h => by omega

/-- DELETE of a key slot in range. -/
theorem secDelete_slot {s : State} {id : Nat} (hs : secShut s = false) (h1 : 1 ≤ id) (h2 : id ≤ 256) : secDelete s id =
    if keyUsers s id ≠ 0 then secCode s 3 else secCode { s with sec := { s.sec with keys := Tab.drop s.sec.keys id } } 0 :=
  if_neg (by rw [hs, decide_eq_true (And.intro h1 h2)]; exact Bool.false_ne_true)

/-- Settles O48: the refusals of UNWRAP and DELETE in their order, one lemma each. -/
theorem keyCommands : Obligations.KeyCommands := by
  intro s k id shut b kind port code holds
  have hshut : secShut s = true ↔ shut := secShut_iff s
  have hopen (h : ¬ shut) : secShut s = false := by rwa [← hshut, Bool.not_eq_true] at h
  refine ⟨fun e i z => ?_, ?_, ?_, ?_⟩
  · intro good range used
    have hgood : good ↔ unwrapGood s e i z := by
      simp only [unwrapGood, blobFields_iff, and_assoc]
      exact Iff.rfl
    refine ⟨fun h => congrArg Host.Outcome.next (secUnwrap_state (h.imp_left hshut.2)), fun h hr hu => congrArg Host.Outcome.next (secUnwrap_taken (hopen h) hr hu.1 hu.2),
      fun h hr hu hg => ?_, fun h hr hg hk hn => ?_, fun h hr hg hk => ?_⟩
    · refine ⟨_, congrArg Host.Outcome.next (secUnwrap_bad (hopen h) hr hu (mt hgood.2 hg)), rfl, regGet_secCode .., reg64_unwrapsFailed s⟩
    · have hu : ¬ (blobKind (secBlob s) = 1 ∧ Tab.find s.sec.keys id ≠ none) := fun h => h.2 hn
      have h2 : ¬ blobKind (secBlob s) = 2 := fun h => by rw [show blobKind (secBlob s) = 1 from hk] at h; cases h
      refine ⟨_, congrArg Host.Outcome.next ((secUnwrap_good (hopen h) hr hu (hgood.1 hg)).trans (if_neg h2)), rfl, regGet_secCode s 0, rfl, rfl, rfl, fun j =>
        Tab.find_put_eq ..⟩
    · have hu : ¬ (blobKind (secBlob s) = 1 ∧ Tab.find s.sec.keys id ≠ none) := fun h => by rw [show blobKind (secBlob s) = 2 from hk] at h; cases h.1
      refine ⟨_, congrArg Host.Outcome.next ((secUnwrap_good (hopen h) hr hu (hgood.1 hg)).trans (if_pos hk)), rfl, regGet_secCode s 0, rfl, rfl, rfl, fun j =>
        Tab.find_put_eq ..⟩
  · exact fun h => congrArg Host.Outcome.next (secDelete_state (h.imp_left hshut.2))
  · exact fun h h1 h2 hu => congrArg Host.Outcome.next ((secDelete_slot (hopen h) h1 h2).trans (if_pos hu))
  · intro h h1 h2 hu
    exact ⟨_, congrArg Host.Outcome.next ((secDelete_slot (hopen h) h1 h2).trans (if_neg (not_not_intro hu))), rfl, regGet_secCode .., rfl, rfl, rfl, fun j =>
      Tab.find_drop_eq ..⟩

end Sys2Proof.Machine
end

section
/-! PROOFS. The answers to SPDM requests (O49). -/

namespace Sys2Proof.Machine

open Sys2Proof.Claims

/-! ## The answers to SPDM requests -/

/-- One message sent on its path, where every packet not lost has arrived before it. -/
structure Answered (s t : State) (n : Nat) (ws : List Word) : Prop where
  out : t.out = s.out ++ [.mctp n ws]
  form : t = { s with out := t.out, hw := { s.hw with mctp := t.hw.mctp } }
  pcie : n = 0 → t.hw.mctp = s.hw.mctp
  bus : n ≠ 0 → Tab.get [] t.hw.mctp n = (Tab.get [] s.hw.mctp n).filter (·.lost) ++ [⟨ws, 0, false⟩]

theorem sendMctp_answered (s : State) (via : Via) (ws : List Word) : Answered s (sendMctp s via ws) (viaNo via) ws := by
  unfold sendMctp
  dsimp only
  split
  · next h => exact ⟨rfl, rfl, fun _ => rfl, fun hn => absurd h hn⟩
  · next h => exact ⟨rfl, rfl, fun hn => absurd hn h, fun _ => Tab.get_put_same ..⟩

theorem spdm_down {s : State} {via : Via} (f : State → State) (h : viaUp s via = false) : spdm s via f = s := if_pos h

theorem spdm_busy {s : State} {via : Via} (f : State → State) (h : viaUp s via = true) (hb : deriving' s = true) : spdm s via f = spdmError s via 0x03 0 := by
  rw [spdm, h, if_neg (Bool.noConfusion), if_pos hb]

theorem spdm_free {s : State} {via : Via} (f : State → State) (h : viaUp s via = true) (hb : deriving' s = false) : spdm s via f = f s := by
  rw [spdm, h, if_neg (Bool.noConfusion), hb, if_neg Bool.false_ne_true]

theorem deriving'_iff (s : State) : deriving' s = true ↔ s.hw.phase = .starting ∧ s.sec.keysReady = false ∧ s.sec.keyFault = false := by
  simp only [deriving', Bool.and_eq_true, beq_iff_eq, Bool.not_eq_true', and_assoc]

/-- A request of the block: its meaning behind the gate of R431. -/
def IsSpdm (i : Instr) (via : Via) (f : State → State) : Prop := ∀ s, exec i s = .next (spdm s via f)

theorem IsSpdm.gate {i : Instr} {via : Via} {f : State → State} (h : IsSpdm i via f) (s : State) :
    (viaUp s via = false → exec i s = .next s) ∧
    (viaUp s via = true → deriving' s = true → Nexts i s (fun t => Answered s t (viaNo via) [spdmHead 0x7F 3 0])) :=
  ⟨fun hd => (h s).trans (congrArg Host.Outcome.next (spdm_down f hd)),
    fun hu hb => ⟨_, (h s).trans (congrArg Host.Outcome.next (spdm_busy f hu hb)), sendMctp_answered ..⟩⟩

theorem IsSpdm.sends {i : Instr} {via : Via} {f : State → State} (h : IsSpdm i via f) {s : State} (hu : viaUp s via = true) (hb : deriving' s = false)
    {ws : List Word} (hf : f s = sendMctp s via ws) : Nexts i s (fun t => Answered s t (viaNo via) ws) :=
  ⟨_, (h s).trans (congrArg Host.Outcome.next ((spdm_free f hu hb).trans hf)), sendMctp_answered ..⟩

/-- Settles O49: every request passes the gate `spdm`, and what passes sends one message. -/
theorem spdmAnswers : Obligations.SpdmAnswers := by
  intro s via nonce slot idx code p384 sign n busy shut head sends answers
  have hbusy : deriving' s = true ↔ busy := deriving'_iff s
  have hshut : secShut s = true ↔ shut := secShut_iff s
  have hsends {i : Instr} {ws : List Word} (h : Nexts i s (fun t => Answered s t n ws)) : sends i ws := by
    obtain ⟨t, he, hout, hform, hpcie, hbus⟩ := h
    exact ⟨t, he, hout, hform, hpcie, fun hn => ⟨_, hbus hn, rfl⟩⟩
  have gv : IsSpdm (.getVersion via) via (fun s => spdmAnswer s via 0x04 0 0 []) := fun _ => rfl
  have gc : IsSpdm (.getCapabilities via) via (fun s => spdmAnswer s via 0x61 0 0 []) := fun _ => rfl
  have na : IsSpdm (.negotiateAlgorithms via p384) via (fun s => spdmAnswer s via 0x63 p384.toNat 0 []) := fun _ => rfl
  have gd : IsSpdm (.getDigests via) via (fun s => spdmAnswer s via 0x01 0 0 []) := fun _ => rfl
  have ge : IsSpdm (.getCertificate via slot) via (fun s => spdmAnswer s via 0x02 slot.toNat 0 []) := fun _ => rfl
  have ch : IsSpdm (.challenge via nonce) via (fun s => if secShut s then spdmError s via 0x04 0 else spdmAnswer s via 0x03 0 nonce []) := fun _ => rfl
  have gm : IsSpdm (.getMeasurements via idx sign) via (fun s => if sign && secShut s then spdmError s via 0x04 0
    else spdmAnswer s via 0x60 (idx.toNat + 256 * sign.toNat) 0 (measured s idx.toNat)) := fun _ => rfl
  have un : IsSpdm (.spdmUnsupportedRequest via code) via (fun s => spdmError s via 0x07 code.toNat) := fun _ => rfl
  refine ⟨?_, fun hu hb => ?_⟩
  · have gate {i : Instr} {f : State → State} (h : IsSpdm i via f) :
        (viaUp s via = false → exec i s = .next s) ∧ (viaUp s via = true → busy → sends i [head 0x7F 3 0]) :=
      ⟨(h.gate s).1, fun hu hb => hsends ((h.gate s).2 hu (hbusy.2 hb))⟩
    simp only [List.forall_mem_cons, List.not_mem_nil, false_implies, implies_true, and_true]
    exact ⟨gate gv, gate gc, gate na, gate gd, gate ge, gate ch, gate gm, gate un⟩
  · have hf : deriving' s = false := by rwa [← hbusy, Bool.not_eq_true] at hb
    refine ⟨hsends (gv.sends hu hf rfl), hsends (gc.sends hu hf rfl), hsends (na.sends hu hf rfl), hsends (gd.sends hu hf rfl), hsends (ge.sends hu hf rfl),
      fun h => hsends (ch.sends hu hf (if_pos (hshut.2 h))), fun h => hsends (ch.sends hu hf (if_neg (mt hshut.1 h))),
      fun hs h => hsends (gm.sends hu hf (if_pos ?_)), fun h => hsends (gm.sends hu hf (if_neg ?_)), hsends (un.sends hu hf rfl)⟩
    · rw [hs, hshut.2 h]
      rfl
    · rw [Bool.and_eq_true]
      rintro ⟨hs, hx⟩
      exact h.elim (fun h => by rw [h] at hs; cases hs) (fun h => h (hshut.1 hx))

end Sys2Proof.Machine
end

section
/-! PROOFS. The power envelope: staging, segments, EN, freeze and thaw (O43). -/

namespace Sys2Proof.Machine

open Sys2Proof.Claims

/-! ## Reports and the event log -/

/-- From `s` to `t` only reports were made and records queued for the event log. -/
def LogWork (s t : State) : Prop := t = { s with regs := t.regs, rings := t.rings, recent := t.recent, out := t.out, tamb := t.tamb }

theorem LogWork.trans {s t u : State} (h : LogWork s t) (g : LogWork t u) : LogWork s u := by
  unfold LogWork at *
  rw [g, h]

theorem OnlyReports.logWork {s t : State} (h : OnlyReports s t) : LogWork s t := by
  rw [LogWork, show t = _ from h]

theorem logFrom_logWork (s : State) (source cls code p region : Nat) (v0 v1 : Word) : LogWork s (logFrom s source cls code p region v0 v1) := by
  unfold logFrom
  dsimp only
  split <;> rfl

theorem logRecord_logWork (s : State) (cls code p region : Nat) (v0 v1 : Word) : LogWork s (logRecord s cls code p region v0 v1) := logFrom_logWork ..

theorem tambF_logWork (s : State) (cls code : Nat) (sc : Scope) (sev region : Nat) (loc v0 v1 : Word) :
    LogWork s (tambF s cls code sc sev region loc v0 v1) := (OnlyReports.reportF ..).logWork.trans (logRecord_logWork ..)

theorem tambE_logWork (s : State) (cls code : Nat) (sc : Scope) (sev region : Nat) (loc v0 v1 : Word) :
    LogWork s (tambE s cls code sc sev region loc v0 v1) := (OnlyReports.reportE ..).logWork.trans (logRecord_logWork ..)

/-! ## Staging and segments -/

theorem getLsbD_or_bits (w : Word) {hi lo i : Nat} (h : lo ≤ hi) (h32 : hi < 32) (h1 : lo ≤ i) (h2 : i ≤ hi) : (w ||| bits hi lo).getLsbD i = true := by
  rw [BitVec.getLsbD_or, getLsbD_bits h h32, decide_eq_true (And.intro h1 h2), Bool.or_true]

theorem getLsbD_and_bits (w : Word) {hi lo i : Nat} (h : lo ≤ hi) (h32 : hi < 32) : (w &&& bits hi lo).getLsbD i = (decide (lo ≤ i ∧ i ≤ hi) && w.getLsbD i) := by
  rw [BitVec.getLsbD_and, getLsbD_bits h h32, Bool.and_comm]

/-- A refused command sets REFUSED in PWR_ENV_STATUS and touches no other register. -/
theorem envRefuse_spec (s : State) : envRefuse s = { s with regs := (envRefuse s).regs } ∧ (regGet (envRefuse s) 0 0 0x900010).getLsbD 21 = true ∧
    ∀ f x o, f ≤ 18 → o < 2 ^ 26 → f ≠ 0 ∨ x ≠ 0 ∨ o ≠ 0x900010 → regGet (envRefuse s) f x o = regGet s f x o := by
  refine ⟨rfl, ?_, fun f x o hf ho hne => ?_⟩
  · rw [envRefuse, envStatus, regOr, regGet_regSet_same]
    exact getLsbD_or_bits _ (by decide) (by decide) (by decide) (by decide)
  · exact regGet_regSet_other _ _ _ _ _ _ _ _ (by simp only [regKey]; omega)

theorem mapM_eq_some_iff {α β : Type} (f : α → Option β) (l : List α) : ∀ xs : List β, l.mapM f = some xs ↔ l.map f = xs.map some := by
  induction l with
  | nil =>
    intro xs
    cases xs <;> simp
  | cons a l ih =>
    intro xs
    rw [List.mapM_cons]
    cases xs with
    | nil => cases f a <;> cases l.mapM f <;> simp
    | cons x xs =>
      rw [List.map_cons, List.map_cons, List.cons.injEq, ← ih]
      cases f a <;> cases l.mapM f <;> simp

/-- Every sample from 0 to COUNTM1 written, in order. -/
theorem stagedSamples_iff (s : State) (fn : Nat) (xs : List Nat) : stagedSamples s fn = some xs ↔
    xs.length = fld (regGet s fn 0 0x900028) 31 16 + 1 ∧ ∀ j, j < xs.length → Tab.find s.power.stage (fn * 65536 + j) = xs[j]? := by
  rw [stagedSamples, mapM_eq_some_iff]
  constructor
  · intro h
    have hl := congrArg List.length h
    rw [List.length_map, List.length_map, List.length_range] at hl
    refine ⟨hl.symm, fun j hj => ?_⟩
    have hg := congrArg (·[j]?) h
    rw [List.getElem?_map, List.getElem?_map, List.getElem?_range (by omega), List.getElem?_eq_getElem hj] at hg
    rw [List.getElem?_eq_getElem hj]
    exact Option.some.inj hg
  · rintro ⟨hl, h⟩
    refine List.ext_getElem (by rw [List.length_map, List.length_map, List.length_range, hl]) fun j h1 h2 => ?_
    rw [List.getElem_map, List.getElem_map, List.getElem_range]
    rw [List.length_map] at h2
    rw [h j h2, List.getElem?_eq_getElem h2]

/-- What R378 asks of a staged segment, whatever the slots hold: its start, its ramp, its samples. -/
structure StagedOk (s : State) (fn : Nat) : Prop where
  whole : (reg64 s fn 0 0x900020).toNat % 1000000 = 0
  ahead : s.time.toNat + 10000000 ≤ (reg64 s fn 0 0x900020).toNat
  ramp : fld (regGet s fn 0 0x900028) 8 0 ≤ 300
  samples : ∀ j, j < fld (regGet s fn 0 0x900028) 31 16 + 1 → ∃ v, Tab.find s.power.stage (fn * 65536 + j) = some v ∧ 650 ≤ v ∧ v ≤ 3600

theorem stagedSeg_some {s : State} {fn : Nat} {x : Segment} (h : stagedSeg s fn = some x) : StagedOk s fn ∧
    x.start = reg64 s fn 0 0x900020 ∧ x.ramp = fld (regGet s fn 0 0x900028) 8 0 ∧ x.samples.length = fld (regGet s fn 0 0x900028) 31 16 + 1 ∧
    ∀ j, j < fld (regGet s fn 0 0x900028) 31 16 + 1 → x.samples[j]? = Tab.find s.power.stage (fn * 65536 + j) := by
  unfold stagedSeg at h
  dsimp only at h
  split at h
  · cases h
  · next xs hxs =>
    obtain ⟨hl, hs⟩ := (stagedSamples_iff ..).1 hxs
    split at h
    · next hc =>
      obtain ⟨h1, h2, h3, h4⟩ := hc
      cases h
      refine ⟨⟨h1, h2, h3, fun j hj => ?_⟩, rfl, rfl, hl, fun j hj => (hs j (hl ▸ hj)).symm⟩
      have hj' : j < xs.length := hl ▸ hj
      exact ⟨xs[j], (hs j hj').trans (List.getElem?_eq_getElem hj'), of_decide_eq_true (List.all_eq_true.1 h4 _ (List.getElem_mem hj'))⟩
    · cases h

theorem stagedSeg_isSome {s : State} {fn : Nat} (h : StagedOk s fn) : ∃ x, stagedSeg s fn = some x := by
  let n := fld (regGet s fn 0 0x900028) 31 16 + 1
  let xs := (List.range n).map (fun j => (Tab.find s.power.stage (fn * 65536 + j)).getD 0)
  have hl : xs.length = n := by rw [List.length_map, List.length_range]
  have hget (j : Nat) (hj : j < n) : xs[j]? = Tab.find s.power.stage (fn * 65536 + j) := by
    obtain ⟨v, hv, -⟩ := h.samples j hj
    rw [List.getElem?_map, List.getElem?_range hj, Option.map_some, hv]
    rfl
  have hxs : stagedSamples s fn = some xs := (stagedSamples_iff ..).2 ⟨hl, fun j hj => (hget j (hl ▸ hj)).symm⟩
  have hall : xs.all (fun x => decide (650 ≤ x ∧ x ≤ 3600)) = true := by
    refine List.all_eq_true.2 fun x hx => decide_eq_true ?_
    obtain ⟨j, hj, rfl⟩ := List.getElem_of_mem hx
    have hj' : j < n := hl ▸ hj
    obtain ⟨v, hv, hr⟩ := h.samples j hj'
    have he := hget j hj'
    rw [List.getElem?_eq_getElem hj, hv] at he
    rwa [Option.some.inj he]
  refine ⟨⟨reg64 s fn 0 0x900020, fld (regGet s fn 0 0x900028) 8 0, xs⟩, ?_⟩
  unfold stagedSeg
  rw [hxs]
  exact if_pos ⟨h.whole, h.ahead, h.ramp, hall⟩

theorem stagedSeg_iff (s : State) (fn : Nat) : (∃ x, stagedSeg s fn = some x) ↔ StagedOk s fn :=
  ⟨fun ⟨_, h⟩ => (stagedSeg_some h).1, stagedSeg_isSome⟩

theorem writeSeg_bad {s : State} {fn slot : Nat} (h : ¬ StagedOk s fn) : writeSeg s fn slot = envRefuse s := by
  have hn : stagedSeg s fn = none := Option.eq_none_iff_forall_not_mem.2 fun x hx => h ((stagedSeg_iff ..).1 ⟨x, hx⟩)
  rw [writeSeg, hn]

theorem writeSeg_eq {s : State} {fn slot : Nat} {x : Segment} (h : stagedSeg s fn = some x) : writeSeg s fn slot =
    if (Tab.find s.power.segs slot).isSome ∨ s.power.segs.any (fun e => x.meets e.2) then envRefuse s
    else { s with power := { s.power with segs := Tab.put s.power.segs slot x } } := by
  rw [writeSeg, h]

/-- A staged span of n milliseconds meets a segment that is VALID. -/
def Clashes (s : State) (start n : Nat) : Prop :=
  ∃ e ∈ s.power.segs, start < e.2.start.toNat + e.2.samples.length * 1000000 ∧ e.2.start.toNat < start + n * 1000000

theorem any_meets_iff (s : State) (x : Segment) : s.power.segs.any (fun e => x.meets e.2) = true ↔ Clashes s x.start.toNat x.samples.length := by
  simp only [List.any_eq_true, Segment.meets, decide_eq_true_eq]
  exact Iff.rfl

theorem clearSeg_none {s : State} {slot : Nat} (h : Tab.find s.power.segs slot = none) : clearSeg s slot = s := by
  rw [clearSeg, h]

/-- A segment's span holds the present millisecond while the envelope is enabled. -/
def InProgress (s : State) (x : Segment) : Prop := envOn s = true ∧ x.start.toNat ≤ s.time.toNat ∧ s.time.toNat < x.start.toNat + x.samples.length * 1000000

theorem clearSeg_some {s : State} {slot : Nat} {x : Segment} (h : Tab.find s.power.segs slot = some x) :
    (InProgress s x → clearSeg s slot = envRefuse s) ∧
    (¬ InProgress s x → clearSeg s slot = { s with power := { s.power with segs := Tab.drop s.power.segs slot } }) := by
  have hi : InProgress s x ↔ envOn s = true ∧ x.covers s.time.toNat = true := by
    rw [Segment.covers, decide_eq_true_iff]
    exact Iff.rfl
  rw [clearSeg, h]
  exact ⟨fun hp => if_pos (hi.1 hp), fun hp => if_neg (mt hi.2 hp)⟩

/-! ## Staging registers and EN -/

theorem segCfgWrite_spec (s : State) (fn : Nat) (v : Word) :
    (∀ j, j < 65536 → Tab.find (segCfgWrite s fn v).power.stage (fn * 65536 + j) = none) ∧
    (∀ k, k / 65536 ≠ fn → Tab.find (segCfgWrite s fn v).power.stage k = Tab.find s.power.stage k) ∧
    fld (regGet (segCfgWrite s fn v) fn 0 0x900028) 31 16 = fld v 31 16 ∧ fld (regGet (segCfgWrite s fn v) fn 0 0x900028) 8 0 = fld v 8 0 := by
  have hst (k : Nat) : Tab.find (segCfgWrite s fn v).power.stage k = if k / 65536 != fn then Tab.find s.power.stage k else none :=
    Tab.find_filter s.power.stage (fun k => k / 65536 != fn) k
  have hr : regGet (segCfgWrite s fn v) fn 0 0x900028 = v &&& (bits 31 16 ||| bits 8 0) := regGet_regSet_same ..
  have hbit (i : Nat) (h : 16 ≤ i ∧ i ≤ 31 ∨ i ≤ 8) : (v &&& (bits 31 16 ||| bits 8 0)).getLsbD i = v.getLsbD i := by
    rw [BitVec.getLsbD_and, BitVec.getLsbD_or, getLsbD_bits (by decide) (by decide), getLsbD_bits (by decide) (by decide), ← Bool.decide_or,
      decide_eq_true (by omega), Bool.and_true]
  refine ⟨fun j hj => ?_, fun k hk => ?_, ?_, ?_⟩
  · rw [hst, show (fn * 65536 + j) / 65536 = fn by omega, bne_self_eq_false]
    rfl
  · rw [hst, if_pos (bne_iff_ne.2 hk)]
  · rw [hr, fld_congr fun i h1 h2 => hbit i (.inl ⟨h1, h2⟩)]
  · rw [hr, fld_congr fun i _ h2 => hbit i (.inr h2)]

theorem fld_ofNat_low {n hi : Nat} (h : hi < 32) (hn : n < 2 ^ (hi + 1)) : fld (BitVec.ofNat 32 n) hi 0 = n := by
  have h32 : 2 ^ (hi + 1) ≤ 2 ^ 32 := Nat.pow_le_pow_right (by decide) (by omega)
  rw [fld, BitVec.toNat_ofNat, Nat.pow_zero, Nat.div_one, Nat.sub_zero, Nat.mod_eq_of_lt (show n < 2 ^ 32 by omega), Nat.mod_eq_of_lt hn]

theorem segDataWrite_spec (s : State) (fn : Nat) (v : Word) :
    let j := fld (regGet s fn 0 0x90002C) 15 0
    (∀ k, Tab.find (segDataWrite s fn v).power.stage k = if k = fn * 65536 + j then some (fld v 15 0) else Tab.find s.power.stage k) ∧
    fld (regGet (segDataWrite s fn v) fn 0 0x90002C) 15 0 = (j + 1) % 65536 := by
  refine ⟨fun k => Tab.find_put_eq .., ?_⟩
  rw [segDataWrite, regGet_regSet_same]
  exact fld_ofNat_low (by decide) (Nat.mod_lt _ (by decide))

/-- The register a permitted write of PWR_ENV_CTRL leaves (R383). -/
def envCtrlFields (old v : Word) : Word :=
  (v &&& bits 31 31) ||| (if 1 ≤ fld v 24 16 ∧ fld v 24 16 ≤ 300 then v &&& bits 24 16 else old &&& bits 24 16) |||
    (if fld v 15 0 ≠ 0 then v &&& bits 15 0 else old &&& bits 15 0)

theorem and_bits_ite (c : Prop) [Decidable c] (a b m : Word) : (if c then a &&& m else b &&& m) = (if c then a else b) &&& m := by
  split <;> rfl

theorem envCtrlFields_spec (old v : Word) : (envCtrlFields old v).getLsbD 31 = v.getLsbD 31 ∧
    fld (envCtrlFields old v) 24 16 = (if 1 ≤ fld v 24 16 ∧ fld v 24 16 ≤ 300 then fld v 24 16 else fld old 24 16) ∧
    fld (envCtrlFields old v) 15 0 = (if fld v 15 0 = 0 then fld old 15 0 else fld v 15 0) := by
  have hbit (i : Nat) : (envCtrlFields old v).getLsbD i = ((decide (31 ≤ i ∧ i ≤ 31) && v.getLsbD i ||
      decide (16 ≤ i ∧ i ≤ 24) && (if 1 ≤ fld v 24 16 ∧ fld v 24 16 ≤ 300 then v else old).getLsbD i) ||
      decide (0 ≤ i ∧ i ≤ 15) && (if fld v 15 0 ≠ 0 then v else old).getLsbD i) := by
    rw [envCtrlFields, and_bits_ite, and_bits_ite, BitVec.getLsbD_or, BitVec.getLsbD_or, getLsbD_and_bits _ (by decide) (by decide),
      getLsbD_and_bits _ (by decide) (by decide), getLsbD_and_bits _ (by decide) (by decide)]
  refine ⟨?_, ?_, ?_⟩
  · rw [hbit]
    simp
  · refine (fld_congr fun i h1 h2 => ?_).trans (apply_ite (fld · 24 16) _ v old)
    rw [hbit, decide_eq_false (by omega), decide_eq_true (And.intro h1 h2), decide_eq_false (by omega)]
    simp
  · refine (fld_congr fun i h1 h2 => ?_).trans ((apply_ite (fld · 15 0) _ v old).trans (ite_not ..))
    rw [hbit, decide_eq_false (by omega), decide_eq_false (by omega), decide_eq_true (And.intro h1 h2)]
    simp

theorem envCtrlWrite_refused {s : State} {v : Word} (hv : v.getLsbD 31 = true) (hl : s.ptpLock = false) : envCtrlWrite s v = envRefuse s := if_pos ⟨hv, hl⟩

/-- A permitted write of PWR_ENV_CTRL. -/
theorem envCtrlWrite_taken {s : State} {v : Word} (h : v.getLsbD 31 = false ∨ s.ptpLock = true) : envCtrlWrite s v =
    if v.getLsbD 31 = false then
      { regSet s 0 0 0x90000C (envCtrlFields (regGet s 0 0 0x90000C) v) with power := { s.power with env := .idle } }
    else if s.power.env = .idle then
      { regSet s 0 0 0x90000C (envCtrlFields (regGet s 0 0 0x90000C) v) with
        power := { s.power with env := .armed, begun := false, segs := s.power.segs.filter (fun e => !decide (e.2.fin ≤ s.time.toNat)) } }
    else regSet s 0 0 0x90000C (envCtrlFields (regGet s 0 0 0x90000C) v) := by
  refine (if_neg ?_).trans rfl
  rintro ⟨hv, hl⟩
  rw [hv, hl] at h
  exact h.elim Bool.noConfusion Bool.noConfusion

/-! ## Freeze and thaw -/

/-- The states that lose their lock (R383). -/
theorem freezes_iff (e : EnvSt) : ¬ (e.tracks = false ∧ e ≠ .armed) ↔ e = .armed ∨ e = .tracking ∨ e = .gap ∨ e = .ended := by
  cases e <;> decide

theorem envFreeze_stays {s : State} (h : ¬ (s.ptpLock = false ∧ (s.power.env = .armed ∨ s.power.env = .tracking ∨ s.power.env = .gap ∨ s.power.env = .ended))) :
    envFreeze s = s := by
  refine if_pos ?_
  rw [← freezes_iff] at h
  by_cases hl : s.ptpLock = true
  · exact .inl hl
  · exact .inr (not_not.1 fun hn => h ⟨by rwa [Bool.not_eq_true] at hl, hn⟩)

theorem envFreeze_moves {s : State} (hl : s.ptpLock = false) (he : s.power.env = .armed ∨ s.power.env = .tracking ∨ s.power.env = .gap ∨ s.power.env = .ended) :
    (envFreeze s).cores = s.cores ∧ (envFreeze s).hw.alerts = s.hw.alerts ||| 0x10 ∧
    (envFreeze s).power = { s.power with env := .frozen, target := if s.power.env = .armed then pwrCap s * 100 else s.power.target } := by
  let t := if s.power.env = .armed then pwrCap s * 100 else s.power.target
  let u := alert { s with power := { s.power with env := .frozen, target := t } } 4
  have hf : envFreeze s = tambF u 4 0x23 .engine 1 0xFFFF 0 (BitVec.ofNat 32 (t / 100)) 0 := by
    refine if_neg ?_
    rintro (h | h)
    · rw [hl] at h
      cases h
    · exact (freezes_iff _).2 he h
  have hw : LogWork u (envFreeze s) := hf ▸ tambF_logWork ..
  unfold LogWork at hw
  rw [hw]
  exact ⟨rfl, rfl, rfl⟩

/-- What the retirement of segments leaves of the power state: only the slots and what the last of them gave. -/
theorem retireSegs_form (s : State) (t : Nat) : retireSegs s t = { s with power := { s.power with
    segs := s.power.segs.filter (fun e => !decide (e.2.fin ≤ t)), value := (retireSegs s t).power.value, slew := (retireSegs s t).power.slew,
    begun := (retireSegs s t).power.begun } } := by
  unfold retireSegs
  dsimp only
  split <;> rfl

theorem retireSegs_nil {s : State} (h : s.power.segs = []) (t : Nat) : (retireSegs s t).power.begun = s.power.begun := by
  unfold retireSegs
  rw [h]
  rfl

/-- The state a thawed envelope goes on in. -/
def thawTo (s : State) (t : Nat) : EnvSt :=
  if s.power.segs.any (fun e => e.2.covers t) then .tracking else if s.power.begun = false then .armed
  else if s.power.segs.any (fun x => decide (t < x.2.start.toNat)) then .gap else .ended

theorem envThaw_frozen {s : State} (h : s.power.env = .frozen) : envThaw s =
    { retireSegs s s.time.toNat with power := { (retireSegs s s.time.toNat).power with env := thawTo (retireSegs s s.time.toNat) s.time.toNat } } := by
  rw [envThaw, if_neg (not_not_intro h)]
  dsimp only
  unfold thawTo
  split
  · rfl
  · split
    · rfl
    · split <;> rfl

theorem envThaw_other {s : State} (h : s.power.env ≠ .frozen) : envThaw s = s := if_pos h

theorem mem_live_iff (segs : Tab Segment) (t : Nat) (e : Nat × Segment) :
    e ∈ segs.filter (fun e => !decide (e.2.fin ≤ t)) ↔ e ∈ segs ∧ t < e.2.start.toNat + e.2.samples.length * 1000000 := by
  rw [List.mem_filter, Bool.not_eq_true', decide_eq_false_iff_not, Nat.not_le]
  exact Iff.rfl

/-- The lock returns to a frozen envelope (R383). -/
theorem envThaw_spec {s : State} (h : s.power.env = .frozen) :
    envThaw s = { s with power := (envThaw s).power } ∧ (envThaw s).power.target = s.power.target ∧ (envThaw s).power.regions = s.power.regions ∧
    (∀ e, e ∈ (envThaw s).power.segs ↔ e ∈ s.power.segs ∧ s.time.toNat < e.2.start.toNat + e.2.samples.length * 1000000) ∧
    ((∃ e ∈ s.power.segs, e.2.start.toNat ≤ s.time.toNat ∧ s.time.toNat < e.2.start.toNat + e.2.samples.length * 1000000) → (envThaw s).power.env = .tracking) ∧
    (s.power.segs = [] → (envThaw s).power.env = if s.power.begun = false then .armed else .ended) := by
  have hr := retireSegs_form s s.time.toNat
  have hsegs : (retireSegs s s.time.toNat).power.segs = s.power.segs.filter (fun e => !decide (e.2.fin ≤ s.time.toNat)) := by rw [hr]
  rw [envThaw_frozen h]
  refine ⟨?_, ?_, ?_, fun e => ?_, ?_, fun hn => ?_⟩
  · rw [hr]
  · rw [hr]
  · rw [hr]
  · rw [← mem_live_iff, ← hsegs]
  · rintro ⟨e, he, h1, h2⟩
    refine if_pos (List.any_eq_true.2 ⟨e, ?_, decide_eq_true (And.intro h1 h2)⟩)
    rw [hsegs]
    exact (mem_live_iff ..).2 ⟨he, h2⟩
  · have h0 : (retireSegs s s.time.toNat).power.segs = [] := by rw [hsegs, hn]; rfl
    rw [← retireSegs_nil hn s.time.toNat]
    dsimp only
    rw [thawTo, h0]
    rfl

/-- Settles O43: staging, the segment commands, EN, the freeze and the thaw by their lemmas. -/
theorem envelopeCommands : Obligations.EnvelopeCommands := by
  intro s rq fn refuses en cfg start n smp staged clash
  have href {i : Instr} (h : exec i s = .next (envRefuse s)) : refuses i := ⟨_, h, envRefuse_spec s⟩
  have hstaged : staged ↔ StagedOk s fn := ⟨fun ⟨h1, h2, h3, h4⟩ => ⟨h1, h2, h3, h4⟩, fun h => ⟨h.whole, h.ahead, h.ramp, h.samples⟩⟩
  have hmeets {x : Segment} (hx : stagedSeg s fn = some x) : s.power.segs.any (fun e => x.meets e.2) = true ↔ clash := by
    obtain ⟨-, h1, -, h2, -⟩ := stagedSeg_some hx
    rw [any_meets_iff, h1, h2]
    exact Iff.rfl
  refine ⟨fun g h => href (congrArg Host.Outcome.next ?_), fun g h hn hc => ?_, fun g h => congrArg Host.Outcome.next (clearSeg_none h), fun g x h => ?_,
    fun h => href (congrArg Host.Outcome.next (if_pos h)), fun h => congrArg Host.Outcome.next (if_neg (Bool.eq_false_iff.1 h)), fun v => ?_, fun v => ?_,
    fun v hv hl => href (congrArg Host.Outcome.next (envCtrlWrite_refused hv hl)), fun v h => ?_, ⟨fun h => congrArg Host.Outcome.next (envFreeze_stays h),
      fun h => ⟨_, rfl, envFreeze_moves h.1 h.2⟩⟩, rfl, fun pt ns ok => ?_⟩
  · by_cases hs : staged
    · obtain ⟨x, hx⟩ := stagedSeg_isSome (hstaged.1 hs)
      refine (writeSeg_eq hx).trans (if_pos ?_)
      rw [Option.isSome_iff_ne_none, hmeets hx]
      exact h.resolve_left (not_not_intro hs)
    · exact writeSeg_bad (mt hstaged.2 hs)
  · obtain ⟨x, hx⟩ := stagedSeg_isSome (hstaged.1 h)
    obtain ⟨-, hstart, hramp, hlen, hsmp⟩ := stagedSeg_some hx
    refine ⟨_, congrArg Host.Outcome.next ((writeSeg_eq hx).trans (if_neg ?_)), rfl, fun j hj => Tab.find_put_other _ _ hj, x, Tab.find_put_same ..,
      congrArg BitVec.toNat hstart, hramp, hlen, hsmp⟩
    rw [hn, hmeets hx]
    exact fun h => h.elim Bool.noConfusion hc
  · exact ⟨fun hp => href (congrArg Host.Outcome.next ((clearSeg_some h).1 hp)),
      fun hp => ⟨_, congrArg Host.Outcome.next ((clearSeg_some h).2 hp), rfl, fun j => Tab.find_drop_eq ..⟩⟩
  · exact ⟨_, rfl, rfl, segCfgWrite_spec s fn v⟩
  · exact ⟨_, rfl, rfl, segDataWrite_spec s fn v⟩
  · have hw := envCtrlWrite_taken h
    let y := envCtrlFields (regGet s 0 0 0x90000C) v
    have hregs (p : Power) : regGet { regSet s 0 0 0x90000C y with power := p } 0 0 0x90000C = y := regGet_regSet_same ..
    obtain ⟨h31, hramp, hhold⟩ := envCtrlFields_spec (regGet s 0 0 0x90000C) v
    by_cases hv : v.getLsbD 31 = false
    · refine ⟨_, congrArg Host.Outcome.next (hw.trans (if_pos hv)), rfl, ?_⟩
      dsimp only
      rw [hregs, h31, if_pos hv, hv]
      exact ⟨rfl, hramp, hhold, fun h => Bool.noConfusion h.1, fun _ => ⟨rfl, rfl⟩, rfl⟩
    · rw [if_neg hv] at hw
      by_cases hi : s.power.env = .idle
      · refine ⟨_, congrArg Host.Outcome.next (hw.trans (if_pos hi)), rfl, ?_⟩
        dsimp only
        rw [hregs, h31, if_neg hv, if_pos hi]
        exact ⟨rfl, hramp, hhold, fun _ => ⟨rfl, mem_live_iff _ _⟩, fun h => h.elim (absurd · hv) (absurd hi), rfl⟩
      · refine ⟨_, congrArg Host.Outcome.next (hw.trans (if_neg hi)), rfl, ?_⟩
        rw [regGet_regSet_same, h31, if_neg hv, if_neg hi]
        exact ⟨rfl, hramp, hhold, fun h => absurd h.2 hi, fun _ => ⟨rfl, rfl⟩, rfl⟩
  · intro w named
    refine ⟨fun h => if_neg h, fun h => ?_⟩
    let u : State := { emit s (.ptp pt.val) with time := ns, ptpLock := ok }
    have he : exec (.ptpEventMessage pt ns ok) s = .next (if ok then envThaw u else u) := if_pos h
    by_cases hf : ok = true ∧ s.power.env = .frozen
    · obtain ⟨hok, hfz⟩ := hf
      rw [if_pos hok] at he
      obtain ⟨hform, hthaw⟩ := envThaw_spec (s := u) hfz
      refine ⟨_, he, hform, fun h => ?_, fun _ _ => hthaw⟩
      exact h.elim (fun h => by rw [hok] at h; cases h) (fun h => absurd hfz h)
    · have hu : (if ok then envThaw u else u) = u := by
        split
        · next hok => exact envThaw_other fun hz => hf ⟨hok, hz⟩
        · rfl
      rw [hu] at he
      exact ⟨_, he, rfl, fun _ => rfl, fun h1 h2 => absurd ⟨h1, h2⟩ hf⟩

end Sys2Proof.Machine
end

section
/-! PROOFS. Register accesses: pairs, PART_CMD, ERR_RING_CTRL (O39). -/

namespace Sys2Proof.Machine

open Sys2Proof.Claims

/-! ## Accesses without effect -/

theorem execRegisterWrite_ignored {s : State} {fn : Func} {off : BitVec 26} {v : Word} {n : Nat}
    (h : n ≠ 4 ∨ off.toNat % 4 ≠ 0 ∨ mayWrite fn.val off.toNat = false) : exec (.registerWrite fn off v n) s = .next s := by
  refine congrArg Host.Outcome.next ?_
  by_cases hn : n = 4
  · exact (if_pos hn).trans (if_pos (h.resolve_left (not_not_intro hn)))
  · exact if_neg hn

theorem execLowWordRead_ignored {s : State} {fn : Func} {off : BitVec 26} {n : Nat}
    (h : n ≠ 4 ∨ off.toNat % 4 ≠ 0 ∨ mayRead fn.val off.toNat = false) :
    exec (.lowWordRead fn ⟨off, n⟩) s = .next { s with out := s.out ++ [.read fn.val 0] } := by
  have hr : (if n = 4 then readReg s fn.val off.toNat else (0, s)) = (0, s) := by
    by_cases hn : n = 4
    · exact (if_pos hn).trans (if_pos (h.resolve_left (not_not_intro hn)))
    · exact if_neg hn
  change Host.Outcome.next (emit (if n = 4 then readReg s fn.val off.toNat else (0, s)).2 _) = _
  rw [hr]
  rfl

/-! ## 64-bit values in the window of a VF -/

/-- The words of the 64-bit registers named, low and high. -/
def plainWords : List Nat := plain64 ++ plain64.map (· + 4)

/-- What R15 turns on for a 64-bit register at o: both words stored whole. -/
structure IsPlain64 (o : Nat) : Prop where
  low : isLow64 o = true
  high : isLow64 (o + 4) = false
  rwLow : (regSpec o).rw = BitVec.allOnes 32
  rwHigh : (regSpec (o + 4)).rw = BitVec.allOnes 32
  small : o + 4 < 2 ^ 26
  align : o % 4 = 0
  block : blkOf o ≠ 4 ∧ blkOf (o + 4) ≠ 4

theorem isPlain64_of_mem {o : Nat} (h : o ∈ plain64) : IsPlain64 o := by
  have hall : ∀ o ∈ plain64, isLow64 o = true ∧ isLow64 (o + 4) = false ∧ (regSpec o).rw = BitVec.allOnes 32 ∧ (regSpec (o + 4)).rw = BitVec.allOnes 32 ∧
    o + 4 < 2 ^ 26 ∧ o % 4 = 0 ∧ blkOf o ≠ 4 ∧ blkOf (o + 4) ≠ 4 := by decide
  obtain ⟨h1, h2, h3, h4, h5, h6, h7⟩ := hall o h
  exact ⟨h1, h2, h3, h4, h5, h6, h7⟩

section
variable {rq : Nat} (h1 : 1 ≤ rq) (h16 : rq ≤ 16)
include h1 h16

theorem isVf_of_range : isVf rq = true := decide_eq_true ⟨h1, h16⟩

theorem isBus_of_range : isBus rq = false := decide_eq_false (by omega)

theorem mayWrite_plainWords : ∀ o ∈ plainWords, mayWrite rq o = true := by
  simp only [mayWrite, inWindow, isVf_of_range h1 h16, isBus_of_range h1 h16]
  decide

theorem mayRead_plainWords : ∀ o ∈ plainWords, mayRead rq o = true := by
  simp only [mayRead, inWindow, isVf_of_range h1 h16, isBus_of_range h1 h16]
  decide

/-- A VF's write of one of these words has no effect of its own. -/
theorem writeReg_plainWords (s : State) (v : Word) : ∀ o ∈ plainWords, writeReg s rq o v = plainWrite s rq rq 0 o v := by
  have hmay : ∀ o ∈ plainWords, ¬ (o % 4 ≠ 0 ∨ mayWrite rq o = false) := by
    intro o ho
    rw [mayWrite_plainWords h1 h16 o ho]
    revert o
    decide
  intro o ho
  rw [writeReg, if_neg (hmay o ho)]
  revert o
  simp only [plainWords, plain64, List.map_cons, List.map_nil, List.cons_append, List.nil_append, List.forall_mem_cons, List.not_mem_nil, false_implies,
    implies_true, and_true]
  and_intros <;> rfl

/-- A read of one of these words in a VF's window is the word stored: none of them is live. -/
theorem liveRead_plainWords (s : State) : ∀ o ∈ plainWords, liveRead s rq o = regGet s rq 0 o := by
  have hz : ¬ rq = 0 := by omega
  have hbus : ¬ 16 < rq := by omega
  intro o ho
  rw [liveRead, if_neg (by rw [mayRead_plainWords h1 h16 o ho]; exact Bool.noConfusion)]
  revert o
  simp [plainWords, plain64, blkOf, offIn, readHq, readStrm, readColl, readTier, readWst, readErr, errPartReg, hz, hbus]

end

/-! ## Pairs: the hold and the shadow -/

theorem plainWrite_low {s : State} {rq o : Nat} {v : Word} (h : IsPlain64 o) : plainWrite s rq rq 0 o v = holdLow s rq o v := by
  rw [plainWrite, if_pos h.low, if_neg]
  rw [h.rwLow]
  decide

theorem stored_whole {off : Nat} (h : (regSpec off).rw = BitVec.allOnes 32) (old v : Word) : stored off old v = v := by
  simp only [stored, h, BitVec.not_allOnes, BitVec.and_zero, BitVec.zero_and, BitVec.and_allOnes, BitVec.zero_or]

theorem storeReg_whole {off : Nat} (h : (regSpec off).rw = BitVec.allOnes 32) (s : State) (fn idx : Nat) (v : Word) :
    storeReg s fn idx off v = regSet s fn idx off v := by
  rw [storeReg, stored_whole h]

theorem plainWrite_high {s : State} {rq o : Nat} {v : Word} (h : IsPlain64 o) : plainWrite s rq rq 0 (o + 4) v =
    regSet (regSet (takeHeld s rq o (regGet s rq 0 o)).2 rq 0 o (takeHeld s rq o (regGet s rq 0 o)).1) rq 0 (o + 4) v := by
  rw [plainWrite, h.high, if_neg Bool.false_ne_true, Nat.add_sub_cancel, h.low, if_pos rfl, if_neg (by rw [h.rwHigh]; decide)]
  dsimp only
  rw [storeReg_whole h.rwLow, storeReg_whole h.rwHigh]

/-- Whether a low word is held for the register decides what the high word is written with. -/
theorem takeHeld_own {s : State} {rq o : Nat} {w : Word} (cur : Word) (h : (s.fnBuf rq).held = some (o, w)) :
    takeHeld s rq o cur = (w, s.setFnBuf rq { s.fnBuf rq with held := none }) := by
  rw [takeHeld, h]
  exact if_pos rfl

theorem takeHeld_other {s : State} {rq o : Nat} (cur : Word) (h : ∀ w, (s.fnBuf rq).held ≠ some (o, w)) : takeHeld s rq o cur = (cur, s) := by
  unfold takeHeld
  split
  · next o' w hh => exact if_neg fun e => h w (by rw [hh, e])
  · rfl

theorem reg64_regSet_pair (s : State) (fn idx o : Nat) (w v : Word) : reg64 (regSet (regSet s fn idx o w) fn idx (o + 4) v) fn idx o = v ++ w := by
  rw [reg64, regGet_regSet_same, regGet_regSet_off _ _ _ _ _ _ (by omega), regGet_regSet_same]

theorem regGet_regSet_pair {s : State} {fn o : Nat} (w v : Word) (hf : fn < 32) (ho : o + 4 < 2 ^ 26) {f x r : Nat} (hf' : f < 32) (hr : r < 2 ^ 26)
    (h : f ≠ fn ∨ x ≠ 0 ∨ (r ≠ o ∧ r ≠ o + 4)) : regGet (regSet (regSet s fn 0 o w) fn 0 (o + 4) v) f x r = regGet s f x r := by
  rw [regGet_regSet_other _ _ _ _ _ _ _ _ (by simp only [regKey]; omega), regGet_regSet_other _ _ _ _ _ _ _ _ (by simp only [regKey]; omega)]

theorem readReg_low {s : State} {rq o : Nat} (h : IsPlain64 o) (hm : mayRead rq o = true) :
    readReg s rq o = (liveRead s rq o, s.setFnBuf rq { s.fnBuf rq with shadow := some (o, liveRead s rq (o + 4)) }) := by
  rw [readReg, if_neg (by rw [h.align, hm]; simp), if_neg fun hb => h.block.1 hb.1, if_pos h.low]

theorem readReg_high_own {s : State} {rq o : Nat} {w : Word} (h : IsPlain64 o) (hm : mayRead rq (o + 4) = true) (hs : (s.fnBuf rq).shadow = some (o, w)) :
    readReg s rq (o + 4) = (w, s) := by
  have ha : (o + 4) % 4 = 0 := by have := h.align; omega
  rw [readReg, if_neg (by rw [ha, hm]; simp), if_neg fun hb => h.block.2 hb.1, h.high, if_neg Bool.false_ne_true, Nat.add_sub_cancel, if_pos h.low, hs]
  exact congrArg (·, s) (if_pos rfl)

theorem readReg_high_live {s : State} {rq o : Nat} (h : IsPlain64 o) (hm : mayRead rq (o + 4) = true) (hs : ∀ w, (s.fnBuf rq).shadow ≠ some (o, w)) :
    readReg s rq (o + 4) = (liveRead s rq (o + 4), s) := by
  have ha : (o + 4) % 4 = 0 := by have := h.align; omega
  rw [readReg, if_neg (by rw [ha, hm]; simp), if_neg fun hb => h.block.2 hb.1, h.high, if_neg Bool.false_ne_true, Nat.add_sub_cancel, if_pos h.low]
  split
  · next o' w hh => exact congrArg (·, s) (if_neg fun e => hs w (by rw [hh, e]))
  · rfl

/-! ## ERR_RING_CTRL -/

/-- The word a write of ERR_RING_CTRL leaves (R456). -/
def errRingFields (old v : Word) : Word :=
  (v &&& bits 31 31) ||| ((if old.getLsbD 31 || decide (fld v 19 16 < 4 ∨ 12 < fld v 19 16) then old else v) &&& bits 19 16)

theorem errRingFields_spec (old v : Word) : (errRingFields old v).getLsbD 31 = v.getLsbD 31 ∧
    fld (errRingFields old v) 19 16 = if old.getLsbD 31 ∨ fld v 19 16 < 4 ∨ 12 < fld v 19 16 then fld old 19 16 else fld v 19 16 := by
  let src := if old.getLsbD 31 || decide (fld v 19 16 < 4 ∨ 12 < fld v 19 16) then old else v
  have hbit (i : Nat) : (errRingFields old v).getLsbD i = (decide (31 ≤ i ∧ i ≤ 31) && v.getLsbD i || decide (16 ≤ i ∧ i ≤ 19) && src.getLsbD i) := by
    rw [errRingFields, BitVec.getLsbD_or, getLsbD_and_bits _ (by decide) (by decide), getLsbD_and_bits _ (by decide) (by decide)]
  constructor
  · rw [hbit]
    simp
  · have hsrc : fld (errRingFields old v) 19 16 = fld src 19 16 := fld_congr fun i h1 h2 => by
      rw [hbit, decide_eq_false (by omega), decide_eq_true (And.intro h1 h2), Bool.false_and, Bool.false_or, Bool.true_and]
    rw [hsrc, apply_ite (fld · 19 16)]
    simp only [Bool.or_eq_true, decide_eq_true_eq]

theorem errRingCtrl_starts {s : State} {fn : Nat} {v : Word} (h : (regGet s fn 0 0xD00008).getLsbD 31 = false ∧ v.getLsbD 31 = true) :
    errRingCtrl s fn v = { regSet (regSet (regSet s fn 0 0xD00008 (errRingFields (regGet s fn 0 0xD00008) v)) fn 0 0xD0000C 0) fn 0 0xD00010 0 with
      rings := Tab.put s.rings fn { s.ring fn with phase := true } } := if_pos h

theorem regGet_rings (s : State) (r : Tab Ring) (fn idx off : Nat) : regGet { s with rings := r } fn idx off = regGet s fn idx off := rfl

/-- The registers of a ring that starts anew. -/
theorem ringRegs_anew (s : State) (fn : Nat) (w : Word) (r : Tab Ring) :
    let t := { regSet (regSet (regSet s fn 0 0xD00008 w) fn 0 0xD0000C 0) fn 0 0xD00010 0 with rings := r }
    regGet t fn 0 0xD00008 = w ∧ regGet t fn 0 0xD0000C = 0 ∧ regGet t fn 0 0xD00010 = 0 := by
  refine ⟨?_, ?_, ?_⟩
  · rw [regGet_rings, regGet_regSet_off _ _ _ _ _ _ (by decide), regGet_regSet_off _ _ _ _ _ _ (by decide), regGet_regSet_same]
  · rw [regGet_rings, regGet_regSet_off _ _ _ _ _ _ (by decide), regGet_regSet_same]
  · rw [regGet_rings, regGet_regSet_same]

theorem errRingCtrl_keeps {s : State} {fn : Nat} {v : Word} (h : ¬ ((regGet s fn 0 0xD00008).getLsbD 31 = false ∧ v.getLsbD 31 = true)) :
    errRingCtrl s fn v = regSet s fn 0 0xD00008 (errRingFields (regGet s fn 0 0xD00008) v) := if_neg h

/-! ## PART_CMD -/

theorem registerWrite_partCmd (s : State) (v : Word) : exec (.registerWrite 0 0x200044 v 4) s = .next (partCmdWrite s v) := rfl

theorem partCmdWrite_op {s : State} {v : Word} : ∀ e ∈ [(1, Instr.create), (2, .resize), (3, .reset), (4, .destroy), (5, .transit)], fld v 31 28 = e.1 →
    exec (.registerWrite 0 0x200044 v 4) s = exec e.2 s := by
  simp only [List.forall_mem_cons, List.not_mem_nil, false_implies, implies_true, and_true, registerWrite_partCmd]
  and_intros <;> (intro h; rw [partCmdWrite, h]; rfl)

theorem partCmdWrite_bad {s : State} {v : Word} (h : fld v 31 28 = 0 ∨ 5 < fld v 31 28) (hc : s.partCmd = none) (hl : s.lc ≠ .retired) :
    partCmdWrite s v = regSet s 0 0 0x200048 2 := by
  have hop : partCmdWrite s v = partOp s (fun s _ => partCode s 2) := by
    unfold partCmdWrite
    split
    case h_6 => rfl
    all_goals omega
  rw [hop, partOp, hc, Option.isSome_none, if_neg Bool.false_ne_true, if_neg hl]
  split <;> rfl

/-- Settles O39: the accesses ignored, the pairs by hold and shadow, PART_CMD by its OP, ERR_RING_CTRL by its word. -/
theorem registerAccesses : Obligations.RegisterAccesses := by
  intro s fn v
  refine ⟨fun off n h => execRegisterWrite_ignored h, fun off n h => execLowWordRead_ignored h, fun o ho hfn => ?_, partCmdWrite_op,
    fun h hc hl => congrArg Host.Outcome.next (partCmdWrite_bad h hc hl), ?_⟩
  · intro b lo hi
    have h16 : fn.val ≤ 16 := by omega
    have hp := isPlain64_of_mem ho
    have hmem : o ∈ plainWords := List.mem_append_left _ ho
    have hmem' : o + 4 ∈ plainWords := List.mem_append_right _ (List.mem_map_of_mem ho)
    have hlo : lo.toNat = o := (BitVec.toNat_ofNat ..).trans (Nat.mod_eq_of_lt (by have := hp.small; omega))
    have hhi : hi.toNat = o + 4 := (BitVec.toNat_ofNat ..).trans (Nat.mod_eq_of_lt hp.small)
    have hwrite (off : BitVec 26) : exec (.registerWrite fn off v 4) s = .next (writeReg s fn.val off.toNat v) := rfl
    have hread (off : BitVec 26) : exec (.lowWordRead fn ⟨off, 4⟩) s =
      .next (emit (readReg s fn.val off.toNat).2 (.read fn.val (readReg s fn.val off.toNat).1)) := rfl
    rw [hwrite, hread, hread, hlo, hhi, writeReg_plainWords hfn h16 _ _ _ hmem, plainWrite_low hp,
      readReg_low hp (mayRead_plainWords hfn h16 _ hmem), liveRead_plainWords hfn h16 _ _ hmem, liveRead_plainWords hfn h16 _ _ hmem']
    refine ⟨rfl, ?_, rfl, fun w hw => ?_, fun hw => ?_⟩
    · refine ⟨_, (hwrite hi).trans (congrArg Host.Outcome.next (by rw [hhi, writeReg_plainWords hfn h16 _ _ _ hmem', plainWrite_high hp])), ?_⟩
      by_cases hh : ∃ w, b.held = some (o, w)
      · obtain ⟨w, hw⟩ := hh
        rw [takeHeld_own _ hw]
        refine ⟨rfl, fun w' hw' => ?_, fun hn => absurd hw (hn w), fun f x r hf hr hne => regGet_regSet_pair _ _ (by omega) hp.small (by omega) hr hne⟩
        rw [hw] at hw'
        cases hw'
        exact ⟨reg64_regSet_pair .., Tab.get_put_same ..⟩
      · have hn : ∀ w, b.held ≠ some (o, w) := fun w hw => hh ⟨w, hw⟩
        rw [takeHeld_other _ hn]
        exact ⟨rfl, fun w hw => absurd hw (hn w), fun _ => ⟨reg64_regSet_pair .., rfl⟩,
          fun f x r hf hr hne => regGet_regSet_pair _ _ (by omega) hp.small (by omega) hr hne⟩
    · rw [readReg_high_own hp (mayRead_plainWords hfn h16 _ hmem') hw]
      rfl
    · rw [readReg_high_live hp (mayRead_plainWords hfn h16 _ hmem') hw, liveRead_plainWords hfn h16 _ _ hmem']
      rfl
  · intro old
    obtain ⟨h31, hlog⟩ := errRingFields_spec old v
    refine ⟨_, rfl, ?_⟩
    by_cases h : old.getLsbD 31 = false ∧ v.getLsbD 31 = true
    · rw [errRingCtrl_starts h]
      obtain ⟨hctl, hhead, htail⟩ := ringRegs_anew s fn.val (errRingFields old v) (Tab.put s.rings fn.val { s.ring fn.val with phase := true })
      rw [hctl]
      refine ⟨rfl, h31, hlog, fun _ => ⟨hhead, htail, Tab.get_put_same ..⟩, fun hn => ?_⟩
      · rw [h.1, h.2] at hn
        exact hn.elim Bool.noConfusion Bool.noConfusion
    · rw [errRingCtrl_keeps h]
      refine ⟨rfl, ?_⟩
      dsimp only
      rw [regGet_regSet_same]
      exact ⟨h31, hlog, fun hc => absurd hc h, fun _ => ⟨rfl, regGet_regSet_off _ _ _ _ _ _ (by decide)⟩⟩

end Sys2Proof.Machine
end

section
/-! PROOFS. A safe stop that latches weight set slots (O44). -/

namespace Sys2Proof.Machine

open Sys2Proof.Claims

/-! ## A safe stop that releases a barrier

The stop fences every core (R394), which completes the barriers they held (R225), and a release latches the slots due on its lane (R270): the weight
store does not stay as it was but for its transfers. -/

/-- A BUSY lane of partition 1, a slot due on it, and a set whose generation it latches. -/
def dueAtStop : State :=
  { hw := { phase := .up }, gridRows := 0, parts := [(1, { lanes := [0] })], lanes := [(0, { st := .busy, owner := 1 })],
    wst := { sets := [(0, { gen := 5 })], slots := [(1024, { bound := true, due := true, lane := 0, mset := 0 })] } }

theorem safeStop_dueAtStop_latches : ((safeStop dueAtStop 2).wst.slots.map (fun e => (e.1, e.2.lg, e.2.due))) = [(1024, 5, false)] := by
  decide +kernel

/-- Refutes O44: the stop of a module whose lane is BUSY latches the slot due on it. -/
theorem not_supervisorEvents : ¬ Obligations.SupervisorEvents := by
  intro h
  obtain ⟨-, -, -, -, hstop, -⟩ := h dueAtStop
  obtain ⟨t, ht, -, -, -, -, -, -, hwst, -⟩ := (hstop .mmcHeartbeatTimeout List.mem_cons_self).2 (.inr rfl)
  have he : t = safeStop dueAtStop 2 := (Host.Outcome.next.inj ht).symm
  have hslots : (safeStop dueAtStop 2).wst.slots = dueAtStop.wst.slots := by rw [← he, hwst]
  have hl := safeStop_dueAtStop_latches
  rw [hslots] at hl
  exact absurd hl (by decide)

end Sys2Proof.Machine
end

section
/-! PROOFS. What a fence of cores may touch, and what a safe stop leaves. -/

namespace Sys2Proof.Machine

open Sys2Proof.Claims

/-! ## What a fence of cores may touch -/

/-- From `s` to `t` cores were fenced and lanes released: chimes advanced, due slots latched, and nothing else. -/
def FenceWork (s t : State) : Prop :=
  t = { s with regs := t.regs, rings := t.rings, recent := t.recent, out := t.out, pairs := t.pairs, watches := t.watches, acks := t.acks,
               routers := t.routers, draws := t.draws, hqs := t.hqs, chimes := t.chimes, chimeTime := t.chimeTime, cores := t.cores, lanes := t.lanes,
               wst := { s.wst with slots := t.wst.slots } }

theorem FenceWork.refl (s : State) : FenceWork s s := rfl

theorem FenceWork.trans {s t u : State} (h : FenceWork s t) (g : FenceWork t u) : FenceWork s u := by
  unfold FenceWork at *
  rw [g, h]

theorem FenceWork.foldl {α : Type} {f : State → α → State} (hf : ∀ s a, FenceWork s (f s a)) (l : List α) (s : State) : FenceWork s (l.foldl f s) := by
  induction l generalizing s with
  | nil => exact .refl s
  | cons a l ih => exact (hf s a).trans (ih _)

theorem HomeWork.fenceWork {s t : State} (h : HomeWork s t) : FenceWork s t := by
  unfold FenceWork
  rw [h]

theorem chimeAdvance_fenceWork (s : State) (g : Nat) (step : Word) : FenceWork s (chimeAdvance s g step) :=
  FenceWork.trans (t := stepped s g step) rfl (chimeAdvance_spec s g step).1.fenceWork

theorem statusChime_fenceWork (s : State) (n : Nat) (step : Word) : FenceWork s (statusChime s n step) := by
  have hp (p m : Nat) : FenceWork s (partAdvance s p m step) := by
    unfold partAdvance
    split
    · exact chimeAdvance_fenceWork ..
    · exact (OnlyReports.violate ..).homeWork.fenceWork
  unfold statusChime
  dsimp only
  split
  · exact hp ..
  · exact .refl s

theorem realign_fenceWork (s : State) (p l : Nat) : FenceWork s (realign s p l) :=
  HomeWork.fenceWork (.foldl (fun s g => (pairCheck_homeWork s p g).trans (u := pairRef (pairCheck s p g) p g) rfl) _ _)

theorem endArrivals_fenceWork (s : State) (l : Nat) (status : Word) (cs : List CoreId) : FenceWork s (endArrivals s l status cs) := by
  rw [endArrivals_form]
  rfl

theorem laneApply_fenceWork (s : State) (n : Nat) : FenceWork s (laneApply s n) := by
  rw [(laneApply_spec s n).2]
  rfl

theorem laneRelease_fenceWork (s : State) (n : Nat) : FenceWork s (laneRelease s n) := by
  let ln := s.lane n
  let l := laneIndex s n
  let s1 := latchSlots (realign s ln.owner l) ln.owner l
  have h1 : FenceWork s s1 := (realign_fenceWork s ln.owner l).trans (u := s1) rfl
  let s2 := s1.setLane n { ln with st := .idle, arrived := [], releases := ln.releases + 1 }
  have h2 : FenceWork s s2 := h1.trans (u := s2) rfl
  exact ((h2.trans (statusChime_fenceWork ..)).trans (endArrivals_fenceWork ..)).trans (laneApply_fenceWork ..)

theorem laneSettle_fenceWork (s : State) (p : Nat) : FenceWork s (laneSettle s p) := by
  refine .foldl (fun s n => ?_) _ _
  unfold laneTry
  split
  · exact laneRelease_fenceWork ..
  · exact .refl s

theorem fenceOne_fenceWork (s : State) (c : CoreId) (cause : Cause) : FenceWork s (fenceOne s c cause) := by
  unfold fenceOne
  dsimp only
  split <;> rfl

theorem fenceCores_fenceWork (s : State) (p : Nat) (cause : Cause) (cs : List CoreId) : FenceWork s (fenceCores s p cause cs) :=
  (FenceWork.foldl (fun s c => fenceOne_fenceWork s c cause) cs s).trans (laneSettle_fenceWork ..)

theorem fenceAll_fenceWork (s : State) : FenceWork s (fenceAll s) := .foldl (fun s p => fenceCores_fenceWork s p EXT_FENCE _) _ s

/-! ## What a safe stop leaves (R394) -/

/-- The hardware of the module as a stop that is made leaves it. -/
def hwStopped (hw : ModHw) : ModHw :=
  { hw with phase := .stopped, ready := false, alerts := (if hw.ready then hw.alerts ||| (1#10 <<< 8) else hw.alerts) ||| (1#10 <<< 0) }

theorem stopBegun_eq (s : State) : stopBegun s = { s with quiet := true, hw := { hwStopped s.hw with phase := s.hw.phase } } := by
  unfold stopBegun readyLow hwStopped
  dsimp only
  cases hr : s.hw.ready
  · rw [if_neg Bool.false_ne_true, if_neg Bool.false_ne_true]
    unfold alert
    dsimp only
    rw [hr]
  · rw [if_pos rfl, if_pos rfl]
    rfl

/-- What neither fences nor records of the log touch. -/
def State.fixture (s : State) : ModHw × Power × Tab MSet × List DefectRec × LifeState × BitVec 64 × Bool × Nat :=
  (s.hw, s.power, s.wst.sets, s.defects, s.lc, s.incarnation, s.quiet, s.gridRows)

theorem LogWork.fixture {s t : State} (h : LogWork s t) : t.fixture = s.fixture := by
  unfold LogWork at h
  rw [h]
  rfl

theorem FenceWork.fixture {s t : State} (h : FenceWork s t) : t.fixture = s.fixture := by
  unfold FenceWork at h
  rw [h]
  rfl

theorem FenceWork.tamb {s t : State} (h : FenceWork s t) : t.tamb = s.tamb := by
  unfold FenceWork at h
  rw [h]

theorem logFrom_log (s : State) (source cls code p region : Nat) (v0 v1 : Word) : (logFrom s source cls code p region v0 v1).tamb.log = s.tamb.log := by
  unfold logFrom
  dsimp only
  split <;> rfl

theorem stopBegun_tamb (s : State) : (stopBegun s).tamb = s.tamb := by rw [stopBegun_eq]

theorem stopLogged_log (s : State) (source : Nat) : (stopLogged s source).tamb.log = s.tamb.log := by
  rw [stopLogged, logFrom_log, (fenceAll_fenceWork _).tamb, stopBegun_tamb]

theorem stopLogged_fixture (s : State) (source : Nat) : (stopLogged s source).fixture =
    ({ hwStopped s.hw with phase := s.hw.phase }, s.power, s.wst.sets, s.defects, s.lc, s.incarnation, true, s.gridRows) :=
  ((logFrom_logWork ..).fixture.trans (fenceAll_fenceWork (stopBegun s)).fixture).trans (congrArg State.fixture (stopBegun_eq s))

/-- A region turned off reads OFF, or DEAD where it was dead. -/
theorem offRegion_st (x : PRegion) : (offRegion x).st = .off ∨ (x.st = .dead ∧ (offRegion x).st = .dead) := by
  by_cases h : x.st = .dead
  · exact .inr ⟨h, if_pos h⟩
  · exact .inl (if_neg h)

theorem region_stopEnded (s : State) (r : Nat) : (stopEnded s).region r = offRegion (s.region r) :=
  Tab.get_mapped (fun _ x => offRegion x) s.power.regions r {}

theorem stopEnded_fixture (s : State) : (stopEnded s).hw = { s.hw with phase := .stopped } ∧ (stopEnded s).quiet = s.quiet ∧ (stopEnded s).tiers.mem = [] ∧
    (stopEnded s).wst.sets = s.wst.sets ∧ (stopEnded s).defects = s.defects ∧ (stopEnded s).lc = s.lc ∧ (stopEnded s).incarnation = s.incarnation ∧
    (stopEnded s).tamb.log = s.tamb.log := ⟨rfl, rfl, rfl, rfl, rfl, rfl, rfl, rfl⟩

/-- A safe stop of a running engine: the hardware stopped, the regions off, the grid FENCED; T3, the map, the life cycle and the log stand (R394). -/
theorem safeStop_running {s : State} (source : Nat) (h : ¬ (s.hw.phase = .dark ∨ s.hw.phase = .stopped)) :
    let t := safeStop s source
    t.hw = hwStopped s.hw ∧ t.quiet = true ∧ t.tiers.mem = [] ∧ t.wst.sets = s.wst.sets ∧ t.defects = s.defects ∧ t.lc = s.lc ∧ t.incarnation = s.incarnation ∧
    t.tamb.log = s.tamb.log ∧ (∀ r, t.region r = offRegion (s.region r)) ∧ ∀ d, coreKey d < s.gridRows * 1022 → (t.core d).st = .fenced := by
  intro t
  have hx := stopLogged_fixture s source
  simp only [State.fixture, Prod.mk.injEq] at hx
  obtain ⟨hhw, hpower, hsets, hdef, hlc, hinc, hquiet, -⟩ := hx
  have hf := (safeStop_safelyStopped source h).fenced
  have ht : t = stopEnded (stopLogged s source) := safeStop_of_running source h
  have hr (r : Nat) : (stopLogged s source).region r = s.region r := by rw [State.region, hpower]; rfl
  obtain ⟨ehw, equiet, emem, esets, edef, elc, einc, elog⟩ := stopEnded_fixture (stopLogged s source)
  rw [← ht] at ehw equiet emem esets edef elc einc elog
  refine ⟨?_, equiet.trans hquiet, emem, esets.trans hsets, edef.trans hdef, elc.trans hlc, einc.trans hinc, elog.trans (stopLogged_log s source), fun r => ?_,
    hf⟩
  · rw [ehw, hhw]
    rfl
  · rw [ht, region_stopEnded, hr]

theorem safeStop_still {s : State} (source : Nat) (h : s.hw.phase = .dark ∨ s.hw.phase = .stopped) : safeStop s source = s := if_pos h

end Sys2Proof.Machine
end

section
/-! PROOFS. Stops for the supply and the coolant. -/

namespace Sys2Proof.Machine

open Sys2Proof.Claims

/-! ## Stops for the pins, the supply and the coolant -/

theorem safeStop_hw (s : State) (source : Nat) :
    (safeStop s source).hw = if s.hw.phase = .dark ∨ s.hw.phase = .stopped then s.hw else hwStopped s.hw := by
  by_cases h : s.hw.phase = .dark ∨ s.hw.phase = .stopped
  · rw [safeStop_still source h, if_pos h]
  · rw [if_neg h]
    exact (safeStop_running source h).1

/-- What the stop leaves of the module's hardware but its phase, its ready line and its alerts. -/
theorem safeStop_hw_form (s : State) (source : Nat) : (safeStop s source).hw =
    { s.hw with phase := (safeStop s source).hw.phase, ready := (safeStop s source).hw.ready, alerts := (safeStop s source).hw.alerts } := by
  rw [safeStop_hw]
  split <;> rfl

/-- A stop raises alerts and clears none. -/
theorem safeStop_alerts (s : State) (source : Nat) {i : Nat} (h : s.hw.alerts.getLsbD i = true) : (safeStop s source).hw.alerts.getLsbD i = true := by
  rw [safeStop_hw]
  split
  · exact h
  · unfold hwStopped
    dsimp only
    split <;> simp only [BitVec.getLsbD_or, h, Bool.true_or]

theorem safeStop_phase (s : State) (source : Nat) : (safeStop s source).hw.phase = .dark ∨ (safeStop s source).hw.phase = .stopped := by
  rw [safeStop_hw]
  split
  · next h => exact h
  · exact .inr rfl

theorem running_iff (p : Phase) : ¬ (p = .dark ∨ p = .stopped) ↔ p = .starting ∨ p = .up := by
  cases p <;> decide

/-- A stop made after the module's hardware has taken note of its cause (R394). -/
theorem stopped_safeStop (s : State) {x : ModHw} (source : Nat) (h : x.phase = s.hw.phase) : Stopped s (safeStop { s with hw := x } source) := by
  refine ⟨fun hr => ?_, fun hs => ?_⟩
  · have hrun : ¬ (x.phase = .dark ∨ x.phase = .stopped) := by rwa [h, running_iff]
    obtain ⟨hhw, hquiet, hmem, hsets, hdef, hlc, -, -, hreg, hf⟩ := safeStop_running (s := { s with hw := x }) source hrun
    refine ⟨by rw [hhw]; rfl, by rw [hhw]; rfl, hquiet, hmem, hsets, hdef, hlc, fun r => ?_, hf⟩
    rw [hreg]
    exact offRegion_st _
  · rw [safeStop_still (s := { s with hw := x }) source (h ▸ hs)]
    exact ⟨h, rfl, rfl⟩

theorem alertBit (w : BitVec 10) {i : Nat} (h : i < 10) : (w ||| (1#10 <<< i)).getLsbD i = true := by
  simp [h]

/-! ## The busbar -/

/-- What the loss of all power keeps of the stop it makes. -/
theorem allPowerLost_eq (s : State) : allPowerLost s = { safeStop s 2 with
    tamb := { (safeStop s 2).tamb with queue := [] }
    hw := { (safeStop s 2).hw with phase := .dark, startReq := false, busMv := 0, mctp := [], alerts := 0, dropped := 0, discarded := 0 } } := rfl

/-- What a stop of a module never touches, whatever its phase. -/
theorem safeStop_keeps (s : State) (source : Nat) : (safeStop s source).defects = s.defects ∧ (safeStop s source).wst.sets = s.wst.sets ∧
    (safeStop s source).lc = s.lc ∧ (safeStop s source).incarnation = s.incarnation ∧ (safeStop s source).tamb.log = s.tamb.log := by
  by_cases h : s.hw.phase = .dark ∨ s.hw.phase = .stopped
  · rw [safeStop_still source h]
    exact ⟨rfl, rfl, rfl, rfl, rfl⟩
  · obtain ⟨-, -, -, hsets, hdef, hlc, hinc, hlog, -⟩ := safeStop_running source h
    exact ⟨hdef, hsets, hlc, hinc, hlog⟩

theorem busbarLost (s : State) : Nexts .busbarLoss s (fun t => (s.hw.phase = .starting ∨ s.hw.phase = .up → t.hw.ready = false ∧ t.quiet = true ∧ t.tiers.mem = [] ∧
      ∀ d, coreKey d < s.gridRows * 1022 → (t.core d).st = .fenced) ∧ t.hw.phase = .dark ∧ t.hw.busMv = 0 ∧ t.hw.startReq = false ∧ t.hw.alerts = 0 ∧ t.tamb.queue = [] ∧
    t.tamb.log = s.tamb.log ∧ t.defects = s.defects ∧ t.wst.sets = s.wst.sets ∧ t.lc = s.lc ∧ t.incarnation = s.incarnation) := by
  obtain ⟨hdef, hsets, hlc, hinc, hlog⟩ := safeStop_keeps s 2
  refine ⟨_, congrArg Host.Outcome.next (allPowerLost_eq s), fun hr => ?_, rfl, rfl, rfl, rfl, rfl, hlog, hdef, hsets, hlc, hinc⟩
  obtain ⟨hhw, hquiet, hmem, -, -, -, -, -, -, hf⟩ := safeStop_running 2 ((running_iff _).2 hr)
  exact ⟨by dsimp only; rw [hhw]; rfl, hquiet, hmem, hf⟩

theorem busOk_iff (s : State) : busOk s = true ↔ 42000 ≤ s.hw.busMv ∧ s.hw.busMv ≤ 58000 := decide_eq_true_iff

/-- The hardware that has taken note of a voltage. -/
def hwAt (hw : ModHw) (mv : Nat) : ModHw := { hw with busMv := mv, busLimit := none }

/-- The hardware that has taken note of a voltage outside the operating range. -/
def hwOff (hw : ModHw) (mv : Nat) : ModHw :=
  { hw with busMv := mv, busLimit := none, alerts := if hw.phase = .dark then hw.alerts else hw.alerts ||| (1#10 <<< 5) }

theorem busRange_low {s : State} {mv : Nat} (h : mv < 30000) : busRange s mv = allPowerLost { s with hw := hwAt s.hw mv } := if_pos h

theorem busRange_ok {s : State} {mv : Nat} (h1 : 42000 ≤ mv) (h2 : mv ≤ 58000) : busRange s mv = { s with hw := hwAt s.hw mv } :=
  (if_neg (by omega)).trans (if_pos (decide_eq_true ⟨h1, h2⟩))

/-- The stop, or the limit, that a voltage outside the operating range makes (R481). -/
def offRange (s : State) (mv : Nat) : State :=
  if mv < 40000 ∨ 59500 < mv then safeStop { s with hw := { s.hw with startReq := false } } 2
  else if mv < 42000 then { s with hw := { s.hw with busLimit := some (860 * mv / 10000) } } else s

theorem busRange_off {s : State} {mv : Nat} (h1 : 30000 ≤ mv) (h2 : ¬ (42000 ≤ mv ∧ mv ≤ 58000)) :
    busRange s mv = offRange { s with hw := hwOff s.hw mv } mv := by
  have hw : (if s.hw.phase = .dark then { s with hw := hwAt s.hw mv } else alert { s with hw := hwAt s.hw mv } 5) = { s with hw := hwOff s.hw mv } := by
    unfold hwOff
    split <;> rfl
  rw [← hw]
  exact (if_neg (by omega)).trans (if_neg (by rw [busOk_iff]; exact h2))

theorem busRange_stops (s : State) {mv : Nat} (h1 : 30000 ≤ mv) (h2 : mv < 40000 ∨ 59500 < mv) :
    busRange s mv = safeStop { s with hw := { hwOff s.hw mv with startReq := false } } 2 :=
  (busRange_off h1 (by omega)).trans (if_pos h2)

theorem hwOff_alerts (hw : ModHw) (mv : Nat) : (hwOff hw mv).alerts = if hw.phase = .dark then hw.alerts else hw.alerts ||| 0x20 := rfl

/-- The ranges of R481, one after the other. -/
theorem busRanges (s : State) (mv : Nat) :
    let alerts := if s.hw.phase = .dark then s.hw.alerts else s.hw.alerts ||| 0x20
    (mv < 30000 → Nexts (.busRange mv) s (fun t => t.hw.phase = .dark ∧ t.hw.busMv = 0)) ∧
    (30000 ≤ mv → mv < 40000 ∨ 59500 < mv → Nexts (.busRange mv) s (fun t => Stopped s t ∧ t.hw.busMv = mv ∧ t.hw.busLimit = none ∧
      t.hw.startReq = false ∧ (s.hw.phase ≠ .dark → t.hw.alerts.getLsbD 5 = true))) ∧
    (40000 ≤ mv → mv < 42000 → exec (.busRange mv) s = .next { s with hw := { s.hw with
      busMv := mv, busLimit := some (860 * mv / 10000), alerts := alerts } }) ∧
    (42000 ≤ mv → mv ≤ 58000 → exec (.busRange mv) s = .next { s with hw := { s.hw with busMv := mv, busLimit := none } }) ∧
    (58000 < mv → mv ≤ 59500 → exec (.busRange mv) s = .next { s with hw := { s.hw with busMv := mv, busLimit := none, alerts := alerts } }) := by
  intro alerts
  refine ⟨fun h => ⟨_, congrArg Host.Outcome.next (busRange_low h), rfl, rfl⟩, fun h1 h2 => ?_, fun h1 h2 => congrArg Host.Outcome.next ?_,
    fun h1 h2 => congrArg Host.Outcome.next (busRange_ok h1 h2), fun h1 h2 => congrArg Host.Outcome.next ?_⟩
  · let x : ModHw := { hwOff s.hw mv with startReq := false }
    have hf := safeStop_hw_form { s with hw := x } 2
    refine ⟨_, congrArg Host.Outcome.next (busRange_stops s h1 h2), stopped_safeStop s (x := x) 2 rfl, ?_, ?_, ?_, fun hp => ?_⟩
    · rw [hf]
      rfl
    · rw [hf]
      rfl
    · rw [hf]
    · exact safeStop_alerts _ 2 (by
        change (hwOff s.hw mv).alerts.getLsbD 5 = true
        rw [hwOff_alerts, if_neg hp]
        exact alertBit s.hw.alerts (i := 5) (by decide))
  · exact (busRange_off (by omega) (by omega)).trans ((if_neg (by omega)).trans (if_pos h2))
  · exact (busRange_off (by omega) (by omega)).trans ((if_neg (by omega)).trans (if_neg (by omega)))

/-! ## Coolant -/

/-- The hardware that has taken note of a sample of the coolant. -/
def hwSampled (hw : ModHw) (inlet outlet flow : Nat) : ModHw :=
  { hw with
    inlet := inlet, outlet := outlet, flow := flow, coolLimit := coolantLimit inlet flow,
    coolBad := if flow < 300 then hw.coolBad + 1 else 0, inletBad := if 420 < inlet then hw.inletBad + 1 else 0 }

/-- With the alert of R462 where a limit holds or a stop is due. -/
def hwCooled (hw : ModHw) (inlet outlet flow : Nat) : ModHw :=
  let x := hwSampled hw inlet outlet flow
  if x.coolLimit ≠ none ∨ 200 ≤ x.coolBad ∨ 200 ≤ x.inletBad then { x with alerts := x.alerts ||| (1#10 <<< 6) } else x

/-- The stop of 2 s of bad samples, and the stop of a leak. -/
def coolStops (stop wet : Bool) (s : State) : State :=
  let v := if stop then safeStop s 2 else s
  if wet then leakStop v else v

theorem coolantSample_eq (s : State) (inlet outlet flow : Nat) (wet : Bool) : coolantSample s inlet outlet flow wet =
    coolStops (decide (200 ≤ (hwSampled s.hw inlet outlet flow).coolBad ∨ 200 ≤ (hwSampled s.hw inlet outlet flow).inletBad)) wet
      { s with hw := hwCooled s.hw inlet outlet flow } := by
  let x := hwSampled s.hw inlet outlet flow
  have hu : (if x.coolLimit.isSome || decide (200 ≤ x.coolBad ∨ 200 ≤ x.inletBad) then alert { s with hw := x } 6 else { s with hw := x }) =
      { s with hw := hwCooled s.hw inlet outlet flow } := by
    have hc : (x.coolLimit.isSome || decide (200 ≤ x.coolBad ∨ 200 ≤ x.inletBad)) = true ↔ x.coolLimit ≠ none ∨ 200 ≤ x.coolBad ∨ 200 ≤ x.inletBad := by
      rw [Bool.or_eq_true, Option.isSome_iff_ne_none, decide_eq_true_iff]
    unfold hwCooled
    by_cases h : x.coolLimit ≠ none ∨ 200 ≤ x.coolBad ∨ 200 ≤ x.inletBad
    · rw [if_pos (hc.2 h), if_pos h]
      rfl
    · rw [if_neg (mt hc.1 h), if_neg h]
  rw [← hu]
  rfl

theorem stopped_alert {s t : State} (h : Stopped s t) (i : Nat) : Stopped s (alert t i) := h

theorem leakStop_stopped (s : State) : Stopped s (leakStop s) := stopped_safeStop s (x := (alert s 7).hw) 2 rfl

theorem leakStop_hw_form (s : State) : (leakStop s).hw =
    { s.hw with phase := (leakStop s).hw.phase, ready := (leakStop s).hw.ready, alerts := (leakStop s).hw.alerts } := safeStop_hw_form (alert s 7) 2

theorem leakStop_alerts (s : State) : (leakStop s).hw.alerts.getLsbD 7 = true ∧ ∀ i, s.hw.alerts.getLsbD i = true → (leakStop s).hw.alerts.getLsbD i = true := by
  refine ⟨safeStop_alerts _ 2 (alertBit s.hw.alerts (i := 7) (by decide)), fun i hi => safeStop_alerts _ 2 ?_⟩
  change (s.hw.alerts ||| _).getLsbD i = true
  rw [BitVec.getLsbD_or, hi, Bool.true_or]

/-- What the stops of a sample leave, whichever are made. -/
structure CoolStopped (s t : State) (stop wet : Bool) (x : ModHw) : Prop where
  hw : t.hw = { x with phase := t.hw.phase, ready := t.hw.ready, alerts := t.hw.alerts }
  alerts : ∀ i, x.alerts.getLsbD i = true → t.hw.alerts.getLsbD i = true
  leak : wet = true → t.hw.alerts.getLsbD 7 = true
  stops : stop = true ∨ wet = true → Stopped s t
  still : stop = false → wet = false → t = { s with hw := x }

theorem coolStops_leak (s : State) : coolStops false true s = leakStop s := by
  rw [coolStops, if_neg Bool.false_ne_true, if_pos rfl]

theorem coolStops_stop (s : State) : coolStops true false s = safeStop s 2 := by
  rw [coolStops, if_neg Bool.false_ne_true, if_pos rfl]

theorem leakStop_still {s : State} (h : s.hw.phase = .dark ∨ s.hw.phase = .stopped) : leakStop s = alert s 7 := by
  rw [leakStop, safeStop_still]
  exact h

theorem coolStops_both (s : State) : coolStops true true s = alert (safeStop s 2) 7 := by
  rw [coolStops, if_pos rfl, if_pos rfl, leakStop_still (safeStop_phase s 2)]

theorem coolStops_spec (s : State) {x : ModHw} (stop wet : Bool) (h : x.phase = s.hw.phase) :
    CoolStopped s (coolStops stop wet { s with hw := x }) stop wet x := by
  let u : State := { s with hw := x }
  have hsu (source : Nat) : Stopped s (safeStop u source) := stopped_safeStop s source h
  cases stop
  · cases wet
    · exact ⟨rfl, fun _ hi => hi, fun hw => Bool.noConfusion hw, fun hc => hc.elim Bool.noConfusion Bool.noConfusion, fun _ _ => rfl⟩
    · obtain ⟨h7, hkeep⟩ := leakStop_alerts u
      rw [coolStops_leak]
      exact ⟨leakStop_hw_form u, hkeep, fun _ => h7, fun _ => stopped_safeStop s (x := (alert u 7).hw) 2 h, fun _ hw => Bool.noConfusion hw⟩
  · cases wet
    · rw [coolStops_stop]
      exact ⟨safeStop_hw_form u 2, fun i hi => safeStop_alerts u 2 hi, fun hw => Bool.noConfusion hw, fun _ => hsu 2, fun hs => Bool.noConfusion hs⟩
    · have hf := safeStop_hw_form u 2
      rw [coolStops_both]
      refine ⟨?_, fun i hi => ?_, fun _ => alertBit _ (by decide), fun _ => stopped_alert (hsu 2) 7, fun hs => Bool.noConfusion hs⟩
      · exact congrArg (fun y : ModHw => { y with alerts := y.alerts ||| (1#10 <<< 7) }) hf
      · change ((safeStop u 2).hw.alerts ||| _).getLsbD i = true
        rw [BitVec.getLsbD_or, safeStop_alerts u 2 hi, Bool.true_or]

theorem coolantLimit_cases (inlet flow : Nat) : (450 ≤ flow → inlet ≤ 320 → coolantLimit inlet flow = none) ∧
    (450 ≤ flow → 320 < inlet → inlet ≤ 420 → coolantLimit inlet flow = some (3600 - 10 * (inlet - 320))) ∧
    (inlet ≤ 320 → 300 ≤ flow → flow < 450 → coolantLimit inlet flow = some (8 * flow)) := by
  unfold coolantLimit
  refine ⟨fun h1 h2 => ?_, fun h1 h2 h3 => ?_, fun h1 h2 h3 => ?_⟩
  · rw [if_neg (by omega), if_neg (by omega)]
  · rw [if_pos ⟨h2, h3⟩, if_neg (by omega)]
  · rw [if_neg (by omega), if_pos ⟨h2, h3⟩]

theorem hwCooled_form (hw : ModHw) (inlet outlet flow : Nat) : hwCooled hw inlet outlet flow =
    { hwSampled hw inlet outlet flow with alerts := (hwCooled hw inlet outlet flow).alerts } := by
  unfold hwCooled
  dsimp only
  split <;> rfl

theorem hwCooled_alert {hw : ModHw} {inlet outlet flow : Nat} (h : coolantLimit inlet flow ≠ none ∨ 200 ≤ (hwSampled hw inlet outlet flow).coolBad ∨
    200 ≤ (hwSampled hw inlet outlet flow).inletBad) : (hwCooled hw inlet outlet flow).alerts.getLsbD 6 = true := by
  unfold hwCooled
  dsimp only
  rw [if_pos (show (hwSampled hw inlet outlet flow).coolLimit ≠ none ∨ _ from h)]
  exact alertBit _ (by decide)

/-- A sample of the coolant (R462). -/
theorem coolantSampled (s : State) (inlet outlet flow : Nat) (wet : Bool) :
    let bad := if flow < 300 then s.hw.coolBad + 1 else 0
    let hot := if 420 < inlet then s.hw.inletBad + 1 else 0
    Nexts (.coolantSample inlet outlet flow wet) s (fun t => t.hw.inlet = inlet ∧ t.hw.outlet = outlet ∧ t.hw.flow = flow ∧ t.hw.coolBad = bad ∧ t.hw.inletBad = hot ∧
      (450 ≤ flow → inlet ≤ 320 → t.hw.coolLimit = none) ∧ (450 ≤ flow → 320 < inlet → inlet ≤ 420 → t.hw.coolLimit = some (3600 - 10 * (inlet - 320))) ∧
      (inlet ≤ 320 → 300 ≤ flow → flow < 450 → t.hw.coolLimit = some (8 * flow)) ∧
      (200 ≤ bad ∨ 200 ≤ hot ∨ wet = true → Stopped s t) ∧ (200 ≤ bad ∨ 200 ≤ hot ∨ t.hw.coolLimit ≠ none → t.hw.alerts.getLsbD 6 = true) ∧
      (wet = true → t.hw.alerts.getLsbD 7 = true) ∧ (bad < 200 → hot < 200 → wet = false → t = { s with hw := t.hw } ∧ t.hw.phase = s.hw.phase)) := by
  intro bad hot
  let x := hwCooled s.hw inlet outlet flow
  have hx : x = { hwSampled s.hw inlet outlet flow with alerts := x.alerts } := hwCooled_form ..
  have hp : x.phase = s.hw.phase := by rw [hx]; rfl
  have hc := coolStops_spec s (x := x) (decide (200 ≤ bad ∨ 200 ≤ hot)) wet hp
  refine ⟨_, congrArg Host.Outcome.next (coolantSample_eq s inlet outlet flow wet), ?_⟩
  change _ ∧ _
  generalize ht : coolStops _ wet _ = t
  have hcs : CoolStopped s t (decide (200 ≤ bad ∨ 200 ≤ hot)) wet x := ht ▸ hc
  obtain ⟨hhw, hal, hleak, hstop, hstill⟩ := hcs
  have hlim : t.hw.coolLimit = coolantLimit inlet flow := by rw [hhw, hx]; rfl
  obtain ⟨l1, l2, l3⟩ := coolantLimit_cases inlet flow
  rw [hlim]
  refine ⟨by rw [hhw, hx]; rfl, by rw [hhw, hx]; rfl, by rw [hhw, hx]; rfl, by rw [hhw, hx]; rfl, by rw [hhw, hx]; rfl, l1, l2, l3, fun h => ?_, fun h => ?_, hleak,
    fun h1 h2 hw => ?_⟩
  · rw [← or_assoc] at h
    exact hstop (h.imp_left decide_eq_true)
  · exact hal 6 (hwCooled_alert (h.elim (fun h => .inr (.inl h)) fun h => h.elim (fun h => .inr (.inr h)) .inl))
  · have he := hstill (decide_eq_false (by omega)) hw
    rw [he]
    exact ⟨rfl, hp⟩

end Sys2Proof.Machine
end

section
/-! PROOFS. Power-up, pulses, cages; the events on the module (O50). -/

namespace Sys2Proof.Machine

open Sys2Proof.Claims

/-! ## A new incarnation -/

/-- A new session number of a port. -/
def sessionDrawn (s : State) (n : Nat) : State :=
  let w := freshWord (drawWord s).2.sessions (drawWord s).1 (drawWord s).2.sessions.length
  { (drawWord s).2.setPort n { (drawWord s).2.port n with session := w } with sessions := (drawWord s).2.sessions ++ [w] }

theorem sessionDrawn_form (s : State) (n : Nat) :
    sessionDrawn s n = { s with ports := (sessionDrawn s n).ports, sessions := (sessionDrawn s n).sessions, draws := (sessionDrawn s n).draws } := rfl

theorem sessionDrawn_foldl_form (l : List Nat) (s : State) : l.foldl sessionDrawn s =
    { s with ports := (l.foldl sessionDrawn s).ports, sessions := (l.foldl sessionDrawn s).sessions, draws := (l.foldl sessionDrawn s).draws } := by
  induction l generalizing s with
  | nil => rfl
  | cons n l ih =>
    rw [List.foldl_cons, ih, sessionDrawn_form]

theorem newIncarnation_form (s : State) : newIncarnation s = { s with
    incarnation := s.incarnation + 1, ports := (newIncarnation s).ports, sessions := (newIncarnation s).sessions, draws := (newIncarnation s).draws } :=
  sessionDrawn_foldl_form (List.range 8) { s with incarnation := s.incarnation + 1 }

/-! ## Power-up -/

theorem mayStart_iff (s : State) (i : PowerUpIn) : mayStart s i = true ↔
    ((i.auxFromOff = true ∧ s.hw.phase = .dark) ∨ (i.auxFromOff = false ∧ s.hw.phase = .stopped ∧ s.hw.startReq = true)) ∧
      42000 ≤ s.hw.busMv ∧ s.hw.busMv ≤ 58000 ∧ s.hw.rst = false ∧ s.hw.epo = false := by
  have hbus := busOk_iff s
  unfold mayStart
  cases i.auxFromOff <;> simp [hbus, and_assoc]

theorem lifeAtStart_eq (s : State) (wordOk : Bool) : lifeAtStart s wordOk = if s.lc = .deployed ∧ wordOk = false then .service else s.lc := by
  unfold lifeAtStart
  cases s.lc <;> cases wordOk <;> rfl

theorem lifeAtStart_retired (s : State) (wordOk : Bool) : (lifeAtStart s wordOk == .retired) = decide (s.lc = .retired) := by
  unfold lifeAtStart
  cases s.lc <;> cases wordOk <;> rfl

/-- A partition as a power-up finds it. -/
def partAnew (x : Part) : Part := { creations := x.creations }

/-- A region as a power-up finds it. -/
def regionAnew (x : PRegion) : PRegion := { offRegion x with st := .off }

theorem part_atStart (s : State) (i : PowerUpIn) (p : Nat) : (stateAtStart s i).part p = partAnew (s.part p) :=
  Tab.get_mapped (fun _ x => partAnew x) s.parts p {}

theorem region_atStart (s : State) (i : PowerUpIn) (r : Nat) : (stateAtStart s i).region r = regionAnew (s.region r) :=
  Tab.get_mapped (fun _ x => regionAnew x) s.power.regions r {}

/-- Neither the preset of the streams nor the new incarnation touches what else a power-up sequence leaves. -/
theorem started_fields (u s : State) : let t := presetAtStart (newIncarnation u) s
    t = { u with regs := t.regs, incarnation := u.incarnation + 1, ports := t.ports, sessions := t.sessions, draws := t.draws } := by
  intro t
  have hpre (u : State) : presetAtStart u s = { u with regs := (presetAtStart u s).regs } := rfl
  have hinc := newIncarnation_form u
  change presetAtStart (newIncarnation u) s = { u with
    regs := (presetAtStart (newIncarnation u) s).regs, incarnation := u.incarnation + 1, ports := (presetAtStart (newIncarnation u) s).ports,
    sessions := (presetAtStart (newIncarnation u) s).sessions, draws := (presetAtStart (newIncarnation u) s).draws }
  rw [hpre, hinc]

theorem stateAtStart_clears (s : State) (i : PowerUpIn) : let u := stateAtStart s i
    u.hw.phase = .starting ∧ u.cores = [] ∧ u.routers = [] ∧ u.tiers.mem = [] ∧ u.hqs = [] ∧ u.partCmd = none := ⟨rfl, rfl, rfl, rfl, rfl, rfl⟩

theorem stateAtStart_keyFault (s : State) (i : PowerUpIn) : (stateAtStart s i).sec.keyFault = (!i.ikOk || decide (s.lc = .retired)) := by
  rw [← lifeAtStart_retired s i.wordOk]
  rfl

theorem stateAtStart_keeps (s : State) (i : PowerUpIn) : let u := stateAtStart s i
    u.incarnation = s.incarnation ∧ u.defects = s.defects ∧ u.baseline = s.baseline ∧ u.wst.sets = s.wst.sets ∧ u.tamb.log = s.tamb.log ∧
      u.sec.keyFault = (!i.ikOk || decide (s.lc = .retired)) ∧ u.lc = (if s.lc = .deployed ∧ i.wordOk = false then .service else s.lc) :=
  ⟨rfl, rfl, rfl, rfl, rfl, stateAtStart_keyFault s i, (stateAtStart_lc s i).trans (lifeAtStart_eq ..)⟩

/-- What the start of a power-up sequence keeps and clears (R484). -/
theorem powerUpStarts (s : State) (i : PowerUpIn) (h : mayStart s i = true) :
    Nexts (.powerUpSequence i) s (fun t => t.hw.phase = .starting ∧ t.cores = [] ∧ t.routers = [] ∧ t.tiers.mem = [] ∧ t.hqs = [] ∧ t.partCmd = none ∧
      t.incarnation = s.incarnation + 1 ∧ t.defects = s.defects ∧ t.baseline = s.baseline ∧ t.wst.sets = s.wst.sets ∧ t.tamb.log = s.tamb.log ∧
      t.sec.keyFault = (!i.ikOk || decide (s.lc = .retired)) ∧ t.lc = (if s.lc = .deployed ∧ i.wordOk = false then .service else s.lc) ∧
      (∀ p, (t.part p).st = .free ∧ (t.part p).creations = (s.part p).creations ∧ (t.part p).fields = 0) ∧ ∀ r, (t.region r).st = .off) := by
  obtain ⟨hphase, hcores, hrouters, hmem, hhqs, hcmd⟩ := stateAtStart_clears s i
  obtain ⟨hinc, hdef, hbase, hsets, hlog, hfault, hlc⟩ := stateAtStart_keeps s i
  have hpart := part_atStart s i
  have hregion := region_atStart s i
  have he : exec (.powerUpSequence i) s = .next (presetAtStart (newIncarnation (stateAtStart s i)) s) := congrArg Host.Outcome.next (if_pos h)
  generalize stateAtStart s i = u at *
  refine ⟨_, he, ?_⟩
  rw [show presetAtStart (newIncarnation u) s = _ from started_fields u s]
  refine ⟨hphase, hcores, hrouters, hmem, hhqs, hcmd, by rw [hinc], hdef, hbase, hsets, hlog, hfault, hlc, fun p => ?_, fun r => ?_⟩
  · have hp := hpart p
    simp only [State.part] at hp ⊢
    rw [hp]
    exact ⟨rfl, rfl, rfl⟩
  · have hr := hregion r
    rw [State.region] at hr ⊢
    rw [hr]
    rfl

/-! ## Pulses and cages -/

/-- A pin that drives PPS_OUT, at a level. -/
def pinPulsed (v : Bool) (x : MfPin) : MfPin := if x.func = 1 ∧ x.parked = false then { x with pps := v } else x

theorem pinOf_setPps (s : State) (v : Bool) (n : Nat) : pinOf (setPps s v) n = pinPulsed v (pinOf s n) :=
  Tab.get_mapped (fun _ x => pinPulsed v x) s.hw.pins n {}

theorem setPps_nexts {i : Instr} {s : State} {v : Bool} (h : exec i s = .next (setPps s v)) : Nexts i s (fun t => t = { s with hw := { s.hw with pins := t.hw.pins } } ∧
    ∀ n, pinOf t n = if (pinOf s n).func = 1 ∧ (pinOf s n).parked = false then { pinOf s n with pps := v } else pinOf s n) :=
  ⟨_, h, rfl, pinOf_setPps s v⟩

/-- The state that has taken note of a cage. -/
def caged (s : State) (n : Nat) (c : Cage) : State := { s with hw := { s.hw with cages := Tab.put s.hw.cages n c } }

theorem removed_carries {s : State} {n : Nat} (h : (s.port n).carries = true) :
    transceiver s n .removed = wpFault (portTo (caged s n .empty) n .training) n 0x10 := if_pos h

theorem noAnswer_links {s : State} {n : Nat} (h : ¬ ((s.port n).st = .offline ∨ (s.port n).st = .failed)) :
    transceiver s n .noAnswer = portTo (caged s n .bad) n .down := if_neg h

/-- A port that leaves service for its cage. -/
theorem portTo_caged (s : State) (n : Nat) (c : Cage) (st : PortSt) : let t := portTo (caged s n c) n st
    t.hw.cages = Tab.put s.hw.cages n c ∧ (∀ m, m ≠ n → t.port m = s.port m) ∧ (t.port n).st = st ∧ t.cores = s.cores := by
  refine ⟨rfl, fun m hm => port_setPort_other _ _ hm, ?_, rfl⟩
  exact congrArg PortS.st (port_setPort_same ..)

/-- Settles O50: the stops by `safeStop_running`, the start by `started_fields`, the cages by the port they concern. -/
theorem moduleEvents : Obligations.ModuleEvents := by
  intro s
  refine ⟨?_, rfl, ?_, rfl, busbarLost s, busRanges s, coolantSampled s, ?_, fun i => ?_, fun h => congrArg Host.Outcome.next (if_pos h), ?_, fun pt => ?_⟩
  · have hf := safeStop_hw_form { s with hw := { s.hw with rst := true, startReq := false } } 2
    refine ⟨_, congrArg Host.Outcome.next (if_pos rfl), stopped_safeStop s 2 rfl, ?_, ?_, ?_⟩ <;> rw [hf]
  · have hf := safeStop_hw_form { s with hw := { s.hw with epo := true, startReq := false } } 2
    refine ⟨_, congrArg Host.Outcome.next (if_pos rfl), stopped_safeStop s 2 rfl, ?_, ?_, ?_⟩ <;> rw [hf]
  · exact ⟨_, rfl, leakStop_stopped s, (leakStop_alerts s).1⟩
  · intro may
    have hmay : mayStart s i = true ↔ may := mayStart_iff s i
    exact ⟨fun h => congrArg Host.Outcome.next (if_neg (mt hmay.1 h)), fun h => powerUpStarts s i (hmay.2 h)⟩
  · simp only [List.forall_mem_cons, List.not_mem_nil, false_implies, implies_true, and_true]
    exact ⟨fun h => setPps_nexts (congrArg Host.Outcome.next (if_neg (h.resolve_left Bool.noConfusion))), fun _ => setPps_nexts rfl⟩
  · intro x cage
    refine ⟨fun _ => rfl, fun h => congrArg Host.Outcome.next (if_neg (Bool.eq_false_iff.1 h)), fun h => ?_, fun h => congrArg Host.Outcome.next (if_pos h),
      fun h1 h2 => ?_⟩
    · exact ⟨_, congrArg Host.Outcome.next (removed_carries h), portTo_caged s pt.val .empty .training⟩
    · exact ⟨_, congrArg Host.Outcome.next (noAnswer_links (fun h => h.elim h1 h2)), portTo_caged s pt.val .bad .down⟩

end Sys2Proof.Machine
end

section
/-! PROOFS. Forms that complete (O60). -/

namespace Sys2Proof.Machine

open Sys2Proof.Claims

/-! ## Forms that complete -/

theorem retires_mono {i : Instr} {s : State} {c : CoreId} {next : Word} {P Q : Core → Prop} (h : Retires i s c next P) (hpq : ∀ k, P k → Q k) :
    Retires i s c next Q := by
  obtain ⟨k, he, hpc, hst, hir, hw, hp⟩ := h
  exact ⟨k, he, hpc, hst, hir, hw, hpq k hp⟩

/-- A register other than the one written lies outside its range of one. -/
theorem ne_of_outside {r vd : Fin 16} (h : r.val < vd.val ∨ vd.val + 1 ≤ r.val) : r ≠ vd := fun e => by rw [e] at h; omega

theorem conversionsComplete : ConversionsComplete := by
  obtain ⟨⟨hscale, hquant⟩, hdq32, hdq16, hnarrow, hwiden⟩ := conversions
  intro s c fmt vd va vb next done
  refine ⟨fun wide h => ?_, fun h hr => ?_, fun h hr => ?_, fun hr => ?_, fun h hr => ?_⟩
  · have hb : ¬ (wide = .fp32 ∧ (vb ≠ 0 ∨ va.val % 4 ≠ 0)) := by
      rintro ⟨hw, hn⟩
      rcases h with h | ⟨h1, h2⟩
      · rw [hw] at h
        cases h
      · exact hn.elim (fun hn => hn h1) (fun hn => hn h2)
    constructor
    · intro hr
      have hx := hscale s c wide fmt vd va vb hr
      dsimp only at hx
      rw [if_neg hb] at hx
      exact retires_mono hx fun k hk r hout => hk.2.1 r (ne_of_outside hout)
    · intro hr
      have hx := hquant s c wide fmt vd va vb hr
      dsimp only at hx
      rw [if_neg hb] at hx
      exact retires_mono hx fun k hk r hout => hk.2.1 r (ne_of_outside hout)
  · have hx := hdq32 s c fmt vd va vb hr
    dsimp only at hx
    rw [if_neg (not_not_intro h)] at hx
    exact retires_mono hx fun k hk => hk.2.1
  · have hx := hdq16 s c fmt vd va vb hr
    dsimp only at hx
    rw [if_neg (not_not_intro h)] at hx
    exact retires_mono hx fun k hk => hk.2.1
  · exact retires_mono (hnarrow s c vd va vb hr) fun k hk r hout => hk.2.1 r (ne_of_outside hout)
  · have hx := hwiden s c vd va 0 hr
    dsimp only at hx
    rw [if_neg fun hc => hc.elim (fun hc => hc rfl) (fun hc => hc h)] at hx
    exact retires_mono hx fun k hk => hk.2.1

theorem moduleEventsComplete : ModuleEventsComplete := by
  have hev := moduleEvents
  refine ⟨fun s level => ?_, fun s mv => ?_, fun s => ?_, fun s inlet outlet flow wet => ?_, fun s => ?_, fun s i h1 h2 h3 h4 h5 h6 h7 => ?_, fun s h => ?_, fun s => ?_,
    fun s pt ev => ?_⟩
  all_goals obtain ⟨hrst, hrst', hepo, hepo', hloss, hrange, hcool, hleak, hup, -, hpps, hcage⟩ := hev s
  · cases level
    · obtain ⟨t, he, -, hr, -⟩ := hrst
      obtain ⟨u, he', -, hr', -⟩ := hepo
      exact ⟨⟨t, he, hr⟩, ⟨u, he', hr'⟩⟩
    · exact ⟨⟨_, hrst', rfl⟩, ⟨_, hepo', rfl⟩⟩
  · obtain ⟨hlow, hstop, hlim, hok, hhigh⟩ := hrange mv
    by_cases h : mv < 30000
    · obtain ⟨t, he, -, hb⟩ := hlow h
      exact ⟨t, he, hb.trans (if_pos h).symm⟩
    · rw [if_neg h]
      by_cases ho : mv < 40000 ∨ 59500 < mv
      · obtain ⟨t, he, -, hb, -⟩ := hstop (by omega) ho
        exact ⟨t, he, hb⟩
      · by_cases h1 : mv < 42000
        · exact ⟨_, hlim (by omega) h1, rfl⟩
        · by_cases h2 : mv ≤ 58000
          · exact ⟨_, hok (by omega) h2, rfl⟩
          · exact ⟨_, hhigh (by omega) (by omega), rfl⟩
  · obtain ⟨t, he, -, hp, hb, -⟩ := hloss
    exact ⟨t, he, hp, hb⟩
  · obtain ⟨t, he, h1, h2, h3, -⟩ := hcool inlet outlet flow wet
    exact ⟨t, he, h1, h2, h3⟩
  · obtain ⟨t, he, hs, ha⟩ := hleak
    exact ⟨t, he, ha, fun hr => (hs.1 hr).1⟩
  · obtain ⟨t, he, hp, -⟩ := (hup i).2 ⟨.inr ⟨h1, h2, h3⟩, h6, h7, h4, h5⟩
    exact ⟨t, he, hp⟩
  · obtain ⟨t, he, ht, -⟩ := hpps (.ppsRise, true) List.mem_cons_self (.inr h)
    exact ⟨t, he, by rw [ht], by rw [ht]⟩
  · obtain ⟨t, he, ht, -⟩ := hpps (.ppsFall, false) (List.mem_cons_of_mem _ List.mem_cons_self) (.inl rfl)
    exact ⟨t, he, by rw [ht], by rw [ht]⟩
  · obtain ⟨hins, hrem, hrem', hno, hno'⟩ := hcage pt
    have hget (c : Cage) : Tab.get Cage.empty (Tab.put s.hw.cages pt.val c) pt.val = c := Tab.get_put_same ..
    cases ev with
    | inserted ok => exact ⟨_, hins ok, rfl, hget _⟩
    | removed =>
      by_cases hc : (s.port pt.val).carries = true
      · obtain ⟨t, he, hcg, -, -, hcores⟩ := hrem' hc
        exact ⟨t, he, hcores, hcg ▸ hget _⟩
      · exact ⟨_, hrem (Bool.eq_false_iff.2 hc), rfl, hget _⟩
    | noAnswer =>
      by_cases hc : (s.port pt.val).st = .offline ∨ (s.port pt.val).st = .failed
      · exact ⟨_, hno hc, rfl, hget _⟩
      · obtain ⟨t, he, hcg, -, -, hcores⟩ := hno' (fun h => hc (.inl h)) (fun h => hc (.inr h))
        exact ⟨t, he, hcores, hcg ▸ hget _⟩

/-! ## The ends of services -/

theorem noticeRead_cores (s : State) (fn n : Nat) : (noticeRead s fn n).2.cores = s.cores := by
  unfold noticeRead
  dsimp only
  split
  · rfl
  · dsimp only
    split <;> rfl

theorem readReg_cores (s : State) (rq off : Nat) : (readReg s rq off).2.cores = s.cores := by
  unfold readReg
  split
  · rfl
  · split
    · exact noticeRead_cores ..
    · split
      · rfl
      · split
        · split <;> rfl
        · rfl

theorem lowWordRead_completes (s : State) (fn : Func) (off : BitVec 26) (sz : Nat) :
    Nexts (.lowWordRead fn ⟨off, sz⟩) s (fun t => t.cores = s.cores ∧ ∃ w, t.out.getLast? = some (.read fn.val w)) := by
  let r := if sz = 4 then readReg s fn.val off.toNat else (0, s)
  have hc : r.2.cores = s.cores := by
    change (if sz = 4 then readReg s fn.val off.toNat else (0, s)).2.cores = s.cores
    split
    · exact readReg_cores ..
    · rfl
  exact ⟨emit r.2 (.read fn.val r.1), rfl, hc, r.1, List.getLast?_concat⟩

theorem test_setTest_other (s : State) {u v : Nat} (x : TestU) (h : v ≠ u) : (s.setTest u x).test v = s.test v := Tab.get_put_other _ _ _ h

theorem bistSliceDone_completes (s : State) (hf : HalfField) :
    Nexts (.bistSliceDone hf) s (fun t => t.cores = s.cores ∧ t.tiers = s.tiers ∧ ∀ h, h ≠ hf.val → t.test h = s.test h) := by
  refine ⟨_, rfl, ?_⟩
  unfold bistSliceDone
  dsimp only
  split
  · exact ⟨rfl, rfl, fun h hne => test_setTest_other _ _ hne⟩
  · exact ⟨rfl, rfl, fun _ _ => rfl⟩

theorem partCmd_completes {s : State} {x : PartCmd} (hx : s.partCmd = some x) (hop : x.op = 1 ∨ x.op = 2)
    (hp : (cmdHalves s).any (fun h => softPending (s.region h)) = false) : (partComplete s).partCmd = none := by
  have hn : ¬ (x.op = 3 ∨ x.op = 4 ∨ (cmdHalves s).any (fun h => softPending (s.region h)) = true) := by
    rw [hp]
    rintro (h | h | h)
    · omega
    · omega
    · cases h
  unfold partComplete
  rw [hx]
  dsimp only
  rw [if_neg hn]
  split <;> rfl

/-- Settles O60: the conversions by O7, the events of the module by O50, the services by a lemma each. -/
theorem formsComplete : Obligations.FormsComplete :=
  ⟨conversionsComplete, moduleEventsComplete, lowWordRead_completes, fun _ => rfl, fun _ _ => rfl, bistSliceDone_completes,
    fun _ _ hx hop hp => ⟨_, rfl, partCmd_completes hx hop hp⟩⟩

end Sys2Proof.Machine
end

section
/-! PROOFS. An orderly stop: cores fenced, strikes and queues ended, the log written. -/

namespace Sys2Proof.Machine

open Sys2Proof.Claims

/-! ## Queues disabled by a shutdown -/

/-- From `s` to `t` only queues and what their completions touch have changed. -/
def QueueWork (s t : State) : Prop :=
  t = { s with hqs := t.hqs, regs := t.regs, out := t.out, watches := t.watches, tiers := t.tiers, draws := t.draws }

theorem QueueWork.trans {s t u : State} (h : QueueWork s t) (g : QueueWork t u) : QueueWork s u := by
  unfold QueueWork at *
  rw [g, h]

theorem QueueWork.foldl {α : Type} {f : State → α → State} (hf : ∀ s a, QueueWork s (f s a)) (l : List α) (s : State) : QueueWork s (l.foldl f s) := by
  induction l generalizing s with
  | nil => rfl
  | cons a l ih => exact (hf s a).trans (ih _)

theorem writeCpl_queueWork (s : State) (p q : Nat) : QueueWork s (writeCpl s p q) := by
  unfold QueueWork
  rw [writeCpl_form]

theorem cutCmd_queueWork (s : State) (p q : Nat) : QueueWork s (cutCmd s p q) := by
  unfold QueueWork
  rw [cutCmd_form]

theorem failCmd_queueWork (s : State) (p q code : Nat) : QueueWork s (failCmd s p q code) := rfl

/-- A queue whose EN bit is off. -/
def queueOff (s : State) (p q : Nat) : Prop := (hqCtrl s p q).getLsbD 31 = false

/-- The state a disabled queue is stopped from: its command ended. -/
theorem abortedIfBusy_queueWork (s : State) (p q : Nat) : QueueWork s (abortedIfBusy s p q) := by
  unfold abortedIfBusy
  split
  · exact ((cutCmd_queueWork s p q).trans (failCmd_queueWork (cutCmd s p q) p q 6)).trans (writeCpl_queueWork ..)
  · rfl

theorem stopQueue_queueWork (s : State) (p q : Nat) : QueueWork s (stopQueue s p q) := by
  rw [stopQueue_eq]
  exact (abortedIfBusy_queueWork s p q).trans (u := regSet (setHq (abortedIfBusy s p q) p q _) p 0 _ _) rfl

/-- The control registers of the queues: what a completion writes lies elsewhere in a queue's block. -/
theorem writeCpl_ctrlFixed (s : State) (p q q' : Nat) (hq' : q' < 8) (hq8 : q < 8) : RegFixed (hqOff q' 0x10) s (writeCpl s p q) := by
  have hoff (o o' : Nat) (h : o % 0x100 ≠ o' % 0x100) : hqOff q' o ≠ hqOff q o' := by simp only [hqOff]; omega
  have hlt (o : Nat) (ho : o < 0x1000) (j : Nat) (hj : j < 8) : hqOff j o < 2 ^ 26 := by simp only [hqOff]; omega
  have hcpl (c : HCmd) (st : BitVec 8) (res : Word) : RegFixed (hqOff q' 0x10) s (cplWritten s p q c st res) := by
    unfold cplWritten
    dsimp only
    refine RegFixed.trans ?_ (.cntAdd _ p 0 1 (hlt 0x10 (by decide) q' hq') ?_ (hoff 0x10 0x28 (by decide)) ?_)
    · exact RegFixed.of_regs (by split <;> rfl)
    · simp only [hqOff]; omega
    · simp only [hqOff]; omega
  obtain h | h | ⟨c, st, res, h | ⟨w, h⟩⟩ := writeCpl_cases s p q <;> rw [h]
  · exact .refl _ _
  · exact .of_regs rfl
  · exact hcpl c st res
  · exact (hcpl c st res).trans (.regSet _ p 0 w (hlt 0x10 (by decide) q' hq') (hlt 0x20 (by decide) q hq8) (hoff 0x10 0x20 (by decide)))

theorem abortedIfBusy_ctrlFixed (s : State) (p q q' : Nat) (hq' : q' < 8) (hq8 : q < 8) : RegFixed (hqOff q' 0x10) s (abortedIfBusy s p q) := by
  unfold abortedIfBusy
  split
  · have hcut : RegFixed (hqOff q' 0x10) s (cutCmd s p q) := .of_regs (by rw [cutCmd_form])
    have hfail : RegFixed (hqOff q' 0x10) (cutCmd s p q) (failCmd (cutCmd s p q) p q 6) := .of_regs rfl
    exact (hcut.trans hfail).trans (writeCpl_ctrlFixed _ p q q' hq' hq8)
  · exact .refl _ _

/-- A stop switches its queue off and every other queue stays as it was. -/
theorem queueOff_stopQueue (s : State) {p q p' q' : Nat} (hp : p < 32) (hq8 : q < 8) (hp' : p' < 32) (hq' : q' < 8) :
    (p' = p ∧ q' = q ∨ queueOff s p' q') → queueOff (stopQueue s p q) p' q' := by
  rw [queueOff, queueOff, stopQueue_eq]
  by_cases hsame : p' = p ∧ q' = q
  · obtain ⟨rfl, rfl⟩ := hsame
    intro _
    rw [hqCtrl, regGet_regSet_same, BitVec.getLsbD_and, BitVec.getLsbD_not, getLsbD_bits (by decide) (by decide)]
    simp
  · intro h
    have hk : regKey p' 0 (hqOff q' 0x10) ≠ regKey p 0 (hqOff q 0x10) := by
      simp only [regKey, hqOff]
      omega
    rw [hqCtrl, regGet_regSet_other _ _ _ _ _ _ _ _ hk, regGet_setHq, (abortedIfBusy_ctrlFixed s p q q' hq' hq8).same]
    exact h.resolve_left hsame

/-- Once off, a queue stays off; one that a list of stops names is off in the end. -/
theorem queueOff_foldl {p' q' : Nat} (hp' : p' < 32) (hq' : q' < 8) (l : List (Nat × Nat)) (hl : ∀ e ∈ l, e.1 < 32 ∧ e.2 < 8) : ∀ s : State,
    (p', q') ∈ l ∨ queueOff s p' q' → queueOff (l.foldl (fun s e => stopQueue s e.1 e.2) s) p' q' := by
  induction l with
  | nil => exact fun s h => h.resolve_left List.not_mem_nil
  | cons e l ih =>
    intro s h
    obtain ⟨he1, he2⟩ := hl e List.mem_cons_self
    refine ih (fun e he => hl e (List.mem_cons_of_mem _ he)) _ ?_
    rw [List.mem_cons] at h
    obtain (h | h) | h := h
    · exact .inr (queueOff_stopQueue s he1 he2 hp' hq' (.inl ⟨congrArg Prod.fst h, congrArg Prod.snd h⟩))
    · exact .inl h
    · exact .inr (queueOff_stopQueue s he1 he2 hp' hq' (.inr h))

/-- The queues of every partition. -/
def allQueues : List (Nat × Nat) := partNums.flatMap (fun p => (List.range 8).map (fun q => (p, q)))

theorem abortQueues_eq (s : State) : abortQueues s = allQueues.foldl (fun s e => stopQueue s e.1 e.2) s := by
  rw [allQueues, List.foldl_flatMap, abortQueues]
  simp only [List.foldl_map]

theorem abortQueues_queueWork (s : State) : QueueWork s (abortQueues s) := by
  rw [abortQueues_eq]
  generalize allQueues = l
  exact QueueWork.foldl (f := fun s (e : Nat × Nat) => stopQueue s e.1 e.2) (fun s e => stopQueue_queueWork s e.1 e.2) l s

theorem abortQueues_off (s : State) {p q : Nat} (h1 : 1 ≤ p) (h16 : p ≤ 16) (hq8 : q < 8) : queueOff (abortQueues s) p q := by
  have hmem (a b : Nat) : (a, b) ∈ allQueues ↔ a ∈ partNums ∧ b < 8 := by
    simp only [allQueues, List.mem_flatMap, List.mem_map, List.mem_range, Prod.mk.injEq]
    constructor
    · rintro ⟨x, hx, y, hy, rfl, rfl⟩
      exact ⟨hx, hy⟩
    · rintro ⟨hx, hy⟩
      exact ⟨a, hx, b, hy, rfl, rfl⟩
  have hparts (a : Nat) : a ∈ partNums ↔ 1 ≤ a ∧ a ≤ 16 := by
    rw [partNums, List.mem_map]
    simp only [List.mem_range]
    exact ⟨by rintro ⟨x, hx, rfl⟩; omega, fun h => ⟨a - 1, by omega, by omega⟩⟩
  rw [abortQueues_eq]
  refine queueOff_foldl (by omega) hq8 _ (fun e he => ?_) s (.inl ((hmem p q).2 ⟨(hparts p).2 ⟨h1, h16⟩, hq8⟩))
  obtain ⟨ha, hb⟩ := (hmem e.1 e.2).1 he
  exact ⟨by have := (hparts e.1).1 ha; omega, hb⟩

/-! ## An orderly stop -/

theorem logStore_foldl_form (l : List (BitVec 64 × List Word)) (s : State) : l.foldl logStore s = { s with tamb := { s.tamb with log := (l.foldl logStore s).tamb.log } } := by
  induction l generalizing s with
  | nil => rfl
  | cons e l ih =>
    rw [List.foldl_cons, ih]
    rfl

theorem QueueWork.fixture {s t : State} (h : QueueWork s t) : t.fixture = s.fixture := by
  unfold QueueWork at h
  rw [h]
  rfl

theorem QueueWork.cores {s t : State} (h : QueueWork s t) : t.cores = s.cores := by
  unfold QueueWork at h
  rw [h]

theorem StrikesEnd.fixture {s t : State} {f : Nat → Strike → Bool} {code : Nat} (h : StrikesEnd s t f code) : t.fixture = s.fixture := by
  rw [h.form]
  rfl

theorem StrikesEnd.cores {s t : State} {f : Nat → Strike → Bool} {code : Nat} (h : StrikesEnd s t f code) : t.cores = s.cores := by
  rw [h.form]

/-- A shutdown with the cores fenced and the strikes and queues ended, the log not yet written. -/
def shutDown (s : State) : State := abortQueues (abortStrikes (fenceAll (readyLow s)) (fun _ _ => true) 8)

/-- The regions off at the end of a shutdown, its log written. -/
def shutEnded (s : State) : State :=
  let t := regionsOff (s.tamb.queue.foldl logStore { s with tamb := { s.tamb with queue := [] } })
  { t with quiet := true, hw := { t.hw with phase := .stopped } }

theorem orderlyStop_running {s : State} (h : ¬ (s.hw.phase = .dark ∨ s.hw.phase = .stopped)) : orderlyStop s = shutEnded (shutDown s) := by
  unfold orderlyStop shutEnded shutDown
  rw [if_neg h]

theorem readyLow_eq (s : State) : readyLow s = { s with hw := { s.hw with ready := false, alerts := (readyLow s).hw.alerts } } := by
  unfold readyLow
  cases hr : s.hw.ready
  · rw [if_neg Bool.false_ne_true, ← hr]
  · rfl

theorem shutDown_fixture (s : State) : (shutDown s).fixture = (readyLow s).fixture := by
  rw [shutDown, (abortQueues_queueWork _).fixture, (abortStrikes_end _ _ _).fixture, (fenceAll_fenceWork _).fixture]

theorem shutDown_cores (s : State) : (shutDown s).cores = (fenceAll (readyLow s)).cores := by
  rw [shutDown, (abortQueues_queueWork _).cores, (abortStrikes_end _ _ _).cores]

/-- The end of a shutdown: its fields beside what it is made from. -/
theorem shutEnded_fields (s : State) : (shutEnded s).hw = { s.hw with phase := .stopped } ∧ (shutEnded s).quiet = true ∧ (shutEnded s).tiers.mem = [] ∧
    (shutEnded s).wst.sets = s.wst.sets ∧ (shutEnded s).defects = s.defects ∧ (shutEnded s).lc = s.lc ∧ (shutEnded s).tamb.queue = [] ∧
    (shutEnded s).cores = s.cores ∧ (shutEnded s).regs = s.regs ∧ ∀ r, (shutEnded s).region r = offRegion (s.region r) := by
  unfold shutEnded
  rw [logStore_foldl_form]
  exact ⟨rfl, rfl, rfl, rfl, rfl, rfl, rfl, rfl, rfl, fun r => Tab.get_mapped (fun _ x => offRegion x) s.power.regions r {}⟩

/-- SHUTDOWN of a running engine (R485). -/
theorem orderlyStop_spec (s : State) (h : s.hw.phase = .starting ∨ s.hw.phase = .up) : Stopped s (orderlyStop s) ∧ (orderlyStop s).tamb.queue = [] ∧
    ∀ p q, 1 ≤ p → p ≤ 16 → q < 8 → queueOff (orderlyStop s) p q := by
  have hrun := (running_iff _).2 h
  have hx := (shutDown_fixture s).trans (congrArg State.fixture (readyLow_eq s))
  simp only [State.fixture, Prod.mk.injEq] at hx
  obtain ⟨hhw, hpower, hsets, hdef, hlc, -, -, -⟩ := hx
  obtain ⟨ehw, equiet, emem, esets, edef, elc, equeue, ecores, eregs, eregion⟩ := shutEnded_fields (shutDown s)
  have hrows : (readyLow s).gridRows = s.gridRows := by rw [readyLow_eq]
  rw [orderlyStop_running hrun]
  refine ⟨⟨fun _ => ?_, fun hs => absurd hs hrun⟩, equeue, fun p q h1 h16 hq8 => ?_⟩
  · refine ⟨by rw [ehw], by rw [ehw, hhw], equiet, emem, esets.trans hsets, edef.trans hdef, elc.trans hlc, fun r => ?_, fun d hd => ?_⟩
    · have hr : (shutDown s).region r = s.region r := by rw [State.region, hpower]; rfl
      rw [eregion, hr]
      exact offRegion_st _
    · have hf : (fenceAll (readyLow s)).modes d = .fenced := fenceAll_modes (hrows ▸ hd)
      have hc : (shutEnded (shutDown s)).core d = (fenceAll (readyLow s)).core d := by rw [State.core, ecores, shutDown_cores]; rfl
      rw [hc]
      exact hf
  · have hoff : queueOff (shutDown s) p q := abortQueues_off _ h1 h16 hq8
    have hr : regGet (shutEnded (shutDown s)) p 0 (hqOff q 0x10) = regGet (shutDown s) p 0 (hqOff q 0x10) := by rw [regGet, eregs]; rfl
    rw [queueOff, hqCtrl, hr]
    exact hoff

end Sys2Proof.Machine
end

section
/-! PROOFS. SMBus commands, MCTP packets, multi-function pins (O51). -/

namespace Sys2Proof.Machine

open Sys2Proof.Claims

/-! ## SMBus commands: served, discarded, carried out -/

/-- A command of a byte count, with its meaning behind the gate of R474. -/
def IsSbCmd (i : Instr) (b : Bus) (d : SbData) (n : Nat) (f : State → List Nat → State) : Prop := ∀ s, exec i s = .next (sbCmd s b d n (f s))

theorem sbCmd_down {s : State} {b : Bus} (d : SbData) (n : Nat) (f : List Nat → State) (h : busUp s b = false) : sbCmd s b d n f = s := if_pos h

theorem sbCmd_bad {s : State} {b : Bus} {d : SbData} {n : Nat} (f : List Nat → State) (h : busUp s b = true) (hd : d.pecOk = false ∨ d.bytes.length ≠ n) :
    sbCmd s b d n f = discardCmd s := by
  have hc : ¬ (d.pecOk && d.bytes.length == n) = true := by
    rw [Bool.and_eq_true, beq_iff_eq]
    rintro ⟨h1, h2⟩
    exact hd.elim (fun h => by rw [h1] at h; cases h) (fun h => h h2)
  rw [sbCmd, h, if_neg Bool.noConfusion, if_neg hc]

theorem sbCmd_good {s : State} {b : Bus} {d : SbData} {n : Nat} (f : List Nat → State) (h : busUp s b = true) (hp : d.pecOk = true) (hn : d.bytes.length = n) :
    sbCmd s b d n f = f (d.bytes.map BitVec.toNat) := by
  rw [sbCmd, h, if_neg Bool.noConfusion, if_pos (by rw [hp, hn, beq_self_eq_true]; rfl)]

theorem IsSbCmd.gate {i : Instr} {b : Bus} {d : SbData} {n : Nat} {f : State → List Nat → State} (h : IsSbCmd i b d n f) (s : State) :
    (busUp s b = false → exec i s = .next s) ∧ (busUp s b = true → d.pecOk = false ∨ d.bytes.length ≠ n → exec i s = .next (discardCmd s)) :=
  ⟨fun hd => (h s).trans (congrArg Host.Outcome.next (sbCmd_down _ _ _ hd)), fun hu hb => (h s).trans (congrArg Host.Outcome.next (sbCmd_bad _ hu hb))⟩

theorem IsSbCmd.done {i : Instr} {b : Bus} {d : SbData} {n : Nat} {f : State → List Nat → State} (h : IsSbCmd i b d n f) {s t : State}
    (hg : busUp s b = true ∧ d.pecOk = true ∧ d.bytes.length = n) (ht : f s (d.bytes.map BitVec.toNat) = t) : exec i s = .next t :=
  (h s).trans (congrArg Host.Outcome.next ((sbCmd_good _ hg.1 hg.2.1 hg.2.2).trans ht))

theorem isSbCmd_shutdown (b : Bus) (d : SbData) : IsSbCmd (.shutdown b d) b d 1 (fun s x => if x = [0x5A] then orderlyStop s else discardCmd s) := fun _ => rfl

theorem isSbCmd_restart (b : Bus) (d : SbData) : IsSbCmd (.restart b d) b d 1 (fun s x => if x ≠ [0xA5] then discardCmd s
    else if s.hw.phase = .stopped ∧ s.hw.epo = false ∧ busOk s then { s with hw := { s.hw with startReq := true } } else s) := fun _ => rfl

theorem isSbCmd_readWindow (b : Bus) (d : SbData) : IsSbCmd (.readWindow b d) b d 4 (fun s x =>
    emit (readReg s (busNo b) (leNat x)).2 (.reply (busNo b) (leBytes [(readReg s (busNo b) (leNat x)).1]))) := fun _ => rfl

theorem isSbCmd_writeWindow (b : Bus) (d : SbData) : IsSbCmd (.writeWindow b d) b d 8 (fun s x =>
    writeReg s (busNo b) (leNat (x.take 4)) (BitVec.ofNat 32 (leNat (x.drop 4)))) := fun _ => rfl

theorem isSbCmd_status (b : Bus) (d : SbData) : IsSbCmd (.status b d) b d 0 (fun s _ => emit s (.reply (busNo b) (leBytes (statusWords s)))) := fun _ => rfl

theorem isSbCmd_clearAlert (b : Bus) (d : SbData) : IsSbCmd (.clearAlert b d) b d 4 (fun s x =>
    { s with hw := { s.hw with alerts := s.hw.alerts &&& ~~~(BitVec.ofNat 10 (leNat x)) } }) := fun _ => rfl

theorem isSbCmd_factory (b : Bus) (d : SbData) (m : Bool) : IsSbCmd (.factory b d m) b d 2 (fun s x =>
    if leNat x = 1 ∧ s.lc = .manufacture ∧ m = true then lcFinalise s else discardCmd s) := fun _ => rfl

theorem isSbCmd_pinFunc (b : Bus) (d : SbData) : IsSbCmd (.pinFunc b d) b d 2 (fun s x => pinSwitch s (x.getD 0 0) (x.getD 1 0)) := fun _ => rfl

/-! ## Windows -/

theorem isBus_busNo (b : Bus) : isBus (busNo b) = true := by cases b <;> rfl

theorem readReg_closed {s : State} {b : Bus} {o : Nat} (h : o % 4 ≠ 0 ∨ busReads o = false) : readReg s (busNo b) o = (0, s) := by
  have hm : mayRead (busNo b) o = busReads o := by rw [mayRead, isBus_busNo, if_pos rfl]
  rw [readReg, hm, if_pos h]

theorem readReg_identity (s : State) (b : Bus) : readReg s (busNo b) 0 = (0xB4A77200, s) := by cases b <;> rfl

theorem writeReg_closed {s : State} {b : Bus} {o : Nat} (v : Word) (h : o % 4 ≠ 0 ∨ busWrites o = false) : writeReg s (busNo b) o v = s := by
  have hm : mayWrite (busNo b) o = busWrites o := by rw [mayWrite, isBus_busNo, if_pos rfl]
  rw [writeReg, hm, if_pos h]

/-- A write of PWR_CAP within its range. -/
theorem writeReg_cap {s : State} {b : Bus} {v : Word} (h : ¬ (fld v 15 0 < 650 ∨ 3600 < fld v 15 0)) :
    writeReg s (busNo b) 0x900008 v = storeReg s 0 0 0x900008 v := by
  have hw : writeReg s (busNo b) 0x900008 v = if fld v 15 0 < 650 ∨ 3600 < fld v 15 0 then s else storeReg s 0 0 0x900008 v := by cases b <;> rfl
  rw [hw, if_neg h]

theorem fld_storeCap (s : State) (v : Word) : fld (regGet (storeReg s 0 0 0x900008 v) 0 0 0x900008) 15 0 = fld v 15 0 := by
  have hrw : (regSpec 0x900008).rw = bits 15 0 := rfl
  have hw1c : (regSpec 0x900008).w1c = 0 := rfl
  rw [storeReg, regGet_regSet_same]
  refine fld_congr fun i _ hi => ?_
  rw [stored, hrw, hw1c]
  simp only [BitVec.getLsbD_or, BitVec.getLsbD_and, BitVec.getLsbD_not, getLsbD_bits (show 0 ≤ 15 by decide) (show 15 < 32 by decide),
    decide_eq_true (show 0 ≤ i ∧ i ≤ 15 by omega), Bool.not_true, Bool.and_false, Bool.false_and, Bool.false_or, Bool.and_true]

/-! ## Multi-function pins -/

theorem pinOf_setPin (s : State) (n j : Nat) (p : MfPin) : pinOf (setPin s n p) j = if j = n then p else pinOf s j := Tab.get_put ..

theorem pinOf_switchPin (s : State) (n f j : Nat) : pinOf (switchPin s n f) j = if j = n then
    (if (pinOf s n).parked then { pinOf s n with waiting := (pinOf s n).waiting ++ [f], stored := f } else ⟨0, true, [f], f, false⟩) else pinOf s j := by
  unfold switchPin
  dsimp only
  split
  · exact pinOf_setPin ..
  · exact pinOf_setPin ..

theorem switchPin_form (s : State) (n f : Nat) : switchPin s n f = { s with hw := { s.hw with pins := (switchPin s n f).hw.pins } } := by
  unfold switchPin
  dsimp only
  split <;> rfl

theorem pinOk_iff (s : State) (n f : Nat) : pinOk s n f = false ↔ 3 < n ∨ 4 < f ∨ (f = 3 ∧ n < 2) ∨ (f = 4 ∧ (1 < n ∨ s.lc ≠ .manufacture)) := by
  have hlc : (s.lc == .manufacture) = decide (s.lc = .manufacture) := by cases s.lc <;> rfl
  rw [pinOk, hlc, ← Bool.not_eq_true]
  simp only [Bool.and_eq_true, Bool.or_eq_true, decide_eq_true_eq, bne_iff_ne]
  by_cases hm : s.lc = .manufacture
  · simp only [hm, ne_eq, not_true_eq_false, or_false, and_true]
    omega
  · simp only [hm, ne_eq, not_false_eq_true, or_true, and_true, and_false, or_false]
    omega

theorem pinSwitch_single {s : State} {n f : Nat} (hn : n ≤ 3) (hf : f ≤ 2) (h3 : (pinOf s n).stored ≠ 3) (h4 : (pinOf s n).stored ≠ 4) :
    pinSwitch s n f = switchPin s n f := by
  have hok : ¬ pinOk s n f = false := by
    rw [pinOk_iff]
    omega
  rw [pinSwitch, if_neg hok, if_neg (by omega), if_neg (by rintro (h | h); exacts [h3 h, h4 h])]

theorem pinSwitch_pair {s : State} {n : Nat} (h2 : 2 ≤ n) (h3 : n ≤ 3) : pinSwitch s n 3 = switchPin (switchPin s n 3) (pairPin n) 3 := by
  have hok : ¬ pinOk s n 3 = false := by
    rw [pinOk_iff]
    omega
  rw [pinSwitch, if_neg hok, if_pos (.inl rfl)]

/-- The end of a park, by the functions that wait. -/
theorem execMfParkEnd_parked {s : State} {n : Fin 4} (h : (pinOf s n.val).parked = true) :
    ((pinOf s n.val).waiting = [] → exec (.mfParkEnd n) s = .next (setPin s n.val { pinOf s n.val with parked := false })) ∧
    (∀ f, (pinOf s n.val).waiting = [f] → exec (.mfParkEnd n) s = .next (setPin s n.val { pinOf s n.val with parked := false, func := f, waiting := [] })) ∧
    (∀ f g w, (pinOf s n.val).waiting = f :: g :: w → exec (.mfParkEnd n) s = .next (setPin s n.val { pinOf s n.val with waiting := g :: w })) := by
  have hp : ¬ (pinOf s n.val).parked = false := by
    rw [h]
    exact Bool.noConfusion
  refine ⟨fun hw => congrArg Host.Outcome.next ((if_neg hp).trans ?_), fun f hw => congrArg Host.Outcome.next ((if_neg hp).trans ?_),
    fun f g w hw => congrArg Host.Outcome.next ((if_neg hp).trans ?_)⟩
  · rw [hw]
    dsimp only
    rw [hw]
  · rw [hw]
  · rw [hw]

theorem setPin_into {i : Instr} {s : State} {n : Nat} {q : MfPin} (h : exec i s = .next (setPin s n q)) :
    Nexts i s (fun t => t = { s with hw := { s.hw with pins := t.hw.pins } } ∧ pinOf t n = q ∧ ∀ j, j ≠ n → pinOf t j = pinOf s j) :=
  ⟨_, h, rfl, (pinOf_setPin ..).trans (if_pos rfl), fun _ hj => (pinOf_setPin ..).trans (if_neg hj)⟩

/-! ## MCTP packets -/

theorem alertResponse_eq (b : Bus) (s : State) : exec (.alertResponse b) s =
    .next (if busUp s b && s.hw.alerts != 0 then emit s (.alertAnswer (busNo b) (busAddr s)) else s) := rfl

theorem viaNo_bus (b : Bus) : viaNo (.bus b) = busNo b := by cases b <;> rfl

theorem find_setMctpQ {s : State} {b : Bus} {q : List MctpTx} : Tab.get [] (setMctpQ s b q).hw.mctp (busNo b) = q ∧
    ∀ j, j ≠ busNo b → Tab.find (setMctpQ s b q).hw.mctp j = Tab.find s.hw.mctp j :=
  ⟨Tab.get_put_same .., fun _ hj => Tab.find_put_other _ _ hj⟩

theorem execArbitrationLost_some {s : State} {b : Bus} {y : MctpTx} (late : Bool) (h : (Tab.get [] s.hw.mctp (busNo b)).find? (fun z => !z.lost) = some y) :
    exec (.arbitrationLost b late) s = .next (if 8 ≤ y.losses + 1 then mctpDrop (setMctpQ s b ((mctpQ s b).filter (·.lost)))
      else setMctpQ s b ({ y with losses := y.losses + 1, lost := true } :: (mctpQ s b).filter (·.lost))) := by
  change execArbitrationLost b late s = _
  unfold execArbitrationLost
  rw [show (mctpQ s b).find? (fun z => !z.lost) = some y from h]

theorem execArbitrationLost_none {s : State} {b : Bus} (late : Bool) (h : ∀ y ∈ Tab.get [] s.hw.mctp (busNo b), y.lost = true) :
    exec (.arbitrationLost b late) s = .next s := by
  have hn : (mctpQ s b).find? (fun z => !z.lost) = none := List.find?_eq_none.2 fun y hy => by rw [h y hy]; exact Bool.false_ne_true
  change execArbitrationLost b late s = _
  unfold execArbitrationLost
  rw [hn]

theorem find?_of_filter {α : Type} {p : α → Bool} {l : List α} {y : α} {ys : List α} (h : l.filter p = y :: ys) : l.find? p = some y := by
  rw [← List.head?_filter, h]
  rfl

theorem execMctpRetry_some {s : State} {b : Bus} {y : MctpTx} {ys : List MctpTx} (e : Bool) (h : (Tab.get [] s.hw.mctp (busNo b)).filter (·.lost) = y :: ys) :
    exec (.mctpRetry b e) s = .next (if busUp s b = false ∧ e = false then s else if e then mctpDrop (setMctpQ s b ys)
      else setMctpQ (emit s (.mctp (busNo b) y.ws)) b (ys ++ [{ y with lost := false }])) := by
  have hrest : ((mctpQ s b).filter (fun y => y.lost)).drop 1 = ys := by rw [show (mctpQ s b).filter (fun y => y.lost) = _ from h]; rfl
  change execMctpRetry b e s = _
  unfold execMctpRetry
  rw [show (mctpQ s b).find? (fun y => y.lost) = some y from find?_of_filter h]
  dsimp only
  rw [hrest]

theorem execMctpRetry_none {s : State} {b : Bus} (e : Bool) (h : ∀ y ∈ Tab.get [] s.hw.mctp (busNo b), y.lost = false) : exec (.mctpRetry b e) s = .next s := by
  have hn : (mctpQ s b).find? (fun y => y.lost) = none := List.find?_eq_none.2 fun y hy => by rw [h y hy]; exact Bool.false_ne_true
  change execMctpRetry b e s = _
  unfold execMctpRetry
  rw [hn]

theorem execMctpRetry_down {s : State} {b : Bus} (h : busUp s b = false) : exec (.mctpRetry b false) s = .next s := by
  cases hq : (Tab.get [] s.hw.mctp (busNo b)).filter (·.lost) with
  | nil =>
    refine execMctpRetry_none false fun y hy => ?_
    rw [List.filter_eq_nil_iff] at hq
    exact Bool.eq_false_iff.2 (hq y hy)
  | cons y ys => exact (execMctpRetry_some false hq).trans (congrArg Host.Outcome.next (if_pos ⟨h, rfl⟩))

theorem mctpDrop_alert (s : State) : (mctpDrop s).hw.alerts.getLsbD 9 = true := alertBit s.hw.alerts (i := 9) (by decide)

/-- Settles O51: each command by its gate, and by what it does where it is served and whole. -/
theorem sidebandCommands : Obligations.SidebandCommands := by
  intro s b d bus x good drops
  refine ⟨?_, fun hg hx => (isSbCmd_shutdown b d).done hg (if_neg hx), fun hg hx hp => (isSbCmd_shutdown b d).done hg ?_, fun hg hx hp => ?_,
    fun hg hx => (isSbCmd_restart b d).done hg (if_pos hx), ⟨fun hg hx hm => ?_, fun hg hx hm => ?_⟩, fun hg h => (isSbCmd_readWindow b d).done hg ?_,
    fun hg h => (isSbCmd_readWindow b d).done hg ?_, fun hg h => (isSbCmd_writeWindow b d).done hg (writeReg_closed _ h), fun hg h h1 h2 => ?_,
    fun hg => (isSbCmd_status b d).done hg rfl, fun hg => (isSbCmd_clearAlert b d).done hg rfl, fun m hg h => (isSbCmd_factory b d m).done hg (if_neg h),
    fun hg h1 h2 => (isSbCmd_factory b d true).done hg (if_pos ⟨h1, h2, rfl⟩), ?_, fun n => ?_, fun c => ?_, fun h => ?_, fun h1 h2 => ?_, rfl, fun m => ?_,
    fun h1 h2 => ?_, fun h1 h2 h3 => ?_, ?_⟩
  · simp only [List.forall_mem_cons, List.not_mem_nil, false_implies, implies_true, and_true]
    exact ⟨(isSbCmd_shutdown b d).gate s, (isSbCmd_restart b d).gate s, (isSbCmd_readWindow b d).gate s, (isSbCmd_writeWindow b d).gate s,
      (isSbCmd_status b d).gate s, (isSbCmd_clearAlert b d).gate s, (isSbCmd_factory b d false).gate s, (isSbCmd_factory b d true).gate s,
      (isSbCmd_pinFunc b d).gate s⟩
  · rw [if_pos (show d.bytes.map BitVec.toNat = [0x5A] from hx)]
    exact if_pos (.inr hp)
  · obtain ⟨hs, hq, hoff⟩ := orderlyStop_spec s hp
    refine ⟨_, (isSbCmd_shutdown b d).done hg (if_pos hx), hs, hq, fun p q h1 h16 hq8 => ?_⟩
    rw [show 0x100010 + 0x100 * q = hqOff q 0x10 by simp only [hqOff]; omega]
    exact hoff p q h1 h16 hq8
  · refine (isSbCmd_restart b d).done hg ?_
    rw [if_neg (not_not_intro (show d.bytes.map BitVec.toNat = [0xA5] from hx)), if_pos ⟨hm.1, hm.2.1, (busOk_iff s).2 hm.2.2⟩]
  · refine (isSbCmd_restart b d).done hg ?_
    rw [if_neg (not_not_intro (show d.bytes.map BitVec.toNat = [0xA5] from hx)), if_neg fun h => hm ⟨h.1, h.2.1, (busOk_iff s).1 h.2.2⟩]
  · rw [readReg_closed h, show leBytes [(0 : Word)] = [0, 0, 0, 0] by decide]
    rfl
  · rw [show leNat (d.bytes.map BitVec.toNat) = 0 from h, readReg_identity, show leBytes [(0xB4A77200 : Word)] = [0x00, 0x72, 0xA7, 0xB4] by decide]
    rfl
  · have hv : fld (BitVec.ofNat 32 (leNat (x.drop 4))) 15 0 = leNat (x.drop 4) := fld_ofNat_low (by decide) (by omega)
    refine ⟨storeReg s 0 0 0x900008 (BitVec.ofNat 32 (leNat (x.drop 4))), (isSbCmd_writeWindow b d).done hg ?_, rfl, ?_⟩
    · rw [show leNat ((d.bytes.map BitVec.toNat).take 4) = 0x900008 from h]
      exact writeReg_cap (by rw [show d.bytes.map BitVec.toNat = x from rfl, hv]; omega)
    · rw [fld_storeCap, hv]
  · intro n f old
    refine ⟨fun hg h => (isSbCmd_pinFunc b d).done hg (if_pos ((pinOk_iff s n f).2 h)), fun hg hn hf h3 h4 => ?_, fun hg h2 h3 hf hp2 hp3 => ?_⟩
    · refine ⟨_, (isSbCmd_pinFunc b d).done hg (pinSwitch_single hn hf h3 h4), switchPin_form s n f, fun j hj => ?_, ?_⟩
      · rw [pinOf_switchPin, if_neg hj]
      · rw [pinOf_switchPin, if_pos rfl]
    · have he : pinSwitch s n f = switchPin (switchPin s n 3) (pairPin n) 3 := by
        rw [hf]
        exact pinSwitch_pair h2 h3
      refine ⟨_, (isSbCmd_pinFunc b d).done hg he, ?_⟩
      obtain hn | hn : n = 2 ∨ n = 3 := by omega
      · rw [hn]
        simp [pinOf_switchPin, pairPin, hp2, hp3]
      · rw [hn]
        simp [pinOf_switchPin, pairPin, hp2, hp3]
  · intro p into
    refine ⟨fun h => congrArg Host.Outcome.next (if_pos h), fun h hw => setPin_into ((execMfParkEnd_parked h).1 hw),
      fun f h hw => setPin_into ((execMfParkEnd_parked h).2.1 f hw), fun f g w h hw => setPin_into ((execMfParkEnd_parked h).2.2 f g w hw)⟩
  · exact ⟨fun h => congrArg Host.Outcome.next (if_neg (by rw [h]; exact Bool.false_ne_true)), fun h => congrArg Host.Outcome.next (if_pos h)⟩
  · rw [alertResponse_eq, if_neg]
    rw [Bool.and_eq_true, bne_iff_ne]
    exact fun hc => h.elim (fun h => by rw [h] at hc; exact Bool.false_ne_true hc.1) hc.2
  · rw [alertResponse_eq, if_pos (by rw [h1, bne_iff_ne.2 h2]; rfl)]
    rfl
  · refine ⟨fun h => if_pos h, fun h1 h2 => ?_⟩
    exact (if_neg (by rw [h1]; exact Bool.noConfusion)).trans (if_pos h2)
  · obtain ⟨hout, hform, -, -⟩ := sendMctp_answered (drawWord s).2 (.bus b) [(drawWord s).1]
    refine ⟨sendMctp (drawWord s).2 (.bus b) [(drawWord s).1], ?_, ⟨(drawWord s).1, ?_⟩, ?_⟩
    · exact (if_neg (by rw [h1]; exact Bool.noConfusion)).trans (if_neg (by rw [h2]; exact Bool.noConfusion))
    · rw [hout, viaNo_bus]
      rfl
    · rw [hform]
      rfl
  · have hm : exec (.mctp b d true) s = spdmMessage s (.bus b) x :=
      (if_neg (by rw [h1]; exact Bool.noConfusion)).trans (if_neg (by rw [h2]; exact Bool.noConfusion))
    rw [hm, spdmMessage, h3]
    rfl
  · intro q qt
    refine ⟨fun late h => execArbitrationLost_none late h, fun late y hy => ?_, fun e h => execMctpRetry_none e h, execMctpRetry_down, fun y ys hu hq => ?_,
      fun y ys hq => ?_⟩
    · refine ⟨_, execArbitrationLost_some late hy, ?_⟩
      by_cases hl : 8 ≤ y.losses + 1
      · rw [if_pos hl]
        exact ⟨rfl, fun h => absurd h (by omega), fun _ => ⟨find_setMctpQ, rfl, mctpDrop_alert _⟩⟩
      · rw [if_neg hl]
        exact ⟨rfl, fun _ => ⟨find_setMctpQ, rfl⟩, fun h => absurd h (by omega)⟩
    · refine ⟨_, (execMctpRetry_some false hq).trans (congrArg Host.Outcome.next ((if_neg (by rw [hu]; simp)).trans (if_neg Bool.false_ne_true))), rfl,
        find_setMctpQ⟩
    · refine ⟨_, (execMctpRetry_some true hq).trans (congrArg Host.Outcome.next ((if_neg (by simp)).trans (if_pos rfl))), rfl, find_setMctpQ, rfl, mctpDrop_alert _⟩

end Sys2Proof.Machine
end

section
/-! PROOFS. What a test writes: records, counts, half-fields at reset condition. -/

namespace Sys2Proof.Machine

open Sys2Proof.Claims

/-! ## The defect map: what records add -/

/-- Whether a list of records holds one of a kind, unit and place. -/
def HoldsRecord (ds : List DefectRec) (kind : BitVec 4) (unit : BitVec 8) (loc : Word) : Prop :=
  ∃ d ∈ ds, d.kind = kind ∧ d.unit = unit ∧ d.loc = loc

/-- At most n records, each as `P` says, join the end of the map; of the registers only the status of the tests may change. -/
structure Recorded (P : DefectRec → Prop) (n : Nat) (s t : State) : Prop where
  form : t = { s with defects := t.defects, goodRows := t.goodRows, regs := t.regs }
  added : ∃ ds, t.defects = s.defects ++ ds ∧ ds.length ≤ n ∧ ∀ d ∈ ds, P d
  fixed : ∀ off, off < 2 ^ 26 → off ≠ 0xB00014 → RegFixed off s t

section
variable {P : DefectRec → Prop} {m n : Nat} {s t u : State}

theorem Recorded.refl (P : DefectRec → Prop) (n : Nat) (s : State) : Recorded P n s s :=
  ⟨rfl, ⟨[], by simp⟩, fun off _ _ => .refl off s⟩

theorem Recorded.trans (h : Recorded P m s t) (g : Recorded P n t u) : Recorded P (m + n) s u := by
  obtain ⟨ds, hds, hlen, hP⟩ := h.added
  obtain ⟨es, hes, hlen', hP'⟩ := g.added
  refine ⟨?_, ⟨ds ++ es, by rw [hes, hds, List.append_assoc], ?_, fun d hd => ?_⟩, fun off ho hne => (h.fixed off ho hne).trans (g.fixed off ho hne)⟩
  · rw [g.form, h.form]
  · rw [List.length_append]
    omega
  · exact (List.mem_append.1 hd).elim (hP d) (hP' d)

theorem Recorded.mono (h : Recorded P m s t) (hle : m ≤ n) : Recorded P n s t := by
  obtain ⟨ds, hds, hlen, hP⟩ := h.added
  exact ⟨h.form, ⟨ds, hds, hlen.trans hle, hP⟩, h.fixed⟩

theorem Recorded.mem (h : Recorded P n s t) {d : DefectRec} (hd : d ∈ s.defects) : d ∈ t.defects := by
  obtain ⟨ds, hds, -⟩ := h.added
  rw [hds]
  exact List.mem_append_left ds hd

theorem Recorded.holds (h : Recorded P n s t) {kind : BitVec 4} {unit : BitVec 8} {loc : Word} (hs : HoldsRecord s.defects kind unit loc) :
    HoldsRecord t.defects kind unit loc := by
  obtain ⟨d, hd, hk⟩ := hs
  exact ⟨d, h.mem hd, hk⟩

theorem Recorded.length_le (h : Recorded P n s t) : t.defects.length ≤ s.defects.length + n := by
  obtain ⟨ds, hds, hlen, -⟩ := h.added
  rw [hds, List.length_append]
  omega

theorem Recorded.time (h : Recorded P n s t) : t.time = s.time := by rw [h.form]

theorem Recorded.foldl {α : Type} {f : State → α → State} (hf : ∀ s a, s.time = t.time → Recorded P m s (f s a)) (l : List α) :
    ∀ s, s.time = t.time → Recorded P (m * l.length) s (l.foldl f s) := by
  induction l with
  | nil => exact fun s _ => .refl P _ s
  | cons a l ih =>
    intro s hs
    have h := hf s a hs
    exact (h.trans (ih _ (h.time.trans hs))).mono (by rw [List.length_cons, Nat.mul_succ, Nat.add_comm])

end

theorem writeDefect_recorded {P : DefectRec → Prop} (s : State) {d : DefectRec} (h : P d) : Recorded P 1 s (writeDefect s d) := by
  unfold writeDefect
  split
  · exact .refl P 1 s
  split
  · refine ⟨rfl, ⟨[d], rfl, Nat.le_refl 1, fun e he => ?_⟩, fun off _ _ => .of_regs rfl⟩
    rw [List.mem_singleton.1 he]
    exact h
  · exact ⟨rfl, ⟨[], by simp [regOr, regSet], Nat.zero_le 1, by simp⟩, fun off ho hne => .regSet s 0 0 _ ho (by omega) hne⟩

theorem writeDefect_holds {s : State} (d : DefectRec) (h : s.defects.length < 65535) : HoldsRecord (writeDefect s d).defects d.kind d.unit d.loc := by
  unfold writeDefect
  simp only [if_pos h]
  split
  · next hany =>
    obtain ⟨e, he, hk⟩ := List.any_eq_true.1 hany
    simp only [Bool.and_eq_true, beq_iff_eq] at hk
    exact ⟨e, he, hk.1.1, hk.1.2, hk.2⟩
  · exact ⟨d, List.mem_append_right _ (List.mem_singleton_self d), rfl, rfl, rfl⟩

/-- A record found in service at a time. -/
def PendingAt (time : BitVec 64) (d : DefectRec) : Prop := d.pending = true ∧ d.time = time

theorem recordDefect_recorded (s : State) (kind : BitVec 4) (source : BitVec 3) (unit : BitVec 8) (loc : Word) :
    Recorded (PendingAt s.time) 2 s (recordDefect s kind source unit loc) := by
  have h := writeDefect_recorded s (P := PendingAt s.time) (d := ⟨kind, true, source, unit, loc, s.time⟩) ⟨rfl, rfl⟩
  unfold recordDefect
  dsimp only
  split
  · exact h.trans (writeDefect_recorded _ ⟨rfl, h.time⟩)
  · exact h.mono (by omega)

theorem recordDefect_holds {s : State} (kind : BitVec 4) (source : BitVec 3) (unit : BitVec 8) (loc : Word) (h : s.defects.length < 65535) :
    HoldsRecord (recordDefect s kind source unit loc).defects kind unit loc := by
  have hw := writeDefect_holds ⟨kind, true, source, unit, loc, s.time⟩ h
  unfold recordDefect
  dsimp only
  split
  · exact (writeDefect_recorded (P := fun _ => True) _ trivial).holds hw
  · exact hw

/-- One finding of a test, recorded. -/
def findingRecorded (s : State) (f : Finding) : State := recordDefect s f.kind (findSource f.kind) f.unit f.loc

theorem findings_recorded (fs : List Finding) (s : State) : Recorded (PendingAt s.time) (2 * fs.length) s (fs.foldl findingRecorded s) :=
  Recorded.foldl (t := s) (fun u f hu => hu ▸ recordDefect_recorded u f.kind (findSource f.kind) f.unit f.loc) fs s rfl

theorem findings_hold (fs : List Finding) : ∀ s : State, s.defects.length + 2 * fs.length ≤ 65535 →
    ∀ f ∈ fs, HoldsRecord (fs.foldl findingRecorded s).defects f.kind f.unit f.loc := by
  induction fs with
  | nil => exact fun _ _ f hf => absurd hf List.not_mem_nil
  | cons g fs ih =>
    intro s hlen f hf
    rw [List.length_cons] at hlen
    have hone := recordDefect_recorded s g.kind (findSource g.kind) g.unit g.loc
    have hle := hone.length_le
    rcases List.mem_cons.1 hf with rfl | hf
    · exact (findings_recorded fs _).holds (recordDefect_holds _ _ _ _ (by omega))
    · exact ih _ (by change (recordDefect s _ _ _ _).defects.length + _ ≤ _; omega) f hf

theorem recordTest_recorded (s : State) (nb : List NeighbourReport) (fs : List Finding) :
    Recorded (PendingAt s.time) (2 * (neighbourFinds nb).length + 2 * fs.length) s (recordTest s nb fs) := by
  have h : Recorded (PendingAt s.time) (2 * (neighbourFinds nb).length) s ((neighbourFinds nb).foldl (fun s f => recordDefect s f.1 0 0 f.2) s) :=
    Recorded.foldl (t := s) (fun u f hu => hu ▸ recordDefect_recorded u f.1 0 0 f.2) _ s rfl
  exact h.trans (h.time ▸ findings_recorded fs _)

theorem recordTest_none {s : State} {nb : List NeighbourReport} (h : neighbourFinds nb = []) : recordTest s nb [] = s := by
  unfold recordTest
  rw [h]
  rfl

/-! ## The end of a test and its counts -/

theorem testEnd_form (s : State) (u : Nat) (st : TestSt) (n : Nat) :
    testEnd s u st n = { s with tests := (testEnd s u st n).tests, regs := (testEnd s u st n).regs } := rfl

theorem testEnd_test (s : State) (u : Nat) (st : TestSt) (n : Nat) : (testEnd s u st n).test u = { s.test u with st := st, slice := false, found := n } :=
  Tab.get_put_same ..

theorem testEnd_done (s : State) (u : Nat) (st : TestSt) (n : Nat) : (regGet (testEnd s u st n) 0 0 0xB00014).getLsbD 30 = true := by
  unfold testEnd
  dsimp only
  rw [regOr, regGet_regSet_same]
  exact getLsbD_or_bits _ (by omega) (by omega) (by omega) (by omega)

theorem testEnd_fixed (s : State) (u : Nat) (st : TestSt) (n : Nat) {off : Nat} (ho : off < 2 ^ 26) (hne : off ≠ 0xB00014) :
    RegFixed off s (testEnd s u st n) :=
  RegFixed.trans (.of_regs (t := s.setTest u { s.test u with st := st, slice := false, found := n }) rfl) (.regSet _ 0 0 _ ho (by omega) hne)

theorem countRun_form (s : State) (bad : Bool) : countRun s bad = { s with regs := (countRun s bad).regs } := by
  unfold countRun
  cases bad <;> rfl

theorem countRun_fixed (s : State) (bad : Bool) : RegFixed 0xB00014 s (countRun s bad) := by
  have hruns := RegFixed.cntAdd s 0 0 1 (off := 0xB00014) (off' := 0xB00040) (by omega) (by omega) (by omega) (by omega)
  unfold countRun
  cases bad
  · exact hruns
  · exact hruns.trans (.cntAdd _ 0 0 1 (by omega) (by omega) (by omega) (by omega))

theorem countRun_runs (s : State) (bad : Bool) : reg64 (countRun s bad) 0 0 0xB00040 = reg64 s 0 0 0xB00040 + 1 := by
  have hruns := reg64_cntAdd s 0 0 0xB00040 1
  unfold countRun
  cases bad
  · exact hruns
  · have hlow := RegFixed.cntAdd (cntAdd s 0 0 0xB00040 1) 0 0 1 (off := 0xB00040) (off' := 0xB00048) (by omega) (by omega) (by omega) (by omega)
    have hhigh := RegFixed.cntAdd (cntAdd s 0 0 0xB00040 1) 0 0 1 (off := 0xB00040 + 4) (off' := 0xB00048) (by omega) (by omega) (by omega) (by omega)
    exact (hlow.reg64 hhigh 0 0).trans hruns

theorem countRun_fails (s : State) (bad : Bool) : reg64 (countRun s bad) 0 0 0xB00048 = reg64 s 0 0 0xB00048 + (if bad then 1 else 0) := by
  have hlow := RegFixed.cntAdd s 0 0 1 (off := 0xB00048) (off' := 0xB00040) (by omega) (by omega) (by omega) (by omega)
  have hhigh := RegFixed.cntAdd s 0 0 1 (off := 0xB00048 + 4) (off' := 0xB00040) (by omega) (by omega) (by omega) (by omega)
  have hkeep := hlow.reg64 hhigh 0 0
  unfold countRun
  cases bad
  · exact hkeep.trans (BitVec.add_zero _).symm
  · exact (reg64_cntAdd _ 0 0 0xB00048 1).trans (congrArg (· + 1) hkeep)

/-- The test of unit h ends: its outcome, DONE, the runs counted and those that failed (R411, R424). -/
def RunEnds (s t : State) (h : Nat) (bad : Bool) : Prop :=
  (t.test h).st = (if bad then .fail else .pass) ∧ (regGet t 0 0 0xB00014).getLsbD 30 = true ∧
    reg64 t 0 0 0xB00040 = reg64 s 0 0 0xB00040 + 1 ∧ reg64 t 0 0 0xB00048 = reg64 s 0 0 0xB00048 + (if bad then 1 else 0)

/-- The counters of the runs stand. -/
def RunsStand (s t : State) : Prop := ∀ off, 0xB00040 ≤ off → off < 0xB00050 → RegFixed off s t

theorem runEnds_countRun {s t : State} (h : RunsStand s t) (u n : Nat) (bad : Bool) :
    RunEnds s (countRun (testEnd t u (if bad then .fail else .pass) n) bad) u bad := by
  have hc (off : Nat) (h1 : 0xB00040 ≤ off) (h2 : off < 0xB00050) : RegFixed off s (testEnd t u (if bad then .fail else .pass) n) :=
    (h off h1 h2).trans (testEnd_fixed t u _ n (by omega) (by omega))
  have hruns := (hc 0xB00040 (by omega) (by omega)).reg64 (hc (0xB00040 + 4) (by omega) (by omega)) 0 0
  have hfails := (hc 0xB00048 (by omega) (by omega)).reg64 (hc (0xB00048 + 4) (by omega) (by omega)) 0 0
  refine ⟨?_, ?_, (countRun_runs _ bad).trans (congrArg (· + 1) hruns), ?_⟩
  · have ht : (countRun (testEnd t u (if bad then .fail else .pass) n) bad).test u = (testEnd t u (if bad then .fail else .pass) n).test u := by
      rw [countRun_form]
      rfl
    rw [ht, testEnd_test]
  · rw [(countRun_fixed _ bad).same]
    exact testEnd_done ..
  · rw [countRun_fails, hfails]

theorem runEnds_of_regs {s t t' : State} {h : Nat} {bad : Bool} (g : RunEnds s t h bad) (hr : t'.regs = t.regs) (ht : t'.tests = t.tests) :
    RunEnds s t' h bad := by
  have hfix (off : Nat) : RegFixed off t t' := .of_regs hr
  obtain ⟨hst, hdone, hruns, hfails⟩ := g
  refine ⟨?_, ?_, ((hfix _).reg64 (hfix _) 0 0).trans hruns, ((hfix _).reg64 (hfix _) 0 0).trans hfails⟩
  · rw [State.test, ht]
    exact hst
  · rw [(hfix _).same]
    exact hdone

/-! ## Half-fields at reset condition -/

/-- The cores of a DEAD half-field stand FENCED. -/
def deadFenced (s : State) (h : Nat) : State :=
  (halfKeys s h).foldl (fun s k => s.setCore (keyCore k) (({ st := .fenced } : Core).stop EXT_FENCE 0)) s

/-- A half-field takes its new epoch, its cores FENCED where it is DEAD. -/
def halfAnew (s : State) (h : Nat) : State :=
  if ((newEpoch s h).region h).st = .dead then deadFenced (newEpoch s h) h else newEpoch s h

/-- The stored cores of the half-fields dropped. -/
def coresDropped (s : State) (hs : List Nat) : State := { s with cores := s.cores.filter (fun e => !hs.contains (halfOfKey s e.1)) }

theorem freshCores_eq (s : State) (hs : List Nat) : freshCores s hs = hs.foldl halfAnew (coresDropped s hs) := rfl

theorem deadFenced_foldl_form (ks : List Nat) (s : State) :
    ks.foldl (fun s k => s.setCore (keyCore k) (({ st := .fenced } : Core).stop EXT_FENCE 0)) s =
      { s with cores := (ks.foldl (fun s k => s.setCore (keyCore k) (({ st := .fenced } : Core).stop EXT_FENCE 0)) s).cores } := by
  induction ks generalizing s with
  | nil => rfl
  | cons k ks ih => rw [List.foldl_cons, ih]; rfl

theorem deadFenced_form (s : State) (h : Nat) : deadFenced s h = { s with cores := (deadFenced s h).cores } := deadFenced_foldl_form ..

theorem halfAnew_form (s : State) (h : Nat) : halfAnew s h = { newEpoch s h with cores := (halfAnew s h).cores } := by
  unfold halfAnew
  split
  · exact deadFenced_form ..
  · rfl

theorem halfAnew_foldl_form (hs : List Nat) (s : State) : hs.foldl halfAnew s =
    { s with cores := (hs.foldl halfAnew s).cores, power := (hs.foldl halfAnew s).power } := by
  induction hs generalizing s with
  | nil => rfl
  | cons h hs ih =>
    rw [List.foldl_cons, ih, halfAnew_form]
    rfl

theorem freshCores_form (s : State) (hs : List Nat) : freshCores s hs = { s with cores := (freshCores s hs).cores, power := (freshCores s hs).power } :=
  halfAnew_foldl_form hs (coresDropped s hs)

theorem region_newEpoch (s : State) (h r : Nat) : (newEpoch s h).region r =
    if r = h then { s.region h with epoch := (s.region h).epoch + 1, copy := (s.region h).epoch + 1 } else s.region r := Tab.get_put ..

theorem newEpoch_st (s : State) (h r : Nat) : ((newEpoch s h).region r).st = (s.region r).st := by
  rw [region_newEpoch]
  split
  · next e => rw [e]
  · rfl

theorem region_halfAnew (s : State) (h r : Nat) : (halfAnew s h).region r = (newEpoch s h).region r := by
  rw [halfAnew_form]
  rfl

theorem coreKey_keyCore {k : Nat} (h : k < 1080 * 1022) : coreKey (keyCore k) = k := by
  simp only [keyCore, coreKey, Fin.ofNat]
  omega

/-- A core outside a DEAD half-field stands as its cores are fenced. -/
theorem deadFenced_core_other {s : State} (hg : s.gridRows ≤ 1080) {h : Nat} {d : CoreId} (hd : halfOfKey s (coreKey d) ≠ h) :
    (deadFenced s h).core d = s.core d := by
  have hall : ∀ ks : List Nat, (∀ k ∈ ks, coreKey (keyCore k) ≠ coreKey d) → ∀ u : State,
      (ks.foldl (fun s k => s.setCore (keyCore k) (({ st := .fenced } : Core).stop EXT_FENCE 0)) u).core d = u.core d := by
    intro ks
    induction ks with
    | nil => exact fun _ _ => rfl
    | cons k ks ih =>
      intro hk u
      rw [List.foldl_cons, ih (fun j hj => hk j (List.mem_cons_of_mem k hj)), core_setCore, if_neg (hk k List.mem_cons_self).symm]
  refine hall _ (fun k hk => ?_) s
  obtain ⟨hrange, hhalf⟩ := List.mem_filter.1 hk
  have hlt : k < 1080 * 1022 := Nat.lt_of_lt_of_le (List.mem_range.1 hrange) (Nat.mul_le_mul_right 1022 hg)
  rw [coreKey_keyCore hlt]
  rintro rfl
  exact hd (beq_iff_eq.1 hhalf)

theorem halfAnew_core {s : State} (hg : s.gridRows ≤ 1080) {h : Nat} {d : CoreId} (hd : halfOfKey s (coreKey d) = h → (s.region h).st ≠ .dead) :
    (halfAnew s h).core d = s.core d := by
  unfold halfAnew
  split
  · next hst =>
    rw [newEpoch_st] at hst
    exact deadFenced_core_other (s := newEpoch s h) hg (fun hh => hd hh hst)
  · rfl

theorem halfAnew_foldl_core {d : CoreId} (hs : List Nat) : ∀ s : State, s.gridRows ≤ 1080 → (s.region (halfOfKey s (coreKey d))).st ≠ .dead →
    (hs.foldl halfAnew s).core d = s.core d := by
  induction hs with
  | nil => exact fun _ _ _ => rfl
  | cons h hs ih =>
    intro s hg hd
    have hhalf : halfOfKey (halfAnew s h) (coreKey d) = halfOfKey s (coreKey d) := by rw [halfAnew_form]; rfl
    have hrows : (halfAnew s h).gridRows = s.gridRows := by rw [halfAnew_form]; rfl
    rw [List.foldl_cons, ih _ (hrows ▸ hg) (by rw [hhalf, region_halfAnew, newEpoch_st]; exact hd), halfAnew_core hg (fun e => e ▸ hd)]

theorem coresDropped_core {s : State} {hs : List Nat} {d : CoreId} (hd : hs.contains (halfOfKey s (coreKey d)) = true) :
    (coresDropped s hs).core d = {} := by
  have hf := Tab.find_filter s.cores (fun k => !hs.contains (halfOfKey s k)) (coreKey d)
  rw [hd] at hf
  rw [State.core, Tab.get, coresDropped, hf]
  rfl

/-- Re-initialised half-fields are at reset condition but for those that are DEAD (R359, R375). -/
theorem fresh_freshCores {s : State} (hg : s.gridRows ≤ 1080) (hs : List Nat) : Fresh s (freshCores s hs) hs := by
  intro d hd hst
  rw [freshCores_eq, halfAnew_foldl_core hs (coresDropped s hs) hg hst, coresDropped_core hd]

theorem freshCores_one_region (s : State) (h r : Nat) : (freshCores s [h]).region r =
    if r = h then { s.region h with epoch := (s.region h).epoch + 1, copy := (s.region h).epoch + 1 } else s.region r := by
  rw [freshCores_eq, List.foldl_cons, List.foldl_nil, region_halfAnew, region_newEpoch]
  rfl

/-- A half-field handed over at reset condition: all but its cores, its slice and its region stands. -/
theorem reinitHalf_form (s : State) (h : Nat) :
    reinitHalf s h = { s with cores := (freshCores s [h]).cores, power := (freshCores s [h]).power, slices := (reinitHalf s h).slices } := by
  unfold reinitHalf
  dsimp only
  rw [freshCores_form s [h]]
  split <;> rfl

theorem reinitHalf_region (s : State) (h r : Nat) : (reinitHalf s h).region r =
    if r = h then { s.region h with epoch := (s.region h).epoch + 1, copy := (s.region h).epoch + 1 } else s.region r := by
  rw [← freshCores_one_region, reinitHalf_form]
  rfl

theorem fresh_reinitHalf {s : State} (hg : s.gridRows ≤ 1080) (h : Nat) : Fresh s (reinitHalf s h) [h] := by
  intro d hd hst
  have hf := fresh_freshCores hg [h] d hd hst
  rw [reinitHalf_form]
  exact hf

end Sys2Proof.Machine
end

section
/-! PROOFS. Staggered runs, slices and the end of a run. -/

namespace Sys2Proof.Machine

open Sys2Proof.Claims

/-! ## Staggered runs and slices -/

/-- A run may start: no budget, its half-field ready, a place free and no lower one waiting. -/
def RunStarts (s : State) (h : Nat) : Prop :=
  (regGet s 0 0 0xB0000C).getLsbD 31 = false ∧ runReady s h = true ∧ runsNow s < fld (regGet s 0 0 0xB0000C) 27 24 ∧ ∀ j, j < h → runReady s j = false

theorem runStarts_iff (s : State) (h : Nat) :
    (!testBudget s && runReady s h && decide (runsNow s < testConc s) && !(List.range h).any (runReady s)) = true ↔ RunStarts s h := by
  have hconc : decide (runsNow s < testConc s) = true ↔ runsNow s < fld (regGet s 0 0 0xB0000C) 27 24 := decide_eq_true_iff
  have hlow : (List.range h).any (runReady s) = false ↔ ∀ j, j < h → runReady s j = false := by simp
  have hmode : testBudget s = (regGet s 0 0 0xB0000C).getLsbD 31 := rfl
  rw [RunStarts, Bool.and_eq_true, Bool.and_eq_true, Bool.and_eq_true, hconc, Bool.not_eq_true', Bool.not_eq_true', hlow, hmode, and_assoc, and_assoc]

theorem bistRunStart_spec (s : State) (hf : HalfField) : let h := hf.val
    (¬ RunStarts s h → exec (.bistRunStart hf) s = .next s) ∧
    (RunStarts s h → Nexts (.bistRunStart hf) s (fun t => t = { s with tests := t.tests, power := t.power } ∧
      t.test h = { s.test h with st := .running, slice := true } ∧
      t.region h = { s.region h with epoch := (s.region h).epoch + 1, copy := (s.region h).epoch + 1 } ∧
      (∀ j, j ≠ h → t.test j = s.test j) ∧ ∀ r, r ≠ h → t.region r = s.region r)) := by
  intro h
  refine ⟨fun hno => congrArg Host.Outcome.next (if_neg (mt (runStarts_iff s h).1 hno)), fun hyes => ?_⟩
  refine ⟨_, congrArg Host.Outcome.next (if_pos ((runStarts_iff s h).2 hyes)), rfl, Tab.get_put_same .., ?_, fun j hj => test_setTest_other s _ hj, fun r hr => ?_⟩
  · rw [region_newEpoch, if_pos rfl]
    rfl
  · rw [region_newEpoch, if_neg hr]
    rfl

theorem bistSliceDone_spec (s : State) (hf : HalfField) : let h := hf.val
    let budget := (s.test h).st = .running ∧ (s.test h).slice = true ∧ (regGet s 0 0 0xB0000C).getLsbD 31 = true
    (¬ budget → exec (.bistSliceDone hf) s = .next s) ∧
    (budget → Nexts (.bistSliceDone hf) s (fun t => t = { s with tests := t.tests } ∧
      t.test h = { s.test h with slice := false, slices := min 22 ((s.test h).slices + 1) } ∧ ∀ j, j ≠ h → t.test j = s.test j)) := by
  intro h budget
  refine ⟨fun hno => congrArg Host.Outcome.next (if_neg hno), fun hyes => ?_⟩
  exact ⟨_, congrArg Host.Outcome.next (if_pos hyes), rfl, Tab.get_put_same .., fun j hj => test_setTest_other s _ hj⟩

/-! ## A run ends -/

/-- A run or a repair with an outcome, `n` records written: it counts and its half-field is handed over at reset condition. -/
def runClosed (s : State) (h n : Nat) (bad : Bool) : State := reinitHalf (countRun (testEnd s h (if bad then .fail else .pass) n) bad) h

theorem runCounted_form (s : State) (h n : Nat) (bad : Bool) : let t := countRun (testEnd s h (if bad then .fail else .pass) n) bad
    t = { s with tests := t.tests, regs := t.regs } := by
  intro t
  have hc := countRun_form (testEnd s h (if bad then .fail else .pass) n) bad
  change t = { testEnd s h (if bad then .fail else .pass) n with regs := t.regs } at hc
  have ht : t.tests = (testEnd s h (if bad then .fail else .pass) n).tests := by rw [hc]
  rw [testEnd_form] at hc
  rw [ht]
  exact hc

theorem runClosed_form (s : State) (h n : Nat) (bad : Bool) : let t := runClosed s h n bad
    t = { s with tests := t.tests, regs := t.regs, cores := t.cores, power := t.power, slices := t.slices } := by
  intro t
  have hr : t = _ := reinitHalf_form (countRun (testEnd s h (if bad then .fail else .pass) n) bad) h
  rw [runCounted_form s h n bad] at hr
  rw [hr]

theorem runClosed_ends {s t : State} (h : RunsStand s t) (u n : Nat) (bad : Bool) : RunEnds s (runClosed t u n bad) u bad := by
  refine runEnds_of_regs (runEnds_countRun h u n bad) ?_ ?_ <;> rw [runClosed, reinitHalf_form]

theorem runClosed_found (s : State) (h n : Nat) (bad : Bool) : ((runClosed s h n bad).test h).found = n := by
  rw [runClosed, reinitHalf_form, countRun_form]
  exact congrArg TestU.found (testEnd_test s h (if bad then .fail else .pass) n)

theorem runClosed_region (s : State) (h n : Nat) (bad : Bool) : (runClosed s h n bad).region h =
    { s.region h with epoch := (s.region h).epoch + 1, copy := (s.region h).epoch + 1 } := by
  rw [runClosed, reinitHalf_region, if_pos rfl, runCounted_form s h n bad]
  rfl

theorem runClosed_cores {s : State} (hg : s.gridRows ≤ 1080) (h n : Nat) (bad : Bool) : Fresh s (runClosed s h n bad) [h] := by
  have hf := runCounted_form s h n bad
  have hrows : (countRun (testEnd s h (if bad then .fail else .pass) n) bad).gridRows ≤ 1080 := by rw [hf]; exact hg
  have hfresh := fresh_reinitHalf hrows h
  intro d hd hst
  refine hfresh d ?_ ?_ <;> rw [hf]
  · exact hd
  · exact hst

theorem Recorded.runs {P : DefectRec → Prop} {n : Nat} {s t : State} (h : Recorded P n s t) : RunsStand s t :=
  fun off _ _ => h.fixed off (by omega) (by omega)

/-- What the records written are of a map that only grew. -/
theorem Recorded.appended {P : DefectRec → Prop} {n : Nat} {s t : State} (h : Recorded P n s t) :
    ∃ ds, t.defects = s.defects ++ ds ∧ ds.length = t.defects.length - s.defects.length ∧ ∀ d ∈ ds, P d := by
  obtain ⟨ds, hds, -, hP⟩ := h.added
  exact ⟨ds, hds, by rw [hds, List.length_append, Nat.add_sub_cancel_left], hP⟩

theorem bistRunDone_closed {s : State} {h : Nat} {r : TestResult} (hst : (s.test h).st = .running) (hr : (s.test h).repair = false) :
    bistRunDone s h r = runClosed (recordTest s [] r.findings) h ((recordTest s [] r.findings).defects.length - s.defects.length) (!r.findings.isEmpty) := by
  have hno : ¬ ((s.test h).st ≠ .running ∨ (s.test h).repair = true) := by simp [hst, hr]
  unfold bistRunDone
  rw [if_neg hno]
  rfl

theorem bistRunDone_spec {s : State} (hg : s.gridRows ≤ 1080) (hf : HalfField) (r : TestResult) (hst : (s.test hf.val).st = .running)
    (hr : (s.test hf.val).repair = false) : Nexts (.bistRunDone hf r) s (fun t => RunEnds s t hf.val (!r.findings.isEmpty) ∧ Fresh s t [hf.val] ∧ t.parts = s.parts ∧
        (∃ ds, t.defects = s.defects ++ ds ∧ ds.length = (t.test hf.val).found ∧ ∀ d ∈ ds, d.pending = true ∧ d.time = s.time) ∧
        (r.findings = [] → t.defects = s.defects) ∧
        (s.defects.length + 2 * r.findings.length ≤ 65535 → ∀ f ∈ r.findings, HoldsRecord t.defects f.kind f.unit f.loc)) := by
  have hrec := recordTest_recorded s [] r.findings
  have hnone (h : r.findings = []) : recordTest s [] r.findings = s := h ▸ recordTest_none rfl
  have hhold : s.defects.length + 2 * r.findings.length ≤ 65535 → ∀ f ∈ r.findings, HoldsRecord (recordTest s [] r.findings).defects f.kind f.unit f.loc :=
    findings_hold r.findings s
  refine ⟨_, congrArg Host.Outcome.next (bistRunDone_closed hst hr), runClosed_ends hrec.runs .., ?_, ?_, ?_, fun h => ?_, ?_⟩
  · have hrows : (recordTest s [] r.findings).gridRows ≤ 1080 := by rw [hrec.form]; exact hg
    have hfresh := runClosed_cores hrows hf.val ((recordTest s [] r.findings).defects.length - s.defects.length) (!r.findings.isEmpty)
    intro d hd hdead
    refine hfresh d ?_ ?_ <;> rw [hrec.form]
    · exact hd
    · exact hdead
  · rw [runClosed_form, hrec.form]
  · rw [runClosed_found, runClosed_form]
    exact hrec.appended
  · rw [runClosed_form]
    change (recordTest s [] r.findings).defects = s.defects
    rw [hnone h]
  · rw [runClosed_form]
    exact hhold

/-! ## A repair -/

theorem RegFixed.logRecord {off : Nat} (h : off < 0xA00004 ∨ 0xA0006C < off) (h' : off < 2 ^ 26) (s : State) (cls code p region : Nat) (v0 v1 : Word) :
    RegFixed off s (logRecord s cls code p region v0 v1) := by
  unfold Machine.logRecord logFrom
  dsimp only
  split
  · exact (RegFixed.cntAdd s 0 0 1 h' (by omega) (by omega) (by omega)).trans (.regSet _ 0 0 _ h' (by omega) (by omega))
  · exact .of_regs rfl

theorem RegFixed.tambE {off : Nat} (h : off < 0xA00004 ∨ 0xD00034 < off) (h' : off < 2 ^ 26) (s : State) (cls code : Nat) (sc : Scope) (sev region : Nat) (loc v0 v1 : Word) :
    RegFixed off s (tambE s cls code sc sev region loc v0 v1) :=
  (RegFixed.reportAll (by omega) h' s _ code sc sev 0 loc v0 v1).trans (.logRecord (by omega) h' ..)

end Sys2Proof.Machine
end

section
/-! PROOFS. Repairs. -/

namespace Sys2Proof.Machine

open Sys2Proof.Claims

/-! ## A repair whose soft start fails -/

theorem softFailed_spec (s : State) (r : Nat) (dom : BitVec 4) : let t := softFailed s r dom
    t.cores = s.cores ∧ t.defects = s.defects ∧ t.power = s.power ∧ (regGet t 0 0 0x90005C).getLsbD 2 = true ∧ RunsStand s t := by
  intro t
  have hw : LogWork (cntAdd (pwrFault s 4) 0 0 0x900068 2) t := tambE_logWork ..
  have hlog {off : Nat} (h : off < 0xA00004) : RegFixed off (cntAdd (pwrFault s 4) 0 0 0x900068 2) t := .tambE (by omega) (by omega) ..
  have hcnt {off : Nat} (h : off < 0x900068 ∨ 0x90006C < off) (h' : off < 2 ^ 26) : RegFixed off (pwrFault s 4) (cntAdd (pwrFault s 4) 0 0 0x900068 2) :=
    .cntAdd _ 0 0 2 h' (by omega) (by omega) (by omega)
  refine ⟨by rw [show t = _ from hw]; rfl, by rw [show t = _ from hw]; rfl, by rw [show t = _ from hw]; rfl, ?_, fun off h1 h2 => ?_⟩
  · rw [(hlog (by omega)).same, (hcnt (by omega) (by omega)).same, pwrFault, regOr, regGet_regSet_same]
    exact (getLsbD_or_bits (regGet s 0 0 0x90005C) (hi := 2) (lo := 2) (i := 2) (by omega) (by omega) (by omega) (by omega))
  · have hlate : RegFixed off (cntAdd (pwrFault s 4) 0 0 0x900068 2) t :=
      (RegFixed.reportAll (by omega) (by omega) _ _ _ _ _ _ _ _ _).trans (.logRecord (by omega) (by omega) ..)
    exact ((RegFixed.regSet s 0 0 _ (by omega) (by omega) (by omega)).trans (hcnt (by omega) (by omega))).trans hlate

/-- Which repairs find their soft start failed (R420). -/
def RepairDark (s : State) (h : Nat) (r : TestResult) : Prop := r.rampOk = false ∧ (s.region h).st = .dead

theorem repairDone_dark {s : State} {hf : HalfField} {r : TestResult} (hst : (s.test hf.val).st = .running) (hr : (s.test hf.val).repair = true)
    (hd : RepairDark s hf.val r) : Nexts (.repairDone hf r) s (fun t => RunEnds s t hf.val true ∧ t.cores = s.cores ∧ t.defects = s.defects ∧
        t.power = s.power ∧ (regGet t 0 0 0x90005C).getLsbD 2 = true) := by
  have hno : ¬ ((s.test hf.val).st ≠ .running ∨ (s.test hf.val).repair = false) := by simp [hst, hr]
  obtain ⟨hc, hdef, hp, hbit, hruns⟩ := softFailed_spec s hf.val (s.region hf.val).deadDom
  have he : repairDone s hf.val r = countRun (testEnd (softFailed s hf.val (s.region hf.val).deadDom) hf.val (if true then .fail else .pass) 0) true := by
    unfold repairDone
    rw [if_neg hno, if_pos (show r.rampOk = false ∧ (s.region hf.val).st = .dead from hd)]
    rfl
  have hform := runCounted_form (softFailed s hf.val (s.region hf.val).deadDom) hf.val 0 true
  have hfault : RegFixed 0x90005C (softFailed s hf.val (s.region hf.val).deadDom)
      (countRun (testEnd (softFailed s hf.val (s.region hf.val).deadDom) hf.val (if true then .fail else .pass) 0) true) :=
    ((testEnd_fixed _ _ _ _ (by omega) (by omega)).trans (.cntAdd _ 0 0 1 (by omega) (by omega) (by omega) (by omega))).trans
      (.cntAdd _ 0 0 1 (by omega) (by omega) (by omega) (by omega))
  refine ⟨_, congrArg Host.Outcome.next he, runEnds_countRun hruns hf.val 0 true, ?_, ?_, ?_, ?_⟩
  · rw [hform]
    exact hc
  · rw [hform]
    exact hdef
  · rw [hform]
    exact hp
  · rw [hfault.same]
    exact hbit

/-! ## A repair that applies its records -/

theorem newIdent_form (s : State) (h : Nat) : newIdent s h = { s with ident := (newIdent s h).ident, draws := s.draws + 1 } := rfl

theorem newIdent_ident (s : State) (h j : Nat) : (j = h → Tab.get 0 (newIdent s h).ident j ≠ Tab.get 0 s.ident j) ∧
    (j ≠ h → Tab.get 0 (newIdent s h).ident j = Tab.get 0 s.ident j) := by
  refine ⟨?_, fun hj => Tab.get_put_other _ _ _ hj⟩
  rintro rfl
  have hput : Tab.get 0 (newIdent s j).ident j = if (drawWord s).1 = Tab.get 0 s.ident j then (drawWord s).1 + 1 else (drawWord s).1 := Tab.get_put_same ..
  rw [hput]
  split
  · next h => rw [← h]; simp
  · assumption

/-- What a repair has found, recorded and applied, under a new map identity. -/
def repairMapped (s : State) (h : Nat) (r : TestResult) : State := newIdent (rejoin (applyPending (recordTest s r.reports r.findings) h) h) h

/-- A record, applied where `p` says so. -/
def applied (p : DefectRec → Bool) (d : DefectRec) : DefectRec := if p d then { d with pending := false } else d

theorem applyPending_form (s : State) (h : Nat) : applyPending s h = { s with defects := (applyPending s h).defects } := rfl

theorem applyPending_mem {s : State} (h : Nat) {d : DefectRec} (hd : d ∈ s.defects) (hp : d.pending = false) : d ∈ (applyPending s h).defects :=
  List.mem_map.2 ⟨d, hd, if_neg (by simp [hp])⟩

theorem repairMapped_form (s : State) (h : Nat) (r : TestResult) : let t := repairMapped s h r
    t = { s with defects := t.defects, goodRows := t.goodRows, regs := t.regs, lostRouters := s.lostRouters.filter (fun pl => halfOfPlace pl != h),
                 ident := t.ident, draws := t.draws } := by
  intro t
  have hrec := (recordTest_recorded s r.reports r.findings).form
  have ht : t = newIdent (rejoin (applyPending (recordTest s r.reports r.findings) h) h) h := rfl
  rw [hrec, newIdent_form, rejoin, applyPending_form] at ht
  rw [ht]

theorem repairMapped_runs (s : State) (h : Nat) (r : TestResult) : RunsStand s (repairMapped s h r) :=
  fun off h1 h2 => ((recordTest_recorded s r.reports r.findings).runs off h1 h2).trans (.of_regs rfl)

theorem repairMapped_ident (s : State) (h : Nat) (r : TestResult) : Tab.get 0 (repairMapped s h r).ident h ≠ Tab.get 0 s.ident h ∧
    ∀ j, j ≠ h → Tab.get 0 (repairMapped s h r).ident j = Tab.get 0 s.ident j := by
  have hi : (rejoin (applyPending (recordTest s r.reports r.findings) h) h).ident = s.ident := by
    rw [rejoin, applyPending_form, (recordTest_recorded s r.reports r.findings).form]
  have hn := newIdent_ident (rejoin (applyPending (recordTest s r.reports r.findings) h) h) h
  rw [hi] at hn
  exact ⟨(hn h).1 rfl, fun j => (hn j).2⟩

theorem repairMapped_mem {s : State} {h : Nat} {r : TestResult} {d : DefectRec} (hd : d ∈ s.defects) (hp : d.pending = false) :
    d ∈ (repairMapped s h r).defects :=
  applyPending_mem h ((recordTest_recorded s r.reports r.findings).mem hd) hp

/-- The region of a repair that passes, brought to service. -/
def regionHealed (s : State) (h : Nat) : State := s.setRegion h { s.region h with suspect := false, excl := [], low := [], deadDom := 0 }

/-- A DEAD region of a repair that passes comes ON. -/
def regionRaised (s : State) (h : Nat) : State := newEpoch (softPoints (s.setRegion h { s.region h with st := .on, tries := 0 }) h) h

theorem regionRaised_form (s : State) (h : Nat) : regionRaised s h = { s with power := (regionRaised s h).power, draws := s.draws + 4 } := rfl

theorem setMv_mv (y : PRegion) (x : Rail) (v : Nat) : y.setMv x v = { y with mv := (y.setMv x v).mv } := rfl

theorem setMv_four (y : PRegion) (a b c d : Nat) :
    ∃ mv, (((y.setMv .logic a).setMv .near b).setMv .stack c).setMv .links d = { y with mv := mv } := ⟨_, rfl⟩

/-- The set-points of a soft start are voltages alone. -/
theorem softPoints_form (s : State) (r : Nat) : ∃ mv, softPoints s r = { s.setRegion r { s.region r with mv := mv } with draws := s.draws + 4 } := by
  unfold softPoints
  extract_lets y pick logic near y'
  have hy : ∃ mv, y' = { s.region r with mv := mv } := by
    clear_value near logic pick
    by_cases hr : r < 168
    · obtain ⟨mv, hmv⟩ := setMv_four y (min logic near) near (pick .stack 2) (pick .links 3)
      exact ⟨mv, (if_pos hr).trans hmv⟩
    · exact ⟨_, (if_neg hr).trans (setMv_mv y .mif 750)⟩
  clear_value y'
  obtain ⟨mv, rfl⟩ := hy
  exact ⟨mv, rfl⟩

theorem softPoints_region (s : State) (r : Nat) : ((softPoints s r).region r).st = (s.region r).st ∧
    ((softPoints s r).region r).suspect = (s.region r).suspect ∧ ((softPoints s r).region r).excl = (s.region r).excl := by
  obtain ⟨mv, hmv⟩ := softPoints_form s r
  have hr : (softPoints s r).region r = { s.region r with mv := mv } := by
    rw [hmv]
    exact Tab.get_put_same ..
  rw [hr]
  exact ⟨rfl, rfl, rfl⟩

theorem regionRaised_region (s : State) (h : Nat) : ((regionRaised s h).region h).st = .on ∧
    ((regionRaised s h).region h).suspect = (s.region h).suspect ∧ ((regionRaised s h).region h).excl = (s.region h).excl := by
  have hsoft := softPoints_region (s.setRegion h { s.region h with st := .on, tries := 0 }) h
  have hset : (s.setRegion h { s.region h with st := .on, tries := 0 }).region h = { s.region h with st := .on, tries := 0 } := Tab.get_put_same ..
  rw [hset] at hsoft
  rw [regionRaised, region_newEpoch, if_pos rfl]
  exact hsoft

/-- A repair that passes brings its region back. -/
def regionBack (s : State) (h : Nat) : State := if (s.region h).st = .dead then regionRaised (regionHealed s h) h else regionHealed s h

theorem regionBack_spec (s : State) (h : Nat) :
    regionBack s h = { s with power := (regionBack s h).power, draws := (regionBack s h).draws } ∧
      ((regionBack s h).region h).suspect = false ∧ ((regionBack s h).region h).excl = [] ∧
      ((regionBack s h).region h).st = (if (s.region h).st = .dead then .on else (s.region h).st) := by
  have hheal : (regionHealed s h).region h = { s.region h with suspect := false, excl := [], low := [], deadDom := 0 } := Tab.get_put_same ..
  have hhealed : regionHealed s h = { s with power := (regionHealed s h).power } := rfl
  by_cases hd : (s.region h).st = .dead
  · have he : regionBack s h = regionRaised (regionHealed s h) h := if_pos hd
    obtain ⟨hst, hsus, hexcl⟩ := regionRaised_region (regionHealed s h) h
    rw [he, if_pos hd]
    generalize regionHealed s h = u at hheal hhealed hst hsus hexcl
    rw [hheal] at hsus hexcl
    refine ⟨?_, hsus, hexcl, hst⟩
    rw [regionRaised_form, hhealed]
  · have he : regionBack s h = regionHealed s h := if_neg hd
    rw [he, hheal, if_neg hd]
    exact ⟨hhealed, rfl, rfl, rfl⟩

theorem repairLife_eq (s : State) (h : Nat) : repairLife s h = newIncarnation (regionBack (dropRecords s [7, 8, 9] h) h) := by
  unfold repairLife regionBack
  simp only [beq_iff_eq]
  rfl

theorem newIncarnation_region (s : State) (r : Nat) : (newIncarnation s).region r = s.region r := by
  rw [newIncarnation_form]
  rfl

/-- What a repair that passes in MANUFACTURE or SERVICE leaves (R420, R450). -/
theorem repairLife_spec (s : State) (h : Nat) :
    (∃ x : State, repairLife s h = { s with
      defects := s.defects.filter (fun d => !([7, 8, 9].contains d.kind && fld d.loc 7 0 == h))
      goodRows := x.goodRows, power := x.power, draws := x.draws, incarnation := s.incarnation + 1, ports := x.ports, sessions := x.sessions }) ∧
      ((repairLife s h).region h).suspect = false ∧ ((repairLife s h).region h).excl = [] ∧
      ((repairLife s h).region h).st = (if (s.region h).st = .dead then .on else (s.region h).st) := by
  obtain ⟨hform, hregion⟩ := regionBack_spec (dropRecords s [7, 8, 9] h) h
  rw [repairLife_eq, newIncarnation_region]
  generalize regionBack (dropRecords s [7, 8, 9] h) h = u at hform hregion ⊢
  refine ⟨⟨newIncarnation u, ?_⟩, hregion⟩
  rw [newIncarnation_form u]
  rw [hform]
  rfl

/-- The state of a repair before its run is closed. -/
def repairHeld (s : State) (h : Nat) (r : TestResult) (bad : Bool) : State :=
  if bad = false ∧ lifeRepairs (repairMapped s h r) then repairLife (repairMapped s h r) h else repairMapped s h r

/-- Whether a repair found anything. -/
def repairBad (r : TestResult) : Bool := !(neighbourFinds r.reports).isEmpty || !r.findings.isEmpty

theorem repairDone_closed {s : State} {h : Nat} {r : TestResult} (hst : (s.test h).st = .running) (hr : (s.test h).repair = true) (hd : ¬ RepairDark s h r) :
    ∃ n, repairDone s h r = runClosed (repairHeld s h r (repairBad r)) h n (repairBad r) := by
  have hno : ¬ ((s.test h).st ≠ .running ∨ (s.test h).repair = false) := by simp [hst, hr]
  unfold repairDone
  rw [if_neg hno, if_neg (show ¬ (r.rampOk = false ∧ (s.region h).st = .dead) from hd)]
  exact ⟨_, rfl⟩

theorem lifeRepairs_iff (s : State) : lifeRepairs s = true ↔ s.lc = .manufacture ∨ s.lc = .service := by simp [lifeRepairs]

theorem repairHeld_plain {s : State} {h : Nat} {r : TestResult} {bad : Bool} (hb : bad = true ∨ (s.lc ≠ .manufacture ∧ s.lc ≠ .service)) :
    repairHeld s h r bad = repairMapped s h r := by
  refine if_neg ?_
  rintro ⟨rfl, hl⟩
  have hlc : (repairMapped s h r).lc = s.lc := by rw [repairMapped_form]
  rw [lifeRepairs_iff, hlc] at hl
  exact hb.elim Bool.noConfusion (fun hn => hl.elim hn.1 hn.2)

theorem repairHeld_life {s : State} {h : Nat} {r : TestResult} (hl : s.lc = .manufacture ∨ s.lc = .service) :
    repairHeld s h r false = repairLife (repairMapped s h r) h := by
  have hlc : (repairMapped s h r).lc = s.lc := by rw [repairMapped_form]
  exact if_pos ⟨rfl, (lifeRepairs_iff _).2 (by rw [hlc]; exact hl)⟩

/-- Healing a region touches neither the map identities, the joins nor the counters. -/
theorem repairHeld_keeps (s : State) (h : Nat) (r : TestResult) (bad : Bool) : let t := repairHeld s h r bad
    t.ident = (repairMapped s h r).ident ∧ t.lostRouters = (repairMapped s h r).lostRouters ∧ t.regs = (repairMapped s h r).regs := by
  unfold repairHeld
  dsimp only
  split
  · obtain ⟨⟨x, hx⟩, -⟩ := repairLife_spec (repairMapped s h r) h
    rw [hx]
    exact ⟨rfl, rfl, rfl⟩
  · exact ⟨rfl, rfl, rfl⟩

theorem repairDone_applied {s : State} {hf : HalfField} {r : TestResult} (hst : (s.test hf.val).st = .running) (hr : (s.test hf.val).repair = true)
    (hd : ¬ RepairDark s hf.val r) : Nexts (.repairDone hf r) s (fun t => RunEnds s t hf.val (repairBad r) ∧
        Tab.get 0 t.ident hf.val ≠ Tab.get 0 s.ident hf.val ∧ (∀ j, j ≠ hf.val → Tab.get 0 t.ident j = Tab.get 0 s.ident j) ∧
        (∀ pl, pl ∈ t.lostRouters ↔ pl ∈ s.lostRouters ∧ halfOfPlace pl ≠ hf.val)) := by
  obtain ⟨n, hn⟩ := repairDone_closed hst hr hd
  obtain ⟨hident, hlost, hregs⟩ := repairHeld_keeps s hf.val r (repairBad r)
  have hruns : RunsStand s (repairHeld s hf.val r (repairBad r)) := fun off h1 h2 => (repairMapped_runs s hf.val r off h1 h2).trans (.of_regs hregs)
  have hform := runClosed_form (repairHeld s hf.val r (repairBad r)) hf.val n (repairBad r)
  have hi : (runClosed (repairHeld s hf.val r (repairBad r)) hf.val n (repairBad r)).ident = (repairMapped s hf.val r).ident := by rw [hform]; exact hident
  have hl : (runClosed (repairHeld s hf.val r (repairBad r)) hf.val n (repairBad r)).lostRouters = s.lostRouters.filter (fun pl => halfOfPlace pl != hf.val) := by
    rw [hform, hlost, repairMapped_form]
  refine ⟨_, congrArg Host.Outcome.next hn, runClosed_ends hruns .., ?_, ?_, ?_⟩
  · rw [hi]
    exact (repairMapped_ident s hf.val r).1
  · rw [hi]
    exact (repairMapped_ident s hf.val r).2
  · rw [hl]
    simp [List.mem_filter]

theorem repairBad_none {r : TestResult} (h1 : neighbourFinds r.reports = []) (h2 : r.findings = []) : repairBad r = false := by
  rw [repairBad, h1, h2]
  rfl

/-- A repair that passes where no region is brought back. -/
theorem repairDone_passes {s : State} (hg : s.gridRows ≤ 1080) {hf : HalfField} {r : TestResult} (hst : (s.test hf.val).st = .running)
    (hr : (s.test hf.val).repair = true) (hd : ¬ RepairDark s hf.val r) (hb : repairBad r = false) (hl : s.lc ≠ .manufacture ∧ s.lc ≠ .service) :
    Nexts (.repairDone hf r) s (fun t => t.incarnation = s.incarnation ∧ Fresh s t [hf.val] ∧ ∀ d ∈ s.defects, d.pending = false → d ∈ t.defects) := by
  obtain ⟨n, hn⟩ := repairDone_closed hst hr hd
  rw [hb, repairHeld_plain (.inr hl)] at hn
  have hform := runClosed_form (repairMapped s hf.val r) hf.val n false
  have hmap := repairMapped_form s hf.val r
  have hrows : (repairMapped s hf.val r).gridRows ≤ 1080 := by rw [hmap]; exact hg
  have hfresh := runClosed_cores hrows hf.val n false
  refine ⟨_, congrArg Host.Outcome.next hn, by rw [hform, hmap], fun d hd hst => ?_, fun d hd hp => ?_⟩
  · refine hfresh d ?_ ?_ <;> rw [hmap]
    · exact hd
    · exact hst
  · rw [hform]
    exact repairMapped_mem hd hp

/-- A repair that passes in MANUFACTURE or SERVICE. -/
theorem repairDone_heals {s : State} (hg : s.gridRows ≤ 1080) {hf : HalfField} {r : TestResult} (hst : (s.test hf.val).st = .running)
    (hr : (s.test hf.val).repair = true) (hd : ¬ RepairDark s hf.val r) (hb : repairBad r = false) (hl : s.lc = .manufacture ∨ s.lc = .service) :
    Nexts (.repairDone hf r) s (fun t => t.incarnation = s.incarnation + 1 ∧ (t.region hf.val).suspect = false ∧
          (t.region hf.val).excl = [] ∧ ((s.region hf.val).st = .dead → (t.region hf.val).st = .on) ∧ (∀ d : CoreId, halfOfKey s (coreKey d) = hf.val → t.core d = {}) ∧
          ∀ d ∈ t.defects, (d.kind = 7 ∨ d.kind = 8 ∨ d.kind = 9) → fld d.loc 7 0 ≠ hf.val) := by
  obtain ⟨n, hn⟩ := repairDone_closed hst hr hd
  rw [hb, repairHeld_life hl] at hn
  have hmap := repairMapped_form s hf.val r
  have hregion : (repairMapped s hf.val r).region hf.val = s.region hf.val := by rw [hmap]; rfl
  obtain ⟨⟨x, hlife⟩, hsus, hexcl, hup⟩ := repairLife_spec (repairMapped s hf.val r) hf.val
  rw [hregion] at hup
  have hform := runClosed_form (repairLife (repairMapped s hf.val r) hf.val) hf.val n false
  have hreg := runClosed_region (repairLife (repairMapped s hf.val r) hf.val) hf.val n false
  have hrows : (repairLife (repairMapped s hf.val r) hf.val).gridRows ≤ 1080 := by rw [hlife, hmap]; exact hg
  have hhalf (k : Nat) : halfOfKey (repairLife (repairMapped s hf.val r) hf.val) k = halfOfKey s k := by rw [hlife, hmap]; rfl
  have hfresh := runClosed_cores hrows hf.val n false
  refine ⟨_, congrArg Host.Outcome.next hn, by rw [hform, hlife, hmap], by rw [hreg]; exact hsus, by rw [hreg]; exact hexcl, fun hdead => ?_, fun d hd => ?_, fun d hd hk => ?_⟩
  · rw [hreg]
    exact hup.trans (if_pos hdead)
  · refine hfresh d ?_ ?_ <;> rw [hhalf, hd]
    · exact List.elem_cons_self
    · rw [hup]
      split
      · exact fun h => nomatch h
      · assumption
  · rw [hform, hlife] at hd
    obtain ⟨-, hkeep⟩ := List.mem_filter.1 hd
    intro hloc
    rcases hk with hk | hk | hk <;> simp [hk, hloc] at hkeep

end Sys2Proof.Machine
end

section
/-! PROOFS. Tests of units; the runs of tests (O46). -/

namespace Sys2Proof.Machine

open Sys2Proof.Claims

/-! ## Tests of units -/

/-- The map after the test of a unit (R418). -/
def unitMapped (s : State) (u : Nat) (ok : Bool) : State := if ok then dropRecords s [0xA] u else recordDefect s 0xA 1 0 (BitVec.ofNat 32 u)

/-- The standing of a unit after its test. -/
def unitJudged (s : State) (u : Nat) (ok : Bool) : State :=
  if u < 192 then
    { s with tiers := { s.tiers with failed := if ok then s.tiers.failed.filter (· != u - 168) else s.tiers.failed.filter (· != u - 168) ++ [u - 168] } }
  else if u < 208 then setCtl s (u - 192) { ctl s (u - 192) with failed := !ok }
  else s.setPort (u - 208) { s.port (u - 208) with bad := !ok }

theorem unitOutcome_eq (s : State) (u : Nat) (ok : Bool) : unitOutcome s u ok = unitJudged (unitMapped s u ok) u ok := rfl

theorem unitJudged_form (s : State) (u : Nat) (ok : Bool) : unitJudged s u ok =
    { s with tiers := (unitJudged s u ok).tiers, wst := (unitJudged s u ok).wst, ports := (unitJudged s u ok).ports } := by
  unfold unitJudged
  split
  · rfl
  split <;> rfl

theorem failed_contains (l : List Nat) (n : Nat) (ok : Bool) :
    (if ok then l.filter (· != n) else l.filter (· != n) ++ [n]).contains n = !ok := by
  cases ok <;> simp

theorem unitJudged_spec (s : State) (u : Nat) (ok : Bool) : let t := unitJudged s u ok
    (u < 192 → t.tiers.failed.contains (u - 168) = !ok) ∧ (192 ≤ u → u < 208 → (ctl t (u - 192)).failed = !ok) ∧
      (208 ≤ u → (t.port (u - 208)).bad = !ok) := by
  refine ⟨fun h => ?_, fun h1 h2 => ?_, fun h => ?_⟩
  · simp only [unitJudged, if_pos h]
    exact failed_contains ..
  · simp only [unitJudged, if_neg (Nat.not_lt.2 h1), if_pos h2]
    exact congrArg Ctl.failed (Tab.get_put_same ..)
  · simp only [unitJudged, if_neg (show ¬ u < 192 by omega), if_neg (Nat.not_lt.2 h)]
    exact congrArg PortS.bad (port_setPort_same ..)

theorem unitMapped_form (s : State) (u : Nat) (ok : Bool) : let t := unitMapped s u ok
    t = { s with defects := t.defects, goodRows := t.goodRows, regs := t.regs } := by
  unfold unitMapped
  cases ok
  · exact (recordDefect_recorded s 0xA 1 0 _).form
  · rfl

theorem unitMapped_drops (s : State) (u : Nat) : ∀ d ∈ (unitMapped s u true).defects, d.kind = 0xA → fld d.loc 7 0 ≠ u := by
  intro d hd hk hu
  obtain ⟨-, hkeep⟩ := List.mem_filter.1 (show d ∈ s.defects.filter (fun d => !([0xA].contains d.kind && fld d.loc 7 0 == u)) from hd)
  simp [hk, hu] at hkeep

theorem unitMapped_adds {s : State} (u : Nat) (h : s.defects.length < 65535) :
    ∃ d ∈ (unitMapped s u false).defects, d.kind = 0xA ∧ d.loc = BitVec.ofNat 32 u := by
  obtain ⟨d, hd, hk, -, hl⟩ := recordDefect_holds 0xA 1 0 (BitVec.ofNat 32 u) h
  exact ⟨d, hd, hk, hl⟩

/-- A unit whose test ends: its outcome, its record and its standing (R417, R418). -/
theorem unitTestDone_runs (s : State) (b : BitVec 8) (ok : Bool) (h : 168 ≤ b.toNat ∧ b.toNat < 216 ∧ (s.test b.toNat).st = .running) :
    Nexts (.unitTestDone b ok) s (fun t => (t.test b.toNat).st = (if ok then .pass else .fail) ∧ (regGet t 0 0 0xB00014).getLsbD 30 = true ∧
        t.cores = s.cores ∧ (ok = true → ∀ d ∈ t.defects, d.kind = 0xA → fld d.loc 7 0 ≠ b.toNat) ∧
        (ok = false → s.defects.length < 65535 → ∃ d ∈ t.defects, d.kind = 0xA ∧ d.loc = BitVec.ofNat 32 b.toNat) ∧
        (b.toNat < 192 → (t.tiers.failed.contains (b.toNat - 168) = !ok)) ∧ (192 ≤ b.toNat → b.toNat < 208 → (ctl t (b.toNat - 192)).failed = !ok) ∧
        (208 ≤ b.toNat → (t.port (b.toNat - 208)).bad = !ok)) := by
  obtain ⟨hstack, hctl, hport⟩ := unitJudged_spec (unitMapped s b.toNat ok) b.toNat ok
  have hform := unitJudged_form (unitMapped s b.toNat ok) b.toNat ok
  have hdef : (unitJudged (unitMapped s b.toNat ok) b.toNat ok).defects = (unitMapped s b.toNat ok).defects := by rw [hform]
  have hcores : (unitJudged (unitMapped s b.toNat ok) b.toNat ok).cores = s.cores := by rw [hform, unitMapped_form]
  have he : exec (.unitTestDone b ok) s = .next (testEnd (unitOutcome s b.toNat ok) b.toNat (if ok then .pass else .fail)
      ((unitOutcome s b.toNat ok).defects.length - s.defects.length)) := if_pos h
  rw [unitOutcome_eq] at he
  refine ⟨_, he, congrArg TestU.st (testEnd_test ..), testEnd_done .., ?_⟩
  rw [testEnd_form]
  refine ⟨hcores, fun hok => ?_, fun hok hlen => ?_, hstack, hctl, hport⟩
  · subst hok
    exact hdef ▸ unitMapped_drops s b.toNat
  · subst hok
    exact hdef ▸ unitMapped_adds b.toNat hlen

/-- Settles O46: the runs by `runClosed`, the repairs by `repairDone_dark`, `repairDone_applied` and what a pass adds, the units by `unitTestDone_runs`. -/
theorem testRuns : Obligations.TestRuns := by
  intro s hf hg
  refine ⟨bistRunStart_spec s hf, bistSliceDone_spec s hf, fun r => ⟨fun h => congrArg Host.Outcome.next (if_pos h), bistRunDone_spec hg hf r,
    fun h => congrArg Host.Outcome.next (if_pos h), repairDone_dark, repairDone_applied, fun hst hr hd h1 h2 => ⟨?_, ?_⟩⟩, fun b ok => ⟨fun h => if_neg h, unitTestDone_runs s b ok⟩⟩
  · exact repairDone_passes hg hst hr hd (repairBad_none h1 h2)
  · exact repairDone_heals hg hst hr hd (repairBad_none h1 h2)

end Sys2Proof.Machine
end

section
/-! PROOFS. A partition reset begins; the commands of tests (O45). -/

namespace Sys2Proof.Machine

open Sys2Proof.Claims

/-! ## Listed cores stay listed -/

/-- Every core that the table lists in s it lists in t. -/
def KeysStay (s t : State) : Prop := ∀ k, k ∈ s.cores.map (·.1) → k ∈ t.cores.map (·.1)

theorem KeysStay.trans {s t u : State} (h : KeysStay s t) (g : KeysStay t u) : KeysStay s u := fun k hk => g k (h k hk)

theorem KeysStay.foldl {α : Type} {f : State → α → State} (hf : ∀ s a, KeysStay s (f s a)) (l : List α) (s : State) : KeysStay s (l.foldl f s) := by
  induction l generalizing s with
  | nil => exact fun _ => id
  | cons a l ih => exact (hf s a).trans (ih _)

theorem Tab.mem_keys_iff {α : Type} (t : Tab α) (k : Nat) : k ∈ t.map (·.1) ↔ Tab.find t k ≠ none := by
  induction t with
  | nil => simp [Tab.find]
  | cons e t ih =>
    obtain ⟨i, a⟩ := e
    rw [List.map_cons, List.mem_cons, ih]
    by_cases h : i = k
    · simp [Tab.find, h]
    · simp [Tab.find, h, Ne.symm h]

theorem KeysStay.putCore (s : State) (k : Nat) (c : Core) : KeysStay s { s with cores := Tab.put s.cores k c } := by
  intro j hj
  rw [Tab.mem_keys_iff] at hj ⊢
  rw [Tab.find_put_eq]
  split
  · simp
  · exact hj

theorem endArrivals_keys (s : State) (l : Nat) (status : Word) (cs : List CoreId) : KeysStay s (endArrivals s l status cs) :=
  KeysStay.foldl (fun s c => .putCore s (coreKey c) _) cs s

theorem laneApply_keys (s : State) (n : Nat) : KeysStay s (laneApply s n) :=
  KeysStay.trans (t := s.setLane n { s.lane n with maskF := (s.lane n).mask, ctrlF := (s.lane n).ctrl }) (fun _ => id)
    (KeysStay.foldl (f := enForced (laneIndex s n)) (fun s k => .putCore s k _) _ _)

theorem laneAbandon_keys (s : State) (n : Nat) : KeysStay s (laneAbandon s n) := by
  unfold laneAbandon
  dsimp only
  split
  · refine (endArrivals_keys s (laneIndex s n) 0 (laneOutstanding s n)).trans ?_
    exact KeysStay.trans (t := (endArrivals s (laneIndex s n) 0 (laneOutstanding s n)).setLane n _) (fun _ => id) (laneApply_keys _ n)
  · exact fun _ => id

/-! ## The scene of a reset: partitions and the states of cores -/

@[simp] theorem laneAbandon_scene (s : State) (n : Nat) : (laneAbandon s n).scene = s.scene := by
  simp [laneAbandon, State.scene_ite]

theorem QueueWork.scene {s t : State} (h : QueueWork s t) : t.scene = s.scene := by
  unfold QueueWork at h
  rw [h]
  rfl

theorem StrikesEnd.scene {s t : State} {f : Nat → Strike → Bool} {code : Nat} (h : StrikesEnd s t f code) : t.scene = s.scene := by
  rw [h.form]
  rfl

theorem streamIdle_scene (s : State) (k : Nat) : (streamIdle s k).scene = s.scene := rfl

/-- The chains of partition p halted, or IDLE where none of their strikes is in progress. -/
def chainsHalted (s : State) (p : Nat) : State :=
  { s with chains := s.chains.map (fun e =>
      if e.1 / 512 = p ∧ e.2.st = .running then (e.1, { e.2 with st := if e.2.prog.isEmpty then .idle else .halted }) else e) }

/-- The beginning of a reset: its barriers abandoned, the partition in its state. -/
def resetMarked (s : State) (p : Nat) (st : PartSt) (b : Option (Fin 8)) : State :=
  let s := s.setPart p { s.part p with st := st, reinitBy := b }
  (s.part p).lanes.foldl laneAbandon s

/-- A reset with its listed cores fenced. -/
def resetFenced (s : State) (p : Nat) : State := fenceCores s p EXT_FENCE ((listedKeys s p).map keyCore)

/-- A reset with its fabric, streams and strikes cleared. -/
def resetCleared (s : State) (p : Nat) : State :=
  let s := clearSlices (clearTracks s p) (s.part p).fields
  let s := ((s.streams.filter (fun e => streamIn s p e.1)).map (·.1)).foldl streamIdle s
  chainsHalted (abortStrikes s (fun k _ => k / 512 == p) 8) p

/-- A reset with the queues of its partition disabled, but for that of a REINIT. -/
def resetQueues (s : State) (p : Nat) (b : Option (Fin 8)) : State :=
  clearChimes (((List.range 8).filter (fun i => b.map (·.val) != some i)).foldl (fun s i => stopQueue s p i) s) p

theorem beginReset_eq (s : State) (p : Nat) (st : PartSt) (b : Option (Fin 8)) :
    beginReset s p st b = clearLanes (resetQueues (resetCleared (resetFenced (resetMarked s p st b) p) p) p b) p := rfl

theorem resetMarked_scene (s : State) (p : Nat) (st : PartSt) (b : Option (Fin 8)) :
    (resetMarked s p st b).scene = (s.setPart p { s.part p with st := st, reinitBy := b }).scene := State.scene_foldl _ laneAbandon_scene _ _

theorem resetCleared_scene (s : State) (p : Nat) : (resetCleared s p).scene = s.scene := by
  unfold resetCleared
  dsimp only
  generalize hu : clearSlices (clearTracks s p) (s.part p).fields = u
  have huscene : u.scene = s.scene := by rw [← hu]; rfl
  generalize (u.streams.filter (fun e => streamIn u p e.1)).map (·.1) = ks
  have hk : (ks.foldl streamIdle u).scene = u.scene := State.scene_foldl _ streamIdle_scene _ _
  generalize ks.foldl streamIdle u = v at hk ⊢
  have ha := (abortStrikes_end v (fun k _ => k / 512 == p) 8).scene
  exact (show (chainsHalted (abortStrikes v (fun k _ => k / 512 == p) 8) p).scene = (abortStrikes v (fun k _ => k / 512 == p) 8).scene from rfl).trans
    (ha.trans (hk.trans huscene))

theorem resetQueues_scene (s : State) (p : Nat) (b : Option (Fin 8)) : (resetQueues s p b).scene = s.scene := by
  unfold resetQueues
  generalize (List.range 8).filter (fun i => b.map (·.val) != some i) = l
  have h := (QueueWork.foldl (f := fun s i => stopQueue s p i) (fun s i => stopQueue_queueWork s p i) l s).scene
  generalize l.foldl (fun s i => stopQueue s p i) s = u at h ⊢
  exact h

/-- A partition whose lanes have returned to reset. -/
def laneTimerReset (s : State) (p : Nat) : State := s.setPart p { s.part p with laneTimeout := 1000 }

theorem clearLanes_scene (s : State) (p : Nat) : (clearLanes s p).scene = (laneTimerReset s p).scene := by
  unfold clearLanes
  dsimp only
  rw [regSet_scene, regSet_scene]
  have hlanes : ∀ (l m : List Nat) (f : State → Nat → State), (∀ u n, (f u n).scene = u.scene) →
      (m.foldl f (l.foldl laneAbandon s)).scene = s.scene := by
    intro l m f hf
    rw [State.scene_foldl f hf, State.scene_foldl _ laneAbandon_scene]
  have h := hlanes (s.part p).lanes (s.part p).lanes (fun s n => s.setLane n { owner := p, st := if (s.lane n).st = .failed then .failed else .idle })
    (fun u n => setLane_scene u n _)
  generalize (s.part p).lanes.foldl (fun s n => s.setLane n { owner := p, st := if (s.lane n).st = .failed then .failed else .idle })
    ((s.part p).lanes.foldl laneAbandon s) = u at h ⊢
  have hset (v : State) (hv : v.scene = s.scene) : (laneTimerReset v p).scene = (laneTimerReset s p).scene := by
    simp only [State.scene, State.ground, Prod.mk.injEq] at hv ⊢
    obtain ⟨hm, hrows, hret, hparts, hrest⟩ := hv
    exact ⟨hm, hrows, hret, by simp only [laneTimerReset, State.setPart, State.part, hparts], hrest⟩
  exact hset u h

theorem parts_of_scene {s t : State} (h : t.scene = s.scene) : t.parts = s.parts := congrArg (·.2.2.2.1) h

theorem part_setPart (s : State) (p q : Nat) (x : Part) : (s.setPart p x).part q = if q = p then x else s.part q := Tab.get_put ..

/-- A partition as a reset or a destruction that begins leaves it. -/
def partResetting (x : Part) (st : PartSt) (b : Option (Fin 8)) : Part := { x with st := st, reinitBy := b, laneTimeout := 1000 }

theorem beginReset_part (s : State) (p q : Nat) (st : PartSt) (b : Option (Fin 8)) :
    (beginReset s p st b).part q = if q = p then partResetting (s.part p) st b else s.part q := by
  have hparts (u v : State) (h : u.scene = v.scene) (k : Nat) : u.part k = v.part k := by rw [State.part, parts_of_scene h]; rfl
  have hfence : (resetFenced (resetMarked s p st b) p).parts = (resetMarked s p st b).parts := congrArg (·.2.2.1) (fenceCores_ground ..)
  have hbefore (k : Nat) : (resetQueues (resetCleared (resetFenced (resetMarked s p st b) p) p) p b).part k =
      (s.setPart p { s.part p with st := st, reinitBy := b }).part k := by
    rw [hparts _ _ (resetQueues_scene ..), hparts _ _ (resetCleared_scene ..), State.part, hfence, parts_of_scene (resetMarked_scene s p st b)]
    rfl
  rw [beginReset_eq, hparts _ _ (clearLanes_scene ..), laneTimerReset, part_setPart, hbefore, hbefore, part_setPart, if_pos rfl, part_setPart]
  split <;> rfl

theorem halfOfKey_of_scene {s t : State} (h : t.scene = s.scene) (k : Nat) : halfOfKey t k = halfOfKey s k := by
  have hr : t.retired = s.retired := congrArg (·.2.2.1) h
  rw [halfOfKey, hr]
  rfl

/-- Marking a partition leaves its listed cores listed. -/
theorem resetMarked_listed {s : State} {p k : Nat} (st : PartSt) (b : Option (Fin 8)) (h : k ∈ listedKeys s p) :
    k ∈ listedKeys (resetMarked s p st b) p := by
  have hs := resetMarked_scene s p st b
  have hset : (resetMarked s p st b).part p = { s.part p with st := st, reinitBy := b } := by
    rw [State.part, parts_of_scene hs]
    exact Tab.get_put_same ..
  have hrows : (resetMarked s p st b).gridRows = s.gridRows := congrArg (·.2.1) hs
  have hhalf : halfOfKey (resetMarked s p st b) k = halfOfKey s k := halfOfKey_of_scene hs k
  have hkeys : KeysStay (s.setPart p { s.part p with st := st, reinitBy := b }) (resetMarked s p st b) :=
    KeysStay.foldl (f := laneAbandon) laneAbandon_keys _ _
  obtain ⟨hmem, hin⟩ := List.mem_filter.1 h
  refine List.mem_filter.2 ⟨hkeys k hmem, ?_⟩
  rw [inGrid, hrows, hset, fieldOfKey, hhalf]
  exact hin

/-- The listed cores of a partition stand FENCED when its reset has begun (R360). -/
theorem beginReset_fenced {s : State} {p : Nat} (st : PartSt) (b : Option (Fin 8)) {d : CoreId} (h : coreKey d ∈ listedKeys s p) :
    ((beginReset s p st b).core d).st = .fenced := by
  have hin : d ∈ (listedKeys (resetMarked s p st b) p).map keyCore := List.mem_map.2 ⟨_, resetMarked_listed st b h, keyCore_coreKey d⟩
  have hf : (resetFenced (resetMarked s p st b) p).modes d = .fenced := (fenceCores_modes ..).trans (if_pos hin)
  have hmodes : (beginReset s p st b).modes = (resetFenced (resetMarked s p st b) p).modes := by
    have hq := (resetQueues_scene (resetCleared (resetFenced (resetMarked s p st b) p) p) p b).trans (resetCleared_scene ..)
    rw [beginReset_eq, State.modes_of_scene (clearLanes_scene ..), ← State.modes_of_scene hq]
    rfl
  exact (congrFun hmodes d).trans hf

/-! ## Test commands -/

theorem testRefused_of {i : Instr} {s : State} (h : exec i s = .next (testRefuse s)) : TestRefused i s := by
  refine ⟨_, h, rfl, ?_, ?_⟩
  · rw [testRefuse, regOr, regGet_regSet_same]
    exact getLsbD_or_bits _ (by omega) (by omega) (by omega) (by omega)
  · exact regGet_regSet_ne s 0 0 0 0 _ (by omega) (by omega) (by omega)

/-- Unit u alone has a new test. -/
theorem testSet {i : Instr} {s : State} {u : Nat} {x : TestU} (h : exec i s = .next (s.setTest u x)) :
    Nexts i s (fun t => t = { s with tests := t.tests } ∧ t.test u = x ∧ ∀ j, j ≠ u → t.test j = s.test j) :=
  ⟨_, h, rfl, Tab.get_put_same .., fun _ hj => test_setTest_other s x hj⟩

theorem underTest_iff (s : State) (u : Nat) : underTest s u = true ↔ (s.test u).st = .queued ∨ (s.test u).st = .running := by simp [underTest]

theorem bistRefused_iff (s : State) (u : Nat) (l : Bool) : bistRefused s u l = true ↔
    167 < u ∨ s.lc = .retired ∨ ((s.test u).st = .queued ∨ (s.test u).st = .running) ∨ (s.region u).st = .dead ∨
      (partOfField s (u / 2) ≠ 0 ∧ s.lc = .deployed) ∨ (l = true ∧ loadedAfterReset s u = true) := by
  have hlc : s.lc ≠ .retired → (bistAssigned s = false ↔ s.lc = .deployed) := by
    intro h
    cases hl : s.lc <;> simp_all [bistAssigned]
  by_cases hr : s.lc = .retired
  · simp [bistRefused, hr]
  · simp [bistRefused, hr, underTest_iff, hlc hr, or_assoc]

theorem bist_spec (s : State) (b : BitVec 8) (l : Bool) : let u := b.toNat
    let owner := partOfField s (u / 2)
    let no := 167 < u ∨ s.lc = .retired ∨ ((s.test u).st = .queued ∨ (s.test u).st = .running) ∨ (s.region u).st = .dead ∨ (owner ≠ 0 ∧ s.lc = .deployed) ∨
      (l = true ∧ loadedAfterReset s u = true)
    (no → TestRefused (.bist b l) s) ∧
    (¬ no → owner = 0 ∨ (s.part owner).st ≠ .live → Nexts (.bist b l) s (fun t => t = { s with tests := t.tests } ∧ t.test u = { st := .queued, links := l } ∧
      ∀ j, j ≠ u → t.test j = s.test j)) ∧
    (¬ no → owner ≠ 0 → (s.part owner).st = .live → Nexts (.bist b l) s (fun t => (t.part owner).st = .resetting ∧
        (t.part owner).fields = (s.part owner).fields ∧ t.test u = { st := .queued, links := l } ∧
        ∀ d, coreKey d ∈ listedKeys s owner → (t.core d).st = .fenced)) := by
  intro u owner no
  have hno : bistRefused s u l = true ↔ no := bistRefused_iff s u l
  have hgo (h : ¬ no) (v : State) (hv : (if owner ≠ 0 ∧ (s.part owner).st = .live then beginReset s owner .resetting none else s) = v) :
      exec (.bist b l) s = .next (v.setTest u { st := .queued, links := l }) := by
    rw [← hv]
    exact congrArg Host.Outcome.next (if_neg (mt hno.1 h))
  refine ⟨fun h => testRefused_of (congrArg Host.Outcome.next (if_pos (hno.2 h))), fun h hfree => testSet (hgo h s (if_neg fun hh => ?_)), fun h h1 h2 => ?_⟩
  · exact hfree.elim hh.1 (fun hn => hn hh.2)
  · have hp := beginReset_part s owner owner .resetting none
    rw [if_pos rfl] at hp
    have hfence (d : CoreId) (hd : coreKey d ∈ listedKeys s owner) := beginReset_fenced (s := s) .resetting none hd
    have he := hgo h _ (if_pos ⟨h1, h2⟩)
    generalize beginReset s owner .resetting none = v at hp hfence he
    exact ⟨_, he, (congrArg Part.st hp :), (congrArg Part.fields hp :), Tab.get_put_same .., hfence⟩

theorem repairRefused_iff (s : State) (u : Nat) :
    (167 < u ∨ s.lc = .retired ∨ underTest s u = true ∨ partOfField s (u / 2) ≠ 0 ∨ s.transit.any (fun g => g.field == u / 2) = true ∨
      ((s.region u).st = .dead ∧ lifeRepairs s = false)) ↔
    (167 < u ∨ s.lc = .retired ∨ ((s.test u).st = .queued ∨ (s.test u).st = .running) ∨ partOfField s (u / 2) ≠ 0 ∨ (∃ g ∈ s.transit, g.field = u / 2) ∨
      ((s.region u).st = .dead ∧ s.lc ≠ .manufacture ∧ s.lc ≠ .service)) := by
  simp [underTest_iff, lifeRepairs, List.any_eq_true]

theorem unitsBusy_iff (s : State) (lo n : Nat) : unitsBusy s lo n = false ↔ ∀ j, j < n → (s.test (lo + j)).st ≠ .running := by
  simp [unitsBusy]

theorem unitReady_iff (s : State) (u : Nat) : unitReady s u = true ↔
    (168 ≤ u ∧ u < 192 ∧ stackState s (u - 168) = 2 ∧ ∀ j, j < 24 → (s.test (168 + j)).st ≠ .running) ∨
    (192 ≤ u ∧ u < 208 ∧ (ctl s (u - 192)).st = 1 ∧ ∀ j, j < 16 → (s.test (192 + j)).st ≠ .running) ∨
    (208 ≤ u ∧ u < 216 ∧ (s.port (u - 208)).st = .offline ∧ (s.test u).st ≠ .running) := by
  rw [← unitsBusy_iff, ← unitsBusy_iff]
  unfold unitReady
  split
  · next h => exact ⟨Bool.noConfusion, by rintro (⟨h1, -⟩ | ⟨h1, -⟩ | ⟨h1, -⟩) <;> omega⟩
  split
  · next h1 h2 =>
    rw [Bool.and_eq_true, beq_iff_eq, Bool.not_eq_true']
    refine ⟨fun h => .inl ⟨by omega, h2, h⟩, ?_⟩
    rintro (⟨-, -, h⟩ | ⟨h, -⟩ | ⟨h, -⟩)
    · exact h
    · omega
    · omega
  split
  · next h1 h2 h3 =>
    rw [Bool.and_eq_true, beq_iff_eq, Bool.not_eq_true']
    refine ⟨fun h => .inr (.inl ⟨by omega, h3, h⟩), ?_⟩
    rintro (⟨-, h, -⟩ | ⟨-, -, h⟩ | ⟨h, -⟩)
    · omega
    · exact h
    · omega
  split
  · next h1 h2 h3 h4 =>
    rw [Bool.and_eq_true, beq_iff_eq, bne_iff_ne]
    refine ⟨fun h => .inr (.inr ⟨by omega, h4, h⟩), ?_⟩
    rintro (⟨-, h, -⟩ | ⟨-, h, -⟩ | ⟨-, -, h⟩)
    · omega
    · omega
    · exact h
  · next h1 h2 h3 h4 => exact ⟨Bool.noConfusion, by rintro (⟨-, h, -⟩ | ⟨-, h, -⟩ | ⟨-, h, -⟩) <;> omega⟩

theorem abortTest_refused {s : State} {u : Nat} (h : (s.test u).repair = true ∨ ¬ ((s.test u).st = .queued ∨ (s.test u).st = .running)) :
    abortTest s u = testRefuse s := if_pos (h.imp_right not_or.1)

/-- A test aborted, its half-field not yet handed over. -/
def testIdled (s : State) (u : Nat) : State := s.setTest u { s.test u with st := .idle, slice := false }

theorem abortTest_eq {s : State} {u : Nat} (hr : (s.test u).repair = false) (hb : (s.test u).st = .queued ∨ (s.test u).st = .running) :
    abortTest s u = if u < 168 then reinitHalf (testIdled s u) u else testIdled s u := by
  refine if_neg ?_
  rintro (h | h)
  · rw [hr] at h
    cases h
  · exact hb.elim h.1 h.2

theorem abort_half {s : State} (b : BitVec 8) (hr : (s.test b.toNat).repair = false) (hb : (s.test b.toNat).st = .queued ∨ (s.test b.toNat).st = .running)
    (hu : b.toNat < 168) (hg : s.gridRows ≤ 1080) : Nexts (.testAbort b) s (fun t => t.test b.toNat = { s.test b.toNat with st := .idle, slice := false } ∧
      t.defects = s.defects ∧ Fresh s t [b.toNat] ∧ t.parts = s.parts ∧ (t.region b.toNat).epoch = (s.region b.toNat).epoch + 1 ∧
      (t.region b.toNat).copy = (s.region b.toNat).epoch + 1) := by
  have hform := reinitHalf_form (testIdled s b.toNat) b.toNat
  have hreg := reinitHalf_region (testIdled s b.toNat) b.toNat b.toNat
  rw [if_pos rfl] at hreg
  refine ⟨_, congrArg Host.Outcome.next ((abortTest_eq hr hb).trans (if_pos hu)), ?_, by rw [hform]; rfl, ?_, by rw [hform]; rfl, by rw [hreg]; rfl, by rw [hreg]; rfl⟩
  · rw [hform]
    exact Tab.get_put_same ..
  · exact fresh_reinitHalf (s := testIdled s b.toNat) hg b.toNat

/-- Settles O45: BIST by `bist_spec`, a unit's test by `unitReady_iff`, an ABORT by `abort_half`. -/
theorem testCommands : Obligations.TestCommands := by
  intro s b u x busy owner only
  refine ⟨bist_spec s b, ⟨fun h => ?_, fun h => ?_⟩, ⟨fun h => ?_, fun h => ?_⟩, fun h => ?_, fun hr hb hu => ?_, fun hr hb hu hg => abort_half b hr hb hu hg⟩
  · exact testRefused_of (congrArg Host.Outcome.next (if_pos ((repairRefused_iff s u).2 h)))
  · exact testSet (congrArg Host.Outcome.next (if_neg (mt (repairRefused_iff s u).1 h)))
  · exact testRefused_of (congrArg Host.Outcome.next (if_neg (mt (unitReady_iff s u).1 h)))
  · exact testSet (congrArg Host.Outcome.next (if_pos ((unitReady_iff s u).2 h)))
  · exact testRefused_of (congrArg Host.Outcome.next (abortTest_refused h))
  · exact testSet (congrArg Host.Outcome.next ((abortTest_eq hr hb).trans (if_neg (Nat.not_lt.2 hu))))

end Sys2Proof.Machine
end

section
/-! PROOFS. The power-up test: records that stay, regions that come up. -/

namespace Sys2Proof.Machine

open Sys2Proof.Claims

/-! ## What the steps of the power-up test may touch -/

/-- From `s` to `t` the map, the regions, the units and reports of them have changed. -/
def UpWork (s t : State) : Prop :=
  t = { s with defects := t.defects, goodRows := t.goodRows, regs := t.regs, power := t.power, draws := t.draws, rings := t.rings, recent := t.recent,
               out := t.out, tamb := t.tamb, tiers := t.tiers, wst := t.wst, ports := t.ports, streams := t.streams }

theorem UpWork.trans {s t u : State} (h : UpWork s t) (g : UpWork t u) : UpWork s u := by
  unfold UpWork at *
  rw [g, h]

theorem UpWork.foldl {α : Type} {f : State → α → State} (hf : ∀ s a, UpWork s (f s a)) (l : List α) (s : State) : UpWork s (l.foldl f s) := by
  induction l generalizing s with
  | nil => rfl
  | cons a l ih => exact (hf s a).trans (ih _)

theorem Recorded.upWork {P : DefectRec → Prop} {n : Nat} {s t : State} (h : Recorded P n s t) : UpWork s t := by
  rw [UpWork, h.form]

theorem Recorded.power {P : DefectRec → Prop} {n : Nat} {s t : State} (h : Recorded P n s t) : t.power = s.power := by rw [h.form]

theorem LogWork.upWork {s t : State} (h : LogWork s t) : UpWork s t := by
  rw [UpWork, show t = _ from h]

theorem UpWork.ident {s t : State} (h : UpWork s t) : t.ident = s.ident := by rw [show t = _ from h]

theorem UpWork.keyFault {s t : State} (h : UpWork s t) : t.sec.keyFault = s.sec.keyFault := by rw [show t = _ from h]

/-! ## Records that stay -/

/-- A record of s that is not of a unit that can pass its test, t holds too. -/
def MapGrows (s t : State) : Prop := ∀ kind unit loc, kind ≠ 0xA → HoldsRecord s.defects kind unit loc → HoldsRecord t.defects kind unit loc

theorem MapGrows.refl (s : State) : MapGrows s s := fun _ _ _ _ => id

theorem MapGrows.of_eq {s t : State} (h : t.defects = s.defects) : MapGrows s t := by
  unfold MapGrows
  rw [h]
  exact fun _ _ _ _ => id

theorem MapGrows.trans {s t u : State} (h : MapGrows s t) (g : MapGrows t u) : MapGrows s u := fun k un l hk hs => g k un l hk (h k un l hk hs)

theorem MapGrows.foldl {α : Type} {f : State → α → State} (hf : ∀ s a, MapGrows s (f s a)) (l : List α) (s : State) : MapGrows s (l.foldl f s) := by
  induction l generalizing s with
  | nil => exact .refl s
  | cons a l ih => exact (hf s a).trans (ih _)

theorem Recorded.mapGrows {P : DefectRec → Prop} {n : Nat} {s t : State} (h : Recorded P n s t) : MapGrows s t := fun _ _ _ _ => h.holds

theorem recordUp_recorded (s : State) (kind : BitVec 4) (source : BitVec 3) (unit : BitVec 8) (loc : Nat) :
    Recorded (fun _ => True) 1 s (recordUp s kind source unit loc) := writeDefect_recorded s trivial

/-- Of a merge the copy stands whole, and what was at hand stands in one of the two. -/
theorem mergeMap_holds (s : State) (copy : List DefectRec) {d : DefectRec} (h : d ∈ copy ∨ d ∈ s.defects) :
    HoldsRecord (mergeMap s copy).defects d.kind d.unit d.loc := by
  unfold mergeMap
  dsimp only
  by_cases hc : ∃ b ∈ copy, d.kind = b.kind ∧ d.unit = b.unit ∧ d.loc = b.loc
  · obtain ⟨b, hb, hk, hu, hl⟩ := hc
    exact ⟨b, List.mem_append_left _ hb, hk.symm, hu.symm, hl.symm⟩
  · have hn : d ∉ copy := fun hm => hc ⟨d, hm, rfl, rfl, rfl⟩
    refine ⟨d, List.mem_append_right _ (List.mem_filter.2 ⟨h.resolve_left hn, ?_⟩), rfl, rfl, rfl⟩
    simp only [Bool.not_eq_true', List.any_eq_false, Bool.and_eq_true, beq_iff_eq]
    exact fun b hb h => hc ⟨b, hb, h.1.1, h.1.2, h.2⟩

theorem mergeMap_grows (s : State) (copy : List DefectRec) : MapGrows s (mergeMap s copy) := by
  rintro kind unit loc - ⟨d, hd, rfl, rfl, rfl⟩
  exact mergeMap_holds s copy (.inr hd)

theorem mergeMap_upWork (s : State) (copy : List DefectRec) : UpWork s (mergeMap s copy) := rfl

/-! ## Regions at power-up -/

/-- A region that a power-up leaves ON or DEAD. -/
def RegionUp (x : PRegion) : Prop := x.st = .on ∨ x.st = .dead

theorem regionUp_up (s : State) (r : Nat) : RegionUp (regionUp s r) := by
  unfold regionUp
  dsimp only
  split
  · exact .inr rfl
  · exact .inl rfl

theorem regionUp_dead {s : State} {r : Nat} (h : s.defects.any (fun d => d.kind == 7 && fld d.loc 7 0 == r) = true) : (regionUp s r).st = .dead := by
  unfold regionUp
  dsimp only
  split
  · rfl
  · next hn =>
    obtain ⟨d, hd, hk⟩ := List.any_eq_true.1 h
    rw [Bool.and_eq_true] at hk
    exact absurd hk.1 (List.find?_eq_none.1 hn d (List.mem_filter.2 ⟨hd, hk.2⟩))

theorem region_setRegion (s : State) (r j : Nat) (x : PRegion) : (s.setRegion r x).region j = if j = r then x else s.region j := Tab.get_put ..

/-- One region comes up: DEAD by its record or by its soft start, or ON (R405). -/
def regionStarted (t : PowerUpResult) (s : State) (r : Nat) : State :=
  let s := s.setRegion r (regionUp s r)
  if (s.region r).st = .dead then s
  else if t.rampFail.any (fun h => h.val == r) then
    let (d, s) := drawNat s
    let dom : BitVec 4 := BitVec.ofNat 4 (d % 7 + 1)
    recordUp (softFailed (s.setRegion r { s.region r with st := .dead, deadDom := dom }) r dom) 7 4 (dom.zeroExtend 8) r
  else
    let s := softPoints s r
    if r < 168 then newEpoch s r else s

theorem regionsUp_eq (s : State) (t : PowerUpResult) : regionsUp s t = (List.range 208).foldl (regionStarted t) s := rfl

/-- A region whose soft start fails at power-up. -/
def regionFailed (s : State) (r : Nat) (dom : BitVec 4) : State :=
  recordUp (softFailed (s.setRegion r { s.region r with st := .dead, deadDom := dom }) r dom) 7 4 (dom.zeroExtend 8) r

theorem softFailed_logWork (s : State) (r : Nat) (dom : BitVec 4) : LogWork s (softFailed s r dom) :=
  LogWork.trans (t := cntAdd (pwrFault s 4) 0 0 0x900068 2) rfl (tambE_logWork ..)

theorem regionFailed_spec (s : State) (r : Nat) (dom : BitVec 4) : UpWork s (regionFailed s r dom) ∧ MapGrows s (regionFailed s r dom) ∧
    ∀ j, (regionFailed s r dom).region j = if j = r then { s.region r with st := .dead, deadDom := dom } else s.region j := by
  have hrec := recordUp_recorded (softFailed (s.setRegion r { s.region r with st := .dead, deadDom := dom }) r dom) 7 4 (dom.zeroExtend 8) r
  have hsoft := softFailed_logWork (s.setRegion r { s.region r with st := .dead, deadDom := dom }) r dom
  refine ⟨?_, ?_, fun j => ?_⟩
  · exact (UpWork.trans (s := s) (t := s.setRegion r { s.region r with st := .dead, deadDom := dom }) rfl hsoft.upWork).trans hrec.upWork
  · refine (MapGrows.of_eq ?_).trans hrec.mapGrows
    rw [show softFailed (s.setRegion r { s.region r with st := .dead, deadDom := dom }) r dom = _ from hsoft]
    rfl
  · have hp : (regionFailed s r dom).power = (s.setRegion r { s.region r with st := .dead, deadDom := dom }).power := by
      have h2 : (regionFailed s r dom).power = (softFailed (s.setRegion r { s.region r with st := .dead, deadDom := dom }) r dom).power := by
        rw [regionFailed, hrec.form]
      rw [h2, show softFailed (s.setRegion r { s.region r with st := .dead, deadDom := dom }) r dom = _ from hsoft]
    rw [State.region, hp]
    exact region_setRegion s r j _

/-- A region whose soft start succeeds. -/
def regionSoft (s : State) (r : Nat) : State := if r < 168 then newEpoch (softPoints s r) r else softPoints s r

theorem regionSoft_spec (s : State) (r : Nat) : UpWork s (regionSoft s r) ∧ (regionSoft s r).defects = s.defects ∧
    ((regionSoft s r).region r).st = (s.region r).st ∧ ∀ j, j ≠ r → (regionSoft s r).region j = s.region j := by
  obtain ⟨mv, hmv⟩ := softPoints_form s r
  have hsoft : UpWork s (softPoints s r) := by rw [hmv]; rfl
  have hdef : (softPoints s r).defects = s.defects := by rw [hmv]; rfl
  have hother (j : Nat) (hj : j ≠ r) : (softPoints s r).region j = s.region j := by
    rw [hmv]
    exact (region_setRegion s r j _).trans (if_neg hj)
  have hst := (softPoints_region s r).1
  unfold regionSoft
  split
  · refine ⟨hsoft.trans (u := newEpoch (softPoints s r) r) rfl, hdef, (newEpoch_st ..).trans hst, fun j hj => ?_⟩
    rw [region_newEpoch, if_neg hj, hother j hj]
  · exact ⟨hsoft, hdef, hst, hother⟩

theorem regionStarted_cases (t : PowerUpResult) (s : State) (r : Nat) : let u := s.setRegion r (regionUp s r)
    ((regionUp s r).st = .dead ∧ regionStarted t s r = u) ∨
    (t.rampFail.any (fun h => h.val == r) = true ∧ ∃ dom, regionStarted t s r = regionFailed (drawNat u).2 r dom) ∨
    (t.rampFail.any (fun h => h.val == r) = false ∧ (regionUp s r).st = .on ∧ regionStarted t s r = regionSoft u r) := by
  intro u
  have hr : u.region r = regionUp s r := (region_setRegion s r r _).trans (if_pos rfl)
  by_cases hd : (regionUp s r).st = .dead
  · refine .inl ⟨hd, if_pos ?_⟩
    rw [hr, hd]
  · have hnd : ¬ (u.region r).st = .dead := hr ▸ hd
    have hstep : regionStarted t s r = if t.rampFail.any (fun h => h.val == r) then
        regionFailed (drawNat u).2 r (BitVec.ofNat 4 ((drawNat u).1 % 7 + 1)) else regionSoft u r := if_neg hnd
    cases hf : t.rampFail.any (fun h => h.val == r)
    · rw [hf] at hstep
      exact .inr (.inr ⟨rfl, (regionUp_up s r).resolve_right hd, hstep⟩)
    · rw [hf] at hstep
      exact .inr (.inl ⟨rfl, _, hstep⟩)

/-- One region comes up: it is ON or DEAD, DEAD where its soft start fails; no other is touched, and no record is lost. -/
theorem regionStarted_spec (t : PowerUpResult) (s : State) (r : Nat) : let u := regionStarted t s r
    UpWork s u ∧ MapGrows s u ∧ RegionUp (u.region r) ∧ (t.rampFail.any (fun h => h.val == r) = true → (u.region r).st = .dead) ∧
      ∀ j, j ≠ r → u.region j = s.region j := by
  have hset (j : Nat) := region_setRegion s r j (regionUp s r)
  intro u
  obtain ⟨hd, hu⟩ | ⟨-, dom, hu⟩ | ⟨hf, hon, hu⟩ := regionStarted_cases t s r
  · have hr : u.region r = regionUp s r := by rw [show u = _ from hu, hset, if_pos rfl]
    refine ⟨by rw [show u = _ from hu]; rfl, .of_eq (by rw [show u = _ from hu]; rfl), hr ▸ .inr hd, fun _ => hr ▸ hd, fun j hj => ?_⟩
    rw [show u = _ from hu, hset, if_neg hj]
  · obtain ⟨hw, hm, hreg⟩ := regionFailed_spec (drawNat (s.setRegion r (regionUp s r))).2 r dom
    rw [← hu] at hw hm hreg
    have hr : (u.region r).st = .dead := congrArg PRegion.st ((hreg r).trans (if_pos rfl))
    refine ⟨UpWork.trans (t := (drawNat (s.setRegion r (regionUp s r))).2) rfl hw, (MapGrows.of_eq rfl).trans hm, .inr hr, fun _ => hr, fun j hj => ?_⟩
    exact (hreg j).trans ((if_neg hj).trans ((hset j).trans (if_neg hj)))
  · obtain ⟨hw, hdef, hst, hother⟩ := regionSoft_spec (s.setRegion r (regionUp s r)) r
    rw [← hu] at hw hdef hst hother
    have hr : (u.region r).st = .on := hst.trans ((congrArg PRegion.st ((hset r).trans (if_pos rfl))).trans hon)
    refine ⟨UpWork.trans (t := s.setRegion r (regionUp s r)) rfl hw, .of_eq hdef, .inl hr, fun h => ?_, fun j hj => ?_⟩
    · rw [hf] at h
      cases h
    · exact (hother j hj).trans ((hset j).trans (if_neg hj))

/-- What one step of a run establishes of its element and the steps for others leave, the whole run establishes. -/
theorem foldl_settles {α : Type} {f : State → α → State} {P : State → α → Prop} {I : State → Prop} (hI : ∀ s a, I s → I (f s a))
    (hset : ∀ s a, I s → P (f s a) a) (hkeep : ∀ s a b, I s → b ≠ a → P s b → P (f s a) b) (l : List α) :
    ∀ s, I s → ∀ b, b ∈ l ∨ P s b → P (l.foldl f s) b := by
  induction l with
  | nil => exact fun s _ b h => h.resolve_left List.not_mem_nil
  | cons a l ih =>
    intro s hs b hb
    refine ih (f s a) (hI s a hs) b ?_
    by_cases he : b = a
    · subst he
      exact .inr (hset s b hs)
    · exact (hb.imp (fun h => (List.mem_cons.1 h).resolve_left he) (hkeep s a b hs he))

/-- Regions come up: each of the 208 is ON or DEAD, those whose soft start fails DEAD. -/
theorem regionsUp_spec (s : State) (t : PowerUpResult) : UpWork s (regionsUp s t) ∧ MapGrows s (regionsUp s t) ∧
    ∀ r, r < 208 → RegionUp ((regionsUp s t).region r) ∧ (t.rampFail.any (fun h => h.val == r) = true → ((regionsUp s t).region r).st = .dead) := by
  have hone := regionStarted_spec t
  rw [regionsUp_eq]
  generalize hl : List.range 208 = l
  refine ⟨UpWork.foldl (f := regionStarted t) (fun s r => (hone s r).1) l s, MapGrows.foldl (f := regionStarted t) (fun s r => (hone s r).2.1) l s, fun r hr => ?_⟩
  refine foldl_settles (f := regionStarted t) (I := fun _ => True)
    (P := fun v j => RegionUp (v.region j) ∧ (t.rampFail.any (fun h => h.val == j) = true → (v.region j).st = .dead))
    (fun _ _ _ => trivial) (fun s a _ => ?_) (fun s a b _ hb h => ?_) l s trivial r (.inl (hl ▸ List.mem_range.2 hr))
  · obtain ⟨-, -, hup, hdead, -⟩ := hone s a
    exact ⟨hup, hdead⟩
  · obtain ⟨-, -, -, -, hother⟩ := hone s a
    rw [hother b hb]
    exact h

/-- A region that the weight store's copy records as dead. -/
def regionMapped (s : State) (r : Nat) : State :=
  if s.defects.any (fun d => d.kind == 7 && fld d.loc 7 0 == r) then s.setRegion r (regionUp s r) else s

theorem regionMapped_spec (s : State) (r : Nat) : UpWork s (regionMapped s r) ∧ (regionMapped s r).defects = s.defects ∧
    ∀ j, (regionMapped s r).region j = s.region j ∨ ((regionMapped s r).region j).st = .dead := by
  unfold regionMapped
  split
  · next h =>
    refine ⟨rfl, rfl, fun j => ?_⟩
    rw [region_setRegion]
    split
    · exact .inr (regionUp_dead h)
    · exact .inl rfl
  · exact ⟨rfl, rfl, fun _ => .inl rfl⟩

theorem regionMapped_foldl (l : List Nat) : ∀ s : State, let u := l.foldl regionMapped s
    UpWork s u ∧ u.defects = s.defects ∧ ∀ j, u.region j = s.region j ∨ (u.region j).st = .dead := by
  induction l with
  | nil => exact fun s => ⟨rfl, rfl, fun _ => .inl rfl⟩
  | cons r l ih =>
    intro s
    obtain ⟨hw, hd, hr⟩ := ih (regionMapped s r)
    obtain ⟨hw', hd', hr'⟩ := regionMapped_spec s r
    refine ⟨hw'.trans hw, hd.trans hd', fun j => ?_⟩
    rcases hr j with h | h
    · rw [List.foldl_cons, h]
      exact hr' j
    · exact .inr h

/-- Step 7's merge: a region stays as it was or is DEAD, and the copy at hand stands where its CRC holds. -/
theorem mapT3_spec (s : State) (t : PowerUpResult) (map : List DefectRec) : let u := mapT3 s t map
    UpWork s u ∧ MapGrows s u ∧ (t.t3MapOk = true → ∀ d ∈ map, HoldsRecord u.defects d.kind d.unit d.loc) ∧
      ∀ j, u.region j = s.region j ∨ (u.region j).st = .dead := by
  obtain ⟨hw, hd, hr⟩ := regionMapped_foldl (List.range 208) (mergeMap s (if t.t3MapOk then map else []))
  refine ⟨(mergeMap_upWork s _).trans hw, (mergeMap_grows s _).trans (.of_eq hd), fun hok d hm => ?_, fun j => (hr j).imp (fun h => h.trans rfl) id⟩
  have hmem : d ∈ (if t.t3MapOk then map else []) := by rw [if_pos hok]; exact hm
  have h := mergeMap_holds s (if t.t3MapOk then map else []) (.inl hmem)
  rw [← hd] at h
  exact h

theorem findsUp_spec (s : State) (t : PowerUpResult) : UpWork s (findsUp s t) ∧ MapGrows s (findsUp s t) ∧ (findsUp s t).power = s.power := by
  have hone {α : Type} (l : List α) (k : α → BitVec 4) (so : α → BitVec 3) (un : α → BitVec 8) (lo : α → Nat) (s : State) :
      Recorded (fun _ => True) (1 * l.length) s (l.foldl (fun s f => recordUp s (k f) (so f) (un f) (lo f)) s) :=
    Recorded.foldl (t := s) (fun u a _ => recordUp_recorded u (k a) (so a) (un a) (lo a)) l s rfl
  have h1 := hone (neighbourFinds t.reports) (·.1) (fun _ => 0) (fun _ => 0) (·.2.toNat) s
  have h2 := h1.trans (hone t.findings (·.kind) (fun f => findSource f.kind) (·.unit) (·.loc.toNat) _)
  exact ⟨h2.upWork, h2.mapGrows, h2.power⟩

end Sys2Proof.Machine
end

section
/-! PROOFS. The power-up test: units and the grid. -/

namespace Sys2Proof.Machine

open Sys2Proof.Claims

/-! ## Units at power-up -/

theorem unitMapped_grows (s : State) (u : Nat) (ok : Bool) : MapGrows s (unitMapped s u ok) := by
  cases ok
  · exact (recordDefect_recorded s 0xA 1 0 _).mapGrows
  · rintro kind unit loc hk ⟨d, hd, rfl, hrest⟩
    exact ⟨d, List.mem_filter.2 ⟨hd, by simp [show d.kind ≠ 10#4 from hk]⟩, rfl, hrest⟩

theorem unitJudged_stack (s : State) (u n : Nat) (ok : Bool) : stackState (unitJudged s u ok) n = stackState s n := by
  unfold unitJudged
  split
  · rfl
  split <;> rfl

theorem portSt_setPort (s : State) (k n : Nat) (x : PortS) : ((s.setPort k x).port n).st = if n = k then x.st else (s.port n).st := by
  rw [port_setPort, apply_ite PortS.st]

theorem unitJudged_port (s : State) (u n : Nat) (ok : Bool) : ((unitJudged s u ok).port n).st = (s.port n).st := by
  unfold unitJudged
  split
  · rfl
  split
  · rfl
  · rw [portSt_setPort]
    split
    · next h => rw [h]
    · rfl

/-- A unit tested: what else stands. -/
theorem unitOutcome_spec (s : State) (u : Nat) (ok : Bool) : let t := unitOutcome s u ok
    UpWork s t ∧ MapGrows s t ∧ t.power = s.power ∧ (∀ n, stackState t n = stackState s n) ∧ ∀ n, (t.port n).st = (s.port n).st := by
  intro t
  have hm := unitMapped_form s u ok
  have hj := unitJudged_form (unitMapped s u ok) u ok
  have hst := fun n => unitJudged_stack (unitMapped s u ok) u n ok
  have hpt := fun n => unitJudged_port (unitMapped s u ok) u n ok
  have hg := unitMapped_grows s u ok
  rw [show t = unitJudged (unitMapped s u ok) u ok from unitOutcome_eq s u ok]
  generalize unitMapped s u ok = v at hm hj hst hpt hg
  refine ⟨?_, hg.trans (.of_eq (by rw [hj])), by rw [hj, hm], fun n => ?_, fun n => ?_⟩
  · rw [UpWork, hj, hm]
  · rw [hst, stackState, hm]
    rfl
  · rw [hpt, State.port, hm]
    rfl

theorem loseUnits_form (s : State) (c : Nat) : loseUnits s c =
    { s with wst := (loseUnits s c).wst, streams := (loseUnits s c).streams, draws := (loseUnits s c).draws } := by
  unfold loseUnits
  dsimp only
  split <;> rfl

/-- The place of a unit in service once its test is known: its stack, its controller or its port (R418, R425). -/
def unitPlaced (ok : Bool) (s : State) (u : Nat) : State :=
  let up := ok && !s.sec.keyFault && (s.region u).st != .dead
  if u < 192 then setStack s (u - 168) (if up then 0 else 3)
  else if u < 208 then
    let c := ctl s (u - 192)
    let s' := setCtl s (u - 192) { c with st := if !up then 3 else if c.st = 0 ∨ s.incarnation = 1 then 0 else 2 }
    if !up && c.st != 3 then loseUnits s' (u - 192) else s'
  else s.setPort (u - 208) { s.port (u - 208) with st := if ok then .down else .failed }

/-- Whether a unit passes its test at power-up. -/
def unitPasses (t : PowerUpResult) (u : Nat) : Bool := !t.unitFail.contains (BitVec.ofNat 8 u)

theorem unitUp_eq (t : PowerUpResult) (s : State) (u : Nat) : unitUp t s u = unitPlaced (unitPasses t u) (unitOutcome s u (unitPasses t u)) u := rfl

theorem unitPlaced_controller (ok : Bool) (s : State) {u : Nat} (h1 : ¬ u < 192) (h2 : u < 208) :
    unitPlaced ok s u = { s with wst := (unitPlaced ok s u).wst, streams := (unitPlaced ok s u).streams, draws := (unitPlaced ok s u).draws } := by
  unfold unitPlaced
  dsimp only
  rw [if_neg h1, if_pos h2]
  split
  · rw [loseUnits_form]
    rfl
  · rfl

theorem stackState_setStack_eq (s : State) (n m st : Nat) : stackState (setStack s n st) m = if m = n then st else stackState s m := Tab.get_set ..

theorem unitPlaced_spec (ok : Bool) (s : State) (u : Nat) : let t := unitPlaced ok s u
    UpWork s t ∧ t.defects = s.defects ∧ t.power = s.power ∧
      (∀ n, stackState t n = if u < 192 ∧ n = u - 168 then (if (ok && !s.sec.keyFault && (s.region u).st != .dead) then 0 else 3) else stackState s n) ∧
      ∀ n, (t.port n).st = if 208 ≤ u ∧ n = u - 208 then (if ok then .down else .failed) else (s.port n).st := by
  intro t
  by_cases h1 : u < 192
  · have he : t = setStack s (u - 168) (if (ok && !s.sec.keyFault && (s.region u).st != .dead) then 0 else 3) := if_pos h1
    rw [he]
    refine ⟨rfl, rfl, rfl, fun n => ?_, fun n => (if_neg (fun h => absurd h.1 (by omega))).symm⟩
    rw [stackState_setStack_eq]
    simp only [h1, true_and]
  by_cases h2 : u < 208
  · have he : t = _ := unitPlaced_controller ok s h1 h2
    rw [he]
    exact ⟨rfl, rfl, rfl, fun n => (if_neg (fun h => h1 h.1)).symm, fun n => (if_neg (fun h => absurd h.1 (by omega))).symm⟩
  · have he : t = s.setPort (u - 208) { s.port (u - 208) with st := if ok then .down else .failed } := (if_neg h1).trans (if_neg h2)
    rw [he]
    refine ⟨rfl, rfl, rfl, fun n => (if_neg (fun h => h1 h.1)).symm, fun n => ?_⟩
    rw [portSt_setPort]
    simp only [Nat.le_of_not_lt h2, true_and]

/-- The state a stack has after the power-up test (R418, R425). -/
def stackUp (t : PowerUpResult) (s : State) (n : Nat) : Nat :=
  if t.unitFail.contains (BitVec.ofNat 8 (168 + n)) ∨ s.sec.keyFault = true ∨ (s.region (168 + n)).st = .dead then 3 else 0

theorem stackUp_eq (t : PowerUpResult) (s : State) (n : Nat) :
    (if (unitPasses t (168 + n) && !s.sec.keyFault && (s.region (168 + n)).st != .dead) then 0 else 3) = stackUp t s n := by
  unfold stackUp unitPasses
  cases t.unitFail.contains (BitVec.ofNat 8 (168 + n)) <;> cases s.sec.keyFault <;> cases (s.region (168 + n)).st <;> rfl

/-- One unit of the 48 at power-up: its own stack or port takes its state, every other stands. -/
theorem unitUp_spec (t : PowerUpResult) (s : State) (i : Nat) : let u := unitUp t s (168 + i)
    UpWork s u ∧ MapGrows s u ∧ u.power = s.power ∧
      (∀ n, stackState u n = if i < 24 ∧ n = i then stackUp t s n else stackState s n) ∧
      ∀ n, (u.port n).st = if 40 ≤ i ∧ n = i - 40 then (if unitPasses t (168 + i) then .down else .failed) else (s.port n).st := by
  obtain ⟨hw, hm, hp, hstack, hport⟩ := unitOutcome_spec s (168 + i) (unitPasses t (168 + i))
  obtain ⟨hw', hd', hp', hstack', hport'⟩ := unitPlaced_spec (unitPasses t (168 + i)) (unitOutcome s (168 + i) (unitPasses t (168 + i))) (168 + i)
  rw [unitUp_eq]
  generalize unitOutcome s (168 + i) (unitPasses t (168 + i)) = v at *
  have hregion : v.region (168 + i) = s.region (168 + i) := by rw [State.region, hp]; rfl
  refine ⟨hw.trans hw', hm.trans (.of_eq hd'), hp'.trans hp, fun n => ?_, fun n => ?_⟩
  · rw [hstack', hw.keyFault, hregion, stackUp_eq, hstack]
    by_cases h : i < 24 ∧ n = i
    · rw [if_pos ⟨by omega, by omega⟩, if_pos h, h.2]
    · rw [if_neg (by omega), if_neg h]
  · rw [hport', hport]
    by_cases h : 40 ≤ i ∧ n = i - 40
    · rw [if_pos ⟨by omega, by omega⟩, if_pos h]
    · rw [if_neg (by omega), if_neg h]

/-- The 48 units at power-up. -/
def unitsTested (t : PowerUpResult) (s : State) : State := (List.range 48).foldl (fun s i => unitUp t s (168 + i)) s

theorem unitsTested_spec (t : PowerUpResult) (s : State) : let u := unitsTested t s
    UpWork s u ∧ MapGrows s u ∧ u.power = s.power ∧ (∀ n, n < 24 → stackState u n = stackUp t s n) ∧
      ∀ n, n < 8 → (u.port n).st = if unitPasses t (208 + n) then .down else .failed := by
  have hone := unitUp_spec t
  have hpower : ∀ (l : List Nat) (s : State), (l.foldl (fun s i => unitUp t s (168 + i)) s).power = s.power := by
    intro l
    induction l with
    | nil => exact fun _ => rfl
    | cons i l ih =>
      intro s
      obtain ⟨-, -, hp, -⟩ := hone s i
      exact (ih _).trans hp
  have hbase (v : State) (h : v.power = s.power ∧ v.sec.keyFault = s.sec.keyFault) (i : Nat) :
      (unitUp t v (168 + i)).power = s.power ∧ (unitUp t v (168 + i)).sec.keyFault = s.sec.keyFault := by
    obtain ⟨hw, -, hp, -⟩ := hone v i
    exact ⟨hp.trans h.1, hw.keyFault.trans h.2⟩
  have hup (v : State) (h : v.power = s.power ∧ v.sec.keyFault = s.sec.keyFault) (n : Nat) : stackUp t v n = stackUp t s n := by
    have hr : v.region (168 + n) = s.region (168 + n) := by rw [State.region, h.1]; rfl
    rw [stackUp, h.2, hr]
    rfl
  unfold unitsTested
  generalize hl : List.range 48 = l
  have hmem {i : Nat} (h : i < 48) : i ∈ l := hl ▸ List.mem_range.2 h
  refine ⟨UpWork.foldl (f := fun s i => unitUp t s (168 + i)) (fun s i => (hone s i).1) l s,
    MapGrows.foldl (f := fun s i => unitUp t s (168 + i)) (fun s i => (hone s i).2.1) l s, hpower l s, fun n hn => ?_, fun n hn => ?_⟩
  · refine foldl_settles (f := fun s i => unitUp t s (168 + i)) (I := fun v => v.power = s.power ∧ v.sec.keyFault = s.sec.keyFault)
      (P := fun v i => i < 24 → stackState v i = stackUp t s i) (fun v i h => hbase v h i) (fun v i h hi => ?_) (fun v i j _ hj h hlt => ?_) l s ⟨rfl, rfl⟩ n
      (.inl (hmem (by omega))) hn
    · obtain ⟨-, -, -, hstack, -⟩ := hone v i
      exact (hstack i).trans ((if_pos ⟨hi, rfl⟩).trans (hup v h i))
    · obtain ⟨-, -, -, hstack, -⟩ := hone v i
      exact (hstack j).trans ((if_neg (fun hh => hj hh.2)).trans (h hlt))
  · have hsettled := foldl_settles (f := fun s i => unitUp t s (168 + i)) (I := fun _ => True)
      (P := fun v i => 40 ≤ i → (v.port (i - 40)).st = if unitPasses t (168 + i) then .down else .failed) (fun _ _ _ => trivial) (fun v i _ hi => ?_)
      (fun v i j _ hj h hle => ?_) l s trivial (40 + n) (.inl (hmem (by omega))) (by omega)
    · rw [Nat.add_sub_cancel_left, show 168 + (40 + n) = 208 + n by omega] at hsettled
      exact hsettled
    · obtain ⟨-, -, -, -, hport⟩ := hone v i
      exact (hport (i - 40)).trans (if_pos ⟨hi, rfl⟩)
    · obtain ⟨-, -, -, -, hport⟩ := hone v i
      exact (hport (j - 40)).trans ((if_neg (by omega)).trans (h hle))

/-! ## The grid at power-up -/

theorem newIdent_foldl (l : List Nat) : l.Nodup → ∀ s : State, let t := l.foldl newIdent s
    t = { s with ident := t.ident, draws := t.draws } ∧ (∀ h ∈ l, Tab.get 0 t.ident h ≠ Tab.get 0 s.ident h) ∧
      ∀ h, h ∉ l → Tab.get 0 t.ident h = Tab.get 0 s.ident h := by
  induction l with
  | nil => exact fun _ s => ⟨rfl, fun _ h => absurd h List.not_mem_nil, fun _ _ => rfl⟩
  | cons k l ih =>
    intro hnd s
    obtain ⟨hk, hl⟩ := List.nodup_cons.1 hnd
    obtain ⟨hform, hnew, hold⟩ := ih hl (newIdent s k)
    have hone := newIdent_ident s k
    rw [List.foldl_cons]
    refine ⟨hform, fun h hm => ?_, fun h hm => ?_⟩
    · by_cases he : h = k
      · rw [he, hold k hk]
        exact (hone k).1 rfl
      · rw [← (hone h).2 he]
        exact hnew h ((List.mem_cons.1 hm).resolve_left he)
    · obtain ⟨hne, hml⟩ := not_or.1 (mt List.mem_cons.2 hm)
      rw [hold h hml, (hone h).2 hne]

theorem halvesRecorded_recorded (s : State) (t : PowerUpResult) :
    Recorded (fun _ => True) (1 * t.unreachableHalf.length) s (halvesRecorded s t) := by
  refine Recorded.foldl (t := s) (fun u h _ => ?_) t.unreachableHalf s rfl
  split
  · exact .refl _ 1 u
  · exact recordUp_recorded ..

theorem rowsRecorded_recorded (s : State) (rows : List Nat) : Recorded (fun _ => True) (1 * rows.length) s (rowsRecorded s rows) :=
  Recorded.foldl (t := s) (fun u py _ => recordUp_recorded u 5 1 0 (py * 2048)) rows s rfl

/-- A record applied. -/
def recordApplied (d : DefectRec) : DefectRec := { d with pending := false }

theorem gridNumbered_defects (s : State) : (gridNumbered s).defects = s.defects.map recordApplied := rfl

theorem gridNumbered_grows (s : State) : MapGrows s (gridNumbered s) := by
  rintro kind unit loc - ⟨d, hd, hk⟩
  rw [gridNumbered_defects]
  exact ⟨_, List.mem_map_of_mem hd, hk⟩

theorem gridNumbered_keeps (s : State) : (gridNumbered s).ident = s.ident ∧ (gridNumbered s).power = s.power ∧ (gridNumbered s).tiers = s.tiers ∧
    (gridNumbered s).ports = s.ports ∧ (gridNumbered s).hw = s.hw ∧ (gridNumbered s).sec = s.sec := by
  simp only [gridNumbered, and_self]

/-- Every record applied, the grid numbered, the half-fields under new identities. -/
theorem gridUp_spec (s : State) (t : PowerUpResult) : let u := gridUp s t
    MapGrows s u ∧ (∀ d ∈ u.defects, d.pending = false) ∧ u.gridRows = 1080 - u.retired.length ∧ u.goodRows = u.gridRows ∧ (∀ y ∈ u.retired, y < 1080) ∧
      (∀ h, h < 168 → Tab.get 0 u.ident h ≠ Tab.get 0 s.ident h) ∧ u.power = s.power ∧ u.tiers = s.tiers ∧ u.ports = s.ports ∧ u.hw = s.hw ∧ u.sec = s.sec := by
  obtain ⟨rows, hrows⟩ := gridUp_eq s t
  have hrec := (halvesRecorded_recorded s t).trans (rowsRecorded_recorded (halvesRecorded s t) rows)
  obtain ⟨hform, hnew, -⟩ := newIdent_foldl (List.range 168) List.nodup_range (gridNumbered (rowsRecorded (halvesRecorded s t) rows))
  rw [hrows]
  generalize (List.range 168).foldl newIdent (gridNumbered (rowsRecorded (halvesRecorded s t) rows)) = v at hform hnew ⊢
  generalize rowsRecorded (halvesRecorded s t) rows = w at hrec hform hnew
  have hw : w.ident = s.ident ∧ w.power = s.power ∧ w.tiers = s.tiers ∧ w.ports = s.ports ∧ w.hw = s.hw ∧ w.sec = s.sec := by
    rw [hrec.form]
    exact ⟨rfl, rfl, rfl, rfl, rfl, rfl⟩
  have hkeep := gridNumbered_keeps w
  have hgrow := hrec.mapGrows.trans (gridNumbered_grows w)
  have hpend : ∀ d ∈ (gridNumbered w).defects, d.pending = false := by
    rw [gridNumbered_defects]
    intro d hd
    obtain ⟨e, -, rfl⟩ := List.mem_map.1 hd
    rfl
  have hnum : (gridNumbered w).gridRows = 1080 - (gridNumbered w).retired.length ∧ (gridNumbered w).goodRows = (gridNumbered w).gridRows ∧
      ∀ y ∈ (gridNumbered w).retired, y < 1080 := by
    refine ⟨by simp only [gridNumbered], by simp only [gridNumbered], fun y hy => ?_⟩
    simp only [gridNumbered] at hy
    exact List.mem_range.1 (List.mem_of_mem_filter hy)
  obtain ⟨hwi, hwp, hwt, hwo, hwh, hws⟩ := hw
  rw [hwi, hwp, hwt, hwo, hwh, hws] at hkeep
  obtain ⟨hident, hkept⟩ := hkeep
  generalize gridNumbered w = g at hform hnew hident hkept hgrow hpend hnum
  obtain ⟨hrowsn, hgood, hret⟩ := hnum
  rw [hident] at hnew
  have hids (h : Nat) (hh : h < 168) := hnew h (List.mem_range.2 hh)
  refine ⟨hgrow.trans (.of_eq (by rw [hform])), ?_, ?_, ?_, ?_, hids, ?_⟩ <;> rw [hform]
  · exact hpend
  · exact hrowsn
  · exact hgood
  · exact hret
  · exact hkept

end Sys2Proof.Machine
end

section
/-! PROOFS. The power-up test and the commands of the life cycle (O47). -/

namespace Sys2Proof.Machine

open Sys2Proof.Claims

/-! ## The power-up test -/

theorem unitsUp_eq (s : State) (u : PowerUpResult) : unitsUp s u = unitsTested u (mapT3 (findsUp (regionsUp (mapStart s u) u) u) u s.defects) := rfl

theorem mapStart_upWork (s : State) (u : PowerUpResult) : UpWork s (mapStart s u) := rfl

theorem mapStart_holds (s : State) (u : PowerUpResult) {d : DefectRec} (h : d ∈ s.baseline ∨ (u.mmcMapOk = true ∧ d ∈ s.defects)) :
    HoldsRecord (mapStart s u).defects d.kind d.unit d.loc := by
  refine mergeMap_holds { s with defects := if u.mmcMapOk then s.defects else [] } s.baseline (h.imp_right fun hm => ?_)
  change d ∈ if u.mmcMapOk then s.defects else []
  rw [if_pos hm.1]
  exact hm.2

/-- What is asked of the 208 regions after the power-up test. -/
def RegionsUp (t : State) (u : PowerUpResult) : Prop := ∀ r, r < 208 → RegionUp (t.region r) ∧ (u.rampFail.any (fun h => h.val == r) = true → (t.region r).st = .dead)

theorem RegionsUp.mapped {s t : State} {u : PowerUpResult} (h : RegionsUp s u) (ht : ∀ j, t.region j = s.region j ∨ (t.region j).st = .dead) : RegionsUp t u := by
  intro r hr
  rcases ht r with he | hd
  · rw [he]
    exact h r hr
  · exact ⟨.inr hd, fun _ => hd⟩

theorem RegionsUp.of_power {s t : State} {u : PowerUpResult} (h : RegionsUp s u) (hp : t.power = s.power) : RegionsUp t u := by
  unfold RegionsUp State.region
  rw [hp]
  exact h

/-- Steps 2 to 7 of the test. -/
theorem unitsUp_spec (s : State) (u : PowerUpResult) : let t := unitsUp s u
    UpWork s t ∧ RegionsUp t u ∧ (∀ d ∈ s.baseline, d.kind ≠ 0xA → HoldsRecord t.defects d.kind d.unit d.loc) ∧
      (u.mmcMapOk = true ∨ u.t3MapOk = true → ∀ d ∈ s.defects, d.kind ≠ 0xA → HoldsRecord t.defects d.kind d.unit d.loc) ∧
      (∀ n, n < 24 → stackState t n = stackUp u t n) ∧ ∀ n, n < 8 → (t.port n).st = if unitPasses u (208 + n) then .down else .failed := by
  intro t
  have ht : t = unitsTested u (mapT3 (findsUp (regionsUp (mapStart s u) u) u) u s.defects) := unitsUp_eq s u
  have hmap := fun d => mapStart_holds s u (d := d)
  have hw1 := mapStart_upWork s u
  obtain ⟨hw2, hm2, hr2⟩ := regionsUp_spec (mapStart s u) u
  obtain ⟨hw3, hm3, hp3⟩ := findsUp_spec (regionsUp (mapStart s u) u) u
  obtain ⟨hw4, hm4, hc4, hr4⟩ := mapT3_spec (findsUp (regionsUp (mapStart s u) u) u) u s.defects
  obtain ⟨hw5, hm5, hp5, hstack, hport⟩ := unitsTested_spec u (mapT3 (findsUp (regionsUp (mapStart s u) u) u) u s.defects)
  rw [← ht] at hw5 hm5 hp5 hstack hport
  have hgrow := (hm2.trans hm3).trans (hm4.trans hm5)
  have hregions : RegionsUp (findsUp (regionsUp (mapStart s u) u) u) u := RegionsUp.of_power (s := regionsUp (mapStart s u) u) hr2 hp3
  generalize mapT3 (findsUp (regionsUp (mapStart s u) u) u) u s.defects = v4 at *
  generalize findsUp (regionsUp (mapStart s u) u) u = v3 at *
  generalize regionsUp (mapStart s u) u = v2 at *
  generalize mapStart s u = v1 at *
  have hup (n : Nat) : stackUp u v4 n = stackUp u t n := by
    have hr : t.region (168 + n) = v4.region (168 + n) := by rw [State.region, hp5]; rfl
    rw [stackUp, ← hw5.keyFault, ← hr]
    rfl
  refine ⟨(((hw1.trans hw2).trans hw3).trans hw4).trans hw5, (hregions.mapped hr4).of_power hp5, fun d hd hk => ?_, fun hok d hd hk => ?_, fun n hn => ?_, hport⟩
  · exact hgrow _ _ _ hk (hmap d (.inl hd))
  · cases hmmc : u.mmcMapOk
    · exact hm5 _ _ _ hk (hc4 (hok.resolve_left (by rw [hmmc]; exact Bool.false_ne_true)) d hd)
    · exact hgrow _ _ _ hk (hmap d (.inr ⟨hmmc, hd⟩))
  · rw [hstack n hn, hup]

theorem powerUpTest_serves {s : State} {u : PowerUpResult} (h : s.hw.phase = .starting) (hok : u.taOk = true ∨ u.tbOk = true) :
    (s.lc = .retired → powerUpTest s u = readyHigh (tokenGiven s u)) ∧
    (s.lc ≠ .retired → powerUpTest s u = readyHigh { gridUp (unitsUp (tokenGiven s u) u) u with testMs := u.ms, testDone := true }) := by
  have hone : ¬ (u.taOk = false ∧ u.tbOk = false) := fun ⟨ha, hb⟩ => by simp [ha, hb] at hok
  have hph : ¬ s.hw.phase ≠ .starting := fun hn => hn h
  unfold powerUpTest
  rw [if_neg hph]
  exact ⟨fun hlc => (if_neg hone).trans (if_pos hlc), fun hlc => (if_neg hone).trans (if_neg hlc)⟩

/-- What the test leaves of a module that is not RETIRED (R405, R415). -/
def MapKept (s t : State) (u : PowerUpResult) : Prop :=
  (∀ d ∈ t.defects, d.pending = false) ∧ (∀ d ∈ s.baseline, d.kind ≠ 0xA → HoldsRecord t.defects d.kind d.unit d.loc) ∧
    (u.mmcMapOk = true ∨ u.t3MapOk = true → ∀ d ∈ s.defects, d.kind ≠ 0xA → HoldsRecord t.defects d.kind d.unit d.loc) ∧ ∀ y ∈ t.retired, y < 1080

/-- What the test leaves of the units of such a module (R405, R418, R425). -/
def UnitsKept (s t : State) (u : PowerUpResult) : Prop :=
  (∀ r, r < 208 → (t.region r).st = .on ∨ (t.region r).st = .dead) ∧ (∀ h ∈ u.rampFail, (t.region h.val).st = .dead) ∧
    (∀ n, n < 24 → stackState t n = if u.unitFail.contains (BitVec.ofNat 8 (168 + n)) ∨ s.sec.keyFault = true ∨ (t.region (168 + n)).st = .dead then 3 else 0) ∧
    (∀ h, h < 168 → Tab.get 0 t.ident h ≠ Tab.get 0 s.ident h) ∧
    ∀ n, n < 8 → (t.port n).st = if u.unitFail.contains (BitVec.ofNat 8 (208 + n)) then .failed else .down

theorem testedUp_spec (s : State) (u : PowerUpResult) : let t := gridUp (unitsUp s u) u
    MapKept s t u ∧ UnitsKept s t u ∧ t.gridRows = 1080 - t.retired.length ∧ t.goodRows = t.gridRows ∧ t.hw = (unitsUp s u).hw := by
  obtain ⟨hw, hregions, hbase, hmap, hstack, hport⟩ := unitsUp_spec s u
  obtain ⟨hgrow, hpend, hrows, hgood, hret, hident, hpower, htiers, hports, hhw, -⟩ := gridUp_spec (unitsUp s u) u
  have hi := hw.ident
  have hk := hw.keyFault
  generalize unitsUp s u = v at *
  intro t
  have hr (r : Nat) : t.region r = v.region r := by rw [State.region, hpower]; rfl
  have hs (n : Nat) : stackState t n = stackState v n := by rw [stackState, htiers]; rfl
  have hp (n : Nat) : t.port n = v.port n := by rw [State.port, hports]; rfl
  refine ⟨⟨hpend, fun d hd hne => hgrow _ _ _ hne (hbase d hd hne), fun hok d hd hne => hgrow _ _ _ hne (hmap hok d hd hne), hret⟩,
    ⟨fun r hlt => ?_, fun h hm => ?_, fun n hn => ?_, fun h hh => ?_, fun n hn => ?_⟩, hrows, hgood, hhw⟩
  · rw [hr]
    exact (hregions r hlt).1
  · rw [hr]
    exact (hregions h.val (by omega)).2 (List.any_eq_true.2 ⟨h, hm, beq_self_eq_true _⟩)
  · rw [hs, hstack n hn, stackUp, hk, hr]
  · rw [← hi]
    exact hident h hh
  · rw [hp, hport n hn, unitPasses]
    cases u.unitFail.contains (BitVec.ofNat 8 (208 + n)) <;> rfl

theorem powerUp_serves {s : State} {u : PowerUpResult} (h : s.hw.phase = .starting) (hok : u.taOk = true ∨ u.tbOk = true) :
    Nexts (.powerUpTest u) s (fun t => t.hw.phase = .up ∧ t.hw.ready = true ∧
        (s.lc = .retired → t.defects = s.defects ∧ t.power = s.power ∧ t.testDone = s.testDone) ∧
        (s.lc ≠ .retired → t.testDone = true ∧ t.testMs = u.ms ∧ t.gridRows = 1080 - t.retired.length ∧ t.goodRows = t.gridRows ∧
          MapKept s t u ∧ UnitsKept s t u)) := by
  obtain ⟨hretired, hserves⟩ := powerUpTest_serves h hok
  by_cases hlc : s.lc = .retired
  · exact ⟨_, congrArg Host.Outcome.next (hretired hlc), rfl, rfl, fun _ => ⟨rfl, rfl, rfl⟩, fun hn => absurd hlc hn⟩
  · obtain ⟨hmap, hunits, hrows, hgood, -⟩ := testedUp_spec (tokenGiven s u) u
    have he := hserves hlc
    generalize gridUp (unitsUp (tokenGiven s u) u) u = v at hmap hunits hrows hgood he
    exact ⟨_, congrArg Host.Outcome.next he, rfl, rfl, fun hr => absurd hr hlc, fun _ => ⟨rfl, rfl, hrows, hgood, hmap, hunits⟩⟩

theorem powerUp_stops {s : State} {u : PowerUpResult} (h : s.hw.phase = .starting) (ha : u.taOk = false) (hb : u.tbOk = false) :
    Nexts (.powerUpTest u) s (fun t => t.hw.phase = .stopped ∧ t.hw.ready = false) := by
  have hrun : ¬ ((tokenGiven s u).hw.phase = .dark ∨ (tokenGiven s u).hw.phase = .stopped) := by simp [tokenGiven, h]
  have hs := safeStop_safelyStopped 2 hrun
  exact ⟨_, congrArg Host.Outcome.next (powerUpTest_of_neither h ha hb), hs.phase, hs.ready⟩

/-! ## The commands of the life cycle -/

theorem lcRefused {i : Instr} {s : State} (h : exec i s = .next (lcRefuse s)) :
    Nexts i s (fun t => t = { s with regs := t.regs } ∧ (regGet t 0 0 0xB00008).getLsbD 31 = true) := by
  refine ⟨_, h, rfl, ?_⟩
  rw [lcRefuse, regOr, regGet_regSet_same]
  exact getLsbD_or_bits _ (by omega) (by omega) (by omega) (by omega)

theorem mem_partNums (p : Nat) : p ∈ partNums ↔ 1 ≤ p ∧ p ≤ 16 := by
  rw [partNums, List.mem_map]
  simp only [List.mem_range]
  exact ⟨by rintro ⟨x, hx, rfl⟩; omega, fun h => ⟨p - 1, by omega, by omega⟩⟩

theorem isHeld_iff (s : State) (p : Nat) : isHeld s p = true ↔ (s.part p).st ≠ .free ∨ s.partCmd.map (·.part) = some p := by
  unfold isHeld
  cases s.partCmd <;> simp

theorem allFree_iff (s : State) : allFree s = true ↔ ∀ p, 1 ≤ p → p ≤ 16 → (s.part p).st = .free ∧ s.partCmd.map (·.part) ≠ some p := by
  unfold allFree
  rw [List.all_eq_true]
  refine forall_congr' fun p => ?_
  rw [mem_partNums, Bool.not_eq_true', Bool.eq_false_iff, ne_eq, isHeld_iff, not_or, not_not, and_imp]

theorem anyTest_iff (s : State) : anyTest s = true ↔ ∃ e ∈ s.tests, e.2.st = .queued ∨ e.2.st = .running := by
  simp only [anyTest, List.any_eq_true, Bool.or_eq_true, beq_iff_eq]

/-- A half-field of a partition is under test. -/
def BistHeld (s : State) : Prop := ∃ h, h < 168 ∧ ((s.test h).st = .queued ∨ (s.test h).st = .running) ∧ partOfField s (h / 2) ≠ 0

theorem bistHeld_iff (s : State) : (List.range 168).any (fun h => underTest s h && partOfField s (h / 2) != 0) = true ↔ BistHeld s := by
  simp only [List.any_eq_true, List.mem_range, Bool.and_eq_true, underTest_iff, bne_iff_ne, BistHeld]

theorem deploy_refused_iff (s : State) : (s.lc ≠ .provisioned ∨ (List.range 168).any (fun h => underTest s h && partOfField s (h / 2) != 0) = true) ↔
    s.lc ≠ .provisioned ∨ BistHeld s := by rw [bistHeld_iff]

theorem enter_refused_iff (s : State) : (s.lc ≠ .deployed ∨ allFree s = false) ↔
    (s.lc ≠ .deployed ∨ ¬ ∀ p, 1 ≤ p → p ≤ 16 → (s.part p).st = .free ∧ s.partCmd.map (·.part) ≠ some p) := by
  rw [← allFree_iff, Bool.not_eq_true]

theorem region_regionsOff (s : State) (r : Nat) : (regionsOff s).region r = offRegion (s.region r) :=
  Tab.get_mapped (fun _ x => offRegion x) s.power.regions r {}

/-- A state whose module is retired and whose keys are destroyed. -/
def keysGone (s : State) : State := { s with lc := .retired, sec := { s.sec with keys := [], caks := [], keysReady := false } }

/-- Whether RETIRE is refused. -/
theorem retire_refused_iff (s : State) (c : BitVec 16) :
    ((s.lc == .provisioned || s.lc == .deployed || s.lc == .service) = false ∨ c ≠ 0xA5A5 ∨ allFree s = false ∨ anyTest s = true) ↔
    (s.lc = .manufacture ∨ s.lc = .retired ∨ c ≠ 0xA5A5 ∨ (¬ ∀ p, 1 ≤ p → p ≤ 16 → (s.part p).st = .free ∧ s.partCmd.map (·.part) ≠ some p) ∨
      ∃ e ∈ s.tests, e.2.st = .queued ∨ e.2.st = .running) := by
  have hlc : (s.lc == .provisioned || s.lc == .deployed || s.lc == .service) = false ↔ s.lc = .manufacture ∨ s.lc = .retired := by
    cases s.lc <;> decide
  rw [hlc, ← allFree_iff, ← anyTest_iff, Bool.not_eq_true, or_assoc]

theorem retire_done {s : State} (h : ¬ (s.lc = .manufacture ∨ s.lc = .retired ∨ (0xA5A5 : BitVec 16) ≠ 0xA5A5 ∨
      (¬ ∀ p, 1 ≤ p → p ≤ 16 → (s.part p).st = .free ∧ s.partCmd.map (·.part) ≠ some p) ∨ ∃ e ∈ s.tests, e.2.st = .queued ∨ e.2.st = .running)) :
    Nexts (.retire 0xA5A5) s (fun t => t.lc = .retired ∧ t.sec.keys = [] ∧
      t.sec.caks = [] ∧ t.sec.keysReady = false ∧ t.cores = s.cores ∧ t.parts = s.parts ∧ t.tiers.mem = [] ∧
      ∀ r, (t.region r).st = .off ∨ ((s.region r).st = .dead ∧ (t.region r).st = .dead)) := by
  have he : exec (.retire 0xA5A5) s = .next (regionsOff (keysGone s)) := congrArg Host.Outcome.next (if_neg (mt (retire_refused_iff s 0xA5A5).1 h))
  refine ⟨_, he, rfl, rfl, rfl, rfl, rfl, rfl, rfl, fun r => ?_⟩
  rw [region_regionsOff]
  exact offRegion_st (s.region r)

/-- A pin once the UART has gone. -/
def pinFreed (x : MfPin) : MfPin :=
  if x.stored = 4 then (if x.parked then { x with waiting := x.waiting ++ [0], stored := 0 } else ⟨0, true, [0], 0, false⟩) else x

/-- A pin parks where it carries the UART. -/
def uartParked (s : State) (n : Nat) : State := if (pinOf s n).stored = 4 then switchPin s n 0 else s

theorem parkUart_eq (s : State) : parkUart s = (List.range 4).foldl uartParked s := rfl

theorem uartParked_spec (s : State) (n : Nat) : uartParked s n = { s with hw := { s.hw with pins := (uartParked s n).hw.pins } } ∧
    ∀ j, pinOf (uartParked s n) j = if j = n then pinFreed (pinOf s n) else pinOf s j := by
  unfold uartParked pinFreed
  split
  · exact ⟨switchPin_form s n 0, pinOf_switchPin s n 0⟩
  · refine ⟨rfl, fun j => ?_⟩
    split
    · next h => rw [h]
    · rfl

theorem uartParked_foldl (l : List Nat) : l.Nodup → ∀ s : State, let t := l.foldl uartParked s
    t = { s with hw := { s.hw with pins := t.hw.pins } } ∧ ∀ j, pinOf t j = if j ∈ l then pinFreed (pinOf s j) else pinOf s j := by
  induction l with
  | nil => exact fun _ s => ⟨rfl, fun _ => rfl⟩
  | cons n l ih =>
    intro hnd s
    obtain ⟨hn, hl⟩ := List.nodup_cons.1 hnd
    obtain ⟨hform, hpin⟩ := ih hl (uartParked s n)
    obtain ⟨hform', hpin'⟩ := uartParked_spec s n
    refine ⟨?_, fun j => ?_⟩
    · rw [List.foldl_cons]
      generalize l.foldl uartParked (uartParked s n) = t at hform
      rw [hform, hform']
    · rw [List.foldl_cons, hpin, hpin']
      by_cases hj : j = n
      · rw [if_neg (hj ▸ hn), if_pos hj, if_pos (hj ▸ List.mem_cons_self), hj]
      · rw [if_neg hj]
        simp only [List.mem_cons, hj, false_or]

/-- A state with grade and baseline fused, what T3 holds erased. -/
def fused (s : State) : State := { s with
  lc := .provisioned, grade := gradeOf s.gridRows, baseline := s.defects,
  wst := { s.wst with sets := [], slots := [], adds := [], xfers := [], erasing := [] }, tamb := { s.tamb with log := [] } }

theorem finalise_done {s : State} (h : ¬ (s.lc ≠ .manufacture ∨ s.testDone = false ∨ allFree s = false ∨ 4096 < s.defects.length)) :
    Nexts .finalise s (fun t =>
      t = { s with lc := .provisioned, grade := t.grade, baseline := s.defects, wst := t.wst, tamb := { s.tamb with log := [] }, hw := { s.hw with pins := t.hw.pins } } ∧
      (∀ n, pinOf t n = (let x := pinOf s n
        if n < 4 ∧ x.stored = 4 then (if x.parked then { x with waiting := x.waiting ++ [0], stored := 0 } else ⟨0, true, [0], 0, false⟩) else x)) ∧
      t.wst.sets = [] ∧ t.wst.slots = [] ∧ t.wst.adds = [] ∧
      t.grade = (if 1080 ≤ s.gridRows then 0 else if 1020 ≤ s.gridRows then 1 else if 960 ≤ s.gridRows then 2 else 3)) := by
  have he : exec .finalise s = .next (parkUart (fused s)) := congrArg Host.Outcome.next (if_neg h)
  obtain ⟨hform, hpin⟩ := uartParked_foldl (List.range 4) List.nodup_range (fused s)
  rw [← parkUart_eq] at hform hpin
  generalize parkUart (fused s) = t at he hform hpin
  refine ⟨t, he, ?_, fun n => ?_, ?_, ?_, ?_, ?_⟩
  · rw [hform]
    rfl
  · rw [hpin, pinFreed]
    simp only [List.mem_range, ite_and]
    rfl
  · rw [hform]
    rfl
  · rw [hform]
    rfl
  · rw [hform]
    rfl
  · rw [hform]
    rfl

theorem finalise_refused_iff (s : State) : (s.lc ≠ .manufacture ∨ s.testDone = false ∨ allFree s = false ∨ 4096 < s.defects.length) ↔
    (s.lc ≠ .manufacture ∨ s.testDone = false ∨ (¬ ∀ p, 1 ≤ p → p ≤ 16 → (s.part p).st = .free ∧ s.partCmd.map (·.part) ≠ some p) ∨
      4096 < s.defects.length) := by
  rw [← allFree_iff, Bool.not_eq_true]

theorem leave_done {s : State} (h : ¬ (s.lc ≠ .service ∨ anyTest s = true)) : Nexts .leaveService s (fun t =>
    t = { s with lc := .deployed, incarnation := s.incarnation + 1, ports := t.ports, sessions := t.sessions, draws := t.draws }) := by
  refine ⟨_, congrArg Host.Outcome.next (if_neg h), ?_⟩
  exact newIncarnation_form { s with lc := .deployed }

/-- Settles O47: the test by `powerUp_serves` and `powerUp_stops`, the commands by a lemma each. -/
theorem lifeCycle : Obligations.LifeCycle := by
  intro s refused free testing bistHeld
  refine ⟨fun h => ?_, fun h1 h2 => ?_, fun h => ?_, fun h1 h2 => ?_, fun h => ?_, fun h1 h2 => ?_, fun c h => ?_, fun h1 h2 h3 => ?_, fun h => ?_,
    fun h1 h2 h3 h4 => ?_, fun u => ⟨fun h => ?_, fun h => ?_, powerUp_stops, fun h hok => ?_⟩⟩
  · exact lcRefused (congrArg Host.Outcome.next (if_pos ((deploy_refused_iff s).2 h)))
  · exact congrArg Host.Outcome.next (if_neg (mt (deploy_refused_iff s).1 (not_or.2 ⟨not_not.2 h1, h2⟩)))
  · exact lcRefused (congrArg Host.Outcome.next (if_pos ((enter_refused_iff s).2 h)))
  · exact congrArg Host.Outcome.next (if_neg (mt (enter_refused_iff s).1 (not_or.2 ⟨not_not.2 h1, not_not.2 h2⟩)))
  · exact lcRefused (congrArg Host.Outcome.next (if_pos (h.imp_right (anyTest_iff s).2)))
  · exact leave_done (not_or.2 ⟨not_not.2 h1, mt (anyTest_iff s).1 h2⟩)
  · exact lcRefused (congrArg Host.Outcome.next (if_pos ((retire_refused_iff s c).2 h)))
  · refine retire_done ?_
    rintro (h | h | h | h | h)
    · rw [h] at h1
      exact h1.elim (fun h => nomatch h) (fun h => h.elim (fun h => nomatch h) (fun h => nomatch h))
    · rw [h] at h1
      exact h1.elim (fun h => nomatch h) (fun h => h.elim (fun h => nomatch h) (fun h => nomatch h))
    · exact h rfl
    · exact h h2
    · exact h3 h
  · exact lcRefused (congrArg Host.Outcome.next (if_pos ((finalise_refused_iff s).2 h)))
  · refine finalise_done (mt (finalise_refused_iff s).1 ?_)
    rintro (h | h | h | h)
    · exact h h1
    · rw [h2] at h
      cases h
    · exact h h3
    · omega
  · exact congrArg Host.Outcome.next (if_pos h)
  · have hi := powerUpTest_insts u h
    exact ⟨_, rfl, congrArg Prod.fst hi, congrArg Prod.snd hi⟩
  · obtain ⟨t, he, hup, hready, hret, hserves⟩ := powerUp_serves h hok
    refine ⟨t, he, hup, hready, hret, fun hlc => ?_⟩
    obtain ⟨hdone, hms, hrows, hgood, ⟨hpend, hbase, hmap, hless⟩, hunits⟩ := hserves hlc
    exact ⟨hdone, hms, hrows, hgood, hpend, hbase, hmap, hless, hunits⟩

end Sys2Proof.Machine
end

section
/-! PROOFS. Overcurrents, sensors, converters and edge links (O41). -/

namespace Sys2Proof.Machine

open Sys2Proof.Claims

/-! ## One region changed -/

/-- Of the power state region r alone has changed. -/
theorem regionSet {i : Instr} {s : State} {r : Nat} {y : PRegion} (h : exec i s = .next (s.setRegion r y)) :
    Nexts i s (fun t => t = { s with power := t.power } ∧ t.region r = y ∧ ∀ q, q ≠ r → t.region q = s.region q) :=
  ⟨_, h, rfl, (region_setRegion ..).trans (if_pos rfl), fun _ hq => (region_setRegion ..).trans (if_neg hq)⟩

theorem canDie_iff (x : PRegion) : x.canDie = true ↔ x.st = .on ∨ x.st = .retained ∨ x.st = .retry := by
  simp only [PRegion.canDie, Bool.or_eq_true, beq_iff_eq, or_assoc]

/-! ## Overcurrents, excluded sensors, converters -/

theorem overcurrent_iff (x : PRegion) (a : Rail) : (x.canDie = true ∧ (Tab.find x.ocur (railNo a)).isNone = true) ↔
    (x.st = .on ∨ x.st = .retained ∨ x.st = .retry) ∧ Tab.find x.ocur (railNo a) = none := by
  rw [canDie_iff, Option.isNone_iff_eq_none]

theorem overcurrent_ignored {s : State} {g : Sys2Proof.Region} {a : Rail} (h : (s.region g.val).st ≠ .on ∧ (s.region g.val).st ≠ .retained ∧
    (s.region g.val).st ≠ .retry ∨ Tab.find (s.region g.val).ocur (railNo a) ≠ none) : exec (.overcurrent g a) s = .next s := by
  refine congrArg Host.Outcome.next (if_neg (mt (overcurrent_iff _ a).1 ?_))
  rintro ⟨hst, hnone⟩
  obtain ⟨h1, h2, h3⟩ | h := h
  · exact hst.elim h1 (fun h => h.elim h2 h3)
  · exact h hnone

theorem sensorExcluded_new {s : State} {g : Sys2Proof.Region} {a : Rail} {n : Fin 16} (mv : BitVec 16) (h : (s.region g.val).excl.contains (railNo a, n.val) = false) :
    Nexts (.sensorExcluded g a n mv) s (fun t => t = { s with power := t.power } ∧
      t.region g.val = { s.region g.val with excl := (s.region g.val).excl ++ [(railNo a, n.val)] } ∧ (∀ q, q ≠ g.val → t.region q = s.region q) ∧
      Noted s t (.sensor g.val (BitVec.ofNat 8 (railSensor a n.val)) mv)) := by
  refine ⟨_, congrArg Host.Outcome.next (if_neg (by rw [h]; exact Bool.false_ne_true)), rfl, ?_, fun q hq => ?_, rfl⟩
  · exact (region_setRegion s g.val g.val _).trans (if_pos rfl)
  · exact (region_setRegion s g.val q _).trans (if_neg hq)

theorem converterLost_counts {s : State} {z : Fin 13} (h : Tab.get 0 s.power.convLost z.val < 8) :
    Nexts (.converterLost z) s (fun t => t = { s with power := { s.power with convLost := t.power.convLost, notes := t.power.notes } } ∧
        (∀ q, Tab.get 0 t.power.convLost q = if q = z.val then Tab.get 0 s.power.convLost z.val + 1 else Tab.get 0 s.power.convLost q) ∧
        Noted s t (.zone z.val (7 - Tab.get 0 s.power.convLost z.val))) :=
  ⟨_, if_neg (Nat.not_le.2 h), rfl, fun _ => Tab.get_put .., rfl⟩

/-! ## The filter of the hub -/

/-- A sensor that a round with one sample named `k` reads. -/
def sampled (k : Nat) (v : Int) (j : Nat) (x : Sensor) : Sensor := x.sample (keyShift j) ((Tab.find [(k, v)] j).getD (x.last.headD 0))

/-- The sensors after a round that names one. -/
def sensorsSampled (t : Tab Sensor) (k : Nat) (v : Int) : Tab Sensor :=
  let old := t.map (fun e => (e.1, sampled k v e.1 e.2))
  if (Tab.find old k).isSome then old else Tab.put old k (({} : Sensor).sample (keyShift k) v)

theorem sensorSample_eq (s : State) (v : Sample) : exec (.sensorSample [v]) s = .next { s with
    tamb := { s.tamb with sensors := sensorsSampled s.tamb.sensors (sensorKey v.cls v.region v.idx) v.value } } := rfl

theorem sampled_named (k : Nat) (v : Int) (x : Sensor) : sampled k v k x = x.sample (keyShift k) v := by simp [sampled, Tab.find]

theorem sampled_other {k j : Nat} (h : j ≠ k) (v : Int) (x : Sensor) : sampled k v j x = x.sample (keyShift j) (x.last.headD 0) := by
  simp [sampled, Tab.find, Ne.symm h]

/-- The sensor named takes its sample; every other reads as at its last. -/
theorem sensorsSampled_spec (t : Tab Sensor) (k : Nat) (v : Int) :
    Tab.get {} (sensorsSampled t k v) k = (Tab.get ({} : Sensor) t k).sample (keyShift k) v ∧
      ∀ j, j ≠ k → Tab.find (sensorsSampled t k v) j = (Tab.find t j).map (fun y => y.sample (keyShift j) (y.last.headD 0)) := by
  have hold (j : Nat) : Tab.find (t.map (fun e => (e.1, sampled k v e.1 e.2))) j = (Tab.find t j).map (sampled k v j) := Tab.find_mapped (sampled k v) t j
  have hother {j : Nat} (hj : j ≠ k) : (Tab.find t j).map (sampled k v j) = (Tab.find t j).map (fun y => y.sample (keyShift j) (y.last.headD 0)) := by
    cases Tab.find t j with
    | none => rfl
    | some x => exact congrArg some (sampled_other hj v x)
  unfold sensorsSampled
  dsimp only
  rw [hold]
  cases hk : Tab.find t k with
  | none =>
    rw [if_neg (by simp)]
    refine ⟨?_, fun j hj => ?_⟩
    · rw [Tab.get_put_same, Tab.get, hk]
      rfl
    · rw [Tab.find_put_other _ _ hj, hold, hother hj]
  | some x =>
    rw [if_pos (by simp)]
    refine ⟨?_, fun j hj => (hold j).trans (hother hj)⟩
    rw [Tab.get, Tab.get, hold, hk]
    exact sampled_named k v x

theorem median3_eq {v a b m : Int} (hm : m = v ∨ m = a ∨ m = b) (hlow : (v ≤ m ∧ a ≤ m) ∨ (v ≤ m ∧ b ≤ m) ∨ (a ≤ m ∧ b ≤ m))
    (hhigh : (m ≤ v ∧ m ≤ a) ∨ (m ≤ v ∧ m ≤ b) ∨ (m ≤ a ∧ m ≤ b)) : median3 v a b = m := by
  unfold median3
  omega

theorem sample_third {y : Sensor} {a b : Int} {rest : List Int} (hy : y.last = a :: b :: rest) (K : Nat) {v m : Int} (hm : median3 v a b = m) :
    (y.live = false → y.sample K v = { last := [v, a], num := m, exp := 0, live := true }) ∧
    (y.live = true → y.sample K v = { last := [v, a], num := y.num * (2 ^ K - 1) + m * 2 ^ y.exp, exp := y.exp + K, live := true }) := by
  obtain ⟨last, num, exp, live⟩ := y
  subst hy
  subst hm
  exact ⟨fun h => by subst h; rfl, fun h => by subst h; rfl⟩

theorem sensorSample_is {s : State} {v : Sample} {z : Sensor}
    (h : (Tab.get ({} : Sensor) s.tamb.sensors (sensorKey v.cls v.region v.idx)).sample (keyShift (sensorKey v.cls v.region v.idx)) v.value = z) :
    Nexts (.sensorSample [v]) s (fun t => t = { s with tamb := { s.tamb with sensors := t.tamb.sensors } } ∧
        Tab.get {} t.tamb.sensors (sensorKey v.cls v.region v.idx) = z ∧ ∀ j, j ≠ sensorKey v.cls v.region v.idx →
          Tab.find t.tamb.sensors j = (Tab.find s.tamb.sensors j).map (fun y => y.sample (keyShift j) (y.last.headD 0))) := by
  obtain ⟨hnamed, hother⟩ := sensorsSampled_spec s.tamb.sensors (sensorKey v.cls v.region v.idx) v.value
  exact ⟨_, sensorSample_eq s v, rfl, hnamed.trans h, hother⟩

/-! ## Links of the edge chiplets -/

theorem linkOk_iff (q : LinkReq) : linkOk q = true ↔ q ≠ .width 3 := by
  cases q with
  | width w => simp [linkOk]
  | retrain => simp [linkOk]

theorem linkMay_iff (x : PRegion) (g : Sys2Proof.Region) (q : LinkReq) :
    (!isChiplet g.val || decide (x.st ≠ .on) || !linkOk q) = true ↔ ¬ (168 ≤ g.val ∧ x.st = .on ∧ q ≠ .width 3) := by
  have hchip : isChiplet g.val = true ↔ 168 ≤ g.val := by
    have := g.isLt
    simp only [isChiplet, decide_eq_true_eq]
    omega
  rw [← linkOk_iff, ← hchip]
  cases isChiplet g.val <;> cases linkOk q <;> simp

theorem chipletLinkRequest_spec (s : State) (g : Sys2Proof.Region) (q : LinkReq) (acked : Bool) :
    let x := s.region g.val
    let only (y : PRegion) := Nexts (.chipletLinkRequest g ⟨acked, q⟩) s (fun t => t = { s with power := t.power } ∧ t.region g.val = y ∧
      ∀ q, q ≠ g.val → t.region q = s.region q)
    let may := 168 ≤ g.val ∧ x.st = .on ∧ q ≠ .width 3
    (¬ may → exec (.chipletLinkRequest g ⟨acked, q⟩) s = .next s) ∧
    (may → x.wafer = none → only { x with chip := some q }) ∧
    (∀ w, may → x.wafer = some w → acked = true → x.change = none → only { x with change := some w, wafer := none, chip := some q }) ∧
    (x.wafer ≠ none → acked = false ∨ x.change ≠ none → exec (.chipletLinkRequest g ⟨acked, q⟩) s = .next s) := by
  intro x only may
  have hmay := linkMay_iff x g q
  have hexec : exec (.chipletLinkRequest g ⟨acked, q⟩) s = execChipletLinkRequest g ⟨acked, q⟩ s := rfl
  have hno (h : ¬ may) : exec (.chipletLinkRequest g ⟨acked, q⟩) s = .next s := if_pos (hmay.2 h)
  have hyes (h : may) := mt hmay.1 (not_not.2 h)
  refine ⟨hno, fun h hw => regionSet ?_, fun w h hw ha hc => regionSet ?_, fun hw hc => ?_⟩
  · rw [hexec, execChipletLinkRequest]
    dsimp only
    rw [if_neg (hyes h)]
    rw [show (s.region g.val).wafer = none from hw]
  · rw [hexec, execChipletLinkRequest]
    dsimp only
    rw [if_neg (hyes h)]
    rw [show (s.region g.val).wafer = some w from hw]
    exact if_pos ⟨ha, hc⟩
  · by_cases h : may
    · obtain ⟨w, hw⟩ := Option.ne_none_iff_exists'.1 hw
      rw [hexec, execChipletLinkRequest]
      dsimp only
      rw [if_neg (hyes h)]
      rw [show (s.region g.val).wafer = some w from hw]
      refine if_neg ?_
      rintro ⟨ha, hn⟩
      obtain hf | hn' := hc
      · rw [ha] at hf
        cases hf
      · exact hn' hn
    · exact hno h

/-- A link that has changed, counted. -/
def linkSettled (s : State) (r : Nat) (y : PRegion) : State := cntAdd (s.setRegion r y) 0 0 0x900078 1

theorem linkSettled_nexts {s : State} {g : Sys2Proof.Region} {y : PRegion} (h : linkDone s g.val = linkSettled s g.val y) :
    Nexts (.linkChangeDone g) s (fun t => t = { s with power := t.power, regs := t.regs } ∧
        (∀ j, j ≠ g.val → t.region j = s.region j) ∧ reg64 t 0 0 0x900078 = reg64 s 0 0 0x900078 + 1 ∧ t.region g.val = y) := by
  refine ⟨_, congrArg Host.Outcome.next h, rfl, fun j hj => ?_, reg64_cntAdd .., ?_⟩
  · exact (region_setRegion s g.val j y).trans (if_neg hj)
  · exact (region_setRegion s g.val g.val y).trans (if_pos rfl)

theorem linkDone_chiplet {s : State} {r : Nat} {q : LinkReq} (h : (s.region r).change = some q) :
    linkDone s r = linkSettled s r { (s.region r).changed q with change := none } := by
  unfold linkDone
  dsimp only
  rw [h]
  rfl

theorem linkDone_wafer {s : State} {r : Nat} {q : LinkReq} (h1 : (s.region r).change = none) (h2 : (s.region r).wafer = some q) :
    linkDone s r = linkSettled s r { (s.region r).changed q with wafer := none } := by
  unfold linkDone
  dsimp only
  rw [h1, h2]
  rfl

theorem linkDone_none {s : State} {r : Nat} (h1 : (s.region r).change = none) (h2 : (s.region r).wafer = none) : linkDone s r = s := by
  unfold linkDone
  dsimp only
  rw [h1, h2]

/-- Settles O41: the regions by `regionSet`, the filter by `sensorsSampled_spec`, the links by `chipletLinkRequest_spec` and `linkSettled_nexts`. -/
theorem regionSensors : Obligations.RegionSensors := by
  intro s g r x only
  refine ⟨fun a h => overcurrent_ignored h, fun a h1 h2 => ?_, fun a n mv h => congrArg Host.Outcome.next (if_pos h), fun a n mv h => sensorExcluded_new mv h,
    fun v => ⟨fun h => ?_, fun a h => ?_, fun a b rest m h hm hlow hhigh => ⟨fun hl => ?_, fun hl => ?_⟩⟩, fun z => ⟨fun h => if_pos h, converterLost_counts⟩,
    fun q acked => chipletLinkRequest_spec s g q acked, fun h1 h2 => ?_, fun q h => ?_, fun q h1 h2 => ?_⟩
  · exact regionSet (congrArg Host.Outcome.next (if_pos ((overcurrent_iff _ a).2 ⟨h1, h2⟩)))
  · refine sensorSample_is ?_
    unfold Sensor.sample
    rw [h]
  · refine sensorSample_is ?_
    unfold Sensor.sample
    rw [h]
  · exact sensorSample_is ((sample_third h _ (median3_eq hm hlow hhigh)).1 hl)
  · exact sensorSample_is ((sample_third h _ (median3_eq hm hlow hhigh)).2 hl)
  · exact congrArg Host.Outcome.next (linkDone_none h1 h2)
  · have hd := linkSettled_nexts (linkDone_chiplet h)
    cases q <;> exact hd
  · have hd := linkSettled_nexts (linkDone_wafer h1 h2)
    cases q <;> exact hd

end Sys2Proof.Machine
end

section
/-! PROOFS. Control registers that no fence writes. -/

namespace Sys2Proof.Machine

open Sys2Proof.Claims

/-! ## Registers that no fence writes -/

/-- Offsets of registers that neither a fence nor a report nor the loss of a unit writes: the code of PART_CMD, the envelope's control and the
power faults. -/
def CtrlOff (off : Nat) : Prop := off = 0x200048 ∨ off = 0x90000C ∨ off = 0x90005C

/-- One mirror of partition p, which follows the chime it names (R452). -/
def mirrorOne (p g : Nat) (s : State) (n : Nat) : State :=
  let c := regGet s p 0 (0xD00200 + 16 * n)
  if c.getLsbD 31 ∧ (s.part p).chimeBase + fld c 15 0 = g then
    reg64Set (regSet s p 0 (0xD00200 + 16 * n + 4) (chimeVal s g)) p 0 (0xD00200 + 16 * n + 8) s.time
  else s

section
variable {off : Nat} (h : CtrlOff off)
include h

theorem CtrlOff.reportAll (s : State) (fns : List Nat) (code : Nat) (sc : Scope) (sev part : Nat) (loc v0 v1 : Word) :
    RegFixed off s (reportAll s fns code sc sev part loc v0 v1) :=
  .reportAll (by unfold CtrlOff at h; omega) (by unfold CtrlOff at h; omega) ..

theorem CtrlOff.reportP (s : State) (code : Nat) (sc : Scope) (sev p : Nat) (loc v0 v1 : Word) : RegFixed off s (reportP s code sc sev p loc v0 v1) :=
  .reportP (by unfold CtrlOff at h; omega) (by unfold CtrlOff at h; omega) ..

theorem CtrlOff.violate (s : State) (p kind : Nat) : RegFixed off s (violate s p kind) :=
  .violate s p kind (by unfold CtrlOff at h; omega) (by unfold CtrlOff at h; omega)

theorem CtrlOff.regSet (s : State) (fn idx : Nat) {off' : Nat} (w : Word) (h' : off' < 2 ^ 26) (hne : ¬ CtrlOff off') : RegFixed off s (regSet s fn idx off' w) :=
  .regSet s fn idx w (by unfold CtrlOff at h; omega) h' (fun e => hne (e ▸ h))

theorem CtrlOff.cntAdd (s : State) (fn idx n : Nat) {off' : Nat} (h' : off' + 4 < 2 ^ 26) (hne : ¬ CtrlOff off') (hne' : ¬ CtrlOff (off' + 4)) :
    RegFixed off s (cntAdd s fn idx off' n) :=
  .cntAdd s fn idx n (by unfold CtrlOff at h; omega) h' (fun e => hne (e ▸ h)) (fun e => hne' (e ▸ h))

theorem CtrlOff.logRecord (s : State) (cls code p region : Nat) (v0 v1 : Word) : RegFixed off s (logRecord s cls code p region v0 v1) :=
  .logRecord (by unfold CtrlOff at h; omega) (by unfold CtrlOff at h; omega) ..

theorem CtrlOff.pairCheck (s : State) (p g : Nat) : RegFixed off s (pairCheck s p g) := by
  unfold Machine.pairCheck
  extract_lets pr v s1 s2
  repeat' split
  · exact .refl off s
  · exact .refl off s
  · exact ((RegFixed.of_regs rfl : RegFixed off s s1).trans (h.regSet s1 p 0 _ (by omega) (by unfold CtrlOff; omega))).trans (h.reportP ..)

theorem CtrlOff.answerWatch (s : State) (w : Watch) : RegFixed off s (answerWatch s w) := by
  unfold Machine.answerWatch
  dsimp only
  split
  · exact .of_regs (by rw [releaseAck_ackWork])
  · exact .of_regs rfl
  · exact .of_regs rfl
  · exact .of_regs rfl

theorem CtrlOff.mirrorOne (s : State) (p g n : Nat) (hn : n < 8) : RegFixed off s (mirrorOne p g s n) := by
  unfold Machine.mirrorOne
  dsimp only
  split
  · exact ((h.regSet s p 0 _ (by omega) (by unfold CtrlOff; omega)).trans (h.regSet _ p 0 _ (by omega) (by unfold CtrlOff; omega))).trans
      (h.regSet _ p 0 _ (by omega) (by unfold CtrlOff; omega))
  · exact .refl off s

theorem CtrlOff.mirror (s : State) (p g : Nat) : RegFixed off s (mirror s p g) := by
  have hlist : ∀ l : List Nat, (∀ n ∈ l, n < 8) → ∀ u : State, RegFixed off u (l.foldl (Machine.mirrorOne p g) u) := by
    intro l
    induction l with
    | nil => exact fun _ u => .refl off u
    | cons n l ih =>
      exact fun hl u => (h.mirrorOne u p g n (hl n List.mem_cons_self)).trans (ih (fun m hm => hl m (List.mem_cons_of_mem n hm)) _)
  exact hlist (List.range 8) (fun n hn => List.mem_range.1 hn) s

theorem CtrlOff.chimeAdvance (s : State) (g : Nat) (step : Word) : RegFixed off s (chimeAdvance s g step) := by
  have hpairs := RegFixed.foldl (fun u q => h.pairCheck u (partOfChime (stepped s g step) g) q) (pairsOf (stepped s g step) (partOfChime (stepped s g step) g) g) (stepped s g step)
  exact (((RegFixed.of_regs rfl : RegFixed off s (stepped s g step)).trans hpairs).trans (RegFixed.foldl (fun u w => h.answerWatch u w) _ _)).trans (h.mirror ..)

theorem CtrlOff.statusChime (s : State) (n : Nat) (step : Word) : RegFixed off s (statusChime s n step) := by
  unfold Machine.statusChime partAdvance
  dsimp only
  split
  · split
    · exact h.chimeAdvance ..
    · exact h.violate ..
  · exact .refl off s

theorem CtrlOff.realign (s : State) (p l : Nat) : RegFixed off s (realign s p l) :=
  RegFixed.foldl (fun u g => (h.pairCheck u p g).trans (u := pairRef (Machine.pairCheck u p g) p g) (.of_regs rfl)) _ s

theorem CtrlOff.laneRelease (s : State) (n : Nat) : RegFixed off s (laneRelease s n) := by
  unfold Machine.laneRelease
  extract_lets ln p l s1 s2 s3 s4
  have h1 : RegFixed off s s1 := (h.realign s p l).trans (.of_regs rfl)
  have h3 : RegFixed off s s3 := (h1.trans (t := s1) (u := s2) (.of_regs rfl)).trans (h.statusChime s2 n 1)
  have h4 : RegFixed off s s4 := h3.trans (.of_regs (by rw [show s4 = _ from endArrivals_form ..]))
  exact h4.trans (.of_regs (by rw [(laneApply_spec s4 n).2]))

theorem CtrlOff.fenceCores (s : State) (p : Nat) (cause : Cause) (cs : List CoreId) : RegFixed off s (fenceCores s p cause cs) := by
  have hfence : RegFixed off s (cs.foldl (fun s c => fenceOne s c cause) s) := by
    refine RegFixed.foldl (fun u c => ?_) cs s
    unfold fenceOne
    dsimp only
    split
    · exact .refl off u
    · exact .of_regs rfl
  refine hfence.trans (RegFixed.foldl (fun u n => ?_) _ _)
  unfold laneTry
  split
  · exact h.laneRelease u n
  · exact .refl off u

end

end Sys2Proof.Machine
end

section
/-! PROOFS. The loss of a power region. -/

namespace Sys2Proof.Machine

open Sys2Proof.Claims

/-! ## What the loss of a region spills over to -/

/-- From `s` to `t` cores were fenced, tests ended, tracks and units lost; power and the supervisor stand. -/
def SpillForm (s t : State) : Prop :=
  t = { s with regs := t.regs, rings := t.rings, recent := t.recent, out := t.out, pairs := t.pairs, watches := t.watches, acks := t.acks,
               routers := t.routers, draws := t.draws, hqs := t.hqs, chimes := t.chimes, chimeTime := t.chimeTime, cores := t.cores, lanes := t.lanes,
               wst := t.wst, tests := t.tests, parts := t.parts, tiers := t.tiers, streams := t.streams }

/-- Such work, which leaves FENCED cores FENCED and the control registers as they were. -/
structure SpillWork (s t : State) : Prop where
  form : SpillForm s t
  fenced : ∀ d, s.modes d = .fenced → t.modes d = .fenced
  fixed : ∀ off, CtrlOff off → RegFixed off s t

theorem SpillWork.refl (s : State) : SpillWork s s := ⟨rfl, fun _ => id, fun off _ => .refl off s⟩

theorem SpillWork.trans {s t u : State} (h : SpillWork s t) (g : SpillWork t u) : SpillWork s u := by
  refine ⟨?_, fun d hd => g.fenced d (h.fenced d hd), fun off ho => (h.fixed off ho).trans (g.fixed off ho)⟩
  have hf := h.form
  have gf := g.form
  unfold SpillForm at *
  rw [gf, hf]

theorem SpillWork.foldl {α : Type} {f : State → α → State} (hf : ∀ s a, SpillWork s (f s a)) (l : List α) (s : State) : SpillWork s (l.foldl f s) := by
  induction l generalizing s with
  | nil => exact .refl s
  | cons a l ih => exact (hf s a).trans (ih _)

theorem SpillWork.power {s t : State} (h : SpillWork s t) : t.power = s.power := by rw [show t = _ from h.form]

theorem SpillWork.region {s t : State} (h : SpillWork s t) (r : Nat) : t.region r = s.region r := by
  rw [State.region, h.power]
  rfl

/-- Work that touches registers, reports and units alone. -/
theorem SpillWork.of_form {s t : State} (h : SpillForm s t) (hc : t.cores = s.cores) (hr : ∀ off, CtrlOff off → RegFixed off s t) : SpillWork s t := by
  refine ⟨h, fun d hd => ?_, hr⟩
  rw [State.modes, State.core, hc]
  exact hd

theorem SpillWork.reports {s t : State} (h : OnlyReports s t) (hr : ∀ off, CtrlOff off → RegFixed off s t) : SpillWork s t := by
  refine .of_form ?_ ?_ hr <;> rw [show t = _ from h]
  rfl

theorem SpillWork.regOr (s : State) (fn idx : Nat) {off : Nat} (w : Word) (h : off < 2 ^ 26) (hne : ¬ CtrlOff off) : SpillWork s (regOr s fn idx off w) :=
  .reports (OnlyReports.regOr ..) (fun _ ho => ho.regSet s fn idx _ h hne)

theorem SpillWork.cntAdd (s : State) (fn idx n : Nat) {off : Nat} (h : off + 4 < 2 ^ 26) (hne : ¬ CtrlOff off) (hne' : ¬ CtrlOff (off + 4)) :
    SpillWork s (cntAdd s fn idx off n) :=
  .reports (OnlyReports.cntAdd ..) (fun _ ho => ho.cntAdd s fn idx n h hne hne')

theorem SpillWork.reportAll (s : State) (fns : List Nat) (code : Nat) (sc : Scope) (sev part : Nat) (loc v0 v1 : Word) :
    SpillWork s (reportAll s fns code sc sev part loc v0 v1) := .reports (OnlyReports.reportAll ..) (fun _ ho => ho.reportAll ..)

theorem SpillWork.reportP (s : State) (code : Nat) (sc : Scope) (sev p : Nat) (loc v0 v1 : Word) : SpillWork s (reportP s code sc sev p loc v0 v1) :=
  .reports (OnlyReports.reportP ..) (fun _ ho => ho.reportP ..)

theorem SpillWork.fenceCores (s : State) (p : Nat) (cause : Cause) (cs : List CoreId) : SpillWork s (fenceCores s p cause cs) := by
  refine ⟨?_, fun d hd => ?_, fun _ ho => ho.fenceCores s p cause cs⟩
  · have h := fenceCores_fenceWork s p cause cs
    unfold FenceWork at h
    unfold SpillForm
    rw [h]
  · rw [fenceCores_modes]
    split
    · rfl
    · exact hd

theorem SpillWork.routeLoss (s : State) (p region kind : Nat) : SpillWork s (routeLoss s p region kind) := by
  unfold Machine.routeLoss
  split
  · exact .refl s
  · extract_lets x s1 s2 s3
    have h1 : SpillWork s s1 := .of_form rfl rfl (fun _ _ => .of_regs rfl)
    have h2 : SpillWork s1 s2 := .fenceCores ..
    have h3 : SpillWork s2 s3 := .cntAdd s2 0 0 1 (off := 0xD01038) (by omega) (by unfold CtrlOff; omega) (by unfold CtrlOff; omega)
    exact ((h1.trans h2).trans h3).trans (.reportP ..)

theorem SpillWork.testEnd (s : State) (u : Nat) (st : TestSt) (n : Nat) : SpillWork s (testEnd s u st n) := by
  have hf := testEnd_form s u st n
  generalize hu : Machine.testEnd s u st n = t at hf
  refine .of_form ?_ (by rw [hf]) (fun off ho => hu ▸ testEnd_fixed s u st n ?_ ?_)
  · unfold SpillForm
    rw [hf]
  all_goals
    unfold CtrlOff at ho
    omega

theorem SpillWork.testLost (s : State) (u : Nat) : SpillWork s (testLost s u) := by
  unfold Machine.testLost
  split
  · exact ((SpillWork.cntAdd s 0 0 1 (off := 0xB00040) (by omega) (by unfold CtrlOff; omega) (by unfold CtrlOff; omega)).trans
      (.cntAdd _ 0 0 1 (off := 0xB00048) (by omega) (by unfold CtrlOff; omega) (by unfold CtrlOff; omega))).trans (.testEnd ..)
  · exact .refl s

theorem SpillWork.setStack (s : State) (n st : Nat) : SpillWork s (setStack s n st) := .of_form rfl rfl (fun _ _ => .of_regs rfl)

theorem SpillWork.migrateNext (s : State) (stack : Nat) (frames : List Nat) (last : Nat) : SpillWork s (migrateNext s stack frames last) := by
  cases frames with
  | nil =>
    obtain ⟨hform, -⟩ := migrateNext_end s stack last
    refine .of_form ?_ (by rw [hform]) (fun off ho => ?_)
    · generalize Machine.migrateNext s stack [] last = t at hform
      unfold SpillForm
      rw [hform]
    · dsimp only [Machine.migrateNext, Machine.regOr]
      refine RegFixed.trans ?_ (ho.regSet _ 0 0 (off' := 0x60010C) _ (by omega) (by unfold CtrlOff; omega))
      exact .of_regs rfl
  | cons f fs => exact .of_form rfl rfl (fun _ _ => .of_regs rfl)

theorem SpillWork.tierFault (s : State) (p : Nat) (b : Word) : SpillWork s (tierFault s p b) :=
  (SpillWork.regOr s p 0 b (by omega) (by unfold CtrlOff; omega)).trans (.regOr _ 0 0 b (by omega) (by unfold CtrlOff; omega))

theorem SpillWork.stackLose (s : State) (n : Nat) : SpillWork s (stackLose s n) := by
  unfold Machine.stackLose
  split
  · exact .refl s
  · extract_lets s1 x s2 cnt s3 live rep
    have h2 : SpillWork s1 s2 := by
      unfold s2
      split
      · split
        · exact .of_form rfl rfl (fun _ _ => .of_regs rfl)
        split
        · exact .migrateNext ..
        · exact .refl s1
      · exact .refl s1
    have h3 : SpillWork s2 s3 := SpillWork.foldl (fun u p => .tierFault u p 1) _ s2
    have hrep (u : State) (fn v : Nat) : SpillWork u (rep u fn v) := .reportAll ..
    exact ((((SpillWork.setStack s n 3).trans h2).trans h3).trans (hrep s3 0 _)).trans (SpillWork.foldl (fun u p => hrep u p (cnt p)) live _)

theorem SpillWork.ctlLose (s : State) (n : Nat) : SpillWork s (ctlLose s n) := by
  unfold Machine.ctlLose
  split
  · exact .refl s
  · have h1 : SpillWork s (loseUnits (setCtl s n { ctl s n with st := 3 }) n) := by
      refine .of_form ?_ ?_ (fun off _ => .of_regs ?_) <;> rw [loseUnits_form]
      · rfl
      · rfl
      · rfl
    exact (h1.trans (SpillWork.regOr _ 0 0 2 (by omega) (by unfold CtrlOff; omega))).trans (.reportAll ..)

theorem SpillWork.fenceHalf (s : State) (h : Nat) : SpillWork s (fenceHalf s h) := .fenceCores ..

/-! ## The loss of a region (R373, R375, R448) -/

theorem resting_iff (x : PRegion) : x.resting = true ↔ x.st = .retained ∨ ((x.st = .ramping ∨ x.st = .retry) ∧ x.ramp = .unpark) := by
  simp only [PRegion.resting, Bool.or_eq_true, Bool.and_eq_true, beq_iff_eq]

/-- A region lost: DEAD with its domains, the epoch of an array in retention past its copy. -/
def regionDead (x : PRegion) (dom : BitVec 4) : PRegion := { x with st := .dead, deadDom := dom, epoch := if x.resting then x.epoch + 1 else x.epoch }

/-- The state with region r marked DEAD. -/
def regionMarked (s : State) (r : Nat) (dom : BitVec 4) : State :=
  let s := if (s.region r).resting then epochPast s r else s
  s.setRegion r { s.region r with st := .dead, deadDom := dom }

/-- What the loss of region r spills over to. -/
def regionSpilt (s : State) (r : Nat) (dom : BitVec 4) : State :=
  if r < 168 then
    let s := testLost s r
    let ps := if dom.getLsbD 2 then halfTracks s r else []
    ps.foldl (fun s p => routeLoss s p r 1) (fenceHalf s r)
  else if r < 192 then stackLose s (r - 168)
  else ctlLose s (r - 192)

theorem killRegion_eq (s : State) (r : Nat) (dom : BitVec 4) : killRegion s r dom = regionSpilt (regionMarked s r dom) r dom := rfl

theorem regionMarked_spec (s : State) (r : Nat) (dom : BitVec 4) :
    regionMarked s r dom = { s with power := { s.power with regions := (regionMarked s r dom).power.regions } } ∧
      ∀ q, (regionMarked s r dom).region q = if q = r then regionDead (s.region r) dom else s.region q := by
  unfold regionMarked regionDead
  dsimp only
  by_cases hr : (s.region r).resting = true
  · have he (q : Nat) : (epochPast s r).region q = if q = r then { s.region r with epoch := (s.region r).epoch + 1 } else s.region q := region_setRegion ..
    rw [if_pos hr, if_pos hr]
    refine ⟨rfl, fun q => ?_⟩
    rw [region_setRegion, he, he, if_pos rfl]
    split <;> rfl
  · rw [if_neg hr, if_neg hr]
    exact ⟨rfl, fun q => region_setRegion ..⟩

theorem regionSpilt_work (s : State) (r : Nat) (dom : BitVec 4) : SpillWork s (regionSpilt s r dom) := by
  unfold regionSpilt
  split
  · extract_lets s1 ps
    exact ((SpillWork.testLost s r).trans (.fenceHalf s1 r)).trans (SpillWork.foldl (fun u p => .routeLoss u p r 1) ps _)
  split
  · exact .stackLose ..
  · exact .ctlLose ..

/-- The cores of a half-field that is lost stand FENCED. -/
theorem regionSpilt_fenced {s : State} {r : Nat} (dom : BitVec 4) (hr : r < 168) {d : CoreId} (hd : coreKey d < s.gridRows * 1022)
    (hh : halfOfKey s (coreKey d) = r) : (regionSpilt s r dom).modes d = .fenced := by
  unfold regionSpilt
  rw [if_pos hr]
  extract_lets s1 ps
  have h1 := (SpillWork.testLost s r).form
  have hkey : coreKey d ∈ halfKeys s1 r := by
    have hrows : s1.gridRows = s.gridRows := by rw [show s1 = _ from h1]
    have hhalf : halfOfKey s1 (coreKey d) = halfOfKey s (coreKey d) := by rw [show s1 = _ from h1]; rfl
    refine List.mem_filter.2 ⟨List.mem_range.2 (hrows ▸ hd), ?_⟩
    rw [hhalf, hh]
    exact beq_self_eq_true r
  have hf : (fenceHalf s1 r).modes d = .fenced := (fenceCores_modes ..).trans (if_pos (List.mem_map.2 ⟨_, hkey, keyCore_coreKey d⟩))
  exact (SpillWork.foldl (fun u p => .routeLoss u p r 1) ps (fenceHalf s1 r)).fenced d hf

/-- A region lost: its state, its cores, and what stands. -/
theorem killRegion_spec (s : State) (r : Nat) (dom : BitVec 4) : let t := killRegion s r dom
    t.power = { s.power with regions := t.power.regions } ∧ (∀ q, t.region q = if q = r then regionDead (s.region r) dom else s.region q) ∧
      (r < 168 → HalfFenced s t r) := by
  obtain ⟨hform, hreg⟩ := regionMarked_spec s r dom
  have hw := regionSpilt_work (regionMarked s r dom) r dom
  have hfence : r < 168 → ∀ d, coreKey d < (regionMarked s r dom).gridRows * 1022 → halfOfKey (regionMarked s r dom) (coreKey d) = r →
      (regionSpilt (regionMarked s r dom) r dom).modes d = .fenced := fun hr d => regionSpilt_fenced dom hr
  rw [killRegion_eq]
  have hrows : (regionMarked s r dom).gridRows = s.gridRows := by rw [hform]
  have hret (k : Nat) : halfOfKey (regionMarked s r dom) k = halfOfKey s k := by rw [hform]; rfl
  have hpower : (regionMarked s r dom).power = { s.power with regions := (regionMarked s r dom).power.regions } := by rw [hform]
  generalize regionMarked s r dom = u at *
  intro t
  refine ⟨?_, fun q => (hw.region q).trans (hreg q), fun hr d hd hh => hfence hr d (hrows ▸ hd) ((hret _).trans hh)⟩
  rw [show t.power = u.power from hw.power]
  exact hpower

theorem dies_killRegion (s : State) (r : Nat) (dom : BitVec 4) (n : CellNote) : Dies s (noteCell (killRegion s r dom) n) r dom ∧
    Noted s (noteCell (killRegion s r dom) n) n := by
  obtain ⟨hpower, hreg, hfence⟩ := killRegion_spec s r dom
  have hr : (noteCell (killRegion s r dom) n).region r = regionDead (s.region r) dom := (hreg r).trans (if_pos rfl)
  have hrest := resting_iff (s.region r)
  refine ⟨⟨by rw [hr]; rfl, by rw [hr]; rfl, by rw [hr]; rfl, ?_, hfence⟩, ?_⟩
  · rw [hr, regionDead]
    simp only [hrest]
  · rw [Noted, noteCell]
    dsimp only
    rw [hpower]

end Sys2Proof.Machine
end

section
/-! PROOFS. Parks, unparks and soft starts. -/

namespace Sys2Proof.Machine

open Sys2Proof.Claims

/-! ## The cores of a half-field that are parked, unparked and woken (R49, R50) -/

/-- A core's state goes to `b` where P holds of it. -/
def Core.moved (P : Core → Prop) [DecidablePred P] (b : CoreMode) (c : Core) : Core := if P c then { c with st := b } else c

/-- The core at a key goes to `b` where P holds of it. -/
def coreMoved (P : Core → Prop) [DecidablePred P] (b : CoreMode) (s : State) (k : Nat) : State :=
  if P (s.core (keyCore k)) then s.setCore (keyCore k) { s.core (keyCore k) with st := b } else s

section
variable (P : Core → Prop) [DecidablePred P] (b : CoreMode)

theorem coreMoved_form (s : State) (k : Nat) : coreMoved P b s k = { s with cores := (coreMoved P b s k).cores } := by
  unfold coreMoved
  split <;> rfl

theorem coreMoved_core (s : State) (k : Nat) (d : CoreId) : (coreMoved P b s k).core d = if d = keyCore k then (s.core d).moved P b else s.core d := by
  unfold coreMoved
  by_cases hd : d = keyCore k
  · rw [if_pos hd, hd, Core.moved]
    split
    · exact (core_setCore ..).trans (if_pos rfl)
    · rfl
  · have hkey : coreKey d ≠ coreKey (keyCore k) := fun h => hd (by rw [← keyCore_coreKey d, h, keyCore_coreKey])
    rw [if_neg hd]
    split
    · exact (core_setCore ..).trans (if_neg hkey)
    · rfl

theorem coresMoved_form (ks : List Nat) (s : State) : ks.foldl (coreMoved P b) s = { s with cores := (ks.foldl (coreMoved P b) s).cores } := by
  induction ks generalizing s with
  | nil => rfl
  | cons k ks ih => rw [List.foldl_cons, ih, coreMoved_form]

/-- A core moved once, with P false of it then, is moved no more. -/
theorem coresMoved_core (hP : ∀ c : Core, ¬ P { c with st := b }) (d : CoreId) (ks : List Nat) :
    ∀ s : State, (ks.foldl (coreMoved P b) s).core d = if d ∈ ks.map keyCore then (s.core d).moved P b else s.core d := by
  have htwice (c : Core) : (c.moved P b).moved P b = c.moved P b := by
    unfold Core.moved
    by_cases hc : P c
    · rw [if_pos hc, if_neg (hP c)]
    · rw [if_neg hc, if_neg hc]
  induction ks with
  | nil => exact fun _ => rfl
  | cons k ks ih =>
    intro s
    rw [List.foldl_cons, ih, coreMoved_core, List.map_cons]
    by_cases hk : d = keyCore k
    · rw [if_pos hk, htwice, ite_self, if_pos (List.mem_cons.2 (.inl hk))]
    · rw [if_neg hk]
      simp only [List.mem_cons, hk, false_or]

end

theorem mem_halfKeys {s : State} (hg : s.gridRows ≤ 1080) (h : Nat) (d : CoreId) :
    d ∈ (halfKeys s h).map keyCore ↔ coreKey d < s.gridRows * 1022 ∧ halfOfKey s (coreKey d) = h := by
  constructor
  · intro hd
    obtain ⟨k, hk, rfl⟩ := List.mem_map.1 hd
    obtain ⟨hrange, hhalf⟩ := List.mem_filter.1 hk
    have hlt := List.mem_range.1 hrange
    rw [coreKey_keyCore (Nat.lt_of_lt_of_le hlt (Nat.mul_le_mul_right 1022 hg))]
    exact ⟨hlt, beq_iff_eq.1 hhalf⟩
  · rintro ⟨hlt, hhalf⟩
    exact List.mem_map.2 ⟨coreKey d, List.mem_filter.2 ⟨List.mem_range.2 hlt, beq_iff_eq.2 hhalf⟩, keyCore_coreKey d⟩

theorem coresTo_eq (s : State) (h : Nat) (a b : CoreMode) : coresTo s h a b = (halfKeys s h).foldl (coreMoved (fun c => c.st = a) b) s := rfl

theorem coresTo_form (s : State) (h : Nat) (a b : CoreMode) : coresTo s h a b = { s with cores := (coresTo s h a b).cores } := by
  rw [coresTo_eq]
  exact coresMoved_form ..

theorem coresTo_core {s : State} (hg : s.gridRows ≤ 1080) (h : Nat) {a b : CoreMode} (hab : b ≠ a) (d : CoreId) : (coresTo s h a b).core d =
    if (coreKey d < s.gridRows * 1022 ∧ halfOfKey s (coreKey d) = h) ∧ (s.core d).st = a then { s.core d with st := b } else s.core d := by
  rw [coresTo_eq, coresMoved_core (fun c => c.st = a) b (fun _ => hab)]
  simp only [mem_halfKeys hg, Core.moved]
  rw [← ite_and]

theorem wakeTapped_eq (s : State) (h : Nat) : wakeTapped s h =
    ((s.cores.map (·.1)).filter (fun k => halfOfKey s k == h)).foldl (coreMoved (fun c => c.st = .sleeping ∧ wantsWake c) .running) s := rfl

theorem wakeTapped_form (s : State) (h : Nat) : wakeTapped s h = { s with cores := (wakeTapped s h).cores } := by
  rw [wakeTapped_eq]
  exact coresMoved_form ..

/-- A core that sleeps, which a tap flag wakes where it is set. -/
theorem wakeTapped_core {s : State} {h : Nat} {d : CoreId} (hh : halfOfKey s (coreKey d) = h) (hst : (s.core d).st = .sleeping) :
    (wakeTapped s h).core d = { s.core d with st := if wantsWake (s.core d) then .running else .sleeping } := by
  rw [wakeTapped_eq, coresMoved_core (fun c => c.st = .sleeping ∧ wantsWake c) .running (fun _ hc => CoreMode.noConfusion hc.1)]
  by_cases hw : wantsWake (s.core d) = true
  · have hlisted : Tab.find s.cores (coreKey d) ≠ none := by
      intro hnone
      have hcore : s.core d = {} := by
        rw [State.core, Tab.get, hnone]
        rfl
      rw [hcore] at hw
      exact Bool.false_ne_true ((show wantsWake {} = false by decide).symm.trans hw)
    have hmem : coreKey d ∈ (s.cores.map (·.1)).filter (fun k => halfOfKey s k == h) :=
      List.mem_filter.2 ⟨(Tab.mem_keys_iff ..).2 hlisted, beq_iff_eq.2 hh⟩
    rw [if_pos (List.mem_map.2 ⟨_, hmem, keyCore_coreKey d⟩), Core.moved, if_pos ⟨hst, hw⟩, if_pos hw]
  · have hstay : (s.core d).moved (fun c => c.st = .sleeping ∧ wantsWake c) .running = s.core d := if_neg (fun hc => hw hc.2)
    rw [hstay, ite_self, if_neg hw, ← hst]

/-! ## A region that comes up from a stale copy (R448) -/

/-- A stale copy counted, logged and reported. -/
def staleTold (s : State) (p h : Nat) (copy epoch : Word) : State :=
  let s := cntAdd s 0 0 0xD01030 1
  let s := if p = 0 then s else regOr s p 0 0xD00014 (bits 29 29)
  let s := logRecord s 5 0x2A p h copy epoch
  reportP s 0x2A .region 2 p (BitVec.ofNat 32 h) copy epoch

theorem staleTold_logWork (s : State) (p h : Nat) (copy epoch : Word) : LogWork s (staleTold s p h copy epoch) := by
  unfold staleTold
  extract_lets s1 s2 s3
  have h1 : LogWork s s1 := (OnlyReports.cntAdd ..).logWork
  have h2 : LogWork s1 s2 := by
    unfold s2
    split
    · rfl
    · exact (OnlyReports.regOr ..).logWork
  exact ((h1.trans h2).trans (logRecord_logWork ..)).trans (OnlyReports.reportP ..).logWork

/-- The cores of a stale half-field fenced. -/
def staleFenced (s : State) (h : Nat) : State :=
  fenceCores s (partOfField s (h / 2)) EXT_FENCE (((s.cores.map (·.1)).filter (fun k => halfOfKey s k == h)).map keyCore)

theorem staleRegion_eq (s : State) (h : Nat) : staleRegion s h =
    staleTold (freshCores (staleFenced s h) [h]) (partOfField s (h / 2)) h (s.region h).copy (s.region h).epoch := rfl

/-- A stale half-field: its region takes a new epoch, its cores are as at reset. -/
theorem staleRegion_spec {s : State} (hg : s.gridRows ≤ 1080) (h : Nat) : let t := staleRegion s h
    (∀ r, t.region r = if r = h then { s.region h with epoch := (s.region h).epoch + 1, copy := (s.region h).epoch + 1 } else s.region r) ∧
      ∀ d, halfOfKey s (coreKey d) = h → (s.region h).st ≠ .dead → t.core d = {} := by
  rw [staleRegion_eq]
  have h1 : staleFenced s h = _ := fenceCores_fenceWork ..
  generalize staleFenced s h = s1 at h1
  have hregion (j : Nat) : s1.region j = s.region j := by rw [h1]; rfl
  have hhalf (k : Nat) : halfOfKey s1 k = halfOfKey s k := by rw [h1]; rfl
  have hrows : s1.gridRows = s.gridRows := by rw [h1]
  have hfresh := fresh_freshCores (s := s1) (hrows ▸ hg) [h]
  have hepoch := freshCores_one_region s1 h
  generalize freshCores s1 [h] = s2 at hfresh hepoch
  have ht := staleTold_logWork s2 (partOfField s (h / 2)) h (s.region h).copy (s.region h).epoch
  generalize staleTold s2 (partOfField s (h / 2)) h (s.region h).copy (s.region h).epoch = t at ht
  refine ⟨fun j => ?_, fun d hd hst => ?_⟩
  · rw [← hregion h, ← hregion j, ← hepoch, show t = _ from ht]
    rfl
  · have hd1 : halfOfKey s1 (coreKey d) = h := (hhalf _).trans hd
    rw [← hfresh d (by rw [hd1]; simp) (by rw [hd1, hregion]; exact hst), show t = _ from ht]
    rfl

/-! ## The set-points of a soft start (R366 to R368) -/

/-- The free choice of one rail's set-point. -/
def softPick (s : State) (y : PRegion) (x : Rail) (i : Nat) : Nat :=
  if y.held x then max (railLow x) (Tab.get 0 y.mv (railNo x))
  else railLow x + 5 * (Config.freeNat (s.draws + i) % ((railHigh x - railLow x) / 5 + 1))

def softLogic (s : State) (y : PRegion) : Nat := if y.suspect then min 650 (softPick s y .logic 0) else softPick s y .logic 0

def softNear (s : State) (y : PRegion) : Nat := if y.held .near then softPick s y .near 1 else max (softPick s y .near 1) (softLogic s y)

/-- A half-field with its set-points. -/
def softHalf (s : State) (y : PRegion) : PRegion :=
  (((y.setMv .logic (min (softLogic s y) (softNear s y))).setMv .near (softNear s y)).setMv .stack (softPick s y .stack 2)).setMv .links (softPick s y .links 3)

theorem softPoints_half (s : State) {r : Nat} (hr : r < 168) :
    softPoints s r = { s.setRegion r (softHalf s (s.region r)) with draws := s.draws + 4 } := by
  have h : (if r < 168 then softHalf s (s.region r) else (s.region r).setMv .mif 750) = _ := if_pos hr
  exact congrArg (fun y => { s.setRegion r y with draws := s.draws + 4 }) h

theorem softPoints_chiplet (s : State) {r : Nat} (hr : 168 ≤ r) :
    softPoints s r = { s.setRegion r ((s.region r).setMv .mif 750) with draws := s.draws + 4 } := by
  have h : (if r < 168 then softHalf s (s.region r) else (s.region r).setMv .mif 750) = _ := if_neg (Nat.not_lt.2 hr)
  exact congrArg (fun y => { s.setRegion r y with draws := s.draws + 4 }) h

theorem set_of_awake {y : PRegion} (h : y.resting = false) (a : Rail) : y.set a = Tab.get 0 y.mv (railNo a) := by
  rw [PRegion.set, h]
  rfl

theorem set_of_on {y : PRegion} (h : y.st = .on) (a : Rail) : y.set a = Tab.get 0 y.mv (railNo a) := by
  refine set_of_awake ?_ a
  rw [Bool.eq_false_iff]
  intro hr
  rw [resting_iff, h] at hr
  simp at hr

/-- The set-points of a half-field that has soft-started. -/
theorem softHalf_set (s : State) {y : PRegion} (h : y.st = .on) :
    (softHalf s y).set .logic = min (softLogic s y) (softNear s y) ∧ (softHalf s y).set .near = softNear s y ∧
      (softHalf s y).set .stack = softPick s y .stack 2 ∧ (softHalf s y).set .links = softPick s y .links 3 := by
  have hset := set_of_on (y := softHalf s y) h
  rw [hset, hset, hset, hset]
  simp [softHalf, PRegion.setMv, railNo, Tab.get_put]

theorem softPick_held {s : State} {y : PRegion} {x : Rail} (i : Nat) (h : y.held x = true) : softPick s y x i = max (railLow x) (Tab.get 0 y.mv (railNo x)) :=
  if_pos h

/-- A free set-point lies in its range, on a step of 5 mV. -/
theorem softPick_free {s : State} {y : PRegion} {x : Rail} (i : Nat) (h : y.held x = false) :
    railLow x ≤ softPick s y x i ∧ softPick s y x i ≤ railHigh x ∧ (softPick s y x i - railLow x) % 5 = 0 := by
  have hp : softPick s y x i = railLow x + 5 * (Config.freeNat (s.draws + i) % ((railHigh x - railLow x) / 5 + 1)) := if_neg (by rw [h]; exact Bool.false_ne_true)
  have hlt : Config.freeNat (s.draws + i) % ((railHigh x - railLow x) / 5 + 1) < (railHigh x - railLow x) / 5 + 1 := Nat.mod_lt _ (Nat.succ_pos _)
  rw [hp]
  generalize Config.freeNat (s.draws + i) % ((railHigh x - railLow x) / 5 + 1) = n at hlt
  have hrange : railLow x ≤ railHigh x := by cases x <;> decide
  omega

theorem softLogic_suspect {s : State} {y : PRegion} (h : y.suspect = true) : softLogic s y ≤ 650 := by
  rw [softLogic, if_pos h]
  exact Nat.min_le_left ..

/-- With no rail held, the set-points of logic and near array lie in their ranges. -/
theorem softNear_free {s : State} {y : PRegion} (h : ∀ a, y.held a = false) :
    (700 ≤ softNear s y ∧ softNear s y ≤ 850 ∧ (softNear s y - 700) % 5 = 0) ∧
      550 ≤ min (softLogic s y) (softNear s y) ∧ min (softLogic s y) (softNear s y) ≤ 850 ∧ (min (softLogic s y) (softNear s y) - 550) % 5 = 0 := by
  have hn := softPick_free (s := s) 1 (h .near)
  have hl := softPick_free (s := s) 0 (h .logic)
  have hnear : softNear s y = max (softPick s y .near 1) (softLogic s y) := if_neg (by rw [h .near]; exact Bool.false_ne_true)
  simp only [railLow, railHigh] at hn hl
  rw [hnear, softLogic]
  split <;> omega

end Sys2Proof.Machine
end

section
/-! PROOFS. Ramps, shorts and losses of power regions (O40). -/

namespace Sys2Proof.Machine

open Sys2Proof.Claims

/-! ## The ends of ramps (R371, R374) -/

section
variable {s : State} {g : Sys2Proof.Region}

theorem rampDone_idle (h : (s.region g.val).st ≠ .ramping) : exec (.rampDone g) s = .next s := congrArg Host.Outcome.next (if_pos h)

theorem rampDone_park (hst : (s.region g.val).st = .ramping) (hr : (s.region g.val).ramp = .park) : exec (.rampDone g) s = .next
    (if mayGate s g.val then coresTo (s.setRegion g.val { s.region g.val with st := .retained, tries := 0, asleep := 0, lever := none }) g.val .sleeping .retained
      else s.setRegion g.val { s.region g.val with st := .on, tries := 0 }) := by
  refine congrArg Host.Outcome.next ((if_neg (not_not.2 hst)).trans ?_)
  split
  · rfl
  · next h => cases hr.symm.trans h
  · next h => cases hr.symm.trans h

/-- A region whose unpark has ended. -/
def regionUnparked (s : State) (r : Nat) : State := s.setRegion r { s.region r with st := .on, tries := 0, hold := s.tamb.parkHold, asleep := 0 }

theorem rampDone_unpark (hst : (s.region g.val).st = .ramping) (hr : (s.region g.val).ramp = .unpark) :
    exec (.rampDone g) s = .next (unparked (regionUnparked s g.val) g.val) := by
  refine congrArg Host.Outcome.next ((if_neg (not_not.2 hst)).trans ?_)
  split
  · next h => cases hr.symm.trans h
  · rfl
  · next h => cases hr.symm.trans h

/-- A region whose soft start has ended, its set-points yet to be chosen. -/
def regionSofted (s : State) (r : Nat) : State := s.setRegion r { s.region r with st := .on, tries := 0, asleep := 0, hold := 0 }

theorem rampDone_soft (hst : (s.region g.val).st = .ramping) (hr : (s.region g.val).ramp = .soft) : exec (.rampDone g) s = .next
    (if g.val < 168 then newEpoch (softPoints (regionSofted s g.val) g.val) g.val else softPoints (regionSofted s g.val) g.val) := by
  refine congrArg Host.Outcome.next ((if_neg (not_not.2 hst)).trans ?_)
  split
  · next h => cases hr.symm.trans h
  · next h => cases hr.symm.trans h
  · rfl

end

section
variable {s : State} {g : Sys2Proof.Region} (hg : s.gridRows ≤ 1080)
include hg

theorem rampDone_parks (hst : (s.region g.val).st = .ramping) (hr : (s.region g.val).ramp = .park) (hm : mayGate s g.val = true) :
    Nexts (.rampDone g) s (fun t => t = { s with power := t.power, cores := t.cores } ∧
      t.region g.val = { s.region g.val with st := .retained, tries := 0, asleep := 0, lever := none } ∧ (∀ q, q ≠ g.val → t.region q = s.region q) ∧
      ∀ d, t.core d = if (coreKey d < s.gridRows * 1022 ∧ halfOfKey s (coreKey d) = g.val) ∧ (s.core d).st = .sleeping
        then { s.core d with st := .retained } else s.core d) := by
  refine ⟨_, (rampDone_park hst hr).trans (congrArg Host.Outcome.next (if_pos hm)), ?_⟩
  have hcore := coresTo_core (s := s.setRegion g.val { s.region g.val with st := .retained, tries := 0, asleep := 0, lever := none }) hg g.val
    (a := .sleeping) (b := .retained) CoreMode.noConfusion
  rw [coresTo_form] at hcore ⊢
  exact ⟨rfl, (region_setRegion ..).trans (if_pos rfl), fun _ hq => (region_setRegion ..).trans (if_neg hq), hcore⟩

theorem rampDone_unparks (hst : (s.region g.val).st = .ramping) (hr : (s.region g.val).ramp = .unpark) (hc : (s.region g.val).copy = (s.region g.val).epoch) :
    Nexts (.rampDone g) s (fun t => t = { s with power := t.power, cores := t.cores } ∧
      t.region g.val = { s.region g.val with st := .on, tries := 0, asleep := 0, hold := s.tamb.parkHold } ∧ (∀ q, q ≠ g.val → t.region q = s.region q) ∧
      ∀ d, coreKey d < s.gridRows * 1022 ∧ halfOfKey s (coreKey d) = g.val → (s.core d).st = .retained →
        t.core d = { s.core d with st := if wantsWake (s.core d) then .running else .sleeping }) := by
  have hreg (q : Nat) : (regionUnparked s g.val).region q = _ := region_setRegion ..
  have hcore := coresTo_core (s := regionUnparked s g.val) hg g.val (a := .retained) (b := .sleeping) CoreMode.noConfusion
  have hform := coresTo_form (regionUnparked s g.val) g.val .retained .sleeping
  have hexec := rampDone_unpark hst hr
  unfold unparked at hexec
  generalize coresTo (regionUnparked s g.val) g.val .retained .sleeping = u at hcore hform hexec
  have hureg (q : Nat) : u.region q = (regionUnparked s g.val).region q := by rw [hform]; rfl
  have hstale : ¬ isStale u g.val = true := by
    rw [isStale, hureg, hreg, if_pos rfl]
    simpa using hc
  refine ⟨_, hexec.trans (congrArg Host.Outcome.next (if_neg hstale)), ?_, ?_, fun q hq => ?_, fun d hd hret => ?_⟩
  · rw [wakeTapped_form, hform]
    rfl
  · rw [wakeTapped_form]
    exact (hureg _).trans ((hreg _).trans (if_pos rfl))
  · rw [wakeTapped_form]
    exact (hureg q).trans ((hreg q).trans (if_neg hq))
  · have hu : u.core d = { s.core d with st := .sleeping } := (hcore d).trans (if_pos ⟨hd, hret⟩)
    have hhalf : halfOfKey u (coreKey d) = g.val := by
      rw [hform]
      exact hd.2
    rw [wakeTapped_core hhalf (by rw [hu]), hu]
    rfl

theorem rampDone_stale (hst : (s.region g.val).st = .ramping) (hr : (s.region g.val).ramp = .unpark) (hc : (s.region g.val).copy ≠ (s.region g.val).epoch) :
    Nexts (.rampDone g) s (fun t => (t.region g.val).st = .on ∧ (t.region g.val).copy = (t.region g.val).epoch ∧
      (t.region g.val).epoch = (s.region g.val).epoch + 1 ∧ ∀ d, coreKey d < s.gridRows * 1022 ∧ halfOfKey s (coreKey d) = g.val → t.core d = {}) := by
  have hreg : (regionUnparked s g.val).region g.val = _ := (region_setRegion ..).trans (if_pos rfl)
  have hform := coresTo_form (regionUnparked s g.val) g.val .retained .sleeping
  have hexec := rampDone_unpark hst hr
  unfold unparked at hexec
  generalize coresTo (regionUnparked s g.val) g.val .retained .sleeping = u at hform hexec
  have hureg : u.region g.val = { s.region g.val with st := .on, tries := 0, hold := s.tamb.parkHold, asleep := 0 } := by
    rw [hform]
    exact hreg
  have hstale : isStale u g.val = true := by
    rw [isStale, hureg]
    simpa using hc
  have hrows : u.gridRows = s.gridRows := by rw [hform]; rfl
  have hhalf (k : Nat) : halfOfKey u k = halfOfKey s k := by rw [hform]; rfl
  obtain ⟨hregion, hfresh⟩ := staleRegion_spec (s := u) (hrows ▸ hg) g.val
  have hnow := (hregion g.val).trans (if_pos rfl)
  refine ⟨_, hexec.trans (congrArg Host.Outcome.next (if_pos hstale)), ?_, ?_, ?_, fun d hd => ?_⟩
  · rw [hnow, hureg]
  · rw [hnow]
  · rw [hnow, hureg]
  · exact hfresh d ((hhalf _).trans hd.2) (by rw [hureg]; exact RegionSt.noConfusion)

end

section
variable {s : State} {g : Sys2Proof.Region}

/-- A half-field takes new set-points and a new epoch. -/
theorem rampDone_softHalf (hst : (s.region g.val).st = .ramping) (hr : (s.region g.val).ramp = .soft) (hh : g.val < 168) :
    Nexts (.rampDone g) s (fun t => t = { s with power := t.power, draws := t.draws } ∧ (∀ q, q ≠ g.val → t.region q = s.region q) ∧
      t.region g.val = { softHalf s { s.region g.val with st := .on, tries := 0, asleep := 0, hold := 0 } with
        epoch := (s.region g.val).epoch + 1, copy := (s.region g.val).epoch + 1 }) := by
  have hreg (q : Nat) : (regionSofted s g.val).region q = _ := region_setRegion ..
  have hset (y : PRegion) (q : Nat) : ((regionSofted s g.val).setRegion g.val y).region q = if q = g.val then y else (regionSofted s g.val).region q := region_setRegion ..
  have hsoft : (regionSofted s g.val).region g.val = { s.region g.val with st := .on, tries := 0, asleep := 0, hold := 0 } := (hreg _).trans (if_pos rfl)
  refine ⟨_, (rampDone_soft hst hr).trans (congrArg Host.Outcome.next (if_pos hh)), ?_, fun q hq => ?_, ?_⟩
  · rw [softPoints_half _ hh]
    rfl
  · rw [region_newEpoch, if_neg hq, softPoints_half _ hh]
    exact (hset _ q).trans ((if_neg hq).trans ((hreg q).trans (if_neg hq)))
  · have hnow : (softPoints (regionSofted s g.val) g.val).region g.val = softHalf (regionSofted s g.val) ((regionSofted s g.val).region g.val) := by
      rw [softPoints_half _ hh]
      exact (hset _ _).trans (if_pos rfl)
    rw [region_newEpoch, if_pos rfl, hnow, hsoft]
    rfl

theorem rampDone_softChiplet (hst : (s.region g.val).st = .ramping) (hr : (s.region g.val).ramp = .soft) (hh : 168 ≤ g.val) :
    Nexts (.rampDone g) s (fun t => t = { s with power := t.power, draws := t.draws } ∧ (∀ q, q ≠ g.val → t.region q = s.region q) ∧
      t.region g.val = ({ s.region g.val with st := .on, tries := 0, asleep := 0, hold := 0 } : PRegion).setMv .mif 750) := by
  have hreg (q : Nat) : (regionSofted s g.val).region q = _ := region_setRegion ..
  have hset (y : PRegion) (q : Nat) : ((regionSofted s g.val).setRegion g.val y).region q = if q = g.val then y else (regionSofted s g.val).region q := region_setRegion ..
  refine ⟨_, (rampDone_soft hst hr).trans (congrArg Host.Outcome.next (if_neg (Nat.not_lt.2 hh))), ?_, fun q hq => ?_, ?_⟩
  · rw [softPoints_chiplet _ hh]
    rfl
  · rw [softPoints_chiplet _ hh]
    exact (hset _ q).trans ((if_neg hq).trans ((hreg q).trans (if_neg hq)))
  · rw [softPoints_chiplet _ hh]
    refine (hset _ _).trans ((if_pos rfl).trans ?_)
    rw [hreg, if_pos rfl]

/-- The set-points a soft start leaves a half-field. -/
theorem softHalf_bounds (s : State) {x : PRegion} (hx : x.resting = false) :
    let y := softHalf s { x with st := .on, tries := 0, asleep := 0, hold := 0 }
    y.set .logic ≤ y.set .near ∧ (x.suspect = true → y.set .logic ≤ 650) ∧
      (∀ a ∈ [Rail.near, .stack, .links], x.held a = true → y.set a = max (railLow a) (x.set a)) ∧
      ((∀ a, x.held a = false) → ∀ a ∈ [Rail.logic, .near, .stack, .links],
        railLow a ≤ y.set a ∧ y.set a ≤ railHigh a ∧ (y.set a - railLow a) % 5 = 0) := by
  intro y
  obtain ⟨hlogic, hnear, hstack, hlinks⟩ := softHalf_set s (y := { x with st := .on, tries := 0, asleep := 0, hold := 0 }) rfl
  rw [show y.set .logic = _ from hlogic, show y.set .near = _ from hnear]
  refine ⟨Nat.min_le_right .., fun hs => Nat.le_trans (Nat.min_le_left ..) (softLogic_suspect hs), fun a ha hh => ?_, fun hfree => ?_⟩
  · rw [set_of_awake hx]
    simp only [List.mem_cons, List.not_mem_nil, or_false] at ha
    obtain rfl | rfl | rfl := ha
    · exact hnear.trans ((if_pos hh).trans (softPick_held 1 hh))
    · exact hstack.trans (softPick_held 2 hh)
    · exact hlinks.trans (softPick_held 3 hh)
  · obtain ⟨hn, hl⟩ := softNear_free (s := s) (y := { x with st := .on, tries := 0, asleep := 0, hold := 0 }) hfree
    intro a ha
    simp only [List.mem_cons, List.not_mem_nil, or_false] at ha
    obtain rfl | rfl | rfl | rfl := ha
    · rw [show y.set .logic = _ from hlogic]
      exact hl
    · rw [show y.set .near = _ from hnear]
      exact hn
    · rw [show y.set .stack = _ from hstack]
      exact softPick_free 2 (hfree .stack)
    · rw [show y.set .links = _ from hlinks]
      exact softPick_free 3 (hfree .links)

/-- A soft start that ends: the region's set-points, and its epoch where it is a half-field. -/
theorem rampDone_softs (hst : (s.region g.val).st = .ramping) (hr : (s.region g.val).ramp = .soft) :
    let x := s.region g.val
    Nexts (.rampDone g) s (fun t => t = { s with power := t.power, draws := t.draws } ∧ (t.region g.val).st = .on ∧
      (t.region g.val).tries = 0 ∧ (∀ q, q ≠ g.val → t.region q = s.region q) ∧
      (g.val < 168 → (t.region g.val).epoch = x.epoch + 1 ∧ (t.region g.val).copy = x.epoch + 1 ∧
        (t.region g.val).set .logic ≤ (t.region g.val).set .near ∧ (x.suspect = true → (t.region g.val).set .logic ≤ 650) ∧
        (∀ a ∈ [Rail.near, .stack, .links], x.held a = true → (t.region g.val).set a = max (railLow a) (x.set a)) ∧
        ((∀ a, x.held a = false) → ∀ a ∈ [Rail.logic, .near, .stack, .links],
          railLow a ≤ (t.region g.val).set a ∧ (t.region g.val).set a ≤ railHigh a ∧ ((t.region g.val).set a - railLow a) % 5 = 0)) ∧
      (168 ≤ g.val → (t.region g.val).set .mif = 750)) := by
  intro x
  by_cases hh : g.val < 168
  · obtain ⟨t, hexec, hform, hother, hreg⟩ := rampDone_softHalf hst hr hh
    have hrest : x.resting = false := by
      rw [Bool.eq_false_iff, ne_eq, resting_iff, hst, hr]
      simp
    have hbounds := softHalf_bounds s hrest
    refine ⟨t, hexec, hform, ?_, ?_, hother, fun _ => ?_, fun hn => absurd hh (Nat.not_lt.2 hn)⟩
    · rw [hreg]
      rfl
    · rw [hreg]
      rfl
    · rw [hreg]
      exact ⟨rfl, rfl, hbounds⟩
  · obtain ⟨t, hexec, hform, hother, hreg⟩ := rampDone_softChiplet hst hr (Nat.not_lt.1 hh)
    refine ⟨t, hexec, hform, ?_, ?_, hother, fun hn => absurd hn hh, fun _ => ?_⟩
    · rw [hreg]
      rfl
    · rw [hreg]
      rfl
    · rw [hreg, set_of_on rfl]
      exact Tab.get_put_same ..

/-! ## Shorts, retries and losses (R373, R374) -/

theorem rampShort_idle (dom : BitVec 4) (h : (s.region g.val).st ≠ .ramping) : exec (.rampShort g dom) s = .next s := congrArg Host.Outcome.next (if_pos h)

theorem rampShort_retries (dom : BitVec 4) (hst : (s.region g.val).st = .ramping) (hn : (s.region g.val).tries < 2) :
    Nexts (.rampShort g dom) s (fun t => t = { s with power := t.power } ∧ (∀ q, q ≠ g.val → t.region q = s.region q) ∧
      Noted s t (.ramp g.val dom ((s.region g.val).tries + 1) false) ∧
      t.region g.val = { s.region g.val with st := .retry, tries := (s.region g.val).tries + 1,
                                             epoch := if (s.region g.val).ramp = .unpark then (s.region g.val).epoch + 1 else (s.region g.val).epoch }) := by
  have hdead : decide (3 ≤ (s.region g.val).tries + 1) = false := decide_eq_false (by omega)
  have hset (q : Nat) : (s.setRegion g.val { s.region g.val with st := .retry, tries := (s.region g.val).tries + 1 }).region q = _ := region_setRegion ..
  have hexec : exec (.rampShort g dom) s = .next (noteCell (if (s.region g.val).ramp = .unpark
      then epochPast (s.setRegion g.val { s.region g.val with st := .retry, tries := (s.region g.val).tries + 1 }) g.val
      else s.setRegion g.val { s.region g.val with st := .retry, tries := (s.region g.val).tries + 1 }) (.ramp g.val dom ((s.region g.val).tries + 1) false)) := by
    refine congrArg Host.Outcome.next ((if_neg (not_not.2 hst)).trans ?_)
    dsimp only
    rw [hdead]
    rfl
  refine ⟨_, hexec, ?_⟩
  by_cases hu : (s.region g.val).ramp = .unpark
  · rw [if_pos hu, if_pos hu]
    have hpast (q : Nat) : (epochPast (s.setRegion g.val { s.region g.val with st := .retry, tries := (s.region g.val).tries + 1 }) g.val).region q = _ := region_setRegion ..
    refine ⟨rfl, fun q hq => ?_, rfl, ?_⟩
    · exact (hpast q).trans ((if_neg hq).trans ((hset q).trans (if_neg hq)))
    · refine (hpast g.val).trans ((if_pos rfl).trans ?_)
      rw [hset, if_pos rfl]
  · rw [if_neg hu, if_neg hu]
    exact ⟨rfl, fun q hq => (hset q).trans (if_neg hq), rfl, (hset _).trans (if_pos rfl)⟩

theorem rampShort_dies (dom : BitVec 4) (hst : (s.region g.val).st = .ramping) (hn : 2 ≤ (s.region g.val).tries) :
    Nexts (.rampShort g dom) s (fun t => Dies s t g.val dom ∧ Noted s t (.ramp g.val dom ((s.region g.val).tries + 1) true)) := by
  have hdead : decide (3 ≤ (s.region g.val).tries + 1) = true := decide_eq_true (by omega)
  have hexec : exec (.rampShort g dom) s = .next (noteCell (killRegion s g.val dom) (.ramp g.val dom ((s.region g.val).tries + 1) true)) := by
    refine congrArg Host.Outcome.next ((if_neg (not_not.2 hst)).trans ?_)
    dsimp only
    rw [hdead]
    rfl
  exact ⟨_, hexec, dies_killRegion ..⟩

theorem retryExpiry_stays (hst : (s.region g.val).st = .retry) (hr : (s.region g.val).ramp = .park) (hm : mayGate s g.val = false) :
    exec (.retryExpiry g) s = .next (s.setRegion g.val { s.region g.val with st := .on, tries := 0 }) :=
  congrArg Host.Outcome.next ((if_neg (not_not.2 hst)).trans (if_pos ⟨hr, hm⟩))

theorem retryExpiry_ramps (hst : (s.region g.val).st = .retry) (hr : (s.region g.val).ramp ≠ .park ∨ mayGate s g.val = true) :
    Nexts (.retryExpiry g) s (fun t => t = { s with power := t.power, regs := t.regs } ∧ t.region g.val = { s.region g.val with st := .ramping } ∧
      (∀ q, q ≠ g.val → t.region q = s.region q) ∧ reg64 t 0 0 0x900068 = reg64 s 0 0 0x900068 + 1) := by
  have hnot : ¬ ((s.region g.val).ramp = .park ∧ mayGate s g.val = false) := by
    rintro ⟨hp, hm⟩
    exact hr.elim (fun h => h hp) (fun h => Bool.false_ne_true (hm.symm.trans h))
  have hset (q : Nat) : (s.setRegion g.val { s.region g.val with st := .ramping }).region q = _ := region_setRegion ..
  refine ⟨_, congrArg Host.Outcome.next ((if_neg (not_not.2 hst)).trans (if_neg hnot)), rfl, ?_, fun q hq => ?_, ?_⟩
  · exact (hset _).trans (if_pos rfl)
  · exact (hset q).trans (if_neg hq)
  · exact (reg64_cntAdd ..).trans rfl

theorem retentionDroop_iff (g : Sys2Proof.Region) : (g.val < 168 ∧ (s.region g.val).resting = true) ↔
    g.val < 168 ∧ ((s.region g.val).st = .retained ∨ (((s.region g.val).st = .ramping ∨ (s.region g.val).st = .retry) ∧ (s.region g.val).ramp = .unpark)) := by
  rw [resting_iff]

/-- A region lost, or shorted in service, is DEAD where it was in service. -/
theorem lossTrip_spec (dom : BitVec 4) {e : Instr × CellNote} (he : e ∈ [(Instr.regionLost g dom, CellNote.lost g.val dom), (.shortTrip g dom, .trip g.val dom)]) :
    (¬ ((s.region g.val).st = .on ∨ (s.region g.val).st = .retained ∨ (s.region g.val).st = .retry) → exec e.1 s = .next s) ∧
      ((s.region g.val).st = .on ∨ (s.region g.val).st = .retained ∨ (s.region g.val).st = .retry →
        Nexts e.1 s (fun t => Dies s t g.val dom ∧ Noted s t e.2)) := by
  have hexec : exec e.1 s = .next (if (s.region g.val).canDie then noteCell (killRegion s g.val dom) e.2 else s) := by
    simp only [List.mem_cons, List.not_mem_nil, or_false] at he
    obtain rfl | rfl := he <;> rfl
  refine ⟨fun hd => ?_, fun hd => ⟨_, hexec.trans (congrArg Host.Outcome.next (if_pos ((canDie_iff _).2 hd))), dies_killRegion ..⟩⟩
  exact hexec.trans (congrArg Host.Outcome.next (if_neg (mt (canDie_iff _).1 hd)))

end

/-- Settles O40: a ramp that is done parks, unparks or brings up its region; a short retries or kills it; losses kill it. -/
theorem regionRamps : Obligations.RegionRamps := by
  unfold Obligations.RegionRamps
  intro s g hg r x mine
  refine ⟨rampDone_idle, fun hst hr hm => ?_, fun hst hr hm => rampDone_parks hg hst hr hm, fun hst hr hc => rampDone_unparks hg hst hr hc,
    fun hst hr hc => rampDone_stale hg hst hr hc, rampDone_softs, fun dom => ⟨rampShort_idle dom, rampShort_retries dom, rampShort_dies dom⟩,
    fun hst => congrArg Host.Outcome.next (if_pos hst), fun hst hr hm => regionSet (retryExpiry_stays hst hr hm), retryExpiry_ramps, ?_,
    fun dom e he => lossTrip_spec dom he⟩
  · exact regionSet ((rampDone_park hst hr).trans (congrArg Host.Outcome.next (if_neg (by rw [hm]; exact Bool.false_ne_true))))
  · intro droops
    refine ⟨fun hd => congrArg Host.Outcome.next (if_neg (mt (retentionDroop_iff g).1 hd)), fun hd => ?_⟩
    exact regionSet (y := { x with epoch := x.epoch + 1 }) (congrArg Host.Outcome.next (if_pos ((retentionDroop_iff g).2 hd)))

end Sys2Proof.Machine
end

section
/-! PROOFS. PART_CMD: refusals, resets, transit grants. -/

namespace Sys2Proof.Machine

open Sys2Proof.Claims

/-! ## A reset leaves the control registers of PART_CMD alone -/

section
variable {off : Nat} (h : CtrlOff off)
include h

theorem CtrlOff.laneAbandon (s : State) (n : Nat) : RegFixed off s (laneAbandon s n) := by
  unfold Machine.laneAbandon
  dsimp only
  split
  · exact .of_regs (by rw [(laneApply_spec ..).2, endArrivals_form]; rfl)
  · exact .refl off s

theorem CtrlOff.writeCpl (s : State) (p : Nat) {q : Nat} (hq : q < 8) : RegFixed off s (writeCpl s p q) := by
  have hoff (o : Nat) (ho : o < 0x1000) : off ≠ hqOff q o ∧ hqOff q o < 2 ^ 26 := by
    unfold CtrlOff at h
    simp only [hqOff]
    omega
  have hlt : off < 2 ^ 26 := by
    unfold CtrlOff at h
    omega
  have hcpl (c : HCmd) (st : BitVec 8) (res : Word) : RegFixed off s (cplWritten s p q c st res) := by
    unfold cplWritten
    dsimp only
    refine RegFixed.trans (.of_regs ?_) (.cntAdd _ p 0 1 hlt ?_ (hoff 0x28 (by decide)).1 (hoff 0x2C (by decide)).1)
    · split <;> rfl
    · exact (hoff 0x2C (by decide)).2
  obtain e | e | ⟨c, st, res, e | ⟨w, e⟩⟩ := writeCpl_cases s p q <;> rw [e]
  · exact .refl _ _
  · exact .of_regs rfl
  · exact hcpl c st res
  · exact (hcpl c st res).trans (.regSet _ p 0 w hlt (hoff 0x20 (by decide)).2 (hoff 0x20 (by decide)).1)

theorem CtrlOff.stopQueue (s : State) (p : Nat) {q : Nat} (hq : q < 8) : RegFixed off s (stopQueue s p q) := by
  have hbusy : RegFixed off s (abortedIfBusy s p q) := by
    unfold abortedIfBusy
    split
    · exact ((RegFixed.of_regs (by rw [cutCmd_form])).trans (t := cutCmd s p q) (u := failCmd (cutCmd s p q) p q 6) (.of_regs rfl)).trans (h.writeCpl _ p hq)
    · exact .refl off s
  have hoff : off < 2 ^ 26 ∧ hqOff q 0x10 < 2 ^ 26 ∧ off ≠ hqOff q 0x10 := by
    unfold CtrlOff at h
    simp only [hqOff]
    omega
  rw [stopQueue_eq]
  exact (hbusy.trans (u := setHq (abortedIfBusy s p q) p q _) (.of_regs rfl)).trans (.regSet _ p 0 _ hoff.1 hoff.2.1 hoff.2.2)

theorem CtrlOff.clearLanes (s : State) (p : Nat) : RegFixed off s (clearLanes s p) := by
  unfold Machine.clearLanes
  extract_lets ls s1 s2 x s3
  have h1 : RegFixed off s s1 := RegFixed.foldl (fun u n => h.laneAbandon u n) ls s
  have h2 : RegFixed off s1 s2 := RegFixed.foldl (f := fun s n => s.setLane n { owner := p, st := if (s.lane n).st = .failed then .failed else .idle })
    (fun _ _ => .of_regs rfl) ls s1
  have h3 : RegFixed off s2 s3 := .of_regs rfl
  exact (((h1.trans h2).trans h3).trans (h.regSet s3 p 0 (off' := 0x80000C) 0 (by omega) (by unfold CtrlOff; omega))).trans
    (h.regSet _ p 0 (off' := 0x800020) 0 (by omega) (by unfold CtrlOff; omega))

theorem CtrlOff.resetCleared (s : State) (p : Nat) : RegFixed off s (resetCleared s p) := by
  unfold Machine.resetCleared
  extract_lets s1 s2
  have h1 : RegFixed off s s1 := .of_regs rfl
  have h2 : RegFixed off s1 s2 := RegFixed.foldl (f := streamIdle) (fun _ _ => .of_regs rfl) _ s1
  have h3 : RegFixed off s2 (abortStrikes s2 (fun k _ => k / 512 == p) 8) := .of_regs (by rw [(abortStrikes_end ..).form])
  exact ((h1.trans h2).trans h3).trans (u := chainsHalted (abortStrikes s2 (fun k _ => k / 512 == p) 8) p) (.of_regs rfl)

theorem CtrlOff.resetQueues (s : State) (p : Nat) (b : Option (Fin 8)) : RegFixed off s (resetQueues s p b) := by
  have hlist : ∀ l : List Nat, (∀ i ∈ l, i < 8) → ∀ u : State, RegFixed off u (l.foldl (fun s i => Machine.stopQueue s p i) u) := by
    intro l
    induction l with
    | nil => exact fun _ u => .refl off u
    | cons i l ih =>
      exact fun hl u => (h.stopQueue u p (hl i List.mem_cons_self)).trans (ih (fun j hj => hl j (List.mem_cons_of_mem i hj)) _)
  have hl := hlist ((List.range 8).filter (fun i => b.map (·.val) != some i)) (fun i hi => List.mem_range.1 (List.mem_filter.1 hi).1) s
  exact hl.trans (u := Machine.resetQueues s p b) (.of_regs rfl)

theorem CtrlOff.beginReset (s : State) (p : Nat) (st : PartSt) (b : Option (Fin 8)) : RegFixed off s (beginReset s p st b) := by
  have h0 : RegFixed off s (s.setPart p { s.part p with st := st, reinitBy := b }) := .of_regs rfl
  have h1 : RegFixed off s (resetMarked s p st b) := h0.trans (RegFixed.foldl (fun u n => h.laneAbandon u n) _ _)
  rw [beginReset_eq]
  exact (((h1.trans (h.fenceCores ..)).trans (h.resetCleared ..)).trans (h.resetQueues ..)).trans (h.clearLanes ..)

end

/-! ## PART_CMD: what every command is refused for -/

/-- PART_CMD_STATUS.CODE after a command. -/
theorem partOp_busy {s : State} (f : State → Nat → State) (h : s.partCmd ≠ none) : partOp s f = s := if_pos (Option.isSome_iff_ne_none.2 h)

theorem partOp_retired {s : State} (f : State → Nat → State) (h : s.partCmd = none) (hl : s.lc = .retired) : partOp s f = partCode s 1 := by
  unfold partOp
  rw [if_neg (by rw [h]; exact Bool.false_ne_true), if_pos hl]

theorem partOp_names {s : State} (f : State → Nat → State) (h : s.partCmd = none) (hl : s.lc ≠ .retired) :
    partOp s f = if partSel s = 0 ∨ 16 < partSel s then partCode s 2 else f s (partSel s) := by
  unfold partOp
  rw [if_neg (by rw [h]; exact Bool.false_ne_true), if_neg hl]

/-- Each command of PART_CMD is a `partOp`. -/
theorem partCmds_partOp {i : Instr} (h : i ∈ partCmds) : ∃ f, ∀ s, exec i s = .next (partOp s f) := by
  simp only [partCmds, List.mem_cons, List.not_mem_nil, or_false] at h
  obtain rfl | rfl | rfl | rfl | rfl := h
  · exact ⟨partCreate, fun _ => rfl⟩
  · exact ⟨partResize, fun _ => rfl⟩
  · exact ⟨partReset, fun _ => rfl⟩
  · exact ⟨partDestroy, fun _ => rfl⟩
  · exact ⟨partTransit, fun _ => rfl⟩

theorem partCmds_refused {i : Instr} (h : i ∈ partCmds) (s : State) : (s.partCmd ≠ none → exec i s = .next s) ∧
    (s.partCmd = none → s.lc = .retired → exec i s = .next (regSet s 0 0 0x200048 1)) ∧
      (s.partCmd = none → s.lc ≠ .retired → partSel s = 0 ∨ 16 < partSel s → exec i s = .next (regSet s 0 0 0x200048 2)) := by
  obtain ⟨f, hf⟩ := partCmds_partOp h
  refine ⟨fun hb => ?_, fun hn hl => ?_, fun hn hl hp => ?_⟩
  · rw [hf, partOp_busy f hb]
  · rw [hf, partOp_retired f hn hl]
    rfl
  · rw [hf, partOp_names f hn hl, if_pos hp]
    rfl

/-- A command that is taken runs on the partition PART_SEL names. -/
theorem partOp_runs {s : State} (f : State → Nat → State) (h : s.partCmd = none) (hl : s.lc ≠ .retired) (h0 : 0 < partSel s) (h16 : partSel s ≤ 16) :
    partOp s f = f s (partSel s) := by
  rw [partOp_names f h hl, if_neg]
  rintro (e | e) <;> omega

/-! ## RESET and DESTROY -/

/-- A reset or a destruction that a command begins (R360). -/
theorem beginReset_went {i : Instr} {s : State} {p op : Nat} {st : PartSt}
    (h : exec i s = .next { beginReset (partCode s 0) p st none with partCmd := some ⟨op, p, s.part p⟩ }) :
    Nexts i s (fun t => t.partCmd = some ⟨op, p, s.part p⟩ ∧ regGet t 0 0 0x200048 = 0 ∧ (t.part p).st = st ∧ (t.part p).fields = (s.part p).fields ∧
      ∀ d, coreKey d ∈ listedKeys s p → (t.core d).st = .fenced) := by
  have hoff : CtrlOff 0x200048 := .inl rfl
  have hcode : regGet (partCode s 0) 0 0 0x200048 = 0 := regGet_regSet_same ..
  have hreg := ((hoff.beginReset (partCode s 0) p st none).same 0 0).trans hcode
  have hpart := beginReset_part (partCode s 0) p p st none
  rw [if_pos rfl] at hpart
  have hfence (d : CoreId) (hd : coreKey d ∈ listedKeys s p) := beginReset_fenced (s := partCode s 0) st none hd
  generalize beginReset (partCode s 0) p st none = t at *
  exact ⟨_, h, rfl, hreg, (congrArg Part.st hpart :), (congrArg Part.fields hpart :), hfence⟩

/-! ## TRANSIT -/

theorem mem_transitAfter (s : State) (f d tracks : Nat) (grant : Bool) (g : Transit) : g ∈ transitAfter s f d tracks grant ↔
    if g.field = f ∧ tracks / 2 ^ g.track % 2 = 1 then (if grant then g.part = d ∧ g.track < 4 else g ∈ s.transit ∧ g.part ≠ d) else g ∈ s.transit := by
  obtain ⟨gf, gt, gp⟩ := g
  have hnamed : ((gf == f) && tracks.testBit gt) = true ↔ gf = f ∧ tracks / 2 ^ gt % 2 = 1 := by
    rw [Bool.and_eq_true, beq_iff_eq, Nat.testBit_eq_decide_div_mod_eq, decide_eq_true_iff]
  unfold transitAfter
  dsimp only
  by_cases hn : gf = f ∧ tracks / 2 ^ gt % 2 = 1
  · have hb := hnamed.2 hn
    rw [if_pos hn]
    cases grant
    · rw [if_neg Bool.false_ne_true, if_neg Bool.false_ne_true, List.mem_filter]
      dsimp only
      rw [hb, Bool.true_and, Bool.not_eq_true', beq_eq_false_iff_ne]
    · rw [if_pos rfl, if_pos rfl, List.mem_append, List.mem_filter, List.mem_map]
      dsimp only
      rw [hb]
      constructor
      · rintro (⟨-, hf⟩ | ⟨i, hi, he⟩)
        · cases hf
        · obtain ⟨hi4, -⟩ := List.mem_filter.1 hi
          cases he
          exact ⟨rfl, List.mem_range.1 hi4⟩
      · rintro ⟨rfl, h4⟩
        exact .inr ⟨gt, List.mem_filter.2 ⟨List.mem_range.2 h4, (Bool.and_eq_true_iff.1 hb).2⟩, by rw [hn.1]⟩
  · have hb : ((gf == f) && tracks.testBit gt) = false := Bool.eq_false_iff.2 (mt hnamed.1 hn)
    rw [if_neg hn]
    cases grant
    · rw [if_neg Bool.false_ne_true, List.mem_filter]
      dsimp only
      rw [hb]
      simp
    · rw [if_pos rfl, List.mem_append, List.mem_filter, List.mem_map]
      dsimp only
      rw [hb]
      constructor
      · rintro (⟨hg, -⟩ | ⟨i, hi, he⟩)
        · exact hg
        · cases he
          rw [beq_self_eq_true, Bool.true_and, (List.mem_filter.1 hi).2] at hb
          cases hb
      · exact fun hg => .inl ⟨hg, rfl⟩

/-- A clear of no track changes nothing. -/
theorem clear_none (q : Router) {f : Nat → Bool} (h : ∀ i, f i = false) : q.clear f = q := by
  have hkeep {α : Type} (t : Tab α) : t.filter (fun e => !f e.1) = t := by simp [h]
  unfold Router.clear
  dsimp only
  simp [h]

theorem clear_inq (q : Router) {f : Nat → Bool} {i : Nat} (h : f i = true) : Tab.get [] (q.clear f).inq i = [] := by
  have hf : Tab.find (q.clear f).inq i = none := (Tab.find_filter q.inq (fun k => !f k) i).trans (if_neg (by rw [h]; exact Bool.false_ne_true))
  rw [Tab.get, hf]
  rfl

/-- Who owns a track is a matter of who holds what. -/
theorem trackOwner_of_held {s t : State} (h : isHeld t = isHeld s) (ht : t.transit = s.transit) (hr : t.retired = s.retired) (hp : t.parts = s.parts)
    (hg : t.gridRows = s.gridRows) (k port track : Nat) : trackOwner t k port track = trackOwner s k port track := by
  have hfield (k : Nat) : fieldOfKey t k = fieldOfKey s k := by
    simp only [fieldOfKey, halfOfKey, hr]
  have hpart (k : Nat) : partOfKey t k = partOfKey s k := by
    simp only [partOfKey, partOfField, h, hfield, State.part, hp]
  have hside (k port track : Nat) : ownSide t k port track = ownSide s k port track := by
    simp only [ownSide, hfield, hpart, ht]
  have hnext : neighbour t k port = neighbour s k port := by
    simp only [neighbour, hg]
  simp only [trackOwner, hside, hnext]

end Sys2Proof.Machine
end

section
/-! PROOFS. Lanes and frames that leave and join a partition. -/

namespace Sys2Proof.Machine

open Sys2Proof.Claims

/-! ## TRANSIT, continued -/

/-- The routers of s with the tracks cleared whose owner has changed. -/
def routersCut (s s1 : State) : Tab Router :=
  s.routers.map (fun e => (e.1, e.2.clear (fun i => trackOwner s e.1 (i / 4) (i % 4) != trackOwner s1 e.1 (i / 4) (i % 4))))

theorem router_routersCut (s s1 : State) (k : Nat) :
    Tab.get {} (routersCut s s1) k = (s.router k).clear (fun i => trackOwner s k (i / 4) (i % 4) != trackOwner s1 k (i / 4) (i % 4)) :=
  Tab.get_mapped (fun k (q : Router) => q.clear (fun i => trackOwner s k (i / 4) (i % 4) != trackOwner s1 k (i / 4) (i % 4))) s.routers k {}

/-- The state TRANSIT leaves. -/
def transited (s : State) (ts : List Transit) (need : BitVec 84) : State :=
  partCode { s with transit := ts, routers := routersCut s { s with transit := ts }, partCmd := some ⟨5, partSel s, { fields := need }⟩ } 0

theorem transited_owner {s : State} (ts : List Transit) (need : BitVec 84) (hc : s.partCmd = none) (hl : (s.part (partSel s)).st = .live) (k port track : Nat) :
    trackOwner (transited s ts need) k port track = trackOwner { s with transit := ts } k port track := by
  refine trackOwner_of_held (s := { s with transit := ts }) (t := transited s ts need) (funext fun q => Bool.eq_iff_iff.2 ?_) rfl rfl rfl rfl k port track
  rw [isHeld_iff, isHeld_iff]
  show (s.part q).st ≠ .free ∨ some (partSel s) = some q ↔ (s.part q).st ≠ .free ∨ s.partCmd.map (·.part) = some q
  rw [hc]
  constructor
  · rintro (h | h)
    · exact .inl h
    · refine .inl ?_
      rw [← Option.some.inj h, hl]
      exact PartSt.noConfusion
  · rintro (h | h)
    · exact .inl h
    · cases h

theorem transit_spec {s : State} (hc : s.partCmd = none) (hlc : s.lc ≠ .retired) (h0 : 0 < partSel s) (h16 : partSel s ≤ 16) :
    let w := stPart s 0x40
    let f := fld w 14 8
    let d := fld w 20 16
    let o := partOfField s f
    let held := (o ≠ 0 ∧ quiescent s o 8 = false) ∨ quiescent s d 8 = false ∨ linksHeld s f = true
    let old := s.part (partSel s)
    let code (c : Word) := exec .transit s = .next (regSet s 0 0 0x200048 c)
    (old.st ≠ .live → code 1) ∧ (old.st = .live → 83 < f ∨ (s.part d).st ≠ .live → code 2) ∧
      (old.st = .live → f ≤ 83 → (s.part d).st = .live → held → code 1) ∧
      (old.st = .live → f ≤ 83 → (s.part d).st = .live → ¬ held → ∃ need, exec .transit s = .next (transited s (transitAfter s f d (fld w 3 0) (w.getLsbD 31)) need)) := by
  intro w f d o held old code
  have hrun : exec .transit s = .next (partTransit s (partSel s)) := congrArg Host.Outcome.next (partOp_runs partTransit hc hlc h0 h16)
  have hheld : ((o != 0 && !quiescent s o 8) || !quiescent s d 8 || linksHeld s f) = true ↔ held := by
    simp only [held, Bool.or_eq_true, Bool.and_eq_true, bne_iff_ne, Bool.not_eq_true', or_assoc]
  refine ⟨fun hst => hrun.trans (congrArg Host.Outcome.next (if_pos hst)), fun hst hbad => ?_, fun hst hf hd hh => ?_, fun hst hf hd hh => ⟨if w.getLsbD 31 then 1#84 <<< f else 0, ?_⟩⟩
  · exact hrun.trans (congrArg Host.Outcome.next ((if_neg (not_not.2 hst)).trans (if_pos hbad)))
  · have hbad : ¬ (83 < f ∨ (s.part d).st ≠ .live) := fun h => h.elim (fun h => absurd hf (Nat.not_le.2 h)) (fun h => h hd)
    exact hrun.trans (congrArg Host.Outcome.next ((if_neg (not_not.2 hst)).trans ((if_neg hbad).trans (if_pos (hheld.2 hh)))))
  · have hbad : ¬ (83 < f ∨ (s.part d).st ≠ .live) := fun h => h.elim (fun h => absurd hf (Nat.not_le.2 h)) (fun h => h hd)
    exact hrun.trans (congrArg Host.Outcome.next ((if_neg (not_not.2 hst)).trans ((if_neg hbad).trans (if_neg (mt hheld.1 hh)))))

/-- What TRANSIT leaves of grants and routers. -/
theorem transited_spec {s : State} (ts : List Transit) (need : BitVec 84) (hc : s.partCmd = none) (hl : (s.part (partSel s)).st = .live) :
    let t := transited s ts need
    t = { s with partCmd := t.partCmd, regs := t.regs, transit := t.transit, routers := t.routers } ∧ t.transit = ts ∧
      (∀ k, (∀ i, trackOwner t k (i / 4) (i % 4) = trackOwner s k (i / 4) (i % 4)) → t.router k = s.router k) ∧
      ∀ k i, trackOwner t k (i / 4) (i % 4) ≠ trackOwner s k (i / 4) (i % 4) → Tab.get [] (t.router k).inq i = [] := by
  have howner := transited_owner ts need hc hl
  have hrouter (k : Nat) : (transited s ts need).router k = _ := router_routersCut s { s with transit := ts } k
  refine ⟨rfl, rfl, fun k hsame => ?_, fun k i hdiff => ?_⟩
  · rw [hrouter]
    refine clear_none _ (fun i => ?_)
    rw [← howner, hsame]
    exact bne_self_eq_false _
  · rw [hrouter]
    refine clear_inq _ ?_
    rw [← howner]
    exact bne_iff_ne.2 (Ne.symm hdiff)

/-! ## Lanes and frames that leave and join (R241, R354) -/

theorem migrateNext_fixed {off : Nat} (ho : off < 2 ^ 26) (hne : off ≠ 0x60010C) (s : State) (stack : Nat) (frames : List Nat) (last : Nat) :
    RegFixed off s (migrateNext s stack frames last) := by
  cases frames with
  | nil =>
    dsimp only [migrateNext, regOr]
    refine RegFixed.trans ?_ (.regSet _ 0 0 (off' := 0x60010C) _ ho (by omega) hne)
    exact .of_regs rfl
  | cons f fs => exact .of_regs rfl

/-- Frames that leave go to tiers alone, but for a migration that ends. -/
theorem releaseFrames_cases (s : State) (fs : List Nat) : (∃ x, releaseFrames s fs = { s with tiers := x }) ∨
    ∃ x a b c, releaseFrames s fs = migrateNext { s with tiers := x } a b c := by
  unfold releaseFrames
  dsimp only
  split
  · exact .inl ⟨_, rfl⟩
  split
  · exact .inr ⟨_, _, _, _, rfl⟩
  · exact .inl ⟨_, rfl⟩

theorem migrateNext_form (s : State) (stack : Nat) (frames : List Nat) (last : Nat) :
    migrateNext s stack frames last = { s with tiers := (migrateNext s stack frames last).tiers, regs := (migrateNext s stack frames last).regs } := by
  cases frames <;> rfl

theorem releaseFrames_form (s : State) (fs : List Nat) :
    releaseFrames s fs = { s with tiers := (releaseFrames s fs).tiers, regs := (releaseFrames s fs).regs } := by
  obtain ⟨x, h⟩ | ⟨x, a, b, c, h⟩ := releaseFrames_cases s fs <;> rw [h]
  rw [migrateNext_form]

theorem releaseFrames_fixed {off : Nat} (ho : off < 2 ^ 26) (hne : off ≠ 0x60010C) (s : State) (fs : List Nat) : RegFixed off s (releaseFrames s fs) := by
  obtain ⟨x, h⟩ | ⟨x, a, b, c, h⟩ := releaseFrames_cases s fs <;> rw [h]
  · exact .of_regs rfl
  · exact RegFixed.trans (t := { s with tiers := x }) (.of_regs rfl) (migrateNext_fixed ho hne ..)

/-- One lane that leaves. -/
def laneLeft (s : State) (n : Nat) : State := s.setLane n (if (s.lane n).st = .failed then { st := .failed, withheld := true } else {})

theorem releaseLanes_form (ls : List Nat) (s : State) : releaseLanes s ls = { s with lanes := (releaseLanes s ls).lanes } := by
  have hfold : ∀ (ls : List Nat) (s : State), ls.foldl laneLeft s = { s with lanes := (ls.foldl laneLeft s).lanes } := by
    intro ls
    induction ls with
    | nil => exact fun _ => rfl
    | cons n ls ih =>
      intro s
      rw [List.foldl_cons, ih]
      rfl
  exact hfold ls s

theorem laneLeft_owner (s : State) (n m : Nat) : ((laneLeft s n).lane m).owner = if m = n then 0 else (s.lane m).owner := by
  rw [laneLeft, lane_setLane]
  split
  · split <;> rfl
  · rfl

/-- A lane that has left is free. -/
theorem releaseLanes_owner (ls : List Nat) : ∀ (s : State) (m : Nat), ((releaseLanes s ls).lane m).owner = if m ∈ ls then 0 else (s.lane m).owner := by
  induction ls with
  | nil => exact fun _ _ => rfl
  | cons n ls ih =>
    intro s m
    have h : releaseLanes s (n :: ls) = releaseLanes (laneLeft s n) ls := rfl
    rw [h, ih, laneLeft_owner]
    by_cases hm : m ∈ ls
    · rw [if_pos hm, if_pos (List.mem_cons_of_mem n hm)]
    · rw [if_neg hm]
      simp only [List.mem_cons, hm, or_false]

/-- Grants of partition p changed in its lanes and frames alone. -/
structure GrantWork (p : Nat) (s t : State) : Prop where
  form : t = { s with regs := t.regs, lanes := t.lanes, tiers := t.tiers, parts := t.parts }
  fixed : RegFixed 0x200048 s t
  others : ∀ q, q ≠ p → t.part q = s.part q
  part : t.part p = { s.part p with lanes := (t.part p).lanes, frames := (t.part p).frames }

theorem GrantWork.refl (p : Nat) (s : State) : GrantWork p s s := ⟨rfl, .refl _ s, fun _ _ => rfl, rfl⟩

theorem GrantWork.trans {p : Nat} {s t u : State} (h : GrantWork p s t) (g : GrantWork p t u) : GrantWork p s u := by
  refine ⟨?_, h.fixed.trans g.fixed, fun q hq => (g.others q hq).trans (h.others q hq), ?_⟩
  · rw [g.form, h.form]
  · rw [g.part, h.part]

/-- Work on the pools, with partition p's lanes and frames given anew. -/
theorem GrantWork.setPart {p : Nat} {s t : State} (h : t = { s with regs := t.regs, lanes := t.lanes, tiers := t.tiers }) (hr : RegFixed 0x200048 s t)
    (ls fs : List Nat) : GrantWork p s (t.setPart p { s.part p with lanes := ls, frames := fs }) := by
  have hpart (q : Nat) : t.part q = s.part q := by rw [h]; rfl
  refine ⟨?_, hr.trans (.of_regs rfl), fun q hq => ?_, ?_⟩
  · rw [h]
    rfl
  · exact (part_setPart ..).trans ((if_neg hq).trans (hpart q))
  · rw [part_setPart, if_pos rfl]

/-- Lanes that join. -/
def lanesJoined (s : State) (p : Nat) (ls : List Nat) : State := ls.foldl (fun s l => s.setLane l { owner := p }) s

theorem lanesJoined_form (p : Nat) (ls : List Nat) : ∀ s : State, lanesJoined s p ls = { s with lanes := (lanesJoined s p ls).lanes } := by
  induction ls with
  | nil => exact fun _ => rfl
  | cons n ls ih =>
    intro s
    have h : lanesJoined s p (n :: ls) = lanesJoined (s.setLane n { owner := p }) p ls := rfl
    rw [h, ih]
    rfl

theorem lanesJoined_owner (p : Nat) (ls : List Nat) : ∀ (s : State) (m : Nat), m ∈ ls ∨ (s.lane m).owner = p → ((lanesJoined s p ls).lane m).owner = p := by
  induction ls with
  | nil => exact fun s m h => h.resolve_left List.not_mem_nil
  | cons n ls ih =>
    intro s m h
    refine ih (s.setLane n { owner := p }) m ?_
    rw [lane_setLane]
    by_cases hm : m = n
    · rw [if_pos hm]
      exact .inr rfl
    · rw [if_neg hm]
      exact h.imp_left (fun h => (List.mem_cons.1 h).resolve_left hm)

/-- The lanes of a partition as their number changes. -/
def lanesTo (s : State) (p n : Nat) : List Nat :=
  if n < (s.part p).lanes.length then (s.part p).lanes.take n else (s.part p).lanes ++ (freeLanes s).take (n - (s.part p).lanes.length)

theorem setLanes_work (s : State) (p n : Nat) : GrantWork p s (setLanes s p n) ∧ (setLanes s p n).part p = { s.part p with lanes := lanesTo s p n } := by
  unfold setLanes lanesTo
  dsimp only
  by_cases h : n < (s.part p).lanes.length
  · rw [if_pos h, if_pos h]
    have hset : GrantWork p s (s.setPart p { s.part p with lanes := (s.part p).lanes.take n }) :=
      .setPart rfl (.refl _ s) _ (s.part p).frames
    have hrel : ∀ u : State, GrantWork p u (releaseLanes u ((s.part p).lanes.drop n)) := fun u => by
      rw [releaseLanes_form]
      exact ⟨rfl, .of_regs rfl, fun _ _ => rfl, rfl⟩
    refine ⟨hset.trans (hrel _), ?_⟩
    rw [releaseLanes_form]
    exact (part_setPart ..).trans (if_pos rfl)
  · rw [if_neg h, if_neg h]
    have hjoin : (lanesJoined s p ((freeLanes s).take (n - (s.part p).lanes.length))) = _ := lanesJoined_form ..
    have hform : (lanesJoined s p ((freeLanes s).take (n - (s.part p).lanes.length))).regs = s.regs := by rw [hjoin]
    exact ⟨.setPart (t := lanesJoined s p ((freeLanes s).take (n - (s.part p).lanes.length))) (by rw [hjoin]) (.of_regs hform) _ (s.part p).frames, (part_setPart ..).trans (if_pos rfl)⟩

theorem setLanes_owner {s : State} {p n m : Nat} (h : (s.part p).lanes = []) (hm : m ∈ (freeLanes s).take n) : ((setLanes s p n).lane m).owner = p := by
  have hn : ¬ n < (s.part p).lanes.length := by rw [h]; exact Nat.not_lt_zero n
  have hm' : m ∈ (freeLanes s).take (n - (s.part p).lanes.length) := by rw [h]; exact hm
  have he : setLanes s p n = (lanesJoined s p ((freeLanes s).take (n - (s.part p).lanes.length))).setPart p
      { s.part p with lanes := (s.part p).lanes ++ (freeLanes s).take (n - (s.part p).lanes.length) } := if_neg hn
  rw [he]
  exact lanesJoined_owner p _ s m (.inl hm')

theorem placeOne_work (s : State) (p : Nat) : GrantWork p s (placeOne s p) ∧ ((placeOne s p).part p).lanes = (s.part p).lanes := by
  unfold placeOne
  dsimp only
  split
  · have hset (x : Tiers) (fs : List Nat) : GrantWork p s (({ s with tiers := x } : State).setPart p { s.part p with frames := fs }) :=
      .setPart (t := { s with tiers := x }) rfl (.of_regs rfl) (s.part p).lanes fs
    refine ⟨hset _ _, ?_⟩
    rw [part_setPart, if_pos rfl]
  · exact ⟨.refl p s, rfl⟩

theorem placeFrames_work (p n : Nat) : ∀ s : State, GrantWork p s (placeFrames s p n) ∧ ((placeFrames s p n).part p).lanes = (s.part p).lanes := by
  induction n with
  | zero => exact fun s => ⟨.refl p s, rfl⟩
  | succ n ih =>
    intro s
    obtain ⟨h1, hl1⟩ := placeOne_work s p
    obtain ⟨h2, hl2⟩ := ih (placeOne s p)
    exact ⟨h1.trans h2, hl2.trans hl1⟩

theorem setFrames_work (s : State) (p n : Nat) : GrantWork p s (setFrames s p n) ∧ ((setFrames s p n).part p).lanes = (s.part p).lanes ∧
    (n ≤ (s.part p).frames.length → ((setFrames s p n).part p).frames = (s.part p).frames.take n) := by
  unfold setFrames
  dsimp only
  by_cases h : n < (s.part p).frames.length
  · rw [if_pos h]
    have hset : GrantWork p s (s.setPart p { s.part p with frames := (s.part p).frames.take n }) :=
      .setPart rfl (.refl _ s) (s.part p).lanes _
    have hpart : (s.setPart p { s.part p with frames := (s.part p).frames.take n }).part p = _ := (part_setPart ..).trans (if_pos rfl)
    generalize s.setPart p { s.part p with frames := (s.part p).frames.take n } = u at hset hpart ⊢
    have hrel : GrantWork p u (releaseFrames u ((s.part p).frames.drop n)) := by
      refine ⟨?_, releaseFrames_fixed (by omega) (by omega) u _, fun q _ => ?_, ?_⟩ <;> rw [releaseFrames_form]
      · rfl
      · rfl
    have hsame : (releaseFrames u ((s.part p).frames.drop n)).part p = u.part p := by
      rw [releaseFrames_form]
      rfl
    exact ⟨hset.trans hrel, by rw [hsame, hpart], fun _ => by rw [hsame, hpart]⟩
  · rw [if_neg h]
    obtain ⟨hw, hl⟩ := placeFrames_work p (n - (s.part p).frames.length) s
    refine ⟨hw, hl, fun hn => ?_⟩
    rw [show n = (s.part p).frames.length by omega, Nat.sub_self, List.take_length]
    rfl

/-- Frames that leave or join touch no lane. -/
theorem placeFrames_lanes (p n : Nat) : ∀ s : State, (placeFrames s p n).lanes = s.lanes := by
  induction n with
  | zero => exact fun _ => rfl
  | succ n ih =>
    intro s
    refine (ih (placeOne s p)).trans ?_
    unfold placeOne
    dsimp only
    split <;> rfl

theorem setFrames_lanes (s : State) (p n : Nat) : (setFrames s p n).lanes = s.lanes := by
  unfold setFrames
  dsimp only
  split
  · rw [releaseFrames_form]
    rfl
  · exact placeFrames_lanes ..

end Sys2Proof.Machine
end

section
/-! PROOFS. Grants given. -/

namespace Sys2Proof.Machine

open Sys2Proof.Claims

/-! ## Grants given (R354, R357) -/

/-- Partition p given its grants, its lanes and its frames, with PART_CMD_STATUS.CODE clear. -/
def grantsGiven (s : State) (p : Nat) (x : Part) : State :=
  let s := partCode (s.setPart p x) 0
  setFrames (setLanes s p (stagedLanes s)) p (stagedFrames s)

/-- The values staged stand where the registers that hold them do. -/
theorem staged_of_fixed {s t : State} (h : ∀ off, off < 2 ^ 26 → off ≠ 0x200048 → RegFixed off s t) :
    stagedLanes t = stagedLanes s ∧ stagedFrames t = stagedFrames s := by
  have hsel : partSel t = partSel s := by rw [partSel, (h 0x200000 (by omega) (by omega)).same]; rfl
  refine ⟨?_, ?_⟩
  · rw [stagedLanes, stPart, hsel, (h (0x200000 + 0x1C) (by omega) (by omega)).same]
    rfl
  · rw [stagedFrames, stPart, hsel, (h (0x200000 + 0x28) (by omega) (by omega)).same]
    rfl

theorem grantsGiven_spec (s : State) (p : Nat) (x : Part) : let t := grantsGiven s p x
    t = { s with regs := t.regs, lanes := t.lanes, tiers := t.tiers, parts := t.parts } ∧ regGet t 0 0 0x200048 = 0 ∧
      (∀ q, q ≠ p → t.part q = s.part q) ∧ t.part p = { x with lanes := (t.part p).lanes, frames := (t.part p).frames } ∧
      (t.part p).lanes = (if stagedLanes s < x.lanes.length then x.lanes.take (stagedLanes s)
        else x.lanes ++ (freeLanes s).take (stagedLanes s - x.lanes.length)) ∧
      (stagedFrames s ≤ x.frames.length → (t.part p).frames = x.frames.take (stagedFrames s)) ∧
      (x.lanes = [] → ∀ n ∈ (freeLanes s).take (stagedLanes s), (t.lane n).owner = p) := by
  obtain ⟨hsl, hsf⟩ := staged_of_fixed (s := s) (t := partCode (s.setPart p x) 0)
    (fun off ho hne => RegFixed.trans (t := s.setPart p x) (.of_regs rfl) (.regSet _ 0 0 0 ho (by omega) hne))
  have hx : (partCode (s.setPart p x) 0).part p = x := (part_setPart s p p x).trans (if_pos rfl)
  have ho (q : Nat) (hq : q ≠ p) : (partCode (s.setPart p x) 0).part q = s.part q := (part_setPart s p q x).trans (if_neg hq)
  have hfree : freeLanes (partCode (s.setPart p x) 0) = freeLanes s := rfl
  have hcode : regGet (partCode (s.setPart p x) 0) 0 0 0x200048 = 0 := regGet_regSet_same ..
  have hform : partCode (s.setPart p x) 0 = { s with regs := (partCode (s.setPart p x) 0).regs, parts := (partCode (s.setPart p x) 0).parts } := rfl
  unfold grantsGiven
  dsimp only
  rw [hsl, hsf]
  generalize partCode (s.setPart p x) 0 = u at *
  obtain ⟨hl, hlp⟩ := setLanes_work u p (stagedLanes s)
  have hown (h : x.lanes = []) (n : Nat) (hn : n ∈ (freeLanes s).take (stagedLanes s)) : ((setLanes u p (stagedLanes s)).lane n).owner = p :=
    setLanes_owner (by rw [hx]; exact h) (by rw [hfree]; exact hn)
  have hto : lanesTo u p (stagedLanes s) = if stagedLanes s < x.lanes.length then x.lanes.take (stagedLanes s)
      else x.lanes ++ (freeLanes s).take (stagedLanes s - x.lanes.length) := by rw [lanesTo, hx, hfree]
  rw [hto, hx] at hlp
  generalize setLanes u p (stagedLanes s) = v at *
  obtain ⟨hf, hfl, hff⟩ := setFrames_work v p (stagedFrames s)
  have hlanes : (setFrames v p (stagedFrames s)).lanes = v.lanes := setFrames_lanes v p (stagedFrames s)
  generalize setFrames v p (stagedFrames s) = t at *
  have ht := hl.trans hf
  refine ⟨?_, (ht.fixed.same 0 0).trans hcode, fun q hq => (ht.others q hq).trans (ho q hq), ?_, ?_, fun h => ?_, fun h n hn => ?_⟩
  · rw [ht.form, hform]
  · have hp := ht.part
    rw [hx] at hp
    exact hp
  · rw [hfl, hlp]
  · have hp := hff
    rw [hlp] at hp
    exact hp h
  · rw [State.lane, hlanes]
    exact hown h n hn

end Sys2Proof.Machine
end

section
/-! PROOFS. The commands of PART_CMD (O37). -/

namespace Sys2Proof.Machine

open Sys2Proof.Claims

/-! ## CREATE -/

section
variable {s : State} (hc : s.partCmd = none) (hlc : s.lc ≠ .retired) (h0 : 0 < partSel s) (h16 : partSel s ≤ 16)
include hc hlc h0 h16

theorem create_spec : let p := partSel s
    let old := s.part p
    let new := stagedPart s { creations := old.creations + 1 }
    let code (c : Word) := exec .create s = .next (regSet s 0 0 0x200048 c)
    (old.st ≠ .free → code 1) ∧ (old.st = .free → grantBad s new = true → code 2) ∧
      (old.st = .free → grantBad s new = false → grantState s p old new = true → code 1) ∧
      (old.st = .free → grantBad s new = false → grantState s p old new = false →
        exec .create s = .next { grantsGiven s p new with partCmd := some ⟨1, p, old⟩ }) := by
  intro p old new code
  have hrun : exec .create s = .next (partCreate s p) := congrArg Host.Outcome.next (partOp_runs partCreate hc hlc h0 h16)
  have hno {b : Bool} (h : b = false) : ¬ b = true := by rw [h]; exact Bool.false_ne_true
  refine ⟨fun h => ?_, fun h hb => ?_, fun h hb hs => ?_, fun h hb hs => ?_⟩
  · exact hrun.trans (congrArg Host.Outcome.next (if_pos h))
  · exact hrun.trans (congrArg Host.Outcome.next ((if_neg (not_not.2 h)).trans (if_pos hb)))
  · exact hrun.trans (congrArg Host.Outcome.next ((if_neg (not_not.2 h)).trans ((if_neg (hno hb)).trans (if_pos hs))))
  · exact hrun.trans (congrArg Host.Outcome.next ((if_neg (not_not.2 h)).trans ((if_neg (hno hb)).trans (if_neg (hno hs)))))

theorem create_went (hf : (s.part (partSel s)).st = .free)
    (hb : grantBad s (stagedPart s { creations := (s.part (partSel s)).creations + 1 }) = false)
    (hs : grantState s (partSel s) (s.part (partSel s)) (stagedPart s { creations := (s.part (partSel s)).creations + 1 }) = false) :
    let p := partSel s
    let old := s.part p
    let new := stagedPart s { creations := old.creations + 1 }
    Nexts .create s (fun t => t.partCmd = some ⟨1, p, old⟩ ∧ regGet t 0 0 0x200048 = 0 ∧
      t = { s with partCmd := t.partCmd, regs := t.regs, lanes := t.lanes, tiers := t.tiers, parts := t.parts } ∧ (∀ q, q ≠ p → t.part q = s.part q) ∧
      t.part p = { new with lanes := (freeLanes s).take (stagedLanes s), frames := (t.part p).frames } ∧
      ∀ n ∈ (freeLanes s).take (stagedLanes s), (t.lane n).owner = p) := by
  intro p old new
  obtain ⟨-, -, -, hgo⟩ := create_spec hc hlc h0 h16
  obtain ⟨hform, hcode, hoth, hpart, hlanes, -, hown⟩ := grantsGiven_spec s p new
  have hexec := hgo hf hb hs
  have hnew : new.lanes = [] := rfl
  rw [hnew] at hlanes
  simp only [List.length_nil, Nat.not_lt_zero, if_false, List.nil_append, Nat.sub_zero] at hlanes
  rw [hlanes] at hpart
  have hown' := hown hnew
  generalize grantsGiven s p new = u at *
  refine ⟨_, hexec, rfl, hcode, ?_, hoth, hpart, hown'⟩
  rw [hform]

theorem resize_spec : let p := partSel s
    let old := s.part p
    let re := stagedPart s old
    let code (c : Word) := exec .resize s = .next (regSet s 0 0 0x200048 c)
    (old.st ≠ .live → code 1) ∧ (old.st = .live → grantBad s re = true → code 2) ∧
      (old.st = .live → grantBad s re = false → grantState s p old re = true ∨ (sizeChanged s old re = true ∧ quiescent s p 8 = false) ∨
        re.t3Units < addUnits s p ∨ re.t3Slots < slotsBound s p → code 1) ∧
      (old.st = .live → grantBad s re = false → grantState s p old re = false → (sizeChanged s old re = true → quiescent s p 8 = true) →
        addUnits s p ≤ re.t3Units → slotsBound s p ≤ re.t3Slots →
        exec .resize s = .next { grantsGiven (trimRanges (leaveFields s (old.fields &&& ~~~re.fields)) p re) p re with partCmd := some ⟨2, p, old⟩ }) := by
  intro p old re code
  have hrun : exec .resize s = .next (partResize s p) := congrArg Host.Outcome.next (partOp_runs partResize hc hlc h0 h16)
  have hno {b : Bool} (h : b = false) : ¬ b = true := by rw [h]; exact Bool.false_ne_true
  have hrefuse : (grantState s p old re || (sizeChanged s old re && !quiescent s p 8) || decide (re.t3Units < addUnits s p ∨ re.t3Slots < slotsBound s p)) = true ↔
      grantState s p old re = true ∨ (sizeChanged s old re = true ∧ quiescent s p 8 = false) ∨ re.t3Units < addUnits s p ∨ re.t3Slots < slotsBound s p := by
    simp only [Bool.or_eq_true, Bool.and_eq_true, Bool.not_eq_true', decide_eq_true_eq, or_assoc]
  refine ⟨fun h => ?_, fun h hb => ?_, fun h hb hs => ?_, fun h hb hs hq hu hsl => ?_⟩
  · exact hrun.trans (congrArg Host.Outcome.next (if_pos h))
  · exact hrun.trans (congrArg Host.Outcome.next ((if_neg (not_not.2 h)).trans (if_pos hb)))
  · exact hrun.trans (congrArg Host.Outcome.next ((if_neg (not_not.2 h)).trans ((if_neg (hno hb)).trans (if_pos (hrefuse.2 hs)))))
  · have hnot : ¬ (grantState s p old re = true ∨ (sizeChanged s old re = true ∧ quiescent s p 8 = false) ∨ re.t3Units < addUnits s p ∨ re.t3Slots < slotsBound s p) := by
      rintro (h | ⟨h1, h2⟩ | h | h)
      · exact hno hs h
      · exact hno h2 (hq h1)
      · omega
      · omega
    exact hrun.trans (congrArg Host.Outcome.next ((if_neg (not_not.2 h)).trans ((if_neg (hno hb)).trans (if_neg (mt hrefuse.1 hnot)))))

end

/-! ## Fields that leave a partition (R358, R359) -/

/-- Stored cores outside a half-field stand as the cores of a DEAD one are fenced. -/
theorem deadFenced_find {s : State} (hg : s.gridRows ≤ 1080) {h k : Nat} (hk : halfOfKey s k ≠ h) : Tab.find (deadFenced s h).cores k = Tab.find s.cores k := by
  have hall : ∀ ks : List Nat, (∀ j ∈ ks, coreKey (keyCore j) ≠ k) → ∀ u : State,
      Tab.find (ks.foldl (fun s j => s.setCore (keyCore j) (({ st := .fenced } : Core).stop EXT_FENCE 0)) u).cores k = Tab.find u.cores k := by
    intro ks
    induction ks with
    | nil => exact fun _ _ => rfl
    | cons j ks ih =>
      intro hj u
      rw [List.foldl_cons, ih (fun i hi => hj i (List.mem_cons_of_mem j hi))]
      exact (Tab.find_put_eq ..).trans (if_neg (hj j List.mem_cons_self).symm)
  refine hall _ (fun j hj => ?_) s
  obtain ⟨hrange, hhalf⟩ := List.mem_filter.1 hj
  rw [coreKey_keyCore (Nat.lt_of_lt_of_le (List.mem_range.1 hrange) (Nat.mul_le_mul_right 1022 hg))]
  rintro rfl
  exact hk (beq_iff_eq.1 hhalf)

theorem halfAnew_foldl_find {k : Nat} (hs : List Nat) : ∀ s : State, s.gridRows ≤ 1080 → halfOfKey s k ∉ hs →
    Tab.find (hs.foldl halfAnew s).cores k = Tab.find s.cores k := by
  induction hs with
  | nil => exact fun _ _ _ => rfl
  | cons h hs ih =>
    intro s hg hk
    have hhalf : halfOfKey (halfAnew s h) k = halfOfKey s k := by rw [halfAnew_form]; rfl
    have hrows : (halfAnew s h).gridRows = s.gridRows := by rw [halfAnew_form]; rfl
    have hone : Tab.find (halfAnew s h).cores k = Tab.find s.cores k := by
      unfold halfAnew
      split
      · exact deadFenced_find (s := newEpoch s h) hg (fun e => hk (List.mem_cons.2 (.inl e)))
      · rfl
    rw [List.foldl_cons, ih _ (hrows ▸ hg) (by rw [hhalf]; exact fun e => hk (List.mem_cons_of_mem h e)), hone]

/-- Stored cores outside the half-fields re-initialised stand. -/
theorem freshCores_find {s : State} (hg : s.gridRows ≤ 1080) {hs : List Nat} {k : Nat} (hk : hs.contains (halfOfKey s k) = false) :
    Tab.find (freshCores s hs).cores k = Tab.find s.cores k := by
  have hmem : halfOfKey s k ∉ hs := fun h => Bool.false_ne_true (hk.symm.trans (List.contains_iff_mem.2 h))
  rw [freshCores_eq, halfAnew_foldl_find hs (coresDropped s hs) hg hmem]
  refine (Tab.find_filter s.cores (fun k => !hs.contains (halfOfKey s k)) k).trans (if_pos ?_)
  rw [hk]
  rfl

/-- The routers of fields that leave. -/
def routersLeft (s : State) (fs : BitVec 84) : State :=
  let through (k i : Nat) : Bool := i / 4 != 4 && s.transit.any (fun g => g.field == fieldOfKey s k && g.track == i % 4)
  { s with routers := s.routers.map (fun e =>
      if inFields s fs e.1 then (e.1, { e.2.clear (fun i => !through e.1 i) with routes := [], inbox := [] }) else e) }

theorem leaveFields_eq (s : State) (fs : BitVec 84) : leaveFields s fs = freshCores (clearSlices (routersLeft s fs) fs) (halvesOf fs) := rfl

/-- Fields that leave take their cores, slices and routers with them. -/
theorem leaveFields_spec {s : State} (hg : s.gridRows ≤ 1080) (fs : BitVec 84) : let t := leaveFields s fs
    t.regs = s.regs ∧ t.parts = s.parts ∧ (∀ k, (halvesOf fs).contains (halfOfKey s k) = false → Tab.find t.cores k = Tab.find s.cores k) ∧
      Fresh s t (halvesOf fs) := by
  rw [leaveFields_eq]
  have hform := freshCores_form (clearSlices (routersLeft s fs) fs) (halvesOf fs)
  refine ⟨by rw [hform]; rfl, by rw [hform]; rfl, fun k hk => ?_, ?_⟩
  · exact freshCores_find (s := clearSlices (routersLeft s fs) fs) hg hk
  · exact fresh_freshCores (s := clearSlices (routersLeft s fs) fs) hg (halvesOf fs)

/-- What leaves the ranges of a partition touches neither registers, partitions nor cores. -/
theorem trimRanges_form (s : State) (p : Nat) (x : Part) : trimRanges s p x =
    { s with chimes := (trimRanges s p x).chimes, chimeTime := (trimRanges s p x).chimeTime, pairs := (trimRanges s p x).pairs,
             streams := (trimRanges s p x).streams, chains := (trimRanges s p x).chains, lanes := (trimRanges s p x).lanes } := by
  have hfold (f : State → Nat → State) (hf : ∀ u n, f u n = { u with lanes := (f u n).lanes }) : ∀ (ls : List Nat) (u : State),
      ls.foldl f u = { u with lanes := (ls.foldl f u).lanes } := by
    intro ls
    induction ls with
    | nil => exact fun _ => rfl
    | cons n ls ih =>
      intro u
      rw [List.foldl_cons, ih, hf]
  unfold trimRanges
  extract_lets goneC goneS pairGone s'
  rw [hfold _ (fun _ _ => rfl)]

theorem resize_went {s : State} (hg : s.gridRows ≤ 1080) (p : Nat) (re : Part) (fs : BitVec 84) :
    let t := grantsGiven (trimRanges (leaveFields s fs) p re) p re
    regGet t 0 0 0x200048 = 0 ∧ Spares s t p (halvesOf fs) ∧ Fresh s t (halvesOf fs) ∧
      t.part p = { re with lanes := (t.part p).lanes, frames := (t.part p).frames } ∧
      (stagedLanes s ≤ re.lanes.length → (t.part p).lanes = re.lanes.take (stagedLanes s)) ∧
      (stagedFrames s ≤ re.frames.length → (t.part p).frames = re.frames.take (stagedFrames s)) := by
  obtain ⟨hregs, hparts, hfind, hfresh⟩ := leaveFields_spec hg fs
  have htrim := trimRanges_form (leaveFields s fs) p re
  generalize leaveFields s fs = u at *
  generalize trimRanges u p re = v at *
  obtain ⟨hsl, hsf⟩ := staged_of_fixed (s := s) (t := v) (fun off _ _ => .of_regs (by rw [htrim]; exact hregs))
  obtain ⟨hform, hcode, hoth, hpart, hlanes, hframes, -⟩ := grantsGiven_spec v p re
  rw [hsl] at hlanes
  rw [hsf] at hframes
  generalize grantsGiven v p re = t at *
  have hcores : t.cores = u.cores := by rw [hform, htrim]
  refine ⟨hcode, ⟨fun q hq => ?_, fun k hk => by rw [hcores]; exact hfind k hk⟩, fun d hd hst => ?_, hpart, fun h => ?_, hframes⟩
  · rw [hoth q hq, State.part, htrim, hparts]
    rfl
  · rw [State.core, hcores]
    exact hfresh d hd hst
  · rw [hlanes]
    by_cases hlt : stagedLanes s < re.lanes.length
    · rw [if_pos hlt]
    · rw [if_neg hlt, show stagedLanes s = re.lanes.length by omega, Nat.sub_self, List.take_zero, List.append_nil, List.take_length]

/-- Settles O37: refusals by `partOp`, CREATE and RESIZE by `grantsGiven_spec`, RESET and DESTROY by `beginReset_went`, TRANSIT by `transit_spec`. -/
theorem partitionCommands : Obligations.PartitionCommands := by
  intro s hg p old code
  refine ⟨fun i hi => partCmds_refused hi s, fun hc hlc h0 h16 => ?_⟩
  intro new re went
  obtain ⟨hc1, hc2, hc3, -⟩ := create_spec hc hlc h0 h16
  obtain ⟨hr1, hr2, hr3, hr4⟩ := resize_spec hc hlc h0 h16
  obtain ⟨ht1, ht2, ht3, ht4⟩ := transit_spec hc hlc h0 h16
  have hreset : exec .reset s = .next (partReset s p) := congrArg Host.Outcome.next (partOp_runs partReset hc hlc h0 h16)
  have hdestroy : exec .destroy s = .next (partDestroy s p) := congrArg Host.Outcome.next (partOp_runs partDestroy hc hlc h0 h16)
  refine ⟨hc1, hc2, hc3, fun hf hb hs => create_went hc hlc h0 h16 hf hb hs, hr1, hr2, hr3, fun hl hb hs hq hu hsl => ?_, fun h => ?_, fun h => ?_, fun h1 h2 => ?_,
    fun h => ?_, ?_⟩
  · have hw := resize_went hg p re (old.fields &&& ~~~re.fields)
    have hexec := hr4 hl hb hs hq hu hsl
    generalize grantsGiven (trimRanges (leaveFields s (old.fields &&& ~~~re.fields)) p re) p re = t at hw hexec
    exact ⟨_, hexec, rfl, hw⟩
  · exact hreset.trans (congrArg Host.Outcome.next (if_pos h))
  · exact beginReset_went (hreset.trans (congrArg Host.Outcome.next (if_neg (not_not.2 h))))
  · exact hdestroy.trans (congrArg Host.Outcome.next (if_neg (fun h => h.elim h1 h2)))
  · exact beginReset_went (hdestroy.trans (congrArg Host.Outcome.next (if_pos h)))
  · intro w f d o held
    refine ⟨ht1, ht2, ht3, fun hl hf hd hh => ?_⟩
    obtain ⟨need, hexec⟩ := ht4 hl hf hd hh
    obtain ⟨hform, hts, hsame, hdiff⟩ := transited_spec (transitAfter s f d (fld w 3 0) (w.getLsbD 31)) need hc hl
    refine ⟨_, hexec, hform, fun g => ?_, hsame, hdiff⟩
    rw [hts]
    exact mem_transitAfter s f d (fld w 3 0) (w.getLsbD 31) g

end Sys2Proof.Machine
end

section
/-! PROOFS. The ends of partition commands and of resets. -/

namespace Sys2Proof.Machine

open Sys2Proof.Claims

/-! ## PART_CMD_COMPLETE (R357, R370) -/

theorem partComplete_eq {s : State} {c : PartCmd} (h : s.partCmd = some c) : partComplete s =
    if c.op = 3 ∨ c.op = 4 ∨ (cmdHalves s).any (fun h => softPending (s.region h)) then s
    else if c.op = 1 then
      { (if c.op = 5 then s else freshCores s (cmdHalves s)) with partCmd := none }.setPart c.part
        { (if c.op = 5 then s else freshCores s (cmdHalves s)).part c.part with st := .live }
    else { (if c.op = 5 then s else freshCores s (cmdHalves s)) with partCmd := none } := by
  unfold partComplete
  split
  · next hn => cases hn.symm.trans h
  · next x hx =>
    cases hx.symm.trans h
    rfl

/-- The half-fields of a command at reset condition, the other cores as they were. -/
theorem freshCores_spares {s : State} (hg : s.gridRows ≤ 1080) (hs : List Nat) : let t := freshCores s hs
    t = { s with cores := t.cores, power := t.power } ∧ (∀ k, hs.contains (halfOfKey s k) = false → Tab.find t.cores k = Tab.find s.cores k) ∧ Fresh s t hs :=
  ⟨freshCores_form s hs, fun _ hk => freshCores_find hg hk, fresh_freshCores hg hs⟩

theorem partComplete_spec {s : State} (hg : s.gridRows ≤ 1080) {c : PartCmd} (h : s.partCmd = some c) : let hs := cmdHalves s
    (c.op = 3 ∨ c.op = 4 ∨ hs.any (fun h => softPending (s.region h)) = true → exec .partCmdComplete s = .next s) ∧
      (c.op = 1 ∨ c.op = 2 → hs.any (fun h => softPending (s.region h)) = false → Nexts .partCmdComplete s (fun t => t.partCmd = none ∧
        Spares s t c.part hs ∧ Fresh s t hs ∧ t.part c.part = { s.part c.part with st := if c.op = 1 then .live else (s.part c.part).st })) ∧
      (c.op = 5 → hs.any (fun h => softPending (s.region h)) = false → exec .partCmdComplete s = .next { s with partCmd := none }) := by
  intro hs
  have hexec : exec .partCmdComplete s = .next _ := congrArg Host.Outcome.next (partComplete_eq h)
  have hgo (h3 : c.op ≠ 3) (h4 : c.op ≠ 4) (hp : hs.any (fun h => softPending (s.region h)) = false) :
      ¬ (c.op = 3 ∨ c.op = 4 ∨ hs.any (fun h => softPending (s.region h)) = true) := by
    rintro (h | h | h)
    · exact h3 h
    · exact h4 h
    · exact Bool.false_ne_true (hp.symm.trans h)
  refine ⟨fun hb => hexec.trans (congrArg Host.Outcome.next (if_pos hb)), fun hop hp => ?_, fun hop hp => ?_⟩
  · obtain ⟨hform, hfind, hfresh⟩ := freshCores_spares hg hs
    rw [if_neg (hgo (by omega) (by omega) hp), if_neg (show c.op ≠ 5 by omega)] at hexec
    have hpart (q : Nat) : (freshCores s hs).part q = s.part q := by rw [hform]; rfl
    generalize freshCores s hs = u at *
    by_cases h1 : c.op = 1
    · rw [if_pos h1] at hexec
      refine ⟨_, hexec, rfl, ⟨fun q hq => ?_, hfind⟩, hfresh, ?_⟩
      · exact (part_setPart ..).trans ((if_neg hq).trans (hpart q))
      · rw [if_pos h1, part_setPart, if_pos rfl, hpart]
    · rw [if_neg h1] at hexec
      refine ⟨_, hexec, rfl, ⟨fun q _ => hpart q, hfind⟩, hfresh, ?_⟩
      rw [if_neg h1]
      exact hpart c.part
  · rw [if_neg (hgo (by omega) (by omega) hp), if_pos hop, if_neg (show c.op ≠ 1 by omega)] at hexec
    exact hexec

/-! ## PARTITION_RESET_DONE (R360) -/

/-- The command that a reset of p completes is over. -/
def cmdEnded (s : State) (p : Nat) : State :=
  match s.partCmd with
  | some c => if c.part = p then { s with partCmd := none } else s
  | none => s

theorem cmdEnded_spec (s : State) (p : Nat) : cmdEnded s p = { s with partCmd := (cmdEnded s p).partCmd } ∧
    (s.partCmd.map (·.part) = some p → (cmdEnded s p).partCmd = none) := by
  unfold cmdEnded
  split
  · next c hc =>
    split
    · exact ⟨rfl, fun _ => rfl⟩
    · next hne => exact ⟨rfl, fun h => absurd (Option.some.inj ((congrArg (Option.map (·.part)) hc).symm.trans h)) hne⟩
  · next hn => exact ⟨rfl, fun _ => hn⟩

/-- A reset that ends, its partition's cores and chains at reset condition and its command complete. -/
def resetEnded (s : State) (p : Nat) : State :=
  let s := freshCores s (halvesOf (s.part p).fields)
  cmdEnded { s with chains := s.chains.map (fun e => if e.1 / 512 = p then (e.1, {}) else e) } p

/-- The reset of p's REINIT is the completion of its command. -/
def reinitEnded (s : State) (p : Nat) (b : Option (Fin 8)) : State :=
  match b with
  | some q => if (hq s p q.val).cmd.isSome && (hq s p q.val).cpl.isNone then endCmd s p q.val 0 0 else s
  | none => s

theorem endReset_eq (s : State) (p : Nat) : endReset s p =
    if (s.part p).st = .destroying then releaseAll (resetEnded s p) p
    else reinitEnded ((resetEnded s p).setPart p { s.part p with st := .live, routeLost := false, reinitBy := none }) p (s.part p).reinitBy := rfl

theorem resetEnded_spec {s : State} (hg : s.gridRows ≤ 1080) (p : Nat) : let t := resetEnded s p
    t = { s with cores := t.cores, power := t.power, chains := t.chains, partCmd := t.partCmd } ∧
      (∀ k, (halvesOf (s.part p).fields).contains (halfOfKey s k) = false → Tab.find t.cores k = Tab.find s.cores k) ∧
      Fresh s t (halvesOf (s.part p).fields) ∧ (s.partCmd.map (·.part) = some p → t.partCmd = none) := by
  obtain ⟨hform, hfind, hfresh⟩ := freshCores_spares hg (halvesOf (s.part p).fields)
  unfold resetEnded
  dsimp only
  generalize freshCores s (halvesOf (s.part p).fields) = u at *
  obtain ⟨hc, hcmd⟩ := cmdEnded_spec { u with chains := u.chains.map (fun e => if e.1 / 512 = p then (e.1, {}) else e) } p
  have hcmdu : u.partCmd = s.partCmd := by rw [hform]
  generalize cmdEnded { u with chains := u.chains.map (fun e => if e.1 / 512 = p then (e.1, {}) else e) } p = t at *
  have hcores : t.cores = u.cores := by rw [hc]
  refine ⟨?_, fun k hk => ?_, fun d hd hst => ?_, fun h => hcmd (hcmdu ▸ h)⟩
  · rw [hc, hform]
  · rw [hcores]
    exact hfind k hk
  · rw [State.core, hcores]
    exact hfresh d hd hst

theorem reinitEnded_form (s : State) (p : Nat) (b : Option (Fin 8)) : reinitEnded s p b = { s with hqs := (reinitEnded s p b).hqs } := by
  unfold reinitEnded
  split
  · split <;> rfl
  · rfl

theorem reinitEnded_cpl {s : State} {p : Nat} {q : Fin 8} (hc : (hq s p q.val).cmd ≠ none) (hn : (hq s p q.val).cpl = none) :
    (hq (reinitEnded s p (some q)) p q.val).cpl = some (0, 0) := by
  have hb : ((hq s p q.val).cmd.isSome && (hq s p q.val).cpl.isNone) = true := by
    rw [hn, Option.isSome_iff_ne_none.2 hc]
    rfl
  have he : reinitEnded s p (some q) = endCmd s p q.val 0 0 := if_pos hb
  rw [he, endCmd, hq_setHq]

/-- Steps that touch registers and ports alone. -/
theorem foldl_regsPorts {f : State → Nat → State} (hf : ∀ u n, f u n = { u with regs := (f u n).regs, ports := (f u n).ports }) (l : List Nat) :
    ∀ u : State, l.foldl f u = { u with regs := (l.foldl f u).regs, ports := (l.foldl f u).ports } := by
  induction l with
  | nil => exact fun _ => rfl
  | cons n l ih =>
    intro u
    rw [List.foldl_cons, ih, hf]

/-- Steps that touch registers alone. -/
theorem foldl_regs {α : Type} {f : State → α → State} (hf : ∀ u n, f u n = { u with regs := (f u n).regs }) (l : List α) :
    ∀ u : State, l.foldl f u = { u with regs := (l.foldl f u).regs } := by
  induction l with
  | nil => exact fun _ => rfl
  | cons n l ih =>
    intro u
    rw [List.foldl_cons, ih, hf]

theorem restage_form (s : State) (p : Nat) : restage s p = { s with regs := (restage s p).regs } := by
  unfold restage
  exact foldl_regs (fun _ _ => rfl) _ s

theorem releasePeers_form (s : State) (p : Nat) : releasePeers s p = { s with regs := (releasePeers s p).regs, ports := (releasePeers s p).ports } := by
  unfold releasePeers
  refine foldl_regsPorts (fun u n => ?_) _ s
  dsimp only
  split <;> rfl

theorem releaseT3_form (s : State) (p : Nat) : releaseT3 s p = { s with wst := (releaseT3 s p).wst } := by
  unfold releaseT3
  rfl

/-- The frames, lanes, peers and T3 of a partition given up. -/
def poolsReleased (s : State) (p : Nat) : State :=
  releaseT3 (releasePeers (releaseLanes (releaseFrames s (s.part p).frames) (s.part p).lanes) p) p

/-- The pools given up one after another. -/
theorem poolsReleased_steps {s u1 u2 u3 u4 : State} {ls : List Nat} (h1 : u1 = { s with tiers := u1.tiers, regs := u1.regs })
    (h2 : u2 = { u1 with lanes := u2.lanes }) (ho : ∀ l ∈ ls, (u2.lane l).owner = 0) (h3 : u3 = { u2 with regs := u3.regs, ports := u3.ports })
    (h4 : u4 = { u3 with wst := u4.wst }) :
    u4 = { s with tiers := u4.tiers, regs := u4.regs, lanes := u4.lanes, ports := u4.ports, wst := u4.wst } ∧ ∀ l ∈ ls, (u4.lane l).owner = 0 := by
  refine ⟨?_, fun l hl => ?_⟩
  · rw [h4, h3, h2, h1]
  · have hlanes : u4.lanes = u2.lanes := by rw [h4, h3]
    rw [State.lane, hlanes]
    exact ho l hl

theorem poolsReleased_spec (s : State) (p : Nat) : let t := poolsReleased s p
    t = { s with tiers := t.tiers, regs := t.regs, lanes := t.lanes, ports := t.ports, wst := t.wst } ∧ ∀ l ∈ (s.part p).lanes, (t.lane l).owner = 0 :=
  poolsReleased_steps (releaseFrames_form ..) (releaseLanes_form ..) (fun l hl => by rw [releaseLanes_owner, if_pos hl]) (releasePeers_form ..) (releaseT3_form ..)

/-- The streams, chains, groups and transit tracks of a partition given up. -/
def claimsDropped (s : State) (p : Nat) : State :=
  { s with
    streams := s.streams.filter (fun e => !streamIn s p e.1), chains := s.chains.filter (fun e => e.1 / 512 != p),
    groups := s.groups.filter (fun e => e.1 / 16 != p), transit := s.transit.filter (fun g => g.part != p) }

theorem releaseAll_eq (s : State) (p : Nat) :
    releaseAll s p = restage ((claimsDropped (poolsReleased s p) p).setPart p { creations := (s.part p).creations }) p := by
  unfold releaseAll poolsReleased claimsDropped
  dsimp only

/-- The grants given up one after another. -/
theorem releaseAll_steps {s u t : State} {p : Nat} {x : Part} {ls : List Nat}
    (hu : u = { s with tiers := u.tiers, regs := u.regs, lanes := u.lanes, ports := u.ports, wst := u.wst }) (ho : ∀ l ∈ ls, (u.lane l).owner = 0)
    (ht : t = { (claimsDropped u p).setPart p x with regs := t.regs }) :
    t.cores = s.cores ∧ (∀ q, t.part q = if q = p then x else s.part q) ∧ (∀ l ∈ ls, (t.lane l).owner = 0) ∧ (∀ g ∈ t.transit, g.part ≠ p) ∧
      t.partCmd = s.partCmd := by
  have hpart (q : Nat) : u.part q = s.part q := by rw [hu]; rfl
  rw [ht]
  refine ⟨by rw [hu]; rfl, fun q => ?_, ho, fun g hgm => ?_, by rw [hu]; rfl⟩
  · rw [← hpart]
    exact part_setPart ..
  · exact bne_iff_ne.1 (List.mem_filter.1 hgm).2

theorem releaseAll_spec (s : State) (p : Nat) : let t := releaseAll s p
    t.cores = s.cores ∧ (∀ q, t.part q = if q = p then { creations := (s.part p).creations } else s.part q) ∧ (∀ l ∈ (s.part p).lanes, (t.lane l).owner = 0) ∧
      (∀ g ∈ t.transit, g.part ≠ p) ∧ t.partCmd = s.partCmd := by
  obtain ⟨hform, hown⟩ := poolsReleased_spec s p
  rw [releaseAll_eq]
  exact releaseAll_steps hform hown (restage_form ..)

theorem resetDone_spec {s : State} (hg : s.gridRows ≤ 1080) (p : Vf) : let n := vfPart p
    let x := s.part n
    let hs := halvesOf x.fields
    ((x.st ≠ .resetting ∧ x.st ≠ .destroying) ∨ strikesOpen s n = true ∨ abortsUnsent s n = true → exec (.partitionResetDone p) s = .next s) ∧
      (x.st = .resetting → strikesOpen s n = false → abortsUnsent s n = false → Nexts (.partitionResetDone p) s (fun t => Spares s t n hs ∧ Fresh s t hs ∧
        t.part n = { x with st := .live, routeLost := false, reinitBy := none } ∧
        (∀ q, x.reinitBy = some q → (hq s n q.val).cmd ≠ none → (hq s n q.val).cpl = none → (hq t n q.val).cpl = some (0, 0)) ∧
        (s.partCmd.map (·.part) = some n → t.partCmd = none))) ∧
      (x.st = .destroying → strikesOpen s n = false → abortsUnsent s n = false → Nexts (.partitionResetDone p) s (fun t => Spares s t n hs ∧ Fresh s t hs ∧
        t.part n = { creations := x.creations } ∧ (∀ l ∈ x.lanes, (t.lane l).owner = 0) ∧ (∀ g ∈ t.transit, g.part ≠ n) ∧
        (s.partCmd.map (·.part) = some n → t.partCmd = none))) := by
  intro n x hs
  obtain ⟨hform, hfind, hfresh, hcmd⟩ := resetEnded_spec hg n
  have hgo (hst : x.st = .resetting ∨ x.st = .destroying) (h1 : strikesOpen s n = false) (h2 : abortsUnsent s n = false) :
      exec (.partitionResetDone p) s = .next (if x.st = .destroying then releaseAll (resetEnded s n) n
        else reinitEnded ((resetEnded s n).setPart n { x with st := .live, routeLost := false, reinitBy := none }) n x.reinitBy) :=
    (if_pos ⟨hst, h1, h2⟩).trans (congrArg Host.Outcome.next (endReset_eq s n))
  have hpart (q : Nat) : (resetEnded s n).part q = s.part q := by rw [hform]; rfl
  have hhqs : (resetEnded s n).hqs = s.hqs := by rw [hform]
  generalize resetEnded s n = u at *
  refine ⟨fun h => if_neg ?_, fun hst h1 h2 => ?_, fun hst h1 h2 => ?_⟩
  · rintro ⟨hst, h1, h2⟩
    obtain ⟨hr, hd⟩ | h | h := h
    · exact hst.elim hr hd
    · exact Bool.false_ne_true (h1.symm.trans h)
    · exact Bool.false_ne_true (h2.symm.trans h)
  · have hexec := hgo (.inl hst) h1 h2
    rw [if_neg (by rw [hst]; exact PartSt.noConfusion)] at hexec
    have hset (q : Nat) : (u.setPart n { x with st := .live, routeLost := false, reinitBy := none }).part q = _ := part_setPart ..
    have hcpl (q : Fin 8) (hb : x.reinitBy = some q) (hc : (hq s n q.val).cmd ≠ none) (hn : (hq s n q.val).cpl = none) :
        (hq (reinitEnded (u.setPart n { x with st := .live, routeLost := false, reinitBy := none }) n x.reinitBy) n q.val).cpl = some (0, 0) := by
      have hq : hq (u.setPart n { x with st := .live, routeLost := false, reinitBy := none }) n q.val = hq s n q.val := by
        rw [Machine.hq, Machine.hq, ← hhqs]
        rfl
      rw [hb]
      exact reinitEnded_cpl (by rw [hq]; exact hc) (by rw [hq]; exact hn)
    refine ⟨_, hexec, ⟨fun q hq => ?_, fun k hk => ?_⟩, fun d hd hdst => ?_, ?_, hcpl, fun h => ?_⟩
    · rw [reinitEnded_form]
      exact (hset q).trans ((if_neg hq).trans (hpart q))
    · rw [reinitEnded_form]
      exact hfind k hk
    · rw [reinitEnded_form]
      exact hfresh d hd hdst
    · rw [reinitEnded_form]
      exact (hset n).trans (if_pos rfl)
    · rw [reinitEnded_form]
      exact hcmd h
  · have hexec := hgo (.inr hst) h1 h2
    rw [if_pos hst] at hexec
    obtain ⟨hcores, hparts, hown, htr, hpc⟩ := releaseAll_spec u n
    rw [hpart n] at hown hparts
    generalize releaseAll u n = t at *
    refine ⟨t, hexec, ⟨fun q hq => ?_, fun k hk => ?_⟩, fun d hd hdst => ?_, (hparts n).trans (if_pos rfl), hown, htr, fun h => hpc.trans (hcmd h)⟩
    · rw [hparts, if_neg hq, hpart]
    · rw [hcores]
      exact hfind k hk
    · rw [State.core, hcores]
      exact hfresh d hd hdst

end Sys2Proof.Machine
end

section
/-! PROOFS. Function resets. -/

namespace Sys2Proof.Machine

open Sys2Proof.Claims

/-! ## A VF's FLR (R339) -/

/-- The queues of one partition. -/
def queuesOf (p : Nat) : List (Nat × Nat) := (List.range 8).map (fun q => (p, q))

theorem mem_queuesOf (p : Nat) (e : Nat × Nat) : e ∈ queuesOf p ↔ e.1 = p ∧ e.2 < 8 := by
  obtain ⟨a, b⟩ := e
  simp only [queuesOf, List.mem_map, List.mem_range, Prod.mk.injEq]
  constructor
  · rintro ⟨q, hq, rfl, rfl⟩
    exact ⟨rfl, hq⟩
  · rintro ⟨rfl, hb⟩
    exact ⟨b, hb, rfl, rfl⟩

theorem vfFlr_still {s : State} {p : Nat} (h : (s.part p).st ≠ .live) : vfFlr s p = (queuesOf p).foldl (fun s e => stopQueue s e.1 e.2) s := by
  rw [queuesOf, List.foldl_map]
  exact if_neg h

theorem hqOff_ctrl (q : Nat) : hqOff q 0x10 = 0x100010 + 0x100 * q := by
  simp only [hqOff]
  omega

theorem vfFlr_spec (s : State) (p : Vf) : let n := vfPart p
    let x := s.part n
    (x.st = .live → Nexts (.vfFlr p) s (fun t => (t.part n).st = .resetting ∧ (t.part n).fields = x.fields ∧ (t.part n).frames = x.frames ∧
      ∀ d, coreKey d ∈ listedKeys s n → (t.core d).st = .fenced)) ∧
    (x.st ≠ .live → Nexts (.vfFlr p) s (fun t => t.part n = x ∧ t.cores = s.cores ∧
      ∀ q, q < 8 → (regGet t n 0 (0x100010 + 0x100 * q)).getLsbD 31 = false)) := by
  intro n x
  refine ⟨fun hl => ?_, fun hn => ?_⟩
  · have hexec : exec (.vfFlr p) s = .next (beginReset s n .resetting none) := congrArg Host.Outcome.next (if_pos hl)
    have hp := beginReset_part s n n .resetting none
    rw [if_pos rfl] at hp
    have hfence (d : CoreId) (hd : coreKey d ∈ listedKeys s n) := beginReset_fenced (s := s) .resetting none hd
    generalize beginReset s n .resetting none = t at *
    exact ⟨t, hexec, (congrArg Part.st hp :), (congrArg Part.fields hp :), (congrArg Part.frames hp :), hfence⟩
  · have hexec : exec (.vfFlr p) s = .next _ := congrArg Host.Outcome.next (vfFlr_still hn)
    have hwork := QueueWork.foldl (f := fun s (e : Nat × Nat) => stopQueue s e.1 e.2) (fun s e => stopQueue_queueWork s e.1 e.2) (queuesOf n) s
    have hn32 : n < 32 := by
      have := p.isLt
      show p.val + 1 < 32
      omega
    have hoff (q : Nat) (hq : q < 8) := queueOff_foldl hn32 hq (queuesOf n)
      (fun e he => by obtain ⟨h1, h2⟩ := (mem_queuesOf n e).1 he; exact ⟨h1 ▸ hn32, h2⟩) s (.inl ((mem_queuesOf n (n, q)).2 ⟨rfl, hq⟩))
    generalize (queuesOf n).foldl (fun s e => stopQueue s e.1 e.2) s = t at *
    refine ⟨t, hexec, by rw [hwork]; rfl, by rw [hwork], fun q hq => ?_⟩
    have h := hoff q hq
    rw [queueOff, hqCtrl, hqOff_ctrl] at h
    exact h

/-! ## The PF's FLR (R339) -/

/-- The command an FLR of the PF abandons. -/
theorem abandonCmd_spec (s : State) : let t := abandonCmd s
    t = { s with parts := t.parts, lanes := t.lanes, tiers := t.tiers, regs := t.regs, partCmd := t.partCmd } ∧
      (∀ off, off < 2 ^ 26 → off ≠ 0x60010C → RegFixed off s t) ∧ (∀ q, s.partCmd.map (·.part) ≠ some q → t.part q = s.part q) ∧
      ∀ c, t.partCmd = some c → c.op = 4 := by
  unfold abandonCmd
  split
  · next hn => exact ⟨rfl, fun off _ _ => .refl off s, fun _ _ => rfl, fun c hc => by cases hn.symm.trans hc⟩
  · next c hc =>
    have hother {q : Nat} (hq : s.partCmd.map (·.part) ≠ some q) : q ≠ c.part := fun e => hq (by rw [hc, e]; rfl)
    split
    · next h4 =>
      refine ⟨rfl, fun off _ _ => .refl off s, fun _ _ => rfl, fun c' hc' => ?_⟩
      cases hc.symm.trans hc'
      exact h4
    split
    · have h1 := releaseFrames_form s (s.part c.part).frames
      have h1r (off : Nat) (ho : off < 2 ^ 26) (hne : off ≠ 0x60010C) := releaseFrames_fixed ho hne s (s.part c.part).frames
      dsimp only
      generalize releaseFrames s (s.part c.part).frames = u at *
      have h2 := releaseLanes_form (s.part c.part).lanes u
      generalize releaseLanes u (s.part c.part).lanes = v at *
      have hpart (q : Nat) : v.part q = s.part q := by rw [h2, h1]; rfl
      refine ⟨?_, fun off ho hne => (h1r off ho hne).trans (.of_regs ?_), fun q hq => ?_, fun c' hc' => by cases hc'⟩
      · rw [h2, h1]
        rfl
      · rw [h2]
        rfl
      · exact (part_setPart ..).trans ((if_neg (hother hq)).trans (hpart q))
    split
    · exact ⟨rfl, fun _ _ _ => .of_regs rfl, fun q hq => (part_setPart ..).trans (if_neg (hother hq)), fun c' hc' => by cases hc'⟩
    · exact ⟨rfl, fun _ _ _ => .of_regs rfl, fun _ _ => rfl, fun c' hc' => by cases hc'⟩

theorem regGet_dropPf (s : State) (f : Nat → Bool) {fn idx off : Nat} (ho : off < 2 ^ 26) : regGet (dropPf s f) fn idx off =
    if fn = 0 ∧ idx = 0 ∧ f off = true then (regSpec off).reset else regGet s fn idx off := by
  have hf : Tab.find (dropPf s f).regs (regKey fn idx off) = _ := Tab.find_filter s.regs (fun k => !(k / 2 ^ 26 == 0 && f (k % 2 ^ 26))) (regKey fn idx off)
  have hdiv : regKey fn idx off / 2 ^ 26 = idx * 32 + fn := by simp only [regKey]; omega
  have hmod : regKey fn idx off % 2 ^ 26 = off := by simp only [regKey]; omega
  rw [hdiv, hmod] at hf
  by_cases h : fn = 0 ∧ idx = 0 ∧ f off = true
  · obtain ⟨rfl, rfl, hoff⟩ := h
    rw [if_pos ⟨rfl, rfl, hoff⟩, regGet, Tab.get, hf, hoff]
    rfl
  · have hb : (!(idx * 32 + fn == 0 && f off)) = true := by
      rw [Bool.not_eq_true', Bool.eq_false_iff, ne_eq, Bool.and_eq_true, beq_iff_eq]
      rintro ⟨h0, hoff⟩
      exact h ⟨by omega, by omega, hoff⟩
    rw [if_neg h, regGet, Tab.get, hf, if_pos hb]
    rfl

/-- Staged values lie in the grant registers. -/
theorem restage_fixed {off : Nat} (ho : off < 2 ^ 26) (h : off < 0x200008 ∨ 0x20005C < off) (s : State) (p : Nat) : RegFixed off s (restage s p) := by
  have hlist : ∀ l : List Nat, (∀ o ∈ l, 0x08 ≤ o ∧ o ≤ 0x5C) → ∀ u : State,
      RegFixed off u (l.foldl (fun s o => regSet s 0 p (0x200000 + o) (grantWord (s.part p) o)) u) := by
    intro l
    induction l with
    | nil => exact fun _ u => .refl off u
    | cons o l ih =>
      intro hl u
      have hrange := hl o List.mem_cons_self
      exact (RegFixed.regSet u 0 p _ ho (by omega) (by omega)).trans (ih (fun o ho => hl o (List.mem_cons_of_mem _ ho)) _)
  exact hlist _ (by decide) s

/-- The registers of an FLR of the PF. -/
def pfRestaged (s : State) : State := (List.range 32).foldl restage (dropPf (abandonCmd s) (fun o => pfSelector o || ringReg o))

theorem pfFlr_eq (s : State) : pfFlr s = { pfRestaged s with
    power := { (pfRestaged s).power with stage := (pfRestaged s).power.stage.filter (fun e => e.1 / 65536 != 0) },
    tamb := { (pfRestaged s).tamb with fetch := Tab.drop (pfRestaged s).tamb.fetch 0 }, rings := Tab.put (pfRestaged s).rings 0 {} } := rfl

theorem pfRestaged_spec (s : State) : let t := pfRestaged s
    t = { s with parts := t.parts, lanes := t.lanes, tiers := t.tiers, regs := t.regs, partCmd := t.partCmd } ∧
      (∀ fn idx off, off < 2 ^ 26 → off < 0x200008 ∨ 0x20005C < off → off ≠ 0x60010C → regGet t fn idx off =
        if fn = 0 ∧ idx = 0 ∧ (pfSelector off || ringReg off) = true then (regSpec off).reset else regGet s fn idx off) ∧
      (∀ q, s.partCmd.map (·.part) ≠ some q → t.part q = s.part q) ∧ ∀ c, t.partCmd = some c → c.op = 4 := by
  obtain ⟨hform, hfixed, hparts, hcmd⟩ := abandonCmd_spec s
  unfold pfRestaged
  generalize abandonCmd s = u at *
  have hdrop (fn idx off : Nat) (ho : off < 2 ^ 26) := regGet_dropPf u (fun o => pfSelector o || ringReg o) (fn := fn) (idx := idx) ho
  have hdropForm : dropPf u (fun o => pfSelector o || ringReg o) = { u with regs := (dropPf u (fun o => pfSelector o || ringReg o)).regs } := rfl
  generalize dropPf u (fun o => pfSelector o || ringReg o) = v at *
  have hre (off : Nat) (ho : off < 2 ^ 26) (h : off < 0x200008 ∨ 0x20005C < off) : RegFixed off v ((List.range 32).foldl restage v) :=
    RegFixed.foldl (fun w p => restage_fixed ho h w p) _ v
  have hreForm : (List.range 32).foldl restage v = _ := foldl_regs (f := restage) (fun w p => restage_form w p) (List.range 32) v
  generalize (List.range 32).foldl restage v = t at *
  refine ⟨?_, fun fn idx off ho h hne => ?_, fun q hq => ?_, fun c hc => ?_⟩
  · rw [hreForm, hdropForm, hform]
  · rw [(hre off ho h).same, hdrop fn idx off ho, (hfixed off ho hne).same]
  · rw [← hparts q hq, State.part, hreForm, hdropForm]
    rfl
  · refine hcmd c ?_
    rw [← hc, hreForm, hdropForm]

theorem pfFlr_spec (s : State) : Nexts .pfFlr s (fun t =>
    t = { s with regs := t.regs, parts := t.parts, lanes := t.lanes, partCmd := t.partCmd, tiers := t.tiers, power := t.power, tamb := t.tamb,
                 rings := t.rings } ∧
    regGet t 0 0 0x200000 = 1 ∧ (regGet t 0 0 0xD00008).getLsbD 31 = false ∧ regGet t 0 0 0x900008 = regGet s 0 0 0x900008 ∧
    (∀ q, s.partCmd.map (·.part) ≠ some q → t.part q = s.part q) ∧ (∀ c, t.partCmd = some c → c.op = 4) ∧
    t.power.regions = s.power.regions ∧ t.power.segs = s.power.segs) := by
  obtain ⟨hform, hreg, hparts, hcmd⟩ := pfRestaged_spec s
  have hexec : exec .pfFlr s = .next _ := congrArg Host.Outcome.next (pfFlr_eq s)
  generalize pfRestaged s = u at *
  have h1 := hreg 0 0 0x200000 (by omega) (by omega) (by omega)
  have h2 := hreg 0 0 0xD00008 (by omega) (by omega) (by omega)
  have h3 := hreg 0 0 0x900008 (by omega) (by omega) (by omega)
  rw [if_pos ⟨rfl, rfl, by decide⟩] at h1 h2
  rw [if_neg (by decide)] at h3
  refine ⟨_, hexec, ?_, h1, ?_, h3, hparts, hcmd, ?_, ?_⟩
  · rw [hform]
  · exact (congrArg (fun w : Word => w.getLsbD 31) h2).trans (by decide)
  · rw [hform]
  · rw [hform]

end Sys2Proof.Machine
end

section
/-! PROOFS. PERST (O38). -/

namespace Sys2Proof.Machine

open Sys2Proof.Claims

/-! ## PERST# (R465) -/

/-- A queue with no command, its EN bit off. -/
def queueIdle (s : State) (p q : Nat) : Prop := (hq s p q).cmd = none ∧ queueOff s p q

theorem hq_setHq_ne (s : State) {p q p' q' : Nat} (x : HQueue) (h : p' * 8 + q' ≠ p * 8 + q) : hq (setHq s p q x) p' q' = hq s p' q' :=
  Tab.get_put_other _ _ _ h

/-- A command cut off touches its own queue alone. -/
theorem cutCmd_hq (s : State) {p q p' q' : Nat} (h : p' * 8 + q' ≠ p * 8 + q) : hq (cutCmd s p q) p' q' = hq s p' q' := by
  unfold cutCmd
  dsimp only
  split
  · rfl
  split
  · rfl
  · rw [t2Write_tiers]
    exact hq_setHq_ne { s with watches := _ } _ h

/-- The queue of a command cut off, at reset. -/
def queueCut (s : State) (p q : Nat) : State :=
  setHq (cutCmd s p q) p q { hq (cutCmd s p q) p q with tail := (hq (cutCmd s p q) p q).head, cmd := none, cpl := none, held := false }

theorem perstQueue_eq (s : State) (p q : Nat) :
    perstQueue s p q = regSet (queueCut s p q) p 0 (hqOff q 0x10) (hqCtrl (queueCut s p q) p q &&& ~~~(bits 31 31)) := rfl

theorem queueCut_work (s : State) (p q : Nat) : QueueWork s (queueCut s p q) := (cutCmd_queueWork s p q).trans (u := queueCut s p q) rfl

theorem queueCut_regs (s : State) (p q : Nat) : (queueCut s p q).regs = s.regs := by
  have h : (cutCmd s p q).regs = s.regs := by rw [cutCmd_form]
  exact h

theorem perstQueue_work (s : State) (p q : Nat) : QueueWork s (perstQueue s p q) := by
  rw [perstQueue_eq]
  exact (queueCut_work s p q).trans (u := regSet (queueCut s p q) p 0 _ _) rfl

/-- A queue of a VF at PERST# is idle, and a queue that was stays so. -/
theorem perstQueue_idle (s : State) {p q p' q' : Nat} (hq8 : q < 8) (hp : p < 32) (hp' : p' < 32) (hq' : q' < 8)
    (h : p' = p ∧ q' = q ∨ queueIdle s p' q') : queueIdle (perstQueue s p q) p' q' := by
  have hregs := queueCut_regs s p q
  rw [queueIdle, queueOff, perstQueue_eq, hq_regSet]
  by_cases hsame : p' = p ∧ q' = q
  · obtain ⟨rfl, rfl⟩ := hsame
    refine ⟨?_, ?_⟩
    · rw [queueCut, hq_setHq]
    · rw [hqCtrl, regGet_regSet_same, BitVec.getLsbD_and, BitVec.getLsbD_not, getLsbD_bits (by decide) (by decide)]
      simp
  · obtain ⟨hc, ho⟩ := h.resolve_left hsame
    have hkey : p' * 8 + q' ≠ p * 8 + q := fun e => hsame ⟨by omega, by omega⟩
    refine ⟨?_, ?_⟩
    · rw [queueCut, hq_setHq_ne _ _ hkey, cutCmd_hq s hkey]
      exact hc
    · have hk : regKey p' 0 (hqOff q' 0x10) ≠ regKey p 0 (hqOff q 0x10) := by
        simp only [regKey, hqOff]
        omega
      rw [hqCtrl, regGet_regSet_other _ _ _ _ _ _ _ _ hk, regGet, hregs]
      exact ho

/-- The queues of a partition at PERST#. -/
theorem perstQueues_idle {p p' q' : Nat} (hp : p < 32) (hp' : p' < 32) (hq' : q' < 8) (l : List Nat) (hl : ∀ q ∈ l, q < 8) : ∀ s : State,
    (p' = p ∧ q' ∈ l ∨ queueIdle s p' q') → queueIdle (l.foldl (fun s q => perstQueue s p q) s) p' q' := by
  induction l with
  | nil => exact fun s h => h.resolve_left (fun h => List.not_mem_nil h.2)
  | cons q l ih =>
    intro s h
    have hq8 := hl q List.mem_cons_self
    refine ih (fun i hi => hl i (List.mem_cons_of_mem q hi)) _ ?_
    obtain ⟨rfl, hmem⟩ | h := h
    · obtain rfl | hmem := List.mem_cons.1 hmem
      · exact .inr (perstQueue_idle s hq8 hp hp' hq' (.inl ⟨rfl, rfl⟩))
      · exact .inl ⟨rfl, hmem⟩
    · exact .inr (perstQueue_idle s hq8 hp hp' hq' (.inr h))

theorem perstQueue_fixed {off : Nat} (ho : off < 2 ^ 26) (h : 0x100800 ≤ off) (s : State) {p q : Nat} (hq8 : q < 8) : RegFixed off s (perstQueue s p q) := by
  rw [perstQueue_eq]
  refine (RegFixed.of_regs (queueCut_regs s p q)).trans (.regSet _ p 0 _ ho ?_ ?_) <;>
  · simp only [hqOff]
    omega

theorem perstQueues_fixed {off : Nat} (ho : off < 2 ^ 26) (h : 0x100800 ≤ off) {p : Nat} (l : List Nat) (hl : ∀ q ∈ l, q < 8) : ∀ s : State,
    RegFixed off s (l.foldl (fun s q => perstQueue s p q) s) := by
  induction l with
  | nil => exact fun s => .refl off s
  | cons q l ih =>
    exact fun s => (perstQueue_fixed ho h s (hl q List.mem_cons_self)).trans (ih (fun i hi => hl i (List.mem_cons_of_mem q hi)) _)

/-- The queues of a partition at PERST#. -/
def queuesCut (s : State) (p : Nat) : State := (List.range 8).foldl (fun s q => perstQueue s p q) s

/-- The REINIT and the report ring of a partition at PERST#. -/
def ringCut (s : State) (p : Nat) : State :=
  let s := s.setPart p { s.part p with reinitBy := none }
  regSet s p 0 0xD00008 (regGet s p 0 0xD00008 &&& ~~~(bits 31 31))

/-- One partition at PERST#. -/
def perstPart (s : State) (p : Nat) : State := ringCut (queuesCut s p) p

theorem perst_eq {s : State} (h : s.hw.ready = true) : perst s = pfFlr (partNums.foldl perstPart s) := by
  unfold perst
  rw [if_neg (by rw [h]; exact Bool.noConfusion)]
  unfold perstPart ringCut queuesCut
  dsimp only

/-- A partition whose queues are idle and whose report ring is off. -/
structure HostIdle (s : State) (p : Nat) : Prop where
  queues : ∀ q, q < 8 → queueIdle s p q
  ring : (regGet s p 0 0xD00008).getLsbD 31 = false

theorem queuesCut_idle (s : State) {p p' q' : Nat} (hp : p < 32) (hp' : p' < 32) (hq' : q' < 8) (h : p' = p ∨ queueIdle s p' q') :
    queueIdle (queuesCut s p) p' q' :=
  perstQueues_idle hp hp' hq' (List.range 8) (fun _ hq => List.mem_range.1 hq) s (h.imp_left (fun e => ⟨e, List.mem_range.2 hq'⟩))

theorem queuesCut_fixed (s : State) (p : Nat) : RegFixed 0xD00008 s (queuesCut s p) :=
  perstQueues_fixed (by omega) (by omega) (List.range 8) (fun _ hq => List.mem_range.1 hq) s

theorem ringCut_idle {s : State} {p p' q : Nat} (h : queueIdle s p' q) : queueIdle (ringCut s p) p' q := by
  obtain ⟨hc, ho⟩ := h
  refine ⟨hc, ?_⟩
  have hk : regKey p' 0 (hqOff q 0x10) ≠ regKey p 0 0xD00008 := by
    simp only [regKey, hqOff]
    omega
  unfold ringCut
  rw [queueOff, hqCtrl, regGet_regSet_other _ _ _ _ _ _ _ _ hk]
  exact ho

theorem ringCut_ring {s : State} {p p' : Nat} (h : p' = p ∨ (regGet s p' 0 0xD00008).getLsbD 31 = false) :
    (regGet (ringCut s p) p' 0 0xD00008).getLsbD 31 = false := by
  unfold ringCut
  dsimp only
  by_cases hsame : p' = p
  · rw [hsame, regGet_regSet_same, BitVec.getLsbD_and, BitVec.getLsbD_not, getLsbD_bits (by decide) (by decide)]
    simp
  · have hk : regKey p' 0 0xD00008 ≠ regKey p 0 0xD00008 := by
      simp only [regKey]
      omega
    rw [regGet_regSet_other _ _ _ _ _ _ _ _ hk]
    exact h.resolve_left hsame

theorem perstPart_idle (s : State) {p p' : Nat} (hp : p < 32) (hp' : p' < 32) (h : p' = p ∨ HostIdle s p') : HostIdle (perstPart s p) p' := by
  refine ⟨fun q hq8 => ringCut_idle (queuesCut_idle s hp hp' hq8 (h.imp_right (fun h => h.queues q hq8))), ringCut_ring (h.imp_right fun h => ?_)⟩
  rw [(queuesCut_fixed s p).same]
  exact h.ring

theorem perstParts_idle {p' : Nat} (hp' : p' < 32) (l : List Nat) (hl : ∀ p ∈ l, p < 32) : ∀ s : State, p' ∈ l ∨ HostIdle s p' → HostIdle (l.foldl perstPart s) p' := by
  induction l with
  | nil => exact fun s h => h.resolve_left List.not_mem_nil
  | cons p l ih =>
    intro s h
    have hp := hl p List.mem_cons_self
    rw [List.foldl_cons]
    refine ih (fun i hi => hl i (List.mem_cons_of_mem p hi)) _ ?_
    obtain h | h := h
    · obtain rfl | hmem := List.mem_cons.1 h
      · exact .inr (perstPart_idle s hp hp' (.inl rfl))
      · exact .inl hmem
    · exact .inr (perstPart_idle s hp hp' (.inr h))

/-- What PERST# does to the partitions touches queues and partitions alone. -/
def PerstWork (s t : State) : Prop :=
  t = { s with hqs := t.hqs, regs := t.regs, out := t.out, watches := t.watches, tiers := t.tiers, draws := t.draws, parts := t.parts }

theorem PerstWork.trans {s t u : State} (h : PerstWork s t) (g : PerstWork t u) : PerstWork s u := by
  unfold PerstWork at *
  rw [g, h]

theorem queuesCut_work (s : State) (p : Nat) : QueueWork s (queuesCut s p) :=
  QueueWork.foldl (f := fun s q => perstQueue s p q) (fun s q => perstQueue_work s p q) (List.range 8) s

theorem perstPart_work (s : State) (p : Nat) : PerstWork s (perstPart s p) := by
  have h := queuesCut_work s p
  unfold perstPart
  generalize queuesCut s p = u at *
  unfold PerstWork
  rw [h]
  rfl

theorem perstParts_work (l : List Nat) : ∀ s : State, PerstWork s (l.foldl perstPart s) := by
  induction l with
  | nil => exact fun _ => rfl
  | cons p l ih =>
    intro s
    rw [List.foldl_cons]
    exact (perstPart_work s p).trans (ih _)

theorem perst_spec {s : State} (h : s.hw.ready = true) : Nexts .perst s (fun t => t.cores = s.cores ∧ t.streams = s.streams ∧ t.chains = s.chains ∧
    t.power.segs = s.power.segs ∧
    (∀ p q, 1 ≤ p → p ≤ 16 → q < 8 → (hq t p q).cmd = none ∧ (regGet t p 0 (0x100010 + 0x100 * q)).getLsbD 31 = false) ∧
    ∀ p, 1 ≤ p → p ≤ 16 → (regGet t p 0 0xD00008).getLsbD 31 = false) := by
  have hexec : exec .perst s = .next _ := congrArg Host.Outcome.next (perst_eq h)
  have hwork := perstParts_work partNums s
  have hidle (p : Nat) (h1 : 1 ≤ p) (h16 : p ≤ 16) : HostIdle (partNums.foldl perstPart s) p :=
    perstParts_idle (by omega) partNums (fun q hq => by have := (mem_partNums q).1 hq; omega) s (.inl ((mem_partNums p).2 ⟨h1, h16⟩))
  generalize partNums.foldl perstPart s = u at *
  obtain ⟨hform, hreg, -, -⟩ := pfRestaged_spec u
  rw [pfFlr_eq] at hexec
  generalize pfRestaged u = v at *
  have hv (p off : Nat) (h1 : 1 ≤ p) (ho : off < 2 ^ 26) (hr : off < 0x200008 ∨ 0x20005C < off) (hne : off ≠ 0x60010C) : regGet v p 0 off = regGet u p 0 off :=
    (hreg p 0 off ho hr hne).trans (if_neg (fun e => by omega))
  refine ⟨_, hexec, ?_, ?_, ?_, ?_, fun p q h1 h16 hq8 => ⟨?_, ?_⟩, fun p h1 h16 => ?_⟩
  · rw [hform, hwork]
  · rw [hform, hwork]
  · rw [hform, hwork]
  · rw [hform, hwork]
  · have hc := ((hidle p h1 h16).queues q hq8).1
    have hhqs : v.hqs = u.hqs := by rw [hform]
    rw [hq] at hc ⊢
    rw [← hhqs] at hc
    exact hc
  · have ho := ((hidle p h1 h16).queues q hq8).2
    rw [queueOff, hqCtrl, hqOff_ctrl] at ho
    exact (congrArg (fun w : Word => w.getLsbD 31) (hv p (0x100010 + 0x100 * q) h1 (by omega) (by omega) (by omega))).trans ho
  · exact (congrArg (fun w : Word => w.getLsbD 31) (hv p 0xD00008 h1 (by omega) (by omega) (by omega))).trans (hidle p h1 h16).ring

/-- Settles O38: `partComplete_spec`, `resetDone_spec`, `vfFlr_spec`, `pfFlr_spec` and `perst_spec`. -/
theorem partitionEnds : Obligations.PartitionEnds := by
  intro s hg
  refine ⟨fun c hc => partComplete_spec hg hc, fun hn => ?_, fun p => ?_, pfFlr_spec s, fun h => ?_, fun h => perst_spec h⟩
  · refine congrArg Host.Outcome.next ?_
    unfold partComplete
    rw [hn]
  · obtain ⟨h1, h2, h3⟩ := resetDone_spec hg p
    obtain ⟨h4, h5⟩ := vfFlr_spec s p
    exact ⟨h1, h2, h3, h4, h5⟩
  · exact congrArg Host.Outcome.next (if_pos h)

end Sys2Proof.Machine
end

section
/-! PROOFS. What the steps of a decision cycle leave as it was. -/

namespace Sys2Proof.Machine

open Sys2Proof.Claims

/-! ## What the steps of a decision cycle leave as it was -/

/-- The clock, the grid, the Tambour but for its log queue, and the power state but for its regions, notes and history. -/
def State.frame (s : State) : BitVec 64 × Nat × Tamb × Power :=
  (s.time, s.gridRows, { s.tamb with seq := 0, queue := [] }, { s.power with regions := [], notes := [], hist := [], void := false, drawAvg := 0 })

theorem State.time_of_frame {s t : State} (h : t.frame = s.frame) : t.time = s.time := congrArg (·.1) h

theorem State.gridRows_of_frame {s t : State} (h : t.frame = s.frame) : t.gridRows = s.gridRows := congrArg (·.2.1) h

theorem State.tamb_of_frame {s t : State} {α : Type} (f : Tamb → α) (hf : ∀ x : Tamb, f { x with seq := 0, queue := [] } = f x) (h : t.frame = s.frame) :
    f t.tamb = f s.tamb := (hf t.tamb).symm.trans ((congrArg (fun x => f x.2.2.1) h).trans (hf s.tamb))

theorem State.power_of_frame {s t : State} {α : Type} (f : Power → α)
    (hf : ∀ x : Power, f { x with regions := [], notes := [], hist := [], void := false, drawAvg := 0 } = f x) (h : t.frame = s.frame) :
    f t.power = f s.power := (hf t.power).symm.trans ((congrArg (fun x => f x.2.2.2) h).trans (hf s.power))

/-- The frame stands, faults reported stay reported, no defect is lost. -/
structure CycleBase (s t : State) : Prop where
  frame : t.frame = s.frame
  bits : ∀ i, (regGet s 0 0 0x90005C).getLsbD i = true → (regGet t 0 0 0x90005C).getLsbD i = true
  slew : RegFixed 0x90000C s t
  defects : s.defects.length ≤ t.defects.length

/-- Part of a cycle that makes no stop: `n` says that it leaves the notes of the cells, `h` that it leaves the counts of hot cycles. -/
structure CycleWork (n h : Prop) (s t : State) : Prop extends CycleBase s t where
  phase : t.hw.phase = s.hw.phase
  notes : n → t.power.notes = s.power.notes
  hot : h → ∀ r, (t.region r).hot = (s.region r).hot

theorem CycleBase.refl (s : State) : CycleBase s s := ⟨rfl, fun _ => id, .refl _ s, Nat.le_refl _⟩

theorem CycleBase.trans {s t u : State} (a : CycleBase s t) (b : CycleBase t u) : CycleBase s u :=
  ⟨b.frame.trans a.frame, fun i hi => b.bits i (a.bits i hi), a.slew.trans b.slew, a.defects.trans b.defects⟩

/-- Work that writes no power register. -/
theorem CycleBase.quiet {s t : State} (hf : t.frame = s.frame) (hr : ∀ off, CtrlOff off → RegFixed off s t) (hd : s.defects.length ≤ t.defects.length) :
    CycleBase s t :=
  ⟨hf, fun i hi => by rw [(hr 0x90005C (.inr (.inr rfl))).same]; exact hi, hr 0x90000C (.inr (.inl rfl)), hd⟩

section
variable {n h : Prop}

theorem CycleWork.refl (s : State) : CycleWork n h s s := ⟨.refl s, rfl, fun _ => rfl, fun _ _ => rfl⟩

theorem CycleWork.trans {s t u : State} (a : CycleWork n h s t) (b : CycleWork n h t u) : CycleWork n h s u := by
  refine ⟨a.toCycleBase.trans b.toCycleBase, b.phase.trans a.phase, fun hn => (b.notes hn).trans (a.notes hn), fun hh r => ?_⟩
  exact (b.hot hh r).trans (a.hot hh r)

theorem CycleWork.weaken {n' h' : Prop} {s t : State} (a : CycleWork n h s t) (hn : n' → n) (hh : h' → h) : CycleWork n' h' s t :=
  ⟨a.toCycleBase, a.phase, fun k => a.notes (hn k), fun k => a.hot (hh k)⟩

theorem CycleWork.foldl {α : Type} {f : State → α → State} (hf : ∀ s a, CycleWork n h s (f s a)) (l : List α) (s : State) : CycleWork n h s (l.foldl f s) := by
  induction l generalizing s with
  | nil => exact .refl s
  | cons a l ih => exact (hf s a).trans (ih _)

/-- Work that leaves the power state whole. -/
theorem CycleWork.of_base {s t : State} (hb : CycleBase s t) (hp : t.hw.phase = s.hw.phase) (hw : t.power = s.power) : CycleWork n h s t :=
  ⟨hb, hp, fun _ => by rw [hw], fun _ r => by rw [State.region, hw]; rfl⟩

theorem CycleWork.spill {s t : State} (a : SpillWork s t) : CycleWork n h s t := by
  have hform := a.form
  unfold SpillForm at hform
  refine .of_base (.quiet ?_ a.fixed (Nat.le_of_eq ?_)) ?_ ?_ <;> rw [hform]
  rfl

theorem CycleWork.logFrom (s : State) (source cls code p region : Nat) (v0 v1 : Word) : CycleWork n h s (logFrom s source cls code p region v0 v1) := by
  unfold Machine.logFrom
  dsimp only
  split
  · exact .spill ((SpillWork.cntAdd s 0 0 1 (off := 0xA00068) (by omega) (by unfold CtrlOff; omega) (by unfold CtrlOff; omega)).trans
      (.regOr _ 0 0 8 (off := 0xA00004) (by omega) (by unfold CtrlOff; omega)))
  · exact .of_base (.quiet rfl (fun _ _ => .of_regs rfl) (Nat.le_refl _)) rfl rfl

theorem CycleWork.logRecord (s : State) (cls code p region : Nat) (v0 v1 : Word) : CycleWork n h s (logRecord s cls code p region v0 v1) := .logFrom ..

theorem CycleWork.tambE (s : State) (cls code : Nat) (sc : Scope) (sev region : Nat) (loc v0 v1 : Word) : CycleWork n h s (tambE s cls code sc sev region loc v0 v1) :=
  (CycleWork.spill (.reportAll ..)).trans (.logRecord ..)

theorem CycleWork.tambF (s : State) (cls code : Nat) (sc : Scope) (sev region : Nat) (loc v0 v1 : Word) : CycleWork n h s (tambF s cls code sc sev region loc v0 v1) :=
  (CycleWork.spill (.reportAll ..)).trans (.logRecord ..)

theorem CycleWork.tambP (s : State) (cls code : Nat) (sc : Scope) (sev p region : Nat) (loc v0 v1 : Word) : CycleWork n h s (tambP s cls code sc sev p region loc v0 v1) :=
  (CycleWork.spill (.reportP ..)).trans (.logRecord ..)

theorem CycleWork.pwrFault (s : State) (b : Word) : CycleWork n h s (pwrFault s b) := by
  refine .of_base ⟨rfl, fun i hi => ?_, .regSet s 0 0 _ (by omega) (by omega) (by omega), Nat.le_refl _⟩ rfl rfl
  rw [Machine.pwrFault, regOr, regGet_regSet_same, BitVec.getLsbD_or, hi, Bool.true_or]

theorem CycleWork.envStatus (s : State) (b : Word) : CycleWork n h s (envStatus s b) :=
  .spill (.regOr s 0 0 b (off := 0x900010) (by omega) (by unfold CtrlOff; omega))

theorem CycleWork.recordDefect (s : State) (kind : BitVec 4) (source : BitVec 3) (unit : BitVec 8) (loc : Word) : CycleWork n h s (recordDefect s kind source unit loc) := by
  have hrec := recordDefect_recorded s kind source unit loc
  have hform := hrec.form
  obtain ⟨ds, hds, -⟩ := hrec.added
  refine .of_base (.quiet ?_ (fun off ho => hrec.fixed off ?_ ?_) ?_) ?_ ?_
  · rw [hform]
    rfl
  · unfold CtrlOff at ho
    omega
  · unfold CtrlOff at ho
    omega
  · rw [hds, List.length_append]
    omega
  · rw [hform]
  · rw [hform]

theorem CycleWork.voidWindow (s : State) : CycleWork n h s (voidWindow s) :=
  ⟨.quiet rfl (fun _ _ => .of_regs rfl) (Nat.le_refl _), rfl, fun _ => rfl, fun _ _ => rfl⟩

/-- One region changed. -/
theorem CycleWork.setRegion (s : State) (r : Nat) {y : PRegion} (hy : h → y.hot = (s.region r).hot) : CycleWork n h s (s.setRegion r y) := by
  refine ⟨.quiet rfl (fun _ _ => .of_regs rfl) (Nat.le_refl _), rfl, fun _ => rfl, fun hh q => ?_⟩
  rw [region_setRegion]
  split
  · next hq => rw [hy hh, hq]
  · rfl

theorem CycleWork.alert (s : State) (i : Nat) : CycleWork n h s (alert s i) :=
  .of_base (.quiet rfl (fun _ _ => .of_regs rfl) (Nat.le_refl _)) rfl rfl

theorem CycleWork.setTest (s : State) (u : Nat) (x : TestU) : CycleWork n h s (s.setTest u x) :=
  .of_base (.quiet rfl (fun _ _ => .of_regs rfl) (Nat.le_refl _)) rfl rfl

end

/-- A note left is work that leaves the notes open. -/
theorem CycleWork.noteCell {h : Prop} (s : State) (x : CellNote) : CycleWork False h s (noteCell s x) :=
  ⟨.quiet rfl (fun _ _ => .of_regs rfl) (Nat.le_refl _), rfl, False.elim, fun _ _ => rfl⟩

/-! ## Step 2: what the cells have done -/

section
variable {n h : Prop}

theorem CycleWork.recordDead (s : State) (r : Nat) (dom : BitVec 4) : CycleWork n h s (recordDead s r dom) := .recordDefect ..

theorem CycleWork.actOn (s : State) (x : CellNote) : CycleWork n h s (actOn s x) := by
  have hvoid (s : State) (b : Word) : CycleWork n h s (Machine.voidWindow (Machine.pwrFault s b)) := (CycleWork.pwrFault s b).trans (.voidWindow _)
  cases x with
  | lost r dom => exact ((hvoid s 1).trans (.recordDead ..)).trans (.tambE ..)
  | trip r dom => exact ((hvoid s 4).trans (.recordDead ..)).trans (.tambE ..)
  | ramp r dom k dead =>
    refine CycleWork.trans ?_ (.tambE ..)
    split
    · exact (hvoid s 4).trans (.recordDead ..)
    · exact hvoid s 4
  | sensor r unit mv =>
    have hcnt : CycleWork n h s (Machine.cntAdd s 0 0 0x900070 1) :=
      .spill (.cntAdd s 0 0 1 (off := 0x900070) (by omega) (by unfold CtrlOff; omega) (by unfold CtrlOff; omega))
    exact ((hcnt.trans (.pwrFault ..)).trans (.recordDefect ..)).trans (.tambF ..)
  | zone z left => exact (CycleWork.pwrFault s 0x20).trans (.tambF ..)

end

/-- The bit of PWR_FAULT that tells of what cells have done. -/
def noteBit : CellNote → Nat
  | .lost _ _ => 0
  | .trip _ _ => 2
  | .ramp _ _ _ _ => 2
  | .sensor _ _ _ => 4
  | .zone _ _ => 5

theorem pwrFault_bit {s : State} {b : Word} {i : Nat} (hb : b.getLsbD i = true) : (regGet (pwrFault s b) 0 0 0x90005C).getLsbD i = true := by
  rw [pwrFault, regOr, regGet_regSet_same, BitVec.getLsbD_or, hb, Bool.or_true]

/-- What is acted on is reported as a fault. -/
theorem actOn_bit (s : State) (x : CellNote) : (regGet (actOn s x) 0 0 0x90005C).getLsbD (noteBit x) = true := by
  have hvoid (s : State) : CycleWork True True s (voidWindow s) := .voidWindow s
  cases x with
  | lost r dom =>
    exact (((hvoid _).trans (.recordDead _ r dom)).trans (.tambE ..)).bits _ (pwrFault_bit (show (1 : Word).getLsbD 0 = true by decide))
  | trip r dom =>
    exact (((hvoid _).trans (.recordDead _ r dom)).trans (.tambE ..)).bits _ (pwrFault_bit (show (4 : Word).getLsbD 2 = true by decide))
  | ramp r dom k dead =>
    have hdead : CycleWork True True (voidWindow (pwrFault s 4)) (if dead then recordDead (voidWindow (pwrFault s 4)) r dom else voidWindow (pwrFault s 4)) := by
      split
      · exact .recordDead ..
      · exact .refl _
    exact (((hvoid _).trans hdead).trans (.tambE ..)).bits _ (pwrFault_bit (show (4 : Word).getLsbD 2 = true by decide))
  | sensor r unit mv =>
    have hrec (s : State) (loc : Word) : CycleWork True True s (recordDefect s 9 4 unit loc) := .recordDefect ..
    exact ((hrec _ _).trans (.tambF ..)).bits _ (pwrFault_bit (show (16 : Word).getLsbD 4 = true by decide))
  | zone z left =>
    have htold (s : State) (v0 v1 : Word) : CycleWork True True s (tambF s 1 0x14 .engine 1 0xFFFF 0 v0 v1) := .tambF ..
    exact (htold _ _ _).bits _ (pwrFault_bit (show (32 : Word).getLsbD 5 = true by decide))

/-- Notes acted on: none is left, and each is reported. -/
theorem actOnNotes_spec (s : State) : CycleWork False True s (actOnNotes s) ∧ (actOnNotes s).power.notes = [] ∧
    ∀ x ∈ s.power.notes, (regGet (actOnNotes s) 0 0 0x90005C).getLsbD (noteBit x) = true := by
  have hcut : CycleWork False True s { s with power := { s.power with notes := [] } } :=
    ⟨.quiet rfl (fun _ _ => .of_regs rfl) (Nat.le_refl _), rfl, False.elim, fun _ _ => rfl⟩
  have hfold (l : List CellNote) (u : State) : CycleWork True True u (l.foldl actOn u) := CycleWork.foldl (fun u x => .actOn u x) l u
  have hbits : ∀ (l : List CellNote) (u : State), ∀ x ∈ l, (regGet (l.foldl actOn u) 0 0 0x90005C).getLsbD (noteBit x) = true := by
    intro l
    induction l with
    | nil => exact fun _ x hx => absurd hx List.not_mem_nil
    | cons y l ih =>
      intro u x hx
      rw [List.foldl_cons]
      obtain rfl | hx := List.mem_cons.1 hx
      · exact (hfold l _).bits _ (actOn_bit u x)
      · exact ih _ x hx
  exact ⟨hcut.trans ((hfold ..).weaken (fun _ => trivial) (fun _ => trivial)), (hfold ..).notes trivial, hbits _ _⟩

end Sys2Proof.Machine
end

section
/-! PROOFS. The step of a cycle that acts on what the cells have done. -/

namespace Sys2Proof.Machine

open Sys2Proof.Claims

/-! ## Step 2: what the cycle finds -/

section
variable {n h : Prop}

theorem CycleWork.killRegion (s : State) (r : Nat) (dom : BitVec 4) : CycleWork n h s (killRegion s r dom) := by
  have hpast : CycleWork n h s (if (s.region r).resting then epochPast s r else s) := by
    split
    · exact .setRegion s r (fun _ => rfl)
    · exact .refl s
  have hmark : CycleWork n h s (regionMarked s r dom) := hpast.trans (.setRegion _ r (fun _ => rfl))
  rw [killRegion_eq]
  exact hmark.trans (.spill (regionSpilt_work ..))

theorem lowered_hot (x : PRegion) (a : Rail) : (x.lowered a).hot = x.hot := by
  unfold PRegion.lowered
  dsimp only
  split
  · rfl
  split
  · split <;> rfl
  · rfl

theorem CycleWork.suspectOne (s : State) (r : Nat) (now : List Nat) : CycleWork n h s (suspectOne s r now) := by
  unfold Machine.suspectOne
  extract_lets x low s1
  have h1 : CycleWork n h s s1 := .setRegion s r (fun _ => rfl)
  split
  · exact h1
  split
  · exact h1
  · refine h1.trans ?_
    have hr : s1.region r = { s.region r with low := low } := (region_setRegion s r r _).trans (if_pos rfl)
    have h2 : CycleWork n h s1 (s1.setRegion r { x with low := low, suspect := true }) := .setRegion s1 r (fun _ => by rw [hr])
    exact (((h2.trans (.pwrFault ..)).trans (.voidWindow _)).trans (.recordDefect ..)).trans (.tambE ..)

theorem CycleWork.suspects (s : State) (now : List LowSensor) : CycleWork n h s (suspects s now) := .foldl (fun u _ => .suspectOne u _ _) _ s

theorem CycleWork.bankRetired (s : State) (c : CoreId) (stack : Bool) (bank : Nat) : CycleWork n h s (bankRetired s c stack bank) := by
  have hdraw (s : State) : CycleWork n h s { s with draws := s.draws + 1 } := .of_base (.quiet rfl (fun _ _ => .of_regs rfl) (Nat.le_refl _)) rfl rfl
  unfold Machine.bankRetired
  dsimp only [drawNat, drawWord]
  exact ((((hdraw s).trans (.recordDefect ..)).trans (.spill (.fenceCores ..))).trans (hdraw _)).trans (.spill (.reportP ..))

end

section
variable {h : Prop}

theorem CycleWork.regionLost (s : State) (r : Nat) (dom : BitVec 4) : CycleWork False h s (regionLost s r dom) := by
  unfold Machine.regionLost
  split
  · exact (CycleWork.killRegion s r dom).trans (.noteCell ..)
  · exact .refl s

theorem CycleWork.shortTrip (s : State) (r : Nat) (dom : BitVec 4) : CycleWork False h s (shortTrip s r dom) := by
  unfold Machine.shortTrip
  split
  · exact (CycleWork.killRegion s r dom).trans (.noteCell ..)
  · exact .refl s

theorem CycleWork.shedZone (s : State) (z : Nat) : CycleWork False h s (shedZone s z) := by
  unfold Machine.shedZone
  split
  · exact .refl s
  · refine .foldl (fun u r => ?_) _ s
    split
    · exact .regionLost ..
    · exact .refl u

theorem power_tambF (s : State) (cls code : Nat) (sc : Scope) (sev region : Nat) (loc v0 v1 : Word) :
    (Machine.tambF s cls code sc sev region loc v0 v1).power = s.power := by
  have hlog : Machine.tambF s cls code sc sev region loc v0 v1 = _ := tambF_logWork ..
  rw [hlog]

theorem CycleWork.overOne (s : State) (r : Nat) (rail : Rail) : CycleWork False h s (overOne s r rail) := by
  unfold Machine.overOne
  extract_lets x k v s1
  split
  · exact .refl s
  have h1 : CycleWork False h s s1 := by
    unfold s1
    split
    · exact (CycleWork.pwrFault s 2).trans (.tambF ..)
    · exact .refl s
  have hr : s1.region r = x := by
    unfold s1
    split
    · rw [State.region, power_tambF]
      rfl
    · rfl
  split
  · split
    · exact h1.trans (.shortTrip ..)
    · exact h1.trans (.setRegion s1 r (fun _ => by rw [hr]))
  · exact h1.trans (.setRegion s1 r (fun _ => by rw [hr]; exact lowered_hot x rail))

end

/-- Rails no longer in overcurrent forgotten. -/
def overForgotten (s : State) (f : Nat → Tab Nat → Tab Nat) : State :=
  { s with power := { s.power with regions := s.power.regions.map (fun e => (e.1, { e.2 with ocur := f e.1 e.2.ocur })) } }

theorem overForgotten_work {n h : Prop} (s : State) (f : Nat → Tab Nat → Tab Nat) : CycleWork n h s (overForgotten s f) := by
  refine ⟨.quiet rfl (fun _ _ => .of_regs rfl) (Nat.le_refl _), rfl, fun _ => rfl, fun _ r => ?_⟩
  have hfind : Tab.find (overForgotten s f).power.regions r = _ :=
    Tab.find_mapped (fun (k : Nat) (x : PRegion) => ({ x with ocur := f k x.ocur } : PRegion)) s.power.regions r
  rw [State.region, State.region, Tab.get, Tab.get, hfind]
  cases Tab.find s.power.regions r <;> rfl

theorem overcurrents_eq (s : State) (now : List (Sys2Proof.Region × Rail)) : overcurrents s now =
    overForgotten ((overRails s now).foldl (fun s (e : Nat × Rail) => overOne s e.1 e.2) s) (fun r t => t.filter (fun o => now.any (fun (e : Sys2Proof.Region × Rail) => e.1.val == r && railNo e.2 == o.1))) := by
  unfold overcurrents overForgotten
  rfl

theorem CycleWork.overcurrents {h : Prop} (s : State) (now : List (Sys2Proof.Region × Rail)) : CycleWork False h s (overcurrents s now) := by
  have hfold : CycleWork False h s ((overRails s now).foldl (fun s (e : Nat × Rail) => Machine.overOne s e.1 e.2) s) := CycleWork.foldl (fun u (e : Nat × Rail) => .overOne u e.1 e.2) _ s
  rw [overcurrents_eq]
  generalize (overRails s now).foldl (fun s (e : Nat × Rail) => Machine.overOne s e.1 e.2) s = u at hfold ⊢
  exact hfold.trans (overForgotten_work u _)

theorem shedZones_work {h : Prop} (l : List Nat) (s : State) : CycleWork False h s (l.foldl shedZone s) :=
  CycleWork.foldl (f := shedZone) (fun u z => .shedZone u z) l s

theorem regionsLost_work {h : Prop} (l : List (Sys2Proof.Region × BitVec 4)) (s : State) : CycleWork False h s (l.foldl (fun s e => regionLost s e.1.val e.2) s) :=
  CycleWork.foldl (fun u e => .regionLost u e.1.val e.2) l s

theorem stacksLost_work {n h : Prop} (l : List (Fin 24)) (s : State) : CycleWork n h s (l.foldl (fun s k => stackLose s k.val) s) :=
  CycleWork.foldl (fun u k => .spill (.stackLose u k.val)) l s

theorem ctlsLost_work {n h : Prop} (l : List (Fin 16)) (s : State) : CycleWork n h s (l.foldl (fun s k => ctlLose s k.val) s) :=
  CycleWork.foldl (fun u k => .spill (.ctlLose u k.val)) l s

theorem banksRetired_work {n h : Prop} (l : List (CoreId × Bool × Fin 8)) (s : State) :
    CycleWork n h s (l.foldl (fun s b => bankRetired s b.1 b.2.1 b.2.2.val) s) :=
  CycleWork.foldl (f := fun s (b : CoreId × Bool × Fin 8) => Machine.bankRetired s b.1 b.2.1 b.2.2.val)
    (fun u b => CycleWork.bankRetired u b.1 b.2.1 b.2.2.val) l s

/-- What step 2 finds once all notes are acted on. -/
def faultsFound (s : State) (i : CycleIn) : State :=
  let s := suspects s i.low
  let s := i.stackLost.foldl (fun s n => stackLose s n.val) s
  let s := i.ctlLost.foldl (fun s n => ctlLose s n.val) s
  i.bank.foldl (fun s b => bankRetired s b.1 b.2.1 b.2.2.val) s

theorem faultsFound_work {n h : Prop} (s : State) (i : CycleIn) : CycleWork n h s (faultsFound s i) :=
  (((CycleWork.suspects s i.low).trans (stacksLost_work ..)).trans (ctlsLost_work ..)).trans (banksRetired_work ..)

/-- The regions step 2 loses. -/
def regionsFound (s : State) (i : CycleIn) : State :=
  let s := (List.range 13).foldl shedZone s
  let s := i.lost.foldl (fun s e => regionLost s e.1.val e.2) s
  overcurrents s i.overcurrent

theorem regionsFound_work {h : Prop} (s : State) (i : CycleIn) : CycleWork False h s (regionsFound s i) :=
  ((shedZones_work _ s).trans (regionsLost_work ..)).trans (.overcurrents ..)

theorem stepFaults_eq (s : State) (i : CycleIn) : stepFaults s i = faultsFound (actOnNotes (regionsFound (actOnNotes s) i)) i := rfl

/-- Step 2: none of the notes is left, and each is reported. -/
theorem stepFaults_spec (s : State) (i : CycleIn) : CycleWork False True s (stepFaults s i) ∧ (stepFaults s i).power.notes = [] ∧
    ∀ x ∈ s.power.notes, (regGet (stepFaults s i) 0 0 0x90005C).getLsbD (noteBit x) = true := by
  obtain ⟨h0, -, hbits⟩ := actOnNotes_spec s
  obtain ⟨h2, hnone, -⟩ := actOnNotes_spec (regionsFound (actOnNotes s) i)
  have h1 : CycleWork False True (actOnNotes s) _ := regionsFound_work (actOnNotes s) i
  have h3 : CycleWork True True _ (faultsFound (actOnNotes (regionsFound (actOnNotes s) i)) i) := faultsFound_work ..
  have hmid := (h1.trans h2).trans (h3.weaken False.elim id)
  rw [stepFaults_eq]
  exact ⟨h0.trans hmid, (h3.notes trivial).trans hnone, fun x hx => hmid.bits _ (hbits x hx)⟩

end Sys2Proof.Machine
end

section
/-! PROOFS. The thermal step and the trip. -/

namespace Sys2Proof.Machine

open Sys2Proof.Claims

/-! ## Step 3: thermal limits (R392) -/

theorem tempAtLeast_of_sensors {s t : State} (h : t.tamb.sensors = s.tamb.sensors) (r k : Nat) : tempAtLeast t r k = tempAtLeast s r k := by
  rw [tempAtLeast, tempAtLeast, h]

theorem CycleBase.sensors {s t : State} (h : CycleBase s t) : t.tamb.sensors = s.tamb.sensors := State.tamb_of_frame (·.sensors) (fun _ => rfl) h.frame

theorem mem_setRegion {s : State} {r : Nat} {y : PRegion} {e : Nat × PRegion} (h : e ∈ (s.setRegion r y).power.regions) :
    e = (r, y) ∨ (e ∈ s.power.regions ∧ e.1 ≠ r) :=
  (Tab.mem_insert h).imp_right (fun h => ⟨Tab.mem_drop h, Tab.not_mem_drop h⟩)

/-- Work on region r alone, which leaves its count of hot cycles. -/
structure CoolWork (r : Nat) (s t : State) : Prop extends CycleWork True True s t where
  entries : ∀ e ∈ t.power.regions, e ∈ s.power.regions ∨ (e.1 = r ∧ e.2.hot = (s.region r).hot)

section
variable {r : Nat}

theorem CoolWork.refl (s : State) : CoolWork r s s := ⟨.refl s, fun _ => .inl⟩

theorem CoolWork.trans {s t u : State} (a : CoolWork r s t) (b : CoolWork r t u) : CoolWork r s u := by
  refine ⟨a.toCycleWork.trans b.toCycleWork, fun e he => ?_⟩
  obtain h | ⟨h1, h2⟩ := b.entries e he
  · exact a.entries e h
  · exact .inr ⟨h1, h2.trans (a.hot trivial r)⟩

theorem CoolWork.of_power {s t : State} (h : CycleWork True True s t) (hp : t.power = s.power) : CoolWork r s t :=
  ⟨h, fun e he => .inl (by rw [← hp]; exact he)⟩

theorem CoolWork.setRegion (s : State) {y : PRegion} (hy : y.hot = (s.region r).hot) : CoolWork r s (s.setRegion r y) := by
  refine ⟨.setRegion s r (fun _ => hy), fun e he => ?_⟩
  obtain rfl | ⟨h, -⟩ := mem_setRegion he
  · exact .inr ⟨rfl, hy⟩
  · exact .inl h

end

theorem power_tambP (s : State) (cls code : Nat) (sc : Scope) (sev p region : Nat) (loc v0 v1 : Word) : (tambP s cls code sc sev p region loc v0 v1).power = s.power := by
  have hlog : tambP s cls code sc sev p region loc v0 v1 = _ := (OnlyReports.reportP ..).logWork.trans (logRecord_logWork ..)
  rw [hlog]

theorem floorBound_work {n h : Prop} (s : State) (p : Nat) : CycleWork n h s (floorBound s p) := (CycleWork.envStatus s _).trans (.tambP ..)

theorem floorBound_power (s : State) (p : Nat) : (floorBound s p).power = s.power := power_tambP ..

theorem belowFloor_work {n h : Prop} (s : State) (r : Nat) : CycleWork n h s (belowFloor s r) := by
  unfold belowFloor
  split
  · exact floorBound_work ..
  · exact .refl s

theorem belowFloor_power (s : State) (r : Nat) : (belowFloor s r).power = s.power := by
  unfold belowFloor
  split
  · exact floorBound_power ..
  · rfl

theorem CoolWork.waferRequest (s : State) (r : Nat) (q : LinkReq) : CoolWork r s (waferRequest s r q) := by
  unfold Machine.waferRequest
  dsimp only
  split
  · exact .refl s
  · exact .setRegion s rfl

theorem CoolWork.coolHalf (s0 s : State) (r fall : Nat) : CoolWork r s (coolHalf s0 s r fall) := by
  unfold Machine.coolHalf
  extract_lets x down
  have hdown (x : PRegion) (a : Rail) : (down x a).hot = x.hot := by
    unfold down
    split <;> rfl
  have h1 : CoolWork r s (s.setRegion r (down (down x .logic) .stack)) := .setRegion s ((hdown ..).trans (hdown ..))
  exact (h1.trans (.of_power (.envStatus ..) rfl)).trans (.of_power (belowFloor_work ..) (belowFloor_power ..))

theorem CoolWork.coolRegion (s0 s : State) (r : Nat) : CoolWork r s (coolRegion s0 s r) := by
  unfold Machine.coolRegion
  dsimp only
  split
  · split
    · exact .waferRequest ..
    · exact .refl s
  split
  · exact .coolHalf ..
  · exact .refl s

theorem thermalReport_work {n h : Prop} (s : State) (r : Nat) : CycleWork n h s (thermalReport s r) :=
  ((CycleWork.spill (.regOr s 0 0 1 (off := 0xA00004) (by omega) (by unfold CtrlOff; omega))).trans (.alert ..)).trans (.tambF ..)

theorem thermalReport_power (s : State) (r : Nat) : (thermalReport s r).power = s.power := power_tambF ..

/-- The count of hot cycles a region has after one more. -/
def hotNext (s : State) (r : Nat) : Nat := if tempAtLeast s r 1050 then (s.region r).hot + 1 else 0

theorem thermalOne_spec (s0 s : State) (r : Nat) : let t := thermalOne s0 s r
    CycleWork True False s t ∧ (∀ q, (t.region q).hot = if q = r then hotNext s r else (s.region q).hot) ∧
      ∀ e ∈ t.power.regions, (e ∈ s.power.regions ∧ e.1 ≠ r) ∨ (e.1 = r ∧ e.2.hot = hotNext s r) := by
  unfold thermalOne
  extract_lets x above s1 s2 t
  have h1 : CycleWork True True s s1 ∧ s1.power = s.power := by
    unfold s1
    split
    · exact ⟨thermalReport_work .., thermalReport_power ..⟩
    · exact ⟨.refl s, rfl⟩
  have hnext : (if tempAtLeast s1 r 1050 then x.hot + 1 else 0) = hotNext s r := by
    rw [tempAtLeast_of_sensors h1.1.sensors]
    rfl
  have h2 : CycleWork True False s1 s2 := .setRegion s1 r False.elim
  have h2r (q : Nat) : (s2.region q).hot = if q = r then hotNext s r else (s.region q).hot := by
    rw [← hnext, show s2.region q = _ from region_setRegion ..]
    split
    · rfl
    · rw [State.region, h1.2]
      rfl
  have h2e (e : Nat × PRegion) (he : e ∈ s2.power.regions) : (e ∈ s.power.regions ∧ e.1 ≠ r) ∨ (e.1 = r ∧ e.2.hot = hotNext s r) := by
    obtain rfl | ⟨hm, hr⟩ := mem_setRegion he
    · exact .inr ⟨rfl, hnext⟩
    · exact .inl ⟨h1.2 ▸ hm, hr⟩
  have h12 := (h1.1.weaken (n' := True) (h' := False) id False.elim).trans h2
  unfold t
  split
  · have hc := CoolWork.coolRegion s0 s2 r
    refine ⟨h12.trans (hc.toCycleWork.weaken id False.elim), fun q => (hc.hot trivial q).trans (h2r q), fun e he => ?_⟩
    obtain h | ⟨hr, hh⟩ := hc.entries e he
    · exact h2e e h
    · exact .inr ⟨hr, hh.trans ((h2r r).trans (if_pos rfl))⟩
  · exact ⟨h12, h2r, h2e⟩

theorem thermals_work (s0 : State) (l : List Nat) (s : State) : CycleWork True False s (l.foldl (thermalOne s0) s) :=
  CycleWork.foldl (fun u r => (thermalOne_spec s0 u r).1) l s

/-- With no region at 105 °C, no region that the step has met is hot. -/
theorem thermals_cool (s0 : State) (l : List Nat) : ∀ s : State, (∀ r, tempAtLeast s r 1050 = false) →
    ∀ e ∈ (l.foldl (thermalOne s0) s).power.regions, e.2.hot ≠ 0 → e ∈ s.power.regions ∧ e.1 ∉ l := by
  induction l with
  | nil => exact fun s _ e he _ => ⟨he, List.not_mem_nil⟩
  | cons r l ih =>
    intro s hcool e he hne
    obtain ⟨hw, -, hent⟩ := thermalOne_spec s0 s r
    obtain ⟨hm, hl⟩ := ih _ (fun q => (tempAtLeast_of_sensors hw.sensors q 1050).trans (hcool q)) e he hne
    obtain ⟨hs, hr⟩ | ⟨-, hh⟩ := hent e hm
    · exact ⟨hs, fun h => (List.mem_cons.1 h).elim hr hl⟩
    · rw [hotNext, hcool] at hh
      exact absurd hh hne

/-- A region at 105 °C is hot for one cycle more. -/
theorem thermals_hot (s0 : State) {r : Nat} (l : List Nat) : ∀ s : State, tempAtLeast s r 1050 = true →
    (s.region r).hot ≤ ((l.foldl (thermalOne s0) s).region r).hot ∧ (r ∈ l → (s.region r).hot < ((l.foldl (thermalOne s0) s).region r).hot) := by
  induction l with
  | nil => exact fun s _ => ⟨Nat.le_refl _, fun h => absurd h List.not_mem_nil⟩
  | cons q l ih =>
    intro s hhot
    obtain ⟨hw, hr, -⟩ := thermalOne_spec s0 s q
    obtain ⟨hle, hlt⟩ := ih _ ((tempAtLeast_of_sensors hw.sensors r 1050).trans hhot)
    have hone := hr r
    rw [List.foldl_cons]
    by_cases hq : r = q
    · rw [if_pos hq, ← hq, hotNext, hhot, if_pos rfl] at hone
      rw [← hq] at hle ⊢
      refine ⟨by omega, fun _ => by omega⟩
    · rw [if_neg hq] at hone
      exact ⟨by omega, fun h => by have := hlt ((List.mem_cons.1 h).resolve_left hq); omega⟩

/-! ## The safe stop of a cycle -/

theorem fenceAll_fixed (s : State) (off : Nat) (h : CtrlOff off) : RegFixed off s (fenceAll s) :=
  RegFixed.foldl (f := fun s p => fenceCores s p EXT_FENCE (((List.range (s.gridRows * 1022)).filter (fun k => partOfKey s k == p)).map keyCore))
    (fun s p => h.fenceCores s p EXT_FENCE _) (0 :: partNums) s

theorem stopBegun_base (s : State) : CycleBase s (stopBegun s) ∧ (stopBegun s).power = s.power := by
  have h := stopBegun_eq s
  generalize stopBegun s = t at h
  subst h
  exact ⟨.quiet rfl (fun _ _ => .of_regs rfl) (Nat.le_refl _), rfl⟩

theorem fenceAll_base (s : State) : CycleBase s (fenceAll s) ∧ (fenceAll s).power = s.power := by
  have hform : fenceAll s = _ := fenceAll_fenceWork s
  have hfix := fenceAll_fixed s
  generalize fenceAll s = t at *
  refine ⟨.quiet ?_ hfix (Nat.le_of_eq ?_), ?_⟩ <;> rw [hform]
  rfl

theorem stopEnded_base (s : State) : CycleBase s (stopEnded s) ∧ (stopEnded s).power.notes = s.power.notes :=
  ⟨.quiet rfl (fun _ _ => .of_regs rfl) (Nat.le_refl _), rfl⟩

theorem safeStop_base (s : State) (source : Nat) : CycleBase s (safeStop s source) ∧ (safeStop s source).power.notes = s.power.notes := by
  by_cases h : s.hw.phase = .dark ∨ s.hw.phase = .stopped
  · rw [safeStop_still source h]
    exact ⟨.refl s, rfl⟩
  · obtain ⟨h1, hp1⟩ := stopBegun_base s
    obtain ⟨h2, hp2⟩ := fenceAll_base (stopBegun s)
    have h3 : CycleWork True True (fenceAll (stopBegun s)) (stopLogged s source) := .logFrom ..
    obtain ⟨h4, hn⟩ := stopEnded_base (stopLogged s source)
    rw [safeStop_of_running source h]
    refine ⟨((h1.trans h2).trans h3.toCycleBase).trans h4, ?_⟩
    rw [hn, h3.notes trivial, hp2, hp1]

theorem thermalTrip_base (s : State) (r : Nat) (tenths : Word) : CycleBase s (thermalTrip s r tenths) ∧ (thermalTrip s r tenths).power.notes = s.power.notes := by
  have h1 : CycleWork True True s (tambE s 2 0x1A .engine 3 r 0 (locRegion r) tenths) := .tambE ..
  unfold thermalTrip
  dsimp only
  generalize tambE s 2 0x1A .engine 3 r 0 (locRegion r) tenths = u at *
  obtain ⟨h2, hn⟩ := safeStop_base u (tambSource u)
  exact ⟨h1.toCycleBase.trans h2, hn.trans (h1.notes trivial)⟩

theorem thermalTrip_stops {s : State} (r : Nat) (tenths : Word) (h : s.hw.phase = .up) : SafelyStopped s.gridRows (thermalTrip s r tenths) := by
  have h1 : CycleWork True True s (tambE s 2 0x1A .engine 3 r 0 (locRegion r) tenths) := .tambE ..
  unfold thermalTrip
  dsimp only
  generalize tambE s 2 0x1A .engine 3 r 0 (locRegion r) tenths = u at *
  rw [← State.gridRows_of_frame h1.frame]
  refine safeStop_safelyStopped (tambSource u) ?_
  rw [h1.phase, h]
  rintro (h | h) <;> cases h

/-- Step 3: the limits alone, or a trip. -/
theorem stepThermal_cases (s0 s : State) : let u := (s.power.regions.map (·.1)).foldl (thermalOne s0) s
    (u.power.regions.find? (fun e => decide (5 ≤ e.2.hot)) = none ∧ stepThermal s0 s = u) ∨ ∃ r w, stepThermal s0 s = thermalTrip u r w := by
  intro u
  unfold stepThermal
  dsimp only
  split
  · exact .inr ⟨_, _, rfl⟩
  · next h => exact .inl ⟨h, rfl⟩

/-- Whatever step 3 does, the frame, the notes and the faults reported stand; it makes a stop or leaves the module up. -/
theorem stepThermal_base (s0 s : State) (h : s.hw.phase = .up) : CycleBase s (stepThermal s0 s) ∧ (stepThermal s0 s).power.notes = s.power.notes ∧
    (CycleWork True False s (stepThermal s0 s) ∨ (stepThermal s0 s).hw.phase = .stopped) := by
  have hw := thermals_work s0 (s.power.regions.map (·.1)) s
  obtain ⟨-, he⟩ | ⟨r, w, he⟩ := stepThermal_cases s0 s
  · rw [he]
    exact ⟨hw.toCycleBase, hw.notes trivial, .inl hw⟩
  · obtain ⟨hb, hn⟩ := thermalTrip_base ((s.power.regions.map (·.1)).foldl (thermalOne s0) s) r w
    rw [he]
    exact ⟨hw.toCycleBase.trans hb, hn.trans (hw.notes trivial), .inr (thermalTrip_stops r w (hw.phase.trans h)).phase⟩

theorem stepThermal_cool (s0 : State) {s : State} (hcool : ∀ r, tempAtLeast s r 1050 = false) : CycleWork True False s (stepThermal s0 s) := by
  have hw := thermals_work s0 (s.power.regions.map (·.1)) s
  have hnone := thermals_cool s0 (s.power.regions.map (·.1)) s hcool
  have hfind : ((s.power.regions.map (·.1)).foldl (thermalOne s0) s).power.regions.find? (fun e => decide (5 ≤ e.2.hot)) = none := by
    refine List.find?_eq_none.2 (fun e he hhot => ?_)
    obtain ⟨hm, hl⟩ := hnone e he (by have := of_decide_eq_true hhot; omega)
    exact hl (List.mem_map_of_mem hm)
  unfold stepThermal
  dsimp only
  rw [hfind]
  exact hw

theorem stepThermal_trips (s0 : State) {s : State} {r : Nat} (hup : s.hw.phase = .up) (hhot : tempAtLeast s r 1050 = true) (h4 : 4 ≤ (s.region r).hot) :
    SafelyStopped s.gridRows (stepThermal s0 s) := by
  have hw := thermals_work s0 (s.power.regions.map (·.1)) s
  have hlisted (u : State) (hu : 0 < (u.region r).hot) : ∃ x, Tab.find u.power.regions r = some x ∧ x.hot = (u.region r).hot := by
    rw [State.region, Tab.get] at hu ⊢
    cases hf : Tab.find u.power.regions r with
    | none =>
      rw [hf] at hu
      exact absurd hu (Nat.lt_irrefl 0)
    | some x => exact ⟨x, rfl, rfl⟩
  have hr : r ∈ s.power.regions.map (·.1) := by
    obtain ⟨x, hx, -⟩ := hlisted s (by omega)
    exact (Tab.mem_keys_iff ..).2 (by rw [hx]; exact Option.some_ne_none x)
  have hmore := (thermals_hot s0 (s.power.regions.map (·.1)) s hhot).2 hr
  obtain ⟨hnone, -⟩ | ⟨q, w, he⟩ := stepThermal_cases s0 s
  · obtain ⟨x, hx, hxh⟩ := hlisted ((s.power.regions.map (·.1)).foldl (thermalOne s0) s) (by omega)
    have hno := List.find?_eq_none.1 hnone (r, x) (Tab.mem_find hx)
    exact absurd (decide_eq_true (show 5 ≤ x.hot by omega)) hno
  · rw [he, ← State.gridRows_of_frame hw.frame]
    exact thermalTrip_stops q w (hw.phase.trans hup)

end Sys2Proof.Machine
end

section
/-! PROOFS. The envelope, parking and writing steps. -/

namespace Sys2Proof.Machine

open Sys2Proof.Claims

/-! ## Steps 4 to 6: what they leave as it was -/

/-- The work of the steps after the thermal limits. -/
abbrev StepWork (s t : State) : Prop := CycleWork True False s t

theorem StepWork.region (s : State) (r : Nat) (y : PRegion) : StepWork s (s.setRegion r y) := .setRegion s r False.elim

theorem StepWork.waferRequest (s : State) (r : Nat) (q : LinkReq) : StepWork s (waferRequest s r q) := (CoolWork.waferRequest s r q).weaken id False.elim

theorem StepWork.power {s : State} {p : Power} (hf : ({ s with power := p } : State).frame = s.frame) (hn : p.notes = s.power.notes) :
    StepWork s { s with power := p } :=
  ⟨.quiet hf (fun _ _ => .of_regs rfl) (Nat.le_refl _), rfl, fun _ => hn, False.elim⟩

theorem addMs_work (s : State) (i : CycleIn) : StepWork s (addMs s i) := by
  unfold addMs
  extract_lets w avg x s1
  have h1 : StepWork s s1 := .power rfl rfl
  split
  · exact h1.trans (.spill (.cntAdd s1 0 0 1 (off := 0x900080) (by omega) (by unfold CtrlOff; omega) (by unfold CtrlOff; omega)))
  · exact h1

theorem stepEnvelope_work (s : State) (i : CycleIn) (t : Nat) : StepWork (envBoundary (addMs s i) t) (stepEnvelope s i t) := by
  unfold stepEnvelope
  extract_lets s1 s2 high bound
  have h2 : StepWork s1 s2 := by
    unfold s2
    split
    · exact .envStatus ..
    · exact .refl s1
  refine h2.trans ?_
  split
  · exact .refl s2
  split
  · split
    · exact .refl s2
    · exact .foldl (fun u p => floorBound_work u p) _ s2
  split
  · exact .spill (.reports (OnlyReports.regSet ..) (fun _ ho => ho.regSet s2 0 0 (off' := 0x900010) _ (by omega) (by unfold CtrlOff; omega)))
  · exact .refl s2

theorem parkOne_work (s : State) (l : List HalfField) (h : Nat) : StepWork s (parkOne s l h) := by
  unfold parkOne
  extract_lets x n s1 idle
  split
  · exact .refl s
  have h1 : StepWork s s1 := .region ..
  split
  · exact h1.trans (StepWork.region ..)
  · exact h1

theorem unparkOne_work (s : State) (l : List HalfField) (wake : List Nat) (h : Nat) : StepWork s (unparkOne s l wake h) := by
  unfold unparkOne
  dsimp only
  split
  · exact .region ..
  split
  · exact .region ..
  · exact .refl s

theorem writePoint_work (s0 : State) (i : CycleIn) (s : State) (q : SetPoint) : StepWork s (writePoint s0 i s q) := by
  unfold writePoint
  dsimp only
  split
  · exact .region ..
  · exact .refl s

theorem capSuspect_work (s0 s : State) (r : Nat) : StepWork s (capSuspect s0 s r) := by
  unfold capSuspect
  dsimp only
  split
  · exact .refl s
  · exact (StepWork.region ..).trans (belowFloor_work ..)

theorem raiseLogic_work (s0 s : State) (r goal : Nat) : StepWork s (raiseLogic s0 s r goal) := by
  unfold raiseLogic
  extract_lets x a near n m
  split
  · exact .refl s
  · exact .region ..

theorem liftFloor_work (s0 s : State) (h : Nat) : StepWork s (liftFloor s0 s h) := by
  unfold liftFloor
  split
  · exact .refl s
  · exact raiseLogic_work ..

theorem holdRun_work (s0 s : State) (h : Nat) : StepWork s (holdRun s0 s h) := by
  unfold holdRun
  dsimp only
  split
  · exact .refl s
  split
  · exact .region ..
  · exact raiseLogic_work ..

theorem writeLink_work (i : CycleIn) (s : State) (e : Sys2Proof.Region × LinkReq) : StepWork s (writeLink i s e) := by
  unfold writeLink
  dsimp only
  split
  · exact .waferRequest ..
  split
  · split
    · exact (StepWork.region ..).trans (StepWork.waferRequest ..)
    · exact .refl s
  split
  · exact (StepWork.region ..).trans (StepWork.waferRequest ..)
  · exact .refl s

theorem ackChiplet_work (s : State) (r : Nat) : StepWork s (ackChiplet s r) := by
  unfold ackChiplet
  dsimp only
  split
  · split
    · exact .region ..
    · exact .refl s
  · exact .refl s

theorem powerOne_work (s : State) (h : Nat) : StepWork s (powerOne s h) := by
  unfold powerOne
  dsimp only
  split
  · exact .region ..
  split
  · exact .region ..
  · exact .refl s

theorem sliceOne_work (s : State) (n h : Nat) : StepWork s (sliceOne s n h).1 := by
  unfold sliceOne
  extract_lets t first want going room
  have hrun : StepWork s (startRun s h) := .setTest ..
  split
  · dsimp only
    split
    · exact hrun.trans (StepWork.region ..)
    · exact hrun
  · exact .refl s

theorem stepSlices_work (s : State) : StepWork s (stepSlices s) := by
  have hfold : ∀ (l : List Nat) (a : State × Nat), StepWork a.1 (l.foldl (fun (a : State × Nat) h => sliceOne a.1 a.2 h) a).1 := by
    intro l
    induction l with
    | nil => exact fun a => .refl a.1
    | cons h l ih => exact fun a => (sliceOne_work a.1 a.2 h).trans (ih _)
  unfold stepSlices
  split
  · exact hfold _ (s, 0)
  · exact .refl s

theorem powerAll_work (l : List Nat) (s : State) : StepWork s (l.foldl powerOne s) := CycleWork.foldl (fun u h => powerOne_work u h) l s

theorem stepWrites_work (s0 s : State) (i : CycleIn) : StepWork s (stepWrites s0 s i) := by
  unfold stepWrites
  extract_lets s1 rs hs s2 s3 s4
  have h1 : StepWork s s1 := CycleWork.foldl (fun u q => writePoint_work s0 i u q) i.setpoints s
  have h2 : StepWork s1 s2 := CycleWork.foldl (fun u r => capSuspect_work s0 u r) rs s1
  have h3 : StepWork s2 s3 := (CycleWork.foldl (fun u h => liftFloor_work s0 u h) hs s2).trans (CycleWork.foldl (fun u h => holdRun_work s0 u h) hs _)
  have h4 : StepWork s3 s4 := (CycleWork.foldl (fun u e => writeLink_work i u e) i.links s3).trans (CycleWork.foldl (fun u r => ackChiplet_work u r) _ _)
  exact (((h1.trans h2).trans h3).trans h4).trans ((powerAll_work _ s4).trans (stepSlices_work _))

end Sys2Proof.Machine
end

section
/-! PROOFS. The mailbox step and the envelope at a boundary. -/

namespace Sys2Proof.Machine

open Sys2Proof.Claims

/-! ## The mailbox (R400, R401) -/

/-- The clock, the Tambour but for its mailboxes and what they set, and the power state's frame. -/
def State.rest (s : State) : BitVec 64 × Tamb × Power :=
  (s.time, { s.tamb with seq := 0, queue := [], mbx := [], throttle := 0, parkHold := 0 }, s.frame.2.2.2)

/-- Work that may touch the mailboxes and what they set. -/
structure MailWork (s t : State) : Prop where
  rest : t.rest = s.rest
  bits : ∀ i, (regGet s 0 0 0x90005C).getLsbD i = true → (regGet t 0 0 0x90005C).getLsbD i = true
  defects : s.defects.length ≤ t.defects.length
  phase : t.hw.phase = s.hw.phase
  notes : t.power.notes = s.power.notes

theorem MailWork.refl (s : State) : MailWork s s := ⟨rfl, fun _ => id, Nat.le_refl _, rfl, rfl⟩

theorem MailWork.trans {s t u : State} (a : MailWork s t) (b : MailWork t u) : MailWork s u :=
  ⟨b.rest.trans a.rest, fun i hi => b.bits i (a.bits i hi), a.defects.trans b.defects, b.phase.trans a.phase, b.notes.trans a.notes⟩

theorem MailWork.foldl {α : Type} {f : State → α → State} (hf : ∀ s a, MailWork s (f s a)) (l : List α) (s : State) : MailWork s (l.foldl f s) := by
  induction l generalizing s with
  | nil => exact .refl s
  | cons a l ih => exact (hf s a).trans (ih _)

theorem StepWork.mail {s t : State} (h : StepWork s t) : MailWork s t := by
  have hf := h.frame
  refine ⟨?_, h.bits, h.defects, h.phase, h.notes trivial⟩
  exact congrArg (fun x => (x.1, { x.2.2.1 with mbx := [], throttle := 0, parkHold := 0 }, x.2.2.2)) hf

theorem takeWake_work (s : State) (p : Nat) : MailWork s (takeWake s p) := ⟨rfl, fun _ => id, Nat.le_refl _, rfl, rfl⟩

theorem answerMbx_work (s : State) (fn : Nat) (code : Word) : MailWork s (answerMbx s fn code) :=
  ⟨rfl, fun i hi => by
    rw [answerMbx, regGet_regSet_ne _ _ _ _ _ _ (by omega) (by omega) (by omega)]
    exact hi, Nat.le_refl _, rfl, rfl⟩

theorem serveMbx_work (s : State) (e : Nat × Mbx) : MailWork s (serveMbx s e) := by
  unfold serveMbx
  dsimp only
  split
  · exact MailWork.trans (t := s.setPart e.1 { s.part e.1 with laneTimeout := e.2.arg }) ⟨rfl, fun _ => id, Nat.le_refl _, rfl, rfl⟩ (answerMbx_work ..)
  split
  · unfold answerWake
    split
    · exact answerMbx_work ..
    · exact .refl s
  split
  · exact MailWork.trans (t := { s with tamb := { s.tamb with throttle := e.2.arg.toNat } }) ⟨rfl, fun _ => id, Nat.le_refl _, rfl, rfl⟩ (answerMbx_work ..)
  split
  · exact MailWork.trans (t := { s with tamb := { s.tamb with parkHold := e.2.arg.toNat } }) ⟨rfl, fun _ => id, Nat.le_refl _, rfl, rfl⟩ (answerMbx_work ..)
  · exact answerMbx_work ..

theorem stepMailbox_work (s : State) : MailWork s (stepMailbox s) := MailWork.foldl (fun u e => serveMbx_work u e) s.tamb.mbx s

theorem parkAll_work (l : List HalfField) (hs : List Nat) (s : State) : StepWork s (hs.foldl (fun s h => parkOne s l h) s) :=
  CycleWork.foldl (fun u h => parkOne_work u l h) hs s

theorem unparkAll_work (l : List HalfField) (ws hs : List Nat) (s : State) : StepWork s (hs.foldl (fun s h => unparkOne s l ws h) s) :=
  CycleWork.foldl (fun u h => unparkOne_work u l ws h) hs s

theorem wakers_of_mbx {s t : State} (h : t.tamb.mbx = s.tamb.mbx) : wakers t = wakers s := by rw [wakers, wakers, h]

theorem stepParking_work (s : State) (i : CycleIn) : MailWork s (stepParking s i) ∧ (wakers s = [] → StepWork s (stepParking s i)) := by
  unfold stepParking
  extract_lets hs s1 ws s2
  have h1 : StepWork s s1 := parkAll_work i.leverPark hs s
  have h2 : MailWork s1 s2 := MailWork.foldl (fun u p => takeWake_work u p) ws s1
  have h3 : StepWork s2 (hs.foldl (fun s h => unparkOne s i.leverUnpark ws h) s2) := unparkAll_work ..
  refine ⟨(h1.mail.trans h2).trans h3.mail, fun hw => ?_⟩
  have hws : ws = [] := (wakers_of_mbx (State.tamb_of_frame (·.mbx) (fun _ => rfl) h1.frame)).trans hw
  have hs2 : s2 = s1 := by
    unfold s2
    rw [hws]
    rfl
  rw [hs2] at h3 ⊢
  exact h1.trans h3

/-! ## The envelope at a boundary (R379) -/

theorem envMove_form (s : State) (t : Nat) : ∃ e tg v w g j b, envMove s t = { s with power :=
    { s.power with env := e, target := tg, value := v, slew := w, seg := g, index := j, begun := b } } := by
  unfold envMove
  split
  · exact ⟨_, _, _, _, _, _, _, rfl⟩
  · exact ⟨_, _, _, _, _, _, _, rfl⟩

/-- The envelope's own fields alone move. -/
theorem envBoundary_form (s : State) (t : Nat) : ∃ x e tg v w g j b, envBoundary s t = { s with power :=
    { s.power with segs := x, env := e, target := tg, value := v, slew := w, seg := g, index := j, begun := b } } := by
  unfold envBoundary
  dsimp only
  split
  · exact ⟨_, _, _, _, _, _, _, _, rfl⟩
  · obtain ⟨x, v, w, b, h1⟩ : ∃ x v w b, retireSegs s t = { s with power := { s.power with segs := x, value := v, slew := w, begun := b } } :=
      ⟨_, _, _, _, retireSegs_form s t⟩
    rw [h1]
    obtain ⟨e, tg, v', w', g, j, b', h2⟩ := envMove_form { s with power := { s.power with segs := x, value := v, slew := w, begun := b } } t
    rw [h2]
    split
    · exact ⟨_, _, _, _, _, _, _, _, rfl⟩
    · exact ⟨_, _, _, _, _, _, _, _, rfl⟩

/-- The envelope as a segment in progress leaves it. -/
def envTracked (s : State) (slot : Nat) (x : Segment) (t : Nat) : Power :=
  let j := (t - x.start.toNat) / msNs
  { s.power with
    env := .tracking, begun := true, seg := slot, index := j, value := x.samples.getD j 0, slew := segSlew s x,
    target := slewTo (if s.power.env = .armed then s.power.draw.toNat * 100 else s.power.target) (x.samples.getD j 0) (segSlew s x) }

theorem envBoundary_covered {s : State} {slot t : Nat} {x : Segment} (hs : s.power.segs = [(slot, x)]) (hc : x.covers t = true) (hi : s.power.env ≠ .idle)
    (hf : s.power.env ≠ .frozen) : envBoundary s t = { s with power := envTracked s slot x t } := by
  have hspan := of_decide_eq_true hc
  have hfin : decide (x.fin ≤ t) = false := decide_eq_false (by omega)
  have hretire : retireSegs s t = s := by
    unfold retireSegs
    rw [hs]
    simp only [List.filter_cons, List.filter_nil, hfin, Bool.false_eq_true, if_false, Bool.not_false, if_true, List.foldl_nil]
    rw [← hs]
  have hmove : envMove s t = { s with power := { envTracked s slot x t with
      target := if s.power.env = .armed then s.power.draw.toNat * 100 else s.power.target } } := by
    unfold envMove
    rw [hs, List.find?_cons_of_pos (p := fun e : Nat × Segment => e.2.covers t) hc]
    rfl
  unfold envBoundary
  rw [if_neg (by rintro (h | h); exacts [hi h, hf h]), hretire]
  dsimp only
  rw [hmove]
  exact if_pos rfl

theorem slewTo_clamp (target value slew : Nat) :
    (slewTo target value slew : Int) = target + max (-(slew : Int)) (min slew ((value : Int) * 100 - target)) := by
  unfold slewTo
  dsimp only
  split <;> omega

end Sys2Proof.Machine
end

section
/-! PROOFS. The steps of a cycle put together. -/

namespace Sys2Proof.Machine

open Sys2Proof.Claims

/-! ## A whole cycle (R385) -/

theorem State.tamb_of_rest {s t : State} {α : Type} (f : Tamb → α) (hf : ∀ x : Tamb, f { x with seq := 0, queue := [], mbx := [], throttle := 0, parkHold := 0 } = f x)
    (h : t.rest = s.rest) : f t.tamb = f s.tamb := (hf t.tamb).symm.trans ((congrArg (fun x => f x.2.1) h).trans (hf s.tamb))

theorem State.power_of_rest {s t : State} {α : Type} (f : Power → α)
    (hf : ∀ x : Power, f { x with regions := [], notes := [], hist := [], void := false, drawAvg := 0 } = f x) (h : t.rest = s.rest) :
    f t.power = f s.power := (hf t.power).symm.trans ((congrArg (fun x => f x.2.2) h).trans (hf s.power))

def Tamb.taken (x : Tamb) : BitVec 64 × Nat × Tab Sensor := (x.cycle, x.overruns, x.sensors)

def Power.taken (x : Power) : BitVec 16 × BitVec 16 × BitVec 16 := (x.draw, x.volts, x.floorKw)

/-- What step 1 of a cycle took and counted stands, faults reported stay reported, no defect is lost. -/
structure TakenKept (s t : State) : Prop where
  time : t.time = s.time
  tamb : t.tamb.taken = s.tamb.taken
  power : t.power.taken = s.power.taken
  bits : ∀ i, (regGet s 0 0 0x90005C).getLsbD i = true → (regGet t 0 0 0x90005C).getLsbD i = true
  defects : s.defects.length ≤ t.defects.length

theorem TakenKept.trans {s t u : State} (a : TakenKept s t) (b : TakenKept t u) : TakenKept s u :=
  ⟨b.time.trans a.time, b.tamb.trans a.tamb, b.power.trans a.power, fun i hi => b.bits i (a.bits i hi), a.defects.trans b.defects⟩

theorem CycleBase.taken {s t : State} (h : CycleBase s t) : TakenKept s t :=
  ⟨State.time_of_frame h.frame, State.tamb_of_frame _ (fun _ => rfl) h.frame, State.power_of_frame _ (fun _ => rfl) h.frame, h.bits, h.defects⟩

theorem MailWork.taken {s t : State} (h : MailWork s t) : TakenKept s t :=
  ⟨congrArg (·.1) h.rest, State.tamb_of_rest _ (fun _ => rfl) h.rest, State.power_of_rest _ (fun _ => rfl) h.rest, h.bits, h.defects⟩

theorem envBoundary_taken (s : State) (t : Nat) : TakenKept s (envBoundary s t) := by
  obtain ⟨x, e, tg, v, w, g, j, b, h⟩ := envBoundary_form s t
  rw [h]
  exact ⟨rfl, rfl, rfl, fun _ => id, Nat.le_refl _⟩

/-- Steps 5 and 6. -/
def parkAndWrite (s0 s : State) (i : CycleIn) : State := stepWrites s0 (stepParking s i) i

/-- Steps 4 to 7. -/
def cycleRest (s0 s : State) (i : CycleIn) : State := stepMailbox (beat (parkAndWrite s0 (stepEnvelope s i s0.time.toNat) i))

/-- Steps 2 and 3. -/
def cycleStart (s0 : State) (i : CycleIn) : State := stepThermal s0 (stepFaults s0 i)

theorem cycle_eq (s : State) (i : CycleIn) : cycle s i =
    if (cycleStart (beginCycle s i) i).hw.phase ≠ .up then cycleStart (beginCycle s i) i else cycleRest (beginCycle s i) (cycleStart (beginCycle s i) i) i := rfl

theorem parkAndWrite_work (s0 s : State) (i : CycleIn) : MailWork s (parkAndWrite s0 s i) ∧ (wakers s = [] → StepWork s (parkAndWrite s0 s i)) := by
  have hw := stepWrites_work s0 (stepParking s i) i
  obtain ⟨h1, h2⟩ := stepParking_work s i
  exact ⟨h1.trans hw.mail, fun h => (h2 h).trans hw⟩

theorem beat_taken (s : State) : TakenKept s (beat s) := ⟨rfl, rfl, rfl, fun _ => id, Nat.le_refl _⟩

theorem cycleRest_taken (s0 s : State) (i : CycleIn) : TakenKept s (cycleRest s0 s i) ∧ (cycleRest s0 s i).power.notes = s.power.notes := by
  have h1 := addMs_work s i
  have h2 := envBoundary_taken (addMs s i) s0.time.toNat
  have h3 := stepEnvelope_work s i s0.time.toNat
  have h4 := (parkAndWrite_work s0 (stepEnvelope s i s0.time.toNat) i).1
  have h5 := beat_taken (parkAndWrite s0 (stepEnvelope s i s0.time.toNat) i)
  have h6 := stepMailbox_work (beat (parkAndWrite s0 (stepEnvelope s i s0.time.toNat) i))
  have hnotes : (envBoundary (addMs s i) s0.time.toNat).power.notes = (addMs s i).power.notes := by
    obtain ⟨x, e, tg, v, w, g, j, b, h⟩ := envBoundary_form (addMs s i) s0.time.toNat
    rw [h]
  refine ⟨h1.toCycleBase.taken.trans (h2.trans (h3.toCycleBase.taken.trans (h4.taken.trans (h5.trans h6.taken)))), ?_⟩
  calc (cycleRest s0 s i).power.notes = (beat (parkAndWrite s0 (stepEnvelope s i s0.time.toNat) i)).power.notes := h6.notes
    _ = (stepEnvelope s i s0.time.toNat).power.notes := h4.notes
    _ = (envBoundary (addMs s i) s0.time.toNat).power.notes := h3.notes trivial
    _ = (addMs s i).power.notes := hnotes
    _ = s.power.notes := h1.notes trivial

theorem cycleStart_spec {s0 : State} (i : CycleIn) (h : s0.hw.phase = .up) : CycleBase s0 (cycleStart s0 i) ∧ (cycleStart s0 i).power.notes = [] ∧
    (∀ x ∈ s0.power.notes, (regGet (cycleStart s0 i) 0 0 0x90005C).getLsbD (noteBit x) = true) := by
  obtain ⟨hf, hnone, hbits⟩ := stepFaults_spec s0 i
  obtain ⟨ht, hn, -⟩ := stepThermal_base s0 (stepFaults s0 i) (hf.phase.trans h)
  exact ⟨hf.toCycleBase.trans ht, hn.trans hnone, fun x hx => ht.bits _ (hbits x hx)⟩

/-- What step 1 took stands at the end, and the notes have been acted on. -/
theorem cycle_taken {s : State} (i : CycleIn) (h : s.hw.phase = .up) : TakenKept (beginCycle s i) (cycle s i) ∧ (cycle s i).power.notes = [] ∧
    (∀ x ∈ s.power.notes, (regGet (cycle s i) 0 0 0x90005C).getLsbD (noteBit x) = true) := by
  obtain ⟨hb, hn, hbits⟩ := cycleStart_spec (s0 := beginCycle s i) i h
  rw [cycle_eq]
  split
  · exact ⟨hb.taken, hn, hbits⟩
  · obtain ⟨hr, hrn⟩ := cycleRest_taken (beginCycle s i) (cycleStart (beginCycle s i) i) i
    exact ⟨hb.taken.trans hr, hrn.trans hn, fun x hx => hr.bits _ (hbits x hx)⟩

/-- Steps 2 and 3 with no region at 105 °C. -/
theorem cycleStart_cool {s : State} (i : CycleIn) (h : s.hw.phase = .up) (hcool : ∀ r, tempAtLeast s r 1050 = false) :
    CycleBase (beginCycle s i) (cycleStart (beginCycle s i) i) ∧ (cycleStart (beginCycle s i) i).hw.phase = .up := by
  obtain ⟨hf, -, -⟩ := stepFaults_spec (beginCycle s i) i
  have ht := stepThermal_cool (beginCycle s i) (s := stepFaults (beginCycle s i) i) (fun r => (tempAtLeast_of_sensors hf.sensors r 1050).trans (hcool r))
  exact ⟨hf.toCycleBase.trans ht.toCycleBase, ht.phase.trans (hf.phase.trans h)⟩

theorem cycle_cool {s : State} (i : CycleIn) (h : s.hw.phase = .up) (hcool : ∀ r, tempAtLeast s r 1050 = false) :
    cycle s i = cycleRest (beginCycle s i) (cycleStart (beginCycle s i) i) i := by
  rw [cycle_eq, if_neg (not_not_intro (cycleStart_cool i h hcool).2)]

end Sys2Proof.Machine
end

section
/-! PROOFS. Heartbeats, the trip, the segment in progress and the mailbox of a cycle. -/

namespace Sys2Proof.Machine

open Sys2Proof.Claims

/-! ## Heartbeats (R397) -/

/-- The instances and their heartbeats. -/
def Tamb.beats (x : Tamb) : InstSt × InstSt × Word × Word := (x.ta, x.tb, x.beatA, x.beatB)

theorem envBoundary_still (s : State) (t : Nat) : (envBoundary s t).tamb = s.tamb ∧ (envBoundary s t).hw = s.hw := by
  obtain ⟨x, e, tg, v, w, g, j, b, h⟩ := envBoundary_form s t
  rw [h]
  exact ⟨rfl, rfl⟩

/-- At the heartbeats the instances, their heartbeats and the phase are those after step 3. -/
theorem beforeBeat_beats (s0 s : State) (i : CycleIn) : let u := parkAndWrite s0 (stepEnvelope s i s0.time.toNat) i
    u.tamb.beats = s.tamb.beats ∧ u.hw.phase = s.hw.phase := by
  intro u
  have h1 := addMs_work s i
  obtain ⟨h2, h2w⟩ := envBoundary_still (addMs s i) s0.time.toNat
  have h3 := stepEnvelope_work s i s0.time.toNat
  have h4 := (parkAndWrite_work s0 (stepEnvelope s i s0.time.toNat) i).1
  constructor
  · calc u.tamb.beats = (stepEnvelope s i s0.time.toNat).tamb.beats := State.tamb_of_rest _ (fun _ => rfl) h4.rest
      _ = (envBoundary (addMs s i) s0.time.toNat).tamb.beats := State.tamb_of_frame _ (fun _ => rfl) h3.frame
      _ = (addMs s i).tamb.beats := by rw [h2]
      _ = s.tamb.beats := State.tamb_of_frame _ (fun _ => rfl) h1.frame
  · calc u.hw.phase = (stepEnvelope s i s0.time.toNat).hw.phase := h4.phase
      _ = (envBoundary (addMs s i) s0.time.toNat).hw.phase := h3.phase
      _ = (addMs s i).hw.phase := by rw [h2w]
      _ = s.hw.phase := h1.phase

theorem cycleRest_beats (s0 s : State) (i : CycleIn) : (cycleRest s0 s i).hw.phase = s.hw.phase ∧
    (cycleRest s0 s i).tamb.beatA = (if s.tamb.ta = .failed then s.tamb.beatA else s.tamb.beatA + 1) ∧
    (cycleRest s0 s i).tamb.beatB = (if s.tamb.tb = .failed then s.tamb.beatB else s.tamb.beatB + 1) := by
  obtain ⟨hb, hp⟩ := beforeBeat_beats s0 s i
  have hm := stepMailbox_work (beat (parkAndWrite s0 (stepEnvelope s i s0.time.toNat) i))
  have hta := congrArg (·.1) hb
  have htb := congrArg (·.2.1) hb
  have hba := congrArg (·.2.2.1) hb
  have hbb := congrArg (·.2.2.2) hb
  dsimp only [Tamb.beats] at hta htb hba hbb
  refine ⟨hm.phase.trans hp, (State.tamb_of_rest (·.beatA) (fun _ => rfl) hm.rest).trans ?_, (State.tamb_of_rest (·.beatB) (fun _ => rfl) hm.rest).trans ?_⟩
  · dsimp only [beat]
    rw [hta, hba]
  · dsimp only [beat]
    rw [htb, hbb]

/-! ## The thermal trip (R392) -/

theorem cycle_trips {s : State} {r : Nat} {x : PRegion} (i : CycleIn) (h : s.hw.phase = .up) (hx : Tab.find s.power.regions r = some x) (h4 : 4 ≤ x.hot)
    (hhot : tempAtLeast s r 1050 = true) : SafelyStopped s.gridRows (cycle s i) := by
  obtain ⟨hf, -, -⟩ := stepFaults_spec (beginCycle s i) i
  have hcount : ((stepFaults (beginCycle s i) i).region r).hot = x.hot := by
    refine (hf.hot trivial r).trans ?_
    rw [State.region, Tab.get, show Tab.find (beginCycle s i).power.regions r = some x from hx]
    rfl
  have hstop := stepThermal_trips (beginCycle s i) (s := stepFaults (beginCycle s i) i) (r := r) (hf.phase.trans h)
    ((tempAtLeast_of_sensors hf.sensors r 1050).trans hhot) (hcount ▸ h4)
  rw [State.gridRows_of_frame hf.frame] at hstop
  have hdown : (cycleStart (beginCycle s i) i).hw.phase ≠ .up := by
    rw [show (cycleStart (beginCycle s i) i).hw.phase = .stopped from hstop.phase]
    decide
  rw [cycle_eq, if_pos hdown]
  exact hstop

/-! ## A segment in progress (R379) -/

/-- The envelope's state, segments, segment in progress and target. -/
def Power.tracked (x : Power) : EnvSt × Tab Segment × Nat × Nat × Nat := (x.env, x.segs, x.seg, x.index, x.target)

theorem cycleRest_tracked (s0 s : State) (i : CycleIn) : (cycleRest s0 s i).power.tracked = (envBoundary (addMs s i) s0.time.toNat).power.tracked := by
  have h3 := stepEnvelope_work s i s0.time.toNat
  have h4 := (parkAndWrite_work s0 (stepEnvelope s i s0.time.toNat) i).1
  have h6 := stepMailbox_work (beat (parkAndWrite s0 (stepEnvelope s i s0.time.toNat) i))
  calc (cycleRest s0 s i).power.tracked = (beat (parkAndWrite s0 (stepEnvelope s i s0.time.toNat) i)).power.tracked :=
        State.power_of_rest _ (fun _ => rfl) h6.rest
    _ = (parkAndWrite s0 (stepEnvelope s i s0.time.toNat) i).power.tracked := rfl
    _ = (stepEnvelope s i s0.time.toNat).power.tracked := State.power_of_rest _ (fun _ => rfl) h4.rest
    _ = (envBoundary (addMs s i) s0.time.toNat).power.tracked := State.power_of_frame _ (fun _ => rfl) h3.frame

theorem cycle_tracked {s : State} {slot : Nat} {x : Segment} (i : CycleIn) (h : s.hw.phase = .up) (hcool : ∀ r, tempAtLeast s r 1050 = false)
    (hs : s.power.segs = [(slot, x)]) (hc : x.covers (nextCycle s).toNat = true) (hi : s.power.env ≠ .idle) (hf : s.power.env ≠ .frozen) :
    (cycle s i).power.tracked = (envTracked (beginCycle s i) slot x (nextCycle s).toNat).tracked := by
  obtain ⟨hb, -⟩ := cycleStart_cool i h hcool
  have hbase := hb.trans (addMs_work (cycleStart (beginCycle s i) i) i).toCycleBase
  have henv : (addMs (cycleStart (beginCycle s i) i) i).power.env = s.power.env := State.power_of_frame (s := beginCycle s i) (·.env) (fun _ => rfl) hbase.frame
  have hsegs : (addMs (cycleStart (beginCycle s i) i) i).power.segs = [(slot, x)] := (State.power_of_frame (·.segs) (fun _ => rfl) hbase.frame).trans hs
  have htarget : (addMs (cycleStart (beginCycle s i) i) i).power.target = s.power.target := State.power_of_frame (s := beginCycle s i) (·.target) (fun _ => rfl) hbase.frame
  have hdraw : (addMs (cycleStart (beginCycle s i) i) i).power.draw = (beginCycle s i).power.draw := State.power_of_frame (·.draw) (fun _ => rfl) hbase.frame
  have hslew : segSlew (addMs (cycleStart (beginCycle s i) i) i) x = segSlew (beginCycle s i) x := by
    rw [segSlew, segSlew, hbase.slew.same 0 0]
  rw [cycle_cool i h hcool, cycleRest_tracked, show (beginCycle s i).time = nextCycle s from rfl, envBoundary_covered hsegs hc (henv ▸ hi) (henv ▸ hf)]
  dsimp only [Power.tracked, envTracked]
  rw [henv, hsegs, htarget, hdraw, hslew, ← hs]
  rfl

/-! ## The mailbox (R400, R401) -/

theorem cycleRest_mail {s : State} (s0 : State) (i : CycleIn) (hw : wakers s = []) : ∃ u, cycleRest s0 s i = stepMailbox u ∧
    u.tamb.mbx = s.tamb.mbx ∧ u.tamb.throttle = s.tamb.throttle ∧ u.tamb.parkHold = s.tamb.parkHold := by
  have h1 := addMs_work s i
  obtain ⟨h2, -⟩ := envBoundary_still (addMs s i) s0.time.toNat
  have h3 := stepEnvelope_work s i s0.time.toNat
  have hto {α : Type} (f : Tamb → α) (hf : ∀ x : Tamb, f { x with seq := 0, queue := [] } = f x) :
      f (stepEnvelope s i s0.time.toNat).tamb = f s.tamb :=
    (State.tamb_of_frame f hf h3.frame).trans (h2 ▸ State.tamb_of_frame f hf h1.frame)
  have h4 := (parkAndWrite_work s0 (stepEnvelope s i s0.time.toNat) i).2 ((wakers_of_mbx (hto (·.mbx) (fun _ => rfl))).trans hw)
  have hall {α : Type} (f : Tamb → α) (hf : ∀ x : Tamb, f { x with seq := 0, queue := [] } = f x) :
      f (parkAndWrite s0 (stepEnvelope s i s0.time.toNat) i).tamb = f s.tamb := (State.tamb_of_frame f hf h4.frame).trans (hto f hf)
  exact ⟨_, rfl, hall (·.mbx) (fun _ => rfl), hall (·.throttle) (fun _ => rfl), hall (·.parkHold) (fun _ => rfl)⟩

/-- A cycle that finds one command other than a WAKE serves it last. -/
theorem cycle_mail {s : State} {fn : Nat} {m : Mbx} (i : CycleIn) (h : s.hw.phase = .up) (hcool : ∀ r, tempAtLeast s r 1050 = false)
    (hm : s.tamb.mbx = [(fn, m)]) (hw : m.op = 2 → fn = 0 ∨ m.arg ≠ 0) : ∃ u, cycle s i = serveMbx u (fn, m) ∧
      u.tamb.mbx = [(fn, m)] ∧ u.tamb.throttle = s.tamb.throttle ∧ u.tamb.parkHold = s.tamb.parkHold := by
  obtain ⟨hb, -⟩ := cycleStart_cool i h hcool
  have hmbx : (cycleStart (beginCycle s i) i).tamb.mbx = [(fn, m)] := (State.tamb_of_frame (·.mbx) (fun _ => rfl) hb.frame).trans hm
  have hno : wakers (cycleStart (beginCycle s i) i) = [] := by
    rw [wakers, hmbx, List.filter_cons_of_neg, List.filter_nil, List.map_nil]
    intro hk
    simp only [Bool.and_eq_true, decide_eq_true_eq, beq_iff_eq] at hk
    obtain ⟨⟨⟨hfn, hop⟩, harg⟩, -⟩ := hk
    exact (hw hop).elim (by omega) (fun k => k harg)
  obtain ⟨u, hu, hum, hut, hup⟩ := cycleRest_mail (beginCycle s i) i hno
  rw [hmbx] at hum
  refine ⟨u, ?_, hum, hut.trans (State.tamb_of_frame (s := beginCycle s i) (·.throttle) (fun _ => rfl) hb.frame), hup.trans (State.tamb_of_frame (s := beginCycle s i) (·.parkHold) (fun _ => rfl) hb.frame)⟩
  rw [cycle_cool i h hcool, hu, stepMailbox, hum]
  rfl

theorem answerMbx_spec {s : State} {fn : Nat} {m : Mbx} (code : Word) (h : s.tamb.mbx = [(fn, m)]) : (answerMbx s fn code).tamb.mbx = [] ∧
    regGet (answerMbx s fn code) fn 0 0xA00020 = code := by
  refine ⟨?_, regGet_regSet_same ..⟩
  change Tab.drop s.tamb.mbx fn = []
  rw [h]
  simp [Tab.drop]

end Sys2Proof.Machine
end

section
/-! PROOFS. The decision cycle (O42). -/

namespace Sys2Proof.Machine

open Sys2Proof.Claims

theorem cycle_nexts {s : State} {i : CycleIn} {P : State → Prop} (h : s.hw.phase = .up ∧ (s.tamb.ta = .active ∨ s.tamb.tb = .active)) (hP : P (cycle s i)) :
    Nexts (.decisionCycle i) s P := by
  refine ⟨_, congrArg Host.Outcome.next (if_pos ?_), hP⟩
  simpa [tambActive] using h

/-- What a cycle leaves of a command: the mailbox empty, its answer, and what `P` says. -/
def MbxAnswered (fn : Nat) (c : Word) (P : State → Prop) (t : State) : Prop := t.tamb.mbx = [] ∧ regGet t fn 0 0xA00020 = c ∧ P t

theorem serveMbx_answered {s : State} {fn : Nat} {m : Mbx} (h : s.tamb.mbx = [(fn, m)]) :
    (m.op = 1 ∧ fn ≠ 0 ∧ 100 ≤ m.arg.toNat ∧ m.arg.toNat ≤ 100000 → MbxAnswered fn 0 (fun t => (t.part fn).laneTimeout = m.arg) (serveMbx s (fn, m))) ∧
    (m.op = 3 ∧ fn = 0 ∧ 60 ≤ m.arg.toNat ∧ m.arg.toNat ≤ 95 → MbxAnswered fn 0 (fun t => t.tamb.throttle = m.arg.toNat) (serveMbx s (fn, m))) ∧
    (m.op = 4 ∧ fn = 0 ∧ m.arg.toNat ≤ 60000 → MbxAnswered fn 0 (fun t => t.tamb.parkHold = m.arg.toNat) (serveMbx s (fn, m))) := by
  refine ⟨fun hc => ?_, fun hc => ?_, fun hc => ?_⟩
  · obtain ⟨h1, h2⟩ := answerMbx_spec (s := s.setPart fn { s.part fn with laneTimeout := m.arg }) 0 h
    rw [show serveMbx s (fn, m) = _ from if_pos hc]
    refine ⟨h1, h2, ?_⟩
    change (State.part (s.setPart fn { s.part fn with laneTimeout := m.arg }) fn).laneTimeout = m.arg
    rw [part_setPart, if_pos rfl]
  · obtain ⟨h1, h2⟩ := answerMbx_spec (s := { s with tamb := { s.tamb with throttle := m.arg.toNat } }) 0 h
    have hop := hc.1
    rw [show serveMbx s (fn, m) = _ from (if_neg (fun k => absurd (hop.symm.trans k.1) (by decide))).trans
      ((if_neg (fun k => absurd (hop.symm.trans k.1) (by decide))).trans (if_pos hc))]
    exact ⟨h1, h2, rfl⟩
  · obtain ⟨h1, h2⟩ := answerMbx_spec (s := { s with tamb := { s.tamb with parkHold := m.arg.toNat } }) 0 h
    have hop := hc.1
    rw [show serveMbx s (fn, m) = _ from (if_neg (fun k => absurd (hop.symm.trans k.1) (by decide))).trans
      ((if_neg (fun k => absurd (hop.symm.trans k.1) (by decide))).trans ((if_neg (fun k => absurd (hop.symm.trans k.1) (by decide))).trans (if_pos hc)))]
    exact ⟨h1, h2, rfl⟩

/-- An OP not the function's, an operand out of range and an undefined OP are refused. -/
theorem serveMbx_refused {s : State} {fn : Nat} {m : Mbx} (h : s.tamb.mbx = [(fn, m)])
    (h1 : ¬ (m.op = 1 ∧ fn ≠ 0 ∧ 100 ≤ m.arg.toNat ∧ m.arg.toNat ≤ 100000)) (h2 : ¬ (m.op = 2 ∧ fn ≠ 0 ∧ m.arg.toNat = 0))
    (h3 : ¬ (m.op = 3 ∧ fn = 0 ∧ 60 ≤ m.arg.toNat ∧ m.arg.toNat ≤ 95)) (h4 : ¬ (m.op = 4 ∧ fn = 0 ∧ m.arg.toNat ≤ 60000)) :
    MbxAnswered fn 1 (fun t => t.tamb.throttle = s.tamb.throttle ∧ t.tamb.parkHold = s.tamb.parkHold) (serveMbx s (fn, m)) := by
  rw [show serveMbx s (fn, m) = answerMbx s fn 1 from (if_neg h1).trans ((if_neg h2).trans ((if_neg h3).trans (if_neg h4)))]
  obtain ⟨hm, hc⟩ := answerMbx_spec 1 h
  exact ⟨hm, hc, rfl, rfl⟩

/-- Settles O42: the whole cycle by `cycle_taken`, the heartbeats by `cycleRest_beats`, the trip by `cycle_trips`, the segment by `cycle_tracked`, the
mailbox by `cycle_mail`. -/
theorem decisionCycles : Obligations.DecisionCycles := by
  intro s i active cool draw
  refine ⟨fun h => ?_, fun h => ?_, fun h hcool => ?_, fun r x h hx h4 hhot => ?_, fun slot x h hcool hs hc hi hf => ?_, fun fn m h hcool hm hfn => ?_⟩
  · refine congrArg Host.Outcome.next (if_neg ?_)
    simpa [tambActive, active] using h
  · obtain ⟨ht, hn, hbits⟩ := cycle_taken i h.1
    have htamb := ht.tamb
    have hpower := ht.power
    simp only [Tamb.taken, Prod.mk.injEq] at htamb
    simp only [Power.taken, Prod.mk.injEq] at hpower
    obtain ⟨hcyc, hover, hsens⟩ := htamb
    obtain ⟨hdraw, hvolts, hfloor⟩ := hpower
    refine cycle_nexts h ⟨hcyc, ht.time, hdraw, hvolts, hfloor, hn, fun n hmem => ?_, hover, hsens, ht.defects⟩
    have hbit := hbits n hmem
    cases n <;> exact hbit
  · obtain ⟨hb, hup⟩ := cycleStart_cool i h.1 hcool
    obtain ⟨hp, ha, hbb⟩ := cycleRest_beats (beginCycle s i) (cycleStart (beginCycle s i) i) i
    have hbeats := State.tamb_of_frame (·.beats) (fun _ => rfl) hb.frame
    simp only [Tamb.beats, Prod.mk.injEq] at hbeats
    obtain ⟨hta, htb, hba, hbbeat⟩ := hbeats
    rw [hta, hba] at ha
    rw [htb, hbbeat] at hbb
    refine cycle_nexts h ?_
    rw [cycle_cool i h.1 hcool]
    exact ⟨hp.trans hup, ha, hbb⟩
  · obtain ⟨hp, hr, hq, -, hfenced⟩ := cycle_trips i h.1 hx h4 hhot
    exact cycle_nexts h ⟨hp, hr, hq, hfenced⟩
  · intro j from' slew
    have ht := cycle_tracked i h.1 hcool hs hc hi hf
    simp only [Power.tracked, envTracked, Prod.mk.injEq] at ht
    obtain ⟨henv, hsegs, hseg, hindex, htarget⟩ := ht
    have hfrom : ((if (beginCycle s i).power.env = .armed then (beginCycle s i).power.draw.toNat * 100 else (beginCycle s i).power.target : Nat) : Int) = from' :=
      apply_ite Int.ofNat ..
    have hslew : (segSlew (beginCycle s i) x : Int) = slew := by
      unfold segSlew slew
      split <;> rfl
    refine cycle_nexts h ⟨henv, hsegs, hseg, hindex, ?_⟩
    rw [htarget, slewTo_clamp, hfrom, hslew]
    rfl
  · intro a done
    have hserve (hw : m.op = 2 → fn = 0 ∨ m.arg ≠ 0) {c : Word} {P : State → Prop}
        (hu : ∀ u : State, u.tamb.mbx = [(fn, m)] → u.tamb.throttle = s.tamb.throttle → u.tamb.parkHold = s.tamb.parkHold → MbxAnswered fn c P (serveMbx u (fn, m))) :
        done c P := by
      obtain ⟨u, he, hum, hut, hup⟩ := cycle_mail i h.1 hcool hm hw
      exact cycle_nexts h (he ▸ hu u hum hut hup)
    have hnot {k : Nat} (hk : k ≠ 2) (ho : m.op = k) : m.op = 2 → fn = 0 ∨ m.arg ≠ 0 := fun h2 => absurd (ho.symm.trans h2) hk
    refine ⟨fun ho hf ha hb => ?_, fun ho hf ha hb => ?_, fun ho hf ha => ?_, fun hbad => ?_⟩
    · exact hserve (hnot (by decide) ho) (fun u hu _ _ => (serveMbx_answered hu).1 ⟨ho, hf, ha, hb⟩)
    · exact hserve (hnot (by decide) ho) (fun u hu _ _ => (serveMbx_answered hu).2.1 ⟨ho, hf, ha, hb⟩)
    · exact hserve (hnot (by decide) ho) (fun u hu _ _ => (serveMbx_answered hu).2.2 ⟨ho, hf, ha⟩)
    · refine hserve (fun h2 => ?_) (fun u hu ht hp => ?_)
      · have hzero : m.arg = 0 → a = 0 := fun h0 => congrArg BitVec.toNat h0
        by_cases h0 : m.arg = 0
        · have := hzero h0
          exact .inl (by omega)
        · exact .inr h0
      · rw [← ht, ← hp]
        exact serveMbx_refused hu (by omega) (by omega) (by omega) (by omega)

end Sys2Proof.Machine
end
